-- ==== Sys2Proof/Word.lean ====
section
/-! DEFINITION. The word types, sparse tables in key order, and the plainest bit and byte helpers. -/

namespace Sys2Proof

/-- One byte. -/
abbrev Byte := BitVec 8
/-- One Thrumzeg-16 word (R229). -/
abbrev Word := BitVec 16
/-- One 32-bit register or packet word. -/
abbrev Word32 := BitVec 32
/-- One 64-bit register or host address. -/
abbrev Word64 := BitVec 64
/-- A sparse table: the listed keys with their values, keys rising; an unlisted key reads as the
default that the reader names. -/
abbrev Table (α : Type) := List (Nat × α)

/-- The value at key k, or the default d. -/
def Table.get {α : Type} (t : Table α) (d : α) (k : Nat) : α :=
  match t with
  | [] => d
  | (j, v) :: r => if k = j then v else Table.get r d k

/-- The table with key k set to v, keys kept rising. -/
def Table.set {α : Type} (t : Table α) (k : Nat) (v : α) : Table α :=
  match t with
  | [] => [(k, v)]
  | (j, w) :: r => if k < j then (k, v) :: (j, w) :: r else if k = j then (k, v) :: r else (j, w) :: Table.set r k v

/-- The table without key k. -/
def Table.erase {α : Type} (t : Table α) (k : Nat) : Table α := t.filter fun e => e.1 != k

/-- The table with every value replaced. -/
def Table.mapVals {α β : Type} (f : Nat → α → β) (t : Table α) : Table β := t.map fun e => (e.1, f e.1 e.2)

/-- The bits [lo + n - 1 : lo] of x as a number. -/
def bitsOf {w : Nat} (x : BitVec w) (lo n : Nat) : Nat := (x.toNat >>> lo) % 2 ^ n

/-- Bit i of x. -/
def bitOf {w : Nat} (x : BitVec w) (i : Nat) : Bool := x.getLsbD i

/-- The n low bytes of v, least significant first (R11). -/
def leBytes (n : Nat) (v : Nat) : List Byte := (List.range n).map fun i => BitVec.ofNat 8 (v >>> (8 * i))

/-- The number that a little-endian run of bytes holds (R11). -/
def ofLeBytes (l : List Byte) : Nat := l.foldr (fun b acc => b.toNat + 256 * acc) 0

/-- One more, but never above the largest value of the width: the counters that saturate. -/
def satInc {w : Nat} (x : BitVec w) : BitVec w := if x = BitVec.allOnes w then x else x + 1

/-- A Bool as a bit value. -/
def b2n (b : Bool) : Nat := if b then 1 else 0

/-- Whether a number is a multiple of a power or size, as alignment rules ask. -/
def aligned (x n : Nat) : Bool := x % n == 0

/-- The larger alignment of a quotient: n divided by k, rounded up. -/
def ceilDiv (n k : Nat) : Nat := (n + k - 1) / k

end Sys2Proof
end

