-- ==== Sys2Proof/Syntax.lean ====
section
/-! DEFINITION. The commands of the block: one constructor of Instr for each row of the opcode table,
with the operands that come from outside the die. Data that already lie on the die are not operands. -/

namespace Sys2Proof

/-- The space an access names: BAR0, BAR2 or the configuration space of module md (R38, R40, R61), or the device-internal
space as a sequencer reaches it for a channel of its tile (R35 to R37). -/
inductive Space where
  | bar0
  | bar2 (md : Nat)
  | cfg (md : Nat)
  | seqr (ch : Nat)
deriving DecidableEq, Repr

/-- A bank of the Scrim that an arbiter grants (R31). -/
inductive Bank where
  | hawkCell (k : Nat)
  | lath (tile : Nat)
  | portUnit (tile : Nat)
  | mac (m : Nat)
  | gpioAdc
  | fwcMram
  | egress (md : Nat)
deriving DecidableEq, Repr

/-- Who asks a bank arbiter: a master of R49, the queue arbiter, or the controller of a port (R189, R315). -/
inductive Requester where
  | master (m : Nat)
  | queueArbiter
  | port (p : Nat)
deriving DecidableEq, Repr

/-- What is wrong with a host's request that the die cannot serve (R71, R82). -/
inductive BadRequest where
  /-- A malformed request. -/
  | malformed
  /-- A request that carries poisoned data. -/
  | poisoned
  /-- A request of another kind than the die accepts; `posted` where no completion is due. -/
  | unsupported (posted : Bool)
deriving DecidableEq, Repr

/-- A host's request that the die cannot serve: the module on which it comes, what is wrong with it, and its header (R71, R82). -/
structure HostRequest where
  md : Nat
  what : BadRequest
  header : BitVec 128
deriving DecidableEq, Repr

/-- The beats that a request for a bank asks for, and how many beats of the transfer in progress have left as it comes (R316, R317). -/
structure Beats where
  beats : Nat
  left : Nat
deriving DecidableEq, Repr

/-- Why a host read failed, with the causes of R166 (HOST_READ_FAIL). -/
inductive ReadFail where
  | unsupported
  | aborted
  | poisoned
deriving DecidableEq, Repr

/-- Where an ECC error was found or what fault stands behind it (R29). -/
inductive EccLoc where
  | hawkCell (k : Nat)
  | lathEntry (ch : Nat)
  /-- An operand read or a fetch from local memory: the access and the register as in INFO, and the byte address (R280). -/
  | coreOperand (core ctx access reg : Nat) (addr : Word32)
  | coreVector (core ctx : Nat)
  | coreTsb (core ctx : Nat)
  | sequencerUnit (tile : Nat)
  | portUnit (tile : Nat)
  | dieUnit
  /-- A word of a copy of the boot block (R427, R428). -/
  | bootCopy (i : Nat)
  /-- A word of a journal record in the MRAM, by its SEQ (R428). -/
  | journalRecord (seq : Word64)
  /-- A word of a slot of the ledger area (R428, R432). -/
  | ledgerSlot (i : Nat)
deriving DecidableEq, Repr

/-- How one unit of a data CCW ended on its port (R163, R150, R182). -/
structure UnitResult where
  /-- Bytes received; more than COUNT where the port offered more. -/
  bytes : List Byte
  /-- The port ended the response with this unit. -/
  ended : Bool
  /-- The target refused (NACK). -/
  nack : Bool
  /-- No response within the port's timeout. -/
  timeout : Bool
  /-- A partner violation seen during the unit: its class and node, if the node is known (R363). -/
  viol : Option (Nat × Option Nat)
  /-- The port's protocol shows that the unit was not taken (R183). -/
  notTaken : Bool
deriving DecidableEq, Repr

/-- A unit that a port receives unasked (R348): a frame from its destination address to the end of the
payload with its length on the wire, a CAN frame with its record header, or a UART character. -/
inductive RxFrame where
  | eth (bytes : List Byte) (wire : Nat) (bad : Option Nat)
  | can (hdr : Word64) (bytes : List Byte) (bad : Option Nat)
  | uart (c : Byte) (bad : Option Nat)
deriving DecidableEq, Repr

/-- What the outside world makes of one start (R422 to R425): the first step that fails with the unit
that fails, and the facts that the steps read. -/
structure StartRun where
  /-- The step that fails and the number of the unit that fails in it; none passes every step. -/
  fail : Option (Nat × Nat)
  /-- The failure of S7 is one of module 1, or one of module 0 with module 1 trained (R423). -/
  mod1 : Bool
  /-- Module 1 is connected (R54). -/
  conn1 : Bool
  /-- Trained rate of module 0 and 1: 0 for 4 GT/s to 3 for 16 GT/s (R58). -/
  rate0 : BitVec 2
  rate1 : BitVec 2
  /-- The pair link came up within 50 ms (R451). -/
  linkUp : Bool
  /-- The partner's heartbeat: its role, its PAIR_ROLE strap and its serial number (R451, R462). -/
  partner : Option (BitVec 2 × Bool × Word64)
  /-- Microseconds from reset release to READY (PRM_READY_T). -/
  usReady : Word32
  /-- Microseconds from the first run of the frame-timer clock in S6 to the end of the start, or to its fence arbitration (R202). -/
  usTimer : Nat := 0
deriving DecidableEq, Repr

/-- The header of a received Dust Sheet frame (R455), with what the receiver finds of its CRC and LEN. -/
structure DsHdr where
  seq : BitVec 16
  ack : BitVec 16
  frame : BitVec 48
  crcOk : Bool
  lenOk : Bool
deriving DecidableEq, Repr

/-- The payload of a HEARTBEAT (R462). -/
structure Heartbeat where
  role : BitVec 2
  sub : BitVec 2
  hold : Bool
  halting : Bool
  rolePin : Bool
  stateVer : BitVec 16
  lastHb : Word32
  eqs0 : Word32
  eqs1 : Word32
  adj : Word32
  period : Word32
  version : Word32
  serial : Word64
deriving DecidableEq, Repr

/-- One record of a LATH frame (R456): channel, the 16 B groups that changed, and the recovery record. -/
structure LathRec where
  ch : Nat
  groups : List (Nat × BitVec 128)
  recov : Option (BitVec 128)
deriving DecidableEq, Repr

/-- One record of a QUEUE frame (R456). -/
structure QueueRec where
  q : Nat
  fetch : Word32
  prod : Word32
  head : Word32
  st : BitVec 3
  why : BitVec 4
  errIdx : Word32
  eqs : Word32
deriving DecidableEq, Repr

/-- One record of an EGRESS frame (R456): module, EQS, host address and the record's bytes. -/
structure EgressRec where
  md : Nat
  eqs : Word32
  addr : Word64
  bytes : List Byte
deriving DecidableEq, Repr

/-- One record of a BOUNDARY frame (R209, R456, R461): a Float remainder, that of a port's bus time, the JUMPS and portion progress
of a channel, the producer count of a queue, or the flags of the frame that has ended. -/
inductive BoundaryRec where
  | floatRem (cls idx : Nat) (rem : BitVec 25)
  | busRem (port cls : Nat) (rem : BitVec 20)
  | flags (f : BitVec 4)
  | progress (ch jumps : Nat) (data : Word64) (remain : BitVec 17)
  | prod (q : Nat) (count : Word32)
deriving DecidableEq, Repr

/-- One record of a CONFIG frame (R379, R456, R460): a register write, a commit with its frame, or an admin change: a binding, a
mailbox role, the node ID, a key, a routine or a handler set, what SET_ATTACH keeps, a stored calibration block. -/
inductive ConfigRec where
  | reg (off size : Nat) (v : Word64)
  | bind (ch q cells : Nat)
  | unbind (ch : Nat)
  | role (mb : Nat) (role : Byte) (epoch : BitVec 16)
  | node (n : BitVec 18)
  | budgets (frame : BitVec 48)
  | ports (mask : BitVec 128) (frame : BitVec 48)
  | latFloor (tol : BitVec 16) (l4ok : Bool) (frame : BitVec 48)
  | cal (port : Nat) (block : List Byte) (frame : BitVec 48)
  | swap (old new : Nat) (crn : Bool) (tiles : BitVec 8) (frame : BitVec 48)
  | key (slot : Nat) (id : BitVec 16) (rx tx : Bool) (key : List Byte)
  | keyGone (slot : Nat)
  | routine (tile num : Nat) (crn : Bool) (off bound : Nat) (mbx : Option Nat) (code : List Word)
  | routineGone (tile num : Nat) (crn : Bool)
  | handlers (tile : Nat) (crn : Bool) (off : Nat) (words : List Word)
  | attach (mode : BitVec 2) (subVendor subId : BitVec 16)
  | calStored (port : Nat) (block : List Byte)
deriving DecidableEq, Repr

/-- The commands. Numbers: m a master ID (R49), md a UCIe module, q a queue, ch a channel, core a core
as in CTXID (Trowel n as n, Cornice n as 0x40 + n), ctx a context, port a PORT code (R144). -/
inductive Instr where
  -- Doorbells and queue control
  | dbCount (m q : Nat) (count : Word32)
  | dbFetch (m q : Nat) (v : Word32)
  | queueEnable (m q : Nat) (pause : Bool)
  | queueDisable (m q : Nat) (pause : Bool)
  | queueRestart (m q : Nat) (pause : Bool)
  | queuePause (m q : Nat) (pause : Bool)
  -- Register accesses
  | registerWrite (sp : Space) (m off size : Nat) (v : Word64)
  | lowerHalfRead (m off : Nat)
  | rclrRead (sp : Space) (m off size : Nat)
  | windowWrite (m off : Nat) (bytes : List Byte)
  -- Host link
  | nlnkRelease (md : Nat) (v : Word32)
  | nlnkDiscard (md : Nat) (v : Word32)
  | conventionalReset (md : Nat)
  | powerStateChange (md : Nat) (d3 : Bool)
  | msixEnable (md : Nat) (funcMask : Bool)
  | vectorUnmask (md : Nat) (vec : Option Nat)
  | vectorMask (md : Nat) (vec : Option Nat)
  | vectorControlRead (md vec : Nat)
  | l1EntryRequest (md : Nat) (l2 : Bool)
  | linkIdleExpiry (md : Nat)
  | linkExitComplete (md : Nat)
  | pmeStatusClear (md : Nat)
  | d2dCrcError (md : Nat)
  | completionError (md idx : Nat) (cause : ReadFail)
  | completionTimeout (md idx : Nat)
  | unexpectedCompletion (md : Nat)
  | malformedRequest (r : HostRequest)
  | linkLeaveActive (md : Nat)
  | linkRetrainComplete (md : Nat) (rate : BitVec 2) (x8 : Bool)
  | moduleLoss (md : Nat)
  | linkGraceExpiry (md : Nat)
  -- Queue arbiter
  | queueTurn
  | phasePoll (q : Nat)
  | descriptorReadComplete (q : Nat) (slots : List (BitVec 128))
  | pcntReadComplete (q : Nat) (count : Word32)
  | start (q : Nat)
  | resume (q : Nat)
  | halt (q : Nat)
  | clear (q : Nat)
  | modify (q : Nat)
  | fence (q : Nat)
  | note (q : Nat)
  | pad (q : Nat)
  -- Channel programs
  | dispatch (ch : Nat)
  | ccwBlockArrive (ch : Nat) (words : List (BitVec 128))
  | write (ch : Nat)
  | read (ch : Nat)
  | control (ch : Nat)
  | sense (ch : Nat)
  | jump (ch : Nat)
  | ccwNop (ch : Nat)
  | waitf (ch : Nat)
  | waitfExpiry (ch : Nat)
  | waite (ch : Nat)
  | waiteTimeout (ch : Nat)
  | run (ch : Nat)
  | runDispatch (ch : Nat)
  | post (ch : Nat)
  | skipif (ch : Nat)
  | exch (ch : Nat)
  | signal (ch : Nat)
  | chEvtPendWrite (m ch : Nat) (bits : BitVec 16)
  | portUnitComplete (ch : Nat) (r : UnitResult)
  | cycleBoundExpiry (core ctx : Nat)
  -- Frame timer
  | tick (vddMv : BitVec 10) (temp : Int)
  | frameSyncFall
  | frmStep (m : Nat) (v : Word32)
  | frameSyncEdge (err : Int)
  | ptpHoldover
  | syncHoldover
  -- Thrumzeg-16
  | nop (core ctx : Nat)
  | mov (core ctx : Nat)
  | add (core ctx : Nat)
  | adc (core ctx : Nat)
  | sub (core ctx : Nat)
  | sbb (core ctx : Nat)
  | and (core ctx : Nat)
  | or (core ctx : Nat)
  | xor (core ctx : Nat)
  | not (core ctx : Nat)
  | neg (core ctx : Nat)
  | shl (core ctx : Nat)
  | shr (core ctx : Nat)
  | sar (core ctx : Nat)
  | rol (core ctx : Nat)
  | mul (core ctx : Nat)
  | mulhu (core ctx : Nat)
  | mulhs (core ctx : Nat)
  | divu (core ctx : Nat)
  | remu (core ctx : Nat)
  | movq (core ctx : Nat)
  | addq (core ctx : Nat)
  | cmp (core ctx : Nat)
  | tst (core ctx : Nat)
  | seq (core ctx : Nat)
  | sne (core ctx : Nat)
  | slt (core ctx : Nat)
  | sge (core ctx : Nat)
  | sltu (core ctx : Nat)
  | sgeu (core ctx : Nat)
  | sbs (core ctx : Nat)
  | sbz (core ctx : Nat)
  | sxx (core ctx : Nat)
  | skf (core ctx : Nat)
  | jmpr (core ctx : Nat)
  | callr (core ctx : Nat)
  | ret (core ctx : Nat)
  | jmpk (core ctx : Nat)
  | callk (core ctx : Nat)
  | jmp (core ctx : Nat)
  | call (core ctx : Nat)
  | retx (core ctx : Nat)
  | trap (core ctx : Nat)
  | exit (core ctx : Nat)
  | wfe (core ctx : Nat)
  | sev (core ctx : Nat)
  | waitt (core ctx : Nat)
  | waittExpiry (core ctx : Nat)
  | lseg (core ctx : Nat)
  | sseg (core ctx : Nat)
  | mfsr (core ctx : Nat)
  | mtsr (core ctx : Nat)
  | movk (core ctx : Nat)
  | loop (core ctx : Nat)
  | movb (core ctx : Nat)
  | fillb (core ctx : Nat)
  | bfext (core ctx : Nat)
  | bfins (core ctx : Nat)
  | clz (core ctx : Nat)
  | bperm (core ctx : Nat)
  | coreReadComplete (core ctx cycles : Nat)
  | interruptAccept (core : Nat)
  | coreRecoveryComplete (core : Nat) (testOk : Bool)
  | corniceLockTimeout (tile : Nat)
  | contextMigrate (core ctx : Nat)
  -- Hawk
  | hwkAlloc (m ctx : Nat)
  | hwkFree (m : Nat) (v : Word32)
  | hwkClsWrite (m acct : Nat) (v : Word32)
  | creditRefill (producer : Nat)
  | hawkGrantTimeout (ch : Nat)
  | eccCorrected (loc : EccLoc)
  | eccUncorrectableError (loc : EccLoc)
  -- Mailboxes and semaphores
  | mbxSend (m ctx mb : Nat) (v : Word32)
  | mbxPop (m ctx mb : Nat)
  | mbxDisable (m mb : Nat) (v : Word32)
  | semAcquire (m n : Nat)
  | semRelease (m n : Nat) (v : Word32)
  | semForce (m n : Nat)
  -- Scrim arbiters
  | scrimRequest (bank : Bank) (who : Requester) (b : Beats) (cls : Option Nat)
  | scrimTransferComplete (arb : Nat)
  | scrimWatchdogBite (arb : Nat)
  | scrimFreeze (m arb : Nat) (v : Word32)
  -- Interrupt controller
  | lineEvent (src : Nat) (level : Bool)
  | icScfgWrite (m src : Nat) (v : Word32)
  | icTake (m t : Nat) (n : BitVec 11)
  | icTakeRead (m t : Nat)
  | icDone (m t : Nat) (n : BitVec 11)
  | icSwset (m : Nat) (n : BitVec 11)
  | icFlush (m : Nat) (v : Word32)
  | moderationDeadline (md vec : Nat)
  -- Field ports
  | portFault (port cause : Nat)
  | faultClearTimeout (port : Nat)
  | busOffRecoveryComplete (port : Nat)
  | clrFault (m port : Nat) (absent : Bool)
  | lift (m port : Nat) (node : BitVec 24)
  | liftAll (m port : Nat)
  | diag (m port : Nat) (readings : List Word32)
  | frameReceive (port : Nat) (f : RxFrame)
  | rxholdExpiry (port : Nat)
  | rxTimeout (ch : Nat)
  | modbusResponseTimeout (ch : Nat)
  | sclStretchTimeout (port : Nat)
  | beaconHoldExpiry (port : Nat)
  | lineTest (ch : Nat) (readings : List Word32)
  | plcaSync (ch : Nat)
  | rxFlush (ch : Nat)
  | brk (ch : Nat)
  | idleClocks (ch : Nat)
  | busRecovery (ch : Nat)
  | linkRestart (ch : Nat)
  | gpioEdge (port line : Nat) (level : Bool)
  | gpioTimerMatch (port line : Nat)
  | pwmPeriodStart (port line : Nat)
  | adcConversion (input : Nat) (code : BitVec 12)
  | adcMonitor (input : Nat) (code : BitVec 12)
  | gateEntryExpiry (mac : Nat)
  | ethTxtsPop (m mac : Nat)
  -- Admin queue
  | aqProd (m : Nat) (v : Word32)
  | aqRcons (m : Nat) (v : Word32)
  | aqEnable (m : Nat)
  | aqDisable (m : Nat)
  | aqRestart (m : Nat)
  | adminPacketRead (words : List Word32)
  | identify
  | getFeatures
  | setAttach
  | queueQuery
  | bindChannel
  | unbindChannel
  | routineLoad (code : List Word)
  | handlerSetLoad (code : List Word)
  | routineUnload
  | budgetCommit
  | latFloor
  | portCommit
  | calibrateMeasure (block : List Byte)
  | calibrateLoad (block : List Byte)
  | calibrateRead
  | calibrateStore
  | fwStage (bytes : List Byte)
  | fwVerify
  | fwActivate
  | fwActivateLive
  | fwConfirm
  | journalRead
  | sleepNotice
  | pairStatus
  | pairJoin
  | pairHandover
  | pairLeave
  | kmdNode
  | kmdKeySet
  | kmdKeyRetire
  | kmdRole
  -- Power
  | domainIdleExpiry (d : Nat)
  | wakeRequest (d : Nat) (cause : BitVec 4)
  | domainWakeComplete (d : Nat)
  | l4Entry
  | l4TimerWake
  | pairPresentFall
  | ucieL2Exit (md : Nat)
  | l4ExitComplete (elapsed : Nat)
  | supplyWarn (rail : Nat)
  | supplyWarnRelease (rail : Nat)
  | holdTimeout
  | supplyReset (rail : Nat)
  | refclkLoss
  | xtalStop
  | groupReset (m g : Nat)
  -- Start and update
  | coldStart (r : StartRun)
  | warmrstFall
  | warmStart (r : StartRun)
  | prmRestart (m : Nat)
  | selfRestart (r : StartRun)
  | clrRetry (m : Nat)
  | clrFallback (m : Nat)
  | prmSwap (m : Nat) (v : Word64)
  | gctlFreeze (m : Nat) (v : Word64)
  | gctlFreezeCrn (m : Nat) (v : Word32)
  | journalFlush
  -- Redundant pair
  | heartbeat (h : DsHdr) (b : Heartbeat)
  | heartbeatCheck
  | ack (h : DsHdr)
  | nack (h : DsHdr) (expect : BitVec 16)
  | ledger (h : DsHdr) (entries : List (BitVec 256))
  | lath (h : DsHdr) (recs : List LathRec)
  | queue (h : DsHdr) (recs : List QueueRec)
  | egress (h : DsHdr) (recs : List EgressRec)
  | boundary (h : DsHdr) (recs : List BoundaryRec)
  | config (h : DsHdr) (recs : List ConfigRec)
  | bulk (h : DsHdr) (laths : List LathRec) (queues : List QueueRec) (cfgs : List ConfigRec)
  | join (h : DsHdr) (step : Byte) (stateVer : BitVec 16)
  | handover (h : DsHdr) (eqs0 eqs1 : Word32)
  | align (lane : Nat)
  | tickOrderedSet (frame : BitVec 48) (off : Int)
  | fenceEcho (level : Bool)
  | ackTimeout
  | fenceInRise
  | fenceWatchExpiry (level : Bool)
  | fenceArbitrationRound (sample1 sample2 : Bool)
  | laneDown (lane : Nat)
  | laneUp (lane : Nat)
  -- Komond
  | kmdData (mac : Nat) (bytes : List Byte)
  | kmdAck (mac : Nat) (bytes : List Byte)
  | kmdRefuse (mac : Nat) (bytes : List Byte)
  | kmdBounce (mac : Nat) (bytes : List Byte)
  | kmdAnnounce (mac : Nat) (bytes : List Byte)
  | komondRetx (ch : Nat)
  -- Debug access port
  | dbgAccess (dr : BitVec 66)
  | idcode
  | bypass
  | samplePreload (pins : List Bool)
  | extest
  -- Pins and late rows of the table
  | porNFall
  | xtalStart
  | slewEnd
  | uartIdleLineExpiry (port : Nat)
  | dataReadComplete (ch : Nat) (bytes : List Byte)
  | earlyLinkExit (md : Nat)
  | smbalertAssert (port : Nat)
  | plcaBeacon (port : Nat) (found : Bool)
deriving DecidableEq, Repr

end Sys2Proof
end

