-- ==== Sys2Proof/Config.lean ====
section
/-! DEFINITION. What is fixed for one die and what the spec leaves open as a value: fused facts and
free values. Nothing here has a body that a proof could look into. -/

namespace Sys2Proof.Config

/-- The fused 64-bit Device Serial Number (R60). -/
opaque serial : Word64
/-- The fused temperature grade: false is I, true is E (R4). -/
opaque gradeE : Bool
/-- The fused hash of firmware key i (R436); a published hash, so a free value here. -/
opaque keyHash : Nat → List Byte
/-- Whether firmware key i is revoked by fuse (R436). -/
opaque keyRevoked : Nat → Bool
/-- The fused floor of the security version (R436, PRM_SVN). -/
opaque svnFuse : Word32
/-- SHA-256 of a run of bytes (R422, R436): a published function, left uninterpreted. -/
opaque sha256 : List Byte → List Byte
/-- ECDSA P-256: public key, signature and message hash pass (R436), left uninterpreted. -/
opaque ecdsaOk : List Byte → List Byte → List Byte → Bool
/-- AES-CMAC under a key (R394, R477), 16 bytes, left uninterpreted. -/
opaque aesCmac : List Byte → List Byte → Vector Byte 16
/-- The n-th open value of a run: words that the spec calls not defined (R291), read in the order in
which the counter of the state hands them out. -/
opaque freeWord : Nat → Word
/-- The n-th open byte of a run. -/
opaque freeByte : Nat → Byte
/-- The cell that the allocator proposes at a grant: the spec says from which slice a cell comes and not
which of its free cells (R297). A proposal that is not a free cell of that slice is not followed. -/
opaque freeCell : Nat → Nat
/-- The correction in ppb that the proportional-integral servo of R206 writes, given the present ADJ and
the signed error: the spec states no gains. -/
opaque servoAdj : Word32 → Int → Word32
/-- The phase correction in 10 ns units that the servo of R206 slews, given the signed error. -/
opaque servoSlew : Int → Int
/-- Edges that the capture buffer of a GPIO line holds before it overflows (R364): the spec states no depth. -/
opaque capDepth : Nat
/-- Which master ID of R49 the accesses of the queue arbiter carry, by its place in the table: R49 gives it no row. -/
opaque arbiterId : Nat
/-- Which master ID of R49 the accesses of the controller of a port carry, by its place in the table: R49 gives it no row. -/
opaque portId : Nat → Nat
/-- The bus time of the words 32 to 127 of a sense block that a port's own measurement fills (R367). -/
opaque senseWord : Nat → Nat → Word32

/-- PAYLOAD of the journal record of a retrain, given the new rate and whether the link runs at x8 (R59): the spec lays
out no such record. -/
opaque retrainPayload : BitVec 2 → Bool → Nat

/-- The trims and temperature that a measurement of a port at start n finds, as bytes 8 on of its block (R422, R446): a
measured value. -/
opaque measuredTrims : Nat → Nat → List Byte
/-- The fused default calibration block of the ADC (R424). -/
opaque fusedAdc : List Byte

end Sys2Proof.Config
end

