-- ==== Sys2Proof/Machine/Parts.lean ====
section
/-! DEFINITION. The parts of the state: one structure for each block of the die. Every field's comment
names the rule and the reset value; 'model' marks a field that is the model's own bookkeeping. -/

namespace Sys2Proof.Machine

/-! ### Host link -/

/-- Who asked for a host read (R56, R66, R82). -/
inductive ReadReq where
  | desc (q : Nat) (cnt : Word32) (n : Nat) (again : Bool)
  | poll (q : Nat)
  | pcnt (q : Nat)
  | ccw (ch : Nat) (addr : Word64)
  | data (ch : Nat) (addr : Word64) (len : Nat)
  | list (ch : Nat) (addr : Word64)
  /-- A descriptor read of a queue whose slots are discarded when they come: an older one than a RESTART (R128). -/
  | staleDesc (q : Nat)
  /-- A read of a channel whose data are discarded when they come (R154). -/
  | stale (ch : Nat)
  | admin
  /-- Data of the admin command read at a packet count (R387, R390, R391). -/
  | adminData (cnt : Word32)
deriving DecidableEq, Repr

/-- One host read of a module: its owner, its 64 B units, and whether it is charged to a GUARANTEED
class (R66, R67). -/
structure HostRead where
  req : ReadReq
  /-- Read requests (tags) it takes (R66). -/
  tags : Nat
  units : Nat
  guar : Bool
deriving DecidableEq, Repr

/-- What an interim record reports done (R175): a PI record the effect of its CCW, by its ledger entry and its MRAM slot; a POST the
effects below an ordinal of an anchor generation, and their MRAM slots. -/
inductive Reported where
  | one (slot mslot : Option Nat)
  | below (gen floor : BitVec 16) (mslots : List Nat)
deriving DecidableEq, Repr

/-- What a write in an egress queue is (R118, R120, R162, R167, R333, R376). -/
inductive EgKind where
  | data (ch : Nat)
  | interim (ch : Nat) (what : Reported)
  | final (q : Nat) (cnt : Word32) (ch : Nat) (code : BitVec 16) (ccw : Word64)
  | entry (q : Nat) (cnt : Word32)
  | head (q : Nat)
  | msix (vec : Nat)
  | reply
  | admin (cnt : Word32)
  | msg
deriving DecidableEq, Repr

/-- One write (or message) of an egress queue, numbered by EQS (R462). -/
structure Egress where
  kind : EgKind
  addr : Word64
  bytes : List Byte
  eqs : Word32
  relaxed : Bool
  /-- The Hawk cells that keep it while it is held (R86); reset none. -/
  cells : List Nat := []
deriving DecidableEq, Repr

/-- One MSI-X table entry (R40, R65). -/
structure MsixEnt where
  addr : Word64 := 0
  data : Word32 := 0
  mask : Bool := true
deriving DecidableEq, Repr

/-- The configuration space of one function and what a conventional reset returns (R60 to R65). -/
structure LinkCfg where
  /-- Memory Space Enable (R63); reset 0. -/
  memEn : Bool := false
  /-- Bus Master Enable (R63); reset 0. -/
  busEn : Bool := false
  /-- BAR0 with its upper half (R62); reset unassigned. -/
  bar0 : Word64 := 0
  /-- BAR2 with its upper half (R62); reset unassigned. -/
  bar2 : Word64 := 0
  /-- D3hot (R64); reset D0. -/
  d3 : Bool := false
  /-- PME_En (R81); reset 0 (log 4). -/
  pmeEn : Bool := false
  /-- PME_Status (R81); reset 0 (log 4). -/
  pmeStatus : Bool := false
  /-- MSI-X Enable (R65); reset 0. -/
  msixEn : Bool := false
  /-- MSI-X Function Mask (R73); reset 0 (log 4). -/
  funcMask : Bool := false
  /-- Max_Payload_Size code (R66); reset 0, 128 B (log 4). -/
  mps : BitVec 3 := 0
  /-- Max_Read_Request_Size code (R66); reset 2, 512 B (log 4). -/
  mrrs : BitVec 3 := 2
  /-- Enable Relaxed Ordering (R68); reset 1 (log 4). -/
  roEn : Bool := true
  /-- 10-Bit Tag Requester Enable (R66); reset 0 (log 4). -/
  tag10 : Bool := false
  /-- Completion Timeout Value (R70); reset 0. -/
  cto : BitVec 4 := 0
  /-- SERR# Enable of Command (R82); reset 0 (log 4). -/
  serr : Bool := false
  /-- AER uncorrectable status (R82); reset 0 (log 4). -/
  aerUnc : Word32 := 0
  /-- AER uncorrectable mask (R82); reset 0 (log 4). -/
  aerMask : Word32 := 0
  /-- AER uncorrectable severity (R82); reset 0x0006_2030 (log 4). -/
  aerSev : Word32 := 0x00062030
  /-- AER correctable status (R82); reset 0 (log 4). -/
  aerCor : Word32 := 0
  /-- AER correctable mask (R82); reset 0x2000, the advisory errors masked (log 4). -/
  aerCorMask : Word32 := 0x2000
  /-- AER First Error Pointer (R82); reset 0 (log 4). -/
  aerFirst : BitVec 5 := 0
  /-- AER Header Log (R82); reset 0 (log 4). -/
  aerHdr : BitVec 128 := 0
  /-- Device Control's reporting enables: correctable, non-fatal, fatal, Unsupported Request (R82); reset 0 (log 4). -/
  errEn : BitVec 4 := 0
  /-- Device Status' detected bits in the same order (R82); reset 0 (log 4). -/
  devStat : BitVec 4 := 0
  /-- NLNK_CFG.LINK_IDLE (R78); reset 0x0A. -/
  linkIdle : BitVec 8 := 0x0A
  /-- NLNK_CFG.LL_ACTION (R85); reset 0. -/
  llAction : BitVec 2 := 0
  /-- NLNK_GRACE.GRACE (R85); reset 0x01F4. -/
  grace : BitVec 16 := 0x01F4
  /-- MSI-X table (R40, R65); reset address 0, data 0, masked. -/
  msix : Table MsixEnt := []
  /-- Pending-bit array: the vectors whose bit is 1 (R73); reset none. -/
  pba : List Nat := []
deriving DecidableEq, Repr

/-- Messages a function sends (R66). -/
inductive LinkMsg where
  | pmPme
  | errCor
  | errNonfatal
  | errFatal
deriving DecidableEq, Repr

/-- One UCIe module and its function. -/
structure Link where
  cfg : LinkCfg := {}
  /-- NLNK_STAT.CRC_RETRY (R82); reset 0. -/
  crcRetry : BitVec 16 := 0
  /-- NLNK_STAT.RETRAIN (R59); reset 0. -/
  retrain : BitVec 8 := 0
  /-- NLNK_STAT.DOWN (R83); reset 0. -/
  down : BitVec 4 := 0
  /-- NLNK_STAT.LSTATE: 0 Active, 1 L1, 2 L2, 3 training (R77); reset 0. -/
  lstate : BitVec 2 := 0
  /-- NLNK_STAT.X8 (R59); state, reset 0 (log 4). -/
  x8 : Bool := false
  /-- Rate in force: 0 for 4 GT/s to 3 for 16 GT/s (R58); reset 0 (log 4). -/
  rate : BitVec 2 := 0
  /-- The module is connected (R54); outside the die, known from S7 on; reset 1. -/
  conn : Bool := true
  /-- Trained and in use, as GCTL_TOPO.UCIE_UP shows (R47, R58); reset 0. -/
  up : Bool := false
  /-- The module is lost (R83); reset 0. -/
  lost : Bool := false
  /-- An exit from L1 or L2 is under way (R77); reset 0. -/
  exiting : Bool := false
  /-- LL_ACTION in force when the module was lost (R85); reset 0. -/
  llAtLoss : BitVec 2 := 0
  /-- Traffic is held until RELEASE or DISCARD (R85 to R87); reset 0. -/
  holding : Bool := false
  /-- GRACE ran out with the module lost and its traffic is still held (R85); reset 0. -/
  graceOver : Bool := false
  /-- Held writes in their original order (R86); reset none. -/
  held : List Egress := []
  /-- Egress queue, oldest first (R74, R120); reset empty. -/
  queue : List Egress := []
  /-- Writes sent and not yet acknowledged by the adapter (R84); reset none. -/
  unacked : List Egress := []
  /-- Writes at the front of the egress queue that are replayed after a loss, ahead of which no read is issued (R84); reset 0. -/
  replaying : Nat := 0
  /-- EQS of the newest write (R462); reset 0 (log 4). -/
  eqs : Word32 := 0
  /-- EQS last acknowledged by the adapter (R462); reset 0 (log 4). -/
  ackEqs : Word32 := 0
  /-- Messages sent, newest first (R66); model; reset none. -/
  sent : List LinkMsg := []
  /-- Reads outstanding, oldest first (R66); reset none. -/
  reads : List HostRead := []
  /-- Reads that wait for a tag or a read unit (R66, R67); reset none. -/
  waiting : List HostRead := []
deriving DecidableEq, Repr

/-! ### Queues -/

/-- One entry bound and not yet passed by HEAD (R116). -/
structure Entry where
  /-- Count of its first slot (R91). -/
  cnt : Word32
  /-- Its slots as read (R95). -/
  slots : List (BitVec 128)
  /-- Its row of R116 has acted. -/
  applied : Bool
  /-- Its status record stands, or it is a PAD that has acted (R118). -/
  done : Bool
  /-- Its record was dropped by DISCARD (R198): a FINAL record with the CCW it named, or an ENTRY record (none). -/
  dropped : Option (Option Word64)
  /-- The record of a FENCE is made and waits at a gate or is held (R123). -/
  sent : Bool := false
deriving DecidableEq, Repr

/-- The states of a queue (R129), coded as in the head record. -/
inductive QState where
  | disabled
  | running
  | paused
  | error
  | draining
deriving DecidableEq, Repr

/-- One work queue: QCFG[n] and the arbiter's state for it. -/
structure Queue where
  /-- QCFG_RING (R133); reset 0. -/
  ring : Word64 := 0
  /-- QCFG_STAT (R133); reset 0. -/
  stat : Word64 := 0
  /-- QCFG_HREC (R133); reset 0. -/
  hrec : Word64 := 0
  /-- QCFG_PCNT (R133); reset 0. -/
  pcnt : Word64 := 0
  /-- QCFG_CFG.SIZE (R89); reset 0. -/
  size : BitVec 4 := 0
  /-- QCFG_CFG.MODE: true is PHASE (R108); reset 0. -/
  phase : Bool := false
  /-- QCFG_CFG.CLASS: true is CONFIG (R126); reset 0. -/
  config : Bool := false
  /-- QCFG_CFG.MODULE (R56); reset 0. -/
  module : Bool := false
  /-- QCFG_CFG.WEIGHT (R113); reset 1. -/
  weight : BitVec 8 := 1
  /-- QCFG_CFG.BURST (R113); reset 1. -/
  burst : BitVec 6 := 1
  /-- QCFG_CFG.WCLS (R116); reset 0. -/
  wcls : BitVec 6 := 0
  /-- QCFG_TIME.LAT_TOL as written (R133); reset 0x03E8. -/
  latTol : BitVec 16 := 0x03E8
  /-- QCFG_TIME.POLL as written (R110); reset 0x0A. -/
  poll : BitVec 8 := 0x0A
  /-- LAT_TOL in force since the last tick (R133, R438); reset 0x03E8. -/
  latTolAct : BitVec 16 := 0x03E8
  /-- POLL in force since the last tick (R133, R438); reset 0x0A. -/
  pollAct : BitVec 8 := 0x0A
  /-- QCFG_INIT (R91); reset 0. -/
  init : Word32 := 0
  /-- QCFG_CTL.PAUSE (R129); reset 0. -/
  pause : Bool := false
  /-- QCFG_STATE.STATE (R129); reset DISABLED. -/
  st : QState := .disabled
  /-- FENCE at which the queue waits: its count (R123); reset none. -/
  fence : Option Word32 := none
  /-- QCFG_STATE.WHY (R124); reset 0. -/
  why : BitVec 4 := 0
  /-- QCFG_STATE.CFG_ERR (R130); reset 0. -/
  cfgErr : BitVec 3 := 0
  /-- QCFG_STATE.DB_BAD (R104); reset 0. -/
  dbBad : BitVec 8 := 0
  /-- QCFG_ERRIDX (R119); reset 0. -/
  errIdx : Word32 := 0
  /-- QCFG_HEAD (R92); reset 0. -/
  head : Word32 := 0
  /-- QCFG_PROD (R92); reset 0. -/
  prod : Word32 := 0
  /-- FETCH (R91); reset 0. -/
  fetch : Word32 := 0
  /-- Slots read and not bound, from FETCH on (R115); reset none. -/
  onDie : List (BitVec 128) := []
  /-- A descriptor read is outstanding or waits (R115, R132); reset 0. -/
  reading : Bool := false
  /-- The descriptor read that waits for one of the die's 64 places (R115); reset none. -/
  wantRead : Option ReadReq := none
  /-- Entries that the open turn of a PHASE queue may still bind as its headers come (R110); reset 0. -/
  turnLeft : Nat := 0
  /-- WHY of a failed read that stops the queue once the entries read before it are bound, 0 none (R125); reset 0. -/
  failing : Nat := 0
  /-- Entries bound and not passed by HEAD, in count order (R116, R118); reset none. -/
  bound : List Entry := []
  /-- Credit left in the round (R113); reset 0. -/
  credit : Nat := 0
  /-- WEIGHT and BURST that the present round uses (R114); reset 1 and 1. -/
  roundWeight : BitVec 8 := 1
  roundBurst : BitVec 6 := 1
  /-- A producer-count read is to be issued once reads may be issued (R105, R107); reset none. -/
  wantPcnt : Bool := false
  /-- The fields of the last head record as written, to see a change (R120); reset none. -/
  lastHead : Option (Word32 × QState × Bool × BitVec 4 × Word32) := none
  /-- HEAD values whose completion is to be raised with the next head record (R122); model. -/
  raise : Bool := false
  /-- Counts from HEAD on whose records this standby mirrors (R195, R460); model. -/
  seen : List Word32 := []
  /-- The slots from HEAD to FETCH are being read again after a takeover (R195); model. -/
  retake : Bool := false
  /-- Slots read again of an entry that is not whole yet (R195, R199); model. -/
  part : List (BitVec 128) := []
deriving DecidableEq, Repr

/-! ### Channels -/

/-- The states of a channel (R135), in the order of their codes. -/
inductive CState where
  | idle
  | startPending
  | active
  | waitTick
  | waitEvent
  | suspended
  | statusPending
  | halted
  | error
deriving DecidableEq, Repr

/-- Why a channel is parked (R217, R220). -/
inductive ParkWhy where
  | none
  | budget
  | portion
  | context
  | timeLeft
  | ledger
  | cornice
deriving DecidableEq, Repr

/-- Where the round robin of a tile's dispatch, or of a port's units, stands (R212): the channel number from which the next one is looked
for, for GUARANTEED, BEST_EFFORT and each SHAPED class; the SHAPED class served last, and how many channels it may still give. -/
structure Turn where
  guar : Nat := 0
  best : Nat := 0
  shaped : Table Nat := []
  cls : Nat := 63
  left : Nat := 0
deriving DecidableEq, Repr

/-- What the current data CCW waits for (R154, R163, R177, R187). -/
inductive XPhase where
  /-- Nothing has started. -/
  | none
  /-- The indirect list is being read. -/
  | list
  /-- Output data are being read. -/
  | data
  /-- The gate of R177 before the first unit. -/
  | gate
  /-- A unit is ready to start and waits for its port or its budget. -/
  | ready
  /-- A unit is on the wire, or a routine runs. -/
  | wire
  /-- A READ waits for buffered input. -/
  | input
  /-- Received bytes wait for Hawk cells. -/
  | cells
  /-- A RUN waits for its context. -/
  | run
  /-- A SIGNAL waits for its node. -/
  | node
  /-- Received bytes wait until the module takes writes to host memory (R63, R64, R85). -/
  | host
  /-- So does the interim record of a CCW with PI that is complete, -/
  | hostPi
  /-- of a WAITF or WAITE that has ended, -/
  | hostWait
  /-- or of a POST. -/
  | hostPost
deriving DecidableEq, Repr

/-- The transfer of the current data CCW or data chain: model bookkeeping for CH_DATA and CH_XFER. -/
structure Xfer where
  /-- CMD of the first CCW of the chain (R148). -/
  cmd : Nat := 0
  /-- PARAM of the first CCW of the chain (R148). -/
  param : Word32 := 0
  /-- Address of the first CCW of the chain. -/
  first : Word64 := 0
  /-- RS of the chain (R148). -/
  rs : Bool := false
  /-- SL of the present CCW (R148, R150). -/
  sl : Bool := false
  /-- Some CCW of the chain carries PI (R162). -/
  pi : Bool := false
  /-- What it waits for. -/
  phase : XPhase := .none
  /-- Pieces of data still to be read or filled: address in the form of R140 and length. -/
  pieces : List (Word64 × Nat) := []
  /-- Payload offset reached in a Hawk piece. -/
  off : Nat := 0
  /-- Every piece of the transfer so far, for CH_DATA (R163, R170). -/
  spans : List (Word64 × Nat) := []
  /-- Bytes of an indirect data list read so far (R151). -/
  listBuf : List Byte := []
  /-- The cost of the unit that is due has been charged (R215). -/
  paid : Bool := false
  /-- A dispatch slot is due with the next unit, after a park (R213). -/
  owesSlot : Bool := false
  /-- Every piece of an EXCH, where its response goes (R145). -/
  dest : List (Word64 × Nat) := []
  /-- The CCWs of the transfer so far with their byte counts, in order: address and bytes (R148). -/
  parts : List (Word64 × Nat) := []
  /-- Bytes moved by the transfer. -/
  total : Nat := 0
  /-- Output bytes in hand and not yet sent (R187). -/
  out : List Byte := []
  /-- Bytes of the unit on the wire or due. -/
  unit : Nat := 0
  /-- Times the present unit was repeated (R182). -/
  retries : Nat := 0
  /-- Units of the transfer that have ended. -/
  units : Nat := 0
  /-- Condition bits [7:0] gathered (R152). -/
  cond : Nat := 0
  /-- Condition bits of the present CCW that its units have set so far. -/
  bits : Nat := 0
  /-- SL of each CCW of `parts`. -/
  sls : List Bool := []
  /-- CC of a WAITF or WAITE whose block has been discarded. -/
  cc : Bool := false
  /-- The output part of the transfer is DONE (R176). -/
  outDone : Bool := false
  /-- Ledger entry of the effect: index (R466). -/
  slot : Option Nat := none
  /-- MRAM ledger slot of the effect (R432). -/
  mslot : Option Nat := none
  /-- The frame whose acknowledgement opens the gate of R177. -/
  gate : Option Nat := none
  /-- The chain of an input with NEW = 1 has been started (R141). -/
  newDone : Bool := false
  /-- Received bytes that wait for Hawk cells (R300). -/
  hold : List Byte := []
  /-- The port has ended the response. -/
  ended : Bool := false
  /-- The response of an EXCH is being received. -/
  reply : Bool := false
  /-- SEQ of the Komond message a remote SIGNAL waits for, and its retransmissions (R481). -/
  kmdSeq : Option (Word32 × Nat) := none
  /-- TIME at which its frame was last sent (R481). -/
  kmdAt : Nat := 0
  /-- The effect counts as complete in a replay: its condition bits and residual (R197, R471). -/
  skip : Option (BitVec 8 × Nat) := none
  /-- Role and epoch that the message is addressed to (R481). -/
  kmdRole : BitVec 8 := 0
  kmdEpoch : BitVec 16 := 0
deriving DecidableEq, Repr

/-- One channel: its Lath entry (CH registers), its recovery record and the sequencer's state for it. -/
structure Chan where
  /-- CH_STATE.STATE (R135); reset IDLE. -/
  st : CState := .idle
  /-- CH_STATE.PARKED; reset 0. -/
  parked : Bool := false
  /-- CH_STATE.HALT_REQ (R137); reset 0. -/
  haltReq : Bool := false
  /-- CH_STATE.JUMPS (R156); reset 0. -/
  jumps : Nat := 0
  /-- CH_STATE.LAST_STATUS (R168); reset 0. -/
  lastStatus : BitVec 16 := 0
  /-- CH_BIND.QUEUE (R117); reset 0. -/
  queue : Nat := 0
  /-- CH_BIND.BOUND (R117); reset 0. -/
  bound : Bool := false
  /-- CH_BIND.CTX; reset 0. -/
  ctx : Nat := 0
  /-- CH_BIND.WCLS (R116); reset 0. -/
  wcls : Nat := 0
  /-- CH_BIND.CRN; reset 0. -/
  crn : Bool := false
  /-- CH_BIND.IN_RUN; reset 0. -/
  inRun : Bool := false
  /-- CH_BIND.CORE; reset 0. -/
  core : Nat := 0
  /-- CH_CCWA; reset 0. -/
  ccwa : Word64 := 0
  /-- CH_ARG; reset 0. -/
  arg : Word64 := 0
  /-- CH_DATA; reset 0. -/
  data : Word64 := 0
  /-- CH_XFER.REMAIN; reset 0. -/
  remain : Nat := 0
  /-- CH_XFER.PORTIONS; reset 0. -/
  portions : BitVec 8 := 0
  /-- CH_COND.COND (R152); reset 0. -/
  cond : BitVec 16 := 0
  /-- CH_COND.CHAIN and CHAIN_V (R141); reset none. -/
  chain : Option Nat := none
  /-- CH_IREC (R162); reset 0. -/
  irec : Word64 := 0
  /-- CH_ICFG.IRSZ (R162); reset 0. -/
  irsz : BitVec 4 := 0
  /-- CH_ICFG.IEN (R162); reset 0. -/
  ien : Bool := false
  /-- CH_ICFG.ISEQ (R162); reset 0. -/
  iseq : BitVec 16 := 0
  /-- CH_EVT.PEND (R159); reset 0. -/
  pend : BitVec 16 := 0
  /-- CH_EVT.MASK (R159); reset 0. -/
  mask : BitVec 16 := 0
  /-- CH_LSEG.BASE (R143); reset 0. -/
  lbase : Nat := 0
  /-- CH_LSEG.CELLS (R143); reset 0. -/
  lcells : Nat := 0
  /-- CH_USER (R170); reset 0. -/
  user : Word32 := 0
  /-- Recovery record: ANCHOR (R469); reset 0 (log 5). -/
  anchor : Word64 := 0
  /-- Recovery record: GEN (R469); reset 0 (log 5). -/
  gen : BitVec 16 := 0
  /-- Recovery record: NEXT_ORD (R469); reset 0 (log 5). -/
  nextOrd : BitVec 16 := 0
  /-- Recovery record: RFLOOR (R469); reset 0 (log 5). -/
  rfloor : BitVec 16 := 0
  /-- The START or RESUME that began the program: queue, count, TAG, IE (R165); model. -/
  began : Option (Nat × Word32 × BitVec 16) := none
  /-- HALT or CLEAR entry that waits for the end of the program: queue and count (R136); model. -/
  waiting : List (Nat × Word32) := []
  /-- CCW blocks held: block address and its four CCWs (R154); reset none. -/
  blocks : List (Word64 × List (BitVec 128)) := []
  /-- A block whose read failed, with the cause (R82, R166); reset none. -/
  badBlock : Option (Word64 × Nat) := none
  /-- A CCW at CCWA has been checked and waits for its row (R146); model. -/
  fetched : Bool := false
  /-- The next CCW is a continuation of a data chain (R148); model. -/
  inChain : Bool := false
  /-- SU of the next CCW is ignored once (R158); model. -/
  suOnce : Bool := false
  /-- The CCW before was a JUMP (R156); model. -/
  afterJump : Bool := false
  /-- Frame at which a WAITF ends or a WAITE times out (R145, R159); model. -/
  due : Option Nat := none
  /-- PORT code of the most recent port CCW of the program (R269); model. -/
  lastPort : Option Nat := none
  /-- Reason and order of the present park (R217, R218); model. -/
  why : ParkWhy := .none
  parkOrder : Nat := 0
  /-- Released from a park before a CCW and not yet dispatched (R218); model. -/
  released : Bool := false
  /-- In a replay after a takeover, the ORD below which effects may count as complete (R471); model. -/
  replayTo : Nat := 0
  /-- The channel waits to be taken up after a takeover (R196); model. -/
  takeDue : Bool := false
  /-- The entry has had an uncorrectable error: it is retired for the rest of the run (R29); reset 0. -/
  retired : Bool := false
  /-- The final code waiting for the record (R138); model. -/
  ending : Option (BitVec 16) := none
  xfer : Xfer := {}
deriving DecidableEq, Repr

/-! ### Float -/

/-- One set of class registers FLT_CFG to FLT_URD1 (R221). -/
structure Budgets where
  /-- FLT_CFG.KIND; reset 0. -/
  kind : BitVec 2 := 0
  /-- FLT_CFG.OVR; reset 0. -/
  ovr : Bool := false
  /-- FLT_CFG.WEIGHT; reset 1. -/
  weight : BitVec 8 := 1
  /-- FLT_DISP, FLT_TCYC, FLT_CCYC, FLT_SBEAT, FLT_URD0, FLT_URD1; reset 0xFF_FFFF. -/
  disp : BitVec 24 := 0xFFFFFF
  tcyc : BitVec 24 := 0xFFFFFF
  ccyc : BitVec 24 := 0xFFFFFF
  sbeat : BitVec 24 := 0xFFFFFF
  urd0 : BitVec 24 := 0xFFFFFF
  urd1 : BitVec 24 := 0xFFFFFF
deriving DecidableEq, Repr

/-- One work class of the Float (R211): shadow, in force and counters. -/
structure FClass where
  /-- FLT_CFG to FLT_URD1 (R221). -/
  shadow : Budgets := {}
  /-- FLT_CFG_ACT to FLT_URD1_ACT (R221). -/
  act : Budgets := {}
  /-- FLT_STAT.EXH; reset 0. -/
  exh : Bool := false
  /-- FLT_STAT.DEBT (R216); reset 0. -/
  debt : Bool := false
  /-- FLT_OVR.OVERRUNS (R220); reset 0. -/
  overruns : BitVec 16 := 0
  /-- FLT_OVR.PARKS (R220); reset 0. -/
  parks : BitVec 16 := 0
  /-- FLT_LAST (R220); reset 0. -/
  last : Word32 := 0
  /-- What the frame has spent: URD0, URD1 at keys 0 and 1; DISP, TCYC, CCYC, SBEAT of tile t at
  16 + 4t to 19 + 4t, an SBEAT debt carried in included (R213, R216); reset none. -/
  spent : Table Nat := []
deriving DecidableEq, Repr

/-! ### Frame timer -/

/-- The frame timer (R201 to R210). -/
structure Frm where
  /-- FRM_TIME (R201); reset 0. -/
  time : Word64 := 0
  /-- The 32-bit fraction of R201, in 10^-9 parts; reset 0 (log 3). -/
  frac : Nat := 0
  /-- Cycles that the timer has made (R415); reset 0, model. -/
  count : Nat := 0
  /-- FRM_FRAME (R202); reset 0. -/
  frame : BitVec 48 := 0
  /-- TIME of the tick that opened the present frame (R206); reset 0, model. -/
  opened : Word64 := 0
  /-- FRM_NEXT (R202); reset 0x61A8. -/
  next : Word64 := 0x61A8
  /-- FRM_PERIOD (R210); reset 0x61A8. -/
  period : BitVec 20 := 0x061A8
  /-- FRM_PERIOD_ACT (R210); reset 0x61A8. -/
  periodAct : BitVec 20 := 0x061A8
  /-- FRM_CFG.SRC (R205); reset 0. -/
  src : BitVec 2 := 0
  /-- FRM_CFG.SYNC_OUT (R207); reset 0. -/
  syncOut : Bool := false
  /-- FRM_CFG.SYNC_WIN (R206); reset 0x0A. -/
  syncWin : BitVec 8 := 0x0A
  /-- FRM_CFG.HOLD_FR (R205); reset 0x40. -/
  holdFr : BitVec 8 := 0x40
  /-- FRM_ADJ (R205); reset 0. -/
  adj : Word32 := 0
  /-- Phase offset still to be slewed, in 10 ns units (R205); reset 0. -/
  slew : Int := 0
  /-- The slew's own fraction in 10^-9 units per cycle; model. -/
  slewFrac : Nat := 0
  /-- The next FRM_STEP write is the first since a start or a change of SRC (R205); reset 1. -/
  firstStep : Bool := true
  /-- A first-lock step waits for the next tick (R205); reset none. -/
  stepDue : Option Int := none
  /-- The next tick opens a frame marked STEPPED (R409); model. -/
  stepMark : Bool := false
  /-- FRM_STAT.LOCKED (R206); reset 0. -/
  locked : Bool := false
  /-- FRM_STAT.HOLDOVER (R205); reset 0. -/
  holdover : Bool := false
  /-- HOLDOVER was set as the die took over: it lasts until the die's own SRC has locked (R208); reset 0, model. -/
  taken : Bool := false
  /-- FRM_STAT.PAIR_LOCK (R208); reset 0. -/
  pairLock : Bool := false
  /-- FRM_STAT.FLAGS: DIPPED, STEPPED, STRETCHED, HOLDOVER (R209); reset 0. -/
  flags : BitVec 4 := 0
  /-- FRM_STAT.SYNC_BAD (R206); reset 0. -/
  syncBad : BitVec 8 := 0
  /-- FRM_STAT.DIPPED_N (R209); reset 0. -/
  dippedN : BitVec 16 := 0
  /-- FRM_SYNCERR (R206); reset 0. -/
  syncErr : Word32 := 0
  /-- Consecutive accepted edges below 100 ns (R206); model. -/
  goodEdges : Nat := 0
  /-- Consecutive ticks without an accepted edge (R206); model. -/
  noEdge : Nat := 0
  /-- Frames since the host's last correction (R205); model. -/
  noCorr : Nat := 0
  /-- The FRAME_SYNC output (R203, R207); reset low. -/
  syncPin : Bool := false
deriving DecidableEq, Repr

/-! ### Cores -/

/-- A segment register (R232) with the marks of R270. -/
structure Seg where
  base : Word32 := 0
  limit : Word := 0
  v : Bool := false
  p : Bool := false
  /-- A chained segment over a Hawk chain whose head cell stands in base (R270). -/
  chained : Bool := false
  /-- The context-port segment of a Lath entry (R270). -/
  lathPort : Bool := false
deriving DecidableEq, Repr

/-- The states of a context (R263). -/
inductive CtxSt where
  | free
  | ready
  | stalled
  | waiting
  | held
  | locked
deriving DecidableEq, Repr

/-- What a waiting context waits for (R256, R257). -/
inductive WaitFor where
  | nothing
  | event
  | time (t : Word32)
deriving DecidableEq, Repr

/-- The RUN that a context carries out (R160, R269). -/
structure RunInfo where
  ch : Nat
  routine : Nat
  rs : Bool
  cls : Nat
  tile : Nat
  bound : Nat
  frame : BitVec 48
  /-- Code offset and length in force at dispatch (R445). -/
  codeOff : Nat
  codeLen : Nat
  /-- The PORT code behind S2 (R269). -/
  port : Option Nat
deriving DecidableEq, Repr

/-- A value that later instructions still see: the pipeline distances of R273. -/
inductive StaleKey where
  | word (addr : Nat)
  | seg (n : Nat)
  | wp
  | loopReg (n : Nat)
  | vtb
  | tsbr
deriving DecidableEq, Repr

/-- An old value, the cycle in which the instruction that wrote over it issued, and the core cycle from which the old value is
no longer seen by operand reads and by fetches. -/
structure Stale where
  key : StaleKey
  issued : Nat
  oldWord : Word
  oldSeg : Seg
  opUntil : Nat
  fetchUntil : Nat
deriving DecidableEq, Repr

/-- What a word access reaches (R35, R36, R267, R268); a word of a chain with its cell, the payload offset at which the cell
begins, and how many cells the walk to it crossed (R270). -/
inductive Place where
  | mem (addr : Nat)
  | chain (addr cell start crossed : Nat)
  | reg (off : Nat)
  | lath (ch w : Nat)
  | port (p w : Nat)
  | nothing
deriving DecidableEq, Repr

/-- A MOVB or FILLB between two of its words (R254, R255): its address, where its words are written and, for MOVB, read, its
pointers, the places of its slots, and the words left. -/
structure Block where
  dseg : Nat
  dptr : Word
  aseg : Option Nat
  aptr : Word
  fill : Word
  pd : Place
  pa : Place
  pn : Place
  n : Nat
  /-- Cycles for each word. -/
  each : Nat
  /-- The cycle in which it issued. -/
  since : Nat
  /-- The pointer slot that the specifier of A has updated, and the slot's value before (R242). -/
  undo : Option (Nat × Word)
deriving DecidableEq, Repr

/-- One context of a core. -/
structure Ctx where
  /-- State (R263); reset FREE. -/
  st : CtxSt := .free
  /-- The state it returns to from HELD (R287); model. -/
  heldFrom : CtxSt := .ready
  /-- PC (R244); reset 0 (log 6). -/
  pc : Word := 0
  /-- STATUS C, Z, N, V, RSM, PL, EVL (R245); reset 0, 0, 0, 0, 0, 2, 0. -/
  c : Bool := false
  z : Bool := false
  n : Bool := false
  v : Bool := false
  rsm : Bool := false
  pl : BitVec 2 := 2
  evl : Bool := false
  /-- WP (R244); reset 0 (log 6). -/
  wp : Word := 0
  /-- S0 to S7 (R232); reset V = 0 (log 6). -/
  segs : Table Seg := []
  /-- CSEG (R232); reset V = 0 (log 6). -/
  cseg : Seg := {}
  /-- LS0 to LS2 at 0 to 2, LE0 to LE2 at 3 to 5, LC0 to LC2 at 6 to 8 (R244); reset 0 (log 6). -/
  loops : Table Word := []
  /-- VTB (R244); reset 0 (log 6), loaded at dispatch. -/
  vtb : Word := 0
  /-- TSBR (R244); reset 0 (log 6), loaded at dispatch. -/
  tsbr : Word := 0
  /-- Nesting depth (R278); reset 0. -/
  depth : Nat := 0
  /-- The next instruction is annulled (R249); model. -/
  annul : Bool := false
  /-- The next instruction is a delay slot of a jump to this target (R250); model. -/
  slot : Option Word := none
  /-- Cycles left of the RUN's bound (R272); reset 0. -/
  left : Nat := 0
  /-- The RUN on the context (R269); reset none. -/
  run : Option RunInfo := none
  /-- For each TSB of the context, newest first: the interrupt priority it was entered for (R284, R286). -/
  ints : List (Option Nat) := []
  wait : WaitFor := .nothing
  /-- Held low half of a register-block write: aligned address and half (R237); reset none. -/
  heldW : Option (Nat × Word) := none
  /-- Kept high half of a register-block read (R237); reset none. -/
  keptR : Option (Nat × Word) := none
  /-- Values still seen under R273. -/
  stale : List Stale := []
  /-- MBX_SRES of the context (R307); reset 0. -/
  sres : BitVec 2 := 0
  /-- Position in the chained segment: the cell reached, and the payload offset at which it begins (R270); reset none. -/
  chainPos : Option (Nat × Nat) := none
  /-- The block move or fill that is between two words (R255); model. -/
  block : Option Block := none
  /-- TIME and the cycle from which a wait, or a spell in HELD, is measured (R258, R272); model. -/
  markTime : Word64 := 0
  markCycle : Nat := 0
  /-- The cycle in which the instruction of a stalled context issued, and the cycle after its last issue cycle (R273); model. -/
  stallAt : Nat := 0
  stallEnd : Nat := 0
deriving DecidableEq, Repr

/-- One core. -/
structure Core where
  /-- Core cycles passed; model, for R273. -/
  cycle : Nat := 0
  /-- Cycles passed in the issue slot of a Cornice core's context 0 (R262); model. -/
  cycle0 : Nat := 0
  /-- Issue pointer of the round robin (R264); reset 0 (log 6). -/
  ptr : Nat := 0
  ctxs : Table Ctx := []
  /-- Frames of the core's lockups within 10,000 frames (R291); reset none. -/
  lockFrames : List Nat := []
  /-- Left out of service until the next start (R291); reset 0. -/
  out : Bool := false
  /-- GUARANTEED bound placed on the core in the current frame, in 16 cycles (R212); reset 0. -/
  placed : Nat := 0
  /-- Context and CAUSE of the lockup that recovery journals (R290); model. -/
  lockCtx : Nat := 0
  lockCause : BitVec 3 := 0
deriving DecidableEq, Repr

/-- A routine of a tile's library (R386, R387). -/
structure Routine where
  num : Nat
  crn : Bool
  off : Nat
  len : Nat
  bound : Nat
  mbx : Option Nat
  code : List Word
deriving DecidableEq, Repr

/-- A handler set of a library: where its code stands, and its words as loaded, vectors first (R387). -/
structure HandSet where
  off : Nat
  len : Nat
  words : List Word
deriving DecidableEq, Repr

/-- The two libraries of a tile: its routines and handler sets (R386, R387). -/
structure Library where
  routines : List Routine := []
  /-- The handler set in force, Trowel and Cornice (R387); reset none. -/
  handTrw : Option HandSet := none
  handCrn : Option HandSet := none
deriving DecidableEq, Repr

/-! ### Hawk, mailboxes, semaphores, Scrim -/

/-- The states of a Hawk cell (R296). -/
inductive CellSt where
  | free
  | credit (producer : Nat)
  | held (m ctx : Nat)
  | chain (ch : Nat)
  | mbx (mb : Nat)
  | port (port : Nat)
  | lseg (ch : Nat)
  | parked (dom : Nat)
  /-- QUEUED with a write that a module holds (R86). -/
  | linkHeld (md : Nat)
  | retired
deriving DecidableEq, Repr

/-- A waiting grant request (R300). -/
structure GrantWait where
  ch : Nat
  acct : Nat
  ticks : Nat
deriving DecidableEq, Repr

/-- The Hawk allocator. -/
structure Hawk where
  /-- State of each cell (R296); reset FREE, out of service before S5. -/
  cells : Table CellSt := []
  /-- Account a cell is charged to, plus 1: 1 to 64 a class, 65 SYSTEM, 0 none (R299); reset none. -/
  acct : Table Nat := []
  /-- HWK_CLS.RSV and CEIL by account (R303); reset 0 for classes, 0x0200 for SYSTEM, and 0xFFFF. -/
  rsv : Table (BitVec 16) := []
  ceil : Table (BitVec 16) := []
  /-- Requests that wait, oldest first (R300); reset none. -/
  waits : List GrantWait := []
  /-- HWK_STAT.RETIRED (R507); reset 0. -/
  retired : BitVec 8 := 0
  /-- HWK_STAT.BADFREE (R301); reset 0. -/
  badFree : BitVec 8 := 0
deriving DecidableEq, Repr

/-- A queued message: its cell and the header fields that POP returns (R305, R308). -/
structure Msg where
  cell : Nat
  sender : BitVec 9
  len : Nat
deriving DecidableEq, Repr

/-- One mailbox. -/
structure Mbx where
  /-- MBX_CFG.EN; reset 0. -/
  en : Bool := false
  /-- MBX_CFG.DEPTH; reset 8. -/
  depth : BitVec 6 := 8
  /-- MBX_CFG.RXM; reset 0. -/
  rxm : BitVec 9 := 0
  /-- MBX_CFG.ANY; reset 1. -/
  any : Bool := true
  /-- MBX_STAT.REFUSED; reset 0. -/
  refused : BitVec 8 := 0
  /-- MBX_ARM.TARGET; reset 0. -/
  target : BitVec 10 := 0
  /-- MBX_ARM.ARMED; reset 0. -/
  armed : Bool := false
  /-- MBX_ROLE.EPOCH; reset 0. -/
  epoch : BitVec 16 := 0
  /-- MBX_ROLE.ROLE; reset 0. -/
  role : BitVec 8 := 0
  /-- Messages queued, oldest first (R306); reset none. -/
  msgs : List Msg := []
deriving DecidableEq, Repr

/-- One semaphore. -/
structure Sem where
  /-- SEM_LOCK.VALUE; reset 0. -/
  value : BitVec 10 := 0
  /-- SEM_INFO.BAD; reset 0. -/
  bad : BitVec 8 := 0
deriving DecidableEq, Repr

/-- A request or transfer at a bank arbiter: who asks and with what master ID, rank (2 GUARANTEED, 1 SHAPED, 0 BEST_EFFORT),
beats, and the beats that have left (R315 to R317). -/
structure ScrReq where
  who : Requester
  m : Nat
  rank : Nat
  beats : Nat
  left : Nat := 0
deriving DecidableEq, Repr

/-- One Scrim bank arbiter. -/
structure Scr where
  /-- SCR_CTL.FREEZE; reset 0. -/
  freeze : Bool := false
  /-- SCR_CTL.WDOG; reset 0x28. -/
  wdog : BitVec 8 := 0x28
  /-- SCR_STAT.OWNER; reset 0. -/
  owner : BitVec 9 := 0
  /-- The transfer in progress (R316); reset none. -/
  busy : Option ScrReq := none
  /-- SCR_STAT.HOLD (R192); reset 0. -/
  hold : Bool := false
  /-- Pending queue, oldest first (R318); reset empty. -/
  pend : List ScrReq := []
  /-- Requests that wait for the arbiter (R316); reset none. -/
  reqs : List ScrReq := []
  /-- SCR_CNT.REVOKED; reset 0. -/
  revoked : BitVec 16 := 0
  /-- SCR_CNT.BITES; reset 0. -/
  bites : BitVec 8 := 0
deriving DecidableEq, Repr

/-! ### Interrupt controller -/

/-- One interrupt source (R323). -/
structure Src where
  /-- IC_SSTAT.LINE, PEND, ACT, OFFER; reset 0. -/
  line : Bool := false
  pend : Bool := false
  act : Bool := false
  offer : Bool := false
  /-- IC_SSTAT.WHERE; reset 0x7F. -/
  loc : BitVec 7 := 0x7F
  /-- IC_SSTAT.PTR; reset 0. -/
  ptr : Nat := 0
  /-- IC_SCFG.SENSE as written; reset by kind (R323). -/
  sense : Option (BitVec 3) := none
  /-- IC_SCFG.EN, PRIO, TGT, MODULE, FWC, CRN; reset 0. -/
  en : Bool := false
  prio : BitVec 4 := 0
  tgt : Bool := false
  module : Bool := false
  fwc : Bool := false
  crn : BitVec 8 := 0
  /-- IC_SCFG.VECTOR; reset the source number. -/
  vector : Option (BitVec 11) := none
  /-- IC_STRW.TRW; reset 0. -/
  trw : Word64 := 0
  /-- Members that have declined the source (R329); model. -/
  declined : List Nat := []
  /-- An MSI-X event is due once MSI-X is enabled (R72); model. -/
  due : Bool := false
deriving DecidableEq, Repr

/-- One moderation batch (R334): events counted, the deadline in TIME units, the sources of the events, and whether the batch has
closed while the function could send nothing, so that its message stays pending (R63). -/
structure Batch where
  count : Nat
  deadline : Nat
  srcs : List Nat := []
  due : Bool := false
deriving DecidableEq, Repr

/-- One target of the interrupt controller (R325, R326). -/
structure Target where
  /-- IC_TSTAT.WITHDRAWN, BADDONE; reset 0. -/
  withdrawn : BitVec 16 := 0
  baddone : BitVec 8 := 0
  /-- Result of each master's last write to IC_TAKE (R326); reset 0x7FF. -/
  result : Table (BitVec 11) := []
  /-- Sources in service at the target with their priorities (R326, R330); reset none. -/
  service : List (Nat × Nat) := []
deriving DecidableEq, Repr

/-! ### Field ports -/

/-- A buffered input unit (R348): the node entry matched, the record's bytes, its bus time and whether
it passed its maximum. -/
structure RxUnit where
  node : Option Nat
  bytes : List Byte
  cost : Nat
  last : Bool
  cells : List Nat
  /-- TIME at which it went into the receive buffer. -/
  since : Nat := 0
deriving DecidableEq, Repr

/-- One field port. -/
structure Port where
  /-- PORT_STAT.STATE: 0 OFF, 1 UP, 2 FAULT, 3 ISOLATED, 4 OOS (R360); reset 0. -/
  st : BitVec 3 := 0
  /-- PORT_STAT.CAUSE (R361); reset 0. -/
  cause : BitVec 4 := 0
  /-- The fault causes present on the port (R360); model. -/
  causes : List Nat := []
  /-- Quarantine list, entries in place (R365); reset none. -/
  quar : List (BitVec 24) := []
  /-- Channels whose READ waits, oldest first (R351); reset none. -/
  readers : List Nat := []
  /-- PORT_EVT; reset 0. -/
  evt : BitVec 8 := 0
  /-- PORT_EVTEN; reset 0. -/
  evten : BitVec 8 := 0
  /-- PORT_VRESP; reset by type (R364). -/
  vresp : Option Word32 := none
  /-- PORT_VCFG.RETRY_N; reset 2. -/
  retryN : BitVec 3 := 2
  /-- PORT_VCFG.QLIM; reset 0. -/
  qlim : BitVec 8 := 0
  /-- PORT_VCFG.LAT_TOL; reset 0. -/
  latTol : BitVec 16 := 0
  /-- PORT_RXHOLD; reset 0x03E8. -/
  rxhold : BitVec 16 := 0x03E8
  /-- PORT_VCNT by class; reset 0. -/
  vcnt : Table (BitVec 16) := []
  /-- PORT_VLAST.CLASS and NODE; reset 0. -/
  vlastClass : BitVec 3 := 0
  vlastNode : BitVec 24 := 0
  /-- PORT_VFRAME; reset 0. -/
  vframe : Word32 := 0
  /-- PORT_CNT.FAULTS and RXDROP; reset 0. -/
  faults : BitVec 16 := 0
  rxdrop : BitVec 16 := 0
  /-- Frame of the last fault (R367); reset 0. -/
  faultFrame : Word32 := 0
  /-- Violations of each node toward QLIM: the frames of the last 1,024 in which they fell, newest first (R363). -/
  qcnt : Table (List Nat) := []
  /-- Shadow and in-force configuration words by block offset (R341); an unlisted word has its reset. -/
  shadow : Table Word32 := []
  act : Table Word32 := []
  /-- Class bus-time budgets by class: shadow, in force, spent this frame (R227); reset 0xF_FFFF, 0. -/
  bshadow : Table (BitVec 20) := []
  bact : Table (BitVec 20) := []
  bspent : Table Nat := []
  /-- Buffered input units, oldest first (R348); reset none. -/
  buf : List RxUnit := []
  /-- Channel whose unit is on the wire (R368); reset none. -/
  unitOn : Option Nat := none
  /-- The order of the port's units (R212); reset: the lowest numbers first. -/
  turn : Turn := {}
  /-- Characters of a Modbus ADU received since the last idle line (R353); reset none. -/
  adu : List Byte := []
  /-- The last commit that named the port enables it (R360, R465); model. -/
  wanted : Bool := false
  /-- The port has been enabled since the start (R362); reset 0. -/
  everOn : Bool := false
  /-- Calibration block in force and the one stored in MRAM (R390, R446); reset none. -/
  cal : List Byte := []
  calStored : List Byte := []
  /-- GPIO input levels, driven levels, quadrature and capture (R355); reset 0 (log 8). -/
  levels : BitVec 16 := 0
  outs : BitVec 16 := 0
  duty : Table Nat := []
  dutyNext : Table Nat := []
  caps : Table Word32 := []
  quad : Table Word32 := []
  timers : Table Word32 := []
  /-- ADC samples in force and the last monitored sample by input (R356); reset 0 (log 8). -/
  samples : Table (BitVec 16) := []
  /-- T1S: PLCA status, current ID; line monitor words (R349, R367); reset 0 (log 8). -/
  plcaUp : Bool := false
  curId : Nat := 0
  beaconHeld : Bool := false
  silent : Bool := false
  lineMon : List Word32 := []
  /-- CAN error counters TEC, REC and last error code; UART character errors; I2C recoveries (R367). -/
  txErr : Nat := 0
  rxErr : Nat := 0
  lec : Nat := 0
  recovering : Bool := false
  charErrs : Nat := 0
  recoveries : Nat := 0
  /-- I2C: ALERT_N assertions in the frame, and the mask to the next tick (R364); reset 0. -/
  alerts : Nat := 0
  alertMasked : Bool := false
  /-- UART: a break is on the line (R509); reset 0. -/
  breakOn : Bool := false
  /-- The port drives its safe state (R362); reset 1. -/
  safe : Bool := true
  /-- ETH frame counters of the sense block (R367); reset 0 (log 8). -/
  rxFrames : Nat := 0
  txFrames : Nat := 0
  /-- ETH: link restart under way, transmit timestamps, popped time, gate entry (R358, R359). -/
  linkDown : Bool := false
  txts : List (Nat × Word64) := []
  txtsTime : Word64 := 0
  gate : Nat := 0
  /-- ETH: policing violations by node: the last frame with one, and how many consecutive frames up to it had one (R364 class 4). -/
  police : Table (Nat × Nat) := []
  /-- ETH: TIME to which a received PAUSE holds back transmission, 0 where none does (ETH_CFG.PAUSE_RX); reset 0. -/
  pauseTo : Nat := 0
  /-- The bytes of the unit that was last put on the wire, as the port sends it (R350, R352 to R354), and TIME then; reset none, 0. -/
  wire : List Byte := []
  wireAt : Nat := 0
deriving DecidableEq, Repr

/-! ### Admin queue -/

/-- The states of the admin queue (AQ_STAT.STATE). -/
inductive AqState where
  | disabled
  | running
  | draining
  | error
deriving DecidableEq, Repr

/-- A command in progress: its packet words and whether it waits for a tick, a join or a read (R378). -/
structure AdmCmd where
  /-- Packet count at which it was read: it names the command. -/
  cnt : Word32
  words : List Word32
  /-- Its host data are being read. -/
  asked : Bool := false
  /-- It has been carried out as far as its tick or its partner, and only its reply is left. -/
  waits : Bool := false
deriving DecidableEq, Repr

/-- The admin queue (R369 to R381). -/
structure Aq where
  /-- AQ_CRING, AQ_RRING; reset 0. -/
  cring : Word64 := 0
  rring : Word64 := 0
  /-- AQ_CFG.CSIZE, RSIZE; reset 0. -/
  csize : BitVec 3 := 0
  rsize : BitVec 3 := 0
  /-- AQ_STAT.STATE; reset DISABLED. -/
  st : AqState := .disabled
  /-- AQ_STAT.CFG_ERR; reset 0. -/
  cfgErr : BitVec 3 := 0
  /-- AQ_STAT.BAD_PROD, BAD_RCONS; reset 0. -/
  badProd : BitVec 8 := 0
  badRcons : BitVec 8 := 0
  /-- AQ_PROD_ACC, AQ_CCONS, AQ_RPROD, AQ_RCONS_ACC; reset 0. -/
  cprod : Word32 := 0
  ccons : Word32 := 0
  rprod : Word32 := 0
  rcons : Word32 := 0
  /-- Commands in progress in the order read (R378); reset none. -/
  cmds : List AdmCmd := []
  /-- The read of the packet at CCONS is outstanding (R371); reset 0. -/
  reading : Bool := false
  /-- The FWC reads no packet for a live activation (R440); reset 0. -/
  stopped : Bool := false
deriving DecidableEq, Repr

/-- A change that takes effect at a tick (R438). -/
inductive Change where
  | budgets (snap : Table Budgets) (ports : List (Nat × Table (BitVec 20))) (period : BitVec 20)
  | ports (snap : List (Nat × Table Word32))
  | latFloor (tol : BitVec 16) (l4ok : Bool)
  | cal (port : Nat) (block : List Byte)
  | swap (old new : Nat) (crn : Bool) (tiles : BitVec 8)
  | firmware
  | leave (kind : Nat)
deriving DecidableEq, Repr

/-- A change that waits for the tick that opens a frame, and the command that is replied to then. -/
structure Commit where
  what : Change
  frame : Nat
  reply : Option AdmCmd
  /-- The CONFIG frame that mirrored it, behind whose acknowledgement the reply stands (R379). -/
  gate : Option Nat := none
deriving DecidableEq, Repr

/-! ### Start, firmware, journal -/

/-- A journal record (R429). -/
structure JRec where
  seq : Word64
  code : BitVec 16
  long : Bool
  step : Bool
  fw : Bool
  dipped : Bool
  mid : BitVec 9
  frame : BitVec 48
  boot : BitVec 16
  payload : BitVec 312
  /-- A word of it in the MRAM is uncorrectable (R428). -/
  bad : Bool := false
deriving DecidableEq, Repr

/-- A slot of the MRAM ledger area (R432). -/
structure MSlot where
  ch : Nat
  rs : Bool
  queue : Nat
  cnt : Word32
  ccw : Word64
  frame : Word32
  done : Bool
  /-- A word of it is uncorrectable (R428). -/
  bad : Bool := false
deriving DecidableEq, Repr

/-- Primer and what the boot block and configuration store hold (R421 to R427, R447). -/
structure Prm where
  /-- PRM_STATUS.STEP, STATE (0 STARTING, 1 READY, 2 STOPPED), FALLBACK, JLOST, FAIL_STEP, WARM,
  FAIL_CODE; reset 0. -/
  step : Nat := 0
  st : BitVec 2 := 0
  fallback : Bool := false
  jlost : Bool := false
  failStep : Nat := 0
  warm : Bool := false
  failCode : BitVec 16 := 0
  /-- PRM_RETRY: counter of each step (R424); loaded, reset 0 (log 7). -/
  retry : Table Nat := []
  /-- PRM_START; loaded, reset 0 (log 7). -/
  starts : Word32 := 0
  /-- PRM_READY_T; reset 0. -/
  readyT : Word32 := 0
  /-- PRM_MAP: HAWK_OUT, ADC_OUT, UCIE0, PLL_FB; loaded, reset 0 (log 7). -/
  hawkOut : BitVec 4 := 0
  adcOut : Bool := false
  ucie0 : BitVec 2 := 0
  /-- Module 0 has not trained in this start, while module 1 carries (R423); PRM_MAP.UCIE0 reads 3; reset 0. -/
  mod0Down : Bool := false
  /-- The unit that fails S12 in the start that waits in fence arbitration; reset none; model. -/
  s12Fail : Option Nat := none
  pllFb : BitVec 6 := 0
  /-- PRM_MAP_T1S, PRM_MAP_CORE, PRM_MAP_CRN, PRM_MAP_PORT0-3; loaded, reset 0 (log 7). -/
  t1sOut : Word32 := 0
  coreOut : Word64 := 0
  crnOut : BitVec 8 := 0
  portOut : BitVec 128 := 0
  /-- Variants of the steps: S3 copy, S4 slot, S9 (R424); loaded, reset 0 (log 7). -/
  s3Variant : Nat := 0
  s9Variant : Nat := 0
  /-- Copies of the boot block that hold an uncorrectable word (R428); loaded, reset none (log 7). Each change of what the boot block keeps
  is written to the first copy and, once that is written completely, to the second: between commands both hold the same (log 114). -/
  bootBad : BitVec 2 := 0
  /-- S4 boots the other slot (R424); loaded, reset 0 (log 7). -/
  s4Other : Bool := false
  /-- The start that is due: 0 cold, 1 warm, 2 self restart (R421); model. -/
  due : Nat := 0
  /-- PRM_CTL.CLR_FALLBACK waits for the next start (R426); reset 0. -/
  clrFallback : Bool := false
  /-- PRM_SWAP: OLD, NEW, CRN, TILES (R445); reset 0. -/
  swapOld : Nat := 0
  swapNew : Nat := 0
  swapCrn : Bool := false
  swapTiles : BitVec 8 := 0
  /-- PRM_SWAP_STAT.RESULT, WHY; reset 0. -/
  swapResult : BitVec 2 := 0
  swapWhy : BitVec 2 := 0
  /-- PRM_FW: SLOT, TRIAL, VERIFIED; loaded, reset 0 (log 7). -/
  slot : Bool := false
  trial : Bool := false
  verified : Bool := false
  /-- Boot block: confirmed slot, the trial slot for the next start, the trial reached READY (R437). -/
  confirmed : Bool := false
  trialSlot : Option Bool := none
  trialRan : Bool := false
  trialFailed : Bool := false
  /-- PRM_FWVER_A, PRM_FWVER_B; loaded, reset 0 (log 7). -/
  verA : Word32 := 0
  verB : Word32 := 0
  /-- PRM_SVN beyond the fused floor; loaded, reset 0 (log 7). -/
  svn : Word32 := 0
  /-- STATE_VER of the image in force (R435); reset 0 (log 7). -/
  stateVer : BitVec 16 := 0
  /-- Bytes staged up to the highest offset (R391); reset 0. -/
  staged : Nat := 0
  /-- An activation is in progress (R391); reset 0. -/
  activating : Bool := false
  /-- Configuration store: attachment mode and Subsystem IDs for the next start (R55, R60). -/
  nextMode : BitVec 2 := 0
  subVendor : BitVec 16 := 0xA1AF
  subId : BitVec 16 := 0
deriving DecidableEq, Repr

/-! ### Power and supply -/

/-- One switched power domain (R397 to R402). -/
structure Dom where
  /-- PWR_DOM.LEVEL; reset 0. -/
  level : Nat := 0
  /-- PWR_DOM.MAXREST; reset 3. -/
  maxrest : BitVec 2 := 3
  /-- PWR_DOM.WAKING; reset 0. -/
  waking : Bool := false
  /-- Cells parked at L3 (R404); reset none. -/
  cells : List Nat := []
deriving DecidableEq, Repr

/-- PWR and CLK registers and the supply supervisor. -/
structure Pwr where
  /-- PWR_CFG.REST_EN; reset 1. -/
  restEn : Bool := true
  /-- PWR_CFG.IDLE; reset 0x0A. -/
  idle : BitVec 8 := 0x0A
  /-- PWR_STAT.DIE_TOL, L4_OK (R383); reset 0. -/
  dieTol : BitVec 16 := 0
  l4ok : Bool := false
  /-- PWR_SUP: VDD_WARN, IO_WARN, PMIC_WARN, VDDA_OUT, VDD_MV; reset 0. -/
  vddWarn : Bool := false
  ioWarn : Bool := false
  pmicWarn : Bool := false
  vddaOut : Bool := false
  /-- Cycles of the frame timer at Hold entry (R415). -/
  holdAt : Nat := 0
  vddMv : BitVec 10 := 0
  /-- Lowest VDD seen in the present Hold (R430); model. -/
  lowMv : BitVec 10 := 0
  /-- Frames that the present Hold has marked DIPPED (R430); model. -/
  dipFrames : Nat := 0
  /-- Conditions that have held in the present Hold: VDD, VDDIO18, SUPPLY_WARN_N (R430); model. -/
  dipRails : BitVec 3 := 0
  /-- A controlled halt or a thermal trip since the last start: PWR_GOOD is low (R499); reset 0. -/
  goodLost : Bool := false
  /-- ALARM1_N is low (R498); reset 0. -/
  alarm1 : Bool := false
  /-- PWR_SUPCNT.DIPS, PMIC; reset 0. -/
  dips : BitVec 16 := 0
  pmic : BitVec 8 := 0
  /-- PWR_WAKE.DOMAIN, CAUSE; reset 0. -/
  wakeDom : BitVec 8 := 0
  wakeCause : BitVec 4 := 0
  /-- PWR_L4WAKE; reset 0. -/
  l4wake : BitVec 16 := 0
  /-- A wake event has come at L4 and the exit is under way (R405, R408); model. -/
  l4waking : Bool := false
  doms : Table Dom := []
  /-- CLK_STAT.RUN; reset 0. -/
  clkRun : BitVec 18 := 0
  /-- CLK_PLL.LOCK, FALLBACK, REFCLK_OK, XTAL_OK; reset 0. -/
  pllLock : BitVec 6 := 0
  pllFb : BitVec 6 := 0
  refclkOk : Bool := false
  xtalOk : Bool := false
deriving DecidableEq, Repr

/-- The condition of the whole die. -/
inductive DieSt where
  | reset
  | ready
  | stopped
  | halted
  | l4
deriving DecidableEq, Repr

/-! ### Pair -/

/-- One ledger entry (R467). -/
structure LEntry where
  ch : Nat
  rs : Bool
  /-- 1 OPEN, 2 DONE, 3 REPORTED. -/
  st : BitVec 2
  queue : Nat
  cnt : Word32
  ccw : Word64
  ord : BitVec 16
  gen : BitVec 16
  openFrame : Word32
  cond : BitVec 8
  residual : Nat
deriving DecidableEq, Repr

/-- The types of the Dust Sheet frames that the die sends (R456). -/
inductive TxType where
  | heartbeat
  | ledger
  | lath
  | queue
  | egress
  | boundary
  | config
  | bulk
  | join
  | handover
deriving DecidableEq, Repr

/-- What a frame carries (R456): its bytes where the spec lays them out, else its records. -/
inductive TxBody where
  | bytes (b : List Byte)
  | queue (r : QueueRec)
  | egress (r : EgressRec)
  | boundary (recs : List BoundaryRec)
  | config (recs : List ConfigRec)
  | bulk (laths : List LathRec) (queues : List QueueRec) (cfgs : List ConfigRec)
deriving DecidableEq, Repr

/-- A frame made and kept until it is acknowledged (R457). -/
structure TxFrame where
  /-- Its number in the order in which frames are made; model. -/
  id : Nat
  /-- SEQ, given as it is sent (R455). -/
  seq : BitVec 16 := 0
  ty : TxType
  /-- FLAGS.PRIO: a gate of R177 waits for it (R455, R458). -/
  prio : Bool
  /-- Times it was sent (R459). -/
  tries : Nat := 0
  /-- ACK and FRAME of its header (R455). -/
  ack : BitVec 16 := 0
  frame : BitVec 48 := 0
  body : TxBody
  /-- TIME at which it was made (DS_GATE.ACK_MAX). -/
  madeAt : Word64
deriving DecidableEq, Repr

/-- A frame of the Dust Sheet that takes no SEQ (R456, R457): ACK with its ACK value, NACK with the ACK value and the SEQ expected. -/
inductive DsCtl where
  | ack (ack : BitVec 16)
  | nack (ack expect : BitVec 16)
deriving DecidableEq, Repr

/-- A record held behind a gate of R177: the number of the frame whose acknowledgement opens it, its module and the write. -/
structure Gated where
  id : Nat
  md : Nat
  w : Egress
  /-- The completion source is raised after it (R122). -/
  raise : Bool := false
deriving DecidableEq, Repr

/-- The Dust Sheet and the roles of a pair. -/
structure Ds where
  /-- DS_STAT.ROLE: 0 ALONE, 1 ACTIVE, 2 STANDBY (R449); reset 0. -/
  role : BitVec 2 := 0
  /-- DS_STAT.SUB: 0 JOINING, 1 IN_SYNC, 2 OUT_OF_SYNC, 3 DETACHED; reset 0. -/
  sub : BitVec 2 := 0
  /-- DS_STAT.LANES; reset 0. -/
  lanes : BitVec 2 := 0
  /-- Lanes that have received ALIGN (R453); reset 0. -/
  aligned : BitVec 2 := 0
  /-- DS_STAT.FENCE_IN: FENCE_IN_N is low; reset 0. -/
  fenceIn : Bool := false
  /-- DS_STAT.FENCE_OUT: FENCE_OUT_N is driven low; reset 0. -/
  fenceOut : Bool := false
  /-- DS_STAT.PRESENT: PAIR_PRESENT_N is low; reset 0. -/
  present : Bool := false
  /-- DS_STAT.ROLE_PIN: level of PAIR_ROLE; reset 0. -/
  rolePin : Bool := false
  /-- DS_STAT.MISS (R463); reset 0. -/
  miss : Nat := 0
  /-- A heartbeat has arrived since the last check (R463); model. -/
  gotHb : Bool := false
  /-- DS_TAKE; reset 0. -/
  take : Word32 := 0
  /-- DS_CNT.RETRY, VIOL, DOWN; reset 0. -/
  retry : BitVec 16 := 0
  viol : BitVec 8 := 0
  down : BitVec 8 := 0
  /-- DS_LAST; reset 0. -/
  last : BitVec 8 := 0
  /-- DS_GATE.ACK_MAX, TIMEOUTS; reset 0. -/
  ackMax : BitVec 16 := 0
  timeouts : BitVec 16 := 0
  /-- Next SEQ to send and next SEQ expected (R457); reset 0 (log 9). -/
  txSeq : BitVec 16 := 0
  rxSeq : BitVec 16 := 0
  /-- The ACK value that the last frame sent carries (R455, R457); reset 0xFFFF, before SEQ 0 (log 9). -/
  ackOut : BitVec 16 := 0xFFFF
  /-- The last ACK or NACK frame sent (R457); reset none. -/
  ctl : Option DsCtl := none
  /-- The frame number of the last TICK block sent (R454); reset none. -/
  tickOut : Option (BitVec 48) := none
  /-- TIME at which the fence pulse began whose gates have not opened yet (R450); reset none. -/
  pulse : Option Word64 := none
  /-- Tiles whose ledger slice the snapshot of a join has still to carry (R472, R475); reset none. -/
  sliceDue : List Nat := []
  /-- Frames sent and not acknowledged (R457); reset none. -/
  unacked : List TxFrame := []
  /-- Frames made that cannot be sent yet, in the order in which they are sent (R457, R458); reset none. -/
  txWait : List TxFrame := []
  /-- Frames made since the start; model. -/
  made : Nat := 0
  /-- Records behind a gate (R177); reset none. -/
  gated : List Gated := []
  /-- FENCE_OUT_N of the partner as its last FENCE_ECHO shows it, true for high (R454); reset 0. -/
  echo : Bool := false
  /-- A takeover or an exchange of roles is under way: dispatch begins at the next tick (R465); reset 0. -/
  taking : Bool := false
  /-- The last change of role to active was an exchange, not a takeover (R473); model. -/
  handed : Bool := false
  /-- A fence watch of 3 us is running (R450); reset 0. -/
  watching : Bool := false
  /-- Round of fence arbitration, none when it is over (R452); reset none. -/
  arbRound : Option Nat := none
  /-- The partner's role, serial, strap and STATE_VER as its heartbeat shows them (R462). -/
  peerRole : BitVec 2 := 0
  peerSerial : Word64 := 0
  peerHb : Word32 := 0
  /-- Partner heartbeats missed by an active die (R464); model. -/
  peerMiss : Nat := 0
  /-- EQS of the partner's last heartbeat for modules 0 and 1 (R465); reset 0. -/
  peerEqs0 : Word32 := 0
  peerEqs1 : Word32 := 0
  /-- EGRESS records mirrored by the partner and not covered by its heartbeats (R465); reset none. -/
  mirror : List EgressRec := []
  /-- Step of a join in progress: 1 to 4, 0 none (R472); reset 0. -/
  joinStep : Nat := 0
  /-- A live activation by handover (R441): 1 waits for the standby to join again, 2 for the handover; reset 0. -/
  liveStep : Nat := 0
  /-- The reply to FW_ACTIVATE, for the module that it goes to, which this die makes once it has joined again (R441); reset none. -/
  liveReply : Option (Nat × Egress) := none
  /-- A handover is in progress (R473); reset 0. -/
  handing : Bool := false
  /-- HANDOVER received or sent: roles change at the next tick (R473); reset 0. -/
  handDue : Bool := false
  /-- Last heartbeat sent by this die (R462), model. -/
  lastHb : Word32 := 0
  /-- The highest USED of each tile's ledger since read (DS_LEDGER.PEAK); reset 0. -/
  peak : Table Nat := []
deriving DecidableEq, Repr

/-! ### Komond -/

/-- One key slot (R394). -/
structure Key where
  id : BitVec 16
  rx : Bool
  tx : Bool
  bytes : List Byte
deriving DecidableEq, Repr

/-- One KMD_PEER entry (R485). -/
structure Peer where
  node : BitVec 18 := 0
  mbx : BitVec 8 := 0
  auto : Bool := false
  v : Bool := false
  role : BitVec 8 := 0
  epoch : BitVec 16 := 0
deriving DecidableEq, Repr

/-- One line of the replay cache (R479): node, highest SEQ and the answer's TYPE, REASON, ROLE, EPOCH. -/
structure Replay where
  node : Nat
  seq : Nat
  ty : Nat
  reason : Nat
  role : BitVec 8
  epoch : BitVec 16
deriving DecidableEq, Repr

/-- Komond (R476 to R485). -/
structure Kmd where
  /-- KMD_CFG.EN, PORTS, WINDOW; reset 0, 0, 0x40. -/
  en : Bool := false
  ports : BitVec 4 := 0
  window : BitVec 8 := 0x40
  /-- KMD_TIME.RETX, RETRIES; reset 0x0032, 3. -/
  retx : BitVec 16 := 0x0032
  retries : BitVec 2 := 3
  /-- KMD_GROUP; reset 0x0000_00AF_A101. -/
  group : BitVec 48 := 0x0000_00AF_A101
  /-- KMD_STAT.NODE and NODE_V; reset none. -/
  node : Option (BitVec 18) := none
  /-- KMD_CNT0.TX, RX; KMD_CNT1.AUTH, BOUNCED, BOUNCES_RX; KMD_CNT2.RETX, TIMEOUTS, DROPPED; reset 0. -/
  tx : BitVec 16 := 0
  rx : BitVec 16 := 0
  auth : BitVec 16 := 0
  bounced : BitVec 8 := 0
  bouncesRx : BitVec 8 := 0
  retxN : BitVec 16 := 0
  timeouts : BitVec 8 := 0
  dropped : BitVec 8 := 0
  /-- KMD_LASTB, KMD_LASTB2; reset 0. -/
  lastNode : BitVec 18 := 0
  lastMbx : BitVec 8 := 0
  lastRole : BitVec 8 := 0
  lastEpoch : BitVec 16 := 0
  /-- Key slots (R394); reset none. -/
  keys : Table Key := []
  /-- KMD_PEER; reset 0. -/
  peers : Table Peer := []
  /-- Replay cache, most recently used first (R479); reset empty. -/
  cache : List Replay := []
  /-- Message sequence of the die (R477); reset 0 (log 9). -/
  seq : Word32 := 0
  /-- Frames handed to the Ethernet MACs, newest first; model. -/
  sent : List (List Byte) := []
  /-- Frames that wait for their MAC's link or for the gate of traffic class 7, with the PORT code, oldest first (R358); reset none. -/
  waiting : List (Nat × List Byte) := []
deriving DecidableEq, Repr

/-! ### Global control, debug -/

/-- GCTL (R47) and the identity fields that vary. -/
structure Gctl where
  /-- GCTL_TOPO.HAWK_Q, CELLS; reset 0, set at S5. -/
  hawkQ : BitVec 4 := 0
  cells : BitVec 16 := 0
  /-- GCTL_ACCERR.ACC_COUNT, ACC_MID; reset 0. -/
  accCount : BitVec 16 := 0
  accMid : BitVec 9 := 0
  /-- GCTL_CORE_LOCK; reset 0. -/
  coreLock : Word64 := 0
  /-- GCTL_CORE_LOCK_CRN: CRN_LOCK, LAST_CORE, LAST_CTX, LAST_CAUSE; reset 0. -/
  crnLock : BitVec 8 := 0
  lastCore : BitVec 7 := 0
  lastCtx : BitVec 3 := 0
  lastCause : BitVec 3 := 0
  /-- GCTL_FREEZE; reset 0. -/
  freeze : Word64 := 0
  /-- GCTL_FREEZE_CRN.FREEZE_CRN; reset 0. -/
  freezeCrn : BitVec 8 := 0
  /-- SCR_WDLAST (R319); reset 0. -/
  wdLast : Word32 := 0
deriving DecidableEq, Repr

/-- The TAP (R503). -/
structure Tap where
  /-- Instruction in force: 0 BYPASS, 1 SAMPLE/PRELOAD, 2 EXTEST, 3 IDCODE, 4 DBG_ACCESS; reset 3 (log 10). -/
  ir : Nat := 3
  /-- The DBG_ACCESS data register; reset 0 (log 10). -/
  dr : BitVec 66 := 0
  /-- Boundary-scan cells preloaded; reset none (log 10). -/
  scan : List Bool := []
deriving DecidableEq, Repr

end Sys2Proof.Machine
end

