-- ==== Sys2Proof/Machine/State.lean ====
section
/-! DEFINITION. The state of the block, its reset, and the reasons a step can stop. -/

namespace Sys2Proof.Machine

/-- Why a step can fault. No meaning of this model raises it: the spec gives every command an effect,
so the type only fills the host's interface. Safe: nothing is ever stopped by it. -/
inductive Fault where
  /-- Raised by nobody; safe. -/
  | none
deriving DecidableEq, Repr

/-- Why a step can refuse. -/
inductive Refusal where
  /-- Raised by an arm of exec whose command has no meaning yet; safe. -/
  | notModelled (mnemonic : String)
deriving DecidableEq, Repr

/-- The state of the block. -/
structure State where
  /-- The commands that wait, first in, first out; model; reset empty. -/
  pending : List Instr := []
  /-- Every byte of the local memories, the Hawk, the FWC memory and the MRAM by its device-internal
  address (R33, R35, R39), in the canonical form of Memory.wf; reset all 0 (log 1). -/
  mem : List Host.Cell := []
  /-- The condition of the die: in reset, READY, STOPPED, halted (R29) or at L4 (R405); reset: in reset. -/
  die : DieSt := .reset
  /-- Attachment mode in force: 0 SINGLE, 1 SECOND_HOST, 2 REDUNDANT (R55); loaded, reset 0 (log 7). -/
  mode : BitVec 2 := 0
  /-- The carrying module in REDUNDANT mode (R55): true is module 1; reset module 0. -/
  carry : Bool := false
  /-- UCIe module 0 and its function (R54, R60). -/
  link0 : Link := {}
  /-- UCIe module 1 and its function (R54, R60). -/
  link1 : Link := {}
  /-- GCTL (R47). -/
  gctl : Gctl := {}
  /-- Work queues 0 to 1,023 (R133); every queue at its reset. -/
  queues : Table Queue := []
  /-- The queue at which the next round-robin turn starts its search (R113); reset 0 (log 2). -/
  turn : Nat := 0
  /-- Channels 0 to 4,095 (R135, R170); every channel at its reset. -/
  chans : Table Chan := []
  /-- Park counter that orders parked channels (R218); model; reset 0. -/
  parkSeq : Nat := 0
  /-- Work classes 0 to 63 of the Float (R211, R221); every class at its reset. -/
  classes : Table FClass := []
  /-- The frame timer (R201). -/
  frm : Frm := {}
  /-- Cores 0 to 63 (Trowel) and 64 to 71 (Cornice) (R26); every core at its reset. -/
  cores : Table Core := []
  /-- The routine library of each tile (R386, R387); reset empty. -/
  libs : Table Library := []
  /-- The Hawk allocator (R295). -/
  hawk : Hawk := {}
  /-- Mailboxes 0 to 255 (R304); every mailbox at its reset. -/
  mbxs : Table Mbx := []
  /-- MBX_SRES of each master that is no core (R307); reset 0. -/
  sendRes : Table (BitVec 2) := []
  /-- Semaphores 0 to 255 (R310); every semaphore at its reset. -/
  sems : Table Sem := []
  /-- Scrim bank arbiters 0 to 39 (R31, R315); every arbiter at its reset. -/
  scrs : Table Scr := []
  /-- Interrupt sources 0x000 to 0x7FE (R323); every source at its reset. -/
  srcs : Table Src := []
  /-- IC_VMOD of vector v of module md at md × 2048 + v (R334); reset 0. -/
  vmods : Table Word32 := []
  /-- Moderation batches open, by md × 2048 + vector (R334); reset none. -/
  batches : Table Batch := []
  /-- Interrupt targets by code (R325); every target at its reset. -/
  targets : Table Target := []
  /-- Field ports by PORT code (R144, R340); every port at its reset. -/
  ports : Table Port := []
  /-- The admin queue (R369). -/
  aq : Aq := {}
  /-- Changes that wait for a tick, in the order accepted (R438); reset none. -/
  commits : List Commit := []
  /-- The journal, newest record first (R429); reset empty (log 7). -/
  journal : List JRec := []
  /-- Records held in FWC memory before they are written, newest first (R431); reset none. -/
  jheld : List JRec := []
  /-- SEQ of the newest record made, 0 before the first (R429); reset 0 (log 7). -/
  jseq : Word64 := 0
  /-- Status records made and not yet put forward, since Hold makes none (R192); reset none. -/
  late : List Gated := []
  /-- The order of dispatch of each tile (R212); reset: the lowest numbers first. -/
  turns : Table Turn := []
  /-- The ledger area of the MRAM by slot (R432); reset empty (log 7). -/
  mled : Table MSlot := []
  /-- Primer and the configuration store (R421 to R447). -/
  prm : Prm := {}
  /-- Power, clocks and supply supervision (R397 to R420). -/
  pwr : Pwr := {}
  /-- The die is in a supply Hold (R414); reset 0. -/
  hold : Bool := false
  /-- Dust Sheet and pair roles (R449 to R475). -/
  ds : Ds := {}
  /-- Effect ledger: slot i of tile t at t × 4096 + i (R466); reset empty. -/
  ledger : Table LEntry := []
  /-- Komond (R476 to R485). -/
  kmd : Kmd := {}
  /-- The debug access port (R503). -/
  tap : Tap := {}
  /-- Lower halves held by a 4 B write: master, offset, value (R44); reset none. -/
  lowHeld : List ((Nat × Nat) × Word32) := []
  /-- Upper halves kept by a 4 B read: master, offset, value (R45); reset none. -/
  upKept : List ((Nat × Nat) × Word32) := []
  /-- WAKE_OUT_N is asserted (R81, R490); reset 0. -/
  wakeOut : Bool := false
  /-- SUPPLY_WARN_N and the fence pins stand in pwr and ds; POR_N is low (R488); reset 1. -/
  porLow : Bool := true
  /-- WARMRST_N is low (R412, R488); reset 0. -/
  warmLow : Bool := false
  /-- The value that the last read access returned to its master; model; reset 0. -/
  readOut : Word64 := 0
  /-- All bytes that the last read through a window returned (R42); model; reset none. -/
  readData : List Byte := []
  /-- Corrected single-bit ECC errors (R29); reset 0. -/
  eccCount : Nat := 0
  /-- Which free value is handed out next; the model's own counter; reset 0 (log 11). -/
  freeNext : Nat := 0
deriving DecidableEq, Repr

/-- The die right after reset, before Primer has run (R16, R421): every field at its reset value. -/
def State.reset : State := {}

end Sys2Proof.Machine
end

