-- ==== Sys2Proof/Machine/Ops.lean ====
section
/-! DEFINITION. The named operations over memory, the tables of the state, and plain numbering rules. -/

namespace Sys2Proof.Machine
open Sys2Proof

/-! ### Memory: bytes by device-internal address (R35, R39), little-endian (R11) -/

/-- The byte at an address; an address with no cell reads 0 (log 1). -/
def Memory.get (m : List Host.Cell) (a : Nat) : Byte := Table.get m 0 a

/-- The cells without the cell of an address. -/
def Memory.erase (m : List Host.Cell) (a : Nat) : List Host.Cell :=
  match m with
  | [] => []
  | (b, w) :: r => if a < b then (b, w) :: r else if a = b then r else (b, w) :: Memory.erase r a

/-- A byte written, in the canonical form: a 0 takes no cell. -/
def Memory.set (m : List Host.Cell) (a : Nat) (v : Byte) : List Host.Cell :=
  if v = 0 then Memory.erase m a else Table.set m a v

/-- The addresses of a list of cells rise strictly from a lower bound on, and no cell holds 0. -/
def Memory.wfFrom (lo : Nat) (m : List Host.Cell) : Bool :=
  match m with
  | [] => true
  | (a, v) :: r => decide (lo ≤ a) && decide (v ≠ 0) && Memory.wfFrom (a + 1) r

/-- The canonical form of the memory: addresses strictly rising, no cell equal to what an unlisted
address reads as. -/
def Memory.wf (m : List Host.Cell) : Bool := Memory.wfFrom 0 m

/-- A run of bytes written from an address up. -/
def Memory.setMany (m : List Host.Cell) (a : Nat) (l : List Byte) : List Host.Cell :=
  match l with
  | [] => m
  | b :: r => Memory.setMany (Memory.set m a b) (a + 1) r

/-- The cells of n addresses from one up taken out: they read as memory that nothing has written. -/
def Memory.clear (m : List Host.Cell) (a n : Nat) : List Host.Cell := m.filter fun x => !(decide (a ≤ x.1) && decide (x.1 < a + n))

/-- n bytes read from an address up. -/
def Memory.getMany (m : List Host.Cell) (a n : Nat) : List Byte := (List.range n).map fun i => Memory.get m (a + i)

/-- The byte of the die's memory at an address. -/
def State.byteAt (s : State) (a : Nat) : Byte := Memory.get s.mem a

/-- n bytes of the die's memory. -/
def State.bytesAt (s : State) (a n : Nat) : List Byte := Memory.getMany s.mem a n

/-- A little-endian number of n bytes in the die's memory. -/
def State.leAt (s : State) (a n : Nat) : Nat := ofLeBytes (s.bytesAt a n)

/-- The state with a run of bytes stored in the die's memory. -/
def State.store (s : State) (a : Nat) (l : List Byte) : State := { s with mem := Memory.setMany s.mem a l }

/-- The state with n bytes of the die's memory as if nothing had written them. -/
def State.clear (s : State) (a n : Nat) : State := { s with mem := Memory.clear s.mem a n }

/-- The 16-bit word of the die's memory at a byte address. -/
def State.wordAt (s : State) (a : Nat) : Word := BitVec.ofNat 16 (s.leAt a 2)

/-- The state with a 16-bit word stored. -/
def State.storeWord (s : State) (a : Nat) (w : Word) : State := s.store a (leBytes 2 w.toNat)

/-- Base of the window of Trowel core n (R39). -/
def trowelBase (n : Nat) : Nat := 0x400000 + n * 0x10000
/-- Base of the window of Cornice core n (R39). -/
def corniceBase (n : Nat) : Nat := 0x800000 + n * 0x20000
/-- Base of the Hawk window (R39). -/
def hawkBase : Nat := 0xC00000
/-- Address of Hawk cell k (R39). -/
def cellAddr (k : Nat) : Nat := hawkBase + k * 64
/-- Base of the local memory of a core as CTXID numbers it. -/
def localBase (core : Nat) : Nat := if core < 64 then trowelBase core else corniceBase (core - 64)
/-- Bytes of the local memory of a core (R229): 32 KiB Trowel, 64 KiB Cornice. -/
def localSize (core : Nat) : Nat := if core < 64 then 0x8000 else 0x10000

/-! ### Numbering (R25, R26, R49) -/

/-- The tile of a channel (R26). -/
def tileOfCh (ch : Nat) : Nat := ch / 512
/-- The tile of a core. -/
def tileOfCore (core : Nat) : Nat := if core < 64 then core / 8 else core - 64
/-- The master ID of a core (R49). -/
def midOfCore (core : Nat) : Nat := if core < 64 then 0x40 + core else 0x20 + (core - 64)
/-- The core of a master ID, none for a master that is no core (R49). -/
def coreOfMid (m : Nat) : Option Nat :=
  if 0x40 ≤ m ∧ m < 0x80 then some (m - 0x40) else if 0x20 ≤ m ∧ m < 0x28 then some (64 + (m - 0x20)) else none
/-- A host master ID (R49). -/
def isHost (m : Nat) : Bool := m == 0 || m == 1
/-- Number of contexts of a core: 8 Trowel (R262), 4 Cornice. -/
def ctxCount (core : Nat) : Nat := if core < 64 then 8 else 4

/-- A register-block offset lies in a range of R39. -/
def inRange (off lo hi : Nat) : Bool := decide (lo ≤ off) && decide (off ≤ hi)

/-- The rights of a master in the register blocks (R36): host, debug and FWC reach all of them. -/
def rightsOk (m off : Nat) : Bool :=
  let shared := inRange off 0x0A0000 0x0A47FF || inRange off 0x0B0000 0x0BFFFF
  if isHost m || m == 0x010 || m == 0x1FF then true
  else if 0x020 ≤ m ∧ m ≤ 0x027 then !(inRange off 0x4000 0x4FFF) && !(inRange off 0x6000 0x6FFF)
  else if 0x040 ≤ m ∧ m ≤ 0x07F then shared || inRange off 0x2000 0x2FFF
  else if 0x080 ≤ m ∧ m ≤ 0x08F then shared || inRange off 0x010000 0x011FFF || inRange off 0x040000 0x083FFF
  else false

/-- The masters that may write configuration registers: both hosts and the FWC (R221, R228, R339). -/
def isConfigMaster (m : Nat) : Bool := isHost m || m == 0x010

/-! ### The tables of the state -/

/-- The state of work queue n. -/
def State.q (s : State) (n : Nat) : Queue := s.queues.get {} n
/-- The state with work queue n replaced. -/
def State.setQ (s : State) (n : Nat) (x : Queue) : State := { s with queues := s.queues.set n x }
/-- The state with work queue n changed. -/
def State.updQ (s : State) (n : Nat) (f : Queue → Queue) : State := s.setQ n (f (s.q n))
/-- The state of channel n. -/
def State.chan (s : State) (n : Nat) : Chan := s.chans.get {} n
/-- The state with channel n replaced. -/
def State.setChan (s : State) (n : Nat) (x : Chan) : State := { s with chans := s.chans.set n x }
/-- The state with channel n changed. -/
def State.updChan (s : State) (n : Nat) (f : Chan → Chan) : State := s.setChan n (f (s.chan n))
/-- The state of work class n. -/
def State.cls (s : State) (n : Nat) : FClass := s.classes.get {} n
/-- The state with work class n replaced. -/
def State.setCls (s : State) (n : Nat) (x : FClass) : State := { s with classes := s.classes.set n x }
/-- The state with work class n changed. -/
def State.updCls (s : State) (n : Nat) (f : FClass → FClass) : State := s.setCls n (f (s.cls n))
/-- The state of core n. -/
def State.core (s : State) (n : Nat) : Core := s.cores.get {} n
/-- The state with core n replaced. -/
def State.setCore (s : State) (n : Nat) (x : Core) : State := { s with cores := s.cores.set n x }
/-- The state with core n changed. -/
def State.updCore (s : State) (n : Nat) (f : Core → Core) : State := s.setCore n (f (s.core n))
/-- The state of the library of tile n. -/
def State.lib (s : State) (n : Nat) : Library := s.libs.get {} n
/-- The state with the library of tile n replaced. -/
def State.setLib (s : State) (n : Nat) (x : Library) : State := { s with libs := s.libs.set n x }
/-- The state with the library of tile n changed. -/
def State.updLib (s : State) (n : Nat) (f : Library → Library) : State := s.setLib n (f (s.lib n))
/-- The state of mailbox n. -/
def State.mbx (s : State) (n : Nat) : Mbx := s.mbxs.get {} n
/-- The state with mailbox n replaced. -/
def State.setMbx (s : State) (n : Nat) (x : Mbx) : State := { s with mbxs := s.mbxs.set n x }
/-- The state with mailbox n changed. -/
def State.updMbx (s : State) (n : Nat) (f : Mbx → Mbx) : State := s.setMbx n (f (s.mbx n))
/-- The state of semaphore n. -/
def State.sem (s : State) (n : Nat) : Sem := s.sems.get {} n
/-- The state with semaphore n replaced. -/
def State.setSem (s : State) (n : Nat) (x : Sem) : State := { s with sems := s.sems.set n x }
/-- The state with semaphore n changed. -/
def State.updSem (s : State) (n : Nat) (f : Sem → Sem) : State := s.setSem n (f (s.sem n))
/-- The state of bank arbiter n. -/
def State.scr (s : State) (n : Nat) : Scr := s.scrs.get {} n
/-- The state with bank arbiter n replaced. -/
def State.setScr (s : State) (n : Nat) (x : Scr) : State := { s with scrs := s.scrs.set n x }
/-- The state with bank arbiter n changed. -/
def State.updScr (s : State) (n : Nat) (f : Scr → Scr) : State := s.setScr n (f (s.scr n))
/-- The state of interrupt source n. -/
def State.src (s : State) (n : Nat) : Src := s.srcs.get {} n
/-- The state with interrupt source n replaced. -/
def State.setSrc (s : State) (n : Nat) (x : Src) : State := { s with srcs := s.srcs.set n x }
/-- The state with interrupt source n changed. -/
def State.updSrc (s : State) (n : Nat) (f : Src → Src) : State := s.setSrc n (f (s.src n))
/-- The state of interrupt target n. -/
def State.target (s : State) (n : Nat) : Target := s.targets.get {} n
/-- The state with interrupt target n replaced. -/
def State.setTarget (s : State) (n : Nat) (x : Target) : State := { s with targets := s.targets.set n x }
/-- The state with interrupt target n changed. -/
def State.updTarget (s : State) (n : Nat) (f : Target → Target) : State := s.setTarget n (f (s.target n))
/-- The state of the port of PORT code n. -/
def State.port (s : State) (n : Nat) : Port := s.ports.get {} n
/-- The state with the port of PORT code n replaced. -/
def State.setPort (s : State) (n : Nat) (x : Port) : State := { s with ports := s.ports.set n x }
/-- The state with the port of PORT code n changed. -/
def State.updPort (s : State) (n : Nat) (f : Port → Port) : State := s.setPort n (f (s.port n))
/-- Context k of core n. -/
def State.ctx (s : State) (n k : Nat) : Ctx := (s.core n).ctxs.get {} k
/-- The state with context k of core n replaced. -/
def State.setCtx (s : State) (n k : Nat) (x : Ctx) : State := s.updCore n fun c => { c with ctxs := c.ctxs.set k x }
/-- The state with context k of core n changed. -/
def State.updCtx (s : State) (n k : Nat) (f : Ctx → Ctx) : State := s.setCtx n k (f (s.ctx n k))

/-- The module and its function. -/
def State.link (s : State) (md : Nat) : Link := if md = 0 then s.link0 else s.link1
/-- The state with a module replaced. -/
def State.setLink (s : State) (md : Nat) (l : Link) : State := if md = 0 then { s with link0 := l } else { s with link1 := l }
/-- The state with a module changed. -/
def State.updLink (s : State) (md : Nat) (f : Link → Link) : State := s.setLink md (f (s.link md))
/-- The state with the configuration space of a module changed. -/
def State.updCfg (s : State) (md : Nat) (f : LinkCfg → LinkCfg) : State := s.updLink md fun l => { l with cfg := f l.cfg }

/-! ### Power domains (R51, R398, R405) -/

/-- The ports of a port domain (R51). -/
def domPorts (d : Nat) : List Nat :=
  if d < 72 then []
  else if d < 104 then [d - 72]
  else if d < 108 then (List.range 4).map fun i => 0x20 + 4 * (d - 104) + i
  else if d < 112 then (List.range 4).map fun i => 0x30 + 4 * (d - 108) + i
  else if d = 112 then (List.range 8).map fun i => 0x40 + i
  else if d = 113 then (List.range 8).map fun i => 0x48 + i
  else if d < 120 then [0x50 + (d - 114)]
  else if d < 124 then [0x60 + (d - 120)]
  else if d = 132 then [0x58] else []

/-- The domain of a port (R51). -/
def portDom (p : Nat) : Option Nat := (List.range 134).find? fun d => (domPorts d).contains p

/-- The UCIe domains follow the link state and are chosen by no rule here (R399). -/
def isLinkDom (d : Nat) : Bool := d == 125 || d == 126

/-- A domain. -/
def State.dom (s : State) (d : Nat) : Dom := s.pwr.doms.get {} d
/-- The state with a domain changed. -/
def State.updDom (s : State) (d : Nat) (f : Dom → Dom) : State := { s with pwr := { s.pwr with doms := s.pwr.doms.set d (f (s.dom d)) } }

/-- The most recent wake (PWR_WAKE). -/
def State.noteWake (s : State) (d : Nat) (cause : Nat) : State :=
  { s with pwr := { s.pwr with wakeDom := BitVec.ofNat 8 d, wakeCause := BitVec.ofNat 4 cause } }

/-- A wake request of a domain at rest starts its wake; two requests give one wake (R405). -/
def State.wakeDomain (s : State) (d cause : Nat) : State :=
  if d < 134 ∧ isLinkDom d = false ∧ (s.dom d).level ≠ 0 ∧ (s.dom d).waking = false then
    (s.updDom d fun x => { x with waking := true }).noteWake d cause
  else s

/-- The domain whose registers, window or cells lie at a BAR0 offset (R39, R51); none for the domains that are not switched. -/
def offDom (off : Nat) : Option Nat :=
  if off < 0x6000 then none
  else if off < 0x7000 then some 124
  else if off < 0x100000 then none
  else if off < 0x120000 then some (72 + (off - 0x100000) / 0x1000)
  else if off < 0x130000 then some (104 + (off - 0x120000) / 0x4000)
  else if off < 0x140000 then some (108 + (off - 0x130000) / 0x4000)
  else if off < 0x148000 then some 112
  else if off < 0x150000 then some 113
  else if off < 0x156000 then some (114 + (off - 0x150000) / 0x1000)
  else if 0x158000 ≤ off ∧ off < 0x159000 then some 132
  else if 0x160000 ≤ off ∧ off < 0x170000 then some (120 + (off - 0x160000) / 0x4000)
  else if 0x400000 ≤ off ∧ off < 0x800000 then some ((off - 0x400000) / 0x10000)
  else if 0x800000 ≤ off ∧ off < 0x900000 then some (64 + (off - 0x800000) / 0x20000)
  else if 0xC00000 ≤ off ∧ off < 0xE00000 then some (127 + (off - 0xC00000) / 0x80000)
  else none

/-- An access to the registers, the window or the cells of a domain at rest wakes it; it then goes on as if the domain had been at L0, and
the time that it waits is left out (R398, R405, log 121). -/
def State.wakeFor (s : State) (off : Nat) : State := (offDom off).elim s fun d => s.wakeDomain d (if 0xC00000 ≤ off then 4 else 1)

/-- An access to a Hawk cell wakes its slice (R403, R405). -/
def State.touchCell (s : State) (k : Nat) : State := s.wakeDomain (127 + k / 8192) 4

/-! ### Small helpers -/

/-- The next free word, and the state that has handed it out (log 11). -/
def State.takeWord (s : State) : Word × State := (Config.freeWord s.freeNext, { s with freeNext := s.freeNext + 1 })

/-- The state with the value of a read access (model's own output). -/
def State.out (s : State) (v : Nat) : State := { s with readOut := BitVec.ofNat 64 v }

/-- An access refused or discarded is counted and its requester kept (R37, R41, R47). -/
def State.accErr (s : State) (m : Nat) : State :=
  { s with gctl := { s.gctl with accCount := satInc s.gctl.accCount, accMid := BitVec.ofNat 9 m } }

/-- The first element of a list that passes a test, with the list without it. -/
def takeFirst {α : Type} (p : α → Bool) : List α → Option (α × List α)
  | [] => none
  | a :: r => if p a then some (a, r) else
    match takeFirst p r with
    | none => none
    | some (b, r') => some (b, a :: r')

/-- The list with element n changed. -/
def listUpd {α : Type} (l : List α) (n : Nat) (f : α → α) : List α :=
  match l, n with
  | [], _ => []
  | a :: r, 0 => f a :: r
  | a :: r, n + 1 => a :: listUpd r n f

/-- A state folded over a list. -/
def State.each {α : Type} (s : State) (l : List α) (f : State → α → State) : State := l.foldl f s

/-! ### What is served (R63, R64, R194, R425) -/

/-- The die answers over its links: it is READY, halted, stopped after S7 (R425), or in a start that S7 is behind (R421): one that
waits in fence arbitration. -/
def State.linkServed (s : State) : Bool :=
  match s.die with
  | .ready | .halted => true
  | .stopped => decide (7 < s.prm.failStep)
  | .reset => s.ds.arbRound.isSome
  | .l4 => false

/-- A message that reports an error leaves: severity 0 correctable, 1 non-fatal, 2 fatal (R82, log 4). -/
def LinkCfg.reports (c : LinkCfg) (sev : Nat) (ur : Bool) : Bool :=
  (bitOf c.errEn sev || (c.serr && decide (1 ≤ sev))) && (!ur || bitOf c.errEn 3)

/-- The message of a severity. -/
def errMsg (sev : Nat) : LinkMsg := if sev = 0 then .errCor else if sev = 1 then .errNonfatal else .errFatal

/-- A module sends a message. -/
def Link.say (l : Link) (m : LinkMsg) : Link := { l with sent := m :: l.sent }

/-- An uncorrectable error's status bit, and where it is the first one unmasked the First Error Pointer and the Header Log (R82,
log 4). -/
def LinkCfg.logUnc (c : LinkCfg) (bit : Nat) (hdr : BitVec 128) : LinkCfg :=
  let c1 : LinkCfg := { c with aerUnc := c.aerUnc ||| BitVec.ofNat 32 (2 ^ bit) }
  if bitOf c.aerMask bit || bitOf c.aerUnc c.aerFirst.toNat then c1 else { c1 with aerFirst := BitVec.ofNat 5 bit, aerHdr := hdr }

/-- A non-fatal error of which the die is only told, or whose sender is told by a completion: it is recorded as an advisory
correctable error (R82, log 4). -/
def Link.advise (l : Link) (bit : Nat) (hdr : BitVec 128) : Link :=
  let c := l.cfg
  let c1 : LinkCfg := { c with aerCor := c.aerCor ||| 0x2000, devStat := c.devStat ||| 1 }
  if bitOf c.aerCorMask 13 then { l with cfg := c1 }
  else
    let l1 : Link := { l with cfg := c1.logUnc bit hdr }
    if c.reports 0 (bit = 20) then l1.say .errCor else l1

/-- An uncorrectable error is recorded with its header, and its message sent where it is not masked and reporting is enabled
(R82; the standard rules, log 4). -/
def Link.aerError (l : Link) (bit : Nat) (hdr : BitVec 128) (advisory : Bool) : Link :=
  let ur := decide (bit = 20)
  let c : LinkCfg := { l.cfg with devStat := l.cfg.devStat ||| (if ur then 8 else 0) }
  let fatal := bitOf c.aerSev bit
  if advisory && !fatal then Link.advise { l with cfg := c } bit hdr
  else
    let sev := if fatal then 2 else 1
    let c1 : LinkCfg := { c with devStat := c.devStat ||| BitVec.ofNat 4 (2 ^ sev) }.logUnc bit hdr
    let l1 : Link := { l with cfg := c1 }
    if !(bitOf c.aerMask bit) && c.reports sev ur then l1.say (errMsg sev) else l1

/-- An uncorrectable error of a module is recorded in AER (R82). -/
def State.aerUnc (s : State) (md bit : Nat) (hdr : BitVec 128) (advisory : Bool) : State :=
  s.updLink md fun l => l.aerError bit hdr advisory

/-- A correctable error is recorded, and its message sent where it is not masked and reporting is enabled (R82). -/
def State.aerCor (s : State) (md bit : Nat) : State :=
  s.updLink md fun l =>
    let l1 : Link := { l with cfg := { l.cfg with aerCor := l.cfg.aerCor ||| BitVec.ofNat 32 (2 ^ bit), devStat := l.cfg.devStat ||| 1 } }
    if !(bitOf l.cfg.aerCorMask bit) && l.cfg.reports 0 false then l1.say .errCor else l1

/-- The header of a request whose fields the command does not give: the next free value (log 11). -/
def State.takeHeader (s : State) : BitVec 128 × State :=
  (BitVec.ofNat 128 (((List.range 8).map fun i => (Config.freeWord (s.freeNext + i)).toNat * 0x10000 ^ i).sum), { s with freeNext := s.freeNext + 8 })

/-- A host's request completes with Unsupported Request, and AER records it (R63, R71, R82); of a read the sender is told by the
completion. -/
def State.unsupported (s : State) (md : Nat) (read : Bool) : State := s.takeHeader.2.aerUnc md 20 s.takeHeader.1 read

/-- An access of a master to a register reaches it: nothing does in reset, before S7 of a start (R421) or at L4; a stopped die serves JTAG, and after S7
also GCTL and PRM over the link (R425); a host's access needs Memory Space Enable (R63). -/
def State.admits (s : State) (m off : Nat) : Bool :=
  let mem := !(isHost m) || (s.link m).cfg.memEn
  match s.die with
  | .ready | .halted => mem
  | .stopped => m == 0x1FF || (isHost m && mem && decide (7 < s.prm.failStep) && (decide (off < 0x1000) || inRange off 0x4000 0x4FFF))
  | .reset => s.ds.arbRound.isSome && mem
  | .l4 => false

/-- A host's request to a BAR that Memory Space Enable keeps closed, or beyond the BAR, on a die that answers (R63, R71). -/
def State.noBar (s : State) (m : Nat) (inside : Bool) : Bool := isHost m && s.linkServed && (!(s.link m).cfg.memEn || !inside)

/-- A write access by a master to BAR0: it acts where it reaches the register. -/
def State.access (s : State) (m off : Nat) (k : State → State) : State :=
  if s.noBar m (decide (off < 0x1000000)) then s.unsupported m false else if s.admits m off then k (s.wakeFor off) else s

/-- A read access by a master to BAR0: it returns 0 where it reaches nothing. -/
def State.accessR (s : State) (m off : Nat) (k : State → State) : State :=
  if s.noBar m (decide (off < 0x1000000)) then (s.unsupported m true).out 0 else if s.admits m off then k (s.wakeFor off) else s.out 0

end Sys2Proof.Machine
end

