-- ==== Sys2Proof/Machine/Irq.lean ====
section
/-! DEFINITION. The egress queues with MSI-X (R63 to R76), and the interrupt controller's sources, offers,
takes and moderation (R322 to R338). -/

namespace Sys2Proof.Machine
open Sys2Proof

/-! ### Egress -/

/-- The module that carries a queue (R55, R56). -/
def State.qModule (s : State) (q : Nat) : Nat :=
  if s.mode = 1 then b2n (s.q q).module else if s.mode = 2 then b2n s.carry else 0

/-- The module that carries the admin queue (R55). -/
def State.aqModule (s : State) : Nat := if s.mode = 2 then b2n s.carry else 0

/-- Whether the function may issue requests (R63, R64). -/
def Link.canIssue (l : Link) : Bool := l.cfg.busEn && !l.cfg.d3

/-- A request is queued for a module: an exit from L1 or L2 starts (R80), and in D3hot the wake of R81 is
made. -/
def State.wantLink (s : State) (md : Nat) : State :=
  let l := s.link md
  let l1 := if l.lstate = 1 ∨ l.lstate = 2 then { l with exiting := true } else l
  if l.cfg.d3 && l.cfg.pmeEn && !l.cfg.pmeStatus then
    { s.setLink md { l1 with cfg := { l1.cfg with pmeStatus := true },
                             sent := if l.lstate = 2 then l1.sent else .pmPme :: l1.sent } with wakeOut := true }
  else s.setLink md l1

/-- Held writes keep at most one head record a queue (R86). -/
def heldPush (h : List Egress) (e : Egress) : List Egress :=
  match e.kind with
  | .head q => (h.filter fun x => decide (x.kind ≠ .head q)) ++ [e]
  | _ => h ++ [e]

/-- A write enters the module's egress queue and takes the next EQS (R74, R462); while the module's
traffic is held it is held (R86). -/
def State.egress (s : State) (md : Nat) (kind : EgKind) (addr : Word64) (bytes : List Byte) (relaxed : Bool) : State :=
  let l := s.link md
  let e : Egress := { kind, addr, bytes, eqs := l.eqs + 1, relaxed := relaxed && l.cfg.roEn }
  let l1 := { l with eqs := l.eqs + 1 }
  if l.holding then s.setLink md { l1 with held := heldPush l1.held e }
  else (s.setLink md { l1 with queue := l1.queue ++ [e] }).wantLink md

/-- One cycle of a module's link: in Active what was sent is acknowledged, and the oldest queued write is sent (R84, R462). -/
def drainLink (l : Link) : Link :=
  if decide (l.lstate ≠ 0) || !l.up || l.lost then l else
  let l1 : Link := match l.unacked.getLast? with
    | none => l
    | some e => { l with unacked := [], ackEqs := e.eqs }
  if l1.canIssue && !l1.holding then
    match l1.queue with
    | [] => l1
    | e :: r => { l1 with queue := r, unacked := [e], replaying := l1.replaying - 1 }
  else l1

/-- The MSI-X table entry of a vector (R40, R65). -/
def LinkCfg.ent (c : LinkCfg) (v : Nat) : MsixEnt := c.msix.get {} v

/-- The MSI-X message of a vector enters the egress queue, with the mask sampled there, or sets the PBA bit
(R73, R74): asked only with MSI-X enabled and the function able to issue requests. -/
def State.sendMsix (s : State) (md v : Nat) : State :=
  let c := (s.link md).cfg
  let e := c.ent v
  if e.mask || c.funcMask then
    if c.pba.contains v then s else s.updCfg md fun c => { c with pba := v :: c.pba }
  else s.egress md (.msix v) e.addr (leBytes 4 e.data.toNat) false

/-- Messages that wait behind PBA bits are sent once their vector and the function are unmasked, in the order given (R73, R334). -/
def State.pbaSend (s : State) (md : Nat) (vs : List Nat) : State :=
  s.each vs fun s v =>
    let c := (s.link md).cfg
    if c.msixEn && (s.link md).canIssue && c.pba.contains v && !(c.ent v).mask && !c.funcMask then
      (s.updCfg md fun c => { c with pba := c.pba.filter (· ≠ v) }).egress md (.msix v) (c.ent v).addr
        (leBytes 4 (c.ent v).data.toNat) false
    else s

/-! ### Sources -/

/-- Numbers that are never sources or are reserved (R322). -/
def srcReserved (n : Nat) : Bool :=
  decide (0x7FF ≤ n) || (decide (0x40D ≤ n) && decide (n ≤ 0x40F)) || (decide (0x56B ≤ n) && decide (n ≤ 0x56F))
    || (decide (0x5CA ≤ n) && decide (n ≤ 0x5CF))

/-- Whether the source's line is of the Level kind (R322). -/
def srcIsLevel (n : Nat) : Bool :=
  n == 0x403 || n == 0x405 || (decide (0x410 ≤ n) && decide (n ≤ 0x56A)) || (decide (0x5D0 ≤ n) && decide (n ≤ 0x63F))

/-- SENSE in force: a Pulse source is always EDGE_RISE (R323). -/
def State.srcSense (s : State) (n : Nat) : BitVec 3 :=
  if srcIsLevel n then (s.src n).sense.getD 0 else 2

/-- SENSE is one of the two level kinds. -/
def State.srcLevelSense (s : State) (n : Nat) : Bool := s.srcSense n = 0 || s.srcSense n = 1

/-- The MSI-X vector of a source, its own number until written (IC_SCFG.VECTOR). -/
def State.srcVector (s : State) (n : Nat) : Nat := ((s.src n).vector.getD (BitVec.ofNat 11 n)).toNat

/-- The module of a source's MSI-X events (R333). -/
def State.srcModule (s : State) (n : Nat) : Nat :=
  if n < 0x400 then s.qModule n else if n = 0x400 then s.aqModule
  else if s.mode = 1 then b2n (s.src n).module else if s.mode = 2 then b2n s.carry else 0

/-- IC_VMOD of a vector, COUNT 1 and TIME 0 at reset. -/
def State.vmod (s : State) (v : Nat) : Word32 := s.vmods.get 1 v

/-- Moderation limit of a source in TIME units (R334). -/
def State.modLimit (s : State) (n : Nat) : Nat :=
  let t := bitsOf (s.vmod (s.srcVector n)) 8 16
  100 * (if n < 0x400 then min t (s.q n).latTolAct.toNat else t)

/-- A source or a batch that waits is a wake reason in D3hot (R63, R81, R336). -/
def State.wantMsix (s : State) (md : Nat) : State := if (s.link md).cfg.d3 then s.wantLink md else s

/-- A list by falling measure; equals keep their order. -/
def insertDesc {α : Type} (f : α → Nat) (a : α) : List α → List α
  | [] => [a]
  | b :: l => if f b < f a then a :: b :: l else b :: insertDesc f a l
def sortDesc {α : Type} (f : α → Nat) : List α → List α
  | [] => []
  | a :: l => insertDesc f a (sortDesc f l)

/-- The highest priority among sources (R334). -/
def State.topPrio (s : State) (ns : List Nat) : Nat := ns.foldl (fun p n => max p (s.src n).prio.toNat) 0

/-- The batch of a module's vector, if one is open. -/
def State.batchOf (s : State) (md v : Nat) : Option Batch := (s.batches.find? fun b => b.1 == md * 2048 + v).map (·.2)

/-- A batch of a module's vector closes with one message (R334), which stays pending while the function can send none (R63). -/
def State.closeBatch (s : State) (md v : Nat) : State :=
  if (s.link md).canIssue then { s with batches := s.batches.filter fun b => b.1 ≠ md * 2048 + v }.sendMsix md v
  else match s.batchOf md v with
    | none => s
    | some b => { s with batches := s.batches.set (md * 2048 + v) { b with due := true } }.wantMsix md

/-- MSI-X Enable has gone: the open batches of the module send nothing, and their sources that are still pending are due (R72). -/
def State.dropBatches (s : State) (md : Nat) : State :=
  let l := s.batches.filter fun b => b.1 / 2048 == md
  { s with batches := s.batches.filter fun b => b.1 / 2048 != md }.each l fun s b => s.each b.2.srcs fun s n =>
    if (s.src n).pend then s.updSrc n fun x => { x with due := true } else s

/-- An MSI-X event of an enabled source with TGT = 0 (R72, R333, R334). -/
def State.msixEvent (s : State) (n : Nat) : State :=
  let md := s.srcModule n
  let v := s.srcVector n
  let c := (s.link md).cfg
  if !c.msixEn then (s.updSrc n fun x => { x with due := true }).wantMsix md else
  let cnt := bitsOf (s.vmod v) 0 8
  let t := bitsOf (s.vmod v) 8 16
  if cnt < 2 || t < 1 then
    if (s.link md).canIssue then s.sendMsix md v else (s.updSrc n fun x => { x with due := true }).wantMsix md
  else
  let dl := s.frm.time.toNat + s.modLimit n
  let b : Batch := s.batches.get { count := 0, deadline := dl } (md * 2048 + v)
  let b1 : Batch := { b with count := b.count + 1, deadline := min b.deadline dl, srcs := b.srcs ++ [n] }
  let s1 : State := { s with batches := s.batches.set (md * 2048 + v) b1 }
  if cnt ≤ b1.count then s1.closeBatch md v else s1.wantMsix md

/-! ### Offers to processors (R328, R329) -/

/-- A member of the processor sets is neither locked, frozen nor in Hold: 0 the FWC, 1 to 8 Cornice 0 to 7,
9 to 72 Trowel 0 to 63 (R328). -/
def State.memberAvail (s : State) (i : Nat) : Bool :=
  if i = 0 then decide (s.die = .ready)
  else if i ≤ 8 then !s.hold && !(bitOf s.gctl.crnLock (i - 1)) && !(bitOf s.gctl.freezeCrn (i - 1)) && !(s.core (64 + (i - 1))).out
  else !s.hold && !(bitOf s.gctl.coreLock (i - 9)) && !(bitOf s.gctl.freeze (i - 9)) && !(s.core (i - 9)).out

/-- The member index of a core (R328). -/
def memberOfCore (core : Nat) : Nat := if core < 64 then core + 9 else core - 64 + 1

/-- Highest priority in service at a target plus 1, 0 for none (R330). -/
def State.cpri (s : State) (t : Nat) : Nat := (s.target t).service.foldl (fun a e => max a (e.2 + 1)) 0

/-- The member stands in the source's set (R328). -/
def Src.inSet (x : Src) (i : Nat) : Bool :=
  if i = 0 then x.fwc else if i ≤ 8 then bitOf x.crn (i - 1) else bitOf x.trw (i - 9)

/-- The member is a candidate for the source (R328). -/
def State.candidate (s : State) (n i : Nat) : Bool :=
  let x := s.src n
  x.inSet i && s.memberAvail i && decide (s.cpri (i + 2) < x.prio.toNat + 1) && !(x.declined.contains i)

/-- The members in the order in which the rotating pointer visits them (R328). -/
def memberOrder (ptr : Nat) : List Nat := (List.range 73).map fun k => (ptr + 1 + k) % 73

/-- The candidate with the lowest priority in service, the first after the pointer among equals (R328). -/
def State.bestMember (s : State) (n : Nat) : Option Nat :=
  (memberOrder (s.src n).ptr).foldl (fun best i =>
    if s.candidate n i then
      match best with
      | none => some i
      | some j => if s.cpri (i + 2) < s.cpri (j + 2) then some i else some j
    else best) none

/-- The power domain of a member (R51, R328). -/
def memberDom (i : Nat) : Nat := if i = 0 then 131 else if i ≤ 8 then 64 + (i - 1) else i - 9

/-- The source is routed afresh: offered to a member, which an offer wakes, or to none (R328, R329, R403). -/
def State.route (s : State) (n : Nat) : State :=
  let x := s.src n
  if x.pend && x.en && x.tgt then
    match s.bestMember n with
    | none => s.setSrc n { x with offer := false, loc := 0x7F }
    | some i => (s.setSrc n { x with offer := true, loc := BitVec.ofNat 7 (i + 2) }).wakeDomain (memberDom i) 3
  else if x.offer then s.setSrc n { x with offer := false, loc := 0x7F } else s

/-- The source presents itself: PEND has just risen, or an edge came again, or EN became 1 (R324, R333). -/
def State.present (s : State) (n : Nat) : State :=
  let x := s.src n
  if !x.en || !x.pend then s
  else if x.tgt then (if x.offer then s else s.route n)
  else s.msixEvent n

/-- PEND is set by an edge (R323, R333). -/
def State.edge (s : State) (n : Nat) : State := (s.updSrc n fun x => { x with pend := true }).present n

/-- A level source is looked at: PEND follows its line while ACT is 0 (R323). -/
def State.levelEval (s : State) (n : Nat) : State :=
  let x := s.src n
  let on := if s.srcSense n = 1 then !x.line else x.line
  if !(s.srcLevelSense n) then s
  else if on && !x.act then
    if x.pend then s else (s.setSrc n { x with pend := true }).present n
  else if !on && x.pend then (s.setSrc n { x with pend := false, due := false }).route n
  else s

/-- Writes of a module await RELEASE or DISCARD: NLNK_CFG.HELD (R85, R86). -/
def State.heldSet (s : State) (md : Nat) : Bool :=
  let l := s.link md
  l.holding && l.graceOver && (!l.queue.isEmpty || !l.held.isEmpty)

/-- NLNK_CFG.HELD of a module has become set since a state: its LINK source pulses (R322). -/
def State.heldPulse (s0 s : State) : State :=
  let s1 := if s.heldSet 0 && !s0.heldSet 0 then s.edge 0x408 else s
  if s.heldSet 1 && !s0.heldSet 1 then s1.edge 0x409 else s1

/-- The line of a source takes a level (R323). -/
def State.setLine (s : State) (n : Nat) (level : Bool) : State :=
  if srcReserved n then s else
  let x := s.src n
  let s1 := s.setSrc n { x with line := level }
  if s.srcLevelSense n then s1.levelEval n
  else
    let hit := x.line != level && (s.srcSense n = 4 || (s.srcSense n = 2 && level) || (s.srcSense n = 3 && !level))
    if hit then s1.heldPulse (s1.edge n) else s1

/-- One event of a Pulse source: its line is high for one cycle (R322, R323). -/
def State.pulse (s : State) (n : Nat) : State := if srcReserved n then s else s.heldPulse (s.edge n)

/-- GCTL.ACC_COUNT increments, which pulses source ACCESS (R41, R322). -/
def State.accFault (s : State) (m : Nat) : State := (s.accErr m).pulse 0x40B

/-! ### Takes, service and routing after changes -/

/-- The source is presented to the target (R325). -/
def State.presentedTo (s : State) (n t : Nat) : Bool :=
  let x := s.src n
  x.pend && x.en && (if t < 2 then !x.tgt && s.srcModule n == t else x.tgt && x.offer && x.loc.toNat == t)

/-- A take or commit: PEND clears, a level source goes into ACT (R323). -/
def State.takeSrc (s : State) (n : Nat) : State :=
  s.updSrc n fun x => { x with pend := false, due := false, offer := false, act := x.act || s.srcLevelSense n }

/-- A level source leaves service: ACT clears, and its line is looked at again (R323, R337). -/
def State.endService (s : State) (t n : Nat) : State :=
  ((s.updTarget t fun g => { g with service := g.service.filter fun e => e.1 ≠ n }).updSrc n
    fun x => { x with act := false, loc := 0x7F }).levelEval n

/-- Every source that waits for a processor and has no offer is routed afresh. -/
def State.routeAll (s : State) : State :=
  s.each (s.srcs.map (·.1)) fun s n => if (s.src n).offer then s else s.route n

/-- A member became unavailable or its priority rose: the offers to it are withdrawn and routed afresh
(R329). -/
def State.reofferMember (s : State) (i : Nat) : State :=
  s.each (s.srcs.map (·.1)) fun s n =>
    let x := s.src n
    if x.offer && x.loc.toNat == i + 2 && !(s.candidate n i) then s.route n else s

/-- The highest-priority source in service at a target. -/
def topService (l : List (Nat × Nat)) : Option (Nat × Nat) :=
  l.foldl (fun b e => match b with
    | none => some e
    | some x => if x.2 < e.2 then some e else some x) none

/-- RETX from an interrupt handler ends the service of the highest-priority source in service (R330). -/
def State.endTopService (s : State) (core : Nat) : State :=
  let t := memberOfCore core + 2
  match topService (s.target t).service with
  | none => s
  | some e => (s.endService t e.1).routeAll

/-- At a lockup every source in service at the core leaves service and waits again (R330). -/
def State.dropService (s : State) (core : Nat) : State :=
  let t := memberOfCore core + 2
  let l := (s.target t).service
  let s1 := s.updTarget t fun g => { g with service := [] }
  s1.each l fun s e =>
    let s2 := s.updSrc e.1 fun x => { x with act := false, loc := 0x7F, offer := false }
    if s.srcLevelSense e.1 then s2.levelEval e.1 else s2.edge e.1

/-- The commit of an offer by a member: the source number, or 0x7FF (R329). -/
def State.commitOffer (s : State) (n i : Nat) : Option State :=
  let x := s.src n
  if x.pend && x.en && x.tgt && x.offer && x.loc.toNat == i + 2 then
    let s1 := (s.takeSrc n).updSrc n fun x => { x with loc := BitVec.ofNat 7 (i + 2), ptr := i, declined := [] }
    some ((s1.updTarget (i + 2) fun g => { g with service := (n, x.prio.toNat) :: g.service }).reofferMember i)
  else none

/-- A wake reason is held (R336). -/
def State.icWake (s : State) : Bool :=
  !s.batches.isEmpty || s.srcs.any fun e => e.2.en && e.2.pend && !e.2.tgt

/-- Batches of a module close together: their messages go in falling order of their sources' priority (R334). -/
def State.closeAll (s : State) (md : Nat) (l : List (Nat × Batch)) : State :=
  s.each (sortDesc (fun b => s.topPrio b.2.srcs) l) fun s b => s.closeBatch md (b.1 % 2048)

/-- Every open batch of a module closes (R336). -/
def State.flushModule (s : State) (md : Nat) : State := s.closeAll md (s.batches.filter fun b => b.1 / 2048 == md)

/-- The batches of a module that closed while the function could send nothing are sent (R63). -/
def State.batchSend (s : State) (md : Nat) : State :=
  if (s.link md).canIssue then s.closeAll md (s.batches.filter fun b => b.1 / 2048 == md && b.2.due) else s

/-- The messages of sources that became due while the function could send none, in falling order of priority (R63, R72, R334). -/
def State.dueSend (s : State) (md : Nat) : State :=
  s.each (sortDesc (fun n => (s.src n).prio.toNat) (s.srcs.map (·.1))) fun s n =>
    let x := s.src n
    if x.due && x.pend && x.en && !x.tgt && s.srcModule n == md && (s.link md).cfg.msixEn && (s.link md).canIssue then
      (s.updSrc n fun x => { x with due := false }).sendMsix md (s.srcVector n)
    else s

end Sys2Proof.Machine
end

