-- ==== Sys2Proof/Machine/Float.lean ====
section
/-! DEFINITION. The Float's counters: what a class may spend in a frame, charging, and overruns (R211 to R220). -/

namespace Sys2Proof.Machine
open Sys2Proof

/-- The kinds of a class in their rank (R211, R212): 2 GUARANTEED, 1 SHAPED, 0 BEST_EFFORT. -/
def State.kindOf (s : State) (c : Nat) : Nat := (s.cls c).act.kind.toNat

/-- The rank of an account in the Hawk and the Scrim: a class's kind, SYSTEM like GUARANTEED (R300). -/
def State.acctRank (s : State) (a : Nat) : Nat := if a = 64 then 2 else s.kindOf a

/-- A 24-bit budget as a ceiling: all ones is no ceiling, and 0 for a GUARANTEED class (R213). -/
def ceiling (guar : Bool) (b : BitVec 24) : Option Nat :=
  if b = BitVec.allOnes 24 then (if guar then some 0 else none) else some b.toNat

/-- A 20-bit port budget as a ceiling (R213, R227). -/
def portCeiling (guar : Bool) (b : BitVec 20) : Option Nat :=
  if b = BitVec.allOnes 20 then (if guar then some 0 else none) else some b.toNat

/-- What a unit, a CCW or a RUN costs (R213, R215). -/
structure Cost where
  disp : Nat := 0
  tcyc : Nat := 0
  ccyc : Nat := 0
  sbeat : Nat := 0
  urd0 : Nat := 0
  urd1 : Nat := 0
  /-- Bus time on a port: PORT code and units of 100 ns. -/
  bus : Option (Nat × Nat) := none
deriving DecidableEq, Repr

/-- The key of a per-tile counter: 0 DISP, 1 TCYC, 2 CCYC, 3 SBEAT. -/
def tileKey (t w : Nat) : Nat := 16 + 4 * t + w

/-- One charge of a cost: the counter's key, the ceiling and the amount. -/
def State.charges (s : State) (c t : Nat) (k : Cost) : List (Nat × Option Nat × Nat) :=
  let a := (s.cls c).act
  let g := decide (a.kind = 2)
  [(tileKey t 0, ceiling g a.disp, k.disp), (tileKey t 1, ceiling g a.tcyc, k.tcyc),
   (tileKey t 2, ceiling g a.ccyc, k.ccyc), (tileKey t 3, ceiling g a.sbeat, k.sbeat),
   (0, ceiling g a.urd0, k.urd0), (1, ceiling g a.urd1, k.urd1)]

/-- The ceiling of a class's bus time on a port (R227). -/
def State.busCeiling (s : State) (c p : Nat) : Option Nat :=
  portCeiling (decide (s.kindOf c = 2)) ((s.port p).bact.get (BitVec.allOnes 20) c)

/-- What a class has spent of a counter in this frame. -/
def State.spentOf (s : State) (c key : Nat) : Nat := (s.cls c).spent.get 0 key

/-- A charge fits under a ceiling after what was spent. -/
def under (ceil : Option Nat) (spent amount : Nat) : Bool :=
  amount == 0 || match ceil with
    | none => true
    | some b => decide (spent + amount ≤ b)

/-- Every charge of the cost fits what is left of the frame (R215). -/
def State.fits (s : State) (c t : Nat) (k : Cost) : Bool :=
  (s.charges c t k).all (fun e => under e.2.1 (s.spentOf c e.1) e.2.2)
    && match k.bus with
      | none => true
      | some (p, n) => under (s.busCeiling c p) ((s.port p).bspent.get 0 c) n

/-- Every charge but the bus time fits (R220). -/
def State.fitsNoBus (s : State) (c t : Nat) (k : Cost) : Bool := s.fits c t { k with bus := none }

/-- A cost that exceeds a whole per-frame budget never fits (R215). -/
def State.unfit (s : State) (c t : Nat) (k : Cost) : Bool :=
  !((s.charges c t k).all (fun e => under e.2.1 0 e.2.2)
    && match k.bus with
      | none => true
      | some (p, n) => under (s.busCeiling c p) 0 n)

/-- The cost is charged to every counter it touches (R215). -/
def State.charge (s : State) (c t : Nat) (k : Cost) : State :=
  let x := s.cls c
  let sp := (s.charges c t k).foldl (fun m e => if e.2.2 = 0 then m else m.set e.1 (m.get 0 e.1 + e.2.2)) x.spent
  let s1 := s.setCls c { x with spent := sp }
  match k.bus with
  | none => s1
  | some (p, n) => s1.updPort p fun q => { q with bspent := q.bspent.set c (q.bspent.get 0 c + n) }

/-- Cycles not used go back to the counter of the frame they were charged in (R213). -/
def State.refund (s : State) (c key n : Nat) : State :=
  s.updCls c fun x => { x with spent := x.spent.set key (x.spent.get 0 key - n) }

/-- Beats that a running routine makes are charged as they are made and may go below 0 (R216). -/
def State.beat (s : State) (c t n : Nat) : State := s.charge c t { sbeat := n }

/-- A budget of the class was found short (FLT_STAT.EXH). -/
def State.exhaust (s : State) (c : Nat) : State := s.updCls c fun x => { x with exh := true }

/-- The counts of a park, and of an overrun with its frame (R220). -/
def State.countPark (s : State) (c : Nat) (overrun : Bool) : State :=
  let s1 := s.updCls c fun x =>
    if overrun then { x with parks := satInc x.parks, overruns := satInc x.overruns, exh := true,
                             last := BitVec.ofNat 32 s.frm.frame.toNat }
    else { x with parks := satInc x.parks }
  if overrun && s.kindOf c = 2 then s1.pulse 0x40C else s1

/-- The reload of one SBEAT counter: what was spent beyond the budget is a debt that the next frame starts
with (R214, R216). -/
def reloadSbeat (ceil : Option Nat) (spent : Nat) : Nat :=
  match ceil with
  | none => 0
  | some b => spent - b

/-- The reload of a class at a tick: every counter starts again, less the SBEAT debt of each tile (R214,
R216). -/
def reloadClass (x : FClass) : FClass :=
  let ceil := ceiling (decide (x.act.kind = 2)) x.act.sbeat
  let sp : Table Nat := (List.range 8).filterMap fun t =>
    let d := reloadSbeat ceil (x.spent.get 0 (tileKey t 3))
    if d = 0 then none else some (tileKey t 3, d)
  { x with spent := sp, exh := false, debt := !sp.isEmpty }

/-- A commit that leaves the class with no SBEAT ceiling drops its debt (R216). -/
def FClass.commit (x : FClass) (b : Budgets) : FClass :=
  let x1 := { x with act := b }
  match ceiling (decide (b.kind = 2)) b.sbeat with
  | none => { x1 with spent := x1.spent.filter fun e => !(decide (16 ≤ e.1) && e.1 % 4 == 3), debt := false }
  | some _ => x1

/-- REM of a counter as a 25-bit value (FLT_..._REM): all ones in 24 bits while there is no ceiling. -/
def remOf (ceil : Option Nat) (spent : Nat) : Nat :=
  match ceil with
  | none => 0xFFFFFF
  | some b => (BitVec.ofInt 25 ((b : Int) - (spent : Int))).toNat

end Sys2Proof.Machine
end

