-- ==== Sys2Proof/Machine/HawkOps.lean ====
section
/-! DEFINITION. Hawk cells: their states, grants, accounts, chains and frees (R292 to R303, R507). -/

namespace Sys2Proof.Machine
open Sys2Proof

/-- The SYSTEM account (R299). -/
def sysAcct : Nat := 64

/-- A slice is in service (GCTL_TOPO.HAWK_Q). -/
def State.sliceOn (s : State) (q : Nat) : Bool := bitOf s.gctl.hawkQ q

/-- The state of a cell (R296). -/
def State.cell (s : State) (k : Nat) : CellSt := s.hawk.cells.get .free k

/-- A cell is retired or withdrawn (R296, R507). -/
def State.retiredCell (s : State) (k : Nat) : Bool := s.cell k = .retired

/-- The state with a cell put into a state and charged to an account plus 1, 0 for none (R296, R299). -/
def State.setCell (s : State) (k : Nat) (c : CellSt) (acct : Nat) : State :=
  { s with hawk := { s.hawk with cells := s.hawk.cells.set k c, acct := s.hawk.acct.set k acct } }

/-- A cell is FREE in a slice in service. -/
def State.cellFree (s : State) (k : Nat) : Bool := decide (k < 32768) && s.sliceOn (k / 8192) && s.cell k = .free

/-- A cell is in CREDIT. -/
def isCredit (c : CellSt) : Bool := match c with
  | .credit _ => true
  | _ => false

/-- Listed cells of slices in service in a state that is neither FREE nor, unless asked, CREDIT. -/
def State.cellsBusy (s : State) (inSlice : Nat → Bool) (credit : Bool) : Nat :=
  (s.hawk.cells.filter fun e => inSlice (e.1 / 8192) && e.2 != .free && (credit || !isCredit e.2)).length

/-- Cells in FREE or CREDIT, die-wide: F of R299. -/
def State.freeOrCredit (s : State) : Nat := s.gctl.cells.toNat - s.cellsBusy s.sliceOn false

/-- Cells charged to an account (R299). -/
def State.used (s : State) (a : Nat) : Nat := (s.hawk.acct.filter fun e => e.2 == a + 1).length

/-- The reserve of an account: 0x0200 for SYSTEM and 0 for a class at reset (R303). -/
def State.rsv (s : State) (a : Nat) : Nat := (s.hawk.rsv.get (if a = sysAcct then 0x200 else 0) a).toNat

/-- The ceiling of an account, 0xFFFF none (R303). -/
def State.ceil (s : State) (a : Nat) : Nat := (s.hawk.ceil.get 0xFFFF a).toNat

/-- OWED: what the reserves still claim (R299). -/
def State.owed (s : State) : Nat := (List.range 65).foldl (fun n a => n + (s.rsv a - s.used a)) 0

/-- A grant to the account is allowed (R299). -/
def State.grantOk (s : State) (a : Nat) : Bool :=
  (s.ceil a == 0xFFFF || decide (s.used a < s.ceil a))
    && (decide (s.used a < s.rsv a) || decide (s.owed + 1 ≤ s.freeOrCredit))

/-- The first FREE cell from k on, among n cells. -/
def State.firstFree (s : State) (k : Nat) : Nat → Option Nat
  | 0 => none
  | n + 1 => if s.cellFree k then some k else s.firstFree (k + 1) n

/-- A FREE cell of a slice: the one proposed if it is free there, else the first (R297); a resting slice counts as having none
(R403). -/
def State.freeIn (s : State) (q : Nat) : Option Nat :=
  let p := Config.freeCell s.freeNext
  if s.sliceOn q && (s.dom (127 + q)).level == 0 then
    if decide (p / 8192 = q) && s.cellFree p then some p else s.firstFree (q * 8192) 8192
  else none

/-- A FREE cell from the home slice, or from the next slice in service in ascending order (R297). -/
def State.pickCell (s : State) (home : Nat) : Option Nat :=
  (List.range 4).foldl (fun r i => match r with
    | some k => some k
    | none => s.freeIn ((home + i) % 4)) none

/-- The home slice of a master's requests (R297). -/
def homeSlice (m : Nat) : Nat :=
  if 0x80 ≤ m ∧ m < 0x90 then (m - 0x80) / 4
  else match coreOfMid m with
    | some c => tileOfCore c / 2
    | none => 3

/-- A cell in CREDIT of a producer. -/
def State.creditCell (s : State) (p : Nat) : Option Nat :=
  (s.hawk.cells.find? fun e => e.2 = .credit p).map (·.1)

/-- A cell is granted from a home slice to an account in a state (R297, R299). -/
def State.grant (s : State) (home acct : Nat) (c : CellSt) : Option (Nat × State) :=
  if s.grantOk acct then
    match s.pickCell home with
    | none => none
    | some k => some (k, { s.setCell k c (acct + 1) with freeNext := s.freeNext + 1 })
  else none

/-- A producer's cell: from its credit if it holds one, else granted (R298, R299). -/
def State.grantProducer (s : State) (p home acct : Nat) (c : CellSt) : Option (Nat × State) :=
  if s.grantOk acct then
    match s.creditCell p with
    | some k => some (k, s.setCell k c (acct + 1))
    | none => s.grant home acct c
  else none

/-- n cells granted to a producer one after the other; none if one is refused. -/
def State.grantMany (s : State) (p home acct : Nat) (c : CellSt) : Nat → Option (List Nat × State)
  | 0 => some ([], s)
  | n + 1 =>
    match s.grantProducer p home acct c with
    | none => none
    | some (k, s1) =>
      match s1.grantMany p home acct c n with
      | none => none
      | some (l, s2) => some (k :: l, s2)

/-- The sequencer of the channel's tile that holds a credit cell, or the tile's first (R27, R298). -/
def State.seqOf (s : State) (ch : Nat) : Nat :=
  let a := 2 * tileOfCh ch
  match s.creditCell a, s.creditCell (a + 1) with
  | none, some _ => a + 1
  | _, _ => a

/-- The slice that an address of the Hawk window lies in (R292). -/
def sliceAt (a : Nat) : Nat := (a - hawkBase) / 0x80000

/-- Bytes of one Hawk cell as an access finds them: a slice out of service reads 0 (R34). -/
def State.hawkBytes (s : State) (a n : Nat) : List Byte := if s.sliceOn (sliceAt a) then s.bytesAt a n else List.replicate n 0

/-- Bytes stored into one Hawk cell: a slice out of service takes none (R34). -/
def State.hawkStore (s : State) (a : Nat) (l : List Byte) : State := if s.sliceOn (sliceAt a) then s.store a l else s

/-- The link word of a cell (R293). -/
def State.linkWord (s : State) (k : Nat) : Nat := ofLeBytes (s.hawkBytes (cellAddr k + 60) 4)
/-- NEXT of a link word. -/
def lwNext (w : Nat) : Nat := w % 0x8000
/-- END of a link word. -/
def lwEnd (w : Nat) : Bool := Nat.testBit w 15
/-- FILL of a link word. -/
def lwFill (w : Nat) : Nat := (w >>> 16) % 64
/-- A link word (R293). -/
def mkLink (next : Nat) (last : Bool) (fill kind : Nat) : Nat := next % 0x8000 + b2n last * 0x8000 + fill * 0x10000 + kind * 0x400000

/-- One cell goes back to FREE and off its account; a retired one stays out for the rest of the run (R296). -/
def State.freeOne (s : State) (k : Nat) : State := if s.retiredCell k then s else s.setCell k .free 0

/-- A waiting grant request: its channel goes on looking at its next step; the request is marked served
(R300). -/
def bestWait (s : State) (l : List GrantWait) : Option GrantWait :=
  l.foldl (fun b w => match b with
    | none => some w
    | some x => if s.acctRank x.acct < s.acctRank w.acct then some w else some x) none

/-- The cells of a chain from k on, followed by NEXT up to the END cell or a retired cell (R293, R507): the
cells before it, and the retired cell met. -/
def State.chainCells (s : State) (k : Nat) : Nat → List Nat × Option Nat
  | 0 => ([], none)
  | n + 1 =>
    if s.retiredCell k then ([], some k) else
    let w := s.linkWord k
    if lwEnd w then ([k], none)
    else
      let r := s.chainCells (lwNext w) n
      (k :: r.1, r.2)

/-- Longest chain that can be: every cell of the Hawk. -/
def maxCells : Nat := 32768

/-- A cell leaves the pool and its account for the rest of the run, and is counted (R296, R507). -/
def State.withdraw (s : State) (k : Nat) : State :=
  let s1 := s.setCell k .retired 0
  { s1 with hawk := { s1.hawk with retired := satInc s1.hawk.retired } }

/-- The cells of a FIFO are freed in their order: freeing stops at a retired cell, and the cells linked after it are withdrawn
(R507). -/
def State.freeCells (s : State) (cells : List Nat) : State :=
  let before := cells.takeWhile fun k => !(s.retiredCell k)
  let behind := (cells.dropWhile fun k => !(s.retiredCell k)).drop 1
  (s.each before fun s k => s.freeOne k).each behind fun s k => s.withdraw k

/-- The cells of a channel's chain are freed; behind a retired cell they are withdrawn (R507):
every other cell in the same state leaves the pool. -/
def State.freeChain (s : State) (owner : CellSt) (head : Nat) : State :=
  let r := s.chainCells head (s.hawk.cells.length + 1)
  let s1 := s.each r.1 fun s k => if s.cell k = owner then s.freeOne k else s
  match r.2 with
  | none => s1
  | some _ => s1.each ((s1.hawk.cells.filter fun e => e.2 = owner).map (·.1)) fun s k => s.withdraw k

/-- The chain of a channel is freed and CHAIN_V cleared (R141). -/
def State.freeChChain (s : State) (ch : Nat) : State :=
  match (s.chan ch).chain with
  | none => s
  | some h => (s.freeChain (.chain ch) h).updChan ch fun c => { c with chain := none }

/-- A cell whose error cannot be corrected leaves the pool for the rest of the run (R29, R296); source ECC
pulses (R322). -/
def State.retire (s : State) (k : Nat) : State := (s.withdraw k).pulse 0x40A

/-- Cells held by a core with a context recorded are freed (R302). -/
def State.freeHeld (s : State) (m ctx : Nat) : State :=
  s.each ((s.hawk.cells.filter fun e => e.2 = .held m ctx).map (·.1)) fun s k => s.freeOne k

/-- Every cell held by a master is freed (R302). -/
def State.freeHeldAll (s : State) (m : Nat) : State :=
  s.each ((s.hawk.cells.filter fun e => match e.2 with
    | .held m' _ => m' == m
    | _ => false).map (·.1)) fun s k => s.freeOne k

/-! ### Data in chains (R294) -/

/-- Payload bytes of a chain's cell, none where the cell ends the chain badly (R294). -/
def cellFill (w : Nat) : Option Nat :=
  if lwEnd w then (if lwFill w = 0 ∨ 60 < lwFill w then none else some (lwFill w)) else some 60

/-- How a walk along a chain can fail: the chain ends (R142, R294), or a retired cell is met (R507). -/
inductive ChainErr where
  | ended
  | retired
deriving DecidableEq, Repr

/-- The place of payload byte `off` of the chain from cell k: the cell and the byte in it, with the payload
bytes from there to the end of that cell (R294). -/
def State.chainAt (s : State) (k off : Nat) : Nat → Except ChainErr (Nat × Nat × Nat)
  | 0 => .error .ended
  | n + 1 =>
    if s.retiredCell k then .error .retired else
    let w := s.linkWord k
    match cellFill w with
    | none => .error .ended
    | some f =>
      if off < f then .ok (k, off, f - off)
      else if lwEnd w then .error .ended else s.chainAt (lwNext w) (off - f) n

/-- The cell of a chain that holds a payload offset, walked to from cell k, which begins at payload offset `start`: the cell, the offset
at which it begins, and how many cells were crossed; where the walk fails, the cell at which it does (R270, R294). -/
def State.chainFrom (s : State) (k start off : Nat) : Nat → Except (ChainErr × Nat) (Nat × Nat × Nat)
  | 0 => .error (.ended, k)
  | n + 1 =>
    if s.retiredCell k then .error (.retired, k) else
    let w := s.linkWord k
    match cellFill w with
    | none => .error (.ended, k)
    | some f =>
      if off < start + f then .ok (k, start, 0)
      else if lwEnd w then .error (.ended, k)
      else match s.chainFrom (lwNext w) (start + f) off n with
        | .error e => .error e
        | .ok (c, b, x) => .ok (c, b, x + 1)

/-- n payload bytes of a chain from a payload offset (R294). -/
def State.chainRead (s : State) (k off n : Nat) : Nat → Except ChainErr (List Byte)
  | 0 => if n = 0 then .ok [] else .error .ended
  | fuel + 1 =>
    if n = 0 then .ok [] else
    match s.chainAt k off (s.hawk.cells.length + 32) with
    | .error e => .error e
    | .ok (c, b, room) =>
      let m := min room n
      match s.chainRead k (off + m) (n - m) fuel with
      | .error e => .error e
      | .ok l => .ok (s.hawkBytes (cellAddr c + b) m ++ l)

/-- Bytes stored into a chain that stands, from a payload offset (R142). -/
def State.chainWrite (s : State) (k off : Nat) (l : List Byte) : Nat → Except ChainErr State
  | 0 => if l.isEmpty then .ok s else .error .ended
  | fuel + 1 =>
    if l.isEmpty then .ok s else
    match s.chainAt k off (s.hawk.cells.length + 32) with
    | .error e => .error e
    | .ok (c, b, room) =>
      (s.hawkStore (cellAddr c + b) (l.take room)).chainWrite k (off + room) (l.drop room) fuel

/-- The last cell of a chain with its fill. -/
def State.chainTail (s : State) (k : Nat) : Nat → Option (Nat × Nat)
  | 0 => none
  | n + 1 =>
    let w := s.linkWord k
    if s.retiredCell k then none
    else if lwEnd w then some (k, lwFill w) else s.chainTail (lwNext w) n

/-- Data laid into new cells, each linked to the next; the last one ends the chain (R293, R294). -/
def State.fillCells (s : State) (cells : List Nat) (l : List Byte) : State :=
  match cells with
  | [] => s
  | [k] => s.store (cellAddr k) (l.take 60 ++ List.replicate (60 - l.length) 0 ++ leBytes 4 (mkLink 0 true (min l.length 60) 0))
  | k :: k2 :: r => (s.store (cellAddr k) (l.take 60 ++ leBytes 4 (mkLink k2 false 0 0))).fillCells (k2 :: r) (l.drop 60)

/-- Data appended to a channel's chain, or a new chain made of them: cells are granted for what does not fit
the last cell, and none is taken if one is refused (R141, R299). -/
def State.chainAppend (s : State) (ch acct : Nat) (l : List Byte) : Option State :=
  if l.isEmpty then some s else
  let home := tileOfCh ch / 2
  let p := s.seqOf ch
  match (s.chan ch).chain with
  | none =>
    match s.grantMany p home acct (.chain ch) (ceilDiv l.length 60) with
    | none => none
    | some (cells, s1) => some ((s1.fillCells cells l).updChan ch fun c => { c with chain := cells.head? })
  | some h =>
    match s.chainTail h (s.hawk.cells.length + 1) with
    | none => none
    | some (tail, fill) =>
      let room := 60 - fill
      let s0 := s.store (cellAddr tail + fill) (l.take room)
      if l.length ≤ room then
        some (s0.store (cellAddr tail + 60) (leBytes 4 (mkLink 0 true (fill + l.length) 0)))
      else
        match s0.grantMany p home acct (.chain ch) (ceilDiv (l.length - room) 60) with
        | none => none
        | some (cells, s1) =>
          some ((s1.store (cellAddr tail + 60) (leBytes 4 (mkLink (cells.headD 0) false 0 0))).fillCells cells (l.drop room))

/-- Bytes that the last cell of a channel's chain can still take, a whole new cell where it is full or none stands; the chain can end badly or
hold a retired cell (R294, R507). -/
def State.tailRoom (s : State) (ch : Nat) : Except ChainErr Nat :=
  match (s.chan ch).chain with
  | none => .ok 60
  | some h =>
    if (s.chainCells h (s.hawk.cells.length + 1)).2.isSome then .error .retired else
    match s.chainTail h (s.hawk.cells.length + 1) with
    | none => .error .ended
    | some (_, f) => if f = 0 ∨ 60 < f then .error .ended else .ok (if f < 60 then 60 - f else 60)

/-- A waiting grant request of a channel is recorded, oldest first (R300). -/
def State.waitGrant (s : State) (ch acct : Nat) : State :=
  if s.hawk.waits.any (fun w => w.ch == ch) then s
  else { s with hawk := { s.hawk with waits := s.hawk.waits ++ [{ ch, acct, ticks := 0 }] } }

/-- The request of a channel waits no longer. -/
def State.unwaitGrant (s : State) (ch : Nat) : State :=
  { s with hawk := { s.hawk with waits := s.hawk.waits.filter fun w => w.ch ≠ ch } }

end Sys2Proof.Machine
end

