-- ==== Sys2Proof/Machine/LedgerOps.lean ====
section
/-! DEFINITION. CRC-32, the journal, the frames the Dust Sheet sends, and the effect ledger with its MRAM slots
(R176 to R178, R429 to R433, R455 to R470). -/

namespace Sys2Proof.Machine
open Sys2Proof

/-! ### CRC-32 (IEEE 802.3) -/

/-- One bit of the reflected CRC-32. -/
def crcBit (c : Word32) : Word32 := if bitOf c 0 then (c >>> 1) ^^^ 0xEDB88320 else c >>> 1

/-- One byte of the reflected CRC-32. -/
def crcByte (c : Word32) (b : Byte) : Word32 :=
  crcBit (crcBit (crcBit (crcBit (crcBit (crcBit (crcBit (crcBit (c ^^^ b.setWidth 32))))))))

/-- CRC-32 with the IEEE 802.3 polynomial over a run of bytes (R429, R455). -/
def crc32 (l : List Byte) : Word32 := ~~~ (l.foldl crcByte 0xFFFFFFFF)

/-! ### Journal (R429 to R431) -/

/-- Units of 32 B in the journal area: 2,176 KiB (R427). -/
def journalUnits : Nat := 69632

/-- The newest records that fit a number of units. -/
def fitUnits (l : List JRec) (n : Nat) : List JRec :=
  match l with
  | [] => []
  | r :: t => let u := if r.long then 2 else 1
    if n < u then [] else r :: fitUnits t (n - u)

/-- The records held in FWC memory are written to the MRAM; the oldest give way (R431). -/
def State.flushJournal (s : State) : State :=
  if s.jheld.isEmpty then s else
    (({ s with journal := fitUnits (s.jheld ++ s.journal) journalUnits, jheld := [] } : State).wakeDomain 131 5).wakeDomain 133 5

/-- A record is made: it takes the next SEQ and waits in FWC memory, at most 64 there (R429, R431). -/
def State.journalRec (s : State) (code : BitVec 16) (long step fw : Bool) (mid : Nat) (payload : Nat) : State :=
  let r : JRec := { seq := s.jseq + 1, code, long, step, fw, dipped := bitOf s.frm.flags 0, mid := BitVec.ofNat 9 mid,
                    frame := s.frm.frame, boot := BitVec.ofNat 16 s.prm.starts.toNat, payload := BitVec.ofNat 312 payload }
  let s1 := if 64 ≤ s.jheld.length then s.flushJournal else s
  { s1 with jseq := s.jseq + 1, jheld := r :: s1.jheld }

/-- The FWC's master ID (R49). -/
def midFwc : Nat := 0x10

/-- A PARTNER_VIOLATION of the host (R430): kind, queue, the count offered, WHY. -/
def State.journalHost (s : State) (m kind q count why : Nat) : State :=
  s.journalRec 0x0050 true false false m (0xFE + kind <<< 8 + (q % 1024) <<< 11 + count <<< 56 + why <<< 88)

/-- A record as it stands in the MRAM and in JOURNAL_READ (R429). -/
def JRec.bytes (r : JRec) : List Byte :=
  let head := leBytes 8 r.seq.toNat ++ leBytes 2 r.code.toNat
    ++ leBytes 1 (b2n r.long + 2 * b2n r.step + 4 * b2n r.fw + 8 * b2n r.dipped)
    ++ leBytes 2 r.mid.toNat ++ leBytes 6 r.frame.toNat ++ leBytes 2 r.boot.toNat
    ++ leBytes (if r.long then 39 else 7) r.payload.toNat
  head ++ leBytes 4 (crc32 head).toNat

/-! ### Frames of the Dust Sheet -/

/-- The gates of R177 apply: this die is ACTIVE and its partner in standby is in sync. -/
def State.paired (s : State) : Bool := s.ds.role = 1 && s.ds.sub = 1

/-- Gates stand: in a pair in sync, and until 1 µs after the fence pulse that ends it (R177, R450). -/
def State.gates (s : State) : Bool := s.paired || s.ds.pulse.isSome

/-- The die drives the field (R449). -/
def State.drives (s : State) : Bool := s.ds.role = 0 || s.ds.role = 1

/-- The pair link is up (R453). -/
def State.dsUp (s : State) : Bool := s.ds.lanes ≠ 0

/-- The precedence of a frame that waits (R458): HEARTBEAT, then gated frames, then BOUNDARY and CONFIG, then BULK. ACK and NACK take no
SEQ and never wait. A QUEUE frame of a binding keeps its place among the gated ones, the next of which covers it (R460); for JOIN and
HANDOVER the spec names no place (log 105). -/
def TxFrame.rank (f : TxFrame) : Nat :=
  if f.ty = .heartbeat then 0 else if f.prio || f.ty = .queue then 1 else if f.ty = .bulk then 3 else 2

/-- The ACK value that a frame sent now carries: the highest SEQ received in order; a DETACHED die acknowledges nothing new (R455, R474). -/
def Ds.ackVal (d : Ds) : BitVec 16 := if d.role = 2 ∧ d.sub = 3 then d.ackOut else d.rxSeq - 1

/-- Frames that wait go out while the link is up and fewer than 1,024 are out without acknowledgement: each takes the next SEQ and carries
the ACK (R455, R457). -/
def Ds.sendOn (d : Ds) : Nat → Ds
  | 0 => d
  | n + 1 => match d.txWait with
    | [] => d
    | f :: rest =>
      if d.lanes = 0 ∨ 1024 ≤ d.unacked.length then d
      else Ds.sendOn { d with txWait := rest, txSeq := d.txSeq + 1, ackOut := d.ackVal,
                              unacked := d.unacked ++ [{ f with seq := d.txSeq, tries := 1, ack := d.ackVal }] } n

/-- Every frame that waits is sent as far as that is possible now. -/
def Ds.flush (d : Ds) : Ds := d.sendOn d.txWait.length

/-- A frame is sent, or waits in its order of precedence for the link or for acknowledgements, and is kept until it is acknowledged
(R457, R458). Outside a pair in sync nothing is kept for a link that is down: such a die sends nothing new. -/
def State.dsSend (s : State) (ty : TxType) (prio : Bool) (body : TxBody) : State :=
  if s.dsUp || s.paired then
    let f : TxFrame := { id := s.ds.made, ty, prio, body, madeAt := s.frm.time, frame := s.frm.frame }
    let w := s.ds.txWait
    { s with ds := Ds.flush { s.ds with made := s.ds.made + 1,
                                        txWait := w.filter (fun g => g.rank ≤ f.rank) ++ f :: w.filter (fun g => f.rank < g.rank) } }
  else s

/-- The number of the newest frame made. -/
def State.lastFrame (s : State) : Nat := s.ds.made - 1

/-- A mirror frame is sent while the die is ACTIVE with a partner in sync, or with one that joins and has been sent its snapshot (R460,
R472 step 2). -/
def State.mirror (s : State) (ty : TxType) (prio : Bool) (body : TxBody) : State :=
  if s.ds.role = 1 && (s.ds.sub = 1 || s.ds.joinStep = 3) then s.dsSend ty prio body else s

/-- An accepted write of a mirrored register is carried in a CONFIG frame: its offset, size and value (R460, R485). -/
def State.cfgMirror (s : State) (off size v : Nat) : State :=
  s.mirror .config false (.config [.reg off size (BitVec.ofNat 64 v)])

/-- A ledger entry as it stands in its slice and in a LEDGER frame (R467). -/
def LEntry.bytes (e : LEntry) : List Byte :=
  leBytes 2 (e.ch + b2n e.rs * 0x1000 + e.st.toNat * 0x2000) ++ leBytes 2 e.queue ++ leBytes 4 e.cnt.toNat
    ++ leBytes 8 e.ccw.toNat ++ leBytes 2 e.ord.toNat ++ leBytes 2 e.gen.toNat ++ leBytes 4 e.openFrame.toNat
    ++ leBytes 2 e.cond.toNat ++ [0, 0] ++ leBytes 4 e.residual

/-! ### Ledger entries and MRAM slots -/

/-- The frame number's low half, as records carry it (R165). -/
def State.frameLo (s : State) : Word32 := BitVec.ofNat 32 s.frm.frame.toNat

/-- The first index from i on that no entry of a table uses, among n. -/
def firstGap {α : Type} (t : Table α) (i : Nat) : Nat → Option Nat
  | 0 => none
  | n + 1 => if t.any fun e => e.1 == i then firstGap t (i + 1) n else some i

/-- A free entry of a tile's slice (R466). -/
def State.freeEntry (s : State) (t : Nat) : Option Nat := firstGap s.ledger (t * 4096) 4096

/-- A reusable MRAM slot (R432, R433). -/
def State.freeSlot (s : State) : Option Nat := firstGap s.mled 0 8192

/-- Highest number of entries of a tile in use since the last read (DS_LEDGER.PEAK). -/
def State.notePeak (s : State) (t : Nat) : State :=
  let n := (s.ledger.filter fun e => e.1 / 4096 = t).length
  { s with ds := { s.ds with peak := s.ds.peak.set t (max n (s.ds.peak.get 0 t)) } }

/-- Why an output effect cannot open now (R191, R433, R470). -/
inductive NoOpen where
  | ledger
  | cornice
deriving DecidableEq, Repr

/-- The tile's Cornice core is locked, out of service or frozen (R191, R442). -/
def State.corniceAway (s : State) (t : Nat) : Bool := bitOf s.gctl.crnLock t || bitOf s.gctl.freezeCrn t || (s.core (64 + t)).out

/-- The Cornice core of a tile is being recovered (R290). -/
def State.recovering (s : State) (t : Nat) : Bool := bitOf s.gctl.crnLock t && !(s.core (64 + t)).out

/-- The ledger slices that the snapshot of a join has still to carry are sent, but for those of tiles whose Cornice core is being recovered
(R472, R475). -/
def State.sendSlices (s : State) : State :=
  if s.ds.role ≠ 1 then s else
  s.each (s.ds.sliceDue.filter fun t => !(s.recovering t)) fun s t =>
    (s.each (s.ledger.filter fun e => tileOfCh e.2.ch = t) fun s e => s.dsSend .ledger false (.bytes e.2.bytes)) |> fun s =>
      { s with ds := { s.ds with sliceDue := s.ds.sliceDue.erase t } }

/-- An output effect of a channel can open (R191, R433, R470). -/
def State.canOpen (s : State) (ch : Nat) : Option NoOpen :=
  if s.corniceAway (tileOfCh ch) then some .cornice
  else if (s.freeEntry (tileOfCh ch)).isNone then some .ledger
  else if !s.paired && s.freeSlot.isNone then some .ledger
  else none

/-- A PI record will report the CCW or chain that is executing (R162, R175). -/
def Chan.piDue (c : Chan) : Bool :=
  c.ien && (c.xfer.pi || match c.blocks.find? fun b => b.1 = c.ccwa &&& ~~~(0x3F : Word64) with
    | none => false
    | some b => bitOf (b.2.getD (bitsOf c.ccwa 4 2) 0) 12)

/-- The DONE mark of a channel's open effect (R176, R178): with the condition bits and the bytes not moved; an
entry with RS = 1 returns to FREE, unless a PI record reports it at once (R470, R468). -/
def State.doneEffect (s : State) (ch residual : Nat) : State :=
  let x := (s.chan ch).xfer
  let s1 := match x.slot with
    | none => s
    | some i =>
      match (s.ledger.find? fun e => e.1 == i) with
      | none => s
      | some (_, e) =>
        let e1 := { e with st := 2, cond := BitVec.ofNat 8 (s.chan ch).cond.toNat, residual }
        let s2 := if e.rs && !(s.chan ch).piDue then { s with ledger := s.ledger.erase i } else { s with ledger := s.ledger.set i e1 }
        s2.mirror .ledger true (.bytes e1.bytes)
  match x.mslot with
  | none => s1
  | some j =>
    match (s1.mled.find? fun e => e.1 == j) with
    | none => s1
    | some (_, m) => { s1 with mled := s1.mled.set j { m with done := true } }

/-- A bounced or refused message was not delivered: the entry and the slot return to FREE (R468). -/
def State.dropEffect (s : State) (ch : Nat) : State :=
  let x := (s.chan ch).xfer
  let s1 := match x.slot with
    | none => s
    | some i => { s with ledger := s.ledger.erase i }
  let s2 := match x.mslot with
    | none => s1
    | some j => { s1 with mled := s1.mled.erase j }
  s2.updChan ch fun c => { c with xfer := { c.xfer with slot := none, mslot := none } }

/-- The REPORTED mark of an entry (R176, R468). -/
def State.markReported (s : State) (i : Nat) (e : LEntry) : State :=
  { s with ledger := s.ledger.set i { e with st := 3 } }.mirror .ledger true (.bytes { e with st := 3 }.bytes)

/-- A PI record reports the effect of its CCW (R175, R468). -/
def State.reportOne (s : State) (ch : Nat) (slot mslot : Option Nat) : State :=
  let s1 := match slot with
    | none => s
    | some i =>
      match (s.ledger.find? fun e => e.1 == i && e.2.ch == ch) with
      | none => s
      | some (_, e) => s.markReported i e
  match mslot with
  | none => s1
  | some j => { s1 with mled := s1.mled.filter fun e => e.1 != j || e.2.ch != ch }

/-- The recovery record of a channel (R469). -/
def Chan.recovery (c : Chan) : List Byte :=
  leBytes 8 c.anchor.toNat ++ leBytes 2 c.gen.toNat ++ leBytes 2 c.nextOrd.toNat ++ leBytes 2 c.rfloor.toNat ++ [0, 0]

/-- The code of a channel state (R135). -/
def CState.code (x : CState) : Nat := match x with
  | .idle => 0
  | .startPending => 1
  | .active => 2
  | .waitTick => 3
  | .waitEvent => 4
  | .suspended => 5
  | .statusPending => 6
  | .halted => 7
  | .error => 8

/-- The 64 B Lath entry as the CH registers lay it out (R170). -/
def Chan.lath (c : Chan) : List Byte :=
  leBytes 4 (c.st.code + b2n c.parked * 16 + b2n c.haltReq * 32 + c.jumps * 256 + c.lastStatus.toNat * 65536)
    ++ leBytes 4 (c.queue + b2n c.bound * 1024 + c.ctx * 2048 + c.wcls * 65536 + b2n c.crn * 0x400000 + b2n c.inRun * 0x800000
        + (c.core % 64) * 0x1000000)
    ++ leBytes 8 c.ccwa.toNat ++ leBytes 8 c.arg.toNat ++ leBytes 8 c.data.toNat
    ++ leBytes 4 (c.remain + c.portions.toNat * 0x1000000)
    ++ leBytes 4 (c.cond.toNat + match c.chain with
        | none => 0
        | some h => h * 0x10000 + 0x80000000)
    ++ leBytes 8 c.irec.toNat
    ++ leBytes 4 (c.irsz.toNat + b2n c.ien * 16 + c.iseq.toNat * 65536)
    ++ leBytes 4 (c.pend.toNat + c.mask.toNat * 65536)
    ++ leBytes 4 (c.lbase + c.lcells * 65536) ++ leBytes 4 c.user.toNat

/-- A LATH record of a channel: all four groups and the recovery record (R456, R460). -/
def State.mirrorCh (s : State) (ch : Nat) : State :=
  s.mirror .lath true (.bytes (leBytes 4 (ch + 0xF000 + 0x10000) ++ (s.chan ch).lath ++ (s.chan ch).recovery))

/-- A channel changes, and the change is mirrored (R460). -/
def State.goChan (s : State) (ch : Nat) (f : Chan → Chan) : State := (s.updChan ch f).mirrorCh ch

/-- A record reports every effect of a channel below an ordinal of an anchor generation (R175): each is marked REPORTED, RFLOOR rises and
the entries return to FREE; their MRAM slots can be reused (R432, R468 to R470). -/
def State.reportBelow (s : State) (ch : Nat) (gen floor : BitVec 16) (mslots : List Nat) : State :=
  let below (e : LEntry) : Bool := e.ch == ch && e.gen == gen && decide (e.ord.toNat < floor.toNat)
  let s1 := s.each (s.ledger.filter fun e => below e.2) fun s e => s.markReported e.1 e.2
  let s2 := { s1 with ledger := s1.ledger.filter fun e => !below e.2, mled := s1.mled.filter fun e => e.2.ch != ch || !mslots.contains e.1 }
  if (s2.chan ch).gen = gen ∧ (s2.chan ch).rfloor.toNat < floor.toNat then s2.goChan ch fun c => { c with rfloor := floor } else s2

/-- A FINAL record reports every effect of its program (R174). -/
def State.reportAll (s : State) (ch : Nat) : State :=
  let c := s.chan ch
  let s1 := s.reportBelow ch c.gen c.nextOrd ((s.mled.filter fun e => e.2.ch == ch).map (·.1))
  s1.updChan ch fun c => { c with xfer := { c.xfer with slot := none, mslot := none } }

/-- An effect that was opened before the partner was lost takes an MRAM slot, while one is free (R178, R432). -/
def State.giveSlot (s : State) (ch : Nat) : State :=
  let x := (s.chan ch).xfer
  match x.slot, x.mslot with
  | some i, none =>
    match s.ledger.find? fun e => e.1 == i, s.freeSlot with
    | some (_, e), some j =>
      { s with mled := s.mled.set j { ch, rs := e.rs, queue := e.queue, cnt := e.cnt, ccw := e.ccw, frame := e.openFrame, done := e.st = 2 } }.updChan ch fun c =>
        { c with xfer := { c.xfer with mslot := some j } }
    | _, _ => s
  | _, _ => s

/-- The open mark of a new effect is written to an MRAM slot, on a die with no partner in sync (R178). -/
def State.markSlot (s : State) (ch : Nat) (m : MSlot) : State :=
  if s.paired then s else
  match s.freeSlot with
  | none => s
  | some j => ({ s with mled := s.mled.set j m } : State).updChan ch fun c => { c with xfer := { c.xfer with mslot := some j } }

/-- The open mark of an output effect of a channel at its first CCW (R176, R178, R467): its ledger entry, the MRAM
slot of a die without a partner in sync, and the gate of R177. -/
def State.openEffect (s : State) (ch : Nat) (ccw : Word64) (rs : Bool) : State :=
  let c := s.chan ch
  let (q, cnt) := match c.began with
    | none => (c.queue, (0 : Word32))
    | some (q, n, _) => (q, n)
  match s.freeEntry (tileOfCh ch) with
  | none => s
  | some i =>
    let e : LEntry := { ch, rs, st := 1, queue := q, cnt, ccw, ord := c.nextOrd, gen := c.gen, openFrame := s.frameLo,
                        cond := 0, residual := 0 }
    let old := s.ledger.filter fun x => !(x.2.ch == ch && x.2.gen == c.gen && x.2.ord == c.nextOrd)
    let s0 := (({ s with ledger := Table.set old i e } : State).notePeak (tileOfCh ch)).goChan ch fun c => { c with nextOrd := c.nextOrd + 1 }
    let s1 := s0.mirror .ledger true (.bytes e.bytes)
    let s2 := s1.updChan ch fun c =>
      { c with xfer := { c.xfer with slot := some i, gate := if s1.gates then some s1.lastFrame else c.xfer.gate } }
    s2.markSlot ch { ch, rs, queue := q, cnt, ccw, frame := s.frameLo, done := false }

/-- The effect that a channel is about to open counts as complete in a replay: its ledger entry, condition bits and residual. Below
RFLOOR the entry is gone, and the bits are an open value (R197, R471). -/
def State.replayed (s : State) (ch : Nat) : Option (Option Nat × BitVec 8 × Nat) :=
  let c := s.chan ch
  if c.replayTo ≤ c.nextOrd.toNat then none
  else match s.ledger.find? fun x => x.2.ch == ch && x.2.gen == c.gen && x.2.ord == c.nextOrd with
    | some (i, e) => if e.st = 3 ∨ (e.st = 2 ∧ e.rs = false) then some (some i, e.cond, e.residual) else none
    | none => if c.nextOrd.toNat < c.rfloor.toNat then some (none, (s.takeWord.1).setWidth 8, 0) else none

/-- The effect is not performed in a replay: it takes its ORD and stands as done. -/
def State.beginSkip (s : State) (ch : Nat) (r : Option Nat × BitVec 8 × Nat) : State :=
  (if r.1.isNone then s.takeWord.2 else s).updChan ch fun c =>
    { c with nextOrd := c.nextOrd + 1, xfer := { c.xfer with slot := r.1, outDone := true, skip := some r.2 } }

/-- A new anchor: ANCHOR written, GEN incremented, NEXT_ORD and RFLOOR 0 (R469); on a die with no partner in sync
the entries of the old anchor return to FREE (R470). -/
def State.newAnchor (s : State) (ch : Nat) : State :=
  let s1 := s.goChan ch fun c => { c with anchor := c.ccwa, gen := c.gen + 1, nextOrd := 0, rfloor := 0, replayTo := 0 }
  if s.paired then s1 else { s1 with ledger := s1.ledger.filter fun e => e.2.ch != ch }

end Sys2Proof.Machine
end

