-- ==== Sys2Proof/Machine/RecordOps.lean ====
section
/-! DEFINITION. Status records, head records, HEAD, fences and the end of a program (R118 to R123, R131, R136 to
R138, R162 to R168, R174 to R177). -/

namespace Sys2Proof.Machine
open Sys2Proof

/-! ### Codes (R168) -/

def stOk : BitVec 16 := 0x0000
def stSuspended : BitVec 16 := 0x0001
def stHalted : BitVec 16 := 0x0002
def stInterim : BitVec 16 := 0x0003
def stNotBound : BitVec 16 := 0x0010
def stBadState : BitVec 16 := 0x0011
def stFrameOverrun : BitVec 16 := 0x0021
def stCycleBound : BitVec 16 := 0x0022
def stJumpLimit : BitVec 16 := 0x0023
def stBudgetUnfit : BitVec 16 := 0x0024
def stIndeterminate : BitVec 16 := 0x0030
def stMbxFull : BitVec 16 := 0x0040
def stRoleChanged : BitVec 16 := 0x0041
def stAuthFail : BitVec 16 := 0x0042
def stViolation : BitVec 16 := 0x0050
def stQuarantined : BitVec 16 := 0x0051
def stNack : BitVec 16 := 0x0052
def stRetryExhausted : BitVec 16 := 0x0053
def stNoResponse : BitVec 16 := 0x0054
def stSegmentFault : BitVec 16 := 0x0060
def stOutOfService : BitVec 16 := 0x0061
def stBusOff : BitVec 16 := 0x0062
def stPortMode : BitVec 16 := 0x0063
def stBadCmd : BitVec 16 := 0x0070
def stBadFlags : BitVec 16 := 0x0071
def stBadSpace : BitVec 16 := 0x0072
def stJumpToJump : BitVec 16 := 0x0073
def stBadAlign : BitVec 16 := 0x0074
def stLength : BitVec 16 := 0x0075
def stBadIdal : BitVec 16 := 0x0076
def stBadParam : BitVec 16 := 0x0077
def stLsegLimit : BitVec 16 := 0x0078
def stHostReadFail : BitVec 16 := 0x0080
def stAccessRefused : BitVec 16 := 0x0081
def stRoutineAbsent : BitVec 16 := 0x0090
def stRoutineFault : BitVec 16 := 0x0091
def stRoutineError : BitVec 16 := 0x0092
def stCoreLockup : BitVec 16 := 0x0093
def stEcc : BitVec 16 := 0x00A0
def stHawkExhausted : BitVec 16 := 0x00A1
def stUnitFault : BitVec 16 := 0x00A2
def stSupplyDip : BitVec 16 := 0x00B0
def stSupplyHalt : BitVec 16 := 0x00B1
def stScrimWatchdog : BitVec 16 := 0x00B2
def stTakeover : BitVec 16 := 0x00B3
def stBadOpcode : BitVec 16 := 0x00C0
def stBadArgument : BitVec 16 := 0x00C1
def stAdmission : BitVec 16 := 0x00C2
def stBusy : BitVec 16 := 0x00C3
def stImageRejected : BitVec 16 := 0x00C4
def stNotPermitted : BitVec 16 := 0x00C5
def stPairUnavailable : BitVec 16 := 0x00C6
def stKeyRejected : BitVec 16 := 0x00C7

/-- The state a channel enters after a FINAL record with the code (R168). -/
def endState (code : BitVec 16) : CState :=
  if code = stOk then .idle
  else if code = stSuspended ∨ code = stIndeterminate then .suspended
  else if code = stHalted then .halted else .error

/-- The codes whose DETAIL is not 0 (R166). -/
def detailed (code : BitVec 16) : Bool :=
  [stRoutineError, stCycleBound, stRoutineFault, stCoreLockup, stViolation, stNack, stNoResponse, stRetryExhausted, stQuarantined, stSegmentFault,
   stOutOfService, stPortMode, stBusOff, stIndeterminate, stHostReadFail].contains code

/-- The code of a queue state in the head record (R119). -/
def QState.code (x : QState) : Nat := match x with
  | .disabled => 0
  | .running => 1
  | .paused => 2
  | .error => 3
  | .draining => 4

/-! ### Layouts -/

/-- The fields of a status record (R165); FRAME_LO is stamped as it enters the egress queue. -/
structure StatusRec where
  tag : BitVec 16 := 0
  status : BitVec 16
  ch : Nat := 0
  kind : Nat
  state : Nat := 0
  ccw : Word64 := 0
  residual : Nat := 0
  cond : BitVec 16 := 0
  seq : BitVec 16 := 0
  detail : Nat := 0
deriving DecidableEq, Repr

/-- A status record's 32 B (R165). -/
def StatusRec.bytes (r : StatusRec) (frameLo : Word32) : List Byte :=
  leBytes 2 r.tag.toNat ++ leBytes 2 r.status.toNat
    ++ leBytes 4 (r.ch % 4096 + r.kind * 0x1000 + r.state * 0x10000) ++ leBytes 8 r.ccw.toNat
    ++ leBytes 4 r.residual ++ leBytes 2 r.cond.toNat ++ leBytes 2 r.seq.toNat ++ leBytes 4 r.detail
    ++ leBytes 4 frameLo.toNat

/-- A head record's 16 B (R119). -/
def headBytes (q : Queue) (frameLo : Word32) : List Byte :=
  leBytes 4 q.head.toNat ++ [BitVec.ofNat 8 (q.st.code + b2n q.fence.isSome * 8), BitVec.ofNat 8 q.why.toNat, 0, 0]
    ++ leBytes 4 q.errIdx.toNat ++ leBytes 4 frameLo.toNat

/-- The last four bytes of a record take the frame number at entry (R119, R165). -/
def stampFrame (l : List Byte) (frameLo : Word32) : List Byte := l.take (l.length - 4) ++ leBytes 4 frameLo.toNat

/-- Slots of a ring (R89): 64 × 2^SIZE. -/
def Queue.slots (q : Queue) : Nat := 64 * 2 ^ q.size.toNat

/-- Slot index of a count (R91). -/
def Queue.slotOf (q : Queue) (c : Word32) : Nat := c.toNat % q.slots

/-- Host address of the status record of the entry at a count (R93). -/
def Queue.statAddr (q : Queue) (c : Word32) : Word64 := q.stat + BitVec.ofNat 64 (32 * q.slotOf c)

/-- Header fields of an entry (R95). -/
def hdrType (w : BitVec 128) : Nat := bitsOf w 0 8
def hdrLen (w : BitVec 128) : Nat := if bitsOf w 8 4 = 0 then 16 else bitsOf w 8 4
def hdrPh (w : BitVec 128) : Nat := bitsOf w 12 1
def hdrIe (w : BitVec 128) : Bool := bitOf w 13
def hdrTag (w : BitVec 128) : BitVec 16 := BitVec.ofNat 16 (bitsOf w 16 16)

/-- The header of a bound entry. -/
def Entry.hdr (e : Entry) : BitVec 128 := e.slots.headD 0

/-- An entry is a PAD (R96). -/
def Entry.isPad (e : Entry) : Bool := hdrType e.hdr == 0x0F

/-! ### Head records (R119 to R122) -/

/-- The fields of a head record whose change makes it written (R120). -/
def Queue.headFields (q : Queue) : Word32 × QState × Bool × BitVec 4 × Word32 :=
  (q.head, q.st, q.fence.isSome, q.why, q.errIdx)

/-- A status record of a queue's entry. -/
def EgKind.statusOf (k : EgKind) (q : Nat) : Bool := match k with
  | .final q' .. => q' == q
  | .entry q' _ => q' == q
  | _ => false

/-- A head record still in the egress queue is updated in place (R120); where a status record of the queue stands behind it, which
its new HEAD may cover, it takes the newest place instead, so that the status record is visible first (R118, OP-4; log 92). -/
def updateHead (l : List Egress) (q : Nat) (b : List Byte) : Option (List Egress) :=
  match l.find? fun e => e.kind = .head q with
  | none => none
  | some h =>
    if (l.dropWhile fun e => e.kind ≠ .head q).any fun e => e.kind.statusOf q then
      some ((l.filter fun e => e.kind ≠ .head q) ++ [{ h with bytes := b }])
    else some (l.map fun e => if e.kind = .head q then { e with bytes := b } else e)

/-- The head record of a queue enters the egress queue with its newest values; the completion source is raised
after it (R120, R122). FRAME_LO of a record updated in place is the present frame: R119 names the frame in which the record entered
and R120 the newest values, so this is the model's choice (log 92). -/
def State.enterHead (s : State) (q : Nat) (bytes : List Byte) (raise : Bool) : State :=
  let md := s.qModule q
  let b := stampFrame bytes s.frameLo
  let l := s.link md
  let s1 := match updateHead l.queue q b with
    | some ql => s.setLink md { l with queue := ql }
    | none => s.heldPulse (s.egress md (.head q) (s.q q).hrec b false)
  if raise then s1.pulse q else s1

/-- A record behind the gates of R177: it waits for the acknowledgement of everything sent so far. -/
def State.gateRec (s : State) (md : Nat) (w : Egress) (raise : Bool) : State :=
  { s with ds := { s.ds with gated := s.ds.gated ++ [{ id := s.lastFrame, md, w, raise }] } }

/-- The EQS that the next write of a module's egress queue takes, those behind gates counted: what an EGRESS or QUEUE frame names for its
record before the record enters (R456, R460, R462; log 106). -/
def State.nextEqs (s : State) (md : Nat) : Word32 :=
  (s.link md).eqs + 1 + BitVec.ofNat 32 (s.ds.gated.filter fun g => g.md == md).length

/-- What a QUEUE frame says of a queue (R456). -/
def State.queueRec (s : State) (q : Nat) : QueueRec :=
  let x := s.q q
  { q, fetch := x.fetch, prod := x.prod, head := x.head, st := BitVec.ofNat 3 x.st.code, why := x.why, errIdx := x.errIdx, eqs := s.nextEqs (s.qModule q) }

/-- A QUEUE frame's body. -/
def State.queueBody (s : State) (q : Nat) : TxBody := .queue (s.queueRec q)

/-- A status record is put forward: in Hold none is made until the die leaves it (R192), behind the gates of R177 it waits for its
acknowledgement, and else it enters the egress queue. -/
def State.putRec (s : State) (md : Nat) (w : Egress) (enter : State → State) : State :=
  if s.hold then { s with late := s.late ++ [{ id := 0, md, w }] }
  else if s.gates then (s.mirror .egress true (.egress { md, eqs := s.nextEqs md, addr := w.addr, bytes := w.bytes })).gateRec md w false else enter s

/-- The head record is written if a field of it has changed (R120): each value behind the acknowledgement of its own QUEUE frame (R177),
and the completion source with it (R122). -/
def State.writeHead (s : State) (q : Nat) : State :=
  let x := s.q q
  let f := x.headFields
  if x.lastHead = some f then s else
  let b := headBytes x s.frameLo
  let s1 := s.updQ q fun x => { x with lastHead := some f, raise := false }
  if s1.gates then
    (s1.mirror .queue true (s1.queueBody q)).gateRec (s1.qModule q) { kind := .head q, addr := x.hrec, bytes := b, eqs := 0, relaxed := false } x.raise
  else s1.enterHead q b x.raise

/-! ### HEAD (R118) -/

/-- HEAD passes the finished entries at the front of those bound: the rest, and whether IE of one is set. -/
def passDone (l : List Entry) : List Entry × Bool :=
  match l with
  | [] => ([], false)
  | e :: r => if e.done then
      let p := passDone r
      (p.1, p.2 || (hdrIe e.hdr && !e.isPad))
    else (e :: r, false)

/-- HEAD of a queue: the first slot of the earliest unfinished entry, else FETCH (R118). -/
def headOf (l : List Entry) (fetch : Word32) : Word32 := match l with
  | [] => fetch
  | e :: _ => e.cnt

/-- HEAD is brought up to date, a drained queue is DISABLED, and the head record written (R118, R120, R129, R131). -/
def State.advance0 (s : State) (q : Nat) : State :=
  let x := s.q q
  if x.retake then s.writeHead q else
  let p := passDone x.bound
  let x1 := { x with bound := p.1, head := headOf p.1 x.fetch, raise := x.raise || p.2 }
  let x2 := if x1.st = .draining ∧ x1.bound = [] ∧ x1.reading = false then { x1 with st := .disabled, fence := none } else x1
  (s.setQ q x2).writeHead q

/-- An entry of a queue is finished: its record stands (R118), and a FENCE waits no more (R123). -/
def State.markDone (s : State) (q : Nat) (cnt : Word32) : State :=
  s.updQ q fun x =>
    { x with fence := if x.fence = some cnt then none else x.fence,
             bound := x.bound.map fun e => if e.cnt = cnt then { e with done := true, applied := true } else e }

/-- Status writes of a module are held, so that nothing they stand for follows yet (R86). -/
def State.heldAt (s : State) (md : Nat) : Bool := (s.link md).holding

/-- A record enters the egress queue of a module, or is held (R86, R322). -/
def State.send (s : State) (md : Nat) (kind : EgKind) (addr : Word64) (bytes : List Byte) (relaxed : Bool) : State :=
  s.heldPulse (s.egress md kind addr bytes relaxed)

/-- An ENTRY record enters the egress queue and its entry is finished. -/
def State.enterEntry (s : State) (q : Nat) (cnt : Word32) (b : List Byte) : State :=
  let md := s.qModule q
  let s1 := s.send md (.entry q cnt) ((s.q q).statAddr cnt) (stampFrame b s.frameLo) false
  if s.heldAt md then s1 else (s1.markDone q cnt).advance0 q

/-- A record of kind ENTRY for the entry at a count (R165), through the gates of R177. -/
def State.finish0 (s : State) (q : Nat) (cnt : Word32) (r : StatusRec) : State :=
  let b := r.bytes 0
  s.putRec (s.qModule q) { kind := .entry q cnt, addr := (s.q q).statAddr cnt, bytes := b, eqs := 0, relaxed := false } fun s => s.enterEntry q cnt b

/-! ### Fences (R123) -/

/-- The entry of a queue bound at a count. -/
def Queue.entryAt (q : Queue) (cnt : Word32) : Option Entry := q.bound.find? fun e => e.cnt = cnt

/-- The conditions of a FENCE at count f hold (R123). -/
def State.fenceHolds (s : State) (q : Nat) (f : Word32) : Bool :=
  let x := s.q q
  match x.entryAt f with
  | none => true
  | some e =>
    let w := e.hdr
    let other := bitsOf w 32 10
    e.applied && !e.sent && decide (x.head = f) && (!bitOf w 47 || other == q
      || !(((s.q other).head - BitVec.ofNat 32 (bitsOf w 64 32)).msb))

/-- A FENCE finishes with its record; DETAIL 1 when DISABLE ended it (R123, R131). The queue waits at it until the record has entered
the egress queue (R118, R123). -/
def State.finishFence (s : State) (q : Nat) (f : Word32) (detail : Nat) : State :=
  match (s.q q).entryAt f with
  | none => s.updQ q fun x => { x with fence := none }
  | some e =>
    if e.sent then s else
    (s.updQ q fun x => { x with bound := x.bound.map fun (y : Entry) => if y.cnt = f then { y with sent := true } else y }).finish0 q f
      { tag := hdrTag e.hdr, status := stOk, kind := 1, detail }

/-- The queues that wait at a FENCE whose conditions hold. -/
def State.readyFences (s : State) : List (Nat × Word32) :=
  s.queues.filterMap fun e => match e.2.fence with
    | none => none
    | some f => if s.fenceHolds e.1 f then some (e.1, f) else none

/-- Fences whose conditions hold finish, and so do those that wait for them (R123). -/
def State.settle (s : State) : Nat → State
  | 0 => s
  | n + 1 =>
    match s.readyFences with
    | [] => s
    | (q, f) :: _ => (s.finishFence q f 0).settle n

/-- Fences are settled: at most one round for each queue that waits. -/
def State.settled (s : State) : State := s.settle ((s.queues.filter fun e => e.2.fence.isSome).length)

/-- HEAD of a queue is brought up to date, and fences that waited for it finish. -/
def State.advance (s : State) (q : Nat) : State := (s.advance0 q).settled

/-- An entry finishes with an ENTRY record, and fences that waited for it finish. -/
def State.finish (s : State) (q : Nat) (cnt : Word32) (r : StatusRec) : State := (s.finish0 q cnt r).settled

/-! ### Channel-directed entries at a channel that is at rest (R136) -/

/-- What a CLEAR clears in every state (R136). CH_DATA, which R136 names neither as cleared nor as left, reads 0 with the transfer it belonged
to: the model's choice (log 104). -/
def State.clearChan (s : State) (ch : Nat) : State :=
  (s.freeChChain ch).updChan ch fun c =>
    { c with st := .idle, cond := 0, pend := 0, data := 0, remain := 0, portions := 0, xfer := {}, blocks := [], badBlock := none, fetched := false,
             inChain := false, suOnce := false, afterJump := false, due := none, haltReq := false, parked := false }

/-- The record of a channel-directed entry (R165). -/
def State.entryRec (s : State) (ch : Nat) (e : Entry) (code : BitVec 16) : StatusRec :=
  let c := s.chan ch
  { tag := hdrTag e.hdr, status := code, ch, kind := 1, state := c.st.code, cond := c.cond,
    detail := if code = stBadState then c.st.code else 0 }

/-- HALT at a channel that runs no program: OK in IDLE and HALTED, HALTED from SUSPENDED with its chain freed,
refused in ERROR (R136). -/
def State.haltAtRest (s : State) (q : Nat) (ch : Nat) (e : Entry) : State :=
  match (s.chan ch).st with
  | .suspended =>
    let s1 := (s.freeChChain ch).goChan ch fun c => { c with st := .halted, haltReq := false }
    s1.finish0 q e.cnt (s1.entryRec ch e stOk)
  | .error => s.finish0 q e.cnt (s.entryRec ch e stBadState)
  | _ => s.finish0 q e.cnt (s.entryRec ch e stOk)

/-- CLEAR at a channel that is IDLE, SUSPENDED, HALTED or in ERROR (R136). -/
def State.clearAtRest (s : State) (q : Nat) (ch : Nat) (e : Entry) : State :=
  let s1 := (s.clearChan ch).mirrorCh ch
  s1.finish0 q e.cnt (s1.entryRec ch e stOk)

/-- The HALT and CLEAR entries that waited at a channel act on it (R136). -/
def State.runWaiting (s : State) (ch : Nat) : State :=
  let l := (s.chan ch).waiting
  let s1 := s.updChan ch fun c => { c with waiting := [], haltReq := false }
  s1.each l fun s w =>
    match (s.q w.1).entryAt w.2 with
    | none => s
    | some e => if hdrType e.hdr = 0x03 then s.haltAtRest w.1 ch e else s.clearAtRest w.1 ch e

/-! ### The command word and where a program stands (R139, R140, R148, R174) -/

def ccwCmd (w : BitVec 128) : Nat := bitsOf w 0 8
def ccwCd (w : BitVec 128) : Bool := bitOf w 8
def ccwCc (w : BitVec 128) : Bool := bitOf w 9
def ccwSk (w : BitVec 128) : Bool := bitOf w 10
def ccwSu (w : BitVec 128) : Bool := bitOf w 11
def ccwPi (w : BitVec 128) : Bool := bitOf w 12
def ccwId (w : BitVec 128) : Bool := bitOf w 13
def ccwSl (w : BitVec 128) : Bool := bitOf w 14
def ccwRs (w : BitVec 128) : Bool := bitOf w 15
def ccwParam (w : BitVec 128) : Word32 := BitVec.ofNat 32 (bitsOf w 32 32)
def ccwAddr (w : BitVec 128) : Word64 := BitVec.ofNat 64 (bitsOf w 64 64)
/-- The data space of an address (R140). -/
def spaceOf (a : Word64) : Nat := bitsOf a 62 2

/-- Bytes of COUNT of a CCW, 0 meaning 65,536 (R139). -/
def ccwCount (w : BitVec 128) : Nat := if bitsOf w 16 16 = 0 then 65536 else bitsOf w 16 16

/-- WRITE, READ, CONTROL, SENSE and EXCH move data by COUNT (R145). -/
def cmdData (c : Nat) : Bool := [1, 2, 3, 4, 0xF].contains c

/-- The aligned 64 B block of a CCW address. -/
def blockOf (a : Word64) : Word64 := a &&& ~~~(0x3F : Word64)

/-- The CCW at CCWA, if its block is held. -/
def Chan.heldCcw (c : Chan) : Option (BitVec 128) :=
  match c.blocks.find? fun b => b.1 = blockOf c.ccwa with
  | none => none
  | some b => some (b.2.getD (bitsOf c.ccwa 4 2) 0)

/-- The CCW of a transfer that byte `n` falls into, with what it has left (R148, R174). -/
def locate (parts : List (Word64 × Nat)) (n : Nat) : Word64 × Nat :=
  match parts with
  | [] => (0, 0)
  | [p] => (p.1, p.2 - n)
  | p :: r => if n < p.2 then (p.1, p.2 - n) else locate r (n - p.2)

/-- Bytes of every CCW of the transfer so far. -/
def Xfer.size (x : Xfer) : Nat := x.parts.foldl (fun n e => n + e.2) 0

/-- RESIDUAL where the CCW at CCWA was not begun: its COUNT where it moves data, else that of the last data CCW (R165, R174). -/
def Chan.notBegun (c : Chan) (w : BitVec 128) : Nat := if c.inChain || cmdData (ccwCmd w) then ccwCount w else c.remain

/-- Where a program stands: the CCW of its transfer that is not wholly moved, else the CCW at CCWA, with the bytes that the last data CCW
has not moved (R148, R165, R174). A CCW that is not begun has its whole COUNT left; that of one which has not been read stands in host
memory only: none. -/
def Chan.stand (c : Chan) : Word64 × Option Nat :=
  let x := c.xfer
  if (x.parts.getLast?.map (·.1)) = some c.ccwa ∨ x.total < x.size then
    let l := locate x.parts x.total
    (l.1, some l.2)
  else if (c.st = .waitTick && !c.parked) || c.st = .waitEvent then (c.ccwa, some c.remain)
  else (c.ccwa, c.heldCcw.map c.notBegun)

/-! ### The end of a program -/

/-- The port knows the channel no more (R351). -/
def Port.leave (p : Port) (ch : Nat) : Port :=
  { p with readers := p.readers.filter fun c => c != ch, unitOn := if p.unitOn = some ch then none else p.unitOn }

/-- The channel waits for no port any more (R351). -/
def State.leavePorts (s : State) (ch : Nat) : State :=
  { s with ports := s.ports.mapVals fun _ p => p.leave ch }

/-- The FINAL record stands: the channel enters the end state of its code, its effects are reported, its chain freed unless it is SUSPENDED,
and its entry is finished (R138, R141, R168, R174). -/
def State.finalStands (s : State) (q : Nat) (cnt : Word32) (ch : Nat) (code : BitVec 16) : State :=
  let st := endState code
  let s2 := (s.reportAll ch).goChan ch fun c => { c with st, ending := none }
  let s3 := if st = .suspended then s2 else s2.freeChChain ch
  ((s3.markDone q cnt).advance0 q).runWaiting ch

/-- The FINAL record enters the egress queue. -/
def State.enterFinal (s : State) (q : Nat) (cnt : Word32) (ch : Nat) (code : BitVec 16) (ccw : Word64) (b : List Byte) : State :=
  let md := s.qModule q
  let s1 := s.send md (.final q cnt ch code ccw) ((s.q q).statAddr cnt) (stampFrame b s.frameLo) false
  if s.heldAt md then s1 else s1.finalStands q cnt ch code

/-- The reads of a channel that are out are discarded when they come, those that wait are dropped (R154). -/
def Link.staleReads (l : Link) (ch : Nat) : Link :=
  let mine (r : HostRead) : Bool := match r.req with
    | .ccw c _ => c == ch
    | .data c _ _ => c == ch
    | .list c _ => c == ch
    | _ => false
  { l with reads := l.reads.map fun r => if mine r then { r with req := .stale ch } else r,
           waiting := l.waiting.filter fun r => !mine r }

/-- The blocks of a channel are discarded (R154). -/
def State.dropBlocks (s : State) (ch : Nat) : State :=
  { s with link0 := s.link0.staleReads ch, link1 := s.link1.staleReads ch }.updChan ch fun c => { c with blocks := [], badBlock := none, fetched := false }

/-- A program ends with a code: STATUS_PENDING, and its FINAL record through the gates (R138, R165, R177). -/
def State.endProgram (s : State) (ch : Nat) (code : BitVec 16) (residual detail : Nat) : State :=
  let c := s.chan ch
  let (q, cnt, tag) := match c.began with
    | none => (c.queue, (0 : Word32), (0 : BitVec 16))
    | some x => x
  let r : StatusRec := { tag, status := code, ch, kind := 0, state := 6, ccw := c.ccwa, residual, cond := c.cond, detail }
  let s1 := (((s.leavePorts ch).unwaitGrant ch).dropBlocks ch |>.beat c.wcls (tileOfCh ch) 1).goChan ch fun c =>
    { c with st := .statusPending, parked := false, lastStatus := code, ending := some code, inRun := false,
             began := none, blocks := [], fetched := false, inChain := false, afterJump := false, due := none, released := false,
             why := .none, mask := 0, xfer := { c.xfer with phase := .none, gate := none } }
  s1.putRec (s1.qModule q) { kind := .final q cnt ch code c.ccwa, addr := (s1.q q).statAddr cnt, bytes := r.bytes 0, eqs := 0, relaxed := false }
    fun s => (s.enterFinal q cnt ch code c.ccwa (r.bytes 0)).settled

/-- An ending where the program stands: CCW_ADDR and RESIDUAL name that CCW (R148, R174). The COUNT of a CCW that has not been read is an
open value (log 96). -/
def State.failAt (s : State) (ch : Nat) (code : BitVec 16) (detail : Nat) : State :=
  let l := (s.chan ch).stand
  let s1 := s.updChan ch fun c => { c with ccwa := l.1 }
  match l.2 with
  | some n => s1.endProgram ch code n detail
  | none => s1.takeWord.2.endProgram ch code (s.takeWord.1.toNat + 1) detail

/-- An ending at the present CCW with DETAIL 0 (R166), RESIDUAL what the CCW has not moved. -/
def State.fail (s : State) (ch : Nat) (code : BitVec 16) : State := s.endProgram ch code (s.chan ch).remain 0

/-! ### Interim records (R162) -/

/-- What an interim record reports as it enters the egress queue (R175). -/
def State.interimReports (s : State) (ch : Nat) (what : Reported) : State :=
  match what with
  | .one slot mslot => s.reportOne ch slot mslot
  | .below gen floor mslots => s.reportBelow ch gen floor mslots

/-- An interim record enters the egress queue. -/
def State.enterInterim (s : State) (md ch : Nat) (what : Reported) (addr : Word64) (b : List Byte) : State :=
  let s1 := s.send md (.interim ch what) addr (stampFrame b s.frameLo) false
  if s.heldAt md then s1 else s1.interimReports ch what

/-- An interim record of a channel, KIND 2 after PI and 3 at POST, where the interim area is enabled (R162). -/
def State.interim (s : State) (ch : Nat) (post : Bool) (ccw : Word64) (residual detail : Nat) : State :=
  let c := s.chan ch
  if !c.ien then s else
  let (q, tag) := match c.began with
    | none => (c.queue, (0 : BitVec 16))
    | some (q, _, t) => (q, t)
  let md := s.qModule q
  let addr := c.irec + BitVec.ofNat 64 (32 * (c.iseq.toNat % 2 ^ c.irsz.toNat))
  let r : StatusRec := { tag, status := stInterim, ch, kind := if post then 3 else 2, state := c.st.code, ccw, residual, cond := c.cond,
                         seq := c.iseq, detail }
  let what : Reported := if post then .below c.gen c.nextOrd ((s.mled.filter fun e => e.2.ch == ch).map (·.1)) else .one c.xfer.slot c.xfer.mslot
  let s1 := (s.beat c.wcls (tileOfCh ch) 1).goChan ch fun c => { c with iseq := c.iseq + 1 }
  s1.putRec md { kind := .interim ch what, addr, bytes := r.bytes 0, eqs := 0, relaxed := false } fun s => s.enterInterim md ch what addr (r.bytes 0)

/-! ### Admin replies (R373, R376) -/

/-- Entries of the reply ring and of the command ring (R369). -/
def Aq.replySlots (a : Aq) : Nat := 16 * 2 ^ a.rsize.toNat
def Aq.packetSlots (a : Aq) : Nat := 16 * 2 ^ a.csize.toNat

/-- The phase bit of the reply at a count (R373). -/
def Aq.phase (a : Aq) (r : Word32) : Nat := 1 - (r.toNat >>> (a.rsize.toNat + 4)) % 2

/-- A command is in progress no more; a draining queue with none left is DISABLED (R381). -/
def Aq.gone (a : Aq) (cnt : Word32) : Aq :=
  let l := a.cmds.filter fun c => c.cnt != cnt
  { a with cmds := l, st := if a.st = .draining && l.isEmpty then .disabled else a.st }

/-- The reply of a command enters the egress queue: RPROD advances, and source 0x400 is raised (R376). -/
def State.enterReply (s : State) (cnt : Word32) (b : List Byte) : State :=
  let a := s.aq
  let md := s.aqModule
  let full := b.take 5 ++ [BitVec.ofNat 8 (a.phase a.rprod)] ++ b.drop 6
  let s1 := s.send md (.admin cnt) (a.rring + BitVec.ofNat 64 (32 * (a.rprod.toNat % a.replySlots))) full false
  if s.heldAt md then s1 else { s1 with aq := { a.gone cnt with rprod := a.rprod + 1 } }.pulse 0x400

/-! ### The gates of R177 -/

/-- A gated record enters the egress queue. -/
def State.passGate (s : State) (g : Gated) : State :=
  match g.w.kind with
  | .final q cnt ch code ccw => s.enterFinal q cnt ch code ccw g.w.bytes
  | .entry q cnt => s.enterEntry q cnt g.w.bytes
  | .interim ch what => s.enterInterim g.md ch what g.w.addr g.w.bytes
  | .head q => s.enterHead q g.w.bytes g.raise
  | .admin cnt => s.enterReply cnt g.w.bytes
  | _ => s.send g.md g.w.kind g.w.addr g.w.bytes g.w.relaxed

/-- Every record whose gate has opened enters, oldest first; with `all` every gate opens (R177). -/
def State.openGates (s : State) (p : Nat → Bool) : State :=
  let go := s.ds.gated.filter fun g => p g.id
  let s1 := { s with ds := { s.ds with gated := s.ds.gated.filter fun g => !p g.id } }
  (s1.each go fun s g => s.passGate g).settled

/-- The status records that Hold held back are put forward in their order (R192, R193). -/
def State.passLate (s : State) : State :=
  (({ s with late := [] } : State).each s.late fun s g => s.putRec g.md g.w fun s => s.passGate g).settled

/-! ### Parking (R217, R220) -/

/-- A channel parks at a stopping point, where a HALT that waits takes effect instead (R137); an overrun of a class
with OVR = FAIL ends the program instead (R217, R220). -/
def State.park (s : State) (ch : Nat) (why : ParkWhy) (overrun : Bool) : State :=
  let c := s.chan ch
  if c.haltReq then s.failAt ch stHalted 0 else
  let s1 := s.countPark c.wcls overrun
  if overrun && (s.cls c.wcls).act.ovr && s.kindOf c.wcls ≠ 0 then s1.failAt ch stFrameOverrun 0
  else
    let s2 := s1.goChan ch fun c => { c with st := .waitTick, parked := true, why := why, parkOrder := s.parkSeq }
    { s2 with parkSeq := s.parkSeq + 1 }

/-- A parked channel goes on: before a CCW it takes precedence in its class until it is dispatched, and within one it takes another
dispatch slot (R213, R218). -/
def State.unpark (s : State) (ch : Nat) : State :=
  s.goChan ch fun c =>
    { c with st := .active, parked := false, why := .none, released := c.xfer.phase = .none || c.xfer.phase = .list || c.xfer.phase = .run,
             xfer := { c.xfer with owesSlot := c.xfer.phase = .ready || c.xfer.phase = .input } }

/-- Insert in the order of parking (R218). -/
def insertPark (s : State) (ch : Nat) : List Nat → List Nat
  | [] => [ch]
  | d :: r => if (s.chan ch).parkOrder < (s.chan d).parkOrder then ch :: d :: r else d :: insertPark s ch r

/-- Weighted round robin over the classes of a list of channels: each class gives up to WEIGHT channels a turn,
in the order given (R218). -/
def wrr (weight : Nat → Nat) (cls : Nat → Nat) (classes : List Nat) (l : List Nat) : Nat → List Nat
  | 0 => l
  | n + 1 =>
    if l.isEmpty then [] else
    let take := classes.flatMap fun c => (l.filter fun ch => cls ch == c).take (max 1 (weight c))
    take ++ wrr weight cls classes (l.filter fun ch => !take.contains ch) n

/-- The channels parked for one of some reasons, in the order in which they are released: GUARANTEED, SHAPED by
weighted round robin over its classes, BEST_EFFORT (R218). -/
def State.parkedList (s : State) (p : ParkWhy → Bool) : List Nat :=
  let all := (s.chans.filter fun e => e.2.parked && p e.2.why).foldl (fun l e => insertPark s e.1 l) []
  let ofKind k := all.filter fun ch => s.kindOf (s.chan ch).wcls == k
  ofKind 2 ++ wrr (fun c => (s.cls c).act.weight.toNat) (fun ch => (s.chan ch).wcls) (List.range 64) (ofKind 1) (ofKind 1).length
    ++ ofKind 0

/-- The channels parked for one of some reasons that go on without a tick: GUARANTEED ones first, then in the order in which they
parked (R220). -/
def State.waitList (s : State) (p : ParkWhy → Bool) : List Nat :=
  let all := (s.chans.filter fun e => e.2.parked && p e.2.why).foldl (fun l e => insertPark s e.1 l) []
  (all.filter fun ch => s.kindOf (s.chan ch).wcls == 2) ++ all.filter fun ch => s.kindOf (s.chan ch).wcls != 2

end Sys2Proof.Machine
end

