-- ==== Sys2Proof/Machine/PortOps.lean ====
section
/-! DEFINITION. Field ports: kinds, configuration words, states, faults, violations, bus time and the sense block
(R340 to R368, R508, R509). -/

namespace Sys2Proof.Machine
open Sys2Proof

/-- The kinds of field port (R340). -/
inductive PKind where
  | t1s
  | can
  | uart
  | spi
  | i2c
  | gpio
  | adc
  | eth
deriving DecidableEq, Repr

/-- The kind of a PORT code (R144); none for a value that names no port. -/
def portKind (p : Nat) : Option PKind :=
  if p < 0x20 then some .t1s else if p < 0x30 then some .can else if p < 0x40 then some .uart
  else if p < 0x48 then some .spi else if p < 0x50 then some .i2c else if p < 0x56 then some .gpio
  else if p = 0x58 then some .adc else if 0x60 ≤ p ∧ p < 0x64 then some .eth else none

/-- The pseudo-port LOCAL (R144). -/
def portLocal : Nat := 0xFF

/-- The PORT codes of the 91 field ports (R144). -/
def allPorts : List Nat := (List.range 0x64).filter fun p => (portKind p).isSome

/-- BAR0 offset of a port's block (R39, R340). -/
def portBase (p : Nat) : Nat :=
  match portKind p with
  | some .t1s => 0x100000 + p * 0x1000
  | some .can => 0x120000 + (p - 0x20) * 0x1000
  | some .uart => 0x130000 + (p - 0x30) * 0x1000
  | some .spi => 0x140000 + (p - 0x40) * 0x1000
  | some .i2c => 0x148000 + (p - 0x48) * 0x1000
  | some .gpio => 0x150000 + (p - 0x50) * 0x1000
  | some .adc => 0x158000
  | some .eth => 0x160000 + (p - 0x60) * 0x4000
  | none => 0

/-- The tile whose port unit holds a port (R26); die-unit ports have none. -/
def portTile (p : Nat) : Option Nat :=
  match portKind p with
  | some .t1s => some (p / 4)
  | some .can => some ((p - 0x20) / 2)
  | some .uart => some ((p - 0x30) / 2)
  | some .spi => some (p - 0x40)
  | some .i2c => some (p - 0x48)
  | _ => none

/-- The event source of a port (R322, R366). -/
def portSrc (p : Nat) : Nat :=
  match portKind p with
  | some .gpio => 0x564 + (p - 0x50)
  | some .adc => 0x56A
  | some .eth => 0x560 + (p - 0x60)
  | _ => 0x510 + p

/-- The violation source of a port (R322); the ADC has none. -/
def violSrc (p : Nat) : Nat :=
  match portKind p with
  | some .gpio => 0x5C4 + (p - 0x50)
  | some .adc => 0x7FF
  | some .eth => 0x5C0 + (p - 0x60)
  | _ => 0x570 + p

/-! ### Configuration words (shadow registers, R341) -/

/-- The reset value of the configuration word at a block offset. -/
def cfgReset (k : PKind) (off : Nat) : Word32 :=
  match k with
  | .t1s => if off = 0x100 then 0x2 else if off = 0x104 then 0x1E002020 else if off = 0x108 then 0x00640040
      else if off = 0x110 then 0x88B60000 else 0
  | .can => if off = 0x100 then 0x0F9F7E00 else if off = 0x104 then 0x3D991C00 else if off = 0x108 then 0x0064000A else 0
  | .uart => if off = 0x100 then 0x1E4 else if off = 0x104 then 0x13880 else if off = 0x108 then 0x03E80101 else 0
  | .spi => if off < 0x110 then 0x00202038 else 0
  | .i2c => if off = 0x100 then 0x2322 else 0
  | .gpio => if off < 0x140 then 0x02710030 else if off = 0x140 then 0x64 else 0
  | .adc => if off < 0x140 then 0x8 else if off < 0x180 then 0x0FFF0000 else if off = 0x180 then 0x64 else 0
  | .eth => if off = 0x100 then 0x0064001A
      else if 0x400 ≤ off ∧ off < 0x800 then (if off % 16 = 8 then 0x05F20000 else if off % 16 = 12 then 0x000FFFFF else 0)
      else if 0x1000 ≤ off ∧ off < 0x1200 ∧ off % 8 = 0 then 0xFF else 0

/-- The writable bits of the configuration word at a block offset; 0 where no register lies. -/
def cfgMask (k : PKind) (off : Nat) : Word32 :=
  match k with
  | .t1s => if off = 0x100 then 0x1FF else if off = 0x104 then 0xFFFFFF3F else if off = 0x108 then 0xFFFF07FF
      else if off = 0x10C ∨ off = 0x110 then 0xFFFFFFFF
      else if 0x400 ≤ off ∧ off < 0x500 then (if off % 8 = 0 then 0xFFFFFFFF else 0x0FFFFFFF) else 0
  | .can => if off = 0x100 then 0x3FFFFFFF else if off = 0x104 then 0xFFFF1F1F else if off = 0x108 then 0xFFFF000F
      else if 0x400 ≤ off ∧ off < 0x600 then (if off % 8 = 0 then 0xFFFFFFFF else 0x3FFFFFFF) else 0
  | .uart => if off = 0x100 then 0x1FF else if off = 0x104 then 0xFFFFF else if off = 0x108 ∨ off = 0x10C then 0xFFFFFFFF else 0
  | .spi => if 0x100 ≤ off ∧ off < 0x110 then 0x1FFFFFFF else 0
  | .i2c => if off = 0x100 then 0xFF3F else 0
  | .gpio => if 0x100 ≤ off ∧ off < 0x140 then 0xFFFFF3FF else if off = 0x140 then 0xFFFF else 0
  | .adc => if 0x100 ≤ off ∧ off < 0x140 then 0xFFF else if 0x140 ≤ off ∧ off < 0x180 then 0x0FFF0FFF
      else if off = 0x180 then 0xFFFF else 0
  | .eth => if off = 0x100 then 0xFFFFF1FF else if off = 0x104 then 0xFFFFFFFF else if off = 0x108 then 0xFFFF
      else if off = 0x10C then 0xFFFFFFFF
      else if 0x400 ≤ off ∧ off < 0x800 then (if off % 16 = 8 then 0x3FFFFFFF else 0xFFFFFFFF)
      else if 0x1000 ≤ off ∧ off < 0x1200 then (if off % 8 = 0 then 0x1FF else 0xFFFFFFFF) else 0

/-- The configuration word in force at a block offset (R341). -/
def State.pcfg (s : State) (p off : Nat) : Word32 :=
  match portKind p with
  | none => 0
  | some k => (s.port p).act.get (cfgReset k off) off

/-- The shadow word at a block offset. -/
def State.pshadow (s : State) (p off : Nat) : Word32 :=
  match portKind p with
  | none => 0
  | some k => (s.port p).shadow.get (cfgReset k off) off

/-- The configuration in force enables the port (R360). A GPIO bank has no enable of its own (log 13). -/
def State.pEnabled (s : State) (p : Nat) : Bool :=
  match portKind p with
  | some .can => bitOf (s.pcfg p 0x108) 0
  | some .spi => (List.range 4).any fun k => bitOf (s.pcfg p (0x100 + 4 * k)) 27
  | some .gpio => true
  | some .adc => (List.range 16).any fun i => bitOf (s.pcfg p (0x100 + 4 * i)) 0
  | some _ => bitOf (s.pcfg p 0x100) 0
  | none => false

/-- A UART in MODBUS mode. -/
def State.isModbus (s : State) (p : Nat) : Bool := bitOf (s.pcfg p 0x100) 1

/-- A T1S coordinator that paces its followers (R349). -/
def State.isPaced (s : State) (p : Nat) : Bool :=
  bitOf (s.pcfg p 0x100) 3 && bitOf (s.pcfg p 0x100) 2

/-- Input on the port is buffered, not paced (R348). -/
def State.isBuffered (s : State) (p : Nat) : Bool :=
  match portKind p with
  | some .t1s => !s.isPaced p
  | some .can | some .eth => true
  | some .uart => !s.isModbus p
  | _ => false

/-- GPIO line configuration fields. -/
def State.lineMode (s : State) (p l : Nat) : Nat := bitsOf (s.pcfg p (0x100 + 4 * l)) 0 3
def State.lineSafe (s : State) (p l : Nat) : Nat := bitsOf (s.pcfg p (0x100 + 4 * l)) 3 2
def State.lineEdge (s : State) (p l : Nat) : Nat := bitsOf (s.pcfg p (0x100 + 4 * l)) 5 2

/-! ### Events and states (R360, R366) -/

/-- The port's event line follows EVT & EVTEN (R366). -/
def State.portLine (s : State) (p : Nat) : State :=
  s.setLine (portSrc p) ((s.port p).evt &&& (s.port p).evten ≠ 0)

/-- An event bit of a port is set (R366). -/
def State.portEvt (s : State) (p i : Nat) : State :=
  (s.updPort p fun q => { q with evt := q.evt ||| BitVec.ofNat 8 (2 ^ i) }).portLine p

/-- A buffered unit of a port is dropped and counted (R348, R359, R366); GPIO and ADC set no DROP. -/
def State.rxDrop (s : State) (p : Nat) : State :=
  (s.updPort p fun q => { q with rxdrop := satInc q.rxdrop }).portEvt p 4

/-- The levels of a GPIO bank's outputs in their safe state (R362). -/
def State.safeOuts (s : State) (p : Nat) : BitVec 16 :=
  (List.range 16).foldl (fun b l =>
    match s.lineSafe p l with
    | 1 => b ||| BitVec.ofNat 16 (2 ^ l)
    | 3 => b ||| ((s.port p).outs &&& BitVec.ofNat 16 (2 ^ l))
    | _ => b) 0

/-- A port drives its safe state (R362). -/
def State.portSafe (s : State) (p : Nat) : State :=
  let o := s.safeOuts p
  s.updPort p fun q => { q with outs := o, breakOn := false, beaconHeld := false, safe := true }

/-- A port runs: it is UP and drives no safe state; it returns to UP, with its event, from FAULT and from ISOLATED, and CAUSE stays
(R360, R361, R366, log 35). -/
def State.portUp (s : State) (p : Nat) : State :=
  let s1 := s.updPort p fun q => { q with st := 1, everOn := true, safe := false }
  if (s.port p).st = 2 ∨ (s.port p).st = 3 then s1.portEvt p 5 else s1

/-- A channel works on the port: its data CCW has begun and is not parked. -/
def Chan.onPort (c : Chan) (p : Nat) : Bool :=
  (if c.xfer.cmd = 0x0C then c.lastPort == some p else c.xfer.cmd != 0x10 && bitsOf c.xfer.param 0 8 == p)
    && c.xfer.phase != .none && !c.parked && (c.st = .active)

/-- The channels that work on a port. -/
def State.portChans (s : State) (p : Nat) : List Nat := (s.chans.filter fun e => e.2.onPort p).map (·.1)

/-- DETAIL of an ending that names a port (R166). -/
def portDetail (p : Nat) : Nat := p

/-- DETAIL of an ending that names a port and a node (R166). -/
def nodeDetail (p node : Nat) : Nat := p + node * 256

/-- The ending of a channel whose port has failed: an output unit on the wire counts as moved (R174, R361); DETAIL names the port
except with UNIT_FAULT (R166). -/
def State.endOnPort (s : State) (p : Nat) (code : BitVec 16) (ch : Nat) : State :=
  let x := (s.chan ch).xfer
  let onWire := decide (x.phase = .wire) && decide (x.cmd ≠ 0x02) && !x.reply
  let s1 := if onWire then s.updChan ch fun c => { c with xfer := { c.xfer with total := c.xfer.total + c.xfer.unit } } else s
  s1.failAt ch code (if code = stUnitFault then 0 else portDetail p)

/-- A port enters FAULT if it is UP: the units on it end with SEGMENT_FAULT, or BUS_OFF for cause 6 (R361). -/
def State.enterFault (s : State) (p cause : Nat) : State :=
  if (s.port p).st ≠ 1 then s else
  let s1 := (s.updPort p fun q => { q with st := 2, cause := BitVec.ofNat 4 cause, faults := satInc q.faults,
                                           faultFrame := s.frameLo, unitOn := none }).portEvt p 0
  s1.each (s1.portChans p) fun s ch => s.endOnPort p (if cause = 6 then stBusOff else stSegmentFault) ch

/-- A port that a commit enables or a CLR_FAULT frees is UP, or in FAULT while a cause is present (R361); one that its configuration
does not enable is OFF (R360). -/
def State.upOrFault (s : State) (p : Nat) : State :=
  if !(s.pEnabled p) then (s.updPort p fun q => { q with st := 0 }).portSafe p else
  match (s.port p).causes with
  | [] => s.portUp p
  | c :: _ => (s.updPort p fun q => { q with st := 1, everOn := true }).enterFault p c

/-- A port is taken out of service until the next start (R189, R360). -/
def State.portOos (s : State) (p : Nat) (code : BitVec 16) : State :=
  let s1 := (s.updPort p fun q => { q with st := 4, unitOn := none }).portSafe p
  s1.each (s1.portChans p) fun s ch => s.endOnPort p code ch

/-! ### Violations (R182, R363 to R365) -/

/-- The reset value of PORT_VRESP (R364). -/
def vrespReset (p : Nat) : Word32 :=
  match portKind p with
  | some .t1s => 0x05452000
  | some .can => 0x50520010
  | some .uart => 0x25000110
  | some .spi => 0x00000001
  | some .i2c => 0x00005021
  | some .eth => 0x00050000
  | _ => 0

/-- PORT_VRESP. -/
def State.vresp (s : State) (p : Nat) : Word32 := (s.port p).vresp.getD (vrespReset p)

/-- The responses of R182. -/
inductive Resp where
  | ignore
  | retry
  | nack
  | quarantine
  | isolate
  | escalate
deriving DecidableEq, Repr

/-- The response that a class's field names. -/
def respOf (n : Nat) : Resp := match n with
  | 1 => .retry
  | 2 => .nack
  | 3 => .quarantine
  | 4 => .isolate
  | 5 => .escalate
  | _ => .ignore

/-- An error frame moves a CAN port's counters: REC by 1 while receiving, TEC by 8 during an own unit; the code of the last error is an open
value (R367, log 116). -/
def State.canError (s : State) (p cls : Nat) : State :=
  if portKind p ≠ some .can ∨ 1 < cls then s else
  let code := (Config.freeByte s.freeNext).toNat
  ({ s with freeNext := s.freeNext + 1 } : State).updPort p fun q =>
    if cls = 0 then { q with rxErr := min 255 (q.rxErr + 1), lec := code } else { q with txErr := min 255 (q.txErr + 8), lec := code }

/-- A violation is counted, latched, journalled and shown in PORT_EVT, as is the error-passive state of a CAN port (R363, R366). -/
def State.violRecord (s : State) (p cls : Nat) (node : Option Nat) : State :=
  let n := node.getD 0xFFFFFF
  let s1 := (s.canError p cls).updPort p fun q => { q with vcnt := q.vcnt.set cls (satInc (q.vcnt.get 0 cls)), vlastClass := BitVec.ofNat 3 cls,
                                                           vlastNode := BitVec.ofNat 24 n, vframe := s.frameLo }
  let s2 := (s1.journalRec stViolation false false false midFwc (p + cls * 256 + n * 2048)).portEvt p 2
  if portKind p = some .can ∧ cls = 7 then s2.portEvt p 6 else s2

/-- A node's count toward QLIM: violations within 1,024 frames (R363). -/
def State.qlimCount (s : State) (p n : Nat) : Nat × State :=
  let f := s.frm.frame.toNat
  let q := s.port p
  let l := (f :: (q.qcnt.get [] n).filter fun x => decide (f < x + 1024)).take 255
  (l.length, s.setPort p { q with qcnt := q.qcnt.set n l })

/-- The response to a violation: QUARANTINE_NODE at QLIM, NACK where a node is not known, and ESCALATE where
the list is full (R363, R365). -/
def State.respTo (s : State) (p cls : Nat) (node : Option Nat) : Resp × State :=
  let r := respOf (bitsOf (s.vresp p) (4 * cls) 4)
  match node with
  | none => (if r = .quarantine then .nack else r, s)
  | some n =>
    let (c, s1) := s.qlimCount p n
    let lim := (s.port p).qlim.toNat
    let r1 := if lim ≠ 0 ∧ lim ≤ c then Resp.quarantine else r
    if r1 = .quarantine ∧ 32 ≤ (s.port p).quar.length ∧ !(s.port p).quar.contains (BitVec.ofNat 24 n) then (.escalate, s1) else (r1, s1)

/-- A node is entered in the quarantine list (R365, R366). -/
def State.quarantine (s : State) (p n : Nat) : State :=
  let v : BitVec 24 := BitVec.ofNat 24 n
  (s.updPort p fun q => if q.quar.contains v then q else { q with quar := q.quar ++ [v] }).portEvt p 3

/-- A node is quarantined on the port (R365). -/
def State.isQuar (s : State) (p n : Nat) : Bool := (s.port p).quar.contains (BitVec.ofNat 24 n)

/-- The segment is isolated: the port's next units fail, a unit on the wire completes (R182, R360). -/
def State.isolate (s : State) (p : Nat) : State :=
  if (s.port p).st = 4 then s else
  let s1 := ((s.updPort p fun q => { q with st := 3 }).portSafe p).portEvt p 1
  let waiting := (s1.portChans p).filter fun ch => (s1.chan ch).xfer.phase ≠ .wire
  s1.each waiting fun s ch => s.endOnPort p stSegmentFault ch

/-- The effects of a response beyond the CCW (R182). -/
def State.respSide (s : State) (p : Nat) (node : Option Nat) (r : Resp) : State :=
  match r with
  | .quarantine => match node with
      | none => s
      | some n => s.quarantine p n
  | .isolate => s.isolate p
  | .escalate => s.pulse (violSrc p)
  | _ => s

/-- A violation with no CCW to act on (R363). -/
def State.violAlone (s : State) (p cls : Nat) (node : Option Nat) : State :=
  let (r, s1) := (s.violRecord p cls node).respTo p cls node
  s1.respSide p node r

/-- Condition bits of a channel set (R152). -/
def State.setCond (s : State) (ch : Nat) (bits : Nat) : State :=
  s.updChan ch fun c => { c with cond := c.cond ||| BitVec.ofNat 16 bits }

/-- The SL flag of the channel's present CCW, kept with its transfer. -/
def flagSl (w : BitVec 128) : Bool := bitOf w 14

/-- UNSOLICITED is the class of a buffered unit that no READ takes (R348, R364). -/
def unsolClass (p : Nat) : Nat :=
  match portKind p with
  | some .t1s => 2
  | some .can => 3
  | some .uart => 5
  | some .eth => 6
  | _ => 0

/-! ### Units and bus time (R345 to R347, R509) -/

/-- Bus time of an Ethernet frame of n bytes with FCS at a rate of r × 10 Mb/s, in 100 ns: at least 1 (R345). -/
def frameTime (n r : Nat) : Nat := max 1 (ceilDiv (8 * (n + 20)) r)

/-- ETH rate in units of 10 Mb/s (ETH_CFG.SPEED). -/
def ethRate (code : Nat) : Nat := match code with
  | 0 => 1
  | 1 => 10
  | 2 => 100
  | 3 => 250
  | 4 => 500
  | _ => 1000

/-- Frame bytes on the wire: from the destination address to the payload, padded to 60 B, with the FCS (R350). -/
def wireLen (n : Nat) : Nat := max 60 n + 4

/-- The bit counts A and D of a CAN frame (R346). -/
def canBits (fdf ide : Bool) (len : Nat) : Nat × Nat :=
  if !fdf then
    (if ide then 67 + 8 * len + (53 + 8 * len) / 4 else 47 + 8 * len + (33 + 8 * len) / 4, 0)
  else (if ide then 57 else 34, (if len ≤ 16 then 32 else 37) + 8 * len + (5 + 8 * len) / 4)

/-- Nominal and data bit times of a CAN port in 12.5 ns cycles of 80 MHz. -/
def State.canTn (s : State) (p : Nat) : Nat :=
  let w := s.pcfg p 0x100
  (bitsOf w 0 8 + 1) * (1 + (bitsOf w 8 8 + 1) + (bitsOf w 16 7 + 1))
def State.canTd (s : State) (p : Nat) : Nat :=
  let w := s.pcfg p 0x104
  (bitsOf w 0 5 + 1) * (1 + (bitsOf w 8 5 + 1) + (bitsOf w 16 4 + 1))

/-- Bus time of a CAN frame in 100 ns, rounded up (R345, R346): a cycle of 12.5 ns is an eighth of 100 ns. -/
def State.canTime (s : State) (p : Nat) (fdf ide brs : Bool) (len : Nat) : Nat :=
  let (a, d) := canBits fdf ide len
  ceilDiv (a * s.canTn p + d * (if brs then s.canTd p else s.canTn p)) 8

/-- Character bits of a UART (R345). -/
def State.charBits (s : State) (p : Nat) : Nat :=
  let w := s.pcfg p 0x100
  1 + (bitsOf w 5 2 + 5) + (if bitsOf w 2 2 = 0 then 0 else 1) + (if bitOf w 4 then 2 else 1)

/-- DIV of a UART, from 256 (UART_BAUD). -/
def State.uartDiv (s : State) (p : Nat) : Nat := max 256 (bitsOf (s.pcfg p 0x104) 0 20)

/-- t3.5 in µs (UART_MB): as written, or 3.5 character times at 19,200 Bd and below, and 1,750 µs above. -/
def State.t35us (s : State) (p : Nat) : Nat :=
  let w := bitsOf (s.pcfg p 0x10C) 16 16
  if w ≠ 0 then w
  else if 80000 ≤ s.uartDiv p then ceilDiv (7 * s.charBits p * s.uartDiv p) (2 * 1536) else 1750

/-- Bus time of n characters in 100 ns: one bit lasts DIV / (16 × 96 MHz) (R345). -/
def State.charTime (s : State) (p n : Nat) : Nat := ceilDiv (n * s.charBits p * s.uartDiv p * 10) 1536

/-- Bus time of a Modbus ADU of n characters with its t3.5 (R345). -/
def State.aduTime (s : State) (p n : Nat) : Nat :=
  ceilDiv (n * s.charBits p * s.uartDiv p * 10 + 10 * 1536 * s.t35us p) 1536

/-- SPI half-period cycles: SCLK = 200 MHz / (2 × (DIV + 1)), DIV 0 counting as 1. -/
def State.spiDiv (s : State) (p cs : Nat) : Nat := 2 * (max 1 (bitsOf (s.pcfg p (0x100 + 4 * cs)) 3 8) + 1)

/-- Bus time of an SPI transaction of n bytes (R345): cycles of 5 ns, SETUP and HOLD included. -/
def State.spiTime (s : State) (p cs n : Nat) : Nat :=
  let w := s.pcfg p (0x100 + 4 * cs)
  ceilDiv (8 * n * s.spiDiv p cs + bitsOf w 11 8 + bitsOf w 19 8) 20

/-- Units of 100 ns in one I²C bit time (I2C_CFG.SPEED). -/
def State.i2cBit (s : State) (p : Nat) : Nat :=
  match bitsOf (s.pcfg p 0x100) 1 2 with
  | 0 => 100
  | 1 => 25
  | _ => 10

/-- Bus time of an I²C transaction (R345): 9 bits a byte, 2 for START and STOP, 1 a repeated START. -/
def State.i2cTime (s : State) (p bytes rep : Nat) : Nat := (9 * bytes + 2 + rep) * s.i2cBit p

/-- Bus time of a CONTROL operation (R509). -/
def State.ctlTime (s : State) (p op : Nat) : Nat :=
  match op with
  | 0x04 => s.t35us p * 10
  | 0x05 => ceilDiv (8 * s.spiDiv p 0) 20
  | 0x06 => 10 * s.i2cBit p
  | _ => 1

/-- Bus time of an input unit of unknown length, at the configured maximum (R347). -/
def State.maxInput (s : State) (p : Nat) (node : Nat) (n : Nat) : Nat :=
  match portKind p with
  | some .t1s =>
    let d := bitsOf (s.pcfg p 0x108) 0 11
    let r := if node < 32 then bitsOf (s.pcfg p (0x404 + 8 * node)) 16 11 else 0
    frameTime (max 64 (if r = 0 then d else r)) 1
  | some .uart => s.aduTime p 256
  | some .adc => 5
  | some .gpio => 1
  | _ => n

/-! ### When an Ethernet frame may start (R358, R509) -/

/-- Frames in the Qbv cycle of a MAC. -/
def State.gateFrames (s : State) (p : Nat) : Nat := bitsOf (s.pcfg p 0x100) 12 4 + 1

/-- The length of the cycle, and how far TIME is in it, in units of 10 ns. -/
def State.gateCycle (s : State) (p : Nat) : Nat := s.gateFrames p * s.frm.periodAct.toNat
def State.gatePos (s : State) (p : Nat) : Nat :=
  s.frm.frame.toNat % s.gateFrames p * s.frm.periodAct.toNat + (s.frm.time.toNat - s.frm.opened.toNat)

/-- Entry e of the gate list is valid. -/
def State.gateValid (s : State) (p e : Nat) : Bool := decide (e < 64) && bitOf (s.pcfg p (0x1000 + 8 * e)) 8

/-- Where the first n entries of the gate list end in the cycle. -/
def State.gateEnd (s : State) (p n : Nat) : Nat := ((List.range n).map fun e => (s.pcfg p (0x1004 + 8 * e)).toNat).sum

/-- Where in the cycle the gate of a class closes first from entry e on; none where it stays open to the end of the cycle, to which the last
valid entry holds. -/
def State.gateCloses (s : State) (p tc e : Nat) : Nat → Option Nat
  | 0 => none
  | n + 1 =>
    if !bitOf (s.pcfg p (0x1000 + 8 * e)) tc then some (s.gateEnd p e)
    else if s.gateValid p (e + 1) then s.gateCloses p tc (e + 1) n else none

/-- The gate of a class is open, and stays so for a frame of t units of 100 ns (R358). -/
def State.gateFits (s : State) (p tc t : Nat) : Bool :=
  !bitOf (s.pcfg p 0x100) 8 || (bitOf (s.pcfg p (0x1000 + 8 * (s.port p).gate)) tc &&
    match s.gateCloses p tc (s.port p).gate 64 with
    | some c => decide (s.gatePos p + 10 * t ≤ c)
    | none => match s.gateCloses p tc 0 64 with
      | some c => decide (s.gatePos p + 10 * t ≤ s.gateCycle p + c)
      | none => true)

/-- A frame of a traffic class, n bytes from its destination address on, may start on a MAC: the link is up, no PAUSE holds it back, and it
ends before its gate closes (R358, R509, ETH_CFG). -/
def State.ethMay (s : State) (p tc n : Nat) : Bool :=
  !(s.port p).linkDown && decide ((s.port p).pauseTo ≤ s.frm.time.toNat)
    && s.gateFits p tc (frameTime (wireLen n) (ethRate (bitsOf (s.pcfg p 0x100) 1 3)))

/-! ### What a port sends (R350, R352 to R354) -/

/-- One step of the reflected CRC-16 of Modbus. -/
def crc16Bit (c : BitVec 16) : BitVec 16 := if bitOf c 0 then (c >>> 1) ^^^ 0xA001 else c >>> 1

/-- CRC-16 of Modbus RTU over a run of bytes (R353). -/
def crc16 (l : List Byte) : BitVec 16 :=
  l.foldl (fun c b => (List.range 8).foldl (fun c _ => crc16Bit c) (c ^^^ b.setWidth 16)) 0xFFFF

/-- The FCS of an Ethernet frame: CRC-32 of IEEE 802.3, reflected (R350). -/
def fcs32 (l : List Byte) : Word32 :=
  ~~~(l.foldl (fun c b => (List.range 8).foldl (fun (c : Word32) _ => if bitOf c 0 then (c >>> 1) ^^^ 0xEDB88320 else c >>> 1) (c ^^^ b.setWidth 32)) 0xFFFFFFFF)

/-- The packet error code of SMBus over a run of bytes: CRC-8 with polynomial 0x07 (R354). -/
def pec8 (l : List Byte) : Byte :=
  l.foldl (fun c b => (List.range 8).foldl (fun (c : Byte) _ => if bitOf c 7 then (c <<< 1) ^^^ 0x07 else c <<< 1) (c ^^^ b)) 0

/-- Two bytes of a field that goes out most significant byte first. -/
def be16 (n : Nat) : List Byte := [BitVec.ofNat 8 (n / 256), BitVec.ofNat 8 n]

/-- A MAC address of two configuration words, first byte on the wire in bits [7:0] of the low one (R350). -/
def State.macAt (s : State) (p lo hi : Nat) : List Byte := leBytes 4 (s.pcfg p lo).toNat ++ leBytes 2 (bitsOf (s.pcfg p hi) 0 16)

/-- The header that a T1S or ETH port adds to a payload: destination, source, tag and EtherType (R350). -/
def State.frameHead (s : State) (p node : Nat) : List Byte :=
  match portKind p with
  | some .eth =>
    let w2 := s.pcfg p (0x408 + 16 * node)
    s.macAt p (0x400 + 16 * node) (0x404 + 16 * node) ++ s.macAt p 0x104 0x108
      ++ (if bitOf w2 15 then be16 0x8100 ++ be16 (bitsOf w2 12 3 * 8192 + bitsOf w2 0 12) else []) ++ be16 (bitsOf (s.pcfg p (0x404 + 16 * node)) 16 16)
  | _ =>
    (if node = 0xFF then List.replicate 6 0xFF else s.macAt p (0x400 + 8 * node) (0x404 + 8 * node)) ++ s.macAt p 0x10C 0x110
      ++ be16 (bitsOf (s.pcfg p 0x110) 16 16)

/-- A frame with its padding to 60 B and its FCS (R350). -/
def framed (l : List Byte) : List Byte :=
  let b := l ++ List.replicate (60 - l.length) 0
  b ++ leBytes 4 (fcs32 b).toNat

/-- A CAN record as it is sent: the node's identifier in place of the record's, and the data without their padding (R352). -/
def State.canSent (s : State) (p node : Nat) (l : List Byte) : List Byte :=
  let h := ofLeBytes (l.take 8)
  let w0 := s.pcfg p (0x400 + 8 * node)
  leBytes 8 (if node = 0xFF then h else (h >>> 30) * 0x40000000 + bitsOf w0 0 30) ++ (l.drop 8).take ((h >>> 32) % 128)

/-- The address bytes of an I²C transaction (R354). -/
def i2cAddr (param : Word32) (rd : Bool) : List Byte :=
  let a := bitsOf param 8 10
  if bitOf param 18 then [BitVec.ofNat 8 (0xF0 + a / 256 * 2 + b2n rd), BitVec.ofNat 8 a] else [BitVec.ofNat 8 (a * 2 + b2n rd)]

/-- What a port puts on the wire for a unit of a command with `out` as its data and `want` bytes to receive (R350, R352 to R354). -/
def State.wireBytes (s : State) (p node cmd : Nat) (param : Word32) (out : List Byte) (want : Nat) : List Byte :=
  if cmd = 0x03 then [] else
  match portKind p with
  | some .t1s | some .eth => if cmd = 0x02 then [] else framed (if bitOf param 16 then out else s.frameHead p node ++ out)
  | some .can => s.canSent p node out
  | some .uart =>
    if cmd = 0x02 then [] else if s.isModbus p then
      let l := BitVec.ofNat 8 node :: out
      l ++ leBytes 2 (crc16 l).toNat
    else out.take 1
  | some .spi => if cmd = 0x02 then List.replicate want 0xFF else out
  | some .i2c =>
    if cmd = 0x02 then i2cAddr param true
    else
      let l := i2cAddr param false ++ out
      if cmd = 0x0F then l ++ i2cAddr param true else if bitOf param 19 then l ++ [pec8 l] else l
  | _ => []

/-! ### Sense block (R367) -/

/-- PORT_STAT. -/
def State.portStat (s : State) (p : Nat) : Nat :=
  let q := s.port p
  q.st.toNat + q.cause.toNat * 8 + q.quar.length * 256 + (min 255 q.readers.length) * 0x10000

/-- The words 8 to 31 of a port's sense block, in the order R367 names; the line monitor's readings of a CAN or I²C port, which R509 puts
there too, come after them (log 117); what no word names is 0. -/
def State.senseTail (s : State) (p : Nat) : List Nat :=
  let q := s.port p
  match portKind p with
  | some .t1s => [b2n q.plcaUp, q.curId] ++ q.lineMon.map (·.toNat)
  | some .can => [q.txErr, q.rxErr, q.lec] ++ q.lineMon.map (·.toNat)
  | some .uart => [q.charErrs]
  | some .i2c => q.recoveries :: q.lineMon.map (·.toNat)
  | some .gpio => q.levels.toNat :: (List.range 16).map fun l => (q.quad.get 0 l).toNat
  | some .adc => (List.range 16).map fun i => (q.samples.get 0 i).toNat
  | some .eth => [bitsOf (s.pcfg p 0x100) 1 3, b2n (!q.linkDown), q.rxFrames, q.txFrames]
  | _ => []

/-- The 128 B sense block of a port (R367). -/
def State.senseBlock (s : State) (p : Nat) : List Byte :=
  let q := s.port p
  let head := leBytes 4 (s.portStat p) ++ leBytes 4 q.evt.toNat
    ++ (List.range 8).flatMap (fun k => leBytes 2 (q.vcnt.get 0 k).toNat)
    ++ leBytes 4 (q.faults.toNat + q.rxdrop.toNat * 65536) ++ leBytes 4 q.faultFrame.toNat
  (head ++ (s.senseTail p).flatMap (leBytes 4) ++ List.replicate 128 0).take 128

/-- The line monitor of a T1S, CAN or I²C port runs: its readings stand in the sense block (R367, R509). -/
def State.lineDiag (s : State) (p : Nat) (readings : List Word32) : State :=
  match portKind p with
  | some .t1s | some .can | some .i2c => s.updPort p fun q => { q with lineMon := readings.take 22 }
  | _ => s

end Sys2Proof.Machine
end

