-- ==== Sys2Proof/Machine/RestOps.lean ====
section
/-! DEFINITION. The levels at which power domains may rest: their tolerance, pins and target (R399 to R401). -/

namespace Sys2Proof.Machine
open Sys2Proof

/-! ### Domains (R51, R52) -/

/-- The deepest rest level of a domain (R51). -/
def domDeepest (d : Nat) : Nat := if d < 114 then 3 else if d < 120 then 2 else if d < 125 then 3 else if d < 132 then 2 else 3

/-- The domain is a core: its number is the core's. -/
def isCoreDom (d : Nat) : Bool := decide (d < 72)

/-- A GUARANTEED class in force has a budget of Trowel or Cornice cycles: the reserved contexts exist (R266). -/
def State.reserves (s : State) (crn : Bool) : Bool :=
  (List.range 64).any fun c =>
    let a := (s.cls c).act
    a.kind = 2 && (let b := if crn then a.ccyc else a.tcyc; b ≠ 0 && b ≠ BitVec.allOnes 24)

/-- A bus-time budget of a GUARANTEED class as a number (R213). -/
def guarBus (b : BitVec 20) : Nat := if b = BitVec.allOnes 20 then 0 else b.toNat

/-! ### Tolerance (R399) -/

/-- The smallest of a list of contributions, none without one. -/
def minOf (l : List Nat) : Option Nat := l.foldl (fun b x => some (match b with
  | none => x
  | some y => min x y)) none

/-- The die tolerance as a contribution. -/
def State.dieTolList (s : State) : List Nat := if s.pwr.dieTol = 0 then [] else [s.pwr.dieTol.toNat]

/-- A queue's contribution: 0 counts as 1 µs. -/
def Queue.tol (q : Queue) : Nat := max 1 q.latTolAct.toNat

/-- Some channel of a tile is bound. -/
def State.tileBound (s : State) (t : Nat) : Bool := s.chans.any fun e => e.2.bound && tileOfCh e.1 == t

/-- T of the cores of a tile. -/
def State.tolTile (s : State) (t : Nat) : List Nat :=
  (s.queues.filter fun e => e.2.st != .disabled && s.chans.any fun c => c.2.bound && tileOfCh c.1 == t && c.2.queue == e.1).map (fun e => e.2.tol)
    ++ s.dieTolList

/-- T of a port domain. -/
def State.tolPorts (s : State) (d : Nat) : List Nat :=
  (((domPorts d).filter fun p => s.pEnabled p && (s.port p).latTol ≠ 0).map fun p => (s.port p).latTol.toNat) ++ s.dieTolList

/-- The contributions of a domain. -/
def State.tolList (s : State) (d : Nat) : List Nat :=
  if isCoreDom d then s.tolTile (tileOfCore d)
  else if !(domPorts d).isEmpty then s.tolPorts d
  else if 127 ≤ d ∧ d ≤ 130 then
    let q := d - 127
    s.tolTile (2 * q) ++ s.tolTile (2 * q + 1) ++ s.tolPorts (120 + q)
  else if d = 131 ∨ d = 133 then s.dieTolList else []

/-- T of a domain in µs; none where nothing contributes. -/
def State.domTol (s : State) (d : Nat) : Option Nat := minOf (s.tolList d)

/-! ### Pins and targets (R400, R401) -/

/-- A GUARANTEED class in force has bus time on a port. -/
def State.guarBusOn (s : State) (p : Nat) : Bool :=
  (List.range 64).any fun c => s.kindOf c == 2 && guarBus ((s.port p).bact.get (BitVec.allOnes 20) c) != 0

/-- A core domain is pinned: a GUARANTEED class in force has core cycles (R266, R401). -/
def State.corePinned (s : State) : Bool := s.reserves false || s.reserves true

/-- A port is UP and its input is buffered: a unit may come at any time (R348, R401, log 120). -/
def State.hasInput (s : State) (p : Nat) : Bool := decide ((s.port p).st = 1) && s.isBuffered p

/-- A domain is pinned at L0 (R401). -/
def State.domPinned (s : State) (d : Nat) : Bool :=
  if isCoreDom d then s.corePinned
  else if !(domPorts d).isEmpty then
    (domPorts d).any s.guarBusOn
      || (if d < 112 || (120 ≤ d && d < 124) then (domPorts d).any s.hasInput
          else if 114 ≤ d && d < 120 then
            (List.range 16).any fun l =>
              [2, 3, 4, 5].contains (s.lineMode (0x50 + (d - 114)) l) || (s.src (0x5D0 + 16 * (d - 114) + l)).en
          else if d = 132 then (List.range 16).any fun i => bitOf (s.pcfg 0x58 (0x100 + 4 * i)) 1
          else false)
  else if 127 ≤ d ∧ d ≤ 130 then s.corePinned
  else if d = 133 then s.chans.any (fun e => e.2.bound) && !s.paired
  else if d = 124 then s.ds.present else false

/-- The wake time of a level is at most T (R397, R400). -/
def wakeFits (level : Nat) (t : Option Nat) : Bool :=
  match t with
  | none => true
  | some n => match level with
    | 3 => decide (180 ≤ n)
    | 2 => decide (12 ≤ n)
    | _ => decide (1 ≤ n)

/-- A level is open to a domain as its target (R400, R402). -/
def State.levelOpen (s : State) (d level : Nat) : Bool :=
  decide (level ≤ domDeepest d) && decide (level ≤ (s.dom d).maxrest.toNat) && wakeFits level (s.domTol d)
    && !(decide (64 ≤ d) && isCoreDom d && level == 3 && s.tileBound (tileOfCore d))

/-- The target level of a domain (R400). -/
def State.domTarget (s : State) (d : Nat) : Nat :=
  if isLinkDom d || !s.pwr.restEn || s.domPinned d then 0
  else if s.levelOpen d 3 then 3 else if s.levelOpen d 2 then 2 else if s.levelOpen d 1 then 1 else 0

/-- A target shallower than the level a domain is at wakes it (R400, R405 CAUSE 6). -/
def State.retarget (s : State) : State :=
  s.each (s.pwr.doms.map (·.1)) fun s d => if s.domTarget d < (s.dom d).level then s.wakeDomain d 6 else s

end Sys2Proof.Machine
end

