-- ==== Sys2Proof/Machine/DieOps.lean ====
section
/-! DEFINITION. The die halt (R194), heartbeats, and the reads a module issues (R66, R67, R82). -/

namespace Sys2Proof.Machine
open Sys2Proof

/-- The payload of this die's heartbeat (R462). -/
def State.hbPayload (s : State) (halting : Bool) : List Byte :=
  [BitVec.ofNat 8 (s.ds.role.toNat + s.ds.sub.toNat * 4 + b2n s.hold * 16 + b2n halting * 32), BitVec.ofNat 8 (b2n s.ds.rolePin)]
    ++ leBytes 2 s.prm.stateVer.toNat ++ leBytes 4 s.ds.peerHb.toNat ++ leBytes 4 s.link0.ackEqs.toNat ++ leBytes 4 s.link1.ackEqs.toNat
    ++ leBytes 4 s.frm.adj.toNat ++ leBytes 4 s.frm.periodAct.toNat ++ leBytes 4 (if s.prm.slot then s.prm.verB else s.prm.verA).toNat
    ++ leBytes 8 Config.serial.toNat

/-- A heartbeat is sent (R462). -/
def State.sendHb (s : State) (halting : Bool) : State :=
  let s1 := s.dsSend .heartbeat false (.bytes (s.hbPayload halting))
  { s1 with ds := { s1.ds with lastHb := s.frameLo } }

/-- PAYLOAD of an EFFECT_INDETERMINATE record (R430). -/
def indetPayload (ch queue : Nat) (rs done : Bool) (cnt : Word32) (ccw : Word64) (frame : Word32) : Nat :=
  ch % 4096 + (queue % 1024) <<< 12 + b2n rs <<< 22 + b2n done <<< 23 + cnt.toNat <<< 24 + ccw.toNat <<< 56 + frame.toNat <<< 120

/-- What is journalled of an MRAM ledger slot: one with an uncorrectable word has lost its contents, and stands with channel 0xFFF
(R428, R434). -/
def MSlot.indet (m : MSlot) : Nat :=
  if m.bad then indetPayload 0xFFF 0 false false 0 0 0 else indetPayload m.ch m.queue m.rs m.done m.cnt m.ccw m.frame

/-- An open ledger entry that no MRAM slot holds. -/
def State.noSlot (s : State) (e : LEntry) : Bool :=
  !(s.mled.any fun m => m.2.ch == e.ch && m.2.ccw == e.ccw && m.2.cnt == e.cnt && m.2.frame == e.openFrame)

/-- The open effects are journalled (R194): the MRAM slots of a die without a partner in sync (R432), and every open ledger entry that
is in none. -/
def State.journalOpen (s : State) : State :=
  let slots := if s.paired then [] else s.mled
  let s1 := s.each slots fun s e => s.journalRec stIndeterminate true false false midFwc e.2.indet
  let s2 := s1.each (s.ledger.filter fun e => e.2.st = 1 && (s.paired || s.noSlot e.2)) fun s e =>
    s.journalRec stIndeterminate true false false midFwc (indetPayload e.2.ch e.2.queue e.2.rs false e.2.cnt e.2.ccw e.2.openFrame)
  if s.paired then s2 else { s2 with mled := [] }

/-- Every port drives its safe state (R362). -/
def State.allSafe (s : State) : State := s.each (s.ports.map (·.1)) fun s p => s.portSafe p

/-- What a halt does to a module's egress queue: what has not left is dropped (R194). -/
def Link.dropEgress (l : Link) : Link := { l with queue := [], held := [], holding := false, graceOver := false, replaying := 0 }

/-- The die halt (R194, R450): the steps in their order. -/
def State.haltDie (s : State) : State :=
  if s.die = .halted then s else
  let s1 := ({ s with die := .halted }).allSafe
  let s2 := { s1 with link0 := s1.link0.dropEgress, link1 := s1.link1.dropEgress }
  let s3 := s2.journalOpen.flushJournal
  let s4 := s3.sendHb true
  { s4 with ds := { s4.ds with fenceOut := false, pulse := none, gated := [] }, late := [] }

/-! ### Reads of host memory -/

/-- Tags of a module (R66). -/
def Link.tagLimit (l : Link) : Nat := if l.cfg.tag10 then 768 else 256

/-- Tags and read units in use. -/
def Link.tagsUsed (l : Link) : Nat := l.reads.foldl (fun n r => n + r.tags) 0
def Link.unitsUsed (l : Link) : Nat := l.reads.foldl (fun n r => n + r.units) 0

/-- The largest read request of a module: the smaller of 512 B and Max_Read_Request_Size (R66). -/
def Link.maxRead (l : Link) : Nat := min 512 (128 * 2 ^ l.cfg.mrrs.toNat)

/-- The largest write of a module (R66). -/
def Link.maxWrite (l : Link) : Nat := min 256 (128 * 2 ^ l.cfg.mps.toNat)

/-- The module can send requests now. -/
def Link.usable (l : Link) : Bool := l.canIssue && l.lstate = 0 && l.up && !l.lost && !l.holding

/-- A read fits the tags of its module and the die's read units, with the share kept for GUARANTEED reads (R66,
R67). -/
def State.readFits (s : State) (md : Nat) (r : HostRead) : Bool :=
  let l := s.link md
  let keepT := if r.guar then 0 else 64
  let keepU := if r.guar then 0 else 512
  decide (l.tagsUsed + r.tags + keepT ≤ l.tagLimit) && decide (s.link0.unitsUsed + s.link1.unitsUsed + r.units + keepU ≤ 8192)

/-- Waiting reads: GUARANTEED ones stand ahead of the others (R67). -/
def addWaiting (l : List HostRead) (r : HostRead) : List HostRead :=
  if r.guar then (l.filter fun x => x.guar) ++ [r] ++ l.filter fun x => !x.guar else l ++ [r]

/-- Waiting reads are issued in order while they fit. -/
def State.pumpReads (s : State) (md : Nat) : Nat → State
  | 0 => s
  | n + 1 =>
    let l := s.link md
    match l.waiting with
    | [] => s
    | r :: t =>
      if l.usable && l.replaying == 0 && s.readFits md r then
        (s.setLink md { l with waiting := t, reads := l.reads ++ [r] }).pumpReads md n
      else s

/-- The reads a module may issue now are issued. -/
def State.pump (s : State) (md : Nat) : State := s.pumpReads md (s.link md).waiting.length

/-- Reads of both modules go on where tags or units became free: first of the module itself (R66). -/
def State.pumpAll (s : State) (md : Nat) : State := (s.pump md).pump (if md = 0 then 1 else 0)

/-- Read requests (tags) and 64 B units that a read of n bytes takes on a module (R66). -/
def State.readReqs (s : State) (md n : Nat) : Nat := max 1 (ceilDiv n (s.link md).maxRead)
def readUnits (n : Nat) : Nat := ceilDiv n 64

/-- A channel waits at its next access to host memory: the function may issue no request, or its traffic is held (R63, R64,
R85). -/
def State.hostWaits (s : State) (md : Nat) : Bool := !(s.link md).canIssue || (s.link md).holding

/-- A read is asked for: it waits, and is issued as soon as it may be (R66, R67, R80). -/
def State.askRead (s : State) (md : Nat) (r : HostRead) : State :=
  ((s.updLink md fun l => { l with waiting := addWaiting l.waiting r }).wantLink md).pump md

/-- The read completes: it is outstanding no more, and its tag and units are free. -/
def State.endRead (s : State) (md : Nat) (p : ReadReq → Bool) : Option (HostRead × State) :=
  match takeFirst (fun r => p r.req) (s.link md).reads with
  | none => none
  | some (r, rest) => some (r, (s.updLink md fun l => { l with reads := rest }).pumpAll md)

/-- A read that completes on either module, with its module. -/
def State.endReadAny (s : State) (p : ReadReq → Bool) : Option (HostRead × State) :=
  match s.endRead 0 p with
  | some x => some x
  | none => s.endRead 1 p

/-- Some read of a kind is outstanding or waits. -/
def State.hasRead (s : State) (p : ReadReq → Bool) : Bool :=
  (s.link0.reads ++ s.link0.waiting ++ s.link1.reads ++ s.link1.waiting).any fun r => p r.req

/-- Every read of a kind is forgotten (its completion is discarded). -/
def State.dropReads (s : State) (p : ReadReq → Bool) : State :=
  let f (l : Link) : Link := { l with reads := l.reads.filter fun r => !p r.req, waiting := l.waiting.filter fun r => !p r.req }
  { s with link0 := f s.link0, link1 := f s.link1 }

/-! ### Held writes (R86) -/

/-- The Hawk cells that keep a held write: charged to SYSTEM, from the home slice of the die unit (R86, R297, R299; log 90). -/
def State.keepWrite (s : State) (md : Nat) (e : Egress) : State :=
  match s.grantMany 22 3 sysAcct (.linkHeld md) (ceilDiv e.bytes.length 60) with
  | none => s
  | some (cells, s1) =>
    let put (x : Egress) : Egress := if x.eqs = e.eqs then { x with cells } else x
    (s1.fillCells cells e.bytes).updLink md fun l => { l with queue := l.queue.map put, held := l.held.map put }

/-- The held writes of a module go into Hawk cells, one write a cycle, and cells of writes that are held no more go free (R86). -/
def State.keepHeld (s : State) (md : Nat) : State :=
  let l := s.link md
  let ws := l.queue ++ l.held
  let old := (s.hawk.cells.filter fun e => e.2 = .linkHeld md && !(ws.any fun w => w.cells.contains e.1)).map (·.1)
  let s1 := s.each old fun s k => s.freeOne k
  if l.holding then
    match ws.find? fun w => w.cells.isEmpty && !w.bytes.isEmpty with
    | none => s1
    | some e => s1.keepWrite md e
  else s1

/-- Data written to host memory in pieces of at most Max_Payload_Size that cross no 4 KiB boundary (R66). -/
def State.writeHost (s : State) (md : Nat) (kind : EgKind) (addr : Nat) (l : List Byte) (relaxed : Bool) : Nat → State
  | 0 => s
  | n + 1 =>
    if l.isEmpty then s else
    let m := min ((s.link md).maxWrite) (4096 - addr % 4096)
    (s.send md kind (BitVec.ofNat 64 addr) (l.take m) relaxed).writeHost md kind (addr + m) (l.drop m) relaxed n

end Sys2Proof.Machine
end

