-- ==== Sys2Proof/Machine/CtxOps.lean ====
section
/-! DEFINITION. Contexts of the cores: their states, event latches, loop-back and which of them are HELD (R256, R262 to R275,
R287). -/

namespace Sys2Proof.Machine
open Sys2Proof

/-! ### Cores -/

/-- The core's lock bit (R289). -/
def State.locked (s : State) (core : Nat) : Bool :=
  if core < 64 then bitOf s.gctl.coreLock core else bitOf s.gctl.crnLock (core - 64)

/-- The core's freeze bit (R442). -/
def State.frozen (s : State) (core : Nat) : Bool :=
  if core < 64 then bitOf s.gctl.freeze core else bitOf s.gctl.freezeCrn (core - 64)

/-- The core takes RUNs and interrupts: not locked, frozen, out of service or in Hold (R265, R284). -/
def State.coreOk (s : State) (core : Nat) : Bool :=
  !(s.locked core) && !(s.frozen core) && !(s.core core).out && !s.hold && s.die = .ready

/-- The line of source LOCKUP follows the lock bits (R322). -/
def State.lockLine (s : State) : State := s.setLine 0x403 (s.gctl.coreLock ≠ 0 || s.gctl.crnLock ≠ 0)

/-- A bit of a 64-bit or 8-bit word set or cleared. -/
def withBit {w : Nat} (x : BitVec w) (i : Nat) (b : Bool) : BitVec w :=
  if b then x ||| BitVec.ofNat w (2 ^ i) else x &&& ~~~(BitVec.ofNat w (2 ^ i))

/-- The core's lock bit written, and LOCKUP with it. -/
def State.setLock (s : State) (core : Nat) (b : Bool) : State :=
  { s with gctl := if core < 64 then { s.gctl with coreLock := withBit s.gctl.coreLock core b }
                   else { s.gctl with crnLock := withBit s.gctl.crnLock (core - 64) b } }.lockLine

/-- The core's freeze bit written. -/
def State.setFreeze (s : State) (core : Nat) (b : Bool) : State :=
  { s with gctl := if core < 64 then { s.gctl with freeze := withBit s.gctl.freeze core b }
                   else { s.gctl with freezeCrn := withBit s.gctl.freezeCrn (core - 64) b } }

/-! ### Local memory layout (R267) -/

/-- Word offset of the private area of a context. -/
def privWord (core k : Nat) : Nat := (if core < 64 then 0x3000 else 0x7000) + 0x100 * k
/-- Word offset of the level-1 workspace of a context. -/
def wsWord (core k : Nat) : Nat := (if core < 64 then 0x3840 else 0x7800) + 0x38 * k
/-- Word offset of the TSB stack of a context. -/
def tsbWord (core k : Nat) : Nat := (if core < 64 then 0x3A00 else 0x7500) + 0xC0 * k
/-- Word offset of the vector table. -/
def vtbWord (core : Nat) : Nat := if core < 64 then 0x3800 else 0x7400
/-- Word offset of the routine library and its words (R386). -/
def libWord (core : Nat) : Nat := if core < 64 then 0 else 0x4000
/-- The byte address by which a core reaches a word of its own local memory: the self alias (R35). -/
def aliasAddr (w : Nat) : Nat := 0x08000000 + 2 * w

/-! ### States of contexts (R263, R264) -/

/-- The state a context is in apart from being HELD. -/
def Ctx.base (c : Ctx) : CtxSt := if c.st = .held then c.heldFrom else c.st

/-- An interrupt handler is active on the context (R284). -/
def Ctx.inInt (c : Ctx) : Bool := c.ints.any fun p => p.isSome

/-- Priority of the innermost active interrupt handler (R284). -/
def Ctx.curPri (c : Ctx) : Option Nat := (c.ints.find? fun p => p.isSome).join

/-- The context has a slot of its own and is chosen by no rule: context 0 of a Cornice core (R262). -/
def ownSlot (core k : Nat) : Bool := decide (64 ≤ core) && k == 0

/-- How contexts rank for issue: an interrupt handler first, then the kinds (R264). -/
def State.ctxRank (s : State) (core k : Nat) : Nat :=
  let c := s.ctx core k
  if c.inInt then 3 else match c.run with
    | none => 0
    | some r => s.kindOf r.cls

/-- A higher context of the core is READY (R212, R264). -/
def State.outranked (s : State) (core k : Nat) : Bool :=
  !(ownSlot core k) && (List.range (ctxCount core)).any fun j =>
    j ≠ k && !(ownSlot core j) && (s.ctx core j).base = .ready && decide (s.ctxRank core k < s.ctxRank core j)

/-! ### Cycles (R258, R262, R272) -/

/-- The cycle that a context is in: context 0 of a Cornice core counts its own issue slot's (R262). -/
def State.now (s : State) (core k : Nat) : Nat := if ownSlot core k then (s.core core).cycle0 else (s.core core).cycle

/-- The cycle that a context is in, set. -/
def State.setNow (s : State) (core k n : Nat) : State :=
  s.updCore core fun c => if ownSlot core k then { c with cycle0 := n } else { c with cycle := n }

/-- Core cycles in 10 ns: 1.25 ns each on a Trowel and 1 ns each on a Cornice core (R160). -/
def cyclesPerUnit (core : Nat) : Nat := if core < 64 then 8 else 10

/-- The present moment from which a context's wait, or its spell in HELD, is measured. -/
def State.mark (s : State) (core k : Nat) : State :=
  s.updCtx core k fun c => { c with markTime := s.frm.time, markCycle := s.now core k }

/-- The cycle that it is now for a context that has waited since its mark: the core's own count, or what TIME shows. -/
def State.waitedTo (s : State) (core k : Nat) : Nat :=
  let c := s.ctx core k
  max (s.now core k) (c.markCycle + (s.frm.time.toNat - c.markTime.toNat) * cyclesPerUnit core)

/-- Cycles are charged to the bound of a routine that runs outside interrupt handlers (R272). -/
def Ctx.spend (c : Ctx) (n : Nat) : Ctx := if c.run.isSome && !c.inInt then { c with left := c.left - n } else c

/-- A wait, or a spell in HELD, ends: its cycles have passed, and those of a wait are charged (R258, R272). -/
def State.passWait (s : State) (core k : Nat) : State :=
  let n := s.waitedTo core k
  match (s.ctx core k).st with
  | .waiting => (s.setNow core k n).updCtx core k fun c => c.spend (n - c.markCycle)
  | .held => s.setNow core k n
  | _ => s

/-- The context stands at a boundary: no delay slot and no annulment is due (R275). -/
def Ctx.atBoundary (c : Ctx) : Bool := c.slot.isNone && !c.annul

/-- The context is stopped at its boundary by Hold, by a freeze at nesting depth 0, or by a higher context (R192, R212,
R287, R442). -/
def State.ctxBlocked (s : State) (core k : Nat) : Bool :=
  let c := s.ctx core k
  c.atBoundary && (s.hold || (s.frozen core && c.depth == 0) || (c.base = .ready && s.outranked core k))

/-- HELD as it should be for a context: entering HELD ends a wait and a block instruction's stay in the core (R255, R258). -/
def State.holdCtx (s : State) (core k : Nat) : State :=
  let c := s.ctx core k
  if c.st = .ready ∨ c.st = .waiting then
    if s.ctxBlocked core k then
      ((s.passWait core k).updCtx core k fun x => { x with st := .held, heldFrom := c.st, block := none }).mark core k
    else s
  else if c.st = .held ∧ s.ctxBlocked core k = false then
    ((s.passWait core k).updCtx core k fun x => { x with st := c.heldFrom }).mark core k
  else s

/-! ### Completion of an instruction: the loop-back (R253) and distances (R273) -/

/-- A loop register as the loop-back test sees it: an old value within its distance (R273). -/
def Ctx.loopSeen (c : Ctx) (now n : Nat) : Word :=
  match c.stale.find? fun x => x.key = .loopReg n && decide (now < x.opUntil) with
  | some x => x.oldWord
  | none => c.loops.get 0 n

/-- Where execution goes on after the instruction at pc that has `next` after it: the lowest active loop that ends here
turns or runs out (R253). -/
def Ctx.complete (c : Ctx) (now : Nat) (pc next : Word) : Ctx :=
  match (List.range 3).find? fun k => c.loopSeen now (6 + k) ≠ 0 && c.loopSeen now (3 + k) = pc with
  | none => { c with pc := next }
  | some k =>
    let n := c.loopSeen now (6 + k) - 1
    { c with loops := c.loops.set (6 + k) n, stale := c.stale.filter fun x => x.key ≠ .loopReg (6 + k),
             pc := if n ≠ 0 then c.loopSeen now k else next }

/-- A context waiting in WFE whose latch is set completes it (R256). -/
def State.wfeWake (s : State) (core k : Nat) : State :=
  let c := s.ctx core k
  if c.st = .waiting ∧ c.wait = .event ∧ c.evl then
    (s.passWait core k).updCtx core k fun c =>
      { c.complete (s.waitedTo core k) c.pc (c.pc + 1) with st := .ready, wait := .nothing, evl := false }
  else s

/-- Every context of a core is HELD, or goes on, as it should be now (R212, R287). -/
def State.arrange (s : State) (core : Nat) : State :=
  s.each (List.range (ctxCount core)) fun s k => (s.holdCtx core k).wfeWake core k

/-- The cores of the die by number as in CTXID. -/
def allCores : List Nat := List.range 72

/-- Every core is arranged afresh: after Hold begins or ends. -/
def State.arrangeAll (s : State) : State := s.each allCores fun s c => s.arrange c

/-- The event latch of a context is set (R256). -/
def State.setLatch (s : State) (core k : Nat) : State :=
  if core < 72 ∧ k < ctxCount core then (s.updCtx core k fun c => { c with evl := true }).wfeWake core k else s

end Sys2Proof.Machine
end

