-- ==== Sys2Proof/Machine/MbxOps.lean ====
section
/-! DEFINITION. Acceptance of mailbox messages: what hardware stamps, the queue and who is woken (R295, R305, R307, R309). -/

namespace Sys2Proof.Machine
open Sys2Proof

/-- Messages a mailbox holds at most (MBX_CFG.DEPTH). -/
def Mbx.limit (x : Mbx) : Nat := if x.depth = 0 then 64 else x.depth.toNat

/-- The mailbox is full (R307). -/
def Mbx.full (x : Mbx) : Bool := x.msgs.length == x.limit

/-- The header that hardware stamps into a message (R295). -/
structure MsgHdr where
  sender : Nat
  ctx : Nat
  len : Nat
  /-- Delivered by Komond ingress, with the node it came from and the epoch it was addressed to. -/
  remote : Option (Nat × Nat)
  /-- The channel of a SIGNAL. -/
  ch : Option Nat

/-- Bytes 48 to 63 of a message cell (R295, R305). -/
def MsgHdr.bytes (h : MsgHdr) : List Byte :=
  leBytes 2 (h.sender % 512 + h.ctx % 8 * 512) ++ leBytes 1 (h.len % 64) ++ leBytes 1 (b2n h.remote.isSome + 2 * b2n h.ch.isSome)
    ++ leBytes 2 (h.ch.getD 0 % 4096) ++ leBytes 2 ((h.remote.map (·.2)).getD 0 % 65536) ++ leBytes 4 ((h.remote.map (·.1)).getD 0 % 0x40000)
    ++ leBytes 4 (mkLink 0 true 0 1)

/-- The mailbox's interrupt line follows COUNT (R309). -/
def State.mbxLine (s : State) (mb : Nat) : State := s.setLine (0x410 + mb) (!(s.mbx mb).msgs.isEmpty)

/-- An armed mailbox wakes its target and is armed no more (R309). -/
def State.mbxFire (s : State) (mb : Nat) : State :=
  let x := s.mbx mb
  if x.armed then (s.setMbx mb { x with armed := false }).setLatch (bitsOf x.target 3 7) (bitsOf x.target 0 3) else s

/-- A message is accepted: stamped, linked at the tail, its cell QUEUED (R305, R309). -/
def State.mbxAccept (s : State) (mb cell : Nat) (h : MsgHdr) : State :=
  let x := s.mbx mb
  let s1 := ((s.touchCell cell).store (cellAddr cell + 48) h.bytes).setCell cell (.mbx mb) (s.hawk.acct.get 0 cell)
  let s2 := match x.msgs.getLast? with
    | none => s1
    | some t => s1.store (cellAddr t.cell + 60) (leBytes 4 (mkLink cell false 0 1))
  ((s2.setMbx mb { x with msgs := x.msgs ++ [{ cell, sender := BitVec.ofNat 9 h.sender, len := h.len }] }).mbxFire mb).mbxLine mb

/-- A full mailbox refuses and counts (R307). -/
def State.mbxRefused (s : State) (mb : Nat) : State := s.updMbx mb fun x => { x with refused := satInc x.refused }

end Sys2Proof.Machine
end

