-- ==== Sys2Proof/Machine/KmdOps.lean ====
section
/-! DEFINITION. Komond frames: their layout, their MAC, and sending (R476 to R478, R482, R483). -/

namespace Sys2Proof.Machine
open Sys2Proof

/-- The broadcast node (R476). -/
def kmdBroadcast : Nat := 0x3FFFF

/-- Komond runs: on, and on a die that drives the field (R476). -/
def State.kmdUp (s : State) : Bool := s.kmd.en && s.drives && s.die = .ready

/-- The lowest MAC of KMD_CFG.PORTS that is UP (R476). -/
def State.kmdMac (s : State) : Option Nat :=
  (List.range 4).find? fun m => bitOf s.kmd.ports m && (s.port (0x60 + m)).st = 1

/-- The key slot with send enabled, and the key (R394). -/
def Kmd.txKey (k : Kmd) : Option (Nat × Key) := k.keys.find? fun e => e.2.tx

/-- TSTAMP: TIME [47:16] (R477). -/
def State.kmdStamp (s : State) : Word32 := BitVec.ofNat 32 (bitsOf s.frm.time 16 32)

/-- The fields of a Komond payload before its MAC (R477). -/
structure KmdFrame where
  ver : Nat
  ty : Nat
  reason : Nat
  keyId : Nat
  dstNode : Nat
  dstMbx : Nat
  srcNode : Nat
  ch : Nat
  chV : Bool
  role : BitVec 8
  epoch : BitVec 16
  seq : Nat
  stamp : Word32
  msg : List Byte
deriving DecidableEq, Repr

/-- Bytes 0 to 23 + LEN of a Komond payload (R477). -/
def KmdFrame.bytes (f : KmdFrame) : List Byte :=
  leBytes 1 (f.ver % 16 + f.ty * 16) ++ leBytes 1 f.reason ++ leBytes 2 f.keyId ++ leBytes 4 (f.dstNode + f.dstMbx * 0x40000)
    ++ leBytes 4 (f.srcNode + f.ch * 0x40000 + b2n f.chV * 0x40000000) ++ leBytes 1 f.role.toNat ++ leBytes 1 f.msg.length
    ++ leBytes 2 f.epoch.toNat ++ leBytes 4 f.seq ++ leBytes 4 f.stamp.toNat ++ f.msg

/-- The port's MAC address as sent (ETH_MACL, ETH_MACH). -/
def State.portMac (s : State) (m : Nat) : List Byte :=
  leBytes 4 (s.pcfg (0x60 + m) 0x104).toNat ++ leBytes 2 (s.pcfg (0x60 + m) 0x108).toNat

/-- A Komond frame as it leaves a MAC (R476, R477). -/
def State.kmdWire (s : State) (m : Nat) (key : Key) (f : KmdFrame) : List Byte :=
  leBytes 6 s.kmd.group.toNat ++ s.portMac m ++ [0x88, 0xB5] ++ f.bytes ++ (Config.aesCmac key.bytes f.bytes).toList.take 8

/-- Komond frames of a MAC that wait for its link or for the gate of traffic class 7 leave in their order, while they may (R358). -/
def State.kmdFlush (s : State) (p : Nat) : State :=
  s.each ((s.kmd.waiting.filter fun w => w.1 = p).map (·.2)) fun s l =>
    match s.kmd.waiting.find? fun w => w.1 = p with
    | none => s
    | some w => if w.2 = l ∧ s.ethMay p 7 l.length then
        { s with kmd := { s.kmd with waiting := s.kmd.waiting.erase w, sent := l :: s.kmd.sent } } else s

/-- A frame of the die is sent, where Komond runs and has a MAC, a send key and a node ID; it has traffic class 7 (R358, R476, R478). -/
def State.kmdSend (s : State) (f : KmdFrame) : State :=
  match s.kmdUp, s.kmdMac, s.kmd.txKey, s.kmd.node with
  | true, some m, some (_, key), some n =>
    let g := { f with ver := 1, keyId := key.id.toNat, srcNode := n.toNat, stamp := s.kmdStamp }
    ({ s with kmd := { s.kmd with waiting := s.kmd.waiting ++ [(0x60 + m, s.kmdWire m key g)] } } : State).kmdFlush (0x60 + m)
  | _, _, _, _ => s

/-- A blank frame of a type. -/
def kmdBlank (ty : Nat) : KmdFrame :=
  { ver := 1, ty, reason := 0, keyId := 0, dstNode := 0, dstMbx := 0, srcNode := 0, ch := 0, chV := false, role := 0, epoch := 0, seq := 0,
    stamp := 0, msg := [] }

/-- The entry of KMD_PEER that names a node and mailbox: the lowest valid one; without one ROLE and EPOCH are 0 (R481, R485). -/
def Kmd.peerFor (k : Kmd) (node mbx : Nat) : Peer :=
  match k.peers.find? fun e => e.2.v && e.2.node.toNat == node && e.2.mbx.toNat == mbx with
  | some e => e.2
  | none => {}

/-- A frame of the die can leave now: Komond runs and has a MAC, a send key and a node ID (R476, R478). -/
def State.kmdCan (s : State) : Bool := s.kmdUp && s.kmdMac.isSome && s.kmd.txKey.isSome && s.kmd.node.isSome

/-- ANNOUNCE of a mailbox's new role and epoch, to every node (R483). -/
def State.kmdAnnounce (s : State) (mb : Nat) (role : Byte) (epoch : BitVec 16) : State :=
  let s1 := { s with kmd := { s.kmd with seq := s.kmd.seq + 1 } }
  s1.kmdSend { kmdBlank 5 with dstNode := kmdBroadcast, dstMbx := mb, role, epoch, seq := s1.kmd.seq.toNat }

end Sys2Proof.Machine
end

