-- ==== Sys2Proof/Machine/AqOps.lean ====
section
/-! DEFINITION. The admin queue: packets, their checks, the order in which commands start, replies, and the reads of the
FWC (R369 to R381). -/

namespace Sys2Proof.Machine
open Sys2Proof

/-! ### Packets (R374, R382) -/

/-- Word i of a packet. -/
def AdmCmd.word (c : AdmCmd) (i : Nat) : Word32 := c.words.getD i 0
def AdmCmd.opc (c : AdmCmd) : Nat := bitsOf (c.word 0) 0 8
def AdmCmd.serial (c : AdmCmd) : Bool := bitOf (c.word 0) 8
def AdmCmd.target (c : AdmCmd) : Nat := (c.word 1).toNat
/-- PW i. -/
def AdmCmd.pw (c : AdmCmd) (i : Nat) : Word32 := c.word (2 + i)
/-- The 64-bit value in PW i and PW i + 1. -/
def AdmCmd.pw64 (c : AdmCmd) (i : Nat) : Nat := (c.pw i).toNat + (c.pw (i + 1)).toNat * 0x100000000

/-- The largest TARGET of an opcode; none for an opcode not in R382. -/
def opcTarget (opc : Nat) : Option Nat :=
  match opc with
  | 0x01 | 0x02 | 0x03 | 0x30 | 0x31 | 0x40 | 0x50 | 0x51 | 0x52 | 0x53 | 0x60 | 0x70 | 0x80 | 0x81 | 0x82 | 0x83 => some 0
  | 0x10 => some 1023
  | 0x11 | 0x12 => some 4095
  | 0x20 | 0x21 | 0x93 => some 0xFF
  | 0x41 => some 0x58
  | 0x90 => some 0x3FFFE
  | 0x91 | 0x92 => some 15
  | _ => none

/-- The bits that PW i of an opcode may have set (R383, R387, R390 to R395). -/
def opcMask (opc i : Nat) : Word32 :=
  let all : Word32 := 0xFFFFFFFF
  match opc, i with
  | 0x03, 0 => 0x3 | 0x03, 1 => all
  | 0x11, 0 => 0x7F03FF
  | 0x20, 0 => 0x3FFF | 0x20, 1 => all | 0x20, 2 => all | 0x20, 3 => 0x3FFF | 0x20, 4 => 0xFFFF | 0x20, 5 => 0x1FF
  | 0x21, 0 => 0x1FFF
  | 0x31, 0 => 0x1FFFF
  | 0x40, 0 => all | 0x40, 1 => all | 0x40, 2 => all | 0x40, 3 => all
  | 0x41, 0 => 0x3 | 0x41, 1 => all | 0x41, 2 => all
  | 0x50, 0 => all | 0x50, 1 => all | 0x50, 2 => all | 0x50, 3 => all
  | 0x51, 0 => all
  | 0x52, 0 => 0x1
  | 0x60, 0 => all | 0x60, 1 => all | 0x60, 2 => all | 0x60, 3 => all | 0x60, 4 => all | 0x60, 5 => 0xFFFF
  | 0x91, 0 => 0xFFFF | 0x91, 1 => 0x3 | 0x91, 2 => all | 0x91, 3 => all | 0x91, 4 => all | 0x91, 5 => all
  | 0x93, 0 => 0xFF | 0x93, 1 => 0xFFFF
  | _, _ => 0

/-- HANDLERS of a ROUTINE_LOAD (R387). -/
def AdmCmd.handlers (c : AdmCmd) : Bool := bitOf (c.pw 0) 13
/-- The operation of a CALIBRATE (R390). -/
def AdmCmd.calOp (c : AdmCmd) : Nat := bitsOf (c.pw 0) 0 2
/-- LEN of a ROUTINE_LOAD in words. -/
def AdmCmd.codeLen (c : AdmCmd) : Nat := bitsOf (c.pw 3) 0 14

/-- PW i of a command holds a value outside its range (R383, R387, R390 to R392); a handler set holds its 64 vector words,
and an offset that reaches beyond the slot is PW3's. -/
def AdmCmd.pwBad (c : AdmCmd) (i : Nat) : Bool :=
  let v := (c.pw i).toNat
  match c.opc, i with
  | 0x03, 0 => decide (2 < v)
  | 0x11, 0 => decide (64 < v / 65536)
  | 0x20, 0 => c.handlers && v % 4096 != 0
  | 0x20, 1 => v % 4 != 0
  | 0x20, 3 => decide (v < (if c.handlers then 64 else 1)) || decide (12288 < v)
  | 0x20, 4 => if c.handlers then v != 0 else v == 0
  | 0x20, 5 => if c.handlers then v != 0 else decide (0xFF < v) && v != 0x1FF
  | 0x40, k => (List.range 32).any fun b => Nat.testBit v b && (portKind (32 * k + b)).isNone
  | 0x41, 1 => if c.calOp = 1 ∨ c.calOp = 2 then v % 64 != 0 else v != 0
  | 0x41, 2 => !(c.calOp == 1 || c.calOp == 2) && v != 0
  | 0x50, 0 => v % 4 != 0
  | 0x50, 2 => v % 4 != 0 || decide (v < 4) || decide (65536 < v)
  | 0x50, 3 => v % 4 != 0 || decide (0x200000 < v + (c.pw 2).toNat)
  | 0x60, 0 => v % 64 != 0
  | 0x60, 2 => v % 64 != 0 || decide (0x100000 < v)
  | _, _ => false

/-- TARGET is outside its range (R382, R390); a tile mask that names no tile counts as such. -/
def AdmCmd.targetBad (c : AdmCmd) : Bool :=
  decide ((opcTarget c.opc).getD 0 < c.target) || ((c.opc == 0x20 || c.opc == 0x21) && c.target == 0)
    || (c.opc == 0x41 && decide (0x20 ≤ c.target) && c.target != 0x58)

/-- The opcode is allowed on a standby die (R382). -/
def AdmCmd.standbyOk (c : AdmCmd) : Bool :=
  [0x01, 0x02, 0x10, 0x50, 0x51, 0x52, 0x53, 0x60, 0x70, 0x80, 0x81, 0x83].contains c.opc || (c.opc == 0x41 && c.calOp == 2)

/-- The checks of R377 in their order: the code and ARG_INDEX of the first that fails. -/
def State.admCheck (s : State) (c : AdmCmd) : Option (BitVec 16 × Nat) :=
  if (opcTarget c.opc).isNone then some (stBadOpcode, 0xFF)
  else if bitsOf (c.word 0) 9 7 ≠ 0 then some (stBadArgument, 15)
  else if c.targetBad then some (stBadArgument, 14)
  else match (List.range 14).find? fun i => (c.pw i) &&& ~~~(opcMask c.opc i) ≠ 0 || c.pwBad i with
    | some i => some (stBadArgument, i)
    | none => if s.ds.role = 2 && !c.standbyOk then some (stNotPermitted, 0xFF) else none

/-! ### Order (R378) -/

/-- The objects that a command names (R382). -/
def AdmCmd.objs (c : AdmCmd) : List (Nat × Nat) :=
  match c.opc with
  | 0x03 => [(1, 0)]
  | 0x11 | 0x12 => [(2, c.target)]
  | 0x20 | 0x21 => ((List.range 8).filter fun t => Nat.testBit c.target t).map fun t => (3, 2 * t + b2n (bitOf (c.pw 0) 12))
  | 0x30 | 0x31 => [(4, 0)]
  | 0x40 => [(5, 0)]
  | 0x41 => [(6, c.target)]
  | 0x50 | 0x51 | 0x52 | 0x53 => [(7, 0)]
  | 0x70 => [(8, 0)]
  | 0x81 | 0x82 | 0x83 => [(9, 0)]
  | 0x90 | 0x91 | 0x92 => [(10, 0)]
  | 0x93 => [(11, c.target)]
  | _ => []

/-- A command may not start before an earlier one has replied (R378). -/
def AdmCmd.after (c e : AdmCmd) : Bool := c.serial || e.serial || c.objs.any fun o => e.objs.contains o

/-- The commands that may be carried out now, in read order. -/
def startable (earlier : List AdmCmd) (l : List AdmCmd) : List AdmCmd :=
  match l with
  | [] => []
  | c :: r => (if !c.waits && earlier.all (fun e => !c.after e) then [c] else []) ++ startable (earlier ++ [c]) r

/-- The FWC carries out admin commands (R194, R405). -/
def State.fwcOn (s : State) : Bool := s.die = .ready

/-- The first command that may be carried out now and passes a test. -/
def State.admDue (s : State) (p : AdmCmd → Bool) : Option AdmCmd :=
  if s.fwcOn then (startable [] s.aq.cmds).find? p else none

/-! ### Replies (R375, R376, R379) -/

/-- The 32 B of a reply, its phase bit still 0 (R375). -/
def AdmCmd.reply (c : AdmCmd) (code : BitVec 16) (arg : Nat) (res : List Nat) : List Byte :=
  leBytes 2 (bitsOf (c.word 0) 16 16) ++ leBytes 2 code.toNat ++ leBytes 1 c.opc ++ [0]
    ++ leBytes 1 (if code = stBadArgument then arg else 0xFF) ++ [0] ++ (List.range 6).flatMap fun i => leBytes 4 (res.getD i 0)

/-- Only the reply of the command is left. -/
def State.admWaits (s : State) (c : AdmCmd) : State :=
  { s with aq := { s.aq with cmds := s.aq.cmds.map fun (x : AdmCmd) => if x.cnt = c.cnt then { x with waits := true } else x } }

/-- A command is replied to: after a change on an active die, behind the gate of R177, with a CONFIG frame that carries the change (R379).
What it carries of a change to the die's own firmware slots and journal the spec does not say (log 107). -/
def State.replyAdm (s : State) (c : AdmCmd) (code : BitVec 16) (arg : Nat) (res : List Nat) (chg : Option (List ConfigRec)) : State :=
  let b := c.reply code arg res
  let s1 := s.admWaits c
  if chg.isSome && s1.gates then
    (s1.mirror .config true (.config (chg.getD []))).gateRec s1.aqModule { kind := .admin c.cnt, addr := 0, bytes := b, eqs := 0, relaxed := false } false
  else s1.enterReply c.cnt b

/-- OK with result words. -/
def State.replyOk (s : State) (c : AdmCmd) (res : List Nat) (chg : Option (List ConfigRec)) : State := s.replyAdm c stOk 0xFF res chg
/-- A refusal without an effect. -/
def State.replyBad (s : State) (c : AdmCmd) (code : BitVec 16) : State := s.replyAdm c code 0xFF [] none

/-! ### Reads by the FWC (R371, R381) -/

/-- The read of the packet at CCONS is asked for when the conditions of R371 hold; an admin command wakes the FWC and the MRAM (R405). -/
def State.askPacket (s : State) : State :=
  let a := s.aq
  if s.fwcOn && a.st = .running && !a.reading && !a.stopped && a.cprod ≠ a.ccons && decide (a.cmds.length < 16)
      && decide ((a.rprod - a.rcons).toNat + a.cmds.length < a.replySlots) then
    (({ s with aq := { a with reading := true } }.wakeDomain 131 5).wakeDomain 133 5).askRead s.aqModule { req := .admin, tags := 1, units := 1, guar := false }
  else s

/-- Bytes of host data that a command needs before it is carried out. -/
def AdmCmd.hostBytes (c : AdmCmd) : Nat :=
  match c.opc with
  | 0x20 => 2 * c.codeLen
  | 0x41 => if c.calOp = 1 then 64 else 0
  | 0x50 => (c.pw 2).toNat
  | _ => 0

/-- Commands that may start now and have no row of their own, or need host data first: BAD_OPCODE is replied, and the data
are asked for, one read request after the other, of which one is outstanding at a time until the row brings the data (R66, log 101). -/
def State.admStart1 (s : State) (c : AdmCmd) : State :=
  if (opcTarget c.opc).isNone then s.replyBad c stBadOpcode
  else if c.hostBytes = 0 ∨ c.asked ∨ (s.admCheck c).isSome then s
  else
    { s with aq := { s.aq with cmds := s.aq.cmds.map fun (x : AdmCmd) => if x.cnt = c.cnt then { x with asked := true } else x } }.askRead s.aqModule
      { req := .adminData c.cnt, tags := 1, units := readUnits (min c.hostBytes (s.link s.aqModule).maxRead), guar := false }

/-- Every such command, and those that its reply lets start. -/
def State.admStart (s : State) : Nat → State
  | 0 => s
  | n + 1 =>
    let s1 := if s.fwcOn then s.each (startable [] s.aq.cmds) fun s c => s.admStart1 c else s
    if s1.aq.cmds.length < s.aq.cmds.length then s1.admStart n else s1

/-- The admin queue goes on: commands start, and the next packet is read. -/
def State.aqKick (s : State) : State := (s.admStart 17).askPacket

end Sys2Proof.Machine
end

