-- ==== Sys2Proof/Machine/QueueOps.lean ====
section
/-! DEFINITION. Operations on queues: counts offered, descriptor reads, malformed entries, binding, stops, states
(R89 to R134). -/

namespace Sys2Proof.Machine
open Sys2Proof

/-- Entries of a queue bound and not finished: INFLIGHT (R112). -/
def Queue.inflight (q : Queue) : Nat := (q.bound.filter fun e => !e.done).length

/-- Entries of the die bound and not finished (R112). -/
def State.totalInflight (s : State) : Nat := s.queues.foldl (fun n e => n + e.2.inflight) 0

/-- The arbiter may act: the die runs, drives the field and is not in Hold (R192, R194, R449). -/
def State.arbiterOn (s : State) : Bool := s.die = .ready && !s.hold && s.drives && !s.ds.handing && !s.ds.taking

/-- A queue is eligible for a turn (R63, R112). -/
def State.eligible (s : State) (q : Nat) : Bool :=
  let x := s.q q
  s.arbiterOn && (x.st = .running) && !x.retake && x.fence.isNone && decide (x.inflight < 256) && decide (s.totalInflight < 16384)
    && (s.link (s.qModule q)).canIssue

/-- Host address of a count's slot (R91). -/
def Queue.slotAddr (q : Queue) (c : Word32) : Word64 := q.ring + BitVec.ofNat 64 (16 * q.slotOf c)

/-- Slots that one descriptor read from a count covers: up to 256 B, PROD, the end of the ring and a 4 KiB
boundary (R115). -/
def Queue.readSpan (q : Queue) (c : Word32) : Nat :=
  let toProd := (q.prod - c).toNat
  let toEnd := q.slots - q.slotOf c
  let toPage := (4096 - (q.slotAddr c).toNat % 4096) / 16
  min (min 16 toProd) (min toEnd toPage)

/-- The slots from a count to FETCH, as one read can bring them (R94, R115). -/
def Queue.againSpan (q : Queue) (c : Word32) : Nat := { q with prod := q.fetch }.readSpan c

/-- A request that brings descriptor slots (R115). -/
def ReadReq.isDesc (r : ReadReq) : Bool := match r with
  | .desc .. | .poll _ | .staleDesc _ => true
  | _ => false

/-- A request for slots of a queue that are not read again: of the ring ahead, or of a PHASE header. -/
def ReadReq.isFresh (r : ReadReq) (q : Nat) : Bool := match r with
  | .desc q' _ _ again => q' == q && !again
  | .poll q' => q' == q
  | _ => false

/-- Descriptor reads outstanding on the die (R115). -/
def State.descReads (s : State) : Nat :=
  ((s.link0.reads ++ s.link0.waiting ++ s.link1.reads ++ s.link1.waiting).filter fun r => r.req.isDesc).length

/-- A descriptor read of a queue is asked for, or waits for one of the 64 places (R66, R115). -/
def State.askSlots (s : State) (q : Nat) (r : ReadReq) : State :=
  let n := match r with
    | .desc _ _ n _ => 16 * n
    | _ => 16
  let md := s.qModule q
  if s.descReads < 64 then
    (s.updQ q fun x => { x with reading := true, wantRead := none }).askRead md { req := r, tags := s.readReqs md n, units := readUnits n, guar := false }
  else s.updQ q fun x => { x with reading := true, wantRead := some r }

/-- A descriptor read of n slots from a count is asked for. -/
def State.askDesc (s : State) (q : Nat) (c : Word32) (n : Nat) (again : Bool) : State := s.askSlots q (.desc q c n again)

/-- A PHASE-mode read of the header at FETCH is asked for (R110). -/
def State.askPoll (s : State) (q : Nat) : State := s.askSlots q (.poll q)

/-- The read of a queue's producer count is asked for (R105). -/
def State.askPcnt (s : State) (q : Nat) : State :=
  (s.updQ q fun x => { x with wantPcnt := false }).askRead (s.qModule q) { req := .pcnt q, tags := 1, units := 1, guar := false }

/-- Descriptor reads that waited for a place are issued as far as places are free (R115). -/
def State.slotsGo (s : State) : State :=
  s.each ((s.queues.filter fun e => e.2.wantRead.isSome).map (·.1)) fun s q =>
    match (s.q q).wantRead with
    | none => s
    | some r => s.askSlots q r

/-- The reads of a queue that have not been issued are withdrawn: none is issued while the queue does not run (R131, R132). -/
def State.cancelReads (s : State) (q : Nat) : State :=
  let fresh (r : HostRead) : Bool := r.req.isFresh q
  let waits := s.link0.waiting ++ s.link1.waiting
  let s1 := if (s.q q).wantRead.any (fun r => r.isFresh q) || waits.any fresh then
      s.updQ q fun x => { x with reading := false, wantRead := none } else s
  let s2 := if waits.any fun r => r.req = .pcnt q then s1.updQ q fun x => { x with wantPcnt := true } else s1
  let f (l : Link) : Link := { l with waiting := l.waiting.filter fun r => !fresh r && decide (r.req ≠ .pcnt q) }
  { s2 with link0 := f s2.link0, link1 := f s2.link1 }

/-- The slots of the reads of a queue that are out are discarded when they come (R128). -/
def State.staleSlots (s : State) (q : Nat) : State :=
  let f (l : Link) : Link := { l with reads := l.reads.map fun r => if r.req.isFresh q then { r with req := .staleDesc q } else r }
  { s.cancelReads q with link0 := f (s.cancelReads q).link0, link1 := f (s.cancelReads q).link1 }.updQ q fun x => { x with reading := false }

/-- The first entry on die lacks slots: the header has come and the rest has not (R110). -/
def Queue.wantsBody (q : Queue) : Bool := match q.onDie with
  | [] => false
  | a :: _ => decide (q.onDie.length < hdrLen a)

/-- The arbiter reads on for a running queue: a producer count that was asked for, the published slots not yet on die, and the rest
of a PHASE entry (R105, R110, R115). -/
def State.kick (s : State) (q : Nat) : State :=
  let x := s.q q
  if x.st ≠ .running then s else
  let s1 := if x.wantPcnt then s.askPcnt q else s
  let c := x.fetch + BitVec.ofNat 32 x.onDie.length
  if x.reading || decide (x.failing ≠ 0) then s1
  else if x.phase then (if x.wantsBody then s1.askDesc q c (hdrLen (x.onDie.headD 0) - x.onDie.length) false else s1)
  else if x.prod = c then s1 else s1.askDesc q c (x.readSpan c) false

/-- A count offered by a doorbell or a producer-count read is judged (R104). -/
def State.offer (s : State) (m q : Nat) (count : Word32) : State :=
  let x := s.q q
  if (count - x.head).toNat ≤ x.slots ∧ (x.prod - x.head).toNat ≤ (count - x.head).toNat then
    (s.setQ q { x with prod := count }).kick q
  else (s.setQ q { x with dbBad := satInc x.dbBad }).journalHost m 0 q count.toNat 0

/-! ### Malformed entries (R124) -/

/-- LEN is allowed for a TYPE (R96). -/
def lenOk (ty len : Nat) : Bool :=
  match ty with
  | 0x01 | 0x05 => len == 2
  | 0x02 | 0x03 | 0x04 | 0x06 => len == 1
  | _ => true

/-- TYPE is one of R96. -/
def typeOk (ty : Nat) : Bool := (decide (1 ≤ ty) && decide (ty ≤ 7)) || ty == 0x0F

/-- A reserved bit named in R102 is 1: the first slot and the second. -/
def rsvdBad (a b : BitVec 128) : Bool :=
  let hdr := bitsOf a 14 2
  match hdrType a with
  | 0x01 => hdr + bitsOf a 44 20 + bitsOf b 64 64 ≠ 0
  | 0x02 | 0x03 | 0x04 => hdr + bitsOf a 44 84 ≠ 0
  | 0x05 => hdr + bitsOf a 46 18 + bitsOf b 64 64 ≠ 0
  | 0x06 => hdr + bitsOf a 42 5 + bitsOf a 48 16 + bitsOf a 96 32 ≠ 0
  | _ => false

/-- A checked CCW_ADDR is not aligned (R97, R99). -/
def alignBad (a : BitVec 128) : Bool :=
  match hdrType a with
  | 0x01 => bitsOf a 64 4 ≠ 0
  | 0x05 => bitOf a 44 && bitsOf a 64 4 ≠ 0
  | _ => false

/-- WHY of the entry whose slots begin the list, 0 for a well-formed one, none while slots of it are still to
come (R124). -/
def Queue.why1 (q : Queue) : Option Nat :=
  match q.onDie with
  | [] => none
  | a :: r =>
    let len := hdrLen a
    if !typeOk (hdrType a) then some 1
    else if !lenOk (hdrType a) len then some 2
    else if q.slots < q.slotOf q.fetch + len then some 3
    else if q.onDie.length < len then none
    else if rsvdBad a (r.headD 0) then some 4
    else if alignBad a then some 5 else some 0

/-- The PH that the lap of a count expects (R108). -/
def Queue.lapPh (q : Queue) (c : Word32) : Nat := 1 - (c.toNat / q.slots) % 2

/-- The entry at FETCH is published: its phase matches, or PROD covers it (R106, R108). -/
def Queue.published (q : Queue) : Bool :=
  match q.onDie with
  | [] => false
  | a :: _ => if q.phase then hdrPh a == q.lapPh q.fetch else decide (hdrLen a ≤ (q.prod - q.fetch).toNat)

/-- The queue stops in ERROR at a count (R125, R198): the head record carries it, and the completion source is
raised (R122). -/
def State.stopQueue (s : State) (q : Nat) (why : Nat) (errIdx : Word32) : State :=
  ((s.updQ q fun x =>
    { x with st := .error, why := BitVec.ofNat 4 why, errIdx, onDie := [], raise := true, turnLeft := 0, failing := 0 }).staleSlots q).advance q

/-- A malformed entry at FETCH stops a work-class queue and halts the die on a configuration-class queue, whose last mirror carries
ERROR with ERROR_INDEX and WHY; a failed read stops either (R125, R126). -/
def State.malformed (s : State) (q why : Nat) : State :=
  let x := s.q q
  if x.config && decide (why < 6) then
    let s1 := s.updQ q fun x => { x with st := .error, why := BitVec.ofNat 4 why, errIdx := x.fetch, onDie := [], turnLeft := 0, failing := 0 }
    let s2 := if s1.paired then s1.mirror .queue false (s1.queueBody q) else s1
    (s2.journalHost (s.qModule q) 2 q x.fetch.toNat why).haltDie
  else s.stopQueue q why x.fetch

/-- What the arbiter finds at FETCH. -/
inductive Found where
  | nothing
  | bad (why : Nat)
  | entry (len : Nat) (pad fence : Bool)
deriving DecidableEq, Repr

/-- The entry at FETCH (R106, R108, R124), or the failed read that the entries on die end at (R125). -/
def Queue.find (q : Queue) : Found :=
  let rest : Found := if q.failing = 0 then .nothing else .bad q.failing
  if !q.published then rest else
  match q.why1, q.onDie with
  | some 0, a :: _ => .entry (hdrLen a) (hdrType a == 0x0F) (hdrType a == 0x06)
  | some w, _ => .bad w
  | none, _ => rest

/-- The entry at FETCH is bound: it waits for its row of R116 to act (R113, R116). -/
def Queue.bind (q : Queue) (len : Nat) (pad fence : Bool) : Queue :=
  { q with bound := q.bound ++ [{ cnt := q.fetch, slots := q.onDie.take len, applied := false, done := false, dropped := none }],
           fetch := q.fetch + BitVec.ofNat 32 len, onDie := q.onDie.drop len,
           fence := if fence then some q.fetch else q.fence,
           credit := if pad then q.credit else q.credit - 1 }

/-- The entry at FETCH is bound and mirrored; FENCE_WAIT of the head record changes with a FENCE (R113, R116, R120). -/
def State.bindEntry (s : State) (q len : Nat) (pad fence : Bool) : State :=
  let s0 := s.updQ q fun x => x.bind len pad fence
  let s1 := s0.mirror .queue false (s0.queueBody q)
  if fence then s1.writeHead q else s1

/-- The loop of one turn: at most `served` entries, PADs uncounted (R107, R113). -/
def State.turnLoop (s : State) (q served : Nat) : Nat → State
  | 0 => s
  | n + 1 =>
    let x := s.q q
    if served = 0 ∨ x.credit = 0 ∨ !s.eligible q then s else
    match x.find with
    | .nothing => s
    | .bad w => s.malformed q w
    | .entry len pad fence =>
      (s.bindEntry q len pad fence).turnLoop q (if pad then served else served - 1) n

/-- BURST as a count (QCFG_CFG). -/
def burstOf (b : BitVec 6) : Nat := if b = 0 then 64 else b.toNat

/-- A turn of a queue with the entries it may still bind, after which the arbiter reads on (R113, R115). In PHASE mode the next header is
read at once within the turn, which goes on when the header comes (R110; log 93). -/
def State.turnOn (s : State) (q served : Nat) : State :=
  let x0 := s.q q
  let s1 := s.turnLoop q served (x0.onDie.length + 1)
  let x := s1.q q
  let left := served - (x0.credit - x.credit)
  if x.phase && s1.eligible q && !x.reading && x.onDie.isEmpty && !x0.onDie.isEmpty then
    (s1.updQ q fun x => { x with turnLeft := left }).askPoll q
  else (s1.updQ q fun x => { x with turnLeft := 0 }).kick q

/-- One turn of a queue (R113). -/
def State.turn1 (s : State) (q : Nat) : State := s.turnOn q (burstOf (s.q q).roundBurst)

/-- A queue could take a turn now and bind or stop. -/
def State.hasTurn (s : State) (q : Nat) : Bool := s.eligible q && decide (0 < (s.q q).credit) && (s.q q).find != .nothing

/-- The queue that takes the next turn in the round: the first from a number on, else the first of all (R113). -/
def State.nextTurn (s : State) (qs : List Nat) : Option Nat :=
  match qs.find? fun q => decide (s.turn ≤ q) && s.hasTurn q with
  | some q => some q
  | none => qs.find? s.hasTurn

/-- A new round: every enabled queue receives WEIGHT credits, and the WEIGHT and BURST written are in force (R113,
R114). -/
def State.newRound (s : State) : State :=
  { s with turn := 0,
           queues := s.queues.mapVals fun _ x =>
             if x.st = .disabled then x else { x with credit := x.weight.toNat, roundWeight := x.weight, roundBurst := x.burst } }

/-- Slots that come back while the queue does not run: their well-formed entries are bound, a malformed one stays on die (R132). The
spec does not say that this gives way to the limit of 256 entries in flight (R112), nor what becomes of a FENCE among them: the model
binds beyond the limit, and lets a FENCE bound here wait for its conditions, with what stands behind it unbound (log 94). -/
def State.bindReturned (s : State) (q : Nat) : Nat → State
  | 0 => s
  | n + 1 =>
    let x := s.q q
    match x.find with
    | .entry len pad fence =>
      if x.fence.isSome then s
      else ((s.bindEntry q len pad fence).updQ q fun y => { y with credit := x.credit }).bindReturned q n
    | _ => s

/-! ### States (R129 to R131) -/

/-- Why an ENABLE is refused, 0 when it is accepted (R130). Where several cases hold the spec names no order: the lowest code stands,
the model's choice (log 95). -/
def State.cfgErr (s : State) (q : Nat) : Nat :=
  let x := s.q q
  let lm := s.link (b2n x.module)
  if 10 < x.size.toNat then 1
  else if x.weight = 0 then 2
  else if !aligned x.ring.toNat 256 || !aligned x.stat.toNat 256 || !aligned x.hrec.toNat 16 || (!x.phase && !aligned x.pcnt.toNat 4) then 3
  else if x.phase && !aligned x.init.toNat (2 * x.slots) then 4
  else if s.mode = 1 && !(lm.up && lm.lstate = 0) then 5 else 0

/-- An accepted ENABLE (R130); its HEAD may end a FENCE of another queue (R123). -/
def State.enableQ (s : State) (q : Nat) : State :=
  ((s.updQ q fun x =>
    { x with prod := x.init, fetch := x.init, head := x.init, errIdx := 0, why := 0, cfgErr := 0, onDie := [], bound := [],
             fence := none, credit := 0, wantPcnt := false, lastHead := none, raise := false, seen := [], retake := false,
             part := [], turnLeft := 0, failing := 0, wantRead := none,
             st := if x.pause then .paused else .running }).writeHead q).settled

/-- DISABLE: the queue drains and issues no more reads; a FENCE that waits finishes at once (R129, R131). What stands on die unbound
stays there until the queue is enabled again. -/
def State.drainQ (s : State) (q : Nat) : State :=
  let f := (s.q q).fence
  let s1 := (s.cancelReads q).updQ q fun x => { x with st := .draining, wantPcnt := false, turnLeft := 0, failing := 0 }
  match f with
  | none => s1.advance q
  | some c => (s1.finishFence q c 1).advance q

/-- PAUSE of a running queue: no new read is issued, and a failed read will be issued again (R129, R132). -/
def State.pauseQ (s : State) (q : Nat) : State :=
  ((s.cancelReads q).updQ q fun x => { x with st := .paused, turnLeft := 0, failing := 0 }).writeHead q

/-- RESTART of a queue in ERROR: it runs again, and the entry at ERROR_INDEX is read again; after a stop with WHY 8
the slots up to the kept FETCH are read again first (R128, R199). -/
def State.restartQ (s : State) (q : Nat) : State :=
  let s1 := ((s.staleSlots q).updQ q fun x => { x with st := if x.pause then .paused else .running, onDie := [] }).writeHead q
  let x := s1.q q
  if x.errIdx ≠ x.fetch then s1.askDesc q x.errIdx (x.againSpan x.errIdx) true
  else if x.phase && s1.eligible q then s1.askPoll q else s1.kick q

/-- A write of QCFG_CTL (R129, R132). DISABLE and RESTART written together to a queue in ERROR: the spec names neither first, and the
model lets DISABLE act (log 95). -/
def State.qctl (s : State) (q : Nat) (en dis rst pause : Bool) : State :=
  if en && dis then s else
  let s0 := s.updQ q fun x => { x with pause }
  match (s.q q).st with
  | .disabled =>
    if !en then s0 else
    let e := s0.cfgErr q
    if e = 0 then s0.enableQ q else s0.updQ q fun x => { x with cfgErr := BitVec.ofNat 3 e }
  | .draining => s0
  | .error => if dis then s0.drainQ q else if rst then s0.restartQ q else s0
  | .running => if dis then s0.drainQ q else if pause then s0.pauseQ q else s0
  | .paused => if dis then s0.drainQ q else if pause then s0 else ((s0.updQ q fun x => { x with st := .running }).writeHead q).kick q

/-! ### Descriptor reads that come back -/

/-- The effects of the program that an entry began are reported (R198, R199). -/
def State.reportEntry (s : State) (ch q : Nat) (cnt : Word32) : State :=
  { s with ledger := s.ledger.filter fun e => !(e.2.ch == ch && e.2.queue == q && e.2.cnt == cnt),
           mled := s.mled.filter fun e => !(e.2.ch == ch && e.2.queue == q && e.2.cnt == cnt) }

/-- Records written anew after DISCARD (R199): OK for an entry, EFFECT_INDETERMINATE for a program whose FINAL record
was dropped. The spec states no code for a START or RESUME that was refused: STATUS and DETAIL of its new ENTRY record are open values
(log 97). -/
def State.againRecord (s : State) (q : Nat) (e : Entry) (dropped : Option Word64) : State :=
  let w := e.hdr
  let ch := bitsOf w 32 12
  match hdrType w with
  | 0x01 | 0x02 =>
    match dropped with
    | some ccw => (s.reportEntry ch q e.cnt).finish0 q e.cnt
        { tag := hdrTag w, status := stIndeterminate, ch, kind := 0, state := (s.chan ch).st.code, ccw, cond := (s.chan ch).cond,
          detail := s.frameLo.toNat }
    | none => s.takeWord.2.takeWord.2.finish0 q e.cnt
        { tag := hdrTag w, status := s.takeWord.1, ch, kind := 1, state := (s.chan ch).st.code, cond := (s.chan ch).cond,
          detail := s.takeWord.2.takeWord.1.toNat }
  | 0x07 => s.finish0 q e.cnt { tag := hdrTag w, status := stOk, kind := 1, detail := bitsOf w 32 32 }
  | 0x06 => s.finish0 q e.cnt { tag := hdrTag w, status := stOk, kind := 1 }
  | _ => s.finish0 q e.cnt { tag := hdrTag w, status := stOk, ch, kind := 1, state := (s.chan ch).st.code, cond := (s.chan ch).cond }

/-- An entry read again after a takeover stands as the mirror shows it: finished where its record is mirrored, begun where its channel
runs a program or has still to enter its end state, else bound and still to act (R194 to R196). -/
def State.retakeEntry (s : State) (q : Nat) (c : Word32) (slots : List (BitVec 128)) : State :=
  let w := slots.headD 0
  let ch := bitsOf w 32 12
  let x := s.chan ch
  let live := x.bound && x.queue == q && (x.st = .startPending || x.st = .active || x.st = .waitTick || x.st = .waitEvent || x.st = .statusPending)
  let fin := (s.q q).seen.contains c || hdrType w == 0x0F
  let start := hdrType w == 0x01 || hdrType w == 0x02
  let s1 := s.updQ q fun y =>
    { y with bound := y.bound ++ [{ cnt := c, slots, applied := fin || (start && live), done := fin, dropped := none }],
             fence := if hdrType w = 0x06 ∧ !fin then some c else y.fence }
  if start && live && (!fin || x.st = .statusPending) then
    s1.updChan ch fun y =>
      { y with began := some (q, c, hdrTag w), takeDue := true, suOnce := y.suOnce || (hdrType w == 0x02 && y.st = .startPending) }
  else s1

/-- The entries of slots read again, from a count on, and the count at which they end: after DISCARD a dropped record is written anew and
an entry that still runs or is done stays as it is (R199); after a takeover each entry is set up afresh (R195). An entry that the slots
do not hold whole is left to the next read. -/
def State.againWalk (s : State) (q : Nat) (c : Word32) (l : List (BitVec 128)) : Nat → State × Word32
  | 0 => (s, c)
  | n + 1 =>
    match l with
    | [] => (s, c)
    | a :: _ =>
      let len := hdrLen a
      if l.length < len then (s, c) else
      let next := c + BitVec.ofNat 32 len
      let s1 := match (s.q q).entryAt c with
        | none => if (s.q q).retake then s.retakeEntry q c (l.take len) else s
        | some e =>
          match e.dropped with
          | none => s
          | some d =>
            let e1 := { e with slots := l.take len, dropped := none }
            (s.updQ q fun x => { x with bound := x.bound.map fun (y : Entry) => if y.cnt = c then e1 else y }).againRecord q e1 d
      s1.againWalk q next (l.drop len) n

/-- Slots of a queue have come and stand on die: a running queue goes on with its open turn or reads on, and one that does not run binds
what is whole (R110, R115, R132). A read that fails meanwhile stops the queue here (R125). -/
def State.slotsActed (s : State) (q : Nat) : State :=
  let x := s.q q
  match x.st with
  | .running =>
    if x.failing ≠ 0 then
      let s1 := s.bindReturned q x.onDie.length
      if (s1.q q).fence.isSome then s1 else s1.stopQueue q x.failing (s1.q q).fetch
    else if x.turnLeft ≠ 0 ∧ x.wantsBody = false then s.turnOn q x.turnLeft else s.kick q
  | .paused => s.bindReturned q x.onDie.length
  | .draining => (s.bindReturned q x.onDie.length).advance q
  | _ => s.updQ q fun y => { y with onDie := [] }

/-- A header that is not written yet ends the turn (R110). -/
def State.pollMissed (s : State) (q : Nat) : State := (s.updQ q fun x => { x with turnLeft := 0 }).advance q

/-- A descriptor or header read of a queue comes back with its slots (R106, R110, R115, R132, R199). -/
def State.slotsArrive (s : State) (q : Nat) (req : ReadReq) (slots : List (BitVec 128)) : State :=
  let s0 := s.updQ q fun x => { x with reading := false }
  let x := s0.q q
  match req with
  | .desc _ c n true =>
    let l := x.part ++ slots.take n
    let c0 := c - BitVec.ofNat 32 x.part.length
    let r := s0.againWalk q c0 l l.length
    let left := l.drop (r.2 - c0).toNat
    let c1 := c + BitVec.ofNat 32 n
    let s1 := r.1.updQ q fun y => { y with part := left }
    if c1 = x.fetch ∨ (x.st = .error ∧ x.retake = false) then ((s1.updQ q fun y => { y with retake := false, part := [] }).advance q).kick q
    else (if x.retake then s1 else s1.advance q).askDesc q c1 (x.againSpan c1) true
  | .desc _ c n false =>
    let s1 := if c = x.fetch + BitVec.ofNat 32 x.onDie.length then s0.setQ q { x with onDie := x.onDie ++ slots.take n } else s0
    s1.slotsActed q
  | .poll _ =>
    match slots with
    | [] => s0.pollMissed q
    | a :: _ => if hdrPh a = x.lapPh x.fetch ∧ x.onDie = [] then (s0.setQ q { x with onDie := [a] }).slotsActed q else s0.pollMissed q
  | _ => s

/-- The entries on die are bound as far as they are whole, and the queue stops at what follows them: the malformed entry, or the failed
read (R125, R132). -/
def State.stopBehind (s : State) (q why : Nat) : State :=
  let s1 := s.bindReturned q (s.q q).onDie.length
  let x := { s1.q q with failing := 0 }
  match x.find with
  | .bad w => s1.malformed q w
  | _ => if x.fence.isSome then s1.updQ q fun y => { y with failing := why } else s1.stopQueue q why x.fetch

/-- A descriptor or producer-count read of a queue fails (R82, R125, R132). -/
def State.queueReadFails (s : State) (q : Nat) (req : ReadReq) : State :=
  let x := s.q q
  match req with
  | .pcnt _ =>
    if x.st = .running then (if x.reading then s.updQ q fun x => { x with failing := 7 } else s.stopQueue q 7 x.fetch)
    else if x.st = .paused ∨ x.st = .error then s.updQ q fun x => { x with wantPcnt := true } else s
  | .desc _ c _ true =>
    let s0 := s.updQ q fun x => { x with reading := false, part := [] }
    if x.st = .running then s0.stopQueue q 6 c else s0.advance q
  | .desc .. | .poll _ =>
    let s0 := s.updQ q fun x => { x with reading := false, turnLeft := 0 }
    if x.st = .running then s0.stopBehind q 6 else s0.advance q
  | _ => s

end Sys2Proof.Machine
end

