-- ==== Sys2Proof/Machine/Queues.lean ====
section
/-! DEFINITION. The meanings of the doorbell and queue-control writes, of the queue arbiter's events, and of the
descriptors (R89 to R134, R136). -/

namespace Sys2Proof.Machine
open Sys2Proof

/-- Offset of DB[q] (R134). -/
def dbOff (q : Nat) : Nat := 0x010000 + q * 8
/-- Offset of QCFG[q] (R133). -/
def qcfgOff (q : Nat) : Nat := 0x020000 + q * 64

/-- A doorbell write is refused: no right (R36), the wrong host in SECOND_HOST mode (R57), or a queue in DISABLED or
DRAINING (R107). -/
def State.dbRefused (s : State) (m q : Nat) : Bool :=
  !(rightsOk m (dbOff q)) || (s.mode = 1 && isHost m && m != s.qModule q) || (s.q q).st = .disabled || (s.q q).st = .draining

/-- A write to DB[n].COUNT (R104, R107, R110). -/
def State.dbCountW (s : State) (m q : Nat) (count : Word32) : State :=
  if s.dbRefused m q then s.accFault m
  else if (s.q q).phase then (if s.eligible q && !(s.q q).reading && (s.q q).onDie.isEmpty then s.askPoll q else s)
  else s.offer m q count

/-- A write to DB[n].FETCH (R105, R107, R110). -/
def State.dbFetchW (s : State) (m q : Nat) (v : Word32) : State :=
  if s.dbRefused m q then s.accFault m
  else if (s.q q).phase then (if s.eligible q && !(s.q q).reading && (s.q q).onDie.isEmpty then s.askPoll q else s)
  else if bitOf v 0 then (s.updQ q fun x => { x with wantPcnt := true }).kick q else s

/-- A write of QCFG_CTL by a master (R36, R129). -/
def State.qctlW (s : State) (m q : Nat) (en dis rst pause : Bool) : State :=
  if rightsOk m (qcfgOff q) then (s.qctl q en dis rst pause).retarget.cfgMirror (qcfgOff q + 0x2C) 4 (b2n en + b2n dis * 2 + b2n rst * 4 + b2n pause * 8) else s.accFault m

/-- DB_COUNT (R104). -/
def execDbCount (m q : Nat) (count : Word32) (s : State) : Host.Outcome State Fault Refusal := 
  .next (s.access m (dbOff q) fun s => s.dbCountW m q count)
/-- DB_FETCH (R105). -/
def execDbFetch (m q : Nat) (v : Word32) (s : State) : Host.Outcome State Fault Refusal := 
  .next (s.access m (dbOff q) fun s => s.dbFetchW m q v)
/-- QUEUE_ENABLE (R129, R130). -/
def execQueueEnable (m q : Nat) (pause : Bool) (s : State) : Host.Outcome State Fault Refusal := 
  .next (s.access m (qcfgOff q) fun s => s.qctlW m q true false false pause)
/-- QUEUE_DISABLE (R129, R131). -/
def execQueueDisable (m q : Nat) (pause : Bool) (s : State) : Host.Outcome State Fault Refusal := 
  .next (s.access m (qcfgOff q) fun s => s.qctlW m q false true false pause)
/-- QUEUE_RESTART (R128). -/
def execQueueRestart (m q : Nat) (pause : Bool) (s : State) : Host.Outcome State Fault Refusal := 
  .next (s.access m (qcfgOff q) fun s => s.qctlW m q false false true pause)
/-- QUEUE_PAUSE (R129). -/
def execQueuePause (m q : Nat) (pause : Bool) (s : State) : Host.Outcome State Fault Refusal := 
  .next (s.access m (qcfgOff q) fun s => s.qctlW m q false false false pause)

/-- QUEUE_TURN (R113): the next eligible queue with credit takes a turn; a new round begins where none has any. -/
def State.queueTurn (s : State) : State :=
  let qs := s.queues.map (·.1)
  match s.nextTurn qs with
  | some q => { s.turn1 q with turn := q + 1 }
  | none =>
    let s1 := s.newRound
    match s1.nextTurn qs with
    | some q => { s1.turn1 q with turn := q + 1 }
    | none => s1

/-- QUEUE_TURN (R113). -/
def execQueueTurn (s : State) : Host.Outcome State Fault Refusal := .next s.queueTurn

/-- PHASE_POLL (R110): the poll interval of an eligible queue passes and the slot at FETCH is read. -/
def execPhasePoll (q : Nat) (s : State) : Host.Outcome State Fault Refusal :=
  .next (if s.eligible q && (s.q q).phase && !(s.q q).reading && (s.q q).onDie.isEmpty then s.askPoll q else s)

/-- Requests that bring descriptor slots of a queue. -/
def isSlotReq (q : Nat) (r : ReadReq) : Bool := match r with
  | .desc q' _ _ _ => q' == q
  | .poll q' => q' == q
  | .staleDesc q' => q' == q
  | _ => false

/-- Descriptor slots of a queue come back (R115), which frees a place for another read. -/
def State.slotsBack (s : State) (q : Nat) (slots : List (BitVec 128)) : State :=
  match s.endReadAny (isSlotReq q) with
  | none => s
  | some (r, s1) => (s1.slotsArrive q r.req slots).slotsGo

/-- PCNT_READ_COMPLETE (R105): the count is judged as a doorbell's. -/
def execPcntReadComplete (q : Nat) (count : Word32) (s : State) : Host.Outcome State Fault Refusal :=
  .next (match s.endReadAny (fun r => r = .pcnt q) with
    | none => s
    | some (_, s1) =>
      if (s1.q q).st = .disabled ∨ (s1.q q).st = .draining then s1 else s1.offer (s1.qModule q) q count)

/-! ### Descriptors (R116, R117, R136) -/

/-- The oldest entry of a queue that has not acted yet, if it has the TYPE (R116). -/
def State.nextEntry (s : State) (q ty : Nat) : Option Entry :=
  match (s.q q).bound.find? fun e => !e.applied with
  | none => none
  | some e => if hdrType e.hdr = ty then some e else none

/-- The entry has acted. -/
def State.markApplied (s : State) (q : Nat) (cnt : Word32) : State :=
  s.updQ q fun x => { x with bound := x.bound.map fun (e : Entry) => if e.cnt = cnt then { e with applied := true } else e }

/-- The channel that an entry names (R97 to R99). -/
def Entry.ch (e : Entry) : Nat := bitsOf e.hdr 32 12

/-- A channel-directed entry acts on its channel, or is finished with NOT_BOUND (R117). -/
def State.applyEntry (s : State) (q ty : Nat) (act : State → Nat → Entry → State) : State :=
  match s.nextEntry q ty with
  | none => s
  | some e =>
    let s1 := s.markApplied q e.cnt
    let c := s1.chan e.ch
    if !c.bound || c.queue ≠ q then s1.finish q e.cnt { s1.entryRec e.ch e stNotBound with detail := 0 }
    else (act s1 e.ch e).settled

/-- The entry is refused with BAD_STATE, and the channel does not change (R136). -/
def State.refuse (s : State) (q ch : Nat) (e : Entry) : State := s.finish0 q e.cnt (s.entryRec ch e stBadState)

/-- START (R136): only in IDLE. CH_XFER stands as the program before left it. -/
def State.doStart (s : State) (q ch : Nat) (e : Entry) : State :=
  if (s.chan ch).st = .idle then
    s.goChan ch fun c =>
      { c with st := .startPending, ccwa := BitVec.ofNat 64 (bitsOf e.hdr 64 64), arg := BitVec.ofNat 64 (bitsOf (e.slots.getD 1 0) 0 64),
               cond := 0, jumps := 0, wcls := (s.q q).wcls.toNat, began := some (q, e.cnt, hdrTag e.hdr), lastPort := none,
               xfer := {}, fetched := false, inChain := false, suOnce := false, afterJump := false, released := false }
  else s.refuse q ch e

/-- RESUME (R136, R158): only in SUSPENDED. -/
def State.doResume (s : State) (q ch : Nat) (e : Entry) : State :=
  if (s.chan ch).st = .suspended then
    s.goChan ch fun c =>
      { c with st := .startPending, wcls := (s.q q).wcls.toNat, began := some (q, e.cnt, hdrTag e.hdr), suOnce := true, lastPort := none,
               xfer := {}, blocks := [], fetched := false, inChain := false, afterJump := false, released := false }
  else s.refuse q ch e

/-- An entry waits at its channel (R136). -/
def State.waitEntry (s : State) (q ch : Nat) (e : Entry) : State :=
  s.updChan ch fun c => { c with waiting := c.waiting ++ [(q, e.cnt)] }

/-- An ACTIVE channel stands at a stopping point: before a CCW that it has reached and not begun, or before a RUN that is not dispatched
(R137, R217). -/
def Chan.atStop (c : Chan) : Bool := (c.fetched && c.xfer.phase = .none) || (c.xfer.phase = .run && !c.inRun)

/-- HALT (R136): a running program stops at once where it waits or stands at a stopping point, and else at the next one. -/
def State.doHalt (s : State) (q ch : Nat) (e : Entry) : State :=
  match (s.chan ch).st with
  | .startPending | .waitTick | .waitEvent => (s.waitEntry q ch e).failAt ch stHalted 0
  | .active =>
    if (s.chan ch).atStop then (s.waitEntry q ch e).failAt ch stHalted 0
    else (s.waitEntry q ch e).goChan ch fun c => { c with haltReq := true }
  | .statusPending => s.waitEntry q ch e
  | _ => s.haltAtRest q ch e

/-- CLEAR (R136). -/
def State.doClear (s : State) (q ch : Nat) (e : Entry) : State :=
  match (s.chan ch).st with
  | .startPending | .active | .waitTick | .waitEvent => s.refuse q ch e
  | .statusPending => s.waitEntry q ch e
  | _ => s.clearAtRest q ch e

/-- MODIFY (R99, R136). -/
def State.doModify (s : State) (q ch : Nat) (e : Entry) : State :=
  match (s.chan ch).st with
  | .idle | .suspended | .halted =>
    let s1 := s.goChan ch fun c =>
      { c with ccwa := if bitOf e.hdr 44 then BitVec.ofNat 64 (bitsOf e.hdr 64 64) else c.ccwa,
               arg := if bitOf e.hdr 45 then BitVec.ofNat 64 (bitsOf (e.slots.getD 1 0) 0 64) else c.arg }
    s1.finish0 q e.cnt (s1.entryRec ch e stOk)
  | _ => s.refuse q ch e

/-- START (R136). -/
def execStart (q : Nat) (s : State) : Host.Outcome State Fault Refusal := .next (s.applyEntry q 0x01 fun s ch e => s.doStart q ch e)
/-- RESUME (R136). -/
def execResume (q : Nat) (s : State) : Host.Outcome State Fault Refusal := .next (s.applyEntry q 0x02 fun s ch e => s.doResume q ch e)
/-- HALT (R136, R137). -/
def execHalt (q : Nat) (s : State) : Host.Outcome State Fault Refusal := .next (s.applyEntry q 0x03 fun s ch e => s.doHalt q ch e)
/-- CLEAR (R136). -/
def execClear (q : Nat) (s : State) : Host.Outcome State Fault Refusal := .next (s.applyEntry q 0x04 fun s ch e => s.doClear q ch e)
/-- MODIFY (R136). -/
def execModify (q : Nat) (s : State) : Host.Outcome State Fault Refusal := .next (s.applyEntry q 0x05 fun s ch e => s.doModify q ch e)

/-- FENCE (R123): it is tested at binding. -/
def execFence (q : Nat) (s : State) : Host.Outcome State Fault Refusal :=
  .next (match s.nextEntry q 0x06 with
    | none => s
    | some e => ((s.markApplied q e.cnt).writeHead q).settled)

/-- NOTE (R101, R116): finished at once, with VALUE in its record. -/
def execNote (q : Nat) (s : State) : Host.Outcome State Fault Refusal :=
  .next (match s.nextEntry q 0x07 with
    | none => s
    | some e => (s.markApplied q e.cnt).finish q e.cnt { tag := hdrTag e.hdr, status := stOk, kind := 1, detail := bitsOf e.hdr 32 32 })

/-- PAD (R101, R118): finished at once, with no record. -/
def execPad (q : Nat) (s : State) : Host.Outcome State Fault Refusal :=
  .next (match s.nextEntry q 0x0F with
    | none => s
    | some e => (s.markDone q e.cnt).advance q)

end Sys2Proof.Machine
end

