-- ==== Sys2Proof/Machine/ChanOps.lean ====
section
/-! DEFINITION. Channel programs: command words and their checks, fetching, flow, and the steps of a data transfer
(R139 to R164, R183, R213 to R219, R350 to R356, R508). -/

namespace Sys2Proof.Machine
open Sys2Proof

/-- The commands of R145. -/
def cmdKnown (c : Nat) : Bool := [1, 2, 3, 4, 8, 9, 0xA, 0xB, 0xC, 0xD, 0xE, 0xF, 0x10].contains c
/-- Commands that address a port (R144). -/
def cmdPort (c : Nat) : Bool := cmdData c

/-- Flags allowed for a command, as a FLAGS byte (R147). -/
def flagsAllowed (c : Nat) : Nat := match c with
  | 0x01 | 0x03 => 0xFB
  | 0x02 | 0x04 => 0x7F
  | 0x08 => 0
  | 0x09 | 0x0A | 0x0B => 0x1A
  | 0x0C | 0x10 => 0xDA
  | 0x0D | 0x0E => 0x0A
  | 0x0F => 0xFE
  | _ => 0

/-- Every bit of the FLAGS byte is allowed for the command. -/
def flagsOk (c flags : Nat) : Bool := (List.range 8).all fun i => !Nat.testBit flags i || Nat.testBit (flagsAllowed c) i

/-- BAD_FLAGS: a flag that is not allowed or needed, and the combinations of R147 and R148. -/
def badFlags (c : Nat) (w : BitVec 128) (cont : Option Bool) : Bool :=
  !(flagsOk c (bitsOf w 8 8)) || (c == 0x0E && !ccwCc w) || (ccwSk w && ccwId w) || (ccwId w && spaceOf (ccwAddr w) == 3)
    || match cont with
      | none => false
      | some rs => ccwSu w || ccwRs w != rs

/-- An address keeps R140 and R141 in its own space; `isNew` says whether NEW may be 1. -/
def addrOk (a : Word64) (isNew : Bool) : Bool :=
  match spaceOf a with
  | 0 => true
  | 1 => bitsOf a 17 45 == 0 && !(bitOf a 15 && bitOf a 16) && (isNew || !bitOf a 15)
  | 2 => bitsOf a 16 46 == 0
  | _ => bitsOf a 56 6 == 0

/-- The spaces a command accepts (R145): `loc` for the pseudo-port LOCAL. -/
def spaceOk (c sp : Nat) (loc sk : Bool) : Bool :=
  match c with
  | 0x01 => if loc then sp ≤ 1 else true
  | 0x02 => if loc then sp ≤ 1 else sp ≤ 2
  | 0x03 => true
  | 0x04 => sp ≤ 2
  | 0x08 => sp == 0
  | 0x0C => sp == 1 || sp == 2
  | 0x0F => sp ≤ 2 || (sp == 3 && sk)
  | _ => true

/-- BAD_SPACE (R140, R141, R145, R149, R151), also for the odd offset of a RUN in the local segment (R269). -/
def badSpace (c : Nat) (param : Word32) (w : BitVec 128) : Bool :=
  let a := ccwAddr w
  let sp := spaceOf a
  let input := c == 0x02 || c == 0x04
  if !(cmdData c || c == 0x08 || c == 0x0C || c == 0x10) then false
  else if c == 0x10 && !bitOf param 31 then false
  else if input && ccwSk w then false
  else
    let loc := cmdPort c && bitsOf param 0 8 == portLocal
    if ccwId w then !(sp == 0 || sp == 2) || !(addrOk a false)
    else if c == 0x0C && sp == 2 && bitOf a 0 then true
    else !(spaceOk c sp loc (ccwSk w)) || !(addrOk a input) || (sp == 3 && (ccwCount w == 0 || 7 < ccwCount w))

/-- BAD_ALIGN: a JUMP target or an indirect list that is not aligned (R151, R156). -/
def badAlign (c : Nat) (w : BitVec 128) : Bool := (c == 0x08 || (cmdData c && ccwId w)) && bitsOf (ccwAddr w) 0 4 != 0

/-- The port argument is well formed (R342). -/
def State.portArgOk (s : State) (p c : Nat) (param : Word32) : Bool :=
  let n := bitsOf param 8 8
  match portKind p with
  | none => false
  | some .t1s => bitsOf param 17 15 == 0 && (n == 0xFF || (decide (n < 32) && bitOf (s.pcfg p (0x404 + 8 * n)) 27))
  | some .can => bitsOf param 16 16 == 0 && (n == 0xFF || (decide (n < 64) && bitOf (s.pcfg p (0x400 + 8 * n)) 31))
  | some .uart => bitsOf param 16 16 == 0 &&
      (if s.isModbus p then decide (n ≤ 247) && (n != 0 || c == 0x01) else n == 0)
  | some .spi => bitsOf param 10 22 == 0
  | some .i2c => bitsOf param 20 4 == 0 && (c == 0x0F || bitsOf param 24 8 == 0)
  | some .gpio | some .adc => bitsOf param 12 20 == 0
  | some .eth => bitsOf param 21 11 == 0 && decide (n < 64)

/-- The node a port argument names (R342): the NODE field right-aligned. -/
def argNode (p : Nat) (param : Word32) : Nat :=
  match portKind p with
  | some .spi => bitsOf param 8 2
  | some .i2c => bitsOf param 8 10
  | some .gpio | some .adc => bitsOf param 8 4
  | _ => bitsOf param 8 8

/-- BAD_PARAM under R144, R145, R157, R160, R161 and R342. -/
def State.badParam (s : State) (c : Nat) (w : BitVec 128) : Bool :=
  let param := ccwParam w
  if cmdPort c then
    let p := bitsOf param 0 8
    if p = portLocal then !(c == 0x01 || c == 0x02) || bitsOf param 8 8 != 0 else !(s.portArgOk p c param)
  else match c with
    | 0x0A => bitsOf param 0 16 == 0 || bitsOf param 16 16 != 0
    | 0x0B => bitsOf param 0 16 == 0
    | 0x0C => bitsOf param 13 3 != 0
    | 0x0E => bitsOf param 0 16 == 0 || bitsOf param 16 8 == 0 || bitsOf param 25 7 != 0
    | 0x10 =>
      if bitOf param 31 then
        bitsOf param 27 4 != 0 || (!bitOf param 26 && bitsOf param 8 18 != 0) || 48 < ccwCount w
      else bitsOf param 16 15 != 0
    | _ => false

/-- The checks of R146 in their order; a continuation is judged by the first CCW's command and keeps its PARAM
(R148). -/
def State.ccwCheck (s : State) (w : BitVec 128) (cont : Option (Nat × Word32 × Bool)) : Option (BitVec 16) :=
  match cont with
  | none =>
    let c := ccwCmd w
    if !cmdKnown c then some stBadCmd
    else if badFlags c w none then some stBadFlags
    else if badSpace c (ccwParam w) w then some stBadSpace
    else if badAlign c w then some stBadAlign
    else if s.badParam c w then some stBadParam else none
  | some (c, param, rs) =>
    if badFlags c w (some rs) then some stBadFlags
    else if badSpace c param w then some stBadSpace
    else if badAlign c w then some stBadAlign else none

/-! ### Fetching (R154) and flow (R153, R156, R158) -/

/-- The work class and tile whose budgets a channel spends. -/
def State.fitsCh (s : State) (ch : Nat) (k : Cost) : Bool := s.fits (s.chan ch).wcls (tileOfCh ch) k
def State.unfitCh (s : State) (ch : Nat) (k : Cost) : Bool := s.unfit (s.chan ch).wcls (tileOfCh ch) k
def State.chargeCh (s : State) (ch : Nat) (k : Cost) : State := s.charge (s.chan ch).wcls (tileOfCh ch) k

/-- The module of a channel's program (R56). -/
def State.chModule (s : State) (ch : Nat) : Nat :=
  s.qModule (match (s.chan ch).began with
    | none => (s.chan ch).queue
    | some x => x.1)

/-- Read units on the carrying module as a cost (R213). -/
def urdCost (md n : Nat) : Cost := if md = 0 then { urd0 := n } else { urd1 := n }

/-- A channel's class is GUARANTEED. -/
def State.isGuar (s : State) (ch : Nat) : Bool := s.kindOf (s.chan ch).wcls = 2

/-- The read of the block at an address is asked for, unless it is held or under way (R154). -/
def State.askBlock (s : State) (ch : Nat) (a : Word64) : State :=
  let md := s.chModule ch
  s.askRead md { req := .ccw ch (blockOf a), tags := 1, units := 1, guar := s.isGuar ch }

/-- The block at an address is held or is being read. -/
def State.hasBlock (s : State) (ch : Nat) (a : Word64) : Bool :=
  (s.chan ch).blocks.any (fun b => b.1 = blockOf a) || s.hasRead (fun r => r = .ccw ch (blockOf a))

/-- The block of the CCW at CCWA is read: one read unit is charged, or the channel parks (R154, R213, R215). -/
def State.fetchBlock (s : State) (ch : Nat) : State :=
  let a := (s.chan ch).ccwa
  if s.hasBlock ch a then s else
  let k := urdCost (s.chModule ch) 1
  if s.unfitCh ch k then s.fail ch stBudgetUnfit
  else if s.fitsCh ch k then (s.chargeCh ch k).askBlock ch a
  else s.park ch .budget true

/-- The following block is read when the last CCW of its block starts (R154). Where its read unit does not fit the class's budget the
spec does not say what happens: the model issues no read and does not park there; the block is read when it is needed (log 98). -/
def State.prefetch (s : State) (ch : Nat) : State :=
  let a := (s.chan ch).ccwa
  let k := urdCost (s.chModule ch) 1
  if bitsOf a 4 2 = 3 && !(s.hasBlock ch (a + 16)) && s.fitsCh ch k then (s.chargeCh ch k).askBlock ch (a + 16) else s

/-- The sequencer reaches the CCW at CCWA: HALT, the checks of R146, JUMP_TO_JUMP, SU; else the CCW waits for its row
(R137, R146, R156, R158). A HALT there is reported with the CCW's COUNT, so its block is read first (R174). -/
def State.reach (s : State) (ch : Nat) : State :=
  let c := s.chan ch
  if c.retired then s.endProgram ch stEcc c.remain 0
  else if c.haltReq && (c.heldCcw.isSome || c.badBlock.isSome) then s.failAt ch stHalted 0 else
  match c.heldCcw with
  | none =>
    match c.badBlock with
    | some (a, cause) => if a = blockOf c.ccwa then s.failAt ch stHostReadFail cause else s.fetchBlock ch
    | none => s.fetchBlock ch
  | some w =>
    let cont := if c.inChain then some (c.xfer.cmd, c.xfer.param, c.xfer.rs) else none
    match s.ccwCheck w cont with
    | some code => s.endProgram ch code (c.notBegun w) 0
    | none =>
      if !c.inChain && c.afterJump && ccwCmd w = 0x08 then s.fail ch stJumpToJump
      else if ccwSu w && !c.suOnce then s.endProgram ch stSuspended (c.notBegun w) 0
      else s.updChan ch fun c =>
        { c with fetched := true, suOnce := false, afterJump := false,
                 remain := if c.inChain || cmdData (ccwCmd w) then ccwCount w else c.remain,
                 portions := if c.inChain || cmdData (ccwCmd w) then 0 else c.portions,
                 data := if c.inChain || cmdData (ccwCmd w) then ccwAddr w else c.data }

/-- The program goes on at the CCW at an address (R153). -/
def State.goTo (s : State) (ch : Nat) (a : Word64) : State :=
  (s.goChan ch fun c => { c with ccwa := a, fetched := false }).reach ch

/-- The channel waits before it writes an interim record: that is an access to host memory (R63, R64, R85). -/
def State.interimWaits (s : State) (ch : Nat) : Bool := (s.chan ch).ien && s.hostWaits (s.chModule ch)

/-- After a CCW that is complete: PI, then the continuation, the next CCW, or the end with OK (R153, R162). -/
def State.goOn (s : State) (ch : Nat) : State :=
  let c := s.chan ch
  match c.heldCcw with
  | none => s
  | some w =>
    let pi := c.xfer.pi || ccwPi w
    if ccwCd w && (cmdData (ccwCmd w) || c.inChain) then
      (s.updChan ch fun c => { c with inChain := true, xfer := { c.xfer with pi, phase := .none } }).goTo ch (c.ccwa + 16)
    else if pi && s.interimWaits ch then s.updChan ch fun c => { c with xfer := { c.xfer with phase := .hostPi } }
    else
      let s1 := if pi then s.interim ch false c.ccwa c.remain 0 else s
      let s2 := s1.updChan ch fun c => { c with inChain := false, xfer := {} }
      if ccwCc w then s2.goTo ch (c.ccwa + 16) else s2.endProgram ch stOk (s2.chan ch).remain 0

/-- The bits [7:0] of the condition word are replaced (R152). -/
def State.replaceCond (s : State) (ch bits : Nat) : State :=
  s.updChan ch fun c => { c with cond := BitVec.ofNat 16 (c.cond.toNat / 256 * 256 + bits % 256) }

/-- The CCW of a channel that is due to execute: it is ACTIVE, has reached it, and has begun nothing of it. -/
def State.dueCcw (s : State) (ch cmd : Nat) : Option (BitVec 128) :=
  let c := s.chan ch
  if s.die = .ready ∧ s.hold = false ∧ c.st = .active ∧ c.fetched = true ∧ c.xfer.phase = .none then
    match c.heldCcw with
    | none => none
    | some w => if (if c.inChain then c.xfer.cmd else ccwCmd w) = cmd then some w else none
  else none

/-- The CCW that a channel has reached ends the program before it starts: its whole COUNT is not moved (R146, R165, R508). -/
def State.failNow (s : State) (ch : Nat) (code : BitVec 16) (detail : Nat) : State :=
  let c := s.chan ch
  s.endProgram ch code (match c.heldCcw with
    | none => c.remain
    | some w => c.notBegun w) detail

/-- What a CCW costs to start, with its dispatch slot (R213). -/
def startCost (k : Cost) : Cost := { k with disp := k.disp + 1 }

/-- A CCW starts where its whole cost fits; all of it is charged at once, and the next block is read where the CCW is the last of its
block (R154, R213, R215). Where it does not fit, the channel parks as `s0` has it, with nothing of the CCW begun (R217). -/
def State.startCcw (s s0 : State) (ch : Nat) (k : Cost) (go : State → State) : State :=
  if s.unfitCh ch (startCost k) then s0.failNow ch stBudgetUnfit 0
  else if s.fitsCh ch (startCost k) then
    go (((s.chargeCh ch (startCost k)).updChan ch fun c => { c with released := false }).prefetch ch)
  else s0.park ch .budget true

/-- The row of a command acts on the CCW that is due (R145, R155); a data CCW, a RUN and a SIGNAL start with costs of their own. -/
def State.onDue (s : State) (ch cmd : Nat) (k : State → BitVec 128 → State) : State :=
  match s.dueCcw ch cmd with
  | none => s
  | some w => k s w

/-- The row of a command that costs its dispatch slot alone. -/
def State.onCcw (s : State) (ch cmd : Nat) (k : State → BitVec 128 → State) : State :=
  s.onDue ch cmd fun s w => s.startCcw s ch {} fun s => k s w

/-! ### Pieces of a transfer -/

/-- The bytes of a local segment (R143). -/
def Chan.lsegBytes (c : Chan) : Nat := 64 * c.lcells
/-- The device-internal address of a byte of the local segment. -/
def Chan.lsegAddr (c : Chan) (off : Nat) : Nat := cellAddr c.lbase + off

/-- A retired cell lies in a run of the local segment (R507). -/
def State.lsegRetired (s : State) (ch off n : Nat) : Bool :=
  (List.range (ceilDiv (off % 64 + n) 64)).any fun i => s.retiredCell ((s.chan ch).lbase + off / 64 + i)

/-- A piece reaches beyond the end of the local segment (R143). -/
def Chan.lsegBad (c : Chan) (pc : Word64 × Nat) : Bool := spaceOf pc.1 == 2 && decide (c.lsegBytes < bitsOf pc.1 0 16 + pc.2)

/-- The head cell of a Hawk piece: CUR names the channel's chain (R141). -/
def Chan.pieceHead (c : Chan) (a : Word64) : Option Nat := if bitOf a 16 || bitOf a 15 then c.chain else some (bitsOf a 0 15)

/-- An indirect data list's entries (R151): the pieces for COUNT bytes, or none for a list that is not valid. -/
def idalPieces (isNew : Bool) (l : List (BitVec 128)) (count : Nat) : Nat → Option (List (Word64 × Nat))
  | 0 => if count = 0 then some [] else none
  | n + 1 =>
    if count = 0 then some [] else
    match l with
    | [] => none
    | e :: r =>
      let a : Word64 := BitVec.ofNat 64 (bitsOf e 0 64)
      let len := if bitsOf e 64 16 = 0 then 65536 else bitsOf e 64 16
      if bitsOf e 80 48 ≠ 0 ∨ spaceOf a = 3 ∨ !(addrOk a isNew) then none else
      match idalPieces isNew r (count - min len count) n with
      | none => none
      | some ps => some ((a, min len count) :: ps)

/-- 16 B words from a run of bytes. -/
def words128 (l : List Byte) : Nat → List (BitVec 128)
  | 0 => []
  | n + 1 => if l.isEmpty then [] else BitVec.ofNat 128 (ofLeBytes (l.take 16)) :: words128 (l.drop 16) n

/-- The code of a chain error for a sequencer (R142, R507). -/
def chainCode (e : ChainErr) : BitVec 16 := match e with
  | .ended => stHawkExhausted
  | .retired => stEcc

/-- The bytes of a piece that lies on the die: Hawk chain, local segment or immediate data (R140). -/
def State.readPiece (s : State) (ch : Nat) (pc : Word64 × Nat) : Except (BitVec 16) (List Byte) :=
  let c := s.chan ch
  let a := pc.1
  match spaceOf a with
  | 1 =>
    match c.pieceHead a with
    | none => .error stHawkExhausted
    | some h =>
      match s.chainRead h 0 pc.2 (pc.2 + 1) with
      | .error e => .error (chainCode e)
      | .ok l => .ok l
  | 2 =>
    if c.lsegBad pc then .error stLsegLimit
    else if s.lsegRetired ch (bitsOf a 0 16) pc.2 then .error stEcc
    else .ok (s.bytesAt (c.lsegAddr (bitsOf a 0 16)) pc.2)
  | _ => .ok (leBytes pc.2 (bitsOf a 0 56))

/-- The next host read of a piece: at most the module's read request, to the next 4 KiB boundary (R66). -/
def State.readSize (s : State) (ch : Nat) (pc : Word64 × Nat) : Nat :=
  min pc.2 (min (s.link (s.chModule ch)).maxRead (4096 - bitsOf pc.1 0 12))

/-- The piece lies in host memory. -/
def isHostPiece (pc : Word64 × Nat) : Bool := spaceOf pc.1 == 0

/-- Read units of the read requests of a piece (R66, R213): a piece has at most 529 requests. -/
def State.pieceUnits (s : State) (ch : Nat) (pc : Word64 × Nat) : Nat → Nat
  | 0 => 0
  | n + 1 =>
    if pc.2 = 0 ∨ isHostPiece pc = false then 0 else
    let m := s.readSize ch pc
    ceilDiv m 64 + s.pieceUnits ch (pc.1 + BitVec.ofNat 64 m, pc.2 - m) n

/-- Read units of the pieces still to be brought in. -/
def State.dataUnits (s : State) (ch : Nat) : Nat := (s.chan ch).xfer.pieces.foldl (fun n pc => n + s.pieceUnits ch pc 530) 0

/-- Read units of the next read request alone. -/
def State.nextReadUnits (s : State) (ch : Nat) : Nat :=
  match (s.chan ch).xfer.pieces.filter fun pc => pc.2 ≠ 0 with
  | pc :: _ => s.pieceUnits ch pc 1
  | [] => 0

/-! ### Where a transfer stands -/

/-- The piece of an input that is received and not stored (R149); no CCW can name this address. -/
def skipAddr : Word64 := BitVec.allOnes 64

/-- The data address n bytes further on, in the form of R140: a host address, an offset in the local segment, or immediate data with n
bytes fewer. A chain address names no byte: it stays, and CH_XFER says how far the transfer is (log 99). -/
def addrOn (a : Word64) (n : Nat) : Word64 :=
  match spaceOf a with
  | 0 | 2 => a + BitVec.ofNat 64 n
  | 1 => a
  | _ => (a &&& 0xC000000000000000) ||| BitVec.ofNat 64 (bitsOf a 0 56 >>> (8 * n))

/-- The next data address after n bytes of a transfer (R163, R170): none where there is none, or the data are discarded. -/
def nextData (spans : List (Word64 × Nat)) (n : Nat) : Option Word64 :=
  match spans with
  | [] => none
  | [p] => if p.1 = skipAddr then none else some (addrOn p.1 (min n p.2))
  | p :: r => if n < p.2 then (if p.1 = skipAddr then none else some (addrOn p.1 n)) else nextData r (n - p.2)

/-- CH_DATA and CH_XFER name the first byte not moved (R163, R219). -/
def Chan.showData (c : Chan) : Chan :=
  { c with remain := (locate c.xfer.parts c.xfer.total).2, data := (nextData c.xfer.spans c.xfer.total).getD c.data }

/-- n more bytes of the transfer are moved: CH_DATA and CH_XFER follow (R219). -/
def State.movedOn (s : State) (ch n : Nat) : State :=
  s.updChan ch fun c => ({ c with xfer := { c.xfer with total := c.xfer.total + n } } : Chan).showData

/-- A unit of n bytes is moved. -/
def State.moved (s : State) (ch n : Nat) : State :=
  (s.movedOn ch n).updChan ch fun c => { c with xfer := { c.xfer with units := c.xfer.units + 1 } }

/-- The slices in which the die's own data of a transfer lie: a chain, or the local segment (R405). -/
def Chan.dataSlices (c : Chan) : List Nat :=
  c.xfer.spans.filterMap fun e =>
    if e.1 = skipAddr then none else match spaceOf e.1 with
      | 1 => (c.pieceHead e.1).map (· / 8192)
      | 2 => some (c.lbase / 8192)
      | _ => none

/-- The slices in which the data of a unit or a RUN lie are woken with its dispatch (R405). -/
def State.wakeData (s : State) (l : List Nat) : State := s.each l fun s q => s.wakeDomain (127 + q) 2

/-- The domain of a port is at L0 (R398). -/
def State.portAwake (s : State) (p : Nat) : Bool := (portDom p).all fun d => (s.dom d).level == 0

/-- The port code of the channel's transfer. -/
def Chan.port (c : Chan) : Nat := bitsOf c.xfer.param 0 8
/-- The node of the channel's transfer. -/
def Chan.node (c : Chan) : Nat := argNode c.port c.xfer.param
/-- DETAIL with port and node (R166). -/
def Chan.detail (c : Chan) : Nat := nodeDetail c.port c.node

/-- The transfer performs an output effect (R171). -/
def Chan.isOut (c : Chan) : Bool := c.xfer.cmd == 0x01 || c.xfer.cmd == 0x03 || c.xfer.cmd == 0x0F

/-- A portion ends (CH_XFER.PORTIONS). -/
def State.portion (s : State) (ch : Nat) : State := s.updChan ch fun c => { c with portions := satInc c.portions }

/-- The whole data chain goes out as one unit, or is checked before its first unit (R345, R350, R352): the commands and
ports on which a chain is gathered. -/
def State.gathers (s : State) (p cmd : Nat) : Bool :=
  match portKind p with
  | some .uart => s.isModbus p && cmd == 0x01
  | some .spi | some .i2c => cmd != 0x03
  | some .t1s | some .can | some .eth => cmd == 0x01
  | _ => false

/-- Bytes the transfer has still to move. -/
def Xfer.left (x : Xfer) : Nat := x.size - x.total

/-- SL of the CCW that byte n of a transfer falls into (R150). -/
def slAt (parts : List (Word64 × Nat)) (sls : List Bool) (n : Nat) : Bool :=
  match parts, sls with
  | [_], b :: _ => b
  | p :: r, b :: t => if n < p.2 then b else slAt r t (n - p.2)
  | _, _ => false

/-- SL of the CCW at which the transfer stands. -/
def Xfer.slHere (x : Xfer) : Bool := if x.parts.isEmpty then x.sl else slAt x.parts x.sls x.total

/-- The transfer takes the port's wire while a unit of it runs: every one but a paced T1S input (R349). -/
def usesWire (p cmd : Nat) : Bool := !(decide (portKind p = some .t1s) && cmd == 0x02)

/-! ### CAN records (R352) -/

/-- LEN is allowed (R352). -/
def canLenOk (fdf : Bool) (len : Nat) : Bool := decide (len ≤ 8) || (fdf && [12, 16, 20, 24, 32, 48, 64].contains len)

/-- Bytes of a record: header and payload padded to 4. -/
def canRecBytes (len : Nat) : Nat := 8 + (len + 3) / 4 * 4

/-- The records of an output are all allowed (R352). -/
def State.canRecsOk (s : State) (p : Nat) (l : List Byte) : Nat → Bool
  | 0 => l.isEmpty
  | n + 1 =>
    if l.isEmpty then true else
    let h := ofLeBytes (l.take 8)
    let len := (h >>> 32) % 128
    let fdf := Nat.testBit h 30
    decide (8 ≤ l.length) && canLenOk fdf len && !(Nat.testBit h 40) && !(fdf && !bitOf (s.pcfg p 0x108) 1)
      && decide (canRecBytes len ≤ l.length) && s.canRecsOk p (l.drop (canRecBytes len)) n

/-! ### Units (R345) -/

/-- Header bytes that the port adds to a payload (R350). -/
def State.frameHdr (s : State) (p : Nat) (param : Word32) : Nat :=
  if bitOf param 16 then 0
  else match portKind p with
    | some .eth => 14 + (if bitOf (s.pcfg p (0x408 + 16 * bitsOf param 8 8)) 15 then 4 else 0)
    | _ => 14

/-- The largest payload (R350). -/
def State.maxPayload (s : State) (p : Nat) (param : Word32) : Nat :=
  (if portKind p = some .eth ∧ bitOf (s.pcfg p 0x100) 5 then 9000 else 1500) + (if bitOf param 16 then 14 else 0)

/-- Address bytes of an I²C transaction. -/
def i2cAddrBytes (param : Word32) : Nat := if bitOf param 18 then 2 else 1

/-- The largest frame that a T1S node sends (T1S_NODE.RXMAX, T1S_RX.RXMAX), FCS included. -/
def State.t1sMax (s : State) (p node : Nat) : Nat :=
  let r := if node < 32 then bitsOf (s.pcfg p (0x404 + 8 * node)) 16 11 else 0
  max 64 (if r = 0 then bitsOf (s.pcfg p 0x108) 0 11 else r)

/-- The next unit of a transfer with n bytes of output: its bytes and its bus time (R345 to R347). -/
def State.unitOf (s : State) (ch n : Nat) : Nat × Nat :=
  let c := s.chan ch
  let x := c.xfer
  let p := c.port
  if x.cmd = 0x03 ∧ portKind p ≠ some .gpio then (n, s.ctlTime p (x.out.headD 0).toNat)
  else if x.reply then (256, s.maxInput p c.node 0)
  else
    let want := x.left
    match portKind p with
    | some .t1s => if x.cmd = 0x02 then (s.t1sMax p c.node, s.maxInput p c.node 0) else (n, frameTime (wireLen (s.frameHdr p x.param + n)) 1)
    | some .eth => (n, frameTime (wireLen (s.frameHdr p x.param + n)) (ethRate (bitsOf (s.pcfg p 0x100) 1 3)))
    | some .can =>
      let h := ofLeBytes (x.out.take 8)
      let len := (h >>> 32) % 128
      let ide := if c.node = 0xFF then Nat.testBit h 29 else bitOf (s.pcfg p (0x400 + 8 * c.node)) 29
      (canRecBytes len, s.canTime p (Nat.testBit h 30) ide (Nat.testBit h 31) len)
    | some .uart => if s.isModbus p then (if x.cmd = 0x02 then (256, s.aduTime p 256) else (n, s.aduTime p (n + 3))) else (1, s.charTime p 1)
    | some .spi => (if x.cmd = 0x02 then (want, s.spiTime p c.node want) else (n, s.spiTime p c.node n))
    | some .i2c =>
      let a := i2cAddrBytes x.param
      let pec := b2n (bitOf x.param 19)
      if x.cmd = 0x0F then
        let rl := if bitsOf x.param 24 8 = 0 then n else bitsOf x.param 24 8
        (n, s.i2cTime p (a + n + a + rl + pec) 1)
      else if x.cmd = 0x02 then (want, s.i2cTime p (a + want + pec) 0) else (n, s.i2cTime p (a + n + pec) 0)
    | some .adc => (2, 5)
    | _ => (n, 1)

/-- Beats and bus time of a unit as a cost (R213, R215). -/
def unitCost (p : Nat) (u : Nat × Nat) : Cost := { sbeat := ceilDiv u.1 32, bus := some (p, u.2) }

/-- Bytes of output in hand and still to be brought in. -/
def Xfer.outSize (x : Xfer) : Nat := x.out.length + (x.pieces.foldl (fun n e => n + e.2) 0)

/-- A RAW UART sends character by character, each as a unit, and brings its data in by one read request after the other (R345). -/
def State.streams (s : State) (ch : Nat) : Bool :=
  let c := s.chan ch
  decide (portKind c.port = some .uart) && !s.isModbus c.port && c.xfer.cmd == 0x01

/-- The bus time of the first unit shows only in its data, and these are not in hand: a CAN record, or an operation code (R345, R509). -/
def State.needsData (s : State) (ch : Nat) : Bool :=
  let c := s.chan ch
  (decide (portKind c.port = some .can) || (c.xfer.cmd == 0x03 && portKind c.port != some .gpio))
    && c.xfer.pieces.any fun pc => isHostPiece pc && pc.2 ≠ 0

/-- What an output CCW costs to start (R213, R215): its read units, and beats and bus time of its first unit where they are known; with
them, whether the unit is paid for. A CCW of a chain that is gathered and goes on has no unit of its own. -/
def State.outCost (s : State) (ch : Nat) (more : Bool) : Cost × Bool :=
  let c := s.chan ch
  let md := s.chModule ch
  if s.streams ch then
    let u := urdCost md (s.nextReadUnits ch)
    ({ u with sbeat := 1, bus := some (c.port, s.charTime c.port 1) }, true)
  else
    let u := urdCost md (s.dataUnits ch)
    if (more && s.gathers c.port c.xfer.cmd) || s.needsData ch then (u, false)
    else
      let k := unitCost c.port (s.unitOf ch c.xfer.outSize)
      ({ u with sbeat := k.sbeat, bus := k.bus }, true)

/-- What the next unit of a transfer costs (R213, R215): nothing where it is paid for; for a unit whose data are still to be brought in
their read units, and a dispatch slot after a park. -/
def State.dueCost (s : State) (ch : Nat) : Cost :=
  let c := s.chan ch
  if c.xfer.paid then {} else
  let u : Cost := if c.isOut && c.xfer.out.isEmpty then urdCost (s.chModule ch) (s.nextReadUnits ch) else {}
  let k := unitCost c.port (s.unitOf ch c.xfer.out.length)
  { u with sbeat := k.sbeat, bus := k.bus, disp := b2n c.xfer.owesSlot }

/-- The ending of a unit that cannot start because its port has failed meanwhile (R182, R361). -/
def State.portDown (s : State) (p : Nat) : Option (BitVec 16) :=
  let q := s.port p
  if q.st = 4 then some stOutOfService
  else if q.st = 2 then some (if q.cause = 6 then stBusOff else stSegmentFault)
  else if q.st = 3 then some stSegmentFault
  else if q.st = 0 then some stPortMode else none

/-- The channel's unit may start as far as its link is concerned: an ETH port's frames keep to the link, to PAUSE and to their class's gate;
another operation waits only for the link (R358, R509). -/
def State.linkMay (s : State) (ch : Nat) : Bool :=
  let c := s.chan ch
  let p := c.port
  if portKind p ≠ some .eth then true
  else if c.xfer.cmd = 0x01 then s.ethMay p (bitsOf c.xfer.param 17 3) (s.frameHdr p c.xfer.param + c.xfer.outSize)
  else !(s.port p).linkDown

/-- What the start of a CONTROL unit does to its port (R509): a break holds the line, a link restart takes it down. -/
def Port.ctlStart (q : Port) (p : Nat) (x : Xfer) : Port :=
  if x.cmd ≠ 0x03 then q
  else if portKind p = some .uart ∧ x.out.headD 0 = 4 then { q with breakOn := true }
  else if portKind p = some .eth ∧ x.out.headD 0 = 7 then { q with linkDown := true, evt := q.evt ||| 0x40 }
  else q

/-- An output effect counts as complete in a replay, without a unit: its CCW's bytes pass, and at the end of its chain the condition bits
and the residual are those of its ledger entry (R197, R471). -/
def State.skipOut (s : State) (ch : Nat) (more : Bool) : State :=
  let x := (s.chan ch).xfer
  let s1 := (s.moved ch x.outSize).updChan ch fun c => { c with xfer := { c.xfer with pieces := [], phase := .none } }
  match x.skip with
  | none => s1
  | some (cond, residual) =>
    if more then s1.goOn ch
    else (((s1.replaceCond ch cond.toNat).updChan ch fun c => { c with remain := residual }).portion ch).goOn ch

/-- The ledger mark of an effect opened before the partner was lost stands in an MRAM slot before its first unit starts (R178, R433): the
channel parks while none is free. -/
def State.withMark (s : State) (ch : Nat) : State :=
  let c := s.chan ch
  if c.xfer.units = 0 && !s.paired && c.xfer.slot.isSome && c.xfer.mslot.isNone then
    if s.freeSlot.isNone then s.park ch .ledger false else s.giveSlot ch
  else s

/-- The next read request of a host piece is asked for; its read units have been charged (R66, R213). -/
def State.askPiece (s : State) (ch : Nat) (pc : Word64 × Nat) : State :=
  let m := s.readSize ch pc
  let md := s.chModule ch
  (s.updChan ch fun c => { c with xfer := { c.xfer with phase := .data } }).askRead md
    { req := .data ch pc.1 m, tags := s.readReqs md m, units := readUnits m, guar := s.isGuar ch }

/-- A unit has the port's wire: what the port sends, and since when. -/
def State.sends (s : State) (ch : Nat) (q : Port) : Port :=
  let c := s.chan ch
  let p := c.port
  if c.xfer.reply then { q with unitOn := some ch, adu := [] }
  else { q with unitOn := some ch, adu := [], wireAt := s.frm.time.toNat, wire := s.wireBytes p c.node c.xfer.cmd c.xfer.param c.xfer.out c.xfer.left }

/-- The unit goes on its port, whose domain, like the slices of its data, it wakes (R405). -/
def State.toWire (s : State) (ch : Nat) : State :=
  let c := s.chan ch
  let p := c.port
  ((((portDom p).elim s fun d => s.wakeDomain d 2).wakeData c.dataSlices).updPort p fun q =>
    (if usesWire p c.xfer.cmd then s.sends ch q else q).ctlStart p c.xfer).updChan ch fun c =>
      { c with xfer := { c.xfer with phase := .wire, unit := (s.unitOf ch c.xfer.out.length).1, paid := false, owesSlot := false } }

/-- The unit that is due starts on its port; where its data are still to be brought in, that comes first (R187). -/
def State.unitStarts (s : State) (ch : Nat) : State :=
  let x := (s.chan ch).xfer
  match if (s.chan ch).isOut && x.out.isEmpty && !x.reply then x.pieces.filter (fun pc => pc.2 ≠ 0) else [] with
  | [] => s.toWire ch
  | pc :: r =>
    let s1 := s.updChan ch fun c => { c with xfer := { c.xfer with paid := true, owesSlot := false, pieces := pc :: r } }
    if isHostPiece pc then s1.askPiece ch pc
    else match s.readPiece ch pc with
      | .error code => s1.failAt ch code 0
      | .ok l => (s1.updChan ch fun c => { c with xfer := { c.xfer with pieces := r, out := l } }).toWire ch

/-- The unit that is ready starts: its port must be free and up, its effect's gate open, and its whole cost must fit (R163, R177, R187,
R215, R217, R220). Between two units a park ends the portion; it is an overrun unless bus time alone is short. -/
def State.startReal (s : State) (ch : Nat) : State :=
  let c := s.chan ch
  let p := c.port
  if !(s.linkMay ch) then s else
  match s.portDown p with
  | some code => s.failAt ch code (portDetail p)
  | none =>
    let s1 := s.withMark ch
    if (s1.chan ch).st ≠ .active then s1
    else if c.xfer.gate.isSome then s1.updChan ch fun c => { c with xfer := { c.xfer with phase := .gate } }
    else if usesWire p c.xfer.cmd && (s1.port p).unitOn.isSome && (s1.port p).unitOn != some ch then s1
    else
      let k := s1.dueCost ch
      if s1.unfitCh ch k then s1.failAt ch stBudgetUnfit 0
      else if s1.fitsCh ch k then (s1.chargeCh ch k).unitStarts ch
      else
        let noBus := s1.fitsNoBus (s1.chan ch).wcls (tileOfCh ch) k
        if 0 < c.xfer.units then (s1.portion ch).park ch (if noBus then .portion else .budget) (!noBus)
        else s1.park ch .budget true

/-- The unit that is ready starts, but not in Hold (R163, R192). -/
def State.startUnit (s : State) (ch : Nat) : State := if s.hold || s.die ≠ .ready then s else s.startReal ch

/-! ### The order within a kind (R212) -/

/-- The lowest number of a list from n on, else the lowest of all: round robin. -/
def nextFrom (l : List Nat) (n : Nat) : Option Nat :=
  match (l.filter fun x => decide (n ≤ x)).min? with
  | some x => some x
  | none => l.min?

/-- The channel of a list that is served next, and where the turn stands then (R212): kinds in their order; GUARANTEED and BEST_EFFORT
channels in round robin by number, SHAPED classes in weighted round robin and the channels of a class in round robin. -/
def State.pickTurn (s : State) (t : Turn) (l : List Nat) : Option (Nat × Turn) :=
  let cls (ch : Nat) : Nat := (s.chan ch).wcls
  let ofKind (k : Nat) : List Nat := l.filter fun ch => s.kindOf (cls ch) == k
  match nextFrom (ofKind 2) t.guar with
  | some ch => some (ch, { t with guar := ch + 1 })
  | none =>
    let sh := ofKind 1
    let same := decide (0 < t.left) && sh.any fun ch => cls ch == t.cls
    match if same then some t.cls else nextFrom (sh.map cls) (t.cls + 1) with
    | some c =>
      let left := (if same then t.left else max 1 (s.cls c).act.weight.toNat) - 1
      (nextFrom (sh.filter fun ch => cls ch == c) (t.shaped.get 0 c)).map fun ch => (ch, { t with cls := c, left, shaped := t.shaped.set c (ch + 1) })
    | none => (nextFrom (ofKind 0) t.best).map fun ch => (ch, { t with best := ch + 1 })

/-- The units that are ready for a port are tried in the order of R212, until one of them has the wire. -/
def State.kickList (s : State) (p : Nat) (l : List Nat) : Nat → State
  | 0 => s
  | n + 1 =>
    match s.pickTurn (s.port p).turn l with
    | none => s
    | some (ch, t) =>
      let s1 := s.startUnit ch
      if (s.port p).unitOn ≠ (s1.port p).unitOn then s1.updPort p fun q => { q with turn := t } else s1.kickList p (l.filter (· ≠ ch)) n

/-- The port is free: the unit that is due next starts (R212). -/
def State.kickPort (s : State) (p : Nat) : State :=
  let l := (s.chans.filter fun e => e.2.xfer.phase == .ready && e.2.st = .active && e.2.xfer.cmd != 0x10 && e.2.port == p).map (·.1)
  (s.kmdFlush p).kickList p l l.length

/-- The port is free again, and the next unit on it starts. -/
def State.freePort (s : State) (p ch : Nat) : State :=
  s.updPort p fun q => { q with unitOn := if q.unitOn = some ch then none else q.unitOn }

/-! ### Output: gathering the data (R145, R148, R151, R187) -/

/-- The checks on the data of an output before its first unit (R350, R352, R357, R508, R509): on its length at once, on its contents when
all of it is in hand. -/
def State.outBad (s : State) (ch : Nat) (more : Bool) : Option (BitVec 16) :=
  let c := s.chan ch
  let x := c.xfer
  let p := c.port
  let n := x.outSize
  let whole := decide (x.out.length = n)
  if x.cmd = 0x03 ∧ portKind p ≠ some .gpio then
    let op := (x.out.headD 0).toNat
    let ok := match portKind p with
      | some .t1s => op == 1 || op == 2 || op == 3
      | some .can => op == 1 || op == 3
      | some .uart => op == 3 || op == 4
      | some .spi => op == 5
      | some .i2c => op == 1 || op == 6
      | some .eth => op == 3 || op == 7
      | _ => false
    if ok || !whole then none else some stBadParam
  else match portKind p with
    | some .t1s | some .eth => if s.maxPayload p x.param < n then some stBadParam else none
    | some .can => if more || !whole || s.canRecsOk p x.out (n + 1) then none else some stBadParam
    | some .spi => if 4096 < n then some stBadParam else none
    | some .i2c => if x.cmd = 0x0F ∧ !more ∧ n < bitsOf x.param 24 8 then some stBadParam else none
    | _ => none

/-! ### Input: storing what was received (R145, R149, R151, R294) -/

/-- How the storing of received bytes ends. -/
inductive Stored where
  | ok (s : State)
  | wait (s : State) (rest : List Byte)
  | bad (code : BitVec 16)

/-- The next piece of an input lies in host memory, and the module takes no write now (R63, R64, R85). -/
def State.storeWaits (s : State) (ch : Nat) : Bool :=
  match (s.chan ch).xfer.pieces with
  | pc :: _ => pc.1 != skipAddr && isHostPiece pc && s.hostWaits (s.chModule ch)
  | [] => false

/-- Received bytes are stored into the pieces in order, or discarded under SK (R68, R140, R141, R149). With NEW the previous chain is
freed before the first cell is taken; where no byte is received the spec does not say whether it is freed, and here it stays (log 100). -/
def State.storeIn (s : State) (ch : Nat) (l : List Byte) : Nat → Stored
  | 0 => .ok s
  | fuel + 1 =>
    if l.isEmpty then .ok s else
    let c := s.chan ch
    match c.xfer.pieces with
    | [] => .ok s
    | (a, len) :: r =>
      if len = 0 then (s.updChan ch fun c => { c with xfer := { c.xfer with pieces := r, off := 0 } }).storeIn ch l fuel else
      let m := min len l.length
      let adv (s : State) (by_ : Nat) : State := s.updChan ch fun c =>
        { c with xfer := { c.xfer with pieces := (a + BitVec.ofNat 64 by_, len - m) :: r, off := c.xfer.off + m } }
      if a = skipAddr then (s.updChan ch fun c => { c with xfer := { c.xfer with pieces := (a, len - m) :: r } }).storeIn ch (l.drop m) fuel else
      match spaceOf a with
      | 0 =>
        if s.hostWaits (s.chModule ch) then .wait s l
        else (adv (s.writeHost (s.chModule ch) (.data ch) (bitsOf a 0 62) (l.take m) (c.xfer.cmd == 0x02) (m + 1)) m).storeIn ch (l.drop m) fuel
      | 2 =>
        if s.lsegRetired ch (bitsOf a 0 16) m then .bad stEcc
        else (adv (s.store (c.lsegAddr (bitsOf a 0 16)) (l.take m)) m).storeIn ch (l.drop m) fuel
      | _ =>
        if bitOf a 15 || (bitOf a 16 && c.xfer.newDone) then
          let s0 := if c.xfer.newDone then s else (s.freeChChain ch).updChan ch fun c => { c with xfer := { c.xfer with newDone := true } }
          match s0.tailRoom ch with
          | .error e => .bad (chainCode e)
          | .ok room =>
            let n := min m room
            match s0.chainAppend ch c.wcls (l.take n) with
            | none => .wait s0 l
            | some s1 =>
              (s1.updChan ch fun c => { c with xfer := { c.xfer with pieces := (a, len - n) :: r, off := c.xfer.off + n } }).storeIn ch (l.drop n) fuel
        else match c.pieceHead a with
          | none => .bad stHawkExhausted
          | some h =>
            match s.chainWrite h c.xfer.off (l.take m) (m + 1) with
            | .error e => .bad (chainCode e)
            | .ok s1 => (adv s1 0).storeIn ch (l.drop m) fuel

/-- The bits of a data CCW that has ended without SL end the program (R150). -/
def lengthCode (bits : Nat) : Option (BitVec 16) :=
  if Nat.testBit bits 2 then some stNack else if Nat.testBit bits 3 then some stNoResponse
  else if Nat.testBit bits 0 || Nat.testBit bits 1 then some stLength else none

end Sys2Proof.Machine
end

