-- ==== Sys2Proof/Machine/ChanXfer.lean ====
section
/-! DEFINITION. Data transfers of a channel: beginning a data CCW, output, input and its delivery, the ends of units,
and going on after a park (R143 to R153, R163, R182, R183, R217 to R219, R345 to R356, R508). -/

namespace Sys2Proof.Machine
open Sys2Proof

/-- CD of the CCW at CCWA. -/
def Chan.chained (c : Chan) : Bool :=
  match c.heldCcw with
  | none => false
  | some w => ccwCd w

/-- A change of a channel's transfer. -/
def State.updXfer (s : State) (ch : Nat) (f : Xfer → Xfer) : State := s.updChan ch fun c => { c with xfer := f c.xfer }

/-- A channel leaves the list of READs that wait on a port (R351). -/
def State.leaveReaders (s : State) (p ch : Nat) : State :=
  s.updPort p fun q =>
    let l := q.readers.filter fun c => c != ch
    { q with readers := l, beaconHeld := q.beaconHeld && !l.isEmpty }

/-! ### The end of a data CCW -/

/-- The DONE mark, made once for the output part of a transfer (R176). -/
def State.doneOnce (s : State) (ch residual : Nat) : State :=
  if (s.chan ch).xfer.outDone then s else (s.doneEffect ch residual).updXfer ch fun x => { x with outDone := true }

/-- A data CCW is complete, with its condition bits: they end the program unless SL suppresses them; an effect is DONE
at the end of its chain (R150, R152, R164, R176). -/
def State.endData (s : State) (ch bits : Nat) : State :=
  let c := s.chan ch
  let all := c.xfer.cond ||| c.xfer.bits ||| bits
  let s1 := ((s.leaveReaders c.port ch).replaceCond ch all).updXfer ch fun x => { x with cond := all, bits := 0 }
  match if c.xfer.slHere then none else lengthCode (c.xfer.bits ||| bits) with
  | some code => (s1.doneOnce ch c.remain).failAt ch code (if code = stLength then 0 else c.detail)
  | none => if c.chained then s1.goOn ch else ((s1.doneOnce ch c.remain).portion ch).goOn ch

/-! ### SIGNAL messages (R161, R304, R307, R481, R482) -/

/-- A SIGNAL ends: its condition bits replace [7:0], and end the program with a code unless SL suppresses them (R150, R152). -/
def State.endSignal (s : State) (ch bits : Nat) (code : BitVec 16) (detail : Nat) : State :=
  let c := s.chan ch
  let s1 := (s.replaceCond ch bits).updXfer ch fun x => { x with phase := .none, kmdSeq := none }
  if bits ≠ 0 && !c.xfer.sl then s1.endProgram ch code c.remain detail else s1.goOn ch

/-- A message to a mailbox of this die: its cell is charged to the channel's class; a full mailbox and one with EN = 0 refuse it
and the cell is freed (R161, R304, R307). -/
def State.sendLocal (s : State) (ch : Nat) : State :=
  let c := s.chan ch
  let mb := bitsOf c.xfer.param 0 8
  let m := 0x80 + s.seqOf ch
  match s.grantProducer (s.seqOf ch) (homeSlice m) c.wcls (.mbx mb) with
  | none => (s.updXfer ch fun x => { x with phase := .cells }).waitGrant ch c.wcls
  | some (k, s1) =>
    if !(s1.mbx mb).en || (s1.mbx mb).full then ((s1.freeOne k).mbxRefused mb).endSignal ch 4 stMbxFull 0
    else
      ((s1.store (cellAddr k) c.xfer.out).mbxAccept mb k
        { sender := m, ctx := 0, len := c.xfer.out.length, remote := none, ch := some ch }).endSignal ch 0 stOk 0

/-- The DATA frame of a remote SIGNAL (R477, R481). -/
def State.dataFrame (s : State) (ch : Nat) (seq : Word32) : KmdFrame :=
  let x := (s.chan ch).xfer
  { kmdBlank 1 with dstNode := bitsOf x.param 8 18, dstMbx := bitsOf x.param 0 8, ch, chV := true, role := x.kmdRole, epoch := x.kmdEpoch,
                    seq := seq.toNat, msg := x.out }

/-- The DATA frame is sent where it can be; a broadcast is complete then (R481, R482). -/
def State.sendFrame (s : State) (ch : Nat) (seq : Word32) : State :=
  if s.kmdCan then
    let s1 := s.kmdSend (s.dataFrame ch seq)
    let s2 : State := { s1 with kmd := { s1.kmd with tx := satInc s1.kmd.tx } }
    if bitsOf (s.chan ch).xfer.param 8 18 = kmdBroadcast then (s2.doneOnce ch 0).endSignal ch 0 stOk 0 else s2
  else s

/-- A message to a Komond node: it waits for the gate of its effect, then the frame is sent (R177, R468, R481). -/
def State.sendRemote (s : State) (ch : Nat) : State :=
  let s1 := (s.updXfer ch fun x => { x with phase := .ready }).withMark ch
  let c1 := s1.chan ch
  if c1.st ≠ .active then s1
  else if c1.xfer.gate.isSome then s1.updXfer ch fun x => { x with phase := .gate }
  else
    let seq := s1.kmd.seq + 1
    let p := s1.kmd.peerFor (bitsOf c1.xfer.param 8 18) (bitsOf c1.xfer.param 0 8)
    (({ s1 with kmd := { s1.kmd with seq } } : State).updXfer ch fun x =>
      { x with phase := .node, kmdSeq := some (seq, 0), kmdAt := s.frm.time.toNat, kmdRole := p.role, kmdEpoch := p.epoch }).sendFrame ch seq

/-- The bytes of a SIGNAL's message are in hand. -/
def State.sendMessage (s : State) (ch : Nat) : State :=
  if bitOf (s.chan ch).xfer.param 26 then s.sendRemote ch else s.sendLocal ch

/-- The effect's gate has been opened by an acknowledgement: the unit or the frame is sent, and a routine's first port-window write
goes on (R177, R468). -/
def State.gateOpen (s : State) (ch : Nat) : State :=
  let x := (s.chan ch).xfer
  match x.phase with
  | .gate =>
    let s1 := s.updXfer ch fun x => { x with gate := none, phase := .ready }
    if x.cmd = 0x10 then s1.sendRemote ch else s1.startUnit ch
  | _ => s.updXfer ch fun x => { x with gate := none }

/-! ### Output -/

/-- The data of the present CCW are in hand, or those of its next units: the next CCW of a gathered chain, the local segment, or the unit
(R144, R148, R187). -/
def State.outReady (s : State) (ch : Nat) : State :=
  let c := s.chan ch
  let p := c.port
  let n := c.xfer.out.length
  if c.xfer.cmd = 0x10 then s.sendMessage ch
  else if p = portLocal then
    let off := bitsOf c.xfer.param 16 16 + c.xfer.total
    if s.lsegRetired ch off n then s.failAt ch stEcc 0
    else ((((s.touchCell c.lbase).store (c.lsegAddr off) c.xfer.out).moved ch n).updXfer ch fun x => { x with out := [] }).endData ch 0
  else
    match if c.xfer.units = 0 then s.outBad ch c.chained else none with
    | some code => s.failNow ch code 0
    | none =>
      if c.chained && s.gathers p c.xfer.cmd then s.goOn ch
      else (s.updXfer ch fun x => { x with phase := .ready }).startUnit ch

/-- The pieces up to the next one in host memory are brought in: what lies on the die is in hand at once (R140, R145). -/
def State.takeDie (s : State) (ch : Nat) : Nat → Except (BitVec 16) State
  | 0 => .ok s
  | n + 1 =>
    match (s.chan ch).xfer.pieces with
    | [] => .ok s
    | pc :: r =>
      if pc.2 = 0 then (s.updXfer ch fun x => { x with pieces := r }).takeDie ch n
      else if isHostPiece pc then .ok s
      else match s.readPiece ch pc with
        | .error code => .error code
        | .ok l => (s.updXfer ch fun x => { x with pieces := r, out := x.out ++ l }).takeDie ch n

/-- The output pieces are brought in, a host piece by one read request after the other; their read units have been charged (R66, R145,
R213). A RAW UART brings in more when its characters in hand have left (R345). -/
def State.pull (s : State) (ch : Nat) : State :=
  match s.takeDie ch ((s.chan ch).xfer.pieces.length + 1) with
  | .error code => s.failAt ch code 0
  | .ok s1 =>
    let x := (s1.chan ch).xfer
    match x.pieces with
    | [] => s1.outReady ch
    | pc :: _ => if s1.streams ch && !x.out.isEmpty then s1.outReady ch else s1.askPiece ch pc

/-- An output CCW starts (R144, R145, R155): in a replay it may count as complete (R197); else its data on the die and their length are
judged, its whole cost is charged, and its effect is opened before its first unit (R176, R215, R217). `s0` is the state in which it parks. -/
def State.beginOutput (s s0 : State) (ch : Nat) : State :=
  let c := s.chan ch
  let x := c.xfer
  let more := c.chained
  let opens := x.slot.isNone && x.skip.isNone && c.port != portLocal
  if x.skip.isSome then s.startCcw s0 ch {} fun s => s.skipOut ch more
  else match if opens then s.replayed ch else none with
  | some r => s.startCcw s0 ch {} fun s => (s.beginSkip ch r).skipOut ch more
  | none =>
    match s.takeDie ch (x.pieces.length + 1) with
    | .error code => s.failNow ch code 0
    | .ok s1 =>
      if c.port = portLocal then
        s1.startCcw s0 ch { urdCost (s1.chModule ch) (s1.dataUnits ch) with sbeat := ceilDiv (s1.chan ch).xfer.outSize 32 } fun s => s.pull ch
      else
        match s1.outBad ch more, (if opens then s.canOpen ch else none) with
        | some code, _ => s1.failNow ch code 0
        | none, some .cornice => s0.park ch .cornice false
        | none, some .ledger => s0.park ch .ledger false
        | none, none =>
          let k := s1.outCost ch more
          s1.startCcw s0 ch k.1 fun s =>
            ((if opens then s.openEffect ch x.first x.rs else s).updXfer ch fun x => { x with paid := k.2 }).pull ch

/-- Host data for the output arrive (R187). -/
def State.dataArrive (s : State) (ch : Nat) (a : Word64) (len : Nat) (bytes : List Byte) : State :=
  let c := s.chan ch
  match c.xfer.pieces with
  | pc :: r =>
    if c.xfer.phase = .data ∧ pc.1 = a ∧ c.st = .active then
      (s.updXfer ch fun x =>
        { x with out := x.out ++ bytes.take len, pieces := (a + BitVec.ofNat 64 len, pc.2 - len) :: r }).pull ch
    else s
  | [] => s

/-! ### Input -/

/-- Condition bits of a READ or SENSE that stops (R152). -/
def Xfer.inBits (x : Xfer) : Nat := b2n (decide (0 < x.left)) + 128 * b2n (x.total == 0)

/-- READ data that stand on the die: the local segment, or the sense block (R144, R367). -/
def State.dieBytes (s : State) (ch : Nat) : List Byte :=
  let c := s.chan ch
  if c.xfer.cmd = 0x04 then ((s.senseBlock c.port).drop c.xfer.total).take c.xfer.left
  else s.bytesAt (c.lsegAddr (bitsOf c.xfer.param 16 16 + c.xfer.total)) c.xfer.left

/-- The READ on a paced T1S port that is served next has the budget for its unit, or parks (R349). -/
def State.pace (s : State) (p : Nat) : State :=
  match (s.port p).readers with
  | [] => s
  | ch :: _ =>
    if portKind p = some .t1s && s.isPaced p && (s.chan ch).xfer.phase = .input && (s.chan ch).st = .active then
      let s1 := (s.updXfer ch fun x => { x with phase := .ready }).startUnit ch
      s1.updPort p fun q => { q with beaconHeld := (s1.chan ch).parked }
    else s

/-- A READ waits on its port (R351). -/
def State.joinReaders (s : State) (ch : Nat) : State :=
  let p := (s.chan ch).port
  ((s.updPort p fun q => if q.readers.contains ch then q else { q with readers := q.readers ++ [ch] }).updXfer ch fun x =>
    { x with phase := .input }).pace p

/-- A GPIO line in CAPTURE mode (R355). -/
def State.isCapture (s : State) (p node : Nat) : Bool := decide (portKind p = some .gpio) && s.lineMode p node == 3

/-- The input of a READ is waited for on its port, and not started: a buffered or a T1S one, and captured edges (R348, R349, R355). -/
def State.waitsInput (s : State) (ch : Nat) : Bool :=
  let c := s.chan ch
  s.isBuffered c.port || decide (portKind c.port = some .t1s) || s.isCapture c.port c.node

/-- The next input of a READ: buffered units and captured edges are waited for, a paced unit is started (R348, R349,
R355). -/
def State.startInput (s : State) (ch : Nat) : State :=
  if s.waitsInput ch then s.joinReaders ch
  else (s.updXfer ch fun x => { x with phase := .ready }).startUnit ch

/-- Received bytes are stored into the transfer, what is left over goes to the next CCW of its chain or is dropped with
LONG; then the CCW ends or waits for more. Bytes that find no Hawk cell wait, and so do those for host memory while the module takes no
write (R63, R85, R148, R152, R163, R300). -/
def State.deliver (s : State) (ch : Nat) (l : List Byte) : State :=
  let c := s.chan ch
  let buf := c.xfer.hold ++ l
  let now := buf.take c.xfer.left
  let rest := buf.drop c.xfer.left
  match s.storeIn ch now (now.length + c.xfer.pieces.length + 1) with
  | .bad code => s.failAt ch code 0
  | .wait s1 r =>
    let s2 := (s1.movedOn ch (now.length - r.length)).updXfer ch fun x => { x with hold := r ++ rest, phase := .cells }
    if s1.storeWaits ch then s2.updXfer ch fun x => { x with phase := .host } else s2.waitGrant ch c.wcls
  | .ok s1 =>
    let s2 := (s1.moved ch now.length).updXfer ch fun x =>
      { x with hold := if c.chained then rest else [], retries := 0,
               bits := if !c.chained && !rest.isEmpty then x.bits ||| 2 else x.bits }
    let x := (s2.chan ch).xfer
    if x.left = 0 ∨ x.ended then s2.endData ch x.inBits else s2.startInput ch

/-- A READ or SENSE CCW starts or goes on in its next CCW (R148): what stands on the die is stored at once (R144, R367), then what is held
of the last unit, and nothing where the transfer has ended; a paced unit is paid for with the CCW (R215). -/
def State.beginInput (s s0 : State) (ch : Nat) : State :=
  let c := s.chan ch
  let p := c.port
  if p = portLocal ∨ c.xfer.cmd = 0x04 then
    let l := s.dieBytes ch
    if p = portLocal && s.lsegRetired ch (bitsOf c.xfer.param 16 16 + c.xfer.total) l.length then s.failNow ch stEcc 0
    else s.startCcw s0 ch { sbeat := ceilDiv l.length 32 } fun s => (s.updXfer ch fun x => { x with ended := true }).deliver ch l
  else if c.xfer.ended then s.startCcw s0 ch {} fun s => s.endData ch 0
  else if !c.xfer.hold.isEmpty then s.startCcw s0 ch {} fun s => s.deliver ch []
  else if portKind p = some .spi ∧ 4096 < c.xfer.size then s.failNow ch stBadParam 0
  else if c.chained && s.gathers p 0x02 then s.startCcw s0 ch {} fun s => s.goOn ch
  else if s.waitsInput ch then s.startCcw s0 ch {} fun s => s.startInput ch
  else s.startCcw s0 ch (unitCost p (s.unitOf ch 0)) fun s => (s.updXfer ch fun x => { x with paid := true }).startInput ch

/-- What a response of `got` bytes against `want` sets (R152). -/
def lenBits (got want : Nat) : Nat := b2n (decide (got < want)) + 2 * b2n (decide (want < got)) + 128 * b2n (got == 0)

/-- What is held of an EXCH's response is stored; bytes for host memory wait while the module takes no write (R63, R85). -/
def State.replyOn (s : State) (ch : Nat) : State :=
  let x := (s.chan ch).xfer
  match s.storeIn ch x.hold (x.hold.length + x.pieces.length + 1) with
  | .bad code => s.failAt ch code 0
  | .wait s1 r => s1.updXfer ch fun x => { x with hold := r, phase := .host }
  | .ok s1 => (s1.updXfer ch fun x => { x with hold := [] }).endData ch 0

/-- The response of an EXCH is stored into its bytes from their start, or discarded with SK (R145, R149, R354). -/
def State.storeReply (s : State) (ch : Nat) (l : List Byte) : State :=
  (s.updXfer ch fun x =>
    { x with pieces := x.dest, off := 0, hold := l.take x.size, bits := x.bits ||| lenBits l.length x.size }).replyOn ch

/-! ### Beginning a data CCW -/

/-- The command, or the line or port mode, allows the CCW (R343, R353, R355, log 20). -/
def State.cmdAllowed (s : State) (p c node : Nat) : Bool :=
  match portKind p with
  | some .t1s | some .eth => c != 0x0F
  | some .can => c != 0x0F && !(c == 0x01 && bitOf (s.pcfg p 0x108) 2)
  | some .uart => c != 0x0F || s.isModbus p
  | some .spi => bitOf (s.pcfg p (0x100 + 4 * node)) 27
  | some .i2c => true
  | some .gpio => c == 0x02 || c == 0x04 || (c == 0x03 && s.lineMode p node != 0 && s.lineMode p node != 3)
  | some .adc => (c == 0x02 || c == 0x04) && bitOf (s.pcfg p (0x100 + 4 * node)) 0
  | none => false

/-- The checks 2 to 5 of R508: the code and DETAIL of the first that fails. -/
def State.portJudge (s : State) (p c node : Nat) : Option (BitVec 16 × Nat) :=
  let q := s.port p
  if q.st = 4 then some (stOutOfService, portDetail p)
  else if q.st = 0 || !(s.cmdAllowed p c node) then some (stPortMode, portDetail p)
  else if q.st = 2 || q.st = 3 then some (if q.st = 2 && q.cause = 6 then stBusOff else stSegmentFault, portDetail p)
  else if s.isQuar p node then some (stQuarantined, nodeDetail p node) else none

/-- COUNT is one that R355, R356 and R509 allow. -/
def State.countOk (s : State) (p c node count : Nat) : Bool :=
  match portKind p with
  | some .gpio =>
    match c, s.lineMode p node with
    | 0x03, 1 => count == 1
    | 0x03, 2 => count == 2
    | 0x03, _ => count == 4
    | 0x02, 3 => count % 8 == 0
    | 0x02, 5 => count == 4
    | 0x02, _ => count == 2
    | _, _ => true
  | some .adc => c != 0x02 || count % 2 == 0
  | _ => c != 0x03 || count == 1

/-- The pieces of a data CCW are known: none may reach beyond the local segment; an output is brought in, an input begins
(R143, R145). The response of an EXCH goes where its data came from, or under SK nowhere (R149). -/
def State.havePieces (s s0 : State) (ch : Nat) (sk : Bool) (ps : List (Word64 × Nat)) : State :=
  let c := s.chan ch
  let input := c.xfer.cmd == 0x02 || c.xfer.cmd == 0x04
  if ps.any c.lsegBad then s.failNow ch stLsegLimit 0
  else
    let s1 := s.updChan ch fun c => ({ c with xfer := { c.xfer with
      phase := .none, listBuf := [], spans := c.xfer.spans ++ ps, pieces := (c.xfer.pieces.filter fun e => e.2 ≠ 0) ++ ps,
      off := if ((c.xfer.pieces.headD (0, 0)).2 = 0 : Bool) then 0 else c.xfer.off,
      dest := c.xfer.dest ++ if sk then ps.map fun e => (skipAddr, e.2) else ps } } : Chan).showData
    if input then s1.beginInput s0 ch else s1.beginOutput s0 ch

/-- The bytes that the entries of an indirect list cover, and whether one of them is not valid (R151). -/
def listLook (isNew : Bool) (l : List (BitVec 128)) : Nat × Bool :=
  (l.foldl (fun n e => n + (if bitsOf e 64 16 = 0 then 65536 else bitsOf e 64 16)) 0,
   l.any fun e => bitsOf e 80 48 ≠ 0 || spaceOf (BitVec.ofNat 64 (bitsOf e 0 64)) == 3 || !(addrOk (BitVec.ofNat 64 (bitsOf e 0 64)) isNew))

/-- NEW is allowed in the entries of the transfer's lists (R141, R151). -/
def Xfer.takesNew (x : Xfer) : Bool := x.cmd == 0x02 || x.cmd == 0x04

/-- The list bytes in hand make the pieces, or more of the list is read: one read unit, to the next 64 B boundary
(R151, R213, log 21). -/
def State.listStep (s : State) (ch : Nat) : State :=
  let c := s.chan ch
  match c.heldCcw with
  | none => s
  | some w =>
    let l := words128 c.xfer.listBuf c.xfer.listBuf.length
    let look := listLook c.xfer.takesNew l
    if ccwCount w ≤ look.1 ∨ look.2 ∨ 256 ≤ l.length then
      match idalPieces c.xfer.takesNew (l.take 256) (ccwCount w) 257 with
      | none => s.failNow ch stBadIdal 0
      | some ps => s.havePieces (s.updXfer ch fun x => { x with phase := .list }) ch (ccwSk w) ps
    else
      let a := ccwAddr w + BitVec.ofNat 64 (16 * l.length)
      let n := 64 - bitsOf a 0 6
      let k := urdCost (s.chModule ch) 1
      let s1 := s.updXfer ch fun x => { x with phase := .list }
      if s.unfitCh ch k then s.failNow ch stBudgetUnfit 0
      else if s.fitsCh ch k then (s1.chargeCh ch k).askRead (s.chModule ch) { req := .list ch a, tags := 1, units := ceilDiv n 64, guar := s.isGuar ch }
      else s1.park ch .budget true

/-- List bytes arrive (R151). -/
def State.listArrive (s : State) (ch : Nat) (a : Word64) (bytes : List Byte) : State :=
  let c := s.chan ch
  if c.xfer.phase = .list ∧ c.st = .active then
    (s.updXfer ch fun x => { x with listBuf := x.listBuf ++ bytes.take (64 - bitsOf a 0 6) }).listStep ch
  else s

/-- Bytes of the list from a local address to the end of the local segment, at most 256 entries. -/
def State.localList (s : State) (ch : Nat) (a : Word64) : List Byte :=
  let c := s.chan ch
  s.bytesAt (c.lsegAddr (bitsOf a 0 16)) (min 4096 (c.lsegBytes - bitsOf a 0 16))

/-- An indirect data list in the local segment: a list whose entries reach beyond it fails with LSEG_LIMIT (R143, R151). -/
def State.localIdal (s s0 : State) (ch : Nat) (w : BitVec 128) : State :=
  let c := s.chan ch
  let b := s.localList ch (ccwAddr w)
  let l := words128 b b.length
  match idalPieces c.xfer.takesNew l (ccwCount w) 257 with
  | some ps =>
    if s.lsegRetired ch (bitsOf (ccwAddr w) 0 16) (16 * ps.length) then s.failNow ch stEcc 0 else s.havePieces s0 ch (ccwSk w) ps
  | none =>
    let look := listLook c.xfer.takesNew l
    s.failNow ch (if !look.2 && decide (look.1 < ccwCount w) && decide (l.length < 256) then stLsegLimit else stBadIdal) 0

/-- The transfer of a data CCW: a new one, or the chain's with the CCW added (R148). -/
def Chan.beginXfer (c : Chan) (w : BitVec 128) : Xfer :=
  let base : Xfer := if c.inChain then c.xfer
    else { cmd := ccwCmd w, param := ccwParam w, first := c.ccwa, rs := ccwRs w, pi := c.xfer.pi }
  { base with sl := ccwSl w, bits := 0, phase := .none, listBuf := [], parts := base.parts ++ [(c.ccwa, ccwCount w)], sls := base.sls ++ [ccwSl w] }

/-- The data of a CCW are laid out: an indirect list, input that SK discards, or the one piece it names (R140, R149, R151). -/
def State.layOut (s s0 : State) (ch : Nat) (w : BitVec 128) : State :=
  if ccwId w then (if spaceOf (ccwAddr w) = 2 then s.localIdal s0 ch w else s.listStep ch)
  else s.havePieces s0 ch (ccwSk w) [(if ccwSk w && (s.chan ch).xfer.takesNew then skipAddr else ccwAddr w, ccwCount w)]

/-- A data CCW begins: the port and COUNT are judged, and its data are laid out (R143 to R151, R508); a port CCW is the most recent one of
the program (R269). -/
def State.beginData (s : State) (ch : Nat) (w : BitVec 128) : State :=
  let c := s.chan ch
  let x := c.beginXfer w
  let p := bitsOf x.param 0 8
  let node := argNode p x.param
  let s1 := s.updChan ch fun c => { c with xfer := x, lastPort := some p }
  if p = portLocal then
    if c.lsegBytes < bitsOf x.param 16 16 + x.size then s1.failNow ch stLsegLimit 0 else s1.layOut s ch w
  else
    match if c.inChain then none else s.portJudge p x.cmd node with
    | some (code, detail) => s1.failNow ch code detail
    | none => if !(s.countOk p x.cmd node (ccwCount w)) then s1.failNow ch stLength 0 else s1.layOut s ch w

/-! ### Delivery of buffered units (R348, R351) -/

/-- A READ would take a unit: its node, or every node (R351). -/
def State.takes (s : State) (ch : Nat) (u : RxUnit) (all : Bool) : Bool :=
  let c := s.chan ch
  if all then c.node == 0xFF || decide (portKind c.port = some .uart)
  else match u.node with
    | some n => c.node == n
    | none => false

/-- The READ that takes a unit: the oldest of its own node, else the oldest of node 0xFF (R351). An ETH READ names a node
table entry, and 0xFF is outside its range, so only READs of the node take its frames. -/
def State.takerOf (s : State) (p : Nat) (u : RxUnit) : Option Nat :=
  match (s.port p).readers.find? fun ch => s.takes ch u false with
  | some ch => some ch
  | none => (s.port p).readers.find? fun ch => s.takes ch u true

/-- The first buffered unit that a READ takes which is not parked. -/
def State.nextDelivery (s : State) (p : Nat) : List RxUnit → List RxUnit → Option (Nat × RxUnit × List RxUnit)
  | _, [] => none
  | pre, u :: r =>
    match s.takerOf p u with
    | some ch => if (s.chan ch).st = .active && ((s.chan ch).xfer.phase = .input || (s.chan ch).xfer.phase = .wire) then some (ch, u, pre ++ r)
        else s.nextDelivery p (pre ++ [u]) r
    | none => s.nextDelivery p (pre ++ [u]) r

/-- The cells of a unit go back to the pool. -/
def State.freeUnit (s : State) (u : RxUnit) : State := s.freeCells u.cells

/-- Buffered units are delivered to the READs that wait, each charged at its delivery (R348, R351); a unit with a retired cell ends the READ
with ECC_UNCORRECTABLE (R507). -/
def State.deliverPort (s : State) (p : Nat) : Nat → State
  | 0 => s
  | n + 1 =>
    match s.nextDelivery p [] (s.port p).buf with
    | none => s
    | some (ch, u, rest) =>
      let c := s.chan ch
      let paid := c.xfer.phase == .wire
      let t := if portKind p = some .t1s && s.isPaced p then s.maxInput p c.node 0 else u.cost
      let k : Cost := if paid then {} else
        { sbeat := ceilDiv u.bytes.length 32, bus := if s.isCapture p c.node then none else some (p, t), disp := b2n c.xfer.owesSlot }
      if s.unfitCh ch k then s.failAt ch stBudgetUnfit 0
      else if s.fitsCh ch k then
        let lost := u.cells.any s.retiredCell
        let s1 := ((s.chargeCh ch k).updPort p fun q => { q with buf := rest }).freeUnit u
        (if lost then s1.failAt ch stEcc 0
         else (s1.updXfer ch fun x => { x with ended := x.ended || (u.last && decide (x.left < u.bytes.length)), owesSlot := false }).deliver ch u.bytes).deliverPort p n
      else if 0 < c.xfer.units then
        let noBus := s.fitsNoBus c.wcls (tileOfCh ch) k
        (s.portion ch).park ch (if noBus then .portion else .budget) (!noBus)
      else s.park ch .budget true

/-- Whatever a port can deliver now, it delivers. -/
def State.pumpPort (s : State) (p : Nat) : State :=
  if s.hold || s.die ≠ .ready then s else (s.deliverPort p (s.port p).buf.length).pace p

/-! ### Going on after a park (R213, R217 to R219) -/

/-- A channel goes on from where it parked: a parked data CCW takes another dispatch slot with its next unit (R213, R215). -/
def State.resumeCh (s : State) (ch : Nat) : State :=
  let c := s.chan ch
  if c.st ≠ .active then s else
  match c.xfer.phase with
  | .none => if c.fetched then s else s.reach ch
  | .list => s.listStep ch
  | .ready => if c.xfer.cmd = 0x10 then s.sendRemote ch else s.startUnit ch
  | .input => s.pumpPort c.port
  | _ => s

/-- A parked channel is released and goes on (R218). -/
def State.release (s : State) (ch : Nat) : State := if (s.chan ch).parked then (s.unpark ch).resumeCh ch else s

/-- Channels that wait for a context, a ledger entry or a Cornice core go on without a tick: GUARANTEED ones first, then in the order in
which they parked (R220). -/
def State.releaseFor (s : State) (p : ParkWhy → Bool) : State := s.each (s.waitList p) fun s ch => s.release ch

/-- A waiting request is looked at: one that is still refused keeps its place and its age; a channel that was granted some of the cells it
needs asks anew for the rest (R300). -/
def State.tryGrant (s : State) (ch : Nat) : State :=
  let s1 := if (s.chan ch).xfer.cmd = 0x10 then s.sendLocal ch else s.deliver ch []
  let more := (s1.chan ch).st = .active && (s1.chan ch).xfer.phase = .cells
  if more && (s1.chan ch).xfer.hold.length = (s.chan ch).xfer.hold.length then s1
  else if more then (s1.unwaitGrant ch).waitGrant ch (s1.chan ch).wcls else s1.unwaitGrant ch

/-- Grant requests that can now be served are served, each once, by rank and then oldest first (R300). -/
def State.serveGrants (s : State) (tried : List Nat) : Nat → State
  | 0 => s
  | n + 1 =>
    match bestWait s (s.hawk.waits.filter fun w => s.grantOk w.acct && !tried.contains w.ch) with
    | none => s
    | some w => (s.tryGrant w.ch).serveGrants (w.ch :: tried) n

/-- Every waiting request, and every channel that waits for a ledger entry or an MRAM slot, is looked at again after cells and entries
were freed (R220, R300). -/
def State.served (s : State) : State :=
  let s1 := s.serveGrants [] s.hawk.waits.length
  s1.each ((s1.waitList (· == .ledger)).filter fun ch => s1.canOpen ch != some .ledger) fun s ch => s.release ch

/-! ### Events and waits (R159) -/

/-- The lowest bit of a matching set. -/
def lowestBit (n : Nat) : Nat := ((List.range 16).find? fun i => Nat.testBit n i).getD 0

/-- A WAITE takes the lowest pending bit in its mask (R159). -/
def State.takeEvent (s : State) (ch : Nat) (mask : BitVec 16) : State :=
  let b := lowestBit ((s.chan ch).pend &&& mask).toNat
  (s.updChan ch fun c => { c with pend := c.pend &&& ~~~(BitVec.ofNat 16 (2 ^ b)) }).replaceCond ch 32

/-- A wait ends and the program goes on at the CCW after it, its new anchor (R138, R159, R197); its interim record may have to wait (R63). -/
def State.endWait (s : State) (ch : Nat) : State :=
  let c := s.chan ch
  let s0 := s.goChan ch fun c => { c with st := .active, due := none, mask := 0, parked := false }
  if c.xfer.pi && s.interimWaits ch then s0.updXfer ch fun x => { x with phase := .hostWait } else
  let s1 := if c.xfer.pi then s0.interim ch false c.ccwa c.remain 0 else s0
  let s2 := s1.updXfer ch fun _ => {}
  if c.xfer.cc then (s2.goChan ch fun c => { c with ccwa := c.ccwa + 16, fetched := false }).newAnchor ch |>.reach ch
  else (s2.newAnchor ch).endProgram ch stOk c.remain 0

/-- Events of a channel are set, and a WAITE that waits for one takes it (R159). -/
def State.setEvents (s : State) (ch : Nat) (bits : BitVec 16) : State :=
  let s1 := s.goChan ch fun c => { c with pend := c.pend ||| bits }
  let c := s1.chan ch
  if c.st = .waitEvent ∧ c.pend &&& c.mask ≠ 0 then (s1.takeEvent ch c.mask).endWait ch else s1

end Sys2Proof.Machine
end

