-- ==== Sys2Proof/Machine/Channels.lean ====
section
/-! DEFINITION. The meanings of the channel-program rows: dispatch, blocks, the command words, waits, units and their
ends (R138, R145 to R163, R182, R183, R352 to R356, R509). -/

namespace Sys2Proof.Machine
open Sys2Proof

/-! ### Dispatch and blocks -/

/-- A channel of a class has been released from a park in a tile and has not been dispatched since (R218). -/
def State.releasedIn (s : State) (tile cls : Nat) : Bool :=
  s.chans.any fun e => e.2.released && e.2.st = .active && tileOfCh e.1 == tile && e.2.wcls == cls

/-- The START_PENDING channels of a tile that may be dispatched: not before a released channel of their class (R218). -/
def State.startable (s : State) (tile : Nat) : List Nat :=
  (s.chans.filter fun e => e.2.st = .startPending && e.2.began.isSome && tileOfCh e.1 == tile && !(s.releasedIn tile e.2.wcls)).map (·.1)

/-- DISPATCH: the START_PENDING channel whose turn it is in its tile becomes ACTIVE, which is a new anchor (R138, R197, R212). It takes its
slot with its first CCW, and parks at once where the class has none left (R213, R217). -/
def State.dispatchCh (s : State) (ch : Nat) : State :=
  if !s.arbiterOn then s else
  match s.pickTurn (s.turns.get {} (tileOfCh ch)) (s.startable (tileOfCh ch)) with
  | none => s
  | some (d, t) =>
    if d ≠ ch then s
    else if s.unfitCh ch { disp := 1 } then s.failAt ch stBudgetUnfit 0
    else
      let s1 := (({ s with turns := s.turns.set (tileOfCh ch) t } : State).goChan ch fun c => { c with st := .active }).newAnchor ch
      if s.fitsCh ch { disp := 1 } then s1.reach ch else s1.park ch .budget true

/-- DISPATCH (R138). -/
def execDispatch (ch : Nat) (s : State) : Host.Outcome State Fault Refusal := .next (s.dispatchCh ch).served

/-- A read of a channel's discarded data comes back: only its tag is freed. -/
def State.endStale (s : State) (ch : Nat) : State :=
  match s.endReadAny (fun r => r = .stale ch) with
  | none => s
  | some (_, s1) => s1

/-- A CCW block arrives and is held; a channel that waits for it reaches its CCW (R146, R154). -/
def State.blockArrive (s : State) (ch : Nat) (words : List (BitVec 128)) : State :=
  match s.endReadAny (fun r => match r with
    | .ccw c _ => c == ch
    | _ => false) with
  | none => s.endStale ch
  | some (r, s1) =>
    match r.req with
    | .ccw _ a =>
      let s2 := s1.updChan ch fun c => { c with blocks := (c.blocks.filter fun b => b.1 = blockOf c.ccwa && b.1 ≠ a) ++ [(a, words)] }
      let c := s2.chan ch
      if c.st = .active ∧ c.fetched = false ∧ c.xfer.phase = .none ∧ blockOf c.ccwa = a then s2.reach ch else s2
    | _ => s1

/-- CCW_BLOCK_ARRIVE (R154). -/
def execCcwBlockArrive (ch : Nat) (words : List (BitVec 128)) (s : State) : Host.Outcome State Fault Refusal :=
  .next (s.blockArrive ch words).served

/-- DATA_READ_COMPLETE (R66, R151, R187): host data for an output, or a part of an indirect data list. -/
def State.dataComplete (s : State) (ch : Nat) (bytes : List Byte) : State :=
  match s.endReadAny (fun r => match r with
    | .data c _ _ => c == ch
    | .list c _ => c == ch
    | _ => false) with
  | none => s.endStale ch
  | some (r, s1) =>
    match r.req with
    | .data _ a n => s1.dataArrive ch a n bytes
    | .list _ a => s1.listArrive ch a bytes
    | _ => s1

/-- DATA_READ_COMPLETE (R187). -/
def execDataReadComplete (ch : Nat) (bytes : List Byte) (s : State) : Host.Outcome State Fault Refusal :=
  .next (s.dataComplete ch bytes).served

/-! ### Data CCWs -/

/-- WRITE (R145). -/
def execWrite (ch : Nat) (s : State) : Host.Outcome State Fault Refusal := .next (s.onDue ch 0x01 fun s w => s.beginData ch w).served
/-- READ (R145). -/
def execRead (ch : Nat) (s : State) : Host.Outcome State Fault Refusal :=
  .next (s.onDue ch 0x02 fun s w => let s1 := s.beginData ch w; s1.pumpPort (s1.chan ch).port).served
/-- CONTROL (R145). -/
def execControl (ch : Nat) (s : State) : Host.Outcome State Fault Refusal := .next (s.onDue ch 0x03 fun s w => s.beginData ch w).served
/-- SENSE (R145, R367). -/
def execSense (ch : Nat) (s : State) : Host.Outcome State Fault Refusal := .next (s.onDue ch 0x04 fun s w => s.beginData ch w).served
/-- EXCH (R145). -/
def execExch (ch : Nat) (s : State) : Host.Outcome State Fault Refusal := .next (s.onDue ch 0x0F fun s w => s.beginData ch w).served

/-! ### Flow -/

/-- JUMP (R156): the 17th in a frame ends the program; blocks are discarded when it leaves the block (R154). -/
def State.doJump (s : State) (ch : Nat) (w : BitVec 128) : State :=
  let c := s.chan ch
  let a : Word64 := BitVec.ofNat 64 (bitsOf (ccwAddr w) 0 62)
  if 16 ≤ c.jumps then s.fail ch stJumpLimit
  else
    let s1 := s.goChan ch fun c => { c with jumps := c.jumps + 1 }
    let s2 := if blockOf a = blockOf c.ccwa then s1 else s1.dropBlocks ch
    (s2.updChan ch fun c => { c with afterJump := true }).goTo ch a

/-- JUMP (R156). -/
def execJump (ch : Nat) (s : State) : Host.Outcome State Fault Refusal := .next (s.onCcw ch 0x08 fun s w => s.doJump ch w).served
/-- NOP as a command word (R145). -/
def execCcwNop (ch : Nat) (s : State) : Host.Outcome State Fault Refusal := .next (s.onCcw ch 0x09 fun s _ => s.goOn ch).served

/-- A wait begins: the flags its end needs are kept and the blocks discarded (R154). -/
def State.beginWait (s : State) (ch : Nat) (w : BitVec 128) (st : CState) (due : Option Nat) (mask : BitVec 16) : State :=
  ((s.updXfer ch fun _ => { pi := ccwPi w, cc := ccwCc w }).dropBlocks ch).goChan ch fun c => { c with st, due, mask, parked := false }

/-- WAITF (R145): until the tick that opens frame Fc + N. -/
def execWaitf (ch : Nat) (s : State) : Host.Outcome State Fault Refusal :=
  .next (s.onCcw ch 0x0A fun s w =>
    s.beginWait ch w .waitTick (some (s.frm.frame.toNat + bitsOf (ccwParam w) 0 16)) 0).served

/-- A wait of a channel is due (R145, R159). -/
def Chan.isDue (c : Chan) (frame : Nat) : Bool := match c.due with
  | none => false
  | some n => decide (n ≤ frame)

/-- WAITF_EXPIRY (R138, R145). -/
def execWaitfExpiry (ch : Nat) (s : State) : Host.Outcome State Fault Refusal :=
  .next (let c := s.chan ch
    if c.st = .waitTick && !c.parked && c.isDue s.frm.frame.toNat && s.arbiterOn then (s.endWait ch).served else s)

/-- WAITE (R159). -/
def State.doWaite (s : State) (ch : Nat) (w : BitVec 128) : State :=
  let mask : BitVec 16 := BitVec.ofNat 16 (bitsOf (ccwParam w) 0 16)
  let n := bitsOf (ccwParam w) 16 16
  if (s.chan ch).pend &&& mask ≠ 0 then (s.takeEvent ch mask).goOn ch
  else s.beginWait ch w .waitEvent (if n = 0 then none else some (s.frm.frame.toNat + n)) mask

/-- WAITE (R159). -/
def execWaite (ch : Nat) (s : State) : Host.Outcome State Fault Refusal := .next (s.onCcw ch 0x0B fun s w => s.doWaite ch w).served

/-- WAITE_TIMEOUT (R159): TIMEOUT is set and no bit is taken. -/
def execWaiteTimeout (ch : Nat) (s : State) : Host.Outcome State Fault Refusal :=
  .next (let c := s.chan ch
    if c.st = .waitEvent && c.isDue s.frm.frame.toNat && s.arbiterOn then ((s.replaceCond ch 8).endWait ch).served else s)

/-- POST (R162): an interim record with DETAIL = PARAM; NOP where the interim area is off. While the module takes no write, the channel
waits at it (R63, R85). -/
def State.doPost (s : State) (ch : Nat) (w : BitVec 128) : State :=
  if s.interimWaits ch then s.updXfer ch fun x => { x with phase := .hostPost }
  else ((s.interim ch true (s.chan ch).ccwa (s.chan ch).remain (ccwParam w).toNat).updXfer ch fun x => { x with phase := .none }).goOn ch

/-- POST (R162). -/
def execPost (ch : Nat) (s : State) : Host.Outcome State Fault Refusal := .next (s.onCcw ch 0x0D fun s w => s.doPost ch w).served

/-! ### Going on at host memory (R63, R64, R85) -/

/-- A channel that waits at an access to host memory goes on. -/
def State.hostGo (s : State) (ch : Nat) : State :=
  let c := s.chan ch
  if c.st ≠ .active then s else
  match c.xfer.phase with
  | .host => if c.xfer.cmd = 0x0F then s.replyOn ch else s.deliver ch []
  | .hostPi => s.goOn ch
  | .hostWait => s.endWait ch
  | .hostPost => match c.heldCcw with
    | none => s
    | some w => s.doPost ch w
  | _ => s

/-- The channels that wait at host memory on a module go on. -/
def State.hostResume (s : State) (md : Nat) : State :=
  if s.hostWaits md then s else (s.each ((s.chans.filter fun e => s.chModule e.1 == md).map (·.1)) fun s ch => s.hostGo ch).served

/-- SKIPIF (R157). -/
def State.doSkip (s : State) (ch : Nat) (w : BitVec 128) : State :=
  let c := s.chan ch
  let p := ccwParam w
  let hit := c.cond.toNat &&& bitsOf p 0 16 ≠ 0
  let n := if hit != bitOf p 24 then bitsOf p 16 8 else 0
  (s.updChan ch fun c => { c with xfer := {} }).goTo ch (c.ccwa + BitVec.ofNat 64 (16 * (n + 1)))

/-- SKIPIF (R157). -/
def execSkipif (ch : Nat) (s : State) : Host.Outcome State Fault Refusal := .next (s.onCcw ch 0x0E fun s w => s.doSkip ch w).served

/-- Offset of CH[ch] (R170). -/
def chOff (ch : Nat) : Nat := 0x040000 + ch * 0x40

/-- A write of CH_EVT.PEND by a master (R36, R159, R170). -/
def State.chEvtPend (s : State) (m ch : Nat) (bits : BitVec 16) : State :=
  if rightsOk m (chOff ch) then ((s.setEvents ch bits).cfgMirror (chOff ch + 0x34) 4 bits.toNat).served else s.accFault m

/-- CH_EVT_PEND_WRITE (R159, R170). -/
def execChEvtPendWrite (m ch : Nat) (bits : BitVec 16) (s : State) : Host.Outcome State Fault Refusal :=
  .next (s.access m (chOff ch) fun s => s.chEvtPend m ch bits)

/-! ### The ends of units -/

/-- The unit of a CONTROL is applied to a GPIO line (R355); a level that the table does not name is an open value. -/
def State.gpioApply (s : State) (p l : Nat) (data : List Byte) : State :=
  let v := ofLeBytes data
  let bit : BitVec 16 := BitVec.ofNat 16 (2 ^ l)
  let put (s : State) (on : Bool) : State := s.updPort p fun q => { q with outs := if on then q.outs ||| bit else q.outs &&& ~~~bit }
  match s.lineMode p l with
  | 1 =>
    if v = 0 then put s false else if v = 1 then put s true else if v = 2 then put s (!bitOf (s.port p).outs l)
    else put s.takeWord.2 (bitOf s.takeWord.1 0)
  | 2 => s.updPort p fun q => { q with dutyNext := q.dutyNext.set l (min v 1000) }
  | 4 => s.updPort p fun q => { q with timers := q.timers.set l (BitVec.ofNat 32 v) }
  | _ => s.updPort p fun q => { q with quad := q.quad.set l (BitVec.ofNat 32 v) }

/-- Levels of a GPIO bank: what an output drives, what an input sees (R355). -/
def State.bankLevels (s : State) (p : Nat) : Nat :=
  (List.range 16).foldl (fun n l =>
    let out := s.lineMode p l == 1 || s.lineMode p l == 2 || s.lineMode p l == 4
    n + b2n (bitOf (if out && !(s.port p).safe then (s.port p).outs else (s.port p).levels) l) * 2 ^ l) 0

/-- READ data of a GPIO line (R355). -/
def State.gpioRead (s : State) (p l : Nat) : List Byte :=
  match s.lineMode p l with
  | 2 => leBytes 2 ((s.port p).duty.get 0 l)
  | 5 => leBytes 4 ((s.port p).quad.get 0 l).toNat
  | _ => leBytes 2 (s.bankLevels p)

/-- TIME at the start of frame delimiter of the unit on an ETH wire: 56 bits of preamble after its start (R359). -/
def State.sfdTime (s : State) (p : Nat) : Nat := (s.port p).wireAt + 560 / ethRate (bitsOf (s.pcfg p 0x100) 1 3)

/-- A transmit timestamp asked for enters the queue, the PHY's latency subtracted, or is dropped (R359, ETH_TSLAT). -/
def State.txStamp (s : State) (p ch : Nat) (param : Word32) : State :=
  if portKind p = some .eth ∧ bitOf param 20 then
    if (s.port p).txts.length < 16 then
      (s.updPort p fun q => { q with txts := q.txts ++ [(ch, BitVec.ofNat 64 (s.sfdTime p) - BitVec.ofNat 64 (bitsOf (s.pcfg p 0x10C) 0 16 / 10))] }).portEvt p 7
    else s.rxDrop p
  else s

/-- An output unit has left: it is moved and applied (R163, R174). -/
def State.outLeft (s : State) (ch : Nat) : State :=
  let c := s.chan ch
  let x := c.xfer
  let p := c.port
  let s1 := if portKind p = some .gpio then s.gpioApply p c.node x.out else s.txStamp p ch x.param
  let s2 := match portKind p with
    | some .eth => s1.updPort p fun q => { q with txFrames := q.txFrames + 1 }
    | some .can => s1.updPort p fun q => { q with txErr := q.txErr - 1 }
    | _ => s1
  (s2.moved ch x.unit).updXfer ch fun x => { x with out := if x.cmd = 0x0F then x.out else x.out.drop x.unit }

/-- A RETRY may repeat the unit (R183). -/
def State.mayRepeat (s : State) (ch : Nat) (notTaken : Bool) : Bool :=
  let x := (s.chan ch).xfer
  x.cmd == 0x02 || x.rs || (notTaken && !x.reply)

/-- A violation ends the CCW with a code, its unit counted as moved (R174, R182); a node that is not known is 0xFF_FFFF (log 39). -/
def State.endViol (s : State) (ch : Nat) (code : BitVec 16) (node : Option Nat) : State :=
  let c := s.chan ch
  let s1 := if c.isOut && !c.xfer.reply then s.moved ch c.xfer.unit else s
  s1.failAt ch code (nodeDetail c.port (node.getD 0xFFFFFF))

/-- The unit is repeated (R182). -/
def State.again (s : State) (ch : Nat) : State :=
  (s.updXfer ch fun x => { x with phase := .ready, retries := x.retries + 1, reply := false, bits := x.bits ||| 16 }).startUnit ch

/-- SHORT and ZERO of a CCW that ends with no more received (R152): an input so far, an EXCH of whose reply nothing came; an output
receives nothing and sets neither. -/
def State.recvBits (s : State) (ch : Nat) : Nat :=
  let c := s.chan ch
  if c.xfer.cmd = 0x0F then 1 + 128 else if c.isOut then 0 else c.xfer.inBits

/-- NACK as the response to a violation (R182). -/
def State.violNack (s : State) (ch : Nat) (node : Option Nat) : State :=
  let c := s.chan ch
  if c.xfer.slHere then
    let s1 := if c.isOut && !c.xfer.reply then s.moved ch c.xfer.unit else s
    (s1.updXfer ch fun x => { x with ended := true }).endData ch ((16 + 4) ||| s.recvBits ch)
  else s.endViol ch stViolation node

/-- A violation during a channel's unit is answered; with `k` the unit goes on (R182, R183, R363). -/
def State.answer (s : State) (ch cls : Nat) (node : Option Nat) (notTaken : Bool) (k : State → State) : State :=
  let c := s.chan ch
  let p := c.port
  let (r, s1) := (s.violRecord p cls node).respTo p cls node
  let n := (s1.port p).retryN.toNat
  match r with
  | .ignore => k (s1.updXfer ch fun x => { x with bits := x.bits ||| 16 })
  | .retry =>
    if n = 0 || !(s1.mayRepeat ch notTaken) then s1.violNack ch node
    else if n ≤ c.xfer.retries then s1.endViol ch stRetryExhausted node
    else s1.again ch
  | .nack => s1.violNack ch node
  | r => (s1.respSide p node r).endViol ch stViolation node

/-- The unit of an output is complete: the reply, the next unit or the end (R145, R152, R163). -/
def State.outUnit (s : State) (ch : Nat) (r : UnitResult) : State :=
  let s1 := s.outLeft ch
  let x := (s1.chan ch).xfer
  let p := (s1.chan ch).port
  if r.nack || r.timeout then (s1.updXfer ch fun x => { x with ended := true }).endData ch ((4 * b2n r.nack + 8 * b2n r.timeout) ||| s.recvBits ch)
  else if x.cmd = 0x0F then
    if portKind p = some .uart then ((s1.doneOnce ch 0).updXfer ch fun x => { x with phase := .ready, reply := true }).startUnit ch
    else (s1.doneOnce ch 0).storeReply ch r.bytes
  else if x.out.isEmpty && x.pieces.all (fun e => e.2 = 0) then s1.endData ch 0
  else (s1.updXfer ch fun x => { x with phase := .ready, retries := 0 }).startUnit ch

/-- The unit of an input is complete (R145, R152). -/
def State.inUnit (s : State) (ch : Nat) (r : UnitResult) : State :=
  let c := s.chan ch
  let p := c.port
  if r.timeout then (s.updXfer ch fun x => { x with ended := true }).endData ch (8 ||| c.xfer.inBits)
  else
    let l := if portKind p = some .gpio then s.gpioRead p c.node else r.bytes
    (s.updXfer ch fun x => { x with ended := true, bits := x.bits ||| 4 * b2n r.nack }).deliver ch l

/-- The reply of an EXCH on a Modbus port is complete (R353). -/
def State.replyUnit (s : State) (ch : Nat) (r : UnitResult) : State :=
  if r.timeout then s.endData ch (8 ||| s.recvBits ch)
  else (s.updXfer ch fun x => { x with bits := x.bits ||| 4 * b2n r.nack }).storeReply ch r.bytes

/-- A unit that is complete, once its violation has been answered. -/
def State.unitEnds (s : State) (ch : Nat) (r : UnitResult) : State :=
  let x := (s.chan ch).xfer
  if x.reply then s.replyUnit ch r else if (s.chan ch).isOut then s.outUnit ch r else s.inUnit ch r

/-- The units that PORT_UNIT_COMPLETE ends; the operations of R509, conversions, frames and edges have rows of their own. -/
def State.unitIsPlain (s : State) (ch : Nat) : Bool :=
  let c := s.chan ch
  let p := c.port
  usesWire p c.xfer.cmd && !(c.xfer.cmd == 0x03 && portKind p != some .gpio) && portKind p != some .adc

/-- The violation classes that show during a port's own unit (R364); no other is raised then. -/
def unitClasses (p : Nat) : List Nat := match portKind p with
  | some .t1s => [4, 5, 6]
  | some .can => [1, 7]
  | some .uart => [1, 2, 3, 4, 6, 7]
  | some .i2c => [0, 2, 3]
  | _ => []

/-- The violation of a unit that is complete (R364): on SPI, a MISO line that is stuck, where every byte received is 0x00 or every one 0xFF and
STUCK is set; elsewhere what the port saw. -/
def State.unitViol (s : State) (ch : Nat) (r : UnitResult) : Option (Nat × Option Nat) :=
  let c := s.chan ch
  if portKind c.port = some .spi then
    if bitOf (s.pcfg c.port (0x100 + 4 * c.node)) 28 && c.xfer.cmd != 0x01 && !r.bytes.isEmpty && (r.bytes.all (· == 0) || r.bytes.all (· == 0xFF))
    then some (0, some c.node) else none
  else r.viol.filter fun v => (unitClasses c.port).contains v.1

/-- PORT_UNIT_COMPLETE (R163): not before the port's domain is awake (R398). -/
def State.unitComplete (s : State) (ch : Nat) (r : UnitResult) : State :=
  let c := s.chan ch
  let p := c.port
  if c.st = .active ∧ c.xfer.phase = .wire ∧ (s.port p).unitOn = some ch ∧ s.unitIsPlain ch ∧ s.die = .ready ∧ s.portAwake p then
    let s1 := s.freePort p ch
    (match s.unitViol ch r with
      | none => s1.unitEnds ch r
      | some (cls, node) => s1.answer ch cls node r.notTaken fun s => s.unitEnds ch r).kickPort p
  else s

/-- PORT_UNIT_COMPLETE (R163). -/
def execPortUnitComplete (ch : Nat) (r : UnitResult) (s : State) : Host.Outcome State Fault Refusal := .next (s.unitComplete ch r).served

/-! ### Timeouts -/

/-- RX_TO of a port (0 none). -/
def State.rxTo (s : State) (p : Nat) : Nat :=
  match portKind p with
  | some .t1s | some .can => bitsOf (s.pcfg p 0x108) 16 16
  | some .eth => bitsOf (s.pcfg p 0x100) 16 16
  | some .gpio => bitsOf (s.pcfg p 0x140) 0 16
  | _ => 0

/-- RX_TIMEOUT: a READ with no unit ends with TIMEOUT and ZERO, and with SHORT since fewer bytes came than COUNT (R152, log 34);
one with a unit or more ends with SHORT. -/
def State.rxTimeout (s : State) (ch : Nat) : State :=
  let c := s.chan ch
  let p := c.port
  if c.st = .active ∧ c.xfer.cmd = 0x02 ∧ (c.xfer.phase = .input ∨ (c.xfer.phase = .wire ∧ !usesWire p 0x02)) ∧ s.rxTo p ≠ 0 then
    ((s.updXfer ch fun x => { x with ended := true }).endData ch ((if c.xfer.total = 0 then 8 else 0) ||| c.xfer.inBits)).pace p
  else s

/-- RX_TIMEOUT (R150, R152). -/
def execRxTimeout (ch : Nat) (s : State) : Host.Outcome State Fault Refusal := .next (s.rxTimeout ch).served

/-- MODBUS_RESPONSE_TIMEOUT (R353): no reply to an EXCH or READ arrives before RESP_TO. -/
def execModbusResponseTimeout (ch : Nat) (s : State) : Host.Outcome State Fault Refusal :=
  .next (let c := s.chan ch
    let p := c.port
    if c.st = .active ∧ c.xfer.phase = .wire ∧ portKind p = some .uart ∧ s.isModbus p ∧ (c.xfer.reply ∨ c.xfer.cmd = 0x02)
    then (((((s.freePort p ch).updPort p fun q => { q with adu := [] }).updXfer ch fun x => { x with ended := true }).endData ch (8 ||| s.recvBits ch)).kickPort p).served
    else s)

/-- HAWK_GRANT_TIMEOUT (R300): a request not granted by the second tick after it was made fails. -/
def execHawkGrantTimeout (ch : Nat) (s : State) : Host.Outcome State Fault Refusal :=
  .next (match s.hawk.waits.find? fun w => w.ch == ch with
    | none => s
    | some w => if 2 ≤ w.ticks then ((s.unwaitGrant ch).failAt ch stHawkExhausted 0).served else s)

/-! ### CONTROL operations (R509) -/

/-- A channel's CONTROL operation is on the wire. -/
def State.ctlOn (s : State) (ch op : Nat) : Bool :=
  let c := s.chan ch
  c.st = .active && c.xfer.phase = .wire && s.portAwake c.port && c.xfer.cmd == 0x03 && portKind c.port != some .gpio && (c.xfer.out.headD 0).toNat == op

/-- The port has applied a CONTROL operation: its effect, and the CCW is complete (R509). -/
def State.ctlDone (s : State) (ch op : Nat) (f : State → Nat → State) : State :=
  if s.ctlOn ch op then
    let p := (s.chan ch).port
    ((f (s.freePort p ch) p).outLeft ch |>.endData ch 0).kickPort p
  else s

/-- LINE_TEST (R509). -/
def execLineTest (ch : Nat) (readings : List Word32) (s : State) : Host.Outcome State Fault Refusal :=
  .next (s.ctlDone ch 1 fun s p => s.lineDiag p readings).served
/-- PLCA_SYNC (R509): a coordinator sends its BEACON at once, a follower is silent to the next one. -/
def execPlcaSync (ch : Nat) (s : State) : Host.Outcome State Fault Refusal :=
  .next (s.ctlDone ch 2 fun s p =>
    s.updPort p fun q => if bitOf (s.pcfg p 0x100) 2 then { q with beaconHeld := false, curId := 0 } else { q with silent := true }).served
/-- RX_FLUSH (R509). -/
def execRxFlush (ch : Nat) (s : State) : Host.Outcome State Fault Refusal :=
  .next (s.ctlDone ch 3 fun s p => (s.each (s.port p).buf fun s u => s.freeUnit u).updPort p fun q => { q with buf := [] }).served
/-- BREAK (R509): TX returns to mark. -/
def execBrk (ch : Nat) (s : State) : Host.Outcome State Fault Refusal :=
  .next (s.ctlDone ch 4 fun s p => s.updPort p fun q => { q with breakOn := false }).served
/-- IDLE_CLOCKS (R509): 8 clocks with no chip selected leave no state. -/
def execIdleClocks (ch : Nat) (s : State) : Host.Outcome State Fault Refusal := .next (s.ctlDone ch 5 fun s _ => s).served
/-- BUS_RECOVERY (R509): counted with the recoveries of the sense block. -/
def execBusRecovery (ch : Nat) (s : State) : Host.Outcome State Fault Refusal :=
  .next (s.ctlDone ch 6 fun s p => s.updPort p fun q => { q with recoveries := q.recoveries + 1 }).served
/-- LINK_RESTART (R509): the link is up again (log 22). -/
def execLinkRestart (ch : Nat) (s : State) : Host.Outcome State Fault Refusal :=
  .next (s.ctlDone ch 7 fun s p => (s.updPort p fun q => { q with linkDown := false }).portEvt p 6).served

end Sys2Proof.Machine
end

