-- ==== Sys2Proof/Machine/FieldPorts.lean ====
section
/-! DEFINITION. The meanings of the field ports' own events: faults, quarantine, received units, lines and converters
(R340 to R367). -/

namespace Sys2Proof.Machine
open Sys2Proof

/-! ### Faults (R360, R361) -/

/-- The cause can arise on the port (R361). -/
def causeOk (p cause : Nat) : Bool :=
  match portKind p with
  | some .t1s => decide (1 ≤ cause) && decide (cause ≤ 4)
  | some .can => cause == 6 || cause == 7
  | some .uart => cause == 8
  | some .i2c => cause == 9
  | some .gpio => cause == 10
  | some .adc => cause == 4 || cause == 11
  | some .eth => cause == 12
  | _ => false

/-- A fault cause appears on a port (R361), cause 4 with PWR_SUP.VDDA_OUT (R414); a link down that a LINK_RESTART makes is none (R509). -/
def State.faultAppears (s : State) (p cause : Nat) : State :=
  if !(causeOk p cause) || (s.port p).linkDown then s
  else
    let s1 := s.updPort p fun q =>
      { q with causes := if q.causes.contains cause then q.causes else q.causes ++ [cause],
               recovering := q.recovering || (cause == 6 && bitOf (s.pcfg p 0x108) 3) }
    let s2 := if cause = 12 ∧ !(s.port p).causes.contains 12 then s1.portEvt p 6
      else if cause = 4 then { s1 with pwr := { s1.pwr with vddaOut := true } } else s1
    (s2.enterFault p cause).kickPort p

/-- PORT_FAULT (R361). -/
def execPortFault (port cause : Nat) (s : State) : Host.Outcome State Fault Refusal := .next (s.faultAppears port cause).served

/-- The causes of a port are absent, bus-off apart, which only its recovery ends (R360); a link that is up again is a link change (R366). -/
def State.causesGone (s : State) (p : Nat) : State :=
  let s1 := s.updPort p fun q => { q with causes := q.causes.filter fun c => c == 6 }
  let s2 : State := { s1 with pwr := { s1.pwr with vddaOut := s1.pwr.vddaOut && s1.ports.any fun e => e.2.causes.contains 4 } }
  if (s.port p).causes.contains 12 then s2.portEvt p 6 else s2

/-- FAULT_CLEAR_TIMEOUT (R360): the cause was absent for 100 ms. -/
def execFaultClearTimeout (port : Nat) (s : State) : Host.Outcome State Fault Refusal :=
  .next (let s1 := s.causesGone port
    if (s.port port).st = 2 ∧ (s.port port).cause ≠ 6 then s1.upOrFault port else s1)

/-- BUS_OFF_RECOVERY_COMPLETE (R360, R366): the port is UP, or in FAULT for another cause. -/
def execBusOffRecoveryComplete (port : Nat) (s : State) : Host.Outcome State Fault Refusal :=
  .next (if portKind port = some .can ∧ (s.port port).recovering then
      let s1 := (s.updPort port fun q => { q with recovering := false, causes := q.causes.filter fun c => c != 6, txErr := 0, rxErr := 0 }).portEvt port 7
      if (s.port port).st = 2 ∧ (s.port port).cause = 6 then s1.upOrFault port else s1
    else s)

/-- A write of PORT_CTL.CLR_FAULT (R360, R361); `absent` says whether the cause is absent. -/
def State.clrFaultW (s : State) (p : Nat) (absent : Bool) : State :=
  let s1 := if absent then s.causesGone p else s
  match (s.port p).st with
  | 2 => if (s.port p).cause = 6 then s1.updPort p fun q => { q with recovering := true } else if absent then s1.upOrFault p else s
  | 3 => s1.upOrFault p
  | _ => s

/-- The port exists and the master may write its common registers (R341). -/
def portCtlOk (m p : Nat) : Bool := isConfigMaster m && (portKind p).isSome

/-- CLR_FAULT (R360). -/
def execClrFault (m port : Nat) (absent : Bool) (s : State) : Host.Outcome State Fault Refusal :=
  .next (s.access m (portBase port) fun s => if portCtlOk m port then (s.clrFaultW port absent).cfgMirror (portBase port) 4 1 else s.accFault m)

/-- A node leaves the quarantine list, and its QLIM count starts again (R365). -/
def Port.lift (q : Port) (n : BitVec 24) : Port :=
  { q with quar := q.quar.filter fun x => x != n, qcnt := q.qcnt.erase n.toNat }

/-- LIFT (R365). -/
def execLift (m port : Nat) (node : BitVec 24) (s : State) : Host.Outcome State Fault Refusal :=
  .next (s.access m (portBase port) fun s => if portCtlOk m port then (s.updPort port fun q => q.lift node).cfgMirror (portBase port) 4 (2 + node.toNat * 256) else s.accFault m)

/-- LIFT_ALL (R365). -/
def execLiftAll (m port : Nat) (s : State) : Host.Outcome State Fault Refusal :=
  .next (s.access m (portBase port) fun s => if portCtlOk m port then (s.updPort port fun q => { q with quar := [], qcnt := [] }).cfgMirror (portBase port) 4 4 else s.accFault m)

/-- DIAG (PORT_CTL.DIAG, R367). -/
def execDiag (m port : Nat) (readings : List Word32) (s : State) : Host.Outcome State Fault Refusal :=
  .next (s.access m (portBase port) fun s => if portCtlOk m port then (s.lineDiag port readings).cfgMirror (portBase port) 4 8 else s.accFault m)

/-! ### Received units (R348, R351, R352, R363) -/

/-- A violation of a received unit acts on the CCW that would take the unit; with `k` the unit is kept (R183, R363). -/
def State.rxViol (s : State) (p cls : Nat) (node : Option Nat) (u : RxUnit) (k : State → State) : State :=
  match s.takerOf p u with
  | none => k (s.violAlone p cls node)
  | some ch =>
    let c := s.chan ch
    let (r, s1) := (s.violRecord p cls node).respTo p cls node
    let n := (s1.port p).retryN.toNat
    match r with
    | .ignore => k (s1.updXfer ch fun x => { x with bits := x.bits ||| 16 })
    | .retry =>
      if n = 0 then (s1.violNack ch node).pace p
      else if n ≤ c.xfer.retries then (s1.endViol ch stRetryExhausted node).pace p
      else if c.xfer.phase = .wire then s1.again ch
      else s1.updXfer ch fun x => { x with retries := x.retries + 1, bits := x.bits ||| 16 }
    | .nack => (s1.violNack ch node).pace p
    | r => ((s1.respSide p node r).endViol ch stViolation node).pace p

/-- A buffered unit is dropped as UNSOLICITED (R348). -/
def State.unsolicited (s : State) (p : Nat) (node : Option Nat) : State := (s.rxDrop p).violAlone p (unsolClass p) node

/-- A unit is buffered, or dropped where the buffer is full and no READ takes it at once; then the port delivers
(R348). -/
def State.bufferUnit (s : State) (p limit : Nat) (u : RxUnit) : State :=
  let free := match s.takerOf p u with
    | none => false
    | some ch => (s.chan ch).st = .active
  if limit ≤ (s.port p).buf.length && !free then s.unsolicited p u.node
  else (s.updPort p fun q => { q with buf := q.buf ++ [{ u with since := s.frm.time.toNat }] }).pumpPort p

/-- Padding to a multiple of 4 (R351, R352). -/
def pad4 (l : List Byte) : List Byte := l ++ List.replicate ((4 - l.length % 4) % 4) 0

/-- The record of a received Ethernet frame (R351). -/
def ethRecord (frame : List Byte) (node : Option Nat) (max : Nat) (tooLong : Bool) (time : Option Word64) : List Byte :=
  let f := if tooLong then frame.take (max - 4) else frame
  pad4 f ++ leBytes 4 (f.length % 0x4000 + (node.getD 0x7F) * 0x4000 + b2n tooLong * 0x200000 + b2n time.isSome * 0x400000)
    ++ (match time with
      | none => []
      | some t => leBytes 8 t.toNat)

/-- A MAC address as a number, first byte on the wire lowest (R350). -/
def macOf (frame : List Byte) (off : Nat) : Nat := ofLeBytes ((frame.drop off).take 6)

/-- The T1S node table entry of a source MAC. -/
def State.t1sNode (s : State) (p : Nat) (mac : Nat) : Option Nat :=
  (List.range 32).find? fun n =>
    let w1 := s.pcfg p (0x404 + 8 * n)
    bitOf w1 27 && (s.pcfg p (0x400 + 8 * n)).toNat + bitsOf w1 0 16 * 0x100000000 == mac

/-- A T1S frame is received (R348, R351, R364). -/
def State.rxT1s (s : State) (p : Nat) (frame : List Byte) (wire : Nat) (bad : Option Nat) : State :=
  let node := s.t1sNode p (macOf frame 6)
  let max := s.t1sMax p (node.getD 0xFF)
  let tooLong := decide (max < wire)
  let u : RxUnit := { node, bytes := ethRecord frame node max tooLong none, cost := frameTime (Nat.max 64 wire) 1, last := false, cells := [] }
  match bad with
  | some cls => s.rxViol p cls none { u with node := none } fun s => s
  | none =>
    match node with
    | none => s.rxViol p 1 none u fun s => s.bufferUnit p 16 u
    | some n =>
      if s.isQuar p n then s.violAlone p 2 (some n)
      else if tooLong then s.rxViol p 3 (some n) u fun s => s.bufferUnit p 16 u
      else s.bufferUnit p 16 u

/-- The CAN node entry that an identifier matches, receive filters or transmit IDs (R364). -/
def State.canNode (s : State) (p id : Nat) (ide tx : Bool) : Option Nat :=
  (List.range 64).find? fun n =>
    let w0 := s.pcfg p (0x400 + 8 * n)
    let m := if tx then 0x1FFFFFFF else bitsOf (s.pcfg p (0x404 + 8 * n)) 0 29
    bitOf w0 31 && bitOf w0 30 == tx && bitOf w0 29 == ide && (Nat.land id m == Nat.land (bitsOf w0 0 29) m)

/-- The record of a received CAN frame (R352): FILTER of a frame that matches no entry is an open value. -/
def State.canRecord (s : State) (h : Word64) (bytes : List Byte) (node : Option Nat) : List Byte :=
  let f := match node with
    | some n => n
    | none => (Config.freeByte s.freeNext).toNat
  pad4 (leBytes 6 (bitsOf h 0 41) ++ leBytes 1 f ++ leBytes 1 (bitsOf s.frm.time 8 8) ++ bytes.take (bitsOf h 32 7))

/-- A CAN frame is received (R348, R352, R364). -/
def State.rxCan (s : State) (p : Nat) (h : Word64) (bytes : List Byte) (bad : Option Nat) : State :=
  let id := bitsOf h 0 29
  let ide := bitOf h 29
  let node := s.canNode p id ide false
  let u : RxUnit := { node, bytes := s.canRecord h bytes node, cost := s.canTime p (bitOf h 30) ide (bitOf h 31) (bitsOf h 32 7), last := false, cells := [] }
  match bad with
  | some cls => s.rxViol p cls none { u with node := none } fun s => s
  | none =>
    let s1 := (if node.isNone then { s with freeNext := s.freeNext + 1 } else s : State).updPort p fun q => { q with rxErr := q.rxErr - 1 }
    match s.canNode p id ide true with
    | some n => s1.rxViol p 5 (some n) u fun s => s.bufferUnit p 64 u
    | none =>
      match node with
      | none => s1.rxViol p 2 none u fun s => s.bufferUnit p 64 u
      | some n =>
        if s1.isQuar p n then s1.violAlone p 3 (some n)
        else if bitOf (s.pcfg p (0x404 + 8 * n)) 29 != bitOf h 30 then s1.rxViol p 4 (some n) u fun s => s.bufferUnit p 64 u
        else s1.bufferUnit p 64 u

/-- A Modbus reply is awaited on the port: its channel. -/
def State.modbusWait (s : State) (p : Nat) : Option Nat :=
  match (s.port p).unitOn with
  | none => none
  | some ch =>
    let x := (s.chan ch).xfer
    if s.isModbus p ∧ x.phase = .wire ∧ (x.reply ∨ x.cmd = 0x02) then some ch else none

/-- A violation during a unit on the wire is answered: the port is free unless the unit goes on (R182, R363). -/
def State.wireViol (s : State) (p ch cls : Nat) (node : Option Nat) : State :=
  ((s.freePort p ch).answer ch cls node false fun s => s.updPort p fun q => { q with unitOn := some ch }).kickPort p

/-- A UART character is received (R348, R353, R364). -/
def State.rxUart (s : State) (p : Nat) (c : Byte) (bad : Option Nat) : State :=
  let s0 := if bad.isSome then s.updPort p fun q => { q with charErrs := q.charErrs + 1 } else s
  if s.isModbus p then
    match s0.modbusWait p, bad with
    | some ch, some cls => s0.wireViol p ch cls (if cls = 2 ∨ cls = 4 then some (s0.chan ch).node else none)
    | some _, none => s0.updPort p fun q => { q with adu := q.adu ++ [c] }
    | none, some cls => s0.violAlone p cls none
    | none, none => s0.updPort p fun q => { q with adu := q.adu ++ [c] }
  else
    let u : RxUnit := { node := none, bytes := [c], cost := s.charTime p 1, last := false, cells := [] }
    match bad with
    | some cls => s0.rxViol p cls none u fun s => s
    | none => s0.bufferUnit p 1024 u

/-- The tag and EtherType of an Ethernet frame: VLAN ID where tagged, and the type. -/
def ethType (frame : List Byte) : Option Nat × Nat :=
  let be (i : Nat) : Nat := (frame.getD i 0).toNat * 256 + (frame.getD (i + 1) 0).toNat
  if be 12 = 0x8100 then (some (be 14 % 4096), be 16) else (none, be 12)

/-- The lowest ETH node that a received frame matches. -/
def State.ethNode (s : State) (p : Nat) (frame : List Byte) : Option Nat :=
  let (vid, ty) := ethType frame
  (List.range 64).find? fun n =>
    let w0 := s.pcfg p (0x400 + 16 * n)
    let w1 := s.pcfg p (0x404 + 16 * n)
    let w2 := s.pcfg p (0x408 + 16 * n)
    let w3 := s.pcfg p (0x40C + 16 * n)
    bitOf w3 20 && bitsOf w1 16 16 == ty && (!bitOf w2 15 || vid == some (bitsOf w2 0 12))
      && (bitOf w3 21 || w0.toNat + bitsOf w1 0 16 * 0x100000000 == macOf frame 6)

/-- Hawk cells that the buffered frames of a node hold (R348). -/
def Port.nodeCells (q : Port) (n : Nat) : Nat := (q.buf.filter fun u => u.node = some n).foldl (fun k u => k + u.cells.length) 0

/-- A matched ETH frame goes into Hawk cells charged to SYSTEM, up to the node's CELLS (R348, R359). -/
def State.bufferEth (s : State) (p n : Nat) (u : RxUnit) : State :=
  let cap := bitsOf (s.pcfg p (0x40C + 16 * n)) 22 10
  let lim := if cap = 0 then 64 else cap
  let need := ceilDiv u.bytes.length 60
  if lim < (s.port p).nodeCells n + need then s.unsolicited p (some n)
  else match s.grantMany (16 + (p - 0x60)) (p - 0x60) sysAcct (.port p) need with
    | none => s.rxDrop p
    | some (cells, s1) => ((s1.fillCells cells u.bytes).updPort p fun q => { q with buf := q.buf ++ [{ u with cells, since := s.frm.time.toNat }] }).pumpPort p

/-- A PAUSE frame holds back transmission for its quanta of 512 bit times, where PAUSE_RX honours it (R357, ETH_CFG, log 118). -/
def State.paused (s : State) (p : Nat) (frame : List Byte) : State :=
  let be (i : Nat) : Nat := (frame.getD i 0).toNat * 256 + (frame.getD (i + 1) 0).toNat
  if be 14 = 1 then
    (s.updPort p fun q => { q with pauseTo := s.frm.time.toNat + be 16 * 5120 / ethRate (bitsOf (s.pcfg p 0x100) 1 3) }).kickPort p
  else s

/-- A policing violation of a node (R364 class 3): how many consecutive frames have had one (class 4). -/
def Port.policed (q : Port) (n f : Nat) : Nat :=
  match q.police.get (0, 0) n with
  | (last, k) => if k = 0 then 1 else if last = f then k else if last + 1 = f then k + 1 else 1

/-- A frame of a node above its POLICE rate is dropped; with every 16th frame in a row in which that happens comes class 4 (R364, log 119). -/
def State.rxPoliced (s : State) (p n : Nat) (u : RxUnit) : State :=
  let f := s.frm.frame.toNat
  let k := (s.port p).policed n f
  let s1 := (s.updPort p fun q => { q with police := q.police.set n (f, k) }).rxViol p 3 (some n) u fun s => s
  if k % 16 = 0 ∧ (s.port p).police.get (0, 0) n ≠ (f, k) then s1.rxViol p 4 (some n) u fun s => s else s1

/-- An ETH frame is received (R348, R351, R358, R359, R364). -/
def State.rxEth (s : State) (p : Nat) (frame : List Byte) (wire : Nat) (bad : Option Nat) : State :=
  let s0 := s.updPort p fun q => { q with rxFrames := q.rxFrames + 1 }
  let node := s.ethNode p frame
  let ty := (ethType frame).2
  let time := if bitOf (s.pcfg p 0x100) 7 then some (s.frm.time - BitVec.ofNat 64 (bitsOf (s.pcfg p 0x10C) 16 16 / 10)) else none
  let max := bitsOf (s.pcfg p (0x408 + 16 * node.getD 0)) 16 14
  let tooLong := decide (max < wire)
  let u : RxUnit := { node, bytes := ethRecord frame node max tooLong time, cost := frameTime wire (ethRate (bitsOf (s.pcfg p 0x100) 1 3)),
                      last := false, cells := [] }
  match bad with
  | some 3 => node.elim s0 fun n => s0.rxPoliced p n u
  | some cls => s0.rxViol p cls none { u with node := none } fun s => s
  | none =>
    if ty = 0x88B5 then s0
    else if ty = 0x8808 then (if bitOf (s.pcfg p 0x100) 6 then s0.paused p frame else s0.violAlone p 5 none)
    else match node with
      | none => s0.violAlone p 1 none
      | some n =>
        if s0.isQuar p n then s0.violAlone p 6 (some n)
        else if tooLong then s0.rxViol p 2 (some n) u fun s => s.bufferEth p n u
        else s0.bufferEth p n u

/-- The violation classes that the line shows of a received unit (R364); no other is raised so. -/
def State.rxClasses (s : State) (p : Nat) : List Nat := match portKind p with
  | some .t1s => [0, 4, 5]
  | some .can => [0, 6, 7]
  | some .uart => if s.isModbus p then [0, 2, 4] else [0]
  | some .eth => [0, 3]
  | _ => []

/-- The violation that the line shows of a received unit. -/
def rxBad : RxFrame → Option Nat
  | .eth _ _ b => b
  | .can _ _ b => b
  | .uart _ b => b

/-- FRAME_RECEIVE (R348): a unit is received on a port that is UP. -/
def execFrameReceive (port : Nat) (f : RxFrame) (s : State) : Host.Outcome State Fault Refusal :=
  .next (if (s.port port).st ≠ 1 ∨ s.die ≠ .ready ∨ (s.port port).linkDown ∨ (rxBad f).any (fun b => !(s.rxClasses port).contains b) then s else
    (match f, portKind port with
      | .eth b w bad, some .t1s => s.rxT1s port b w bad
      | .eth b w bad, some .eth => s.rxEth port b w bad
      | .can h b bad, some .can => s.rxCan port h b bad
      | .uart c bad, some .uart => s.rxUart port c bad
      | _, _ => s).served)

/-- RXHOLD_EXPIRY (R348): the oldest buffered unit was not taken within RXHOLD µs; the edges that a GPIO bank has captured are none. -/
def execRxholdExpiry (port : Nat) (s : State) : Host.Outcome State Fault Refusal :=
  .next (match if portKind port = some .gpio then [] else (s.port port).buf with
    | [] => s
    | u :: r =>
      if u.since + 100 * (s.port port).rxhold.toNat ≤ s.frm.time.toNat then
        (((s.updPort port fun q => { q with buf := r }).freeUnit u).unsolicited port u.node).served
      else s)

/-- A Modbus ADU is complete at the port: its CRC, its address and its function code are checked (R353, R364). -/
def State.aduEnds (s : State) (p ch : Nat) : State :=
  let c := s.chan ch
  let l := (s.port p).adu
  let body := l.take (l.length - 2)
  let pdu := body.drop 1
  let s0 := s.updPort p fun q => { q with adu := [] }
  let fc := (pdu.headD 0).toNat
  let req := (c.xfer.out.headD 0).toNat
  let done (exc : Bool) (s : State) : State :=
    (s.freePort p ch).unitEnds ch { bytes := pdu, ended := true, nack := exc, timeout := false, viol := none, notTaken := false }
  if l.length < 4 || leBytes 2 (crc16 body).toNat != l.drop (l.length - 2) then s0.wireViol p ch 1 (some c.node)
  else if (l.headD 0).toNat ≠ c.node then s0.wireViol p ch 3 (some c.node)
  else if !c.xfer.reply || fc == req then (done false s0).kickPort p
  else if fc == req + 128 then (done true s0).kickPort p
  else ((s0.freePort p ch).answer ch 7 (some c.node) false (done false)).kickPort p

/-- UART_IDLE_LINE_EXPIRY (R353): in RAW mode the oldest READ that waits ends, in MODBUS mode the ADU received ends; one that no CCW waits for
is UNSOLICITED (R364). -/
def execUartIdleLineExpiry (port : Nat) (s : State) : Host.Outcome State Fault Refusal :=
  .next (if portKind port ≠ some .uart then s else
    if s.isModbus port then
      match s.modbusWait port with
      | none => if (s.port port).adu.isEmpty then s else (s.updPort port fun q => { q with adu := [] }).violAlone port 5 none
      | some ch => if (s.port port).adu.isEmpty then s else (s.aduEnds port ch).served
    else match (s.port port).readers.find? fun ch => (s.chan ch).st = .active && (s.chan ch).xfer.phase = .input with
      | none => s
      | some ch => ((s.updXfer ch fun x => { x with ended := true }).endData ch (s.chan ch).xfer.inBits).served)

/-! ### I²C, T1S timing events -/

/-- SCL_STRETCH_TIMEOUT (R364 class 1): the violation is answered, and bus recovery follows. -/
def execSclStretchTimeout (port : Nat) (s : State) : Host.Outcome State Fault Refusal :=
  .next (if portKind port ≠ some .i2c then s else
    let s1 := s.updPort port fun q => { q with recoveries := q.recoveries + 1 }
    match (s.port port).unitOn with
    | none => s1.violAlone port 1 none
    | some ch => (s1.wireViol port ch 1 (some (s.chan ch).node)).served)

/-- SMBALERT_ASSERT (R364 class 4, R366). -/
def execSmbalertAssert (port : Nat) (s : State) : Host.Outcome State Fault Refusal :=
  .next (if portKind port ≠ some .i2c ∨ !bitOf (s.pcfg port 0x100) 4 ∨ (s.port port).alertMasked then s else
    let s1 := (s.updPort port fun q => { q with alerts := q.alerts + 1 }).portEvt port 6
    if 16 < (s1.port port).alerts then (s1.updPort port fun q => { q with alertMasked := true }).violAlone port 4 none else s1)

/-- BEACON_HOLD_EXPIRY (R349): the coordinator sends the held BEACON anyway. -/
def execBeaconHoldExpiry (port : Nat) (s : State) : Host.Outcome State Fault Refusal :=
  .next (if portKind port = some .t1s ∧ s.isPaced port ∧ (s.port port).st = 1 then
      s.updPort port fun q => { q with beaconHeld := false, curId := 0 } else s)

/-- PLCA status of a T1S port changes (R366 TYPE0). -/
def State.plcaStatus (s : State) (p : Nat) (up : Bool) : State :=
  let s1 := s.updPort p fun q => { q with plcaUp := up }
  if (s.port p).plcaUp = up then s1 else s1.portEvt p 6

/-- PLCA_BEACON (R349, R364 class 6): a follower restarts its count at a BEACON and reports one that is lost; a
coordinator that sees one has a rival. -/
def execPlcaBeacon (port : Nat) (found : Bool) (s : State) : Host.Outcome State Fault Refusal :=
  .next (if portKind port ≠ some .t1s ∨ (s.port port).st ≠ 1 then s else
    if bitOf (s.pcfg port 0x100) 2 then (if found then s.violAlone port 6 none else s)
    else if found then (s.updPort port fun q => { q with silent := false, curId := 0 }).plcaStatus port true
    else (s.plcaStatus port false).violAlone port 6 none)

/-! ### GPIO (R355) -/

/-- A captured edge is kept for a READ, or dropped where the capture buffer is full (R355, R364 class 1). -/
def State.capture (s : State) (p l : Nat) (level : Bool) : State :=
  let u : RxUnit := { node := some l, bytes := leBytes 8 (bitsOf s.frm.time 0 32 + b2n level * 0x100000000), cost := 1, last := false, cells := [] }
  let s1 := s.updPort p fun q => { q with caps := q.caps.set l (BitVec.ofNat 32 (bitsOf s.frm.time 0 32)) }
  let held := ((s.port p).buf.filter fun u => u.node = some l).length
  if Config.capDepth ≤ held ∧ (s.takerOf p u).isNone then s1.violAlone p 1 none
  else (s1.updPort p fun q => { q with buf := q.buf ++ [u] }).pumpPort p

/-- A quadrature step on a pair of lines: A leading B counts up (log 24). -/
def quadStep (a b a' b' : Bool) : Int := if a != a' then (if a' != b' then 1 else -1) else if b != b' then (if a' == b' then 1 else -1) else 0

/-- GPIO_EDGE (R322, R355): the synchronised level changes, and with it the line's source, its capture or its count. -/
def State.gpioEdge (s : State) (p l : Nat) (level : Bool) : State :=
  let old := (s.port p).levels
  let bit : BitVec 16 := BitVec.ofNat 16 (2 ^ l)
  let new := if level then old ||| bit else old &&& ~~~bit
  let s1 := (s.updPort p fun q => { q with levels := new }).setLine (0x5D0 + 16 * (p - 0x50) + l) level
  let e := s.lineEdge p l
  let a := l / 2 * 2
  if s.lineMode p l = 3 then
    if old ≠ new ∧ (e = 3 ∨ (e = 1 ∧ level) ∨ (e = 2 ∧ !level)) then s1.capture p l level else s1
  else if s.lineMode p a = 5 then
    if old = new then s1.violAlone p 0 none
    else s1.updPort p fun q =>
      { q with quad := q.quad.set a (q.quad.get 0 a + BitVec.ofInt 32 (quadStep (bitOf old a) (bitOf old (a + 1)) (bitOf new a) (bitOf new (a + 1)))) }
  else s1

/-- GPIO_EDGE (R355). -/
def execGpioEdge (port line : Nat) (level : Bool) (s : State) : Host.Outcome State Fault Refusal :=
  .next (if portKind port = some .gpio ∧ line < 16 ∧ (s.port port).st = 1 then (s.gpioEdge port line level).served else s)

/-- GPIO_TIMER_MATCH (R257, R355): TIME has reached the line's target, and the line toggles once; in Hold every output keeps its level
(R192). -/
def execGpioTimerMatch (port line : Nat) (s : State) : Host.Outcome State Fault Refusal :=
  .next (match (s.port port).timers.find? fun e => e.1 == line with
    | none => s
    | some (_, t) =>
      if portKind port = some .gpio ∧ s.lineMode port line = 4 ∧ (s.port port).st = 1 ∧ s.hold = false
          ∧ ((BitVec.ofNat 32 (bitsOf s.frm.time 0 32)) - t).msb = false then
        s.updPort port fun q => { q with outs := q.outs ^^^ BitVec.ofNat 16 (2 ^ line), timers := q.timers.erase line }
      else s)

/-- PWM_PERIOD_START (R355): the newest duty takes effect; the line is high unless the duty is 0. In Hold the output keeps its level (R192). -/
def execPwmPeriodStart (port line : Nat) (s : State) : Host.Outcome State Fault Refusal :=
  .next (if portKind port = some .gpio ∧ s.lineMode port line = 2 ∧ (s.port port).st = 1 ∧ s.hold = false then
      s.updPort port fun q =>
        let d := q.dutyNext.get 0 line
        let bit : BitVec 16 := BitVec.ofNat 16 (2 ^ line)
        { q with duty := q.duty.set line d, outs := if d = 0 then q.outs &&& ~~~bit else q.outs ||| bit }
    else s)

/-! ### ADC (R356) -/

/-- The port code of the ADC. -/
def portAdc : Nat := 0x58

/-- ADC_CONVERSION (R356): the sample of the READ in progress on the input is stored. -/
def execAdcConversion (input : Nat) (code : BitVec 12) (s : State) : Host.Outcome State Fault Refusal :=
  .next (match (s.port portAdc).unitOn with
    | none => s
    | some ch =>
      if (s.chan ch).st = .active ∧ (s.chan ch).xfer.phase = .wire ∧ (s.chan ch).node = input ∧ s.portAwake portAdc then
        let s1 := (s.freePort portAdc ch).updPort portAdc fun q => { q with samples := q.samples.set input (code.setWidth 16) }
        ((s1.deliver ch (leBytes 2 code.toNat)).kickPort portAdc).served
      else s)

/-- ADC_MONITOR (R356): a monitored input is converted, and its source follows the thresholds. -/
def execAdcMonitor (input : Nat) (code : BitVec 12) (s : State) : Host.Outcome State Fault Refusal :=
  .next (if input < 16 ∧ bitOf (s.pcfg portAdc (0x100 + 4 * input)) 1 ∧ (s.port portAdc).st = 1 then
      let t := s.pcfg portAdc (0x140 + 4 * input)
      (s.updPort portAdc fun q => { q with samples := q.samples.set input (code.setWidth 16) }).setLine (0x630 + input)
        (decide (code.toNat < bitsOf t 0 12) || decide (bitsOf t 16 12 < code.toNat))
    else s)

/-! ### Ethernet -/

/-- PORT code of MAC m. -/
def ethPort (mac : Nat) : Nat := 0x60 + mac

/-- GATE_ENTRY_EXPIRY (R358): the present entry's interval is over in the cycle, and the next valid entry applies; the last one holds to the end
of the cycle. -/
def execGateEntryExpiry (mac : Nat) (s : State) : Host.Outcome State Fault Refusal :=
  .next (let p := ethPort mac
    let g := (s.port p).gate + 1
    if mac < 4 ∧ bitOf (s.pcfg p 0x100) 8 ∧ s.gateValid p g ∧ s.gateEnd p g ≤ s.gatePos p then
      ((s.updPort p fun q => { q with gate := g }).kickPort p).served
    else s)

/-- A read of ETH_TXTS_TAG pops the oldest timestamp into ETH_TXTS_TIME. -/
def State.txtsPop (s : State) (p : Nat) : State :=
  match (s.port p).txts with
  | [] => s.out 0
  | (ch, t) :: r => (s.updPort p fun q => { q with txts := r, txtsTime := t }).out (ch % 4096 + 0x10000)

/-- ETH_TXTS_POP (R359). -/
def execEthTxtsPop (m mac : Nat) (s : State) : Host.Outcome State Fault Refusal :=
  .next (s.accessR m (portBase (ethPort mac) + 0x200) fun s =>
    if 4 ≤ mac then s else if rightsOk m (portBase (ethPort mac) + 0x200) then s.txtsPop (ethPort mac) else (s.out 0).accFault m)

end Sys2Proof.Machine
end

