-- ==== Sys2Proof/Machine/Links.lean ====
section
/-! DEFINITION. The meanings of the host link's rows: configuration-space events, MSI-X masks, link states, errors,
loss, RELEASE and DISCARD (R63 to R88, R198). -/

namespace Sys2Proof.Machine
open Sys2Proof

/-- The other module. -/
def otherMd (md : Nat) : Nat := if md = 0 then 1 else 0

/-- A queue is enabled: in any state but DISABLED (R129). -/
def Queue.enabled (q : Queue) : Bool := q.st != .disabled

/-- The enabled queues that a module carries (R55, R56). -/
def State.carried (s : State) (md : Nat) : List Nat :=
  (s.queues.filter fun e => e.2.enabled && s.qModule e.1 == md).map (·.1)

/-- The vectors whose PBA bit is set, in falling order of their sources' priority (R334). -/
def State.pbaList (s : State) (md : Nat) : List Nat :=
  sortDesc (fun v => s.topPrio ((s.srcs.map (·.1)).filter fun n => s.srcVector n == v && s.srcModule n == md))
    ((List.range 2048).filter fun v => (s.link md).cfg.pba.contains v)

/-- What waited for the function to be able to issue requests goes on: MSI-X messages and reads (R63, R64, R72). -/
def State.linkGo (s : State) (md : Nat) : State := ((((s.dueSend md).batchSend md).pbaSend md (s.pbaList md)).pump md).hostResume md

/-- The link source of a module pulses (R322). -/
def State.linkPulse (s : State) (md : Nat) : State := s.pulse (0x408 + md)

/-! ### Configuration space -/

/-- Pending sources whose message waited behind a PBA bit of a module: their messages are due again (R76). -/
def State.pbaDue (s : State) (md : Nat) : State :=
  s.each (s.srcs.map (·.1)) fun s n =>
    let x := s.src n
    if x.pend && x.en && !x.tgt && s.srcModule n == md && (s.link md).cfg.pba.contains (s.srcVector n) then
      s.setSrc n { x with due := true }
    else s

/-- WAKE_OUT_N stays asserted for as long as a PME_Status is set (R81). -/
def State.wakeEval (s : State) : State := { s with wakeOut := s.link0.cfg.pmeStatus || s.link1.cfg.pmeStatus }

/-- A conventional reset of a module's function (R65, R76). -/
def State.convReset (s : State) (md : Nat) : State :=
  (((s.pbaDue md).dropBatches md).updLink md fun l => { l with cfg := {}, crcRetry := 0, retrain := 0, down := 0 }).wakeEval

/-- CONVENTIONAL_RESET (R65). -/
def execConventionalReset (md : Nat) (s : State) : Host.Outcome State Fault Refusal := .next (s.convReset md)

/-- A request is held for a module: a write or message, a read, or what is a wake reason in the interrupt controller, an open batch or an
enabled source of its that is pending (R81, R336). -/
def State.holdsRequest (s : State) (md : Nat) : Bool :=
  let l := s.link md
  !l.queue.isEmpty || !l.held.isEmpty || !l.waiting.isEmpty || s.batches.any (fun b => b.1 / 2048 == md)
    || (s.srcs.any fun e => e.2.pend && e.2.en && !e.2.tgt && s.srcModule e.1 == md)

/-- In D3hot with PME_En set a held request makes the wake (R81). -/
def State.wakeCheck (s : State) (md : Nat) : State :=
  let c := (s.link md).cfg
  if c.d3 && c.pmeEn && s.holdsRequest md then s.wantLink md else s

/-- The function's power state (R64). -/
def State.setD3 (s : State) (md : Nat) (d3 : Bool) : State :=
  let s1 := s.updCfg md fun c => { c with d3 }
  if d3 then s1.wakeCheck md else s1.linkGo md

/-- POWER_STATE_CHANGE (R64). -/
def execPowerStateChange (md : Nat) (d3 : Bool) (s : State) : Host.Outcome State Fault Refusal := .next (s.setD3 md d3)

/-- MSI-X Enable and Function Mask as written (R72, R73). -/
def State.setMsix (s : State) (md : Nat) (en mask : Bool) : State :=
  let s1 := s.updCfg md fun c => { c with msixEn := en, funcMask := mask }
  if en then (s1.dueSend md).pbaSend md (s1.pbaList md) else s1.dropBatches md

/-- MSIX_ENABLE (R72). -/
def execMsixEnable (md : Nat) (funcMask : Bool) (s : State) : Host.Outcome State Fault Refusal := .next (s.setMsix md true funcMask)

/-- The Mask bit of a vector as written (R73, R74). -/
def State.setMask (s : State) (md v : Nat) (mask : Bool) : State :=
  let s1 := s.updCfg md fun c => { c with msix := c.msix.set v { c.ent v with mask } }
  if mask then s1 else s1.pbaSend md [v]

/-- VECTOR_UNMASK (R73): of one vector, or of the function. -/
def execVectorUnmask (md : Nat) (vec : Option Nat) (s : State) : Host.Outcome State Fault Refusal :=
  .next (match vec with
    | some v => s.access md 0x8000 fun s => if v < 2048 then s.setMask md v false else s
    | none => s.setMsix md (s.link md).cfg.msixEn false)

/-- VECTOR_MASK (R74). -/
def execVectorMask (md : Nat) (vec : Option Nat) (s : State) : Host.Outcome State Fault Refusal :=
  .next (match vec with
    | some v => s.access md 0x8000 fun s => if v < 2048 then s.setMask md v true else s
    | none => s.setMsix md (s.link md).cfg.msixEn true)

/-- The writes of a queue up to the last message of a vector, and the rest (R74). -/
def splitVec (v : Nat) (l : List Egress) : List Egress × List Egress :=
  match l with
  | [] => ([], [])
  | e :: r =>
    let p := splitVec v r
    if e.kind = .msix v ∨ !p.1.isEmpty then (e :: p.1, p.2) else ([], e :: p.2)

/-- Everything up to the last message of a vector leaves (R74). -/
def Link.sendUpTo (l : Link) (v : Nat) : Link :=
  { l with queue := (splitVec v l.queue).2, unacked := l.unacked ++ (splitVec v l.queue).1, replaying := l.replaying - (splitVec v l.queue).1.length }

/-- A read of a vector's Vector Control word completes after every message of it sampled before has been sent: while one cannot be
sent, the read does not complete (R74). -/
def State.ctlRead (s : State) (md vec : Nat) : State :=
  let l := s.link md
  if (splitVec vec l.queue).1.isEmpty || l.usable then (s.setLink md (l.sendUpTo vec)).out (b2n (l.cfg.ent vec).mask) else s

/-- VECTOR_CONTROL_READ (R74). -/
def execVectorControlRead (md vec : Nat) (s : State) : Host.Outcome State Fault Refusal :=
  .next (s.accessR md 0x8000 fun s => if vec < 2048 then s.ctlRead md vec else s)

/-! ### Link states (R77 to R81) -/

/-- Reads outstanding or queued writes keep a module from L1 and L2 (R78, R79). -/
def Link.quiet (l : Link) : Bool := l.reads.isEmpty && l.queue.isEmpty

/-- L1_ENTRY_REQUEST (R77, R79): L2 only while the function is in D3hot. -/
def execL1EntryRequest (md : Nat) (l2 : Bool) (s : State) : Host.Outcome State Fault Refusal :=
  .next (let l := s.link md
    if l.quiet && l.lstate = 0 && (!l2 || l.cfg.d3) then s.setLink md { l with lstate := if l2 then 2 else 1, exiting := false } else s)

/-- The smallest LAT_TOL among the enabled queues a module carries bears the exit time of L1, 1.5 µs (R78). -/
def State.latOk (s : State) (md : Nat) : Bool := (s.carried md).all fun q => decide (2 ≤ (s.q q).latTolAct.toNat)

/-- LINK_IDLE_EXPIRY (R78). -/
def execLinkIdleExpiry (md : Nat) (s : State) : Host.Outcome State Fault Refusal :=
  .next (let l := s.link md
    if l.cfg.linkIdle ≠ 0 && l.quiet && l.waiting.isEmpty && l.lstate = 0 && s.latOk md then s.setLink md { l with lstate := 1, exiting := false }
    else s)

/-- LINK_EXIT_COMPLETE (R77, R81): the first queued request is sent; a PM_PME waited for the exit from L2. -/
def execLinkExitComplete (md : Nat) (s : State) : Host.Outcome State Fault Refusal :=
  .next (let l := s.link md
    if l.exiting && (l.lstate = 1 || l.lstate = 2) then
      let sent := if l.lstate = 2 && l.cfg.d3 && l.cfg.pmeStatus then .pmPme :: l.sent else l.sent
      ((s.setLink md { l with lstate := 0, exiting := false, sent }).updLink md drainLink).pump md
    else s)

/-- EARLY_LINK_EXIT (R80): for a moderated message of the module. -/
def execEarlyLinkExit (md : Nat) (s : State) : Host.Outcome State Fault Refusal :=
  .next (let l := s.link md
    if (l.lstate = 1 || l.lstate = 2) && s.batches.any (fun b => b.1 / 2048 == md) then s.setLink md { l with exiting := true } else s)

/-- PME_STATUS_CLEAR (R81). -/
def execPmeStatusClear (md : Nat) (s : State) : Host.Outcome State Fault Refusal :=
  .next ((s.updCfg md fun c => { c with pmeStatus := false }).wakeEval)

/-! ### Errors (R82; the AER bits and messages of the standard rules, log 4) -/

/-- D2D_CRC_ERROR (R82). -/
def execD2dCrcError (md : Nat) (s : State) : Host.Outcome State Fault Refusal :=
  .next (((s.updLink md fun l => { l with crcRetry := satInc l.crcRetry }).aerCor md 0).linkPulse md)

/-- UNEXPECTED_COMPLETION (R82): discarded, and recorded as an advisory error. -/
def execUnexpectedCompletion (md : Nat) (s : State) : Host.Outcome State Fault Refusal :=
  .next (s.takeHeader.2.aerUnc md 16 s.takeHeader.1 true)

/-- A request that the die does not serve is recorded with its header (R71, R82). -/
def State.badRequest (s : State) (md : Nat) (what : BadRequest) (hdr : BitVec 128) : State :=
  match what with
  | .malformed => s.aerUnc md 18 hdr false
  | .poisoned => s.aerUnc md 12 hdr false
  | .unsupported posted => s.aerUnc md 20 hdr (!posted)

/-- MALFORMED_REQUEST (R71, R82): discarded, no device state changes. -/
def execMalformedRequest (r : HostRequest) (s : State) : Host.Outcome State Fault Refusal :=
  .next (s.badRequest r.md r.what r.header)

/-! ### RELEASE and DISCARD (R86 to R88, R198) -/

/-- The Hawk cells of writes that are held no more go free (R86). -/
def State.freeHeldCells (s : State) (l : List Egress) : State := s.each (l.flatMap (·.cells)) fun s k => s.freeOne k

/-- A held write enters the egress queue with all that it stands for; a message samples its mask there (R74, R86). -/
def State.enterHeld (s : State) (md : Nat) (e : Egress) : State :=
  match e.kind with
  | .msix v => if (s.link md).cfg.msixEn then s.sendMsix md v else
      s.each (s.srcs.map (·.1)) fun s n =>
        if (s.src n).pend && (s.src n).en && !(s.src n).tgt && s.srcModule n == md && s.srcVector n == v then
          s.updSrc n fun x => { x with due := true }
        else s
  | _ => s.passGate { id := 0, md, w := e }

/-- The module's traffic is held no more: held writes enter in their original order, before any new request (R86). -/
def State.releaseLink (s : State) (md : Nat) : State :=
  let h := (s.link md).held
  let q := (s.link md).queue
  let s1 := s.updLink md fun l => { l with held := [], holding := false, graceOver := false, queue := l.queue.map fun e => { e with cells := [] } }
  (((((s1.freeHeldCells (q ++ h)).each h fun s e => s.enterHeld md e).settled).pump md).hostResume md).aqKick

/-- An entry stands again among those bound, in count order (R198). -/
def insertEntry (fetch : Word32) (e : Entry) (l : List Entry) : List Entry :=
  match l with
  | [] => [e]
  | x :: r => if (fetch - x.cnt).toNat < (fetch - e.cnt).toNat then e :: x :: r
      else if x.cnt = e.cnt then e :: r else x :: insertEntry fetch e r

/-- The entry at a count has no written record any more (R198). -/
def Queue.undo (q : Queue) (cnt : Word32) (ccw : Option Word64) : Queue :=
  let slots := ((q.entryAt cnt).map (·.slots)).getD []
  let e : Entry := { cnt, slots, applied := true, done := false, dropped := some ccw }
  { q with bound := insertEntry q.fetch e q.bound }

/-- The channel whose FINAL record was dropped ends SUSPENDED, unless a later program runs on it (R198). -/
def State.dropFinal (s : State) (ch : Nat) (ccw : Word64) : State :=
  let c := s.chan ch
  if c.began.isSome then s
  else (s.goChan ch fun c => { c with st := .suspended, lastStatus := stIndeterminate, ccwa := ccw, ending := none }).runWaiting ch

/-- A write is dropped by DISCARD (R198, R199). -/
def State.dropWrite (s : State) (e : Egress) : State :=
  match e.kind with
  | .final q cnt ch _ ccw => (s.updQ q fun x => x.undo cnt (some ccw)).dropFinal ch ccw
  | .entry q cnt => s.updQ q fun x => x.undo cnt none
  | .admin cnt => { s with aq := s.aq.gone cnt }
  | _ => s

/-- A queue that the module carries stops in ERROR with WHY 8; FETCH is kept (R198). -/
def State.lossStop (s : State) (q : Nat) : State :=
  (s.updQ q fun x =>
    { x with st := .error, why := 8, onDie := [], raise := true, turnLeft := 0, failing := 0, errIdx := headOf (x.bound.filter fun e => !e.done) x.fetch }).advance q

/-- DISCARD (R86, R198). -/
def State.discardLink (s : State) (md : Nat) : State :=
  let l := s.link md
  let s1 := s.setLink md { l with queue := [], held := [], holding := false, graceOver := false, replaying := 0 }
  let s2 := (s1.freeHeldCells (l.queue ++ l.held)).each (l.queue ++ l.held) fun s e => s.dropWrite e
  (((s2.each (s2.carried md) fun s q => s.lossStop q).pump md).hostResume md).aqKick

/-- A write to NLNK_CTL (R86, R88). -/
def State.nlnkCtl (s : State) (md : Nat) (v : Word32) : State :=
  let r := bitOf v 0
  let d := bitOf v 1
  if (r && d) || !(s.heldSet md) then s else if r then s.releaseLink md else if d then s.discardLink md else s

/-- NLNK_RELEASE (R86). -/
def execNlnkRelease (md : Nat) (v : Word32) (s : State) : Host.Outcome State Fault Refusal := .next (s.nlnkCtl md (v ||| 1))
/-- NLNK_DISCARD (R198). -/
def execNlnkDiscard (md : Nat) (v : Word32) (s : State) : Host.Outcome State Fault Refusal := .next (s.nlnkCtl md (v ||| 2))

/-! ### Loss of a module (R83 to R85) -/

/-- LINK_LEAVE_ACTIVE (R83). -/
def execLinkLeaveActive (md : Nat) (s : State) : Host.Outcome State Fault Refusal :=
  .next (if (s.link md).lstate = 0 then s.updLink md fun l => { l with lstate := 3 } else s)

/-- Writes enter a module's egress queue again, numbered anew (R84). -/
def Link.replay (l : Link) (es : List Egress) : Link :=
  match es with
  | [] => l
  | e :: r => Link.replay { l with eqs := l.eqs + 1, queue := l.queue ++ [{ e with eqs := l.eqs + 1 }] } r

/-- The open batches of a module are those of another (R75, R334). -/
def State.moveBatches (s : State) (md o : Nat) : State :=
  let l := s.batches.filter fun b => b.1 / 2048 == md
  { s with batches := s.batches.filter fun b => b.1 / 2048 != md }.each l fun s b =>
    let k := o * 2048 + b.1 % 2048
    let x : Batch := s.batches.get { count := 0, deadline := b.2.deadline } k
    { s with batches := s.batches.set k { count := x.count + b.2.count, deadline := min x.deadline b.2.deadline, srcs := x.srcs ++ b.2.srcs,
                                          due := x.due || b.2.due } }

/-- All traffic moves to the other module (R84): unacknowledged writes are replayed, reads reissued, and queued
requests go on there. -/
def State.failover (s : State) (md : Nat) : State :=
  let l := s.link md
  let o := otherMd md
  let s1 := s.setLink md { l with unacked := [], queue := [], reads := [], waiting := [] }
  let s2 := s1.updLink o fun x =>
    { x.replay (l.unacked ++ l.queue) with waiting := l.reads ++ l.waiting ++ x.waiting, replaying := x.queue.length + l.unacked.length }
  (({ s2 with carry := decide (o = 1) }.moveBatches md o).wantLink o).pump o

/-- GRACE has run out, or is 0, with the module lost and its traffic held (R85). -/
def State.graceAct (s : State) (md : Nat) : State :=
  let l := s.link md
  if !l.lost || !l.holding || l.graceOver then s
  else if l.llAtLoss = 2 || (l.llAtLoss = 0 && s.ds.present && s.dsUp && s.paired) then s.haltDie
  else s.heldPulse (s.updLink md fun l => { l with graceOver := true })

/-- The module's traffic is held (R85): writes that the adapter has not acknowledged are kept in front of those still queued. -/
def Link.hold (l : Link) : Link := { l with holding := true, queue := l.unacked ++ l.queue, unacked := [] }

/-- The module is lost (R83 to R85). -/
def State.loseModule (s : State) (md : Nat) : State :=
  let l := s.link md
  let o := s.link (otherMd md)
  let s1 := (s.setLink md { l with lost := true, down := satInc l.down, llAtLoss := l.cfg.llAction }).linkPulse md
  if s.mode = 2 then
    if b2n s.carry ≠ md then s1
    else if o.up && !o.lost && (o.lstate = 0 || o.lstate = 1) then s1.failover md
    else
      let s2 := s1.updLink md Link.hold
      if l.cfg.grace = 0 then s2.graceAct md else s2
  else
    let s2 := s1.updLink md Link.hold
    if l.cfg.grace = 0 then s2.graceAct md else s2

/-- MODULE_LOSS (R83). -/
def execModuleLoss (md : Nat) (s : State) : Host.Outcome State Fault Refusal :=
  .next (if (s.link md).lstate = 3 && !(s.link md).lost then s.loseModule md else s)

/-- LINK_GRACE_EXPIRY (R85). -/
def execLinkGraceExpiry (md : Nat) (s : State) : Host.Outcome State Fault Refusal := .next (s.graceAct md)

/-- A retrain ends with the link Active (R59, R85 to R87): it is counted and journalled, and traffic that was held goes on,
unless held writes await RELEASE or DISCARD. A module that was lost comes up again with a conventional reset (R65). The record's CODE
is OK with LONG, STEP and FW 0: the spec lays out no record of a retrain, so they are the model's choice (log 17). -/
def State.retrained (s : State) (md : Nat) (rate : BitVec 2) (x8 : Bool) : State :=
  let l := s.link md
  let s1 := s.setLink md { l with lstate := 0, rate, x8, retrain := satInc l.retrain, lost := false }
  let s2 := (s1.journalRec stOk false false false midFwc (Config.retrainPayload rate x8)).linkPulse md
  let s3 := if l.lost then s2.convReset md else s2
  if l.holding && !(s3.heldSet md) then s3.releaseLink md else s3.pump md

/-- LINK_RETRAIN_COMPLETE (R59). -/
def execLinkRetrainComplete (md : Nat) (rate : BitVec 2) (x8 : Bool) (s : State) : Host.Outcome State Fault Refusal :=
  .next (if (s.link md).lstate = 3 then s.retrained md rate x8 else s)

end Sys2Proof.Machine
end

