-- ==== Sys2Proof/Machine/Interrupts.lean ====
section
/-! DEFINITION. The meanings of the interrupt controller's rows: line events, configuration, takes, ends of service,
software sources, flushes and moderation deadlines (R322 to R339). -/

namespace Sys2Proof.Machine
open Sys2Proof

/-- BAR0 offset of the interrupt controller (R39). -/
def icBase : Nat := 0x090000

/-- LINE_EVENT (R323): an event of a Pulse source is one cycle high. -/
def execLineEvent (src : Nat) (level : Bool) (s : State) : Host.Outcome State Fault Refusal :=
  .next (if srcReserved src then s else if srcIsLevel src then s.setLine src level else if level then s.pulse src else s)

/-- The fields of IC_SCFG as written: SENSE 5 to 7, and SENSE of a Pulse source, are left as they are. -/
def Src.config (x : Src) (n : Nat) (v : Word32) : Src :=
  { x with sense := if srcIsLevel n && bitsOf v 0 3 < 5 then some (BitVec.ofNat 3 (bitsOf v 0 3)) else x.sense,
           en := bitOf v 3, prio := BitVec.ofNat 4 (bitsOf v 4 4), tgt := bitOf v 8, module := bitOf v 9, fwc := bitOf v 10,
           crn := BitVec.ofNat 8 (bitsOf v 11 8), vector := some (BitVec.ofNat 11 (bitsOf v 19 11)),
           offer := false, loc := if x.offer then 0x7F else x.loc, declined := [] }

/-- After a change of a source's configuration: its offer is withdrawn, its line looked at, and it is presented if it has
newly been enabled while pending, else routed afresh (R323, R324, R329). -/
def State.reconfigured (s : State) (n : Nat) (old : Src) : State :=
  let s1 := s.levelEval n
  if !old.pend && (s1.src n).pend then s1
  else if !old.en && (s1.src n).en && (s1.src n).pend then s1.present n
  else s1.route n

/-- An edge source is never in service: ACT ends where SENSE has become an edge (R323). -/
def State.noEdgeService (s : State) (n : Nat) : State :=
  if (s.src n).act && !(s.srcLevelSense n) then
    { s.updSrc n fun x => { x with act := false, loc := 0x7F } with
      targets := s.targets.mapVals fun _ g => { g with service := g.service.filter fun e => e.1 ≠ n } }
  else s

/-- A write of IC_SCFG (R323, R324, R329, R339), which may pin or free a GPIO bank's domain (R401); the block of a reserved number ignores it (R322). -/
def State.icScfg (s : State) (m n : Nat) (v : Word32) : State :=
  if !(rightsOk m (icBase + n * 16)) || !(isConfigMaster m) then s.accFault m
  else if srcReserved n then s
  else
    let s1 := (((s.setSrc n ((s.src n).config n v)).noEdgeService n).reconfigured n (s.src n)).cfgMirror (icBase + n * 16) 4 v.toNat
    if 0x5D0 ≤ n ∧ n < 0x630 then s1.retarget else s1

/-- IC_SCFG_WRITE (R324, R329). -/
def execIcScfgWrite (m src : Nat) (v : Word32) (s : State) : Host.Outcome State Fault Refusal := 
  .next (s.access m icBase fun s => s.icScfg m src v)

/-- A write of IC_STRW: a write to the source's configuration too (R329). -/
def State.icStrw (s : State) (m n : Nat) (v : Word64) : State :=
  if !(rightsOk m (icBase + n * 16 + 8)) || !(isConfigMaster m) then s.accFault m
  else if srcReserved n then s
  else
    let x := s.src n
    ((s.setSrc n { x with trw := v, offer := false, loc := if x.offer then 0x7F else x.loc, declined := [] }).reconfigured n x).cfgMirror (icBase + n * 16 + 8) 8 v.toNat

/-- The master ID of a processor target (R325). -/
def targetMid (t : Nat) : Nat := if t = 2 then 0x10 else if t ≤ 10 then 0x20 + (t - 3) else 0x40 + (t - 11)

/-- The master may write IC_TAKE and IC_DONE of the target (R339). -/
def takeRight (m t : Nat) : Bool :=
  decide (t < 75) && rightsOk m (icBase + 0xF000 + t * 16) && (if t < 2 then isConfigMaster m else m == targetMid t || m == 0x10)

/-- The result of a master's take is kept. -/
def State.takeResult (s : State) (m t : Nat) (r : BitVec 11) : State := s.updTarget t fun g => { g with result := g.result.set m r }

/-- A take or commit answered 0x7FF is counted (IC_TSTAT.WITHDRAWN). -/
def State.withdrawn (s : State) (t : Nat) : State := s.updTarget t fun g => { g with withdrawn := satInc g.withdrawn }

/-- A taken level source is in service at its target (R323, R326, R330). -/
def State.inService (s : State) (n t : Nat) : State :=
  let x := s.src n
  let s1 := if s.srcLevelSense n then s.updTarget t fun g => { g with service := (n, x.prio.toNat) :: g.service } else s
  if 2 ≤ t && s.srcLevelSense n then (s1.setSrc n { x with loc := BitVec.ofNat 7 t }).reofferMember (t - 2) else s1

/-- A write of IC_TAKE (R326). -/
def State.icTake (s : State) (m t : Nat) (n : BitVec 11) : State :=
  if !(takeRight m t) then s.accFault m
  else if s.presentedTo n.toNat t then ((((s.takeSrc n.toNat).updSrc n.toNat fun x => { x with loc := 0x7F }).inService n.toNat t).takeResult m t n)
  else (s.withdrawn t).takeResult m t 0x7FF

/-- IC_TAKE (R326). -/
def execIcTake (m t : Nat) (n : BitVec 11) (s : State) : Host.Outcome State Fault Refusal := 
  .next (s.access m icBase fun s => s.icTake m t n)

/-- A read of IC_TAKE: the reading master's last result (R326). -/
def State.icTakeRd (s : State) (m t : Nat) : State :=
  if t < 75 && rightsOk m (icBase + 0xF000 + t * 16) then s.out ((s.target t).result.get 0x7FF m).toNat else (s.out 0).accFault m

/-- IC_TAKE_READ (R326). -/
def execIcTakeRead (m t : Nat) (s : State) : Host.Outcome State Fault Refusal := .next (s.accessR m icBase fun s => s.icTakeRd m t)

/-- A write of IC_DONE (R326). -/
def State.icDone (s : State) (m t : Nat) (n : BitVec 11) : State :=
  if !(takeRight m t) then s.accFault m
  else if (s.src n.toNat).act && s.srcLevelSense n.toNat && (s.target t).service.any (fun e => e.1 == n.toNat) then
    (s.endService t n.toNat).routeAll
  else s.updTarget t fun g => { g with baddone := satInc g.baddone }

/-- IC_DONE (R326). -/
def execIcDone (m t : Nat) (n : BitVec 11) (s : State) : Host.Outcome State Fault Refusal := 
  .next (s.access m icBase fun s => s.icDone m t n)

/-- A write of IC_SWSET (R335, R339). -/
def State.icSwset (s : State) (m : Nat) (n : BitVec 11) : State :=
  if !(rightsOk m (icBase + 0xF800)) || !(isConfigMaster m || (decide (0x20 ≤ m) && decide (m ≤ 0x27))) then s.accFault m
  else if 0x640 ≤ n.toNat ∧ n.toNat ≤ 0x7FE then s.pulse n.toNat else s.accFault m

/-- IC_SWSET (R335). -/
def execIcSwset (m : Nat) (n : BitVec 11) (s : State) : Host.Outcome State Fault Refusal := .next (s.access m icBase fun s => s.icSwset m n)

/-- A write of IC_FLUSH (R336, R339). -/
def State.icFlush (s : State) (m : Nat) (v : Word32) : State :=
  if !(rightsOk m (icBase + 0xF804)) || !(isConfigMaster m) then s.accFault m
  else
    let s1 := if bitOf v 0 then s.flushModule 0 else s
    s.heldPulse (if bitOf v 1 then s1.flushModule 1 else s1)

/-- IC_FLUSH (R336). -/
def execIcFlush (m : Nat) (v : Word32) (s : State) : Host.Outcome State Fault Refusal := .next (s.access m icBase fun s => s.icFlush m v)

/-- MODERATION_DEADLINE (R334): TIME has reached the deadline of the vector's open batch, which closes with one message. -/
def execModerationDeadline (md vec : Nat) (s : State) : Host.Outcome State Fault Refusal :=
  .next (if s.batches.any (fun b => b.1 == md * 2048 + vec && decide (b.2.deadline ≤ s.frm.time.toNat)) then s.heldPulse (s.closeBatch md vec) else s)

end Sys2Proof.Machine
end

