-- ==== Sys2Proof/Machine/CoreOps.lean ====
section
/-! DEFINITION. The ends of RUNs, lockups and unit faults (R189 to R191, R271, R288 to R291, R302). -/

namespace Sys2Proof.Machine
open Sys2Proof

/-! ### Ends of RUNs (R271, R302) -/

/-- DETAIL of an ending that names a routine (R166). -/
def runDetail (r : RunInfo) (core k : Nat) : Nat := r.routine + core * 0x10000 + k * 0x1000000

/-- The context is FREE: its TSBs and held words are discarded, and its cells freed (R271, R302). -/
def State.leaveCtx (s : State) (core k : Nat) (st : CtxSt) : State :=
  (s.freeHeld (midOfCore core) k).updCtx core k fun c =>
    { c with st, run := none, slot := none, annul := false, depth := 0, ints := [], wait := .nothing, heldW := none, keptR := none,
             left := 0, tsbr := BitVec.ofNat 16 (tsbWord core k), chainPos := none, block := none }

/-- The channel's RUN is over. -/
def State.runOver (s : State) (ch : Nat) : State := s.updChan ch fun c => { c with inRun := false }

/-- A routine is stopped: its program ends with a code that names it (R271). -/
def State.failRun (s : State) (core k : Nat) (code : BitVec 16) (st : CtxSt) : State :=
  match (s.ctx core k).run with
  | none => s.leaveCtx core k st
  | some r => ((s.leaveCtx core k st).runOver r.ch).endProgram r.ch code (s.chan r.ch).remain (runDetail r core k)

/-- What became free lets others go on: grants, parked channels and lower contexts (R220, R264, R300). -/
def State.afterFree (s : State) (core : Nat) : State :=
  ((s.served).releaseFor fun w => w = .context || w = .ledger).arrange core

/-- A channel's RUN, if one is on a context, is dropped with its channel (R189). -/
def State.dropRun (s : State) (ch : Nat) : State :=
  let c := s.chan ch
  if c.inRun then
    let core := if c.crn then 64 + tileOfCh ch else c.core
    if (s.ctx core c.ctx).run.any fun r => r.ch == ch then ((s.leaveCtx core c.ctx .free).runOver ch).arrange core else s.runOver ch
  else s

/-! ### Lockup (R190, R191, R288, R289) -/

/-- PAYLOAD of a CORE_LOCKUP record (R430). -/
def State.lockPayload (s : State) (core : Nat) (out : Bool) : Nat :=
  let x := s.core core
  let c := s.ctx core x.lockCtx
  core + x.lockCtx * 0x80 + x.lockCause.toNat * 0x400 + c.pc.toNat * 0x2000 + c.depth % 8 * 0x20000000 + b2n out * 0x100000000

/-- The core has locked up for the third time within 10,000 frames (R291). -/
def State.thirdLock (s : State) (core : Nat) : Bool := decide (3 ≤ (s.core core).lockFrames.length)

/-- The FWC begins a recovery: the core is frozen, and its record journalled (R290 steps 1 and 2). -/
def State.beginRecovery (s : State) (core : Nat) : State :=
  (s.setFreeze core true).journalRec stCoreLockup false false false midFwc (s.lockPayload core (s.thirdLock core))

/-- A core locks up (R289): its contexts, its sources in service, its cells and its channels; its recovery begins (R290). -/
def State.lockCore (s : State) (core k cause : Nat) : State :=
  if s.locked core then s else
  let s1 := s.updCore core fun c => { c with lockCtx := k, lockCause := BitVec.ofNat 3 cause,
                                             lockFrames := s.frm.frame.toNat :: c.lockFrames.filter fun f => decide (s.frm.frame.toNat < f + 10000) }
  let s2 := { s1 with gctl := { s1.gctl with lastCore := BitVec.ofNat 7 core, lastCtx := BitVec.ofNat 3 k, lastCause := BitVec.ofNat 3 cause } }.setLock core true
  let s3 := (s2.dropService core).reofferMember (memberOfCore core)
  let s4 := s3.freeHeldAll (midOfCore core)
  let s5 := s4.each (List.range (ctxCount core)) fun s j =>
    match (s.ctx core j).run with
    | none => s.updCtx core j fun c => { c with st := .locked, heldW := none, keptR := none }
    | some r => ((s.updCtx core j fun c => { c with st := .locked, run := none, heldW := none, keptR := none }).runOver r.ch).endProgram r.ch stCoreLockup (s.chan r.ch).remain
        (runDetail r core j)
  s5.served.beginRecovery core

/-! ### Unit faults (R29, R189) -/

/-- Channels whose program runs: START_PENDING, ACTIVE, WAIT_TICK and WAIT_EVENT (R135). -/
def Chan.running (c : Chan) : Bool := c.st = .startPending || c.st = .active || c.st = .waitTick || c.st = .waitEvent

/-- Every channel of a tile that runs a program ends with UNIT_FAULT (R189, R191). -/
def State.tileFault (s : State) (tile : Nat) : State :=
  s.each ((s.chans.filter fun e => tileOfCh e.1 == tile && e.2.running).map (·.1)) fun s ch =>
    (s.dropRun ch).failAt ch stUnitFault 0

end Sys2Proof.Machine
end

