-- ==== Sys2Proof/Machine/Hawks.lean ====
section
/-! DEFINITION. The meanings of the Hawk allocator's rows: grants, frees, reserves, credits, and corrected errors (R29,
R297 to R303). -/

namespace Sys2Proof.Machine
open Sys2Proof

/-- BAR0 offset of the Hawk allocator's registers (R39). -/
def hwkBase : Nat := 0x0B0000

/-- The account that a master's grants are charged to: a core's by the RUN on the context, else SYSTEM (R299). -/
def State.acctOf (s : State) (m ctx : Nat) : Nat :=
  match coreOfMid m with
  | none => sysAcct
  | some core => match (s.ctx core ctx).run with
    | none => sysAcct
    | some r => r.cls

/-- The context recorded with a held cell: only for a core (R301). -/
def heldCtx (m ctx : Nat) : Nat := if (coreOfMid m).isSome then ctx else 0

/-- A read of HWK_ALLOC (R301): it never waits. -/
def State.hwkAlloc (s : State) (m ctx : Nat) : State :=
  if !(rightsOk m hwkBase) then (s.out 0).accFault m
  else match s.grant (homeSlice m) (s.acctOf m ctx) (.held m (heldCtx m ctx)) with
    | none => s.out 0
    | some (k, s1) => s1.out (k + 0x8000)

/-- HWK_ALLOC (R301). -/
def execHwkAlloc (m ctx : Nat) (s : State) : Host.Outcome State Fault Refusal := .next (s.accessR m hwkBase fun s => s.hwkAlloc m ctx)

/-- A cell is HELD by a master, in whatever context of a core. -/
def State.heldBy (s : State) (m k : Nat) : Bool := match s.cell k with
  | .held m' _ => m' == m
  | _ => false

/-- The cells from k by NEXT up to and including the END cell, if every one is HELD by the master (R301). -/
def State.heldChain (s : State) (m k : Nat) : Nat → Option (List Nat)
  | 0 => none
  | n + 1 =>
    if !(s.heldBy m k) then none
    else
      let w := s.linkWord k
      if lwEnd w then some [k] else (s.heldChain m (lwNext w) n).map fun l => k :: l

/-- The cells that a write of HWK_FREE names (R301). -/
def State.freeNames (s : State) (m : Nat) (v : Word32) : Option (List Nat) :=
  let k := bitsOf v 0 15
  if bitOf v 16 then s.heldChain m k (s.hawk.cells.length + 1) else if s.heldBy m k then some [k] else none

/-- A write of HWK_FREE (R301): all that it names goes free, or nothing. -/
def State.hwkFree (s : State) (m : Nat) (v : Word32) : State :=
  if !(rightsOk m (hwkBase + 4)) then s.accFault m
  else match s.freeNames m v with
    | some l => (s.each l fun s k => s.freeOne k).served
    | none => { s with hawk := { s.hawk with badFree := satInc s.hawk.badFree } }.accFault m

/-- HWK_FREE (R301). -/
def execHwkFree (m : Nat) (v : Word32) (s : State) : Host.Outcome State Fault Refusal := .next (s.access m (hwkBase + 4) fun s => s.hwkFree m v)

/-- The sum of all reserves with one account's replaced (R303). -/
def State.rsvSum (s : State) (a r : Nat) : Nat := (List.range 65).foldl (fun n b => n + if b = a then r else s.rsv b) 0

/-- A write of HWK_SYS_CFG or HWK_CLS (R303). -/
def State.hwkCls (s : State) (m a : Nat) (v : Word32) : State :=
  if !(rightsOk m hwkBase) || !(isConfigMaster m) || decide (64 < a) || decide (s.gctl.cells.toNat < s.rsvSum a (bitsOf v 0 16) + 1024) then
    s.accFault m
  else
    let s1 : State := { s with hawk := { s.hawk with rsv := s.hawk.rsv.set a (BitVec.ofNat 16 (bitsOf v 0 16)),
                                                     ceil := s.hawk.ceil.set a (BitVec.ofNat 16 (bitsOf v 16 16)) } }
    (s1.cfgMirror (hwkBase + if a = 64 then 0x20 else 0x100 + 8 * a) 4 v.toNat).served

/-- HWK_CLS_WRITE (R303): account 64 is SYSTEM. -/
def execHwkClsWrite (m acct : Nat) (v : Word32) (s : State) : Host.Outcome State Fault Refusal := 
  .next (s.access m hwkBase fun s => s.hwkCls m acct v)

/-- Home slice of a producer: sequencers 0 to 15, MACs 16 to 19, the Dust Sheet 20, Komond ingress 21 (R297). -/
def producerHome (p : Nat) : Nat := if p < 16 then p / 4 else if p < 20 then p - 16 else 3

/-- Cells in CREDIT of a producer. -/
def State.credits (s : State) (p : Nat) : Nat := (s.hawk.cells.filter fun e => e.2 = .credit p).length

/-- n cells go into a producer's credit, uncharged (R298). -/
def State.refill (s : State) (p : Nat) : Nat → State
  | 0 => s
  | n + 1 =>
    match s.pickCell (producerHome p) with
    | none => s
    | some k => ({ s.setCell k (.credit p) 0 with freeNext := s.freeNext + 1 }).refill p n

/-- CREDIT_REFILL (R298): a credit below 2 cells is filled to 4. -/
def execCreditRefill (producer : Nat) (s : State) : Host.Outcome State Fault Refusal :=
  .next (if producer < 22 ∧ s.credits producer < 2 then s.refill producer (4 - s.credits producer) else s)

/-- ECC_CORRECTED (R29): corrected in place and counted. -/
def execEccCorrected (loc : EccLoc) (s : State) : Host.Outcome State Fault Refusal := .next { s with eccCount := s.eccCount + 1 }

end Sys2Proof.Machine
end

