-- ==== Sys2Proof/Machine/Mailboxes.lean ====
section
/-! DEFINITION. The meanings of the mailbox and semaphore rows (R295, R304 to R314). -/

namespace Sys2Proof.Machine
open Sys2Proof

/-! ### Mailboxes -/

/-- BAR0 offset of mailbox m (R39). -/
def mbxBase (mb : Nat) : Nat := 0x0A0000 + mb * 0x40

/-- The result of a send is kept for its master, and for a core its context (R307). -/
def State.sendResult (s : State) (m ctx : Nat) (r : BitVec 2) : State :=
  match coreOfMid m with
  | some core => s.updCtx core ctx fun c => { c with sres := r }
  | none => { s with sendRes := s.sendRes.set m r }

/-- A write of MBX_SEND (R304 to R307). -/
def State.mbxSend (s : State) (m ctx mb : Nat) (v : Word32) : State :=
  let cell := bitsOf v 0 15
  let len := bitsOf v 16 6
  if !(rightsOk m (mbxBase mb)) || decide (256 ≤ mb) then s.accFault m
  else if !(s.heldBy m cell) || len == 0 || decide (48 < len) || !(s.mbx mb).en then s.sendResult m ctx 3
  else if (s.mbx mb).full then (s.mbxRefused mb).sendResult m ctx 2
  else (s.mbxAccept mb cell { sender := m, ctx := heldCtx m ctx, len, remote := none, ch := none }).sendResult m ctx 1

/-- MBX_SEND (R304). -/
def execMbxSend (m ctx mb : Nat) (v : Word32) (s : State) : Host.Outcome State Fault Refusal := 
  .next (s.access m (mbxBase mb) fun s => s.mbxSend m ctx mb v)

/-- POP and PEEK as they read (MBX_POP). -/
def Msg.word (g : Msg) : Nat := g.cell + 0x8000 + g.sender.toNat * 0x10000 + g.len % 64 * 0x2000000

/-- A read of MBX_POP (R308): the cell becomes HELD by the reader, charged to its account. -/
def State.mbxPop (s : State) (m ctx mb : Nat) : State :=
  let x := s.mbx mb
  if !(rightsOk m (mbxBase mb)) || decide (256 ≤ mb) || !(x.any || x.rxm.toNat == m) then (s.out 0).accFault m
  else match x.msgs with
    | [] => s.out 0
    | g :: r => ((((s.touchCell g.cell).setMbx mb { x with msgs := r }).setCell g.cell (.held m (heldCtx m ctx)) (s.acctOf m ctx + 1)).out g.word).mbxLine mb

/-- MBX_POP (R308). -/
def execMbxPop (m ctx mb : Nat) (s : State) : Host.Outcome State Fault Refusal := .next (s.accessR m (mbxBase mb) fun s => s.mbxPop m ctx mb)

/-- Every queued cell of a mailbox goes free (R308). -/
def State.mbxDrop (s : State) (mb : Nat) : State :=
  let l := (s.mbx mb).msgs
  (((s.updMbx mb fun x => { x with msgs := [] }).each l fun s g => s.freeOne g.cell).mbxLine mb).served

/-- A write of MBX_CFG: DEPTH, RXM and ANY only while EN is 0 (R308, MBX registers). -/
def State.mbxCfg (s : State) (m mb : Nat) (v : Word32) : State :=
  let x := s.mbx mb
  if !(rightsOk m (mbxBase mb)) || !(isConfigMaster m) || decide (256 ≤ mb) then s.accFault m
  else
    let same := x.depth.toNat == bitsOf v 1 6 && x.rxm.toNat == bitsOf v 7 9 && x.any == bitOf v 16
    let s1 := if x.en then (if same then s else s.accFault m)
      else s.setMbx mb { x with depth := BitVec.ofNat 6 (bitsOf v 1 6), rxm := BitVec.ofNat 9 (bitsOf v 7 9), any := bitOf v 16 }
    let s2 := (s1.updMbx mb fun x => { x with en := bitOf v 0 }).cfgMirror (mbxBase mb) 4 v.toNat
    if bitOf v 0 then s2 else s2.mbxDrop mb

/-- MBX_DISABLE (R308): a write of MBX_CFG with EN = 0. -/
def execMbxDisable (m mb : Nat) (v : Word32) (s : State) : Host.Outcome State Fault Refusal := 
  .next (s.access m (mbxBase mb) fun s => s.mbxCfg m mb (v &&& 0xFFFFFFFE))

/-! ### Semaphores -/

/-- BAR0 offset of semaphore n (R39). -/
def semBase (n : Nat) : Nat := 0x0A4000 + n * 8

/-- A read that covers SEM_LOCK acquires or is told the owner (R311). -/
def State.semAcquire (s : State) (m n : Nat) : State :=
  let x := s.sem n
  if !(rightsOk m (semBase n)) || decide (256 ≤ n) then (s.out 0).accFault m
  else if x.value = 0 then (s.setSem n { x with value := BitVec.ofNat 10 (m + 1) }).out 0
  else s.out x.value.toNat

/-- SEM_ACQUIRE (R311). -/
def execSemAcquire (m n : Nat) (s : State) : Host.Outcome State Fault Refusal := .next (s.accessR m (semBase n) fun s => s.semAcquire m n)

/-- A write of SEM_LOCK that releases nothing is ignored and counted (R313). -/
def State.semBad (s : State) (m n : Nat) : State := (s.updSem n fun x => { x with bad := satInc x.bad }).accFault m

/-- A 4 B write of SEM_LOCK (R313). -/
def State.semRelease (s : State) (m n : Nat) (v : Word32) : State :=
  let x := s.sem n
  if !(rightsOk m (semBase n)) || decide (256 ≤ n) then s.accFault m
  else if v = 0 ∧ x.value.toNat = m + 1 then s.setSem n { x with value := 0 }
  else s.semBad m n

/-- SEM_RELEASE (R313). -/
def execSemRelease (m n : Nat) (v : Word32) (s : State) : Host.Outcome State Fault Refusal := 
  .next (s.access m (semBase n) fun s => s.semRelease m n v)

/-- A write of 1 to SEM_INFO.FORCE (R313); of another master it has no effect. -/
def State.semForce (s : State) (m n : Nat) : State :=
  if !(rightsOk m (semBase n)) || decide (256 ≤ n) then s.accFault m
  else if isConfigMaster m then s.updSem n fun x => { x with value := 0, bad := satInc x.bad } else s

/-- SEM_FORCE (R313). -/
def execSemForce (m n : Nat) (s : State) : Host.Outcome State Fault Refusal := .next (s.access m (semBase n) fun s => s.semForce m n)

end Sys2Proof.Machine
end

