-- ==== Sys2Proof/Machine/Scrims.lean ====
section
/-! DEFINITION. The meanings of the Scrim bank arbiters' rows: requests, revocation, ends of transfers, the watchdog and
freezing (R184 to R189, R315 to R321). -/

namespace Sys2Proof.Machine
open Sys2Proof

/-- The arbiter of a bank (R31, R292). -/
def arbiterOf : Bank → Nat
  | .hawkCell k => k / 8192 * 4 + k % 4
  | .lath tile => 16 + tile
  | .portUnit tile => 24 + tile
  | .mac m => 32 + m
  | .gpioAdc => 36
  | .fwcMram => 37
  | .egress md => 38 + md

/-- The master IDs (R49). -/
def midList : List Nat :=
  [0x000, 0x001, 0x010] ++ (List.range 8).map (0x020 + ·) ++ (List.range 64).map (0x040 + ·) ++ (List.range 16).map (0x080 + ·)
    ++ [0x100, 0x110, 0x1FF]
/-- A master ID of R49 by its place in the table, counted round. -/
def midAt (n : Nat) : Nat := midList.getD (n % midList.length) 0

/-- The master ID of a requester: R49 gives the queue arbiter and a port's controller no row, and lets no other value appear
(log 25). -/
def midOfReq : Requester → Nat
  | .master m => m
  | .queueArbiter => midAt Config.arbiterId
  | .port p => midAt (Config.portId p)

/-- The rank of a request (R315): cls is the class of a sequencer's channel or of a core's RUN. -/
def State.scrRank (s : State) (who : Requester) (cls : Option Nat) : Nat :=
  match who with
  | .queueArbiter | .port _ => 1
  | .master m =>
    if (0x80 ≤ m ∧ m < 0x90) ∨ (coreOfMid m).isSome then (match cls with
      | some c => s.kindOf c
      | none => 0)
    else if isHost m || m == midFwc || m == 0x1FF then 0 else 1

/-- The arbiter gives no new grant (R320). -/
def Scr.frozen (x : Scr) : Bool := x.freeze || x.hold

/-- A GUARANTEED request revokes the transfer in progress (R317): not one of its own rank, not in its last beat, never on
arbiter 37, and on 38 and 39 not once a beat has left for the link (R188). -/
def revokes (arb : Nat) (r b : ScrReq) : Bool :=
  r.rank == 2 && decide (b.rank < 2) && decide (arb ≠ 37) && decide (b.left + 1 < b.beats) && !(decide (38 ≤ arb) && decide (1 ≤ b.left))

/-- A request is granted its transfer. -/
def Scr.give (x : Scr) (r : ScrReq) : Scr := { x with busy := some r, owner := BitVec.ofNat 9 r.m }

/-- A revoked loser restarts from its first beat: it waits in the pending queue, or asks again where it is full (R318). -/
def Scr.lose (x : Scr) (b : ScrReq) : Scr :=
  let r := { b with left := 0 }
  if x.pend.length < 8 then { x with pend := x.pend ++ [r] } else { x with reqs := x.reqs ++ [r] }

/-- The transfer in progress has come as far as the beats that have left by now. -/
def Scr.progress (x : Scr) (left : Nat) : Scr := { x with busy := x.busy.map fun b => { b with left := max b.left left } }

/-- A request reaches an arbiter (R316, R317, R320). -/
def Scr.request (x : Scr) (arb : Nat) (r : ScrReq) : Scr :=
  if x.frozen then { x with reqs := x.reqs ++ [r] }
  else match x.busy with
    | none => x.give r
    | some b =>
      if revokes arb r b then { (x.lose b).give r with revoked := satInc x.revoked } else { x with reqs := x.reqs ++ [r] }

/-- SCRIM_REQUEST (R316). -/
def execScrimRequest (bank : Bank) (who : Requester) (b : Beats) (cls : Option Nat) (s : State) : Host.Outcome State Fault Refusal :=
  .next (if arbiterOf bank < 40 then
    s.updScr (arbiterOf bank) fun x => (x.progress b.left).request (arbiterOf bank) { who, m := midOfReq who, rank := s.scrRank who cls, beats := b.beats }
  else s)

/-- The distance from the last owner to a master in ascending round robin (R316). -/
def rrDist (owner m : Nat) : Nat := if owner < m then m - owner else m + 0x1000 - owner

/-- The winner among new requests of a rank: the first master after the last owner, its oldest request (R316). -/
def winner (owner rank : Nat) (l : List ScrReq) : Option ScrReq :=
  l.foldl (fun b r => if r.rank ≠ rank then b else match b with
    | none => some r
    | some x => if rrDist owner r.m < rrDist owner x.m then some r else some x) none

/-- The next transfer of a rank: a pending entry first, then a new request (R316, R318). -/
def Scr.nextOf (x : Scr) (rank : Nat) : Option Scr :=
  match takeFirst (fun r => r.rank == rank) x.pend with
  | some (r, rest) => some ({ x with pend := rest }.give r)
  | none =>
    match winner x.owner.toNat rank x.reqs with
    | none => none
    | some r => some ({ x with reqs := x.reqs.erase r }.give r)

/-- The arbiter picks its next winner, unless it is frozen or a transfer runs (R316, R320). -/
def Scr.pick (x : Scr) : Scr :=
  if x.frozen || x.busy.isSome then x
  else (x.nextOf 2).getD ((x.nextOf 1).getD ((x.nextOf 0).getD x))

/-- SCRIM_TRANSFER_COMPLETE (R186, R316). -/
def execScrimTransferComplete (arb : Nat) (s : State) : Host.Outcome State Fault Refusal :=
  .next (if arb < 40 then s.updScr arb fun x => { x with busy := none }.pick else s)

/-- The holder of a bitten grant is contained (R189). -/
def State.contain (s : State) (who : Requester) : State :=
  match who with
  | .port p => s.portOos p stSegmentFault
  | .queueArbiter => s.haltDie
  | .master m =>
    match coreOfMid m with
    | some core => s.lockCore core (s.core core).ptr 6
    | none =>
      if 0x80 ≤ m ∧ m < 0x90 then s.tileFault ((m - 0x80) / 2)
      else if isHost m || m == 0x1FF then s.accFault m else s.haltDie

/-- SCRIM_WATCHDOG_BITE (R189, R319). -/
def State.bite (s : State) (arb : Nat) : State :=
  match (s.scr arb).busy with
  | none => s
  | some b =>
    let s1 := s.updScr arb fun x => { x with busy := none, bites := satInc x.bites }
    let s2 := { s1 with gctl := { s1.gctl with wdLast := BitVec.ofNat 32 (arb + b.m * 256) } }
    let s3 := (s2.journalRec stScrimWatchdog false false false b.m arb).pulse 0x404
    (s3.contain b.who).updScr arb Scr.pick

/-- SCRIM_WATCHDOG_BITE (R319). -/
def execScrimWatchdogBite (arb : Nat) (s : State) : Host.Outcome State Fault Refusal := .next (if arb < 40 then (s.bite arb).served else s)

/-- A write of SCR_CTL (R320, R321). -/
def State.scrCtl (s : State) (m arb : Nat) (v : Word32) : State :=
  if !(rightsOk m (0x5000 + arb * 16)) || !(isConfigMaster m) then s.accFault m
  else s.updScr arb fun x => { x with freeze := bitOf v 0, wdog := BitVec.ofNat 8 (bitsOf v 8 8) }.pick

/-- SCRIM_FREEZE (R320). -/
def execScrimFreeze (m arb : Nat) (v : Word32) (s : State) : Host.Outcome State Fault Refusal :=
  .next (s.access m 0x5000 fun s => if arb < 40 then s.scrCtl m arb v else s)

end Sys2Proof.Machine
end

