-- ==== Sys2Proof/Machine/Runs.lean ====
section
/-! DEFINITION. RUN: its checks, the choice of a context, dispatch, exit and the cycle bound (R160, R212, R265 to R272). -/

namespace Sys2Proof.Machine
open Sys2Proof

/-! ### The choice of a context (R212, R265, R266) -/

/-- A context is reserved for GUARANTEED RUNs (R266). -/
def State.reservedCtx (s : State) (core k : Nat) : Bool :=
  if core < 64 then k == 7 && s.reserves false else k == 3 && s.reserves true

/-- The FREE contexts of a core open to a RUN, in rising order; `res` says whether reserved ones count. -/
def State.openCtxs (s : State) (core : Nat) (res : Bool) : List Nat :=
  if s.coreOk core then
    (List.range (ctxCount core)).filter fun k => !(ownSlot core k) && (s.ctx core k).st = .free && (res || !(s.reservedCtx core k))
  else []

/-- The best core of a list by a measure, the lowest number among equals. -/
def bestCore (l : List Nat) (better : Nat → Nat → Bool) : Option Nat :=
  l.foldl (fun b c => match b with
    | none => some c
    | some x => if better c x then some c else some x) none

/-- The Trowel cores of a tile. -/
def trowels (tile : Nat) : List Nat := (List.range 8).map fun i => tile * 8 + i

/-- A Trowel core for a RUN, among those with an open context: for GUARANTEED work the one with the fewest GUARANTEED
cycles placed in the frame, else the one with the most FREE contexts (R212, R265); a resting core only where no other
has an open context, and then the one at the shallowest level (R403). -/
def State.pickCore (s : State) (tile : Nat) (guar res : Bool) : Option Nat :=
  let all := (trowels tile).filter fun c => !(s.openCtxs c res).isEmpty
  let l := all.filter fun c => (s.dom c).level == 0
  if l.isEmpty then bestCore all fun a b => decide ((s.dom a).level < (s.dom b).level)
  else if guar then bestCore l fun a b => decide ((s.core a).placed < (s.core b).placed)
  else bestCore l fun a b => decide ((s.openCtxs b false).length < (s.openCtxs a false).length)

/-- The core and context for a RUN of a tile (R265, R266). -/
def State.pickCtx (s : State) (tile : Nat) (crn guar : Bool) : Option (Nat × Nat) :=
  let on (core : Option Nat) (res : Bool) : Option (Nat × Nat) := match core with
    | none => none
    | some c => ((s.openCtxs c res).head?).map fun k => (c, k)
  let first := if crn then on (some (64 + tile)) false else on (s.pickCore tile guar false) false
  match first with
  | some x => some x
  | none => if guar then (if crn then on (some (64 + tile)) true else on (s.pickCore tile true true) true) else none

/-! ### Checks and dispatch (R160, R269) -/

/-- The routine of a tile's library by number (R386). -/
def State.routine (s : State) (tile num : Nat) (crn : Bool) : Option Routine :=
  (s.lib tile).routines.find? fun r => r.num == num && r.crn == crn

/-- The bound of a RUN in units of 16 cycles: BOUND, or the declared bound (R160). -/
def runBound (r : Routine) (param : Word32) : Nat := if bitsOf param 16 16 = 0 then r.bound else bitsOf param 16 16

/-- What a RUN charges at its dispatch (R213): its slot and its bound. -/
def runCost (crn : Bool) (bound : Nat) : Cost := if crn then { disp := 1, ccyc := bound } else { disp := 1, tcyc := bound }

/-- A bound fits the time left in the frame: 16 cycles take 20 ns on a Trowel and 16 ns on a Cornice core (R160). -/
def State.boundFits (s : State) (crn : Bool) (bound : Nat) : Bool :=
  let left := s.frm.next.toNat - s.frm.time.toNat
  decide (bound * (if crn then 16 else 20) ≤ left * 10)

/-- Why the RUN of a channel cannot be dispatched now: what to park for, and whether it is an overrun (R217, R220). -/
def State.runBlocked (s : State) (ch : Nat) (crn : Bool) (bound : Nat) : Option (ParkWhy × Bool) :=
  if !(s.fitsCh ch (runCost crn bound)) then some (.budget, true)
  else if !(s.boundFits crn bound) then some (.timeLeft, false)
  else if (s.pickCtx (tileOfCh ch) crn (s.isGuar ch)).isNone then some (.context, false) else none

/-- The RUN waits to be dispatched, or parks (R160, R217). -/
def State.tryRun (s : State) (ch : Nat) (crn : Bool) (bound : Nat) : State :=
  match s.runBlocked ch crn bound with
  | none => s
  | some (why, overrun) => s.park ch why overrun

/-- RUN (R160): the checks that its routine, its bound and its data need, in the order absent, bound, segment, chain. -/
def State.doRun (s : State) (ch : Nat) (w : BitVec 128) : State :=
  let c := s.chan ch
  let p := ccwParam w
  let a := ccwAddr w
  let crn := bitOf p 12
  match s.routine (tileOfCh ch) (bitsOf p 0 12) crn with
  | none => s.failNow ch stRoutineAbsent 0
  | some r =>
    if r.bound < bitsOf p 16 16 then s.failNow ch stBadParam 0
    else if c.lsegBad (a, ccwCount w) then s.failNow ch stLsegLimit 0
    else if spaceOf a = 1 ∧ (c.pieceHead a).isNone then s.failNow ch stHawkExhausted 0
    else if s.unfitCh ch (runCost crn (runBound r p)) then s.failNow ch stBudgetUnfit 0
    else
      (s.updXfer ch fun _ => { cmd := 0x0C, param := p, first := c.ccwa, rs := ccwRs w, sl := ccwSl w, pi := ccwPi w, phase := .run }).tryRun ch crn
        (runBound r p)

/-- RUN (R160). -/
def execRun (ch : Nat) (s : State) : Host.Outcome State Fault Refusal := .next (s.onDue ch 0x0C fun s w => s.doRun ch w).served

/-- A valid segment. -/
def seg (base limit : Nat) : Seg := { base := BitVec.ofNat 32 base, limit := BitVec.ofNat 16 limit, v := true }

/-- The segments that a routine is given (R269). -/
def State.runSegs (s : State) (ch core k : Nat) (w : BitVec 128) (r : Routine) : Table Seg :=
  let c := s.chan ch
  let a := ccwAddr w
  let words := ceilDiv (ccwCount w) 2
  let lbase := cellAddr c.lbase
  let s1 : Seg := if spaceOf a = 2 then seg (lbase + bitsOf a 0 16) (words - 1)
    else { seg (cellAddr ((c.pieceHead a).getD 0)) (words - 1) with chained := true }
  let s2 : Seg := match c.lastPort.filter (· ≠ portLocal) with
    | none => {}
    | some p => { seg (portBase p + (if portKind p = some .eth then 0x3800 else 0x800)) 0x1FF with p := true }
  let s3 : Seg := if c.lcells = 0 then {} else seg lbase (32 * c.lcells - 1)
  let s4 : Seg := { seg (0x40000 + 0x40 * ch) 0x1F with lathPort := true }
  let s5 : Seg := match r.mbx with
    | none => {}
    | some m => seg (0xA0000 + 0x40 * m) 0x1F
  [(0, seg (aliasAddr (privWord core k)) 0xFF), (1, s1), (2, s2), (3, s3), (4, s4), (5, s5), (6, {}), (7, {})]

/-- The context as a dispatch loads it (R269): w0 to w2 stand in its private area. -/
def State.loadCtx (s : State) (ch core k : Nat) (w : BitVec 128) (r : Routine) : State :=
  let words := ceilDiv (ccwCount w) 2
  let base := localBase core + 2 * privWord core k
  let info : RunInfo := { ch, routine := r.num, rs := ccwRs w, cls := (s.chan ch).wcls, tile := tileOfCh ch, bound := runBound r (ccwParam w),
                          frame := s.frm.frame, codeOff := r.off, codeLen := r.len, port := (s.chan ch).lastPort.filter (· ≠ portLocal) }
  let s1 := s.setCtx core k { ({} : Ctx) with
    st := .ready, segs := s.runSegs ch core k w r, cseg := seg (aliasAddr (libWord core + r.off)) (r.len - 1),
    vtb := BitVec.ofNat 16 (vtbWord core), tsbr := BitVec.ofNat 16 (tsbWord core k), left := 16 * info.bound, run := some info,
    sres := (s.ctx core k).sres }
  ((s1.storeWord base (BitVec.ofNat 16 ch)).storeWord (base + 2) (BitVec.ofNat 16 words)).storeWord (base + 4) (BitVec.ofNat 16 r.num)

/-- A RUN is dispatched on a context: its bound is charged, and lower contexts of the core give way (R213, R217, R269). -/
def State.dispatchRun (s : State) (ch core k : Nat) (w : BitVec 128) (r : Routine) : State :=
  let b := runBound r (ccwParam w)
  let s1 := (s.chargeCh ch (runCost r.crn b)).loadCtx ch core k w r
  let s2 := if s.isGuar ch then s1.updCore core fun c => { c with placed := c.placed + b } else s1
  let at_ := (s.chan ch).chain.toList.map (· / 8192) ++ (if (s.chan ch).lcells = 0 then [] else [(s.chan ch).lbase / 8192])
  (((s2.wakeDomain core 2).wakeData at_).goChan ch fun c => { c with inRun := true, core := core % 64, ctx := k, crn := r.crn }).arrange core

/-- RUN_DISPATCH (R269): a RUN that waits is dispatched, or parks (R160, R217). -/
def State.runDispatch (s : State) (ch : Nat) : State :=
  let c := s.chan ch
  if c.st ≠ .active || c.xfer.phase ≠ .run || c.inRun || !s.arbiterOn then s else
  match c.heldCcw with
  | none => s
  | some w =>
    match s.routine (tileOfCh ch) (bitsOf (ccwParam w) 0 12) (bitOf (ccwParam w) 12) with
    | none => s.failNow ch stRoutineAbsent 0
    | some r =>
      match s.runBlocked ch r.crn (runBound r (ccwParam w)) with
      | some (why, overrun) => s.park ch why overrun
      | none =>
        match s.pickCtx (tileOfCh ch) r.crn (s.isGuar ch) with
        | none => s
        | some (core, k) => (((s.updChan ch fun c => { c with released := false }).prefetch ch).dispatchRun ch core k w r)

/-- RUN_DISPATCH (R269). -/
def execRunDispatch (ch : Nat) (s : State) : Host.Outcome State Fault Refusal := .next (s.runDispatch ch).served

/-! ### Exit and cycle bound (R160, R213, R271) -/

/-- A routine exits with USER and error (R160, R259): cycles not used go back in the frame of its dispatch, its effect is
DONE, and the program goes on or ends with ROUTINE_ERROR. -/
def State.exitRun (s : State) (core k user err : Nat) : State :=
  match (s.ctx core k).run with
  | none => s
  | some r =>
    let left := (s.ctx core k).left / 16
    let s1 := if s.frm.frame = r.frame then s.refund r.cls (tileKey r.tile (if core < 64 then 1 else 2)) left else s
    let s2 := ((s1.leaveCtx core k .free).runOver r.ch).doneEffect r.ch 0
    let x := (s2.chan r.ch).xfer
    let low := (s2.chan r.ch).cond.toNat % 256 &&& 0xBF
    let s3 := s2.updChan r.ch fun c =>
      { c with cond := BitVec.ofNat 16 (user % 256 * 256 + low + (if x.sl && err ≠ 0 then 64 else 0)), xfer := { c.xfer with phase := .none } }
    let s4 := if err ≠ 0 && !x.sl then s3.endProgram r.ch stRoutineError (s3.chan r.ch).remain (err % 256) else s3.goOn r.ch
    s4.afterFree core

/-- The bound of a context's routine is reached, and it stands at a boundary where it stops (R271, R275). -/
def State.boundReached (s : State) (core k : Nat) : Bool :=
  let c := s.ctx core k
  c.run.isSome && !c.inInt && c.atBoundary && [CtxSt.ready, .waiting, .held].contains c.st && c.left == 0

/-- CYCLE_BOUND_EXPIRY (R271): a routine whose bound is reached, the cycles of its wait so far counted (R258), is stopped at its
boundary. -/
def execCycleBoundExpiry (core ctx : Nat) (s : State) : Host.Outcome State Fault Refusal :=
  .next (let s1 := if (s.ctx core ctx).st = .waiting then (s.passWait core ctx).mark core ctx else s
    if s1.boundReached core ctx then (s1.failRun core ctx stCycleBound .free).afterFree core else s)

end Sys2Proof.Machine
end

