-- ==== Sys2Proof/Machine/AdminOps.lean ====
section
/-! DEFINITION. What admin commands do: binding, routine libraries, admission and commits, calibration blocks, firmware images,
the journal and keys (R221 to R224, R341, R384 to R395, R435 to R446). -/

namespace Sys2Proof.Machine
open Sys2Proof

/-! ### Commits (R221, R438) -/

/-- The frame at whose tick a change accepted now takes effect: the next one; in a pair in sync one later where an
acknowledgement could still be due at the next tick (R177, R221, R388). -/
def State.commitFrame (s : State) : Nat :=
  s.frm.frame.toNat + if s.paired && decide (s.frm.next.toNat < s.frm.time.toNat + 2000) then 2 else 1

/-- What a CONFIG frame carries of a change that waits for its frame (R438, R460): the standby holds the shadow values itself. -/
def Change.recs (w : Change) (frame : BitVec 48) : List ConfigRec :=
  match w with
  | .budgets .. => [.budgets frame]
  | .ports snap => [.ports (BitVec.ofNat 128 (snap.foldl (fun n e => n + 2 ^ e.1) 0)) frame]
  | .latFloor tol ok => [.latFloor tol ok frame]
  | .cal p b => [.cal p b frame]
  | .swap old new crn tiles => [.swap old new crn tiles frame]
  | .firmware | .leave _ => []

/-- A change waits for its tick, mirrored with its frame (R438, R460). -/
def State.commitLater (s : State) (what : Change) (c : AdmCmd) : State :=
  let s1 := (s.admWaits c).mirror .config true (.config (what.recs (BitVec.ofNat 48 s.commitFrame)))
  { s1 with commits := s1.commits ++ [{ what, frame := s.commitFrame, reply := some c, gate := if s.paired then some s1.lastFrame else none }] }

/-! ### Admission (R222 to R224, R388) -/

/-- A snapshot of what BUDGET_COMMIT commits. -/
structure Snap where
  cls : Table Budgets
  ports : List (Nat × Table (BitVec 20))
  period : Nat

/-- The snapshot of every shadow value (R221). -/
def State.snapshot (s : State) : Snap :=
  { cls := s.classes.mapVals fun _ x => x.shadow, ports := s.ports.map fun e => (e.1, e.2.bshadow), period := s.frm.period.toNat }

/-- Capacities per frame of a period in 10 ns (R222): DISP, TCYC, CCYC and SBEAT of a tile, and bus time of a port. -/
def capDisp (p : Nat) : Nat := p / 2
def capTcyc (p : Nat) : Nat := 4 * p
def capCcyc (p : Nat) : Nat := 5 * p / 8
def capSbeat (p : Nat) : Nat := 10 * p
def capBus (p : Nat) : Nat := p / 10

/-- Read units of a module per frame at its rate and width; 0 where it is not Active (R222). -/
def State.capUrd (s : State) (md p : Nat) : Nat :=
  let l := s.link md
  if l.up && !l.lost && l.lstate = 0 then 270 * p * (l.rate.toNat + 1) * (if l.x8 then 1 else 2) / 512 else 0

/-- 90 % of a capacity (R223). -/
def ninety (c : Nat) : Nat := 9 * c / 10

/-- A core or read budget of a GUARANTEED class as a number (R213). -/
def guarBudget (b : BitVec 24) : Nat := if b = BitVec.allOnes 24 then 0 else b.toNat

/-- The GUARANTEED classes of a snapshot. -/
def Snap.guar (n : Snap) : List (Nat × Budgets) := n.cls.filter fun e => e.2.kind = 2

/-- The sum of a budget over the GUARANTEED classes that a test takes. -/
def Snap.sum (n : Snap) (take : Nat → Bool) (f : Budgets → BitVec 24) : Nat :=
  (n.guar.filter fun e => take e.1).foldl (fun a e => a + guarBudget (f e.2)) 0

/-- A sum above its limit: the four result words of R388. -/
def exceeds (code idx sum limit : Nat) : Option (List Nat) := if limit < sum then some [code, idx, sum, limit] else none

/-- The first answer of a list of checks. -/
def firstSome {α : Type} (l : List (Option α)) : Option α := l.foldl (fun r x => match r with
  | some a => some a
  | none => x) none

/-- In SECOND_HOST mode, a queue of a module uses the class, enabled or not (R223). -/
def State.classOn (s : State) (md c : Nat) : Bool := (List.range 1024).any fun q => (s.q q).wcls.toNat == c && b2n (s.q q).module == md

/-- The read budgets against the modules (R223). -/
def State.urdOver (s : State) (n : Snap) : Option (List Nat) :=
  let u0 (b : Budgets) : BitVec 24 := b.urd0
  let u1 (b : Budgets) : BitVec 24 := b.urd1
  let lim md := ninety (s.capUrd md n.period)
  if s.mode = 2 then
    let m := b2n s.carry
    firstSome [exceeds 4 m (n.sum (fun _ => true) u0) (lim m), exceeds 5 m (n.sum (fun _ => true) u1) (lim m)]
  else if s.mode = 1 then firstSome [exceeds 4 0 (n.sum (s.classOn 0) u0) (lim 0), exceeds 5 1 (n.sum (s.classOn 1) u1) (lim 1)]
  else firstSome [exceeds 4 0 (n.sum (fun _ => true) u0) (lim 0), exceeds 5 1 (n.sum (fun _ => true) u1) (lim 1)]

/-- The bus-time budgets of the ports (R223). -/
def Snap.busOver (n : Snap) : Option (List Nat) :=
  firstSome (n.ports.map fun e =>
    exceeds 6 e.1 (n.guar.foldl (fun a g => a + guarBus (e.2.get (BitVec.allOnes 20) g.1)) 0) (ninety (capBus n.period)))

/-- The largest declared bound of a library (R223). -/
def State.maxBound (s : State) (crn : Bool) : Nat :=
  s.libs.foldl (fun a e => e.2.routines.foldl (fun a r => if r.crn = crn then max a r.bound else a) a) 0

/-- The declared bounds against a GUARANTEED class's cycles (R223). -/
def State.boundOver (s : State) (n : Snap) : Option (List Nat) :=
  firstSome (n.guar.map fun e =>
    let t := guarBudget e.2.tcyc
    let c := guarBudget e.2.ccyc
    firstSome [if t = 0 then none else exceeds 7 e.1 (s.maxBound false) t, if c = 0 then none else exceeds 7 e.1 (s.maxBound true) c])

/-- KIND 3, and WEIGHT 0 of a SHAPED class (R224). -/
def Snap.kindBad (n : Snap) : Option (List Nat) :=
  firstSome (n.cls.map fun e =>
    if e.2.kind = 3 then some [8, e.1, 3, 0] else if e.2.kind = 1 ∧ e.2.weight = 0 then some [8, e.1, 0, 0] else none)

/-- The first resource that fails, with its result words (R388). -/
def State.admission (s : State) (n : Snap) : Option (List Nat) :=
  let p := n.period
  let all (_ : Nat) : Bool := true
  firstSome [exceeds 0 0 (n.sum all fun b => b.disp) (ninety (capDisp p)), exceeds 1 0 (n.sum all fun b => b.tcyc) (ninety (capTcyc p)),
    exceeds 2 0 (n.sum all fun b => b.ccyc) (ninety (capCcyc p)), exceeds 3 0 (n.sum all fun b => b.sbeat) (ninety (capSbeat p)),
    s.urdOver n, n.busOver, s.boundOver n, n.kindBad,
    if p < 5000 ∨ 1000000 < p then some [9, 0, p, 0] else none]

/-- BUDGET_COMMIT (R221, R388). -/
def State.budgetCommit (s : State) (c : AdmCmd) : State :=
  let n := s.snapshot
  match s.admission n with
  | some r => s.replyAdm c (if r.headD 0 < 8 then stAdmission else stBadArgument) 0xFF r none
  | none => s.commitLater (.budgets n.cls n.ports (BitVec.ofNat 20 n.period)) c

/-! ### Port configuration (R341, R389) -/

/-- The gate list of an ETH port: its valid entries' intervals, up to the first invalid entry, with their offsets (R358). -/
def State.gateSum (s : State) (p e total cycle : Nat) : Nat → Option (Nat × Nat)
  | 0 => none
  | n + 1 =>
    if !bitOf (s.pshadow p (0x1000 + 8 * e)) 8 then none else
    let t := total + (s.pshadow p (0x1004 + 8 * e)).toNat
    if cycle < t then some (0x1004 + 8 * e, 0) else s.gateSum p (e + 1) t cycle n

/-- The first shadow field of a port that holds a value outside its range: register offset and lowest bit (R341). -/
def State.shadowBad (s : State) (p : Nat) : Option (Nat × Nat) :=
  let w := s.pshadow p
  let bad (b : Bool) (off bit : Nat) : Option (Nat × Nat) := if b then some (off, bit) else none
  match portKind p with
  | some .t1s => firstSome
      ([bad (bitOf (w 0x100) 2 && bitsOf (w 0x100) 4 5 != 0) 0x100 4,
        bad (bitsOf (w 0x104) 0 6 == 0 || decide (32 < bitsOf (w 0x104) 0 6)) 0x104 0,
        bad (decide (bitsOf (w 0x108) 0 11 < 64) || decide (1518 < bitsOf (w 0x108) 0 11)) 0x108 0])
  | some .uart => firstSome [bad (bitOf (w 0x100) 1 && bitsOf (w 0x100) 5 2 != 3) 0x100 1, bad (bitsOf (w 0x100) 2 2 == 3) 0x100 2,
      bad (decide (bitsOf (w 0x104) 0 20 < 256)) 0x104 0]
  | some .i2c => bad (bitsOf (w 0x100) 1 2 == 3) 0x100 1
  | some .gpio => firstSome ((List.range 16).map fun l =>
      let v := w (0x100 + 4 * l)
      let m := bitsOf v 0 3
      firstSome [bad (decide (5 < m) || (m == 5 && l % 2 == 1)) (0x100 + 4 * l) 0, bad (bitsOf v 5 2 == 0) (0x100 + 4 * l) 5,
        bad (bitsOf v 8 2 == 3) (0x100 + 4 * l) 8])
  | some .eth => firstSome [bad (decide (5 < bitsOf (w 0x100) 1 3)) 0x100 1,
      s.gateSum p 0 0 ((bitsOf (w 0x100) 12 4 + 1) * s.frm.periodAct.toNat) 64]
  | _ => none

/-- The ports that a PORT_COMMIT names. -/
def AdmCmd.ports (c : AdmCmd) : List Nat := allPorts.filter fun p => bitOf (c.pw (p / 32)) (p % 32)

/-- PORT_COMMIT (R389). -/
def State.portCommit (s : State) (c : AdmCmd) : State :=
  let ps := c.ports
  match ps.find? fun p => (s.port p).st = 4 with
  | some p => s.replyAdm c stBusy 0xFF [p] none
  | none =>
    match firstSome (ps.map fun p => (s.shadowBad p).map fun b => [p, b.1, b.2]) with
    | some r => s.replyAdm c stBadArgument 0xFF r none
    | none => s.commitLater (.ports (ps.map fun p => (p, (s.port p).shadow))) c

/-! ### Binding (R384, R385) -/

/-- Every cell of a run is FREE, or LSEG of the channel. -/
def State.runFree (s : State) (ch k n : Nat) : Bool :=
  (List.range n).all fun i => s.cellFree (k + i) || s.cell (k + i) = .lseg ch

/-- A free run of n cells in a slice: the proposed one, or the first (R384). -/
def State.findRun (s : State) (ch q n k : Nat) : Nat → Option Nat
  | 0 => none
  | f + 1 => if s.runFree ch k n && decide (k + n ≤ (q + 1) * 8192) then some k else s.findRun ch q n (k + 1) f

/-- The slice of a channel's local segment: its quadrant's, or the next one in service (R143). -/
def State.lsegSlice (s : State) (ch : Nat) : Option Nat :=
  ((List.range 4).map fun i => (tileOfCh ch / 2 + i) % 4).find? s.sliceOn

/-- The run for a local segment of n cells (R143, R384). -/
def State.lsegRun (s : State) (ch n : Nat) : Option Nat :=
  match s.lsegSlice ch with
  | none => none
  | some q =>
    let p := Config.freeCell s.freeNext
    if p / 8192 = q ∧ p + n ≤ (q + 1) * 8192 ∧ s.runFree ch p n then some p else s.findRun ch q n (q * 8192) 8192

/-- The cells of a channel's local segment go free. -/
def State.freeLseg (s : State) (ch : Nat) : State :=
  s.each ((s.hawk.cells.filter fun e => e.2 = .lseg ch).map (·.1)) fun s k => s.freeOne k

/-- A run becomes the channel's local segment, its cells written 0 (R384). -/
def State.takeLseg (s : State) (ch k n : Nat) : State :=
  ((s.each (List.range n) fun s i => s.setCell (k + i) (.lseg ch) 0).store (cellAddr k) (List.replicate (64 * n) 0)).updChan ch fun c =>
    { c with lbase := if n = 0 then 0 else k, lcells := n }

/-- BIND_CHANNEL (R384). -/
def State.bindChannel (s : State) (c : AdmCmd) : State :=
  let ch := c.target
  let x := s.chan ch
  let q := bitsOf (c.pw 0) 0 10
  let n := bitsOf (c.pw 0) 16 7
  let res (s : State) : List Nat := [(s.chan ch).lbase % 0x8000 + n * 0x10000]
  if x.bound && x.queue = q && x.lcells = n then s.replyOk c (res s) none
  else if (!x.bound && x.st ≠ .idle) || !(x.st = .idle || x.st = .halted || x.st = .error) then s.replyBad c stBusy
  else
    let old := x.lcells
    let go (s : State) (k : Nat) : State :=
      let s1 := (((s.freeLseg ch).takeLseg ch k n).goChan ch fun y => { y with queue := q, bound := true }).served.retarget
      s1.replyOk c (res s1) (some [.bind ch q n])
    if n = 0 then go s 0
    else if s.freeOrCredit + old < s.owed + n then s.replyBad c stHawkExhausted
    else match s.lsegRun ch n with
      | none => s.replyBad c stHawkExhausted
      | some k => go { s with freeNext := s.freeNext + 1 } k

/-- UNBIND_CHANNEL (R385). -/
def State.unbindChannel (s : State) (c : AdmCmd) : State :=
  let ch := c.target
  let x := s.chan ch
  if !x.bound then s.replyOk c [] none
  else if !(x.st = .idle || x.st = .halted || x.st = .error) then s.replyBad c stBusy
  else
    let s1 := ((s.freeLseg ch).freeChChain ch).goChan ch fun y => { y with bound := false, st := .idle, lbase := 0, lcells := 0 }
    (s1.served.retarget).replyOk c [] (some [.unbind ch])

/-! ### Routine libraries (R386, R387) -/

/-- Words of a library (R386). -/
def libWords : Nat := 12288

/-- The tiles that a mask names. -/
def tilesOf (mask : Nat) : List Nat := (List.range 8).filter fun t => Nat.testBit mask t

/-- The handler set of a library. -/
def Library.hand (l : Library) (crn : Bool) : Option HandSet := if crn then l.handCrn else l.handTrw

/-- A handler set takes the place of the one before. -/
def Library.setHand (l : Library) (crn : Bool) (h : HandSet) : Library :=
  if crn then { l with handCrn := some h } else { l with handTrw := some h }

/-- The runs of words that a tile's library has in use: offset and length. -/
def Library.used (l : Library) (crn : Bool) : List (Nat × Nat) :=
  ((l.routines.filter fun r => r.crn = crn).map fun r => (r.off, r.len)) ++ ((l.hand crn).map fun h => (h.off, h.len)).toList

/-- Runs of words that running routines of a tile still use are among those of the library: a swap leaves them with the
other number (R445). -/
def State.usedWords (s : State) (tiles : List Nat) (crn : Bool) : List (Nat × Nat) := tiles.flatMap fun t => (s.lib t).used crn

/-- The first offset from o on where n words are free in the lists of runs: the run that stands in the way is passed. -/
def firstRun (used : List (Nat × Nat)) (n o : Nat) : Nat → Option Nat
  | 0 => none
  | f + 1 =>
    if libWords < o + n then none
    else match used.find? fun r => decide (o < r.1 + r.2) && decide (r.1 < o + n) with
      | none => some o
      | some r => firstRun used n (r.1 + r.2) f

/-- Where n words go: at the offset that the routine has in other named tiles if they are free there, else in the first common
run (R387). -/
def placeRun (used : List (Nat × Nat)) (n : Nat) (have_ : Option Nat) : Option Nat :=
  match have_ with
  | some o => if firstRun used n o 1 = some o then some o else firstRun used n 0 (used.length + 1)
  | none => firstRun used n 0 (used.length + 1)

/-- Words not in use in a tile's library. -/
def State.wordsLeft (s : State) (t : Nat) (crn : Bool) : Nat := libWords - ((s.lib t).used crn).foldl (fun a r => a + r.2) 0

/-- Words left in the smallest library of the named tiles (R383). -/
def State.smallest (s : State) (tiles : List Nat) (crn : Bool) : Nat := tiles.foldl (fun a t => min a (s.wordsLeft t crn)) libWords

/-- The cores whose library a tile and CRN name (R386). -/
def libCores (t : Nat) (crn : Bool) : List Nat := if crn then [64 + t] else trowels t

/-- Code words as bytes. -/
def wordBytes (l : List Word) : List Byte := l.flatMap fun w => leBytes 2 w.toNat

/-- Code written into the library area of every core of a tile (R386). -/
def State.writeLib (s : State) (t : Nat) (crn : Bool) (off : Nat) (code : List Word) : State :=
  s.each (libCores t crn) fun s core => s.store (localBase core + 2 * (libWord core + off)) (wordBytes code)

/-- The routine stands with the same content. -/
def Routine.same (r : Routine) (len bound : Nat) (mbx : Option Nat) (code : List Word) : Bool :=
  r.len == len && r.bound == bound && r.mbx == mbx && r.code == code

/-- MBX of a ROUTINE_LOAD. -/
def AdmCmd.loadMbx (c : AdmCmd) : Option Nat := if bitsOf (c.pw 5) 0 9 = 0x1FF then none else some (bitsOf (c.pw 5) 0 9)

/-- ROUTINE_LOAD of a routine (R387). -/
def State.routineLoad (s : State) (c : AdmCmd) (words : List Word) : State :=
  let ts := tilesOf c.target
  let num := bitsOf (c.pw 0) 0 12
  let crn := bitOf (c.pw 0) 12
  let len := c.codeLen
  let bound := bitsOf (c.pw 4) 0 16
  let code := words.take len
  let there := ts.filter fun t => (s.routine t num crn).isSome
  let differs := there.any fun t => match s.routine t num crn with
    | none => false
    | some r => !(r.same len bound c.loadMbx code)
  if differs then s.replyBad c stBusy
  else
    let todo := ts.filter fun t => (s.routine t num crn).isNone
    match todo, there.head?.bind fun t => s.routine t num crn with
    | [], some r => s.replyOk c [r.off, s.smallest ts crn] none
    | _, _ =>
      let used := s.usedWords todo crn
      match placeRun used len ((there.head?.bind fun t => s.routine t num crn).map (·.off)) with
      | none => s.replyAdm c stBadArgument 3 [] none
      | some off =>
        let s1 := s.each todo fun s t =>
          (s.writeLib t crn off code).updLib t fun l =>
            { l with routines := l.routines ++ [{ num, crn, off, len, bound, mbx := c.loadMbx, code }] }
        s1.replyOk c [off, s1.smallest ts crn] (some (todo.map fun t => .routine t num crn off bound c.loadMbx code))

/-- A core is frozen and every context of it is FREE; of a Cornice core contexts 1 to 3 (R444). -/
def State.drained (s : State) (core : Nat) : Bool :=
  s.frozen core && (List.range (ctxCount core)).all fun k => ownSlot core k || (s.ctx core k).st = .free

/-- A vector word of a handler set: the code offset is added, unless it is unused (R387). -/
def vectorWord (off : Nat) (w : Word) : Word := if w = 0xFFFF then w else w + BitVec.ofNat 16 off

/-- A handler set stands in a core: its vector table, and its code in the library area. The code offset
counts from the library's first word, as a vector entry does (R267, R269, R276, R387). -/
def State.writeHandlers (s : State) (core off : Nat) (words : List Word) : State :=
  (s.store (localBase core + 2 * (libWord core + off)) (wordBytes (words.drop 64))).store (localBase core + 2 * vtbWord core)
    (wordBytes ((words.take 64).map (vectorWord off)))

/-- ROUTINE_LOAD with HANDLERS = 1 (R387). -/
def State.handlerLoad (s : State) (c : AdmCmd) (words : List Word) : State :=
  let ts := tilesOf c.target
  let crn := bitOf (c.pw 0) 12
  let ws := words.take c.codeLen
  if !(ts.all fun t => (libCores t crn).all s.drained) then s.replyBad c stBusy
  else
    let used := ts.flatMap fun t => ((s.lib t).routines.filter fun r => r.crn = crn).map fun r => (r.off, r.len)
    let n := c.codeLen - 64
    match firstRun used n 0 (used.length + 1) with
    | none => s.replyAdm c stBadArgument 3 [] none
    | some off =>
      let s1 := s.each ts fun s t =>
        (s.each (libCores t crn) fun s core => s.writeHandlers core off ws).updLib t fun l =>
          l.setHand crn { off, len := n, words := ws }
      s1.replyOk c [off, s1.smallest ts crn] (some (ts.map fun t => .handlers t crn off ws))

/-- A context of a tile runs the code of the routine of a number: after a swap, the code that it has now (R387, R445). -/
def State.runsRoutine (s : State) (t num : Nat) (crn : Bool) : Bool :=
  match s.routine t num crn with
  | none => false
  | some x => (libCores t crn).any fun core => (s.core core).ctxs.any fun e => match e.2.run with
    | none => false
    | some r => r.codeOff == x.off

/-- ROUTINE_UNLOAD (R387). -/
def State.routineUnload (s : State) (c : AdmCmd) : State :=
  let ts := tilesOf c.target
  let num := bitsOf (c.pw 0) 0 12
  let crn := bitOf (c.pw 0) 12
  if ts.any fun t => s.runsRoutine t num crn then s.replyBad c stBusy
  else
    let s1 := s.each ts fun s t => s.updLib t fun l => { l with routines := l.routines.filter fun r => !(r.num == num && r.crn == crn) }
    s1.replyOk c [] (some (ts.map fun t => .routineGone t num crn))

/-! ### Calibration blocks (R390, R446) -/

/-- Bytes of the trims of a block of a port (R446): the others are reserved or given by the header. -/
def calTrim (p i : Nat) : Bool := decide (12 ≤ i) && decide (i < if p = 0x58 then 34 else 24)

/-- TYPE of a port's block (R446). -/
def calType (p : Nat) : Nat := if p = 0x58 then 2 else 1

/-- A block passes: TYPE, FORMAT, reserved bytes and CHECK (R446). -/
def calOk (p : Nat) (b : List Byte) : Bool :=
  b.length == 64 && ofLeBytes (b.take 2) == calType p && ofLeBytes ((b.drop 2).take 2) == 1
    && ((List.range 60).all fun i => decide (i < 10) || calTrim p i || b.getD i 0 == 0)
    && ofLeBytes (b.drop 60) == (crc32 (b.take 60)).toNat

/-- The block of a measurement: the trims and the temperature that it found, at the present frame (R446). -/
def State.calBlock (s : State) (p : Nat) (found : List Byte) : List Byte :=
  let head := leBytes 2 (calType p) ++ leBytes 2 1 ++ leBytes 4 s.frameLo.toNat ++ [found.getD 8 0, found.getD 9 0]
    ++ ((List.range 50).map fun i => if calTrim p (10 + i) then found.getD (10 + i) 0 else 0)
  head ++ leBytes 4 (crc32 head).toNat

/-! ### Firmware (R391, R435 to R441) -/

/-- Device-internal base of a firmware slot (R427). -/
def slotBase (b : Bool) : Nat := if b then 0x2260000 else 0x2060000
/-- Size of a slot. -/
def slotSize : Nat := 0x200000

/-- The SVN floor in force: the higher of the fused floor and the boot block's (PRM_SVN). -/
def State.svnFloor (s : State) : Nat := max Config.svnFuse.toNat s.prm.svn.toNat

/-- A section of an image: TYPE, OFFSET and LEN (R435). -/
def State.imgSections (s : State) (base : Nat) : List (Nat × Nat × Nat) :=
  ((List.range 8).map fun i => (s.leAt (base + 0x20 + 16 * i) 2, s.leAt (base + 0x24 + 16 * i) 4, s.leAt (base + 0x28 + 16 * i) 4)).filter
    fun e => e.1 ≠ 0

/-- Two sections overlap. -/
def secOverlap (a b : Nat × Nat × Nat) : Bool := decide (a.2.1 < b.2.1 + b.2.2) && decide (b.2.1 < a.2.1 + a.2.2)

/-- The sections lie within the body, do not overlap, each type at most once, and types 1 and 2 are present (R436). -/
def sectionsOk (l : List (Nat × Nat × Nat)) (len : Nat) : Bool :=
  l.all (fun e => decide (0x100 ≤ e.2.1) && decide (e.2.1 + e.2.2 ≤ len - 64))
    && decide (l.Pairwise fun a b => secOverlap a b = false ∧ a.1 ≠ b.1) && l.any (fun e => e.1 == 1) && l.any (fun e => e.1 == 2)

/-- The image in a slot passes verification (R436); `want` is PW0 of FW_VERIFY. -/
def State.imageOk (s : State) (slot : Bool) (want : Option Nat) : Bool :=
  let b := slotBase slot
  let len := s.leAt (b + 0x10) 4
  let key := s.leAt (b + 0x16) 1
  let pub := s.bytesAt (b + 0xA0) 64
  s.leAt b 4 == 0x4656524E && s.leAt (b + 4) 2 == 1
    && (len % 4 == 0 && decide (4096 ≤ len) && decide (len ≤ slotSize) && want.all fun w => len == w)
    && (decide (key ≤ 3) && !(Config.keyRevoked key) && Config.sha256 pub == Config.keyHash key)
    && Config.ecdsaOk pub (s.bytesAt (b + len - 64) 64) (Config.sha256 (s.bytesAt b (len - 64)))
    && decide (s.svnFloor ≤ s.leAt (b + 0xC) 4) && sectionsOk (s.imgSections b) len

/-- VERSION of the image in a slot, 0 where the slot holds none (PRM_FWVER). -/
def State.imgVersion (s : State) (slot : Bool) : Nat := if s.leAt (slotBase slot) 4 = 0x4656524E then s.leAt (slotBase slot + 8) 4 else 0

/-- The VERSION registers are brought up to date. -/
def State.noteVersions (s : State) : State :=
  { s with prm := { s.prm with verA := BitVec.ofNat 32 (s.imgVersion false), verB := BitVec.ofNat 32 (s.imgVersion true) } }

/-- A firmware record (R430): event 0 verified, 1 activated, 2 confirmed, 3 fallen back. -/
def State.journalFw (s : State) (code : BitVec 16) (slot live : Bool) (event frame : Nat) : State :=
  s.journalRec code true false true midFwc
    (s.imgVersion slot + b2n slot <<< 32 + b2n live <<< 33 + event <<< 34 + (frame % 0x100000000) <<< 64)

/-- The bytes of the section of a type in a slot. -/
def State.secBytes (s : State) (slot : Bool) (ty : Nat) : Option (List Byte) :=
  ((s.imgSections (slotBase slot)).find? fun e => e.1 == ty).map fun e => s.bytesAt (slotBase slot + e.2.1) e.2.2

/-- The staged image can be taken live without a handover (R440). -/
def State.liveOk (s : State) : Bool :=
  let b := slotBase !s.prm.slot
  bitOf (BitVec.ofNat 16 (s.leAt (b + 6) 2)) 0 && s.leAt (b + 0x14) 2 == s.prm.stateVer.toNat
    && [2, 3, 4].all fun t => s.secBytes (!s.prm.slot) t == s.secBytes s.prm.slot t

/-- FW_ACTIVATE with LIVE = 1 (R391, R440, R441). -/
def State.fwLive (s : State) (c : AdmCmd) : State :=
  if !s.prm.verified then s.replyBad c stImageRejected
  else if s.prm.activating then s.replyBad c stBusy
  else if s.drives && s.liveOk then
    { s with prm := { s.prm with activating := true }, aq := { s.aq with stopped := true } }.commitLater .firmware c
  else if s.paired then
    { s.admWaits c with prm := { s.prm with activating := true, trialSlot := some (!s.prm.slot), trialRan := false, trialFailed := false },
                        ds := { s.ds with liveStep := 1 } }
  else s.replyBad c stPairUnavailable

/-! ### Journal (R392) -/

/-- The records that a read copies, oldest first, into a room of bytes; and where a following read starts. -/
def pickRecords (l : List JRec) (start code room : Nat) (next : Nat) : List JRec × Nat :=
  match l with
  | [] => ([], next)
  | r :: t =>
    if r.seq.toNat < start ∨ (code ≠ 0xFFFF ∧ r.code.toNat ≠ code) then pickRecords t start code room next
    else
      let n := if r.long then 64 else 32
      if room < n then ([], r.seq.toNat)
      else
        let p := pickRecords t start code (room - n) next
        (r :: p.1, p.2)

/-- JOURNAL_READ (R392): a following read starts no earlier than this one was to. -/
def State.journalRead (s : State) (c : AdmCmd) : State :=
  let s1 := s.flushJournal
  let l := (s1.journal.filter fun r => !r.bad).reverse
  let end_ := s1.jseq.toNat + 1
  let p := pickRecords l (c.pw64 3) (bitsOf (c.pw 5) 0 16) (c.pw 2).toNat end_
  let b := p.1.flatMap JRec.bytes
  let next := max p.2 (c.pw64 3)
  let oldest := match l with
    | [] => end_
    | r :: _ => r.seq.toNat
  (s1.writeHost s1.aqModule .reply (c.pw64 0) b false (b.length + 1)).replyOk c
    [p.1.length, b.length, next % 0x100000000, next / 0x100000000, oldest % 0x100000000, oldest / 0x100000000] none

/-! ### Keys and roles (R394, R395) -/

/-- The key check value (R394). -/
def keyCheck (key : List Byte) : Nat := ofLeBytes ((Config.aesCmac key (List.replicate 16 0)).toList.take 3)

/-- KMD_KEY_SET (R394). -/
def State.keySet (s : State) (c : AdmCmd) : State :=
  let k := c.target
  let id := bitsOf (c.pw 0) 0 16
  let rx := bitOf (c.pw 1) 0
  let tx := bitOf (c.pw 1) 1
  let key := leBytes 4 (c.pw 2).toNat ++ leBytes 4 (c.pw 3).toNat ++ leBytes 4 (c.pw 4).toNat ++ leBytes 4 (c.pw 5).toNat
  if key.all (· == 0) || (!rx && !tx) || s.kmd.keys.any (fun e => e.1 != k && e.2.id.toNat == id) then s.replyBad c stKeyRejected
  else
    let others : Table Key := if tx then s.kmd.keys.mapVals fun _ y => { y with tx := false } else s.kmd.keys
    let s1 := { s with kmd := { s.kmd with keys := others.set k { id := BitVec.ofNat 16 id, rx, tx, bytes := key } } }
    s1.replyOk c [keyCheck key] (some [.key k (BitVec.ofNat 16 id) rx tx key])

/-- KMD_KEY_RETIRE (R394). -/
def State.keyRetire (s : State) (c : AdmCmd) : State :=
  if s.kmd.keys.any fun e => e.1 == c.target && e.2.tx then s.replyBad c stKeyRejected
  else { s with kmd := { s.kmd with keys := s.kmd.keys.erase c.target } }.replyOk c [] (some [.keyGone c.target])

/-- KMD_ROLE (R395, R483). -/
def State.kmdRole (s : State) (c : AdmCmd) : State :=
  let mb := c.target
  let x := s.mbx mb
  let role : Byte := BitVec.ofNat 8 (bitsOf (c.pw 0) 0 8)
  let ep : BitVec 16 := BitVec.ofNat 16 (bitsOf (c.pw 1) 0 16)
  let res (s : State) : List Nat := [(s.mbx mb).epoch.toNat + (s.mbx mb).role.toNat * 65536]
  let d := (ep - x.epoch).toNat
  if ep = x.epoch ∧ role = x.role then s.replyOk c (res s) none
  else if ep = 0 ∨ (1 ≤ d ∧ d ≤ 32767) then
    let s1 := s.setMbx mb { x with epoch := ep, role := if ep = 0 then 0 else role }
    let s2 := s1.kmdAnnounce mb (s1.mbx mb).role ep
    s2.replyOk c (res s2) (some [.role mb (s1.mbx mb).role ep])
  else s.replyAdm c stBadArgument 1 [] none

end Sys2Proof.Machine
end

