-- ==== Sys2Proof/Machine/Admins.lean ====
section
/-! DEFINITION. The meanings of the admin queue's rows: its registers, packet reads and opcodes (R369 to R395). -/

namespace Sys2Proof.Machine
open Sys2Proof

/-! ### Registers -/

/-- BAR0 offset of the AQ block (R39). -/
def aqBase : Nat := 0x1000

/-- A master may write the AQ registers (R36, R57): the hosts and the FWC, in SECOND_HOST mode only the host on module 0. -/
def State.aqMay (s : State) (m : Nat) : Bool := isConfigMaster m && !(s.mode = 1 && m == 1)

/-- The count offered to AQ_PROD or AQ_RCONS was ignored (R370, R372, R430). -/
def State.aqJournal (s : State) (m : Nat) (v : Word32) : State := s.journalHost m 1 0x3FF v.toNat 0

/-- A write of AQ_PROD (R370). -/
def State.aqProd (s : State) (m : Nat) (v : Word32) : State :=
  let a := s.aq
  if !(s.aqMay m) then s.accFault m
  else if (v - a.ccons).toNat ≤ a.packetSlots ∧ (a.cprod - a.ccons).toNat ≤ (v - a.ccons).toNat then { s with aq := { a with cprod := v } }.aqKick
  else { s with aq := { a with badProd := satInc a.badProd } }.aqJournal m v

/-- AQ_PROD (R370). -/
def execAqProd (m : Nat) (v : Word32) (s : State) : Host.Outcome State Fault Refusal := 
  .next (s.access m aqBase fun s => s.aqProd m v)

/-- A write of AQ_RCONS (R372). -/
def State.aqRcons (s : State) (m : Nat) (v : Word32) : State :=
  let a := s.aq
  if !(s.aqMay m) then s.accFault m
  else if (v - a.rcons).toNat ≤ (a.rprod - a.rcons).toNat then { s with aq := { a with rcons := v } }.aqKick
  else { s with aq := { a with badRcons := satInc a.badRcons } }.aqJournal m v

/-- AQ_RCONS (R372). -/
def execAqRcons (m : Nat) (v : Word32) (s : State) : Host.Outcome State Fault Refusal := 
  .next (s.access m aqBase fun s => s.aqRcons m v)

/-- Why an ENABLE is refused, 0 when it is accepted (AQ_STAT.CFG_ERR). -/
def State.aqCfgErr (s : State) : Nat :=
  let a := s.aq
  if 6 < a.csize.toNat ∨ 6 < a.rsize.toNat then 1
  else if !aligned a.cring.toNat 256 || !aligned a.rring.toNat 256 then 2
  else if s.prm.st ≠ 1 then 3 else 0

/-- A packet read that comes back to a queue disabled meanwhile is discarded under this channel number, which no channel has
(R381). -/
def aqStale : Nat := 4096

/-- The reads of packets that are out are discarded when they come. -/
def Link.staleAdmin (l : Link) : Link :=
  { l with reads := l.reads.map fun r => if r.req = .admin then { r with req := .stale aqStale } else r,
           waiting := l.waiting.filter fun r => r.req ≠ .admin }

/-- DISABLE (R381). -/
def State.aqDrain (s : State) : State :=
  { s with link0 := s.link0.staleAdmin, link1 := s.link1.staleAdmin,
           aq := { s.aq with reading := false, st := if s.aq.cmds.isEmpty then .disabled else .draining } }

/-- A write of AQ_CTL (R369, R381). -/
def State.aqCtl (s : State) (m : Nat) (en dis rst : Bool) : State :=
  let a := s.aq
  if !(s.aqMay m) then s.accFault m
  else if en && dis then s
  else match a.st with
    | .disabled =>
      if !en then s else
      let e := s.aqCfgErr
      if e ≠ 0 then { s with aq := { a with cfgErr := BitVec.ofNat 3 e } }
      else { s with aq := { a with st := .running, cfgErr := 0, cprod := 0, ccons := 0, rprod := 0, rcons := 0, cmds := [],
                                   reading := false } }
    | .running => if dis then s.aqDrain else s
    | .error => if dis then s.aqDrain else if rst then { s with aq := { a with st := .running } }.aqKick else s
    | .draining => s

/-- AQ_ENABLE (R369). -/
def execAqEnable (m : Nat) (s : State) : Host.Outcome State Fault Refusal := 
  .next (s.access m aqBase fun s => s.aqCtl m true false false)
/-- AQ_DISABLE (R381). -/
def execAqDisable (m : Nat) (s : State) : Host.Outcome State Fault Refusal := 
  .next (s.access m aqBase fun s => s.aqCtl m false true false)
/-- AQ_RESTART (R381). -/
def execAqRestart (m : Nat) (s : State) : Host.Outcome State Fault Refusal := 
  .next (s.access m aqBase fun s => s.aqCtl m false false true)

/-- ADMIN_PACKET_READ (R371): the packet at CCONS has come. -/
def State.packetRead (s : State) (words : List Word32) : State :=
  match s.endReadAny fun r => r = .admin with
  | none =>
    (match s.endReadAny fun r => r = .stale aqStale with
      | none => s
      | some (_, s1) => s1)
  | some (_, s1) =>
    let a := s1.aq
    let c : AdmCmd := { cnt := a.ccons, words }
    { s1 with aq := { a with reading := false, ccons := a.ccons + 1, cmds := a.cmds ++ [c] } }.aqKick

/-- ADMIN_PACKET_READ (R371). -/
def execAdminPacketRead (words : List Word32) (s : State) : Host.Outcome State Fault Refusal := .next (s.packetRead words)

/-! ### Opcodes -/

/-- The row of an opcode acts on the first command of it that may be carried out: its checks come first (R377). -/
def State.onAdmin (s : State) (p : AdmCmd → Bool) (k : State → AdmCmd → State) : State :=
  match s.admDue p with
  | none => s
  | some c =>
    match s.admCheck c with
    | some (code, arg) => (s.replyAdm c code arg [] none).aqKick
    | none => (k s c).aqKick

/-- As `onAdmin`, for a command whose host data have come with the row. -/
def State.onAdminData (s : State) (p : AdmCmd → Bool) (k : State → AdmCmd → State) : State :=
  s.onAdmin p fun s c =>
    match s.endReadAny fun r => r = .adminData c.cnt with
    | none => s
    | some (_, s1) => k s1 c

/-- A command of an opcode. -/
def opIs (n : Nat) (c : AdmCmd) : Bool := c.opc == n

/-- GCTL_ID (R47). -/
def gctlId : Nat := 0x4096 + 0xA1 * 0x10000 + b2n Config.gradeE * 0x1000000

/-- RES0 to RES5 of IDENTIFY (R383). -/
def State.identity (s : State) : List Nat :=
  [gctlId, if Config.gradeE then 0x45 else 0x49, bitsOf Config.serial 0 32, bitsOf Config.serial 32 32,
   (if s.prm.slot then s.prm.verB else s.prm.verA).toNat,
   s.ds.role.toNat + b2n s.prm.slot * 4 + b2n s.prm.fallback * 8 + s.mode.toNat * 16]

/-- IDENTIFY (R383). -/
def execIdentify (s : State) : Host.Outcome State Fault Refusal := .next (s.onAdmin (opIs 0x01) fun s c => s.replyOk c s.identity none)

/-- FEAT0 to FEAT5 (R48). -/
def features : List Nat := [0x00223F01, 0x0000003F, 0x00200010, 0x7D190440, 0x9A210420, 0x70801000]

/-- GET_FEATURES (R383). -/
def execGetFeatures (s : State) : Host.Outcome State Fault Refusal := .next (s.onAdmin (opIs 0x02) fun s c => s.replyOk c features none)

/-- SET_ATTACH (R55, R60, R383). -/
def execSetAttach (s : State) : Host.Outcome State Fault Refusal :=
  .next (s.onAdmin (opIs 0x03) fun s c =>
    let mode := bitsOf (c.pw 0) 0 2
    { s with prm := { s.prm with nextMode := BitVec.ofNat 2 mode, subVendor := BitVec.ofNat 16 (bitsOf (c.pw 1) 0 16),
                                 subId := BitVec.ofNat 16 (bitsOf (c.pw 1) 16 16) } }.replyOk c [s.mode.toNat + mode * 4]
      (some [.attach (BitVec.ofNat 2 mode) (BitVec.ofNat 16 (bitsOf (c.pw 1) 0 16)) (BitVec.ofNat 16 (bitsOf (c.pw 1) 16 16))]))

/-- RES0 to RES4 of QUEUE_QUERY (R383). -/
def State.queueWords (s : State) (q : Nat) : List Nat :=
  let x := s.q q
  [x.fetch.toNat, x.head.toNat, if x.phase then 0 else x.prod.toNat, x.st.code + x.why.toNat * 8 + x.inflight * 256,
   (s.chans.filter fun e => e.2.bound && e.2.queue == q).length]

/-- QUEUE_QUERY (R383). -/
def execQueueQuery (s : State) : Host.Outcome State Fault Refusal :=
  .next (s.onAdmin (opIs 0x10) fun s c => s.replyOk c (s.queueWords c.target) none)

/-- BIND_CHANNEL (R384). -/
def execBindChannel (s : State) : Host.Outcome State Fault Refusal := .next (s.onAdmin (opIs 0x11) State.bindChannel)
/-- UNBIND_CHANNEL (R385). -/
def execUnbindChannel (s : State) : Host.Outcome State Fault Refusal := .next (s.onAdmin (opIs 0x12) State.unbindChannel)
/-- ROUTINE_LOAD (R387). -/
def execRoutineLoad (code : List Word) (s : State) : Host.Outcome State Fault Refusal :=
  .next (s.onAdminData (fun c => c.opc == 0x20 && !c.handlers) fun s c => s.routineLoad c code)
/-- HANDLER_SET_LOAD (R387). -/
def execHandlerSetLoad (code : List Word) (s : State) : Host.Outcome State Fault Refusal :=
  .next (s.onAdminData (fun c => c.opc == 0x20 && c.handlers) fun s c => s.handlerLoad c code)
/-- ROUTINE_UNLOAD (R387). -/
def execRoutineUnload (s : State) : Host.Outcome State Fault Refusal := .next (s.onAdmin (opIs 0x21) State.routineUnload)
/-- BUDGET_COMMIT (R221, R388). -/
def execBudgetCommit (s : State) : Host.Outcome State Fault Refusal := .next (s.onAdmin (opIs 0x30) State.budgetCommit)
/-- LAT_FLOOR (R383, R438). -/
def execLatFloor (s : State) : Host.Outcome State Fault Refusal :=
  .next (s.onAdmin (opIs 0x31) fun s c => s.commitLater (.latFloor (BitVec.ofNat 16 (bitsOf (c.pw 0) 0 16)) (bitOf (c.pw 0) 16)) c)
/-- PORT_COMMIT (R389). -/
def execPortCommit (s : State) : Host.Outcome State Fault Refusal := .next (s.onAdmin (opIs 0x40) State.portCommit)

/-- A CALIBRATE of an operation. -/
def calIs (n : Nat) (c : AdmCmd) : Bool := c.opc == 0x41 && c.calOp == n

/-- CALIBRATE_MEASURE (R390): the row is the end of the measurement, with the trims it found. -/
def execCalibrateMeasure (block : List Byte) (s : State) : Host.Outcome State Fault Refusal :=
  .next (s.onAdmin (calIs 0) fun s c =>
    if (s.port c.target).st ≠ 0 then s.replyBad c stBusy
    else (s.updPort c.target fun p => { p with cal := s.calBlock c.target block }).replyOk c []
      (some [.cal c.target (s.calBlock c.target block) s.frm.frame]))
/-- CALIBRATE_LOAD (R390). -/
def execCalibrateLoad (block : List Byte) (s : State) : Host.Outcome State Fault Refusal :=
  .next (s.onAdminData (calIs 1) fun s c =>
    if calOk c.target block then s.commitLater (.cal c.target block) c else s.replyAdm c stBadArgument 1 [] none)
/-- CALIBRATE_READ (R390). -/
def execCalibrateRead (s : State) : Host.Outcome State Fault Refusal :=
  .next (s.onAdmin (calIs 2) fun s c => (s.writeHost s.aqModule .reply (c.pw64 1) (s.port c.target).cal false 64).replyOk c [] none)
/-- CALIBRATE_STORE (R390). -/
def execCalibrateStore (s : State) : Host.Outcome State Fault Refusal :=
  .next (s.onAdmin (calIs 3) fun s c => (s.updPort c.target fun p => { p with calStored := p.cal }).replyOk c []
    (some [.calStored c.target (s.port c.target).cal]))

/-- FW_STAGE (R391). -/
def State.fwStage (s : State) (c : AdmCmd) (bytes : List Byte) : State :=
  if s.prm.activating then s.replyBad c stBusy
  else
    let off := (c.pw 3).toNat
    let n := (c.pw 2).toNat
    let s1 := (s.store (slotBase (!s.prm.slot) + off) (bytes.take n)).noteVersions
    let top := max s1.prm.staged (off + n)
    { s1 with prm := { s1.prm with staged := top, verified := false } }.replyOk c [top] (some [])

/-- FW_STAGE (R391). -/
def execFwStage (bytes : List Byte) (s : State) : Host.Outcome State Fault Refusal :=
  .next (s.onAdminData (opIs 0x50) fun s c => s.fwStage c bytes)

/-- FW_VERIFY (R391, R436). -/
def execFwVerify (s : State) : Host.Outcome State Fault Refusal :=
  .next (s.onAdmin (opIs 0x51) fun s c =>
    let slot := !s.prm.slot
    if s.imageOk slot (some (c.pw 0).toNat) then
      ({ s with prm := { s.prm with verified := true } }.journalFw stOk slot false 0 0).replyOk c [s.imgVersion slot] (some [])
    else (s.journalFw stImageRejected slot false 0 0).replyBad c stImageRejected)

/-- FW_ACTIVATE with LIVE = 0 (R391, R437). -/
def execFwActivate (s : State) : Host.Outcome State Fault Refusal :=
  .next (s.onAdmin (fun c => c.opc == 0x52 && !bitOf (c.pw 0) 0) fun s c =>
    if !s.prm.verified then s.replyBad c stImageRejected
    else if s.prm.activating then s.replyBad c stBusy
    else
      let slot := !s.prm.slot
      ({ s with prm := { s.prm with trialSlot := some slot, trialRan := false, trialFailed := false } }.journalFw stOk slot false 1 0).replyOk c
        [0, 0] (some []))

/-- FW_ACTIVATE_LIVE (R440, R441). -/
def execFwActivateLive (s : State) : Host.Outcome State Fault Refusal :=
  .next (s.onAdmin (fun c => c.opc == 0x52 && bitOf (c.pw 0) 0) State.fwLive)

/-- FW_CONFIRM (R437): the confirmed slot is then the one in force, so S4 is in its normal variant. -/
def execFwConfirm (s : State) : Host.Outcome State Fault Refusal :=
  .next (s.onAdmin (opIs 0x53) fun s c =>
    let svn := s.leAt (slotBase s.prm.slot + 0xC) 4
    ({ s with prm := { s.prm with confirmed := s.prm.slot, s4Other := false, trialSlot := none, trialRan := false, trialFailed := false, trial := false,
                                  svn := BitVec.ofNat 32 (max s.prm.svn.toNat svn) } }.journalFw stOk s.prm.slot false 2 0).replyOk c [] (some []))

/-- JOURNAL_READ (R392). -/
def execJournalRead (s : State) : Host.Outcome State Fault Refusal := .next (s.onAdmin (opIs 0x60) State.journalRead)

/-- The open batches of which a flush makes a message at once (R74, R334, R393): their module can send, and their vector is not masked. -/
def State.flushCount (s : State) : Nat :=
  (s.batches.filter fun b =>
    let l := s.link (b.1 / 2048)
    l.canIssue && !(l.cfg.ent (b.1 % 2048)).mask && !l.cfg.funcMask).length

/-- SLEEP_NOTICE (R393). -/
def execSleepNotice (s : State) : Host.Outcome State Fault Refusal :=
  .next (s.onAdmin (opIs 0x70) fun s c => ((s.flushModule 0).flushModule 1).replyOk c [s.flushCount] none)

/-- RES0 of PAIR_STATUS (R383). -/
def State.pairWord (s : State) : Nat :=
  s.ds.role.toNat + s.ds.peerRole.toNat * 4 + b2n s.ds.present * 16 + b2n s.dsUp * 32 + b2n (s.ds.role ≠ 0 && s.ds.sub = 1) * 64

/-- PAIR_STATUS (R383). -/
def execPairStatus (s : State) : Host.Outcome State Fault Refusal :=
  .next (s.onAdmin (opIs 0x80) fun s c => s.replyOk c [s.pairWord, s.ds.take.toNat] none)

/-- PAIR_JOIN (R472): a standby out of sync or detached discards its mirror and sends JOIN. -/
def State.pairJoin (s : State) (c : AdmCmd) : State :=
  if s.ds.role ≠ 2 || !s.dsUp || s.ds.sub = 1 then s.replyBad c stPairUnavailable
  else if s.ds.sub = 0 then s.replyBad c stBusy
  else
    let s1 : State := { s.admWaits c with ds := { s.ds with sub := 0, joinStep := 1, mirror := [] }, ledger := [] }
    s1.dsSend .join false (.bytes (leBytes 2 1 ++ leBytes 2 s.prm.stateVer.toNat))

/-- PAIR_JOIN (R472). -/
def execPairJoin (s : State) : Host.Outcome State Fault Refusal := .next (s.onAdmin (opIs 0x81) State.pairJoin)

/-- PAIR_HANDOVER (R473). -/
def execPairHandover (s : State) : Host.Outcome State Fault Refusal :=
  .next (s.onAdmin (opIs 0x82) fun s c =>
    if !s.paired then s.replyBad c stPairUnavailable
    else if s.ds.handing then s.replyBad c stBusy
    else { s.admWaits c with ds := { s.ds with handing := true } })

/-- The row of R474 that a PAIR_LEAVE falls under: 1 ACTIVE, 2 STANDBY with the link up, 3 STANDBY without a partner. -/
def State.leaveKind (s : State) : Option Nat :=
  if s.ds.role = 1 then some 1
  else if s.ds.role = 2 ∧ s.ds.sub ≠ 3 ∧ s.dsUp = true then some 2
  else if s.ds.role = 2 ∧ s.ds.sub = 2 ∧ s.dsUp = false ∧ s.ds.fenceIn = false then some 3 else none

/-- PAIR_LEAVE (R474). -/
def execPairLeave (s : State) : Host.Outcome State Fault Refusal :=
  .next (s.onAdmin (opIs 0x83) fun s c => match s.leaveKind with
    | some k => s.commitLater (.leave k) c
    | none => s.replyBad c stPairUnavailable)

/-- KMD_NODE (R395): BUSY while a remote message is in flight. -/
def execKmdNode (s : State) : Host.Outcome State Fault Refusal :=
  .next (s.onAdmin (opIs 0x90) fun s c =>
    if s.chans.any fun e => e.2.xfer.phase == .node && e.2.xfer.kmdSeq.isSome then s.replyBad c stBusy
    else { s with kmd := { s.kmd with node := some (BitVec.ofNat 18 c.target) } }.replyOk c [c.target] (some [.node (BitVec.ofNat 18 c.target)]))

/-- KMD_KEY_SET (R394). -/
def execKmdKeySet (s : State) : Host.Outcome State Fault Refusal := .next (s.onAdmin (opIs 0x91) State.keySet)
/-- KMD_KEY_RETIRE (R394). -/
def execKmdKeyRetire (s : State) : Host.Outcome State Fault Refusal := .next (s.onAdmin (opIs 0x92) State.keyRetire)
/-- KMD_ROLE (R395). -/
def execKmdRole (s : State) : Host.Outcome State Fault Refusal := .next (s.onAdmin (opIs 0x93) State.kmdRole)

end Sys2Proof.Machine
end

