-- ==== Sys2Proof/Machine/Flags.lean ====
section
/-! DEFINITION. The results and flags of the arithmetic, logic and bit instructions, and the conditions (R246, R247, R260). -/

namespace Sys2Proof.Machine
open Sys2Proof

/-- The flags C, Z, N and V (R245). -/
structure Flags where
  c : Bool
  z : Bool
  n : Bool
  v : Bool
deriving DecidableEq, Repr

/-- The flags of a context. -/
def Ctx.flags (c : Ctx) : Flags := { c := c.c, z := c.z, n := c.n, v := c.v }

/-- The context with its flags replaced. -/
def Ctx.setFlags (c : Ctx) (f : Flags) : Ctx := { c with c := f.c, z := f.z, n := f.n, v := f.v }

/-- Z and N of a stored word (R246). -/
def Flags.zn (f : Flags) (r : Word) : Flags := { f with z := decide (r = 0), n := bitOf r 15 }

/-- ADD, ADC and ADDQ: C is the carry out of bit 15, V the signed overflow (R246). -/
def aluAdd (f : Flags) (a b : Word) (cin : Bool) : Word × Flags :=
  let sum := a.toNat + b.toNat + b2n cin
  let exact := a.toInt + b.toInt + (b2n cin : Nat)
  let r := BitVec.ofNat 16 sum
  (r, { f.zn r with c := decide (0x10000 ≤ sum), v := decide (r.toInt ≠ exact) })

/-- SUB, SBB, NEG and CMP: C is the borrow, V the signed overflow (R246). -/
def aluSub (f : Flags) (a b : Word) (bin : Bool) : Word × Flags :=
  let sub := b.toNat + b2n bin
  let exact := a.toInt - b.toInt - (b2n bin : Nat)
  let r := a - b - BitVec.ofNat 16 (b2n bin)
  (r, { f.zn r with c := decide (a.toNat < sub), v := decide (r.toInt ≠ exact) })

/-- AND, OR, XOR, NOT, TST, DIVU and REMU: Z and N of the result, V = 0 (R246). -/
def aluLogic (f : Flags) (r : Word) : Word × Flags := (r, { f.zn r with v := false })

/-- MUL, MULHU, MULHS, BFEXT, CLZ and BPERM: Z and N of the stored word (R246). -/
def aluStored (f : Flags) (r : Word) : Word × Flags := (r, f.zn r)

/-- SHL, SHR, SAR and ROL: with a count of 0, C is unchanged; else it is the last bit out (R246). -/
def aluShift (f : Flags) (r : Word) (count : Nat) (last : Bool) : Word × Flags :=
  (r, { f.zn r with v := false, c := if count = 0 then f.c else last })

/-- The count of a shift: bits [3:0] (short-form table). -/
def shiftCount (b : Word) : Nat := bitsOf b 0 4

/-- SHL. -/
def aluShl (f : Flags) (a b : Word) : Word × Flags := aluShift f (a <<< shiftCount b) (shiftCount b) (bitOf a (16 - shiftCount b))
/-- SHR. -/
def aluShr (f : Flags) (a b : Word) : Word × Flags := aluShift f (a >>> shiftCount b) (shiftCount b) (bitOf a (shiftCount b - 1))
/-- SAR. -/
def aluSar (f : Flags) (a b : Word) : Word × Flags := aluShift f (a.sshiftRight (shiftCount b)) (shiftCount b) (bitOf a (shiftCount b - 1))
/-- ROL: the last bit rotated out is bit 0 of the result. -/
def aluRol (f : Flags) (a b : Word) : Word × Flags :=
  let r := a.rotateLeft (shiftCount b)
  aluShift f r (shiftCount b) (bitOf r 0)

/-- MUL: the low half of the product. -/
def aluMul (f : Flags) (a b : Word) : Word × Flags := aluStored f (BitVec.ofNat 16 (a.toNat * b.toNat))
/-- MULHU: the high half of the unsigned product. -/
def aluMulhu (f : Flags) (a b : Word) : Word × Flags := aluStored f (BitVec.ofNat 16 (a.toNat * b.toNat / 0x10000))
/-- MULHS: the high half of the signed product. -/
def aluMulhs (f : Flags) (a b : Word) : Word × Flags := aluStored f (BitVec.ofInt 16 (a.toInt * b.toInt / 0x10000))

/-- Whether a condition holds; code 15 is refused before it is asked (R247). -/
def Flags.holds (f : Flags) (code : Nat) : Bool :=
  match code with
  | 0 => f.z
  | 1 => !f.z
  | 2 => f.c
  | 3 => !f.c
  | 4 => f.n
  | 5 => !f.n
  | 6 => f.v
  | 7 => !f.v
  | 8 => !f.c && !f.z
  | 9 => f.c || f.z
  | 10 => f.n == f.v
  | 11 => f.n != f.v
  | 12 => !f.z && f.n == f.v
  | 13 => f.z || f.n != f.v
  | _ => true

/-- Whether A and B meet a comparison of the skips: 0 EQ, 1 NE, 2 LT, 3 GE, 4 LTU, 5 GEU, 6 BS, 7 BZ (R248). -/
def compares (code : Nat) (a b : Word) : Bool :=
  match code with
  | 0 => a = b
  | 1 => a ≠ b
  | 2 => a.toInt < b.toInt
  | 3 => b.toInt ≤ a.toInt
  | 4 => a.toNat < b.toNat
  | 5 => b.toNat ≤ a.toNat
  | 6 => bitOf a (bitsOf b 0 4)
  | _ => !(bitOf a (bitsOf b 0 4))

/-! ### Cornice-only results (R260) -/

/-- A field word W is in its ranges: WIDTH 1 to 16, bits [7:5] and [15:13] 0. -/
def fieldOk (w : Word) : Bool :=
  bitsOf w 5 3 == 0 && bitsOf w 13 3 == 0 && decide (1 ≤ bitsOf w 8 5) && decide (bitsOf w 8 5 ≤ 16)

/-- BFEXT of a 32-bit group, sign-extended where asked. -/
def bfext (x : Word32) (w : Word) (sign : Bool) : Word :=
  let width := bitsOf w 8 5
  let v := bitsOf x (bitsOf w 0 5) width
  if sign && Nat.testBit v (width - 1) then BitVec.ofNat 16 (v + 0x10000 - 2 ^ width) else BitVec.ofNat 16 v

/-- BFINS into a 32-bit group: bits above bit 31 are dropped. -/
def bfins (y : Word32) (a w : Word) : Word32 :=
  let m : Word32 := BitVec.ofNat 32 (2 ^ bitsOf w 8 5 - 1)
  let pos := bitsOf w 0 5
  (y &&& ~~~(m <<< pos)) ||| ((BitVec.ofNat 32 a.toNat &&& m) <<< pos)

/-- CLZ: leading zero bits, 0 to 16. -/
def clz (a : Word) : Word := BitVec.ofNat 16 (((List.range 16).find? fun i => bitOf a (15 - i)).getD 16)

/-- BPERM: bit i of the result is bit sel(i) of A. -/
def bperm (a : Word) (sel : List Word) : Word :=
  BitVec.ofNat 16 ((List.range 16).map fun i => b2n (bitOf a (bitsOf (sel.getD (i / 4) 0) (4 * (i % 4)) 4)) * 2 ^ i).sum

end Sys2Proof.Machine
end

