-- ==== Sys2Proof/Machine/Frames.lean ====
section
/-! DEFINITION. The frame timer's registers and the rows of its discipline: steps and slews, FRAME_SYNC edges, holdover
(R201 to R210, R228). -/

namespace Sys2Proof.Machine
open Sys2Proof

/-! ### TIME (R201, R205) -/

/-- One part in 10^9 units to move by a cycle for a slew: at most 1,000 ppm of a cycle (R205). -/
def slewLimit : Nat := 1000000

/-- The direction of the slew in progress. -/
def Frm.slewDir (f : Frm) : Int := if 0 < f.slew then 1 else if f.slew < 0 then -1 else 0

/-- The 10^-9 parts of a unit by which a cycle advances TIME: 1 + ADJ × 10^-9 and the slew in progress (R201, R205). -/
def Frm.rate (f : Frm) : Int := 1000000000 + f.adj.toInt + f.slewDir * slewLimit

/-- So many cycles of the frame timer within which the slew does not end: TIME advances at one rate, with the remainder kept (R201,
R205). -/
def Frm.cycles (f : Frm) (k : Nat) : Frm :=
  let total : Int := k * f.rate + f.frac
  let sf := if f.slewDir = 0 then 0 else f.slewFrac + k * slewLimit
  { f with count := f.count + k, time := f.time + BitVec.ofNat 64 (total / 1000000000).toNat, frac := (total % 1000000000).toNat,
           slewFrac := sf % 1000000000, slew := f.slew - f.slewDir * ((sf / 1000000000 : Nat) : Int) }

/-- One cycle of the frame timer (R201). -/
def Frm.cycle (f : Frm) : Frm := f.cycles 1

/-- The cycles after which the slew in progress is out. -/
def Frm.slewCycles (f : Frm) : Nat := ceilDiv (f.slew.natAbs * 1000000000 - f.slewFrac) slewLimit

/-- The cycles after which TIME reaches a value at the present rate. -/
def Frm.cyclesTo (f : Frm) (t : Nat) : Nat := ceilDiv ((t - f.time.toNat) * 1000000000 - f.frac) f.rate.toNat

/-- The cycles pass until TIME reaches a value: those of the slew in progress, then those without it. -/
def Frm.passTo (f : Frm) (t : Nat) : Frm :=
  if f.slew = 0 ∨ f.cyclesTo t ≤ f.slewCycles then f.cycles (f.cyclesTo t)
  else
    let f1 := f.cycles f.slewCycles
    f1.cycles (f1.cyclesTo t)

/-- The cycles pass until the slew in progress is out, where that is before the next tick (R205). -/
def Frm.slewOut (f : Frm) : Frm := if f.slew ≠ 0 ∧ f.slewCycles ≤ f.cyclesTo f.next.toNat then f.cycles f.slewCycles else f

/-- Whether the frame-timer clock runs: from step S6 of a start on (R202), so also while a start waits in fence arbitration, on a die whose
start stopped behind S6, and on a halted one (R194). -/
def State.timerRuns (s : State) : Bool :=
  match s.die with
  | .ready => true
  | .halted => s.prm.st = 1
  | .reset => s.ds.arbRound.isSome
  | .stopped => decide (6 < s.prm.failStep)
  | _ => false

/-! ### Registers and discipline -/

/-- FRM_ADJ in its range: values outside are clamped (FRM_ADJ). -/
def clampAdj (v : Word32) : Word32 :=
  if 500000 < v.toInt then BitVec.ofInt 32 500000 else if v.toInt < -500000 then BitVec.ofInt 32 (-500000) else v

/-- Host writes of FRM_ADJ and FRM_STEP are ignored: under SYNC_IN and in standby (R205, R206, R208). -/
def State.frmDeaf (s : State) : Bool := s.frm.src = 2 || s.ds.role = 2

/-- A correction by the host: HOLDOVER clears and the frames without one are counted anew (R205, R208). -/
def Frm.corrected (f : Frm) : Frm := { f with noCorr := 0, holdover := false, taken := false }

/-- A write of FRM_CFG: one with SRC 3 is ignored; a change of SRC makes the next FRM_STEP a first one (R205); FRAME_SYNC is driven no
longer where SYNC_OUT or SRC forbids it (R207). -/
def Frm.config (f : Frm) (v : Word32) : Frm :=
  let src : BitVec 2 := BitVec.ofNat 2 (bitsOf v 0 2)
  if src = 3 then f else
  let f1 := { f with src, syncOut := bitOf v 2, syncPin := f.syncPin && bitOf v 2 && src ≠ 2, syncWin := BitVec.ofNat 8 (bitsOf v 8 8), holdFr := BitVec.ofNat 8 (bitsOf v 16 8) }
  if src = f.src then f1 else { f1 with firstStep := true, locked := false, goodEdges := 0, noEdge := 0, noCorr := 0 }

/-- A phase offset written to FRM_STEP: slewed, or a first-lock step above 1 ms (R205). -/
def Frm.step (f : Frm) (v : Word32) : Frm :=
  let f1 := { f.corrected with firstStep := false }
  if f.firstStep && decide (100000 < v.toInt.natAbs) then { f1 with stepDue := some v.toInt } else { f1 with slew := f.slew + v.toInt }

/-- LOCKED has cleared between two states: its source pulses (R322). -/
def State.lockedGone (s t : State) : State := if s.frm.locked && !t.frm.locked then t.pulse 0x402 else t

/-- A write of a 32-bit FRM register by a master (R228). -/
def State.frmW (s : State) (m o : Nat) (v : Word32) : State :=
  if !(isConfigMaster m) then s.accFault m else
  match o with
  | 0x18 => { s with frm := { s.frm with period := BitVec.ofNat 20 (bitsOf v 0 20) } }
  | 0x20 => s.lockedGone { s with frm := s.frm.config v }
  | 0x24 => if s.frmDeaf then s else { s with frm := { s.frm.corrected with adj := clampAdj v } }
  | 0x28 => if s.frmDeaf then s else { s with frm := s.frm.step v }
  | _ => s

/-- FRM_STEP (R205). -/
def execFrmStep (m : Nat) (v : Word32) (s : State) : Host.Outcome State Fault Refusal :=
  .next (s.access m 0x2028 fun s => s.frmW m 0x28 v)

/-- FRAME_SYNC_FALL (R203). -/
def execFrameSyncFall (s : State) : Host.Outcome State Fault Refusal := .next { s with frm := { s.frm with syncPin := false } }

/-- The cycles pass up to an edge that comes so long after the tick that opened the frame, or so long before the next one, where that
lies ahead of TIME in this frame. -/
def Frm.toEdge (f : Frm) (off : Int) : Frm :=
  let t : Nat := if off < 0 then f.next.toNat - off.natAbs else f.opened.toNat + off.natAbs
  if f.time.toNat < t ∧ t < f.next.toNat then f.passTo t else f

/-- The signed distance of TIME from the nearest tick (R206). -/
def Frm.tickErr (f : Frm) : Int :=
  let after : Int := f.time.toNat - f.opened.toNat
  let before : Int := f.next.toNat - f.time.toNat
  if before < after then -before else after

/-- An accepted FRAME_SYNC edge (R206): the servo's new ADJ and phase correction are open values. A HOLDOVER of a takeover ends as the
servo locks (R208). -/
def Frm.edge (f : Frm) (err : Int) : Frm :=
  let good := if err.natAbs < 10 then f.goodEdges + 1 else 0
  let lock := if 100 ≤ err.natAbs then false else f.locked || decide (16 ≤ good)
  { f with syncErr := BitVec.ofInt 32 err, adj := clampAdj (Config.servoAdj f.adj err), slew := f.slew + Config.servoSlew err, goodEdges := good,
           locked := lock, noEdge := 0, holdover := f.holdover && f.taken && !lock, taken := f.taken && !lock }

/-- FRAME_SYNC_EDGE (R206): the edge is measured by TIME against the nearest tick, where `off` says when it comes. -/
def execFrameSyncEdge (off : Int) (s : State) : Host.Outcome State Fault Refusal :=
  .next (if s.frm.src ≠ 2 ∨ s.ds.role = 2 ∨ s.die ≠ .ready then s
    else
      let f := s.frm.toEdge off
      let err := f.tickErr
      if 10 * f.syncWin.toNat < err.natAbs then { s with frm := { f with syncBad := satInc f.syncBad } }
      else s.lockedGone { s with frm := f.edge err })

/-- HOLDOVER is set, which pulses its source (R205, R322). -/
def State.setHoldover (s : State) : State :=
  if s.frm.holdover then s else ({ s with frm := { s.frm with holdover := true } } : State).pulse 0x402

/-- PTP_HOLDOVER (R205). -/
def execPtpHoldover (s : State) : Host.Outcome State Fault Refusal :=
  .next (if s.frm.src = 1 ∧ s.ds.role ≠ 2 ∧ s.frm.holdFr.toNat ≤ s.frm.noCorr then s.setHoldover else s)

/-- SYNC_HOLDOVER (R206). -/
def execSyncHoldover (s : State) : Host.Outcome State Fault Refusal :=
  .next (if s.frm.src = 2 ∧ s.ds.role ≠ 2 ∧ 4 ≤ s.frm.noEdge then s.setHoldover else s)

/-- SLEW_END (R205): the cycles that the rest of the slew takes at its limit have passed. -/
def execSlewEnd (s : State) : Host.Outcome State Fault Refusal :=
  .next (if s.timerRuns then { s with frm := s.frm.slewOut } else s)

end Sys2Proof.Machine
end

