-- ==== Sys2Proof/Machine/LoadOps.lean ====
section
/-! DEFINITION. Loading the local memory of a core: its library area, its vector table and the Cornice supervisor (R262,
R267, R290, R422). -/

namespace Sys2Proof.Machine
open Sys2Proof

/-- First word and words of the system area's TSB stacks (R267). -/
def tsbArea (core : Nat) : Nat × Nat := if core < 64 then (0x3A00, 0x600) else (0x7500, 0x300)

/-- The library area of a core is loaded from its tile's library image: routines and handler set (R290 step 5, R404), and what they leave
free as if never written (log 111); without a handler set every vector entry says that there is no handler (R276). -/
def State.loadLib (s : State) (core : Nat) : State :=
  let l := s.lib (tileOfCore core)
  let crn := decide (64 ≤ core)
  let s1 := (s.clear (localBase core + 2 * libWord core) 0x6000).each (l.routines.filter fun r => r.crn == crn) fun s r => s.store (localBase core + 2 * (libWord core + r.off)) (wordBytes r.code)
  match l.hand crn with
  | none => s1.store (localBase core + 2 * vtbWord core) (List.replicate 128 0xFF)
  | some h => s1.writeHandlers core h.off h.words

/-- The Cornice supervisor from the image in force (R262, R290). -/
def State.loadSuper (s : State) (core : Nat) : State :=
  if core < 64 then s else
  match s.secBytes s.prm.slot 2 with
  | none => s
  | some b => s.store (localBase core) (b.take 0x8000)

/-- Context 0 of a Cornice core starts its supervisor: level 1, at word 0 of the supervisor's area (R262; log 31). -/
def State.startSuper (s : State) (core : Nat) : State :=
  if core < 64 then s else
  s.setCtx core 0 { ({} : Ctx) with
    st := .ready, pl := 1, cseg := seg (aliasAddr 0) 0x3FFF, segs := [(0, seg (aliasAddr (privWord core 0)) 0xFF)],
    vtb := BitVec.ofNat 16 (vtbWord core), tsbr := BitVec.ofNat 16 (tsbWord core 0) }

/-- Open words handed out for a run of n words (R291). -/
def State.openWords (s : State) (base n : Nat) : State :=
  { s.store base (wordBytes ((List.range n).map fun i => Config.freeWord (s.freeNext + i))) with freeNext := s.freeNext + n }

/-- Every context of a core is at its reset, and the Cornice supervisor starts again (R290 step 6). -/
def State.freshCtxs (s : State) (core : Nat) : State := (s.updCore core fun c => { c with ctxs := [] }).startSuper core

end Sys2Proof.Machine
end

