-- ==== Sys2Proof/Machine/ResetOps.lean ====
section
/-! DEFINITION. What a reset leaves: the MRAM, the always-on domain and the pins are kept, everything else is at its reset
value (R16, R421, R431, R447). -/

namespace Sys2Proof.Machine
open Sys2Proof

/-- First device-internal address of the MRAM (R35, R427). -/
def mramBase : Nat := 0x2000000

/-- What the boot block, the configuration store and the slots keep of Primer's record (R427). -/
def Prm.stored (p : Prm) : Prm :=
  { ({} : Prm) with
    retry := p.retry, starts := p.starts, hawkOut := p.hawkOut, adcOut := p.adcOut, ucie0 := p.ucie0, pllFb := p.pllFb, t1sOut := p.t1sOut,
    coreOut := p.coreOut, crnOut := p.crnOut, portOut := p.portOut, s3Variant := p.s3Variant, s4Other := p.s4Other, s9Variant := p.s9Variant,
    bootBad := p.bootBad, clrFallback := p.clrFallback, slot := p.slot, trial := p.trial, confirmed := p.confirmed, trialSlot := p.trialSlot,
    trialRan := p.trialRan, trialFailed := p.trialFailed, verA := p.verA, verB := p.verB, svn := p.svn, stateVer := p.stateVer,
    nextMode := p.nextMode, subVendor := p.subVendor, subId := p.subId }

/-- The status registers that a warm start or a self restart keeps besides (R447). -/
def Prm.warmKept (p : Prm) : Prm :=
  { p.stored with step := p.step, st := p.st, fallback := p.fallback, jlost := p.jlost, failStep := p.failStep, warm := p.warm,
                  failCode := p.failCode, readyT := p.readyT, verified := p.verified, mod0Down := p.mod0Down }

/-- The registers of wake logic and supply supervision, which lie in the always-on domain (R51). -/
def Pwr.aoKept (p : Pwr) : Pwr :=
  { ({} : Pwr) with vddWarn := p.vddWarn, ioWarn := p.ioWarn, pmicWarn := p.pmicWarn, vddaOut := p.vddaOut, vddMv := p.vddMv, lowMv := p.lowMv,
                    goodLost := p.goodLost, dips := p.dips, pmic := p.pmic, wakeDom := p.wakeDom, wakeCause := p.wakeCause, l4wake := p.l4wake,
                    refclkOk := p.refclkOk, xtalOk := p.xtalOk }

/-- What a reset leaves of a port: its input levels, which are pins, and its stored calibration block (R390). -/
def Port.afterReset (p : Port) : Port := { ({} : Port) with levels := p.levels, calStored := p.calStored }

/-- The lines of the GPIO inputs follow the pins again (R322). -/
def gpioLines (ports : Table Port) : Table Src :=
  (List.range 6).foldl (fun t b => (List.range 16).foldl (fun t l =>
    if bitOf (ports.get {} (0x50 + b)).levels l then t.set (0x5D0 + 16 * b + l) { ({} : Src) with line := true } else t) t) []

/-- The state under reset: memories other than the MRAM, and every register outside the always-on domain, are at their
reset; records held in FWC memory are lost (R431), and their numbers with them. -/
def State.reinit (s : State) (warm : Bool) : State :=
  let ports := s.ports.mapVals fun _ p => p.afterReset
  { State.reset with
    pending := s.pending, mem := s.mem.filter fun c => decide (mramBase ≤ c.1), journal := s.journal,
    jseq := s.jseq - BitVec.ofNat 64 s.jheld.length, mled := s.mled, prm := if warm then s.prm.warmKept else s.prm.stored,
    pwr := if warm then s.pwr.aoKept else { ({} : Pwr) with xtalOk := false }, ports, srcs := gpioLines ports,
    ds := { ({} : Ds) with fenceIn := s.ds.fenceIn, present := s.ds.present, rolePin := s.ds.rolePin,
                           liveReply := if warm then s.ds.liveReply else none },
    porLow := s.porLow, warmLow := s.warmLow, freeNext := s.freeNext }

/-- The die enters reset with the start that is due after it: outputs before first enable, HALTED_N asserted, the Dust
Sheet silent (R416, R421). -/
def State.enterReset (s : State) (due : Nat) : State :=
  let s1 := s.reinit (due ≠ 0)
  { s1 with prm := { s1.prm with due } }

end Sys2Proof.Machine
end

