-- ==== Sys2Proof/Machine/PowerOps.lean ====
section
/-! DEFINITION. Power domains: their users, tolerance, target, pins and idleness, cells parked at L3, wakes, and L4
(R397 to R409). -/

namespace Sys2Proof.Machine
open Sys2Proof

/-! ### Domains (R51, R52) -/

/-- The present level of a domain: of a UCIe module, its link state (R399); the domain of a module left unconnected (R54), or of a
T1S PHY that is out of service (R424), is off. -/
def State.domLevel (s : State) (d : Nat) : Nat :=
  if 72 ≤ d ∧ d < 104 ∧ bitOf s.prm.t1sOut (d - 72) = true then 3
  else if isLinkDom d then (if !(s.link (d - 125)).conn then 3 else match (s.link (d - 125)).lstate.toNat with
    | 1 => 1
    | 2 => 2
    | _ => 0)
  else (s.dom d).level

/-! ### Idleness (R402) -/

/-- No admin command, no journal write and no core recovery is at hand. -/
def State.fwcIdle (s : State) : Bool :=
  s.aq.cmds.isEmpty && s.jheld.isEmpty && allCores.all fun c => !(s.locked c) || (s.core c).out

/-- A domain is idle (R402); the Dust Sheet has no condition of its own. -/
def State.domIdle (s : State) (d : Nat) : Bool :=
  if isCoreDom d then
    if d < 64 then (List.range 8).all fun k => (s.ctx d k).st = .free
    else ((List.range 4).all fun k => k == 0 || (s.ctx d k).st = .free) && (s.ctx d 0).base = .waiting && (s.ctx d 0).wait = .event
  else if !(domPorts d).isEmpty then
    (domPorts d).all fun p => (s.port p).st ≠ 1 || ((s.port p).unitOn.isNone && (s.port p).readers.isEmpty)
  else if 127 ≤ d ∧ d ≤ 130 then
    let q := d - 127
    (allCores.all fun c => tileOfCore c / 2 ≠ q || decide (1 ≤ s.domLevel c)) && decide (1 ≤ s.domLevel (120 + q))
      && !(s.chans.any fun e => tileOfCh e.1 / 2 == q && e.2.st = .active)
  else if d = 131 then s.fwcIdle else if d = 133 then s.jheld.isEmpty else true

/-! ### Parking at L3 (R404) -/

/-- Cells that a domain's parked state takes (R404). -/
def parkCells (d : Nat) : Nat :=
  if isCoreDom d then 137 else if d < 104 then 2 else if d < 112 then 4 else if d < 114 then 8 else if d < 120 then 0
  else if d < 124 then 32 else if d = 124 then 1 else if d = 132 then 2 else 0

/-- The slice of a domain's quadrant (R404); domains of no quadrant use the slice of the die-unit masters. -/
def domSlice (d : Nat) : Nat :=
  if isCoreDom d then tileOfCore d / 2 else if d < 104 then (d - 72) / 8 else if d < 108 then d - 104 else if d < 112 then d - 108
  else if 120 ≤ d ∧ d < 124 then d - 120 else 3

/-- n FREE cells taken from a slice on for a domain. -/
def State.takeParked (s : State) (d home : Nat) : Nat → Option (List Nat × State)
  | 0 => some ([], s)
  | n + 1 =>
    match s.pickCell home with
    | none => none
    | some k =>
      match ({ s.setCell k (.parked d) 0 with freeNext := s.freeNext + 1 } : State).takeParked d home n with
      | none => none
      | some (l, s2) => some (k :: l, s2)

/-- The words of local memory that a core parks (R404): byte base and bytes. -/
def coreParked (core : Nat) : Nat × Nat := (localBase core + 2 * (if core < 64 then 0x3000 else 0x7000), 0x2000)

/-- Bytes laid into the parked cells one after the other, each with a link word of KIND 2 (R293, R404). -/
def State.layParked (s : State) (cells : List Nat) (l : List Byte) : State :=
  match cells with
  | [] => s
  | k :: r =>
    (s.store (cellAddr k) (l.take 60 ++ List.replicate (60 - l.length) 0
      ++ leBytes 4 (mkLink (r.headD 0) r.isEmpty (min 60 l.length) 2))).layParked r (l.drop 60)

/-- The bytes that parked cells hold, one after the other. -/
def State.parkedBytes (s : State) (cells : List Nat) : List Byte := cells.flatMap fun k => s.bytesAt (cellAddr k) 60

/-- A domain parks its state at L3, where enough cells can be taken (R404): a core the words that R404 names, the others in a form that
the spec does not give, so that their cells hold open values (log 122). -/
def State.parkDom (s : State) (d : Nat) : Option State :=
  let n := parkCells d
  if s.owed + 1 + n ≤ s.freeOrCredit ∨ n = 0 then
    match s.takeParked d (domSlice d) n with
    | none => none
    | some (cells, s1) =>
      let s2 := if isCoreDom d then s1.layParked cells (s1.bytesAt (coreParked d).1 (coreParked d).2)
        else ({ s1 with freeNext := s1.freeNext + 60 * n } : State).layParked cells ((List.range (60 * n)).map fun i => Config.freeByte (s1.freeNext + i))
      some (s2.updDom d fun x => { x with level := 3, cells })
  else none

/-- DOMAIN_IDLE_EXPIRY (R402, R404): a domain at L0 that has been idle moves to its target. -/
def State.restDom (s : State) (d : Nat) : State :=
  let t := s.domTarget d
  if s.die = .ready && decide (d < 134) && (s.dom d).level == 0 && !(s.dom d).waking && t != 0 && s.domIdle d then
    if t = 3 then
      match s.parkDom d with
      | some s1 => s1
      | none => s.updDom d fun x => { x with level := 2 }
    else s.updDom d fun x => { x with level := t }
  else s

/-! ### Wakes (R398, R405, R406) -/

/-- A woken core has its parked words back, its library and its supervisor reloaded (R404). -/
def State.restoreCore (s : State) (core : Nat) (cells : List Nat) : State :=
  ((s.loadLib core).loadSuper core).store (coreParked core).1 ((s.parkedBytes cells).take (coreParked core).2)

/-- The wake of a domain is complete: it is at L0, and the cells of its parked state are FREE again (R398, R404). -/
def State.wakeDone (s : State) (d : Nat) : State :=
  let x := s.dom d
  if x.waking then
    let s1 := if isCoreDom d && x.level == 3 then s.restoreCore d x.cells else s
    ((s1.each x.cells fun s k => s.freeOne k).updDom d fun y => { y with level := 0, waking := false, cells := [] }).served
  else s

/-! ### L4 (R407 to R409) -/

/-- A channel rests (R407). -/
def Chan.atRest (c : Chan) : Bool := c.st = .idle || c.st = .suspended || c.st = .halted || c.st = .error

/-- The conditions of R407, all but their 10 ms. -/
def State.l4Ready (s : State) : Bool :=
  s.die = .ready && !s.hold && s.pwr.restEn && !s.paired && s.ds.role != 2 && s.pwr.l4ok && decide (4000 ≤ s.pwr.dieTol.toNat)
    && s.queues.all (fun e => e.2.st == .disabled || (decide (4000 ≤ e.2.latTolAct.toNat) && e.2.bound.all fun x => x.done))
    && s.chans.all (fun e => e.2.atRest) && s.ports.all (fun e => e.2.st == 0 || e.2.st == 4) && s.aq.cmds.isEmpty
    && [0, 1].all (fun md => !(s.link md).conn || ((s.link md).lstate == 2 && (s.link md).cfg.d3)) && !s.icWake

/-- A wake event at L4 (R405, R406). -/
def State.wakeL4 (s : State) (cause : Nat) (pin : Bool) : State :=
  if s.die = .l4 ∧ s.pwr.l4waking = false then
    let s1 := s.noteWake 0xFF cause
    { s1 with pwr := { s1.pwr with l4waking := true }, wakeOut := s1.wakeOut || pin }
  else s

/-- The least tick time above a time for a period (R202). -/
def nextTick (time period : Nat) : Nat := if period = 0 then time else (time / period + 1) * period

/-- The Hawk's contents are lost: chains, mailboxes and buffered input are gone, local segments read 0 (R196, R408); what a domain of this
die has parked there stays (R404). -/
def State.loseHawk (s : State) : State :=
  let cells := s.hawk.cells.filter fun e => match e.2 with
    | .lseg _ | .retired | .parked _ => true
    | _ => false
  let s1 : State := { s with
    hawk := { s.hawk with cells, acct := s.hawk.acct.filter fun e => cells.any fun c => c.1 == e.1, waits := [] },
    chans := s.chans.mapVals fun _ c => { c with chain := none },
    mbxs := s.mbxs.mapVals fun _ m => { m with msgs := [] },
    ports := s.ports.mapVals fun _ p => { p with buf := [] },
    mem := s.mem.filter fun c => !(decide (hawkBase ≤ c.1) && decide (c.1 < hawkBase + 0x200000)) || cells.any fun e => (match e.2 with
        | .parked _ => true
        | _ => false) && c.1 / 64 == (cellAddr e.1) / 64 }
  s1.each (s1.mbxs.map (·.1)) fun s m => s.setLine (0x410 + m) false

/-- L4_EXIT_COMPLETE (R408, R409), with HOLDOVER until the source has locked again: the time spent in L4 is given in counts of 32.768 kHz. -/
def State.l4Exit (s : State) (elapsed : Nat) : State :=
  if s.die ≠ .l4 || !s.pwr.l4waking then s else
  let t := s.frm.time.toNat + elapsed * 100000000 / 32768
  let s0 := s.each s.pwr.doms fun s e => s.each e.2.cells fun s k => s.freeOne k
  let s1 := { s0 with die := .ready }.loseHawk
  let s2 := s1.each allCores fun s c => (s.loadLib c).loadSuper c
  { s2 with pwr := { s2.pwr with l4waking := false, doms := s2.pwr.doms.mapVals fun _ (d : Dom) => ({ d with level := 0, waking := false, cells := [] } : Dom) },
            frm := { s2.frm with time := BitVec.ofNat 64 t, next := BitVec.ofNat 64 (nextTick t s2.frm.periodAct.toNat), stepMark := true,
                                 holdover := true, taken := true, locked := false, goodEdges := 0 } }.pulse 0x402

end Sys2Proof.Machine
end

