-- ==== Sys2Proof/Machine/Powers.lean ====
section
/-! DEFINITION. The meanings of the rows of power, wake and supply supervision (R192 to R194, R397 to R420). -/

namespace Sys2Proof.Machine
open Sys2Proof

/-- DOMAIN_IDLE_EXPIRY (R402). -/
def execDomainIdleExpiry (d : Nat) (s : State) : Host.Outcome State Fault Refusal := .next (s.restDom d)

/-- WAKE_REQUEST (R405). -/
def execWakeRequest (d : Nat) (cause : BitVec 4) (s : State) : Host.Outcome State Fault Refusal := .next (s.wakeDomain d cause.toNat)

/-- DOMAIN_WAKE_COMPLETE (R398). -/
def execDomainWakeComplete (d : Nat) (s : State) : Host.Outcome State Fault Refusal := .next (s.wakeDone d)

/-- L4_ENTRY (R407, R408): the command stands for the end of the 10 ms; what the FWC saves stays in the state. -/
def execL4Entry (s : State) : Host.Outcome State Fault Refusal :=
  .next (if s.l4Ready then let s1 := s.flushJournal; { s1 with die := .l4 } else s)

/-- L4_TIMER_WAKE (R405, R406). -/
def execL4TimerWake (s : State) : Host.Outcome State Fault Refusal := .next (if s.pwr.l4wake = 0 then s else s.wakeL4 8 true)

/-- PAIR_PRESENT_FALL (R405, R406, R448). -/
def execPairPresentFall (s : State) : Host.Outcome State Fault Refusal :=
  .next (({ s with ds := { s.ds with present := true } } : State).wakeL4 9 true).retarget

/-- UCIE_L2_EXIT (R77, R405). -/
def execUcieL2Exit (md : Nat) (s : State) : Host.Outcome State Fault Refusal :=
  .next ((s.updLink md fun l => if l.lstate = 2 then { l with exiting := true } else l).wakeL4 7 false)

/-- L4_EXIT_COMPLETE (R408, R409). -/
def execL4ExitComplete (elapsed : Nat) (s : State) : Host.Outcome State Fault Refusal := .next (s.l4Exit elapsed)

/-! ### Supply supervision (R414 to R418) -/

/-- A WARN condition holds on some rail (R414). -/
def Pwr.warns (p : Pwr) : Bool := p.vddWarn || p.ioWarn || p.pmicWarn

/-- A WARN condition of a rail begins or ends: 0 VDD, 1 VDDIO18, 2 SUPPLY_WARN_N. -/
def Pwr.setWarn (p : Pwr) (rail : Nat) (b : Bool) : Pwr :=
  let p1 : Pwr := if b then { p with dipRails := p.dipRails ||| BitVec.ofNat 3 (2 ^ rail) } else p
  match rail with
  | 0 => { p1 with vddWarn := b }
  | 1 => { p1 with ioWarn := b }
  | 2 => { p1 with pmicWarn := b }
  | _ => p

/-- The WARN conditions that hold, as SUPPLY_DIP codes them (R430). -/
def Pwr.rails (p : Pwr) : BitVec 3 := BitVec.ofNat 3 (b2n p.vddWarn + 2 * b2n p.ioWarn + 4 * b2n p.pmicWarn)

/-- Bank arbiters 0 to 36 give no grant in Hold (R192, R320). -/
def State.holdScrs (s : State) (b : Bool) : State := s.each (List.range 37) fun s a => s.updScr a fun x => { x with hold := b }

/-- Offers to processors that are not to be had any more are withdrawn (R329). -/
def State.reofferAll (s : State) : State := s.each (List.range 73) fun s i => s.reofferMember i

/-- The die enters Hold (R192, R415): arbiters, cores, journal; the frame is DIPPED. -/
def State.enterHold (s : State) (rail : Nat) : State :=
  if s.hold || s.die ≠ .ready then s else
  let s1 : State := { s with
    hold := true,
    pwr := { s.pwr with dips := satInc s.pwr.dips, pmic := if rail = 2 then satInc s.pwr.pmic else s.pwr.pmic, lowMv := s.pwr.vddMv, dipFrames := 1, holdAt := s.frm.count,
                         dipRails := s.pwr.rails },
    frm := { s.frm with flags := s.frm.flags ||| 1, dippedN := if bitOf s.frm.flags 0 then s.frm.dippedN else satInc s.frm.dippedN } }
  (((s1.holdScrs true).arrangeAll.flushJournal).setLine 0x405 true).reofferAll

/-- SUPPLY_WARN (R415). -/
def execSupplyWarn (rail : Nat) (s : State) : Host.Outcome State Fault Refusal :=
  .next (if rail < 3 then ({ s with pwr := s.pwr.setWarn rail true } : State).enterHold rail else s)

/-- SUPPLY_WARN_RELEASE (R415): Hold itself is left at the next tick. -/
def execSupplyWarnRelease (rail : Nat) (s : State) : Host.Outcome State Fault Refusal :=
  .next { s with pwr := s.pwr.setWarn rail false }

/-- PAYLOAD of SUPPLY_DIP and SUPPLY_HALT (R430). -/
def State.dipPayload (s : State) : Nat :=
  min s.pwr.dipFrames 0xFFFF + s.pwr.dipRails.toNat <<< 16 + s.pwr.lowMv.toNat <<< 20

/-- The 3 ms of a Hold in cycles of the frame timer (R193, R415). -/
def holdLimit : Nat := 300000

/-- HOLD_TIMEOUT (R415, R418): the controlled halt, where a WARN condition still holds as the count ends. -/
def execHoldTimeout (s : State) : Host.Outcome State Fault Refusal :=
  .next (if s.hold && s.die = .ready && s.pwr.warns && decide (s.pwr.holdAt + holdLimit ≤ s.frm.count) then
      (({ s with pwr := { s.pwr with goodLost := true } } : State).journalRec stSupplyHalt false false false midFwc s.dipPayload).haltDie
    else s)

/-- SUPPLY_RESET (R416): the die is under reset until POR_N is released. -/
def execSupplyReset (rail : Nat) (s : State) : Host.Outcome State Fault Refusal := .next (if rail < 2 then s.enterReset 0 else s)

/-- REFCLK_LOSS (R413). -/
def execRefclkLoss (s : State) : Host.Outcome State Fault Refusal :=
  .next (let s1 : State := { s with pwr := { s.pwr with refclkOk := false } }
    if s1.die = .ready then s1.haltDie else s1)

/-- XTAL_STOP (R413). -/
def execXtalStop (s : State) : Host.Outcome State Fault Refusal := .next { s with pwr := { s.pwr with xtalOk := false } }

/-- XTAL_START (R500). -/
def execXtalStart (s : State) : Host.Outcome State Fault Refusal := .next { s with pwr := { s.pwr with xtalOk := true } }

/-! ### Group resets (R412) -/

/-- The reset of a core's group: its contexts are fresh, and programs whose routines ran there end with UNIT_FAULT
(log 32). -/
def State.resetCore (s : State) (core : Nat) : State :=
  let s1 := s.each (List.range (ctxCount core)) fun s k =>
    if (s.ctx core k).run.isSome then s.failRun core k stUnitFault .free else s
  ((s1.freeHeldAll (midOfCore core)).updCore core fun c => { c with ctxs := [], cycle := 0, ptr := 0 }).arrange core

/-- The reset of a port's group: configuration in force, counters and calibration are at their reset, the port is OFF
(R404, R412). -/
def State.resetPort (s : State) (p : Nat) : State :=
  let s1 := s.each (s.portChans p) fun s ch => s.endOnPort p stUnitFault ch
  (s1.updPort p fun q => { q.afterReset with shadow := q.shadow, bshadow := q.bshadow, st := if q.st = 4 then 4 else 0 }).portSafe p

/-- The reset of the Dust Sheet's group: the link is down. -/
def State.resetDs (s : State) : State :=
  { s with frm := { s.frm with pairLock := false }, ds := { s.ds with lanes := 0, aligned := 0, unacked := [], txWait := [], txSeq := 0, rxSeq := 0 } }

/-- A whole group is reset; a domain at rest is woken first (R412, R419). -/
def State.resetGroup (s : State) (g : Nat) : State :=
  let s1 := (s.wakeDomain g 6).wakeDone g
  if isCoreDom g then s1.resetCore g
  else if !(domPorts g).isEmpty then s1.each (domPorts g) fun s p => s.resetPort p
  else if g = 124 then s1.resetDs
  else if isLinkDom g then s1.setLink (g - 125) { conn := (s1.link (g - 125)).conn }
  else s1

/-- A reset of a group through CLK_RST: the FWC's alone (R412, R420). -/
def State.groupReset (s : State) (m g : Nat) : State :=
  if m ≠ midFwc then s.accFault m else if g < 134 then (s.resetGroup g).served else s

/-- GROUP_RESET (R412). -/
def execGroupReset (m g : Nat) (s : State) : Host.Outcome State Fault Refusal :=
  .next (s.access m 0x3808 fun s => s.groupReset m g)

end Sys2Proof.Machine
end

