-- ==== Sys2Proof/Machine/StartOps.lean ====
section
/-! DEFINITION. Primer: the steps of a start, their records, fallbacks, slot choice and roles (R421 to R437, R449 to R452). -/

namespace Sys2Proof.Machine
open Sys2Proof

/-! ### Step records (R423, R430) -/

/-- The counter of a step (R424). -/
def Prm.count (p : Prm) (k : Nat) : Nat := p.retry.get 0 k

/-- The variant of a step as its record shows it (R424, R430). -/
def Prm.variant (p : Prm) (k : Nat) : Nat :=
  match k with
  | 3 => min 3 p.s3Variant
  | 4 | 12 => b2n p.s4Other
  | 5 => b2n (p.hawkOut ≠ 0 || p.coreOut ≠ 0 || p.crnOut ≠ 0)
  | 6 => b2n (p.pllFb ≠ 0)
  | 7 => p.ucie0.toNat
  | 8 => b2n (p.t1sOut ≠ 0)
  | 9 => min 3 p.s9Variant
  | 10 => b2n (p.portOut ≠ 0)
  | _ => 0

/-- The unit in the record of a failure, of the unit that the start names (R430): a cell, a core as in CTXID, a PLL, a lane set or a PORT
code; of S7 the lane set that was tried, module 1's being 3 (log 33). -/
def Prm.unitOf (p : Prm) (k u : Nat) : Nat :=
  match k with
  | 5 => u % 0x10000
  | 6 | 8 | 10 => u
  | 7 => if u = 1 then 3 else p.ucie0.toNat
  | 9 => 0x58
  | _ => 0

/-- A step record (R430). -/
def State.stepRec (s : State) (k : Nat) (code : BitVec 16) (unit : Nat) : State :=
  s.journalRec code false true false midFwc (k + s.prm.variant k <<< 4 + s.prm.count k <<< 6 + (unit % 0x1000000) <<< 8)

/-- A failure after which the start goes on (R423): it is journalled, and PRM_STATUS names the step and the code of the last failure. -/
def State.stepPast (s : State) (k u : Nat) (code : BitVec 16) : State :=
  ({ s with prm := { s.prm with step := k, failStep := k, failCode := code } } : State).stepRec k code (s.prm.unitOf k u)

/-- The step passes: its counter returns to 0 (R425), and its record is made. -/
def State.stepPass (s : State) (k : Nat) : State :=
  ({ s with prm := { s.prm with step := k, retry := s.prm.retry.set k 0 } } : State).stepRec k stOk 0

/-- The code journalled when a step fails (R422). -/
def stepCode (k : Nat) : BitVec 16 :=
  match k with
  | 3 | 5 => stEcc
  | 4 | 12 => stImageRejected
  | 11 => stPairUnavailable
  | 0 | 1 | 2 => stOk
  | _ => stUnitFault

/-- What a failure changes for the next start (R424): the unit of S5 is a cell, or a core from 0x10000 on; 0x20000 on names an
array without a fallback (log 33). -/
def Prm.fallen (p : Prm) (k u : Nat) : Prm :=
  match k with
  | 3 => { p with s3Variant := min 2 (p.s3Variant + 1) }
  | 4 | 12 => if p.trialSlot.isSome then { p with trialFailed := true } else { p with s4Other := !p.s4Other }
  | 5 =>
    if u < 0x10000 then { p with hawkOut := withBit p.hawkOut (u / 8192) true }
    else if u < 0x10040 then { p with coreOut := withBit p.coreOut (u - 0x10000) true }
    else if u < 0x10048 then { p with crnOut := withBit p.crnOut (u - 0x10040) true } else p
  | 6 => if u < 6 then { p with pllFb := withBit p.pllFb u true } else p
  | 7 => { p with ucie0 := if p.ucie0 = 0 then 1 else 2 }
  | 8 => if u < 32 then { p with t1sOut := withBit p.t1sOut u true } else p
  | 9 => { p with s9Variant := min 2 (p.s9Variant + 1), adcOut := p.adcOut || decide (1 ≤ p.s9Variant) }
  | 10 => if u < 128 then { p with portOut := withBit p.portOut u true } else p
  | _ => p

/-- A step fails and the start ends (R423): counter, variant, record, safe outputs; a self restart follows. -/
def State.stepFail (s : State) (k u : Nat) : State :=
  let n := min 3 (s.prm.count k + 1)
  let p1 := { s.prm with step := k, failStep := k, failCode := stepCode k, retry := s.prm.retry.set k n }
  let s1 := ({ s with prm := p1 } : State).stepRec k (stepCode k) (s.prm.unitOf k u)
  ({ s1 with prm := (s1.prm).fallen k u, die := .reset }.allSafe.flushJournal).enterReset 2

/-! ### The steps -/

/-- A start begins (R421, R426, R447): the start counter, the kept variants, the first step. -/
def State.beginStart (s : State) (kind : Nat) : State :=
  let s1 := s.reinit (kind ≠ 0)
  let p := s1.prm
  let p1 : Prm := if p.clrFallback then { p with s3Variant := 0, s4Other := false, s9Variant := 0, hawkOut := 0, adcOut := false, ucie0 := 0, pllFb := 0,
                                                 t1sOut := 0, coreOut := 0, crnOut := 0, portOut := 0, clrFallback := false } else p
  { s1 with die := .reset, pwr := { s1.pwr with goodLost := false },
            prm := { p1 with starts := p1.starts + 1, st := 0, warm := kind ≠ 0, step := if kind = 0 then 0 else 1, jlost := false,
                                            due := kind } }

/-- S3: the journal is opened, unreadable records at its head counting as unwritten, and what the ledger area holds is journalled (R424,
R428, R434). -/
def State.stepS3 (s : State) : State :=
  let s1 : State := if s.prm.s3Variant = 2 then { s with journal := [], prm := { s.prm with jlost := true } }
    else { s with journal := s.journal.dropWhile fun r => r.bad }
  let s2 : State := s1.each s1.mled fun s e => s.journalRec stIndeterminate true false false midFwc e.2.indet
  { s2 with mled := [] }.stepPass 3

/-- The slot that the next start boots (R424, R437, PRM_FW.NEXT): the trial's, else the confirmed one, or the other slot in S4's
variant. -/
def Prm.nextSlot (p : Prm) : Bool :=
  let base := p.confirmed != p.s4Other
  match p.trialSlot with
  | some t => if p.trialRan || p.trialFailed then base else t
  | none => base

/-- S4: the image is chosen (R437); an abandoned trial is journalled. -/
def State.stepS4 (s : State) : State :=
  let p := s.prm
  let slot := p.nextSlot
  let left := p.trialSlot.isSome && (p.trialRan || p.trialFailed)
  let trial := (p.trialSlot.isSome && !left) || slot != p.confirmed
  let s1 : State := { s with prm := { p with slot, trial, verified := p.verified && slot == p.slot,
                                             trialSlot := if left then none else p.trialSlot,
                                             trialRan := if left then false else p.trialRan,
                                             trialFailed := if left then false else p.trialFailed,
                                             stateVer := BitVec.ofNat 16 (s.leAt (slotBase slot + 0x14) 2) } }
  (if left then s1.journalFw stOk (!slot) false 3 0 else s1).noteVersions

/-- S5: slices and cells in service, cores out of service with their lock bits (R34, R291, R447). -/
def State.stepS5 (s : State) : State :=
  let q : BitVec 4 := ~~~ s.prm.hawkOut
  let n := ((List.range 4).filter fun i => bitOf q i).length
  let s1 : State := { s with gctl := { s.gctl with hawkQ := q, cells := BitVec.ofNat 16 (8192 * n), coreLock := s.prm.coreOut, crnLock := s.prm.crnOut } }
  let out := allCores.filter fun c => if c < 64 then bitOf s.prm.coreOut c else bitOf s.prm.crnOut (c - 64)
  ((s1.each out fun s c => s.updCore c fun x => { x with out := true }).lockLine).stepPass 5

/-- S6: the PLLs are locked and the clocks run; TIME starts to count (R202, R422). TCK is no clock of the die's. -/
def State.stepS6 (s : State) : State :=
  ({ s with pwr := { s.pwr with pllLock := 0x3F, pllFb := s.prm.pllFb, refclkOk := true, clkRun := 0x2FFF9 } } : State).stepPass 6

/-- A module trains at a rate (R58). -/
def Link.train (l : Link) (rate : BitVec 2) (x8 : Bool) : Link := { l with up := true, lstate := 0, rate, x8 }

/-- S7 with a module that does not train and yet does not end the start (R423): a failure of module 0 moves its variant (R424). -/
def State.pastS7 (s : State) (m : Nat) : State :=
  let s1 := s.stepPast 7 m stUnitFault
  if m = 0 then { s1 with prm := { (s1.prm).fallen 7 0 with mod0Down := true } } else s1

/-- S7: the attachment mode is loaded and the modules train (R55, R58); `down` names the one that does not and yet does not
end the start (R423). -/
def State.stepS7 (s : State) (r : StartRun) (down : Option Nat) : State :=
  let mode := s.prm.nextMode
  let up0 := down ≠ some 0
  let up1 := r.conn1 && down ≠ some 1
  let s1 : State := { s with
    mode, carry := decide (mode = 2) && !up0,
    link0 := if up0 then s.link0.train r.rate0 (s.prm.ucie0 ≠ 0) else s.link0,
    link1 := { (if up1 then s.link1.train r.rate1 false else s.link1) with conn := r.conn1 },
    prm := { s.prm with mod0Down := false },
    pwr := { s.pwr with clkRun := withBit (withBit s.pwr.clkRun 1 up0) 2 up1 } }
  match down with
  | none => s1.stepPass 7
  | some m => s1.pastS7 m

/-- The calibration of a port: the stored block where its check holds, else a measured one (R422, R446). -/
def State.calibrate (s : State) (p : Nat) : State :=
  s.updPort p fun q =>
    { q with cal := if calOk p q.calStored then q.calStored else s.calBlock p (List.replicate 8 0 ++ Config.measuredTrims p s.prm.starts.toNat) }

/-- S8: T1S calibration. -/
def State.stepS8 (s : State) : State := (s.each ((List.range 32).filter fun p => !bitOf s.prm.t1sOut p) fun s p => s.calibrate p).stepPass 8

/-- S9: ADC calibration. -/
def State.stepS9 (s : State) : State :=
  (if s.prm.s9Variant = 0 then s.calibrate 0x58 else s.updPort 0x58 fun q => { q with cal := Config.fusedAdc }).stepPass 9

/-- S10: every port is OFF, but for those mapped out, which are in OOS (R360, R424). -/
def State.stepS10 (s : State) : State :=
  let out := allPorts.filter fun p => bitOf s.prm.portOut p || (decide (p < 32) && bitOf s.prm.t1sOut p) || (p == 0x58 && s.prm.adcOut)
  (s.each out fun s p => s.updPort p fun q => { q with st := 4 }).stepPass 10

/-! ### Roles at S11 (R449 to R452) -/

/-- The die takes a role (R449, R450). -/
def State.takeRole (s : State) (role sub : BitVec 2) : State :=
  { s with ds := { s.ds with role, sub, fenceOut := role ≠ 2, arbRound := none } }

/-- This die is the preferred one: PAIR_ROLE low, or with equal straps the lower serial number (R451). -/
def preferred (own : Bool) (strap : Bool) (serial : Word64) : Bool :=
  if own != strap then !own else decide (Config.serial.toNat < serial.toNat)

/-- The violation of equal straps (R451, R459 reason 9). -/
def State.strapViolation (s : State) : State :=
  { s with ds := { s.ds with viol := satInc s.ds.viol, last := 9 } }.journalRec stViolation false false false 0x110 (0xFD + 9 * 256)

/-- The role of a die whose partner is seen on the link (R451). -/
def State.roleByLink (s : State) (partner : Option (BitVec 2 × Bool × Word64)) : State :=
  match partner with
  | none => if s.ds.rolePin then s.takeRole 2 2 else s.takeRole 1 2
  | some (role, strap, serial) =>
    let s1 : State := { s with ds := { s.ds with peerRole := role, peerSerial := serial } }
    if role = 0 ∨ role = 1 then s1.takeRole 2 2
    else
      let s2 := if strap = s.ds.rolePin then s1.strapViolation else s1
      if preferred s.ds.rolePin strap serial then s2.takeRole 1 2 else s2.takeRole 2 2

/-- S11 up to its outcome (R451): fence arbitration is left to its own rows. -/
def State.stepS11 (s : State) (r : StartRun) : State :=
  if !s.ds.present then (s.takeRole 0 0).stepPass 11
  else if r.linkUp then
    let s1 : State := { s with ds := { s.ds with lanes := 3, aligned := 3 } }
    (s1.roleByLink r.partner).stepPass 11
  else
    let s1 := s.stepPast 11 0 stPairUnavailable
    if s.ds.fenceIn then s1.takeRole 2 2 else { s1 with ds := { s1.ds with arbRound := some 0 } }

/-! ### S12, S13 -/

/-- A handler set of the image for a library (R422, R435). -/
def State.imageSet (s : State) (ty : Nat) : Option HandSet :=
  (s.secBytes s.prm.slot ty).map fun b =>
    let w := (List.range (b.length / 2)).map fun i => BitVec.ofNat 16 (ofLeBytes ((b.drop (2 * i)).take 2))
    { off := 0, len := w.length - 64, words := w }

/-- S12: the Cornice supervisors and the default handler sets are loaded, and the supervisors start (R262, R422). -/
def State.stepS12 (s : State) : State :=
  let s1 := s.each (List.range 8) fun s t => s.updLib t fun l => { l with handTrw := s.imageSet 3, handCrn := s.imageSet 4 }
  (s1.each (allCores.filter fun c => !(s.core c).out) fun s c => ((s.loadLib c).loadSuper c).startSuper c).stepPass 12

/-- A variant other than normal was used (PRM_STATUS.FALLBACK). -/
def Prm.fellBack (p : Prm) : Bool := [3, 4, 5, 6, 7, 8, 9, 10].any fun k => p.variant k ≠ 0

/-- S12 and S13: the die is READY (R421). -/
def State.finishStart (s : State) : State :=
  let s1 := s.stepS12
  { s1 with die := .ready,
            prm := { s1.prm with step := 13, st := 1, fallback := s1.prm.fellBack, trialRan := s1.prm.trialRan || s1.prm.trialSlot.isSome } }

/-- A start stops before a step whose counter has reached 3 (R425). -/
def State.stopStart (s : State) (k : Nat) : State :=
  { s with die := .stopped, prm := { s.prm with step := k, st := 2, failStep := k } }

/-- A step tries a unit: what is mapped out already is not tried again (R424). -/
def Prm.tries (p : Prm) (k u : Nat) : Bool :=
  match k with
  | 5 =>
    if u < 0x10000 then !(bitOf p.hawkOut (u / 8192))
    else if u < 0x10040 then !(bitOf p.coreOut (u - 0x10000))
    else if u < 0x10048 then !(bitOf p.crnOut (u - 0x10040)) else true
  | 8 => !(bitOf p.t1sOut u)
  | 9 => decide (p.s9Variant < 2)
  | 10 => !(bitOf p.portOut u)
  | _ => true

/-- The failure of a start ends it at this step: all but S11, and S7 where the other module carries on (R423). -/
def Prm.failsAt (p : Prm) (r : StartRun) (k : Nat) : Option Nat :=
  match r.fail with
  | none => none
  | some (j, u) => if j = k ∧ k ≠ 11 ∧ p.tries k u ∧ !(k == 7 && r.mod1 && (u == 1 || p.nextMode == 2)) then some u else none

/-- The image chosen at S4 fails verification (R436); a slot in which nothing has been staged stands for what the factory left there, of
which the start's own facts speak (log 33). -/
def State.imageBad (s : State) : Bool := s.leAt (slotBase s.prm.slot) 4 != 0 && !(s.imageOk s.prm.slot none)

/-- S3 finds the copy of the boot block that its variant reads uncorrectable (R424, R428). -/
def Prm.bootLost (p : Prm) : Bool := decide (p.s3Variant < 2) && bitOf p.bootBad p.s3Variant

/-- The failure that ends a start at a step: the one of this run, a boot block copy that cannot be read, or an image that fails
verification. -/
def State.failsNow (s : State) (r : StartRun) (k : Nat) : Option Nat :=
  if k = 3 ∧ s.prm.bootLost = true then some 0
  else if k = 4 ∧ s.imageBad = true then some 0
  else s.prm.failsAt r k

/-- S12 and S13, unless S12's counter has reached 3 or it fails (R424, R425). -/
def State.lastSteps (s : State) (fail : Option Nat) : State :=
  if s.prm.count 12 = 3 then s.stopStart 12
  else match fail with
    | some u => s.stepFail 12 u
    | none => s.finishStart

/-- The module that fails to train without ending the start (R423). -/
def moduleDown (r : StartRun) : Option Nat :=
  match r.fail with
  | some (7, u) => if r.mod1 then some (if u = 1 then 1 else 0) else none
  | _ => none

/-- One step of a start (R422). -/
def State.primerStep (s : State) (r : StartRun) (k : Nat) : State :=
  match k with
  | 3 => s.stepS3
  | 4 => s.stepPass 4
  | 5 => s.stepS5
  | 6 => s.stepS6
  | 7 => s.stepS7 r (moduleDown r)
  | 8 => s.stepS8
  | 9 => s.stepS9
  | 10 => s.stepS10
  | 11 => s.stepS11 r
  | _ => s

/-- The steps from a list in order, to the first that stops or fails (R421 to R425). S4 chooses its slot before it can fail,
S12 is judged once the role is chosen. -/
def State.primer (s : State) (r : StartRun) : List Nat → State
  | [] =>
    if s.ds.arbRound.isSome then { s with prm := { s.prm with s12Fail := s.prm.failsAt r 12 } } else s.lastSteps (s.prm.failsAt r 12)
  | k :: rest =>
    if decide (3 ≤ k) && s.prm.count k == 3 then s.stopStart k
    else
      let s1 := if k = 4 then s.stepS4 else s
      match s.failsNow r k with
      | some u => if k < 3 then { s1 with die := .halted, prm := { s1.prm with step := k, failStep := k } } else s1.stepFail k u
      | none => (s1.primerStep r k).primer r rest

/-- Where the frame timer stands some microseconds after its clock first ran, under the reset period, ADJ 0 and no slew (R202). -/
def Frm.sinceS6 (f : Frm) (us : Nat) : Frm :=
  let t := 100 * us
  let p := f.periodAct.toNat
  { f with time := BitVec.ofNat 64 t, frame := BitVec.ofNat 48 (t / p), opened := BitVec.ofNat 64 (t / p * p), next := BitVec.ofNat 64 (nextTick t p) }

/-- A start of a kind: 0 cold, 1 warm, 2 self restart (R421). -/
def State.startDie (s : State) (kind : Nat) (r : StartRun) : State :=
  let s1 := s.beginStart kind
  let s2 : State := { s1 with prm := { s1.prm with readyT := 0 } }
  let s3 := s2.primer r ((List.range 12).filter fun k => decide (1 ≤ k) || kind == 0)
  { s3 with prm := { s3.prm with readyT := if s3.die = .ready ∨ s3.ds.arbRound.isSome = true then r.usReady else 0 },
            frm := if s3.timerRuns then s3.frm.sinceS6 r.usTimer else s3.frm }

end Sys2Proof.Machine
end

