-- ==== Sys2Proof/Machine/Starts.lean ====
section
/-! DEFINITION. The meanings of the rows of starts, fallbacks, swaps, freezes and the journal's flush (R421 to R447). -/

namespace Sys2Proof.Machine
open Sys2Proof

/-- COLD_START (R421, R493): POR_N, which has been low, is released. -/
def execColdStart (r : StartRun) (s : State) : Host.Outcome State Fault Refusal :=
  .next (if s.die = .reset && s.prm.due == 0 && s.porLow then ({ s with porLow := false } : State).startDie 0 r else s)

/-- WARM_START (R421): WARMRST_N is released, or PRM_CTL.RESTART has been written. -/
def execWarmStart (r : StartRun) (s : State) : Host.Outcome State Fault Refusal :=
  .next (if s.die = .reset && s.prm.due == 1 && !s.porLow then ({ s with warmLow := false } : State).startDie 1 r else s)

/-- SELF_RESTART (R421). -/
def execSelfRestart (r : StartRun) (s : State) : Host.Outcome State Fault Refusal :=
  .next (if s.die = .reset && s.prm.due == 2 && !s.porLow && !s.warmLow then s.startDie 2 r else s)

/-- POR_N_FALL (R431): records still held in FWC memory are lost. -/
def execPorNFall (s : State) : Host.Outcome State Fault Refusal := .next (({ s with porLow := true } : State).enterReset 0)

/-- WARMRST_FALL (R421, R505): held records are written first; POR_N ranks above, and a die that waits for POR_N goes on waiting for it
(R493). -/
def execWarmrstFall (s : State) : Host.Outcome State Fault Refusal :=
  .next (let s1 : State := { s with warmLow := true }
    if s.porLow || (s.die = .reset && s.prm.due == 0) then s1 else s1.flushJournal.enterReset 1)

/-- A master may write the PRM registers (R447). -/
def prmMay (m : Nat) : Bool := isConfigMaster m || m == 0x1FF

/-- A write of PRM_CTL (R425, R426, R447): RESTART acts only while STATE is STOPPED. -/
def State.prmCtl (s : State) (m : Nat) (retry fallback restart : Bool) : State :=
  if !(prmMay m) then s.accFault m else
  let s1 : State := { s with prm := { s.prm with retry := if retry then [] else s.prm.retry, clrFallback := s.prm.clrFallback || fallback } }
  if restart && s.prm.st = 2 then s1.flushJournal.enterReset 1 else s1

/-- PRM_RESTART (R447). -/
def execPrmRestart (m : Nat) (s : State) : Host.Outcome State Fault Refusal :=
  .next (s.access m 0x4040 fun s => s.prmCtl m false false true)

/-- CLR_RETRY (R425). -/
def execClrRetry (m : Nat) (s : State) : Host.Outcome State Fault Refusal :=
  .next (s.access m 0x4040 fun s => s.prmCtl m true false false)

/-- CLR_FALLBACK (R426): at the next start. -/
def execClrFallback (m : Nat) (s : State) : Host.Outcome State Fault Refusal :=
  .next (s.access m 0x4040 fun s => s.prmCtl m false true false)

/-! ### Routine swap (R445) -/

/-- A swap waits for its tick. -/
def State.swapPending (s : State) : Bool := s.commits.any fun c => match c.what with
  | .swap .. => true
  | _ => false

/-- The declared bound would fail R223 under the budgets in force. -/
def State.boundUnfit (s : State) (crn : Bool) (bound : Nat) : Bool :=
  (List.range 64).any fun c =>
    let a := (s.cls c).act
    let b := guarBudget (if crn then a.ccyc else a.tcyc)
    a.kind = 2 && b != 0 && decide (b < bound)

/-- A write of PRM_SWAP (R445). -/
def State.prmSwap (s : State) (v : Word64) : State :=
  let old := bitsOf v 0 12
  let new := bitsOf v 12 12
  let crn := bitOf v 24
  let tiles : BitVec 8 := BitVec.ofNat 8 (bitsOf v 32 8)
  let write (s : State) : State :=
    { s with prm := { s.prm with swapOld := old, swapNew := new, swapCrn := crn, swapTiles := tiles } }
  let refuse (why : BitVec 2) : State := { s with prm := { s.prm with swapResult := 3, swapWhy := why } }
  if tiles = 0 then write s
  else if s.swapPending then refuse 1
  else
    let ts := tilesOf tiles.toNat
    if ts.any fun t => (s.routine t old crn).isNone || (s.routine t new crn).isNone then refuse 2
    else if ts.any fun t => match s.routine t new crn with
      | none => false
      | some r => s.boundUnfit crn r.bound then refuse 3
    else
      let s1 := (write s).mirror .config true (.config [.swap old new crn tiles (BitVec.ofNat 48 (s.frm.frame.toNat + 1))])
      { s1 with prm := { s1.prm with swapResult := 1, swapWhy := 0 },
                commits := s1.commits ++ [{ what := .swap old new crn tiles, frame := s.frm.frame.toNat + 1, reply := none }] }

/-- PRM_SWAP (R445, R447). -/
def execPrmSwap (m : Nat) (v : Word64) (s : State) : Host.Outcome State Fault Refusal :=
  .next (s.access m 0x4058 fun s => if !(prmMay m) then s.accFault m else s.prmSwap v)

/-! ### Freezes (R442) -/

/-- After a change of a freeze register: contexts are HELD or go on, offers are withdrawn or made, and channels that waited
for a core go on (R220, R329, R442). -/
def State.refreeze (s : State) : State := ((s.arrangeAll.reofferAll).routeAll).releaseFor fun w => w = .context || w = .cornice

/-- A write of GCTL_FREEZE by a master (R442). -/
def State.freezeW (s : State) (m : Nat) (v : Word64) : State :=
  if !(isConfigMaster m) then s.accFault m else (({ s with gctl := { s.gctl with freeze := v } } : State).refreeze).served

/-- A write of GCTL_FREEZE_CRN by a master: the FWC's alone (R442). -/
def State.freezeCrnW (s : State) (m : Nat) (v : Word32) : State :=
  if m ≠ midFwc then s.accFault m
  else (({ s with gctl := { s.gctl with freezeCrn := BitVec.ofNat 8 (bitsOf v 0 8) } } : State).refreeze).served

/-- GCTL_FREEZE (R442). -/
def execGctlFreeze (m : Nat) (v : Word64) (s : State) : Host.Outcome State Fault Refusal :=
  .next (s.access m 0x20 fun s => s.freezeW m v)

/-- GCTL_FREEZE_CRN (R442). -/
def execGctlFreezeCrn (m : Nat) (v : Word32) (s : State) : Host.Outcome State Fault Refusal :=
  .next (s.access m 0x28 fun s => s.freezeCrnW m v)

/-- JOURNAL_FLUSH (R431). -/
def execJournalFlush (s : State) : Host.Outcome State Fault Refusal := .next s.flushJournal

end Sys2Proof.Machine
end

