-- ==== Sys2Proof/Machine/RegRead.lean ====
section
/-! DEFINITION. What the register blocks of BAR0 read as: the value of every 32-bit word, laid out as the register tables
of each chapter say (R17, R20, R21, R47, R133, R134, R170, R221, R227, R339 to R341, R420, R447, R485). -/

namespace Sys2Proof.Machine
open Sys2Proof

/-- One 32-bit half of a 64-bit value. -/
def half (v : Nat) (hi : Bool) : Nat := if hi then v / 0x100000000 % 0x100000000 else v % 0x100000000

/-- The 32-bit word of a value at a byte offset from the value's own. -/
def wordOf (v off : Nat) : Nat := v / 2 ^ (8 * off) % 0x100000000

/-! ### GCTL, AQ, FRM -/

/-- GCTL_TOPO (R47). -/
def State.gctlTopo (s : State) : Nat :=
  s.gctl.hawkQ.toNat + s.gctl.cells.toNat * 16 + b2n (s.link0.up && !s.link0.lost) * 0x100000 + b2n (s.link1.up && !s.link1.lost) * 0x200000

/-- DRAINED_CRN (GCTL_FREEZE_CRN). -/
def State.crnDrained (s : State) : Nat := (List.range 8).foldl (fun n i => n + b2n (s.drained (64 + i)) * 2 ^ i) 0

/-- A word of GCTL (R47). -/
def State.gctlWord (s : State) (o : Nat) : Nat :=
  let g := s.gctl
  match o with
  | 0x00 => gctlId
  | 0x04 => s.gctlTopo
  | 0x08 => g.accCount.toNat + g.accMid.toNat * 0x10000
  | 0x10 | 0x14 => wordOf g.coreLock.toNat (o - 0x10)
  | 0x18 => g.crnLock.toNat + g.lastCore.toNat * 0x100 + g.lastCtx.toNat * 0x10000 + g.lastCause.toNat * 0x80000
  | 0x20 | 0x24 => wordOf g.freeze.toNat (o - 0x20)
  | 0x28 => g.freezeCrn.toNat + s.crnDrained * 0x100
  | 0x40 | 0x44 | 0x48 | 0x4C | 0x50 | 0x54 => features.getD ((o - 0x40) / 4) 0
  | _ => 0

/-- The code of an admin queue state (AQ_STAT.STATE). -/
def AqState.code (x : AqState) : Nat := match x with
  | .disabled => 0
  | .running => 1
  | .draining => 2
  | .error => 3

/-- A word of the AQ block. -/
def State.aqWord (s : State) (o : Nat) : Nat :=
  let a := s.aq
  match o with
  | 0x00 | 0x04 => wordOf a.cring.toNat o
  | 0x08 | 0x0C => wordOf a.rring.toNat (o - 8)
  | 0x10 => a.csize.toNat + a.rsize.toNat * 16
  | 0x18 => a.st.code + a.cmds.length * 4 + a.cfgErr.toNat * 0x100 + a.badProd.toNat * 0x10000 + a.badRcons.toNat * 0x1000000
  | 0x20 => a.cprod.toNat
  | 0x24 => a.ccons.toNat
  | 0x28 => a.rprod.toNat
  | 0x30 => a.rcons.toNat
  | _ => 0

/-- A word of the FRM block. -/
def State.frmWord (s : State) (o : Nat) : Nat :=
  let f := s.frm
  match o with
  | 0x00 | 0x04 => wordOf f.time.toNat o
  | 0x08 | 0x0C => wordOf f.frame.toNat (o - 8)
  | 0x10 | 0x14 => wordOf f.next.toNat (o - 0x10)
  | 0x18 => f.period.toNat
  | 0x1C => f.periodAct.toNat
  | 0x20 => f.src.toNat + b2n f.syncOut * 4 + f.syncWin.toNat * 0x100 + f.holdFr.toNat * 0x10000
  | 0x24 => f.adj.toNat
  | 0x2C => b2n f.locked + b2n f.holdover * 2 + b2n (decide (f.slew ≠ 0)) * 4 + b2n f.pairLock * 8 + f.flags.toNat * 16 + f.syncBad.toNat * 0x100
      + f.dippedN.toNat * 0x10000
  | 0x30 => f.syncErr.toNat
  | _ => 0

/-! ### PWR, CLK, PRM -/

/-- Switched domains at L1 or deeper (PWR_STAT.RESTING). -/
def State.resting (s : State) : Nat := min 0xFF ((List.range 134).filter fun d => decide (1 ≤ s.domLevel d)).length

/-- PWR_DOM of a domain. -/
def State.domWord (s : State) (d : Nat) : Nat :=
  let x := s.dom d
  s.domLevel d + s.domTarget d * 8 + x.maxrest.toNat * 64 + b2n (s.domPinned d) * 0x100 + b2n x.waking * 0x200
    + min 0xFFFF ((s.domTol d).getD 0xFFFF) * 0x10000

/-- A word of the PWR and CLK registers (R420). -/
def State.pwrWord (s : State) (o : Nat) : Nat :=
  let p := s.pwr
  if 0x100 ≤ o ∧ o < 0x100 + 4 * 134 then s.domWord ((o - 0x100) / 4) else
  match o with
  | 0x000 => b2n p.restEn + p.idle.toNat * 0x100
  | 0x004 => p.dieTol.toNat + b2n p.l4ok * 0x10000 + b2n s.hold * 0x20000 + s.resting * 0x40000
  | 0x008 => b2n p.vddWarn + b2n p.ioWarn * 2 + b2n p.pmicWarn * 4 + b2n p.vddaOut * 8 + p.vddMv.toNat * 0x10000
  | 0x00C => p.dips.toNat + p.pmic.toNat * 0x10000
  | 0x010 => p.wakeDom.toNat + p.wakeCause.toNat * 0x100
  | 0x014 => p.l4wake.toNat
  | 0x800 => p.clkRun.toNat
  | 0x804 => p.pllLock.toNat + p.pllFb.toNat * 0x100 + b2n p.refclkOk * 0x10000 + b2n p.xtalOk * 0x20000
  | _ => 0

/-- PRM_RETRY (R424). -/
def Prm.retryWord (p : Prm) : Nat := ((List.range 10).map fun i => (p.retry.get 0 (i + 3)) % 4 * 4 ^ (i + 3)).sum

/-- PRM_DRAINED (R444). -/
def State.trwDrained (s : State) : Nat := ((List.range 64).map fun n => b2n (s.drained n) * 2 ^ n).sum

/-- A context still runs the code that a swap replaces or has replaced (PRM_SWAP_STAT.OLD_RUNNING, R445). -/
def State.oldRunning (s : State) : Bool :=
  let p := s.prm
  let num := if p.swapResult = 2 then p.swapNew else p.swapOld
  (p.swapResult = 1 || p.swapResult = 2) && (tilesOf p.swapTiles.toNat).any fun t =>
    match s.routine t num p.swapCrn with
    | none => false
    | some r => (libCores t p.swapCrn).any fun core => (List.range (ctxCount core)).any fun k =>
        match (s.ctx core k).run with
        | none => false
        | some i => i.codeOff == r.off

/-- A word of the PRM block (R447). -/
def State.prmWord (s : State) (o : Nat) : Nat :=
  let p := s.prm
  match o with
  | 0x000 => p.step + p.st.toNat * 16 + b2n p.fallback * 64 + b2n p.jlost * 128 + p.failStep * 256 + b2n p.warm * 0x1000 + p.failCode.toNat * 0x10000
  | 0x004 => p.retryWord
  | 0x008 => p.starts.toNat
  | 0x00C => p.readyT.toNat
  | 0x010 => p.hawkOut.toNat + b2n p.adcOut * 16 + (if p.mod0Down then 3 else p.ucie0.toNat) * 32 + p.pllFb.toNat * 128
  | 0x018 => p.t1sOut.toNat
  | 0x020 | 0x024 => wordOf p.coreOut.toNat (o - 0x20)
  | 0x028 => p.crnOut.toNat
  | 0x030 | 0x034 | 0x038 | 0x03C => wordOf p.portOut.toNat (o - 0x30)
  | 0x048 | 0x04C => wordOf s.trwDrained (o - 0x48)
  | 0x058 | 0x05C => wordOf (p.swapOld + p.swapNew * 0x1000 + b2n p.swapCrn * 0x1000000 + p.swapTiles.toNat * 0x100000000) (o - 0x58)
  | 0x060 => p.swapResult.toNat + p.swapWhy.toNat * 4 + b2n s.oldRunning * 16
  | 0x064 => b2n p.slot + b2n p.trial * 2 + b2n p.nextSlot * 4 + b2n p.verified * 8
  | 0x068 => p.verA.toNat
  | 0x06C => p.verB.toNat
  | 0x070 => s.svnFloor
  | _ => 0

/-! ### SCR, DS, KMD -/

/-- A word of the SCR block. -/
def State.scrWord (s : State) (o : Nat) : Nat :=
  if o = 0x400 then s.gctl.wdLast.toNat
  else if 40 * 16 ≤ o then 0
  else
    let x := s.scr (o / 16)
    match o % 16 with
    | 0 => b2n x.freeze + x.wdog.toNat * 0x100
    | 4 => x.owner.toNat + b2n x.busy.isSome * 0x200 + b2n x.frozen * 0x400 + b2n (x.frozen && x.busy.isNone) * 0x800 + b2n x.hold * 0x1000
        + x.pend.length * 0x10000
    | 8 => x.revoked.toNat + x.bites.toNat * 0x10000
    | _ => 0

/-- Ledger entries of a tile that are not FREE. -/
def State.ledgerUsed (s : State) (t : Nat) : Nat := (s.ledger.filter fun e => e.1 / 4096 == t).length

/-- A word of the DS block (R485). -/
def State.dsWord (s : State) (o : Nat) : Nat :=
  let d := s.ds
  if 0x40 ≤ o ∧ o < 0x60 then
    let t := (o - 0x40) / 4
    s.ledgerUsed t + max (d.peak.get 0 t) (s.ledgerUsed t) * 0x10000
  else match o with
  | 0x000 => d.role.toNat + d.sub.toNat * 4 + d.lanes.toNat * 16 + b2n d.fenceIn * 64 + b2n d.fenceOut * 128 + b2n d.present * 256
      + b2n d.rolePin * 512 + min 3 d.miss * 1024
  | 0x004 => d.take.toNat
  | 0x008 => d.retry.toNat + d.viol.toNat * 0x10000 + d.down.toNat * 0x1000000
  | 0x00C => d.last.toNat
  | 0x010 => d.ackMax.toNat + d.timeouts.toNat * 0x10000
  | _ => 0

/-- A peer entry. -/
def Kmd.peer (k : Kmd) (j : Nat) : Peer := k.peers.get {} j

/-- A word of the KMD block (R485). -/
def State.kmdWord (s : State) (o : Nat) : Nat :=
  let k := s.kmd
  if 0x100 ≤ o ∧ o < 0x140 then
    match k.keys.find? fun e => e.1 == (o - 0x100) / 4 with
    | none => 0
    | some (_, x) => x.id.toNat + b2n x.rx * 0x10000 + b2n x.tx * 0x20000 + 0x40000
  else if 0x800 ≤ o ∧ o < 0x1000 then
    let p := k.peer ((o - 0x800) / 8)
    if o % 8 = 0 then p.node.toNat + p.mbx.toNat * 0x40000 + b2n p.auto * 0x4000000 + b2n p.v * 0x80000000
    else p.role.toNat + p.epoch.toNat * 0x100
  else match o with
  | 0x000 => b2n k.en + k.ports.toNat * 2 + k.window.toNat * 0x100
  | 0x004 => k.retx.toNat + k.retries.toNat * 0x10000
  | 0x008 | 0x00C => wordOf k.group.toNat (o - 8)
  | 0x010 => (k.node.getD 0).toNat + b2n k.node.isSome * 0x40000 + b2n s.kmdUp * 0x80000 + ((k.txKey.map (·.1)).getD 0) * 0x100000
      + b2n k.txKey.isSome * 0x1000000
  | 0x014 => k.tx.toNat + k.rx.toNat * 0x10000
  | 0x018 => k.auth.toNat + k.bounced.toNat * 0x10000 + k.bouncesRx.toNat * 0x1000000
  | 0x01C => k.retxN.toNat + k.timeouts.toNat * 0x10000 + k.dropped.toNat * 0x1000000
  | 0x020 => k.lastNode.toNat + k.lastMbx.toNat * 0x40000
  | 0x024 => k.lastRole.toNat + k.lastEpoch.toNat * 0x100
  | _ => 0

/-! ### QCFG, CH, FLT -/

/-- A word of QCFG[q] (R133). -/
def State.qcfgWord (s : State) (q o : Nat) : Nat :=
  let x := s.q q
  match o with
  | 0x00 | 0x04 => wordOf x.ring.toNat o
  | 0x08 | 0x0C => wordOf x.stat.toNat (o - 0x08)
  | 0x10 | 0x14 => wordOf x.hrec.toNat (o - 0x10)
  | 0x18 | 0x1C => wordOf x.pcnt.toNat (o - 0x18)
  | 0x20 => x.size.toNat + b2n x.phase * 16 + b2n x.config * 32 + b2n x.module * 64 + x.weight.toNat * 0x100 + x.burst.toNat * 0x10000
      + x.wcls.toNat * 0x400000
  | 0x24 => x.latTol.toNat + x.poll.toNat * 0x10000
  | 0x28 => x.init.toNat
  | 0x2C => b2n x.pause * 8
  | 0x30 => x.st.code + b2n x.fence.isSome * 8 + x.why.toNat * 16 + x.inflight * 0x100 + x.cfgErr.toNat * 0x20000 + x.dbBad.toNat * 0x1000000
  | 0x34 => x.head.toNat
  | 0x38 => if x.phase then 0 else x.prod.toNat
  | 0x3C => x.errIdx.toNat
  | _ => 0

/-- A word of CH[ch] (R170). -/
def State.chWord (s : State) (ch o : Nat) : Nat := ofLeBytes (((s.chan ch).lath.drop o).take 4)

/-- A word of a set of class registers: FLT_CFG to FLT_URD1 by index. -/
def Budgets.word (b : Budgets) (i : Nat) : Nat :=
  match i with
  | 0 => b.kind.toNat + b2n b.ovr * 4 + b.weight.toNat * 0x100
  | 1 => b.disp.toNat
  | 2 => b.tcyc.toNat
  | 3 => b.ccyc.toNat
  | 4 => b.sbeat.toNat
  | 5 => b.urd0.toNat
  | 6 => b.urd1.toNat
  | _ => 0

/-- Channels of a class that are parked now (FLT_STAT.PARKED). -/
def State.parkedOf (s : State) (c : Nat) : Nat := (s.chans.filter fun e => e.2.parked && e.2.wcls == c).length

/-- A remainder of a class in force (FLT_..._REM). -/
def State.remWord (s : State) (c : Nat) (b : BitVec 24) (key : Nat) : Nat :=
  remOf (ceiling (decide (s.kindOf c = 2)) b) (s.spentOf c key)

/-- A word of FLT[c] (R221). -/
def State.fltWord (s : State) (c o : Nat) : Nat :=
  let x := s.cls c
  if o < 0x1C then x.shadow.word (o / 4)
  else if 0x20 ≤ o ∧ o < 0x3C then x.act.word ((o - 0x20) / 4)
  else if 0x80 ≤ o then
    let b := match o % 16 with
      | 0 => x.act.disp
      | 4 => x.act.tcyc
      | 8 => x.act.ccyc
      | _ => x.act.sbeat
    s.remWord c b (tileKey ((o - 0x80) / 16) (o % 16 / 4))
  else match o with
  | 0x40 => s.parkedOf c + b2n x.exh * 0x2000 + b2n x.debt * 0x4000
  | 0x44 => x.overruns.toNat + x.parks.toNat * 0x10000
  | 0x48 => x.last.toNat
  | 0x50 => s.remWord c x.act.urd0 0
  | 0x54 => s.remWord c x.act.urd1 1
  | _ => 0

/-! ### IC -/

/-- IC_SCFG of a source; the block of a reserved number reads 0 (R322). -/
def State.scfgWord (s : State) (n : Nat) : Nat :=
  let x := s.src n
  (s.srcSense n).toNat + b2n x.en * 8 + x.prio.toNat * 16 + b2n x.tgt * 0x100 + b2n x.module * 0x200 + b2n x.fwc * 0x400 + x.crn.toNat * 0x800
    + s.srcVector n * 0x80000

/-- IC_SSTAT of a source. -/
def Src.statWord (x : Src) : Nat :=
  b2n x.line + b2n x.pend * 2 + b2n x.act * 4 + b2n x.offer * 8 + x.loc.toNat * 16 + x.ptr * 0x800

/-- IC_PEND of a target: 32 sources from a number on (R325). -/
def State.pendWord (s : State) (t n : Nat) : Nat := ((List.range 32).map fun b => b2n (decide (n + b < 0x7FF) && s.presentedTo (n + b) t) * 2 ^ b).sum

/-- IC_CPRI of a target; a host is never locked nor frozen, so its AVAIL follows the Hold (log 38). -/
def State.cpriWord (s : State) (t : Nat) : Nat :=
  let d := (s.target t).service.length * 0x100
  if t < 2 then b2n (!s.hold) * 0x20 + d
  else (if s.cpri t = 0 then 0x1F else s.cpri t - 1) + b2n (s.memberAvail (t - 2)) * 0x20 + d

/-- A word of the IC block (R339), IC_TAKE apart. -/
def State.icWord (s : State) (o : Nat) : Nat :=
  if o < 0x8000 then
    let n := o / 16
    if srcReserved n then 0 else
    match o % 16 with
    | 0 => s.scfgWord n
    | 4 => (s.src n).statWord
    | k => wordOf (s.src n).trw.toNat (k - 8)
  else if o < 0xA000 then (s.vmod ((o - 0x8000) / 4)).toNat
  else if o < 0xA000 + 75 * 0x100 then s.pendWord ((o - 0xA000) / 0x100) (o % 0x100 / 4 * 32)
  else if 0xF000 ≤ o ∧ o < 0xF000 + 75 * 16 then
    let t := (o - 0xF000) / 16
    match o % 16 with
    | 8 => s.cpriWord t
    | 12 => (s.target t).withdrawn.toNat + (s.target t).baddone.toNat * 0x10000
    | _ => 0
  else if o = 0xF808 then s.batches.length + b2n s.icWake * 0x2000
  else 0

/-! ### MBX, SEM, HWK -/

/-- MBX_SRES as a master, and for a core a context, reads it (R307). -/
def State.sresOf (s : State) (m ctx : Nat) : BitVec 2 :=
  match coreOfMid m with
  | some core => (s.ctx core ctx).sres
  | none => s.sendRes.get 0 m

/-- A word of MBX[mb], POP apart. -/
def State.mbxWord (s : State) (m ctx mb o : Nat) : Nat :=
  let x := s.mbx mb
  match o with
  | 0x00 => b2n x.en + x.depth.toNat * 2 + x.rxm.toNat * 0x80 + b2n x.any * 0x10000
  | 0x04 => x.msgs.length + b2n x.full * 0x80 + x.refused.toNat * 0x100
  | 0x10 => match x.msgs with
      | [] => 0
      | g :: _ => g.word
  | 0x14 => (s.sresOf m ctx).toNat
  | 0x18 => x.target.toNat + b2n x.armed * 0x8000
  | 0x1C => x.epoch.toNat + x.role.toNat * 0x10000
  | _ => 0

/-- A word of HWK, HWK_ALLOC apart. -/
def State.hwkWord (s : State) (o : Nat) : Nat :=
  let cfg (a : Nat) : Nat := s.rsv a + s.ceil a * 0x10000
  let used (a : Nat) : Nat := s.used a + (s.hawk.waits.filter fun w => w.acct == a).length * 0x10000
  if 0x100 ≤ o ∧ o < 0x100 + 64 * 8 then (if o % 8 = 0 then cfg ((o - 0x100) / 8) else used ((o - 0x100) / 8))
  else match o with
  | 0x08 => s.freeOrCredit + s.hawk.retired.toNat * 0x10000 + s.hawk.badFree.toNat * 0x1000000
  | 0x10 | 0x14 | 0x18 | 0x1C =>
      let q := (o - 0x10) / 4
      if s.sliceOn q then (8192 - s.cellsBusy (fun x => x == q) true)
        + (s.hawk.cells.filter fun e => e.1 / 8192 == q && isCredit e.2).length * 0x10000 else 0
  | 0x20 => cfg sysAcct
  | 0x24 => used sysAcct
  | _ => 0

/-! ### Field ports -/

/-- The PORT code whose block holds a BAR0 offset (R39, R340). -/
def portAt (off : Nat) : Option Nat :=
  allPorts.find? fun p => decide (portBase p ≤ off) && decide (off < portBase p + if portKind p = some .eth then 0x4000 else 0x1000)

/-- Offset of the port window and of the class budgets in a port's block (R340). -/
def winOff (p : Nat) : Nat := if portKind p = some .eth then 0x3800 else 0x800
def budOff (p : Nat) : Nat := if portKind p = some .eth then 0x3C00 else 0xC00

/-- A 16-bit word of a port's window (R344). -/
def State.winWord (s : State) (p i : Nat) : Nat :=
  let q := s.port p
  match portKind p with
  | some .gpio =>
    if i = 0 then q.levels.toNat
    else if i = 1 then q.outs.toNat
    else if 16 ≤ i ∧ i < 32 then q.duty.get 0 (i - 16)
    else if 32 ≤ i ∧ i < 64 then
      let l := (i - 32) / 2
      let v := (if s.lineMode p l = 3 then q.caps.get 0 l else q.quad.get 0 l).toNat
      if i % 2 = 0 then v % 0x10000 else v / 0x10000
    else 0
  | some .adc => if i < 16 then (q.samples.get 0 i).toNat else 0
  | _ => if i < 64 then ofLeBytes (((s.senseBlock p).drop (2 * i)).take 2) else 0

/-- The bus time of a class left in the frame (R227). -/
def State.busRemain (s : State) (p c : Nat) : Nat :=
  match s.busCeiling c p with
  | none => 0xFFFFF
  | some b => b - (s.port p).bspent.get 0 c

/-- A common register of a port. -/
def State.portCommon (s : State) (p o : Nat) : Nat :=
  let q := s.port p
  if 0x80 ≤ o ∧ o < 0x100 then (match q.quar[(o - 0x80) / 4]? with
    | none => 0
    | some n => n.toNat + 0x80000000)
  else match o with
  | 0x004 => s.portStat p
  | 0x008 => q.evt.toNat
  | 0x00C => q.evten.toNat
  | 0x010 => (s.vresp p).toNat
  | 0x014 => q.retryN.toNat + q.qlim.toNat * 0x100 + q.latTol.toNat * 0x10000
  | 0x018 => q.rxhold.toNat
  | 0x020 | 0x024 | 0x028 | 0x02C =>
      let j := (o - 0x20) / 2
      (q.vcnt.get 0 j).toNat + (q.vcnt.get 0 (j + 1)).toNat * 0x10000
  | 0x030 => q.vlastClass.toNat + q.vlastNode.toNat * 0x100
  | 0x034 => q.vframe.toNat
  | 0x038 => q.faults.toNat + q.rxdrop.toNat * 0x10000
  | _ => 0

/-- A word of a port's block (R340), ETH_TXTS_TAG apart. -/
def State.portWord (s : State) (p o : Nat) : Nat :=
  let q := s.port p
  if o < 0x100 then s.portCommon p o
  else if winOff p ≤ o ∧ o < winOff p + 0x400 then s.winWord p ((o - winOff p) / 2) + s.winWord p ((o - winOff p) / 2 + 1) * 0x10000
  else if budOff p ≤ o then
    let c := (o - budOff p) / 16
    match o % 16 with
    | 0 => (q.bshadow.get (BitVec.allOnes 20) c).toNat
    | 4 => (q.bact.get (BitVec.allOnes 20) c).toNat
    | 8 => s.busRemain p c
    | _ => 0
  else if portKind p = some .eth ∧ (o = 0x208 ∨ o = 0x20C) then wordOf q.txtsTime.toNat (o - 0x208)
  else (s.pshadow p o).toNat

/-! ### The whole of the register blocks -/

/-- The value of the 32-bit word at a BAR0 offset below 0x40_0000, as a master and a context read it; an unassigned or
reserved word reads 0 (R20, R21). -/
def State.regWord (s : State) (m ctx off : Nat) : Nat :=
  if off < 0x1000 then s.gctlWord off
  else if off < 0x2000 then s.aqWord (off - 0x1000)
  else if off < 0x3000 then s.frmWord (off - 0x2000)
  else if off < 0x4000 then s.pwrWord (off - 0x3000)
  else if off < 0x5000 then s.prmWord (off - 0x4000)
  else if off < 0x6000 then s.scrWord (off - 0x5000)
  else if off < 0x7000 then s.dsWord (off - 0x6000)
  else if off < 0x8000 then s.kmdWord (off - 0x7000)
  else if 0x20000 ≤ off ∧ off < 0x30000 then s.qcfgWord ((off - 0x20000) / 64) (off % 64)
  else if 0x40000 ≤ off ∧ off < 0x80000 then s.chWord ((off - 0x40000) / 64) (off % 64)
  else if 0x80000 ≤ off ∧ off < 0x84000 then s.fltWord ((off - 0x80000) / 256) (off % 256)
  else if 0x90000 ≤ off ∧ off < 0xA0000 then s.icWord (off - 0x90000)
  else if 0xA0000 ≤ off ∧ off < 0xA4000 then s.mbxWord m ctx ((off - 0xA0000) / 64) (off % 64)
  else if 0xA4000 ≤ off ∧ off < 0xA4800 then
    let x := s.sem ((off - 0xA4000) / 8)
    if off % 8 = 4 then x.value.toNat + x.bad.toNat * 0x10000 else x.value.toNat
  else if 0xB0000 ≤ off ∧ off < 0xC0000 then s.hwkWord (off - 0xB0000)
  else match portAt off with
    | some p => s.portWord p (off - portBase p)
    | none => 0

end Sys2Proof.Machine
end

