-- ==== Sys2Proof/Machine/Registers.lean ====
section
/-! DEFINITION. Accesses to the register blocks, the windows, BAR2 and the configuration spaces, and their rows (R17 to R21,
R36 to R46, R60 to R65, R72 to R74, R88, R507). -/

namespace Sys2Proof.Machine
open Sys2Proof

/-! ### Reads of the register blocks -/

/-- A 64-bit register begins at a BAR0 offset (R44, R45). -/
def isWide (off : Nat) : Bool :=
  [0x10, 0x20, 0x1000, 0x1008, 0x2000, 0x2008, 0x2010, 0x4020, 0x4048, 0x4058, 0x7008].contains off
    || (inRange off 0x20000 0x2FFFF && decide (off % 64 < 0x20) && off % 8 == 0)
    || (inRange off 0x40000 0x7FFFF && [0x08, 0x10, 0x18, 0x28].contains (off % 64))
    || (inRange off 0x90000 0x97FFF && off % 16 == 8)
    || (inRange off 0x160000 0x16FFFF && off % 0x4000 == 0x208)

/-- The start of the 64-bit register that an offset lies in. -/
def wideAt (off : Nat) : Nat := off / 8 * 8

/-- A class's overruns and parks are cleared by a read (FLT_OVR). -/
def FClass.clearCounts (x : FClass) : FClass := { x with overruns := 0, parks := 0 }

/-- What a read of a port's common register clears (PORT_VCNT, PORT_CNT). -/
def Port.clearOn (q : Port) (o : Nat) : Port :=
  if 0x20 ≤ o ∧ o < 0x30 then { q with vcnt := (q.vcnt.erase ((o - 0x20) / 2)).erase ((o - 0x20) / 2 + 1) }
  else if o = 0x38 then { q with faults := 0, rxdrop := 0 } else q

/-- The RCLR fields of the 32-bit register at an offset are cleared by its read (R17, R19). -/
def State.clearOn (s : State) (off : Nat) : State :=
  if off = 0x08 then { s with gctl := { s.gctl with accCount := 0 } }
  else if off = 0x1018 then { s with aq := { s.aq with badProd := 0, badRcons := 0 } }
  else if off = 0x202C then { s with frm := { s.frm with syncBad := 0, dippedN := 0 } }
  else if off = 0x300C then { s with pwr := { s.pwr with dips := 0, pmic := 0 } }
  else if 0x5000 ≤ off ∧ off < 0x5280 ∧ off % 16 = 8 then s.updScr ((off - 0x5000) / 16) fun x => { x with revoked := 0, bites := 0 }
  else if off = 0x6008 then { s with ds := { s.ds with retry := 0, viol := 0, down := 0 } }
  else if off = 0x6010 then { s with ds := { s.ds with ackMax := 0, timeouts := 0 } }
  else if 0x6040 ≤ off ∧ off < 0x6060 then { s with ds := { s.ds with peak := s.ds.peak.erase ((off - 0x6040) / 4) } }
  else if off = 0x7014 then { s with kmd := { s.kmd with tx := 0, rx := 0 } }
  else if off = 0x7018 then { s with kmd := { s.kmd with auth := 0, bounced := 0, bouncesRx := 0 } }
  else if off = 0x701C then { s with kmd := { s.kmd with retxN := 0, timeouts := 0, dropped := 0 } }
  else if 0x20000 ≤ off ∧ off < 0x30000 ∧ off % 64 = 0x30 then s.updQ ((off - 0x20000) / 64) fun x => { x with dbBad := 0 }
  else if 0x80000 ≤ off ∧ off < 0x84000 ∧ off % 256 = 0x44 then s.updCls ((off - 0x80000) / 256) FClass.clearCounts
  else if 0x9F000 ≤ off ∧ off < 0x9F000 + 75 * 16 ∧ off % 16 = 12 then
    s.updTarget ((off - 0x9F000) / 16) fun g => { g with withdrawn := 0, baddone := 0 }
  else if 0xA0000 ≤ off ∧ off < 0xA4000 ∧ off % 64 = 4 then s.updMbx ((off - 0xA0000) / 64) fun x => { x with refused := 0 }
  else if 0xA4000 ≤ off ∧ off < 0xA4800 ∧ off % 8 = 4 then s.updSem ((off - 0xA4000) / 8) fun x => { x with bad := 0 }
  else if off = 0xB0008 then { s with hawk := { s.hawk with badFree := 0 } }
  else match portAt off with
    | some p => if off - portBase p < 0x80 then s.updPort p fun q => q.clearOn (off - portBase p) else s
    | none => s

/-- A read of the 32-bit register at an offset, with its effects (R17, R301, R308, R311, R326, ETH_TXTS_TAG). -/
def State.readReg (s : State) (m ctx off : Nat) : State :=
  if off = hwkBase then s.hwkAlloc m ctx
  else if 0xA0000 ≤ off ∧ off < 0xA4000 ∧ off % 64 = 0xC then s.mbxPop m ctx ((off - 0xA0000) / 64)
  else if 0xA4000 ≤ off ∧ off < 0xA4800 ∧ off % 8 = 0 then s.semAcquire m ((off - 0xA4000) / 8)
  else if 0x9F000 ≤ off ∧ off < 0x9F000 + 75 * 16 ∧ off % 16 = 0 then s.icTakeRd m ((off - 0x9F000) / 16)
  else if 0x160000 ≤ off ∧ off < 0x170000 ∧ off % 0x4000 = 0x200 then s.txtsPop (0x60 + (off - 0x160000) / 0x4000)
  else (s.out (s.regWord m ctx off)).clearOn off

/-- The value that a key of a list of held halves stands for, and the list without it. -/
def takeHeld (l : List ((Nat × Nat) × Word32)) (k : Nat × Nat) : Option (Word32 × List ((Nat × Nat) × Word32)) :=
  (takeFirst (fun e => e.1 == k) l).map fun e => (e.1.2, e.2)

/-- A half is held under a key, in place of one held before. -/
def putHeld (l : List ((Nat × Nat) × Word32)) (k : Nat × Nat) (v : Word32) : List ((Nat × Nat) × Word32) :=
  (k, v) :: l.filter fun e => e.1 != k

/-- A 4 B read of a half of a 64-bit register (R45). -/
def State.readHalf (s : State) (m ctx off : Nat) : State :=
  if off % 8 = 0 then
    { s with upKept := putHeld s.upKept (m, off) (BitVec.ofNat 32 (s.regWord m ctx (off + 4))) }.out (s.regWord m ctx off)
  else match takeHeld s.upKept (m, wideAt off) with
    | some (v, l) => ({ s with upKept := l } : State).out v.toNat
    | none => s.out (s.regWord m ctx off)

/-- A 4 B read of a register. -/
def State.read4 (s : State) (m ctx off : Nat) : State := if isWide (wideAt off) then s.readHalf m ctx off else s.readReg m ctx off

/-- An 8 B read: a 64-bit register whole, or two 32-bit registers, the lower first. -/
def State.read8 (s : State) (m ctx off : Nat) : State :=
  if isWide off then s.out (s.regWord m ctx off + s.regWord m ctx (off + 4) * 0x100000000)
  else
    let s1 := s.readReg m ctx off
    let s2 := s1.readReg m ctx (off + 4)
    s2.out (s1.readOut.toNat % 0x100000000 + s2.readOut.toNat % 0x100000000 * 0x100000000)

/-- A size and an alignment that the register blocks accept (R41). -/
def regSizeOk (off size : Nat) : Bool := (size == 4 || size == 8) && aligned off size

/-- A read of the register blocks by a master with the right to it (R41). -/
def State.regRead (s : State) (m ctx off size : Nat) : State :=
  if !(regSizeOk off size) then (s.out 0).accFault m else if size = 4 then s.read4 m ctx off else s.read8 m ctx off

/-! ### Writes of 32-bit registers -/

/-- A write of AQ_CFG: only while the queue is DISABLED. -/
def State.aqCfgW (s : State) (v : Word32) : State :=
  if s.aq.st = .disabled then { s with aq := { s.aq with csize := BitVec.ofNat 3 (bitsOf v 0 3), rsize := BitVec.ofNat 3 (bitsOf v 4 3) } } else s

/-- A write of a 32-bit AQ register. -/
def State.aqW (s : State) (m o : Nat) (v : Word32) : State :=
  if !(s.aqMay m) then s.accFault m else
  match o with
  | 0x10 => s.aqCfgW v
  | 0x14 => s.aqCtl m (bitOf v 0) (bitOf v 1) (bitOf v 2)
  | 0x1C => s.aqProd m v
  | 0x2C => s.aqRcons m v
  | _ => s

/-- A write of a PWR or CLK register (R420). -/
def State.pwrW (s : State) (m o : Nat) (v : Word32) : State :=
  if o = 0x808 then (if bitOf v 8 then s.groupReset m (bitsOf v 0 8) else if m = midFwc then s else s.accFault m)
  else if !(isConfigMaster m) then s.accFault m
  else if o = 0x000 then
    ({ s with pwr := { s.pwr with restEn := bitOf v 0, idle := BitVec.ofNat 8 (bitsOf v 8 8) } } : State).retarget
  else if o = 0x014 then { s with pwr := { s.pwr with l4wake := BitVec.ofNat 16 (bitsOf v 0 16) } }
  else if 0x100 ≤ o ∧ o < 0x100 + 4 * 134 then
    (s.updDom ((o - 0x100) / 4) fun d => { d with maxrest := BitVec.ofNat 2 (bitsOf v 6 2) }).retarget
  else s

/-- A write of a 32-bit PRM register (R447). -/
def State.prmW (s : State) (m o : Nat) (v : Word32) : State :=
  if !(prmMay m) then s.accFault m
  else if o = 0x040 then s.prmCtl m (bitOf v 0) (bitOf v 1) (bitOf v 2) else s

/-- A write of a 32-bit KMD register (R485). -/
def State.kmdW (s : State) (m o : Nat) (v : Word32) : State :=
  let k := s.kmd
  if !(isConfigMaster m) then s.accFault m
  else if o = 0x000 then
    ({ s with kmd := { k with en := bitOf v 0, ports := BitVec.ofNat 4 (bitsOf v 1 4), window := BitVec.ofNat 8 (bitsOf v 8 8) } } : State).cfgMirror 0x7000 4 v.toNat
  else if o = 0x004 then
    ({ s with kmd := { k with retx := BitVec.ofNat 16 (bitsOf v 0 16), retries := BitVec.ofNat 2 (bitsOf v 16 2) } } : State).cfgMirror 0x7004 4 v.toNat
  else if 0x800 ≤ o ∧ o < 0x1000 then
    let j := (o - 0x800) / 8
    let p := k.peer j
    let p1 : Peer := if o % 8 = 0 then
        { p with node := BitVec.ofNat 18 (bitsOf v 0 18), mbx := BitVec.ofNat 8 (bitsOf v 18 8), auto := bitOf v 26, v := bitOf v 31 }
      else { p with role := BitVec.ofNat 8 (bitsOf v 0 8), epoch := BitVec.ofNat 16 (bitsOf v 8 16) }
    ({ s with kmd := { k with peers := k.peers.set j p1 } } : State).cfgMirror (0x7000 + o) 4 v.toNat
  else s

/-- A write of QCFG_CFG: outside DISABLED only WEIGHT and BURST are applied, and a change of another field is counted (R133). -/
def State.qcfgCfgW (s : State) (m q : Nat) (v : Word32) : State :=
  let x := s.q q
  let x1 : Queue := { x with size := BitVec.ofNat 4 (bitsOf v 0 4), phase := bitOf v 4, config := bitOf v 5, module := bitOf v 6,
                             weight := BitVec.ofNat 8 (bitsOf v 8 8), burst := BitVec.ofNat 6 (bitsOf v 16 6), wcls := BitVec.ofNat 6 (bitsOf v 22 6) }
  if x.st = .disabled then (s.setQ q x1).cfgMirror (qcfgOff q + 0x20) 4 v.toNat
  else
    let s1 := (s.setQ q { x with weight := x1.weight, burst := x1.burst }).cfgMirror (qcfgOff q + 0x20) 4 v.toNat
    if x1.size = x.size ∧ x1.phase = x.phase ∧ x1.config = x.config ∧ x1.module = x.module ∧ x1.wcls = x.wcls then s1 else s1.accFault m

/-- A write of a 32-bit QCFG register (R133). -/
def State.qcfgW (s : State) (m q o : Nat) (v : Word32) : State :=
  match o with
  | 0x20 => s.qcfgCfgW m q v
  | 0x24 => (s.updQ q fun x => { x with latTol := BitVec.ofNat 16 (bitsOf v 0 16), poll := BitVec.ofNat 8 (bitsOf v 16 8) }).cfgMirror (qcfgOff q + 0x24) 4 v.toNat
  | 0x28 => if (s.q q).st = .disabled then (s.updQ q fun x => { x with init := v }).cfgMirror (qcfgOff q + 0x28) 4 v.toNat else s.accFault m
  | 0x2C => s.qctlW m q (bitOf v 0) (bitOf v 1) (bitOf v 2) (bitOf v 3)
  | _ => s

/-- A write of a 32-bit CH register (R170). -/
def State.chW (s : State) (m ch o : Nat) (v : Word32) : State :=
  match o with
  | 0x30 =>
    if (s.chan ch).st = .idle then
      (s.goChan ch fun c => { c with irsz := if bitsOf v 0 4 ≤ 8 then BitVec.ofNat 4 (bitsOf v 0 4) else c.irsz, ien := bitOf v 4 }).cfgMirror (chOff ch + 0x30) 4 v.toNat
    else s.accFault m
  | 0x34 => s.chEvtPend m ch (BitVec.ofNat 16 (bitsOf v 0 16))
  | _ => s.accFault m

/-- A set of class registers with the word at an index written: FLT_CFG to FLT_URD1. -/
def Budgets.put (b : Budgets) (i : Nat) (v : Word32) : Budgets :=
  let n : BitVec 24 := BitVec.ofNat 24 (bitsOf v 0 24)
  match i with
  | 0 => { b with kind := BitVec.ofNat 2 (bitsOf v 0 2), ovr := bitOf v 2, weight := BitVec.ofNat 8 (bitsOf v 8 8) }
  | 1 => { b with disp := n }
  | 2 => { b with tcyc := n }
  | 3 => { b with ccyc := n }
  | 4 => { b with sbeat := n }
  | 5 => { b with urd0 := n }
  | 6 => { b with urd1 := n }
  | _ => b

/-- A write of a FLT register (R221). -/
def State.fltW (s : State) (m c o : Nat) (v : Word32) : State :=
  if 0x1C ≤ o then s
  else if !(isConfigMaster m) then s.accFault m
  else (s.updCls c fun x => { x with shadow := x.shadow.put (o / 4) v }).cfgMirror (0x80000 + c * 0x100 + o) 4 v.toNat

/-- A write of a 32-bit IC register (R339). -/
def State.icW (s : State) (m o : Nat) (v : Word32) : State :=
  if o < 0x8000 then (if o % 16 = 0 then s.icScfg m (o / 16) v else if isConfigMaster m then s else s.accFault m)
  else if o < 0xA000 then
    if isConfigMaster m then ({ s with vmods := s.vmods.set ((o - 0x8000) / 4) (v &&& 0xFFFFFF) } : State).cfgMirror (icBase + o) 4 v.toNat else s.accFault m
  else if 0xF000 ≤ o ∧ o < 0xF000 + 75 * 16 then
    (match o % 16 with
    | 0 => s.icTake m ((o - 0xF000) / 16) (BitVec.ofNat 11 (bitsOf v 0 11))
    | 4 => s.icDone m ((o - 0xF000) / 16) (BitVec.ofNat 11 (bitsOf v 0 11))
    | _ => s)
  else if o = 0xF800 then s.icSwset m (BitVec.ofNat 11 (bitsOf v 0 11))
  else if o = 0xF804 then s.icFlush m v
  else s

/-- A write of MBX_ARM: TARGET, and 1 sets ARMED (R309). -/
def State.mbxArm (s : State) (mb : Nat) (v : Word32) : State :=
  (s.updMbx mb fun x => { x with target := BitVec.ofNat 10 (bitsOf v 0 10), armed := x.armed || bitOf v 15 }).cfgMirror (mbxBase mb + 0x18) 4 v.toNat

/-- A write of a MBX register. -/
def State.mbxW (s : State) (m ctx mb o : Nat) (v : Word32) : State :=
  match o with
  | 0x00 => s.mbxCfg m mb v
  | 0x08 => s.mbxSend m ctx mb v
  | 0x18 => s.mbxArm mb v
  | _ => s

/-- A write of a HWK register. -/
def State.hwkW (s : State) (m o : Nat) (v : Word32) : State :=
  if o = 0x04 then s.hwkFree m v
  else if o = 0x20 then s.hwkCls m sysAcct v
  else if 0x100 ≤ o ∧ o < 0x100 + 64 * 8 ∧ o % 8 = 0 then s.hwkCls m ((o - 0x100) / 8) v
  else s

/-! ### Writes of port registers -/

/-- PORT_VRESP as written: a field of 6 to 15 keeps its value (R364). -/
def vrespPut (old v : Word32) : Word32 :=
  BitVec.ofNat 32 ((List.range 8).map fun k => (if bitsOf v (4 * k) 4 < 6 then bitsOf v (4 * k) 4 else bitsOf old (4 * k) 4) * 16 ^ k).sum

/-- A write of PORT_CTL (R360, R365, R367); `absent` and the readings are what the line shows. -/
def State.portCtl (s : State) (p : Nat) (v : Word32) (absent : Bool) (readings : List Word32) : State :=
  let s1 := if bitOf v 0 then s.clrFaultW p absent else s
  let s2 := if bitOf v 1 then s1.updPort p fun q => q.lift (BitVec.ofNat 24 (bitsOf v 8 24)) else s1
  let s3 := if bitOf v 2 then s2.updPort p fun (q : Port) => { q with quar := [], qcnt := [] } else s2
  if bitOf v 3 then s3.lineDiag p readings else s3

/-- A write of a common register (R341): a register write brings no news from the line, so the causes present stay, and the
line monitor reads what it read last. -/
def State.commonW (s : State) (p o : Nat) (v : Word32) : State :=
  match o with
  | 0x000 => s.portCtl p v (s.port p).causes.isEmpty (s.port p).lineMon
  | 0x008 => (s.updPort p fun q => { q with evt := q.evt &&& ~~~(BitVec.ofNat 8 (bitsOf v 0 8)) }).portLine p
  | 0x00C => (s.updPort p fun q => { q with evten := BitVec.ofNat 8 (bitsOf v 0 8) }).portLine p
  | 0x010 => s.updPort p fun q => { q with vresp := some (vrespPut (s.vresp p) v) }
  | 0x014 => (s.updPort p fun q => { q with retryN := BitVec.ofNat 3 (bitsOf v 0 3), qlim := BitVec.ofNat 8 (bitsOf v 8 8),
                                            latTol := BitVec.ofNat 16 (bitsOf v 16 16) }).retarget
  | 0x018 => s.updPort p fun q => { q with rxhold := BitVec.ofNat 16 (bitsOf v 0 16) }
  | _ => s

/-- A write of a word of the port window: the new state, none where the window does not allow it (R344). -/
def State.winW (s : State) (p i : Nat) (w : Word) : Option State :=
  if portKind p ≠ some .gpio then none else
  let lines (f : BitVec 16 → BitVec 16) : BitVec 16 :=
    let o := (s.port p).outs
    let n := f o
    BitVec.ofNat 16 ((List.range 16).map fun l => b2n (bitOf (if s.lineMode p l = 1 then n else o) l) * 2 ^ l).sum
  match i with
  | 1 => some (s.updPort p fun q => { q with outs := lines fun _ => w })
  | 2 => some (s.updPort p fun q => { q with outs := lines fun o => o ||| w })
  | 3 => some (s.updPort p fun q => { q with outs := lines fun o => o &&& ~~~w })
  | _ => if 16 ≤ i ∧ i < 32 then some (s.updPort p fun q => { q with dutyNext := q.dutyNext.set (i - 16) (min w.toNat 1000) }) else none

/-- A write of a 32-bit word of a port's block (R340, R341, R344). -/
def State.portW (s : State) (m p o : Nat) (v : Word32) : State :=
  if winOff p ≤ o ∧ o < winOff p + 0x400 then
    let i := (o - winOff p) / 2
    let s1 := (s.winW p i (BitVec.ofNat 16 (bitsOf v 0 16))).getD s
    (s1.winW p (i + 1) (BitVec.ofNat 16 (bitsOf v 16 16))).getD s1
  else if 0x80 ≤ o ∧ o < 0x100 then s
  else if !(isConfigMaster m) then s.accFault m
  else if o < 0x80 then (s.commonW p o v).cfgMirror (portBase p + o) 4 v.toNat
  else if budOff p ≤ o then
    if o % 16 = 0 then
      (s.updPort p fun q => { q with bshadow := q.bshadow.set ((o - budOff p) / 16) (BitVec.ofNat 20 (bitsOf v 0 20)) }).cfgMirror (portBase p + o) 4 v.toNat
    else s
  else match portKind p with
    | none => s
    | some k => if cfgMask k o = 0 then s else (s.updPort p fun q => { q with shadow := q.shadow.set o (v &&& cfgMask k o) }).cfgMirror (portBase p + o) 4 v.toNat

/-! ### Writes of the register blocks -/

/-- A write of the 32-bit register at an offset (R17, R20, R21). -/
def State.writeReg (s : State) (m ctx off : Nat) (v : Word32) : State :=
  if off < 0x1000 then (if off = 0x28 then s.freezeCrnW m v else s)
  else if off < 0x2000 then s.aqW m (off - 0x1000) v
  else if off < 0x3000 then s.frmW m (off - 0x2000) v
  else if off < 0x4000 then s.pwrW m (off - 0x3000) v
  else if off < 0x5000 then s.prmW m (off - 0x4000) v
  else if off < 0x5280 then (if off % 16 = 0 then s.scrCtl m ((off - 0x5000) / 16) v else s)
  else if off < 0x7000 then s
  else if off < 0x8000 then s.kmdW m (off - 0x7000) v
  else if 0x10000 ≤ off ∧ off < 0x12000 then
    (if off % 8 = 0 then s.dbCountW m ((off - 0x10000) / 8) v else s.dbFetchW m ((off - 0x10000) / 8) v)
  else if 0x20000 ≤ off ∧ off < 0x30000 then s.qcfgW m ((off - 0x20000) / 64) (off % 64) v
  else if 0x40000 ≤ off ∧ off < 0x80000 then s.chW m ((off - 0x40000) / 64) (off % 64) v
  else if 0x80000 ≤ off ∧ off < 0x84000 then s.fltW m ((off - 0x80000) / 256) (off % 256) v
  else if 0x90000 ≤ off ∧ off < 0xA0000 then s.icW m (off - 0x90000) v
  else if 0xA0000 ≤ off ∧ off < 0xA4000 then s.mbxW m ctx ((off - 0xA0000) / 64) (off % 64) v
  else if 0xA4000 ≤ off ∧ off < 0xA4800 then
    (if off % 8 = 0 then s.semRelease m ((off - 0xA4000) / 8) v else if bitOf v 31 then s.semForce m ((off - 0xA4000) / 8) else s)
  else if 0xB0000 ≤ off ∧ off < 0xC0000 then s.hwkW m (off - 0xB0000) v
  else match portAt off with
    | some p => s.portW m p (off - portBase p) v
    | none => s

/-- A write of QCFG_RING, STAT, HREC or PCNT: only while the queue is DISABLED (R133). -/
def State.qcfgWide (s : State) (m q o : Nat) (v : Word64) : State :=
  if (s.q q).st ≠ .disabled then s.accFault m
  else
    (s.updQ q fun x => match o with
      | 0x00 => { x with ring := v }
      | 0x08 => { x with stat := v }
      | 0x10 => { x with hrec := v }
      | _ => { x with pcnt := v }).cfgMirror (qcfgOff q + o) 8 v.toNat

/-- A write of a whole 64-bit register (R44). CH_IREC keeps all 64 bits as written: the spec calls the field aligned to 256 B and does not
say what a write with bits [7:0] not 0 does, so this is the model's choice (log 103). -/
def State.writeWide (s : State) (m off : Nat) (v : Word64) : State :=
  if off = 0x20 then s.freezeW m v
  else if off = 0x1000 ∨ off = 0x1008 then
    if !(s.aqMay m) then s.accFault m
    else if s.aq.st ≠ .disabled then s
    else { s with aq := if off = 0x1000 then { s.aq with cring := v } else { s.aq with rring := v } }
  else if 0x2000 ≤ off ∧ off < 0x3000 then (if isConfigMaster m then s else s.accFault m)
  else if 0x4000 ≤ off ∧ off < 0x5000 then (if !(prmMay m) then s.accFault m else if off = 0x4058 then s.prmSwap v else s)
  else if off = 0x7008 then
    if isConfigMaster m then ({ s with kmd := { s.kmd with group := BitVec.ofNat 48 v.toNat } } : State).cfgMirror off 8 v.toNat else s.accFault m
  else if 0x20000 ≤ off ∧ off < 0x30000 then s.qcfgWide m ((off - 0x20000) / 64) (off % 64) v
  else if 0x40000 ≤ off ∧ off < 0x80000 then
    let ch := (off - 0x40000) / 64
    if off % 64 = 0x28 ∧ (s.chan ch).st = .idle then (s.goChan ch fun c => { c with irec := v }).cfgMirror off 8 v.toNat else s.accFault m
  else if 0x90000 ≤ off ∧ off < 0x98000 then s.icStrw m ((off - 0x90000) / 16) v
  else if 0x160000 ≤ off then (if isConfigMaster m then s else s.accFault m)
  else s

/-- A master may write the 64-bit register at an offset; a half that it may not write is discarded and counted with no hold
(R57, R170, R228). -/
def State.wideMay (s : State) (m off : Nat) : Bool :=
  if off < 0x1000 then off == 0x10 || isConfigMaster m
  else if off < 0x2000 then s.aqMay m
  else if 0x4000 ≤ off ∧ off < 0x5000 then prmMay m
  else if 0x20000 ≤ off ∧ off < 0x30000 then true
  else if 0x40000 ≤ off ∧ off < 0x80000 then off % 64 == 0x28
  else isConfigMaster m

/-- A 4 B write of a half of a 64-bit register (R44): the lower half is held, the upper half writes both. -/
def State.writeHalf (s : State) (m off : Nat) (v : Word32) : State :=
  if !(s.wideMay m (wideAt off)) then s.accFault m
  else if off % 8 = 0 then { s with lowHeld := putHeld s.lowHeld (m, off) v }
  else
    let base := wideAt off
    let (low, s1) : Nat × State := match takeHeld s.lowHeld (m, base) with
      | some (w, l) => (w.toNat, { s with lowHeld := l })
      | none => (s.regWord m 0 base, s)
    s1.writeWide m base (BitVec.ofNat 64 (low + v.toNat * 0x100000000))

/-- A 4 B write of a register. -/
def State.write4 (s : State) (m ctx off : Nat) (v : Word32) : State :=
  if isWide (wideAt off) then s.writeHalf m off v else s.writeReg m ctx off v

/-- An 8 B write: a 64-bit register at once, or two 32-bit registers, the lower first (R44, R134); of SEM_LOCK it releases nothing
(R313). -/
def State.write8 (s : State) (m ctx off : Nat) (v : Word64) : State :=
  if isWide off then s.writeWide m off v
  else if 0xA4000 ≤ off ∧ off < 0xA4800 then
    (s.semBad m ((off - 0xA4000) / 8)).writeReg m ctx (off + 4) (BitVec.ofNat 32 (v.toNat / 0x100000000))
  else (s.writeReg m ctx off (BitVec.ofNat 32 v.toNat)).writeReg m ctx (off + 4) (BitVec.ofNat 32 (v.toNat / 0x100000000))

/-- A write of the register blocks by a master with the right to it (R41). -/
def State.regWrite (s : State) (m ctx off size : Nat) (v : Word64) : State :=
  if !(regSizeOk off size) then s.accFault m
  else if size = 4 then s.write4 m ctx off (BitVec.ofNat 32 v.toNat) else s.write8 m ctx off v

/-! ### Windows (R39, R42, R43, R507) -/

/-- The core whose window an offset lies in, and the offset in its stride. -/
def windowCore (off : Nat) : Option (Nat × Nat) :=
  if 0x400000 ≤ off ∧ off < 0x800000 then some ((off - 0x400000) / 0x10000, (off - 0x400000) % 0x10000)
  else if 0x800000 ≤ off ∧ off < 0x900000 then some (64 + (off - 0x800000) / 0x20000, (off - 0x800000) % 0x20000) else none

/-- An access to the windows has a size and a place that R42 accepts; `most` is the longest. -/
def winSizeOk (off n most : Nat) : Bool :=
  aligned off 4 && n % 4 == 0 && decide (4 ≤ n) && decide (n ≤ most)
    && match windowCore off with
      | some (core, o) => decide (localSize core ≤ o) || decide (o + n ≤ localSize core)
      | none => !(inRange off 0xC00000 0xDFFFFF) || decide (off + n ≤ 0xE00000)

/-- The cells of the Hawk window that n bytes from an offset touch. -/
def cellsOf (off n : Nat) : List Nat :=
  (List.range (n / 64 + 2)).filterMap fun i => let k := (off - 0xC00000) / 64 + i
    if k * 64 + 0xC00000 < off + n ∧ k < 32768 then some k else none

/-- An access touches a retired cell (R507). -/
def State.hitsRetired (s : State) (off n : Nat) : Bool := (cellsOf off n).any fun k => s.sliceOn (k / 8192) && s.retiredCell k

/-- An access touches a bank whose arbiter gives no grant: it waits (R292, R320). -/
def State.bankStopped (s : State) (off n : Nat) : Bool := (cellsOf off n).any fun k => (s.scr (k / 8192 * 4 + k % 4)).frozen

/-- A slice in service holds the offset (R34). -/
def State.inHawk (s : State) (off : Nat) : Bool := inRange off 0xC00000 0xDFFFFF && s.sliceOn ((off - 0xC00000) / 0x80000)

/-- The longest read of a host: its Max_Read_Request_Size (R42, R66). -/
def State.maxRead (s : State) (m : Nat) : Nat := if isHost m then min 512 (128 * 2 ^ (s.link m).cfg.mrrs.toNat) else 512

/-- The rights of a master in the windows (R36): the Hawk window is open to all; a core window to Cornice cores and to those
that reach all; what is unassigned refuses nobody. -/
def windowMay (m off : Nat) : Bool :=
  if 0x400000 ≤ off ∧ off < 0x800000 then isHost m || m == 0x010 || m == 0x1FF || (decide (0x020 ≤ m) && decide (m ≤ 0x027))
  else if 0x800000 ≤ off ∧ off < 0x900000 then isHost m || m == 0x010 || m == 0x1FF || m == 0x020 + (off - 0x800000) / 0x20000
  else true

/-- The masters whose accesses to a retired cell are counted: the hosts and debug (R507). -/
def countsRetired (m : Nat) : Bool := isHost m || m == 0x1FF

/-- A read that returns a run of bytes: all of them, and the first 8 as a number. -/
def State.outBytes (s : State) (l : List Byte) : State := { s.out (ofLeBytes (l.take 8)) with readData := l }

/-- The bytes that a window read finds: 0 where nothing is assigned and in a slice out of service (R21, R34). -/
def State.windowBytes (s : State) (off n : Nat) : List Byte :=
  match windowCore off with
  | some (core, o) => if o < localSize core then s.bytesAt off n else List.replicate n 0
  | none => (List.range n).map fun i => if s.inHawk (off + i) then s.byteAt (off + i) else 0

/-- A read through the windows by a master (R42, R507). -/
def State.winRead (s : State) (m off n : Nat) : State :=
  if !(winSizeOk off n (s.maxRead m)) then (s.out 0).accFault m
  else if s.bankStopped off n then s
  else if s.hitsRetired off n then
    let s1 := s.outBytes (List.replicate n 0)
    if countsRetired m then s1.accFault m else s1
  else s.outBytes (s.windowBytes off n)

/-- Bytes stored through the Hawk window: those of slices in service (R34). -/
def State.storeHawk (s : State) (off : Nat) : List Byte → State
  | [] => s
  | b :: l => (if s.inHawk off then s.store off [b] else s).storeHawk (off + 1) l

/-- A write through the windows by a master (R42, R507): of a host or debug to a core's window only while the core is frozen
and drained (R43). -/
def State.winWrite (s : State) (m off : Nat) (l : List Byte) : State :=
  if !(winSizeOk off l.length 256) then s.accFault m
  else match windowCore off with
    | some (core, o) =>
      if localSize core ≤ o then s
      else if !(countsRetired m) || s.drained core then s.store off l else s.accFault m
    | none =>
      if s.bankStopped off l.length then s
      else if s.hitsRetired off l.length then (if countsRetired m then s.accFault m else s) else s.storeHawk off l

/-! ### BAR0 as a whole -/

/-- A master has the right to an offset of BAR0 (R36). -/
def mayReach (m off : Nat) : Bool := if 0x400000 ≤ off then windowMay m off else rightsOk m off

/-- A read of BAR0 by a master (R36, R37, R41, R42). -/
def State.bar0Read (s : State) (m ctx off size : Nat) : State :=
  if !(mayReach m off) then (s.out 0).accFault m
  else if 0x400000 ≤ off then s.winRead m off size else s.regRead m ctx off size

/-- A write of bytes to a window by a master (R36, R37, R42, R43). -/
def State.windowPut (s : State) (m off : Nat) (l : List Byte) : State := if windowMay m off then s.winWrite m off l else s.accFault m

/-- A write of BAR0 by a master (R36, R37, R41 to R43). -/
def State.bar0Write (s : State) (m ctx off size : Nat) (v : Word64) : State :=
  if 0x400000 ≤ off then s.windowPut m off (leBytes size v.toNat)
  else if !(rightsOk m off) then s.accFault m else s.regWrite m ctx off size v

/-! ### BAR2 (R40, R65) -/

/-- A word of BAR2. -/
def LinkCfg.bar2Word (c : LinkCfg) (off : Nat) : Nat :=
  if off < 0x8000 then
    let e := c.ent (off / 16)
    match off % 16 with
    | 0 | 4 => wordOf e.addr.toNat (off % 16)
    | 8 => e.data.toNat
    | _ => b2n e.mask
  else if off < 0x8100 then ((List.range 32).map fun i => b2n (c.pba.contains ((off - 0x8000) * 8 + i)) * 2 ^ i).sum
  else 0

/-- A 4 B read of BAR2: of a vector's control word, after every message sampled before (R74). -/
def State.bar2Read4 (s : State) (md off : Nat) : State :=
  if off < 0x8000 ∧ off % 16 = 12 then s.ctlRead md (off / 16) else s.out ((s.link md).cfg.bar2Word off)

/-- A 4 B write of BAR2. -/
def State.bar2Write4 (s : State) (md off : Nat) (v : Word32) : State :=
  if 0x8000 ≤ off then s else
  let n := off / 16
  let e := (s.link md).cfg.ent n
  match off % 16 with
  | 0 => s.updCfg md fun c => { c with msix := c.msix.set n { e with addr := BitVec.ofNat 64 (v.toNat + half e.addr.toNat true * 0x100000000) } }
  | 4 => s.updCfg md fun c => { c with msix := c.msix.set n { e with addr := BitVec.ofNat 64 (half e.addr.toNat false + v.toNat * 0x100000000) } }
  | 8 => s.updCfg md fun c => { c with msix := c.msix.set n { e with data := v } }
  | _ => s.setMask md n (bitOf v 0)

/-- A read of BAR2 (R41). -/
def State.bar2Read (s : State) (m md off size : Nat) : State :=
  if !(regSizeOk off size) then (s.out 0).accFault m
  else if size = 4 then s.bar2Read4 md off
  else if off < 0x8000 ∧ off % 16 = 8 ∧ !((splitVec (off / 16) (s.link md).queue).1.isEmpty || (s.link md).usable) then s
  else
    let s1 := s.bar2Read4 md off
    let s2 := s1.bar2Read4 md (off + 4)
    s2.out (s1.readOut.toNat + s2.readOut.toNat * 0x100000000)

/-- A write of BAR2 (R41). -/
def State.bar2Write (s : State) (m md off size : Nat) (v : Word64) : State :=
  if !(regSizeOk off size) then s.accFault m
  else if size = 4 then s.bar2Write4 md off (BitVec.ofNat 32 v.toNat)
  else (s.bar2Write4 md off (BitVec.ofNat 32 v.toNat)).bar2Write4 md (off + 4) (BitVec.ofNat 32 (v.toNat / 0x100000000))

/-! ### Configuration space (R60 to R65, R81, R82; the standard layouts of PCI Express, log 4) -/

/-- NLNK_CFG of a module. -/
def State.nlnkCfgWord (s : State) (md : Nat) : Nat :=
  let c := (s.link md).cfg
  let o := s.link (otherMd md)
  let carry := if s.mode = 2 then b2n s.carry == md else if s.mode = 1 then true else md == 0
  s.mode.toNat + md * 4 + b2n carry * 8 + b2n (o.up && !o.lost && decide (o.lstate.toNat ≤ 1)) * 16 + b2n (s.heldSet md) * 32
    + c.linkIdle.toNat * 0x100 + c.llAction.toNat * 0x10000

/-- A word of the configuration space of a module's function, in the PCIe family's layout (log 4). The Subsystem IDs that SET_ATTACH writes
show at once: R60 defers only the mode to the next start, so this is the model's choice (log 109). -/
def State.cfgWord (s : State) (md off : Nat) : Nat :=
  let l := s.link md
  let c := l.cfg
  match off with
  | 0x000 => 0x4096A1AF
  | 0x004 => b2n c.memEn * 2 + b2n c.busEn * 4 + b2n c.serr * 0x100 + 0x100000
  | 0x008 => 0x088000A1
  | 0x010 | 0x014 => wordOf (c.bar0.toNat + 4) (off - 0x10)
  | 0x018 | 0x01C => wordOf (c.bar2.toNat + 4) (off - 0x18)
  | 0x02C => s.prm.subVendor.toNat + s.prm.subId.toNat * 0x10000
  | 0x034 => 0x40
  | 0x040 => 0x5001
  | 0x044 => (if c.d3 then 3 else 0) + 8 + b2n c.pmeEn * 0x100 + b2n c.pmeStatus * 0x8000
  | 0x050 => 0x07FF7011 + b2n c.funcMask * 0x40000000 + b2n c.msixEn * 0x80000000
  | 0x054 => 0x2
  | 0x058 => 0x8002
  | 0x070 => 0x00020010
  | 0x074 => 0x8001
  | 0x078 => c.errEn.toNat + b2n c.roEn * 16 + c.mps.toNat * 32 + c.mrrs.toNat * 0x1000 + c.devStat.toNat * 0x10000
      + b2n (!l.reads.isEmpty) * 0x200000
  | 0x094 => 0x30003
  | 0x098 => c.cto.toNat + b2n c.tag10 * 0x1000
  | 0x100 => 0x14810001
  | 0x104 => c.aerUnc.toNat
  | 0x108 => c.aerMask.toNat
  | 0x10C => c.aerSev.toNat
  | 0x110 => c.aerCor.toNat
  | 0x114 => c.aerCorMask.toNat
  | 0x118 => c.aerFirst.toNat
  | 0x11C | 0x120 | 0x124 | 0x128 => wordOf c.aerHdr.toNat (off - 0x11C)
  | 0x148 => 0x15810003
  | 0x14C | 0x150 => wordOf Config.serial.toNat (off - 0x14C)
  | 0x158 => 0x1A010023
  | 0x15C => 0x03C21E98
  | 0x160 => 0x00020000
  | 0x164 => 0x2
  | 0x1A0 => 0x20010023
  | 0x1A4 => 0x0200D2DE
  | 0x1AC => 0x30
  | 0x1B4 => (if l.x8 then 1 else 2) * 0x80 + l.rate.toNat * 0x800 + b2n (l.up && !l.lost) * 0x8000
  | 0x200 => 0x00010023
  | 0x204 => 0x01C0A1AF
  | 0x208 => 0x1
  | 0x20C => s.nlnkCfgWord md
  | 0x210 => c.grace.toNat
  | 0x214 => l.crcRetry.toNat + l.retrain.toNat * 0x10000 + l.down.toNat * 0x1000000 + l.lstate.toNat * 0x10000000 + b2n l.x8 * 0x40000000
  | _ => 0

/-- A read of the configuration space: of 1, 2 or 4 B within one word (R17, R19). A read of NLNK_STAT of whatever size clears its
three counters, also those whose bytes it does not return: the spec gives no rule for a read of part of a word, so this is the
model's choice (log 91). -/
def State.cfgRead (s : State) (md off size : Nat) : State :=
  let w := wordOf (s.cfgWord md (off / 4 * 4)) (off % 4) % 2 ^ (8 * size)
  let s1 := if off / 4 * 4 = 0x214 then s.updLink md fun l => { l with crcRetry := 0, retrain := 0, down := 0 } else s
  s1.out w

/-- A write of Command: Memory Space Enable and Bus Master Enable (R63). -/
def State.cmdW (s : State) (md : Nat) (v : Nat) : State :=
  let was := (s.link md).cfg.busEn
  let s1 := s.updCfg md fun c => { c with memEn := v.testBit 1, busEn := v.testBit 2, serr := v.testBit 8 }
  if v.testBit 2 && !was then s1.linkGo md else s1

/-- A write of the PM status: power state, PME_En, and PME_Status cleared by 1 (R64, R81). -/
def State.pmW (s : State) (md v w1c : Nat) : State :=
  let s1 := (s.updCfg md fun c => { c with pmeEn := v.testBit 8, pmeStatus := c.pmeStatus && !w1c.testBit 15 }).wakeEval
  let d3 := if v % 4 = 3 then true else if v % 4 = 0 then false else (s.link md).cfg.d3
  if d3 = (s.link md).cfg.d3 then s1.wakeCheck md else s1.setD3 md d3

/-- The error bits of AER that this function has: uncorrectable, data link 4, poisoned 12, flow control 13, completion timeout 14,
completer abort 15, unexpected completion 16, receiver overflow 17, malformed 18, Unsupported Request 20; correctable, receiver 0,
bad packets 6 and 7, replay 8 and 12, advisory 13 (log 4). -/
def aerUncBits : Word32 := 0x0017F010
def aerCorBits : Word32 := 0x000031C1

/-- A write of a word of the configuration space: v the word with its new bytes, w1c the new bytes alone. -/
def State.cfgWrite4 (s : State) (md off v w1c : Nat) : State :=
  match off with
  | 0x004 => s.cmdW md v
  | 0x010 => s.updCfg md fun c => { c with bar0 := BitVec.ofNat 64 (v / 0x1000000 * 0x1000000 + half c.bar0.toNat true * 0x100000000) }
  | 0x014 => s.updCfg md fun c => { c with bar0 := BitVec.ofNat 64 (half c.bar0.toNat false + v * 0x100000000) }
  | 0x018 => s.updCfg md fun c => { c with bar2 := BitVec.ofNat 64 (v / 0x10000 * 0x10000 + half c.bar2.toNat true * 0x100000000) }
  | 0x01C => s.updCfg md fun c => { c with bar2 := BitVec.ofNat 64 (half c.bar2.toNat false + v * 0x100000000) }
  | 0x044 => s.pmW md v w1c
  | 0x050 => s.setMsix md (v.testBit 31) (v.testBit 30)
  | 0x078 => s.updCfg md fun c => { c with errEn := BitVec.ofNat 4 v, devStat := c.devStat &&& ~~~(BitVec.ofNat 4 (w1c / 0x10000)), roEn := v.testBit 4, mps := BitVec.ofNat 3 (v / 32), mrrs := BitVec.ofNat 3 (v / 0x1000) }
  | 0x098 => s.updCfg md fun c => { c with cto := BitVec.ofNat 4 v, tag10 := v.testBit 12 }
  | 0x104 => s.updCfg md fun c => { c with aerUnc := c.aerUnc &&& ~~~(BitVec.ofNat 32 w1c) }
  | 0x108 => s.updCfg md fun c => { c with aerMask := BitVec.ofNat 32 v &&& aerUncBits }
  | 0x10C => s.updCfg md fun c => { c with aerSev := BitVec.ofNat 32 v &&& aerUncBits }
  | 0x110 => s.updCfg md fun c => { c with aerCor := c.aerCor &&& ~~~(BitVec.ofNat 32 w1c) }
  | 0x114 => s.updCfg md fun c => { c with aerCorMask := BitVec.ofNat 32 v &&& aerCorBits }
  | 0x20C => s.updCfg md fun c => { c with linkIdle := BitVec.ofNat 8 (v / 0x100),
                                           llAction := if v / 0x10000 % 4 = 3 then c.llAction else BitVec.ofNat 2 (v / 0x10000) }
  | 0x210 => s.updCfg md fun c => { c with grace := BitVec.ofNat 16 v }
  | 0x218 => s.nlnkCtl md (BitVec.ofNat 32 w1c)
  | _ => s

/-- A write of 1, 2 or 4 B of the configuration space within one word. -/
def State.cfgWrite (s : State) (md off size : Nat) (v : Word64) : State :=
  let a := off / 4 * 4
  let w1c := v.toNat % 2 ^ (8 * size) * 2 ^ (8 * (off % 4))
  let keep := s.cfgWord md a &&& (0xFFFFFFFF - (2 ^ (8 * size) - 1) * 2 ^ (8 * (off % 4)))
  s.cfgWrite4 md a (keep + w1c) w1c

/-! ### Rows -/

/-- A sequencer's access for a channel of its tile: one that the table of rights refuses is counted, and the channel ends in ERROR
(R36, R37). -/
def State.seqrAccess (s : State) (ch m off : Nat) (k : State → State) : State :=
  if s.admits m off then
    (if mayReach m off || !((s.chan ch).running) then k s else (s.accFault m).failAt ch stAccessRefused 0)
  else s

/-- A register read in a space by a master. -/
def State.spaceRead (s : State) (sp : Space) (m off size : Nat) : State :=
  match sp with
  | .bar0 => s.accessR m off fun s => s.bar0Read m 0 off size
  | .bar2 md =>
    if s.noBar md (decide (off < 0x10000)) then (s.unsupported md true).out 0
    else s.accessR md 0x8000 fun s => s.bar2Read m md off size
  | .cfg md => if s.linkServed then s.cfgRead md off size else s.out 0
  | .seqr ch => s.seqrAccess ch m off fun s => s.bar0Read m 0 off size

/-- A register write in a space by a master. -/
def State.spaceWrite (s : State) (sp : Space) (m off size : Nat) (v : Word64) : State :=
  match sp with
  | .bar0 => s.access m off fun s => s.bar0Write m 0 off size v
  | .bar2 md =>
    if s.noBar md (decide (off < 0x10000)) then s.unsupported md false
    else s.access md 0x8000 fun s => s.bar2Write m md off size v
  | .cfg md => if s.linkServed then s.cfgWrite md off size v else s
  | .seqr ch => s.seqrAccess ch m off fun s => s.bar0Write m 0 off size v

/-- REGISTER_WRITE (R17). -/
def execRegisterWrite (sp : Space) (m off size : Nat) (v : Word64) (s : State) : Host.Outcome State Fault Refusal :=
  .next (s.spaceWrite sp m off size v)

/-- LOWER_HALF_READ (R45). -/
def execLowerHalfRead (m off : Nat) (s : State) : Host.Outcome State Fault Refusal :=
  .next (if off < 0x400000 ∧ isWide off then s.accessR m off fun s => s.bar0Read m 0 off 4 else s)

/-- RCLR_READ (R19). -/
def execRclrRead (sp : Space) (m off size : Nat) (s : State) : Host.Outcome State Fault Refusal := .next (s.spaceRead sp m off size)

/-- WINDOW_WRITE (R42, R43). -/
def execWindowWrite (m off : Nat) (bytes : List Byte) (s : State) : Host.Outcome State Fault Refusal :=
  .next (if inRange off 0x400000 0xFFFFFF then s.access m off fun s => s.windowPut m off bytes else s)

end Sys2Proof.Machine
end

