-- ==== Sys2Proof/Machine/Operands.lean ====
section
/-! DEFINITION. Accesses of an instruction: segments, rights, sealed words, register halves, the distances of R273, and every
operand form (R229 to R243, R267 to R270, R273, R281, R344, R507). -/

namespace Sys2Proof.Machine
open Sys2Proof

/-! ### An instruction under way -/

/-- An exception: its vector, and INFO and FADDR of the TSB (R276, R280); `openAddr` where the spec states no FADDR. -/
structure Exc where
  vec : Nat
  info : Nat := 0
  faddr : Nat := 0
  openAddr : Bool := false
deriving DecidableEq, Repr

/-- Vector numbers (R276). -/
def vSegment : Nat := 0
def vBusError : Nat := 1
def vIllegal : Nat := 2
def vSlot : Nat := 3
def vPrivilege : Nat := 4
def vDivide : Nat := 5
def vReturn : Nat := 6
def vMemory : Nat := 7

/-- What an instruction does after its operands (R249, R250, R253, R256, R257). -/
inductive Flow where
  | seq
  | skip
  | jump (target : Word)
  | goto (pc : Word)
  | wait (w : WaitFor)
  | stay
deriving DecidableEq, Repr

/-- An instruction under way: the state with its accesses so far, the context, the present cycle and the one in which it issued,
whether it stalls, what it does next, and its issue cycles. `block` says that it must wait for the open mark of its RUN (R468). -/
structure Ev where
  s : State
  core : Nat
  k : Nat
  now : Nat
  since : Nat
  stall : Bool := false
  flow : Flow := .seq
  cyc : Nat := 1
  block : Bool := false
deriving DecidableEq, Repr

/-- The context of the instruction as it stands. -/
def Ev.ctx (e : Ev) : Ctx := e.s.ctx e.core e.k

/-- The context changed. -/
def Ev.upd (e : Ev) (f : Ctx → Ctx) : Ev := { e with s := e.s.updCtx e.core e.k f }

/-- The privilege level of the context. -/
def Ev.pl (e : Ev) : Nat := e.ctx.pl.toNat

/-! ### Registers as an access sees them (R273) -/

/-- An old value that an access at this cycle still sees, and how. -/
def Ctx.staleAt (c : Ctx) (now : Nat) (key : StaleKey) (fetch : Bool) : Option Stale :=
  c.stale.find? fun x => x.key = key && decide (now < if fetch then x.fetchUntil else x.opUntil)

/-- Segment register n, 8 for CSEG. -/
def Ctx.segReg (c : Ctx) (n : Nat) : Seg := if n = 8 then c.cseg else c.segs.get {} n

/-- The context with segment register n, 8 for CSEG, replaced. -/
def Ctx.setSeg (c : Ctx) (n : Nat) (x : Seg) : Ctx := if n = 8 then { c with cseg := x } else { c with segs := c.segs.set n x }

/-- A segment register as an access sees it. -/
def Ctx.segSeen (c : Ctx) (now n : Nat) : Seg :=
  match c.staleAt now (.seg n) false with
  | some x => x.oldSeg
  | none => c.segReg n

/-- A word register as an access or an entry sees it, given its value. -/
def Ctx.wordSeen (c : Ctx) (now : Nat) (key : StaleKey) (v : Word) : Word :=
  match c.staleAt now key false with
  | some x => x.oldWord
  | none => v

/-- A value is about to be written over: it is still seen for a number of cycles after the instruction completes. The cycles
stand relative to the completion until it is known. -/
def Ctx.cover (c : Ctx) (now : Nat) (key : StaleKey) (w : Word) (sg : Seg) (op fetch : Nat) : Ctx :=
  { c with stale := c.stale ++ [{ key, issued := now, oldWord := w, oldSeg := sg, opUntil := op, fetchUntil := fetch }] }

/-- The cycles of the values that an instruction wrote over, moved on by n: those written since the cycle in which it issued. -/
def Ctx.shiftStale (c : Ctx) (since n : Nat) : Ctx :=
  { c with stale := c.stale.map fun x => if since ≤ x.issued then { x with opUntil := x.opUntil + n, fetchUntil := x.fetchUntil + n } else x }

/-- The completion cycle of an instruction is known: what it has just written over counts from there, and so do the earlier words of a
block instruction that issued in cycle `since` (R273). -/
def Ctx.settleStale (c : Ctx) (since now done : Nat) : Ctx :=
  { c with stale := c.stale.map fun x =>
      if x.issued = now then { x with opUntil := x.opUntil + done, fetchUntil := x.fetchUntil + done }
      else if since ≤ x.issued then { x with opUntil := done + 3, fetchUntil := done + 4 } else x }

/-! ### Places (R35, R36, R267, R268) -/

/-- The words of a Trowel's and a Cornice's library area (R267). -/
def inLib (core w : Nat) : Bool := if core < 64 then decide (w < 0x3000) else decide (0x4000 ≤ w) && decide (w < 0x7000)

/-- A context of level pl may reach a word of its own core's local memory (R267, R268). -/
def localOk (core k pl w : Nat) (write fetch : Bool) : Bool :=
  if pl < 2 then !(decide (64 ≤ core) && decide (w < 0x4000) && write)
  else (inLib core w && !write) || (decide (privWord core k ≤ w) && decide (w < privWord core k + 0x100) && !fetch)

/-- The place of a device-internal address for a context of a core, none where its rights end (R35, R36, R268, R507); an
address inside a region that it may reach and at which nothing stands reads 0 (R21, R34). -/
def State.addrPlace (s : State) (core k pl addr : Nat) (write fetch : Bool) : Option Place :=
  let own (o : Nat) : Option Place := if localOk core k pl (o / 2) write fetch then some (.mem (localBase core + o)) else none
  if 0x08000000 ≤ addr ∧ addr < 0x08000000 + localSize core then own (addr - 0x08000000)
  else if addr < 0x400000 then (if rightsOk (midOfCore core) addr then some (.reg addr) else none)
  else if addr < 0x800000 then
    let o := addr % 0x10000
    if core < 64 then none
    else if 0x8000 ≤ o then some .nothing
    else if pl < 2 || (decide (o / 2 < 0x3000) && !write) then some (.mem addr) else none
  else if addr < 0x900000 then
    if core < 64 ∨ (addr - 0x800000) / 0x20000 ≠ core - 64 then none
    else if 0x10000 ≤ (addr - 0x800000) % 0x20000 then some .nothing
    else own ((addr - 0x800000) % 0x20000)
  else if 0xC00000 ≤ addr ∧ addr < 0xE00000 then
    if !(s.inHawk addr) then some .nothing
    else if s.retiredCell ((addr - 0xC00000) / 64) then none else some (.mem addr)
  else none

/-- The core whose local memory holds an address of the memory, and the word there. -/
def localWordOf (addr : Nat) : Option (Nat × Nat) := (windowCore addr).map fun x => (x.1, x.2 / 2)

/-- The word of local memory at a word offset. -/
def State.localWord (s : State) (core w : Nat) : Word := s.wordAt (localBase core + 2 * w)

/-- Word i of the TSB at a word offset is sealed (R281). -/
def State.sealedWord (s : State) (core tsb i : Nat) : Bool :=
  let segf := s.localWord core (tsb + 18)
  i == 3 || i == 18 || (bitOf segf 9 && decide (25 ≤ i) && decide (i ≤ 27)) || (bitOf segf 10 && decide (22 ≤ i) && decide (i ≤ 24))
    || (bitOf segf 11 && decide (31 ≤ i) && decide (i ≤ 33))

/-- An address is a sealed word of a TSB that a context holds (R281). -/
def State.sealed (s : State) (addr : Nat) : Bool :=
  match localWordOf addr with
  | none => false
  | some (core, w) => (List.range (ctxCount core)).any fun j =>
      let c := s.ctx core j
      (List.range c.depth).any fun d =>
        let tsb := (c.tsbr.toNat + 0x10000 - 48 * (d + 1)) % 0x10000
        decide (tsb ≤ w) && decide (w < tsb + 48) && s.sealedWord core tsb (w - tsb)

/-- Whether a port-window word may be written (R344). -/
def State.winAllowed (s : State) (p w : Nat) : Bool := (s.winW p w 0).isSome

/-- INFO of a SEGMENT, BUS_ERROR or MEMORY: access 0 fetch, 1 A, 2 B, 3 D, and the register (R280). -/
def accInfo (acc n : Nat) : Nat := acc + 4 * n

/-- The word at a payload offset of a chained segment, whose BASE is the chain's head: the walk goes on from the position that the
context keeps, or from the head for an earlier cell (R270). -/
def State.chainWord (s : State) (pos : Option (Nat × Nat)) (sg : Seg) (off : Nat) : Except (ChainErr × Nat) Place :=
  let head := (sg.base.toNat - hawkBase) / 64
  let (k, start) : Nat × Nat := match pos with
    | some p => if p.2 ≤ off then p else (head, 0)
    | none => (head, 0)
  match s.chainFrom k start off maxCells with
  | .error x => .error x
  | .ok (c, b, crossed) => .ok (if s.sliceOn (c / 8192) then .chain (cellAddr c + (off - b)) c b crossed else .nothing)

/-- The place of word w through segment register n, with the checks of R233, R234, R236, R270, R281 and R344. -/
def Ev.place (e : Ev) (acc n : Nat) (w : Word) (port write : Bool) : Except Exc Place :=
  let sg := e.ctx.segSeen e.now n
  let info := accInfo acc n
  if !sg.v || decide (sg.limit.toNat < w.toNat) || sg.p != port then .error { vec := vSegment, info, faddr := w.toNat }
  else if sg.chained then
    match e.s.chainWord e.ctx.chainPos sg (2 * w.toNat) with
    | .error (.ended, _) => .error { vec := vSegment, info, faddr := w.toNat }
    | .error (.retired, c) => .error { vec := vBusError, info, faddr := cellAddr c }
    | .ok p => .ok p
  else
    let addr := (sg.base.toNat + 2 * w.toNat) % 0x100000000
    let refused : Except Exc Place := .error { vec := vBusError, info, faddr := addr }
    if port then
      match portAt sg.base.toNat with
      | none => refused
      | some p => if write && !(e.s.winAllowed p w.toNat) then refused else .ok (.port p w.toNat)
    else if sg.lathPort then
      if (e.s.chan ((sg.base.toNat - 0x40000) / 0x40)).retired then refused
      else if write && !([26, 30, 31].contains w.toNat) then refused else .ok (.lath ((sg.base.toNat - 0x40000) / 0x40) w.toNat)
    else
      match e.s.addrPlace e.core e.k e.pl addr write (acc = 0) with
      | none =>
        if write && decide (0 < e.pl) && (match e.s.addrPlace e.core e.k 0 addr write false with
            | some (.mem a) => e.s.sealed a
            | _ => false) then .error { vec := vPrivilege } else refused
      | some (.mem a) => if write && decide (0 < e.pl) && e.s.sealed a then .error { vec := vPrivilege } else .ok (.mem a)
      | some pl => .ok pl

/-! ### Reads and writes of places (R237, R243, R273) -/

/-- The core's own local memory: no stall (R243). -/
def isOwn (core addr : Nat) : Bool := decide (localBase core ≤ addr) && decide (addr < localBase core + localSize core)

/-- A Scrim beat that a context makes for its routine, charged as it is made (R216). -/
def State.ctxBeat (s : State) (core k : Nat) : State :=
  match (s.ctx core k).run with
  | none => s
  | some r => if (s.ctx core k).inInt then s else s.beat r.cls r.tile 1

/-- A Scrim beat of the routine. -/
def Ev.beat (e : Ev) : Ev := { e with s := e.s.ctxBeat e.core e.k }

/-- An access of the context wakes the domain that it reaches (R398, R405). -/
def Ev.wake (e : Ev) (off : Nat) : Ev := { e with s := e.s.wakeFor off }

/-- An access of a chain: its position is kept, and each cell crossed costs one Hawk read more (R270). -/
def Ev.onChain (e : Ev) (cell start crossed : Nat) : Ev :=
  let e1 := e.upd fun c => { c with chainPos := some (cell, start) }
  ({ e1 with s := e1.s.each (List.range crossed) fun s _ => s.ctxBeat e.core e.k } : Ev).beat

/-- A held low half of a register-block write is sent alone, with a high half of 0 (R237): a beat of its own (R216). -/
def State.sendHalf (s : State) (core k : Nat) : State :=
  match (s.ctx core k).heldW with
  | none => s
  | some (a, w) => ((s.updCtx core k fun c => { c with heldW := none }).regWrite (midOfCore core) k a 4 (BitVec.ofNat 64 w.toNat)).ctxBeat core k

/-- A 4 B read of a register block by a core (R237): the value stands beside the state, whose last read result is kept. -/
def State.coreRegRead (s : State) (core k a : Nat) : Nat × State :=
  let s1 := s.regRead (midOfCore core) k a 4
  (s1.readOut.toNat % 0x100000000, { s1 with readOut := s.readOut })

/-- The aligned 4 B are read afresh; the high half is kept after a read of the even word (R237). -/
def Ev.freshWord (e : Ev) (a : Nat) (odd : Bool) : Word × Ev :=
  let (v, s1) := (e.s.sendHalf e.core e.k).coreRegRead e.core e.k a
  let hi := BitVec.ofNat 16 (v / 0x10000)
  let s2 := s1.updCtx e.core e.k fun c => { c with keptR := if odd then none else some (a, hi) }
  (if odd then hi else BitVec.ofNat 16 v, ({ e with s := s2, stall := true } : Ev).beat)

/-- A word read of a register block (R237). -/
def Ev.regWord (e : Ev) (off : Nat) : Word × Ev :=
  let a := off / 4 * 4
  let odd := off % 4 == 2
  match e.ctx.keptR with
  | some (b, w) => if odd && b == a then (w, e.upd fun c => { c with keptR := none }) else e.freshWord a odd
  | none => e.freshWord a odd

/-- A word write of a register block (R237). -/
def Ev.putReg (e : Ev) (off : Nat) (w : Word) : Ev :=
  let a := off / 4 * 4
  let e1 := e.upd fun c => { c with keptR := none }
  if off % 4 = 0 then { e1 with s := (e1.s.sendHalf e.core e.k).updCtx e.core e.k fun c => { c with heldW := some (a, w) } }
  else
    let (low, s1) : Nat × State := match e1.ctx.heldW with
      | some (b, l) => if b = a then (l.toNat, e1.s.updCtx e.core e.k fun c => { c with heldW := none }) else (0, e1.s.sendHalf e.core e.k)
      | none => (0, e1.s)
    ({ e1 with s := s1.regWrite (midOfCore e.core) e.k a 4 (BitVec.ofNat 64 (low + w.toNat * 0x10000)) } : Ev).beat

/-- A word of memory as the instruction sees it: its own writes at once, those of an earlier one at their distance (R273). -/
def Ev.memWord (e : Ev) (fetch : Bool) (a : Nat) : Word :=
  let own : Bool := e.ctx.stale.any fun x => x.key = .word a && decide (e.since ≤ x.issued)
  match e.ctx.staleAt e.now (.word a) fetch with
  | some x => if own then e.s.wordAt a else x.oldWord
  | none => e.s.wordAt a

/-- The word at a place, as the instruction sees it. -/
def Ev.load (e : Ev) (fetch : Bool) (p : Place) : Word × Ev :=
  match p with
  | .mem a => (e.memWord fetch a, if isOwn e.core a then e else (({ e with stall := true } : Ev).wake a).beat)
  | .chain a cell start crossed => (e.memWord fetch a, (({ e with stall := true } : Ev).wake a).onChain cell start crossed)
  | .reg off => (e.wake off).regWord off
  | .lath ch w => (BitVec.ofNat 16 (ofLeBytes (((e.s.chan ch).lath.drop (2 * w)).take 2)), ({ e with stall := true } : Ev).beat)
  | .port p w => (BitVec.ofNat 16 (e.s.winWord p w), (({ e with stall := true } : Ev).wake (portBase p)).beat)
  | .nothing => (0, { e with stall := true })

/-- The RUN of a context opens its effect, at its first port-window write (R468). -/
def State.openRun (s : State) (core k : Nat) : State :=
  match (s.ctx core k).run with
  | none => s
  | some r =>
    let x := (s.chan r.ch).xfer
    if x.slot.isSome || x.mslot.isSome then s
    else match s.replayed r.ch with
      | some y => ((s.beginSkip r.ch y).replaceCond r.ch y.2.1.toNat).exitRun core k ((s.chan r.ch).cond.toNat / 256) 0
      | none => if (s.canOpen r.ch).isSome then s else s.openEffect r.ch x.first x.rs

/-- The effect of a context's RUN counts as complete in a replay: the routine goes no further (R471). -/
def State.runSkips (s : State) (core k : Nat) : Bool :=
  match (s.ctx core k).run with
  | none => false
  | some r => (s.chan r.ch).xfer.slot.isNone && (s.chan r.ch).xfer.mslot.isNone && (s.replayed r.ch).isSome

/-- The RUN's effect is open and its open mark acknowledged (R468). -/
def State.runOpen (s : State) (core k : Nat) : Bool :=
  match (s.ctx core k).run with
  | none => true
  | some r =>
    let x := (s.chan r.ch).xfer
    (x.slot.isSome || x.mslot.isSome) && x.gate.isNone

/-- A word of the Lath entry written through S4 (R170, R236). -/
def State.putLath (s : State) (ch w : Nat) (v : Word) : State :=
  if w = 26 then s.setEvents ch v
  else if w = 30 then s.goChan ch fun c => { c with user := BitVec.ofNat 32 (c.user.toNat / 0x10000 * 0x10000 + v.toNat) }
  else s.goChan ch fun c => { c with user := BitVec.ofNat 32 (c.user.toNat % 0x10000 + v.toNat * 0x10000) }

/-- A word of memory written; its old value is kept for the distances (R273). -/
def Ev.putMem (e : Ev) (a : Nat) (v : Word) : Ev :=
  let e1 := e.upd fun c => c.cover e.now (.word a) (e.s.wordAt a) {} 3 4
  { e1 with s := e1.s.storeWord a v }

/-- A word written to a place. -/
def Ev.put (e : Ev) (p : Place) (v : Word) : Ev :=
  match p with
  | .mem a => if isOwn e.core a then e.putMem a v else ((e.wake a).putMem a v).beat
  | .chain a cell start crossed => ((e.wake a).putMem a v).onChain cell start crossed
  | .reg off => (e.wake off).putReg off v
  | .lath ch w => ({ e with s := e.s.putLath ch w v } : Ev).beat
  | .port p w =>
    let s1 := if e.s.runSkips e.core e.k then e.s else e.s.openRun e.core e.k
    if s1.runOpen e.core e.k then (({ e with s := (s1.winW p w v).getD s1, stall := true } : Ev).wake (portBase p)).beat else { e with block := true }
  | .nothing => e

/-! ### Specifiers (R238 to R242) -/

/-- MODE, SEG and FIELD of a specifier (R238). -/
def spMode (x : Word) : Nat := bitsOf x 13 3
def spSeg (x : Word) : Nat := bitsOf x 10 3
def spField (x : Word) : Nat := bitsOf x 0 10
/-- The slot of a specifier: FIELD[4:0]. -/
def spSlot (x : Word) : Nat := bitsOf x 0 5

/-- The value of an immediate: 13 bits sign-extended (R240). -/
def immValue (x : Word) : Word := (BitVec.ofNat 13 (bitsOf x 0 13)).signExtend 16

/-- A specifier has the form that its mode asks for (R240). -/
def spForm (x : Word) : Bool :=
  match spMode x with
  | 0 => spSeg x == 0 && bitsOf x 5 5 == 0
  | 2 | 3 | 4 => bitsOf x 5 5 == 0
  | _ => true

/-- A single-word source. -/
def spSource (x : Word) : Bool := spForm x
/-- A single-word destination: no immediate. -/
def spDest (x : Word) : Bool := spForm x && spMode x != 6
/-- A group, or the count of a block move: modes 0, 1, 2 and 5 (R241, R254). -/
def spGroup (x : Word) : Bool := spForm x && [0, 1, 2, 5].contains (spMode x)
/-- A pointer of a block move: mode 3 (R254). -/
def spPtr (x : Word) : Bool := spForm x && spMode x == 3

/-- The S0 offset of workspace slot k (R231). -/
def Ev.slotOff (e : Ev) (k : Nat) : Word := e.ctx.wordSeen e.now .wp e.ctx.wp + BitVec.ofNat 16 k

/-- The word at word offset w of segment n, read. -/
def Ev.read (e : Ev) (acc n : Nat) (w : Word) (port : Bool) : Except Exc (Word × Ev) := do
  let p ← e.place acc n w port false
  return e.load false p

/-- A pointer slot is updated (R242). -/
def Ev.putSlot (e : Ev) (acc k : Nat) (v : Word) : Except Exc Ev := do
  let p ← e.place acc 0 (e.slotOff k) false true
  return e.put p v

/-- Where the words of an operand begin: segment, offset, whether it is port-window mode, and the pointer update that follows
the access. A pre-decrement is made here (R240, R242). -/
structure Loc where
  seg : Nat
  off : Word
  port : Bool := false
  post : Option (Nat × Word) := none
deriving DecidableEq, Repr

/-- The place of an operand, its pointer read (R240). -/
def Ev.loc (e : Ev) (acc : Nat) (x : Word) : Except Exc (Loc × Ev) :=
  match spMode x with
  | 0 => .ok ({ seg := 0, off := e.slotOff (spSlot x) }, e)
  | 1 => .ok ({ seg := spSeg x, off := BitVec.ofNat 16 (spField x) }, e)
  | 7 => .ok ({ seg := spSeg x, off := BitVec.ofNat 16 (spField x), port := true }, e)
  | m => do
    let (p, e1) ← e.read acc 0 (e.slotOff (spSlot x)) false
    if m = 3 then return ({ seg := spSeg x, off := p, post := some (spSlot x, p + 1) }, e1)
    else if m = 4 then
      let e2 ← e1.putSlot acc (spSlot x) (p - 1)
      return ({ seg := spSeg x, off := p - 1 }, e2)
    else if m = 5 then return ({ seg := spSeg x, off := p + BitVec.ofNat 16 (bitsOf x 5 5) }, e1)
    else return ({ seg := spSeg x, off := p }, e1)

/-- The pointer update after an access (R240). -/
def Ev.after (e : Ev) (acc : Nat) (l : Loc) : Except Exc Ev :=
  match l.post with
  | none => .ok e
  | some (k, v) => e.putSlot acc k v

/-- The n words of a group from a location, read. -/
def Ev.readWords (e : Ev) (acc : Nat) (l : Loc) : Nat → Except Exc (List Word × Ev)
  | 0 => .ok ([], e)
  | n + 1 => do
    let (w, e1) ← e.read acc l.seg l.off l.port
    let (r, e2) ← e1.readWords acc { l with off := l.off + 1 } n
    return (w :: r, e2)

/-- The words of a source group of n words (R240 to R242). -/
def Ev.sources (e : Ev) (acc : Nat) (x : Word) (n : Nat) : Except Exc (List Word × Ev) :=
  if spMode x = 6 then .ok ([immValue x], e) else do
  let (l, e1) ← e.loc acc x
  let (ws, e2) ← e1.readWords acc l n
  let e3 ← e2.after acc l
  return (ws, e3)

/-- A source word (R240). -/
def Ev.source (e : Ev) (acc : Nat) (x : Word) : Except Exc (Word × Ev) := do
  let (ws, e1) ← e.sources acc x 1
  return (ws.headD 0, e1)

/-- The places of n words from a location, checked for a write (R241). -/
def Ev.places (e : Ev) (acc : Nat) (l : Loc) : Nat → Except Exc (List Place)
  | 0 => .ok []
  | n + 1 => do
    let p ← e.place acc l.seg l.off l.port true
    let r ← e.places acc { l with off := l.off + 1 } n
    return p :: r

/-- The places of a destination group of n words: checked, and its pointer updated, before any result is written (R242). -/
def Ev.dest (e : Ev) (x : Word) (n : Nat) : Except Exc (List Place × Ev) := do
  let (l, e1) ← e.loc 3 x
  let ps ← e1.places 3 l n
  let e2 ← e1.after 3 l
  return (ps, e2)

/-- The words of a result written to their places (R242). -/
def Ev.puts (e : Ev) : List Place → List Word → Ev
  | p :: ps, w :: ws => (e.put p w).puts ps ws
  | _, _ => e

end Sys2Proof.Machine
end

