-- ==== Sys2Proof/Machine/Traps.lean ====
section
/-! DEFINITION. Exception and interrupt entry, the task-state block, RETX and chaining (R276 to R288, R330, R331). -/

namespace Sys2Proof.Machine
open Sys2Proof

/-! ### STATUS and the TSB (R245, R280) -/

/-- STATUS as a word. -/
def Ctx.statusWord (c : Ctx) : Word :=
  BitVec.ofNat 16 (b2n c.c + b2n c.z * 2 + b2n c.n * 4 + b2n c.v * 8 + b2n c.rsm * 16 + c.pl.toNat * 32 + b2n c.evl * 128)

/-- STATUS restored from a saved word (R282). -/
def Ctx.setStatus (c : Ctx) (w : Word) : Ctx :=
  { c with c := bitOf w 0, z := bitOf w 1, n := bitOf w 2, v := bitOf w 3, rsm := bitOf w 4, pl := BitVec.ofNat 2 (bitsOf w 5 2), evl := bitOf w 7 }

/-- The three words of a segment register (R235). -/
def Seg.words (x : Seg) : List Word := [BitVec.ofNat 16 x.base.toNat, BitVec.ofNat 16 (x.base.toNat / 0x10000), x.limit]

/-- A segment register from three words. -/
def segOf (a b l : Word) (v p chained lathPort : Bool) : Seg :=
  { base := BitVec.ofNat 32 (a.toNat + b.toNat * 0x10000), limit := l, v, p, chained, lathPort }

/-- SEGF: which segment registers are valid, and their marks (R280). -/
def Ctx.segf (c : Ctx) : Word :=
  BitVec.ofNat 16 (((List.range 8).map fun n => b2n (c.segReg n).v * 2 ^ n).sum + b2n c.cseg.v * 256 + b2n (c.segReg 2).p * 512
    + b2n (c.segReg 1).chained * 1024 + b2n (c.segReg 4).lathPort * 2048)

/-- What an entry saves beside the registers: vector, interrupt, PC, INFO and FADDR. -/
structure TrapEntry where
  vec : Nat
  int : Option Nat := none
  pc : Word
  info : Nat := 0
  faddr : Nat := 0
deriving DecidableEq, Repr

/-- CAUSE of a TSB (R280). -/
def Ctx.causeWord (c : Ctx) (x : TrapEntry) : Word :=
  BitVec.ofNat 16 (x.vec + b2n x.int.isSome * 64 + b2n (c.st = .free) * 128 + (c.curPri.getD 0x10) * 256 + b2n (c.slot.isSome && x.int.isNone) * 0x2000)

/-- The 48 words of a TSB (R280). -/
def Ctx.tsb (c : Ctx) (x : TrapEntry) : List Word :=
  [x.pc, c.statusWord, c.wp, BitVec.ofNat 16 c.pl.toNat, c.causeWord x, BitVec.ofNat 16 x.info, BitVec.ofNat 16 x.faddr,
   BitVec.ofNat 16 (x.faddr / 0x10000), if x.int.isNone then c.slot.getD 0 else 0]
    ++ (List.range 9).map (fun i => c.loops.get 0 i)
    ++ [c.segf] ++ ((List.range 8).map fun n => (c.segReg n).words).flatten ++ c.cseg.words ++ [0, 0]

/-! ### Entry (R277, R278, R286, R288) -/

/-- A word lies in the system area (R267). -/
def inSystem (core w : Nat) : Bool := if core < 64 then decide (0x3800 ≤ w) && decide (w < 0x4000) else decide (0x7400 ≤ w) && decide (w < 0x8000)

/-- VTB and TSBR as an entry sees them (R273). -/
def State.vtbSeen (s : State) (core k : Nat) : Nat := ((s.ctx core k).wordSeen (s.now core k) .vtb (s.ctx core k).vtb).toNat
def State.tsbrSeen (s : State) (core k : Nat) : Nat := ((s.ctx core k).wordSeen (s.now core k) .tsbr (s.ctx core k).tsbr).toNat

/-- VTB + 63 lies within the system area (R288). -/
def State.vtbOk (s : State) (core k : Nat) : Bool := inSystem core (s.vtbSeen core k + 63)

/-- The word of the vector table for a vector (R276). -/
def State.vectorWord (s : State) (core k vec : Nat) : Word := s.localWord core ((s.vtbSeen core k + vec) % 0x10000)

/-- The CAUSE of the lockup that an entry meets, in the order of their numbers (R288). -/
def State.entryLock (s : State) (core k vec : Nat) : Option Nat :=
  let t := s.tsbrSeen core k
  if t % 16 ≠ 0 || !(inSystem core t && inSystem core (t + 47)) then some 1
  else if 4 ≤ (s.ctx core k).depth then some 2
  else if !(s.vtbOk core k) then some 3
  else if s.vectorWord core k vec = 0xFFFF then some 4
  else none

/-- The handler code segment (R278). -/
def handlerSeg (core : Nat) : Seg := seg (aliasAddr (libWord core)) 0x2FFF

/-- The values still seen of memory words only: what an entry or a return loads is seen at once. -/
def Ctx.memStale (c : Ctx) : List Stale := c.stale.filter fun x => match x.key with
  | .word _ => true
  | _ => false

/-- The context as the handler of a vector finds it, at its present depth (R278 steps 3 to 7). -/
def State.startHandler (s : State) (core k : Nat) (start : Word) : State :=
  s.updCtx core k fun c =>
    { c with st := .ready, c := false, z := false, n := false, v := false, rsm := false, pl := 1,
             segs := c.segs.set 0 (seg (aliasAddr (wsWord core k)) 0x37), wp := BitVec.ofNat 16 (8 * (c.depth - 1)), cseg := handlerSeg core,
             loops := ((c.loops.set 6 0).set 7 0).set 8 0, pc := start, slot := none, annul := false, wait := .nothing, stale := c.memStale, block := none }

/-- Cycles of a core pass while a context enters or leaves a handler. -/
def State.passCycles (s : State) (core n : Nat) : State := s.updCore core fun c => { c with cycle := c.cycle + n }

/-- Taking an exception or an interrupt, once its conditions hold (R278): a wait ends, the held half is sent, the TSB written, the handler
started. Cycles of an interrupt are not charged (R272). -/
def State.enter (s : State) (core k : Nat) (x : TrapEntry) : State :=
  let s0 := (s.passWait core k).sendHalf core k
  let c := s0.ctx core k
  let t := s0.tsbrSeen core k
  let start := s0.vectorWord core k x.vec
  let s1 := s0.store (localBase core + 2 * t) (wordBytes (c.tsb x))
  let s2 := s1.updCtx core k fun c =>
    let c1 := if x.int.isSome then c else c.spend 12
    { c1 with tsbr := BitVec.ofNat 16 (t + 48), depth := c.depth + 1, ints := x.int :: c.ints }
  (s2.startHandler core k start).passCycles core 12

/-- The source number stands in slot w0 of an interrupt handler's workspace (R331). -/
def State.putSource (s : State) (core k n : Nat) : State :=
  s.storeWord (localBase core + 2 * (wsWord core k + (s.ctx core k).wp.toNat)) (BitVec.ofNat 16 n)

/-- An exception is raised (R277, R279, R288): it is entered, ends the routine, or locks the core up. Context 0 of a Cornice
core locks its core up with any exception. -/
def State.raise (s : State) (core k : Nat) (x : Exc) : State :=
  let s0 := if x.vec = vBusError then s.accFault (midOfCore core) else s
  let c := s0.ctx core k
  if ownSlot core k then s0.lockCore core k 7
  else if s0.vtbOk core k && s0.vectorWord core k x.vec = 0xFFFF && decide (2 ≤ c.pl.toNat) then
    (s0.failRun core k stRoutineFault .free).afterFree core
  else match s0.entryLock core k x.vec with
    | some cause => s0.lockCore core k cause
    | none =>
      let (fa, s1) : Nat × State := if x.openAddr then (let (w, s') := s0.takeWord; (w.toNat, s')) else (x.faddr, s0)
      s1.enter core k { vec := x.vec, pc := if 32 ≤ x.vec then c.pc + 1 else c.pc, info := x.info, faddr := fa }

/-! ### Interrupts (R284 to R286, R329) -/

/-- The priority of the innermost active interrupt handler on a core (R284). -/
def State.corePri (s : State) (core : Nat) : Option Nat := ((List.range (ctxCount core)).find? fun k => (s.ctx core k).inInt).bind fun k => (s.ctx core k).curPri

/-- The vector entry of an interrupt of priority p says that there is no handler (R276, R284). -/
def State.noEntry (s : State) (core k p : Nat) : Bool := s.vtbOk core k && s.vectorWord core k (16 + p) = 0xFFFF

/-- The sources offered to a core, above a priority where one is given (R284, R328). -/
def State.offersTo (s : State) (core : Nat) (above : Option Nat) : List Nat :=
  (s.srcs.map (·.1)).filter fun n => s.presentedTo n (memberOfCore core + 2) && (match above with
    | none => true
    | some a => decide (a < (s.src n).prio.toNat))

/-- The offer of the highest priority that has a handler, above a priority where one is given: the lowest number among equals (R284,
R328). -/
def State.bestOffer (s : State) (core k : Nat) (above : Option Nat) : Option (Nat × Nat) :=
  ((s.offersTo core above).filter fun n => !(s.noEntry core k (s.src n).prio.toNat)).foldl (fun b n =>
    let p := (s.src n).prio.toNat
    match b with
    | none => some (n, p)
    | some x => if x.2 < p then some (n, p) else some x) none

/-- A core whose vector entry is absent declines the offer (R329). -/
def State.declineOffer (s : State) (core n : Nat) : State :=
  (s.updSrc n fun x => { x with declined := memberOfCore core :: x.declined, offer := false, loc := 0x7F }).route n

/-- The contexts of a core in the order of the issue pointer (R264). -/
def State.issueOrder (s : State) (core : Nat) : List Nat :=
  let n := ctxCount core
  ((List.range n).map fun i => ((s.core core).ptr + i) % n).filter fun k => !(ownSlot core k)

/-- The context that takes an interrupt, at its boundary (R266, R284). -/
def State.intCtx (s : State) (core : Nat) : Option Nat :=
  let order := s.issueOrder core
  let ready (k : Nat) : Bool := (s.ctx core k).atBoundary && [CtxSt.ready, .waiting, .held].contains (s.ctx core k).st
  match order.find? fun k => (s.ctx core k).inInt with
  | some k => if ready k then some k else none
  | none =>
    let free := ((List.range (ctxCount core)).filter fun k => !(ownSlot core k)).filter fun k => (s.ctx core k).st = .free
    match free.find? fun k => !(s.reservedCtx core k) with
    | some k => some k
    | none => match free.head? with
      | some k => some k
      | none => order.find? ready

/-- A FREE context has the vector table and the TSB stack of its core's layout (R267, R286). -/
def State.prepareCtx (s : State) (core k : Nat) : State :=
  s.updCtx core k fun c =>
    if c.st = .free then { c with vtb := BitVec.ofNat 16 (vtbWord core), tsbr := BitVec.ofNat 16 (tsbWord core k), depth := 0, pc := 0, pl := 2, stale := [] }
    else c

/-- The offers for which a core has no handler are declined at its boundary (R329). -/
def State.declineAbsent (s : State) (core k : Nat) : State :=
  s.each ((s.offersTo core (s.corePri core)).filter fun n => s.noEntry core k (s.src n).prio.toNat) fun s n => s.declineOffer core n

/-- An accepted interrupt is entered, or the core locks up; a source that has gone is not (R284, R285, R288, R331). -/
def State.takeInt (s : State) (core k n p : Nat) : State :=
  match s.entryLock core k (16 + p) with
  | some cause => s.lockCore core k cause
  | none =>
    match s.commitOffer n (memberOfCore core) with
    | none => s
    | some s1 => ((s1.enter core k { vec := 16 + p, int := some p, pc := (s1.ctx core k).pc, info := n }).putSource core k n).arrange core

/-- An offered interrupt above the core's current priority is accepted at a boundary; offers without a handler are declined (R284, R329). -/
def State.acceptInt (s : State) (core : Nat) : State :=
  if !(s.coreOk core) || (s.offersTo core (s.corePri core)).isEmpty then s else
  match s.intCtx core with
  | none => s
  | some k =>
    let s1 := (s.prepareCtx core k).declineAbsent core k
    match s1.bestOffer core k (s1.corePri core) with
    | none => s1
    | some (n, p) => s1.takeInt core k n p

/-! ### RETX (R282, R286, R330) -/

/-- The words of the TSB at TSBR − 48; words beyond the local memory are open values. -/
def State.topTsb (s : State) (core k : Nat) : List Word :=
  let t := ((s.ctx core k).tsbr.toNat + 0x10000 - 48) % 0x10000
  (List.range 48).map fun i => if (t + i) % 0x10000 * 2 < localSize core then s.localWord core ((t + i) % 0x10000) else Config.freeWord (s.freeNext + i)

/-- A context from the words of its TSB (R282): every saved field is restored; a BASE stays even (R232, log 113). -/
def Ctx.restore (c : Ctx) (l : List Word) : Ctx :=
  let w (i : Nat) : Word := l.getD i 0
  let even (x : Word) : Word := x &&& 0xFFFE
  let segf := w 18
  let sg (n : Nat) : Seg := segOf (even (w (19 + 3 * n))) (w (20 + 3 * n)) (w (21 + 3 * n)) (bitOf segf n) (n == 2 && bitOf segf 9)
    (n == 1 && bitOf segf 10) (n == 4 && bitOf segf 11)
  let c1 := c.setStatus (w 1)
  { c1 with pc := w 0, wp := w 2, loops := (List.range 9).map fun i => (i, w (9 + i)), segs := (List.range 8).map fun n => (n, sg n),
            cseg := segOf (even (w 43)) (w 44) (w 45) (bitOf segf 8) false false false, slot := if bitOf (w 4) 13 then some (w 8) else none,
            tsbr := c.tsbr - 48, depth := c.depth - 1, ints := c.ints.tail, annul := false, wait := .nothing, st := .ready, stale := c.memStale }

/-- An acceptable interrupt above the priority that a RETX returns to, with its start (R286). -/
def State.chainTo (s : State) (core k prioRet : Nat) : Option (Nat × Nat) :=
  if !(s.coreOk core) then none else
  s.bestOffer core k (if prioRet < 16 then some prioRet else none)

/-- A RETX chains into a new handler: the TSB stays valid and is not written again (R286, R331). -/
def State.chainInt (s : State) (core k n p : Nat) : State :=
  if !(s.vtbOk core k) then s.lockCore core k 3 else
  match s.commitOffer n (memberOfCore core) with
  | none => s
  | some s1 =>
    let start := s1.vectorWord core k (16 + p)
    let s2 := s1.updCtx core k fun c => { c with ints := some p :: c.ints.tail }
    ((s2.startHandler core k start).putSource core k n).passCycles core 6

/-- RETX beyond its own checks (R282, R286, R330): RETURN_PRIVILEGE, a chain, or the restore; a TSB with FREE = 1 returns the
context to FREE. -/
def State.retx (s : State) (core k : Nat) : State :=
  let l := s.topTsb core k
  let cause := l.getD 4 0
  if bitsOf (l.getD 1 0) 5 2 < bitsOf (l.getD 3 0) 0 2 then s.raise core k { vec := vReturn }
  else
    let c := s.ctx core k
    let s1 := if (c.ints.headD none).isSome then s.endTopService core else s
    match if c.inInt then s1.chainTo core k (bitsOf cause 8 5) else none with
    | some (n, p) => s1.chainInt core k n p
    | none =>
      let s2 := (s1.updCtx core k fun c => (c.spend 10).restore l).passCycles core 10
      if bitOf cause 7 then (s2.leaveCtx core k .free).afterFree core else s2

end Sys2Proof.Machine
end

