-- ==== Sys2Proof/Machine/Issue.lean ====
section
/-! DEFINITION. Formats and decoding of Thrumzeg-16, the checks that come before an instruction's operands, and its issue and
completion (R238, R239, R248 to R253, R260, R261, R264, R273, R275). -/

namespace Sys2Proof.Machine
open Sys2Proof

/-! ### Opcodes (R238, R248) -/

/-- The instructions by mnemonic; `sxx` is the long form of the comparing skips. -/
inductive Op where
  | nop | mov | add | adc | sub | sbb | and | or | xor | not | neg | shl | shr | sar | rol | mul | mulhu | mulhs | divu | remu
  | movq | addq | cmp | tst | seq | sne | slt | sge | sltu | sgeu | sbs | sbz | skf | jmpr | callr | ret | retx | trap | exit | wfe
  | sev | waitt | lseg | sseg | mfsr | mtsr
  | movk | sxx | jmpk | callk | jmp | call | loop | movb | fillb | bfext | bfins | clz | bperm
deriving DecidableEq, Repr

/-- The short opcodes 0x00 to 0x2D with their issue cycles. -/
def shortOps : List (Op × Nat) :=
  [(.nop, 1), (.mov, 1), (.add, 1), (.adc, 1), (.sub, 1), (.sbb, 1), (.and, 1), (.or, 1), (.xor, 1), (.not, 1), (.neg, 1), (.shl, 1),
   (.shr, 1), (.sar, 1), (.rol, 1), (.mul, 2), (.mulhu, 2), (.mulhs, 2), (.divu, 18), (.remu, 18), (.movq, 1), (.addq, 1), (.cmp, 1),
   (.tst, 1)] ++
  [(.seq, 1), (.sne, 1), (.slt, 1), (.sge, 1), (.sltu, 1), (.sgeu, 1), (.sbs, 1), (.sbz, 1), (.skf, 1), (.jmpr, 1), (.callr, 1),
   (.ret, 1), (.retx, 10), (.trap, 0), (.exit, 2), (.wfe, 1), (.sev, 1), (.waitt, 1), (.lseg, 3), (.sseg, 3), (.mfsr, 1), (.mtsr, 1)]

/-- The long opcodes 0x02 to 0x11, in the order of R248. -/
def longAlu : List Op := [.add, .adc, .sub, .sbb, .and, .or, .xor, .shl, .shr, .sar, .rol, .mul, .mulhu, .mulhs, .divu, .remu]

/-- The long opcode of a LOP, none where it is undefined (R248). -/
def longOp (lop : Nat) : Option Op :=
  if 0x02 ≤ lop ∧ lop ≤ 0x11 then longAlu[lop - 2]?
  else match lop with
    | 0x00 => some .mov
    | 0x01 => some .movk
    | 0x12 => some .not
    | 0x13 => some .neg
    | 0x14 => some .cmp
    | 0x15 => some .tst
    | 0x16 => some .sxx
    | 0x18 => some .jmpk
    | 0x19 => some .callk
    | 0x1A => some .jmp
    | 0x1B => some .call
    | 0x20 => some .loop
    | 0x21 => some .movb
    | 0x22 => some .fillb
    | 0x23 => some .waitt
    | 0x24 => some .sev
    | 0x25 => some .lseg
    | 0x26 => some .sseg
    | 0x30 => some .bfext
    | 0x31 => some .bfins
    | 0x32 => some .clz
    | 0x33 => some .bperm
    | _ => none

/-- A first word begins a long form (R238). -/
def isLong (w : Word) : Bool := bitsOf w 12 4 == 15

/-- Words of the instruction that a first word begins (R238). -/
def wordsOf (w : Word) : Nat := if isLong w then 4 else 1

/-- The instruction that a first word begins, none for an undefined OP or LOP (R239). -/
def opOf (w : Word) : Option Op := if isLong w then longOp (bitsOf w 4 8) else (shortOps[bitsOf w 10 6]?).map (·.1)

/-- Issue cycles of a short form. -/
def shortCycles (op : Op) : Option Nat := (shortOps.find? fun x => x.1 = op).map (·.2)

/-- Issue cycles of a long form (R248, R254, R260). -/
def longCycles (op : Op) : Nat :=
  match op with
  | .movk | .jmpk | .callk | .jmp | .call | .loop | .sxx | .clz => 2
  | .movb | .fillb | .bfext => 3
  | .bfins | .bperm => 4
  | _ => ((shortCycles op).getD 1) + 1

/-- A decoded instruction: its operands as specifiers, the literal of K, AUX, its words and cycles, and whether its encoding
is legal (R238, R239). -/
structure Ins where
  op : Op
  size : Nat
  d : Word := 0
  a : Word := 0
  b : Word := 0
  k : Word := 0
  aux : Nat := 0
  cyc : Nat
  ok : Bool
deriving DecidableEq, Repr

/-- The immediate specifier of a value. -/
def immSpec (v : Word) : Word := 0xC000 ||| (v &&& 0x1FFF)

/-- A short form, with D and S turned into specifiers as R248 sets them beside the long form. -/
def decodeShort (op : Op) (w : Word) : Ins :=
  let d := bitsOf w 5 5
  let s := bitsOf w 0 5
  let sl (n : Nat) : Word := BitVec.ofNat 16 n
  let q : Word := immSpec ((BitVec.ofNat 5 s).signExtend 16)
  let i : Ins := { op, size := 1, cyc := (shortCycles op).getD 1, ok := true }
  match op with
  | .nop | .retx | .wfe => { i with ok := d == 0 && s == 0 }
  | .ret => { i with a := 31, ok := d == 0 && s == 0 }
  | .mov | .not | .neg => { i with d := sl d, a := sl s }
  | .movq => { i with d := sl d, a := q }
  | .addq => { i with d := sl d, a := sl d, b := q }
  | .cmp | .tst | .seq | .sne | .slt | .sge | .sltu | .sgeu | .exit => { i with a := sl d, b := sl s }
  | .sbs | .sbz => { i with a := sl d, b := immSpec (sl s), ok := decide (s < 16) }
  | .skf => { i with aux := d, ok := decide (d < 15) && s == 0 }
  | .jmpr | .callr | .sev => { i with a := sl s, ok := d == 0 }
  | .waitt => { i with a := sl s, ok := d == 0 && decide (s ≤ 30) }
  | .trap => { i with aux := s, ok := d == 0 }
  | .lseg => { i with a := sl s, aux := d, ok := decide (d ≤ 8) && decide (s ≤ 29) }
  | .sseg => { i with d := sl d, aux := s, ok := decide (s ≤ 8) && decide (d ≤ 29) }
  | .mfsr => { i with d := sl d, aux := s, ok := decide (s < 0x18) }
  | .mtsr => { i with a := sl s, aux := d, ok := d == 0 || d == 1 || (decide (4 ≤ d) && decide (d ≤ 0x0E)) }
  | _ => { i with d := sl d, a := sl d, b := sl s }

/-- A long form (R238, R248, R260). -/
def decodeLong (op : Op) (w d a b : Word) : Ins :=
  let aux := bitsOf w 0 4
  let ok : Bool := match op with
    | .mov | .not | .neg | .clz => aux == 0 && spDest d && spSource a && b == 0
    | .movk => aux == 0 && spDest d && b == 0
    | .cmp | .tst => aux == 0 && d == 0 && spSource a && spSource b
    | .sxx => decide (aux < 8) && d == 0 && spSource a && spSource b
    | .jmpk | .callk => aux == 0 && d == 0 && b == 0
    | .jmp | .call | .sev => aux == 0 && d == 0 && spSource a && b == 0
    | .loop => decide (aux < 3) && d == 0 && spSource b
    | .movb => aux == 0 && spPtr d && spPtr a && spGroup b && spSlot d != spSlot a
    | .fillb => aux == 0 && spPtr d && spSource a && spGroup b
    | .waitt => aux == 0 && d == 0 && spGroup a && b == 0
    | .lseg => decide (aux ≤ 8) && d == 0 && spGroup a && b == 0
    | .sseg => decide (aux ≤ 8) && spGroup d && a == 0 && b == 0
    | .bfext => decide (aux ≤ 1) && spDest d && spGroup a && spSource b
    | .bfins => aux == 0 && spGroup d && spSource a && spSource b
    | .bperm => aux == 0 && spDest d && spSource a && spGroup b
    | _ => aux == 0 && spDest d && spSource a && spSource b
  { op, size := 4, d, a, b, k := a, aux, cyc := longCycles op, ok }

/-! ### Fetch (R252) -/

/-- The word of code at an offset: SEGMENT or BUS_ERROR at the fetch. -/
def Ev.fetchWord (e : Ev) (w : Word) : Except Exc (Word × Ev) := do
  let p ← e.place 0 8 w false false
  return e.load true p

/-- The instruction at PC whose first word is known (R238, R252). -/
def Ev.fetchRest (e : Ev) (op : Op) (w : Word) : Except Exc (Ins × Ev) :=
  if isLong w then do
    let (d, e1) ← e.fetchWord (e.ctx.pc + 1)
    let (a, e2) ← e1.fetchWord (e.ctx.pc + 2)
    let (b, e3) ← e2.fetchWord (e.ctx.pc + 3)
    return (decodeLong op w d a b, e3)
  else return (decodeShort op w, e)

/-! ### The checks before the operands (R251, R253, R260, R261) -/

/-- Jumps (R250). -/
def Op.isJump (o : Op) : Bool := [Op.jmpr, .jmp, .jmpk, .callr, .call, .callk, .ret].contains o
/-- Skips (R249). -/
def Op.isSkip (o : Op) : Bool := [Op.seq, .sne, .slt, .sge, .sltu, .sgeu, .sbs, .sbz, .sxx, .skf].contains o

/-- What must not stand in a delay slot (R251). -/
def Op.notInSlot (o : Op) : Bool := o.isJump || o.isSkip || [Op.retx, .exit, .trap, .loop, .movb, .fillb, .wfe, .waitt].contains o
/-- What must not stand at the end of an active loop (R253). -/
def Op.notAtEnd (o : Op) : Bool := o.isJump || o.isSkip || [Op.retx, .exit, .trap, .loop].contains o

/-- PC stands at the end of an active loop (R253). -/
def Ctx.atLoopEnd (c : Ctx) : Bool := (List.range 3).any fun k => c.loops.get 0 (6 + k) ≠ 0 && c.loops.get 0 (3 + k) = c.pc

/-- ILLEGAL_SLOT (R251, R253). -/
def Ctx.badSlot (c : Ctx) (o : Option Op) : Bool :=
  (c.slot.isSome && o.any Op.notInSlot) || (c.atLoopEnd && (c.slot.isSome || o.any Op.notAtEnd))

/-- PRIVILEGE of an encoding (R235, R244, R260, R282). -/
def Ins.needsRight (i : Ins) (core pl : Nat) : Bool :=
  ([Op.bfext, .bfins, .clz, .bperm].contains i.op && decide (core < 64))
    || (decide (2 ≤ pl) && (i.op = .retx || (i.op = .mtsr && (i.aux == 0x0D || i.aux == 0x0E)) || (i.op = .lseg && (decide (i.aux < 6) || i.aux == 8))))

/-! ### Issue (R264, R271, R275) -/

/-- A context that may issue: READY, its core awake, and its bound not reached at a boundary. -/
def State.canIssue (s : State) (core k : Nat) : Bool :=
  let c := s.ctx core k
  decide (k < ctxCount core) && s.die = .ready && !(s.locked core) && (s.dom core).level == 0 && c.st = .ready
    && !(c.run.isSome && !c.inInt && c.left == 0 && c.atBoundary)

/-- The context is the one that the core issues next: of the highest rank, in round robin (R212, R264). -/
def State.ctxTurn (s : State) (core k : Nat) : Bool :=
  if ownSlot core k then s.canIssue core k else
  let l := (s.issueOrder core).filter fun j => s.canIssue core j
  (l.find? fun j => l.all fun i => decide (s.ctxRank core i ≤ s.ctxRank core j)) == some k

/-- Where the context goes on after an instruction of a number of words: the loop-back, or the target of its jump (R250, R253). -/
def Ctx.advance (c : Ctx) (now size : Nat) : Ctx :=
  let c1 := c.complete now c.pc (c.pc + BitVec.ofNat 16 size)
  match c.slot with
  | none => c1
  | some t => { c1 with pc := t, slot := none }

/-- An instruction of a context that issues now. -/
def State.ev (s : State) (core k : Nat) : Ev := { s, core, k, now := s.now core k, since := s.now core k }

/-- The next instruction is annulled: only its first word is fetched (R249, R252). -/
def State.annulNext (s : State) (core k : Nat) : State :=
  let e := s.ev core k
  match e.fetchWord e.ctx.pc with
  | .error _ => s.updCtx core k fun c => { c with annul := true }
  | .ok (w, e1) => e1.s.updCtx core k fun c => { c.complete e.now c.pc (c.pc + BitVec.ofNat 16 (wordsOf w)) with annul := false }

/-- The vector number that stands for an instruction which waits for the open mark of its RUN (R468): no exception has it. -/
def vMark : Nat := 64

/-- The issue pointer stands at a context, whose block instruction has not completed (R254, R264). -/
def State.keepPtr (s : State) (core k : Nat) : State := if ownSlot core k then s else s.updCore core fun c => { c with ptr := k }

/-- An instruction completes, or a block instruction has moved a word: cycles, distances, and what it does next (R249, R250, R253, R255,
R272, R273). -/
def Ev.finish (e : Ev) (i : Ins) : Except Exc State :=
  if e.block then .error { vec := vMark } else
  let s1 := e.s.updCtx e.core e.k fun c =>
    let c1 := (c.settleStale e.since e.now (e.now + e.cyc - 1)).spend e.cyc
    let c2 : Ctx := match e.flow with
      | .seq | .skip => c1.advance e.now i.size
      | .jump t => { c1.advance e.now i.size with slot := some t }
      | .goto p => { c1 with pc := p }
      | .wait w => { c1 with st := .waiting, wait := w }
      | .stay => { c1 with rsm := true }
    if e.stall then { c2 with st := .stalled, stallAt := e.since, stallEnd := e.now + e.cyc } else c2
  let s2 := s1.setNow e.core e.k (e.now + e.cyc)
  .ok (match e.flow with
    | .skip => s2.annulNext e.core e.k
    | .stay => s2.keepPtr e.core e.k
    | .wait _ => s2.mark e.core e.k
    | _ => s2)

/-- What an instruction is to do is done, or its exception is raised (R261). -/
def State.settleIns (s : State) (core k : Nat) (r : Except Exc State) : State :=
  match r with
  | .ok s1 => s1
  | .error x => if x.vec = vMark then s.openRun core k else s.raise core k x

/-- The next of the issue pointer (R264). -/
def State.movePtr (s : State) (core k : Nat) : State :=
  if ownSlot core k then s else s.updCore core fun c => { c with ptr := (k + 1) % ctxCount core }

/-- The context drops the old values that no access sees any more (R273). -/
def Ctx.dropStale (c : Ctx) (now : Nat) : Ctx :=
  { c with stale := c.stale.filter fun x => decide (now < x.opUntil) || decide (now < x.fetchUntil) }

/-! ### PRIVILEGE of a sealed word, which ranks before the operands (R261, R281) -/

/-- A write of word w through segment n meets a sealed word of a TSB. -/
def Ev.sealedAt (e : Ev) (acc n : Nat) (w : Word) (port : Bool) : Bool :=
  match e.place acc n w port true with
  | .error x => x.vec == vPrivilege
  | .ok _ => false

/-- The writes of a specifier, its pointer's and those of n words, meet a sealed word; and the instruction beyond it, as far as it can
be evaluated. -/
def Ev.probe (e : Ev) (acc : Nat) (x : Word) (n : Nat) : Bool × Ev :=
  if spMode x = 6 then (false, e) else
  let slot := (spMode x == 3 || spMode x == 4) && e.sealedAt acc 0 (e.slotOff (spSlot x)) false
  match e.loc acc x with
  | .error _ => (slot, e)
  | .ok (l, e1) =>
    (slot || (List.range n).any fun j => e1.sealedAt acc l.seg (l.off + BitVec.ofNat 16 j) l.port,
      match e1.after acc l with
      | .ok e2 => e2
      | .error _ => e1)

/-- Words of the result that an instruction writes at D. -/
def Op.results (o : Op) : Nat :=
  if [Op.nop, .cmp, .tst, .retx, .trap, .exit, .wfe, .sev, .waitt, .lseg, .mtsr, .jmpr, .jmpk, .jmp, .ret, .loop, .movb, .fillb].contains o || o.isSkip then 0
  else if o = .sseg then 3 else if o = .bfins then 2 else 1

/-- A write of the instruction meets a sealed word (R281): a pointer slot, the count of a block instruction, or the result. -/
def Ev.meetsSealed (e : Ev) (i : Ins) : Bool :=
  let lit := [Op.movk, .jmpk, .callk, .loop].contains i.op
  let (a, e1) := if lit then (false, e) else e.probe 1 i.a 0
  let (b, e2) := e1.probe 2 i.b (if i.op = .movb ∨ i.op = .fillb then 1 else 0)
  let (d, _) := e2.probe 3 (if [Op.callr, .call, .callk].contains i.op then 31 else i.d) i.op.results
  a || b || d

/-- What an instruction raises, where a write that meets a sealed word ranks before the faults of operands (R261). -/
def Ev.ranked (e : Ev) (i : Ins) (r : Except Exc State) : Except Exc State :=
  match r with
  | .ok s => .ok s
  | .error x => .error (if (x.vec == vSegment || x.vec == vBusError) && e.meetsSealed i then { vec := vPrivilege } else x)

/-- An instruction of a mnemonic whose encoding, slot and privilege are good runs its body (R261). -/
def Ev.run (e : Ev) (i : Ins) (body : Ev → Ins → Except Exc State) : Except Exc State :=
  if e.ctx.badSlot (some i.op) then .error { vec := vSlot }
  else if !i.ok then .error { vec := vIllegal }
  else if i.needsRight e.core e.pl then .error { vec := vPrivilege }
  else e.ranked i (body { e with cyc := i.cyc } i)

/-- Issue of the instruction at PC, if its mnemonic is `op` (R252, R261, R264): a refused fetch of its first word is taken
whatever the mnemonic, an undefined OP or LOP where `undef` says so. -/
def State.issueOne (s : State) (core k : Nat) (op : Op) (undef : Bool) (body : Ev → Ins → Except Exc State) : State :=
  let s0 := s.updCtx core k fun c => c.dropStale (s.now core k)
  let e := s0.ev core k
  match e.fetchWord e.ctx.pc with
  | .error x => (s0.movePtr core k).raise core k x
  | .ok (w, e1) =>
    if e.ctx.annul then s.annulNext core k else
    match opOf w with
    | none =>
      if !undef then s else
      (s0.movePtr core k).settleIns core k (do
        let (_, _) ← e1.fetchRest .nop w
        .error { vec := if e.ctx.badSlot none then vSlot else vIllegal })
    | some o =>
      if o ≠ op then s else
      let s1 := s0.movePtr core k
      s1.settleIns core k (do
        let (i, e2) ← ({ e1 with s := e1.s.movePtr core k } : Ev).fetchRest op w
        e2.run i body)

/-- An instruction row: contexts are arranged before and after it, and it acts only in its context's turn (R212, R264). -/
def State.issue (s : State) (core k : Nat) (op : Op) (undef : Bool) (body : Ev → Ins → Except Exc State) : State :=
  let s0 := s.arrange core
  if s0.ctxTurn core k && (s0.ctx core k).block.isNone then (s0.issueOne core k op undef body).arrange core else s

/-! ### Shapes of instructions -/

/-- D ← A op B, with flags (R246, R248). -/
def Ev.alu (e : Ev) (i : Ins) (f : Flags → Word → Word → Except Exc (Word × Flags)) : Except Exc State := do
  let (a, e1) ← e.source 1 i.a
  let (b, e2) ← e1.source 2 i.b
  let (ps, e3) ← e2.dest i.d 1
  let (r, fl) ← f e3.ctx.flags a b
  ((e3.puts ps [r]).upd fun c => c.setFlags fl).finish i

/-- D ← op A, with flags. -/
def Ev.unary (e : Ev) (i : Ins) (f : Flags → Word → Word × Flags) : Except Exc State := do
  let (a, e1) ← e.source 1 i.a
  let (ps, e2) ← e1.dest i.d 1
  let (r, fl) := f e2.ctx.flags a
  ((e2.puts ps [r]).upd fun c => c.setFlags fl).finish i

/-- Flags of A op B only. -/
def Ev.test (e : Ev) (i : Ins) (f : Flags → Word → Word → Word × Flags) : Except Exc State := do
  let (a, e1) ← e.source 1 i.a
  let (b, e2) ← e1.source 2 i.b
  (e2.upd fun c => c.setFlags (f e2.ctx.flags a b).2).finish i

/-- Skip if A and B meet a comparison (R249). -/
def Ev.skipIf (e : Ev) (i : Ins) (f : Word → Word → Bool) : Except Exc State := do
  let (a, e1) ← e.source 1 i.a
  let (b, e2) ← e1.source 2 i.b
  ({ e2 with flow := if f a b then .skip else .seq } : Ev).finish i

end Sys2Proof.Machine
end

