-- ==== Sys2Proof/Machine/Arith.lean ====
section
/-! DEFINITION. The meanings of the moves, arithmetic, logic, shifts and tests of Thrumzeg-16 (R246, R248, short-form and long-form
tables). -/

namespace Sys2Proof.Machine
open Sys2Proof

/-- An instruction D ← A op B with flags. -/
def State.alu3 (s : State) (core ctx : Nat) (op : Op) (f : Flags → Word → Word → Word × Flags) : State :=
  s.issue core ctx op false fun e i => e.alu i fun fl a b => .ok (f fl a b)

/-- An instruction D ← A op B with flags that raises DIVIDE on B = 0 (R261). -/
def State.divide (s : State) (core ctx : Nat) (op : Op) (f : Nat → Nat → Nat) : State :=
  s.issue core ctx op false fun e i => e.alu i fun fl a b =>
    if b = 0 then .error { vec := vDivide } else .ok (aluLogic fl (BitVec.ofNat 16 (f a.toNat b.toNat)))

/-- NOP; a word with an undefined OP or LOP raises ILLEGAL_INSTRUCTION here (R239). -/
def execNop (core ctx : Nat) (s : State) : Host.Outcome State Fault Refusal := .next (s.issue core ctx .nop true fun e i => e.finish i)

/-- MOV; a word with an undefined OP or LOP raises ILLEGAL_INSTRUCTION here too (R239). -/
def execMov (core ctx : Nat) (s : State) : Host.Outcome State Fault Refusal :=
  .next (s.issue core ctx .mov true fun e i => e.unary i fun fl a => (a, fl))

/-- MOVQ: the 5-bit value sign-extended. -/
def execMovq (core ctx : Nat) (s : State) : Host.Outcome State Fault Refusal :=
  .next (s.issue core ctx .movq false fun e i => e.unary i fun fl a => (a, fl))

/-- MOVK: the 16-bit literal. -/
def execMovk (core ctx : Nat) (s : State) : Host.Outcome State Fault Refusal :=
  .next (s.issue core ctx .movk false fun e i => do
    let (ps, e1) ← e.dest i.d 1
    (e1.puts ps [i.k]).finish i)

/-- ADD. -/
def execAdd (core ctx : Nat) (s : State) : Host.Outcome State Fault Refusal := .next (s.alu3 core ctx .add fun f a b => aluAdd f a b false)
/-- ADC: with carry. -/
def execAdc (core ctx : Nat) (s : State) : Host.Outcome State Fault Refusal := .next (s.alu3 core ctx .adc fun f a b => aluAdd f a b f.c)
/-- ADDQ: the 5-bit value sign-extended. -/
def execAddq (core ctx : Nat) (s : State) : Host.Outcome State Fault Refusal := .next (s.alu3 core ctx .addq fun f a b => aluAdd f a b false)
/-- SUB. -/
def execSub (core ctx : Nat) (s : State) : Host.Outcome State Fault Refusal := .next (s.alu3 core ctx .sub fun f a b => aluSub f a b false)
/-- SBB: with borrow. -/
def execSbb (core ctx : Nat) (s : State) : Host.Outcome State Fault Refusal := .next (s.alu3 core ctx .sbb fun f a b => aluSub f a b f.c)
/-- AND. -/
def execAnd (core ctx : Nat) (s : State) : Host.Outcome State Fault Refusal := .next (s.alu3 core ctx .and fun f a b => aluLogic f (a &&& b))
/-- OR. -/
def execOr (core ctx : Nat) (s : State) : Host.Outcome State Fault Refusal := .next (s.alu3 core ctx .or fun f a b => aluLogic f (a ||| b))
/-- XOR. -/
def execXor (core ctx : Nat) (s : State) : Host.Outcome State Fault Refusal := .next (s.alu3 core ctx .xor fun f a b => aluLogic f (a ^^^ b))
/-- NOT. -/
def execNot (core ctx : Nat) (s : State) : Host.Outcome State Fault Refusal :=
  .next (s.issue core ctx .not false fun e i => e.unary i fun fl a => aluLogic fl (~~~a))
/-- NEG: 0 − A. -/
def execNeg (core ctx : Nat) (s : State) : Host.Outcome State Fault Refusal :=
  .next (s.issue core ctx .neg false fun e i => e.unary i fun fl a => aluSub fl 0 a false)
/-- SHL. -/
def execShl (core ctx : Nat) (s : State) : Host.Outcome State Fault Refusal := .next (s.alu3 core ctx .shl aluShl)
/-- SHR. -/
def execShr (core ctx : Nat) (s : State) : Host.Outcome State Fault Refusal := .next (s.alu3 core ctx .shr aluShr)
/-- SAR. -/
def execSar (core ctx : Nat) (s : State) : Host.Outcome State Fault Refusal := .next (s.alu3 core ctx .sar aluSar)
/-- ROL. -/
def execRol (core ctx : Nat) (s : State) : Host.Outcome State Fault Refusal := .next (s.alu3 core ctx .rol aluRol)
/-- MUL. -/
def execMul (core ctx : Nat) (s : State) : Host.Outcome State Fault Refusal := .next (s.alu3 core ctx .mul aluMul)
/-- MULHU. -/
def execMulhu (core ctx : Nat) (s : State) : Host.Outcome State Fault Refusal := .next (s.alu3 core ctx .mulhu aluMulhu)
/-- MULHS. -/
def execMulhs (core ctx : Nat) (s : State) : Host.Outcome State Fault Refusal := .next (s.alu3 core ctx .mulhs aluMulhs)
/-- DIVU. -/
def execDivu (core ctx : Nat) (s : State) : Host.Outcome State Fault Refusal := .next (s.divide core ctx .divu fun a b => a / b)
/-- REMU. -/
def execRemu (core ctx : Nat) (s : State) : Host.Outcome State Fault Refusal := .next (s.divide core ctx .remu fun a b => a % b)
/-- CMP: flags of A − B. -/
def execCmp (core ctx : Nat) (s : State) : Host.Outcome State Fault Refusal :=
  .next (s.issue core ctx .cmp false fun e i => e.test i fun f a b => aluSub f a b false)
/-- TST: flags of A and B. -/
def execTst (core ctx : Nat) (s : State) : Host.Outcome State Fault Refusal :=
  .next (s.issue core ctx .tst false fun e i => e.test i fun f a b => aluLogic f (a &&& b))

/-! ### Cornice-only (R260) -/

/-- The W of BFEXT and BFINS is in its ranges, or ILLEGAL_INSTRUCTION (R260, R261). -/
def needField (w : Word) : Except Exc Unit := if fieldOk w then .ok () else .error { vec := vIllegal }

/-- A 32-bit group from its words, low word first (R229). -/
def pairOf (l : List Word) : Word32 := BitVec.ofNat 32 ((l.getD 0 0).toNat + (l.getD 1 0).toNat * 0x10000)

/-- BFEXT. -/
def execBfext (core ctx : Nat) (s : State) : Host.Outcome State Fault Refusal :=
  .next (s.issue core ctx .bfext false fun e i => do
    let (x, e1) ← e.sources 1 i.a 2
    let (w, e2) ← e1.source 2 i.b
    let (ps, e3) ← e2.dest i.d 1
    needField w
    let (r, fl) := aluStored e3.ctx.flags (bfext (pairOf x) w (Nat.testBit i.aux 0))
    ((e3.puts ps [r]).upd fun c => c.setFlags fl).finish i)

/-- BFINS: Z when the group is 0, N its bit 31 (R246). -/
def execBfins (core ctx : Nat) (s : State) : Host.Outcome State Fault Refusal :=
  .next (s.issue core ctx .bfins false fun e i => do
    let (a, e1) ← e.source 1 i.a
    let (w, e2) ← e1.source 2 i.b
    let (l, e3) ← e2.loc 3 i.d
    let (y, e4) ← e3.readWords 3 l 2
    let ps ← e4.places 3 l 2
    needField w
    let r := bfins (pairOf y) a w
    ((e4.puts ps [BitVec.ofNat 16 r.toNat, BitVec.ofNat 16 (r.toNat / 0x10000)]).upd
      fun c => { c with z := decide (r = 0), n := bitOf r 31 }).finish i)

/-- CLZ. -/
def execClz (core ctx : Nat) (s : State) : Host.Outcome State Fault Refusal :=
  .next (s.issue core ctx .clz false fun e i => e.unary i fun fl a => aluStored fl (clz a))

/-- BPERM. -/
def execBperm (core ctx : Nat) (s : State) : Host.Outcome State Fault Refusal :=
  .next (s.issue core ctx .bperm false fun e i => do
    let (a, e1) ← e.source 1 i.a
    let (sel, e2) ← e1.sources 2 i.b 4
    let (ps, e3) ← e2.dest i.d 1
    let (r, fl) := aluStored e3.ctx.flags (bperm a sel)
    ((e3.puts ps [r]).upd fun c => c.setFlags fl).finish i)

end Sys2Proof.Machine
end

