-- ==== Sys2Proof/Machine/Completions.lean ====
section
/-! DEFINITION. The meanings of the rows of failed host reads (R70, R82, R166, R381). -/

namespace Sys2Proof.Machine
open Sys2Proof

/-- The cause of a failed read as DETAIL shows it (R166). -/
def failCode (c : ReadFail) : Nat := match c with
  | .unsupported => 2
  | .aborted => 3
  | .poisoned => 4

/-- A CCW block's read has failed: the program ends where it needs the block, now or when it reaches it (R82, R154). -/
def State.blockFails (s : State) (ch : Nat) (a : Word64) (cause : Nat) : State :=
  let s1 := s.updChan ch fun c => { c with badBlock := some (a, cause) }
  let c := s1.chan ch
  if c.st = .active ∧ c.fetched = false ∧ c.xfer.phase = .none ∧ blockOf c.ccwa = a then s1.reach ch else s1

/-- The packet read of the admin queue has failed (R381). -/
def State.packetFails (s : State) : State :=
  { s with aq := { s.aq with reading := false, st := if s.aq.st = .running then .error else s.aq.st } }

/-- What a failed read does to who asked for it (R82, R125, R154, R381, R387, R390, R391). -/
def State.reqFails (s : State) (r : ReadReq) (cause : Nat) : State :=
  match r with
  | .desc q .. | .poll q | .pcnt q => (s.queueReadFails q r).slotsGo
  | .ccw ch a => s.blockFails ch a cause
  | .data ch .. | .list ch _ => s.failAt ch stHostReadFail cause
  | .staleDesc _ => s.slotsGo
  | .stale _ => s
  | .admin => s.packetFails
  | .adminData cnt =>
    match s.aq.cmds.find? fun c => c.cnt = cnt with
    | none => s
    | some c => (s.replyBad c stHostReadFail).aqKick

/-- The read at a place among those outstanding on a module fails: its tag and units are free. -/
def State.readFails (s : State) (md idx cause : Nat) : State :=
  match (s.link md).reads[idx]? with
  | none => s
  | some r => ((((s.updLink md fun l => { l with reads := l.reads.eraseIdx idx }).reqFails r.req cause).pumpAll md)).served

/-- COMPLETION_ERROR (R82): poisoned data are recorded in AER. -/
def execCompletionError (md idx : Nat) (cause : ReadFail) (s : State) : Host.Outcome State Fault Refusal :=
  .next ((if cause = .poisoned ∧ idx < (s.link md).reads.length then s.takeHeader.2.aerUnc md 12 s.takeHeader.1 false else s).readFails md idx (failCode cause))

/-- COMPLETION_TIMEOUT (R70, R82). -/
def execCompletionTimeout (md idx : Nat) (s : State) : Host.Outcome State Fault Refusal :=
  .next ((if idx < (s.link md).reads.length then s.aerUnc md 14 0 false else s).readFails md idx 1)

end Sys2Proof.Machine
end

