-- ==== Sys2Proof/Machine/CoreSys.lean ====
section
/-! DEFINITION. The meanings of the system instructions of Thrumzeg-16: exceptions, events and waits, segment and special
registers, block moves; and the end of a stall (R235, R243 to R245, R254 to R259, R282, R283). -/

namespace Sys2Proof.Machine
open Sys2Proof

/-! ### Exceptions, EXIT (R259, R276, R282, R283) -/

/-- RETX (R282). -/
def execRetx (core ctx : Nat) (s : State) : Host.Outcome State Fault Refusal :=
  .next (s.issue core ctx .retx false fun e _ =>
    if e.ctx.depth = 0 then .error { vec := vIllegal } else .ok (e.s.retx core ctx))

/-- TRAP (R276, R280). -/
def execTrap (core ctx : Nat) (s : State) : Host.Outcome State Fault Refusal :=
  .next (s.issue core ctx .trap false fun _ i => .error { vec := 32 + i.aux, info := i.aux })

/-- EXIT is allowed at level 2, and at level 1 in a context that runs a routine and holds no interrupt TSB (R283). -/
def Ctx.mayExit (c : Ctx) : Bool := decide (2 ≤ c.pl.toNat) || (c.run.isSome && !c.inInt)

/-- The routine ends once its held register word has gone (R259); a context without a routine is FREE. -/
def Ev.exit (e : Ev) (user err : Word) : State :=
  let s1 := (e.s.sendHalf e.core e.k).updCtx e.core e.k fun c => c.spend e.cyc
  let s2 := s1.setNow e.core e.k (e.now + e.cyc)
  if e.ctx.run.isSome then s2.exitRun e.core e.k (user.toNat % 256) (err.toNat % 256) else (s2.leaveCtx e.core e.k .free).afterFree e.core

/-- EXIT (R259). -/
def execExit (core ctx : Nat) (s : State) : Host.Outcome State Fault Refusal :=
  .next (s.issue core ctx .exit false fun e i =>
    if !e.ctx.mayExit then .error { vec := vIllegal } else do
      let (u, e1) ← e.source 1 i.a
      let (r, e2) ← e1.source 2 i.b
      return e2.exit u r)

/-! ### Events and waits (R256 to R258) -/

/-- WFE (R256). -/
def execWfe (core ctx : Nat) (s : State) : Host.Outcome State Fault Refusal :=
  .next (s.issue core ctx .wfe false fun e i =>
    if e.ctx.evl then (e.upd fun c => { c with evl := false }).finish i else ({ e with flow := .wait .event } : Ev).finish i)

/-- The latches that SEV sets: of one context, or of every context of the sender's tile; any other value sets none (R256). -/
def State.sendEvent (s : State) (core : Nat) (v : Word) : State :=
  if v = 0xFFFF then
    s.each (allCores.filter fun c => tileOfCore c == tileOfCore core) fun s c => s.each (List.range (ctxCount c)) fun s k => s.setLatch c k
  else if bitsOf v 10 6 ≠ 0 then s
  else s.setLatch (bitsOf v 3 7) (bitsOf v 0 3)

/-- SEV (R256). -/
def execSev (core ctx : Nat) (s : State) : Host.Outcome State Fault Refusal :=
  .next (s.issue core ctx .sev false fun e i => do
    let (v, e1) ← e.source 1 i.a
    ({ e1 with s := e1.s.sendEvent core v } : Ev).finish i)

/-- TIME has reached a target of WAITT: TIME[31:0] − T is not negative as a signed number (R257). -/
def State.timeReached (s : State) (t : Word32) : Bool := !(bitOf (BitVec.ofNat 32 s.frm.time.toNat - t) 31)

/-- WAITT (R257). -/
def execWaitt (core ctx : Nat) (s : State) : Host.Outcome State Fault Refusal :=
  .next (s.issue core ctx .waitt false fun e i => do
    let (ws, e1) ← e.sources 1 i.a 2
    let t : Word32 := BitVec.ofNat 32 ((ws.getD 0 0).toNat + (ws.getD 1 0).toNat * 0x10000)
    if e1.s.timeReached t then e1.finish i else ({ e1 with flow := .wait (.time t) } : Ev).finish i)

/-- WAITT_EXPIRY (R257): the wait completes once TIME has reached its target. -/
def execWaittExpiry (core ctx : Nat) (s : State) : Host.Outcome State Fault Refusal :=
  .next (match (s.ctx core ctx).wait with
    | .time t =>
      if (s.ctx core ctx).st = .waiting ∧ s.timeReached t ∧ s.die = .ready then
        let e := (s.passWait core ctx).ev core ctx
        let size := match e.fetchWord e.ctx.pc with
          | .ok (w, _) => wordsOf w
          | .error _ => 1
        (e.s.updCtx core ctx fun c => { c.advance e.now size with st := .ready, wait := .nothing }).arrange core
      else s
    | _ => s)

/-! ### Segment and special registers (R235, R244, R245) -/

/-- LSEG (R235, R273). -/
def execLseg (core ctx : Nat) (s : State) : Host.Outcome State Fault Refusal :=
  .next (s.issue core ctx .lseg false fun e i => do
    let (ws, e1) ← e.sources 1 i.a 3
    let x := segOf (ws.getD 0 0) (ws.getD 1 0) (ws.getD 2 0) true false false false
    if bitOf x.base 0 || decide (0xFFFFFFFF < x.base.toNat + 2 * x.limit.toNat + 1) then
      .error { vec := vSegment, info := accInfo 1 i.aux, openAddr := true }
    (e1.upd fun c => (c.cover e.now (.seg i.aux) 0 (c.segReg i.aux) 3 3).setSeg i.aux x).finish i)

/-- SSEG (R235): a segment that is not valid writes three zero words. -/
def execSseg (core ctx : Nat) (s : State) : Host.Outcome State Fault Refusal :=
  .next (s.issue core ctx .sseg false fun e i => do
    let (ps, e1) ← e.dest i.d 3
    let x := e1.ctx.segReg i.aux
    (e1.puts ps (if x.v then x.words else [0, 0, 0])).finish i)

/-- CTXID (R244). -/
def ctxid (core k : Nat) : Word := BitVec.ofNat 16 (k + core * 8)

/-- BOUND_LEFT (R244): an open value for a context that runs no routine. -/
def State.boundLeft (s : State) (core k : Nat) : Word × State :=
  let c := s.ctx core k
  if c.run.isNone then s.takeWord else (if 1048560 < c.left then 0xFFFF else BitVec.ofNat 16 (c.left / 16), s)

/-- FEAT0 to FEAT3 by half (R244). -/
def featHalf (i : Nat) : Word :=
  let w : Nat := match i / 2 with
    | 0 => 0x00223F01
    | 1 => 0x0000003F
    | 2 => 0x00200010
    | _ => 0x7D190440
  BitVec.ofNat 16 (if i % 2 = 0 then w % 0x10000 else w / 0x10000)

/-- The value of a special register (R244). -/
def State.sreg (s : State) (core k n : Nat) : Word × State :=
  let c := s.ctx core k
  match n with
  | 0x00 => (c.statusWord, s)
  | 0x01 => (c.wp, s)
  | 0x02 => (c.pc, s)
  | 0x03 => (ctxid core k, s)
  | 0x0D => (c.vtb, s)
  | 0x0E => (c.tsbr, s)
  | 0x0F => s.boundLeft core k
  | _ => (if n < 0x0D then c.loops.get 0 (n - 4) else featHalf (n - 0x10), s)

/-- MFSR (R244). -/
def execMfsr (core ctx : Nat) (s : State) : Host.Outcome State Fault Refusal :=
  .next (s.issue core ctx .mfsr false fun e i => do
    let (ps, e1) ← e.dest i.d 1
    let (v, s2) := e1.s.sreg core ctx i.aux
    (({ e1 with s := s2 } : Ev).puts ps [v]).finish i)

/-- A special register written, with its distance (R244, R245, R273). -/
def Ctx.putSreg (c : Ctx) (now n : Nat) (v : Word) : Ctx :=
  match n with
  | 0x00 => { c with c := bitOf v 0, z := bitOf v 1, n := bitOf v 2, v := bitOf v 3 }
  | 0x01 => { c.cover now .wp c.wp {} 3 3 with wp := v }
  | 0x0D => { c.cover now .vtb c.vtb {} 3 3 with vtb := v }
  | 0x0E => { c.cover now .tsbr c.tsbr {} 3 3 with tsbr := v }
  | _ => { c.cover now (.loopReg (n - 4)) (c.loops.get 0 (n - 4)) {} 2 2 with loops := c.loops.set (n - 4) v }

/-- MTSR (R244). -/
def execMtsr (core ctx : Nat) (s : State) : Host.Outcome State Fault Refusal :=
  .next (s.issue core ctx .mtsr false fun e i => do
    let (v, e1) ← e.source 1 i.a
    (e1.upd fun c => c.putSreg e.now i.aux v).finish i)

/-! ### Block move and fill (R254, R255) -/

/-- The mnemonic of a block instruction. -/
def Block.op (x : Block) : Op := if x.aseg.isSome then .movb else .fillb

/-- The address of a word of memory that a place is. -/
def Place.addr (p : Place) : Option Nat :=
  match p with
  | .mem a => some a
  | .chain a _ _ _ => some a
  | _ => none

/-- A block instruction after a word written at a place: its pointers, the words left, and the pointer update of A's specifier, which
stands once a written word takes its slot. -/
def Block.next (x : Block) (p : Place) : Block :=
  { x with dptr := x.dptr + 1, aptr := x.aptr + 1, n := x.n - 1,
           undo := x.undo.filter fun u => [p, x.pd, x.pa, x.pn].all fun q => q.addr != some u.1 }

/-- One word of a block instruction: the source is read, the destination written, then the pointers and N (R254); PRIVILEGE of the
destination ranks before the faults of the source (R261). -/
def Ev.moveWord (e : Ev) (x : Block) : Except Exc (Place × Ev) := do
  if e.sealedAt 3 x.dseg x.dptr false then .error { vec := vPrivilege }
  let (v, e1) ← match x.aseg with
    | some g => e.read 1 g x.aptr false
    | none => .ok (x.fill, e)
  let p ← e1.place 3 x.dseg x.dptr false true
  let e2 := e1.put p v
  let e3 := if x.aseg.isSome then e2.put x.pa (x.aptr + 1) else e2
  return (p, { (e3.put x.pd (x.dptr + 1)).put x.pn (BitVec.ofNat 16 (x.n - 1)) with cyc := e.cyc + x.each })

/-- A word of a block instruction is refused: RSM is 1, and what A's specifier updated is as it was (R242, R255). -/
def Ev.stopBlock (e : Ev) (x : Block) (t : Exc) : State :=
  let s1 := match x.undo with
    | none => e.s
    | some (a, v) => e.s.storeWord a v
  (s1.updCtx e.core e.k fun c => { c with rsm := true, block := none }).raise e.core e.k t

/-- A block instruction moves its next word, or completes with none left (R254, R255). -/
def Ev.moveNext (e : Ev) (i : Ins) (x : Block) : Except Exc State :=
  if x.n = 0 then (e.upd fun c => { c with rsm := false }).finish i else
  match e.moveWord x with
  | .error t => .ok (e.stopBlock x t)
  | .ok (p, e1) =>
    if e1.block || x.n = 1 then (e1.upd fun c => { c with rsm := false, block := none }).finish i
    else ({ e1.upd fun c => { c with block := some (x.next p) } with flow := .stay } : Ev).finish i

/-- A block instruction between two of its words goes on with the next one (R255). -/
def State.blockNext (s : State) (core k : Nat) (x : Block) : State :=
  let s0 := s.updCtx core k fun c => c.dropStale (s.now core k)
  let e : Ev := { s0.ev core k with s := s0.movePtr core k, since := x.since, cyc := 0 }
  (s0.movePtr core k).settleIns core k (e.moveNext { op := x.op, size := 4, cyc := 0, ok := true } x)

/-- A row of MOVB or FILLB: the instruction begins, or its next word is moved (R255). -/
def State.issueBlock (s : State) (core k : Nat) (op : Op) (body : Ev → Ins → Except Exc State) : State :=
  let s0 := s.arrange core
  match (s0.ctx core k).block with
  | none => s.issue core k op false body
  | some x => if s0.ctxTurn core k && x.op = op then (s0.blockNext core k x).arrange core else s

/-- MOVB (R254): N and the pointer slots are read and checked before any data word. -/
def execMovb (core ctx : Nat) (s : State) : Host.Outcome State Fault Refusal :=
  .next (s.issueBlock core ctx .movb fun e i => do
    let pa ← e.place 1 0 (e.slotOff (spSlot i.a)) false true
    let (sp, e1) ← e.read 1 0 (e.slotOff (spSlot i.a)) false
    let (l, e2) ← e1.loc 2 i.b
    let pn ← e2.place 2 l.seg l.off false true
    let (n, e3) ← e2.read 2 l.seg l.off false
    let pd ← e3.place 3 0 (e3.slotOff (spSlot i.d)) false true
    let (dp, e4) ← e3.read 3 0 (e3.slotOff (spSlot i.d)) false
    if pn = pa ∨ pn = pd ∨ pa = pd then .error { vec := vIllegal }
    e4.moveNext i { dseg := spSeg i.d, dptr := dp, aseg := some (spSeg i.a), aptr := sp, fill := 0, pd, pa, pn, n := n.toNat, each := 2,
                    since := e.now, undo := none })

/-- The slot that the pointer update of a specifier changes, with its value before (R240). -/
def Ev.pointerBefore (e : Ev) (acc : Nat) (x : Word) : Option (Nat × Word) :=
  if spMode x = 3 ∨ spMode x = 4 then
    match e.place acc 0 (e.slotOff (spSlot x)) false true with
    | .ok p => p.addr.map fun a => (a, e.s.wordAt a)
    | .error _ => none
  else none

/-- FILLB (R254): A is read each time the instruction starts or resumes. -/
def execFillb (core ctx : Nat) (s : State) : Host.Outcome State Fault Refusal :=
  .next (s.issueBlock core ctx .fillb fun e i => do
    let undo := e.pointerBefore 1 i.a
    let (v, e1) ← e.source 1 i.a
    let (l, e2) ← e1.loc 2 i.b
    let pn ← e2.place 2 l.seg l.off false true
    let (n, e3) ← e2.read 2 l.seg l.off false
    let pd ← e3.place 3 0 (e3.slotOff (spSlot i.d)) false true
    let (dp, e4) ← e3.read 3 0 (e3.slotOff (spSlot i.d)) false
    if pn = pd then .error { vec := vIllegal }
    e4.moveNext i { dseg := spSeg i.d, dptr := dp, aseg := none, aptr := 0, fill := v, pd, pa := pd, pn, n := n.toNat, each := 1,
                    since := e.now, undo })

/-! ### The end of a stall (R243, R273) -/

/-- CORE_READ_COMPLETE (R243): the stall ends after a number of cycles, which the bound is charged. -/
def execCoreReadComplete (core ctx cycles : Nat) (s : State) : Host.Outcome State Fault Refusal :=
  .next (let c := s.ctx core ctx
    if c.st ≠ .stalled ∨ s.die ≠ .ready then s else
    let s1 := s.setCtx core ctx { (c.shiftStale c.stallAt cycles).spend cycles with st := if c.wait = .nothing then .ready else .waiting }
    ((s1.setNow core ctx (max (s.now core ctx) (c.stallEnd + cycles))).mark core ctx).arrange core)

end Sys2Proof.Machine
end

