-- ==== Sys2Proof/Machine/Debugs.lean ====
section
/-! DEFINITION. The rows of the debug access port (R503). -/

namespace Sys2Proof.Machine
open Sys2Proof

/-- The debug master (R49). -/
def midDebug : Nat := 0x1FF

/-- The DBG_ACCESS data register after an access: DATA as read, GO 0 (R503). -/
def dbgDone (dr : BitVec 66) (data : Nat) : BitVec 66 :=
  BitVec.ofNat 66 (data % 0x100000000 + bitsOf dr 32 32 * 0x100000000 + b2n (bitOf dr 64) * 0x10000000000000000)

/-- Update-DR with DBG_ACCESS: with GO = 1 one 4 B access; where nothing serves it, GO stays 1 (R425, R503). -/
def State.dbgAccess (s : State) (dr : BitVec 66) : State :=
  let off := bitsOf dr 32 32
  let data := bitsOf dr 0 32
  let s1 : State := { s with tap := { s.tap with ir := 4, dr } }
  if !(bitOf dr 65) || !(s1.admits midDebug off) then s1
  else if bitOf dr 64 then
    let s2 := s1.bar0Write midDebug 0 off 4 (BitVec.ofNat 64 data)
    { s2 with tap := { s2.tap with dr := dbgDone dr data } }
  else
    let s2 := s1.bar0Read midDebug 0 off 4
    { s2 with tap := { s2.tap with dr := dbgDone dr s2.readOut.toNat } }

/-- DBG_ACCESS (R503). -/
def execDbgAccess (dr : BitVec 66) (s : State) : Host.Outcome State Fault Refusal := .next (s.dbgAccess dr)

/-- IDCODE (R503): version 1, part 0x4096, Alafiom 0x50F. -/
def execIdcode (s : State) : Host.Outcome State Fault Refusal := .next { s with tap := { s.tap with ir := 3, dr := 0x14096A1F } }

/-- BYPASS (R503): the one-bit register captures 0. -/
def execBypass (s : State) : Host.Outcome State Fault Refusal := .next { s with tap := { s.tap with ir := 0, dr := 0 } }

/-- SAMPLE_PRELOAD (R503): the boundary-scan cells take the values sampled or preloaded. -/
def execSamplePreload (pins : List Bool) (s : State) : Host.Outcome State Fault Refusal :=
  .next { s with tap := { s.tap with ir := 1, scan := pins } }

/-- EXTEST (R503): while it is in force the bumps are driven by the boundary-scan cells. -/
def execExtest (s : State) : Host.Outcome State Fault Refusal := .next { s with tap := { s.tap with ir := 2 } }

end Sys2Proof.Machine
end

