-- ==== Sys2Proof/Machine/Jumps.lean ====
section
/-! DEFINITION. The meanings of the skips, jumps, calls and loops of Thrumzeg-16 (R247, R249, R250, R253). -/

namespace Sys2Proof.Machine
open Sys2Proof

/-- A comparing skip of the short form, by its code among the long ones. -/
def State.skip (s : State) (core ctx : Nat) (op : Op) (code : Nat) : State :=
  s.issue core ctx op false fun e i => e.skipIf i (compares code)

/-- SEQ. -/
def execSeq (core ctx : Nat) (s : State) : Host.Outcome State Fault Refusal := .next (s.skip core ctx .seq 0)
/-- SNE. -/
def execSne (core ctx : Nat) (s : State) : Host.Outcome State Fault Refusal := .next (s.skip core ctx .sne 1)
/-- SLT. -/
def execSlt (core ctx : Nat) (s : State) : Host.Outcome State Fault Refusal := .next (s.skip core ctx .slt 2)
/-- SGE. -/
def execSge (core ctx : Nat) (s : State) : Host.Outcome State Fault Refusal := .next (s.skip core ctx .sge 3)
/-- SLTU. -/
def execSltu (core ctx : Nat) (s : State) : Host.Outcome State Fault Refusal := .next (s.skip core ctx .sltu 4)
/-- SGEU. -/
def execSgeu (core ctx : Nat) (s : State) : Host.Outcome State Fault Refusal := .next (s.skip core ctx .sgeu 5)
/-- SBS. -/
def execSbs (core ctx : Nat) (s : State) : Host.Outcome State Fault Refusal := .next (s.skip core ctx .sbs 6)
/-- SBZ. -/
def execSbz (core ctx : Nat) (s : State) : Host.Outcome State Fault Refusal := .next (s.skip core ctx .sbz 7)
/-- Sxx, the long form: AUX names the comparison. -/
def execSxx (core ctx : Nat) (s : State) : Host.Outcome State Fault Refusal :=
  .next (s.issue core ctx .sxx false fun e i => e.skipIf i (compares i.aux))
/-- SKF: a condition on the flags. -/
def execSkf (core ctx : Nat) (s : State) : Host.Outcome State Fault Refusal :=
  .next (s.issue core ctx .skf false fun e i => ({ e with flow := if e.ctx.flags.holds i.aux then .skip else .seq } : Ev).finish i)

/-- The return address of a call: the instruction after the delay slot (R250). Where the delay slot cannot be fetched its length
is an open value. -/
def Ev.returnAddr (e : Ev) (i : Ins) : Word × Ev :=
  let next := e.ctx.pc + BitVec.ofNat 16 i.size
  match e.fetchWord next with
  | .ok (w, e1) => (next + BitVec.ofNat 16 (wordsOf w), e1)
  | .error _ => let (w, s1) := e.s.takeWord; (w, { e with s := s1 })

/-- A jump to a target, with w31 written first for a call (R250). -/
def Ev.jumpTo (e : Ev) (i : Ins) (t : Word) (call : Bool) : Except Exc State :=
  if call then do
    let (ra, e1) := e.returnAddr i
    let (ps, e2) ← e1.dest 31 1
    ({ e2.puts ps [ra] with flow := .jump t } : Ev).finish i
  else ({ e with flow := .jump t } : Ev).finish i

/-- A jump whose target is the word at A. -/
def State.jumpA (s : State) (core ctx : Nat) (op : Op) (call : Bool) : State :=
  s.issue core ctx op false fun e i => do
    let (t, e1) ← e.source 1 i.a
    e1.jumpTo i t call

/-- JMPR. -/
def execJmpr (core ctx : Nat) (s : State) : Host.Outcome State Fault Refusal := .next (s.jumpA core ctx .jmpr false)
/-- CALLR. -/
def execCallr (core ctx : Nat) (s : State) : Host.Outcome State Fault Refusal := .next (s.jumpA core ctx .callr true)
/-- RET: to w31. -/
def execRet (core ctx : Nat) (s : State) : Host.Outcome State Fault Refusal := .next (s.jumpA core ctx .ret false)
/-- JMP. -/
def execJmp (core ctx : Nat) (s : State) : Host.Outcome State Fault Refusal := .next (s.jumpA core ctx .jmp false)
/-- CALL. -/
def execCall (core ctx : Nat) (s : State) : Host.Outcome State Fault Refusal := .next (s.jumpA core ctx .call true)
/-- JMPK. -/
def execJmpk (core ctx : Nat) (s : State) : Host.Outcome State Fault Refusal :=
  .next (s.issue core ctx .jmpk false fun e i => e.jumpTo i i.k false)
/-- CALLK. -/
def execCallk (core ctx : Nat) (s : State) : Host.Outcome State Fault Refusal :=
  .next (s.issue core ctx .callk false fun e i => e.jumpTo i i.k true)

/-- The loop registers of loop k as LOOP sets them: seen at once (R253). -/
def Ctx.setLoop (c : Ctx) (k : Nat) (ls le lc : Word) : Ctx :=
  { c with loops := ((c.loops.set k ls).set (3 + k) le).set (6 + k) lc,
           stale := c.stale.filter fun x => x.key ≠ .loopReg k && x.key ≠ .loopReg (3 + k) && x.key ≠ .loopReg (6 + k) }

/-- LOOP (R253): with N = 0 execution goes on after the instruction at e, whose first word is fetched for its length. -/
def execLoop (core ctx : Nat) (s : State) : Host.Outcome State Fault Refusal :=
  .next (s.issue core ctx .loop false fun e i => do
    let start := e.ctx.pc + 4
    if i.k.toNat ≤ start.toNat then .error { vec := vIllegal }
    let (n, e1) ← e.source 2 i.b
    let e2 := e1.upd fun c => c.setLoop i.aux start i.k n
    if n = 0 then
      let (w, e3) ← e2.fetchWord i.k
      ({ e3 with flow := .goto (i.k + BitVec.ofNat 16 (wordsOf w)), cyc := e.cyc + 2 } : Ev).finish i
    else e2.finish i)

end Sys2Proof.Machine
end

