-- ==== Sys2Proof/Machine/PairOps.lean ====
section
/-! DEFINITION. The pair: violations, acknowledgements and gates, marking the partner out of sync, detection, and taking over (R177,
R195 to R197, R448 to R475). -/

namespace Sys2Proof.Machine
open Sys2Proof

/-- Master ID of the pair partner (R49). -/
def midPair : Nat := 0x110

/-- A pair-partner violation: counted, latched and journalled (R459). -/
def State.pairViol (s : State) (reason : Nat) : State :=
  { s with ds := { s.ds with viol := satInc s.ds.viol, last := BitVec.ofNat 8 reason } }.journalRec stViolation false false false midPair
    (0xFD + reason * 256)

/-! ### Commands of the pair that wait -/

/-- The command of an opcode that only waits for its end. -/
def State.waitingCmd (s : State) (opc : Nat) : Option AdmCmd := s.aq.cmds.find? fun c => c.opc == opc && c.waits

/-- A command of the pair that waits is replied to, and the FWC goes on with those behind it. -/
def State.replyWaiting (s : State) (opc : Nat) (code : BitVec 16) (res : List Nat) : State :=
  match s.waitingCmd opc with
  | none => s
  | some c => (s.replyAdm c code 0xFF res none).aqKick

/-- RES0 and RES1 of the pair commands: the frame at which a change took effect. -/
def frameRes (f : Nat) : List Nat := [f % 0x100000000, f / 0x100000000]

/-! ### Acknowledgements and gates (R177, R457) -/

/-- Frames up to and including a SEQ, and those behind it; none where the SEQ is not among them. -/
def splitAck (l : List TxFrame) (a : BitVec 16) : Option (List TxFrame × List TxFrame) :=
  match l with
  | [] => none
  | f :: r => if f.seq = a then some ([f], r) else (splitAck r a).map fun p => (f :: p.1, p.2)

/-- The channels whose gate waits for a frame that passes a test go on (R177). -/
def State.openChans (s : State) (p : Nat → Bool) : State :=
  s.each ((s.chans.filter fun e => e.2.xfer.gate.any p).map (·.1)) fun s ch => s.gateOpen ch

/-- Gates open: those of records first, then those of effects; what waited for a ledger entry goes on. -/
def State.openSet (s : State) (p : Nat → Bool) : State :=
  (((s.openGates p).openChans p).releaseFor fun w => w = .ledger).aqKick

/-- The channel and GEN that a LATH frame carries, from the layout of R456 and R469. -/
def TxFrame.gen (f : TxFrame) : Option (Nat × Nat) :=
  match f.ty, f.body with
  | .lath, .bytes b => some (ofLeBytes (b.take 2) % 4096, ofLeBytes ((b.drop 76).take 2))
  | _, _ => none

/-- Ledger entries of old anchors whose new GEN the acknowledged frames carry return to FREE (R470). -/
def State.freeOldGen (s : State) (l : List TxFrame) : State :=
  let known (e : LEntry) : Bool := l.any fun f => f.gen = some (e.ch, (s.chan e.ch).gen.toNat)
  { s with ledger := s.ledger.filter fun e => e.2.gen == (s.chan e.2.ch).gen || !(known e.2) }

/-- The longest wait of the gates that the acknowledged frames open (DS_GATE.ACK_MAX). -/
def State.noteGates (s : State) (l : List TxFrame) : State :=
  let gate (q : Nat) : Bool := (s.ds.gated.any fun g => g.id = q) || s.chans.any fun e => e.2.xfer.gate = some q
  let w := (l.filter fun f => gate f.id).foldl (fun n f => max n (s.frm.time - f.madeAt).toNat) s.ds.ackMax.toNat
  { s with ds := { s.ds with ackMax := BitVec.ofNat 16 (min w 0xFFFF) } }

/-- An ACK value: every frame up to it is acknowledged, and the gates behind it open (R457), unless a fence pulse has them wait (R450). -/
def State.ackTo (s : State) (a : BitVec 16) : State :=
  match splitAck s.ds.unacked a with
  | none => s
  | some (old, rest) =>
    let s1 := (s.noteGates old).freeOldGen old
    let s2 : State := { s1 with ds := Ds.flush { s1.ds with unacked := rest } }
    if s2.ds.pulse.isSome then s2 else s2.openSet fun q => !((rest ++ s1.ds.txWait).any fun f => f.id = q)

/-! ### Out of sync (R450, R459, R464) -/

/-- Every effect that was opened under a gate takes an MRAM ledger slot, while one is free (R178, R432). -/
def State.giveSlots (s : State) : State := s.each ((s.chans.filter fun e => e.2.xfer.slot.isSome).map (·.1)) fun s ch => s.giveSlot ch

/-- An ACTIVE die marks its partner out of sync (R464): the fence pulse, which releases FENCE_OUT_N, and source 0x406; a join or a handover
in progress ends, and old entries return to FREE (R470). -/
def State.markOut (s : State) : State :=
  if s.ds.role ≠ 1 ∨ s.ds.sub = 2 then s else
  let s1 : State := { s with
    ds := { s.ds with sub := 2, joinStep := 0, handing := false, handDue := false, peerMiss := 0, fenceOut := false, pulse := some s.frm.time, sliceDue := [],
                      liveStep := if s.ds.liveStep = 2 then 1 else s.ds.liveStep },
    ledger := s.ledger.filter fun e => e.2.gen == (s.chan e.2.ch).gen }
  ((s1.pulse 0x406).giveSlots).replyWaiting 0x82 stPairUnavailable []

/-- A fence pulse goes on (R450): after 1 µs FENCE_OUT_N is driven low again, and 1 µs later the gates open. -/
def State.fenceStep (s : State) : State :=
  match s.ds.pulse with
  | none => s
  | some t =>
    let d := (s.frm.time - t).toNat
    if d < 100 then s
    else if d < 200 then { s with ds := { s.ds with fenceOut := true } }
    else (({ s with ds := { s.ds with fenceOut := true, pulse := none } } : State).openSet fun _ => true).served

/-- The die drives the field without a partner after a PAIR_LEAVE (R474): nothing waits for an acknowledgement any more. -/
def State.goAlone (s : State) : State :=
  let s1 : State := { s with ds := { s.ds with role := 0, sub := 0, joinStep := 0, handing := false, handDue := false, liveStep := 0, unacked := [], txWait := [],
                                               fenceOut := true, pulse := none, sliceDue := [] },
                             prm := { s.prm with activating := s.prm.activating && s.ds.liveStep = 0 } }
  ((((s1.pulse 0x406).giveSlots).openSet fun _ => true).replyWaiting 0x82 stPairUnavailable []).replyWaiting 0x52 stPairUnavailable []

/-- A standby enters OUT_OF_SYNC; a join in progress ends (R450, R463, R472). -/
def State.toOut (s : State) : State :=
  let s1 : State := { s with ds := { s.ds with sub := 2, joinStep := 0, watching := false, handDue := false } }
  (s1.pulse 0x406).replyWaiting 0x81 stPairUnavailable []

/-- ESCALATE as the response to a pair-partner violation (R459): source 0x406 is raised on either die. -/
def State.escalate (s : State) : State :=
  if s.ds.role = 1 then (if s.ds.sub = 2 then s.pulse 0x406 else s.markOut) else if s.ds.role = 2 then s.toOut else s

/-- NACK names the SEQ expected (R457). -/
def State.sendNack (s : State) : State :=
  { s with ds := { s.ds with ctl := some (.nack s.ds.ackVal s.ds.rxSeq), ackOut := s.ds.ackVal } }

/-- An ACK frame is sent, where no frame sent meanwhile carries the ACK (R457). -/
def State.sendAck (s : State) : State :=
  if s.die ≠ .ready ∨ s.dsUp = false ∨ s.ds.ackVal = s.ds.ackOut then s
  else { s with ds := { s.ds with ctl := some (.ack s.ds.ackVal), ackOut := s.ds.ackVal } }

/-- A frame arrives (R455, R457, R459): its CRC, its ACK, its SEQ, its LEN and its FRAME are judged in this order, then it is applied and
acknowledged. A frame with a bad CRC or behind a gap is discarded and answered by NACK, one seen before is discarded; one whose LEN is
not allowed counts as received and is not applied. -/
def State.recv (s : State) (h : DsHdr) (numbered : Bool) (k : State → State) : State :=
  if s.die ≠ .ready ∨ s.dsUp = false then s
  else if !h.crcOk then (s.pairViol 1).sendNack
  else
    let s1 := s.ackTo h.ack
    let d := (h.seq - s1.ds.rxSeq).toInt
    if numbered && d ≠ 0 then (if 0 < d then (s1.pairViol 2).sendNack else s1)
    else
      let s2 : State := if numbered then { s1 with ds := { s1.ds with rxSeq := s1.ds.rxSeq + 1 } } else s1
      if !h.lenOk then (s2.pairViol 4).escalate.sendAck
      else
        let far := ((h.frame.toNat : Int) - s2.frm.frame.toNat).natAbs
        (k (if 1 < far then (s2.pairViol 5).escalate else s2)).sendAck

/-! ### Taking over (R195 to R197, R465, R471, R473, R484) -/

/-- What a standby holds of a program is only its Lath state: every running program waits to be taken up. -/
def Chan.asMirrored (c : Chan) : Chan :=
  { c with parked := false, why := .none, inRun := false, began := none, waiting := [], blocks := [], badBlock := none, fetched := false,
           inChain := false, suOnce := false, afterJump := false, due := none, ending := none, xfer := {}, takeDue := false,
           lastPort := none, released := false }

/-- The producer count of every enabled INDEX queue is read, then the entries of every enabled queue from HEAD to FETCH are read again; the
completion sources are raised (R105, R195). -/
def State.readBack (s : State) : State :=
  let qs := (s.queues.filter fun e => e.2.st ≠ .disabled).map (·.1)
  let s1 := s.each qs fun s q => s.updQ q fun x =>
    { x with bound := [], onDie := [], part := [], fence := none, lastHead := none, wantPcnt := false, retake := x.head ≠ x.fetch, reading := false }
  let s2 := s1.each qs fun s q => if (s.q q).phase then s else s.askPcnt q
  let s3 := s2.each qs fun s q =>
    let x := s.q q
    if x.retake then s.askDesc q x.head (x.againSpan x.head) true else s.kick q
  s3.each qs fun s q => s.pulse q

/-- Every record of the mirror that lies behind the last acknowledged point is written again in its order (R195). -/
def State.rewrite (s : State) : State := s.each s.ds.mirror fun s r => s.send r.md .msg r.addr r.bytes false

/-- The ports that the configuration in force enables are UP, or in FAULT (R465). -/
def State.portsOn (s : State) : State :=
  s.each ((s.ports.filter fun e => e.2.wanted && e.2.st = 0).map (·.1)) fun s p => s.upOrFault p

/-- TAKEOVER is journalled (R430): the frame of detection and the reason. -/
def State.journalTake (s : State) (frame reason : Nat) : State := s.journalRec stTakeover true false false midFwc (frame + reason <<< 48)

/-- The frame timer runs on its own from now on: TIME, frame number and ADJ stay, and HOLDOVER is set and lasts until the own SRC has
locked (R208). -/
def Frm.own (f : Frm) : Frm := { f with pairLock := false, locked := false, goodEdges := 0, noEdge := 0, taken := true, holdover := true }

/-- The frame timer runs on its own, and the source of HOLDOVER and LOCKED pulses (R208, R322). -/
def State.ownTime (s : State) : State :=
  let s1 : State := { s with frm := s.frm.own }
  if s.frm.holdover && !s.frm.locked then s1 else s1.pulse 0x402

/-- Every level source is looked at afresh (R338): in service nowhere, and pending as its line says. -/
def State.freshLevels (s : State) : State :=
  let l := (s.srcs.map (·.1)).filter fun n => s.srcLevelSense n
  ({ s with srcs := s.srcs.mapVals fun n x => if l.contains n then { x with pend := false, act := false, offer := false, loc := 0x7F, due := false } else x,
            targets := s.targets.mapVals fun _ g => { g with service := g.service.filter fun e => !l.contains e.1 } } : State).each l fun s n => s.levelEval n

/-- The die drives the field from now on (R195, R465, R473, R484): it holds what the mirror shows, the contents of the Hawk and of the
mailboxes are gone, and dispatch begins at the next tick. -/
def State.becomeActive (s : State) (role sub : BitVec 2) (take : Nat) (handed : Bool) : State :=
  let s1 : State := { s with
    ds := { s.ds with role, sub, fenceOut := true, take := BitVec.ofNat 32 take, taking := true, handed, watching := false, joinStep := 0,
                      miss := 0, peerMiss := 0, handDue := false, handing := false },
    chans := s.chans.mapVals fun _ c => c.asMirrored,
    sems := s.sems.mapVals fun _ x => { x with value := 0 },
    kmd := { s.kmd with seq := s.kmd.seq + 65536, cache := [] } }
  (s1.loseHawk.freshLevels).ownTime

/-- An IN_SYNC standby takes over (R195, R465), every semaphore free (R314): it becomes ALONE and keeps its own tick, with HOLDOVER set (R208). -/
def State.takeover (s : State) (reason : Nat) : State :=
  let f := s.frm.frame.toNat
  let s1 := (s.becomeActive 0 0 (f + 1) false).journalTake f reason
  let s2 : State := { s1 with ds := { s1.ds with unacked := [], txWait := [], gated := [] } }
  (((s2.pulse 0x406).rewrite).readBack).portsOn

/-- The partner is not heard or halts (R463): an IN_SYNC standby takes over where FENCE_IN_N is high, every other one is OUT_OF_SYNC; a
HANDOVER that has arrived comes first (R475). -/
def State.detect (s : State) (reason : Nat) : State :=
  if s.ds.handDue then s else if s.ds.sub = 1 && !s.ds.fenceIn then s.takeover reason else s.toOut

/-- The open effect with RS = 0 of a channel (R471). -/
def State.openEnd (s : State) (ch : Nat) : Option LEntry :=
  let c := s.chan ch
  (s.ledger.find? fun e => e.2.ch == ch && e.2.gen == c.gen && e.2.st = 1 && !e.2.rs).map (·.2)

/-- A program that was STATUS_PENDING ends (R196): a record that the mirror holds has been written again with the others (R195), and the
channel enters its end state; else the record is made again from the Lath entry, which does not hold its DETAIL (log 102). -/
def State.finalAgain (s : State) (ch : Nat) : State :=
  let c := s.chan ch
  match c.began with
  | none => s
  | some (q, cnt, _) =>
    if (s.q q).seen.contains cnt then ((s.updChan ch fun c => { c with began := none }).finalStands q cnt ch c.lastStatus).settled
    else if detailed c.lastStatus then s.takeWord.2.endProgram ch c.lastStatus c.remain s.takeWord.1.toNat
    else s.endProgram ch c.lastStatus c.remain 0

/-- A channel is taken up after a takeover (R196, R197, R471), or goes on where it stood after an exchange (R473). -/
def State.takeUp (s : State) (ch : Nat) : State :=
  let c := s.chan ch
  let s0 := s.updChan ch fun c => { c with takeDue := false }
  if !c.takeDue then s
  else match c.st with
    | .statusPending => s0.finalAgain ch
    | .active | .waitTick | .waitEvent =>
      match s0.openEnd ch with
      | some e => (s0.updChan ch fun c => { c with ccwa := e.ccw }).endProgram ch stIndeterminate c.remain s.ds.take.toNat
      | none =>
        (s0.goChan ch fun c =>
          if s.ds.handed then { c with st := .active, mask := 0 }
          else { c with st := .active, mask := 0, ccwa := c.anchor, replayTo := c.nextOrd.toNat, nextOrd := 0 }).reach ch
    | _ => s0

/-- Every channel whose entry has been read again is taken up, once dispatch has begun (R465). -/
def State.takeUpAll (s : State) : State :=
  if s.ds.taking || s.hold || s.die ≠ .ready then s
  else s.each ((s.chans.filter fun e => e.2.takeDue).map (·.1)) fun s ch => s.takeUp ch

/-- DESCRIPTOR_READ_COMPLETE (R115, R195). -/
def execDescriptorReadComplete (q : Nat) (slots : List (BitVec 128)) (s : State) : Host.Outcome State Fault Refusal :=
  .next ((s.slotsBack q slots).takeUpAll).served

/-! ### Exchange of roles (R441, R473) -/

/-- Nothing is left that a handover waits for: units, routines and records have run to their end, and all of it is acknowledged. -/
def State.handQuiet (s : State) : Bool :=
  s.ds.gated.isEmpty && ((s.ds.unacked ++ s.ds.txWait).all fun f => f.ty = .heartbeat || f.ty = .boundary)
    && (s.ledger.all fun e => e.2.st ≠ 1) && s.chans.all fun e => !e.2.inRun && e.2.xfer.phase != .wire

/-- The queues of a die that stops driving the field: what it knows of finished entries stays as a standby keeps it. -/
def Queue.asMirrored (q : Queue) : Queue :=
  { q with seen := (q.bound.filter fun e => e.done).map fun e => e.cnt, bound := [], onDie := [], part := [], fence := none, wantPcnt := false,
           retake := false, reading := false, wantRead := none, turnLeft := 0, failing := 0 }

/-- What a module still reads for queues and channels is discarded when it comes, and what waits is not asked for (R449). -/
def Link.staleWork (l : Link) : Link :=
  { l with waiting := l.waiting.filter fun r => match r.req with
             | .admin | .adminData _ => true
             | _ => false,
           reads := l.reads.map fun r => match r.req with
             | .desc q .. | .poll q => { r with req := .staleDesc q }
             | .ccw ch _ | .data ch .. | .list ch _ => { r with req := .stale ch }
             | _ => r }

/-- The reply to a live activation as it is to be written, with the module that it goes to (R376, R441). -/
def State.liveWord (s : State) (c : AdmCmd) (f : Nat) : Nat × Egress :=
  let a := s.aq
  let b := c.reply stOk 0xFF (frameRes f)
  (s.aqModule, { kind := .admin c.cnt, addr := a.rring + BitVec.ofNat 64 (32 * (a.rprod.toNat % a.replySlots)),
                 bytes := b.take 5 ++ [BitVec.ofNat 8 (a.phase a.rprod)] ++ b.drop 6, eqs := 0, relaxed := false })

/-- The old active becomes STANDBY, IN_SYNC, with its ports at their safe state; a live activation restarts it (R441, R449, R473). -/
def State.standDown (s : State) : State :=
  let f := s.frm.frame.toNat
  let s1 := s.dsSend .handover false (.bytes (leBytes 4 s.link0.ackEqs.toNat ++ leBytes 4 s.link1.ackEqs.toNat))
  let live := s1.ds.liveStep = 2
  let s2 : State := { s1 with
    ds := { s1.ds with role := 2, sub := 1, fenceOut := false, take := BitVec.ofNat 32 f, handing := false, joinStep := 0, mirror := [], liveStep := 0 },
    chans := s1.chans.mapVals fun _ c => c.asMirrored, queues := s1.queues.mapVals fun _ q => q.asMirrored,
    frm := { s1.frm with syncPin := false, pairLock := false },
    link0 := s1.link0.staleWork, link1 := s1.link1.staleWork, late := [] }
  let s3 := s2.each ((s2.ports.filter fun e => e.2.st ≠ 4).map (·.1)) fun s p =>
    (s.updPort p fun q => { q with st := 0, unitOn := none, readers := [] }).portSafe p
  let s4 := (s3.pulse 0x406).replyWaiting 0x82 stOk (frameRes f)
  if live then ({ s4 with ds := { s4.ds with liveReply := (s4.waitingCmd 0x52).map fun c => s4.liveWord c f } }).flushJournal.enterReset 2 else s4

/-- The partner becomes ACTIVE with a partner in sync (R473): no record is written again. -/
def State.standUp (s : State) : State :=
  let f := s.frm.frame.toNat
  (((s.becomeActive 1 1 f true).journalTake f 2).pulse 0x406).readBack.portsOn

end Sys2Proof.Machine
end

