-- ==== Sys2Proof/Machine/MirrorOps.lean ====
section
/-! DEFINITION. The mirror: what a standby does with the frames of the active (R456, R460, R461, R467, R469, R471, R472). -/

namespace Sys2Proof.Machine
open Sys2Proof

/-- A standby that joins or is in sync applies the mirror stream (R449, R472). -/
def State.mirrors (s : State) : Bool := s.ds.role = 2 && (s.ds.sub = 1 || (s.ds.sub = 0 && s.ds.joinStep ≠ 0))

/-! ### LEDGER (R467, R470) -/

/-- A ledger entry as its 256 bits lay it out (R467). -/
def ledgerOf (w : BitVec 256) : LEntry :=
  { ch := bitsOf w 0 12, rs := bitOf w 12, st := BitVec.ofNat 2 (bitsOf w 13 2), queue := bitsOf w 16 10, cnt := BitVec.ofNat 32 (bitsOf w 32 32),
    ccw := BitVec.ofNat 64 (bitsOf w 64 64), ord := BitVec.ofNat 16 (bitsOf w 128 16), gen := BitVec.ofNat 16 (bitsOf w 144 16),
    openFrame := BitVec.ofNat 32 (bitsOf w 160 32), cond := BitVec.ofNat 8 (bitsOf w 192 8), residual := bitsOf w 208 17 }

/-- One entry of a LEDGER frame: it replaces the entry of its effect; one that is FREE, or DONE with RS = 1, leaves none (R470). -/
def State.putLedger (s : State) (w : BitVec 256) : State :=
  let e := ledgerOf w
  let s1 : State := { s with ledger := s.ledger.filter fun x => !(x.2.ch == e.ch && x.2.gen == e.gen && x.2.ord == e.ord) }
  if e.st = 0 ∨ (e.st = 2 ∧ e.rs = true) then s1
  else match s1.freeEntry (tileOfCh e.ch) with
    | none => s1
    | some i => ({ s1 with ledger := s1.ledger.set i e } : State).notePeak (tileOfCh e.ch)

/-! ### LATH (R170, R469) -/

/-- The state of a code (R135); a code that names none keeps the state. -/
def CState.ofCode (n : Nat) (old : CState) : CState :=
  match n with
  | 0 => .idle
  | 1 => .startPending
  | 2 => .active
  | 3 => .waitTick
  | 4 => .waitEvent
  | 5 => .suspended
  | 6 => .statusPending
  | 7 => .halted
  | 8 => .error
  | _ => old

/-- A 16 B group of a Lath entry written (R170, R456). -/
def Chan.putGroup (c : Chan) (i : Nat) (w : BitVec 128) : Chan :=
  match i with
  | 0 => { c with st := CState.ofCode (bitsOf w 0 4) c.st, parked := bitOf w 4, haltReq := bitOf w 5, jumps := bitsOf w 8 8,
                  lastStatus := BitVec.ofNat 16 (bitsOf w 16 16), queue := bitsOf w 32 10, bound := bitOf w 42, ctx := bitsOf w 43 3,
                  wcls := bitsOf w 48 6, crn := bitOf w 54, inRun := bitOf w 55, core := bitsOf w 56 6, ccwa := BitVec.ofNat 64 (bitsOf w 64 64) }
  | 1 => { c with arg := BitVec.ofNat 64 (bitsOf w 0 64), data := BitVec.ofNat 64 (bitsOf w 64 64) }
  | 2 => { c with remain := bitsOf w 0 17, portions := BitVec.ofNat 8 (bitsOf w 24 8), cond := BitVec.ofNat 16 (bitsOf w 32 16),
                  chain := if bitOf w 63 then some (bitsOf w 48 15) else none, irec := BitVec.ofNat 64 (bitsOf w 64 64) }
  | 3 => { c with irsz := BitVec.ofNat 4 (bitsOf w 0 4), ien := bitOf w 4, iseq := BitVec.ofNat 16 (bitsOf w 16 16),
                  pend := BitVec.ofNat 16 (bitsOf w 32 16), mask := BitVec.ofNat 16 (bitsOf w 48 16), lbase := bitsOf w 64 15,
                  lcells := bitsOf w 80 7, user := BitVec.ofNat 32 (bitsOf w 96 32) }
  | _ => c

/-- The recovery record written (R469). -/
def Chan.putRecovery (c : Chan) (w : BitVec 128) : Chan :=
  { c with anchor := BitVec.ofNat 64 (bitsOf w 0 64), gen := BitVec.ofNat 16 (bitsOf w 64 16), nextOrd := BitVec.ofNat 16 (bitsOf w 80 16),
           rfloor := BitVec.ofNat 16 (bitsOf w 96 16) }

/-- The cells of a channel's local segment follow CH_LSEG (R143). -/
def State.fitLseg (s : State) (ch : Nat) (oldBase oldCells : Nat) : State :=
  let c := s.chan ch
  if c.lbase = oldBase ∧ c.lcells = oldCells then s
  else s.freeLseg ch |>.each (List.range c.lcells) fun s i => if s.cellFree (c.lbase + i) then s.setCell (c.lbase + i) (.lseg ch) 0 else s

/-- One record of a LATH frame (R456): entries of an old GEN and those below RFLOOR return to FREE (R470). -/
def State.putLathRec (s : State) (r : LathRec) : State :=
  let old := s.chan r.ch
  let s1 := s.updChan r.ch fun c =>
    let c1 := r.groups.foldl (fun c g => c.putGroup g.1 g.2) c
    match r.recov with
    | none => c1
    | some w => c1.putRecovery w
  let c := s1.chan r.ch
  let s2 := s1.fitLseg r.ch old.lbase old.lcells
  { s2 with ledger := s2.ledger.filter fun e => e.2.ch != r.ch || (e.2.gen == c.gen && decide (c.rfloor.toNat ≤ e.2.ord.toNat)) }

/-! ### QUEUE and EGRESS (R456, R460) -/

/-- The queue state of a code (R119); a code that names none keeps the state. -/
def QState.ofCode (n : Nat) (old : QState) : QState :=
  match n with
  | 0 => .disabled
  | 1 => .running
  | 2 => .paused
  | 3 => .error
  | 4 => .draining
  | _ => old

/-- One record of a QUEUE frame: counts and state, and the finished counts from HEAD on. -/
def State.putQueue (s : State) (r : QueueRec) : State :=
  s.updQ r.q fun x =>
    { x with fetch := r.fetch, prod := r.prod, head := r.head, st := QState.ofCode r.st.toNat x.st, why := r.why, errIdx := r.errIdx,
             seen := x.seen.filter fun c => decide ((c - r.head).toNat < x.slots) }

/-- The queue and count whose status record lies at a host address, among entries from HEAD to FETCH (R93). -/
def State.recordAt (s : State) (a : Word64) : Option (Nat × Word32) :=
  (s.queues.filterMap fun e =>
    let x := e.2
    let d := (a - x.stat).toNat
    let c := x.head + BitVec.ofNat 32 ((d / 32 + x.slots - x.slotOf x.head) % x.slots)
    if x.st ≠ .disabled ∧ d < 32 * x.slots ∧ d % 32 = 0 ∧ (c - x.head).toNat < (x.fetch - x.head).toNat then some (e.1, c) else none).head?

/-- One record of an EGRESS frame: it is kept until a heartbeat covers its EQS, and a FINAL or ENTRY record finishes its entry. -/
def State.putEgress (s : State) (r : EgressRec) : State :=
  let s1 : State := { s with ds := { s.ds with mirror := s.ds.mirror ++ [r] } }
  match s1.recordAt r.addr with
  | none => s1
  | some (q, c) => if r.bytes.length = 32 then s1.updQ q fun x => { x with seen := c :: x.seen.filter fun y => y ≠ c } else s1

/-- The mirrored records that a heartbeat's EQS values cover are dropped (R462, R465). -/
def pruneMirror (l : List EgressRec) (e0 e1 : Word32) : List EgressRec :=
  l.filter fun r => 0 < (r.eqs - (if r.md = 0 then e0 else e1)).toInt

/-! ### BOUNDARY (R461) -/

/-- What a class has spent where a remainder is left of a counter: of the budget in force, in the numbering of FClass.spent. -/
def State.spentFor (s : State) (cls idx : Nat) (rem : BitVec 25) : Nat :=
  let a := (s.cls cls).act
  let b : BitVec 24 := if idx = 0 then a.urd0 else if idx = 1 then a.urd1
    else match idx % 4 with
      | 0 => a.disp
      | 1 => a.tcyc
      | 2 => a.ccyc
      | _ => a.sbeat
  match ceiling (decide (a.kind = 2)) b with
  | none => 0
  | some n => ((n : Int) - rem.toInt).toNat

/-- One record of a BOUNDARY frame. The flags of the active's frame are a report to this die (R209), of which the spec makes no use. -/
def State.putBoundary (s : State) (r : BoundaryRec) : State :=
  match r with
  | .floatRem c i rem =>
    let n := s.spentFor c i rem
    s.updCls c fun x => { x with spent := if n = 0 then x.spent.erase i else x.spent.set i n }
  | .busRem p c rem =>
    let n := ((s.busCeiling c p).getD rem.toNat) - rem.toNat
    s.updPort p fun q => { q with bspent := if n = 0 then q.bspent.erase c else q.bspent.set c n }
  | .flags _ => s
  | .progress ch j d m => s.updChan ch fun c => { c with jumps := j, data := d, remain := m.toNat }
  | .prod q n => s.updQ q fun x => { x with prod := n }

/-! ### CONFIG (R379, R438, R460, R485) -/

/-- A register of a channel whose write a CONFIG frame carries: CH_IREC and CH_ICFG as they are written. -/
def chCarried (off : Nat) : Bool := inRange off 0x40000 0x7FFFF && (off % 64 == 0x28 || off % 64 == 0x30)

/-- The registers whose writes CONFIG frames carry: configuration of the blocks of R460 and R485. QCFG_CTL and PORT_CTL are no
configuration, but commands to the die that drives the field: QUEUE frames carry what QCFG_CTL changes (log 71). -/
def cfgCarried (off : Nat) : Bool :=
  inRange off 0x7000 0x7FFF || (inRange off 0x20000 0x2FFFF && off % 64 != 0x2C) || inRange off 0x80000 0x83FFF
    || inRange off 0x90000 0x99FFF || (inRange off 0xA0000 0xA3FFF && (off % 64 == 0 || off % 64 == 0x18))
    || (inRange off 0xB0000 0xBFFFF && off != 0xB0004)
    || match portAt off with
      | some p => off != portBase p
      | none => false

/-- A mirrored change waits for its frame on this die too (R438). -/
def State.commitAt (s : State) (what : Change) (frame : BitVec 48) : State :=
  { s with commits := s.commits ++ [{ what, frame := frame.toNat, reply := none }] }

/-- One record of a CONFIG frame. -/
def State.putConfig (s : State) (r : ConfigRec) : State :=
  match r with
  | .reg off size v =>
    if cfgCarried off || chCarried off then s.regWrite midFwc 0 off size v
    else if off = chOff ((off - 0x40000) / 64) + 0x34 then
      s.updChan ((off - 0x40000) / 64) fun c => { c with pend := c.pend ||| BitVec.ofNat 16 v.toNat }
    else s
  | .bind ch q _ => s.updChan ch fun c => { c with queue := q, bound := true }
  | .unbind ch => (s.freeLseg ch).updChan ch fun c => { c with bound := false, st := .idle, lbase := 0, lcells := 0 }
  | .role mb role epoch => s.updMbx mb fun x => { x with role, epoch }
  | .node n => { s with kmd := { s.kmd with node := some n } }
  | .budgets frame => let n := s.snapshot; s.commitAt (.budgets n.cls n.ports (BitVec.ofNat 20 n.period)) frame
  | .ports mask frame => s.commitAt (.ports ((allPorts.filter fun p => bitOf mask p).map fun p => (p, (s.port p).shadow))) frame
  | .latFloor tol ok frame => s.commitAt (.latFloor tol ok) frame
  | .cal p b frame => s.commitAt (.cal p b) frame
  | .swap old new crn tiles frame => s.commitAt (.swap old new crn tiles) frame
  | .key k id rx tx b =>
    let others : Table Key := if tx then s.kmd.keys.mapVals fun _ y => { y with tx := false } else s.kmd.keys
    { s with kmd := { s.kmd with keys := others.set k { id, rx, tx, bytes := b } } }
  | .keyGone k => { s with kmd := { s.kmd with keys := s.kmd.keys.erase k } }
  | .routine t num crn off bound mbx code =>
    (s.writeLib t crn off code).updLib t fun l =>
      { l with routines := (l.routines.filter fun r => !(r.num == num && r.crn == crn)) ++ [{ num, crn, off, len := code.length, bound, mbx, code }] }
  | .routineGone t num crn => s.updLib t fun l => { l with routines := l.routines.filter fun r => !(r.num == num && r.crn == crn) }
  | .handlers t crn off words =>
    (s.each (libCores t crn) fun s core => s.writeHandlers core off words).updLib t fun l =>
      l.setHand crn { off, len := words.length - 64, words }
  | .attach mode v id => { s with prm := { s.prm with nextMode := mode, subVendor := v, subId := id } }
  | .calStored p b => s.updPort p fun q => { q with calStored := b }

end Sys2Proof.Machine
end

