-- ==== Sys2Proof/Machine/Pairs.lean ====
section
/-! DEFINITION. The meanings of the rows of the redundant pair (R177, R448 to R475). -/

namespace Sys2Proof.Machine
open Sys2Proof

/-! ### HEARTBEAT (R462 to R464) -/

/-- Both dies report that they drive the field: the one with PAIR_ROLE high halts, with equal straps the one with the higher serial number
(R459 reason 6). -/
def State.bothDrive (s : State) (b : Heartbeat) : State :=
  let s1 := s.pairViol 6
  if preferred s.ds.rolePin b.rolePin b.serial then s1 else s1.haltDie

/-- What a heartbeat shows is kept: the partner's role, strap and EQS; a standby takes ADJ and the period (R208, R462). -/
def State.noteHb (s : State) (frame : Word32) (b : Heartbeat) : State :=
  let s1 : State := { s with
    ds := { s.ds with peerRole := b.role, peerSerial := b.serial, peerHb := frame, gotHb := true, miss := 0, peerMiss := 0,
                      peerEqs0 := b.eqs0, peerEqs1 := b.eqs1, mirror := pruneMirror s.ds.mirror b.eqs0 b.eqs1 } }
  if s.ds.role = 2 then { s1 with frm := { s1.frm with adj := b.adj, periodAct := BitVec.ofNat 20 b.period.toNat } } else s1

/-- HEARTBEAT (R462, R463, R464). What a PAIR_LEAVE has made of the partner shows in its heartbeats (R474). -/
def State.onHeartbeat (s : State) (frame : Word32) (b : Heartbeat) : State :=
  let first := s.ds.peerSerial ≠ b.serial
  let s1 := s.noteHb frame b
  let s2 := if first && b.rolePin == s.ds.rolePin then s1.pairViol 9 else s1
  if s2.drives && (b.role = 0 || b.role = 1) then s2.bothDrive b
  else if s2.ds.role = 1 && decide (2 ≤ (s2.ds.lastHb - b.lastHb).toInt) then s2.markOut
  else if s2.ds.role = 1 && b.role = 2 && b.sub = 3 then s2.goAlone
  else if s2.ds.role = 2 && b.role = 0 then { s2 with ds := { s2.ds with sub := 3, joinStep := 0 } }
  else if s2.ds.role = 2 && b.halting then s2.detect 1 else s2

/-- HEARTBEAT (R462). -/
def execHeartbeat (h : DsHdr) (b : Heartbeat) (s : State) : Host.Outcome State Fault Refusal :=
  .next (s.recv h true fun s => s.onHeartbeat (BitVec.ofNat 32 h.frame.toNat) b).served

/-- The check at F+1 µs (R463, R464): a standby counts misses, but not in Hold; an active die marks its partner at two. -/
def State.hbCheck (s : State) : State :=
  let s0 : State := { s with ds := { s.ds with gotHb := false } }
  if s.die ≠ .ready then s
  else if s.ds.role = 2 then
    if s.ds.gotHb || s.hold then s0
    else
      let n := min 3 (s.ds.miss + 1)
      let s1 : State := { s0 with ds := { s0.ds with miss := n } }
      if n = 3 ∧ s.ds.miss ≠ 3 then s1.detect 0 else s1
  else if s.ds.role = 1 && !s.ds.gotHb then
    let s1 : State := { s0 with ds := { s0.ds with peerMiss := s.ds.peerMiss + 1 } }
    if 2 ≤ s1.ds.peerMiss then s1.markOut else s1
  else s0

/-- HEARTBEAT_CHECK (R463). -/
def execHeartbeatCheck (s : State) : Host.Outcome State Fault Refusal := .next s.hbCheck.served

/-! ### ACK, NACK, timeouts (R177, R457, R459) -/

/-- ACK (R457). -/
def execAck (h : DsHdr) (s : State) : Host.Outcome State Fault Refusal := .next (s.recv h false fun s => s).served

/-- Every frame from a SEQ on is sent again; a frame that has been sent 3 times is a violation (R457, R459 reason 3). -/
def State.resend (s : State) (expect : BitVec 16) : State :=
  let old := s.ds.unacked.takeWhile fun f => f.seq ≠ expect
  let again := s.ds.unacked.dropWhile fun f => f.seq ≠ expect
  if again.any fun f => 3 ≤ f.tries then (s.pairViol 3).escalate
  else
    { s with ds := { s.ds with unacked := old ++ again.map fun (f : TxFrame) => { f with tries := f.tries + 1 }, retry := BitVec.ofNat 16 (min 0xFFFF (s.ds.retry.toNat + again.length)) } }

/-- NACK (R457). -/
def execNack (h : DsHdr) (expect : BitVec 16) (s : State) : Host.Outcome State Fault Refusal :=
  .next (s.recv h false fun s => s.resend expect).served

/-- Something waits behind a gate for the acknowledgement of a frame (R177). -/
def State.gateWaits (s : State) (f : TxFrame) : Bool :=
  (s.ds.gated.any fun g => g.id = f.id) || s.chans.any fun e => e.2.xfer.gate = some f.id

/-- The 20 µs of an acknowledgement in units of TIME (R177). -/
def ackLimit : Nat := 2000

/-- An acknowledgement for which a gate waits is 20 µs late (R177). -/
def State.ackLate (s : State) : Bool :=
  (s.ds.unacked ++ s.ds.txWait).any fun f => s.gateWaits f && decide (ackLimit ≤ (s.frm.time - f.madeAt).toNat)

/-- ACK_TIMEOUT (R177, R464). -/
def execAckTimeout (s : State) : Host.Outcome State Fault Refusal :=
  .next (if s.die = .ready && s.paired && s.ackLate then
      (({ s with ds := { s.ds with timeouts := satInc s.ds.timeouts } } : State).markOut).served
    else s)

/-! ### The mirror stream (R460, R461, R472) -/

/-- A mirror frame arrives and is applied by a standby that mirrors. -/
def State.recvMirror (s : State) (h : DsHdr) (k : State → State) : State :=
  (s.recv h true fun s => if s.mirrors then k s else s).served

/-- LEDGER (R467). -/
def execLedger (h : DsHdr) (entries : List (BitVec 256)) (s : State) : Host.Outcome State Fault Refusal :=
  .next (s.recvMirror h fun s => s.each entries fun s e => s.putLedger e)

/-- LATH (R469). -/
def execLath (h : DsHdr) (recs : List LathRec) (s : State) : Host.Outcome State Fault Refusal :=
  .next (s.recvMirror h fun s => s.each recs fun s r => s.putLathRec r)

/-- QUEUE (R460). -/
def execQueue (h : DsHdr) (recs : List QueueRec) (s : State) : Host.Outcome State Fault Refusal :=
  .next (s.recvMirror h fun s => s.each recs fun s r => s.putQueue r)

/-- EGRESS (R460). -/
def execEgress (h : DsHdr) (recs : List EgressRec) (s : State) : Host.Outcome State Fault Refusal :=
  .next (s.recvMirror h fun s => s.each recs fun s r => s.putEgress r)

/-- The reply to a live activation by handover follows the final join (R441). -/
def State.liveReplied (s : State) : State :=
  match s.ds.liveReply with
  | none => s
  | some (md, w) => ({ s with ds := { s.ds with liveReply := none } } : State).send md w.kind w.addr w.bytes false

/-- The standby is IN_SYNC once BULK and one BOUNDARY have been applied: it sends JOIN step 4 and replies (R472 step 4). -/
def State.joined (s : State) : State :=
  if s.ds.joinStep = 3 then
    let s1 : State := { s with ds := { s.ds with sub := 1, joinStep := 0, miss := 0 } }
    (((s1.dsSend .join false (.bytes (leBytes 2 4 ++ leBytes 2 s1.prm.stateVer.toNat))).pulse 0x406).replyWaiting 0x81 stOk
      (frameRes s1.frm.frame.toNat)).liveReplied
  else s

/-- BOUNDARY (R461). -/
def execBoundary (h : DsHdr) (recs : List BoundaryRec) (s : State) : Host.Outcome State Fault Refusal :=
  .next (s.recvMirror h fun s => (s.each recs fun s r => s.putBoundary r).joined)

/-- CONFIG (R460). -/
def execConfig (h : DsHdr) (recs : List ConfigRec) (s : State) : Host.Outcome State Fault Refusal :=
  .next (s.recvMirror h fun s => s.each recs fun s r => s.putConfig r)

/-- BULK (R472 steps 2 and 3). -/
def execBulk (h : DsHdr) (laths : List LathRec) (queues : List QueueRec) (cfgs : List ConfigRec) (s : State) :
    Host.Outcome State Fault Refusal :=
  .next (s.recvMirror h fun s =>
    let s1 := ((s.each cfgs fun s r => s.putConfig r).each laths fun s r => s.putLathRec r).each queues fun s r => s.putQueue r
    if s1.ds.joinStep = 0 then s1 else { s1 with ds := { s1.ds with joinStep := 3 } })

/-! ### Join and handover (R441, R472, R473) -/

/-- JOIN steps on an ACTIVE die: 1 asks for the snapshot, 4 ends the join (R472). -/
def State.joinActive (s : State) (step : Nat) (ver : BitVec 16) : State :=
  if step = 1 then
    if ver = s.prm.stateVer ∨ ver = s.prm.stateVer - 1 then { s with ds := { s.ds with sub := 0, joinStep := 2, peerMiss := 0 } }
    else (s.pairViol 7).dsSend .join false (.bytes (leBytes 2 7 ++ leBytes 2 s.prm.stateVer.toNat))
  else if step = 4 ∧ s.ds.joinStep ≠ 0 then
    let s1 : State := { s with ds := { s.ds with sub := 1, joinStep := 0, handing := s.ds.liveStep = 1, liveStep := if s.ds.liveStep = 1 then 2 else s.ds.liveStep },
                               mled := [] }
    (s1.pulse 0x406).releaseFor fun w => w = .ledger
  else s

/-- JOIN (R472): a standby whose STATE_VER is not accepted has failed to join. -/
def execJoin (h : DsHdr) (step : Byte) (stateVer : BitVec 16) (s : State) : Host.Outcome State Fault Refusal :=
  .next (s.recv h true fun s =>
    if s.ds.role = 1 then s.joinActive step.toNat stateVer
    else if s.ds.role = 2 ∧ step = 7 ∧ s.ds.joinStep ≠ 0 then s.toOut else s).served

/-- HANDOVER (R473): the roles change at the next tick. -/
def execHandover (h : DsHdr) (eqs0 eqs1 : Word32) (s : State) : Host.Outcome State Fault Refusal :=
  .next (s.recv h true fun s =>
    if s.ds.role = 2 ∧ s.ds.sub = 1 then
      { s with ds := { s.ds with handDue := true, peerEqs0 := eqs0, peerEqs1 := eqs1, mirror := pruneMirror s.ds.mirror eqs0 eqs1 } }
    else s).served

/-! ### Lanes and ordered sets (R208, R453, R454) -/

/-- ALIGN (R453, R454). -/
def execAlign (lane : Nat) (s : State) : Host.Outcome State Fault Refusal :=
  .next (if lane < 2 then { s with ds := { s.ds with aligned := withBit s.ds.aligned lane true } } else s)

/-- The link has come up: an ALONE die becomes ACTIVE with its partner OUT_OF_SYNC (R451), and frames kept are sent (R457). -/
def State.linkCame (s : State) : State :=
  let s1 : State := { s with ds := s.ds.flush }
  if s.die = .ready ∧ s.ds.role = 0 then ({ s1 with ds := { s1.ds with role := 1, sub := 2 } } : State).pulse 0x406 else s1

/-- LANE_UP (R453): with block lock and ALIGN. -/
def execLaneUp (lane : Nat) (s : State) : Host.Outcome State Fault Refusal :=
  .next (if 2 ≤ lane then s else
    let s1 : State := { s with ds := { s.ds with lanes := withBit s.ds.lanes lane true, aligned := withBit s.ds.aligned lane true } }
    if s.dsUp then s1 else s1.linkCame)

/-- LANE_DOWN (R453): the loss is counted; with no lane left the alignment no longer holds (R208), and a join in progress ends (R472). -/
def execLaneDown (lane : Nat) (s : State) : Host.Outcome State Fault Refusal :=
  .next (if 2 ≤ lane || !bitOf s.ds.lanes lane then s else
    let s0 : State := { s with ds := { s.ds with lanes := withBit s.ds.lanes lane false, aligned := withBit s.ds.aligned lane false, down := satInc s.ds.down } }
    let s1 : State := if s0.dsUp then s0 else { s0 with frm := { s0.frm with pairLock := false } }
    if s1.dsUp || s1.ds.joinStep = 0 then s1
    else if s1.ds.role = 2 then s1.toOut.served else s1.markOut.served)

/-- The standby's tick follows the active's (R208): `off` is how much later the active's tick fell than the nearest own one, in 10 ns. -/
def Frm.follow (f : Frm) (frame : BitVec 48) (off : Int) : Frm :=
  { f with frame := if 0 ≤ off then frame else frame - 1, next := f.next + BitVec.ofInt 64 off, pairLock := decide (off.natAbs ≤ 4) }

/-- TICK_ORDERED_SET (R208, R454, R459 reason 8): a standby aligns itself; once it is aligned, more than 1 µs is a violation. -/
def execTickOrderedSet (frame : BitVec 48) (off : Int) (s : State) : Host.Outcome State Fault Refusal :=
  .next (if s.die ≠ .ready ∨ s.ds.role ≠ 2 ∨ s.ds.peerRole = 2 ∨ s.dsUp = false then s else
    let s1 : State := { s with frm := s.frm.follow frame off }
    if s.frm.pairLock && decide (100 < off.natAbs) then (s1.pairViol 8).escalate else s1)

/-- FENCE_ECHO (R454): the partner's FENCE_OUT_N, which is this die's FENCE_IN_N (R448). -/
def execFenceEcho (level : Bool) (s : State) : Host.Outcome State Fault Refusal :=
  .next { s with ds := { s.ds with echo := level, fenceIn := !level } }

/-! ### Fence pins (R450, R452) -/

/-- FENCE_IN_RISE (R450). -/
def execFenceInRise (s : State) : Host.Outcome State Fault Refusal :=
  .next { s with ds := { s.ds with fenceIn := false, watching := decide (s.ds.role = 2) } }

/-- FENCE_WATCH_EXPIRY (R450): the level of FENCE_IN_N after the 3 µs. -/
def execFenceWatchExpiry (level : Bool) (s : State) : Host.Outcome State Fault Refusal :=
  .next (if !s.ds.watching then s else
    let s1 : State := { s with ds := { s.ds with watching := false, fenceIn := !level } }
    if s.die = .ready && s.ds.role = 2 && !level then s1.toOut else s1)

/-- FENCE_ARBITRATION_ROUND (R452): the two samples of FENCE_IN_N in a round; once the role is chosen the start goes on. -/
def execFenceArbitrationRound (sample1 sample2 : Bool) (s : State) : Host.Outcome State Fault Refusal :=
  .next (match s.ds.arbRound with
    | none => s
    | some k =>
      if s.die ≠ .reset then s
      else if !sample1 then (({ s with ds := { s.ds with fenceIn := true } } : State).takeRole 2 2).lastSteps s.prm.s12Fail
      else if sample2 then (s.takeRole 0 0).lastSteps s.prm.s12Fail
      else { s with ds := { s.ds with arbRound := some (k + 1) } })

end Sys2Proof.Machine
end

