-- ==== Sys2Proof/Machine/Recovery.lean ====
section
/-! DEFINITION. Interrupt acceptance, recovery of locked cores, migration of contexts, and uncorrectable errors (R29, R191, R284,
R289 to R291, R443, R507). -/

namespace Sys2Proof.Machine
open Sys2Proof

/-- INTERRUPT_ACCEPT (R284). -/
def execInterruptAccept (core : Nat) (s : State) : Host.Outcome State Fault Refusal :=
  .next (if core < 72 ∧ (s.dom core).level = 0 then (s.arrange core).acceptInt core else s)

/-! ### Recovery (R290, R291) -/

/-- What step 4 leaves of a core's private areas and level-1 workspaces is open (R291). -/
def State.openAreas (s : State) (core : Nat) : State :=
  let n := ctxCount core
  (s.openWords (localBase core + 2 * privWord core 0) (0x100 * n)).openWords (localBase core + 2 * wsWord core 0) (0x38 * n)

/-- The TSB stacks of a core are zeroed (R290). -/
def State.zeroTsbs (s : State) (core : Nat) : State :=
  let a := tsbArea core
  s.store (localBase core + 2 * a.1) (List.replicate (2 * a.2) 0)

/-- Steps 3 to 6 of a recovery (R290). -/
def State.recoverCore (s : State) (core : Nat) : State :=
  let s1 := (((s.openAreas core).loadLib core).zeroTsbs core).loadSuper core
  let s2 := ((s1.setFreeze core false).setLock core false).freshCtxs core
  (((s2.routeAll).served).releaseFor fun w => w = .context || w = .cornice || w = .ledger).sendSlices

/-- A core is left out of service until the next start (R291): the channels of a Cornice core's tile end. -/
def State.leaveOut (s : State) (core : Nat) : State :=
  let s1 := s.updCore core fun c => { c with out := true }
  if core < 64 then s1.served else ((s1.tileFault (core - 64)).served).sendSlices

/-- CORE_RECOVERY_COMPLETE (R290, R291): the core in service again, or out of it; a failed test is journalled (log 112). -/
def execCoreRecoveryComplete (core : Nat) (testOk : Bool) (s : State) : Host.Outcome State Fault Refusal :=
  .next (if decide (72 ≤ core) || !(s.locked core) || (s.core core).out || s.die ≠ .ready then s else
    if s.thirdLock core then s.leaveOut core
    else if testOk then s.recoverCore core
    else (s.journalRec stCoreLockup false false false midFwc (s.lockPayload core true)).leaveOut core)

/-- CORNICE_LOCK_TIMEOUT (R191): not recovered within 4 frames. -/
def execCorniceLockTimeout (tile : Nat) (s : State) : Host.Outcome State Fault Refusal :=
  .next (match (s.core (64 + tile)).lockFrames with
    | f :: _ => if tile < 8 ∧ s.locked (64 + tile) ∧ s.die = .ready ∧ f + 4 ≤ s.frm.frame.toNat then (s.tileFault tile).served else s
    | [] => s)

/-! ### Migration (R443) -/

/-- The core and context that a stopped context moves to (R265, R266, R443). -/
def State.migrateTo (s : State) (core : Nat) (guar : Bool) : Option (Nat × Nat) :=
  let cores := (trowels (tileOfCore core)).filter fun c => c ≠ core && (s.dom c).level == 0
  let pick (res : Bool) : Option (Nat × Nat) :=
    (bestCore (cores.filter fun c => !(s.openCtxs c res).isEmpty) fun a b => decide ((s.openCtxs b res).length < (s.openCtxs a res).length)).bind
      fun c => (s.openCtxs c res).head?.map fun k => (c, k)
  match pick false with
  | some x => some x
  | none => if guar then pick true else none

/-- A context with its private area moves (R443): S0, VTB and TSBR are the target's. -/
def State.moveCtx (s : State) (core k core' k' : Nat) : State :=
  let c := s.ctx core k
  let area := s.bytesAt (localBase core + 2 * privWord core k) 512
  let c1 := { c with segs := c.segs.set 0 { (c.segReg 0) with base := BitVec.ofNat 32 (aliasAddr (privWord core' k')) },
                     vtb := BitVec.ofNat 16 (vtbWord core'), tsbr := BitVec.ofNat 16 (tsbWord core' k'), stale := [], sres := (s.ctx core' k').sres }
  let s1 := ((s.setCtx core' k' c1).mark core' k').setCtx core k { ({} : Ctx) with sres := c.sres }
  let s2 := s1.store (localBase core' + 2 * privWord core' k') area
  match c.run with
  | none => s2
  | some r => s2.goChan r.ch fun x => { x with core := core', ctx := k' }

/-- CONTEXT_MIGRATE (R443). -/
def execContextMigrate (core ctx : Nat) (s : State) : Host.Outcome State Fault Refusal :=
  .next (let c := s.ctx core ctx
    match c.run with
    | none => s
    | some r =>
      if 64 ≤ core ∨ s.die ≠ .ready ∨ s.frozen core = false ∨ s.locked core = true ∨ c.st ≠ .held ∨ c.depth ≠ 0 ∨ c.atBoundary = false then s
      else match s.migrateTo core (s.kindOf r.cls == 2) with
        | none => s
        | some (core', k') => (((s.moveCtx core ctx core' k').arrange core').arrange core).served)

/-! ### Uncorrectable errors (R29, R276, R288, R507) -/

/-- The FIFO of a mailbox that held a retired cell ends: freeing stops at the cell, and the cells behind it are withdrawn (R29,
R507). -/
def State.mbxLost (s : State) (mb : Nat) : State :=
  let cells := (s.mbx mb).msgs.map fun g => g.cell
  ((s.updMbx mb fun x => { x with msgs := [] }).freeCells cells).mbxLine mb

/-- A Hawk cell is retired, and the FIFO or channel that held it ends (R29, R296, R507). -/
def State.retireCell (s : State) (k : Nat) : State :=
  if 32768 ≤ k ∨ s.retiredCell k = true then s else
  match s.cell k with
  | .mbx mb => (s.retire k).mbxLost mb
  | .chain ch => if (s.chan ch).running then ((s.retire k).dropRun ch).failAt ch stEcc 0 else s.retire k
  | _ => s.retire k

/-- A Lath entry is retired for the rest of the run, and the channel that owns it ends in ERROR: with its record where a program runs
(R29). -/
def State.retireLath (s : State) (ch : Nat) : State :=
  let s1 := (s.updChan ch fun c => { c with retired := true }).pulse 0x40A
  if (s.chan ch).running then (s1.dropRun ch).failAt ch stEcc 0
  else s1.goChan ch fun c => { c with st := .error, lastStatus := stEcc }

/-- An uncorrectable error of local memory at a vector or a TSB locks the core up (R288). -/
def State.eccLock (s : State) (core k cause : Nat) : State := if core < 72 then (s.pulse 0x40A).lockCore core k cause else s

/-- MEMORY: an operand read or a fetch of a context's next instruction (R276, R280). -/
def State.eccOperand (s : State) (core k acc reg : Nat) (addr : Word32) : State :=
  let s1 := (s.pulse 0x40A).arrange core
  if s1.canIssue core k then (s1.raise core k { vec := vMemory, info := accInfo (acc % 4) (reg % 16), faddr := addr.toNat }).arrange core else s1

/-- An uncorrectable word of the MRAM spoils a boot block copy, or only the record or the slot that it lies in (R428); a word of a record
still held in FWC memory lies in none. -/
def State.spoilMram (s : State) (loc : EccLoc) : State :=
  match loc with
  | .bootCopy i => { s with prm := { s.prm with bootBad := withBit s.prm.bootBad i true } }
  | .journalRecord n => { s with journal := s.journal.map fun r => if r.seq = n then { r with bad := true } else r }
  | .ledgerSlot i => { s with mled := s.mled.mapVals fun j m => if j = i then { m with bad := true } else m }
  | _ => s

/-- ECC_UNCORRECTABLE_ERROR (R29): contained at the smallest level that holds it; one of the MRAM may come in any state of the die. -/
def execEccUncorrectableError (loc : EccLoc) (s : State) : Host.Outcome State Fault Refusal :=
  .next (if s.die ≠ .ready then s.spoilMram loc else
    match loc with
    | .bootCopy _ | .journalRecord _ | .ledgerSlot _ => s.spoilMram loc
    | .hawkCell k => (s.retireCell k).served
    | .lathEntry ch => (s.retireLath ch).served
    | .coreOperand core ctx acc reg addr => (s.eccOperand core ctx acc reg addr).served
    | .coreVector core ctx => (s.eccLock core ctx 3).served
    | .coreTsb core ctx => (s.eccLock core ctx 5).served
    | .sequencerUnit tile => (s.tileFault tile).served
    | .portUnit tile => (s.each (allPorts.filter fun p => portTile p = some tile) fun s p =>
        s.each (s.portChans p) fun s ch => s.endOnPort p stUnitFault ch).served
    | .dieUnit => s.haltDie)

end Sys2Proof.Machine
end

