-- ==== Sys2Proof/Machine/Signals.lean ====
section
/-! DEFINITION. The meanings of SIGNAL and of the Komond rows (R161, R476 to R483). -/

namespace Sys2Proof.Machine
open Sys2Proof

/-- SIGNAL (R161): an event of a channel, or a message whose bytes are brought in first; the effect of a message to a node is opened as the
CCW starts, unless it counts as complete in a replay (R197, R468). -/
def State.doSignal (s : State) (ch : Nat) (w : BitVec 128) : State :=
  let p := ccwParam w
  let c := s.chan ch
  if bitOf p 31 then
    let piece : Word64 × Nat := (ccwAddr w, ccwCount w)
    let remote := bitOf p 26
    let s1 := s.updXfer ch fun x =>
      { cmd := 0x10, param := p, first := c.ccwa, rs := ccwRs w, sl := ccwSl w, pi := x.pi, pieces := [piece] }
    if c.lsegBad piece then s1.failNow ch stLsegLimit 0
    else match if remote then s1.replayed ch else none with
    | some r => s1.startCcw s ch {} fun s => ((s.beginSkip ch r).replaceCond ch r.2.1.toNat).goOn ch
    | none =>
      match if remote then s1.canOpen ch else none with
      | some .cornice => s.park ch .cornice false
      | some .ledger => s.park ch .ledger false
      | none => s1.startCcw s ch (urdCost (s1.chModule ch) (s1.dataUnits ch)) fun s =>
          (if remote then s.openEffect ch c.ccwa (ccwRs w) else s).pull ch
  else
    s.startCcw s ch {} fun s =>
      ((s.updXfer ch fun x => { cmd := 0x10, param := p, first := c.ccwa, sl := ccwSl w, pi := x.pi }).setEvents (bitsOf p 0 12)
        (BitVec.ofNat 16 (2 ^ bitsOf p 12 4))).endSignal ch 0 stOk 0

/-- SIGNAL (R161). -/
def execSignal (ch : Nat) (s : State) : Host.Outcome State Fault Refusal := .next (s.onDue ch 0x10 fun s w => s.doSignal ch w).served

/-! ### Komond ingress (R477 to R480) -/

/-- A field of n bytes at an offset of a frame. -/
def fieldAt (b : List Byte) (o n : Nat) : Nat := ofLeBytes ((b.drop o).take n)

/-- The fields of a Komond payload as received (R477). -/
def kmdParse (b : List Byte) : KmdFrame :=
  { ver := fieldAt b 0 1 % 16, ty := fieldAt b 0 1 / 16, reason := fieldAt b 1 1, keyId := fieldAt b 2 2,
    dstNode := fieldAt b 4 4 % 0x40000, dstMbx := fieldAt b 4 4 / 0x40000 % 256,
    srcNode := fieldAt b 8 4 % 0x40000, ch := fieldAt b 8 4 / 0x40000 % 4096, chV := Nat.testBit (fieldAt b 8 4) 30,
    role := BitVec.ofNat 8 (fieldAt b 12 1), epoch := BitVec.ofNat 16 (fieldAt b 14 2), seq := fieldAt b 16 4,
    stamp := BitVec.ofNat 32 (fieldAt b 20 4), msg := (b.drop 24).take (fieldAt b 13 1) }

/-- VER, TYPE and LEN are valid: 1 to 48 bytes in a DATA frame, none in an answer (R477, R478). -/
def kmdValid (b : List Byte) : Bool :=
  let len := fieldAt b 13 1
  let f := kmdParse b
  f.ver == 1 && decide (32 + len ≤ b.length) && match f.ty with
    | 1 => decide (1 ≤ len) && decide (len ≤ 48)
    | 2 | 3 | 4 => len == 0
    | 5 => decide (len ≤ 48)
    | _ => false

/-- Master ID of Komond ingress (R49). -/
def midKmd : Nat := 0x100

/-- A frame that fails authentication is counted and journalled, and source 0x407 raised (R479, R430). -/
def State.authFail (s : State) (f : KmdFrame) (reason : Nat) : State :=
  let s1 : State := { s with kmd := { s.kmd with auth := satInc s.kmd.auth } }
  (s1.journalRec stAuthFail false false false midKmd (f.srcNode + f.keyId <<< 18 + reason <<< 34)).pulse 0x407

/-- TSTAMP lies within the window, or the window is 0 (R479). -/
def State.stampOk (s : State) (f : KmdFrame) : Bool :=
  let d := (s.kmdStamp - f.stamp).toInt
  let w : Int := s.kmd.window.toNat
  s.kmd.window = 0 || (decide (-w ≤ d) && decide (d ≤ w))

/-- A frame arrives on a MAC that carries Komond: the checks of R479 up to the node, in their order; then `k` judges its time. A
row takes the frames of its own TYPE, KMD_DATA also those whose TYPE is none. -/
def State.kmdIngress (s : State) (ty mac : Nat) (b : List Byte) (k : State → KmdFrame → State) : State :=
  let f := kmdParse b
  if !s.kmdUp || !(decide (mac < 4)) || !bitOf s.kmd.ports mac || (s.port (0x60 + mac)).st ≠ 1 then s
  else if !(f.ty == ty || (ty == 1 && (f.ty == 0 || decide (5 < f.ty)))) then s
  else if !(kmdValid b) then { s with kmd := { s.kmd with dropped := satInc s.kmd.dropped } }
  else match s.kmd.keys.find? fun e => e.2.rx && e.2.id.toNat == f.keyId with
    | none => s.authFail f 1
    | some (_, key) =>
      let n := 24 + f.msg.length
      if (Config.aesCmac key.bytes (b.take n)).toList.take 8 ≠ (b.drop n).take 8 then s.authFail f 0
      else if s.kmd.node.map (·.toNat) ≠ some f.dstNode ∧ f.dstNode ≠ kmdBroadcast then s
      else k s f

/-- The replay cache with a line moved to its front (R479). -/
def Kmd.remember (k : Kmd) (r : Replay) : Kmd := { k with cache := (r :: k.cache.filter fun x => x.node ≠ r.node).take 1024 }

/-- An answer is sent: DST and SRC change places (R478). -/
def State.answerKmd (s : State) (f : KmdFrame) (ty reason : Nat) (role : BitVec 8) (epoch : BitVec 16) : State :=
  s.kmdSend { f with ty, reason, dstNode := f.srcNode, role, epoch, msg := [] }

/-- A DATA frame is answered and the answer cached; a broadcast is not answered (R479, R482). -/
def State.settleData (s : State) (f : KmdFrame) (ty reason : Nat) (role : BitVec 8) (epoch : BitVec 16) : State :=
  let quiet := f.dstNode == kmdBroadcast
  let s1 : State := { s with kmd := s.kmd.remember { node := f.srcNode, seq := f.seq, ty := if quiet then 0 else ty, reason, role, epoch } }
  if quiet then s1 else s1.answerKmd f ty reason role epoch

/-- PAYLOAD of a ROLE_CHANGED record (R480). -/
def rolePayload (node mbx epoch : Nat) (own : Bool) : Nat := node + mbx <<< 18 + epoch <<< 26 + b2n own <<< 42

/-- A bounce is counted, journalled and sent, unless the frame was a broadcast (R480, R482). -/
def State.bounce (s : State) (f : KmdFrame) : State :=
  let x := s.mbx f.dstMbx
  let s1 : State := if f.dstNode == kmdBroadcast then s else
    ({ s with kmd := { s.kmd with bounced := satInc s.kmd.bounced } } : State).journalRec stRoleChanged false false false midKmd
      (rolePayload f.srcNode f.dstMbx f.epoch.toNat true) |>.pulse 0x407
  s1.settleData f 4 0 x.role x.epoch

/-- A DATA frame is delivered to its mailbox and answered (R480). -/
def State.deliverData (s : State) (f : KmdFrame) : State :=
  let mb := f.dstMbx
  let x := s.mbx mb
  if x.role ≠ f.role ∨ x.epoch ≠ f.epoch then s.bounce f
  else if x.full then (s.mbxRefused mb).settleData f 3 1 f.role f.epoch
  else if !x.en then s.settleData f 3 2 f.role f.epoch
  else match s.grantProducer 21 3 sysAcct (.mbx mb) with
    | none => s
    | some (k, s1) =>
      let s2 := (s1.store (cellAddr k) f.msg).mbxAccept mb k
        { sender := midKmd, ctx := 0, len := f.msg.length, remote := some (f.srcNode, f.epoch.toNat), ch := if f.chV then some f.ch else none }
      ({ s2 with kmd := { s2.kmd with rx := satInc s2.kmd.rx } } : State).settleData f 2 0 f.role f.epoch

/-- The time and SEQ of a DATA frame are judged; a repetition of a message already answered is answered again (R479). -/
def State.takeData (s : State) (f : KmdFrame) : State :=
  let line := s.kmd.cache.find? fun r => r.node == f.srcNode
  let above := match line with
    | none => true
    | some r => decide (r.seq < f.seq)
  if s.stampOk f && above then s.deliverData f
  else match line with
    | some r =>
      if r.seq = f.seq ∧ r.ty ≠ 0 then ({ s with kmd := s.kmd.remember r } : State).answerKmd f r.ty r.reason r.role r.epoch else s.authFail f 2
    | none => s.authFail f 2

/-- KMD_DATA (R479, R480). -/
def execKmdData (mac : Nat) (bytes : List Byte) (s : State) : Host.Outcome State Fault Refusal := .next (s.kmdIngress 1 mac bytes State.takeData)

/-- An answer finds the SIGNAL that waits for it: its channel, SEQ and node (R477, R481). -/
def State.kmdAnswers (s : State) (f : KmdFrame) : Bool :=
  let c := s.chan f.ch
  f.chV && c.st = .active && c.xfer.phase = .node && bitsOf c.xfer.param 8 18 == f.srcNode && match c.xfer.kmdSeq with
    | some (q, _) => q.toNat == f.seq
    | none => false

/-- An answer within the window acts on its SIGNAL (R479, R481). -/
def State.onAnswer (s : State) (ty mac : Nat) (b : List Byte) (k : State → KmdFrame → State) : State :=
  (s.kmdIngress ty mac b fun s f => if !(s.stampOk f) then s.authFail f 2 else if s.kmdAnswers f then k s f else s).served

/-- KMD_ACK (R481): the SIGNAL completes. -/
def execKmdAck (mac : Nat) (bytes : List Byte) (s : State) : Host.Outcome State Fault Refusal :=
  .next (s.onAnswer 2 mac bytes fun s f => (s.doneOnce f.ch 0).endSignal f.ch 0 stOk 0)

/-- KMD_REFUSE (R481): as a full mailbox; no message was delivered (R468). -/
def execKmdRefuse (mac : Nat) (bytes : List Byte) (s : State) : Host.Outcome State Fault Refusal :=
  .next (s.onAnswer 3 mac bytes fun s f => (s.dropEffect f.ch).endSignal f.ch 4 stMbxFull 0)

/-- A bounce received (R480, R481): KMD_LASTB, the journal, source 0x407, and the end of the SIGNAL. -/
def State.bounced (s : State) (f : KmdFrame) : State :=
  let x := (s.chan f.ch).xfer
  let s1 : State := { s with kmd := { s.kmd with bouncesRx := satInc s.kmd.bouncesRx, lastNode := BitVec.ofNat 18 f.srcNode,
                                                 lastMbx := BitVec.ofNat 8 f.dstMbx, lastRole := f.role, lastEpoch := f.epoch } }
  let s2 := (s1.journalRec stRoleChanged false false false midKmd (rolePayload f.srcNode (bitsOf x.param 0 8) x.kmdEpoch.toNat false)).pulse 0x407
  (s2.dropEffect f.ch).endSignal f.ch 4 stRoleChanged 0

/-- KMD_BOUNCE (R481). -/
def execKmdBounce (mac : Nat) (bytes : List Byte) (s : State) : Host.Outcome State Fault Refusal := .next (s.onAnswer 4 mac bytes State.bounced)

/-- A peer entry as an ANNOUNCE leaves it: AUTO and valid, of that node and mailbox, and only to an epoch ahead (R483). -/
def Peer.announced (p : Peer) (f : KmdFrame) : Peer :=
  let d := (f.epoch - p.epoch).toNat
  if p.v && p.auto && p.node.toNat == f.srcNode && p.mbx.toNat == f.dstMbx && decide (1 ≤ d) && decide (d ≤ 32767) then
    { p with role := f.role, epoch := f.epoch }
  else p

/-- KMD_ANNOUNCE (R483). -/
def execKmdAnnounce (mac : Nat) (bytes : List Byte) (s : State) : Host.Outcome State Fault Refusal :=
  .next (s.kmdIngress 5 mac bytes fun s f =>
    if !(s.stampOk f) then s.authFail f 2 else { s with kmd := { s.kmd with peers := s.kmd.peers.mapVals fun _ p => p.announced f } })

/-- KMD_TIME.RETX in units of TIME; 0 counts as 1 (R481). -/
def Kmd.retxTime (k : Kmd) : Nat := 1000 * max 1 k.retx.toNat

/-- RETX passes without an answer (R481): the frame is sent again, or the SIGNAL ends with NO_RESPONSE; the PORT of its DETAIL is an
open value. -/
def State.kmdRetx (s : State) (ch : Nat) : State :=
  let c := s.chan ch
  match c.xfer.kmdSeq with
  | none => s
  | some (seq, n) =>
    if c.st ≠ .active ∨ c.xfer.phase ≠ .node ∨ s.frm.time.toNat < c.xfer.kmdAt + s.kmd.retxTime then s
    else if n < s.kmd.retries.toNat then
      ((({ s with kmd := { s.kmd with retxN := satInc s.kmd.retxN } } : State).updXfer ch fun x => { x with kmdSeq := some (seq, n + 1), kmdAt := s.frm.time.toNat }).sendFrame ch seq)
    else
      let s1 : State := { s with kmd := { s.kmd with timeouts := satInc s.kmd.timeouts } }
      let (w, s2) := s1.takeWord
      (s2.doneOnce ch 0).endSignal ch 8 stNoResponse (w.toNat % 256 + bitsOf c.xfer.param 8 18 * 256)

/-- KOMOND_RETX (R481). -/
def execKomondRetx (ch : Nat) (s : State) : Host.Outcome State Fault Refusal := .next (s.kmdRetx ch).served

end Sys2Proof.Machine
end

