-- ==== Sys2Proof/Machine/Ticks.lean ====
section
/-! DEFINITION. The tick: a frame opens, changes that wait for it take effect, budgets are reloaded, Hold ends, roles change and
parked work goes on (R202 to R218, R341, R358, R388 to R391, R415, R438 to R445, R461, R462, R472 to R474, R495). -/

namespace Sys2Proof.Machine
open Sys2Proof

/-! ### The frame timer at the tick (R202, R205, R209, R210) -/

/-- TIME at which the frame after a tick at t ends: the first multiple of the period at least half a period after it (R202, R210).
For a tick on a multiple of the period in force this is one period later. -/
def tickAfter (t period : Nat) : Nat := ceilDiv (t + (period + 1) / 2) (max 1 period) * max 1 period

/-- The tick opens the next frame, with its flags (R203, R209): HOLDOVER here, STEPPED where a first-lock step or the exit from L4 is
due. TIME has reached NEXT, or takes the stepped value (R205); NEXT follows R202, and one period on in a standby (R208). -/
def Frm.tick (f : Frm) (standby : Bool) : Frm :=
  let t := max f.time.toNat f.next.toNat
  let stepped := f.stepDue.isSome || f.stepMark
  let t1 : Nat := match f.stepDue with
    | some d => ((t : Int) + d).toNat
    | none => t
  let p := f.periodAct.toNat
  let nx := if stepped then nextTick t1 p else if standby then t + p else tickAfter t1 p
  { f with time := BitVec.ofNat 64 t1, opened := BitVec.ofNat 64 t1, next := BitVec.ofNat 64 nx, frame := f.frame + 1,
           flags := BitVec.ofNat 4 (2 * b2n stepped + 8 * b2n f.holdover), stepDue := none, stepMark := false,
           noCorr := if f.src = 1 && !standby then f.noCorr + 1 else f.noCorr, noEdge := if f.src = 2 && !standby then f.noEdge + 1 else f.noEdge }

/-- A period takes effect with the frame that the tick has opened (R210). -/
def Frm.newPeriod (f : Frm) (p : BitVec 20) : Frm :=
  if p = f.periodAct then f
  else { f with periodAct := p, flags := f.flags ||| 4, next := BitVec.ofNat 64 (tickAfter f.time.toNat p.toNat) }

/-! ### Changes that wait for the tick (R438) -/

/-- A port's configuration comes into force (R341, R360): on a die that drives the field the port is enabled or becomes OFF. -/
def State.commitPort (s : State) (p : Nat) (snap : Table Word32) : State :=
  let s1 := s.updPort p fun q => { q with act := snap }
  let on := s1.pEnabled p
  let s2 := s1.updPort p fun q => { q with wanted := on }
  if !s.drives then s2
  else if on then (if (s.port p).st = 0 then s2.upOrFault p else s2)
  else if (s.port p).st = 1 then (s2.updPort p fun q => { q with st := 0 }).portSafe p else s2

/-- OLD and NEW exchange code, its place and the declared bound in a library (R445). -/
def Library.swap (l : Library) (old new : Nat) (crn : Bool) : Library :=
  match l.routines.find? (fun r => r.num == old && r.crn == crn), l.routines.find? (fun r => r.num == new && r.crn == crn) with
  | some a, some b =>
    { l with routines := l.routines.map fun r =>
        if r.crn != crn then r
        else if r.num == old then { r with off := b.off, len := b.len, bound := b.bound, code := b.code }
        else if r.num == new then { r with off := a.off, len := a.len, bound := a.bound, code := a.code } else r }
  | _, _ => l

/-- The FWC switches to the other slot, which is in trial until FW_CONFIRM (R437, R440). -/
def State.switchFw (s : State) (frame : Nat) : State :=
  let slot := !s.prm.slot
  { (s.journalFw stOk slot true 1 frame) with
    prm := { s.prm with slot, trial := true, verified := false, staged := 0, activating := false, trialSlot := some slot, trialRan := true, trialFailed := false },
    aq := { s.aq with stopped := false } }

/-- Queues and channels as they stand after a start: every queue DISABLED, every channel unbound (R474). -/
def State.dropWork (s : State) : State :=
  let s1 := s.each (s.chans.map (·.1)) fun s ch => s.freeLseg ch
  { s1 with chans := [], queues := s1.queues.mapVals fun _ q => { q.asMirrored with st := .disabled, pause := false, seen := [] },
            link0 := s1.link0.staleWork, link1 := s1.link1.staleWork, late := [] }

/-- A PAIR_LEAVE acts (R474). -/
def State.leavePair (s : State) (kind : Nat) : State :=
  match kind with
  | 1 => s.goAlone
  | 2 => ({ s with ds := { s.ds with sub := 3, joinStep := 0, watching := false } } : State).pulse 0x406
  | _ => (({ s with ds := { s.ds with role := 0, sub := 0, fenceOut := true, mirror := [], unacked := [], txWait := [] } } : State).dropWork).pulse 0x406

/-- A change has taken effect, and its command is replied to: in a pair behind the acknowledgement of the CONFIG frame that carried it (R177,
R379). -/
def State.replyCommit (s : State) (gate : Option Nat) (c : AdmCmd) (res : List Nat) : State :=
  match gate.filter fun g => (s.ds.unacked ++ s.ds.txWait).any fun f => f.id = g with
  | some g =>
    let w : Egress := { kind := .admin c.cnt, addr := 0, bytes := c.reply stOk 0xFF res, eqs := 0, relaxed := false }
    { s with ds := { s.ds with gated := s.ds.gated ++ [{ id := g, md := s.aqModule, w, raise := false }] } }
  | none => s.replyOk c res none

/-- One change takes effect in the frame that the tick has opened, and its command is replied to (R383, R388 to R391, R438). -/
def State.applyChange (s : State) (c : Commit) : State :=
  let reply (s : State) (res : List Nat) : State := match c.reply with
    | some a => s.replyCommit c.gate a res
    | none => s
  let f := s.frm.frame.toNat
  match c.what with
  | .budgets snap ports period =>
    let s1 := s.each snap fun s e => s.updCls e.1 fun x => x.commit e.2
    let s2 := s1.each ports fun s e => s.updPort e.1 fun q => { q with bact := e.2 }
    reply { s2 with frm := s2.frm.newPeriod period } (frameRes f)
  | .ports snap => reply (s.each snap fun s e => s.commitPort e.1 e.2) []
  | .latFloor tol ok => reply { s with pwr := { s.pwr with dieTol := tol, l4ok := ok } } [tol.toNat]
  | .cal p b => reply (s.updPort p fun q => { q with cal := b }) []
  | .swap old new crn tiles =>
    reply { s.each (tilesOf tiles.toNat) (fun s t => s.updLib t fun l => l.swap old new crn) with prm := { s.prm with swapResult := 2 } } []
  | .firmware => reply (s.switchFw f) (frameRes f)
  | .leave k => reply (s.leavePair k) (frameRes f)

/-- The change takes effect now: its frame has come, and a firmware switch also waits until no other command is in progress (R440). -/
def State.isDue (s : State) (c : Commit) : Bool :=
  decide (c.frame ≤ s.frm.frame.toNat) && match c.what with
    | .firmware => decide (s.aq.cmds.length ≤ 1)
    | _ => true

/-- New budgets are due. -/
def State.budgetsDue (s : State) : Bool := s.commits.any fun c => s.isDue c && match c.what with
  | .budgets .. => true
  | _ => false

/-- Every change that is due takes effect, in the order accepted (R438). -/
def State.applyChanges (s : State) : State :=
  let due := s.commits.filter s.isDue
  ({ s with commits := s.commits.filter fun c => !s.isDue c } : State).each due State.applyChange

/-! ### The reload (R203, R214, R133) -/

/-- Every budget counter is reloaded (R214). What went beyond the SBEAT budget of the frame that has ended is its class's debt (R216), so
this comes before budgets that take effect at the tick. -/
def State.reloadBudgets (s : State) : State :=
  { s with classes := s.classes.mapVals fun _ x => reloadClass x, ports := s.ports.mapVals fun _ (q : Port) => ({ q with bspent := [] } : Port) }

/-- What else starts anew in every frame: JUMPS, placed bounds, LAT_TOL and POLL in force, alerts, grant waits
(R133, R203, R212, R300, R364), and the gate schedule at a cycle's start (R358). -/
def State.reload (s : State) : State :=
  let f := s.frm.frame.toNat
  let gateStart (p : Nat) : Bool := f % (bitsOf (s.pcfg p 0x100) 12 4 + 1) == 0
  { s with
    chans := s.chans.mapVals fun _ (c : Chan) => ({ c with jumps := 0 } : Chan),
    cores := s.cores.mapVals fun _ (c : Core) => ({ c with placed := 0 } : Core),
    queues := s.queues.mapVals fun _ (q : Queue) => ({ q with latTolAct := q.latTol, pollAct := q.poll } : Queue),
    ports := s.ports.mapVals fun p (q : Port) => ({ q with alerts := 0, alertMasked := false,
                                                           gate := if decide (portKind p = some .eth) && gateStart p then 0 else q.gate } : Port),
    hawk := { s.hawk with waits := s.hawk.waits.map fun (w : GrantWait) => ({ w with ticks := w.ticks + 1 } : GrantWait) } }

/-! ### Hold (R193, R209, R415) -/

/-- The frame is DIPPED, where the die is in Hold (R209). -/
def State.markDip (s : State) : State :=
  if s.hold then
    { s with frm := { s.frm with flags := s.frm.flags ||| 1, dippedN := satInc s.frm.dippedN }, pwr := { s.pwr with dipFrames := s.pwr.dipFrames + 1 } }
  else s

/-- Hold ends at a tick with every WARN condition over (R193, R415): arbiters and cores go on, the status records that it held back are made
(R192), SUPPLY_DIP is journalled. -/
def State.endHold (s : State) : State :=
  if s.hold && !s.pwr.warns then
    let s1 := s.journalRec stSupplyDip false false false midFwc s.dipPayload
    (((((({ s1 with hold := false } : State).holdScrs false).setLine 0x405 false).passLate).arrangeAll).reofferAll).routeAll
  else s

/-! ### VDD and temperature (R414, R495) -/

/-- The junction temperatures of a grade in degrees: alarm, its release, and the trip (R495). -/
def tempAlarm : Int := if Config.gradeE then 120 else 100
def tempRelease : Int := if Config.gradeE then 115 else 95
def tempTrip : Int := if Config.gradeE then 135 else 115

/-- What is measured once per frame: VDD, and the alarm by temperature (R495, R498, PWR_SUP). -/
def State.measure (s : State) (vddMv : BitVec 10) (temp : Int) : State :=
  { s with pwr := { s.pwr with vddMv, lowMv := if s.hold && decide (vddMv.toNat < s.pwr.lowMv.toNat) then vddMv else s.pwr.lowMv,
                               alarm1 := decide (tempAlarm ≤ temp) || (s.pwr.alarm1 && decide (tempRelease < temp)) } }

/-- The thermal trip (R495): the die halts and journals UNIT_FAULT with an all-zero payload. -/
def State.trip (s : State) : State :=
  (({ s with pwr := { s.pwr with goodLost := true } } : State).journalRec stUnitFault false false false midFwc 0).haltDie

/-! ### The pair at a tick (R461, R462, R465, R472, R473) -/

/-- What is left of a class's ceiling, as a BOUNDARY frame carries it (R461). -/
def State.remRec (s : State) (c : Nat) (e : Nat × Option Nat × Nat) : Option BoundaryRec :=
  e.2.1.map fun b => .floatRem c e.1 (BitVec.ofInt 25 ((b : Int) - (s.spentOf c e.1 : Int)))

/-- What the BOUNDARY mirror of a frame carries (R209, R460, R461): the remainders in force at its end for every class that spent budget
in it, JUMPS and progress of the programs, producer counts, and the frame's flags. -/
def State.boundaryRecs (s : State) : List BoundaryRec :=
  (s.classes.flatMap fun e => if e.2.spent.isEmpty then [] else
      (s.charges e.1 0 {} ++ (List.range 7).flatMap fun t => (s.charges e.1 (t + 1) {}).take 4).filterMap fun k =>
        if s.spentOf e.1 k.1 = 0 then none else s.remRec e.1 k)
    ++ (s.ports.flatMap fun e => e.2.bspent.map fun b => .busRem e.1 b.1 (BitVec.ofNat 20 (s.busRemain e.1 b.1)))
    ++ ((s.chans.filter fun e => e.2.bound && e.2.st ≠ .idle).map fun e => .progress e.1 e.2.jumps e.2.data (BitVec.ofNat 17 e.2.remain))
    ++ ((s.queues.filter fun e => e.2.st ≠ .disabled && !e.2.phase).map fun e => .prod e.1 e.2.prod)
    ++ [.flags s.frm.flags]

/-- The registers whose values a BULK snapshot carries: offset and size (R460, R472). -/
def bulkRegs : List (Nat × Nat) :=
  let words (base n : Nat) : List Nat := (List.range n).map fun i => base + 4 * i
  let all := words 0x7000 0x400 ++ words 0x20000 0x4000 ++ words 0x80000 0x1000 ++ words 0x90000 0x2800 ++ words 0xA0000 0x1000
    ++ words 0xB0000 0x400 ++ allPorts.flatMap fun p => words (portBase p) (if portKind p = some .eth then 0x1000 else 0x400)
  ((all.filter cfgCarried).filter fun o => !(isWide (wideAt o) && o % 8 == 4)).map fun o => (o, if isWide (wideAt o) then 8 else 4)

/-- The snapshot of a join: every item of R460, with the routine libraries and the handler sets (R472). The ledger slices follow in LEDGER
frames. -/
def State.bulkBody (s : State) : TxBody :=
  .bulk
    (s.chans.map fun e => { ch := e.1, groups := (List.range 4).map fun i => (i, BitVec.ofNat 128 (ofLeBytes ((e.2.lath.drop (16 * i)).take 16))),
                            recov := some (BitVec.ofNat 128 (ofLeBytes e.2.recovery)) })
    (s.queues.map fun e => s.queueRec e.1)
    ((bulkRegs.map fun r => .reg r.1 r.2 (BitVec.ofNat 64 (s.regWord midFwc 0 r.1 + if r.2 = 8 then s.regWord midFwc 0 (r.1 + 4) * 0x100000000 else 0)))
      ++ (s.chans.filterMap fun e => if e.2.bound then some (.bind e.1 e.2.queue e.2.lcells) else none)
      ++ (s.mbxs.map fun e => .role e.1 e.2.role e.2.epoch) ++ (s.kmd.node.map fun n => ConfigRec.node n).toList
      ++ (s.kmd.keys.map fun e => .key e.1 e.2.id e.2.rx e.2.tx e.2.bytes)
      ++ (s.libs.flatMap fun e => (e.2.routines.map fun r => .routine e.1 r.num r.crn r.off r.bound r.mbx r.code)
          ++ (e.2.handTrw.map fun h => ConfigRec.handlers e.1 false h.off h.words).toList
          ++ (e.2.handCrn.map fun h => ConfigRec.handlers e.1 true h.off h.words).toList)
      ++ (s.ports.map fun e => .calStored e.1 e.2.calStored) ++ [.attach s.prm.nextMode s.prm.subVendor s.prm.subId]
      ++ s.commits.flatMap fun c => c.what.recs (BitVec.ofNat 48 c.frame))

/-- The snapshot of a join goes to the partner, but not in Hold (R472, R475). -/
def State.joinTick (s : State) : State :=
  if s.ds.role = 1 ∧ s.ds.joinStep = 2 ∧ s.hold = false then
    let s1 := s.dsSend .bulk false s.bulkBody
    { s1 with ds := { s1.ds with joinStep := 3, sliceDue := List.range 8 } }.sendSlices
  else s

/-- Roles are exchanged (R473); after a takeover or an exchange dispatch begins (R465). -/
def State.roleTick (s : State) : State :=
  let s1 := if s.ds.role = 1 && s.ds.handing && s.handQuiet then s.standDown
    else if s.ds.role = 2 && s.ds.handDue then s.standUp else s
  if s1.ds.taking then
    let s2 := ({ s1 with ds := { s1.ds with taking := false } } : State).takeUpAll
    s2.each (s2.queues.map (·.1)) fun s q => s.kick q
  else s1

/-- The TICK block of a die that drives the field (R454). -/
def State.tickBlock (s : State) : State :=
  if s.drives && s.dsUp then { s with ds := { s.ds with tickOut := some s.frm.frame } } else s

/-- The boundary mirror of the frame that has ended, and the heartbeat (R461, R462). -/
def State.pairTick (s : State) (ended : List BoundaryRec) : State :=
  (((s.mirror .boundary false (.boundary ended)).joinTick).roleTick).sendHb false

/-! ### Work goes on (R218, R220, R358) -/

/-- A message that is ready to be sent tries again. -/
def State.retry (s : State) (ch : Nat) : State :=
  let c := s.chan ch
  if c.st = .active ∧ c.xfer.phase = .ready ∧ c.xfer.cmd = 0x10 then s.sendRemote ch else s

/-- Work goes on in the new frame (R218, R220): parked channels in their order, then units and messages that are ready. Those that wait for a
context, a ledger entry or a Cornice core are released when one is free, and not by the tick; new budgets may open a context. -/
def State.workOn (s : State) (budgets : Bool) : State :=
  if s.hold || s.ds.handing || s.ds.taking || !s.drives || s.die ≠ .ready then s
  else
    let s1 := s.each (s.parkedList fun w => !(w = .ledger || w = .cornice || (w = .context && !budgets))) fun s ch => s.release ch
    let s2 := s1.each ((s1.chans.filter fun e => e.2.xfer.phase == .ready).map (·.1)) fun s ch => s.retry ch
    (s2.each (s2.ports.map (·.1)) fun s p => (s.kickPort p).pumpPort p).served

/-! ### TICK -/

/-- FRAME_SYNC is driven high at the tick of a die that drives the field, where SYNC_OUT and SRC allow it (R203, R207). -/
def State.driveSync (s : State) : State :=
  { s with frm := { s.frm with syncPin := s.frm.syncOut && s.frm.src ≠ 2 && s.drives && s.die = .ready } }

/-- The tick of a die that is READY (R203). -/
def State.tickReady (s : State) (vddMv : BitVec 10) (temp : Int) : State :=
  let s1 : State := { s with frm := s.frm.tick (s.ds.role = 2) }
  let s2 := s1.measure vddMv temp
  if tempTrip ≤ temp then s2.trip
  else
    let s4 := (s2.reloadBudgets.applyChanges.reload).endHold.markDip
    let s5 := if bitOf s4.frm.flags 1 then (s4.pulse 0x401).pulse 0x402 else s4.pulse 0x401
    let s6 := (s5.tickBlock.pairTick s.boundaryRecs).driveSync
    if s6.die = .ready then (s6.retarget.workOn s2.budgetsDue).aqKick else s6

/-- TICK (R202, R203): the time up to the tick has passed, and the tick falls as TIME reaches NEXT. A die that is not READY keeps its time and
its frame number while the timer's clock runs, and does nothing else (R194, R202). -/
def execTick (vddMv : BitVec 10) (temp : Int) (s : State) : Host.Outcome State Fault Refusal :=
  .next (if !s.timerRuns then s else
    let s1 := ({ s with frm := s.frm.passTo s.frm.next.toNat } : State).fenceStep
    if s.die = .ready then s1.tickReady vddMv temp else { s1 with frm := s1.frm.tick (s.ds.role = 2) })

end Sys2Proof.Machine
end

