-- ==== Sys2Proof/Machine/Dispatch.lean ====
section
/-! DEFINITION. The meaning of each command, one arm per row of the opcode table. -/

namespace Sys2Proof.Machine
open Sys2Proof

/-- The effect of a command on everything but the queue. -/
def exec (i : Instr) (s : State) : Host.Outcome State Fault Refusal :=
  match i with
  | .dbCount m q count => Sys2Proof.Machine.execDbCount m q count s
  | .dbFetch m q v => Sys2Proof.Machine.execDbFetch m q v s
  | .queueEnable m q pause => Sys2Proof.Machine.execQueueEnable m q pause s
  | .queueDisable m q pause => Sys2Proof.Machine.execQueueDisable m q pause s
  | .queueRestart m q pause => Sys2Proof.Machine.execQueueRestart m q pause s
  | .queuePause m q pause => Sys2Proof.Machine.execQueuePause m q pause s
  | .registerWrite sp m off size v => Sys2Proof.Machine.execRegisterWrite sp m off size v s
  | .lowerHalfRead m off => Sys2Proof.Machine.execLowerHalfRead m off s
  | .rclrRead sp m off size => Sys2Proof.Machine.execRclrRead sp m off size s
  | .windowWrite m off bytes => Sys2Proof.Machine.execWindowWrite m off bytes s
  | .nlnkRelease md v => Sys2Proof.Machine.execNlnkRelease md v s
  | .nlnkDiscard md v => Sys2Proof.Machine.execNlnkDiscard md v s
  | .conventionalReset md => Sys2Proof.Machine.execConventionalReset md s
  | .powerStateChange md d3 => Sys2Proof.Machine.execPowerStateChange md d3 s
  | .msixEnable md funcMask => Sys2Proof.Machine.execMsixEnable md funcMask s
  | .vectorUnmask md vec => Sys2Proof.Machine.execVectorUnmask md vec s
  | .vectorMask md vec => Sys2Proof.Machine.execVectorMask md vec s
  | .vectorControlRead md vec => Sys2Proof.Machine.execVectorControlRead md vec s
  | .l1EntryRequest md l2 => Sys2Proof.Machine.execL1EntryRequest md l2 s
  | .linkIdleExpiry md => Sys2Proof.Machine.execLinkIdleExpiry md s
  | .linkExitComplete md => Sys2Proof.Machine.execLinkExitComplete md s
  | .pmeStatusClear md => Sys2Proof.Machine.execPmeStatusClear md s
  | .d2dCrcError md => Sys2Proof.Machine.execD2dCrcError md s
  | .completionError md idx cause => Sys2Proof.Machine.execCompletionError md idx cause s
  | .completionTimeout md idx => Sys2Proof.Machine.execCompletionTimeout md idx s
  | .unexpectedCompletion md => Sys2Proof.Machine.execUnexpectedCompletion md s
  | .malformedRequest r => Sys2Proof.Machine.execMalformedRequest r s
  | .linkLeaveActive md => Sys2Proof.Machine.execLinkLeaveActive md s
  | .linkRetrainComplete md rate x8 => Sys2Proof.Machine.execLinkRetrainComplete md rate x8 s
  | .moduleLoss md => Sys2Proof.Machine.execModuleLoss md s
  | .linkGraceExpiry md => Sys2Proof.Machine.execLinkGraceExpiry md s
  | .queueTurn => Sys2Proof.Machine.execQueueTurn s
  | .phasePoll q => Sys2Proof.Machine.execPhasePoll q s
  | .descriptorReadComplete q slots => Sys2Proof.Machine.execDescriptorReadComplete q slots s
  | .pcntReadComplete q count => Sys2Proof.Machine.execPcntReadComplete q count s
  | .start q => Sys2Proof.Machine.execStart q s
  | .resume q => Sys2Proof.Machine.execResume q s
  | .halt q => Sys2Proof.Machine.execHalt q s
  | .clear q => Sys2Proof.Machine.execClear q s
  | .modify q => Sys2Proof.Machine.execModify q s
  | .fence q => Sys2Proof.Machine.execFence q s
  | .note q => Sys2Proof.Machine.execNote q s
  | .pad q => Sys2Proof.Machine.execPad q s
  | .dispatch ch => Sys2Proof.Machine.execDispatch ch s
  | .ccwBlockArrive ch words => Sys2Proof.Machine.execCcwBlockArrive ch words s
  | .write ch => Sys2Proof.Machine.execWrite ch s
  | .read ch => Sys2Proof.Machine.execRead ch s
  | .control ch => Sys2Proof.Machine.execControl ch s
  | .sense ch => Sys2Proof.Machine.execSense ch s
  | .jump ch => Sys2Proof.Machine.execJump ch s
  | .ccwNop ch => Sys2Proof.Machine.execCcwNop ch s
  | .waitf ch => Sys2Proof.Machine.execWaitf ch s
  | .waitfExpiry ch => Sys2Proof.Machine.execWaitfExpiry ch s
  | .waite ch => Sys2Proof.Machine.execWaite ch s
  | .waiteTimeout ch => Sys2Proof.Machine.execWaiteTimeout ch s
  | .run ch => Sys2Proof.Machine.execRun ch s
  | .runDispatch ch => Sys2Proof.Machine.execRunDispatch ch s
  | .post ch => Sys2Proof.Machine.execPost ch s
  | .skipif ch => Sys2Proof.Machine.execSkipif ch s
  | .exch ch => Sys2Proof.Machine.execExch ch s
  | .signal ch => Sys2Proof.Machine.execSignal ch s
  | .chEvtPendWrite m ch bits => Sys2Proof.Machine.execChEvtPendWrite m ch bits s
  | .portUnitComplete ch r => Sys2Proof.Machine.execPortUnitComplete ch r s
  | .cycleBoundExpiry core ctx => Sys2Proof.Machine.execCycleBoundExpiry core ctx s
  | .tick vddMv temp => Sys2Proof.Machine.execTick vddMv temp s
  | .frameSyncFall => Sys2Proof.Machine.execFrameSyncFall s
  | .frmStep m v => Sys2Proof.Machine.execFrmStep m v s
  | .frameSyncEdge err => Sys2Proof.Machine.execFrameSyncEdge err s
  | .ptpHoldover => Sys2Proof.Machine.execPtpHoldover s
  | .syncHoldover => Sys2Proof.Machine.execSyncHoldover s
  | .nop core ctx => Sys2Proof.Machine.execNop core ctx s
  | .mov core ctx => Sys2Proof.Machine.execMov core ctx s
  | .add core ctx => Sys2Proof.Machine.execAdd core ctx s
  | .adc core ctx => Sys2Proof.Machine.execAdc core ctx s
  | .sub core ctx => Sys2Proof.Machine.execSub core ctx s
  | .sbb core ctx => Sys2Proof.Machine.execSbb core ctx s
  | .and core ctx => Sys2Proof.Machine.execAnd core ctx s
  | .or core ctx => Sys2Proof.Machine.execOr core ctx s
  | .xor core ctx => Sys2Proof.Machine.execXor core ctx s
  | .not core ctx => Sys2Proof.Machine.execNot core ctx s
  | .neg core ctx => Sys2Proof.Machine.execNeg core ctx s
  | .shl core ctx => Sys2Proof.Machine.execShl core ctx s
  | .shr core ctx => Sys2Proof.Machine.execShr core ctx s
  | .sar core ctx => Sys2Proof.Machine.execSar core ctx s
  | .rol core ctx => Sys2Proof.Machine.execRol core ctx s
  | .mul core ctx => Sys2Proof.Machine.execMul core ctx s
  | .mulhu core ctx => Sys2Proof.Machine.execMulhu core ctx s
  | .mulhs core ctx => Sys2Proof.Machine.execMulhs core ctx s
  | .divu core ctx => Sys2Proof.Machine.execDivu core ctx s
  | .remu core ctx => Sys2Proof.Machine.execRemu core ctx s
  | .movq core ctx => Sys2Proof.Machine.execMovq core ctx s
  | .addq core ctx => Sys2Proof.Machine.execAddq core ctx s
  | .cmp core ctx => Sys2Proof.Machine.execCmp core ctx s
  | .tst core ctx => Sys2Proof.Machine.execTst core ctx s
  | .seq core ctx => Sys2Proof.Machine.execSeq core ctx s
  | .sne core ctx => Sys2Proof.Machine.execSne core ctx s
  | .slt core ctx => Sys2Proof.Machine.execSlt core ctx s
  | .sge core ctx => Sys2Proof.Machine.execSge core ctx s
  | .sltu core ctx => Sys2Proof.Machine.execSltu core ctx s
  | .sgeu core ctx => Sys2Proof.Machine.execSgeu core ctx s
  | .sbs core ctx => Sys2Proof.Machine.execSbs core ctx s
  | .sbz core ctx => Sys2Proof.Machine.execSbz core ctx s
  | .sxx core ctx => Sys2Proof.Machine.execSxx core ctx s
  | .skf core ctx => Sys2Proof.Machine.execSkf core ctx s
  | .jmpr core ctx => Sys2Proof.Machine.execJmpr core ctx s
  | .callr core ctx => Sys2Proof.Machine.execCallr core ctx s
  | .ret core ctx => Sys2Proof.Machine.execRet core ctx s
  | .jmpk core ctx => Sys2Proof.Machine.execJmpk core ctx s
  | .callk core ctx => Sys2Proof.Machine.execCallk core ctx s
  | .jmp core ctx => Sys2Proof.Machine.execJmp core ctx s
  | .call core ctx => Sys2Proof.Machine.execCall core ctx s
  | .retx core ctx => Sys2Proof.Machine.execRetx core ctx s
  | .trap core ctx => Sys2Proof.Machine.execTrap core ctx s
  | .exit core ctx => Sys2Proof.Machine.execExit core ctx s
  | .wfe core ctx => Sys2Proof.Machine.execWfe core ctx s
  | .sev core ctx => Sys2Proof.Machine.execSev core ctx s
  | .waitt core ctx => Sys2Proof.Machine.execWaitt core ctx s
  | .waittExpiry core ctx => Sys2Proof.Machine.execWaittExpiry core ctx s
  | .lseg core ctx => Sys2Proof.Machine.execLseg core ctx s
  | .sseg core ctx => Sys2Proof.Machine.execSseg core ctx s
  | .mfsr core ctx => Sys2Proof.Machine.execMfsr core ctx s
  | .mtsr core ctx => Sys2Proof.Machine.execMtsr core ctx s
  | .movk core ctx => Sys2Proof.Machine.execMovk core ctx s
  | .loop core ctx => Sys2Proof.Machine.execLoop core ctx s
  | .movb core ctx => Sys2Proof.Machine.execMovb core ctx s
  | .fillb core ctx => Sys2Proof.Machine.execFillb core ctx s
  | .bfext core ctx => Sys2Proof.Machine.execBfext core ctx s
  | .bfins core ctx => Sys2Proof.Machine.execBfins core ctx s
  | .clz core ctx => Sys2Proof.Machine.execClz core ctx s
  | .bperm core ctx => Sys2Proof.Machine.execBperm core ctx s
  | .coreReadComplete core ctx cycles => Sys2Proof.Machine.execCoreReadComplete core ctx cycles s
  | .interruptAccept core => Sys2Proof.Machine.execInterruptAccept core s
  | .coreRecoveryComplete core testOk => Sys2Proof.Machine.execCoreRecoveryComplete core testOk s
  | .corniceLockTimeout tile => Sys2Proof.Machine.execCorniceLockTimeout tile s
  | .contextMigrate core ctx => Sys2Proof.Machine.execContextMigrate core ctx s
  | .hwkAlloc m ctx => Sys2Proof.Machine.execHwkAlloc m ctx s
  | .hwkFree m v => Sys2Proof.Machine.execHwkFree m v s
  | .hwkClsWrite m acct v => Sys2Proof.Machine.execHwkClsWrite m acct v s
  | .creditRefill producer => Sys2Proof.Machine.execCreditRefill producer s
  | .hawkGrantTimeout ch => Sys2Proof.Machine.execHawkGrantTimeout ch s
  | .eccCorrected loc => Sys2Proof.Machine.execEccCorrected loc s
  | .eccUncorrectableError loc => Sys2Proof.Machine.execEccUncorrectableError loc s
  | .mbxSend m ctx mb v => Sys2Proof.Machine.execMbxSend m ctx mb v s
  | .mbxPop m ctx mb => Sys2Proof.Machine.execMbxPop m ctx mb s
  | .mbxDisable m mb v => Sys2Proof.Machine.execMbxDisable m mb v s
  | .semAcquire m n => Sys2Proof.Machine.execSemAcquire m n s
  | .semRelease m n v => Sys2Proof.Machine.execSemRelease m n v s
  | .semForce m n => Sys2Proof.Machine.execSemForce m n s
  | .scrimRequest bank who b cls => Sys2Proof.Machine.execScrimRequest bank who b cls s
  | .scrimTransferComplete arb => Sys2Proof.Machine.execScrimTransferComplete arb s
  | .scrimWatchdogBite arb => Sys2Proof.Machine.execScrimWatchdogBite arb s
  | .scrimFreeze m arb v => Sys2Proof.Machine.execScrimFreeze m arb v s
  | .lineEvent src level => Sys2Proof.Machine.execLineEvent src level s
  | .icScfgWrite m src v => Sys2Proof.Machine.execIcScfgWrite m src v s
  | .icTake m t n => Sys2Proof.Machine.execIcTake m t n s
  | .icTakeRead m t => Sys2Proof.Machine.execIcTakeRead m t s
  | .icDone m t n => Sys2Proof.Machine.execIcDone m t n s
  | .icSwset m n => Sys2Proof.Machine.execIcSwset m n s
  | .icFlush m v => Sys2Proof.Machine.execIcFlush m v s
  | .moderationDeadline md vec => Sys2Proof.Machine.execModerationDeadline md vec s
  | .portFault port cause => Sys2Proof.Machine.execPortFault port cause s
  | .faultClearTimeout port => Sys2Proof.Machine.execFaultClearTimeout port s
  | .busOffRecoveryComplete port => Sys2Proof.Machine.execBusOffRecoveryComplete port s
  | .clrFault m port absent => Sys2Proof.Machine.execClrFault m port absent s
  | .lift m port node => Sys2Proof.Machine.execLift m port node s
  | .liftAll m port => Sys2Proof.Machine.execLiftAll m port s
  | .diag m port readings => Sys2Proof.Machine.execDiag m port readings s
  | .frameReceive port f => Sys2Proof.Machine.execFrameReceive port f s
  | .rxholdExpiry port => Sys2Proof.Machine.execRxholdExpiry port s
  | .rxTimeout ch => Sys2Proof.Machine.execRxTimeout ch s
  | .modbusResponseTimeout ch => Sys2Proof.Machine.execModbusResponseTimeout ch s
  | .sclStretchTimeout port => Sys2Proof.Machine.execSclStretchTimeout port s
  | .beaconHoldExpiry port => Sys2Proof.Machine.execBeaconHoldExpiry port s
  | .lineTest ch readings => Sys2Proof.Machine.execLineTest ch readings s
  | .plcaSync ch => Sys2Proof.Machine.execPlcaSync ch s
  | .rxFlush ch => Sys2Proof.Machine.execRxFlush ch s
  | .brk ch => Sys2Proof.Machine.execBrk ch s
  | .idleClocks ch => Sys2Proof.Machine.execIdleClocks ch s
  | .busRecovery ch => Sys2Proof.Machine.execBusRecovery ch s
  | .linkRestart ch => Sys2Proof.Machine.execLinkRestart ch s
  | .gpioEdge port line level => Sys2Proof.Machine.execGpioEdge port line level s
  | .gpioTimerMatch port line => Sys2Proof.Machine.execGpioTimerMatch port line s
  | .pwmPeriodStart port line => Sys2Proof.Machine.execPwmPeriodStart port line s
  | .adcConversion input code => Sys2Proof.Machine.execAdcConversion input code s
  | .adcMonitor input code => Sys2Proof.Machine.execAdcMonitor input code s
  | .gateEntryExpiry mac => Sys2Proof.Machine.execGateEntryExpiry mac s
  | .ethTxtsPop m mac => Sys2Proof.Machine.execEthTxtsPop m mac s
  | .aqProd m v => Sys2Proof.Machine.execAqProd m v s
  | .aqRcons m v => Sys2Proof.Machine.execAqRcons m v s
  | .aqEnable m => Sys2Proof.Machine.execAqEnable m s
  | .aqDisable m => Sys2Proof.Machine.execAqDisable m s
  | .aqRestart m => Sys2Proof.Machine.execAqRestart m s
  | .adminPacketRead words => Sys2Proof.Machine.execAdminPacketRead words s
  | .identify => Sys2Proof.Machine.execIdentify s
  | .getFeatures => Sys2Proof.Machine.execGetFeatures s
  | .setAttach => Sys2Proof.Machine.execSetAttach s
  | .queueQuery => Sys2Proof.Machine.execQueueQuery s
  | .bindChannel => Sys2Proof.Machine.execBindChannel s
  | .unbindChannel => Sys2Proof.Machine.execUnbindChannel s
  | .routineLoad code => Sys2Proof.Machine.execRoutineLoad code s
  | .handlerSetLoad code => Sys2Proof.Machine.execHandlerSetLoad code s
  | .routineUnload => Sys2Proof.Machine.execRoutineUnload s
  | .budgetCommit => Sys2Proof.Machine.execBudgetCommit s
  | .latFloor => Sys2Proof.Machine.execLatFloor s
  | .portCommit => Sys2Proof.Machine.execPortCommit s
  | .calibrateMeasure block => Sys2Proof.Machine.execCalibrateMeasure block s
  | .calibrateLoad block => Sys2Proof.Machine.execCalibrateLoad block s
  | .calibrateRead => Sys2Proof.Machine.execCalibrateRead s
  | .calibrateStore => Sys2Proof.Machine.execCalibrateStore s
  | .fwStage bytes => Sys2Proof.Machine.execFwStage bytes s
  | .fwVerify => Sys2Proof.Machine.execFwVerify s
  | .fwActivate => Sys2Proof.Machine.execFwActivate s
  | .fwActivateLive => Sys2Proof.Machine.execFwActivateLive s
  | .fwConfirm => Sys2Proof.Machine.execFwConfirm s
  | .journalRead => Sys2Proof.Machine.execJournalRead s
  | .sleepNotice => Sys2Proof.Machine.execSleepNotice s
  | .pairStatus => Sys2Proof.Machine.execPairStatus s
  | .pairJoin => Sys2Proof.Machine.execPairJoin s
  | .pairHandover => Sys2Proof.Machine.execPairHandover s
  | .pairLeave => Sys2Proof.Machine.execPairLeave s
  | .kmdNode => Sys2Proof.Machine.execKmdNode s
  | .kmdKeySet => Sys2Proof.Machine.execKmdKeySet s
  | .kmdKeyRetire => Sys2Proof.Machine.execKmdKeyRetire s
  | .kmdRole => Sys2Proof.Machine.execKmdRole s
  | .domainIdleExpiry d => Sys2Proof.Machine.execDomainIdleExpiry d s
  | .wakeRequest d cause => Sys2Proof.Machine.execWakeRequest d cause s
  | .domainWakeComplete d => Sys2Proof.Machine.execDomainWakeComplete d s
  | .l4Entry => Sys2Proof.Machine.execL4Entry s
  | .l4TimerWake => Sys2Proof.Machine.execL4TimerWake s
  | .pairPresentFall => Sys2Proof.Machine.execPairPresentFall s
  | .ucieL2Exit md => Sys2Proof.Machine.execUcieL2Exit md s
  | .l4ExitComplete elapsed => Sys2Proof.Machine.execL4ExitComplete elapsed s
  | .supplyWarn rail => Sys2Proof.Machine.execSupplyWarn rail s
  | .supplyWarnRelease rail => Sys2Proof.Machine.execSupplyWarnRelease rail s
  | .holdTimeout => Sys2Proof.Machine.execHoldTimeout s
  | .supplyReset rail => Sys2Proof.Machine.execSupplyReset rail s
  | .refclkLoss => Sys2Proof.Machine.execRefclkLoss s
  | .xtalStop => Sys2Proof.Machine.execXtalStop s
  | .groupReset m g => Sys2Proof.Machine.execGroupReset m g s
  | .coldStart r => Sys2Proof.Machine.execColdStart r s
  | .warmrstFall => Sys2Proof.Machine.execWarmrstFall s
  | .warmStart r => Sys2Proof.Machine.execWarmStart r s
  | .prmRestart m => Sys2Proof.Machine.execPrmRestart m s
  | .selfRestart r => Sys2Proof.Machine.execSelfRestart r s
  | .clrRetry m => Sys2Proof.Machine.execClrRetry m s
  | .clrFallback m => Sys2Proof.Machine.execClrFallback m s
  | .prmSwap m v => Sys2Proof.Machine.execPrmSwap m v s
  | .gctlFreeze m v => Sys2Proof.Machine.execGctlFreeze m v s
  | .gctlFreezeCrn m v => Sys2Proof.Machine.execGctlFreezeCrn m v s
  | .journalFlush => Sys2Proof.Machine.execJournalFlush s
  | .heartbeat h b => Sys2Proof.Machine.execHeartbeat h b s
  | .heartbeatCheck => Sys2Proof.Machine.execHeartbeatCheck s
  | .ack h => Sys2Proof.Machine.execAck h s
  | .nack h expect => Sys2Proof.Machine.execNack h expect s
  | .ledger h entries => Sys2Proof.Machine.execLedger h entries s
  | .lath h recs => Sys2Proof.Machine.execLath h recs s
  | .queue h recs => Sys2Proof.Machine.execQueue h recs s
  | .egress h recs => Sys2Proof.Machine.execEgress h recs s
  | .boundary h recs => Sys2Proof.Machine.execBoundary h recs s
  | .config h recs => Sys2Proof.Machine.execConfig h recs s
  | .bulk h laths queues cfgs => Sys2Proof.Machine.execBulk h laths queues cfgs s
  | .join h step stateVer => Sys2Proof.Machine.execJoin h step stateVer s
  | .handover h eqs0 eqs1 => Sys2Proof.Machine.execHandover h eqs0 eqs1 s
  | .align lane => Sys2Proof.Machine.execAlign lane s
  | .tickOrderedSet frame off => Sys2Proof.Machine.execTickOrderedSet frame off s
  | .fenceEcho level => Sys2Proof.Machine.execFenceEcho level s
  | .ackTimeout => Sys2Proof.Machine.execAckTimeout s
  | .fenceInRise => Sys2Proof.Machine.execFenceInRise s
  | .fenceWatchExpiry level => Sys2Proof.Machine.execFenceWatchExpiry level s
  | .fenceArbitrationRound sample1 sample2 => Sys2Proof.Machine.execFenceArbitrationRound sample1 sample2 s
  | .laneDown lane => Sys2Proof.Machine.execLaneDown lane s
  | .laneUp lane => Sys2Proof.Machine.execLaneUp lane s
  | .kmdData mac bytes => Sys2Proof.Machine.execKmdData mac bytes s
  | .kmdAck mac bytes => Sys2Proof.Machine.execKmdAck mac bytes s
  | .kmdRefuse mac bytes => Sys2Proof.Machine.execKmdRefuse mac bytes s
  | .kmdBounce mac bytes => Sys2Proof.Machine.execKmdBounce mac bytes s
  | .kmdAnnounce mac bytes => Sys2Proof.Machine.execKmdAnnounce mac bytes s
  | .komondRetx ch => Sys2Proof.Machine.execKomondRetx ch s
  | .dbgAccess dr => Sys2Proof.Machine.execDbgAccess dr s
  | .idcode => Sys2Proof.Machine.execIdcode s
  | .bypass => Sys2Proof.Machine.execBypass s
  | .samplePreload pins => Sys2Proof.Machine.execSamplePreload pins s
  | .extest => Sys2Proof.Machine.execExtest s
  | .porNFall => Sys2Proof.Machine.execPorNFall s
  | .xtalStart => Sys2Proof.Machine.execXtalStart s
  | .slewEnd => Sys2Proof.Machine.execSlewEnd s
  | .uartIdleLineExpiry port => Sys2Proof.Machine.execUartIdleLineExpiry port s
  | .dataReadComplete ch bytes => Sys2Proof.Machine.execDataReadComplete ch bytes s
  | .earlyLinkExit md => Sys2Proof.Machine.execEarlyLinkExit md s
  | .smbalertAssert port => Sys2Proof.Machine.execSmbalertAssert port s
  | .plcaBeacon port found => Sys2Proof.Machine.execPlcaBeacon port found s

end Sys2Proof.Machine
end

