-- ==== Sys2Proof/Machine/Idle.lean ====
section
/-! DEFINITION. What the block does on an empty queue: one 10 ns cycle of the frame timer and of the egress
queues (log 12). -/

namespace Sys2Proof.Machine
open Sys2Proof

/-- A PAUSE that a MAC honours is over: what it held back goes out (ETH_CFG.PAUSE_RX). -/
def State.pauseEnds (s : State) (p : Nat) : State :=
  if (s.port p).pauseTo ≠ 0 ∧ (s.port p).pauseTo ≤ s.frm.time.toNat then (s.updPort p fun q => { q with pauseTo := 0 }).kickPort p else s

/-- The idle step (log 12): once TIME has reached NEXT the tick is due, and no time passes before it. -/
def idleCycle (s : State) : State :=
  let s1 := { s with link0 := drainLink s.link0, link1 := drainLink s.link1 }
  let s2 := (((s1.pump 0).pump 1).keepHeld 0).keepHeld 1
  let s3 : State := if s.timerRuns && decide (s.frm.time.toNat < s.frm.next.toNat) then { s2 with frm := s2.frm.cycle } else s2
  (s3.each [0x60, 0x61, 0x62, 0x63] State.pauseEnds).fenceStep

end Sys2Proof.Machine
end

