-- ==== Sys2Proof/Machine/Pins.lean ====
section
/-! DEFINITION. The status outputs of the die as its state shows them (R81, R207, R289, R450, R498, R499): the level of each pin, true for
high. WAKE_OUT_N and FRAME_SYNC stand in the state. -/

namespace Sys2Proof.Machine
open Sys2Proof

/-- LOCKUP_N: low while a bit of GCTL.CORE_LOCK or GCTL.CRN_LOCK is 1 (R498). -/
def State.lockupN (s : State) : Bool := s.gctl.coreLock = 0 && s.gctl.crnLock = 0

/-- HALTED_N: low in reset and in a start, STOPPED or halted (R498). -/
def State.haltedN (s : State) : Bool := s.die = .ready || s.die = .l4

/-- ALARM0_N: low while a field port is in FAULT, ISOLATED or OOS (R498). -/
def State.alarm0N (s : State) : Bool := s.ports.all fun e => e.2.st = 0 || e.2.st = 1

/-- ALARM1_N (R495, R498). -/
def State.alarm1N (s : State) : Bool := !s.pwr.alarm1

/-- WAKE_OUT_N (R81, R406). -/
def State.wakeOutN (s : State) : Bool := !s.wakeOut

/-- FENCE_OUT_N (R450). -/
def State.fenceOutN (s : State) : Bool := !s.ds.fenceOut

/-- PWR_GOOD (R499): a reset whose next start is a cold one is under POR_N or a RESET condition. -/
def State.pwrGood (s : State) : Bool :=
  !s.porLow && !(s.die = .reset && s.prm.due == 0) && !s.pwr.warns && !s.pwr.goodLost

/-! ### Field outputs (R362, R489) -/

/-- The kinds of field outputs that R489 names. -/
inductive FieldOut where
  | canTx
  | uartTx
  | uartDe
  | spiCs
  | spiSclk
  | spiMosi
  | other
deriving DecidableEq, Repr

/-- Field outputs are driven, and not held by their pulls alone: from step S10 of a start on (R489, R504). -/
def State.fieldDriven (s : State) : Bool :=
  match s.die with
  | .ready | .l4 => true
  | .halted => s.prm.st = 1
  | .reset => s.ds.arbRound.isSome
  | .stopped => decide (9 < s.prm.failStep)

/-- CPOL of the first enabled chip select of an SPI port, from the first commit that enables one on (R489). -/
def State.sclkIdle (s : State) (p : Nat) : Bool :=
  match (List.range 4).find? fun k => bitOf (s.pcfg p (0x100 + 4 * k)) 27 with
  | some k => bitOf (s.pcfg p (0x100 + 4 * k)) 1
  | none => false

/-- The level at which a field output of a port stands while nothing is sent, before the first enable and in the safe state, driven or
through its pull; none for one that is high impedance (R362, R489). -/
def State.heldLevel (s : State) (p : Nat) (o : FieldOut) : Option Bool :=
  match o with
  | .canTx | .uartTx | .spiCs => some true
  | .uartDe | .spiMosi => some false
  | .spiSclk => some (s.sclkIdle p)
  | .other => none

end Sys2Proof.Machine
end

