-- ==== Sys2Proof/WellFormed.lean ====
section
/-! DEFINITION. Which commands name things that the die has: the ranges of the operands (R25, R26, R31, R49, R54, R144, R304, R310,
R323, R398). -/

namespace Sys2Proof

/-- A UCIe module (R54). -/
def wfMd (md : Nat) : Bool := decide (md < 2)
/-- A master ID of the table of R49, which no other value leaves. -/
def wfMid (m : Nat) : Bool :=
  decide (m ≤ 1) || m == 0x010 || (decide (0x020 ≤ m) && decide (m ≤ 0x027)) || (decide (0x040 ≤ m) && decide (m ≤ 0x08F))
    || m == 0x100 || m == 0x110 || m == 0x1FF
/-- A work queue (R25). -/
def wfQ (q : Nat) : Bool := decide (q < 1024)
/-- A channel (R25). -/
def wfCh (ch : Nat) : Bool := decide (ch < 4096)
/-- A core and a context of it: 8 contexts on a Trowel core, 4 on a Cornice core (R26, R262). -/
def wfCore (core : Nat) : Bool := decide (core < 72)
def wfCtx (core ctx : Nat) : Bool := wfCore core && decide (ctx < if core < 64 then 8 else 4)
/-- A PORT code of a port (R144). -/
def wfPort (p : Nat) : Bool := decide (p < 0x56) || p == 0x58 || (decide (0x60 ≤ p) && decide (p < 0x64))
/-- A bank arbiter (R31). -/
def wfArb (a : Nat) : Bool := decide (a < 40)
/-- A size that an access of the register blocks may have; R41 says what one of another size or alignment than the blocks accept does. -/
def wfSize (size : Nat) : Bool := decide (0 < size) && decide (size ≤ 8)
/-- A size that a read may have: up to the largest read request (R42, R66). -/
def wfReadSize (size : Nat) : Bool := decide (0 < size) && decide (size ≤ 512)

/-- The space that an access names exists. -/
def Space.wf : Space → Bool
  | .bar0 => true
  | .bar2 md => wfMd md
  | .cfg md => wfMd md
  | .seqr ch => wfCh ch

/-- The master of an access fits its space: a sequencer's access is made by one of the two of the channel's tile (R27, R49). -/
def Space.wfWho (sp : Space) (m : Nat) : Bool := match sp with
  | .seqr ch => m == 0x80 + 2 * (ch / 512) || m == 0x81 + 2 * (ch / 512)
  | _ => wfMid m

/-- The bank exists (R31). -/
def Bank.wf : Bank → Bool
  | .hawkCell k => decide (k < 32768)
  | .lath t | .portUnit t => decide (t < 8)
  | .mac m => decide (m < 4)
  | .gpioAdc | .fwcMram => true
  | .egress md => wfMd md

/-- The requester exists (R49, R144). -/
def Requester.wf : Requester → Bool
  | .master m => wfMid m
  | .queueArbiter => true
  | .port p => wfPort p

/-- The place of an ECC error exists (R29). -/
def EccLoc.wf : EccLoc → Bool
  | .hawkCell k => decide (k < 32768)
  | .lathEntry ch => wfCh ch
  | .coreOperand core ctx _ _ _ => wfCtx core ctx
  | .coreVector core ctx => wfCtx core ctx
  | .coreTsb core ctx => wfCtx core ctx
  | .sequencerUnit tile => decide (tile < 8)
  | .portUnit tile => decide (tile < 8)
  | .dieUnit => true
  | .bootCopy i => decide (i < 2)
  | .journalRecord _ => true
  | .ledgerSlot i => decide (i < 8192)

/-- Every operand of a command lies in its range. -/
def Instr.wf : Instr → Bool
  | .dbCount m q _ | .dbFetch m q _ | .queueEnable m q _ | .queueDisable m q _ | .queueRestart m q _ | .queuePause m q _ => wfMid m && wfQ q
  | .registerWrite sp m _ size _ => sp.wf && sp.wfWho m && wfSize size
  | .rclrRead sp m _ size => sp.wf && sp.wfWho m && wfReadSize size
  | .lowerHalfRead m off => wfMid m && off % 8 == 0
  | .windowWrite m _ _ => wfMid m
  | .nlnkRelease md _ | .nlnkDiscard md _ | .conventionalReset md | .powerStateChange md _ | .msixEnable md _ | .l1EntryRequest md _
  | .linkIdleExpiry md | .linkExitComplete md | .pmeStatusClear md | .d2dCrcError md | .unexpectedCompletion md
  | .linkLeaveActive md | .linkRetrainComplete md _ _ | .moduleLoss md | .linkGraceExpiry md | .completionError md _ _
  | .completionTimeout md _ | .ucieL2Exit md | .earlyLinkExit md => wfMd md
  | .vectorUnmask md vec | .vectorMask md vec => wfMd md && vec.all fun v => decide (v < 2048)
  | .vectorControlRead md vec | .moderationDeadline md vec => wfMd md && decide (vec < 2048)
  | .phasePoll q | .descriptorReadComplete q _ | .pcntReadComplete q _ | .start q | .resume q | .halt q | .clear q | .modify q | .fence q
  | .note q | .pad q => wfQ q
  | .dispatch ch | .ccwBlockArrive ch _ | .write ch | .read ch | .control ch | .sense ch | .jump ch | .ccwNop ch | .waitf ch | .waitfExpiry ch
  | .waite ch | .waiteTimeout ch | .run ch | .runDispatch ch | .post ch | .skipif ch | .exch ch | .signal ch | .portUnitComplete ch _
  | .hawkGrantTimeout ch | .rxTimeout ch | .modbusResponseTimeout ch | .lineTest ch _ | .plcaSync ch | .rxFlush ch | .brk ch | .idleClocks ch
  | .busRecovery ch | .linkRestart ch | .komondRetx ch | .dataReadComplete ch _ => wfCh ch
  | .chEvtPendWrite m ch _ => wfMid m && wfCh ch
  | .frmStep m _ | .hwkFree m _ | .icSwset m _ | .icFlush m _ | .aqProd m _ | .aqRcons m _ | .aqEnable m | .aqDisable m | .aqRestart m
  | .prmRestart m | .clrRetry m | .clrFallback m | .prmSwap m _ | .gctlFreeze m _ | .gctlFreezeCrn m _ => wfMid m
  | .nop c k | .mov c k | .add c k | .adc c k | .sub c k | .sbb c k | .and c k | .or c k | .xor c k | .not c k | .neg c k | .shl c k | .shr c k
  | .sar c k | .rol c k | .mul c k | .mulhu c k | .mulhs c k | .divu c k | .remu c k | .movq c k | .addq c k | .cmp c k | .tst c k | .seq c k
  | .sne c k | .slt c k | .sge c k | .sltu c k | .sgeu c k | .sbs c k | .sbz c k | .sxx c k | .skf c k | .jmpr c k | .callr c k | .ret c k
  | .jmpk c k | .callk c k | .jmp c k | .call c k | .retx c k | .trap c k | .exit c k | .wfe c k | .sev c k | .waitt c k | .waittExpiry c k
  | .lseg c k | .sseg c k | .mfsr c k | .mtsr c k | .movk c k | .loop c k | .movb c k | .fillb c k | .bfext c k | .bfins c k | .clz c k
  | .bperm c k | .coreReadComplete c k _ | .cycleBoundExpiry c k | .contextMigrate c k => wfCtx c k
  | .interruptAccept c | .coreRecoveryComplete c _ => wfCore c
  | .corniceLockTimeout tile => decide (tile < 8)
  | .hwkAlloc m _ => wfMid m
  | .hwkClsWrite m acct _ => wfMid m && decide (acct < 65)
  | .creditRefill p => decide (p < 24)
  | .eccCorrected loc | .eccUncorrectableError loc => loc.wf
  | .mbxSend m _ mb _ | .mbxPop m _ mb | .mbxDisable m mb _ | .semAcquire m mb | .semRelease m mb _ | .semForce m mb =>
    wfMid m && decide (mb < 256)
  | .malformedRequest r => wfMd r.md
  | .scrimRequest bank who b cls => bank.wf && who.wf && decide (0 < b.beats) && decide (b.beats ≤ 8) && cls.all fun c => decide (c < 64)
  | .scrimTransferComplete arb | .scrimWatchdogBite arb => wfArb arb
  | .scrimFreeze m arb _ => wfMid m && wfArb arb
  | .lineEvent src _ => decide (src < 0x7FF)
  | .icScfgWrite m src _ => wfMid m && decide (src < 0x7FF)
  | .icTake m t _ | .icTakeRead m t | .icDone m t _ => wfMid m && decide (t < 1024)
  | .portFault p _ | .faultClearTimeout p | .busOffRecoveryComplete p | .frameReceive p _ | .rxholdExpiry p | .sclStretchTimeout p
  | .beaconHoldExpiry p | .uartIdleLineExpiry p | .smbalertAssert p | .plcaBeacon p _ => wfPort p
  | .clrFault m p _ | .lift m p _ | .liftAll m p | .diag m p _ => wfMid m && wfPort p
  | .gpioEdge p l _ | .gpioTimerMatch p l | .pwmPeriodStart p l => decide (0x50 ≤ p) && decide (p < 0x56) && decide (l < 16)
  | .adcConversion i _ | .adcMonitor i _ => decide (i < 16)
  | .gateEntryExpiry mac => decide (mac < 4)
  | .ethTxtsPop m mac => wfMid m && decide (mac < 4)
  | .kmdData mac _ | .kmdAck mac _ | .kmdRefuse mac _ | .kmdBounce mac _ | .kmdAnnounce mac _ => decide (mac < 4)
  | .adminPacketRead words => words.length == 16
  | .domainIdleExpiry d | .wakeRequest d _ | .domainWakeComplete d => decide (d < 134)
  | .supplyWarn r => decide (r < 3)
  | .supplyWarnRelease r => decide (r < 3)
  | .supplyReset r => decide (r < 2)
  | .groupReset m g => wfMid m && decide (g < 134)
  | .align lane | .laneDown lane | .laneUp lane => decide (lane < 2)
  | .queueTurn | .tick _ _ | .frameSyncFall | .frameSyncEdge _ | .ptpHoldover | .syncHoldover | .identify | .getFeatures | .setAttach
  | .queueQuery | .bindChannel | .unbindChannel | .routineLoad _ | .handlerSetLoad _ | .routineUnload | .budgetCommit | .latFloor | .portCommit
  | .calibrateMeasure _ | .calibrateLoad _ | .calibrateRead | .calibrateStore | .fwStage _ | .fwVerify | .fwActivate | .fwActivateLive
  | .fwConfirm | .journalRead | .sleepNotice | .pairStatus | .pairJoin | .pairHandover | .pairLeave | .kmdNode | .kmdKeySet | .kmdKeyRetire
  | .kmdRole | .l4Entry | .l4TimerWake | .pairPresentFall | .l4ExitComplete _ | .holdTimeout | .refclkLoss | .xtalStop | .coldStart _
  | .warmrstFall | .warmStart _ | .selfRestart _ | .journalFlush | .heartbeat _ _ | .heartbeatCheck | .ack _ | .nack _ _ | .ledger _ _
  | .lath _ _ | .queue _ _ | .egress _ _ | .boundary _ _ | .config _ _ | .bulk _ _ _ _ | .join _ _ _ | .handover _ _ _ | .tickOrderedSet _ _
  | .fenceEcho _ | .ackTimeout | .fenceInRise | .fenceWatchExpiry _ | .fenceArbitrationRound _ _ | .dbgAccess _ | .idcode | .bypass
  | .samplePreload _ | .extest | .porNFall | .xtalStart | .slewEnd => true

end Sys2Proof
end

