-- ==== Sys2Proof/Safety.lean ====
section
/-! DEFINITION. What counts as a good state of the block, in the terms that statements use. -/

namespace Sys2Proof.Machine
open Sys2Proof

/-- The memory of the state is in its canonical form. -/
def State.memOk (s : State) : Prop := Memory.wf s.mem = true

/-- A command completes from a state: exec answers a next state, and that state has the property. -/
def Runs (i : Instr) (s : State) (P : State → Prop) : Prop := ∃ t, exec i s = .next t ∧ P t

/-- From s to t only that has changed which carries outcomes out of the block: the queues' heads and the egress of the modules, interrupt
sources with their batches and the wakes that they ask for, the journal, the count of refused accesses, the status records that Hold keeps
back, and the frames to the partner. -/
def Reports (s t : State) : Prop :=
  t = { s with link0 := t.link0, link1 := t.link1, gctl := t.gctl, queues := t.queues, srcs := t.srcs, batches := t.batches,
               journal := t.journal, jheld := t.jheld, jseq := t.jseq, late := t.late, pwr := t.pwr, ds := t.ds, wakeOut := t.wakeOut }

/-- No request waits for Hawk cells, and no channel for a ledger entry or an MRAM slot (R220, R300). -/
abbrev State.noneWait (s : State) : Prop := s.hawk.waits = [] ∧ ∀ e ∈ s.chans, e.2.parked = true → e.2.why ≠ .ledger

/-- No channel waits at an access to host memory, and none for cells or entries (R85). -/
def NoHostWaits (s : State) : Prop :=
  s.noneWait ∧ ∀ e ∈ s.chans, e.2.xfer.phase ≠ .host ∧ e.2.xfer.phase ≠ .hostPi ∧ e.2.xfer.phase ≠ .hostWait ∧ e.2.xfer.phase ≠ .hostPost

/-- What programs on channels change besides reports: channels, budgets spent, ports, the cells of Hawk, and the ledgers. -/
def ProgramWork (s t : State) : Prop :=
  Reports { s with chans := t.chans, classes := t.classes, ports := t.ports, hawk := t.hawk, ledger := t.ledger, mled := t.mled,
                   parkSeq := t.parkSeq, freeNext := t.freeNext } t

/-- From s to t only one channel, what its class has spent, and the reports have changed. -/
def ChannelAlone (s t : State) (ch : Nat) : Prop :=
  Reports { s with chans := t.chans, classes := t.classes } t ∧ (∀ k, k ≠ ch → t.chan k = s.chan k) ∧
    ∀ c, c ≠ (s.chan ch).wcls → t.cls c = s.cls c

/-- The CCW w of a channel is due, in no chain and not the last of its block, and its dispatch slot is within the budgets of its class
(R215); nobody waits for a cell. -/
def CcwDue (s : State) (ch cmd : Nat) (w : BitVec 128) : Prop :=
  s.noneWait ∧ s.dueCcw ch cmd = some w ∧ (s.chan ch).inChain = false ∧ (s.chan ch).xfer.pi = false ∧
    bitsOf (s.chan ch).ccwa 4 2 ≠ 3 ∧ s.unfitCh ch (startCost {}) = false ∧ s.fitsCh ch (startCost {}) = true

/-- The channel holds the CCW at an address, which passes its checks and is neither a JUMP nor suspends. -/
def CcwHeld (s : State) (ch : Nat) (a : Word64) : Prop :=
  (s.chan ch).haltReq = false ∧ (s.chan ch).retired = false ∧ ∃ w, ({ s.chan ch with ccwa := a } : Chan).heldCcw = some w ∧ s.ccwCheck w none = none ∧
    ccwCmd w ≠ 8 ∧ ccwSu w = false

/-- The read of a CCW block is within the budgets of the channel, for which no HALT waits. -/
def BlockPaid (s : State) (ch : Nat) : Prop :=
  (s.chan ch).haltReq = false ∧ (s.chan ch).retired = false ∧ s.unfitCh ch (urdCost (s.chModule ch) 1) = false ∧ s.fitsCh ch (urdCost (s.chModule ch) 1) = true

/-- The end of the program on a channel reaches its module, and nothing waits for it: no entry for the channel, no fence, no cell. -/
def EndsQuietly (s : State) (ch : Nat) : Prop :=
  s.gates = false ∧ s.hold = false ∧ s.noneWait ∧ (s.chan ch).waiting = [] ∧ (∀ e ∈ s.queues, e.2.fence = none) ∧
    (s.link (s.chModule ch)).holding = false ∧ (s.chan ch).began.isSome = true

/-- The command of a channel is the last of its chain and chains on with CC to a CCW that the channel holds; nobody waits for a cell. -/
def CcwGoesOn (s : State) (ch : Nat) : Prop :=
  (s.chan ch).inChain = false ∧ (s.chan ch).xfer.pi = false ∧
    (∃ w, (s.chan ch).heldCcw = some w ∧ ccwCd w = false ∧ ccwCc w = true ∧ ccwPi w = false) ∧
    CcwHeld s ch ((s.chan ch).ccwa + 16) ∧ s.noneWait

/-- No unit of a channel waits for its port, and no Komond frame for its MAC. -/
def NoUnitReady (s : State) : Prop := (∀ e ∈ s.chans, e.2.xfer.phase ≠ .ready) ∧ s.kmd.waiting = []

/-- How an output CCW w with its data in one piece stands once the piece is laid out and nothing is brought in or charged (R140, R145). -/
def State.laid (s : State) (ch : Nat) (w : BitVec 128) : State :=
  s.updChan ch fun c => ({ c with
    lastPort := some (bitsOf (ccwParam w) 0 8),
    xfer := { c.beginXfer w with spans := [(ccwAddr w, ccwCount w)], pieces := [(ccwAddr w, ccwCount w)], dest := [(ccwAddr w, ccwCount w)] } } : Chan).showData

/-- From s to t, programs on channels did work, and of the channels only one has changed. -/
def ProgramOf (s t : State) (ch : Nat) : Prop := ProgramWork s t ∧ ∀ k, k ≠ ch → t.chan k = s.chan k

/-- Of the memory of s, only the bytes from a on, n of them, may have changed in t. -/
def MemOnly (s t : State) (a n : Nat) : Prop := ∀ b, b < a ∨ a + n ≤ b → Memory.get t.mem b = Memory.get s.mem b

/-- From s to t only one field port and the reports have changed. -/
def PortAlone (s t : State) (p : Nat) : Prop := Reports { s with ports := t.ports } t ∧ ∀ k, k ≠ p → t.port k = s.port k

/-- The FWC has one command in progress, of an opcode, which passes its checks and may be carried out; no packet waits to be read, and
the reply can leave. -/
def OneAdmin (s : State) (c : AdmCmd) (opc : Nat) : Prop :=
  s.die = .ready ∧ s.aq.st = .running ∧ s.aq.cmds = [c] ∧ c.waits = false ∧ c.opc = opc ∧ s.admCheck c = none ∧ s.aq.cprod = s.aq.ccons ∧
    s.gates = false ∧ (s.link s.aqModule).holding = false

/-- The host data of a command, and no other read, are out on one module. -/
def DataOut (s : State) (c : AdmCmd) : Prop :=
  ∃ md, md < 2 ∧ ((s.link md).reads.map fun r => r.req) = [.adminData c.cnt] ∧ (s.link md).waiting = [] ∧ (s.link (otherMd md)).reads = []

/-- The only command in progress has been replied to with a code and result words (R375, R376). -/
def Replied (s t : State) (c : AdmCmd) (code : BitVec 16) (arg : Nat) (res : List Nat) : Prop :=
  t.aq = { s.aq with cmds := [], rprod := s.aq.rprod + 1 } ∧
    ∃ e ∈ (t.link s.aqModule).queue, e.kind = .admin c.cnt ∧
      e.addr = s.aq.rring + BitVec.ofNat 64 (32 * (s.aq.rprod.toNat % s.aq.replySlots)) ∧
      e.bytes = (c.reply code arg res).take 5 ++ [BitVec.ofNat 8 (s.aq.phase s.aq.rprod)] ++ (c.reply code arg res).drop 6

/-- A change of the only command in progress waits for the next tick (R438). -/
def Committed (s t : State) (c : AdmCmd) (what : Change) : Prop :=
  t.aq = { s.aq with cmds := [{ c with waits := true }] } ∧
    t.commits = s.commits ++ [{ what, frame := s.frm.frame.toNat + 1, reply := some c }] ∧ Reports { s with aq := t.aq, commits := t.commits } t

/-- How things stand when the next instruction of a context is fetched (R252, R264, R273). -/
def State.fetching (s : State) (core k : Nat) : Ev :=
  ((s.arrange core).updCtx core k fun c => c.dropStale ((s.arrange core).now core k)).ev core k

/-- The core issues the instruction i of a context next: it is not annulled, its words are fetched, and its slot, encoding and privilege
are good; e is how things stand before its operands (R238, R249, R252, R261, R264). -/
def Issues (s : State) (core k : Nat) (i : Ins) (e : Ev) : Prop :=
  (s.arrange core).ctxTurn core k = true ∧ ((s.arrange core).ctx core k).block = none ∧ (s.fetching core k).ctx.annul = false ∧
    ∃ w e1 e2, (s.fetching core k).fetchWord (s.fetching core k).ctx.pc = .ok (w, e1) ∧ opOf w = some i.op ∧
      ({ e1 with s := e1.s.movePtr core k } : Ev).fetchRest i.op w = .ok (i, e2) ∧ e2.ctx.badSlot (some i.op) = false ∧ i.ok = true ∧
      i.needsRight core e2.pl = false ∧ e = { e2 with cyc := i.cyc }

/-- The instruction i, of which e is what it has done, completes, and t is the state then. -/
def Ends (core : Nat) (e : Ev) (i : Ins) (t : State) : Prop := ∃ u, e.finish i = .ok u ∧ t = u.arrange core

/-- An issued instruction has read its operand A, and e is how things stand then (R242). -/
def ReadsA (s : State) (core k : Nat) (i : Ins) (a : Word) (e : Ev) : Prop := ∃ e0, Issues s core k i e0 ∧ e0.source 1 i.a = .ok (a, e)

/-- An issued instruction has read its operands A and B (R242). -/
def ReadsAB (s : State) (core k : Nat) (i : Ins) (a b : Word) (e : Ev) : Prop := ∃ e1, ReadsA s core k i a e1 ∧ e1.source 2 i.b = .ok (b, e)

/-- The n words of D may be written at places, no port-window word among them that waits for the open mark of its RUN (R242, R468). -/
def Places (e : Ev) (d : Word) (n : Nat) (ps : List Place) (e' : Ev) : Prop := e.dest d n = .ok (ps, e') ∧ ∀ ws, (e'.puts ps ws).block = false

/-- Z and N of a result, the other flags as before (R246). -/
def Flags.ofResult (f : Flags) (r : Word) : Flags := { f with z := decide (r = 0), n := r.msb }
/-- The flags of a sum or difference: carry or borrow, and V where the exact value does not fit (R246). -/
def Flags.ofSum (f : Flags) (r : Word) (carry : Bool) (exact : Int) : Flags :=
  { f.ofResult r with c := carry, v := decide (exact < -32768 ∨ 32767 < exact) }
/-- Z and N of a result, with V = 0 (R246). -/
def Flags.ofLogic (f : Flags) (r : Word) : Flags := { f.ofResult r with v := false }
/-- The flags of a shift by a count (R246). -/
def Flags.ofShift (f : Flags) (r : Word) (count : Nat) (last : Bool) : Flags := { f.ofLogic r with c := if count = 0 then f.c else last }

/-- The instruction stores one result word, sets the flags and completes. -/
def Stores (core : Nat) (e : Ev) (ps : List Place) (r : Word) (f : Flags) (i : Ins) (t : State) : Prop :=
  Ends core ((e.puts ps [r]).upd fun c => c.setFlags f) i t

/-- The issued instruction raises an exception instead of having an effect (R242, R261). -/
def Raises (s : State) (core k : Nat) (x : Exc) (t : State) : Prop :=
  t = (((s.fetching core k).s.movePtr core k).raise core k x).arrange core

/-- No active loop of a context, as it sees its loop registers, ends where its PC stands (R253, R273). -/
def NoLoopAt (c : Ctx) (now : Nat) : Prop := ∀ j, j < 3 → c.loopSeen now (6 + j) ≠ 0 → c.loopSeen now (3 + j) ≠ c.pc

/-- The context of an instruction that is complete: its cycles charged, and the values it wrote over seen for their distances (R272, R273). -/
def Ev.charged (e : Ev) : Ctx := (e.ctx.settleStale e.since e.now (e.now + e.cyc - 1)).spend e.cyc

/-- The instruction i of e completes with its context c, the cycles of the context's issue slots moved on, and nothing else changed. -/
def CompletesAs (e : Ev) (i : Ins) (c : Ctx) : Prop :=
  ∃ u, e.finish i = .ok u ∧ u.ctx e.core e.k = c ∧ u.now e.core e.k = e.now + e.cyc ∧ (∀ j, j ≠ e.k → u.ctx e.core j = e.s.ctx e.core j) ∧
    (∀ n, n ≠ e.core → u.core n = e.s.core n) ∧ u = { e.s with cores := u.cores }

/-- A start from s, of a die without a partner, has ended READY in t (R421 to R425). -/
def Started (s : State) (r : StartRun) (warm : Bool) (t : State) : Prop :=
  t.die = .ready ∧ t.prm.st = 1 ∧ t.prm.step = 13 ∧ t.prm.starts = s.prm.starts + 1 ∧ t.prm.warm = warm ∧ t.prm.readyT = r.usReady ∧
    t.mode = s.prm.nextMode ∧ t.link0.up = true ∧ t.link1.up = r.conn1 ∧ t.link0.rate = r.rate0 ∧ t.ds.role = 0 ∧
    t.ds.fenceOut = true ∧ t.queues = [] ∧ t.chans = [] ∧ ∀ k < 13, 3 ≤ k → t.prm.count k = 0

/-- A good frame of the partner that a die receives next in order, acknowledges nothing new and stamped within a frame of its own
(R455, R457, R459); no cell is waited for and no admin command waits. -/
def Hears (s : State) (h : DsHdr) : Prop :=
  s.die = .ready ∧ s.dsUp = true ∧ h.crcOk = true ∧ h.lenOk = true ∧ splitAck s.ds.unacked h.ack = none ∧ h.seq = s.ds.rxSeq ∧
    ((h.frame.toNat : Int) - s.frm.frame.toNat).natAbs ≤ 1 ∧ s.noneWait ∧ s.aq.cmds = []

/-- The state once such a frame counts as received (R457). -/
def State.received (s : State) : State := { s with ds := { s.ds with rxSeq := s.ds.rxSeq + 1 } }

/-- The frame is acknowledged where no frame sent meanwhile carries its ACK: t is u but for what the last ACK frame says (R457). -/
def Acked (u t : State) : Prop := t = u.sendAck

/-- A payload b of Komond arrives on a MAC that carries Komond, of a die that runs it (R476). -/
def KmdComes (s : State) (mac : Nat) : Prop :=
  s.kmdUp = true ∧ mac < 4 ∧ s.kmd.ports.getLsbD mac = true ∧ (s.port (0x60 + mac)).st = 1

/-- Such a payload b, a valid one of a TYPE with the fields f, passes the checks of R479 up to the node: a receive key has its ID, its
MAC is that of its bytes under that key, and it is addressed to this node or to every node. -/
def KmdTaken (s : State) (ty mac : Nat) (b : List Byte) (f : KmdFrame) : Prop :=
  KmdComes s mac ∧ f = kmdParse b ∧ kmdValid b = true ∧ f.ty = ty ∧
    (∃ e, s.kmd.keys.find? (fun e => e.2.rx && e.2.id.toNat == f.keyId) = some e ∧
      (b.drop (24 + f.msg.length)).take 8 = (Config.aesCmac e.2.bytes (b.take (24 + f.msg.length))).toList.take 8) ∧
    (s.kmd.node.map (·.toNat) = some f.dstNode ∨ f.dstNode = kmdBroadcast)

end Sys2Proof.Machine
end

