-- ==== Sys2Proof/Certificates/Slice0/Obligations.lean ====
section
/-! DEFINITION. What the model is held to: statements drawn from the rules of the spec. -/

open Sys2Proof Sys2Proof.Machine

/-- For every state whose queue of waiting commands is c followed by rest, one step is exec of c on the state with the queue's
rest. (The queue is the model's own way of taking commands in order: log 12.) (01_architecture.md) -/
def Obligations.StepRunsFrontCommand : Prop :=
  ∀ (s : State) (c : Instr) (rest : List Instr), s.pending = c :: rest → step s = exec c { s with pending := rest }

/-- For every command and every state exec answers a next state: no meaning ends in a fault or in a refusal, and no arm is
rejected by name. (00_scope.md, 05_errors_and_ordering.md) -/
def Obligations.EveryCommandCompletes : Prop := ∀ (i : Instr) (s : State), ∃ t, exec i s = .next t

/-- The rows of the command table carry no bits, so no word spells a command, and the host's placing of a word leaves every state
as it is (log 30). (opcode_table.json) -/
def Obligations.NoWordSpellsACommand : Prop :=
  ∀ (nbits w : Nat), decodeTableWord nbits w = none ∧ ∀ s : State, s.withFetchWord nbits w = s

/-- For every state, a step that answers a next state leaves in the queue of waiting commands exactly the rest of it: no command's
effect adds, drops or reorders a waiting command, and the idle step leaves the empty queue empty. (The queue is the model's own:
log 12.) (01_architecture.md, 95_what_each_step_holds.md) -/
def Obligations.QueueIsFirstInFirstOut : Prop := ∀ s t : State, step s = .next t → t.pending = s.pending.tail

/-- For every state whose memory lists its cells with strictly rising addresses and no cell equal to what an unlisted address
reads as, every step that answers a next state leaves the memory in that form, so that equal memories are equal data. (What an
unlisted byte reads as is the model's choice: log 1.) (01_architecture.md, 09_hawk_mailboxes_arbiters.md) -/
def Obligations.MemoryStaysCanonical : Prop := ∀ s t : State, s.memOk → step s = .next t → t.memOk

/-- Right after reset no command waits, the memory lists nothing and is canonical, the die is in reset, every queue is DISABLED,
every channel IDLE, the frame timer stands at 0 with the next tick at 25,000, every mailbox has DEPTH 8 and every semaphore is
free, the SYSTEM account reserves 512 cells, and nothing is in a ring, a ledger or the journal. (The values that the spec does not
give are the model's: logs 2 and 4 to 10.) (R16, R202, R303, R304, R307, R210) -/
def Obligations.ResetState : Prop :=
  State.reset.pending = [] ∧ State.reset.memOk ∧ (∀ a, State.reset.byteAt a = 0) ∧ State.reset.die = .reset ∧
  (∀ q, (State.reset.q q).st = .disabled) ∧ (∀ ch, (State.reset.chan ch).st = .idle ∧ (State.reset.chan ch).bound = false) ∧
  State.reset.frm.time = 0 ∧ State.reset.frm.frame = 0 ∧ State.reset.frm.next = 25000 ∧ State.reset.frm.period = 25000 ∧
  (∀ n, (State.reset.mbx n).en = false ∧ (State.reset.mbx n).depth = 8) ∧ (∀ n, (State.reset.sem n).value = 0) ∧
  (∀ n, (State.reset.port n).st = 0) ∧ State.reset.journal = [] ∧ State.reset.ledger = [] ∧ State.reset.aq.st = .disabled

/-- With an empty queue, where no read waits to be issued, no write is held and no pause or fence pulse ends, a die that runs its
frame timer, before the next tick and with no correction and no slew, advances TIME by 1 in one step and changes nothing but TIME,
its cycle count and the egress of the modules; a die whose timer stands changes nothing but that egress. (That an empty queue lets
one cycle pass is the model's choice: log 12.) (R201, R202, R205) -/
def Obligations.IdleStepAdvancesTime : Prop :=
  ∀ s : State, s.pending = [] → s.link0.waiting = [] → s.link1.waiting = [] → s.link0.holding = false → s.link1.holding = false →
    (∀ e ∈ s.hawk.cells, e.2 ≠ .linkHeld 0 ∧ e.2 ≠ .linkHeld 1) → (∀ p, (s.port p).pauseTo = 0) → s.ds.pulse = none →
    (s.timerRuns = true → s.frm.time.toNat < s.frm.next.toNat → s.frm.adj = 0 → s.frm.slew = 0 → s.frm.frac < 1000000000 →
      ∃ t, step s = .next t ∧ t = { s with link0 := t.link0, link1 := t.link1,
                                           frm := { s.frm with time := s.frm.time + 1, count := s.frm.count + 1, slewFrac := 0 } }) ∧
    (s.timerRuns = false → ∃ t, step s = .next t ∧ t = { s with link0 := t.link0, link1 := t.link1 })

/-- An admitted write of DB[q].COUNT to an enabled count-mode queue whose count passes the check of R104 makes PROD that count and
leaves HEAD, FETCH, the state and every other queue; a count that fails it changes no field but DB_BAD, which saturates, and is
journalled. DB[q].FETCH with bit 0 asks for a producer-count read, at once on a RUNNING queue (a read request then stands at the
queue's module) and for later otherwise. On an eligible PHASE-mode queue with nothing on die either write makes the header at
FETCH be read, whatever the value. A refused write is counted in GCTL with its master and leaves every queue. Nothing else changes
but what carries outcomes out. (R104, R105, R107, R36) -/
def Obligations.DoorbellWrites : Prop :=
  ∀ (s : State) (m q : Nat), q < 1024 → s.admits m (dbOff q) = true →
    (s.dbRefused m q = false → (s.q q).phase = false →
      (∀ count : Word32, (count - (s.q q).head).toNat ≤ (s.q q).slots →
        ((s.q q).prod - (s.q q).head).toNat ≤ (count - (s.q q).head).toNat →
        Runs (.dbCount m q count) s fun t => (t.q q).prod = count ∧ (t.q q).head = (s.q q).head ∧ (t.q q).fetch = (s.q q).fetch ∧
          (t.q q).st = (s.q q).st ∧ (∀ k, k ≠ q → t.q k = s.q k) ∧ Reports s t) ∧
      (∀ count : Word32, ((s.q q).slots < (count - (s.q q).head).toNat ∨
          (count - (s.q q).head).toNat < ((s.q q).prod - (s.q q).head).toNat) →
        Runs (.dbCount m q count) s fun t => t.q q = { s.q q with dbBad := satInc (s.q q).dbBad } ∧ t.jseq = s.jseq + 1 ∧
          (∀ k, k ≠ q → t.q k = s.q k) ∧ Reports s t) ∧
      (∀ v : Word32, bitOf v 0 = true → (s.q q).st = .running →
        Runs (.dbFetch m q v) s fun t => (∃ r ∈ (t.link (s.qModule q)).reads ++ (t.link (s.qModule q)).waiting, r.req = .pcnt q) ∧
          (∀ k, k ≠ q → t.q k = s.q k) ∧ Reports s t) ∧
      (∀ v : Word32, bitOf v 0 = true → (s.q q).st ≠ .running →
        Runs (.dbFetch m q v) s fun t => t = s.setQ q { s.q q with wantPcnt := true })) ∧
    (s.dbRefused m q = false → (s.q q).phase = true → s.eligible q = true → (s.q q).reading = false → (s.q q).onDie = [] →
      ∀ v : Word32, ∀ i ∈ [Instr.dbCount m q v, Instr.dbFetch m q v],
        Runs i s fun t => t.q q = { s.q q with reading := true, wantRead := (t.q q).wantRead } ∧
          ((t.q q).wantRead = some (.poll q) ∨ ∃ r ∈ (t.link (s.qModule q)).reads ++ (t.link (s.qModule q)).waiting, r.req = .poll q) ∧
          (∀ k, k ≠ q → t.q k = s.q k) ∧ Reports s t) ∧
    (s.dbRefused m q = true → ∀ v : Word32, ∀ i ∈ [Instr.dbCount m q v, Instr.dbFetch m q v],
      Runs i s fun t => t.gctl.accCount = satInc s.gctl.accCount ∧ t.gctl.accMid = BitVec.ofNat 9 m ∧ t.queues = s.queues ∧ Reports s t)

/-- By a master with the right, ENABLE of a DISABLED queue whose configuration is good makes it RUNNING, or PAUSED with PAUSE,
with PROD, FETCH and HEAD at QCFG_INIT; with a bad one it stays DISABLED and shows CFG_ERR. DISABLE of a RUNNING, PAUSED or ERROR
queue makes it DRAINING or, with nothing bound, no read outstanding and no FENCE, DISABLED. RESTART of a queue in ERROR makes it
RUNNING or PAUSED. A write with PAUSE pauses a RUNNING queue, and one without lets a PAUSED queue run. No other queue changes
under RESTART and PAUSE, under ENABLE none but those that wait at a FENCE, and nothing else but what carries outcomes out. (What
the spec leaves open here is read as log 74 says.) (R129, R130, R131, R128) -/
def Obligations.QueueStateCommands : Prop :=
  ∀ (s : State) (m q : Nat) (pause : Bool), q < 1024 → s.admits m (qcfgOff q) = true → rightsOk m (qcfgOff q) = true →
    ((s.q q).st = .disabled → s.cfgErr q = 0 →
      Runs (.queueEnable m q pause) s fun t => (t.q q).st = (if pause then .paused else .running) ∧ (t.q q).prod = (s.q q).init ∧
        (t.q q).fetch = (s.q q).init ∧ (t.q q).head = (s.q q).init ∧
        (∀ k, k ≠ q → (∀ e ∈ s.queues, e.1 = k → e.2.fence = none) → t.q k = s.q k) ∧ Reports s t) ∧
    ((s.q q).st = .disabled → s.cfgErr q ≠ 0 →
      Runs (.queueEnable m q pause) s fun t => t.q q = { s.q q with pause, cfgErr := BitVec.ofNat 3 (s.cfgErr q) } ∧
        (∀ k, k ≠ q → t.q k = s.q k) ∧ Reports s t) ∧
    ((s.q q).st = .running ∨ (s.q q).st = .paused ∨ (s.q q).st = .error →
      Runs (.queueDisable m q pause) s fun t => ((t.q q).st = .draining ∨ (t.q q).st = .disabled) ∧
        ((s.q q).fence = none → (s.q q).bound = [] → (s.q q).reading = false → (s.q q).retake = false → (t.q q).st = .disabled) ∧
        Reports s t) ∧
    ((s.q q).st = .error →
      Runs (.queueRestart m q pause) s fun t => (t.q q).st = (if pause then .paused else .running) ∧ (t.q q).onDie = [] ∧
        (t.q q).errIdx = (s.q q).errIdx ∧ (∀ k, k ≠ q → t.q k = s.q k) ∧ Reports s t) ∧
    ((s.q q).st = .running → Runs (.queuePause m q true) s fun t => (t.q q).st = .paused ∧ (t.q q).onDie = (s.q q).onDie ∧
        (∀ k, k ≠ q → t.q k = s.q k) ∧ Reports s t) ∧
    ((s.q q).st = .paused → Runs (.queuePause m q false) s fun t => (t.q q).st = .running ∧ (t.q q).onDie = (s.q q).onDie ∧
        (∀ k, k ≠ q → t.q k = s.q k) ∧ Reports s t)

/-- QUEUE_TURN with a BURST of 1 in force binds the entry at FETCH of the queue whose turn it is: the entry is appended to those
bound with FETCH as its count and not yet acted, FETCH passes its slots, a credit is taken, and the next search starts after that
queue; a malformed entry on a work-class queue stops the queue in ERROR at FETCH, and on a configuration-class queue it halts the
die with the queue in ERROR. PHASE_POLL of an eligible phase-mode queue with nothing on die asks for the header at FETCH.
Descriptor slots that come back for a RUNNING queue, with no channel, no cell and no other read waiting, join those on die; a
producer count that comes back for a queue that runs and passes the check becomes PROD. (What the spec leaves open here is read as
log 75 says.) (R113, R110, R115, R105, R125) -/
def Obligations.ArbiterCommands : Prop :=
  ∀ (s : State) (q : Nat),
    (∀ (len : Nat) (fence : Bool), s.nextTurn (s.queues.map (·.1)) = some q → (s.q q).roundBurst = 1 → (s.q q).find = .entry len false fence →
      Runs .queueTurn s fun t => (t.q q).bound = (s.q q).bound ++
          [{ cnt := (s.q q).fetch, slots := (s.q q).onDie.take len, applied := false, done := false, dropped := none }] ∧
        (t.q q).fetch = (s.q q).fetch + BitVec.ofNat 32 len ∧ (t.q q).credit = (s.q q).credit - 1 ∧ t.turn = q + 1 ∧
        (∀ k, k ≠ q → t.q k = s.q k) ∧ Reports { s with turn := q + 1 } t) ∧
    (∀ why : Nat, s.nextTurn (s.queues.map (·.1)) = some q → (s.q q).find = .bad why →
      Runs .queueTurn s fun t => (t.q q).st = .error ∧ (t.q q).why = BitVec.ofNat 4 why ∧ (t.q q).errIdx = (s.q q).fetch ∧
        ((s.q q).config = false → Reports { s with turn := q + 1 } t) ∧ ((s.q q).config = true → why < 6 → t.die = .halted)) ∧
    (s.eligible q = true → (s.q q).phase = true → (s.q q).reading = false → (s.q q).onDie = [] →
      Runs (.phasePoll q) s fun t => t.q q = { s.q q with reading := true, wantRead := (t.q q).wantRead } ∧
        ((t.q q).wantRead = some (.poll q) ∨ ∃ r ∈ (t.link (s.qModule q)).reads ++ (t.link (s.qModule q)).waiting, r.req = .poll q) ∧ (∀ k, k ≠ q → t.q k = s.q k) ∧ Reports s t) ∧
    (∀ (slots : List (BitVec 128)) (r : HostRead) (u : State) (c : Word32) (n : Nat), s.endReadAny (isSlotReq q) = some (r, u) →
      r.req = .desc q c n false → c = (s.q q).fetch + BitVec.ofNat 32 (s.q q).onDie.length → (s.q q).st = .running →
      (s.q q).failing = 0 → (s.q q).turnLeft = 0 → (∀ e ∈ s.queues, e.2.wantRead = none) →
      (∀ e ∈ s.chans, e.2.takeDue = false) → s.noneWait →
      Runs (.descriptorReadComplete q slots) s fun t => (t.q q).onDie = (s.q q).onDie ++ slots.take n ∧ (t.q q).fetch = (s.q q).fetch ∧
        (t.q q).bound = (s.q q).bound ∧ (∀ k, k ≠ q → t.q k = s.q k) ∧ Reports s t) ∧
    (∀ (count : Word32) (r : HostRead) (u : State), s.endReadAny (fun r => r = .pcnt q) = some (r, u) →
      (s.q q).st ≠ .disabled → (s.q q).st ≠ .draining → (count - (s.q q).head).toNat ≤ (s.q q).slots →
      ((s.q q).prod - (s.q q).head).toNat ≤ (count - (s.q q).head).toNat →
      Runs (.pcntReadComplete q count) s fun t => (t.q q).prod = count ∧ (t.q q).head = (s.q q).head ∧ (t.q q).fetch = (s.q q).fetch ∧
        (∀ k, k ≠ q → t.q k = s.q k) ∧ Reports s t)

/-- The oldest entry of a queue that has not acted, of the command's TYPE, whose channel is bound to that queue, acts on it: START
in IDLE makes the channel START_PENDING at CCW_ADDR with ARG and COND 0; RESUME in SUSPENDED makes it START_PENDING with SU
ignored once; HALT of an ACTIVE channel between two stopping points sets HALT_REQ, HALT of a running program that waits or stands
at a stopping point ends it, and HALT of a SUSPENDED one makes it HALTED; CLEAR at rest makes it IDLE with its condition and
pending events 0; MODIFY in IDLE, SUSPENDED or HALTED replaces CCWA and ARG where its bits say so. Where no program ends, no other
channel changes. START outside IDLE, and any of the five at a channel that is not bound to the queue, change no channel. (R136,
R116, R117) -/
def Obligations.ChannelEntries : Prop :=
  ∀ (s : State) (q : Nat) (e : Entry), (s.chan e.ch).bound = true → (s.chan e.ch).queue = q →
    (s.nextEntry q 0x01 = some e → (s.chan e.ch).st = .idle →
      Runs (.start q) s fun t => (t.chan e.ch).st = .startPending ∧ (t.chan e.ch).ccwa = BitVec.ofNat 64 (bitsOf e.hdr 64 64) ∧
        (t.chan e.ch).arg = BitVec.ofNat 64 (bitsOf (e.slots.getD 1 0) 0 64) ∧ (t.chan e.ch).cond = 0 ∧
        (∀ k, k ≠ e.ch → t.chan k = s.chan k) ∧ Reports { s with chans := t.chans } t) ∧
    (s.nextEntry q 0x01 = some e → (s.chan e.ch).st ≠ .idle → Runs (.start q) s fun t => Reports s t) ∧
    (s.nextEntry q 0x02 = some e → (s.chan e.ch).st = .suspended →
      Runs (.resume q) s fun t => (t.chan e.ch).st = .startPending ∧ (t.chan e.ch).suOnce = true ∧ (t.chan e.ch).ccwa = (s.chan e.ch).ccwa ∧
        (∀ k, k ≠ e.ch → t.chan k = s.chan k) ∧ Reports { s with chans := t.chans } t) ∧
    (s.nextEntry q 0x03 = some e → (s.chan e.ch).st ∈ [CState.startPending, .waitTick, .waitEvent] ∨
        ((s.chan e.ch).st = .active ∧ (s.chan e.ch).atStop = true) →
      Runs (.halt q) s fun t => (t.chan e.ch).st ∈ [CState.statusPending, .halted, .idle] ∧ (t.chan e.ch).began = none) ∧
    (s.nextEntry q 0x03 = some e → (s.chan e.ch).st = .active → (s.chan e.ch).atStop = false →
      Runs (.halt q) s fun t => (t.chan e.ch).st = .active ∧ (t.chan e.ch).haltReq = true ∧
        (∀ k, k ≠ e.ch → t.chan k = s.chan k) ∧ Reports { s with chans := t.chans } t) ∧
    (s.nextEntry q 0x03 = some e → (s.chan e.ch).st = .suspended →
      Runs (.halt q) s fun t => (t.chan e.ch).st = .halted ∧ (t.chan e.ch).chain = none ∧ (∀ k, k ≠ e.ch → t.chan k = s.chan k)) ∧
    (s.nextEntry q 0x04 = some e → (s.chan e.ch).st ∈ [CState.idle, .suspended, .halted, .error] →
      Runs (.clear q) s fun t => (t.chan e.ch).st = .idle ∧ (t.chan e.ch).cond = 0 ∧ (t.chan e.ch).pend = 0 ∧ (t.chan e.ch).chain = none ∧
        (∀ k, k ≠ e.ch → t.chan k = s.chan k) ∧ Reports { s with chans := t.chans, hawk := t.hawk } t) ∧
    (s.nextEntry q 0x05 = some e → (s.chan e.ch).st ∈ [CState.idle, .suspended, .halted] →
      Runs (.modify q) s fun t =>
        (t.chan e.ch).ccwa = (if bitOf e.hdr 44 then BitVec.ofNat 64 (bitsOf e.hdr 64 64) else (s.chan e.ch).ccwa) ∧
        (t.chan e.ch).arg = (if bitOf e.hdr 45 then BitVec.ofNat 64 (bitsOf (e.slots.getD 1 0) 0 64) else (s.chan e.ch).arg) ∧
        (t.chan e.ch).st = (s.chan e.ch).st ∧ (∀ k, k ≠ e.ch → t.chan k = s.chan k) ∧ Reports { s with chans := t.chans } t)

/-- START, RESUME, HALT, CLEAR and MODIFY whose channel is not bound, or is bound to another queue, are finished with a record
(NOT_BOUND) and change nothing but what carries outcomes out. (R117) -/
def Obligations.UnboundEntriesChangeNoChannel : Prop :=
  ∀ (s : State) (q : Nat) (e : Entry), ((s.chan e.ch).bound = false ∨ (s.chan e.ch).queue ≠ q) →
    ∀ p ∈ [(0x01, Instr.start q), (0x02, .resume q), (0x03, .halt q), (0x04, .clear q), (0x05, .modify q)],
      s.nextEntry q p.1 = some e → Runs p.2 s fun t => Reports s t

/-- On a die whose gates are open and that is not in Hold, whose module holds no traffic, a NOTE that is the only entry bound is
finished at once: its ENTRY record enters the egress queue at the slot of its count in the status ring, and HEAD becomes FETCH. A
PAD that is the only entry bound is passed with no record: HEAD becomes FETCH. A FENCE acts by standing as applied; while its
conditions do not hold the queue still waits at it, and nothing but what carries outcomes out changes. (R101, R116, R118, R123) -/
def Obligations.QueueDirectedEntries : Prop :=
  ∀ (s : State) (q : Nat) (e : Entry), (s.q q).retake = false →
    (s.nextEntry q 0x07 = some e → (s.q q).bound = [e] → s.gates = false → s.hold = false → s.heldAt (s.qModule q) = false →
      Runs (.note q) s fun t => (t.q q).bound = [] ∧ (t.q q).head = (s.q q).fetch ∧
        (∃ w ∈ (t.link (s.qModule q)).queue, w.kind = .entry q e.cnt ∧ w.addr = (s.q q).statAddr e.cnt) ∧ Reports s t) ∧
    (s.nextEntry q 0x0F = some e → (s.q q).bound = [e] →
      Runs (.pad q) s fun t => (t.q q).bound = [] ∧ (t.q q).head = (s.q q).fetch ∧ Reports s t) ∧
    (s.nextEntry q 0x06 = some e → ((s.markApplied q e.cnt).writeHead q).readyFences = [] →
      Runs (.fence q) s fun t => (t.q q).bound = (s.q q).bound.map (fun x => if x.cnt = e.cnt then { x with applied := true } else x) ∧
        (t.q q).fence = (s.q q).fence ∧ (∀ k, k ≠ q → t.q k = s.q k) ∧ Reports s t)

/-- In the register blocks an admitted access by a master with the right to them, of a size other than 4 or 8 bytes or not aligned
to its size, completes; it is discarded if it is a write and returns 0 if it is a read. Either way GCTL.ACC_COUNT increments
(saturating) and ACC_MID is the requester. No queue and nothing else changes but what carries outcomes out (the ACCESS source).
(R41) -/
def Obligations.MisalignedAccessesAreCounted : Prop :=
  ∀ (s : State) (m off size : Nat), off < 0x400000 → s.admits m off = true → rightsOk m off = true →
    ¬ ((size = 4 ∨ size = 8) ∧ off % size = 0) →
    (∀ v : Word64, Runs (.registerWrite .bar0 m off size v) s fun t => t.gctl.accCount = satInc s.gctl.accCount ∧
      t.gctl.accMid = BitVec.ofNat 9 m ∧ t.readOut = s.readOut ∧ t.queues = s.queues ∧ Reports s t) ∧
    Runs (.rclrRead .bar0 m off size) s fun t => t.gctl.accCount = satInc s.gctl.accCount ∧ t.gctl.accMid = BitVec.ofNat 9 m ∧
      t.readOut = 0 ∧ t.queues = s.queues ∧ Reports { s with readOut := 0 } t

/-- A 4 B read of the lower half of a 64-bit register by a master returns the low 32 bits and keeps the upper half of that moment
for the master. The next 4 B read of the upper half by that master, in whatever state that shadow still stands, returns the kept
upper half. (An access wakes the domain of the register and proceeds: log 121.) (R45) -/
def Obligations.UpperHalfReadReturnsTheShadow : Prop :=
  ∀ (s : State) (m off : Nat), off < 0x400000 → isWide off = true → off % 8 = 0 → s.admits m off = true → rightsOk m off = true →
    Runs (.lowerHalfRead m off) s fun t => t.readOut = BitVec.ofNat 64 ((s.wakeFor off).regWord m 0 off) ∧
      t = { s.wakeFor off with readOut := t.readOut, upKept := t.upKept } ∧
      ∀ u : State, u.upKept = t.upKept → u.admits m (off + 4) = true → rightsOk m (off + 4) = true →
        Runs (.rclrRead .bar0 m (off + 4) 4) u fun v => v.readOut = BitVec.ofNat 64 (((s.wakeFor off).regWord m 0 (off + 4)) % 0x100000000) ∧
          v = { u.wakeFor off with readOut := v.readOut, upKept := v.upKept }

/-- A whole 8 B write of a 64-bit register completes as the write of all 64 bits. A lower-half write by a master that may write
the register changes nothing but the value held for the master; the upper-half write that follows it leaves the very state that
one 8 B write of both halves leaves, with nothing held any more. An upper-half write by a master that holds no lower half is the 8
B write of its value above the low 32 bits the register has. A half by a master that may not write the register is counted and not
held. (An access wakes the domain of the register and proceeds: log 121.) (R44) -/
def Obligations.TwoHalvesWriteTheWhole : Prop :=
  ∀ (s : State) (m off : Nat) (lo hi : Word32), off < 0x400000 → isWide off = true → off % 8 = 0 →
    s.admits m off = true → s.admits m (off + 4) = true → rightsOk m off = true → rightsOk m (off + 4) = true →
    (∀ e ∈ s.lowHeld, e.1 ≠ (m, off)) →
    (∀ v : Word64, exec (.registerWrite .bar0 m off 8 v) s = .next ((s.wakeFor off).writeWide m off v)) ∧
    (s.wideMay m off = true →
      (Runs (.registerWrite .bar0 m off 4 (lo.zeroExtend 64)) s fun t =>
        t = { s.wakeFor off with lowHeld := ((m, off), lo) :: s.lowHeld } ∧
        exec (.registerWrite .bar0 m (off + 4) 4 (hi.zeroExtend 64)) t = exec (.registerWrite .bar0 m off 8 (hi ++ lo)) s) ∧
      exec (.registerWrite .bar0 m (off + 4) 4 (hi.zeroExtend 64)) s =
        exec (.registerWrite .bar0 m off 8 (BitVec.ofNat 64 ((s.wakeFor off).regWord m 0 off + hi.toNat * 0x100000000))) s) ∧
    (s.wideMay m off = false → ∀ i ∈ [Instr.registerWrite .bar0 m off 4 (lo.zeroExtend 64), .registerWrite .bar0 m (off + 4) 4 (hi.zeroExtend 64)],
      Runs i s fun t => t.gctl.accCount = satInc s.gctl.accCount ∧ t.gctl.accMid = BitVec.ofNat 9 m ∧ t.lowHeld = s.lowHeld ∧ Reports s t)

/-- By an admitted configuration master, a 4 B write of a budget register of a work class puts it in the class's shadow and leaves
the value in force and every other class; QCFG_RING of a DISABLED queue takes a whole 8 B write. A read of GCTL_ACCERR, of
QCFG_STATE, of FLT_OVR or of SEM_INFO returns the register's word and clears its RCLR counts, and nothing else changes. (What the
spec leaves open here is read as logs 40, 48 say.) (R17, R19, R133, R221, R228) -/
def Obligations.RegisterFieldsWrittenAndCleared : Prop :=
  ∀ (s : State) (m : Nat), isConfigMaster m = true →
    (∀ (c i : Nat) (v : Word32), c < 64 → 1 ≤ i → i ≤ 6 → s.admits m (0x80000 + 256 * c + 4 * i) = true → rightsOk m (0x80000 + 256 * c + 4 * i) = true →
      Runs (.registerWrite .bar0 m (0x80000 + 256 * c + 4 * i) 4 (v.zeroExtend 64)) s fun t =>
        (t.cls c).shadow = (s.cls c).shadow.put i v ∧ (t.cls c).act = (s.cls c).act ∧ (∀ k, k ≠ c → t.cls k = s.cls k) ∧
        Reports { s with classes := t.classes } t) ∧
    (∀ (q : Nat) (v : Word64), q < 1024 → (s.q q).st = .disabled → s.admits m (qcfgOff q) = true → rightsOk m (qcfgOff q) = true →
      Runs (.registerWrite .bar0 m (qcfgOff q) 8 v) s fun t => t.q q = { s.q q with ring := v } ∧ (∀ k, k ≠ q → t.q k = s.q k) ∧ Reports s t) ∧
    (s.admits m 0x08 = true → rightsOk m 0x08 = true → Runs (.rclrRead .bar0 m 0x08 4) s fun t =>
      t.readOut.toNat = s.gctl.accCount.toNat + s.gctl.accMid.toNat * 0x10000 ∧
      t = { s with readOut := t.readOut, gctl := { s.gctl with accCount := 0 } }) ∧
    (∀ q, q < 1024 → s.admits m (qcfgOff q + 0x30) = true → rightsOk m (qcfgOff q + 0x30) = true →
      Runs (.rclrRead .bar0 m (qcfgOff q + 0x30) 4) s fun t => t.readOut = BitVec.ofNat 64 (s.regWord m 0 (qcfgOff q + 0x30)) ∧
        t = { s.setQ q { s.q q with dbBad := 0 } with readOut := t.readOut }) ∧
    (∀ c, c < 64 → s.admits m (0x80044 + 256 * c) = true → rightsOk m (0x80044 + 256 * c) = true →
      Runs (.rclrRead .bar0 m (0x80044 + 256 * c) 4) s fun t => t.readOut.toNat = (s.cls c).overruns.toNat + (s.cls c).parks.toNat * 0x10000 ∧
        t = { s.setCls c { s.cls c with overruns := 0, parks := 0 } with readOut := t.readOut }) ∧
    (∀ n, n < 256 → s.admits m (0xA4004 + 8 * n) = true → rightsOk m (0xA4004 + 8 * n) = true →
      Runs (.rclrRead .bar0 m (0xA4004 + 8 * n) 4) s fun t => t.readOut.toNat = (s.sem n).value.toNat + (s.sem n).bad.toNat * 0x10000 ∧
        t = { s.setSem n { s.sem n with bad := 0 } with readOut := t.readOut })

/-- A host's admitted write of an allowed length and place puts its bytes, and no other byte, into the local memory of a core that
is frozen and drained, or into those Hawk cells of the span that are in service, where none of them is retired and no bank of them
is stopped; every other byte reads as before and nothing else changes. To a core that is not drained, and to a retired cell, the
write is discarded and counted, and every byte reads as before. (An access wakes the domain that it reaches and proceeds: log
121.) (R42, R43, R507) -/
def Obligations.WindowWritesStoreBytes : Prop :=
  ∀ (s : State) (m off : Nat) (bytes : List Byte), isHost m = true → s.memOk → inRange off 0x400000 0xFFFFFF = true → s.admits m off = true →
    winSizeOk off bytes.length 256 = true →
    ((∃ core o, windowCore off = some (core, o) ∧ o < localSize core ∧ s.drained core = true) →
      Runs (.windowWrite m off bytes) s fun t =>
        (∀ a, t.byteAt a = if off ≤ a ∧ a < off + bytes.length then bytes.getD (a - off) 0 else s.byteAt a) ∧ t = { s.wakeFor off with mem := t.mem }) ∧
    (windowCore off = none → s.bankStopped off bytes.length = false → s.hitsRetired off bytes.length = false →
      Runs (.windowWrite m off bytes) s fun t =>
        (∀ a, t.byteAt a = if off ≤ a ∧ a < off + bytes.length ∧ s.inHawk a = true then bytes.getD (a - off) 0 else s.byteAt a) ∧
        t = { s.wakeFor off with mem := t.mem }) ∧
    ((∃ core o, windowCore off = some (core, o) ∧ o < localSize core ∧ s.drained core = false) ∨
        (windowCore off = none ∧ s.bankStopped off bytes.length = false ∧ s.hitsRetired off bytes.length = true) →
      Runs (.windowWrite m off bytes) s fun t => t.gctl.accCount = satInc s.gctl.accCount ∧ t.gctl.accMid = BitVec.ofNat 9 m ∧
        (∀ a, t.byteAt a = s.byteAt a) ∧ Reports s t)

/-- On a module, CONVENTIONAL_RESET returns the configuration of its function and its link counters to their reset;
POWER_STATE_CHANGE sets or leaves D3hot, with nothing else changed on entry but the wake that a held request makes where PME_En is
set; MSIX_ENABLE sets MSI-X Enable and the Function Mask as given; VECTOR_MASK and VECTOR_UNMASK of a vector set its Mask bit
alone, and with MSI-X enabled, the function unmasked and able to issue requests and no traffic held, an unmask sends the message
that waited behind the PBA bit and clears the bit. VECTOR_CONTROL_READ returns the Mask bit, and where the module can send, no
message of the vector stays behind in its egress queue. With Memory Space Enable clear these accesses are Unsupported Requests.
PME_STATUS_CLEAR clears PME_Status, and WAKE_OUT_N follows the other function's. The other module and the queues keep what they
have. (What the spec leaves open here is read as log 4 says.) (R63, R64, R65, R72, R73, R74, R81) -/
def Obligations.FunctionConfigurationEvents : Prop :=
  ∀ (s : State) (md : Nat), md < 2 →
    (Runs (.conventionalReset md) s fun t => (t.link md).cfg = {} ∧ (t.link md).crcRetry = 0 ∧ (t.link md).retrain = 0 ∧ (t.link md).down = 0 ∧
      t.link (otherMd md) = s.link (otherMd md) ∧ t.queues = s.queues ∧ Reports s t) ∧
    (Runs (.powerStateChange md true) s fun t => (t.link md).cfg.d3 = true ∧ t.link (otherMd md) = s.link (otherMd md) ∧
      ((s.link md).cfg.pmeEn = false ∨ s.holdsRequest md = false → t = s.updCfg md fun c => { c with d3 := true }) ∧
      ((s.link md).cfg.pmeEn = true → s.holdsRequest md = true → (t.link md).cfg.pmeStatus = true ∧
        ((s.link md).cfg.pmeStatus = false → t.wakeOut = true)) ∧ t.queues = s.queues ∧ Reports s t) ∧
    (NoHostWaits s → Runs (.powerStateChange md false) s fun t => (t.link md).cfg.d3 = false ∧ (t.link md).cfg.bar0 = (s.link md).cfg.bar0 ∧
      t.queues = s.queues ∧ Reports s t) ∧
    (∀ mask : Bool, Runs (.msixEnable md mask) s fun t => (t.link md).cfg.msixEn = true ∧ (t.link md).cfg.funcMask = mask ∧
      t.queues = s.queues ∧ Reports s t) ∧
    (s.admits md 0x8000 = true →
      (∀ v, v < 2048 → Runs (.vectorMask md (some v)) s fun t => (t.link md).cfg.ent v = { (s.link md).cfg.ent v with mask := true } ∧
        (∀ k, k ≠ v → (t.link md).cfg.ent k = (s.link md).cfg.ent k) ∧ (t.link md).queue = (s.link md).queue ∧ t.queues = s.queues ∧ Reports s t) ∧
      (∀ v, v < 2048 → (s.link md).cfg.msixEn = true → (s.link md).cfg.funcMask = false → (s.link md).canIssue = true → (s.link md).holding = false →
        (s.link md).cfg.pba.contains v = true →
        Runs (.vectorUnmask md (some v)) s fun t => ((t.link md).cfg.ent v).mask = false ∧ (t.link md).cfg.pba.contains v = false ∧
          (∃ w ∈ (t.link md).queue, w.kind = .msix v ∧ w.addr = ((s.link md).cfg.ent v).addr) ∧ t.queues = s.queues ∧ Reports s t) ∧
      (∀ v, v < 2048 → (s.link md).usable = true → Runs (.vectorControlRead md v) s fun t =>
        t.readOut.toNat = b2n ((s.link md).cfg.ent v).mask ∧ (∀ w ∈ (t.link md).queue, w.kind ≠ .msix v) ∧
        (t.link md).cfg = (s.link md).cfg ∧ t.link (otherMd md) = s.link (otherMd md) ∧ Reports { s with readOut := t.readOut } t)) ∧
    (s.linkServed = true → (s.link md).cfg.memEn = false → ∀ v, ∀ i ∈ [Instr.vectorMask md (some v), .vectorUnmask md (some v)],
      Runs i s fun t => bitOf (t.link md).cfg.aerUnc 20 = true ∧ (t.link md).cfg.msix = (s.link md).cfg.msix ∧ (t.link md).queue = (s.link md).queue ∧
        t.link (otherMd md) = s.link (otherMd md) ∧ Reports { s with freeNext := t.freeNext } t) ∧
    (Runs (.pmeStatusClear md) s fun t => (t.link md).cfg = { (s.link md).cfg with pmeStatus := false } ∧
      t.wakeOut = (s.link (otherMd md)).cfg.pmeStatus ∧ t.link (otherMd md) = s.link (otherMd md) ∧ Reports s t)

/-- A quiet module in the Active state enters L1 on request, and L2 on request where its function is in D3hot; it enters L1 when
the idle time runs out with no read waiting and the latency of its queues bearing the exit. An exit under way ends Active. A
moderated message of the module begins the exit early. A link that leaves Active is in training. Each changes no other part of the
block but the module (and what the end of an exit sends on). (What the spec leaves open here is read as logs 4, 43, 82 say.) (R77,
R78, R79, R80, R83) -/
def Obligations.LinkStateRows : Prop :=
  ∀ (s : State) (md : Nat), md < 2 →
    (∀ l2 : Bool, (s.link md).quiet = true → (s.link md).lstate = 0 → (l2 = true → (s.link md).cfg.d3 = true) →
      Runs (.l1EntryRequest md l2) s fun t => t = s.setLink md { s.link md with lstate := if l2 then 2 else 1, exiting := false }) ∧
    ((s.link md).cfg.linkIdle ≠ 0 → (s.link md).quiet = true → (s.link md).waiting = [] → (s.link md).lstate = 0 → s.latOk md = true →
      Runs (.linkIdleExpiry md) s fun t => t = s.setLink md { s.link md with lstate := 1, exiting := false }) ∧
    ((s.link md).exiting = true → ((s.link md).lstate = 1 ∨ (s.link md).lstate = 2) →
      Runs (.linkExitComplete md) s fun t => (t.link md).lstate = 0 ∧ (t.link md).exiting = false ∧
        t.link (otherMd md) = s.link (otherMd md) ∧ t = { s with link0 := t.link0, link1 := t.link1 }) ∧
    (((s.link md).lstate = 1 ∨ (s.link md).lstate = 2) → (∃ b ∈ s.batches, b.1 / 2048 = md) →
      Runs (.earlyLinkExit md) s fun t => t = s.setLink md { s.link md with exiting := true }) ∧
    ((s.link md).lstate = 0 → Runs (.linkLeaveActive md) s fun t => t = s.setLink md { s.link md with lstate := 3 })

/-- A CRC error of a module counts in CRC_RETRY and sets the receiver-error bit of AER. A malformed request and a poisoned one set
bits 18 and 12 of the uncorrectable status and send the message that reporting asks for; a posted request that the die does not
serve sets bit 20; an unexpected completion sets bit 16, or the advisory bit of the correctable status where it is not fatal;
nothing but the module changes. A completion error or timeout takes the read at its place off the module: a producer-count read of
a RUNNING queue with no slots on their way stops the queue in ERROR with WHY 7, and a packet read puts a RUNNING admin queue in
ERROR; a timeout sets AER bit 14 and poisoned data bit 12. (What the spec leaves open here is read as log 4 says.) (R70, R71, R82,
R154) -/
def Obligations.LinkErrorRows : Prop :=
  ∀ (s : State) (md : Nat), md < 2 →
    (Runs (.d2dCrcError md) s fun t => (t.link md).crcRetry = satInc (s.link md).crcRetry ∧ (t.link md).cfg.aerCor = (s.link md).cfg.aerCor ||| 1 ∧
      t.queues = s.queues ∧ Reports s t) ∧
    (Runs (.unexpectedCompletion md) s fun t =>
      (bitOf (s.link md).cfg.aerSev 16 = true → bitOf (t.link md).cfg.aerUnc 16 = true ∧ bitOf (t.link md).cfg.devStat 2 = true) ∧
      (bitOf (s.link md).cfg.aerSev 16 = false → bitOf (t.link md).cfg.aerCor 13 = true ∧ bitOf (t.link md).cfg.devStat 0 = true ∧
        (bitOf (s.link md).cfg.aerCorMask 13 = false → bitOf (t.link md).cfg.aerUnc 16 = true)) ∧
      t = { s.setLink md { s.link md with cfg := (t.link md).cfg, sent := (t.link md).sent } with freeNext := t.freeNext }) ∧
    (∀ hdr : BitVec 128, ∀ p ∈ [(BadRequest.malformed, 18), (.poisoned, 12), (.unsupported true, 20)],
      Runs (.malformedRequest ⟨md, p.1, hdr⟩) s fun t => bitOf (t.link md).cfg.aerUnc p.2 = true ∧
        (bitOf (s.link md).cfg.aerMask p.2 = false → (s.link md).cfg.reports (if bitOf (s.link md).cfg.aerSev p.2 then 2 else 1) (p.2 = 20) = true →
          (t.link md).sent = (if bitOf (s.link md).cfg.aerSev p.2 then LinkMsg.errFatal else LinkMsg.errNonfatal) :: (s.link md).sent) ∧
        t = s.setLink md { s.link md with cfg := (t.link md).cfg, sent := (t.link md).sent }) ∧
    (∀ (idx q : Nat) (r : HostRead), (s.link md).reads[idx]? = some r → r.req = .pcnt q → (s.q q).st = .running → (s.q q).reading = false →
      s.noneWait →
      (∀ cause : ReadFail, Runs (.completionError md idx cause) s fun t => (t.q q).st = .error ∧ (t.q q).why = 7 ∧
        (t.q q).errIdx = (s.q q).fetch ∧ (cause = .poisoned → (t.link md).cfg.aerUnc = (s.link md).cfg.aerUnc ||| 0x1000) ∧
        Reports { s with freeNext := t.freeNext } t) ∧
      (Runs (.completionTimeout md idx) s fun t => (t.q q).st = .error ∧ (t.q q).why = 7 ∧
        (t.link md).cfg.aerUnc = (s.link md).cfg.aerUnc ||| 0x4000 ∧ Reports s t)) ∧
    (∀ (idx : Nat) (r : HostRead), (s.link md).reads[idx]? = some r → r.req = .admin → s.aq.st = .running → s.noneWait →
      Runs (.completionTimeout md idx) s fun t => t.aq = { s.aq with reading := false, st := .error } ∧ Reports { s with aq := t.aq } t)

/-- A module whose link has left Active and is not back is lost and counted. In REDUNDANT mode with this module carrying and the
other usable, that one carries from then on with every write that this one had queued or not yet acknowledged, and this one holds
nothing; a module that does not carry is only lost; in every other case its traffic is held, and with a GRACE of 0 the end of
GRACE is at once. When GRACE ends with LL_ACTION HALT, or with DEFAULT and a standby partner in sync, the die halts; else the held
writes wait for software. A retrain makes the link Active at its rate and width, ends the loss and is journalled; traffic held
while GRACE still runs goes on, and traffic that waits for software stays held; a module that was lost comes up with a
conventional reset. RELEASE of a module whose writes wait lets them go: nothing is held, what was queued is still queued, and held
data and interim records stand in the egress queue. DISCARD leaves nothing held, and stops every RUNNING or PAUSED queue of the
module in ERROR with WHY 8 and its FETCH kept. (What the spec leaves open here is read as log 74 says.) (R59, R65, R83, R84, R85,
R86, R87, R198) -/
def Obligations.LinkLossAndRelease : Prop :=
  ∀ (s : State) (md : Nat), md < 2 →
    ((s.link md).lstate = 3 → (s.link md).lost = false →
      ((s.mode ≠ 2 ∨ (b2n s.carry = md ∧ ((s.link (otherMd md)).up = false ∨ (s.link (otherMd md)).lost = true ∨ 2 ≤ (s.link (otherMd md)).lstate.toNat))) →
        ((s.link md).cfg.grace ≠ 0 →
          Runs (.moduleLoss md) s fun t => (t.link md).lost = true ∧ (t.link md).down = satInc (s.link md).down ∧ (t.link md).holding = true ∧
            (t.link md).llAtLoss = (s.link md).cfg.llAction ∧ (t.link md).unacked = [] ∧ t.queues = s.queues ∧ Reports s t) ∧
        ((s.link md).cfg.grace = 0 → (s.link md).cfg.llAction = 1 → (s.link md).graceOver = false →
          Runs (.moduleLoss md) s fun t => (t.link md).lost = true ∧ (t.link md).holding = true ∧ (t.link md).graceOver = true ∧
            t.queues = s.queues ∧ Reports s t)) ∧
      (s.mode = 2 → b2n s.carry ≠ md →
        Runs (.moduleLoss md) s fun t => (t.link md).lost = true ∧ (t.link md).down = satInc (s.link md).down ∧ t.carry = s.carry ∧
          (t.link md).holding = (s.link md).holding ∧ t.queues = s.queues ∧ Reports s t) ∧
      (s.mode = 2 → b2n s.carry = md → (s.link (otherMd md)).up = true → (s.link (otherMd md)).lost = false → (s.link (otherMd md)).lstate.toNat < 2 →
        Runs (.moduleLoss md) s fun t => t.carry = decide (md = 0) ∧ (t.link md).lost = true ∧ (t.link md).queue = [] ∧ (t.link md).unacked = [] ∧
          (t.link md).reads = [] ∧ (∀ w ∈ (s.link md).unacked ++ (s.link md).queue, (∀ q, w.kind ≠ .head q) →
            ∃ x ∈ (t.link (otherMd md)).queue, x.kind = w.kind ∧ x.addr = w.addr ∧ x.bytes = w.bytes) ∧ Reports { s with carry := t.carry } t)) ∧
    ((s.link md).lost = true → (s.link md).holding = true → (s.link md).graceOver = false →
      ((s.link md).llAtLoss = 2 ∨ ((s.link md).llAtLoss = 0 ∧ s.ds.present = true ∧ s.dsUp = true ∧ s.paired = true) →
        Runs (.linkGraceExpiry md) s fun t => t.die = .halted ∧ t.queues = s.queues ∧ t.chans = s.chans) ∧
      ((s.link md).llAtLoss ≠ 2 → ((s.link md).llAtLoss ≠ 0 ∨ s.ds.present = false ∨ s.dsUp = false ∨ s.paired = false) →
        Runs (.linkGraceExpiry md) s fun t => (t.link md).graceOver = true ∧ (t.link md).holding = true ∧ t.die = s.die ∧ t.queues = s.queues ∧
          Reports s t)) ∧
    (∀ (rate : BitVec 2) (x8 : Bool), (s.link md).lstate = 3 →
      ((s.link md).holding = false →
        Runs (.linkRetrainComplete md rate x8) s fun t => (t.link md).lstate = 0 ∧ (t.link md).rate = rate ∧ (t.link md).x8 = x8 ∧
          (t.link md).lost = false ∧ t.jseq = s.jseq + 1 ∧ t.queues = s.queues ∧
          ((s.link md).lost = false → (t.link md).retrain = satInc (s.link md).retrain) ∧ ((s.link md).lost = true → (t.link md).cfg = {}) ∧ Reports s t) ∧
      (s.heldSet md = true →
        Runs (.linkRetrainComplete md rate x8) s fun t => (t.link md).lstate = 0 ∧ (t.link md).rate = rate ∧ (t.link md).x8 = x8 ∧
          (t.link md).lost = false ∧ t.jseq = s.jseq + 1 ∧ t.heldSet md = true ∧ t.queues = s.queues ∧ Reports s t) ∧
      ((s.link md).holding = true → (s.link md).graceOver = false →
        Runs (.linkRetrainComplete md rate x8) s fun t => (t.link md).lstate = 0 ∧ (t.link md).rate = rate ∧ (t.link md).x8 = x8 ∧
          (t.link md).lost = false ∧ (t.link md).holding = false ∧ (t.link md).held = [])) ∧
    (∀ v : Word32, s.heldSet md = true → bitOf v 1 = false →
      Runs (.nlnkRelease md v) s fun t => (t.link md).holding = false ∧ (t.link md).held = [] ∧ (t.link md).graceOver = false ∧
        (∀ w ∈ (s.link md).queue, (∀ q, w.kind ≠ .head q) → ∃ x ∈ (t.link md).queue, x.kind = w.kind ∧ x.addr = w.addr ∧ x.bytes = w.bytes) ∧
        (∀ w ∈ (s.link md).held, ((∃ ch, w.kind = .data ch) ∨ ∃ ch what, w.kind = .interim ch what) →
          ∃ x ∈ (t.link md).queue, x.kind = w.kind ∧ x.addr = w.addr)) ∧
    (∀ v : Word32, s.heldSet md = true → bitOf v 0 = false →
      Runs (.nlnkDiscard md v) s fun t => (t.link md).holding = false ∧ (t.link md).held = [] ∧ (t.link md).graceOver = false ∧
        ∀ q, (s.q q).st = .running ∨ (s.q q).st = .paused → s.qModule q = md → (t.q q).st = .error ∧ (t.q q).why = 8 ∧ (t.q q).fetch = (s.q q).fetch)

/-- A JUMP that is due, with fewer than 16 jumps in the frame, counts and continues at its target: in its own block the CCW there
is reached at once; elsewhere the held blocks are discarded and the target's block is read. A NOP with CC goes on at the CCW after
it; one without CC ends the program with OK and leaves the channel IDLE. SKIPIF goes on after the CCWs it skips, or at the next
one. POST is a NOP where the interim area is off; else it sends a record and counts ISEQ. Other channels keep what they have.
(R153, R154, R156, R157, R162) -/
def Obligations.CommandWordsThatFlow : Prop :=
  ∀ (s : State) (ch : Nat) (w : BitVec 128),
    (CcwDue s ch 0x08 w → (s.chan ch).jumps < 16 → blockOf (BitVec.ofNat 64 (bitsOf (ccwAddr w) 0 62)) = blockOf (s.chan ch).ccwa →
      CcwHeld s ch (BitVec.ofNat 64 (bitsOf (ccwAddr w) 0 62)) →
      Runs (.jump ch) s fun t => (t.chan ch).ccwa = BitVec.ofNat 64 (bitsOf (ccwAddr w) 0 62) ∧ (t.chan ch).jumps = (s.chan ch).jumps + 1 ∧
        (t.chan ch).fetched = true ∧ (t.chan ch).st = .active ∧ ChannelAlone s t ch) ∧
    (CcwDue s ch 0x08 w → (s.chan ch).jumps < 16 → blockOf (BitVec.ofNat 64 (bitsOf (ccwAddr w) 0 62)) ≠ blockOf (s.chan ch).ccwa →
      BlockPaid s ch →
      Runs (.jump ch) s fun t => (t.chan ch).ccwa = BitVec.ofNat 64 (bitsOf (ccwAddr w) 0 62) ∧ (t.chan ch).jumps = (s.chan ch).jumps + 1 ∧
        (t.chan ch).blocks = [] ∧ (t.chan ch).st = .active ∧ t.hasBlock ch (BitVec.ofNat 64 (bitsOf (ccwAddr w) 0 62)) = true ∧ ProgramOf s t ch) ∧
    (CcwDue s ch 0x09 w → ccwCc w = true → ccwPi w = false → CcwHeld s ch ((s.chan ch).ccwa + 16) →
      Runs (.ccwNop ch) s fun t => (t.chan ch).ccwa = (s.chan ch).ccwa + 16 ∧ (t.chan ch).fetched = true ∧ (t.chan ch).st = .active ∧ ChannelAlone s t ch) ∧
    (CcwDue s ch 0x09 w → ccwCc w = false → ccwPi w = false → EndsQuietly s ch →
      Runs (.ccwNop ch) s fun t => (t.chan ch).st = .idle ∧ (t.chan ch).lastStatus = stOk ∧ (t.chan ch).began = none ∧ ProgramOf s t ch) ∧
    (∀ n : Nat, CcwDue s ch 0x0E w →
      n = (if ((s.chan ch).cond.toNat &&& bitsOf (ccwParam w) 0 16 ≠ 0) ↔ bitOf (ccwParam w) 24 = false then bitsOf (ccwParam w) 16 8 else 0) →
      CcwHeld s ch ((s.chan ch).ccwa + BitVec.ofNat 64 (16 * (n + 1))) →
      Runs (.skipif ch) s fun t => (t.chan ch).ccwa = (s.chan ch).ccwa + BitVec.ofNat 64 (16 * (n + 1)) ∧ (t.chan ch).fetched = true ∧
        (t.chan ch).cond = (s.chan ch).cond ∧ ChannelAlone s t ch) ∧
    (CcwDue s ch 0x0D w → ccwCc w = true → ccwPi w = false → (s.chan ch).ien = false → CcwHeld s ch ((s.chan ch).ccwa + 16) →
      Runs (.post ch) s fun t => (t.chan ch).ccwa = (s.chan ch).ccwa + 16 ∧ (t.chan ch).iseq = (s.chan ch).iseq ∧ ChannelAlone s t ch) ∧
    (CcwDue s ch 0x0D w → ccwCc w = true → ccwPi w = false → (s.chan ch).ien = true → s.gates = false → (s.chan ch).began.isSome = true →
      s.hostWaits (s.chModule ch) = false → CcwHeld s ch ((s.chan ch).ccwa + 16) →
      Runs (.post ch) s fun t => (t.chan ch).ccwa = (s.chan ch).ccwa + 16 ∧ (t.chan ch).iseq = (s.chan ch).iseq + 1 ∧
        (∃ e ∈ (t.link (s.chModule ch)).queue,
          e.addr = (s.chan ch).irec + BitVec.ofNat 64 (32 * ((s.chan ch).iseq.toNat % 2 ^ (s.chan ch).irsz.toNat)) ∧ e.bytes.length = 32) ∧ ProgramOf s t ch)

/-- WAITF makes the channel wait until frame Fc + N, its blocks discarded. WAITE with no bit of its mask pending waits for an
event, until frame Fc + N where N is given; with one pending it takes the lowest such bit alone, sets EVT alone in condition bits
7 to 0 and goes on. At its due frame a WAITF ends, and a WAITE ends with TIMEOUT and takes no bit: the channel is ACTIVE at the
CCW after it, which is its new anchor, and reads that block. A write of CH_EVT.PEND, and a SIGNAL, set bits of a channel that
waits for none; the SIGNAL's program goes on. Other channels keep what they have. (What the spec leaves open here is read as log
19 says.) (R138, R145, R154, R159, R161) -/
def Obligations.WaitsBeginAndEnd : Prop :=
  ∀ (s : State) (ch : Nat) (w : BitVec 128),
    (CcwDue s ch 0x0A w → Runs (.waitf ch) s fun t => (t.chan ch).st = .waitTick ∧ (t.chan ch).parked = false ∧
      (t.chan ch).due = some (s.frm.frame.toNat + bitsOf (ccwParam w) 0 16) ∧ (t.chan ch).blocks = [] ∧ ChannelAlone s t ch) ∧
    (CcwDue s ch 0x0B w → (s.chan ch).pend &&& BitVec.ofNat 16 (bitsOf (ccwParam w) 0 16) = 0 →
      Runs (.waite ch) s fun t => (t.chan ch).st = .waitEvent ∧ (t.chan ch).mask = BitVec.ofNat 16 (bitsOf (ccwParam w) 0 16) ∧
        (t.chan ch).due = (if bitsOf (ccwParam w) 16 16 = 0 then none else some (s.frm.frame.toNat + bitsOf (ccwParam w) 16 16)) ∧
        (t.chan ch).pend = (s.chan ch).pend ∧ (t.chan ch).blocks = [] ∧ ChannelAlone s t ch) ∧
    (∀ b : Nat, b < 16 → CcwDue s ch 0x0B w → ccwCc w = true → ccwPi w = false → CcwHeld s ch ((s.chan ch).ccwa + 16) →
      bitOf ((s.chan ch).pend &&& BitVec.ofNat 16 (bitsOf (ccwParam w) 0 16)) b = true →
      (∀ i, i < b → bitOf ((s.chan ch).pend &&& BitVec.ofNat 16 (bitsOf (ccwParam w) 0 16)) i = false) →
      Runs (.waite ch) s fun t => (t.chan ch).pend = (s.chan ch).pend &&& ~~~(BitVec.ofNat 16 (2 ^ b)) ∧
        (t.chan ch).cond = BitVec.ofNat 16 ((s.chan ch).cond.toNat / 256 * 256 + 32) ∧ (t.chan ch).ccwa = (s.chan ch).ccwa + 16 ∧
        (t.chan ch).st = .active ∧ ChannelAlone s t ch) ∧
    (∀ n : Nat, s.noneWait → s.arbiterOn = true → (s.chan ch).st = .waitTick → (s.chan ch).parked = false → (s.chan ch).due = some n →
      n ≤ s.frm.frame.toNat → (s.chan ch).xfer.pi = false → (s.chan ch).xfer.cc = true → (s.chan ch).blocks = [] → (s.chan ch).badBlock = none →
      BlockPaid s ch →
      Runs (.waitfExpiry ch) s fun t => (t.chan ch).st = .active ∧ (t.chan ch).ccwa = (s.chan ch).ccwa + 16 ∧
        (t.chan ch).anchor = (s.chan ch).ccwa + 16 ∧ (t.chan ch).due = none ∧ t.hasBlock ch ((s.chan ch).ccwa + 16) = true ∧ ProgramOf s t ch) ∧
    (∀ n : Nat, s.noneWait → s.arbiterOn = true → (s.chan ch).st = .waitEvent → (s.chan ch).due = some n → n ≤ s.frm.frame.toNat →
      (s.chan ch).xfer.pi = false → (s.chan ch).xfer.cc = true → (s.chan ch).blocks = [] → (s.chan ch).badBlock = none → BlockPaid s ch →
      Runs (.waiteTimeout ch) s fun t => (t.chan ch).st = .active ∧ (t.chan ch).ccwa = (s.chan ch).ccwa + 16 ∧
        (t.chan ch).cond = BitVec.ofNat 16 ((s.chan ch).cond.toNat / 256 * 256 + 8) ∧ (t.chan ch).pend = (s.chan ch).pend ∧
        t.hasBlock ch ((s.chan ch).ccwa + 16) = true ∧ ProgramOf s t ch) ∧
    (∀ (m : Nat) (bits : BitVec 16), ch < 4096 → s.noneWait → s.admits m (chOff ch) = true → rightsOk m (chOff ch) = true → (s.chan ch).st ≠ .waitEvent →
      Runs (.chEvtPendWrite m ch bits) s fun t => t.chan ch = { s.chan ch with pend := (s.chan ch).pend ||| bits } ∧ ChannelAlone s t ch) ∧
    (∀ d : Nat, CcwDue s ch 0x10 w → bitOf (ccwParam w) 31 = false → d = bitsOf (ccwParam w) 0 12 → d ≠ ch → (s.chan d).st ≠ .waitEvent →
      ccwCc w = true → ccwPi w = false → CcwHeld s ch ((s.chan ch).ccwa + 16) →
      Runs (.signal ch) s fun t => t.chan d = { s.chan d with pend := (s.chan d).pend ||| BitVec.ofNat 16 (2 ^ bitsOf (ccwParam w) 12 4) } ∧
        (t.chan ch).ccwa = (s.chan ch).ccwa + 16 ∧ (t.chan ch).cond = BitVec.ofNat 16 ((s.chan ch).cond.toNat / 256 * 256) ∧
        Reports { s with chans := t.chans, classes := t.classes } t ∧ ∀ k, k ≠ ch → k ≠ d → t.chan k = s.chan k)

/-- A WRITE, CONTROL or EXCH that is due with its port and COUNT allowed and its data in host memory becomes the channel's
transfer on that port and asks for the first part of its data, within the budgets. A READ on a port whose units are buffered, with
none there, waits on the port behind the READs already there. A SENSE with CC into the local segment stores the bytes of the sense
block there and nowhere else, clears condition bits 7 to 0 and goes on. Other channels keep what they have. (What the spec leaves
open here is read as logs 36, 76 say.) (R66, R144, R145, R154, R187, R351, R367, R508) -/
def Obligations.TransfersBegin : Prop :=
  ∀ (s : State) (ch p n : Nat) (w : BitVec 128), p = bitsOf (ccwParam w) 0 8 → p ≠ portLocal → ccwId w = false →
    (∀ (i : Instr) (c : Nat), (c = 0x01 ∧ i = .write ch) ∨ (c = 0x03 ∧ i = .control ch) ∨ (c = 0x0F ∧ i = .exch ch) →
      CcwDue s ch c w → s.portJudge p c (argNode p (ccwParam w)) = none → s.countOk p c (argNode p (ccwParam w)) (ccwCount w) = true →
      ccwSk w = false → spaceOf (ccwAddr w) = 0 → n = s.readSize ch (ccwAddr w, ccwCount w) → (s.laid ch w).replayed ch = none →
      (s.laid ch w).outBad ch (ccwCd w) = none → s.canOpen ch = none → (s.laid ch w).unfitCh ch (startCost ((s.laid ch w).outCost ch (ccwCd w)).1) = false →
      (s.laid ch w).fitsCh ch (startCost ((s.laid ch w).outCost ch (ccwCd w)).1) = true →
      Runs (i) s fun t => (t.chan ch).xfer.cmd = c ∧ (t.chan ch).xfer.param = ccwParam w ∧ (t.chan ch).xfer.phase = .data ∧
        (t.chan ch).lastPort = some p ∧ t.hasRead (fun r => r = .data ch (ccwAddr w) n) = true ∧ ProgramOf s t ch) ∧
    (CcwDue s ch 0x02 w → s.portJudge p 0x02 (argNode p (ccwParam w)) = none → s.countOk p 0x02 (argNode p (ccwParam w)) (ccwCount w) = true →
      (s.chan ch).lsegBad (ccwAddr w, ccwCount w) = false → s.isBuffered p = true → portKind p ≠ some .t1s → (s.port p).buf = [] →
      ch ∉ (s.port p).readers →
      Runs (.read ch) s fun t => (t.chan ch).xfer.cmd = 0x02 ∧ (t.chan ch).xfer.phase = .input ∧ (t.chan ch).lastPort = some p ∧
        (t.port p).readers = (s.port p).readers ++ [ch] ∧ ProgramOf s t ch) ∧
    (CcwDue s ch 0x04 w → s.portJudge p 0x04 (argNode p (ccwParam w)) = none → s.countOk p 0x04 (argNode p (ccwParam w)) (ccwCount w) = true →
      ccwSk w = false → spaceOf (ccwAddr w) = 2 → n = ccwCount w → n ≤ 128 → (s.chan ch).lsegBad (ccwAddr w, n) = false →
      s.lsegRetired ch (bitsOf (ccwAddr w) 0 16) n = false → s.unfitCh ch (startCost { sbeat := ceilDiv n 32 }) = false →
      s.fitsCh ch (startCost { sbeat := ceilDiv n 32 }) = true → CcwGoesOn s ch → s.memOk →
      Runs (.sense ch) s fun t => t.bytesAt ((s.chan ch).lsegAddr (bitsOf (ccwAddr w) 0 16)) n = (s.senseBlock p).take n ∧
        MemOnly s t ((s.chan ch).lsegAddr (bitsOf (ccwAddr w) 0 16)) n ∧ (t.chan ch).ccwa = (s.chan ch).ccwa + 16 ∧
        (t.chan ch).cond = BitVec.ofNat 16 ((s.chan ch).cond.toNat / 256 * 256) ∧ ProgramOf { s with mem := t.mem } t ch)

/-- DISPATCH of a START_PENDING channel whose turn it is in its tile, a slot within the budgets, makes it ACTIVE at a new anchor
of the next generation, moves the turn on, and reads the block of its first CCW. A block that arrives is held, and a channel that
waits for it, its CCW passing every check, has reached that CCW. Host data that arrive for a WRITE to LOCAL are stored at their
place in the local segment and nowhere else, and with CC the program goes on. Other channels keep what they have. (What the spec
leaves open here is read as logs 37, 77 say.) (R138, R144, R146, R154, R187, R197) -/
def Obligations.DispatchAndArrivals : Prop :=
  ∀ (s : State) (ch : Nat), s.noneWait →
    (∀ tn : Turn, (s.chan ch).st = .startPending → s.arbiterOn = true →
      s.pickTurn (s.turns.get {} (tileOfCh ch)) (s.startable (tileOfCh ch)) = some (ch, tn) →
      s.unfitCh ch { disp := 1 } = false → s.fitsCh ch { disp := 1 } = true → (s.chan ch).blocks = [] → (s.chan ch).badBlock = none →
      BlockPaid s ch →
      Runs (.dispatch ch) s fun t => (t.chan ch).st = .active ∧ (t.chan ch).anchor = (s.chan ch).ccwa ∧ (t.chan ch).gen = (s.chan ch).gen + 1 ∧
        t.turns = s.turns.set (tileOfCh ch) tn ∧ t.hasBlock ch (s.chan ch).ccwa = true ∧ ProgramOf { s with turns := t.turns } t ch) ∧
    (∀ (md : Nat) (r : HostRead) (a : Word64) (words : List (BitVec 128)), md < 2 → (s.link md).reads = [r] → (s.link md).waiting = [] →
      (s.link (otherMd md)).reads = [] → r.req = .ccw ch a → (s.chan ch).st = .active → (s.chan ch).fetched = false →
      (s.chan ch).xfer.phase = .none → (s.chan ch).haltReq = false → (s.chan ch).retired = false → (s.chan ch).inChain = false →
      (s.chan ch).afterJump = false →
      blockOf (s.chan ch).ccwa = a → s.ccwCheck (words.getD (bitsOf (s.chan ch).ccwa 4 2) 0) none = none →
      ccwSu (words.getD (bitsOf (s.chan ch).ccwa 4 2) 0) = false →
      Runs (.ccwBlockArrive ch words) s fun t => (t.chan ch).blocks = [(a, words)] ∧ (t.chan ch).fetched = true ∧ (t.chan ch).ccwa = (s.chan ch).ccwa ∧
        (t.link md).reads = [] ∧ ChannelAlone s t ch) ∧
    (∀ (md n : Nat) (r : HostRead) (a : Word64) (bytes : List Byte), md < 2 → (s.link md).reads = [r] → (s.link md).waiting = [] →
      (s.link (otherMd md)).reads = [] → r.req = .data ch a n → bytes.length = n → (s.chan ch).st = .active →
      (s.chan ch).xfer.cmd = 0x01 → (s.chan ch).port = portLocal → (s.chan ch).xfer.phase = .data → (s.chan ch).xfer.pieces = [(a, n)] →
      (s.chan ch).xfer.out = [] → (s.chan ch).xfer.cond = 0 → (s.chan ch).xfer.bits = 0 →
      s.lsegRetired ch (bitsOf (s.chan ch).xfer.param 16 16 + (s.chan ch).xfer.total) n = false → CcwGoesOn s ch → s.memOk →
      Runs (.dataReadComplete ch bytes) s fun t =>
        t.bytesAt ((s.chan ch).lsegAddr (bitsOf (s.chan ch).xfer.param 16 16 + (s.chan ch).xfer.total)) n = bytes ∧
        MemOnly s t ((s.chan ch).lsegAddr (bitsOf (s.chan ch).xfer.param 16 16 + (s.chan ch).xfer.total)) n ∧
        (t.chan ch).ccwa = (s.chan ch).ccwa + 16 ∧ ProgramOf { s with mem := t.mem } t ch)

/-- When the last unit of a WRITE with CC is complete without violation, NACK or timeout, the port's wire is free, condition bits
7 to 0 are clear and the program goes on. A READ with SL whose timeout comes before any byte, on a port with RX_TO or on a Modbus
port, ends with TIMEOUT, SHORT and ZERO, leaves the port and goes on. A grant that a second tick has not served ends its program
in ERROR with HAWK_EXHAUSTED, and its request is gone. Other channels keep what they have. (What the spec leaves open here is read
as logs 34, 78 say.) (R150, R152, R163, R300, R353) -/
def Obligations.UnitsAndTimeouts : Prop :=
  ∀ (s : State) (ch p : Nat), p = (s.chan ch).port → (s.chan ch).st = .active → (s.chan ch).xfer.cond = 0 → (s.chan ch).xfer.bits = 0 →
    (∀ r : UnitResult, s.die = .ready → (s.chan ch).xfer.cmd = 0x01 → (s.chan ch).xfer.phase = .wire → (s.chan ch).xfer.reply = false →
      (s.port p).unitOn = some ch → portKind p = some .t1s ∨ portKind p = some .can ∨ portKind p = some .uart ∨ portKind p = some .spi ∨ portKind p = some .i2c →
      (s.chan ch).xfer.out.length ≤ (s.chan ch).xfer.unit → (∀ e ∈ (s.chan ch).xfer.pieces, e.2 = 0) → s.portAwake p = true → r.viol = none →
      r.nack = false → r.timeout = false → CcwGoesOn s ch → NoUnitReady s →
      Runs (.portUnitComplete ch r) s fun t => (t.chan ch).ccwa = (s.chan ch).ccwa + 16 ∧ (t.port p).unitOn = none ∧
        (t.chan ch).cond = BitVec.ofNat 16 ((s.chan ch).cond.toNat / 256 * 256) ∧ ProgramOf s t ch) ∧
    ((s.chan ch).xfer.cmd = 0x02 → (s.chan ch).xfer.phase = .input → s.rxTo p ≠ 0 → (s.chan ch).xfer.total = 0 → 0 < (s.chan ch).xfer.left →
      (s.chan ch).xfer.slHere = true → (s.port p).readers = [ch] → CcwGoesOn s ch →
      Runs (.rxTimeout ch) s fun t => (t.chan ch).ccwa = (s.chan ch).ccwa + 16 ∧ (t.port p).readers = [] ∧
        (t.chan ch).cond = BitVec.ofNat 16 ((s.chan ch).cond.toNat / 256 * 256 + 137) ∧ ProgramOf s t ch) ∧
    ((s.chan ch).xfer.cmd = 0x02 → (s.chan ch).xfer.phase = .wire → portKind p = some .uart → s.isModbus p = true → (s.chan ch).xfer.total = 0 →
      0 < (s.chan ch).xfer.left → (s.chan ch).xfer.slHere = true → (s.port p).unitOn = some ch → CcwGoesOn s ch → NoUnitReady s →
      Runs (.modbusResponseTimeout ch) s fun t => (t.chan ch).ccwa = (s.chan ch).ccwa + 16 ∧ (t.port p).unitOn = none ∧ (t.port p).adu = [] ∧
        (t.chan ch).cond = BitVec.ofNat 16 ((s.chan ch).cond.toNat / 256 * 256 + 137) ∧ ProgramOf s t ch) ∧
    (∀ g : GrantWait, s.hawk.waits = [g] → g.ch = ch → 2 ≤ g.ticks → EndsQuietly { s with hawk := { s.hawk with waits := [] } } ch →
      Runs (.hawkGrantTimeout ch) s fun t => (t.chan ch).st = .error ∧ (t.chan ch).lastStatus = stHawkExhausted ∧ t.noneWait ∧ ProgramOf s t ch)

/-- When a CONTROL operation with CC on a port is complete, the port's wire is free and the program goes on; LINE_TEST keeps the
readings of a T1S, CAN or I2C port, PLCA_SYNC makes a follower silent until the next beacon and lets a coordinator send its own,
RX_FLUSH leaves no buffered unit, BREAK returns TX to mark, IDLE_CLOCKS changes nothing else, BUS_RECOVERY counts, and
LINK_RESTART ends with the link up and its event set. Other channels keep what they have. (What the spec leaves open here is read
as log 22 says.) (R153, R509) -/
def Obligations.ControlOperationsComplete : Prop :=
  ∀ (s : State) (ch p : Nat), p = (s.chan ch).port → (s.chan ch).xfer.cond = 0 → (s.chan ch).xfer.bits = 0 → (s.port p).unitOn = some ch →
    CcwGoesOn s ch → NoUnitReady s →
    (∀ readings, s.ctlOn ch 1 = true → portKind p = some .t1s ∨ portKind p = some .can ∨ portKind p = some .i2c →
      Runs (.lineTest ch readings) s fun t => (t.port p).lineMon = readings.take 22 ∧ (t.chan ch).ccwa = (s.chan ch).ccwa + 16 ∧
        (t.port p).unitOn = none ∧ ProgramOf s t ch) ∧
    (s.ctlOn ch 2 = true → bitOf (s.pcfg p 0x100) 2 = false →
      Runs (.plcaSync ch) s fun t => (t.port p).silent = true ∧ (t.chan ch).ccwa = (s.chan ch).ccwa + 16 ∧ (t.port p).unitOn = none ∧ ProgramOf s t ch) ∧
    (s.ctlOn ch 2 = true → bitOf (s.pcfg p 0x100) 2 = true →
      Runs (.plcaSync ch) s fun t => (t.port p).beaconHeld = false ∧ (t.port p).curId = 0 ∧ (t.chan ch).ccwa = (s.chan ch).ccwa + 16 ∧
        (t.port p).unitOn = none ∧ ProgramOf s t ch) ∧
    (s.ctlOn ch 3 = true →
      Runs (.rxFlush ch) s fun t => (t.port p).buf = [] ∧ (t.chan ch).ccwa = (s.chan ch).ccwa + 16 ∧ (t.port p).unitOn = none ∧ ProgramOf s t ch) ∧
    (s.ctlOn ch 4 = true →
      Runs (.brk ch) s fun t => (t.port p).breakOn = false ∧ (t.chan ch).ccwa = (s.chan ch).ccwa + 16 ∧ (t.port p).unitOn = none ∧ ProgramOf s t ch) ∧
    (s.ctlOn ch 5 = true →
      Runs (.idleClocks ch) s fun t => (t.chan ch).ccwa = (s.chan ch).ccwa + 16 ∧ (t.port p).unitOn = none ∧ ProgramOf s t ch) ∧
    (s.ctlOn ch 6 = true →
      Runs (.busRecovery ch) s fun t => (t.port p).recoveries = (s.port p).recoveries + 1 ∧ (t.chan ch).ccwa = (s.chan ch).ccwa + 16 ∧
        (t.port p).unitOn = none ∧ ProgramOf s t ch) ∧
    (s.ctlOn ch 7 = true →
      Runs (.linkRestart ch) s fun t => (t.port p).linkDown = false ∧ bitOf (t.port p).evt 6 = true ∧ (t.chan ch).ccwa = (s.chan ch).ccwa + 16 ∧
        (t.port p).unitOn = none ∧ ProgramOf s t ch)

/-- A RUN that is due, its routine in the library, its bound, data and budget allowed and nothing to park for, waits to be
dispatched. RUN_DISPATCH gives it the context that R265 and R266 pick: the context runs the channel's routine with 16 cycles for
each unit of its bound and finds the channel's number in its private area. When the bound of a routine at an instruction boundary
has run out, the cycles of its wait so far counted, its program ends in ERROR with CYCLE_BOUND and the context runs nothing. Other
channels keep what they have. (What the spec leaves open here is read as log 61 says.) (R160, R213, R265, R266, R269, R271) -/
def Obligations.RoutinesOfChannels : Prop :=
  ∀ (s : State) (ch : Nat) (w : BitVec 128) (r : Routine),
    (CcwDue s ch 0x0C w → s.routine (tileOfCh ch) (bitsOf (ccwParam w) 0 12) (bitOf (ccwParam w) 12) = some r → bitsOf (ccwParam w) 16 16 ≤ r.bound →
      (s.chan ch).lsegBad (ccwAddr w, ccwCount w) = false →
      (spaceOf (ccwAddr w) = 1 → ((s.chan ch).pieceHead (ccwAddr w)).isSome = true) →
      s.unfitCh ch (runCost (bitOf (ccwParam w) 12) (runBound r (ccwParam w))) = false →
      s.runBlocked ch (bitOf (ccwParam w) 12) (runBound r (ccwParam w)) = none →
      Runs (.run ch) s fun t => (t.chan ch).xfer.phase = .run ∧ (t.chan ch).xfer.cmd = 0x0C ∧ (t.chan ch).xfer.first = (s.chan ch).ccwa ∧
        (t.chan ch).st = .active ∧ ChannelAlone s t ch) ∧
    (∀ core k : Nat, s.noneWait → s.memOk → (s.chan ch).st = .active → (s.chan ch).xfer.phase = .run → (s.chan ch).inRun = false → s.arbiterOn = true →
      (s.chan ch).heldCcw = some w → s.routine (tileOfCh ch) (bitsOf (ccwParam w) 0 12) (bitOf (ccwParam w) 12) = some r →
      s.runBlocked ch r.crn (runBound r (ccwParam w)) = none → s.pickCtx (tileOfCh ch) r.crn (s.isGuar ch) = some (core, k) →
      Runs (.runDispatch ch) s fun t => (t.chan ch).inRun = true ∧ (t.chan ch).ctx = k ∧ (t.chan ch).core = core % 64 ∧
        ((t.ctx core k).run.map fun x => x.ch) = some ch ∧ (t.ctx core k).left = 16 * runBound r (ccwParam w) ∧
        t.wordAt (localBase core + 2 * privWord core k) = BitVec.ofNat 16 ch ∧ MemOnly s t (localBase core + 2 * privWord core k) 6 ∧
        ProgramOf { s with cores := t.cores, mem := t.mem } t ch) ∧
    (∀ (core k : Nat) (x : RunInfo) (u : State), u = (if (s.ctx core k).st = .waiting then (s.passWait core k).mark core k else s) →
      (u.ctx core k).run = some x → x.ch = ch → u.boundReached core k = true → EndsQuietly s ch → (∀ e ∈ s.chans, e.2.parked = false) →
      core < 72 → k < ctxCount core →
      Runs (.cycleBoundExpiry core k) s fun t => (t.chan ch).st = .error ∧ (t.chan ch).lastStatus = stCycleBound ∧ (t.chan ch).inRun = false ∧
        (t.ctx core k).run = none ∧ ProgramOf { s with cores := t.cores } t ch)

/-- On a READY die, below the thermal trip, with no commit waiting, out of a pair, no admin command in progress and with nothing
parked, ready or received to go on with, a TICK comes once the cycles up to NEXT have passed and opens the next frame, NEXT
becomes the multiple of the period that R202 names, JUMPS is 0 in every channel and placed bounds on every core, and nothing else
of the channels, of the Hawk or of memory changes. In Hold with its condition still there the frame is counted DIPPED and Hold
stays. At the trip temperature the die halts. A halted die whose start was complete keeps its frame number and time and nothing
else. (What the spec leaves open here is read as logs 50, 51 say.) (R194, R202, R203, R209, R210, R212, R214, R415, R495) -/
def Obligations.TickOpensTheNextFrame : Prop :=
  ∀ (s : State) (mv : BitVec 10) (temp : Int) (f : Machine.Frm), f = s.frm.passTo s.frm.next.toNat → s.ds.pulse = none →
    (s.die = .ready → temp < tempTrip → s.commits = [] → s.aq.cmds = [] → s.ds.role = 0 → s.ds.handing = false → s.ds.taking = false → s.hold = false →
      s.frm.stepDue = none → s.frm.stepMark = false → s.noneWait → NoUnitReady s → (∀ e ∈ s.chans, e.2.parked = false) →
      (∀ e ∈ s.ports, e.2.buf = [] ∧ e.2.readers = []) →
      Runs (.tick mv temp) s fun t => t.frm.frame = s.frm.frame + 1 ∧
        t.frm.time = BitVec.ofNat 64 (max f.time.toNat s.frm.next.toNat) ∧
        t.frm.next = BitVec.ofNat 64 (tickAfter (max f.time.toNat s.frm.next.toNat) s.frm.periodAct.toNat) ∧
        (∀ ch, t.chan ch = { s.chan ch with jumps := 0 }) ∧ (∀ k, (t.core k).placed = 0) ∧ t.pwr.vddMv = mv ∧ t.hold = false ∧
        t.hawk = s.hawk ∧ t.mem = s.mem ∧ t.ledger = s.ledger ∧ t.mbxs = s.mbxs ∧ t.sems = s.sems ∧ t.kmd = s.kmd ∧ t.prm = s.prm) ∧
    (s.die = .ready → temp < tempTrip → s.commits = [] → s.aq.cmds = [] → s.ds.role = 0 → s.hold = true → s.pwr.warns = true →
      Runs (.tick mv temp) s fun t => t.frm.frame = s.frm.frame + 1 ∧ bitOf t.frm.flags 0 = true ∧ t.frm.dippedN = satInc s.frm.dippedN ∧
        t.pwr.dipFrames = s.pwr.dipFrames + 1 ∧ t.hold = true ∧ t.mem = s.mem ∧ (∀ ch, t.chan ch = { s.chan ch with jumps := 0 })) ∧
    (s.die = .ready → tempTrip ≤ temp → Runs (.tick mv temp) s fun t => t.die = .halted ∧ t.mem = s.mem ∧ t.chans = s.chans ∧ t.queues = s.queues) ∧
    (s.die = .halted → s.prm.st = 1 → Runs (.tick mv temp) s fun t => t.frm.frame = s.frm.frame + 1 ∧
      (s.frm.stepDue = none → t.frm.time = BitVec.ofNat 64 (max f.time.toNat s.frm.next.toNat)) ∧ t = { s with frm := t.frm })

/-- FRAME_SYNC_FALL lowers the pin. FRM_STEP by a host or the FWC, where the host disciplines the timer, sets a step for the next
tick where it is the first one and above 1 ms, else adds to the offset that is slewed; it clears HOLDOVER and the count of frames
without a correction. An edge is measured by TIME, to which the cycles up to it have passed, against the nearest tick: one beyond
the window counts in SYNC_BAD; one within it is the new error, ends HOLDOVER (that of a takeover as it locks) and unlocks at 1 us
or more. Holdover is entered after its time and pulses its source. SLEW_END is where the cycles that the offset takes have passed,
and leaves none. The servo's new ADJ is free. Nothing else changes but the reports. (What the spec leaves open here is read as
logs 16, 50 say.) (R203, R205, R206, R208, R322) -/
def Obligations.DisciplineOfTheFrameTimer : Prop :=
  ∀ s : State,
    (Runs (.frameSyncFall) s fun t => t = { s with frm := { s.frm with syncPin := false } }) ∧
    (∀ (m : Nat) (v : Word32), s.admits m 0x2028 = true → isConfigMaster m = true → s.frm.src ≠ 2 → s.ds.role ≠ 2 →
      s.frm.firstStep = true → 100000 < v.toInt.natAbs →
      Runs (.frmStep m v) s fun t => t = { s with frm := { s.frm with stepDue := some v.toInt, firstStep := false, noCorr := 0, holdover := false, taken := false } }) ∧
    (∀ (m : Nat) (v : Word32), s.admits m 0x2028 = true → isConfigMaster m = true → s.frm.src ≠ 2 → s.ds.role ≠ 2 →
      (s.frm.firstStep = false ∨ v.toInt.natAbs ≤ 100000) →
      Runs (.frmStep m v) s fun t =>
        t = { s with frm := { s.frm with slew := s.frm.slew + v.toInt, firstStep := false, noCorr := 0, holdover := false, taken := false } }) ∧
    (∀ (off : Int) (f : Machine.Frm), f = s.frm.toEdge off → s.frm.src = 2 → s.ds.role ≠ 2 → s.die = .ready →
      10 * s.frm.syncWin.toNat < f.tickErr.natAbs →
      Runs (.frameSyncEdge off) s fun t => t = { s with frm := { f with syncBad := satInc s.frm.syncBad } }) ∧
    (∀ (off : Int) (f : Machine.Frm), f = s.frm.toEdge off → s.frm.src = 2 → s.ds.role ≠ 2 → s.die = .ready →
      f.tickErr.natAbs ≤ 10 * s.frm.syncWin.toNat →
      Runs (.frameSyncEdge off) s fun t => t.frm.syncErr = BitVec.ofInt 32 f.tickErr ∧ t.frm.noEdge = 0 ∧
        (s.frm.taken = false ∨ t.frm.locked = true → t.frm.holdover = false) ∧ (100 ≤ f.tickErr.natAbs → t.frm.locked = false) ∧
        (s.frm.locked = true → f.tickErr.natAbs < 100 → t.frm.locked = true) ∧ t.frm.time = f.time ∧ t.frm.next = s.frm.next ∧ t.frm.frame = s.frm.frame ∧ Reports { s with frm := t.frm } t) ∧
    (s.frm.src = 1 → s.ds.role ≠ 2 → s.frm.holdFr.toNat ≤ s.frm.noCorr →
      Runs (.ptpHoldover) s fun t => t.frm = { s.frm with holdover := true } ∧ Reports { s with frm := t.frm } t) ∧
    (s.frm.src = 2 → s.ds.role ≠ 2 → 4 ≤ s.frm.noEdge →
      Runs (.syncHoldover) s fun t => t.frm = { s.frm with holdover := true } ∧ Reports { s with frm := t.frm } t) ∧
    (s.timerRuns = true → s.frm.slew ≠ 0 → s.frm.slewFrac < 1000000000 → s.frm.slewCycles ≤ s.frm.cyclesTo s.frm.next.toNat →
      Runs (.slewEnd) s fun t => t = { s with frm := s.frm.cycles s.frm.slewCycles } ∧ t.frm.slew = 0)

/-- A read of HWK_ALLOC by a master with the right, its account allowed a cell and one free in an awake slice in service, takes a
free cell, HELD by the master and charged to its account, and returns its number with bit 15 set; no other cell changes. HWK_FREE
of a cell that the master holds frees it alone; of one it does not hold it frees none and counts. HWK_CLS_WRITE whose reserves
leave 1,024 cells sets the reserve and ceiling of the account. A credit below 2 cells loses none, and no other producer's changes.
A corrected error is counted and changes nothing else; an uncorrectable one retires a free cell, or halts the die where no smaller
part holds it. (What the spec leaves open here is read as logs 18, 81 say.) (R29, R296, R297, R298, R299, R301, R303) -/
def Obligations.HawkCells : Prop :=
  ∀ s : State,
    (∀ m ctx k0 : Nat, s.admits m hwkBase = true → rightsOk m hwkBase = true → s.grantOk (s.acctOf m ctx) = true → s.cellFree k0 = true →
      (s.dom (127 + k0 / 8192)).level = 0 →
      Runs (.hwkAlloc m ctx) s fun t => ∃ k, s.cellFree k = true ∧ t.cell k = .held m (heldCtx m ctx) ∧
        t.hawk.acct.get 0 k = s.acctOf m ctx + 1 ∧ t.readOut.toNat = k + 0x8000 ∧ (∀ j, j ≠ k → t.cell j = s.cell j) ∧
        t = { s with hawk := t.hawk, readOut := t.readOut, freeNext := s.freeNext + 1 }) ∧
    (∀ (m : Nat) (v : Word32), s.admits m (hwkBase + 4) = true → rightsOk m (hwkBase + 4) = true → bitOf v 16 = false →
      s.heldBy m (bitsOf v 0 15) = true → s.noneWait →
      Runs (.hwkFree m v) s fun t => t.cell (bitsOf v 0 15) = .free ∧ (∀ j, j ≠ bitsOf v 0 15 → t.cell j = s.cell j) ∧ t = { s with hawk := t.hawk }) ∧
    (∀ (m : Nat) (v : Word32), s.admits m (hwkBase + 4) = true → rightsOk m (hwkBase + 4) = true → bitOf v 16 = false →
      s.heldBy m (bitsOf v 0 15) = false →
      Runs (.hwkFree m v) s fun t => t.hawk = { s.hawk with badFree := satInc s.hawk.badFree } ∧ Reports { s with hawk := t.hawk } t) ∧
    (∀ (m a : Nat) (v : Word32), s.admits m hwkBase = true → isConfigMaster m = true → a ≤ 64 →
      s.rsvSum a (bitsOf v 0 16) + 1024 ≤ s.gctl.cells.toNat → s.noneWait →
      Runs (.hwkClsWrite m a v) s fun t => t.rsv a = bitsOf v 0 16 ∧ t.ceil a = bitsOf v 16 16 ∧
        (∀ b, b ≠ a → t.rsv b = s.rsv b ∧ t.ceil b = s.ceil b) ∧ t.hawk.cells = s.hawk.cells ∧ Reports { s with hawk := t.hawk } t) ∧
    (∀ p : Nat, p < 22 → s.credits p < 2 →
      Runs (.creditRefill p) s fun t => (∀ j, s.cell j ≠ .free → t.cell j = s.cell j) ∧
        (∀ j, t.cell j = s.cell j ∨ t.cell j = .credit p) ∧ t = { s with hawk := t.hawk, freeNext := t.freeNext }) ∧
    (∀ loc : EccLoc, Runs (.eccCorrected loc) s fun t => t = { s with eccCount := s.eccCount + 1 }) ∧
    (∀ k : Nat, k < 32768 → s.cell k = .free → s.die = .ready → s.noneWait →
      Runs (.eccUncorrectableError (.hawkCell k)) s fun t => t.cell k = .retired ∧ (∀ j, j ≠ k → t.cell j = s.cell j) ∧ t.chans = s.chans ∧ t.mem = s.mem) ∧
    (s.die = .ready → Runs (.eccUncorrectableError .dieUnit) s fun t => t.die = .halted ∧ t.chans = s.chans ∧ t.mem = s.mem)

/-- A message whose cell the sender holds, of 1 to 48 bytes, to an enabled mailbox with room joins its tail, its cell QUEUED
there, with result 1 for the sender; a full mailbox counts it and answers 2. A pop by the receiver returns the oldest message and
its cell becomes HELD by the reader. Disabling a mailbox frees its cells. A read of a free SEM_LOCK acquires it and returns 0, a
held one returns its owner plus 1; its owner releases it with 0, another's write only counts; FORCE frees it and counts. Other
mailboxes and semaphores keep what they have. (R304, R305, R307, R308, R309, R311, R313) -/
def Obligations.MailboxesAndSemaphores : Prop :=
  ∀ (s : State) (m n : Nat), n < 256 →
    (∀ (ctx : Nat) (v : Word32), s.admits m (mbxBase n) = true → rightsOk m (mbxBase n) = true → s.heldBy m (bitsOf v 0 15) = true →
      0 < bitsOf v 16 6 → bitsOf v 16 6 ≤ 48 → (s.mbx n).en = true → (s.mbx n).full = false → (s.mbx n).armed = false → coreOfMid m = none →
      Runs (.mbxSend m ctx n v) s fun t =>
        (t.mbx n).msgs = (s.mbx n).msgs ++ [{ cell := bitsOf v 0 15, sender := BitVec.ofNat 9 m, len := bitsOf v 16 6 }] ∧
        t.cell (bitsOf v 0 15) = .mbx n ∧ t.sendRes.get 0 m = 1 ∧ (∀ k, k ≠ n → t.mbx k = s.mbx k) ∧
        Reports { s with mbxs := t.mbxs, hawk := t.hawk, mem := t.mem, sendRes := t.sendRes } t) ∧
    (∀ (ctx : Nat) (v : Word32), s.admits m (mbxBase n) = true → rightsOk m (mbxBase n) = true → s.heldBy m (bitsOf v 0 15) = true →
      0 < bitsOf v 16 6 → bitsOf v 16 6 ≤ 48 → (s.mbx n).en = true → (s.mbx n).full = true → coreOfMid m = none →
      Runs (.mbxSend m ctx n v) s fun t => t.mbx n = { s.mbx n with refused := satInc (s.mbx n).refused } ∧ t.sendRes.get 0 m = 2 ∧
        (∀ k, k ≠ n → t.mbx k = s.mbx k) ∧ t = { s with mbxs := t.mbxs, sendRes := t.sendRes }) ∧
    (∀ (ctx : Nat) (g : Msg) (r : List Msg), s.admits m (mbxBase n) = true → rightsOk m (mbxBase n) = true →
      ((s.mbx n).any = true ∨ (s.mbx n).rxm.toNat = m) → (s.mbx n).msgs = g :: r →
      Runs (.mbxPop m ctx n) s fun t => (t.mbx n).msgs = r ∧ t.cell g.cell = .held m (heldCtx m ctx) ∧
        t.readOut = BitVec.ofNat 64 g.word ∧ (∀ k, k ≠ n → t.mbx k = s.mbx k) ∧ t.mem = s.mem ∧
        Reports { s with mbxs := t.mbxs, hawk := t.hawk, readOut := t.readOut } t) ∧
    (∀ v : Word32, s.admits m (mbxBase n) = true → isConfigMaster m = true → (s.mbx n).en = true → bitsOf v 1 6 = (s.mbx n).depth.toNat →
      bitsOf v 7 9 = (s.mbx n).rxm.toNat → bitOf v 16 = (s.mbx n).any → (∀ g ∈ (s.mbx n).msgs, s.retiredCell g.cell = false) → s.noneWait →
      Runs (.mbxDisable m n v) s fun t => (t.mbx n).en = false ∧ (t.mbx n).msgs = [] ∧ (∀ g ∈ (s.mbx n).msgs, t.cell g.cell = .free) ∧
        (∀ k, k ≠ n → t.mbx k = s.mbx k) ∧ Reports { s with mbxs := t.mbxs, hawk := t.hawk } t) ∧
    (s.admits m (semBase n) = true → rightsOk m (semBase n) = true →
      Runs (.semAcquire m n) s fun t => t.readOut.toNat = (s.sem n).value.toNat ∧
        (t.sem n).value = (if (s.sem n).value = 0 then BitVec.ofNat 10 (m + 1) else (s.sem n).value) ∧ (t.sem n).bad = (s.sem n).bad ∧
        (∀ k, k ≠ n → t.sem k = s.sem k) ∧ t = { s with sems := t.sems, readOut := t.readOut }) ∧
    (s.admits m (semBase n) = true → rightsOk m (semBase n) = true → (s.sem n).value.toNat = m + 1 →
      Runs (.semRelease m n 0) s fun t => t.sem n = { s.sem n with value := 0 } ∧ (∀ k, k ≠ n → t.sem k = s.sem k) ∧ t = { s with sems := t.sems }) ∧
    (∀ v : Word32, s.admits m (semBase n) = true → rightsOk m (semBase n) = true → (v ≠ 0 ∨ (s.sem n).value.toNat ≠ m + 1) →
      Runs (.semRelease m n v) s fun t => t.sem n = { s.sem n with bad := satInc (s.sem n).bad } ∧ (∀ k, k ≠ n → t.sem k = s.sem k) ∧
        Reports { s with sems := t.sems } t) ∧
    (s.admits m (semBase n) = true → isConfigMaster m = true → rightsOk m (semBase n) = true →
      Runs (.semForce m n) s fun t => t.sem n = { s.sem n with value := 0, bad := satInc (s.sem n).bad } ∧ (∀ k, k ≠ n → t.sem k = s.sem k) ∧
        t = { s with sems := t.sems })

/-- A request for a bank whose arbiter is free and not frozen is granted, with its rank; on a frozen one, or behind a transfer
that it cannot revoke, it waits, the beats that have left counted. A GUARANTEED request revokes a lower transfer that is not in
its last beat, never on arbiter 37 and not on 38 or 39 once a beat has left: the loser waits in the pending queue while it has
room, from its first beat, and the revocation is counted. A complete transfer leaves the arbiter free with nothing waiting. A bite
ends the transfer, counts, names arbiter and holder, and a bitten host or debug port leaves the die running. SCR_CTL writes FREEZE
and the watchdog time. Other arbiters keep what they have. (What the spec leaves open here is read as logs 25, 80 say.) (R189,
R315, R316, R317, R318, R319, R320) -/
def Obligations.ScrimArbiters : Prop :=
  ∀ (s : State) (arb : Nat), arb < 40 →
    (∀ (bank : Bank) (who : Requester) (beats left : Nat) (cls : Option Nat) (r : ScrReq), arbiterOf bank = arb →
      r = { who, m := midOfReq who, rank := s.scrRank who cls, beats } →
      ((s.scr arb).freeze = false → (s.scr arb).hold = false → (s.scr arb).busy = none →
        Runs (.scrimRequest bank who ⟨beats, left⟩ cls) s fun t => (t.scr arb).busy = some r ∧ (t.scr arb).owner = BitVec.ofNat 9 r.m ∧
          (∀ k, k ≠ arb → t.scr k = s.scr k) ∧ t = { s with scrs := t.scrs }) ∧
      (((s.scr arb).freeze = true ∨ ∃ b, (s.scr arb).busy = some b ∧
          (arb = 37 ∨ 2 ≤ b.rank ∨ b.beats ≤ max b.left left + 1 ∨ (38 ≤ arb ∧ 1 ≤ max b.left left) ∨ r.rank ≠ 2)) →
        Runs (.scrimRequest bank who ⟨beats, left⟩ cls) s fun t =>
          t.scr arb = { s.scr arb with reqs := (s.scr arb).reqs ++ [r], busy := (s.scr arb).busy.map fun b => { b with left := max b.left left } } ∧
          (∀ k, k ≠ arb → t.scr k = s.scr k) ∧ t = { s with scrs := t.scrs }) ∧
      (∀ b : ScrReq, (s.scr arb).freeze = false → (s.scr arb).hold = false → (s.scr arb).busy = some b → arb ≠ 37 → b.rank < 2 →
        max b.left left + 1 < b.beats → (38 ≤ arb → max b.left left = 0) → r.rank = 2 → (s.scr arb).pend.length < 8 →
        Runs (.scrimRequest bank who ⟨beats, left⟩ cls) s fun t => (t.scr arb).busy = some r ∧
          (t.scr arb).pend = (s.scr arb).pend ++ [{ b with left := 0 }] ∧ (t.scr arb).revoked = satInc (s.scr arb).revoked ∧
          (∀ k, k ≠ arb → t.scr k = s.scr k) ∧ t = { s with scrs := t.scrs })) ∧
    ((s.scr arb).pend = [] → (s.scr arb).reqs = [] →
      Runs (.scrimTransferComplete arb) s fun t => t.scr arb = { s.scr arb with busy := none } ∧ (∀ k, k ≠ arb → t.scr k = s.scr k) ∧
        t = { s with scrs := t.scrs }) ∧
    (∀ (b : ScrReq) (m : Nat), (s.scr arb).busy = some b → b.who = .master m → isHost m = true ∨ m = 0x1FF → (s.scr arb).pend = [] →
      (s.scr arb).reqs = [] → s.noneWait →
      Runs (.scrimWatchdogBite arb) s fun t => (t.scr arb).busy = none ∧ (t.scr arb).bites = satInc (s.scr arb).bites ∧
        t.gctl.wdLast = BitVec.ofNat 32 (arb + b.m * 256) ∧ t.die = s.die ∧ (∀ k, k ≠ arb → t.scr k = s.scr k) ∧
        Reports { s with scrs := t.scrs } t) ∧
    (∀ (m : Nat) (v : Word32), s.admits m 0x5000 = true → isConfigMaster m = true → rightsOk m (0x5000 + arb * 16) = true → bitOf v 0 = true →
      Runs (.scrimFreeze m arb v) s fun t => t.scr arb = { s.scr arb with freeze := true, wdog := BitVec.ofNat 8 (bitsOf v 8 8) } ∧
        (∀ k, k ≠ arb → t.scr k = s.scr k) ∧ t = { s with scrs := t.scrs })

/-- The line of a Level source takes its level and PEND follows it while the source is not in service; an event of a Pulse source
sets PEND. A configuration write stores EN, PRIO and the targets, and no edge source is in service after it. A take by the
target's master of a source presented to it clears PEND and answers its number, a level source going into service there; of
another source it answers 0x7FF and counts. The read returns that answer. The end of service clears ACT; of a source not in
service it counts. SWSET sets PEND of a software source. A deadline that TIME has reached, or a flush, closes the batches it names
where the function can send. Nothing else changes but the reports. (What the spec leaves open here is read as log 79 says.) (R323,
R324, R326, R330, R334, R335, R336, R339) -/
def Obligations.InterruptSources : Prop :=
  ∀ s : State,
    (∀ (n : Nat) (level : Bool), srcReserved n = false → srcIsLevel n = true → (s.src n).act = false → s.srcSense n = 0 →
      Runs (.lineEvent n level) s fun t => (t.src n).line = level ∧ (t.src n).pend = level ∧ Reports s t) ∧
    (∀ n : Nat, srcReserved n = false → srcIsLevel n = false → Runs (.lineEvent n true) s fun t => (t.src n).pend = true ∧ Reports s t) ∧
    (∀ (m n : Nat) (v : Word32), s.admits m icBase = true → isConfigMaster m = true → rightsOk m (icBase + n * 16) = true → srcReserved n = false →
      Runs (.icScfgWrite m n v) s fun t => (t.src n).en = bitOf v 3 ∧ (t.src n).prio = BitVec.ofNat 4 (bitsOf v 4 4) ∧ (t.src n).tgt = bitOf v 8 ∧
        (t.src n).vector = some (BitVec.ofNat 11 (bitsOf v 19 11)) ∧ ((t.src n).act = true → t.srcLevelSense n = true) ∧
        ((s.src n).act = false → t.targets = s.targets) ∧ Reports { s with targets := t.targets } t) ∧
    (∀ (m k : Nat) (n : BitVec 11), s.admits m icBase = true → takeRight m k = true → s.presentedTo n.toNat k = true →
      Runs (.icTake m k n) s fun t => (t.src n.toNat).pend = false ∧ (t.target k).result.get 0x7FF m = n ∧
        (s.srcLevelSense n.toNat = true → (t.src n.toNat).act = true ∧ (t.target k).service = (n.toNat, (s.src n.toNat).prio.toNat) :: (s.target k).service) ∧
        Reports { s with targets := t.targets } t) ∧
    (∀ (m k : Nat) (n : BitVec 11), s.admits m icBase = true → takeRight m k = true → s.presentedTo n.toNat k = false →
      Runs (.icTake m k n) s fun t => (t.target k).result.get 0x7FF m = 0x7FF ∧ (t.target k).withdrawn = satInc (s.target k).withdrawn ∧
        t = { s with targets := t.targets }) ∧
    (∀ m k : Nat, k < 75 → s.admits m icBase = true → rightsOk m (icBase + 0xF000 + k * 16) = true →
      Runs (.icTakeRead m k) s fun t => t.readOut.toNat = ((s.target k).result.get 0x7FF m).toNat ∧ t = { s with readOut := t.readOut }) ∧
    (∀ (m k : Nat) (n : BitVec 11), s.admits m icBase = true → takeRight m k = true → (s.src n.toNat).act = true → s.srcLevelSense n.toNat = true →
      ((s.target k).service.any fun e => e.1 == n.toNat) = true →
      Runs (.icDone m k n) s fun t => (t.src n.toNat).act = false ∧ (∀ e ∈ (t.target k).service, e.1 ≠ n.toNat) ∧ Reports { s with targets := t.targets } t) ∧
    (∀ (m k : Nat) (n : BitVec 11), s.admits m icBase = true → takeRight m k = true → (s.src n.toNat).act = false →
      Runs (.icDone m k n) s fun t => (t.target k).baddone = satInc (s.target k).baddone ∧ t = { s with targets := t.targets }) ∧
    (∀ (m : Nat) (n : BitVec 11), s.admits m icBase = true → isConfigMaster m = true → rightsOk m (icBase + 0xF800) = true → 0x640 ≤ n.toNat →
      n.toNat ≤ 0x7FE → Runs (.icSwset m n) s fun t => (t.src n.toNat).pend = true ∧ Reports s t) ∧
    (∀ m : Nat, s.admits m icBase = true → isConfigMaster m = true → rightsOk m (icBase + 0xF804) = true →
      (s.link 0).canIssue = true → (s.link 1).canIssue = true → (s.link 0).holding = false → (s.link 1).holding = false →
      Runs (.icFlush m 3) s fun t => (∀ b ∈ t.batches, 2 ≤ b.1 / 2048) ∧ Reports s t) ∧
    (∀ md vec : Nat, md < 2 → (s.batches.any fun b => b.1 == md * 2048 + vec && decide (b.2.deadline ≤ s.frm.time.toNat)) = true →
      (s.link md).canIssue = true → (s.link md).holding = false →
      Runs (.moderationDeadline md vec) s fun t => (∀ b ∈ t.batches, b.1 ≠ md * 2048 + vec) ∧ Reports s t)

/-- A fault cause that can arise on a port that is UP and has no unit of a channel puts it in FAULT with that CAUSE, counts and
sets EVT.FAULT. When the cause has been absent for the time of R360, or CLR_FAULT is written with it absent, a port that its
configuration enables and that no other cause holds is UP again and its event is set; a bus-off waits for its recovery, which
CLR_FAULT begins and whose end makes the port UP with its error counters 0. LIFT and LIFT_ALL take a node and every node off the
quarantine list. DIAG keeps the readings. Other ports keep what they have. (What the spec leaves open here is read as logs 35, 72
say.) (R341, R360, R361, R365, R366, R367, R509) -/
def Obligations.PortFaultsAndQuarantine : Prop :=
  ∀ (s : State) (p m : Nat),
    (∀ cause : Nat, causeOk p cause = true → (s.port p).linkDown = false → (s.port p).st = 1 → s.portChans p = [] → NoUnitReady s → s.noneWait →
      Runs (.portFault p cause) s fun t => (t.port p).st = 2 ∧ (t.port p).cause = BitVec.ofNat 4 cause ∧
        (t.port p).faults = satInc (s.port p).faults ∧ bitOf (t.port p).evt 0 = true ∧ PortAlone s t p) ∧
    ((s.port p).st = 2 → (s.port p).cause ≠ 6 → s.pEnabled p = true → (∀ c ∈ (s.port p).causes, c ≠ 6) →
      Runs (.faultClearTimeout p) s fun t => (t.port p).st = 1 ∧ (t.port p).causes = [] ∧ bitOf (t.port p).evt 5 = true ∧ PortAlone s t p) ∧
    (portKind p = some .can → (s.port p).recovering = true → (s.port p).st = 2 → (s.port p).cause = 6 → s.pEnabled p = true →
      (∀ c ∈ (s.port p).causes, c = 6) →
      Runs (.busOffRecoveryComplete p) s fun t => (t.port p).st = 1 ∧ (t.port p).recovering = false ∧ (t.port p).txErr = 0 ∧ (t.port p).rxErr = 0 ∧
        bitOf (t.port p).evt 7 = true ∧ PortAlone s t p) ∧
    (∀ absent : Bool, s.admits m (portBase p) = true → isConfigMaster m = true → (portKind p).isSome = true → (s.port p).st = 2 → (s.port p).cause = 6 →
      Runs (.clrFault m p absent) s fun t => (t.port p).recovering = true ∧ (t.port p).st = 2 ∧
        (absent = false → t.port p = { s.port p with recovering := true }) ∧ PortAlone s t p) ∧
    (s.admits m (portBase p) = true → isConfigMaster m = true → (portKind p).isSome = true → ((s.port p).st = 2 ∨ (s.port p).st = 3) →
      (s.port p).cause ≠ 6 → s.pEnabled p = true → (∀ c ∈ (s.port p).causes, c ≠ 6) →
      Runs (.clrFault m p true) s fun t => (t.port p).st = 1 ∧ (t.port p).causes = [] ∧ bitOf (t.port p).evt 5 = true ∧ PortAlone s t p) ∧
    (∀ node : BitVec 24, s.admits m (portBase p) = true → isConfigMaster m = true → (portKind p).isSome = true →
      Runs (.lift m p node) s fun t => node ∉ (t.port p).quar ∧ (∀ x ∈ (s.port p).quar, x ≠ node → x ∈ (t.port p).quar) ∧
        (t.port p).st = (s.port p).st ∧ PortAlone s t p) ∧
    (s.admits m (portBase p) = true → isConfigMaster m = true → (portKind p).isSome = true →
      Runs (.liftAll m p) s fun t => (t.port p).quar = [] ∧ (t.port p).st = (s.port p).st ∧ PortAlone s t p) ∧
    (∀ readings, s.admits m (portBase p) = true → isConfigMaster m = true → portKind p = some .t1s ∨ portKind p = some .can ∨ portKind p = some .i2c →
      Runs (.diag m p readings) s fun t => (t.port p).lineMon = readings.take 22 ∧ (t.port p).st = (s.port p).st ∧ PortAlone s t p)

/-- A character that a raw UART port receives without error, its buffer not full and no READ waiting, is buffered. The oldest unit
that no READ took within RXHOLD leaves the buffer, counts in RXDROP and is a violation of the port's UNSOLICITED class. An idle
line ends the oldest waiting READ of a raw UART, and what a Modbus port holds with no reply awaited is dropped as a violation of
the UNSOLICITED class. A stretched clock with no unit is counted with the recoveries and is a violation. SMBALERT counts and sets
its event. A held BEACON is sent. A follower that sees a BEACON restarts its count and is UP. Nothing changes but the port and the
reports, or the READ's channel. (What the spec leaves open here is read as logs 23, 39, 78 say.) (R348, R349, R351, R353, R355,
R364, R366) -/
def Obligations.UnitsThatPortsReceive : Prop :=
  ∀ (s : State) (p : Nat),
    (∀ c : Byte, portKind p = some .uart → s.isModbus p = false → (s.port p).st = 1 → s.die = .ready → s.hold = false → (s.port p).linkDown = false →
      (s.port p).buf.length < 1024 → (s.port p).readers = [] → s.noneWait →
      Runs (.frameReceive p (.uart c none)) s fun t =>
        (t.port p).buf = (s.port p).buf ++ [{ node := none, bytes := [c], cost := s.charTime p 1, last := false, cells := [], since := s.frm.time.toNat }] ∧
        (t.port p).rxdrop = (s.port p).rxdrop ∧ PortAlone s t p) ∧
    (∀ (u : RxUnit) (r : List RxUnit), portKind p ≠ some .gpio → (s.port p).buf = u :: r → u.node = none → u.cells = [] →
      u.since + 100 * (s.port p).rxhold.toNat ≤ s.frm.time.toNat → respOf (bitsOf (s.vresp p) (4 * unsolClass p) 4) = .ignore →
      s.noneWait →
      Runs (.rxholdExpiry p) s fun t => (t.port p).buf = r ∧ (t.port p).rxdrop = satInc (s.port p).rxdrop ∧ t.jseq = s.jseq + 1 ∧
        (t.port p).vcnt.get 0 (unsolClass p) = satInc ((s.port p).vcnt.get 0 (unsolClass p)) ∧ PortAlone s t p) ∧
    (portKind p = some .uart → s.isModbus p = true → (s.port p).unitOn = none → (s.port p).adu ≠ [] → respOf (bitsOf (s.vresp p) 20 4) = .ignore →
      Runs (.uartIdleLineExpiry p) s fun t => (t.port p).adu = [] ∧ (t.port p).vcnt.get 0 5 = satInc ((s.port p).vcnt.get 0 5) ∧
        t.jseq = s.jseq + 1 ∧ PortAlone s t p) ∧
    (∀ (ch : Nat) (r : List Nat), portKind p = some .uart → s.isModbus p = false → (s.port p).readers = ch :: r → (s.chan ch).st = .active →
      (s.chan ch).xfer.phase = .input → (s.chan ch).port = p → (s.chan ch).xfer.cmd = 0x02 → (s.chan ch).xfer.cond = 0 → (s.chan ch).xfer.bits = 0 →
      (s.chan ch).xfer.slHere = true → CcwGoesOn s ch →
      Runs (.uartIdleLineExpiry p) s fun t => ch ∉ (t.port p).readers ∧ (t.chan ch).ccwa = (s.chan ch).ccwa + 16 ∧ ProgramOf s t ch) ∧
    (portKind p = some .i2c → (s.port p).unitOn = none → respOf (bitsOf (s.vresp p) 4 4) = .ignore →
      Runs (.sclStretchTimeout p) s fun t => (t.port p).recoveries = (s.port p).recoveries + 1 ∧
        (t.port p).vcnt.get 0 1 = satInc ((s.port p).vcnt.get 0 1) ∧ t.jseq = s.jseq + 1 ∧ PortAlone s t p) ∧
    (portKind p = some .i2c → bitOf (s.pcfg p 0x100) 4 = true → (s.port p).alertMasked = false → (s.port p).alerts < 16 →
      Runs (.smbalertAssert p) s fun t => (t.port p).alerts = (s.port p).alerts + 1 ∧ bitOf (t.port p).evt 6 = true ∧ PortAlone s t p) ∧
    (portKind p = some .t1s → s.isPaced p = true → (s.port p).st = 1 →
      Runs (.beaconHoldExpiry p) s fun t => t.port p = { s.port p with beaconHeld := false, curId := 0 } ∧ PortAlone s t p) ∧
    (portKind p = some .t1s → (s.port p).st = 1 → bitOf (s.pcfg p 0x100) 2 = false →
      Runs (.plcaBeacon p true) s fun t => (t.port p).silent = false ∧ (t.port p).curId = 0 ∧ (t.port p).plcaUp = true ∧ PortAlone s t p)

/-- An edge on a GPIO input in plain mode sets its level and the line of its source. A timer whose target TIME has reached toggles
its line once and is gone. A PWM period takes the newest duty and drives the line high unless the duty is 0. A conversion for a
READ of one sample is stored in the samples, frees the ADC and, into the local segment with CC, the program goes on. A monitored
conversion is stored and its source follows the thresholds. The next valid gate entry applies where the present one's interval is
over. A read of ETH_TXTS_TAG pops the oldest timestamp. Other ports keep what they have. (What the spec leaves open here is read
as logs 17, 24 say.) (R257, R322, R355, R356, R358, R359) -/
def Obligations.PinsAndConverters : Prop :=
  ∀ (s : State) (p l : Nat), l < 16 →
    (∀ level : Bool, portKind p = some .gpio → (s.port p).st = 1 → s.lineMode p l = 0 → s.lineMode p (l / 2 * 2) ≠ 5 → s.noneWait →
      Runs (.gpioEdge p l level) s fun t => bitOf (t.port p).levels l = level ∧
        (∀ k, k < 16 → k ≠ l → bitOf (t.port p).levels k = bitOf (s.port p).levels k) ∧
        (t.src (0x5D0 + 16 * (p - 0x50) + l)).line = level ∧ (t.port p).outs = (s.port p).outs ∧ PortAlone s t p) ∧
    (∀ target : Word32, portKind p = some .gpio → (s.port p).st = 1 → s.lineMode p l = 4 → (s.port p).timers = [(l, target)] →
      s.hold = false → target.toNat ≤ bitsOf s.frm.time 0 32 → bitsOf s.frm.time 0 32 < target.toNat + 0x80000000 →
      Runs (.gpioTimerMatch p l) s fun t => (t.port p).timers = [] ∧ (t.port p).outs = (s.port p).outs ^^^ BitVec.ofNat 16 (2 ^ l) ∧ PortAlone s t p) ∧
    (portKind p = some .gpio → (s.port p).st = 1 → s.lineMode p l = 2 → s.hold = false →
      Runs (.pwmPeriodStart p l) s fun t => (t.port p).duty.get 0 l = (s.port p).dutyNext.get 0 l ∧
        bitOf (t.port p).outs l = decide ((s.port p).dutyNext.get 0 l ≠ 0) ∧
        (∀ k, k < 16 → k ≠ l → bitOf (t.port p).outs k = bitOf (s.port p).outs k) ∧ PortAlone s t p) ∧
    (∀ (ch : Nat) (code : BitVec 12) (a : Word64), (s.port portAdc).unitOn = some ch → (s.chan ch).st = .active → (s.chan ch).xfer.cmd = 0x02 →
      (s.chan ch).xfer.phase = .wire → (s.chan ch).port = portAdc → (s.chan ch).node = l → s.portAwake portAdc = true → s.memOk → (s.chan ch).xfer.pieces = [(a, 2)] →
      spaceOf a = 2 → (s.chan ch).xfer.left = 2 → (s.chan ch).xfer.hold = [] → (s.chan ch).xfer.cond = 0 → (s.chan ch).xfer.bits = 0 →
      s.lsegRetired ch (bitsOf a 0 16) 2 = false → CcwGoesOn s ch → NoUnitReady s →
      Runs (.adcConversion l code) s fun t => (t.port portAdc).samples.get 0 l = code.setWidth 16 ∧ (t.port portAdc).unitOn = none ∧
        t.bytesAt ((s.chan ch).lsegAddr (bitsOf a 0 16)) 2 = leBytes 2 code.toNat ∧ MemOnly s t ((s.chan ch).lsegAddr (bitsOf a 0 16)) 2 ∧
        (t.chan ch).ccwa = (s.chan ch).ccwa + 16 ∧ ProgramOf { s with mem := t.mem } t ch) ∧
    (∀ code : BitVec 12, bitOf (s.pcfg portAdc (0x100 + 4 * l)) 1 = true → (s.port portAdc).st = 1 →
      Runs (.adcMonitor l code) s fun t => (t.port portAdc).samples.get 0 l = code.setWidth 16 ∧
        ((t.src (0x630 + l)).line = true ↔ (code.toNat < bitsOf (s.pcfg portAdc (0x140 + 4 * l)) 0 12 ∨
          bitsOf (s.pcfg portAdc (0x140 + 4 * l)) 16 12 < code.toNat)) ∧ PortAlone s t portAdc) ∧
    (∀ mac : Nat, mac < 4 → bitOf (s.pcfg (ethPort mac) 0x100) 8 = true → s.gateValid (ethPort mac) ((s.port (ethPort mac)).gate + 1) = true →
      s.gateEnd (ethPort mac) ((s.port (ethPort mac)).gate + 1) ≤ s.gatePos (ethPort mac) → NoUnitReady s → s.noneWait →
      Runs (.gateEntryExpiry mac) s fun t => t.port (ethPort mac) = { s.port (ethPort mac) with gate := (s.port (ethPort mac)).gate + 1 } ∧
        PortAlone s t (ethPort mac)) ∧
    (∀ (m mac ch : Nat) (time : Word64) (r : List (Nat × Word64)), mac < 4 → s.admits m (portBase (ethPort mac) + 0x200) = true →
      rightsOk m (portBase (ethPort mac) + 0x200) = true → (s.port (ethPort mac)).txts = (ch, time) :: r →
      Runs (.ethTxtsPop m mac) s fun t => (t.port (ethPort mac)).txts = r ∧ (t.port (ethPort mac)).txtsTime = time ∧
        t.readOut.toNat = ch % 4096 + 0x10000 ∧ PortAlone { s with readOut := t.readOut } t (ethPort mac))

/-- AQ_PROD with a count in range becomes CPROD, and a RUNNING queue with nothing in progress and room for a reply then reads its
packet; a count out of range is ignored, counted and journalled. AQ_RCONS in range becomes RCONS, else it is counted and
journalled. ENABLE of a DISABLED queue with a good configuration makes it RUNNING with every count 0, a bad one only shows
CFG_ERR; DISABLE with nothing in progress makes it DISABLED; RESTART leaves ERROR. A packet that comes is a command in progress
and CCONS advances. Nothing else changes but the reports. (What the spec leaves open here is read as log 29 says.) (R369, R370,
R371, R372, R381, R430) -/
def Obligations.AdminQueueRegisters : Prop :=
  ∀ (s : State) (m : Nat) (v : Word32), s.admits m aqBase = true → s.aqMay m = true →
    ((v - s.aq.ccons).toNat ≤ s.aq.packetSlots → (s.aq.cprod - s.aq.ccons).toNat ≤ (v - s.aq.ccons).toNat → s.die = .ready → s.aq.st = .running →
      s.aq.reading = false → s.aq.stopped = false → v ≠ s.aq.ccons → s.aq.cmds = [] → (s.aq.rprod - s.aq.rcons).toNat < s.aq.replySlots →
      Runs (.aqProd m v) s fun t => t.aq = { s.aq with cprod := v, reading := true } ∧ t.hasRead (fun r => r = .admin) = true ∧
        Reports { s with aq := t.aq } t) ∧
    (s.aq.packetSlots < (v - s.aq.ccons).toNat ∨ (v - s.aq.ccons).toNat < (s.aq.cprod - s.aq.ccons).toNat →
      Runs (.aqProd m v) s fun t => t.aq = { s.aq with badProd := satInc s.aq.badProd } ∧ t.jseq = s.jseq + 1 ∧ Reports { s with aq := t.aq } t) ∧
    ((v - s.aq.rcons).toNat ≤ (s.aq.rprod - s.aq.rcons).toNat → s.aq.cmds = [] → s.aq.cprod = s.aq.ccons →
      Runs (.aqRcons m v) s fun t => t = { s with aq := { s.aq with rcons := v } }) ∧
    ((s.aq.rprod - s.aq.rcons).toNat < (v - s.aq.rcons).toNat →
      Runs (.aqRcons m v) s fun t => t.aq = { s.aq with badRcons := satInc s.aq.badRcons } ∧ t.jseq = s.jseq + 1 ∧ Reports { s with aq := t.aq } t) ∧
    (s.aq.st = .disabled → s.aqCfgErr = 0 →
      Runs (.aqEnable m) s fun t => t = { s with aq := { s.aq with st := .running, cfgErr := 0, cprod := 0, ccons := 0, rprod := 0, rcons := 0, cmds := [],
                                                                   reading := false } }) ∧
    (s.aq.st = .disabled → s.aqCfgErr ≠ 0 → Runs (.aqEnable m) s fun t => t = { s with aq := { s.aq with cfgErr := BitVec.ofNat 3 s.aqCfgErr } }) ∧
    ((s.aq.st = .running ∨ s.aq.st = .error) → s.aq.cmds = [] →
      Runs (.aqDisable m) s fun t => t.aq = { s.aq with reading := false, st := .disabled } ∧ Reports { s with aq := t.aq } t) ∧
    (s.aq.st = .error → s.aq.cmds = [] → s.aq.cprod = s.aq.ccons → Runs (.aqRestart m) s fun t => t = { s with aq := { s.aq with st := .running } }) ∧
    (∀ words : List Word32, s.link0.reads.map (fun r => r.req) = [.admin] → s.link0.waiting = [] → s.aq.cmds = [] → s.aq.cprod = s.aq.ccons + 1 →
      (opcTarget ({ cnt := 0, words } : AdmCmd).opc).isSome = true → ({ cnt := 0, words } : AdmCmd).hostBytes = 0 →
      Runs (.adminPacketRead words) s fun t =>
        t.aq = { s.aq with reading := false, ccons := s.aq.ccons + 1, cmds := [{ cnt := s.aq.ccons, words }] } ∧ Reports { s with aq := t.aq } t)

/-- With one command in progress that passes its checks, each of these rows writes one reply at RPROD with OK, the command's tag
and opcode and the phase of its slot, advances RPROD and leaves nothing in progress. The result words are those of R383 and R392.
SLEEP_NOTICE closes the open batches where the functions can send, and answers how many made a message at once. JOURNAL_READ
passes over records that the MRAM has lost. SET_ATTACH sets the attach mode of the next start and the subsystem IDs. Nothing else
changes but the reports. (What the spec leaves open here is read as logs 41, 83 say.) (R48, R373, R375, R376, R377, R383, R392,
R393) -/
def Obligations.AdminQueries : Prop :=
  ∀ (s : State) (c : AdmCmd),
    (OneAdmin s c 0x01 → Runs (.identify) s fun t => Replied s t c stOk 0xFF s.identity ∧ Reports { s with aq := t.aq } t) ∧
    (OneAdmin s c 0x02 → Runs (.getFeatures) s fun t =>
      Replied s t c stOk 0xFF [0x00223F01, 0x0000003F, 0x00200010, 0x7D190440, 0x9A210420, 0x70801000] ∧ Reports { s with aq := t.aq } t) ∧
    (OneAdmin s c 0x10 → Runs (.queueQuery) s fun t => Replied s t c stOk 0xFF (s.queueWords c.target) ∧ Reports { s with aq := t.aq } t) ∧
    (OneAdmin s c 0x80 → Runs (.pairStatus) s fun t => Replied s t c stOk 0xFF [s.pairWord, s.ds.take.toNat] ∧ Reports { s with aq := t.aq } t) ∧
    (OneAdmin s c 0x70 → (s.src 0x400).en = false → (s.link 0).canIssue = true → (s.link 1).canIssue = true →
      Runs (.sleepNotice) s fun t => Replied s t c stOk 0xFF [s.flushCount] ∧ (∀ b ∈ t.batches, 2 ≤ b.1 / 2048) ∧ Reports { s with aq := t.aq } t) ∧
    (OneAdmin s c 0x60 → ∀ (l recs : List JRec) (next : Nat), s.jheld = [] → l = (s.journal.filter fun r => !r.bad).reverse →
      pickRecords l (c.pw64 3) (bitsOf (c.pw 5) 0 16) (c.pw 2).toNat (s.jseq.toNat + 1) = (recs, next) →
      Runs (.journalRead) s fun t => Replied s t c stOk 0xFF [recs.length, (recs.flatMap JRec.bytes).length,
          (max next (c.pw64 3)) % 0x100000000, (max next (c.pw64 3)) / 0x100000000,
          (match l with | [] => s.jseq.toNat + 1 | r :: _ => r.seq.toNat) % 0x100000000,
          (match l with | [] => s.jseq.toNat + 1 | r :: _ => r.seq.toNat) / 0x100000000] ∧
        Reports { s with aq := t.aq } t) ∧
    (OneAdmin s c 0x03 → Runs (.setAttach) s fun t => Replied s t c stOk 0xFF [s.mode.toNat + bitsOf (c.pw 0) 0 2 * 4] ∧
      t.prm = { s.prm with nextMode := BitVec.ofNat 2 (bitsOf (c.pw 0) 0 2), subVendor := BitVec.ofNat 16 (bitsOf (c.pw 1) 0 16),
                           subId := BitVec.ofNat 16 (bitsOf (c.pw 1) 16 16) } ∧ Reports { s with aq := t.aq, prm := t.prm } t)

/-- BIND_CHANNEL of an unbound idle channel binds it to the queue with a local segment of the cells asked for, each of them the
channel's and written 0. UNBIND_CHANNEL of a bound idle channel unbinds it and its cells go free. With its data in, ROUTINE_LOAD
of a routine that no named tile has adds it to each at one offset; HANDLER_SET_LOAD sets the handlers of each where every core is
drained; ROUTINE_UNLOAD of a routine that runs nowhere removes it. Each is replied to with OK and its words. Other channels and
libraries keep what they have. (What the spec leaves open here is read as logs 27, 83 say.) (R143, R384, R385, R386, R387, R444)
-/
def Obligations.AdminBindingAndLibraries : Prop :=
  ∀ (s : State) (c : AdmCmd),
    (∀ (ch n k : Nat), OneAdmin s c 0x11 → ch = c.target → n = bitsOf (c.pw 0) 16 7 → (s.chan ch).bound = false → (s.chan ch).st = .idle →
      s.memOk → s.noneWait → (n = 0 ∨ (s.owed + n ≤ s.freeOrCredit + (s.chan ch).lcells ∧ s.lsegRun ch n = some k)) →
      Runs (.bindChannel) s fun t => (t.chan ch).bound = true ∧ (t.chan ch).queue = bitsOf (c.pw 0) 0 10 ∧ (t.chan ch).lcells = n ∧
        (t.chan ch).lbase = (if n = 0 then 0 else k) ∧ (∀ i, i < n → t.cell (k + i) = .lseg ch) ∧
        t.bytesAt (cellAddr k) (64 * n) = List.replicate (64 * n) 0 ∧ MemOnly s t (cellAddr k) (64 * n) ∧
        Replied s t c stOk 0xFF [(t.chan ch).lbase % 0x8000 + n * 0x10000] ∧ ProgramOf { s with aq := t.aq, mem := t.mem } t ch) ∧
    (∀ ch : Nat, OneAdmin s c 0x12 → ch = c.target → (s.chan ch).bound = true → (s.chan ch).st = .idle → (s.chan ch).chain = none → s.noneWait →
      Runs (.unbindChannel) s fun t => (t.chan ch).bound = false ∧ (t.chan ch).lcells = 0 ∧ (∀ j, s.cell j = .lseg ch → t.cell j = .free) ∧
        Replied s t c stOk 0xFF [] ∧ ProgramOf { s with aq := t.aq } t ch) ∧
    (∀ (words : List Word) (off : Nat), OneAdmin s c 0x20 → c.handlers = false → DataOut s c →
      (∀ i ∈ tilesOf c.target, s.routine i (bitsOf (c.pw 0) 0 12) (bitOf (c.pw 0) 12) = none) →
      placeRun (s.usedWords (tilesOf c.target) (bitOf (c.pw 0) 12)) c.codeLen none = some off →
      Runs (.routineLoad words) s fun t =>
        (∀ i ∈ tilesOf c.target, t.routine i (bitsOf (c.pw 0) 0 12) (bitOf (c.pw 0) 12) =
          some { num := bitsOf (c.pw 0) 0 12, crn := bitOf (c.pw 0) 12, off, len := c.codeLen, bound := bitsOf (c.pw 4) 0 16, mbx := c.loadMbx,
                 code := words.take c.codeLen }) ∧
        (∀ i, i ∉ tilesOf c.target → t.lib i = s.lib i) ∧
        Replied s t c stOk 0xFF [off, t.smallest (tilesOf c.target) (bitOf (c.pw 0) 12)] ∧ Reports { s with aq := t.aq, libs := t.libs, mem := t.mem } t) ∧
    (∀ (words : List Word) (off : Nat), OneAdmin s c 0x20 → c.handlers = true → DataOut s c →
      ((tilesOf c.target).all fun i => (libCores i (bitOf (c.pw 0) 12)).all s.drained) = true →
      (∀ i ∈ tilesOf c.target, (s.lib i).routines = []) → off = 0 → c.codeLen - 64 ≤ libWords →
      Runs (.handlerSetLoad words) s fun t =>
        (∀ i ∈ tilesOf c.target, (t.lib i).hand (bitOf (c.pw 0) 12) = some { off, len := c.codeLen - 64, words := words.take c.codeLen } ∧
          (t.lib i).routines = []) ∧
        (∀ i, i ∉ tilesOf c.target → t.lib i = s.lib i) ∧
        Replied s t c stOk 0xFF [off, t.smallest (tilesOf c.target) (bitOf (c.pw 0) 12)] ∧ Reports { s with aq := t.aq, libs := t.libs, mem := t.mem } t) ∧
    (OneAdmin s c 0x21 → ((tilesOf c.target).any fun i => s.runsRoutine i (bitsOf (c.pw 0) 0 12) (bitOf (c.pw 0) 12)) = false →
      Runs (.routineUnload) s fun t => (∀ i ∈ tilesOf c.target, t.routine i (bitsOf (c.pw 0) 0 12) (bitOf (c.pw 0) 12) = none) ∧
        (∀ i, i ∉ tilesOf c.target → t.lib i = s.lib i) ∧ Replied s t c stOk 0xFF [] ∧ Reports { s with aq := t.aq, libs := t.libs } t)

/-- A BUDGET_COMMIT that passes admission, a LAT_FLOOR, a PORT_COMMIT of ports in service whose shadow values are in range, a
CALIBRATE_LOAD of a good block, an FW_ACTIVATE live of a verified image that allows it, and a PAIR_LEAVE of an active die wait for
the next tick with the snapshot taken now, and are replied to then. CALIBRATE_MEASURE of a port that is OFF keeps its block,
CALIBRATE_READ writes the block in force to the host, CALIBRATE_STORE stores it; they reply at once. Nothing else changes but the
reports. (What the spec leaves open here is read as logs 27, 28 say.) (R221, R341, R383, R388, R389, R390, R438, R440, R446, R474)
-/
def Obligations.AdminCommits : Prop :=
  ∀ (s : State) (c : AdmCmd),
    (OneAdmin s c 0x30 → s.admission s.snapshot = none →
      Runs (.budgetCommit) s fun t => Committed s t c (.budgets s.snapshot.cls s.snapshot.ports (BitVec.ofNat 20 s.snapshot.period))) ∧
    (OneAdmin s c 0x31 → Runs (.latFloor) s fun t => Committed s t c (.latFloor (BitVec.ofNat 16 (bitsOf (c.pw 0) 0 16)) (bitOf (c.pw 0) 16))) ∧
    (OneAdmin s c 0x40 → (∀ p ∈ c.ports, (s.port p).st ≠ 4 ∧ s.shadowBad p = none) →
      Runs (.portCommit) s fun t => Committed s t c (.ports (c.ports.map fun p => (p, (s.port p).shadow)))) ∧
    (∀ block, OneAdmin s c 0x41 → c.calOp = 1 → DataOut s c → calOk c.target block = true →
      Runs (.calibrateLoad block) s fun t => Committed s t c (.cal c.target block)) ∧
    (OneAdmin s c 0x52 → bitOf (c.pw 0) 0 = true → s.prm.verified = true → s.prm.activating = false → s.drives = true → s.liveOk = true →
      Runs (.fwActivateLive) s fun t => t.commits = s.commits ++ [{ what := .firmware, frame := s.frm.frame.toNat + 1, reply := some c }] ∧
        t.prm = { s.prm with activating := true } ∧ t.aq = { s.aq with stopped := true, cmds := [{ c with waits := true }] } ∧
        Reports { s with aq := t.aq, commits := t.commits, prm := t.prm } t) ∧
    (OneAdmin s c 0x83 → s.ds.role = 1 → Runs (.pairLeave) s fun t => Committed s t c (.leave 1)) ∧
    (∀ block, OneAdmin s c 0x41 → c.calOp = 0 → (s.port c.target).st = 0 →
      Runs (.calibrateMeasure block) s fun t => t.port c.target = { s.port c.target with cal := s.calBlock c.target block } ∧
        Replied s t c stOk 0xFF [] ∧ PortAlone { s with aq := t.aq } t c.target) ∧
    (OneAdmin s c 0x41 → c.calOp = 2 → (s.port c.target).cal.length = 64 →
      Runs (.calibrateRead) s fun t => Replied s t c stOk 0xFF [] ∧
        (∃ e ∈ (t.link s.aqModule).queue, e.kind = .reply ∧ e.addr = BitVec.ofNat 64 (c.pw64 1) ∧ e.bytes = (s.port c.target).cal) ∧
        Reports { s with aq := t.aq } t) ∧
    (OneAdmin s c 0x41 → c.calOp = 3 →
      Runs (.calibrateStore) s fun t => t.port c.target = { s.port c.target with calStored := (s.port c.target).cal } ∧
        Replied s t c stOk 0xFF [] ∧ PortAlone { s with aq := t.aq } t c.target)

/-- FW_STAGE stores its bytes in the other slot and nowhere else and the slot is no longer verified. FW_VERIFY answers OK and
marks the slot where the image passes R436, else IMAGE_REJECTED. FW_ACTIVATE of a verified slot puts it on trial at the next
start; FW_CONFIRM confirms the running slot and raises the SVN floor; each is journalled. PAIR_JOIN of a standby out of sync makes
it JOINING and empties its mirror. PAIR_HANDOVER of an active die in sync begins. KMD_NODE, KEY_SET, KEY_RETIRE and ROLE set the
node, the slot, remove it, and set role and epoch of a later epoch. (What the spec leaves open here is read as logs 14, 46, 83
say.) (R391, R394, R395, R430, R436, R437, R472, R473, R483) -/
def Obligations.AdminFirmwarePairAndKeys : Prop :=
  ∀ (s : State) (c : AdmCmd),
    (∀ bytes : List Byte, OneAdmin s c 0x50 → DataOut s c → s.prm.activating = false → bytes.length = (c.pw 2).toNat → s.memOk →
      Runs (.fwStage bytes) s fun t => t.bytesAt (slotBase (!s.prm.slot) + (c.pw 3).toNat) bytes.length = bytes ∧
        MemOnly s t (slotBase (!s.prm.slot) + (c.pw 3).toNat) bytes.length ∧ t.prm.verified = false ∧ t.prm.slot = s.prm.slot ∧
        Replied s t c stOk 0xFF [max s.prm.staged ((c.pw 3).toNat + (c.pw 2).toNat)] ∧ Reports { s with aq := t.aq, prm := t.prm, mem := t.mem } t) ∧
    (OneAdmin s c 0x51 → Runs (.fwVerify) s fun t =>
      t.prm.verified = (s.imageOk (!s.prm.slot) (some (c.pw 0).toNat) || s.prm.verified) ∧ t.jseq = s.jseq + 1 ∧
      (if s.imageOk (!s.prm.slot) (some (c.pw 0).toNat) then Replied s t c stOk 0xFF [s.imgVersion (!s.prm.slot)]
       else Replied s t c stImageRejected 0xFF []) ∧ Reports { s with aq := t.aq, prm := t.prm } t) ∧
    (OneAdmin s c 0x52 → bitOf (c.pw 0) 0 = false → s.prm.verified = true → s.prm.activating = false →
      Runs (.fwActivate) s fun t => t.prm = { s.prm with trialSlot := some (!s.prm.slot), trialRan := false, trialFailed := false } ∧
        t.jseq = s.jseq + 1 ∧ Replied s t c stOk 0xFF [0, 0] ∧ Reports { s with aq := t.aq, prm := t.prm } t) ∧
    (OneAdmin s c 0x53 → Runs (.fwConfirm) s fun t => t.prm.confirmed = s.prm.slot ∧ t.prm.trial = false ∧ t.prm.trialSlot = none ∧
      t.prm.svn.toNat = max s.prm.svn.toNat (s.leAt (slotBase s.prm.slot + 0xC) 4) ∧ t.jseq = s.jseq + 1 ∧ Replied s t c stOk 0xFF [] ∧
      Reports { s with aq := t.aq, prm := t.prm } t) ∧
    (OneAdmin s c 0x81 → s.ds.role = 2 → s.dsUp = true → (s.ds.sub = 2 ∨ s.ds.sub = 3) →
      Runs (.pairJoin) s fun t => t.ds.sub = 0 ∧ t.ds.joinStep = 1 ∧ t.ds.mirror = [] ∧ t.ledger = [] ∧
        t.aq = { s.aq with cmds := [{ c with waits := true }] } ∧ Reports { s with aq := t.aq, ledger := t.ledger } t) ∧
    (s.die = .ready → s.aq.cmds = [c] → c.waits = false → c.opc = 0x82 → s.admCheck c = none → s.aq.cprod = s.aq.ccons → s.paired = true →
      s.ds.handing = false →
      Runs (.pairHandover) s fun t => t = { s with aq := { s.aq with cmds := [{ c with waits := true }] }, ds := { s.ds with handing := true } }) ∧
    (OneAdmin s c 0x90 → (∀ e ∈ s.chans, e.2.xfer.phase ≠ .node) →
      Runs (.kmdNode) s fun t => t.kmd = { s.kmd with node := some (BitVec.ofNat 18 c.target) } ∧ Replied s t c stOk 0xFF [c.target] ∧
        Reports { s with aq := t.aq, kmd := t.kmd } t) ∧
    (∀ key : List Byte, OneAdmin s c 0x91 → key = (List.range 4).flatMap (fun i => leBytes 4 (c.pw (2 + i)).toNat) → (∃ b ∈ key, b ≠ 0) →
      (bitOf (c.pw 1) 0 = true ∨ bitOf (c.pw 1) 1 = true) → (∀ e ∈ s.kmd.keys, e.1 ≠ c.target → e.2.id.toNat ≠ bitsOf (c.pw 0) 0 16) →
      Runs (.kmdKeySet) s fun t =>
        (c.target, ({ id := BitVec.ofNat 16 (bitsOf (c.pw 0) 0 16), rx := bitOf (c.pw 1) 0, tx := bitOf (c.pw 1) 1, bytes := key } : Key)) ∈ t.kmd.keys ∧
        (bitOf (c.pw 1) 1 = true → ∀ e ∈ t.kmd.keys, e.1 ≠ c.target → e.2.tx = false) ∧
        Replied s t c stOk 0xFF [keyCheck key] ∧ Reports { s with aq := t.aq, kmd := t.kmd } t) ∧
    (OneAdmin s c 0x92 → (∀ e ∈ s.kmd.keys, e.1 = c.target → e.2.tx = false) →
      Runs (.kmdKeyRetire) s fun t => t.kmd = { s.kmd with keys := s.kmd.keys.erase c.target } ∧ Replied s t c stOk 0xFF [] ∧
        Reports { s with aq := t.aq, kmd := t.kmd } t) ∧
    (∀ ep : BitVec 16, OneAdmin s c 0x93 → ep = BitVec.ofNat 16 (bitsOf (c.pw 1) 0 16) → ep ≠ 0 → 1 ≤ (ep - (s.mbx c.target).epoch).toNat →
      (ep - (s.mbx c.target).epoch).toNat ≤ 32767 →
      Runs (.kmdRole) s fun t => (t.mbx c.target).epoch = ep ∧ (t.mbx c.target).role.toNat = bitsOf (c.pw 0) 0 8 ∧
        (t.mbx c.target).msgs = (s.mbx c.target).msgs ∧ (∀ k, k ≠ c.target → t.mbx k = s.mbx k) ∧
        Replied s t c stOk 0xFF [ep.toNat + bitsOf (c.pw 0) 0 8 * 65536] ∧ Reports { s with aq := t.aq, mbxs := t.mbxs, kmd := t.kmd } t)

/-- When a core issues one of ADD to REMU or ADDQ for a context, short or long, and its operands A and B and the place of D pass
their checks, the instruction stores the result that the tables give, sets the flags of R246 and completes: sums and differences
with carry or borrow and V, logic and quotients with V = 0, shifts by bits [3:0] of B with the last bit out in C, products by
halves. DIVU and REMU do so for a divisor that is not 0. (R238, R240, R242, R246, R248, R261, R264) -/
def Obligations.ThreeOperandResults : Prop :=
  ∀ (s : State) (core k : Nat) (i : Ins) (a b : Word) (e e' : Ev) (ps : List Place), ReadsAB s core k i a b e → Places e i.d 1 ps e' →
    (i.op = .add → Runs (.add core k) s fun t =>
      Stores core e' ps (a + b) (e'.ctx.flags.ofSum (a + b) (decide (65536 ≤ a.toNat + b.toNat)) (a.toInt + b.toInt)) i t) ∧
    (i.op = .addq → Runs (.addq core k) s fun t =>
      Stores core e' ps (a + b) (e'.ctx.flags.ofSum (a + b) (decide (65536 ≤ a.toNat + b.toNat)) (a.toInt + b.toInt)) i t) ∧
    (∀ r : Word, i.op = .adc → r = a + b + (if e'.ctx.c then 1 else 0) →
      Runs (.adc core k) s fun t => Stores core e' ps r (e'.ctx.flags.ofSum r (decide (65536 ≤ a.toNat + b.toNat + (if e'.ctx.c then 1 else 0)))
        (a.toInt + b.toInt + (if e'.ctx.c then 1 else 0))) i t) ∧
    (i.op = .sub → Runs (.sub core k) s fun t =>
      Stores core e' ps (a - b) (e'.ctx.flags.ofSum (a - b) (decide (a.toNat < b.toNat)) (a.toInt - b.toInt)) i t) ∧
    (∀ r : Word, i.op = .sbb → r = a - b - (if e'.ctx.c then 1 else 0) →
      Runs (.sbb core k) s fun t => Stores core e' ps r (e'.ctx.flags.ofSum r (decide (a.toNat < b.toNat + (if e'.ctx.c then 1 else 0)))
        (a.toInt - b.toInt - (if e'.ctx.c then 1 else 0))) i t) ∧
    (i.op = .and → Runs (.and core k) s fun t => Stores core e' ps (a &&& b) (e'.ctx.flags.ofLogic (a &&& b)) i t) ∧
    (i.op = .or → Runs (.or core k) s fun t => Stores core e' ps (a ||| b) (e'.ctx.flags.ofLogic (a ||| b)) i t) ∧
    (i.op = .xor → Runs (.xor core k) s fun t => Stores core e' ps (a ^^^ b) (e'.ctx.flags.ofLogic (a ^^^ b)) i t) ∧
    (∀ n : Nat, n = b.toNat % 16 → i.op = .shl →
      Runs (.shl core k) s fun t => Stores core e' ps (a <<< n) (e'.ctx.flags.ofShift (a <<< n) n (a.getLsbD (16 - n))) i t) ∧
    (∀ n : Nat, n = b.toNat % 16 → i.op = .shr →
      Runs (.shr core k) s fun t => Stores core e' ps (a >>> n) (e'.ctx.flags.ofShift (a >>> n) n (a.getLsbD (n - 1))) i t) ∧
    (∀ n : Nat, n = b.toNat % 16 → i.op = .sar →
      Runs (.sar core k) s fun t => Stores core e' ps (a.sshiftRight n) (e'.ctx.flags.ofShift (a.sshiftRight n) n (a.getLsbD (n - 1))) i t) ∧
    (∀ n : Nat, n = b.toNat % 16 → i.op = .rol →
      Runs (.rol core k) s fun t => Stores core e' ps (a.rotateLeft n) (e'.ctx.flags.ofShift (a.rotateLeft n) n (a.getLsbD (16 - n))) i t) ∧
    (i.op = .mul → Runs (.mul core k) s fun t => Stores core e' ps (a * b) (e'.ctx.flags.ofResult (a * b)) i t) ∧
    (∀ r : Word, r = (a.zeroExtend 32 * b.zeroExtend 32).extractLsb' 16 16 → i.op = .mulhu →
      Runs (.mulhu core k) s fun t => Stores core e' ps r (e'.ctx.flags.ofResult r) i t) ∧
    (∀ r : Word, r = (a.signExtend 32 * b.signExtend 32).extractLsb' 16 16 → i.op = .mulhs →
      Runs (.mulhs core k) s fun t => Stores core e' ps r (e'.ctx.flags.ofResult r) i t) ∧
    (b ≠ 0 → i.op = .divu → Runs (.divu core k) s fun t => Stores core e' ps (a / b) (e'.ctx.flags.ofLogic (a / b)) i t) ∧
    (b ≠ 0 → i.op = .remu → Runs (.remu core k) s fun t => Stores core e' ps (a % b) (e'.ctx.flags.ofLogic (a % b)) i t)

/-- An issued MOV or MOVQ stores A and MOVK its literal and leave the flags; NOT stores the complement, NEG 0 − A with the flags
of a difference; CMP and TST only set the flags of A − B and A & B. On a Cornice core CLZ stores the number of leading zeros,
BPERM the bits that its selectors name, BFEXT the field of a group, sign-extended where AUX[0] is 1, and BFINS puts the low bits
of A into the field of the group at D, for a W in its ranges; Z and N follow what is stored. (R240, R241, R242, R246, R248, R260,
R261) -/
def Obligations.OtherResults : Prop :=
  ∀ (s : State) (core k : Nat) (i : Ins) (a b : Word) (e0 e1 e2 e' : Ev) (ps : List Place),
    (ReadsA s core k i a e1 → Places e1 i.d 1 ps e' →
      (i.op = .mov → Runs (.mov core k) s fun t => Stores core e' ps a e'.ctx.flags i t) ∧
      (i.op = .movq → Runs (.movq core k) s fun t => Stores core e' ps a e'.ctx.flags i t) ∧
      (i.op = .not → Runs (.not core k) s fun t => Stores core e' ps (~~~a) (e'.ctx.flags.ofLogic (~~~a)) i t) ∧
      (i.op = .neg → Runs (.neg core k) s fun t => Stores core e' ps (-a) (e'.ctx.flags.ofSum (-a) (decide (a ≠ 0)) (-a.toInt)) i t) ∧
      (∀ n : Nat, i.op = .clz → n ≤ 16 → (∀ j < n, a.getLsbD (15 - j) = false) → (n < 16 → a.getLsbD (15 - n) = true) →
        Runs (.clz core k) s fun t => Stores core e' ps (BitVec.ofNat 16 n) (e'.ctx.flags.ofResult (BitVec.ofNat 16 n)) i t)) ∧
    (Issues s core k i e0 → i.op = .movk → Places e0 i.d 1 ps e' → Runs (.movk core k) s fun t => Ends core (e'.puts ps [i.k]) i t) ∧
    (ReadsAB s core k i a b e2 → i.op = .cmp →
      Runs (.cmp core k) s fun t => Ends core (e2.upd fun c => c.setFlags (e2.ctx.flags.ofSum (a - b) (decide (a.toNat < b.toNat)) (a.toInt - b.toInt))) i t) ∧
    (ReadsAB s core k i a b e2 → i.op = .tst → Runs (.tst core k) s fun t => Ends core (e2.upd fun c => c.setFlags (e2.ctx.flags.ofLogic (a &&& b))) i t) ∧
    (∀ (r w0 w1 w2 w3 : Word), Issues s core k i e0 → i.op = .bperm → e0.source 1 i.a = .ok (a, e1) → e1.sources 2 i.b 4 = .ok ([w0, w1, w2, w3], e2) →
      Places e2 i.d 1 ps e' → (∀ j < 16, r.getLsbD j = a.getLsbD (([w0, w1, w2, w3].getD (j / 4) 0).toNat / 2 ^ (4 * (j % 4)) % 16)) →
      Runs (.bperm core k) s fun t => Stores core e' ps r (e'.ctx.flags.ofResult r) i t) ∧
    (∀ (lo hi w r : Word) (pos width : Nat) (m x v : Word32), Issues s core k i e0 → i.op = .bfext → e0.sources 1 i.a 2 = .ok ([lo, hi], e1) →
      e1.source 2 i.b = .ok (w, e2) → Places e2 i.d 1 ps e' → w &&& 0xE0E0 = 0 → pos = w.toNat % 32 → width = w.toNat / 256 → 1 ≤ width → width ≤ 16 →
      m = BitVec.ofNat 32 (2 ^ width - 1) → x = hi ++ lo → v = (x >>> pos) &&& m →
      r = (if i.aux = 1 ∧ v.getLsbD (width - 1) = true then v ||| ~~~m else v).setWidth 16 →
      Runs (.bfext core k) s fun t => Stores core e' ps r (e'.ctx.flags.ofResult r) i t) ∧
    (∀ (lo hi w : Word) (pos width : Nat) (m y r : Word32) (l : Loc) (e3 e4 : Ev), Issues s core k i e0 → i.op = .bfins → e0.source 1 i.a = .ok (a, e1) →
      e1.source 2 i.b = .ok (w, e2) → e2.loc 3 i.d = .ok (l, e3) → e3.readWords 3 l 2 = .ok ([lo, hi], e4) → e4.places 3 l 2 = .ok ps →
      (∀ ws, (e4.puts ps ws).block = false) → w &&& 0xE0E0 = 0 → pos = w.toNat % 32 → width = w.toNat / 256 → 1 ≤ width → width ≤ 16 →
      m = BitVec.ofNat 32 (2 ^ width - 1) → y = hi ++ lo → r = (y &&& ~~~(m <<< pos)) ||| ((a.setWidth 32 &&& m) <<< pos) →
      Runs (.bfins core k) s fun t =>
        Ends core ((e4.puts ps [r.setWidth 16, (r >>> 16).setWidth 16]).upd fun c => { c with z := decide (r = 0), n := r.msb }) i t)

/-- An issued skip holds where its comparison of A and B holds, SKF where its condition on the flags does; it completes and
changes nothing else. WFE clears a set event latch and completes, else the context waits. SEV sets the latch of the context that
its operand names, of every context of the tile for 0xFFFF, of none for another value. WAITT completes where TIME[31:0] − T is not
negative, else the context waits for T, and goes on after the instruction once TIME has reached it, the cycles of its wait charged
to the routine's bound. NOP only completes. (What the spec leaves open here is read as log 57 says.) (R240, R247, R248, R249,
R256, R257, R258, R272, R273) -/
def Obligations.SkipsEventsAndWaits : Prop :=
  ∀ (s : State) (core k : Nat) (i : Ins) (a b : Word) (e0 e1 e : Ev),
    (Issues s core k i e0 → i.op = .nop → Runs (.nop core k) s fun t => Ends core e0 i t) ∧
    (ReadsAB s core k i a b e →
      (i.op = .seq → Runs (.seq core k) s fun t => Ends core { e with flow := if a = b then .skip else .seq } i t) ∧
      (i.op = .sne → Runs (.sne core k) s fun t => Ends core { e with flow := if a = b then .seq else .skip } i t) ∧
      (i.op = .slt → Runs (.slt core k) s fun t => Ends core { e with flow := if a.toInt < b.toInt then .skip else .seq } i t) ∧
      (i.op = .sge → Runs (.sge core k) s fun t => Ends core { e with flow := if a.toInt < b.toInt then .seq else .skip } i t) ∧
      (i.op = .sltu → Runs (.sltu core k) s fun t => Ends core { e with flow := if a.toNat < b.toNat then .skip else .seq } i t) ∧
      (i.op = .sgeu → Runs (.sgeu core k) s fun t => Ends core { e with flow := if a.toNat < b.toNat then .seq else .skip } i t) ∧
      (i.op = .sbs → Runs (.sbs core k) s fun t => Ends core { e with flow := if a.getLsbD (b.toNat % 16) then .skip else .seq } i t) ∧
      (i.op = .sbz → Runs (.sbz core k) s fun t => Ends core { e with flow := if a.getLsbD (b.toNat % 16) then .seq else .skip } i t) ∧
      (∀ holds : List Bool, i.op = .sxx →
        holds = [decide (a = b), decide (a ≠ b), decide (a.toInt < b.toInt), decide (b.toInt ≤ a.toInt), decide (a.toNat < b.toNat),
                 decide (b.toNat ≤ a.toNat), a.getLsbD (b.toNat % 16), !(a.getLsbD (b.toNat % 16))] →
        Runs (.sxx core k) s fun t => Ends core { e with flow := if holds.getD i.aux false then .skip else .seq } i t)) ∧
    (∀ holds : List Bool, Issues s core k i e0 → i.op = .skf →
      holds = [e0.ctx.z, !e0.ctx.z, e0.ctx.c, !e0.ctx.c, e0.ctx.n, !e0.ctx.n, e0.ctx.v, !e0.ctx.v, !e0.ctx.c && !e0.ctx.z, e0.ctx.c || e0.ctx.z,
               e0.ctx.n == e0.ctx.v, e0.ctx.n != e0.ctx.v, !e0.ctx.z && e0.ctx.n == e0.ctx.v, e0.ctx.z || e0.ctx.n != e0.ctx.v, true] →
      Runs (.skf core k) s fun t => Ends core { e0 with flow := if holds.getD i.aux false then .skip else .seq } i t) ∧
    (Issues s core k i e0 → i.op = .wfe → e0.ctx.evl = true → Runs (.wfe core k) s fun t => Ends core (e0.upd fun c => { c with evl := false }) i t) ∧
    (Issues s core k i e0 → i.op = .wfe → e0.ctx.evl = false → Runs (.wfe core k) s fun t => Ends core { e0 with flow := .wait .event } i t) ∧
    (ReadsA s core k i a e1 → i.op = .sev → a.toNat < 1024 →
      Runs (.sev core k) s fun t => Ends core { e1 with s := e1.s.setLatch (a.toNat / 8) (a.toNat % 8) } i t) ∧
    (ReadsA s core k i a e1 → i.op = .sev → 1024 ≤ a.toNat → a ≠ 0xFFFF → Runs (.sev core k) s fun t => Ends core e1 i t) ∧
    (ReadsA s core k i a e1 → i.op = .sev → a = 0xFFFF → Runs (.sev core k) s fun t =>
      Ends core { e1 with s := e1.s.each (allCores.filter fun c => tileOfCore c = tileOfCore core) fun s c =>
                            s.each (List.range (ctxCount c)) fun s j => s.setLatch c j } i t) ∧
    (∀ lo hi : Word, Issues s core k i e0 → i.op = .waitt → e0.sources 1 i.a 2 = .ok ([lo, hi], e1) →
      0 ≤ (BitVec.ofNat 32 e1.s.frm.time.toNat - (hi ++ lo : Word32)).toInt → Runs (.waitt core k) s fun t => Ends core e1 i t) ∧
    (∀ lo hi : Word, Issues s core k i e0 → i.op = .waitt → e0.sources 1 i.a 2 = .ok ([lo, hi], e1) →
      (BitVec.ofNat 32 e1.s.frm.time.toNat - (hi ++ lo : Word32)).toInt < 0 →
      Runs (.waitt core k) s fun t => Ends core { e1 with flow := .wait (.time (hi ++ lo)) } i t) ∧
    (∀ (target : Word32) (w : Word) (f : Ev), (s.ctx core k).st = .waiting → (s.ctx core k).wait = .time target → s.die = .ready →
      0 ≤ (BitVec.ofNat 32 s.frm.time.toNat - target).toInt → (s.ctx core k).slot = none → NoLoopAt (s.ctx core k) (s.waitedTo core k) →
      ((s.passWait core k).ev core k).fetchWord (s.ctx core k).pc = .ok (w, f) →
      Runs (.waittExpiry core k) s fun t => (t.ctx core k).pc = (s.ctx core k).pc + BitVec.ofNat 16 (wordsOf w) ∧ (t.ctx core k).wait = .nothing ∧
        (t.ctx core k).base = .ready ∧ (t.ctx core k).segs = (s.ctx core k).segs ∧
        (t.ctx core k).left = (if (s.ctx core k).run.isSome && !(s.ctx core k).inInt then (s.ctx core k).left - (s.waitedTo core k - (s.ctx core k).markCycle)
          else (s.ctx core k).left) ∧ t = { s with cores := t.cores })

/-- An issued jump completes with its target due after the delay slot: the word at ws, w31 or A, or the literal K. A call first
stores in w31 the offset of the instruction that follows the delay slot. LOOP sets the start, end and count of its loop, seen at
once, for an end above the start; with a count of 0 execution goes on after the instruction at the end, for 2 cycles more. (What
the spec leaves open here is read as log 57 says.) (R240, R248, R250, R251, R252, R253) -/
def Obligations.JumpsAndLoops : Prop :=
  ∀ (s : State) (core k : Nat) (i : Ins) (a b w : Word) (e0 e1 e2 e' : Ev) (ps : List Place),
    (ReadsA s core k i a e1 →
      (i.op = .jmpr → Runs (.jmpr core k) s fun t => Ends core { e1 with flow := .jump a } i t) ∧
      (i.op = .ret → Runs (.ret core k) s fun t => Ends core { e1 with flow := .jump a } i t) ∧
      (i.op = .jmp → Runs (.jmp core k) s fun t => Ends core { e1 with flow := .jump a } i t)) ∧
    (Issues s core k i e0 → i.op = .jmpk → Runs (.jmpk core k) s fun t => Ends core { e0 with flow := .jump i.k } i t) ∧
    (ReadsA s core k i a e1 → e1.fetchWord (e1.ctx.pc + BitVec.ofNat 16 i.size) = .ok (w, e2) → Places e2 31 1 ps e' →
      (i.op = .callr → Runs (.callr core k) s fun t =>
        Ends core { e'.puts ps [e1.ctx.pc + BitVec.ofNat 16 i.size + (if w.toNat / 4096 = 15 then 4 else 1)] with flow := .jump a } i t) ∧
      (i.op = .call → Runs (.call core k) s fun t =>
        Ends core { e'.puts ps [e1.ctx.pc + BitVec.ofNat 16 i.size + (if w.toNat / 4096 = 15 then 4 else 1)] with flow := .jump a } i t)) ∧
    (Issues s core k i e0 → i.op = .callk → e0.fetchWord (e0.ctx.pc + BitVec.ofNat 16 i.size) = .ok (w, e2) → Places e2 31 1 ps e' →
      Runs (.callk core k) s fun t =>
        Ends core { e'.puts ps [e0.ctx.pc + BitVec.ofNat 16 i.size + (if w.toNat / 4096 = 15 then 4 else 1)] with flow := .jump i.k } i t) ∧
    (Issues s core k i e0 → i.op = .loop → (e0.ctx.pc + 4).toNat < i.k.toNat → e0.source 2 i.b = .ok (b, e1) → b ≠ 0 →
      Runs (.loop core k) s fun t => Ends core (e1.upd fun c => c.setLoop i.aux (e0.ctx.pc + 4) i.k b) i t) ∧
    (Issues s core k i e0 → i.op = .loop → (e0.ctx.pc + 4).toNat < i.k.toNat → e0.source 2 i.b = .ok (b, e1) → b = 0 →
      (e1.upd fun c => c.setLoop i.aux (e0.ctx.pc + 4) i.k b).fetchWord i.k = .ok (w, e2) →
      Runs (.loop core k) s fun t =>
        Ends core { e2 with flow := .goto (i.k + (if w.toNat / 4096 = 15 then 4 else 1)), cyc := e0.cyc + 2 } i t) ∧
    (∀ (c : Ctx) (n : Nat) (start last count : Word), n < 3 → (c.setLoop n start last count).loops.get 0 n = start ∧
      (c.setLoop n start last count).loops.get 0 (3 + n) = last ∧ (c.setLoop n start last count).loops.get 0 (6 + n) = count ∧
      ∀ j, j ≠ n → j ≠ 3 + n → j ≠ 6 + n → (c.setLoop n start last count).loops.get 0 j = c.loops.get 0 j)

/-- An issued LSEG whose base is even and whose segment ends within the address space loads its register from three words and
marks it valid; the old value is still seen for the distance of R273. SSEG stores base and limit of a valid register, else three
zero words. MFSR stores the special register of its number; BOUND_LEFT is a free value for a context that runs no routine. MTSR
writes C, Z, N and V of STATUS, or WP, VTB, TSBR or a loop register with its distance. (What the spec leaves open here is read as
logs 52, 54 say.) (R231, R235, R241, R244, R245, R248, R273) -/
def Obligations.SegmentAndSpecialRegisters : Prop :=
  ∀ (s : State) (core k : Nat) (i : Ins) (a lo hi limit v : Word) (e0 e1 e' : Ev) (ps : List Place),
    (Issues s core k i e0 → i.op = .lseg → e0.sources 1 i.a 3 = .ok ([lo, hi, limit], e1) → lo.toNat % 2 = 0 →
      (hi ++ lo : Word32).toNat + 2 * limit.toNat + 1 < 2 ^ 32 →
      Runs (.lseg core k) s fun t => Ends core (e1.upd fun c => (c.cover e0.now (.seg i.aux) 0 (c.segReg i.aux) 3 3).setSeg i.aux
        { base := hi ++ lo, limit, v := true }) i t) ∧
    (Issues s core k i e0 → i.op = .sseg → Places e0 i.d 3 ps e' → (e'.ctx.segReg i.aux).v = true →
      Runs (.sseg core k) s fun t => Ends core (e'.puts ps [(e'.ctx.segReg i.aux).base.setWidth 16, ((e'.ctx.segReg i.aux).base >>> 16).setWidth 16,
        (e'.ctx.segReg i.aux).limit]) i t) ∧
    (Issues s core k i e0 → i.op = .sseg → Places e0 i.d 3 ps e' → (e'.ctx.segReg i.aux).v = false →
      Runs (.sseg core k) s fun t => Ends core (e'.puts ps [0, 0, 0]) i t) ∧
    (Issues s core k i e0 → i.op = .mfsr → Places e0 i.d 1 ps e' → (i.aux ≠ 0x0F ∨ e'.ctx.run.isSome = true) →
      v = ([e'.ctx.statusWord, e'.ctx.wp, e'.ctx.pc, BitVec.ofNat 16 (core * 8 + k)] ++ (List.range 9).map (fun j => e'.ctx.loops.get 0 j) ++
           [e'.ctx.vtb, e'.ctx.tsbr, BitVec.ofNat 16 (min (e'.ctx.left / 16) 0xFFFF), 0x3F01, 0x0022, 0x003F, 0, 0x0010, 0x0020, 0x0440, 0x7D19]).getD i.aux 0 →
      Runs (.mfsr core k) s fun t => Ends core (e'.puts ps [v]) i t) ∧
    (Issues s core k i e0 → i.op = .mfsr → Places e0 i.d 1 ps e' → i.aux = 0x0F → e'.ctx.run = none →
      (∀ ws, (({ e' with s := { e'.s with freeNext := e'.s.freeNext + 1 } } : Ev).puts ps ws).block = false) →
      Runs (.mfsr core k) s fun t => Ends core (({ e' with s := { e'.s with freeNext := e'.s.freeNext + 1 } } : Ev).puts ps
        [Config.freeWord e'.s.freeNext]) i t) ∧
    (ReadsA s core k i a e1 → i.op = .mtsr →
      (i.aux = 0 → Runs (.mtsr core k) s fun t =>
        Ends core (e1.upd fun c => { c with c := a.getLsbD 0, z := a.getLsbD 1, n := a.getLsbD 2, v := a.getLsbD 3 }) i t) ∧
      (i.aux = 1 → Runs (.mtsr core k) s fun t => Ends core (e1.upd fun c => { c.cover e1.now .wp c.wp {} 3 3 with wp := a }) i t) ∧
      (i.aux = 0x0D → Runs (.mtsr core k) s fun t => Ends core (e1.upd fun c => { c.cover e1.now .vtb c.vtb {} 3 3 with vtb := a }) i t) ∧
      (i.aux = 0x0E → Runs (.mtsr core k) s fun t => Ends core (e1.upd fun c => { c.cover e1.now .tsbr c.tsbr {} 3 3 with tsbr := a }) i t) ∧
      (4 ≤ i.aux → i.aux ≤ 0x0C → Runs (.mtsr core k) s fun t =>
        Ends core (e1.upd fun c => { c.cover e1.now (.loopReg (i.aux - 4)) (c.loops.get 0 (i.aux - 4)) {} 2 2 with loops := c.loops.set (i.aux - 4) a }) i t))

/-- An issued TRAP raises vector 32 + n with n as its INFO, DIVU and REMU by 0 raise DIVIDE, and nothing else of them takes
effect. RETX with a TSB in the stack whose PL is not above the handler's, and no interrupt to chain to, restores the saved PC,
flags, level, WP, loops, segments and a pending delay-slot target, and takes the TSB off; a TSB with FREE = 1 leaves the context
FREE. EXIT of a routine frees the context and hands USER and error to its program, which ends with ROUTINE_ERROR for an error or
goes on. (What the spec leaves open here is read as logs 52, 59 say.) (R213, R259, R261, R271, R276, R282, R283, R286, R330) -/
def Obligations.TrapsReturnsAndExits : Prop :=
  ∀ (s : State) (core k : Nat) (i : Ins) (a b : Word) (e0 e1 e : Ev),
    (Issues s core k i e0 → i.op = .trap → Runs (.trap core k) s fun t => Raises s core k { vec := 32 + i.aux, info := i.aux } t) ∧
    (∀ (e' : Ev) (ps : List Place), ReadsAB s core k i a b e → Places e i.d 1 ps e' → b = 0 → i.op = .divu →
      Runs (.divu core k) s fun t => Raises s core k { vec := 5 } t) ∧
    (∀ (e' : Ev) (ps : List Place), ReadsAB s core k i a b e → Places e i.d 1 ps e' → b = 0 → i.op = .remu →
      Runs (.remu core k) s fun t => Raises s core k { vec := 5 } t) ∧
    (∀ (l : List Word) (s1 : State), Issues s core k i e0 → i.op = .retx → e0.ctx.depth ≠ 0 → core < 72 → k < ctxCount core → l = e0.s.topTsb core k →
      bitsOf (l.getD 3 0) 0 2 ≤ bitsOf (l.getD 1 0) 5 2 → s1 = (if (e0.ctx.ints.headD none).isSome then e0.s.endTopService core else e0.s) →
      (e0.ctx.inInt = true → s1.chainTo core k (bitsOf (l.getD 4 0) 8 5) = none) → bitOf (l.getD 4 0) 7 = false →
      Runs (.retx core k) s fun t => (t.ctx core k).pc = l.getD 0 0 ∧ (t.ctx core k).c = (l.getD 1 0).getLsbD 0 ∧ (t.ctx core k).z = (l.getD 1 0).getLsbD 1 ∧
        (t.ctx core k).n = (l.getD 1 0).getLsbD 2 ∧ (t.ctx core k).v = (l.getD 1 0).getLsbD 3 ∧ (t.ctx core k).pl.toNat = bitsOf (l.getD 1 0) 5 2 ∧
        (t.ctx core k).wp = l.getD 2 0 ∧ (t.ctx core k).slot = (if (l.getD 4 0).getLsbD 13 then some (l.getD 8 0) else none) ∧
        (∀ j < 9, (t.ctx core k).loops.get 0 j = l.getD (9 + j) 0) ∧ (t.ctx core k).tsbr = e0.ctx.tsbr - 48 ∧ (t.ctx core k).depth = e0.ctx.depth - 1 ∧
        (∀ n < 8, ((t.ctx core k).segReg n).limit = l.getD (21 + 3 * n) 0 ∧ ((t.ctx core k).segReg n).v = (l.getD 18 0).getLsbD n) ∧
        (t.ctx core k).run = e0.ctx.run ∧ t = { s1 with cores := t.cores }) ∧
    (∀ l : List Word, Issues s core k i e0 → i.op = .retx → e0.ctx.depth ≠ 0 → l = e0.s.topTsb core k → bitsOf (l.getD 3 0) 0 2 ≤ bitsOf (l.getD 1 0) 5 2 →
      e0.ctx.inInt = false → bitOf (l.getD 4 0) 7 = true → e0.s.noneWait → (∀ x ∈ e0.s.chans, x.2.parked = false) →
      Runs (.retx core k) s fun t => (t.ctx core k).st = .free ∧ (t.ctx core k).run = none ∧ (t.ctx core k).depth = 0) ∧
    (∀ (r : RunInfo) (ch : Nat), Issues s core k i e0 → e0.source 1 i.a = .ok (a, e1) → e1.source 2 i.b = .ok (b, e) → i.op = .exit → e0.ctx.mayExit = true →
      e.ctx.run = some r → r.ch = ch → e.ctx.heldW = none →
      b.toNat % 256 ≠ 0 → (e.s.chan ch).xfer.sl = false → EndsQuietly e.s ch →
      (∀ x ∈ e.s.chans, x.2.parked = false) → core < 72 → k < ctxCount core →
      Runs (.exit core k) s fun t => (t.chan ch).st = .error ∧ (t.chan ch).lastStatus = stRoutineError ∧ (t.chan ch).inRun = false ∧
        (t.chan ch).cond.toNat / 256 = a.toNat % 256 ∧ (t.ctx core k).run = none ∧ ProgramOf { e.s with cores := t.cores } t ch) ∧
    (∀ (r : RunInfo) (ch : Nat), Issues s core k i e0 → e0.source 1 i.a = .ok (a, e1) → e1.source 2 i.b = .ok (b, e) → i.op = .exit → e0.ctx.mayExit = true →
      e.ctx.run = some r → r.ch = ch → e.ctx.heldW = none →
      b.toNat % 256 = 0 → CcwGoesOn e.s ch → (e.s.chan ch).xfer.cond = 0 →
      (∀ x ∈ e.s.chans, x.2.parked = false) → core < 72 → k < ctxCount core →
      Runs (.exit core k) s fun t => (t.chan ch).ccwa = (e.s.chan ch).ccwa + 16 ∧ (t.chan ch).inRun = false ∧
        (t.chan ch).cond.toNat / 256 = a.toNat % 256 ∧ (t.ctx core k).run = none ∧ ProgramOf { e.s with cores := t.cores } t ch)

/-- An exception raised at level 2 whose vector entry is 0xFFFF is not entered: the context runs nothing afterwards, its depth is
0 and the memory is as before, so that no TSB is written; the routine's program ends in ERROR with ROUTINE_FAULT. (R277) -/
def Obligations.UnhandledFaultAtLevelTwo : Prop :=
  ∀ (s : State) (core k : Nat) (x : Exc) (r : RunInfo), ownSlot core k = false → (s.ctx core k).pl = 2 → (s.ctx core k).run = some r →
    s.vtbOk core k = true → s.vectorWord core k x.vec = 0xFFFF → EndsQuietly s r.ch → (∀ e ∈ s.chans, e.2.parked = false) → core < 72 → k < ctxCount core →
    ((s.raise core k x).ctx core k).run = none ∧ ((s.raise core k x).ctx core k).st = .free ∧ ((s.raise core k x).ctx core k).depth = 0 ∧
      (s.raise core k x).mem = s.mem ∧ ((s.raise core k x).chan r.ch).st = .error ∧ ((s.raise core k x).chan r.ch).lastStatus = stRoutineFault

/-- Where no condition of R288 holds, an exception of a context that runs writes its TSB at TSBR and nothing else in the memory:
saved PC, after the TRAP for a TRAP, STATUS, WP, level, CAUSE, INFO, FADDR, the pending target and the loops. TSBR rises by 48 and
the depth by 1; the handler starts at its vector entry at level 1 with the flags and RSM clear, EVL kept, WP at its depth, S0 the
level-1 workspace, CSEG the handler code segment, no loop active, and S1 to S7 kept. (What the spec leaves open here is read as
logs 55, 57 say.) (R276, R278, R279, R280, R288) -/
def Obligations.ExceptionEntry : Prop :=
  ∀ (s t : State) (core k T : Nat) (x : Exc), ownSlot core k = false → x.vec ≠ 1 → x.openAddr = false → (s.ctx core k).heldW = none → s.memOk →
    (s.ctx core k).st ≠ .waiting → (s.ctx core k).st ≠ .held →
    s.vtbOk core k = true → s.entryLock core k x.vec = none → T = s.tsbrSeen core k → t = s.raise core k x →
    (∀ c : Ctx, c = s.ctx core k →
      t.wordAt (localBase core + 2 * T) = (if 32 ≤ x.vec then c.pc + 1 else c.pc) ∧
      t.wordAt (localBase core + 2 * (T + 1)) = c.statusWord ∧ t.wordAt (localBase core + 2 * (T + 2)) = c.wp ∧
      t.wordAt (localBase core + 2 * (T + 3)) = BitVec.ofNat 16 c.pl.toNat ∧
      t.wordAt (localBase core + 2 * (T + 4)) = BitVec.ofNat 16 (x.vec + (if c.st = .free then 128 else 0) + (c.curPri.getD 16) * 256 +
        (if c.slot.isSome then 0x2000 else 0)) ∧
      t.wordAt (localBase core + 2 * (T + 5)) = BitVec.ofNat 16 x.info ∧ t.wordAt (localBase core + 2 * (T + 6)) = BitVec.ofNat 16 x.faddr ∧
      t.wordAt (localBase core + 2 * (T + 7)) = BitVec.ofNat 16 (x.faddr / 65536) ∧ t.wordAt (localBase core + 2 * (T + 8)) = c.slot.getD 0 ∧
      (∀ j < 9, t.wordAt (localBase core + 2 * (T + 9 + j)) = c.loops.get 0 j) ∧
      (∀ n < 8, t.wordAt (localBase core + 2 * (T + 21 + 3 * n)) = (c.segReg n).limit) ∧
      (t.ctx core k).tsbr = BitVec.ofNat 16 (T + 48) ∧ (t.ctx core k).depth = c.depth + 1 ∧ (t.ctx core k).pl = 1 ∧ (t.ctx core k).evl = c.evl ∧
      ((t.ctx core k).c = false ∧ (t.ctx core k).z = false ∧ (t.ctx core k).n = false ∧ (t.ctx core k).v = false ∧ (t.ctx core k).rsm = false) ∧
      (t.ctx core k).segReg 0 = { base := BitVec.ofNat 32 ((if core < 64 then 0x08007080 else 0x0800F000) + 0x70 * k), limit := 0x37, v := true } ∧
      (t.ctx core k).wp = BitVec.ofNat 16 (8 * c.depth) ∧
      (t.ctx core k).cseg = { base := (if core < 64 then 0x08000000 else 0x08008000), limit := 0x2FFF, v := true } ∧
      (∀ j < 3, (t.ctx core k).loops.get 0 (6 + j) = 0) ∧ (∀ j < 6, (t.ctx core k).loops.get 0 j = c.loops.get 0 j) ∧
      (∀ n < 8, n ≠ 0 → (t.ctx core k).segReg n = c.segReg n) ∧
      (t.ctx core k).pc = s.vectorWord core k x.vec ∧ (t.ctx core k).slot = none ∧ (t.ctx core k).st = .ready ∧ (t.ctx core k).run = c.run) ∧
    MemOnly s t (localBase core + 2 * T) 96 ∧ (∀ j, j ≠ k → t.ctx core j = s.ctx core j) ∧ t = { s with cores := t.cores, mem := t.mem }

/-- An issued MOVB reads its pointers and N, FILLB also A, and checks them; equal ones are not legal. With N = 0 they complete
with RSM 0. Else the next word is moved: the source is read, the destination written, the pointers rise by 1 and N falls by 1, for
2 cycles a word in MOVB and 1 in FILLB. With the last word they complete with RSM 0; else RSM is 1, PC stays, and the next issue
of the context moves the next word. A word that is refused raises its exception with RSM 1. (What the spec leaves open here is
read as logs 57, 110 say.) (R240, R241, R242, R254, R255, R261) -/
def Obligations.BlockMovesAndFills : Prop :=
  ∀ (s : State) (core k : Nat) (i : Ins) (n dp sp v : Word) (pa pn pd p : Place) (l : Loc) (e0 e1 e2 e3 e4 g : Ev) (x : Block) (y : Exc),
    (Issues s core k i e0 →
      i.op = .movb → e0.place 1 0 (e0.slotOff (spSlot i.a)) false true = .ok pa → e0.read 1 0 (e0.slotOff (spSlot i.a)) false = .ok (sp, e1) →
      e1.loc 2 i.b = .ok (l, e2) → e2.place 2 l.seg l.off false true = .ok pn → e2.read 2 l.seg l.off false = .ok (n, e3) →
      e3.place 3 0 (e3.slotOff (spSlot i.d)) false true = .ok pd → e3.read 3 0 (e3.slotOff (spSlot i.d)) false = .ok (dp, e4) →
      ((pn = pa ∨ pn = pd ∨ pa = pd) → Runs (.movb core k) s fun t => Raises s core k { vec := vIllegal } t) ∧
      (pn ≠ pa → pn ≠ pd → pa ≠ pd →
        x = { dseg := spSeg i.d, dptr := dp, aseg := some (spSeg i.a), aptr := sp, fill := 0, pd, pa, pn, n := n.toNat, each := 2, since := e0.now, undo := none } →
        (n = 0 → Runs (.movb core k) s fun t => Ends core (e4.upd fun c => { c with rsm := false }) i t) ∧
        (n = 1 → e4.moveWord x = .ok (p, g) → g.block = false →
          Runs (.movb core k) s fun t => Ends core (g.upd fun c => { c with rsm := false, block := none }) i t) ∧
        (1 < n.toNat → e4.moveWord x = .ok (p, g) → g.block = false →
          Runs (.movb core k) s fun t => Ends core { g.upd fun c => { c with block := some (x.next p) } with flow := .stay } i t) ∧
        (n ≠ 0 → e4.moveWord x = .error y →
          Runs (.movb core k) s fun t => t = ((e4.s.updCtx core k fun c => { c with rsm := true, block := none }).raise core k y).arrange core))) ∧
    (Issues s core k i e0 →
      i.op = .fillb → e0.source 1 i.a = .ok (v, e1) → e1.loc 2 i.b = .ok (l, e2) → e2.place 2 l.seg l.off false true = .ok pn →
      e2.read 2 l.seg l.off false = .ok (n, e3) → e3.place 3 0 (e3.slotOff (spSlot i.d)) false true = .ok pd →
      e3.read 3 0 (e3.slotOff (spSlot i.d)) false = .ok (dp, e4) → pn ≠ pd →
      x = { dseg := spSeg i.d, dptr := dp, aseg := none, aptr := 0, fill := v, pd, pa := pd, pn, n := n.toNat, each := 1, since := e0.now,
            undo := e0.pointerBefore 1 i.a } →
      (n = 0 → Runs (.fillb core k) s fun t => Ends core (e4.upd fun c => { c with rsm := false }) i t) ∧
      (n = 1 → e4.moveWord x = .ok (p, g) → g.block = false →
        Runs (.fillb core k) s fun t => Ends core (g.upd fun c => { c with rsm := false, block := none }) i t) ∧
      (1 < n.toNat → e4.moveWord x = .ok (p, g) → g.block = false →
        Runs (.fillb core k) s fun t => Ends core { g.upd fun c => { c with block := some (x.next p) } with flow := .stay } i t)) ∧
    (((s.arrange core).ctx core k).block = some x → (s.arrange core).ctxTurn core k = true →
      e0 = { s.fetching core k with s := (s.fetching core k).s.movePtr core k, since := x.since, cyc := 0 } → e0.moveWord x = .ok (p, g) → g.block = false →
      i = { op := x.op, size := 4, cyc := 0, ok := true } →
      (x.aseg.isSome = true → x.n = 1 → Runs (.movb core k) s fun t => Ends core (g.upd fun c => { c with rsm := false, block := none }) i t) ∧
      (x.aseg.isSome = true → 1 < x.n → Runs (.movb core k) s fun t => Ends core { g.upd fun c => { c with block := some (x.next p) } with flow := .stay } i t) ∧
      (x.aseg = none → x.n = 1 → Runs (.fillb core k) s fun t => Ends core (g.upd fun c => { c with rsm := false, block := none }) i t) ∧
      (x.aseg = none → 1 < x.n → Runs (.fillb core k) s fun t => Ends core { g.upd fun c => { c with block := some (x.next p) } with flow := .stay } i t)) ∧
    (∀ (j a d m q : Nat), x.pa = .mem a → x.pd = .mem m → x.pn = .mem q → e0.sealedAt 3 x.dseg x.dptr false = false →
      (x.aseg = some j → e0.read 1 j x.aptr false = .ok (v, e1) → e1.place 3 x.dseg x.dptr false true = .ok (.mem d) →
        e0.moveWord x = .ok (.mem d, { ((((e1.put (.mem d) v).put (.mem a) (x.aptr + 1)).put (.mem m) (x.dptr + 1)).put (.mem q) (BitVec.ofNat 16 (x.n - 1))) with
          cyc := e0.cyc + x.each })) ∧
      (x.aseg = none → e0.place 3 x.dseg x.dptr false true = .ok (.mem d) →
        e0.moveWord x = .ok (.mem d, { (((e0.put (.mem d) x.fill).put (.mem m) (x.dptr + 1)).put (.mem q) (BitVec.ofNat 16 (x.n - 1))) with
          cyc := e0.cyc + x.each })) ∧
      (x.aseg = some j → e0.read 1 j x.aptr false = .error y → e0.moveWord x = .error y) ∧
      ((x.next (.mem d)).dptr = x.dptr + 1 ∧ (x.next (.mem d)).aptr = x.aptr + 1 ∧ (x.next (.mem d)).n = x.n - 1))

/-- An instruction that completes charges its cycles to the routine's bound outside interrupt handlers and moves its core's cycles
on. Execution goes on after its words, or at the pending target after a delay slot; a jump leaves its target pending; a wait, and
a block instruction between two words, stay on the instruction; a stalled context is STALLED. At the end of the lowest active loop
its count falls by 1 and execution goes back to its start unless the count is 0. A skip that holds passes over the next
instruction as a whole. Nothing else changes. (R249, R250, R252, R253, R256, R264, R272, R273) -/
def Obligations.InstructionCompletion : Prop :=
  (∀ (e : Ev) (i : Ins), e.block = false → e.stall = false →
    (NoLoopAt e.charged e.now →
      (e.flow = .seq → e.charged.slot = none → CompletesAs e i { e.charged with pc := e.charged.pc + BitVec.ofNat 16 i.size }) ∧
      (∀ x, e.flow = .seq → e.charged.slot = some x → CompletesAs e i { e.charged with pc := x, slot := none }) ∧
      (∀ x, e.flow = .jump x → e.charged.slot = none →
        CompletesAs e i { e.charged with pc := e.charged.pc + BitVec.ofNat 16 i.size, slot := some x })) ∧
    (∀ p, e.flow = .goto p → CompletesAs e i { e.charged with pc := p }) ∧
    (∀ w, e.flow = .wait w → CompletesAs e i { e.charged with st := .waiting, wait := w, markTime := e.s.frm.time, markCycle := e.now + e.cyc }) ∧
    (e.flow = .stay → CompletesAs e i { e.charged with rsm := true }) ∧
    (∀ n start count : Nat, n < 3 → e.flow = .seq → e.charged.slot = none → (e.charged.loopSeen e.now (6 + n)).toNat = count + 1 →
      e.charged.loopSeen e.now (3 + n) = e.charged.pc → (e.charged.loopSeen e.now n).toNat = start →
      (∀ j, j < n → e.charged.loopSeen e.now (6 + j) ≠ 0 → e.charged.loopSeen e.now (3 + j) ≠ e.charged.pc) →
      ∃ u, e.finish i = .ok u ∧ (u.ctx e.core e.k).loops.get 0 (6 + n) = BitVec.ofNat 16 count ∧
        (u.ctx e.core e.k).pc = (if count = 0 then e.charged.pc + BitVec.ofNat 16 i.size else BitVec.ofNat 16 start)) ∧
    (∀ (u : State) (f : Ev) (w : Word), e.flow = .skip → ({ e with flow := .seq } : Ev).finish i = .ok u →
      (u.ev e.core e.k).fetchWord (u.ctx e.core e.k).pc = .ok (w, f) →
      NoLoopAt f.ctx (u.now e.core e.k) →
      ∃ v, e.finish i = .ok v ∧ (v.ctx e.core e.k).pc = f.ctx.pc + (if w.toNat / 4096 = 15 then 4 else 1) ∧ (v.ctx e.core e.k).annul = false ∧
        v.mem = f.s.mem)) ∧
  (∀ (e : Ev) (i : Ins), e.block = false → e.stall = true → e.flow = .seq → e.charged.slot = none → NoLoopAt e.charged e.now →
    CompletesAs e i { e.charged with pc := e.charged.pc + BitVec.ofNat 16 i.size, st := .stalled, stallAt := e.since, stallEnd := e.now + e.cyc }) ∧
  (∀ e : Ev, e.charged.left = (if e.ctx.run.isSome && !e.ctx.inInt then e.ctx.left - e.cyc else e.ctx.left))

/-- A result word written to memory stands there and no other byte changes, the flags and PC are kept, and outside the core's own
local memory a routine makes a Scrim beat. The word of an even register half is held; the odd one makes one write of 4 bytes with
the held low half, or with 0. A write of words 30 and 31 through the context port sets USER's halves. A word read from the core's
own memory, with no old value of it still seen, is the word that stands there and changes nothing. (What the spec leaves open here
is read as logs 53, 55 say.) (R170, R236, R237, R242, R243, R273) -/
def Obligations.WordAccesses : Prop :=
  ∀ (e : Ev) (v l : Word) (a ch : Nat),
    (e.s.memOk → (e.put (.mem a) v).s.wordAt a = v ∧ MemOnly e.s (e.put (.mem a) v).s a 2 ∧ (e.put (.mem a) v).ctx.flags = e.ctx.flags ∧
      (e.put (.mem a) v).ctx.pc = e.ctx.pc ∧ (e.put (.mem a) v).block = e.block) ∧
    (isOwn e.core a = true → (e.put (.mem a) v).s = { e.s with cores := (e.put (.mem a) v).s.cores, mem := (e.put (.mem a) v).s.mem }) ∧
    (a % 4 = 0 → e.ctx.heldW = none → (e.putReg a v).ctx.heldW = some (a, v) ∧ (e.putReg a v).ctx.keptR = none ∧
      (e.putReg a v).s = { e.s with cores := (e.putReg a v).s.cores }) ∧
    (a % 4 = 0 → e.ctx.heldW = some (a, l) → e.ctx.run = none →
      (e.putReg (a + 2) v).s = (((e.s.updCtx e.core e.k fun c => { c with keptR := none }).updCtx e.core e.k fun c => { c with heldW := none }).regWrite
        (midOfCore e.core) e.k a 4 (BitVec.ofNat 64 (v ++ l : Word32).toNat))) ∧
    (a % 4 = 0 → e.ctx.heldW = none → e.ctx.run = none →
      (e.putReg (a + 2) v).s = (e.s.updCtx e.core e.k fun c => { c with keptR := none }).regWrite (midOfCore e.core) e.k a 4
        (BitVec.ofNat 64 (v.toNat * 65536))) ∧
    ((e.s.putLath ch 30 v).chan ch = { e.s.chan ch with user := BitVec.ofNat 32 ((e.s.chan ch).user.toNat / 65536 * 65536 + v.toNat) } ∧
      (e.s.putLath ch 31 v).chan ch = { e.s.chan ch with user := BitVec.ofNat 32 ((e.s.chan ch).user.toNat % 65536 + v.toNat * 65536) }) ∧
    (isOwn e.core a = true → e.ctx.staleAt e.now (.word a) false = none → e.load false (.mem a) = (e.s.wordAt a, e))

/-- The end of a stall makes the context READY again, charged for its cycles. The best offer to a core with a context to take it,
in no case of R288, and committed, enters its handler on that context with the source number in w0. A locked core whose test
passes and that locked up fewer than 3 times is recovered: unlocked, thawed, its contexts FREE; else it is out of service. A
Cornice core not recovered in 4 frames ends the programs of its tile with UNIT_FAULT. A HELD routine of a frozen core moves with
its private area. (What the spec leaves open here is read as logs 57, 60, 87 say.) (R191, R243, R284, R286, R290, R291, R331,
R443) -/
def Obligations.CoreEvents : Prop :=
  ∀ (s : State) (core k : Nat),
    (∀ cycles : Nat, (s.ctx core k).st = .stalled → (s.ctx core k).wait = .nothing → s.die = .ready →
      Runs (.coreReadComplete core k cycles) s fun t => (t.ctx core k).base = .ready ∧
        (t.ctx core k).left = (if (s.ctx core k).run.isSome && !(s.ctx core k).inInt then (s.ctx core k).left - cycles else (s.ctx core k).left) ∧
        (t.ctx core k).pc = (s.ctx core k).pc ∧ max (s.now core k) ((s.ctx core k).stallEnd + cycles) ≤ t.now core k ∧
        t = { s with cores := t.cores }) ∧
    (∀ (n p : Nat) (s0 s1 s2 : State), core < 72 → k < ctxCount core → (s.dom core).level = 0 → (s.arrange core).coreOk core = true →
      (s.arrange core).intCtx core = some k → s0 = ((s.arrange core).prepareCtx core k).declineAbsent core k →
      s0.bestOffer core k (s0.corePri core) = some (n, p) → s0.entryLock core k (16 + p) = none → s0.commitOffer n (memberOfCore core) = some s1 →
      s2 = s1.passWait core k → (s2.ctx core k).heldW = none → s.memOk →
      Runs (.interruptAccept core) s fun t => (t.ctx core k).depth = (s2.ctx core k).depth + 1 ∧ (t.ctx core k).ints = some p :: (s2.ctx core k).ints ∧
        (t.ctx core k).pc = s2.vectorWord core k (16 + p) ∧ (t.ctx core k).pl = 1 ∧ (t.ctx core k).run = (s2.ctx core k).run ∧
        (t.ctx core k).left = (s2.ctx core k).left ∧
        t.wordAt (localBase core + 2 * (wsWord core k + (t.ctx core k).wp.toNat)) = BitVec.ofNat 16 n ∧ t = { s1 with cores := t.cores, mem := t.mem }) ∧
    (core < 72 → s.locked core = true → (s.core core).out = false → s.die = .ready → s.noneWait → (∀ x ∈ s.chans, x.2.parked = false) →
      (s.core core).lockFrames.length < 3 →
      Runs (.coreRecoveryComplete core true) s fun t => t.locked core = false ∧ t.frozen core = false ∧ t.jseq = s.jseq ∧
        (t.core core).out = false ∧ (core < 64 → ∀ j, j < 8 → (t.ctx core j).st = .free ∧ (t.ctx core j).run = none) ∧
        (64 ≤ core → (t.ctx core 0).st = .ready ∧ (t.ctx core 0).pl = 1 ∧ ∀ j, 0 < j → j < 4 → (t.ctx core j).st = .free ∧ (t.ctx core j).run = none) ∧
        (∀ n, n ≠ core → t.core n = s.core n)) ∧
    (∀ ok : Bool, core < 64 → s.locked core = true → (s.core core).out = false → s.die = .ready → s.noneWait →
      (ok = false ∨ 3 ≤ (s.core core).lockFrames.length) →
      Runs (.coreRecoveryComplete core ok) s fun t => (t.core core).out = true ∧ t.locked core = true ∧ t.frozen core = s.frozen core ∧
        t.jseq = (if (s.core core).lockFrames.length < 3 then s.jseq + 1 else s.jseq) ∧
        (∀ n, n ≠ core → t.core n = s.core n)) ∧
    (∀ (tile ch f : Nat) (l : List Nat), tile < 8 → s.locked (64 + tile) = true → s.die = .ready → (s.core (64 + tile)).lockFrames = f :: l →
      f + 4 ≤ s.frm.frame.toNat → tileOfCh ch = tile → (s.chan ch).running = true → (s.chan ch).inRun = false → EndsQuietly s ch →
      (s.chans.filter fun e => tileOfCh e.1 == tile && e.2.running).map (·.1) = [ch] →
      Runs (.corniceLockTimeout tile) s fun t => (t.chan ch).st = .error ∧ (t.chan ch).lastStatus = stUnitFault ∧ ProgramOf s t ch) ∧
    (∀ (r : RunInfo) (core' k' : Nat), (s.ctx core k).run = some r → core < 64 → s.die = .ready → s.frozen core = true → s.locked core = false →
      (s.ctx core k).st = .held → (s.ctx core k).depth = 0 → (s.ctx core k).atBoundary = true → (s.ctx core k).wait = .nothing →
      s.migrateTo core (decide (s.kindOf r.cls = 2)) = some (core', k') → s.noneWait → s.memOk →
      Runs (.contextMigrate core k) s fun t => (t.ctx core' k').run = some r ∧ (t.ctx core' k').pc = (s.ctx core k).pc ∧
        (t.ctx core' k').left = (s.ctx core k).left ∧ (t.ctx core' k').wp = (s.ctx core k).wp ∧
        ((t.ctx core' k').segReg 0).base = BitVec.ofNat 32 (aliasAddr (privWord core' k')) ∧ (t.ctx core k).st = .free ∧ (t.ctx core k).run = none ∧
        t.bytesAt (localBase core' + 2 * privWord core' k') 512 = s.bytesAt (localBase core + 2 * privWord core k) 512 ∧
        MemOnly s t (localBase core' + 2 * privWord core' k') 512 ∧ (t.chan r.ch).core = core' ∧ (t.chan r.ch).ctx = k' ∧
        ProgramOf { s with cores := t.cores, mem := t.mem } t r.ch)

/-- A domain idle at L0 moves to its target, at L3 with its cells taken for it; a wake of a resting domain starts once with its
cause, and its end gives L0 and frees the cells. The die enters L4 where R407 holds, wakes for the timer, PAIR_PRESENT_N and a
link, and leaves it with TIME advanced, HOLDOVER set and every domain at L0. A supply warning begins Hold; its timeout, and the
loss of REFCLK, halt the die: nothing leaves a module any more, held records are written, FENCE_OUT_N is released. A rail's reset,
POR_N and group resets reset what they name. (What the spec leaves open here is read as logs 32, 43, 44, 45 say.) (R77, R192,
R194, R398, R402, R404, R405, R408, R412, R413, R415, R418) -/
def Obligations.PowerRestWakeAndSupply : Prop :=
  ∀ (s : State) (d : Nat),
    (∀ n : Nat, s.die = .ready → d < 134 → (s.dom d).level = 0 → (s.dom d).waking = false → s.domIdle d = true → s.domTarget d = n → 0 < n →
      (n < 3 → Runs (.domainIdleExpiry d) s fun t => (t.dom d).level = n ∧ (∀ j, j ≠ d → t.dom j = s.dom j) ∧ t = { s with pwr := t.pwr }) ∧
      (n = 3 → (s.parkDom d).isSome = true → Runs (.domainIdleExpiry d) s fun t => (t.dom d).level = 3 ∧ (t.dom d).cells.length = parkCells d ∧
        (∀ c ∈ (t.dom d).cells, t.cell c = .parked d) ∧ (∀ j, j ≠ d → t.dom j = s.dom j) ∧
        t = { s with pwr := t.pwr, hawk := t.hawk, mem := t.mem, freeNext := t.freeNext }) ∧
      (n = 3 → s.parkDom d = none → Runs (.domainIdleExpiry d) s fun t => (t.dom d).level = 2 ∧ t = { s with pwr := t.pwr })) ∧
    (∀ cause : BitVec 4, d < 134 → isLinkDom d = false → (s.dom d).level ≠ 0 → (s.dom d).waking = false →
      Runs (.wakeRequest d cause) s fun t => (t.dom d).waking = true ∧ t.pwr.wakeDom.toNat = d ∧ t.pwr.wakeCause = cause ∧
        (∀ j, j ≠ d → t.dom j = s.dom j) ∧ t = { s with pwr := t.pwr }) ∧
    ((s.dom d).waking = true → s.noneWait →
      Runs (.domainWakeComplete d) s fun t => (t.dom d).level = 0 ∧ (t.dom d).waking = false ∧ (∀ c ∈ (s.dom d).cells, s.cell c ≠ .retired → t.cell c = .free) ∧
        (s.memOk → d < 72 → (s.dom d).level = 3 → (s.dom d).cells.length = 137 →
          t.bytesAt (coreParked d).1 (coreParked d).2 = (s.parkedBytes (s.dom d).cells).take (coreParked d).2) ∧
        t = { s with pwr := t.pwr, hawk := t.hawk, mem := t.mem }) ∧
    (s.l4Ready = true → Runs (.l4Entry) s fun t => t.die = .l4 ∧ t.jheld = [] ∧ t = { s with die := t.die, journal := t.journal, jheld := t.jheld, pwr := t.pwr }) ∧
    (s.die = .l4 → s.pwr.l4waking = false → s.pwr.l4wake ≠ 0 →
      Runs (.l4TimerWake) s fun t => t = { s with pwr := { s.pwr with wakeDom := 0xFF, wakeCause := 8, l4waking := true }, wakeOut := true }) ∧
    (s.die ≠ .l4 → Runs (.pairPresentFall) s fun t => t = { s with ds := { s.ds with present := true }, pwr := t.pwr }) ∧
    (s.die = .l4 → s.pwr.l4waking = false → s.pwr.doms = [] →
      Runs (.pairPresentFall) s fun t => t.pwr = { s.pwr with wakeDom := 0xFF, wakeCause := 9, l4waking := true } ∧
        t = { s with ds := { s.ds with present := true }, wakeOut := true, pwr := t.pwr }) ∧
    (∀ md : Nat, md < 2 → (s.link md).lstate = 2 →
      Runs (.ucieL2Exit md) s fun t => t.link md = { s.link md with exiting := true } ∧ t.link (otherMd md) = s.link (otherMd md) ∧
        (s.die = .l4 → s.pwr.l4waking = false → t.pwr = { s.pwr with wakeDom := 0xFF, wakeCause := 7, l4waking := true })) ∧
    (∀ n : Nat, s.die = .l4 → s.pwr.l4waking = true →
      Runs (.l4ExitComplete n) s fun t => t.die = .ready ∧ t.frm.time = BitVec.ofNat 64 (s.frm.time.toNat + n * 100000000 / 32768) ∧ t.frm.holdover = true ∧
        t.frm.locked = false ∧ t.frm.frame = s.frm.frame ∧ (∀ j, (t.dom j).level = 0) ∧ t.pwr.l4waking = false ∧
        t.queues = s.queues ∧ t.journal = s.journal ∧ t.prm = s.prm) ∧
    (∀ r : Nat, r < 3 → s.die = .ready → s.hold = false →
      Runs (.supplyWarn r) s fun t => t.hold = true ∧ t.pwr.dips = satInc s.pwr.dips ∧ bitOf t.frm.flags 0 = true ∧ t.pwr.warns = true ∧ t.jheld = [] ∧
        (∀ a, a < 37 → (t.scr a).hold = true) ∧ t.chans = s.chans ∧ t.queues = s.queues ∧ t.mem = s.mem) ∧
    (Runs (.supplyWarnRelease 0) s fun t => t = { s with pwr := { s.pwr with vddWarn := false } }) ∧
    (Runs (.supplyWarnRelease 2) s fun t => t = { s with pwr := { s.pwr with pmicWarn := false } }) ∧
    (s.hold = true → s.die = .ready → s.pwr.warns = true → s.pwr.holdAt + 300000 ≤ s.frm.count →
      Runs (.holdTimeout) s fun t => t.die = .halted ∧ t.pwr.goodLost = true ∧ t.jheld = [] ∧ t.link0.queue = [] ∧ t.link1.queue = [] ∧
        t.ds.fenceOut = false ∧ (s.paired = false → t.mled = []) ∧ t.frm = s.frm ∧ t.queues = s.queues) ∧
    (∀ r : Nat, r < 2 → Runs (.supplyReset r) s fun t => t.die = .reset ∧ t.prm.due = 0 ∧ t.jheld = [] ∧ t.journal = s.journal ∧ t.queues = [] ∧ t.chans = [] ∧
      (∀ b, mramBase ≤ b → Memory.get t.mem b = Memory.get s.mem b)) ∧
    (s.die = .ready → Runs (.refclkLoss) s fun t => t.die = .halted ∧ t.pwr.refclkOk = false ∧ t.jheld = [] ∧ t.link0.queue = [] ∧
      t.ds.fenceOut = false ∧ t.frm = s.frm) ∧
    (Runs (.xtalStop) s fun t => t = { s with pwr := { s.pwr with xtalOk := false } }) ∧
    (Runs (.xtalStart) s fun t => t = { s with pwr := { s.pwr with xtalOk := true } }) ∧
    (Runs (.porNFall) s fun t => t.porLow = true ∧ t.die = .reset ∧ t.prm.due = 0 ∧ t.jheld = [] ∧ t.journal = s.journal ∧ t.queues = [] ∧ t.chans = []) ∧
    (∀ g : Nat, s.die = .ready → s.noneWait → (s.dom g).waking = false → (s.dom g).level = 0 →
      (g < 72 → (∀ k, k < 8 → (s.ctx g k).run = none) → Runs (.groupReset 0x10 g) s fun t => (∀ k, (t.ctx g k).st = .free) ∧ (t.core g).cycle = 0 ∧
        (∀ j, j ≠ g → t.core j = s.core j)) ∧
      (g = 124 → Runs (.groupReset 0x10 g) s fun t =>
        t = { s with frm := { s.frm with pairLock := false }, ds := { s.ds with lanes := 0, aligned := 0, unacked := [], txWait := [], txSeq := 0, rxSeq := 0 } }) ∧
      (g = 125 ∨ g = 126 → Runs (.groupReset 0x10 g) s fun t => t.link (g - 125) = { conn := (s.link (g - 125)).conn } ∧
        t.link (126 - g) = s.link (126 - g)))

/-- A start whose steps pass, of a die without a partner, with no step at its limit, a readable boot block and no bad image, ends
READY at step 13: one more start counted, the kind noted, the modules of the next attach mode up, FENCE_OUT_N low, and every queue
and channel at reset. WARMRST_N low writes the held records and resets the die; PRM_CTL restarts a STOPPED die, clears the retry
counters or asks for a cleared fallback. PRM_SWAP notes a swap for the next tick or says why not. A freeze holds READY contexts at
their boundary; a flush writes every held record in order. (What the spec leaves open here is read as logs 33, 42, 46 say.) (R421,
R422, R425, R426, R431, R442, R445, R447) -/
def Obligations.StartsFreezesSwapsAndJournal : Prop :=
  ∀ (s : State) (r : StartRun) (m : Nat),
    (s.die = .reset → r.fail = none → s.ds.present = false → (∀ k, s.prm.count k ≠ 3) →
      ({ s.prm with s3Variant := if s.prm.clrFallback then 0 else s.prm.s3Variant } : Prm).bootLost = false →
      (∀ b : Bool, s.leAt (slotBase b) 4 = 0 ∨ s.imageOk b none = true) →
      (s.prm.due = 0 → s.porLow = true → Runs (.coldStart r) s fun t => Started s r false t ∧ t.porLow = false) ∧
      (s.prm.due = 1 → s.porLow = false → Runs (.warmStart r) s fun t => Started s r true t ∧ t.warmLow = false) ∧
      (s.prm.due = 2 → s.porLow = false → s.warmLow = false → Runs (.selfRestart r) s fun t => Started s r true t)) ∧
    (s.porLow = false → ¬(s.die = .reset ∧ s.prm.due = 0) → Runs (.warmrstFall) s fun t => t.warmLow = true ∧ t.die = .reset ∧ t.prm.due = 1 ∧ t.jheld = [] ∧
      t.journal = s.flushJournal.journal ∧ t.queues = [] ∧ t.chans = []) ∧
    (s.porLow = true ∨ (s.die = .reset ∧ s.prm.due = 0) → Runs (.warmrstFall) s fun t => t = { s with warmLow := true }) ∧
    (s.admits m 0x4040 = true → prmMay m = true →
      (s.prm.st = 2 → Runs (.prmRestart m) s fun t => t.die = .reset ∧ t.prm.due = 1 ∧ t.jheld = [] ∧ t.journal = s.flushJournal.journal ∧ t.chans = []) ∧
      (s.prm.st ≠ 2 → Runs (.prmRestart m) s fun t => t = s) ∧
      (Runs (.clrRetry m) s fun t => t = { s with prm := { s.prm with retry := [] } }) ∧
      (Runs (.clrFallback m) s fun t => t = { s with prm := { s.prm with clrFallback := true } })) ∧
    (∀ (v : Word64) (old new tiles : Nat) (crn : Bool), s.admits m 0x4058 = true → prmMay m = true → old = v.toNat % 4096 → new = v.toNat / 4096 % 4096 →
      crn = v.getLsbD 24 → tiles = v.toNat / 2 ^ 32 % 256 → tiles ≠ 0 →
      (s.swapPending = true → Runs (.prmSwap m v) s fun t => t = { s with prm := { s.prm with swapResult := 3, swapWhy := 1 } }) ∧
      (s.swapPending = false → (∃ i ∈ tilesOf tiles, s.routine i old crn = none ∨ s.routine i new crn = none) →
        Runs (.prmSwap m v) s fun t => t = { s with prm := { s.prm with swapResult := 3, swapWhy := 2 } }) ∧
      (s.swapPending = false → (∀ i ∈ tilesOf tiles, (s.routine i old crn).isSome = true ∧ ∃ x, s.routine i new crn = some x ∧ s.boundUnfit crn x.bound = false) →
        Runs (.prmSwap m v) s fun t => t.commits = s.commits ++ [{ what := .swap old new crn (BitVec.ofNat 8 tiles), frame := s.frm.frame.toNat + 1, reply := none }] ∧
          t.prm = { s.prm with swapOld := old, swapNew := new, swapCrn := crn, swapTiles := BitVec.ofNat 8 tiles, swapResult := 1, swapWhy := 0 } ∧
          t = { s with commits := t.commits, prm := t.prm, ds := t.ds })) ∧
    (∀ v : Word64, s.admits m 0x20 = true → isConfigMaster m = true → s.noneWait → (∀ e ∈ s.chans, e.2.parked = false) →
      Runs (.gctlFreeze m v) s fun t => t.gctl.freeze = v ∧
        (∀ core k, core < 64 → k < 8 → v.getLsbD core = true → (s.ctx core k).st = .ready → (s.ctx core k).atBoundary = true →
          (s.ctx core k).depth = 0 → (t.ctx core k).st = .held ∧ (t.ctx core k).pc = (s.ctx core k).pc) ∧
        t.gctl = { s.gctl with freeze := v } ∧ Reports { s with cores := t.cores } t) ∧
    (∀ v : Word32, s.admits 0x10 0x28 = true → s.noneWait → (∀ e ∈ s.chans, e.2.parked = false) →
      Runs (.gctlFreezeCrn 0x10 v) s fun t => t.gctl = { s.gctl with freezeCrn := v.setWidth 8 } ∧ Reports { s with cores := t.cores } t) ∧
    (s.jheld ≠ [] → Runs (.journalFlush) s fun t => t.jheld = [] ∧ t.journal = fitUnits (s.jheld ++ s.journal) journalUnits ∧
      t = { s with journal := t.journal, jheld := t.jheld, pwr := t.pwr })

/-- A heartbeat of a driving partner keeps what it shows; a standby takes ADJ and the period. A standby in sync takes over when
its partner halts, or at the third missed heartbeat with FENCE_IN_N high; an active die marks its partner out of sync at the
second, and where a gate waits 20 µs for its acknowledgement: the fence pulse begins. An ACK drops frames, a NACK sends them
again. A mirroring standby applies LEDGER, LATH, QUEUE, EGRESS, BOUNDARY, CONFIG and BULK. Join, handover, lanes, the tick set,
fence pins and arbitration do what their rules say. (What the spec leaves open here is read as logs 66, 67, 68, 70, 71 say.)
(R177, R208, R450, R452, R453, R457, R460, R462, R463, R464, R471, R472) -/
def Obligations.PairFramesAndRoles : Prop :=
  ∀ (s : State) (h : DsHdr), Hears s h →
    (∀ b : Heartbeat, b.role = 1 → b.halting = false → b.serial = s.ds.peerSerial → s.ds.role = 2 →
      Runs (.heartbeat h b) s fun t => t.ds.gotHb = true ∧ t.ds.miss = 0 ∧ t.ds.peerRole = 1 ∧ t.ds.peerHb.toNat = h.frame.toNat % 2 ^ 32 ∧
        t.ds.peerEqs0 = b.eqs0 ∧ t.ds.peerEqs1 = b.eqs1 ∧ t.frm = { s.frm with adj := b.adj, periodAct := b.period.setWidth 20 } ∧
        t = { s with ds := t.ds, frm := t.frm }) ∧
    (∀ b : Heartbeat, b.role = 1 → b.halting = true → b.serial = s.ds.peerSerial → s.ds.role = 2 → s.ds.sub = 1 → s.ds.handDue = false → s.ds.fenceIn = false →
      s.queues = [] → s.ports = [] → s.chans = [] →
      Runs (.heartbeat h b) s fun t => t.ds.role = 0 ∧ t.ds.fenceOut = true ∧ t.ds.taking = true ∧
        t.ds.take.toNat = (s.frm.frame.toNat + 1) % 2 ^ 32 ∧ t.jseq = s.jseq + 1 ∧ t.frm.holdover = true) ∧
    (∀ b : Heartbeat, b.role = 2 → b.serial = s.ds.peerSerial → s.ds.role = 1 → s.ds.sub ≠ 2 → 2 ≤ (s.ds.lastHb - b.lastHb).toInt →
      Runs (.heartbeat h b) s fun t => t.ds.sub = 2 ∧ t.ds.role = 1 ∧ t.ds.joinStep = 0 ∧ t.ds.fenceOut = false ∧ t.ds.pulse = some s.frm.time) ∧
    (s.ds.role = 2 → s.ds.gotHb = true → Runs (.heartbeatCheck) s fun t => t = { s with ds := { s.ds with gotHb := false } }) ∧
    (s.ds.role = 2 → s.ds.gotHb = false → s.hold = false → s.ds.miss < 2 →
      Runs (.heartbeatCheck) s fun t => t = { s with ds := { s.ds with miss := s.ds.miss + 1 } }) ∧
    (s.ds.role = 2 → s.ds.gotHb = false → s.hold = false → s.ds.miss = 2 → s.ds.sub = 1 → s.ds.handDue = false → s.ds.fenceIn = false → s.queues = [] →
      s.ports = [] → s.chans = [] → Runs (.heartbeatCheck) s fun t => t.ds.role = 0 ∧ t.ds.fenceOut = true ∧ t.ds.taking = true ∧ t.jseq = s.jseq + 1) ∧
    (s.ds.role = 2 → s.ds.gotHb = false → s.hold = false → s.ds.miss = 2 → s.ds.handDue = false → s.ds.fenceIn = true →
      Runs (.heartbeatCheck) s fun t => t.ds.role = 2 ∧ t.ds.sub = 2 ∧ t.ds.fenceOut = s.ds.fenceOut) ∧
    (∀ (g : DsHdr) (old rest : List TxFrame), g.crcOk = true → g.lenOk = true → g.frame = h.frame → splitAck s.ds.unacked g.ack = some (old, rest) →
      s.chans = [] → s.queues = [] → s.ds.gated = [] → s.ds.txWait = [] →
      Runs (.ack g) s fun t => t.ds.unacked = rest ∧ t.ds.rxSeq = s.ds.rxSeq ∧ t.ds.sub = s.ds.sub) ∧
    (∀ expect : BitVec 16, (∀ f ∈ s.ds.unacked, f.tries = 1) →
      Runs (.nack h expect) s fun t => t.ds.unacked = (s.ds.unacked.takeWhile fun f => f.seq ≠ expect) ++
          (s.ds.unacked.dropWhile fun f => f.seq ≠ expect).map (fun f => { f with tries := 2 }) ∧
        t.ds.retry.toNat = min 0xFFFF (s.ds.retry.toNat + (s.ds.unacked.dropWhile fun f => f.seq ≠ expect).length) ∧ t = { s with ds := t.ds }) ∧
    (s.mirrors = true →
      (∀ (w : BitVec 256) (k : Nat), bitsOf w 13 2 = 1 → (∀ e ∈ s.ledger, e.2.ch ≠ bitsOf w 0 12 ∧ e.1 ≠ k) →
        s.freeEntry (tileOfCh (bitsOf w 0 12)) = some k →
        Runs (.ledger h [w]) s fun t => (∃ e ∈ t.ledger, e.1 = k ∧ e.2.ch = bitsOf w 0 12 ∧ e.2.rs = w.getLsbD 12 ∧ e.2.st = 1 ∧
          e.2.ccw = BitVec.ofNat 64 (bitsOf w 64 64)) ∧ (∀ e ∈ s.ledger, e ∈ t.ledger) ∧ t = { s with ds := t.ds, ledger := t.ledger }) ∧
      (∀ (ch : Nat) (w v : BitVec 128), Runs (.lath h [{ ch, groups := [(0, w), (1, v)], recov := none }]) s fun t =>
        (t.chan ch).lastStatus = BitVec.ofNat 16 (bitsOf w 16 16) ∧ (t.chan ch).ccwa = BitVec.ofNat 64 (bitsOf w 64 64) ∧ (t.chan ch).bound = w.getLsbD 42 ∧
          (t.chan ch).arg = BitVec.ofNat 64 (bitsOf v 0 64) ∧ (t.chan ch).data = BitVec.ofNat 64 (bitsOf v 64 64) ∧
          (∀ j, j ≠ ch → t.chan j = s.chan j) ∧ Acked { s.received with chans := t.chans, ledger := t.ledger } t) ∧
      (∀ r : QueueRec, Runs (.queue h [r]) s fun t => (t.q r.q).head = r.head ∧ (t.q r.q).fetch = r.fetch ∧ (t.q r.q).prod = r.prod ∧
        (t.q r.q).why = r.why ∧ (r.st = 1 → (t.q r.q).st = .running) ∧ (∀ j, j ≠ r.q → t.q j = s.q j) ∧ Acked { s.received with queues := t.queues } t) ∧
      (∀ r : EgressRec, Runs (.egress h [r]) s fun t => t.ds.mirror = s.ds.mirror ++ [r] ∧ t = { s with ds := t.ds, queues := t.queues }) ∧
      (∀ (q : Nat) (c : Word32), s.ds.joinStep = 3 →
        Runs (.boundary h [.prod q c]) s fun t => t.ds.sub = 1 ∧ t.ds.joinStep = 0 ∧ (t.q q).prod = c ∧ ∀ j, j ≠ q → t.q j = s.q j) ∧
      (∀ n : BitVec 18, Runs (.config h [.node n]) s fun t => Acked { s.received with kmd := { s.kmd with node := some n } } t) ∧
      (s.ds.joinStep ≠ 0 → Runs (.bulk h [] [] []) s fun t => t.ds.joinStep = 3 ∧ t = { s with ds := t.ds })) ∧
    (∀ ver : BitVec 16, s.ds.role = 1 → ver = s.prm.stateVer ∨ ver = s.prm.stateVer - 1 →
      Runs (.join h 1 ver) s fun t => Acked { s.received with ds := { s.received.ds with sub := 0, joinStep := 2, peerMiss := 0 } } t) ∧
    (∀ ver : BitVec 16, s.ds.role = 1 → s.ds.joinStep ≠ 0 →
      Runs (.join h 4 ver) s fun t => t.ds.sub = 1 ∧ t.ds.joinStep = 0 ∧ t.mled = []) ∧
    (∀ a b : Word32, s.ds.role = 2 → s.ds.sub = 1 →
      Runs (.handover h a b) s fun t => t.ds.handDue = true ∧ t.ds.role = 2 ∧ t.ds.peerEqs0 = a ∧ t.ds.peerEqs1 = b ∧ t = { s with ds := t.ds }) ∧
    (∀ lane : Nat, lane < 2 →
      (Runs (.align lane) s fun t => t.ds.aligned.getLsbD lane = true ∧ t.ds.aligned.getLsbD (1 - lane) = s.ds.aligned.getLsbD (1 - lane) ∧ t = { s with ds := t.ds }) ∧
      (Runs (.laneUp lane) s fun t => t.ds.lanes.getLsbD lane = true ∧ t.ds.aligned.getLsbD lane = true ∧ t = { s with ds := t.ds }) ∧
      (s.ds.lanes.getLsbD lane = true → s.ds.joinStep = 0 → Runs (.laneDown lane) s fun t => t.ds.lanes.getLsbD lane = false ∧
        t.ds.lanes.getLsbD (1 - lane) = s.ds.lanes.getLsbD (1 - lane) ∧ t.ds.down = satInc s.ds.down ∧
        t = { s with ds := t.ds, frm := { s.frm with pairLock := s.frm.pairLock && t.dsUp } })) ∧
    (∀ (f : BitVec 48) (off : Int), s.ds.role = 2 → s.ds.peerRole ≠ 2 → (s.frm.pairLock = false ∨ off.natAbs ≤ 100) →
      Runs (.tickOrderedSet f off) s fun t => t.frm.next = s.frm.next + BitVec.ofInt 64 off ∧ t.frm.pairLock = decide (off.natAbs ≤ 4) ∧
        t.frm.frame = (if 0 ≤ off then f else f - 1) ∧ t = { s with frm := t.frm }) ∧
    (∀ v : Bool, Runs (.fenceEcho v) s fun t => t = { s with ds := { s.ds with echo := v, fenceIn := !v } }) ∧
    (∀ (g : Gated) (f : TxFrame), s.paired = true → g ∈ s.ds.gated → f ∈ s.ds.unacked ++ s.ds.txWait → g.id = f.id →
      2000 ≤ (s.frm.time - f.madeAt).toNat →
      Runs (.ackTimeout) s fun t => t.ds.sub = 2 ∧ t.ds.timeouts = satInc s.ds.timeouts ∧ t.ds.fenceOut = false ∧ t.ds.pulse = some s.frm.time ∧
        g ∈ t.ds.gated) ∧
    (Runs (.fenceInRise) s fun t => t = { s with ds := { s.ds with fenceIn := false, watching := decide (s.ds.role = 2) } }) ∧
    (s.ds.watching = true → s.ds.role = 2 → Runs (.fenceWatchExpiry true) s fun t => t.ds.sub = s.ds.sub ∧ t.ds.fenceIn = false ∧ t.ds.watching = false ∧ t = { s with ds := t.ds }) ∧
    (s.ds.watching = true → s.ds.role = 2 → Runs (.fenceWatchExpiry false) s fun t => t.ds.sub = 2 ∧ t.ds.fenceIn = true ∧ t.ds.watching = false) ∧
    (∀ (u : State) (k : Nat), u.die = .reset → u.ds.arbRound = some k →
      (Runs (.fenceArbitrationRound true false) u fun t => t = { u with ds := { u.ds with arbRound := some (k + 1) } }) ∧
      (u.prm.count 12 ≠ 3 → u.prm.s12Fail = none → Runs (.fenceArbitrationRound true true) u fun t => t.die = .ready ∧ t.ds.role = 0 ∧ t.ds.fenceOut = true ∧ t.ds.arbRound = none) ∧
      (u.prm.count 12 ≠ 3 → u.prm.s12Fail = none → Runs (.fenceArbitrationRound false false) u fun t => t.die = .ready ∧ t.ds.role = 2 ∧ t.ds.fenceOut = false ∧ t.ds.arbRound = none))

/-- A good DATA frame ahead of its sender's cache line joins its mailbox in a cell granted to SYSTEM, is counted, cached and
acknowledged; a repetition is answered as before; role or epoch unlike the mailbox's, a full mailbox and one not enabled get
BOUNCE and REFUSE. A frame with no receive key counts in AUTH and is journalled, an invalid one in DROPPED. ACK, REFUSE and BOUNCE
end the SIGNAL that waits. ANNOUNCE updates AUTO entries behind it by 1 to 32,767. After RETX without an answer the frame is sent
again, up to RETRIES times, then the SIGNAL ends. (What the spec leaves open here is read as logs 63, 64, 65 say.) (R304, R305,
R394, R430, R468, R476, R477, R478, R479, R480, R481, R483) -/
def Obligations.KomondFrames : Prop :=
  ∀ (s : State) (mac : Nat) (b : List Byte) (f : KmdFrame),
    (KmdTaken s 1 mac b f → s.stampOk f = true → f.dstNode ≠ kmdBroadcast →
      ((∀ r ∈ s.kmd.cache, r.node ≠ f.srcNode ∨ r.seq < f.seq) →
        (∀ (k : Nat) (s1 : State), (s.mbx f.dstMbx).role = f.role → (s.mbx f.dstMbx).epoch = f.epoch → (s.mbx f.dstMbx).full = false →
          (s.mbx f.dstMbx).en = true → (s.mbx f.dstMbx).armed = false → s.memOk → s.grantProducer 21 3 sysAcct (.mbx f.dstMbx) = some (k, s1) →
          Runs (.kmdData mac b) s fun t =>
            (t.mbx f.dstMbx).msgs = (s.mbx f.dstMbx).msgs ++ [{ cell := k, sender := 0x100, len := f.msg.length }] ∧ t.cell k = .mbx f.dstMbx ∧
            t.bytesAt (cellAddr k) f.msg.length = f.msg ∧ (∀ j, j ≠ f.dstMbx → t.mbx j = s.mbx j) ∧
            t.kmd = { (s.answerKmd f 2 0 f.role f.epoch).kmd with
                                 rx := satInc s.kmd.rx,
                                 cache := (s.kmd.remember { node := f.srcNode, seq := f.seq, ty := 2, reason := 0, role := f.role, epoch := f.epoch }).cache } ∧
            Reports { s with mbxs := t.mbxs, hawk := t.hawk, mem := t.mem, kmd := t.kmd, freeNext := t.freeNext } t) ∧
        ((s.mbx f.dstMbx).role ≠ f.role ∨ (s.mbx f.dstMbx).epoch ≠ f.epoch →
          Runs (.kmdData mac b) s fun t => t.jseq = s.jseq + 1 ∧
            t.kmd = { (s.answerKmd f 4 0 (s.mbx f.dstMbx).role (s.mbx f.dstMbx).epoch).kmd with
                                 bounced := satInc s.kmd.bounced,
                                 cache := (s.kmd.remember { node := f.srcNode, seq := f.seq, ty := 4, reason := 0, role := (s.mbx f.dstMbx).role,
                                                            epoch := (s.mbx f.dstMbx).epoch }).cache } ∧ Reports { s with kmd := t.kmd } t) ∧
        ((s.mbx f.dstMbx).role = f.role → (s.mbx f.dstMbx).epoch = f.epoch → (s.mbx f.dstMbx).full = true →
          Runs (.kmdData mac b) s fun t => t.mbx f.dstMbx = { s.mbx f.dstMbx with refused := satInc (s.mbx f.dstMbx).refused } ∧
            (∀ j, j ≠ f.dstMbx → t.mbx j = s.mbx j) ∧
            t.kmd = { (s.answerKmd f 3 1 f.role f.epoch).kmd with
                                 cache := (s.kmd.remember { node := f.srcNode, seq := f.seq, ty := 3, reason := 1, role := f.role, epoch := f.epoch }).cache } ∧
            t = { s with mbxs := t.mbxs, kmd := t.kmd }) ∧
        ((s.mbx f.dstMbx).role = f.role → (s.mbx f.dstMbx).epoch = f.epoch → (s.mbx f.dstMbx).full = false → (s.mbx f.dstMbx).en = false →
          Runs (.kmdData mac b) s fun t =>
            t = { s with kmd := { (s.answerKmd f 3 2 f.role f.epoch).kmd with
              cache := (s.kmd.remember { node := f.srcNode, seq := f.seq, ty := 3, reason := 2, role := f.role, epoch := f.epoch }).cache } })) ∧
      (∀ r : Replay, s.kmd.cache.find? (fun r => r.node == f.srcNode) = some r → r.seq = f.seq → r.ty ≠ 0 →
        Runs (.kmdData mac b) s fun t =>
          t = { s with kmd := { (s.answerKmd f r.ty r.reason r.role r.epoch).kmd with cache := (s.kmd.remember r).cache } })) ∧
    (KmdComes s mac → (kmdParse b).ty = 1 → kmdValid b = false →
      Runs (.kmdData mac b) s fun t => t = { s with kmd := { s.kmd with dropped := satInc s.kmd.dropped } }) ∧
    (KmdComes s mac → (kmdParse b).ty = 1 → kmdValid b = true → (∀ e ∈ s.kmd.keys, ¬ (e.2.rx = true ∧ e.2.id.toNat = (kmdParse b).keyId)) →
      Runs (.kmdData mac b) s fun t => t.kmd = { s.kmd with auth := satInc s.kmd.auth } ∧ t.jseq = s.jseq + 1 ∧ Reports { s with kmd := t.kmd } t) ∧
    (s.stampOk f = true → s.kmdAnswers f = true →
      (KmdTaken s 2 mac b f → CcwGoesOn s f.ch → Runs (.kmdAck mac b) s fun t => (t.chan f.ch).ccwa = (s.chan f.ch).ccwa + 16 ∧
        (t.chan f.ch).cond = BitVec.ofNat 16 ((s.chan f.ch).cond.toNat / 256 * 256) ∧ (t.chan f.ch).xfer.kmdSeq = none ∧ ProgramOf s t f.ch) ∧
      ((s.chan f.ch).xfer.sl = true → KmdTaken s 3 mac b f → CcwGoesOn s f.ch → Runs (.kmdRefuse mac b) s fun t =>
        (t.chan f.ch).ccwa = (s.chan f.ch).ccwa + 16 ∧ (t.chan f.ch).cond = BitVec.ofNat 16 ((s.chan f.ch).cond.toNat / 256 * 256 + 4) ∧ ProgramOf s t f.ch) ∧
      ((s.chan f.ch).xfer.sl = false → EndsQuietly s f.ch →
        (KmdTaken s 3 mac b f → Runs (.kmdRefuse mac b) s fun t => (t.chan f.ch).st = .error ∧ (t.chan f.ch).lastStatus = stMbxFull ∧ ProgramOf s t f.ch) ∧
        (KmdTaken s 4 mac b f → Runs (.kmdBounce mac b) s fun t => (t.chan f.ch).st = .error ∧ (t.chan f.ch).lastStatus = stRoleChanged ∧
          t.kmd = { s.kmd with bouncesRx := satInc s.kmd.bouncesRx, lastNode := BitVec.ofNat 18 f.srcNode, lastMbx := BitVec.ofNat 8 f.dstMbx,
                               lastRole := f.role, lastEpoch := f.epoch } ∧ ProgramOf { s with kmd := t.kmd } t f.ch))) ∧
    (KmdTaken s 5 mac b f → s.stampOk f = true → Runs (.kmdAnnounce mac b) s fun t =>
      (∀ e ∈ s.kmd.peers, e.2.v = true → e.2.auto = true → e.2.node.toNat = f.srcNode → e.2.mbx.toNat = f.dstMbx → 1 ≤ (f.epoch - e.2.epoch).toNat →
        (f.epoch - e.2.epoch).toNat ≤ 32767 → (e.1, { e.2 with role := f.role, epoch := f.epoch }) ∈ t.kmd.peers) ∧
      (∀ e ∈ s.kmd.peers, (e.2.auto = false ∨ e.2.node.toNat ≠ f.srcNode ∨ f.epoch = e.2.epoch ∨ 32767 < (f.epoch - e.2.epoch).toNat) → e ∈ t.kmd.peers) ∧
      t = { s with kmd := { s.kmd with peers := t.kmd.peers } }) ∧
    (∀ (ch : Nat) (seq : Word32) (n : Nat), (s.chan ch).st = .active → (s.chan ch).xfer.phase = .node → (s.chan ch).xfer.kmdSeq = some (seq, n) →
      (s.chan ch).xfer.kmdAt + 1000 * max 1 s.kmd.retx.toNat ≤ s.frm.time.toNat →
      (n < s.kmd.retries.toNat → s.kmdCan = true → bitsOf (s.chan ch).xfer.param 8 18 ≠ kmdBroadcast → s.noneWait →
        Runs (.komondRetx ch) s fun t => t.kmd = { (s.kmdSend (s.dataFrame ch seq)).kmd with retxN := satInc s.kmd.retxN, tx := satInc s.kmd.tx } ∧
          (t.chan ch).xfer.kmdSeq = some (seq, n + 1) ∧ (t.chan ch).xfer.kmdAt = s.frm.time.toNat ∧ (∀ j, j ≠ ch → t.chan j = s.chan j) ∧ t = { s with chans := t.chans, kmd := t.kmd }) ∧
      (s.kmd.retries.toNat ≤ n → (s.chan ch).xfer.sl = false → EndsQuietly s ch →
        Runs (.komondRetx ch) s fun t => (t.chan ch).st = .error ∧ (t.chan ch).lastStatus = stNoResponse ∧
          t.kmd = { s.kmd with timeouts := satInc s.kmd.timeouts } ∧ ProgramOf { s with kmd := t.kmd } t ch))

/-- IDCODE reads 0x1409_6A1F; BYPASS, SAMPLE/PRELOAD and EXTEST put their instruction in force, SAMPLE/PRELOAD with the
boundary-scan cells. DBG_ACCESS without GO, or where nothing serves it, keeps the data register as written. With GO it makes one 4
B access as master 0x1FF and clears GO, keeping offset and WRITE: a read of GCTL_ACCERR returns and clears the count, a write of 0
to SEM_LOCK releases a semaphore the port owns, and a budget write (R221's list of masters, the model's reading: log 40) or a
misaligned access is ignored and counted. Nothing else changes but the reports. (R19, R41, R49, R221, R313, R425, R503) -/
def Obligations.DebugAccessPort : Prop :=
  ∀ s : State,
    (Runs (.idcode) s fun t => t.tap.dr = 0x14096A1F ∧ t.tap.ir = 3 ∧ t.tap.scan = s.tap.scan ∧ t = { s with tap := t.tap }) ∧
    (Runs (.bypass) s fun t => t.tap.dr = 0 ∧ t.tap.ir = 0 ∧ t.tap.scan = s.tap.scan ∧ t = { s with tap := t.tap }) ∧
    (∀ pins : List Bool, Runs (.samplePreload pins) s fun t => t = { s with tap := { s.tap with ir := 1, scan := pins } }) ∧
    (Runs (.extest) s fun t => t = { s with tap := { s.tap with ir := 2 } }) ∧
    (∀ dr : BitVec 66, dr.getLsbD 65 = false ∨ s.admits 0x1FF (bitsOf dr 32 32) = false →
      Runs (.dbgAccess dr) s fun t => t = { s with tap := { s.tap with ir := 4, dr } }) ∧
    (∀ (off : Nat) (wr : Bool) (data : Word32) (dr : BitVec 66), off < 0x400000 → s.admits 0x1FF off = true →
      dr = BitVec.ofNat 66 (data.toNat + off * 2 ^ 32 + b2n wr * 2 ^ 64 + 2 ^ 65) →
      (off = 8 → wr = false → Runs (.dbgAccess dr) s fun t =>
        t.tap = { s.tap with ir := 4, dr := BitVec.ofNat 66 (s.gctl.accCount.toNat + s.gctl.accMid.toNat * 0x10000 + off * 2 ^ 32) } ∧
        t = { s with tap := t.tap, readOut := t.readOut, gctl := { s.gctl with accCount := 0 } }) ∧
      (∀ n, n < 256 → off = 0xA4000 + 8 * n → wr = true → data = 0 → (s.sem n).value.toNat = 0x1FF + 1 → Runs (.dbgAccess dr) s fun t =>
        t.sem n = { s.sem n with value := 0 } ∧ (∀ k, k ≠ n → t.sem k = s.sem k) ∧
        t = { s with sems := t.sems, tap := { s.tap with ir := 4, dr := BitVec.ofNat 66 (off * 2 ^ 32 + 2 ^ 64) } }) ∧
      (∀ c i : Nat, c < 64 → 1 ≤ i → i ≤ 6 → off = 0x80000 + 256 * c + 4 * i → wr = true → Runs (.dbgAccess dr) s fun t =>
        t.gctl.accCount = satInc s.gctl.accCount ∧ t.gctl.accMid = 0x1FF ∧ Reports { s with tap := t.tap } t ∧
        t.tap = { s.tap with ir := 4, dr := BitVec.ofNat 66 (data.toNat + off * 2 ^ 32 + 2 ^ 64) }) ∧
      (off % 4 ≠ 0 → wr = false → Runs (.dbgAccess dr) s fun t =>
        t.gctl.accCount = satInc s.gctl.accCount ∧ t.gctl.accMid = 0x1FF ∧ Reports { s with tap := t.tap, readOut := t.readOut } t ∧
        t.tap = { s.tap with ir := 4, dr := BitVec.ofNat 66 (off * 2 ^ 32) }))
end

