-- ==== Sys2Proof/Laws/Table.lean ====
section
/-! SUPPORT. Reading after writing in sparse tables and in memory, and the canonical form of memory. -/

namespace Sys2Proof
open Machine

theorem Table.get_set_same {α : Type} (t : Table α) (d : α) (k : Nat) (v : α) : (t.set k v).get d k = v := by
  induction t with
  | nil => simp [Table.set, Table.get]
  | cons e r ih =>
    obtain ⟨j, w⟩ := e
    simp only [Table.set]
    split
    · simp [Table.get]
    · split
      · simp [Table.get]
      · simp [Table.get, *]

theorem Table.get_set_ne {α : Type} (t : Table α) (d : α) {k j : Nat} (v : α) (h : j ≠ k) : (t.set k v).get d j = t.get d j := by
  induction t with
  | nil => simp [Table.set, Table.get, h]
  | cons e r ih =>
    obtain ⟨i, w⟩ := e
    simp only [Table.set]
    split
    · simp [Table.get, h]
    · split
      · subst i; simp [Table.get, h]
      · simp [Table.get, ih]

namespace Machine

theorem Memory.wfFrom_mono {lo hi : Nat} {m : List Host.Cell} (h : Memory.wfFrom hi m = true) (le : lo ≤ hi) :
    Memory.wfFrom lo m = true := by
  cases m with
  | nil => rfl
  | cons c r =>
    obtain ⟨a, v⟩ := c
    simp only [Memory.wfFrom, Bool.and_eq_true, decide_eq_true_eq] at h ⊢
    exact ⟨⟨by omega, h.1.2⟩, h.2⟩

theorem Memory.erase_wfFrom (lo a : Nat) (m : List Host.Cell) (h : Memory.wfFrom lo m = true) :
    Memory.wfFrom lo (Memory.erase m a) = true := by
  induction m generalizing lo with
  | nil => rfl
  | cons c r ih =>
    obtain ⟨b, w⟩ := c
    simp only [Memory.wfFrom, Bool.and_eq_true, decide_eq_true_eq] at h
    simp only [Memory.erase]
    split
    · simpa only [Memory.wfFrom, Bool.and_eq_true, decide_eq_true_eq] using h
    · split
      · exact Memory.wfFrom_mono h.2 (by omega)
      · simp only [Memory.wfFrom, Bool.and_eq_true, decide_eq_true_eq]
        exact ⟨h.1, ih _ h.2⟩

theorem Memory.tableSet_wfFrom (lo a : Nat) (v : Byte) (m : List Host.Cell) (h : Memory.wfFrom lo m = true)
    (le : lo ≤ a) (nz : v ≠ 0) : Memory.wfFrom lo (Table.set m a v) = true := by
  induction m generalizing lo with
  | nil =>
    simp only [Table.set, Memory.wfFrom, Bool.and_eq_true, decide_eq_true_eq]
    exact ⟨⟨le, nz⟩, trivial⟩
  | cons c r ih =>
    obtain ⟨b, w⟩ := c
    simp only [Memory.wfFrom, Bool.and_eq_true, decide_eq_true_eq] at h
    simp only [Table.set]
    split
    · simp only [Memory.wfFrom, Bool.and_eq_true, decide_eq_true_eq]
      exact ⟨⟨le, nz⟩, ⟨by omega, h.1.2⟩, h.2⟩
    · split
      · subst b
        simp only [Memory.wfFrom, Bool.and_eq_true, decide_eq_true_eq]
        exact ⟨⟨le, nz⟩, h.2⟩
      · simp only [Memory.wfFrom, Bool.and_eq_true, decide_eq_true_eq]
        exact ⟨⟨h.1.1, h.1.2⟩, ih _ h.2 (by omega)⟩

/-- Writing a byte keeps the canonical form. -/
theorem Memory.set_wf (m : List Host.Cell) (a : Nat) (v : Byte) (h : Memory.wf m = true) : Memory.wf (Memory.set m a v) = true := by
  unfold Memory.set
  split
  · exact Memory.erase_wfFrom 0 a m h
  · exact Memory.tableSet_wfFrom 0 a v m h (by omega) (by assumption)

/-- Writing a run of bytes keeps the canonical form. -/
theorem Memory.setMany_wf (m : List Host.Cell) (a : Nat) (l : List Byte) (h : Memory.wf m = true) :
    Memory.wf (Memory.setMany m a l) = true := by
  induction l generalizing m a with
  | nil => exact h
  | cons b r ih => exact ih _ _ (Memory.set_wf _ _ _ h)

theorem Memory.filter_wfFrom (p : Host.Cell → Bool) (lo : Nat) (m : List Host.Cell) (h : Memory.wfFrom lo m = true) :
    Memory.wfFrom lo (m.filter p) = true := by
  induction m generalizing lo with
  | nil => rfl
  | cons c r ih =>
    obtain ⟨b, w⟩ := c
    simp only [Memory.wfFrom, Bool.and_eq_true, decide_eq_true_eq] at h
    simp only [List.filter]
    split
    · simp only [Memory.wfFrom, Bool.and_eq_true, decide_eq_true_eq]
      exact ⟨h.1, ih _ h.2⟩
    · exact Memory.wfFrom_mono (ih _ h.2) (by omega)

/-- Dropping cells keeps the canonical form. -/
theorem Memory.filter_wf (p : Host.Cell → Bool) (m : List Host.Cell) (h : Memory.wf m = true) : Memory.wf (m.filter p) = true :=
  Memory.filter_wfFrom p 0 m h

theorem Memory.get_erase_same (lo a : Nat) (m : List Host.Cell) (h : Memory.wfFrom lo m = true) : Memory.get (Memory.erase m a) a = 0 := by
  unfold Memory.get
  induction m generalizing lo with
  | nil => rfl
  | cons c r ih =>
    obtain ⟨b, w⟩ := c
    simp only [Memory.wfFrom, Bool.and_eq_true, decide_eq_true_eq] at h
    have above : ∀ (m : List Host.Cell) (lo : Nat), a < lo → Memory.wfFrom lo m = true → Table.get m 0 a = 0 := by
      intro m
      induction m with
      | nil => intros; rfl
      | cons c r ih =>
        intro lo hl h
        obtain ⟨b, w⟩ := c
        simp only [Memory.wfFrom, Bool.and_eq_true, decide_eq_true_eq] at h
        simp only [Table.get]
        rw [if_neg (by omega)]
        exact ih (b + 1) (by omega) h.2
    simp only [Memory.erase]
    split
    · simp only [Table.get]
      rw [if_neg (by omega)]
      exact above r (b + 1) (by omega) h.2
    · split
      · subst b; exact above r (a + 1) (by omega) h.2
      · simp only [Table.get]
        rw [if_neg (by assumption)]
        exact ih (b + 1) h.2

theorem Memory.get_erase_ne (a j : Nat) (m : List Host.Cell) (ne : j ≠ a) : Memory.get (Memory.erase m a) j = Memory.get m j := by
  unfold Memory.get
  induction m with
  | nil => rfl
  | cons c r ih =>
    obtain ⟨b, w⟩ := c
    simp only [Memory.erase]
    split
    · rfl
    · split
      · subst b; simp [Table.get, ne]
      · simp only [Table.get, ih]

/-- A byte written reads back. -/
theorem Memory.get_set_same (m : List Host.Cell) (a : Nat) (v : Byte) (h : Memory.wf m = true) : Memory.get (Memory.set m a v) a = v := by
  unfold Memory.set
  split
  · subst v; exact Memory.get_erase_same 0 a m h
  · exact Table.get_set_same m 0 a v

/-- A byte written leaves every other byte alone. -/
theorem Memory.get_set_ne (m : List Host.Cell) {a j : Nat} (v : Byte) (ne : j ≠ a) : Memory.get (Memory.set m a v) j = Memory.get m j := by
  unfold Memory.set
  split
  · exact Memory.get_erase_ne a j m ne
  · exact Table.get_set_ne m 0 v ne

/-- A run of bytes written leaves every byte outside it alone. -/
theorem Memory.get_setMany_out (m : List Host.Cell) (a j : Nat) (l : List Byte) (out : j < a ∨ a + l.length ≤ j) :
    Memory.get (Memory.setMany m a l) j = Memory.get m j := by
  induction l generalizing m a with
  | nil => rfl
  | cons b r ih =>
    simp only [List.length_cons] at out
    simp only [Memory.setMany]
    rw [ih _ _ (by omega), Memory.get_set_ne _ _ (by omega)]

/-- A run of bytes written reads back byte by byte. -/
theorem Memory.get_setMany_in (m : List Host.Cell) (a i : Nat) (l : List Byte) (h : Memory.wf m = true) (hi : i < l.length) :
    Memory.get (Memory.setMany m a l) (a + i) = l[i] := by
  induction l generalizing m a i with
  | nil => simp at hi
  | cons b r ih =>
    simp only [Memory.setMany]
    cases i with
    | zero =>
      rw [Memory.get_setMany_out _ _ _ _ (by omega)]
      exact Memory.get_set_same m a b h
    | succ i =>
      have hi' : i < r.length := by simpa using hi
      have := ih (Memory.set m a b) (a + 1) i (Memory.set_wf _ _ _ h) hi'
      rw [show a + (i + 1) = a + 1 + i by omega, this]
      rfl

end Machine
end Sys2Proof
end

