-- ==== Sys2Proof/Laws/Keeps.lean ====
section
/-! SUPPORT. The relation that every operation of the block keeps: the queue of waiting commands is untouched and the
memory keeps its canonical form. One lemma for each operation says so, in the files beside this one. -/

namespace Sys2Proof.Machine
open Sys2Proof

/-- The queue of waiting commands is as it was, and the memory is canonical if it was. -/
def Keeps (s t : State) : Prop := t.pending = s.pending ∧ (s.memOk → t.memOk)

theorem Keeps.refl (s : State) : Keeps s s := ⟨rfl, id⟩

theorem Keeps.trans {r s t : State} (h : Keeps r s) (g : Keeps s t) : Keeps r t := ⟨g.1.trans h.1, fun m => g.2 (h.2 m)⟩

/-- An update of fields other than the queue and the memory. -/
theorem Keeps.upd {r0 s : State} (h : Keeps r0 s) {x2 x3 x4 x5 x6 x7 x8 x9 x10 x11 x12 x13 x14 x15 x16 x17 x18 x19 x20 x21 x22 x23 x24 x25 x26 x27 x28 x29 x30 x31 x32 x33 x34 x35 x36 x37 x38 x39 x40 x41 x42 x43 x44 x45 x46 x47 x48 x49} :
    Keeps r0 (State.mk s.pending s.mem x2 x3 x4 x5 x6 x7 x8 x9 x10 x11 x12 x13 x14 x15 x16 x17 x18 x19 x20 x21 x22 x23 x24 x25 x26 x27 x28 x29 x30 x31 x32 x33 x34 x35 x36 x37 x38 x39 x40 x41 x42 x43 x44 x45 x46 x47 x48 x49) := h

/-- An update with a memory that is canonical if the old one was. -/
theorem Keeps.updMem {r0 s : State} {m : List Host.Cell} (h : Keeps r0 s) (hm : s.memOk → Memory.wf m = true) {x2 x3 x4 x5 x6 x7 x8 x9 x10 x11 x12 x13 x14 x15 x16 x17 x18 x19 x20 x21 x22 x23 x24 x25 x26 x27 x28 x29 x30 x31 x32 x33 x34 x35 x36 x37 x38 x39 x40 x41 x42 x43 x44 x45 x46 x47 x48 x49} :
    Keeps r0 (State.mk s.pending m x2 x3 x4 x5 x6 x7 x8 x9 x10 x11 x12 x13 x14 x15 x16 x17 x18 x19 x20 x21 x22 x23 x24 x25 x26 x27 x28 x29 x30 x31 x32 x33 x34 x35 x36 x37 x38 x39 x40 x41 x42 x43 x44 x45 x46 x47 x48 x49) := ⟨h.1, fun r => hm (h.2 r)⟩

/-- An update that drops cells of the memory. -/
theorem Keeps.updFilter {r0 s : State} {p : Host.Cell → Bool} (h : Keeps r0 s) {x2 x3 x4 x5 x6 x7 x8 x9 x10 x11 x12 x13 x14 x15 x16 x17 x18 x19 x20 x21 x22 x23 x24 x25 x26 x27 x28 x29 x30 x31 x32 x33 x34 x35 x36 x37 x38 x39 x40 x41 x42 x43 x44 x45 x46 x47 x48 x49} :
    Keeps r0 (State.mk s.pending (s.mem.filter p) x2 x3 x4 x5 x6 x7 x8 x9 x10 x11 x12 x13 x14 x15 x16 x17 x18 x19 x20 x21 x22 x23 x24 x25 x26 x27 x28 x29 x30 x31 x32 x33 x34 x35 x36 x37 x38 x39 x40 x41 x42 x43 x44 x45 x46 x47 x48 x49) := Keeps.updMem h fun r => Memory.filter_wf p _ r

theorem Keeps.foldl {α : Type} {r0 s : State} {f : State → α → State} (l : List α) (hf : ∀ t a, Keeps r0 t → Keeps r0 (f t a))
    (h : Keeps r0 s) : Keeps r0 (l.foldl f s) := by
  induction l generalizing s with
  | nil => exact h
  | cons a r ih => exact ih (hf _ _ h)

theorem Keeps.elim {α : Type} {r0 a : State} {o : Option α} {f : α → State} (h : Keeps r0 a) (g : ∀ x, Keeps r0 (f x)) :
    Keeps r0 (o.elim a f) := by
  cases o with
  | none => exact h
  | some x => exact g x

theorem Keeps.getD {r0 a : State} {o : Option State} (h : Keeps r0 a) (g : ∀ t, o = some t → Keeps r0 t) :
    Keeps r0 (o.getD a) := by
  cases o with
  | none => exact h
  | some x => exact g x rfl

theorem Keeps.ite {r0 a b : State} {c : Prop} [Decidable c] (h : Keeps r0 a) (g : Keeps r0 b) : Keeps r0 (if c then a else b) := by
  split <;> assumption

end Sys2Proof.Machine
end

