-- ==== Sys2Proof/Laws/KeepsOps.lean ====
section
/-! SUPPORT. The operations of Machine/Ops.lean keep the queue of commands and the form of the memory. -/

namespace Sys2Proof.Machine
open Sys2Proof

theorem State.store_keeps {r0 : State} (s : State) (a : Nat) (l : List Byte) (h : Keeps r0 s) : Keeps r0 (s.store a l) := by
  unfold State.store
  exact Keeps.updMem h fun r => Memory.setMany_wf _ _ _ r

theorem State.takeWord_keeps {r0 : State} (s : State) (h : Keeps r0 s) : Keeps r0 s.takeWord.2 := by
  unfold State.takeWord
  exact Keeps.upd h

theorem State.takeHeader_keeps {r0 : State} (s : State) (h : Keeps r0 s) : Keeps r0 s.takeHeader.2 := by
  unfold State.takeHeader
  exact Keeps.upd h

theorem State.clear_keeps {r0 : State} (s : State) (a n : Nat) (h : Keeps r0 s) : Keeps r0 (s.clear a n) := by
  unfold State.clear
  exact Keeps.updFilter h

theorem State.storeWord_keeps {r0 : State} (s : State) (a : Nat) (w : Word) (kp : Keeps r0 s) :
    Keeps r0 (State.storeWord s a w) := by
  unfold State.storeWord
  repeat' first
    | with_reducible assumption
    | intro _
    | with_reducible apply State.store_keeps
    | with_reducible apply Keeps.ite
    | (lift_lets; intro _)
    | split
    | dsimp only
    | fail_if_no_progress with_reducible apply Keeps.upd
    | dsimp +zetaDelta only

theorem State.setQ_keeps {r0 : State} (s : State) (n : Nat) (x : Queue) (kp : Keeps r0 s) :
    Keeps r0 (State.setQ s n x) := by
  unfold State.setQ
  repeat' first
    | with_reducible assumption
    | intro _
    | with_reducible apply Keeps.ite
    | (lift_lets; intro _)
    | split
    | dsimp only
    | fail_if_no_progress with_reducible apply Keeps.upd
    | dsimp +zetaDelta only

theorem State.updQ_keeps {r0 : State} (s : State) (n : Nat) (f : Queue → Queue) (kp : Keeps r0 s) :
    Keeps r0 (State.updQ s n f) := by
  unfold State.updQ
  repeat' first
    | with_reducible assumption
    | intro _
    | with_reducible apply State.setQ_keeps
    | with_reducible apply Keeps.ite
    | (lift_lets; intro _)
    | split
    | dsimp only
    | fail_if_no_progress with_reducible apply Keeps.upd
    | dsimp +zetaDelta only

theorem State.setChan_keeps {r0 : State} (s : State) (n : Nat) (x : Chan) (kp : Keeps r0 s) :
    Keeps r0 (State.setChan s n x) := by
  unfold State.setChan
  repeat' first
    | with_reducible assumption
    | intro _
    | with_reducible apply Keeps.ite
    | (lift_lets; intro _)
    | split
    | dsimp only
    | fail_if_no_progress with_reducible apply Keeps.upd
    | dsimp +zetaDelta only

theorem State.updChan_keeps {r0 : State} (s : State) (n : Nat) (f : Chan → Chan) (kp : Keeps r0 s) :
    Keeps r0 (State.updChan s n f) := by
  unfold State.updChan
  repeat' first
    | with_reducible assumption
    | intro _
    | with_reducible apply State.setChan_keeps
    | with_reducible apply Keeps.ite
    | (lift_lets; intro _)
    | split
    | dsimp only
    | fail_if_no_progress with_reducible apply Keeps.upd
    | dsimp +zetaDelta only

theorem State.setCls_keeps {r0 : State} (s : State) (n : Nat) (x : FClass) (kp : Keeps r0 s) :
    Keeps r0 (State.setCls s n x) := by
  unfold State.setCls
  repeat' first
    | with_reducible assumption
    | intro _
    | with_reducible apply Keeps.ite
    | (lift_lets; intro _)
    | split
    | dsimp only
    | fail_if_no_progress with_reducible apply Keeps.upd
    | dsimp +zetaDelta only

theorem State.updCls_keeps {r0 : State} (s : State) (n : Nat) (f : FClass → FClass) (kp : Keeps r0 s) :
    Keeps r0 (State.updCls s n f) := by
  unfold State.updCls
  repeat' first
    | with_reducible assumption
    | intro _
    | with_reducible apply State.setCls_keeps
    | with_reducible apply Keeps.ite
    | (lift_lets; intro _)
    | split
    | dsimp only
    | fail_if_no_progress with_reducible apply Keeps.upd
    | dsimp +zetaDelta only

theorem State.setCore_keeps {r0 : State} (s : State) (n : Nat) (x : Core) (kp : Keeps r0 s) :
    Keeps r0 (State.setCore s n x) := by
  unfold State.setCore
  repeat' first
    | with_reducible assumption
    | intro _
    | with_reducible apply Keeps.ite
    | (lift_lets; intro _)
    | split
    | dsimp only
    | fail_if_no_progress with_reducible apply Keeps.upd
    | dsimp +zetaDelta only

theorem State.updCore_keeps {r0 : State} (s : State) (n : Nat) (f : Core → Core) (kp : Keeps r0 s) :
    Keeps r0 (State.updCore s n f) := by
  unfold State.updCore
  repeat' first
    | with_reducible assumption
    | intro _
    | with_reducible apply State.setCore_keeps
    | with_reducible apply Keeps.ite
    | (lift_lets; intro _)
    | split
    | dsimp only
    | fail_if_no_progress with_reducible apply Keeps.upd
    | dsimp +zetaDelta only

theorem State.setLib_keeps {r0 : State} (s : State) (n : Nat) (x : Library) (kp : Keeps r0 s) :
    Keeps r0 (State.setLib s n x) := by
  unfold State.setLib
  repeat' first
    | with_reducible assumption
    | intro _
    | with_reducible apply Keeps.ite
    | (lift_lets; intro _)
    | split
    | dsimp only
    | fail_if_no_progress with_reducible apply Keeps.upd
    | dsimp +zetaDelta only

theorem State.updLib_keeps {r0 : State} (s : State) (n : Nat) (f : Library → Library) (kp : Keeps r0 s) :
    Keeps r0 (State.updLib s n f) := by
  unfold State.updLib
  repeat' first
    | with_reducible assumption
    | intro _
    | with_reducible apply State.setLib_keeps
    | with_reducible apply Keeps.ite
    | (lift_lets; intro _)
    | split
    | dsimp only
    | fail_if_no_progress with_reducible apply Keeps.upd
    | dsimp +zetaDelta only

theorem State.setMbx_keeps {r0 : State} (s : State) (n : Nat) (x : Mbx) (kp : Keeps r0 s) :
    Keeps r0 (State.setMbx s n x) := by
  unfold State.setMbx
  repeat' first
    | with_reducible assumption
    | intro _
    | with_reducible apply Keeps.ite
    | (lift_lets; intro _)
    | split
    | dsimp only
    | fail_if_no_progress with_reducible apply Keeps.upd
    | dsimp +zetaDelta only

theorem State.updMbx_keeps {r0 : State} (s : State) (n : Nat) (f : Mbx → Mbx) (kp : Keeps r0 s) :
    Keeps r0 (State.updMbx s n f) := by
  unfold State.updMbx
  repeat' first
    | with_reducible assumption
    | intro _
    | with_reducible apply State.setMbx_keeps
    | with_reducible apply Keeps.ite
    | (lift_lets; intro _)
    | split
    | dsimp only
    | fail_if_no_progress with_reducible apply Keeps.upd
    | dsimp +zetaDelta only

theorem State.setSem_keeps {r0 : State} (s : State) (n : Nat) (x : Sem) (kp : Keeps r0 s) :
    Keeps r0 (State.setSem s n x) := by
  unfold State.setSem
  repeat' first
    | with_reducible assumption
    | intro _
    | with_reducible apply Keeps.ite
    | (lift_lets; intro _)
    | split
    | dsimp only
    | fail_if_no_progress with_reducible apply Keeps.upd
    | dsimp +zetaDelta only

theorem State.updSem_keeps {r0 : State} (s : State) (n : Nat) (f : Sem → Sem) (kp : Keeps r0 s) :
    Keeps r0 (State.updSem s n f) := by
  unfold State.updSem
  repeat' first
    | with_reducible assumption
    | intro _
    | with_reducible apply State.setSem_keeps
    | with_reducible apply Keeps.ite
    | (lift_lets; intro _)
    | split
    | dsimp only
    | fail_if_no_progress with_reducible apply Keeps.upd
    | dsimp +zetaDelta only

theorem State.setScr_keeps {r0 : State} (s : State) (n : Nat) (x : Scr) (kp : Keeps r0 s) :
    Keeps r0 (State.setScr s n x) := by
  unfold State.setScr
  repeat' first
    | with_reducible assumption
    | intro _
    | with_reducible apply Keeps.ite
    | (lift_lets; intro _)
    | split
    | dsimp only
    | fail_if_no_progress with_reducible apply Keeps.upd
    | dsimp +zetaDelta only

theorem State.updScr_keeps {r0 : State} (s : State) (n : Nat) (f : Scr → Scr) (kp : Keeps r0 s) :
    Keeps r0 (State.updScr s n f) := by
  unfold State.updScr
  repeat' first
    | with_reducible assumption
    | intro _
    | with_reducible apply State.setScr_keeps
    | with_reducible apply Keeps.ite
    | (lift_lets; intro _)
    | split
    | dsimp only
    | fail_if_no_progress with_reducible apply Keeps.upd
    | dsimp +zetaDelta only

theorem State.setSrc_keeps {r0 : State} (s : State) (n : Nat) (x : Src) (kp : Keeps r0 s) :
    Keeps r0 (State.setSrc s n x) := by
  unfold State.setSrc
  repeat' first
    | with_reducible assumption
    | intro _
    | with_reducible apply Keeps.ite
    | (lift_lets; intro _)
    | split
    | dsimp only
    | fail_if_no_progress with_reducible apply Keeps.upd
    | dsimp +zetaDelta only

theorem State.updSrc_keeps {r0 : State} (s : State) (n : Nat) (f : Src → Src) (kp : Keeps r0 s) :
    Keeps r0 (State.updSrc s n f) := by
  unfold State.updSrc
  repeat' first
    | with_reducible assumption
    | intro _
    | with_reducible apply State.setSrc_keeps
    | with_reducible apply Keeps.ite
    | (lift_lets; intro _)
    | split
    | dsimp only
    | fail_if_no_progress with_reducible apply Keeps.upd
    | dsimp +zetaDelta only

theorem State.setTarget_keeps {r0 : State} (s : State) (n : Nat) (x : Target) (kp : Keeps r0 s) :
    Keeps r0 (State.setTarget s n x) := by
  unfold State.setTarget
  repeat' first
    | with_reducible assumption
    | intro _
    | with_reducible apply Keeps.ite
    | (lift_lets; intro _)
    | split
    | dsimp only
    | fail_if_no_progress with_reducible apply Keeps.upd
    | dsimp +zetaDelta only

theorem State.updTarget_keeps {r0 : State} (s : State) (n : Nat) (f : Target → Target) (kp : Keeps r0 s) :
    Keeps r0 (State.updTarget s n f) := by
  unfold State.updTarget
  repeat' first
    | with_reducible assumption
    | intro _
    | with_reducible apply State.setTarget_keeps
    | with_reducible apply Keeps.ite
    | (lift_lets; intro _)
    | split
    | dsimp only
    | fail_if_no_progress with_reducible apply Keeps.upd
    | dsimp +zetaDelta only

theorem State.setPort_keeps {r0 : State} (s : State) (n : Nat) (x : Port) (kp : Keeps r0 s) :
    Keeps r0 (State.setPort s n x) := by
  unfold State.setPort
  repeat' first
    | with_reducible assumption
    | intro _
    | with_reducible apply Keeps.ite
    | (lift_lets; intro _)
    | split
    | dsimp only
    | fail_if_no_progress with_reducible apply Keeps.upd
    | dsimp +zetaDelta only

theorem State.updPort_keeps {r0 : State} (s : State) (n : Nat) (f : Port → Port) (kp : Keeps r0 s) :
    Keeps r0 (State.updPort s n f) := by
  unfold State.updPort
  repeat' first
    | with_reducible assumption
    | intro _
    | with_reducible apply State.setPort_keeps
    | with_reducible apply Keeps.ite
    | (lift_lets; intro _)
    | split
    | dsimp only
    | fail_if_no_progress with_reducible apply Keeps.upd
    | dsimp +zetaDelta only

theorem State.setCtx_keeps {r0 : State} (s : State) (n : Nat) (k : Nat) (x : Ctx) (kp : Keeps r0 s) :
    Keeps r0 (State.setCtx s n k x) := by
  unfold State.setCtx
  repeat' first
    | with_reducible assumption
    | intro _
    | with_reducible apply State.updCore_keeps
    | with_reducible apply Keeps.ite
    | (lift_lets; intro _)
    | split
    | dsimp only
    | fail_if_no_progress with_reducible apply Keeps.upd
    | dsimp +zetaDelta only

theorem State.updCtx_keeps {r0 : State} (s : State) (n : Nat) (k : Nat) (f : Ctx → Ctx) (kp : Keeps r0 s) :
    Keeps r0 (State.updCtx s n k f) := by
  unfold State.updCtx
  repeat' first
    | with_reducible assumption
    | intro _
    | with_reducible apply State.setCtx_keeps
    | with_reducible apply Keeps.ite
    | (lift_lets; intro _)
    | split
    | dsimp only
    | fail_if_no_progress with_reducible apply Keeps.upd
    | dsimp +zetaDelta only

theorem State.setLink_keeps {r0 : State} (s : State) (md : Nat) (l : Link) (kp : Keeps r0 s) :
    Keeps r0 (State.setLink s md l) := by
  unfold State.setLink
  repeat' first
    | with_reducible assumption
    | intro _
    | with_reducible apply Keeps.ite
    | (lift_lets; intro _)
    | split
    | dsimp only
    | fail_if_no_progress with_reducible apply Keeps.upd
    | dsimp +zetaDelta only

theorem State.updLink_keeps {r0 : State} (s : State) (md : Nat) (f : Link → Link) (kp : Keeps r0 s) :
    Keeps r0 (State.updLink s md f) := by
  unfold State.updLink
  repeat' first
    | with_reducible assumption
    | intro _
    | with_reducible apply State.setLink_keeps
    | with_reducible apply Keeps.ite
    | (lift_lets; intro _)
    | split
    | dsimp only
    | fail_if_no_progress with_reducible apply Keeps.upd
    | dsimp +zetaDelta only

theorem State.updCfg_keeps {r0 : State} (s : State) (md : Nat) (f : LinkCfg → LinkCfg) (kp : Keeps r0 s) :
    Keeps r0 (State.updCfg s md f) := by
  unfold State.updCfg
  repeat' first
    | with_reducible assumption
    | intro _
    | with_reducible apply State.updLink_keeps
    | with_reducible apply Keeps.ite
    | (lift_lets; intro _)
    | split
    | dsimp only
    | fail_if_no_progress with_reducible apply Keeps.upd
    | dsimp +zetaDelta only

theorem State.updDom_keeps {r0 : State} (s : State) (d : Nat) (f : Dom → Dom) (kp : Keeps r0 s) :
    Keeps r0 (State.updDom s d f) := by
  unfold State.updDom
  repeat' first
    | with_reducible assumption
    | intro _
    | with_reducible apply Keeps.ite
    | (lift_lets; intro _)
    | split
    | dsimp only
    | fail_if_no_progress with_reducible apply Keeps.upd
    | dsimp +zetaDelta only

theorem State.noteWake_keeps {r0 : State} (s : State) (d : Nat) (cause : Nat) (kp : Keeps r0 s) :
    Keeps r0 (State.noteWake s d cause) := by
  unfold State.noteWake
  repeat' first
    | with_reducible assumption
    | intro _
    | with_reducible apply Keeps.ite
    | (lift_lets; intro _)
    | split
    | dsimp only
    | fail_if_no_progress with_reducible apply Keeps.upd
    | dsimp +zetaDelta only

theorem State.wakeDomain_keeps {r0 : State} (s : State) (d : Nat) (cause : Nat) (kp : Keeps r0 s) :
    Keeps r0 (State.wakeDomain s d cause) := by
  unfold State.wakeDomain
  repeat' first
    | with_reducible assumption
    | intro _
    | with_reducible apply State.noteWake_keeps
    | with_reducible apply State.updDom_keeps
    | with_reducible apply Keeps.ite
    | (lift_lets; intro _)
    | split
    | dsimp only
    | fail_if_no_progress with_reducible apply Keeps.upd
    | dsimp +zetaDelta only

theorem State.wakeFor_keeps {r0 : State} (s : State) (off : Nat) (kp : Keeps r0 s) :
    Keeps r0 (State.wakeFor s off) := by
  unfold State.wakeFor
  repeat' first
    | with_reducible assumption
    | intro _
    | with_reducible apply Keeps.elim
    | with_reducible apply State.wakeDomain_keeps
    | with_reducible apply Keeps.ite
    | (lift_lets; intro _)
    | split
    | dsimp only
    | fail_if_no_progress with_reducible apply Keeps.upd
    | dsimp +zetaDelta only

theorem State.touchCell_keeps {r0 : State} (s : State) (k : Nat) (kp : Keeps r0 s) :
    Keeps r0 (State.touchCell s k) := by
  unfold State.touchCell
  repeat' first
    | with_reducible assumption
    | intro _
    | with_reducible apply State.wakeDomain_keeps
    | with_reducible apply Keeps.ite
    | (lift_lets; intro _)
    | split
    | dsimp only
    | fail_if_no_progress with_reducible apply Keeps.upd
    | dsimp +zetaDelta only

theorem State.out_keeps {r0 : State} (s : State) (v : Nat) (kp : Keeps r0 s) :
    Keeps r0 (State.out s v) := by
  unfold State.out
  repeat' first
    | with_reducible assumption
    | intro _
    | with_reducible apply Keeps.ite
    | (lift_lets; intro _)
    | split
    | dsimp only
    | fail_if_no_progress with_reducible apply Keeps.upd
    | dsimp +zetaDelta only

theorem State.accErr_keeps {r0 : State} (s : State) (m : Nat) (kp : Keeps r0 s) :
    Keeps r0 (State.accErr s m) := by
  unfold State.accErr
  repeat' first
    | with_reducible assumption
    | intro _
    | with_reducible apply Keeps.ite
    | (lift_lets; intro _)
    | split
    | dsimp only
    | fail_if_no_progress with_reducible apply Keeps.upd
    | dsimp +zetaDelta only

theorem State.each_keeps {r0 : State} {α : Type} (s : State) (l : List α) (f : State → α → State)
    (hf : ∀ t a, Keeps r0 t → Keeps r0 (f t a)) (h : Keeps r0 s) : Keeps r0 (s.each l f) := Keeps.foldl l hf h

theorem State.aerUnc_keeps {r0 : State} (s : State) (md : Nat) (bit : Nat) (hdr : BitVec 128) (advisory : Bool) (kp : Keeps r0 s) :
    Keeps r0 (State.aerUnc s md bit hdr advisory) := by
  unfold State.aerUnc
  repeat' first
    | with_reducible assumption
    | intro _
    | with_reducible apply State.updLink_keeps
    | with_reducible apply Keeps.ite
    | (lift_lets; intro _)
    | split
    | dsimp only
    | fail_if_no_progress with_reducible apply Keeps.upd
    | dsimp +zetaDelta only

theorem State.aerCor_keeps {r0 : State} (s : State) (md : Nat) (bit : Nat) (kp : Keeps r0 s) :
    Keeps r0 (State.aerCor s md bit) := by
  unfold State.aerCor
  repeat' first
    | with_reducible assumption
    | intro _
    | with_reducible apply State.updLink_keeps
    | with_reducible apply Keeps.ite
    | (lift_lets; intro _)
    | split
    | dsimp only
    | fail_if_no_progress with_reducible apply Keeps.upd
    | dsimp +zetaDelta only

theorem State.unsupported_keeps {r0 : State} (s : State) (md : Nat) (read : Bool) (kp : Keeps r0 s) :
    Keeps r0 (State.unsupported s md read) := by
  unfold State.unsupported
  repeat' first
    | with_reducible assumption
    | intro _
    | with_reducible apply State.aerUnc_keeps
    | with_reducible apply State.takeHeader_keeps
    | with_reducible apply Keeps.ite
    | (lift_lets; intro _)
    | split
    | dsimp only
    | fail_if_no_progress with_reducible apply Keeps.upd
    | dsimp +zetaDelta only

theorem State.access_keeps {r0 : State} (s : State) (m : Nat) (off : Nat) (k : State → State) (hk : ∀ t, Keeps r0 t → Keeps r0 (k t)) (kp : Keeps r0 s) :
    Keeps r0 (State.access s m off k) := by
  unfold State.access
  repeat' first
    | with_reducible assumption
    | intro _
    | with_reducible apply hk
    | with_reducible apply State.unsupported_keeps
    | with_reducible apply State.wakeFor_keeps
    | with_reducible apply Keeps.ite
    | (lift_lets; intro _)
    | split
    | dsimp only
    | fail_if_no_progress with_reducible apply Keeps.upd
    | dsimp +zetaDelta only

theorem State.accessR_keeps {r0 : State} (s : State) (m : Nat) (off : Nat) (k : State → State) (hk : ∀ t, Keeps r0 t → Keeps r0 (k t)) (kp : Keeps r0 s) :
    Keeps r0 (State.accessR s m off k) := by
  unfold State.accessR
  repeat' first
    | with_reducible assumption
    | intro _
    | with_reducible apply hk
    | with_reducible apply State.out_keeps
    | with_reducible apply State.unsupported_keeps
    | with_reducible apply State.wakeFor_keeps
    | with_reducible apply Keeps.ite
    | (lift_lets; intro _)
    | split
    | dsimp only
    | fail_if_no_progress with_reducible apply Keeps.upd
    | dsimp +zetaDelta only

end Sys2Proof.Machine
end

