-- ==== Sys2Proof/Laws/KeepsIrq.lean ====
section
/-! SUPPORT. The operations of Machine/Irq.lean keep the queue of commands and the form of the memory. -/

namespace Sys2Proof.Machine
open Sys2Proof

theorem State.wantLink_keeps {r0 : State} (s : State) (md : Nat) (kp : Keeps r0 s) :
    Keeps r0 (State.wantLink s md) := by
  unfold State.wantLink
  repeat' first
    | with_reducible assumption
    | intro _
    | with_reducible apply State.setLink_keeps
    | with_reducible apply Keeps.ite
    | (lift_lets; intro _)
    | split
    | dsimp only
    | fail_if_no_progress with_reducible apply Keeps.upd
    | dsimp +zetaDelta only

theorem State.egress_keeps {r0 : State} (s : State) (md : Nat) (kind : EgKind) (addr : Word64) (bytes : List Byte) (relaxed : Bool) (kp : Keeps r0 s) :
    Keeps r0 (State.egress s md kind addr bytes relaxed) := by
  unfold State.egress
  repeat' first
    | with_reducible assumption
    | intro _
    | with_reducible apply State.setLink_keeps
    | with_reducible apply State.wantLink_keeps
    | with_reducible apply Keeps.ite
    | (lift_lets; intro _)
    | split
    | dsimp only
    | fail_if_no_progress with_reducible apply Keeps.upd
    | dsimp +zetaDelta only

theorem State.sendMsix_keeps {r0 : State} (s : State) (md : Nat) (v : Nat) (kp : Keeps r0 s) :
    Keeps r0 (State.sendMsix s md v) := by
  unfold State.sendMsix
  repeat' first
    | with_reducible assumption
    | intro _
    | with_reducible apply State.updCfg_keeps
    | with_reducible apply State.egress_keeps
    | with_reducible apply Keeps.ite
    | (lift_lets; intro _)
    | split
    | dsimp only
    | fail_if_no_progress with_reducible apply Keeps.upd
    | dsimp +zetaDelta only

theorem State.pbaSend_keeps {r0 : State} (s : State) (md : Nat) (vs : List Nat) (kp : Keeps r0 s) :
    Keeps r0 (State.pbaSend s md vs) := by
  unfold State.pbaSend
  repeat' first
    | with_reducible assumption
    | intro _
    | with_reducible apply State.each_keeps
    | with_reducible apply State.egress_keeps
    | with_reducible apply State.updCfg_keeps
    | with_reducible apply Keeps.ite
    | (lift_lets; intro _)
    | split
    | dsimp only
    | fail_if_no_progress with_reducible apply Keeps.upd
    | dsimp +zetaDelta only

theorem State.wantMsix_keeps {r0 : State} (s : State) (md : Nat) (kp : Keeps r0 s) :
    Keeps r0 (State.wantMsix s md) := by
  unfold State.wantMsix
  repeat' first
    | with_reducible assumption
    | intro _
    | with_reducible apply State.wantLink_keeps
    | with_reducible apply Keeps.ite
    | (lift_lets; intro _)
    | split
    | dsimp only
    | fail_if_no_progress with_reducible apply Keeps.upd
    | dsimp +zetaDelta only

theorem State.closeBatch_keeps {r0 : State} (s : State) (md : Nat) (v : Nat) (kp : Keeps r0 s) :
    Keeps r0 (State.closeBatch s md v) := by
  unfold State.closeBatch
  repeat' first
    | with_reducible assumption
    | intro _
    | with_reducible apply State.sendMsix_keeps
    | with_reducible apply State.wantMsix_keeps
    | with_reducible apply Keeps.ite
    | (lift_lets; intro _)
    | split
    | dsimp only
    | fail_if_no_progress with_reducible apply Keeps.upd
    | dsimp +zetaDelta only

theorem State.dropBatches_keeps {r0 : State} (s : State) (md : Nat) (kp : Keeps r0 s) :
    Keeps r0 (State.dropBatches s md) := by
  unfold State.dropBatches
  repeat' first
    | with_reducible assumption
    | intro _
    | with_reducible apply State.each_keeps
    | with_reducible apply State.updSrc_keeps
    | with_reducible apply Keeps.ite
    | (lift_lets; intro _)
    | split
    | dsimp only
    | fail_if_no_progress with_reducible apply Keeps.upd
    | dsimp +zetaDelta only

theorem State.msixEvent_keeps {r0 : State} (s : State) (n : Nat) (kp : Keeps r0 s) :
    Keeps r0 (State.msixEvent s n) := by
  unfold State.msixEvent
  repeat' first
    | with_reducible assumption
    | intro _
    | with_reducible apply State.wantMsix_keeps
    | with_reducible apply State.updSrc_keeps
    | with_reducible apply State.sendMsix_keeps
    | with_reducible apply State.closeBatch_keeps
    | with_reducible apply Keeps.ite
    | (lift_lets; intro _)
    | split
    | dsimp only
    | fail_if_no_progress with_reducible apply Keeps.upd
    | dsimp +zetaDelta only

theorem State.route_keeps {r0 : State} (s : State) (n : Nat) (kp : Keeps r0 s) :
    Keeps r0 (State.route s n) := by
  unfold State.route
  repeat' first
    | with_reducible assumption
    | intro _
    | with_reducible apply State.setSrc_keeps
    | with_reducible apply State.wakeDomain_keeps
    | with_reducible apply Keeps.ite
    | (lift_lets; intro _)
    | split
    | dsimp only
    | fail_if_no_progress with_reducible apply Keeps.upd
    | dsimp +zetaDelta only

theorem State.present_keeps {r0 : State} (s : State) (n : Nat) (kp : Keeps r0 s) :
    Keeps r0 (State.present s n) := by
  unfold State.present
  repeat' first
    | with_reducible assumption
    | intro _
    | with_reducible apply State.route_keeps
    | with_reducible apply State.msixEvent_keeps
    | with_reducible apply Keeps.ite
    | (lift_lets; intro _)
    | split
    | dsimp only
    | fail_if_no_progress with_reducible apply Keeps.upd
    | dsimp +zetaDelta only

theorem State.edge_keeps {r0 : State} (s : State) (n : Nat) (kp : Keeps r0 s) :
    Keeps r0 (State.edge s n) := by
  unfold State.edge
  repeat' first
    | with_reducible assumption
    | intro _
    | with_reducible apply State.present_keeps
    | with_reducible apply State.updSrc_keeps
    | with_reducible apply Keeps.ite
    | (lift_lets; intro _)
    | split
    | dsimp only
    | fail_if_no_progress with_reducible apply Keeps.upd
    | dsimp +zetaDelta only

theorem State.levelEval_keeps {r0 : State} (s : State) (n : Nat) (kp : Keeps r0 s) :
    Keeps r0 (State.levelEval s n) := by
  unfold State.levelEval
  repeat' first
    | with_reducible assumption
    | intro _
    | with_reducible apply State.present_keeps
    | with_reducible apply State.setSrc_keeps
    | with_reducible apply State.route_keeps
    | with_reducible apply Keeps.ite
    | (lift_lets; intro _)
    | split
    | dsimp only
    | fail_if_no_progress with_reducible apply Keeps.upd
    | dsimp +zetaDelta only

theorem State.heldPulse_keeps {r0 : State} (s0 : State) (s : State) (kp : Keeps r0 s) :
    Keeps r0 (State.heldPulse s0 s) := by
  unfold State.heldPulse
  repeat' first
    | with_reducible assumption
    | intro _
    | with_reducible apply State.edge_keeps
    | with_reducible apply Keeps.ite
    | (lift_lets; intro _)
    | split
    | dsimp only
    | fail_if_no_progress with_reducible apply Keeps.upd
    | dsimp +zetaDelta only

theorem State.setLine_keeps {r0 : State} (s : State) (n : Nat) (level : Bool) (kp : Keeps r0 s) :
    Keeps r0 (State.setLine s n level) := by
  unfold State.setLine
  repeat' first
    | with_reducible assumption
    | intro _
    | with_reducible apply State.setSrc_keeps
    | with_reducible apply State.levelEval_keeps
    | with_reducible apply State.heldPulse_keeps
    | with_reducible apply State.edge_keeps
    | with_reducible apply Keeps.ite
    | (lift_lets; intro _)
    | split
    | dsimp only
    | fail_if_no_progress with_reducible apply Keeps.upd
    | dsimp +zetaDelta only

theorem State.pulse_keeps {r0 : State} (s : State) (n : Nat) (kp : Keeps r0 s) :
    Keeps r0 (State.pulse s n) := by
  unfold State.pulse
  repeat' first
    | with_reducible assumption
    | intro _
    | with_reducible apply State.heldPulse_keeps
    | with_reducible apply State.edge_keeps
    | with_reducible apply Keeps.ite
    | (lift_lets; intro _)
    | split
    | dsimp only
    | fail_if_no_progress with_reducible apply Keeps.upd
    | dsimp +zetaDelta only

theorem State.accFault_keeps {r0 : State} (s : State) (m : Nat) (kp : Keeps r0 s) :
    Keeps r0 (State.accFault s m) := by
  unfold State.accFault
  repeat' first
    | with_reducible assumption
    | intro _
    | with_reducible apply State.pulse_keeps
    | with_reducible apply State.accErr_keeps
    | with_reducible apply Keeps.ite
    | (lift_lets; intro _)
    | split
    | dsimp only
    | fail_if_no_progress with_reducible apply Keeps.upd
    | dsimp +zetaDelta only

theorem State.takeSrc_keeps {r0 : State} (s : State) (n : Nat) (kp : Keeps r0 s) :
    Keeps r0 (State.takeSrc s n) := by
  unfold State.takeSrc
  repeat' first
    | with_reducible assumption
    | intro _
    | with_reducible apply State.updSrc_keeps
    | with_reducible apply Keeps.ite
    | (lift_lets; intro _)
    | split
    | dsimp only
    | fail_if_no_progress with_reducible apply Keeps.upd
    | dsimp +zetaDelta only

theorem State.endService_keeps {r0 : State} (s : State) (t : Nat) (n : Nat) (kp : Keeps r0 s) :
    Keeps r0 (State.endService s t n) := by
  unfold State.endService
  repeat' first
    | with_reducible assumption
    | intro _
    | with_reducible apply State.levelEval_keeps
    | with_reducible apply State.updSrc_keeps
    | with_reducible apply State.updTarget_keeps
    | with_reducible apply Keeps.ite
    | (lift_lets; intro _)
    | split
    | dsimp only
    | fail_if_no_progress with_reducible apply Keeps.upd
    | dsimp +zetaDelta only

theorem State.routeAll_keeps {r0 : State} (s : State) (kp : Keeps r0 s) :
    Keeps r0 (State.routeAll s) := by
  unfold State.routeAll
  repeat' first
    | with_reducible assumption
    | intro _
    | with_reducible apply State.each_keeps
    | with_reducible apply State.route_keeps
    | with_reducible apply Keeps.ite
    | (lift_lets; intro _)
    | split
    | dsimp only
    | fail_if_no_progress with_reducible apply Keeps.upd
    | dsimp +zetaDelta only

theorem State.reofferMember_keeps {r0 : State} (s : State) (i : Nat) (kp : Keeps r0 s) :
    Keeps r0 (State.reofferMember s i) := by
  unfold State.reofferMember
  repeat' first
    | with_reducible assumption
    | intro _
    | with_reducible apply State.each_keeps
    | with_reducible apply State.route_keeps
    | with_reducible apply Keeps.ite
    | (lift_lets; intro _)
    | split
    | dsimp only
    | fail_if_no_progress with_reducible apply Keeps.upd
    | dsimp +zetaDelta only

theorem State.endTopService_keeps {r0 : State} (s : State) (core : Nat) (kp : Keeps r0 s) :
    Keeps r0 (State.endTopService s core) := by
  unfold State.endTopService
  repeat' first
    | with_reducible assumption
    | intro _
    | with_reducible apply State.routeAll_keeps
    | with_reducible apply State.endService_keeps
    | with_reducible apply Keeps.ite
    | (lift_lets; intro _)
    | split
    | dsimp only
    | fail_if_no_progress with_reducible apply Keeps.upd
    | dsimp +zetaDelta only

theorem State.dropService_keeps {r0 : State} (s : State) (core : Nat) (kp : Keeps r0 s) :
    Keeps r0 (State.dropService s core) := by
  unfold State.dropService
  repeat' first
    | with_reducible assumption
    | intro _
    | with_reducible apply State.updTarget_keeps
    | with_reducible apply State.each_keeps
    | with_reducible apply State.updSrc_keeps
    | with_reducible apply State.levelEval_keeps
    | with_reducible apply State.edge_keeps
    | with_reducible apply Keeps.ite
    | (lift_lets; intro _)
    | split
    | dsimp only
    | fail_if_no_progress with_reducible apply Keeps.upd
    | dsimp +zetaDelta only

theorem State.commitOffer_of {r0 s t : State} {n i : Nat} (h : Keeps r0 s) (e : s.commitOffer n i = some t) : Keeps r0 t := by
  unfold State.commitOffer at e
  try dsimp only at e
  repeat' split at e
  all_goals first
    | cases e
  all_goals repeat' first
    | with_reducible assumption
    | with_reducible apply State.updSrc_keeps
    | with_reducible apply State.takeSrc_keeps
    | with_reducible apply State.reofferMember_keeps
    | with_reducible apply State.updTarget_keeps
    | intro _
    | split
    | dsimp only
    | fail_if_no_progress with_reducible apply Keeps.upd

theorem State.closeAll_keeps {r0 : State} (s : State) (md : Nat) (l : List (Nat × Batch)) (kp : Keeps r0 s) :
    Keeps r0 (State.closeAll s md l) := by
  unfold State.closeAll
  repeat' first
    | with_reducible assumption
    | intro _
    | with_reducible apply State.each_keeps
    | with_reducible apply State.closeBatch_keeps
    | with_reducible apply Keeps.ite
    | (lift_lets; intro _)
    | split
    | dsimp only
    | fail_if_no_progress with_reducible apply Keeps.upd
    | dsimp +zetaDelta only

theorem State.flushModule_keeps {r0 : State} (s : State) (md : Nat) (kp : Keeps r0 s) :
    Keeps r0 (State.flushModule s md) := by
  unfold State.flushModule
  repeat' first
    | with_reducible assumption
    | intro _
    | with_reducible apply State.closeAll_keeps
    | with_reducible apply Keeps.ite
    | (lift_lets; intro _)
    | split
    | dsimp only
    | fail_if_no_progress with_reducible apply Keeps.upd
    | dsimp +zetaDelta only

theorem State.batchSend_keeps {r0 : State} (s : State) (md : Nat) (kp : Keeps r0 s) :
    Keeps r0 (State.batchSend s md) := by
  unfold State.batchSend
  repeat' first
    | with_reducible assumption
    | intro _
    | with_reducible apply State.closeAll_keeps
    | with_reducible apply Keeps.ite
    | (lift_lets; intro _)
    | split
    | dsimp only
    | fail_if_no_progress with_reducible apply Keeps.upd
    | dsimp +zetaDelta only

theorem State.dueSend_keeps {r0 : State} (s : State) (md : Nat) (kp : Keeps r0 s) :
    Keeps r0 (State.dueSend s md) := by
  unfold State.dueSend
  repeat' first
    | with_reducible assumption
    | intro _
    | with_reducible apply State.each_keeps
    | with_reducible apply State.sendMsix_keeps
    | with_reducible apply State.updSrc_keeps
    | with_reducible apply Keeps.ite
    | (lift_lets; intro _)
    | split
    | dsimp only
    | fail_if_no_progress with_reducible apply Keeps.upd
    | dsimp +zetaDelta only

end Sys2Proof.Machine
end

