-- ==== Sys2Proof/Laws/KeepsFloat.lean ====
section
/-! SUPPORT. The operations of Machine/Float.lean keep the queue of commands and the form of the memory. -/

namespace Sys2Proof.Machine
open Sys2Proof

theorem State.charge_keeps {r0 : State} (s : State) (c : Nat) (t : Nat) (k : Cost) (kp : Keeps r0 s) :
    Keeps r0 (State.charge s c t k) := by
  unfold State.charge
  repeat' first
    | with_reducible assumption
    | intro _
    | with_reducible apply Keeps.foldl
    | with_reducible apply State.setCls_keeps
    | with_reducible apply State.updPort_keeps
    | with_reducible apply Keeps.ite
    | (lift_lets; intro _)
    | split
    | dsimp only
    | fail_if_no_progress with_reducible apply Keeps.upd
    | dsimp +zetaDelta only

theorem State.refund_keeps {r0 : State} (s : State) (c : Nat) (key : Nat) (n : Nat) (kp : Keeps r0 s) :
    Keeps r0 (State.refund s c key n) := by
  unfold State.refund
  repeat' first
    | with_reducible assumption
    | intro _
    | with_reducible apply State.updCls_keeps
    | with_reducible apply Keeps.ite
    | (lift_lets; intro _)
    | split
    | dsimp only
    | fail_if_no_progress with_reducible apply Keeps.upd
    | dsimp +zetaDelta only

theorem State.beat_keeps {r0 : State} (s : State) (c : Nat) (t : Nat) (n : Nat) (kp : Keeps r0 s) :
    Keeps r0 (State.beat s c t n) := by
  unfold State.beat
  repeat' first
    | with_reducible assumption
    | intro _
    | with_reducible apply State.charge_keeps
    | with_reducible apply Keeps.ite
    | (lift_lets; intro _)
    | split
    | dsimp only
    | fail_if_no_progress with_reducible apply Keeps.upd
    | dsimp +zetaDelta only

theorem State.exhaust_keeps {r0 : State} (s : State) (c : Nat) (kp : Keeps r0 s) :
    Keeps r0 (State.exhaust s c) := by
  unfold State.exhaust
  repeat' first
    | with_reducible assumption
    | intro _
    | with_reducible apply State.updCls_keeps
    | with_reducible apply Keeps.ite
    | (lift_lets; intro _)
    | split
    | dsimp only
    | fail_if_no_progress with_reducible apply Keeps.upd
    | dsimp +zetaDelta only

theorem State.countPark_keeps {r0 : State} (s : State) (c : Nat) (overrun : Bool) (kp : Keeps r0 s) :
    Keeps r0 (State.countPark s c overrun) := by
  unfold State.countPark
  repeat' first
    | with_reducible assumption
    | intro _
    | with_reducible apply State.updCls_keeps
    | with_reducible apply State.pulse_keeps
    | with_reducible apply Keeps.ite
    | (lift_lets; intro _)
    | split
    | dsimp only
    | fail_if_no_progress with_reducible apply Keeps.upd
    | dsimp +zetaDelta only

end Sys2Proof.Machine
end

