-- ==== Sys2Proof/Laws/KeepsHawkOps.lean ====
section
/-! SUPPORT. The operations of Machine/HawkOps.lean keep the queue of commands and the form of the memory. -/

namespace Sys2Proof.Machine
open Sys2Proof

theorem State.setCell_keeps {r0 : State} (s : State) (k : Nat) (c : CellSt) (acct : Nat) (kp : Keeps r0 s) :
    Keeps r0 (State.setCell s k c acct) := by
  unfold State.setCell
  repeat' first
    | with_reducible assumption
    | intro _
    | with_reducible apply Keeps.ite
    | (lift_lets; intro _)
    | split
    | dsimp only
    | fail_if_no_progress with_reducible apply Keeps.upd
    | dsimp +zetaDelta only

theorem State.grant_of {r0 s t : State} {home acct : Nat} {c : CellSt} {k : Nat} (h : Keeps r0 s) (e : s.grant home acct c = some (k, t)) : Keeps r0 t := by
  unfold State.grant at e
  try dsimp only at e
  repeat' split at e
  all_goals first
    | cases e
  all_goals repeat' first
    | with_reducible assumption
    | with_reducible apply State.setCell_keeps
    | intro _
    | split
    | dsimp only
    | fail_if_no_progress with_reducible apply Keeps.upd

theorem State.grantProducer_of {r0 s t : State} {p home acct : Nat} {c : CellSt} {k : Nat} (h : Keeps r0 s) (e : s.grantProducer p home acct c = some (k, t)) : Keeps r0 t := by
  unfold State.grantProducer at e
  try dsimp only at e
  repeat' split at e
  all_goals first
    | exact State.grant_of h e
    | cases e
  all_goals repeat' first
    | with_reducible assumption
    | with_reducible apply State.setCell_keeps
    | refine State.grant_of ?_ (by with_reducible assumption)
    | intro _
    | split
    | dsimp only
    | fail_if_no_progress with_reducible apply Keeps.upd

theorem State.grantMany_of {r0 s t : State} {p home acct : Nat} {c : CellSt} {n : Nat} {l : List Nat} (h : Keeps r0 s)
    (e : s.grantMany p home acct c n = some (l, t)) : Keeps r0 t := by
  induction n generalizing s l with
  | zero => cases e; exact h
  | succ n ih =>
    unfold State.grantMany at e
    split at e
    · cases e
    · rename_i g
      split at e
      · cases e
      · rename_i g2
        cases e
        exact ih (State.grantProducer_of h g) g2

theorem State.hawkStore_keeps {r0 : State} (s : State) (a : Nat) (l : List Byte) (kp : Keeps r0 s) :
    Keeps r0 (State.hawkStore s a l) := by
  unfold State.hawkStore
  repeat' first
    | with_reducible assumption
    | intro _
    | with_reducible apply State.store_keeps
    | with_reducible apply Keeps.ite
    | (lift_lets; intro _)
    | split
    | dsimp only
    | fail_if_no_progress with_reducible apply Keeps.upd
    | dsimp +zetaDelta only

theorem State.freeOne_keeps {r0 : State} (s : State) (k : Nat) (kp : Keeps r0 s) :
    Keeps r0 (State.freeOne s k) := by
  unfold State.freeOne
  repeat' first
    | with_reducible assumption
    | intro _
    | with_reducible apply State.setCell_keeps
    | with_reducible apply Keeps.ite
    | (lift_lets; intro _)
    | split
    | dsimp only
    | fail_if_no_progress with_reducible apply Keeps.upd
    | dsimp +zetaDelta only

theorem State.withdraw_keeps {r0 : State} (s : State) (k : Nat) (kp : Keeps r0 s) :
    Keeps r0 (State.withdraw s k) := by
  unfold State.withdraw
  repeat' first
    | with_reducible assumption
    | intro _
    | with_reducible apply State.setCell_keeps
    | with_reducible apply Keeps.ite
    | (lift_lets; intro _)
    | split
    | dsimp only
    | fail_if_no_progress with_reducible apply Keeps.upd
    | dsimp +zetaDelta only

theorem State.freeCells_keeps {r0 : State} (s : State) (cells : List Nat) (kp : Keeps r0 s) :
    Keeps r0 (State.freeCells s cells) := by
  unfold State.freeCells
  repeat' first
    | with_reducible assumption
    | intro _
    | with_reducible apply State.each_keeps
    | with_reducible apply State.freeOne_keeps
    | with_reducible apply State.withdraw_keeps
    | with_reducible apply Keeps.ite
    | (lift_lets; intro _)
    | split
    | dsimp only
    | fail_if_no_progress with_reducible apply Keeps.upd
    | dsimp +zetaDelta only

theorem State.freeChain_keeps {r0 : State} (s : State) (owner : CellSt) (head : Nat) (kp : Keeps r0 s) :
    Keeps r0 (State.freeChain s owner head) := by
  unfold State.freeChain
  repeat' first
    | with_reducible assumption
    | intro _
    | with_reducible apply State.each_keeps
    | with_reducible apply State.freeOne_keeps
    | with_reducible apply State.withdraw_keeps
    | with_reducible apply Keeps.ite
    | (lift_lets; intro _)
    | split
    | dsimp only
    | fail_if_no_progress with_reducible apply Keeps.upd
    | dsimp +zetaDelta only

theorem State.freeChChain_keeps {r0 : State} (s : State) (ch : Nat) (kp : Keeps r0 s) :
    Keeps r0 (State.freeChChain s ch) := by
  unfold State.freeChChain
  repeat' first
    | with_reducible assumption
    | intro _
    | with_reducible apply State.updChan_keeps
    | with_reducible apply State.freeChain_keeps
    | with_reducible apply Keeps.ite
    | (lift_lets; intro _)
    | split
    | dsimp only
    | fail_if_no_progress with_reducible apply Keeps.upd
    | dsimp +zetaDelta only

theorem State.retire_keeps {r0 : State} (s : State) (k : Nat) (kp : Keeps r0 s) :
    Keeps r0 (State.retire s k) := by
  unfold State.retire
  repeat' first
    | with_reducible assumption
    | intro _
    | with_reducible apply State.pulse_keeps
    | with_reducible apply State.withdraw_keeps
    | with_reducible apply Keeps.ite
    | (lift_lets; intro _)
    | split
    | dsimp only
    | fail_if_no_progress with_reducible apply Keeps.upd
    | dsimp +zetaDelta only

theorem State.freeHeld_keeps {r0 : State} (s : State) (m : Nat) (ctx : Nat) (kp : Keeps r0 s) :
    Keeps r0 (State.freeHeld s m ctx) := by
  unfold State.freeHeld
  repeat' first
    | with_reducible assumption
    | intro _
    | with_reducible apply State.each_keeps
    | with_reducible apply State.freeOne_keeps
    | with_reducible apply Keeps.ite
    | (lift_lets; intro _)
    | split
    | dsimp only
    | fail_if_no_progress with_reducible apply Keeps.upd
    | dsimp +zetaDelta only

theorem State.freeHeldAll_keeps {r0 : State} (s : State) (m : Nat) (kp : Keeps r0 s) :
    Keeps r0 (State.freeHeldAll s m) := by
  unfold State.freeHeldAll
  repeat' first
    | with_reducible assumption
    | intro _
    | with_reducible apply State.each_keeps
    | with_reducible apply State.freeOne_keeps
    | with_reducible apply Keeps.ite
    | (lift_lets; intro _)
    | split
    | dsimp only
    | fail_if_no_progress with_reducible apply Keeps.upd
    | dsimp +zetaDelta only

theorem State.chainWrite_of {r0 s t : State} {k off : Nat} {l : List Byte} {n : Nat} (h : Keeps r0 s)
    (e : s.chainWrite k off l n = .ok t) : Keeps r0 t := by
  induction n generalizing s off l with
  | zero =>
    unfold State.chainWrite at e
    split at e <;> cases e
    exact h
  | succ n ih =>
    unfold State.chainWrite at e
    split at e
    · cases e; exact h
    · split at e
      · cases e
      · exact ih (State.hawkStore_keeps _ _ _ h) e

theorem State.fillCells_keeps {r0 : State} (s : State) (cells : List Nat) (l : List Byte) (h : Keeps r0 s) :
    Keeps r0 (s.fillCells cells l) := by
  induction cells generalizing s l with
  | nil => exact h
  | cons k r ih =>
    cases r with
    | nil => exact State.store_keeps _ _ _ h
    | cons k2 r => exact ih _ _ (State.store_keeps _ _ _ h)

theorem State.chainAppend_of {r0 s t : State} {ch acct : Nat} {l : List Byte} (h : Keeps r0 s) (e : s.chainAppend ch acct l = some t) : Keeps r0 t := by
  unfold State.chainAppend at e
  try dsimp only at e
  repeat' split at e
  all_goals first
    | exact State.grantMany_of h e
    | cases e
  all_goals repeat' first
    | with_reducible assumption
    | refine State.grantMany_of ?_ (by with_reducible assumption)
    | with_reducible apply State.updChan_keeps
    | with_reducible apply State.fillCells_keeps
    | with_reducible apply State.store_keeps
    | intro _
    | split
    | dsimp only
    | fail_if_no_progress with_reducible apply Keeps.upd

theorem State.waitGrant_keeps {r0 : State} (s : State) (ch : Nat) (acct : Nat) (kp : Keeps r0 s) :
    Keeps r0 (State.waitGrant s ch acct) := by
  unfold State.waitGrant
  repeat' first
    | with_reducible assumption
    | intro _
    | with_reducible apply Keeps.ite
    | (lift_lets; intro _)
    | split
    | dsimp only
    | fail_if_no_progress with_reducible apply Keeps.upd
    | dsimp +zetaDelta only

theorem State.unwaitGrant_keeps {r0 : State} (s : State) (ch : Nat) (kp : Keeps r0 s) :
    Keeps r0 (State.unwaitGrant s ch) := by
  unfold State.unwaitGrant
  repeat' first
    | with_reducible assumption
    | intro _
    | with_reducible apply Keeps.ite
    | (lift_lets; intro _)
    | split
    | dsimp only
    | fail_if_no_progress with_reducible apply Keeps.upd
    | dsimp +zetaDelta only

end Sys2Proof.Machine
end

