-- ==== Sys2Proof/Laws/KeepsLedgerOps.lean ====
section
/-! SUPPORT. The operations of Machine/LedgerOps.lean keep the queue of commands and the form of the memory. -/

namespace Sys2Proof.Machine
open Sys2Proof

theorem State.flushJournal_keeps {r0 : State} (s : State) (kp : Keeps r0 s) :
    Keeps r0 (State.flushJournal s) := by
  unfold State.flushJournal
  repeat' first
    | with_reducible assumption
    | intro _
    | with_reducible apply State.wakeDomain_keeps
    | with_reducible apply Keeps.ite
    | (lift_lets; intro _)
    | split
    | dsimp only
    | fail_if_no_progress with_reducible apply Keeps.upd
    | dsimp +zetaDelta only

theorem State.journalRec_keeps {r0 : State} (s : State) (code : BitVec 16) (long : Bool) (step : Bool) (fw : Bool) (mid : Nat) (payload : Nat) (kp : Keeps r0 s) :
    Keeps r0 (State.journalRec s code long step fw mid payload) := by
  unfold State.journalRec
  repeat' first
    | with_reducible assumption
    | intro _
    | with_reducible apply State.flushJournal_keeps
    | with_reducible apply Keeps.ite
    | (lift_lets; intro _)
    | split
    | dsimp only
    | fail_if_no_progress with_reducible apply Keeps.upd
    | dsimp +zetaDelta only

theorem State.journalHost_keeps {r0 : State} (s : State) (m : Nat) (kind : Nat) (q : Nat) (count : Nat) (why : Nat) (kp : Keeps r0 s) :
    Keeps r0 (State.journalHost s m kind q count why) := by
  unfold State.journalHost
  repeat' first
    | with_reducible assumption
    | intro _
    | with_reducible apply State.journalRec_keeps
    | with_reducible apply Keeps.ite
    | (lift_lets; intro _)
    | split
    | dsimp only
    | fail_if_no_progress with_reducible apply Keeps.upd
    | dsimp +zetaDelta only

theorem State.dsSend_keeps {r0 : State} (s : State) (ty : TxType) (prio : Bool) (body : TxBody) (kp : Keeps r0 s) :
    Keeps r0 (State.dsSend s ty prio body) := by
  unfold State.dsSend
  repeat' first
    | with_reducible assumption
    | intro _
    | with_reducible apply Keeps.ite
    | (lift_lets; intro _)
    | split
    | dsimp only
    | fail_if_no_progress with_reducible apply Keeps.upd
    | dsimp +zetaDelta only

theorem State.mirror_keeps {r0 : State} (s : State) (ty : TxType) (prio : Bool) (body : TxBody) (kp : Keeps r0 s) :
    Keeps r0 (State.mirror s ty prio body) := by
  unfold State.mirror
  repeat' first
    | with_reducible assumption
    | intro _
    | with_reducible apply State.dsSend_keeps
    | with_reducible apply Keeps.ite
    | (lift_lets; intro _)
    | split
    | dsimp only
    | fail_if_no_progress with_reducible apply Keeps.upd
    | dsimp +zetaDelta only

theorem State.cfgMirror_keeps {r0 : State} (s : State) (off : Nat) (size : Nat) (v : Nat) (kp : Keeps r0 s) :
    Keeps r0 (State.cfgMirror s off size v) := by
  unfold State.cfgMirror
  repeat' first
    | with_reducible assumption
    | intro _
    | with_reducible apply State.mirror_keeps
    | with_reducible apply Keeps.ite
    | (lift_lets; intro _)
    | split
    | dsimp only
    | fail_if_no_progress with_reducible apply Keeps.upd
    | dsimp +zetaDelta only

theorem State.notePeak_keeps {r0 : State} (s : State) (t : Nat) (kp : Keeps r0 s) :
    Keeps r0 (State.notePeak s t) := by
  unfold State.notePeak
  repeat' first
    | with_reducible assumption
    | intro _
    | with_reducible apply Keeps.ite
    | (lift_lets; intro _)
    | split
    | dsimp only
    | fail_if_no_progress with_reducible apply Keeps.upd
    | dsimp +zetaDelta only

theorem State.sendSlices_keeps {r0 : State} (s : State) (kp : Keeps r0 s) :
    Keeps r0 (State.sendSlices s) := by
  unfold State.sendSlices
  repeat' first
    | with_reducible assumption
    | intro _
    | with_reducible apply State.each_keeps
    | with_reducible apply State.dsSend_keeps
    | with_reducible apply Keeps.ite
    | (lift_lets; intro _)
    | split
    | dsimp only
    | fail_if_no_progress with_reducible apply Keeps.upd
    | dsimp +zetaDelta only

theorem State.doneEffect_keeps {r0 : State} (s : State) (ch : Nat) (residual : Nat) (kp : Keeps r0 s) :
    Keeps r0 (State.doneEffect s ch residual) := by
  unfold State.doneEffect
  repeat' first
    | with_reducible assumption
    | intro _
    | with_reducible apply State.mirror_keeps
    | with_reducible apply Keeps.ite
    | (lift_lets; intro _)
    | split
    | dsimp only
    | fail_if_no_progress with_reducible apply Keeps.upd
    | dsimp +zetaDelta only

theorem State.dropEffect_keeps {r0 : State} (s : State) (ch : Nat) (kp : Keeps r0 s) :
    Keeps r0 (State.dropEffect s ch) := by
  unfold State.dropEffect
  repeat' first
    | with_reducible assumption
    | intro _
    | with_reducible apply State.updChan_keeps
    | with_reducible apply Keeps.ite
    | (lift_lets; intro _)
    | split
    | dsimp only
    | fail_if_no_progress with_reducible apply Keeps.upd
    | dsimp +zetaDelta only

theorem State.markReported_keeps {r0 : State} (s : State) (i : Nat) (e : LEntry) (kp : Keeps r0 s) :
    Keeps r0 (State.markReported s i e) := by
  unfold State.markReported
  repeat' first
    | with_reducible assumption
    | intro _
    | with_reducible apply State.mirror_keeps
    | with_reducible apply Keeps.ite
    | (lift_lets; intro _)
    | split
    | dsimp only
    | fail_if_no_progress with_reducible apply Keeps.upd
    | dsimp +zetaDelta only

theorem State.reportOne_keeps {r0 : State} (s : State) (ch : Nat) (slot : Option Nat) (mslot : Option Nat) (kp : Keeps r0 s) :
    Keeps r0 (State.reportOne s ch slot mslot) := by
  unfold State.reportOne
  repeat' first
    | with_reducible assumption
    | intro _
    | with_reducible apply State.markReported_keeps
    | with_reducible apply Keeps.ite
    | (lift_lets; intro _)
    | split
    | dsimp only
    | fail_if_no_progress with_reducible apply Keeps.upd
    | dsimp +zetaDelta only

theorem State.mirrorCh_keeps {r0 : State} (s : State) (ch : Nat) (kp : Keeps r0 s) :
    Keeps r0 (State.mirrorCh s ch) := by
  unfold State.mirrorCh
  repeat' first
    | with_reducible assumption
    | intro _
    | with_reducible apply State.mirror_keeps
    | with_reducible apply Keeps.ite
    | (lift_lets; intro _)
    | split
    | dsimp only
    | fail_if_no_progress with_reducible apply Keeps.upd
    | dsimp +zetaDelta only

theorem State.goChan_keeps {r0 : State} (s : State) (ch : Nat) (f : Chan → Chan) (kp : Keeps r0 s) :
    Keeps r0 (State.goChan s ch f) := by
  unfold State.goChan
  repeat' first
    | with_reducible assumption
    | intro _
    | with_reducible apply State.mirrorCh_keeps
    | with_reducible apply State.updChan_keeps
    | with_reducible apply Keeps.ite
    | (lift_lets; intro _)
    | split
    | dsimp only
    | fail_if_no_progress with_reducible apply Keeps.upd
    | dsimp +zetaDelta only

theorem State.reportBelow_keeps {r0 : State} (s : State) (ch : Nat) (gen : BitVec 16) (floor : BitVec 16) (mslots : List Nat) (kp : Keeps r0 s) :
    Keeps r0 (State.reportBelow s ch gen floor mslots) := by
  unfold State.reportBelow
  repeat' first
    | with_reducible assumption
    | intro _
    | with_reducible apply State.each_keeps
    | with_reducible apply State.markReported_keeps
    | with_reducible apply State.goChan_keeps
    | with_reducible apply Keeps.ite
    | (lift_lets; intro _)
    | split
    | dsimp only
    | fail_if_no_progress with_reducible apply Keeps.upd
    | dsimp +zetaDelta only

theorem State.reportAll_keeps {r0 : State} (s : State) (ch : Nat) (kp : Keeps r0 s) :
    Keeps r0 (State.reportAll s ch) := by
  unfold State.reportAll
  repeat' first
    | with_reducible assumption
    | intro _
    | with_reducible apply State.reportBelow_keeps
    | with_reducible apply State.updChan_keeps
    | with_reducible apply Keeps.ite
    | (lift_lets; intro _)
    | split
    | dsimp only
    | fail_if_no_progress with_reducible apply Keeps.upd
    | dsimp +zetaDelta only

theorem State.giveSlot_keeps {r0 : State} (s : State) (ch : Nat) (kp : Keeps r0 s) :
    Keeps r0 (State.giveSlot s ch) := by
  unfold State.giveSlot
  repeat' first
    | with_reducible assumption
    | intro _
    | with_reducible apply State.updChan_keeps
    | with_reducible apply Keeps.ite
    | (lift_lets; intro _)
    | split
    | dsimp only
    | fail_if_no_progress with_reducible apply Keeps.upd
    | dsimp +zetaDelta only

theorem State.markSlot_keeps {r0 : State} (s : State) (ch : Nat) (m : MSlot) (kp : Keeps r0 s) :
    Keeps r0 (State.markSlot s ch m) := by
  unfold State.markSlot
  repeat' first
    | with_reducible assumption
    | intro _
    | with_reducible apply State.updChan_keeps
    | with_reducible apply Keeps.ite
    | (lift_lets; intro _)
    | split
    | dsimp only
    | fail_if_no_progress with_reducible apply Keeps.upd
    | dsimp +zetaDelta only

theorem State.openEffect_keeps {r0 : State} (s : State) (ch : Nat) (ccw : Word64) (rs : Bool) (kp : Keeps r0 s) :
    Keeps r0 (State.openEffect s ch ccw rs) := by
  unfold State.openEffect
  repeat' first
    | with_reducible assumption
    | intro _
    | with_reducible apply State.goChan_keeps
    | with_reducible apply State.notePeak_keeps
    | with_reducible apply State.mirror_keeps
    | with_reducible apply State.updChan_keeps
    | with_reducible apply State.markSlot_keeps
    | with_reducible apply Keeps.ite
    | (lift_lets; intro _)
    | split
    | dsimp only
    | fail_if_no_progress with_reducible apply Keeps.upd
    | dsimp +zetaDelta only

theorem State.beginSkip_keeps {r0 : State} (s : State) (ch : Nat) (r : Option Nat × BitVec 8 × Nat) (kp : Keeps r0 s) :
    Keeps r0 (State.beginSkip s ch r) := by
  unfold State.beginSkip
  repeat' first
    | with_reducible assumption
    | intro _
    | with_reducible apply State.updChan_keeps
    | with_reducible apply State.takeWord_keeps
    | with_reducible apply Keeps.ite
    | (lift_lets; intro _)
    | split
    | dsimp only
    | fail_if_no_progress with_reducible apply Keeps.upd
    | dsimp +zetaDelta only

theorem State.newAnchor_keeps {r0 : State} (s : State) (ch : Nat) (kp : Keeps r0 s) :
    Keeps r0 (State.newAnchor s ch) := by
  unfold State.newAnchor
  repeat' first
    | with_reducible assumption
    | intro _
    | with_reducible apply State.goChan_keeps
    | with_reducible apply Keeps.ite
    | (lift_lets; intro _)
    | split
    | dsimp only
    | fail_if_no_progress with_reducible apply Keeps.upd
    | dsimp +zetaDelta only

end Sys2Proof.Machine
end

