-- ==== Sys2Proof/Laws/KeepsRecordOps.lean ====
section
/-! SUPPORT. The operations of Machine/RecordOps.lean keep the queue of commands and the form of the memory. -/

namespace Sys2Proof.Machine
open Sys2Proof

theorem State.enterHead_keeps {r0 : State} (s : State) (q : Nat) (bytes : List Byte) (raise : Bool) (kp : Keeps r0 s) :
    Keeps r0 (State.enterHead s q bytes raise) := by
  unfold State.enterHead
  repeat' first
    | with_reducible assumption
    | intro _
    | with_reducible apply State.setLink_keeps
    | with_reducible apply State.heldPulse_keeps
    | with_reducible apply State.egress_keeps
    | with_reducible apply State.pulse_keeps
    | with_reducible apply Keeps.ite
    | (lift_lets; intro _)
    | split
    | dsimp only
    | fail_if_no_progress with_reducible apply Keeps.upd
    | dsimp +zetaDelta only

theorem State.gateRec_keeps {r0 : State} (s : State) (md : Nat) (w : Egress) (raise : Bool) (kp : Keeps r0 s) :
    Keeps r0 (State.gateRec s md w raise) := by
  unfold State.gateRec
  repeat' first
    | with_reducible assumption
    | intro _
    | with_reducible apply Keeps.ite
    | (lift_lets; intro _)
    | split
    | dsimp only
    | fail_if_no_progress with_reducible apply Keeps.upd
    | dsimp +zetaDelta only

theorem State.putRec_keeps {r0 : State} (s : State) (md : Nat) (w : Egress) (enter : State → State) (henter : ∀ t, Keeps r0 t → Keeps r0 (enter t)) (kp : Keeps r0 s) :
    Keeps r0 (State.putRec s md w enter) := by
  unfold State.putRec
  repeat' first
    | with_reducible assumption
    | intro _
    | with_reducible apply henter
    | with_reducible apply State.gateRec_keeps
    | with_reducible apply State.mirror_keeps
    | with_reducible apply Keeps.ite
    | (lift_lets; intro _)
    | split
    | dsimp only
    | fail_if_no_progress with_reducible apply Keeps.upd
    | dsimp +zetaDelta only

theorem State.writeHead_keeps {r0 : State} (s : State) (q : Nat) (kp : Keeps r0 s) :
    Keeps r0 (State.writeHead s q) := by
  unfold State.writeHead
  repeat' first
    | with_reducible assumption
    | intro _
    | with_reducible apply State.updQ_keeps
    | with_reducible apply State.gateRec_keeps
    | with_reducible apply State.mirror_keeps
    | with_reducible apply State.enterHead_keeps
    | with_reducible apply Keeps.ite
    | (lift_lets; intro _)
    | split
    | dsimp only
    | fail_if_no_progress with_reducible apply Keeps.upd
    | dsimp +zetaDelta only

theorem State.advance0_keeps {r0 : State} (s : State) (q : Nat) (kp : Keeps r0 s) :
    Keeps r0 (State.advance0 s q) := by
  unfold State.advance0
  repeat' first
    | with_reducible assumption
    | intro _
    | with_reducible apply State.writeHead_keeps
    | with_reducible apply State.setQ_keeps
    | with_reducible apply Keeps.ite
    | (lift_lets; intro _)
    | split
    | dsimp only
    | fail_if_no_progress with_reducible apply Keeps.upd
    | dsimp +zetaDelta only

theorem State.markDone_keeps {r0 : State} (s : State) (q : Nat) (cnt : Word32) (kp : Keeps r0 s) :
    Keeps r0 (State.markDone s q cnt) := by
  unfold State.markDone
  repeat' first
    | with_reducible assumption
    | intro _
    | with_reducible apply State.updQ_keeps
    | with_reducible apply Keeps.ite
    | (lift_lets; intro _)
    | split
    | dsimp only
    | fail_if_no_progress with_reducible apply Keeps.upd
    | dsimp +zetaDelta only

theorem State.send_keeps {r0 : State} (s : State) (md : Nat) (kind : EgKind) (addr : Word64) (bytes : List Byte) (relaxed : Bool) (kp : Keeps r0 s) :
    Keeps r0 (State.send s md kind addr bytes relaxed) := by
  unfold State.send
  repeat' first
    | with_reducible assumption
    | intro _
    | with_reducible apply State.heldPulse_keeps
    | with_reducible apply State.egress_keeps
    | with_reducible apply Keeps.ite
    | (lift_lets; intro _)
    | split
    | dsimp only
    | fail_if_no_progress with_reducible apply Keeps.upd
    | dsimp +zetaDelta only

theorem State.enterEntry_keeps {r0 : State} (s : State) (q : Nat) (cnt : Word32) (b : List Byte) (kp : Keeps r0 s) :
    Keeps r0 (State.enterEntry s q cnt b) := by
  unfold State.enterEntry
  repeat' first
    | with_reducible assumption
    | intro _
    | with_reducible apply State.send_keeps
    | with_reducible apply State.advance0_keeps
    | with_reducible apply State.markDone_keeps
    | with_reducible apply Keeps.ite
    | (lift_lets; intro _)
    | split
    | dsimp only
    | fail_if_no_progress with_reducible apply Keeps.upd
    | dsimp +zetaDelta only

theorem State.finish0_keeps {r0 : State} (s : State) (q : Nat) (cnt : Word32) (r : StatusRec) (kp : Keeps r0 s) :
    Keeps r0 (State.finish0 s q cnt r) := by
  unfold State.finish0
  repeat' first
    | with_reducible assumption
    | intro _
    | with_reducible apply State.putRec_keeps
    | with_reducible apply State.enterEntry_keeps
    | with_reducible apply Keeps.ite
    | (lift_lets; intro _)
    | split
    | dsimp only
    | fail_if_no_progress with_reducible apply Keeps.upd
    | dsimp +zetaDelta only

theorem State.finishFence_keeps {r0 : State} (s : State) (q : Nat) (f : Word32) (detail : Nat) (kp : Keeps r0 s) :
    Keeps r0 (State.finishFence s q f detail) := by
  unfold State.finishFence
  repeat' first
    | with_reducible assumption
    | intro _
    | with_reducible apply State.updQ_keeps
    | with_reducible apply State.finish0_keeps
    | with_reducible apply Keeps.ite
    | (lift_lets; intro _)
    | split
    | dsimp only
    | fail_if_no_progress with_reducible apply Keeps.upd
    | dsimp +zetaDelta only

theorem State.settle_keeps {r0 : State} (s : State)  (n : Nat) (h : Keeps r0 s) : Keeps r0 (s.settle n) := by
  induction n generalizing s with
  | zero => exact h
  | succ n ih =>
    unfold State.settle
    repeat' first
      | with_reducible assumption
      | with_reducible apply ih
      | with_reducible apply State.finishFence_keeps
      | intro _
      | split
      | dsimp only
      | fail_if_no_progress with_reducible apply Keeps.upd

theorem State.settled_keeps {r0 : State} (s : State) (kp : Keeps r0 s) :
    Keeps r0 (State.settled s) := by
  unfold State.settled
  repeat' first
    | with_reducible assumption
    | intro _
    | with_reducible apply State.settle_keeps
    | with_reducible apply Keeps.ite
    | (lift_lets; intro _)
    | split
    | dsimp only
    | fail_if_no_progress with_reducible apply Keeps.upd
    | dsimp +zetaDelta only

theorem State.advance_keeps {r0 : State} (s : State) (q : Nat) (kp : Keeps r0 s) :
    Keeps r0 (State.advance s q) := by
  unfold State.advance
  repeat' first
    | with_reducible assumption
    | intro _
    | with_reducible apply State.settled_keeps
    | with_reducible apply State.advance0_keeps
    | with_reducible apply Keeps.ite
    | (lift_lets; intro _)
    | split
    | dsimp only
    | fail_if_no_progress with_reducible apply Keeps.upd
    | dsimp +zetaDelta only

theorem State.finish_keeps {r0 : State} (s : State) (q : Nat) (cnt : Word32) (r : StatusRec) (kp : Keeps r0 s) :
    Keeps r0 (State.finish s q cnt r) := by
  unfold State.finish
  repeat' first
    | with_reducible assumption
    | intro _
    | with_reducible apply State.settled_keeps
    | with_reducible apply State.finish0_keeps
    | with_reducible apply Keeps.ite
    | (lift_lets; intro _)
    | split
    | dsimp only
    | fail_if_no_progress with_reducible apply Keeps.upd
    | dsimp +zetaDelta only

theorem State.clearChan_keeps {r0 : State} (s : State) (ch : Nat) (kp : Keeps r0 s) :
    Keeps r0 (State.clearChan s ch) := by
  unfold State.clearChan
  repeat' first
    | with_reducible assumption
    | intro _
    | with_reducible apply State.updChan_keeps
    | with_reducible apply State.freeChChain_keeps
    | with_reducible apply Keeps.ite
    | (lift_lets; intro _)
    | split
    | dsimp only
    | fail_if_no_progress with_reducible apply Keeps.upd
    | dsimp +zetaDelta only

theorem State.haltAtRest_keeps {r0 : State} (s : State) (q : Nat) (ch : Nat) (e : Entry) (kp : Keeps r0 s) :
    Keeps r0 (State.haltAtRest s q ch e) := by
  unfold State.haltAtRest
  repeat' first
    | with_reducible assumption
    | intro _
    | with_reducible apply State.goChan_keeps
    | with_reducible apply State.freeChChain_keeps
    | with_reducible apply State.finish0_keeps
    | with_reducible apply Keeps.ite
    | (lift_lets; intro _)
    | split
    | dsimp only
    | fail_if_no_progress with_reducible apply Keeps.upd
    | dsimp +zetaDelta only

theorem State.clearAtRest_keeps {r0 : State} (s : State) (q : Nat) (ch : Nat) (e : Entry) (kp : Keeps r0 s) :
    Keeps r0 (State.clearAtRest s q ch e) := by
  unfold State.clearAtRest
  repeat' first
    | with_reducible assumption
    | intro _
    | with_reducible apply State.mirrorCh_keeps
    | with_reducible apply State.clearChan_keeps
    | with_reducible apply State.finish0_keeps
    | with_reducible apply Keeps.ite
    | (lift_lets; intro _)
    | split
    | dsimp only
    | fail_if_no_progress with_reducible apply Keeps.upd
    | dsimp +zetaDelta only

theorem State.runWaiting_keeps {r0 : State} (s : State) (ch : Nat) (kp : Keeps r0 s) :
    Keeps r0 (State.runWaiting s ch) := by
  unfold State.runWaiting
  repeat' first
    | with_reducible assumption
    | intro _
    | with_reducible apply State.updChan_keeps
    | with_reducible apply State.each_keeps
    | with_reducible apply State.haltAtRest_keeps
    | with_reducible apply State.clearAtRest_keeps
    | with_reducible apply Keeps.ite
    | (lift_lets; intro _)
    | split
    | dsimp only
    | fail_if_no_progress with_reducible apply Keeps.upd
    | dsimp +zetaDelta only

theorem State.leavePorts_keeps {r0 : State} (s : State) (ch : Nat) (kp : Keeps r0 s) :
    Keeps r0 (State.leavePorts s ch) := by
  unfold State.leavePorts
  repeat' first
    | with_reducible assumption
    | intro _
    | with_reducible apply Keeps.ite
    | (lift_lets; intro _)
    | split
    | dsimp only
    | fail_if_no_progress with_reducible apply Keeps.upd
    | dsimp +zetaDelta only

theorem State.finalStands_keeps {r0 : State} (s : State) (q : Nat) (cnt : Word32) (ch : Nat) (code : BitVec 16) (kp : Keeps r0 s) :
    Keeps r0 (State.finalStands s q cnt ch code) := by
  unfold State.finalStands
  repeat' first
    | with_reducible assumption
    | intro _
    | with_reducible apply State.goChan_keeps
    | with_reducible apply State.reportAll_keeps
    | with_reducible apply State.freeChChain_keeps
    | with_reducible apply State.runWaiting_keeps
    | with_reducible apply State.advance0_keeps
    | with_reducible apply State.markDone_keeps
    | with_reducible apply Keeps.ite
    | (lift_lets; intro _)
    | split
    | dsimp only
    | fail_if_no_progress with_reducible apply Keeps.upd
    | dsimp +zetaDelta only

theorem State.enterFinal_keeps {r0 : State} (s : State) (q : Nat) (cnt : Word32) (ch : Nat) (code : BitVec 16) (ccw : Word64) (b : List Byte) (kp : Keeps r0 s) :
    Keeps r0 (State.enterFinal s q cnt ch code ccw b) := by
  unfold State.enterFinal
  repeat' first
    | with_reducible assumption
    | intro _
    | with_reducible apply State.send_keeps
    | with_reducible apply State.finalStands_keeps
    | with_reducible apply Keeps.ite
    | (lift_lets; intro _)
    | split
    | dsimp only
    | fail_if_no_progress with_reducible apply Keeps.upd
    | dsimp +zetaDelta only

theorem State.dropBlocks_keeps {r0 : State} (s : State) (ch : Nat) (kp : Keeps r0 s) :
    Keeps r0 (State.dropBlocks s ch) := by
  unfold State.dropBlocks
  repeat' first
    | with_reducible assumption
    | intro _
    | with_reducible apply State.updChan_keeps
    | with_reducible apply Keeps.ite
    | (lift_lets; intro _)
    | split
    | dsimp only
    | fail_if_no_progress with_reducible apply Keeps.upd
    | dsimp +zetaDelta only

theorem State.endProgram_keeps {r0 : State} (s : State) (ch : Nat) (code : BitVec 16) (residual : Nat) (detail : Nat) (kp : Keeps r0 s) :
    Keeps r0 (State.endProgram s ch code residual detail) := by
  unfold State.endProgram
  repeat' first
    | with_reducible assumption
    | intro _
    | with_reducible apply State.goChan_keeps
    | with_reducible apply State.beat_keeps
    | with_reducible apply State.dropBlocks_keeps
    | with_reducible apply State.unwaitGrant_keeps
    | with_reducible apply State.leavePorts_keeps
    | with_reducible apply State.putRec_keeps
    | with_reducible apply State.settled_keeps
    | with_reducible apply State.enterFinal_keeps
    | with_reducible apply Keeps.ite
    | (lift_lets; intro _)
    | split
    | dsimp only
    | fail_if_no_progress with_reducible apply Keeps.upd
    | dsimp +zetaDelta only

theorem State.failAt_keeps {r0 : State} (s : State) (ch : Nat) (code : BitVec 16) (detail : Nat) (kp : Keeps r0 s) :
    Keeps r0 (State.failAt s ch code detail) := by
  unfold State.failAt
  repeat' first
    | with_reducible assumption
    | intro _
    | with_reducible apply State.updChan_keeps
    | with_reducible apply State.endProgram_keeps
    | with_reducible apply State.takeWord_keeps
    | with_reducible apply Keeps.ite
    | (lift_lets; intro _)
    | split
    | dsimp only
    | fail_if_no_progress with_reducible apply Keeps.upd
    | dsimp +zetaDelta only

theorem State.fail_keeps {r0 : State} (s : State) (ch : Nat) (code : BitVec 16) (kp : Keeps r0 s) :
    Keeps r0 (State.fail s ch code) := by
  unfold State.fail
  repeat' first
    | with_reducible assumption
    | intro _
    | with_reducible apply State.endProgram_keeps
    | with_reducible apply Keeps.ite
    | (lift_lets; intro _)
    | split
    | dsimp only
    | fail_if_no_progress with_reducible apply Keeps.upd
    | dsimp +zetaDelta only

theorem State.interimReports_keeps {r0 : State} (s : State) (ch : Nat) (what : Reported) (kp : Keeps r0 s) :
    Keeps r0 (State.interimReports s ch what) := by
  unfold State.interimReports
  repeat' first
    | with_reducible assumption
    | intro _
    | with_reducible apply State.reportOne_keeps
    | with_reducible apply State.reportBelow_keeps
    | with_reducible apply Keeps.ite
    | (lift_lets; intro _)
    | split
    | dsimp only
    | fail_if_no_progress with_reducible apply Keeps.upd
    | dsimp +zetaDelta only

theorem State.enterInterim_keeps {r0 : State} (s : State) (md : Nat) (ch : Nat) (what : Reported) (addr : Word64) (b : List Byte) (kp : Keeps r0 s) :
    Keeps r0 (State.enterInterim s md ch what addr b) := by
  unfold State.enterInterim
  repeat' first
    | with_reducible assumption
    | intro _
    | with_reducible apply State.send_keeps
    | with_reducible apply State.interimReports_keeps
    | with_reducible apply Keeps.ite
    | (lift_lets; intro _)
    | split
    | dsimp only
    | fail_if_no_progress with_reducible apply Keeps.upd
    | dsimp +zetaDelta only

theorem State.interim_keeps {r0 : State} (s : State) (ch : Nat) (post : Bool) (ccw : Word64) (residual : Nat) (detail : Nat) (kp : Keeps r0 s) :
    Keeps r0 (State.interim s ch post ccw residual detail) := by
  unfold State.interim
  repeat' first
    | with_reducible assumption
    | intro _
    | with_reducible apply State.goChan_keeps
    | with_reducible apply State.beat_keeps
    | with_reducible apply State.putRec_keeps
    | with_reducible apply State.enterInterim_keeps
    | with_reducible apply Keeps.ite
    | (lift_lets; intro _)
    | split
    | dsimp only
    | fail_if_no_progress with_reducible apply Keeps.upd
    | dsimp +zetaDelta only

theorem State.enterReply_keeps {r0 : State} (s : State) (cnt : Word32) (b : List Byte) (kp : Keeps r0 s) :
    Keeps r0 (State.enterReply s cnt b) := by
  unfold State.enterReply
  repeat' first
    | with_reducible assumption
    | intro _
    | with_reducible apply State.send_keeps
    | with_reducible apply State.pulse_keeps
    | with_reducible apply Keeps.ite
    | (lift_lets; intro _)
    | split
    | dsimp only
    | fail_if_no_progress with_reducible apply Keeps.upd
    | dsimp +zetaDelta only

theorem State.passGate_keeps {r0 : State} (s : State) (g : Gated) (kp : Keeps r0 s) :
    Keeps r0 (State.passGate s g) := by
  unfold State.passGate
  repeat' first
    | with_reducible assumption
    | intro _
    | with_reducible apply State.enterFinal_keeps
    | with_reducible apply State.enterEntry_keeps
    | with_reducible apply State.enterInterim_keeps
    | with_reducible apply State.enterHead_keeps
    | with_reducible apply State.enterReply_keeps
    | with_reducible apply State.send_keeps
    | with_reducible apply Keeps.ite
    | (lift_lets; intro _)
    | split
    | dsimp only
    | fail_if_no_progress with_reducible apply Keeps.upd
    | dsimp +zetaDelta only

theorem State.openGates_keeps {r0 : State} (s : State) (p : Nat → Bool) (kp : Keeps r0 s) :
    Keeps r0 (State.openGates s p) := by
  unfold State.openGates
  repeat' first
    | with_reducible assumption
    | intro _
    | with_reducible apply State.settled_keeps
    | with_reducible apply State.each_keeps
    | with_reducible apply State.passGate_keeps
    | with_reducible apply Keeps.ite
    | (lift_lets; intro _)
    | split
    | dsimp only
    | fail_if_no_progress with_reducible apply Keeps.upd
    | dsimp +zetaDelta only

theorem State.passLate_keeps {r0 : State} (s : State) (kp : Keeps r0 s) :
    Keeps r0 (State.passLate s) := by
  unfold State.passLate
  repeat' first
    | with_reducible assumption
    | intro _
    | with_reducible apply State.settled_keeps
    | with_reducible apply State.each_keeps
    | with_reducible apply State.putRec_keeps
    | with_reducible apply State.passGate_keeps
    | with_reducible apply Keeps.ite
    | (lift_lets; intro _)
    | split
    | dsimp only
    | fail_if_no_progress with_reducible apply Keeps.upd
    | dsimp +zetaDelta only

theorem State.park_keeps {r0 : State} (s : State) (ch : Nat) (why : ParkWhy) (overrun : Bool) (kp : Keeps r0 s) :
    Keeps r0 (State.park s ch why overrun) := by
  unfold State.park
  repeat' first
    | with_reducible assumption
    | intro _
    | with_reducible apply State.failAt_keeps
    | with_reducible apply State.countPark_keeps
    | with_reducible apply State.goChan_keeps
    | with_reducible apply Keeps.ite
    | (lift_lets; intro _)
    | split
    | dsimp only
    | fail_if_no_progress with_reducible apply Keeps.upd
    | dsimp +zetaDelta only

theorem State.unpark_keeps {r0 : State} (s : State) (ch : Nat) (kp : Keeps r0 s) :
    Keeps r0 (State.unpark s ch) := by
  unfold State.unpark
  repeat' first
    | with_reducible assumption
    | intro _
    | with_reducible apply State.goChan_keeps
    | with_reducible apply Keeps.ite
    | (lift_lets; intro _)
    | split
    | dsimp only
    | fail_if_no_progress with_reducible apply Keeps.upd
    | dsimp +zetaDelta only

end Sys2Proof.Machine
end

