-- ==== Sys2Proof/Laws/KeepsPortOps.lean ====
section
/-! SUPPORT. The operations of Machine/PortOps.lean keep the queue of commands and the form of the memory. -/

namespace Sys2Proof.Machine
open Sys2Proof

theorem State.portLine_keeps {r0 : State} (s : State) (p : Nat) (kp : Keeps r0 s) :
    Keeps r0 (State.portLine s p) := by
  unfold State.portLine
  repeat' first
    | with_reducible assumption
    | intro _
    | with_reducible apply State.setLine_keeps
    | with_reducible apply Keeps.ite
    | (lift_lets; intro _)
    | split
    | dsimp only
    | fail_if_no_progress with_reducible apply Keeps.upd
    | dsimp +zetaDelta only

theorem State.portEvt_keeps {r0 : State} (s : State) (p : Nat) (i : Nat) (kp : Keeps r0 s) :
    Keeps r0 (State.portEvt s p i) := by
  unfold State.portEvt
  repeat' first
    | with_reducible assumption
    | intro _
    | with_reducible apply State.portLine_keeps
    | with_reducible apply State.updPort_keeps
    | with_reducible apply Keeps.ite
    | (lift_lets; intro _)
    | split
    | dsimp only
    | fail_if_no_progress with_reducible apply Keeps.upd
    | dsimp +zetaDelta only

theorem State.rxDrop_keeps {r0 : State} (s : State) (p : Nat) (kp : Keeps r0 s) :
    Keeps r0 (State.rxDrop s p) := by
  unfold State.rxDrop
  repeat' first
    | with_reducible assumption
    | intro _
    | with_reducible apply State.portEvt_keeps
    | with_reducible apply State.updPort_keeps
    | with_reducible apply Keeps.ite
    | (lift_lets; intro _)
    | split
    | dsimp only
    | fail_if_no_progress with_reducible apply Keeps.upd
    | dsimp +zetaDelta only

theorem State.portSafe_keeps {r0 : State} (s : State) (p : Nat) (kp : Keeps r0 s) :
    Keeps r0 (State.portSafe s p) := by
  unfold State.portSafe
  repeat' first
    | with_reducible assumption
    | intro _
    | with_reducible apply State.updPort_keeps
    | with_reducible apply Keeps.ite
    | (lift_lets; intro _)
    | split
    | dsimp only
    | fail_if_no_progress with_reducible apply Keeps.upd
    | dsimp +zetaDelta only

theorem State.portUp_keeps {r0 : State} (s : State) (p : Nat) (kp : Keeps r0 s) :
    Keeps r0 (State.portUp s p) := by
  unfold State.portUp
  repeat' first
    | with_reducible assumption
    | intro _
    | with_reducible apply State.updPort_keeps
    | with_reducible apply State.portEvt_keeps
    | with_reducible apply Keeps.ite
    | (lift_lets; intro _)
    | split
    | dsimp only
    | fail_if_no_progress with_reducible apply Keeps.upd
    | dsimp +zetaDelta only

theorem State.endOnPort_keeps {r0 : State} (s : State) (p : Nat) (code : BitVec 16) (ch : Nat) (kp : Keeps r0 s) :
    Keeps r0 (State.endOnPort s p code ch) := by
  unfold State.endOnPort
  repeat' first
    | with_reducible assumption
    | intro _
    | with_reducible apply State.updChan_keeps
    | with_reducible apply State.failAt_keeps
    | with_reducible apply Keeps.ite
    | (lift_lets; intro _)
    | split
    | dsimp only
    | fail_if_no_progress with_reducible apply Keeps.upd
    | dsimp +zetaDelta only

theorem State.enterFault_keeps {r0 : State} (s : State) (p : Nat) (cause : Nat) (kp : Keeps r0 s) :
    Keeps r0 (State.enterFault s p cause) := by
  unfold State.enterFault
  repeat' first
    | with_reducible assumption
    | intro _
    | with_reducible apply State.portEvt_keeps
    | with_reducible apply State.updPort_keeps
    | with_reducible apply State.each_keeps
    | with_reducible apply State.endOnPort_keeps
    | with_reducible apply Keeps.ite
    | (lift_lets; intro _)
    | split
    | dsimp only
    | fail_if_no_progress with_reducible apply Keeps.upd
    | dsimp +zetaDelta only

theorem State.upOrFault_keeps {r0 : State} (s : State) (p : Nat) (kp : Keeps r0 s) :
    Keeps r0 (State.upOrFault s p) := by
  unfold State.upOrFault
  repeat' first
    | with_reducible assumption
    | intro _
    | with_reducible apply State.portSafe_keeps
    | with_reducible apply State.updPort_keeps
    | with_reducible apply State.portUp_keeps
    | with_reducible apply State.enterFault_keeps
    | with_reducible apply Keeps.ite
    | (lift_lets; intro _)
    | split
    | dsimp only
    | fail_if_no_progress with_reducible apply Keeps.upd
    | dsimp +zetaDelta only

theorem State.portOos_keeps {r0 : State} (s : State) (p : Nat) (code : BitVec 16) (kp : Keeps r0 s) :
    Keeps r0 (State.portOos s p code) := by
  unfold State.portOos
  repeat' first
    | with_reducible assumption
    | intro _
    | with_reducible apply State.portSafe_keeps
    | with_reducible apply State.updPort_keeps
    | with_reducible apply State.each_keeps
    | with_reducible apply State.endOnPort_keeps
    | with_reducible apply Keeps.ite
    | (lift_lets; intro _)
    | split
    | dsimp only
    | fail_if_no_progress with_reducible apply Keeps.upd
    | dsimp +zetaDelta only

theorem State.canError_keeps {r0 : State} (s : State) (p : Nat) (cls : Nat) (kp : Keeps r0 s) :
    Keeps r0 (State.canError s p cls) := by
  unfold State.canError
  repeat' first
    | with_reducible assumption
    | intro _
    | with_reducible apply State.updPort_keeps
    | with_reducible apply Keeps.ite
    | (lift_lets; intro _)
    | split
    | dsimp only
    | fail_if_no_progress with_reducible apply Keeps.upd
    | dsimp +zetaDelta only

theorem State.violRecord_keeps {r0 : State} (s : State) (p : Nat) (cls : Nat) (node : Option Nat) (kp : Keeps r0 s) :
    Keeps r0 (State.violRecord s p cls node) := by
  unfold State.violRecord
  repeat' first
    | with_reducible assumption
    | intro _
    | with_reducible apply Keeps.getD
    | with_reducible apply State.updPort_keeps
    | with_reducible apply State.canError_keeps
    | with_reducible apply State.portEvt_keeps
    | with_reducible apply State.journalRec_keeps
    | with_reducible apply Keeps.ite
    | (lift_lets; intro _)
    | split
    | dsimp only
    | fail_if_no_progress with_reducible apply Keeps.upd
    | dsimp +zetaDelta only

theorem State.qlimCount_keeps {r0 : State} (s : State) (p n : Nat) (h : Keeps r0 s) : Keeps r0 (s.qlimCount p n).2 := by
  unfold State.qlimCount
  exact State.setPort_keeps _ _ _ h

theorem State.qlimCount_of {r0 s t : State} {p n : Nat} {x : Nat} (h : Keeps r0 s) (e : s.qlimCount p n = (x, t)) : Keeps r0 t := by
  have g := State.qlimCount_keeps s p n h
  rw [e] at g
  exact g

theorem State.respTo_keeps {r0 : State} (s : State) (p cls : Nat) (node : Option Nat) (h : Keeps r0 s) :
    Keeps r0 (s.respTo p cls node).2 := by
  unfold State.respTo
  repeat' first
    | with_reducible assumption
    | with_reducible apply State.qlimCount_keeps
    | refine State.qlimCount_of ?_ (by with_reducible assumption)
    | split
    | dsimp only

theorem State.respTo_of {r0 s t : State} {p cls : Nat} {node : Option Nat} {x : Resp} (h : Keeps r0 s) (e : s.respTo p cls node = (x, t)) : Keeps r0 t := by
  have g := State.respTo_keeps s p cls node h
  rw [e] at g
  exact g

theorem State.quarantine_keeps {r0 : State} (s : State) (p : Nat) (n : Nat) (kp : Keeps r0 s) :
    Keeps r0 (State.quarantine s p n) := by
  unfold State.quarantine
  repeat' first
    | with_reducible assumption
    | intro _
    | with_reducible apply State.portEvt_keeps
    | with_reducible apply State.updPort_keeps
    | with_reducible apply Keeps.ite
    | (lift_lets; intro _)
    | split
    | dsimp only
    | fail_if_no_progress with_reducible apply Keeps.upd
    | dsimp +zetaDelta only

theorem State.isolate_keeps {r0 : State} (s : State) (p : Nat) (kp : Keeps r0 s) :
    Keeps r0 (State.isolate s p) := by
  unfold State.isolate
  repeat' first
    | with_reducible assumption
    | intro _
    | with_reducible apply State.portEvt_keeps
    | with_reducible apply State.portSafe_keeps
    | with_reducible apply State.updPort_keeps
    | with_reducible apply State.each_keeps
    | with_reducible apply State.endOnPort_keeps
    | with_reducible apply Keeps.ite
    | (lift_lets; intro _)
    | split
    | dsimp only
    | fail_if_no_progress with_reducible apply Keeps.upd
    | dsimp +zetaDelta only

theorem State.respSide_keeps {r0 : State} (s : State) (p : Nat) (node : Option Nat) (r : Resp) (kp : Keeps r0 s) :
    Keeps r0 (State.respSide s p node r) := by
  unfold State.respSide
  repeat' first
    | with_reducible assumption
    | intro _
    | with_reducible apply State.quarantine_keeps
    | with_reducible apply State.isolate_keeps
    | with_reducible apply State.pulse_keeps
    | with_reducible apply Keeps.ite
    | (lift_lets; intro _)
    | split
    | dsimp only
    | fail_if_no_progress with_reducible apply Keeps.upd
    | dsimp +zetaDelta only

theorem State.violAlone_keeps {r0 : State} (s : State) (p : Nat) (cls : Nat) (node : Option Nat) (kp : Keeps r0 s) :
    Keeps r0 (State.violAlone s p cls node) := by
  unfold State.violAlone
  repeat' first
    | with_reducible assumption
    | intro _
    | with_reducible apply State.respTo_keeps
    | refine State.respTo_of ?_ (by with_reducible assumption)
    | with_reducible apply State.violRecord_keeps
    | with_reducible apply State.respSide_keeps
    | with_reducible apply Keeps.ite
    | (lift_lets; intro _)
    | split
    | dsimp only
    | fail_if_no_progress with_reducible apply Keeps.upd
    | dsimp +zetaDelta only

theorem State.setCond_keeps {r0 : State} (s : State) (ch : Nat) (bits : Nat) (kp : Keeps r0 s) :
    Keeps r0 (State.setCond s ch bits) := by
  unfold State.setCond
  repeat' first
    | with_reducible assumption
    | intro _
    | with_reducible apply State.updChan_keeps
    | with_reducible apply Keeps.ite
    | (lift_lets; intro _)
    | split
    | dsimp only
    | fail_if_no_progress with_reducible apply Keeps.upd
    | dsimp +zetaDelta only

theorem State.lineDiag_keeps {r0 : State} (s : State) (p : Nat) (readings : List Word32) (kp : Keeps r0 s) :
    Keeps r0 (State.lineDiag s p readings) := by
  unfold State.lineDiag
  repeat' first
    | with_reducible assumption
    | intro _
    | with_reducible apply State.updPort_keeps
    | with_reducible apply Keeps.ite
    | (lift_lets; intro _)
    | split
    | dsimp only
    | fail_if_no_progress with_reducible apply Keeps.upd
    | dsimp +zetaDelta only

end Sys2Proof.Machine
end

