-- ==== Sys2Proof/Laws/KeepsRestOps.lean ====
section
/-! SUPPORT. The operations of Machine/RestOps.lean keep the queue of commands and the form of the memory. -/

namespace Sys2Proof.Machine
open Sys2Proof

theorem State.retarget_keeps {r0 : State} (s : State) (kp : Keeps r0 s) :
    Keeps r0 (State.retarget s) := by
  unfold State.retarget
  repeat' first
    | with_reducible assumption
    | intro _
    | with_reducible apply State.each_keeps
    | with_reducible apply State.wakeDomain_keeps
    | with_reducible apply Keeps.ite
    | (lift_lets; intro _)
    | split
    | dsimp only
    | fail_if_no_progress with_reducible apply Keeps.upd
    | dsimp +zetaDelta only

end Sys2Proof.Machine
end

