-- ==== Sys2Proof/Laws/KeepsDieOps.lean ====
section
/-! SUPPORT. The operations of Machine/DieOps.lean keep the queue of commands and the form of the memory. -/

namespace Sys2Proof.Machine
open Sys2Proof

theorem State.sendHb_keeps {r0 : State} (s : State) (halting : Bool) (kp : Keeps r0 s) :
    Keeps r0 (State.sendHb s halting) := by
  unfold State.sendHb
  repeat' first
    | with_reducible assumption
    | intro _
    | with_reducible apply State.dsSend_keeps
    | with_reducible apply Keeps.ite
    | (lift_lets; intro _)
    | split
    | dsimp only
    | fail_if_no_progress with_reducible apply Keeps.upd
    | dsimp +zetaDelta only

theorem State.journalOpen_keeps {r0 : State} (s : State) (kp : Keeps r0 s) :
    Keeps r0 (State.journalOpen s) := by
  unfold State.journalOpen
  repeat' first
    | with_reducible assumption
    | intro _
    | with_reducible apply State.each_keeps
    | with_reducible apply State.journalRec_keeps
    | with_reducible apply Keeps.ite
    | (lift_lets; intro _)
    | split
    | dsimp only
    | fail_if_no_progress with_reducible apply Keeps.upd
    | dsimp +zetaDelta only

theorem State.allSafe_keeps {r0 : State} (s : State) (kp : Keeps r0 s) :
    Keeps r0 (State.allSafe s) := by
  unfold State.allSafe
  repeat' first
    | with_reducible assumption
    | intro _
    | with_reducible apply State.each_keeps
    | with_reducible apply State.portSafe_keeps
    | with_reducible apply Keeps.ite
    | (lift_lets; intro _)
    | split
    | dsimp only
    | fail_if_no_progress with_reducible apply Keeps.upd
    | dsimp +zetaDelta only

theorem State.haltDie_keeps {r0 : State} (s : State) (kp : Keeps r0 s) :
    Keeps r0 (State.haltDie s) := by
  unfold State.haltDie
  repeat' first
    | with_reducible assumption
    | intro _
    | with_reducible apply State.allSafe_keeps
    | with_reducible apply State.flushJournal_keeps
    | with_reducible apply State.journalOpen_keeps
    | with_reducible apply State.sendHb_keeps
    | with_reducible apply Keeps.ite
    | (lift_lets; intro _)
    | split
    | dsimp only
    | fail_if_no_progress with_reducible apply Keeps.upd
    | dsimp +zetaDelta only

theorem State.pumpReads_keeps {r0 : State} (s : State) (md : Nat)  (n : Nat) (h : Keeps r0 s) : Keeps r0 (s.pumpReads md n) := by
  induction n generalizing s with
  | zero => exact h
  | succ n ih =>
    unfold State.pumpReads
    repeat' first
      | with_reducible assumption
      | with_reducible apply ih
      | with_reducible apply State.setLink_keeps
      | intro _
      | split
      | dsimp only
      | fail_if_no_progress with_reducible apply Keeps.upd

theorem State.pump_keeps {r0 : State} (s : State) (md : Nat) (kp : Keeps r0 s) :
    Keeps r0 (State.pump s md) := by
  unfold State.pump
  repeat' first
    | with_reducible assumption
    | intro _
    | with_reducible apply State.pumpReads_keeps
    | with_reducible apply Keeps.ite
    | (lift_lets; intro _)
    | split
    | dsimp only
    | fail_if_no_progress with_reducible apply Keeps.upd
    | dsimp +zetaDelta only

theorem State.pumpAll_keeps {r0 : State} (s : State) (md : Nat) (kp : Keeps r0 s) :
    Keeps r0 (State.pumpAll s md) := by
  unfold State.pumpAll
  repeat' first
    | with_reducible assumption
    | intro _
    | with_reducible apply State.pump_keeps
    | with_reducible apply Keeps.ite
    | (lift_lets; intro _)
    | split
    | dsimp only
    | fail_if_no_progress with_reducible apply Keeps.upd
    | dsimp +zetaDelta only

theorem State.askRead_keeps {r0 : State} (s : State) (md : Nat) (r : HostRead) (kp : Keeps r0 s) :
    Keeps r0 (State.askRead s md r) := by
  unfold State.askRead
  repeat' first
    | with_reducible assumption
    | intro _
    | with_reducible apply State.pump_keeps
    | with_reducible apply State.wantLink_keeps
    | with_reducible apply State.updLink_keeps
    | with_reducible apply Keeps.ite
    | (lift_lets; intro _)
    | split
    | dsimp only
    | fail_if_no_progress with_reducible apply Keeps.upd
    | dsimp +zetaDelta only

theorem State.endRead_of {r0 s t : State} {md : Nat} {p : ReadReq → Bool} {r : HostRead} (h : Keeps r0 s) (e : s.endRead md p = some (r, t)) : Keeps r0 t := by
  unfold State.endRead at e
  try dsimp only at e
  repeat' split at e
  all_goals first
    | cases e
  all_goals repeat' first
    | with_reducible assumption
    | with_reducible apply State.pumpAll_keeps
    | with_reducible apply State.updLink_keeps
    | intro _
    | split
    | dsimp only
    | fail_if_no_progress with_reducible apply Keeps.upd

theorem State.endReadAny_of {r0 s t : State} {p : ReadReq → Bool} {r : HostRead} (h : Keeps r0 s) (e : s.endReadAny p = some (r, t)) : Keeps r0 t := by
  unfold State.endReadAny at e
  try dsimp only at e
  repeat' split at e
  all_goals first
    | exact State.endRead_of h e
    | cases e
  all_goals repeat' first
    | with_reducible assumption
    | refine State.endRead_of ?_ (by with_reducible assumption)
    | intro _
    | split
    | dsimp only
    | fail_if_no_progress with_reducible apply Keeps.upd

theorem State.dropReads_keeps {r0 : State} (s : State) (p : ReadReq → Bool) (kp : Keeps r0 s) :
    Keeps r0 (State.dropReads s p) := by
  unfold State.dropReads
  repeat' first
    | with_reducible assumption
    | intro _
    | with_reducible apply Keeps.ite
    | (lift_lets; intro _)
    | split
    | dsimp only
    | fail_if_no_progress with_reducible apply Keeps.upd
    | dsimp +zetaDelta only

theorem State.keepWrite_keeps {r0 : State} (s : State) (md : Nat) (e : Egress) (kp : Keeps r0 s) :
    Keeps r0 (State.keepWrite s md e) := by
  unfold State.keepWrite
  repeat' first
    | with_reducible assumption
    | intro _
    | refine State.grantMany_of ?_ (by with_reducible assumption)
    | with_reducible apply State.updLink_keeps
    | with_reducible apply State.fillCells_keeps
    | with_reducible apply Keeps.ite
    | (lift_lets; intro _)
    | split
    | dsimp only
    | fail_if_no_progress with_reducible apply Keeps.upd
    | dsimp +zetaDelta only

theorem State.keepHeld_keeps {r0 : State} (s : State) (md : Nat) (kp : Keeps r0 s) :
    Keeps r0 (State.keepHeld s md) := by
  unfold State.keepHeld
  repeat' first
    | with_reducible assumption
    | intro _
    | with_reducible apply State.each_keeps
    | with_reducible apply State.freeOne_keeps
    | with_reducible apply State.keepWrite_keeps
    | with_reducible apply Keeps.ite
    | (lift_lets; intro _)
    | split
    | dsimp only
    | fail_if_no_progress with_reducible apply Keeps.upd
    | dsimp +zetaDelta only

theorem State.writeHost_keeps {r0 : State} (s : State) (md : Nat) (kind : EgKind) (addr : Nat) (l : List Byte) (relaxed : Bool)  (n : Nat) (h : Keeps r0 s) : Keeps r0 (s.writeHost md kind addr l relaxed n) := by
  induction n generalizing s addr l with
  | zero => exact h
  | succ n ih =>
    unfold State.writeHost
    repeat' first
      | with_reducible assumption
      | with_reducible apply ih
      | with_reducible apply State.send_keeps
      | intro _
      | split
      | dsimp only
      | fail_if_no_progress with_reducible apply Keeps.upd

end Sys2Proof.Machine
end

