-- ==== Sys2Proof/Laws/KeepsCtxOps.lean ====
section
/-! SUPPORT. The operations of Machine/CtxOps.lean keep the queue of commands and the form of the memory. -/

namespace Sys2Proof.Machine
open Sys2Proof

theorem State.lockLine_keeps {r0 : State} (s : State) (kp : Keeps r0 s) :
    Keeps r0 (State.lockLine s) := by
  unfold State.lockLine
  repeat' first
    | with_reducible assumption
    | intro _
    | with_reducible apply State.setLine_keeps
    | with_reducible apply Keeps.ite
    | (lift_lets; intro _)
    | split
    | dsimp only
    | fail_if_no_progress with_reducible apply Keeps.upd
    | dsimp +zetaDelta only

theorem State.setLock_keeps {r0 : State} (s : State) (core : Nat) (b : Bool) (kp : Keeps r0 s) :
    Keeps r0 (State.setLock s core b) := by
  unfold State.setLock
  repeat' first
    | with_reducible assumption
    | intro _
    | with_reducible apply State.lockLine_keeps
    | with_reducible apply Keeps.ite
    | (lift_lets; intro _)
    | split
    | dsimp only
    | fail_if_no_progress with_reducible apply Keeps.upd
    | dsimp +zetaDelta only

theorem State.setFreeze_keeps {r0 : State} (s : State) (core : Nat) (b : Bool) (kp : Keeps r0 s) :
    Keeps r0 (State.setFreeze s core b) := by
  unfold State.setFreeze
  repeat' first
    | with_reducible assumption
    | intro _
    | with_reducible apply Keeps.ite
    | (lift_lets; intro _)
    | split
    | dsimp only
    | fail_if_no_progress with_reducible apply Keeps.upd
    | dsimp +zetaDelta only

theorem State.setNow_keeps {r0 : State} (s : State) (core : Nat) (k : Nat) (n : Nat) (kp : Keeps r0 s) :
    Keeps r0 (State.setNow s core k n) := by
  unfold State.setNow
  repeat' first
    | with_reducible assumption
    | intro _
    | with_reducible apply State.updCore_keeps
    | with_reducible apply Keeps.ite
    | (lift_lets; intro _)
    | split
    | dsimp only
    | fail_if_no_progress with_reducible apply Keeps.upd
    | dsimp +zetaDelta only

theorem State.mark_keeps {r0 : State} (s : State) (core : Nat) (k : Nat) (kp : Keeps r0 s) :
    Keeps r0 (State.mark s core k) := by
  unfold State.mark
  repeat' first
    | with_reducible assumption
    | intro _
    | with_reducible apply State.updCtx_keeps
    | with_reducible apply Keeps.ite
    | (lift_lets; intro _)
    | split
    | dsimp only
    | fail_if_no_progress with_reducible apply Keeps.upd
    | dsimp +zetaDelta only

theorem State.passWait_keeps {r0 : State} (s : State) (core : Nat) (k : Nat) (kp : Keeps r0 s) :
    Keeps r0 (State.passWait s core k) := by
  unfold State.passWait
  repeat' first
    | with_reducible assumption
    | intro _
    | with_reducible apply State.updCtx_keeps
    | with_reducible apply State.setNow_keeps
    | with_reducible apply Keeps.ite
    | (lift_lets; intro _)
    | split
    | dsimp only
    | fail_if_no_progress with_reducible apply Keeps.upd
    | dsimp +zetaDelta only

theorem State.holdCtx_keeps {r0 : State} (s : State) (core : Nat) (k : Nat) (kp : Keeps r0 s) :
    Keeps r0 (State.holdCtx s core k) := by
  unfold State.holdCtx
  repeat' first
    | with_reducible assumption
    | intro _
    | with_reducible apply State.mark_keeps
    | with_reducible apply State.updCtx_keeps
    | with_reducible apply State.passWait_keeps
    | with_reducible apply Keeps.ite
    | (lift_lets; intro _)
    | split
    | dsimp only
    | fail_if_no_progress with_reducible apply Keeps.upd
    | dsimp +zetaDelta only

theorem State.wfeWake_keeps {r0 : State} (s : State) (core : Nat) (k : Nat) (kp : Keeps r0 s) :
    Keeps r0 (State.wfeWake s core k) := by
  unfold State.wfeWake
  repeat' first
    | with_reducible assumption
    | intro _
    | with_reducible apply State.updCtx_keeps
    | with_reducible apply State.passWait_keeps
    | with_reducible apply Keeps.ite
    | (lift_lets; intro _)
    | split
    | dsimp only
    | fail_if_no_progress with_reducible apply Keeps.upd
    | dsimp +zetaDelta only

theorem State.arrange_keeps {r0 : State} (s : State) (core : Nat) (kp : Keeps r0 s) :
    Keeps r0 (State.arrange s core) := by
  unfold State.arrange
  repeat' first
    | with_reducible assumption
    | intro _
    | with_reducible apply State.each_keeps
    | with_reducible apply State.wfeWake_keeps
    | with_reducible apply State.holdCtx_keeps
    | with_reducible apply Keeps.ite
    | (lift_lets; intro _)
    | split
    | dsimp only
    | fail_if_no_progress with_reducible apply Keeps.upd
    | dsimp +zetaDelta only

theorem State.arrangeAll_keeps {r0 : State} (s : State) (kp : Keeps r0 s) :
    Keeps r0 (State.arrangeAll s) := by
  unfold State.arrangeAll
  repeat' first
    | with_reducible assumption
    | intro _
    | with_reducible apply State.each_keeps
    | with_reducible apply State.arrange_keeps
    | with_reducible apply Keeps.ite
    | (lift_lets; intro _)
    | split
    | dsimp only
    | fail_if_no_progress with_reducible apply Keeps.upd
    | dsimp +zetaDelta only

theorem State.setLatch_keeps {r0 : State} (s : State) (core : Nat) (k : Nat) (kp : Keeps r0 s) :
    Keeps r0 (State.setLatch s core k) := by
  unfold State.setLatch
  repeat' first
    | with_reducible assumption
    | intro _
    | with_reducible apply State.wfeWake_keeps
    | with_reducible apply State.updCtx_keeps
    | with_reducible apply Keeps.ite
    | (lift_lets; intro _)
    | split
    | dsimp only
    | fail_if_no_progress with_reducible apply Keeps.upd
    | dsimp +zetaDelta only

end Sys2Proof.Machine
end

