-- ==== Sys2Proof/Laws/KeepsMbxOps.lean ====
section
/-! SUPPORT. The operations of Machine/MbxOps.lean keep the queue of commands and the form of the memory. -/

namespace Sys2Proof.Machine
open Sys2Proof

theorem State.mbxLine_keeps {r0 : State} (s : State) (mb : Nat) (kp : Keeps r0 s) :
    Keeps r0 (State.mbxLine s mb) := by
  unfold State.mbxLine
  repeat' first
    | with_reducible assumption
    | intro _
    | with_reducible apply State.setLine_keeps
    | with_reducible apply Keeps.ite
    | (lift_lets; intro _)
    | split
    | dsimp only
    | fail_if_no_progress with_reducible apply Keeps.upd
    | dsimp +zetaDelta only

theorem State.mbxFire_keeps {r0 : State} (s : State) (mb : Nat) (kp : Keeps r0 s) :
    Keeps r0 (State.mbxFire s mb) := by
  unfold State.mbxFire
  repeat' first
    | with_reducible assumption
    | intro _
    | with_reducible apply State.setLatch_keeps
    | with_reducible apply State.setMbx_keeps
    | with_reducible apply Keeps.ite
    | (lift_lets; intro _)
    | split
    | dsimp only
    | fail_if_no_progress with_reducible apply Keeps.upd
    | dsimp +zetaDelta only

theorem State.mbxAccept_keeps {r0 : State} (s : State) (mb : Nat) (cell : Nat) (h : MsgHdr) (kp : Keeps r0 s) :
    Keeps r0 (State.mbxAccept s mb cell h) := by
  unfold State.mbxAccept
  repeat' first
    | with_reducible assumption
    | intro _
    | with_reducible apply State.setCell_keeps
    | with_reducible apply State.store_keeps
    | with_reducible apply State.touchCell_keeps
    | with_reducible apply State.mbxLine_keeps
    | with_reducible apply State.mbxFire_keeps
    | with_reducible apply State.setMbx_keeps
    | with_reducible apply Keeps.ite
    | (lift_lets; intro _)
    | split
    | dsimp only
    | fail_if_no_progress with_reducible apply Keeps.upd
    | dsimp +zetaDelta only

theorem State.mbxRefused_keeps {r0 : State} (s : State) (mb : Nat) (kp : Keeps r0 s) :
    Keeps r0 (State.mbxRefused s mb) := by
  unfold State.mbxRefused
  repeat' first
    | with_reducible assumption
    | intro _
    | with_reducible apply State.updMbx_keeps
    | with_reducible apply Keeps.ite
    | (lift_lets; intro _)
    | split
    | dsimp only
    | fail_if_no_progress with_reducible apply Keeps.upd
    | dsimp +zetaDelta only

end Sys2Proof.Machine
end

