-- ==== Sys2Proof/Laws/KeepsKmdOps.lean ====
section
/-! SUPPORT. The operations of Machine/KmdOps.lean keep the queue of commands and the form of the memory. -/

namespace Sys2Proof.Machine
open Sys2Proof

theorem State.kmdFlush_keeps {r0 : State} (s : State) (p : Nat) (kp : Keeps r0 s) :
    Keeps r0 (State.kmdFlush s p) := by
  unfold State.kmdFlush
  repeat' first
    | with_reducible assumption
    | intro _
    | with_reducible apply State.each_keeps
    | with_reducible apply Keeps.ite
    | (lift_lets; intro _)
    | split
    | dsimp only
    | fail_if_no_progress with_reducible apply Keeps.upd
    | dsimp +zetaDelta only

theorem State.kmdSend_keeps {r0 : State} (s : State) (f : KmdFrame) (kp : Keeps r0 s) :
    Keeps r0 (State.kmdSend s f) := by
  unfold State.kmdSend
  repeat' first
    | with_reducible assumption
    | intro _
    | with_reducible apply State.kmdFlush_keeps
    | with_reducible apply Keeps.ite
    | (lift_lets; intro _)
    | split
    | dsimp only
    | fail_if_no_progress with_reducible apply Keeps.upd
    | dsimp +zetaDelta only

theorem State.kmdAnnounce_keeps {r0 : State} (s : State) (mb : Nat) (role : Byte) (epoch : BitVec 16) (kp : Keeps r0 s) :
    Keeps r0 (State.kmdAnnounce s mb role epoch) := by
  unfold State.kmdAnnounce
  repeat' first
    | with_reducible assumption
    | intro _
    | with_reducible apply State.kmdSend_keeps
    | with_reducible apply Keeps.ite
    | (lift_lets; intro _)
    | split
    | dsimp only
    | fail_if_no_progress with_reducible apply Keeps.upd
    | dsimp +zetaDelta only

end Sys2Proof.Machine
end

