-- ==== Sys2Proof/Laws/KeepsAqOps.lean ====
section
/-! SUPPORT. The operations of Machine/AqOps.lean keep the queue of commands and the form of the memory. -/

namespace Sys2Proof.Machine
open Sys2Proof

theorem State.admWaits_keeps {r0 : State} (s : State) (c : AdmCmd) (kp : Keeps r0 s) :
    Keeps r0 (State.admWaits s c) := by
  unfold State.admWaits
  repeat' first
    | with_reducible assumption
    | intro _
    | with_reducible apply Keeps.ite
    | (lift_lets; intro _)
    | split
    | dsimp only
    | fail_if_no_progress with_reducible apply Keeps.upd
    | dsimp +zetaDelta only

theorem State.replyAdm_keeps {r0 : State} (s : State) (c : AdmCmd) (code : BitVec 16) (arg : Nat) (res : List Nat) (chg : Option (List ConfigRec)) (kp : Keeps r0 s) :
    Keeps r0 (State.replyAdm s c code arg res chg) := by
  unfold State.replyAdm
  repeat' first
    | with_reducible assumption
    | intro _
    | with_reducible apply Keeps.getD
    | with_reducible apply State.admWaits_keeps
    | with_reducible apply State.gateRec_keeps
    | with_reducible apply State.mirror_keeps
    | with_reducible apply State.enterReply_keeps
    | with_reducible apply Keeps.ite
    | (lift_lets; intro _)
    | split
    | dsimp only
    | fail_if_no_progress with_reducible apply Keeps.upd
    | dsimp +zetaDelta only

theorem State.replyOk_keeps {r0 : State} (s : State) (c : AdmCmd) (res : List Nat) (chg : Option (List ConfigRec)) (kp : Keeps r0 s) :
    Keeps r0 (State.replyOk s c res chg) := by
  unfold State.replyOk
  repeat' first
    | with_reducible assumption
    | intro _
    | with_reducible apply State.replyAdm_keeps
    | with_reducible apply Keeps.ite
    | (lift_lets; intro _)
    | split
    | dsimp only
    | fail_if_no_progress with_reducible apply Keeps.upd
    | dsimp +zetaDelta only

theorem State.replyBad_keeps {r0 : State} (s : State) (c : AdmCmd) (code : BitVec 16) (kp : Keeps r0 s) :
    Keeps r0 (State.replyBad s c code) := by
  unfold State.replyBad
  repeat' first
    | with_reducible assumption
    | intro _
    | with_reducible apply State.replyAdm_keeps
    | with_reducible apply Keeps.ite
    | (lift_lets; intro _)
    | split
    | dsimp only
    | fail_if_no_progress with_reducible apply Keeps.upd
    | dsimp +zetaDelta only

theorem State.askPacket_keeps {r0 : State} (s : State) (kp : Keeps r0 s) :
    Keeps r0 (State.askPacket s) := by
  unfold State.askPacket
  repeat' first
    | with_reducible assumption
    | intro _
    | with_reducible apply State.askRead_keeps
    | with_reducible apply State.wakeDomain_keeps
    | with_reducible apply Keeps.ite
    | (lift_lets; intro _)
    | split
    | dsimp only
    | fail_if_no_progress with_reducible apply Keeps.upd
    | dsimp +zetaDelta only

theorem State.admStart1_keeps {r0 : State} (s : State) (c : AdmCmd) (kp : Keeps r0 s) :
    Keeps r0 (State.admStart1 s c) := by
  unfold State.admStart1
  repeat' first
    | with_reducible assumption
    | intro _
    | with_reducible apply State.replyBad_keeps
    | with_reducible apply State.askRead_keeps
    | with_reducible apply Keeps.ite
    | (lift_lets; intro _)
    | split
    | dsimp only
    | fail_if_no_progress with_reducible apply Keeps.upd
    | dsimp +zetaDelta only

theorem State.admStart_keeps {r0 : State} (s : State)  (n : Nat) (h : Keeps r0 s) : Keeps r0 (s.admStart n) := by
  induction n generalizing s with
  | zero => exact h
  | succ n ih =>
    unfold State.admStart
    repeat' first
      | with_reducible assumption
      | with_reducible apply ih
      | with_reducible apply State.each_keeps
      | with_reducible apply State.admStart1_keeps
      | intro _
      | split
      | dsimp only
      | fail_if_no_progress with_reducible apply Keeps.upd

theorem State.aqKick_keeps {r0 : State} (s : State) (kp : Keeps r0 s) :
    Keeps r0 (State.aqKick s) := by
  unfold State.aqKick
  repeat' first
    | with_reducible assumption
    | intro _
    | with_reducible apply State.askPacket_keeps
    | with_reducible apply State.admStart_keeps
    | with_reducible apply Keeps.ite
    | (lift_lets; intro _)
    | split
    | dsimp only
    | fail_if_no_progress with_reducible apply Keeps.upd
    | dsimp +zetaDelta only

end Sys2Proof.Machine
end

