-- ==== Sys2Proof/Laws/KeepsQueueOps.lean ====
section
/-! SUPPORT. The operations of Machine/QueueOps.lean keep the queue of commands and the form of the memory. -/

namespace Sys2Proof.Machine
open Sys2Proof

theorem State.askSlots_keeps {r0 : State} (s : State) (q : Nat) (r : ReadReq) (kp : Keeps r0 s) :
    Keeps r0 (State.askSlots s q r) := by
  unfold State.askSlots
  repeat' first
    | with_reducible assumption
    | intro _
    | with_reducible apply State.askRead_keeps
    | with_reducible apply State.updQ_keeps
    | with_reducible apply Keeps.ite
    | (lift_lets; intro _)
    | split
    | dsimp only
    | fail_if_no_progress with_reducible apply Keeps.upd
    | dsimp +zetaDelta only

theorem State.askDesc_keeps {r0 : State} (s : State) (q : Nat) (c : Word32) (n : Nat) (again : Bool) (kp : Keeps r0 s) :
    Keeps r0 (State.askDesc s q c n again) := by
  unfold State.askDesc
  repeat' first
    | with_reducible assumption
    | intro _
    | with_reducible apply State.askSlots_keeps
    | with_reducible apply Keeps.ite
    | (lift_lets; intro _)
    | split
    | dsimp only
    | fail_if_no_progress with_reducible apply Keeps.upd
    | dsimp +zetaDelta only

theorem State.askPoll_keeps {r0 : State} (s : State) (q : Nat) (kp : Keeps r0 s) :
    Keeps r0 (State.askPoll s q) := by
  unfold State.askPoll
  repeat' first
    | with_reducible assumption
    | intro _
    | with_reducible apply State.askSlots_keeps
    | with_reducible apply Keeps.ite
    | (lift_lets; intro _)
    | split
    | dsimp only
    | fail_if_no_progress with_reducible apply Keeps.upd
    | dsimp +zetaDelta only

theorem State.askPcnt_keeps {r0 : State} (s : State) (q : Nat) (kp : Keeps r0 s) :
    Keeps r0 (State.askPcnt s q) := by
  unfold State.askPcnt
  repeat' first
    | with_reducible assumption
    | intro _
    | with_reducible apply State.askRead_keeps
    | with_reducible apply State.updQ_keeps
    | with_reducible apply Keeps.ite
    | (lift_lets; intro _)
    | split
    | dsimp only
    | fail_if_no_progress with_reducible apply Keeps.upd
    | dsimp +zetaDelta only

theorem State.slotsGo_keeps {r0 : State} (s : State) (kp : Keeps r0 s) :
    Keeps r0 (State.slotsGo s) := by
  unfold State.slotsGo
  repeat' first
    | with_reducible assumption
    | intro _
    | with_reducible apply State.each_keeps
    | with_reducible apply State.askSlots_keeps
    | with_reducible apply Keeps.ite
    | (lift_lets; intro _)
    | split
    | dsimp only
    | fail_if_no_progress with_reducible apply Keeps.upd
    | dsimp +zetaDelta only

theorem State.cancelReads_keeps {r0 : State} (s : State) (q : Nat) (kp : Keeps r0 s) :
    Keeps r0 (State.cancelReads s q) := by
  unfold State.cancelReads
  repeat' first
    | with_reducible assumption
    | intro _
    | with_reducible apply State.updQ_keeps
    | with_reducible apply Keeps.ite
    | (lift_lets; intro _)
    | split
    | dsimp only
    | fail_if_no_progress with_reducible apply Keeps.upd
    | dsimp +zetaDelta only

theorem State.staleSlots_keeps {r0 : State} (s : State) (q : Nat) (kp : Keeps r0 s) :
    Keeps r0 (State.staleSlots s q) := by
  unfold State.staleSlots
  repeat' first
    | with_reducible assumption
    | intro _
    | with_reducible apply State.updQ_keeps
    | with_reducible apply State.cancelReads_keeps
    | with_reducible apply Keeps.ite
    | (lift_lets; intro _)
    | split
    | dsimp only
    | fail_if_no_progress with_reducible apply Keeps.upd
    | dsimp +zetaDelta only

theorem State.kick_keeps {r0 : State} (s : State) (q : Nat) (kp : Keeps r0 s) :
    Keeps r0 (State.kick s q) := by
  unfold State.kick
  repeat' first
    | with_reducible assumption
    | intro _
    | with_reducible apply State.askPcnt_keeps
    | with_reducible apply State.askDesc_keeps
    | with_reducible apply Keeps.ite
    | (lift_lets; intro _)
    | split
    | dsimp only
    | fail_if_no_progress with_reducible apply Keeps.upd
    | dsimp +zetaDelta only

theorem State.offer_keeps {r0 : State} (s : State) (m : Nat) (q : Nat) (count : Word32) (kp : Keeps r0 s) :
    Keeps r0 (State.offer s m q count) := by
  unfold State.offer
  repeat' first
    | with_reducible assumption
    | intro _
    | with_reducible apply State.kick_keeps
    | with_reducible apply State.setQ_keeps
    | with_reducible apply State.journalHost_keeps
    | with_reducible apply Keeps.ite
    | (lift_lets; intro _)
    | split
    | dsimp only
    | fail_if_no_progress with_reducible apply Keeps.upd
    | dsimp +zetaDelta only

theorem State.stopQueue_keeps {r0 : State} (s : State) (q : Nat) (why : Nat) (errIdx : Word32) (kp : Keeps r0 s) :
    Keeps r0 (State.stopQueue s q why errIdx) := by
  unfold State.stopQueue
  repeat' first
    | with_reducible assumption
    | intro _
    | with_reducible apply State.advance_keeps
    | with_reducible apply State.staleSlots_keeps
    | with_reducible apply State.updQ_keeps
    | with_reducible apply Keeps.ite
    | (lift_lets; intro _)
    | split
    | dsimp only
    | fail_if_no_progress with_reducible apply Keeps.upd
    | dsimp +zetaDelta only

theorem State.malformed_keeps {r0 : State} (s : State) (q : Nat) (why : Nat) (kp : Keeps r0 s) :
    Keeps r0 (State.malformed s q why) := by
  unfold State.malformed
  repeat' first
    | with_reducible assumption
    | intro _
    | with_reducible apply State.updQ_keeps
    | with_reducible apply State.mirror_keeps
    | with_reducible apply State.haltDie_keeps
    | with_reducible apply State.journalHost_keeps
    | with_reducible apply State.stopQueue_keeps
    | with_reducible apply Keeps.ite
    | (lift_lets; intro _)
    | split
    | dsimp only
    | fail_if_no_progress with_reducible apply Keeps.upd
    | dsimp +zetaDelta only

theorem State.bindEntry_keeps {r0 : State} (s : State) (q : Nat) (len : Nat) (pad : Bool) (fence : Bool) (kp : Keeps r0 s) :
    Keeps r0 (State.bindEntry s q len pad fence) := by
  unfold State.bindEntry
  repeat' first
    | with_reducible assumption
    | intro _
    | with_reducible apply State.updQ_keeps
    | with_reducible apply State.mirror_keeps
    | with_reducible apply State.writeHead_keeps
    | with_reducible apply Keeps.ite
    | (lift_lets; intro _)
    | split
    | dsimp only
    | fail_if_no_progress with_reducible apply Keeps.upd
    | dsimp +zetaDelta only

theorem State.turnLoop_keeps {r0 : State} (s : State) (q served : Nat)  (n : Nat) (h : Keeps r0 s) : Keeps r0 (s.turnLoop q served n) := by
  induction n generalizing s served with
  | zero => exact h
  | succ n ih =>
    unfold State.turnLoop
    repeat' first
      | with_reducible assumption
      | with_reducible apply ih
      | with_reducible apply State.malformed_keeps
      | with_reducible apply State.bindEntry_keeps
      | intro _
      | split
      | dsimp only
      | fail_if_no_progress with_reducible apply Keeps.upd

theorem State.turnOn_keeps {r0 : State} (s : State) (q : Nat) (served : Nat) (kp : Keeps r0 s) :
    Keeps r0 (State.turnOn s q served) := by
  unfold State.turnOn
  repeat' first
    | with_reducible assumption
    | intro _
    | with_reducible apply State.turnLoop_keeps
    | with_reducible apply State.askPoll_keeps
    | with_reducible apply State.updQ_keeps
    | with_reducible apply State.kick_keeps
    | with_reducible apply Keeps.ite
    | (lift_lets; intro _)
    | split
    | dsimp only
    | fail_if_no_progress with_reducible apply Keeps.upd
    | dsimp +zetaDelta only

theorem State.turn1_keeps {r0 : State} (s : State) (q : Nat) (kp : Keeps r0 s) :
    Keeps r0 (State.turn1 s q) := by
  unfold State.turn1
  repeat' first
    | with_reducible assumption
    | intro _
    | with_reducible apply State.turnOn_keeps
    | with_reducible apply Keeps.ite
    | (lift_lets; intro _)
    | split
    | dsimp only
    | fail_if_no_progress with_reducible apply Keeps.upd
    | dsimp +zetaDelta only

theorem State.newRound_keeps {r0 : State} (s : State) (kp : Keeps r0 s) :
    Keeps r0 (State.newRound s) := by
  unfold State.newRound
  repeat' first
    | with_reducible assumption
    | intro _
    | with_reducible apply Keeps.ite
    | (lift_lets; intro _)
    | split
    | dsimp only
    | fail_if_no_progress with_reducible apply Keeps.upd
    | dsimp +zetaDelta only

theorem State.bindReturned_keeps {r0 : State} (s : State) (q : Nat)  (n : Nat) (h : Keeps r0 s) : Keeps r0 (s.bindReturned q n) := by
  induction n generalizing s with
  | zero => exact h
  | succ n ih =>
    unfold State.bindReturned
    repeat' first
      | with_reducible assumption
      | with_reducible apply ih
      | with_reducible apply State.updQ_keeps
      | with_reducible apply State.bindEntry_keeps
      | intro _
      | split
      | dsimp only
      | fail_if_no_progress with_reducible apply Keeps.upd

theorem State.enableQ_keeps {r0 : State} (s : State) (q : Nat) (kp : Keeps r0 s) :
    Keeps r0 (State.enableQ s q) := by
  unfold State.enableQ
  repeat' first
    | with_reducible assumption
    | intro _
    | with_reducible apply State.settled_keeps
    | with_reducible apply State.writeHead_keeps
    | with_reducible apply State.updQ_keeps
    | with_reducible apply Keeps.ite
    | (lift_lets; intro _)
    | split
    | dsimp only
    | fail_if_no_progress with_reducible apply Keeps.upd
    | dsimp +zetaDelta only

theorem State.drainQ_keeps {r0 : State} (s : State) (q : Nat) (kp : Keeps r0 s) :
    Keeps r0 (State.drainQ s q) := by
  unfold State.drainQ
  repeat' first
    | with_reducible assumption
    | intro _
    | with_reducible apply State.updQ_keeps
    | with_reducible apply State.cancelReads_keeps
    | with_reducible apply State.advance_keeps
    | with_reducible apply State.finishFence_keeps
    | with_reducible apply Keeps.ite
    | (lift_lets; intro _)
    | split
    | dsimp only
    | fail_if_no_progress with_reducible apply Keeps.upd
    | dsimp +zetaDelta only

theorem State.pauseQ_keeps {r0 : State} (s : State) (q : Nat) (kp : Keeps r0 s) :
    Keeps r0 (State.pauseQ s q) := by
  unfold State.pauseQ
  repeat' first
    | with_reducible assumption
    | intro _
    | with_reducible apply State.writeHead_keeps
    | with_reducible apply State.updQ_keeps
    | with_reducible apply State.cancelReads_keeps
    | with_reducible apply Keeps.ite
    | (lift_lets; intro _)
    | split
    | dsimp only
    | fail_if_no_progress with_reducible apply Keeps.upd
    | dsimp +zetaDelta only

theorem State.restartQ_keeps {r0 : State} (s : State) (q : Nat) (kp : Keeps r0 s) :
    Keeps r0 (State.restartQ s q) := by
  unfold State.restartQ
  repeat' first
    | with_reducible assumption
    | intro _
    | with_reducible apply State.writeHead_keeps
    | with_reducible apply State.updQ_keeps
    | with_reducible apply State.staleSlots_keeps
    | with_reducible apply State.askDesc_keeps
    | with_reducible apply State.askPoll_keeps
    | with_reducible apply State.kick_keeps
    | with_reducible apply Keeps.ite
    | (lift_lets; intro _)
    | split
    | dsimp only
    | fail_if_no_progress with_reducible apply Keeps.upd
    | dsimp +zetaDelta only

theorem State.qctl_keeps {r0 : State} (s : State) (q : Nat) (en : Bool) (dis : Bool) (rst : Bool) (pause : Bool) (kp : Keeps r0 s) :
    Keeps r0 (State.qctl s q en dis rst pause) := by
  unfold State.qctl
  repeat' first
    | with_reducible assumption
    | intro _
    | with_reducible apply State.updQ_keeps
    | with_reducible apply State.enableQ_keeps
    | with_reducible apply State.drainQ_keeps
    | with_reducible apply State.restartQ_keeps
    | with_reducible apply State.pauseQ_keeps
    | with_reducible apply State.kick_keeps
    | with_reducible apply State.writeHead_keeps
    | with_reducible apply Keeps.ite
    | (lift_lets; intro _)
    | split
    | dsimp only
    | fail_if_no_progress with_reducible apply Keeps.upd
    | dsimp +zetaDelta only

theorem State.reportEntry_keeps {r0 : State} (s : State) (ch : Nat) (q : Nat) (cnt : Word32) (kp : Keeps r0 s) :
    Keeps r0 (State.reportEntry s ch q cnt) := by
  unfold State.reportEntry
  repeat' first
    | with_reducible assumption
    | intro _
    | with_reducible apply Keeps.ite
    | (lift_lets; intro _)
    | split
    | dsimp only
    | fail_if_no_progress with_reducible apply Keeps.upd
    | dsimp +zetaDelta only

theorem State.againRecord_keeps {r0 : State} (s : State) (q : Nat) (e : Entry) (dropped : Option Word64) (kp : Keeps r0 s) :
    Keeps r0 (State.againRecord s q e dropped) := by
  unfold State.againRecord
  repeat' first
    | with_reducible assumption
    | intro _
    | with_reducible apply State.finish0_keeps
    | with_reducible apply State.reportEntry_keeps
    | with_reducible apply State.takeWord_keeps
    | with_reducible apply Keeps.ite
    | (lift_lets; intro _)
    | split
    | dsimp only
    | fail_if_no_progress with_reducible apply Keeps.upd
    | dsimp +zetaDelta only

theorem State.retakeEntry_keeps {r0 : State} (s : State) (q : Nat) (c : Word32) (slots : List (BitVec 128)) (kp : Keeps r0 s) :
    Keeps r0 (State.retakeEntry s q c slots) := by
  unfold State.retakeEntry
  repeat' first
    | with_reducible assumption
    | intro _
    | with_reducible apply State.updQ_keeps
    | with_reducible apply State.updChan_keeps
    | with_reducible apply Keeps.ite
    | (lift_lets; intro _)
    | split
    | dsimp only
    | fail_if_no_progress with_reducible apply Keeps.upd
    | dsimp +zetaDelta only

theorem State.againWalk_keeps {r0 : State} (s : State) (q : Nat) (c : Word32) (l : List (BitVec 128)) (n : Nat) (h : Keeps r0 s) :
    Keeps r0 (s.againWalk q c l n).1 := by
  induction n generalizing s c l with
  | zero => exact h
  | succ n ih =>
    unfold State.againWalk
    repeat' first
      | with_reducible assumption
      | with_reducible apply ih
      | with_reducible apply State.retakeEntry_keeps
      | with_reducible apply State.againRecord_keeps
      | with_reducible apply State.updQ_keeps
      | intro _
      | split
      | dsimp only

theorem State.againWalk_of {r0 s t : State} {q : Nat} {c : Word32} {l : List (BitVec 128)} {n : Nat} {x : Word32} (h : Keeps r0 s) (e : s.againWalk q c l n = (t, x)) : Keeps r0 t := by
  have g := State.againWalk_keeps s q c l n h
  rw [e] at g
  exact g

theorem State.slotsActed_keeps {r0 : State} (s : State) (q : Nat) (kp : Keeps r0 s) :
    Keeps r0 (State.slotsActed s q) := by
  unfold State.slotsActed
  repeat' first
    | with_reducible assumption
    | intro _
    | with_reducible apply State.bindReturned_keeps
    | with_reducible apply State.stopQueue_keeps
    | with_reducible apply State.turnOn_keeps
    | with_reducible apply State.kick_keeps
    | with_reducible apply State.advance_keeps
    | with_reducible apply State.updQ_keeps
    | with_reducible apply Keeps.ite
    | (lift_lets; intro _)
    | split
    | dsimp only
    | fail_if_no_progress with_reducible apply Keeps.upd
    | dsimp +zetaDelta only

theorem State.pollMissed_keeps {r0 : State} (s : State) (q : Nat) (kp : Keeps r0 s) :
    Keeps r0 (State.pollMissed s q) := by
  unfold State.pollMissed
  repeat' first
    | with_reducible assumption
    | intro _
    | with_reducible apply State.advance_keeps
    | with_reducible apply State.updQ_keeps
    | with_reducible apply Keeps.ite
    | (lift_lets; intro _)
    | split
    | dsimp only
    | fail_if_no_progress with_reducible apply Keeps.upd
    | dsimp +zetaDelta only

theorem State.slotsArrive_keeps {r0 : State} (s : State) (q : Nat) (req : ReadReq) (slots : List (BitVec 128)) (kp : Keeps r0 s) :
    Keeps r0 (State.slotsArrive s q req slots) := by
  unfold State.slotsArrive
  repeat' first
    | with_reducible assumption
    | intro _
    | with_reducible apply State.updQ_keeps
    | with_reducible apply State.againWalk_keeps
    | refine State.againWalk_of ?_ (by with_reducible assumption)
    | with_reducible apply State.kick_keeps
    | with_reducible apply State.advance_keeps
    | with_reducible apply State.askDesc_keeps
    | with_reducible apply State.setQ_keeps
    | with_reducible apply State.slotsActed_keeps
    | with_reducible apply State.pollMissed_keeps
    | with_reducible apply Keeps.ite
    | (lift_lets; intro _)
    | split
    | dsimp only
    | fail_if_no_progress with_reducible apply Keeps.upd
    | dsimp +zetaDelta only

theorem State.stopBehind_keeps {r0 : State} (s : State) (q : Nat) (why : Nat) (kp : Keeps r0 s) :
    Keeps r0 (State.stopBehind s q why) := by
  unfold State.stopBehind
  repeat' first
    | with_reducible assumption
    | intro _
    | with_reducible apply State.bindReturned_keeps
    | with_reducible apply State.malformed_keeps
    | with_reducible apply State.updQ_keeps
    | with_reducible apply State.stopQueue_keeps
    | with_reducible apply Keeps.ite
    | (lift_lets; intro _)
    | split
    | dsimp only
    | fail_if_no_progress with_reducible apply Keeps.upd
    | dsimp +zetaDelta only

theorem State.queueReadFails_keeps {r0 : State} (s : State) (q : Nat) (req : ReadReq) (kp : Keeps r0 s) :
    Keeps r0 (State.queueReadFails s q req) := by
  unfold State.queueReadFails
  repeat' first
    | with_reducible assumption
    | intro _
    | with_reducible apply State.updQ_keeps
    | with_reducible apply State.stopQueue_keeps
    | with_reducible apply State.advance_keeps
    | with_reducible apply State.stopBehind_keeps
    | with_reducible apply Keeps.ite
    | (lift_lets; intro _)
    | split
    | dsimp only
    | fail_if_no_progress with_reducible apply Keeps.upd
    | dsimp +zetaDelta only

end Sys2Proof.Machine
end

