-- ==== Sys2Proof/Laws/KeepsQueues.lean ====
section
/-! SUPPORT. The operations of Machine/Queues.lean keep the queue of commands and the form of the memory. -/

namespace Sys2Proof.Machine
open Sys2Proof

theorem State.dbCountW_keeps {r0 : State} (s : State) (m : Nat) (q : Nat) (count : Word32) (kp : Keeps r0 s) :
    Keeps r0 (State.dbCountW s m q count) := by
  unfold State.dbCountW
  repeat' first
    | with_reducible assumption
    | intro _
    | with_reducible apply State.accFault_keeps
    | with_reducible apply State.askPoll_keeps
    | with_reducible apply State.offer_keeps
    | with_reducible apply Keeps.ite
    | (lift_lets; intro _)
    | split
    | dsimp only
    | fail_if_no_progress with_reducible apply Keeps.upd
    | dsimp +zetaDelta only

theorem State.dbFetchW_keeps {r0 : State} (s : State) (m : Nat) (q : Nat) (v : Word32) (kp : Keeps r0 s) :
    Keeps r0 (State.dbFetchW s m q v) := by
  unfold State.dbFetchW
  repeat' first
    | with_reducible assumption
    | intro _
    | with_reducible apply State.accFault_keeps
    | with_reducible apply State.askPoll_keeps
    | with_reducible apply State.kick_keeps
    | with_reducible apply State.updQ_keeps
    | with_reducible apply Keeps.ite
    | (lift_lets; intro _)
    | split
    | dsimp only
    | fail_if_no_progress with_reducible apply Keeps.upd
    | dsimp +zetaDelta only

theorem State.qctlW_keeps {r0 : State} (s : State) (m : Nat) (q : Nat) (en : Bool) (dis : Bool) (rst : Bool) (pause : Bool) (kp : Keeps r0 s) :
    Keeps r0 (State.qctlW s m q en dis rst pause) := by
  unfold State.qctlW
  repeat' first
    | with_reducible assumption
    | intro _
    | with_reducible apply State.cfgMirror_keeps
    | with_reducible apply State.retarget_keeps
    | with_reducible apply State.qctl_keeps
    | with_reducible apply State.accFault_keeps
    | with_reducible apply Keeps.ite
    | (lift_lets; intro _)
    | split
    | dsimp only
    | fail_if_no_progress with_reducible apply Keeps.upd
    | dsimp +zetaDelta only

theorem execDbCount_keeps {r0 sT : State} (m : Nat) (q : Nat) (count : Word32) (s : State) (kp : Keeps r0 s)
    (e : execDbCount m q count s = .next sT) : Keeps r0 sT := by
  unfold execDbCount at e
  rw [← Host.Outcome.next.inj e]
  repeat' first
    | with_reducible assumption
    | intro _
    | with_reducible apply State.access_keeps
    | with_reducible apply State.dbCountW_keeps
    | with_reducible apply Keeps.ite
    | (lift_lets; intro _)
    | split
    | dsimp only
    | fail_if_no_progress with_reducible apply Keeps.upd
    | dsimp +zetaDelta only

theorem execDbFetch_keeps {r0 sT : State} (m : Nat) (q : Nat) (v : Word32) (s : State) (kp : Keeps r0 s)
    (e : execDbFetch m q v s = .next sT) : Keeps r0 sT := by
  unfold execDbFetch at e
  rw [← Host.Outcome.next.inj e]
  repeat' first
    | with_reducible assumption
    | intro _
    | with_reducible apply State.access_keeps
    | with_reducible apply State.dbFetchW_keeps
    | with_reducible apply Keeps.ite
    | (lift_lets; intro _)
    | split
    | dsimp only
    | fail_if_no_progress with_reducible apply Keeps.upd
    | dsimp +zetaDelta only

theorem execQueueEnable_keeps {r0 sT : State} (m : Nat) (q : Nat) (pause : Bool) (s : State) (kp : Keeps r0 s)
    (e : execQueueEnable m q pause s = .next sT) : Keeps r0 sT := by
  unfold execQueueEnable at e
  rw [← Host.Outcome.next.inj e]
  repeat' first
    | with_reducible assumption
    | intro _
    | with_reducible apply State.access_keeps
    | with_reducible apply State.qctlW_keeps
    | with_reducible apply Keeps.ite
    | (lift_lets; intro _)
    | split
    | dsimp only
    | fail_if_no_progress with_reducible apply Keeps.upd
    | dsimp +zetaDelta only

theorem execQueueDisable_keeps {r0 sT : State} (m : Nat) (q : Nat) (pause : Bool) (s : State) (kp : Keeps r0 s)
    (e : execQueueDisable m q pause s = .next sT) : Keeps r0 sT := by
  unfold execQueueDisable at e
  rw [← Host.Outcome.next.inj e]
  repeat' first
    | with_reducible assumption
    | intro _
    | with_reducible apply State.access_keeps
    | with_reducible apply State.qctlW_keeps
    | with_reducible apply Keeps.ite
    | (lift_lets; intro _)
    | split
    | dsimp only
    | fail_if_no_progress with_reducible apply Keeps.upd
    | dsimp +zetaDelta only

theorem execQueueRestart_keeps {r0 sT : State} (m : Nat) (q : Nat) (pause : Bool) (s : State) (kp : Keeps r0 s)
    (e : execQueueRestart m q pause s = .next sT) : Keeps r0 sT := by
  unfold execQueueRestart at e
  rw [← Host.Outcome.next.inj e]
  repeat' first
    | with_reducible assumption
    | intro _
    | with_reducible apply State.access_keeps
    | with_reducible apply State.qctlW_keeps
    | with_reducible apply Keeps.ite
    | (lift_lets; intro _)
    | split
    | dsimp only
    | fail_if_no_progress with_reducible apply Keeps.upd
    | dsimp +zetaDelta only

theorem execQueuePause_keeps {r0 sT : State} (m : Nat) (q : Nat) (pause : Bool) (s : State) (kp : Keeps r0 s)
    (e : execQueuePause m q pause s = .next sT) : Keeps r0 sT := by
  unfold execQueuePause at e
  rw [← Host.Outcome.next.inj e]
  repeat' first
    | with_reducible assumption
    | intro _
    | with_reducible apply State.access_keeps
    | with_reducible apply State.qctlW_keeps
    | with_reducible apply Keeps.ite
    | (lift_lets; intro _)
    | split
    | dsimp only
    | fail_if_no_progress with_reducible apply Keeps.upd
    | dsimp +zetaDelta only

theorem State.queueTurn_keeps {r0 : State} (s : State) (kp : Keeps r0 s) :
    Keeps r0 (State.queueTurn s) := by
  unfold State.queueTurn
  repeat' first
    | with_reducible assumption
    | intro _
    | with_reducible apply State.turn1_keeps
    | with_reducible apply State.newRound_keeps
    | with_reducible apply Keeps.ite
    | (lift_lets; intro _)
    | split
    | dsimp only
    | fail_if_no_progress with_reducible apply Keeps.upd
    | dsimp +zetaDelta only

theorem execQueueTurn_keeps {r0 sT : State} (s : State) (kp : Keeps r0 s)
    (e : execQueueTurn s = .next sT) : Keeps r0 sT := by
  unfold execQueueTurn at e
  rw [← Host.Outcome.next.inj e]
  repeat' first
    | with_reducible assumption
    | intro _
    | with_reducible apply State.queueTurn_keeps
    | with_reducible apply Keeps.ite
    | (lift_lets; intro _)
    | split
    | dsimp only
    | fail_if_no_progress with_reducible apply Keeps.upd
    | dsimp +zetaDelta only

theorem execPhasePoll_keeps {r0 sT : State} (q : Nat) (s : State) (kp : Keeps r0 s)
    (e : execPhasePoll q s = .next sT) : Keeps r0 sT := by
  unfold execPhasePoll at e
  rw [← Host.Outcome.next.inj e]
  repeat' first
    | with_reducible assumption
    | intro _
    | with_reducible apply State.askPoll_keeps
    | with_reducible apply Keeps.ite
    | (lift_lets; intro _)
    | split
    | dsimp only
    | fail_if_no_progress with_reducible apply Keeps.upd
    | dsimp +zetaDelta only

theorem State.slotsBack_keeps {r0 : State} (s : State) (q : Nat) (slots : List (BitVec 128)) (kp : Keeps r0 s) :
    Keeps r0 (State.slotsBack s q slots) := by
  unfold State.slotsBack
  repeat' first
    | with_reducible assumption
    | intro _
    | refine State.endReadAny_of ?_ (by with_reducible assumption)
    | with_reducible apply State.slotsGo_keeps
    | with_reducible apply State.slotsArrive_keeps
    | with_reducible apply Keeps.ite
    | (lift_lets; intro _)
    | split
    | dsimp only
    | fail_if_no_progress with_reducible apply Keeps.upd
    | dsimp +zetaDelta only

theorem execPcntReadComplete_keeps {r0 sT : State} (q : Nat) (count : Word32) (s : State) (kp : Keeps r0 s)
    (e : execPcntReadComplete q count s = .next sT) : Keeps r0 sT := by
  unfold execPcntReadComplete at e
  rw [← Host.Outcome.next.inj e]
  repeat' first
    | with_reducible assumption
    | intro _
    | refine State.endReadAny_of ?_ (by with_reducible assumption)
    | with_reducible apply State.offer_keeps
    | with_reducible apply Keeps.ite
    | (lift_lets; intro _)
    | split
    | dsimp only
    | fail_if_no_progress with_reducible apply Keeps.upd
    | dsimp +zetaDelta only

theorem State.markApplied_keeps {r0 : State} (s : State) (q : Nat) (cnt : Word32) (kp : Keeps r0 s) :
    Keeps r0 (State.markApplied s q cnt) := by
  unfold State.markApplied
  repeat' first
    | with_reducible assumption
    | intro _
    | with_reducible apply State.updQ_keeps
    | with_reducible apply Keeps.ite
    | (lift_lets; intro _)
    | split
    | dsimp only
    | fail_if_no_progress with_reducible apply Keeps.upd
    | dsimp +zetaDelta only

theorem State.applyEntry_keeps {r0 : State} (s : State) (q : Nat) (ty : Nat) (act : State → Nat → Entry → State) (hact : ∀ t a1 a2, Keeps r0 t → Keeps r0 (act t a1 a2)) (kp : Keeps r0 s) :
    Keeps r0 (State.applyEntry s q ty act) := by
  unfold State.applyEntry
  repeat' first
    | with_reducible assumption
    | intro _
    | with_reducible apply hact
    | with_reducible apply State.markApplied_keeps
    | with_reducible apply State.finish_keeps
    | with_reducible apply State.settled_keeps
    | with_reducible apply Keeps.ite
    | (lift_lets; intro _)
    | split
    | dsimp only
    | fail_if_no_progress with_reducible apply Keeps.upd
    | dsimp +zetaDelta only

theorem State.refuse_keeps {r0 : State} (s : State) (q : Nat) (ch : Nat) (e : Entry) (kp : Keeps r0 s) :
    Keeps r0 (State.refuse s q ch e) := by
  unfold State.refuse
  repeat' first
    | with_reducible assumption
    | intro _
    | with_reducible apply State.finish0_keeps
    | with_reducible apply Keeps.ite
    | (lift_lets; intro _)
    | split
    | dsimp only
    | fail_if_no_progress with_reducible apply Keeps.upd
    | dsimp +zetaDelta only

theorem State.doStart_keeps {r0 : State} (s : State) (q : Nat) (ch : Nat) (e : Entry) (kp : Keeps r0 s) :
    Keeps r0 (State.doStart s q ch e) := by
  unfold State.doStart
  repeat' first
    | with_reducible assumption
    | intro _
    | with_reducible apply State.goChan_keeps
    | with_reducible apply State.refuse_keeps
    | with_reducible apply Keeps.ite
    | (lift_lets; intro _)
    | split
    | dsimp only
    | fail_if_no_progress with_reducible apply Keeps.upd
    | dsimp +zetaDelta only

theorem State.doResume_keeps {r0 : State} (s : State) (q : Nat) (ch : Nat) (e : Entry) (kp : Keeps r0 s) :
    Keeps r0 (State.doResume s q ch e) := by
  unfold State.doResume
  repeat' first
    | with_reducible assumption
    | intro _
    | with_reducible apply State.goChan_keeps
    | with_reducible apply State.refuse_keeps
    | with_reducible apply Keeps.ite
    | (lift_lets; intro _)
    | split
    | dsimp only
    | fail_if_no_progress with_reducible apply Keeps.upd
    | dsimp +zetaDelta only

theorem State.waitEntry_keeps {r0 : State} (s : State) (q : Nat) (ch : Nat) (e : Entry) (kp : Keeps r0 s) :
    Keeps r0 (State.waitEntry s q ch e) := by
  unfold State.waitEntry
  repeat' first
    | with_reducible assumption
    | intro _
    | with_reducible apply State.updChan_keeps
    | with_reducible apply Keeps.ite
    | (lift_lets; intro _)
    | split
    | dsimp only
    | fail_if_no_progress with_reducible apply Keeps.upd
    | dsimp +zetaDelta only

theorem State.doHalt_keeps {r0 : State} (s : State) (q : Nat) (ch : Nat) (e : Entry) (kp : Keeps r0 s) :
    Keeps r0 (State.doHalt s q ch e) := by
  unfold State.doHalt
  repeat' first
    | with_reducible assumption
    | intro _
    | with_reducible apply State.failAt_keeps
    | with_reducible apply State.waitEntry_keeps
    | with_reducible apply State.goChan_keeps
    | with_reducible apply State.haltAtRest_keeps
    | with_reducible apply Keeps.ite
    | (lift_lets; intro _)
    | split
    | dsimp only
    | fail_if_no_progress with_reducible apply Keeps.upd
    | dsimp +zetaDelta only

theorem State.doClear_keeps {r0 : State} (s : State) (q : Nat) (ch : Nat) (e : Entry) (kp : Keeps r0 s) :
    Keeps r0 (State.doClear s q ch e) := by
  unfold State.doClear
  repeat' first
    | with_reducible assumption
    | intro _
    | with_reducible apply State.refuse_keeps
    | with_reducible apply State.waitEntry_keeps
    | with_reducible apply State.clearAtRest_keeps
    | with_reducible apply Keeps.ite
    | (lift_lets; intro _)
    | split
    | dsimp only
    | fail_if_no_progress with_reducible apply Keeps.upd
    | dsimp +zetaDelta only

theorem State.doModify_keeps {r0 : State} (s : State) (q : Nat) (ch : Nat) (e : Entry) (kp : Keeps r0 s) :
    Keeps r0 (State.doModify s q ch e) := by
  unfold State.doModify
  repeat' first
    | with_reducible assumption
    | intro _
    | with_reducible apply State.goChan_keeps
    | with_reducible apply State.finish0_keeps
    | with_reducible apply State.refuse_keeps
    | with_reducible apply Keeps.ite
    | (lift_lets; intro _)
    | split
    | dsimp only
    | fail_if_no_progress with_reducible apply Keeps.upd
    | dsimp +zetaDelta only

theorem execStart_keeps {r0 sT : State} (q : Nat) (s : State) (kp : Keeps r0 s)
    (e : execStart q s = .next sT) : Keeps r0 sT := by
  unfold execStart at e
  rw [← Host.Outcome.next.inj e]
  repeat' first
    | with_reducible assumption
    | intro _
    | with_reducible apply State.applyEntry_keeps
    | with_reducible apply State.doStart_keeps
    | with_reducible apply Keeps.ite
    | (lift_lets; intro _)
    | split
    | dsimp only
    | fail_if_no_progress with_reducible apply Keeps.upd
    | dsimp +zetaDelta only

theorem execResume_keeps {r0 sT : State} (q : Nat) (s : State) (kp : Keeps r0 s)
    (e : execResume q s = .next sT) : Keeps r0 sT := by
  unfold execResume at e
  rw [← Host.Outcome.next.inj e]
  repeat' first
    | with_reducible assumption
    | intro _
    | with_reducible apply State.applyEntry_keeps
    | with_reducible apply State.doResume_keeps
    | with_reducible apply Keeps.ite
    | (lift_lets; intro _)
    | split
    | dsimp only
    | fail_if_no_progress with_reducible apply Keeps.upd
    | dsimp +zetaDelta only

theorem execHalt_keeps {r0 sT : State} (q : Nat) (s : State) (kp : Keeps r0 s)
    (e : execHalt q s = .next sT) : Keeps r0 sT := by
  unfold execHalt at e
  rw [← Host.Outcome.next.inj e]
  repeat' first
    | with_reducible assumption
    | intro _
    | with_reducible apply State.applyEntry_keeps
    | with_reducible apply State.doHalt_keeps
    | with_reducible apply Keeps.ite
    | (lift_lets; intro _)
    | split
    | dsimp only
    | fail_if_no_progress with_reducible apply Keeps.upd
    | dsimp +zetaDelta only

theorem execClear_keeps {r0 sT : State} (q : Nat) (s : State) (kp : Keeps r0 s)
    (e : execClear q s = .next sT) : Keeps r0 sT := by
  unfold execClear at e
  rw [← Host.Outcome.next.inj e]
  repeat' first
    | with_reducible assumption
    | intro _
    | with_reducible apply State.applyEntry_keeps
    | with_reducible apply State.doClear_keeps
    | with_reducible apply Keeps.ite
    | (lift_lets; intro _)
    | split
    | dsimp only
    | fail_if_no_progress with_reducible apply Keeps.upd
    | dsimp +zetaDelta only

theorem execModify_keeps {r0 sT : State} (q : Nat) (s : State) (kp : Keeps r0 s)
    (e : execModify q s = .next sT) : Keeps r0 sT := by
  unfold execModify at e
  rw [← Host.Outcome.next.inj e]
  repeat' first
    | with_reducible assumption
    | intro _
    | with_reducible apply State.applyEntry_keeps
    | with_reducible apply State.doModify_keeps
    | with_reducible apply Keeps.ite
    | (lift_lets; intro _)
    | split
    | dsimp only
    | fail_if_no_progress with_reducible apply Keeps.upd
    | dsimp +zetaDelta only

theorem execFence_keeps {r0 sT : State} (q : Nat) (s : State) (kp : Keeps r0 s)
    (e : execFence q s = .next sT) : Keeps r0 sT := by
  unfold execFence at e
  rw [← Host.Outcome.next.inj e]
  repeat' first
    | with_reducible assumption
    | intro _
    | with_reducible apply State.settled_keeps
    | with_reducible apply State.writeHead_keeps
    | with_reducible apply State.markApplied_keeps
    | with_reducible apply Keeps.ite
    | (lift_lets; intro _)
    | split
    | dsimp only
    | fail_if_no_progress with_reducible apply Keeps.upd
    | dsimp +zetaDelta only

theorem execNote_keeps {r0 sT : State} (q : Nat) (s : State) (kp : Keeps r0 s)
    (e : execNote q s = .next sT) : Keeps r0 sT := by
  unfold execNote at e
  rw [← Host.Outcome.next.inj e]
  repeat' first
    | with_reducible assumption
    | intro _
    | with_reducible apply State.finish_keeps
    | with_reducible apply State.markApplied_keeps
    | with_reducible apply Keeps.ite
    | (lift_lets; intro _)
    | split
    | dsimp only
    | fail_if_no_progress with_reducible apply Keeps.upd
    | dsimp +zetaDelta only

theorem execPad_keeps {r0 sT : State} (q : Nat) (s : State) (kp : Keeps r0 s)
    (e : execPad q s = .next sT) : Keeps r0 sT := by
  unfold execPad at e
  rw [← Host.Outcome.next.inj e]
  repeat' first
    | with_reducible assumption
    | intro _
    | with_reducible apply State.advance_keeps
    | with_reducible apply State.markDone_keeps
    | with_reducible apply Keeps.ite
    | (lift_lets; intro _)
    | split
    | dsimp only
    | fail_if_no_progress with_reducible apply Keeps.upd
    | dsimp +zetaDelta only

end Sys2Proof.Machine
end

