-- ==== Sys2Proof/Laws/KeepsChanOps.lean ====
section
/-! SUPPORT. The operations of Machine/ChanOps.lean keep the queue of commands and the form of the memory. -/

namespace Sys2Proof.Machine
open Sys2Proof

theorem State.chargeCh_keeps {r0 : State} (s : State) (ch : Nat) (k : Cost) (kp : Keeps r0 s) :
    Keeps r0 (State.chargeCh s ch k) := by
  unfold State.chargeCh
  repeat' first
    | with_reducible assumption
    | intro _
    | with_reducible apply State.charge_keeps
    | with_reducible apply Keeps.ite
    | (lift_lets; intro _)
    | split
    | dsimp only
    | fail_if_no_progress with_reducible apply Keeps.upd
    | dsimp +zetaDelta only

theorem State.askBlock_keeps {r0 : State} (s : State) (ch : Nat) (a : Word64) (kp : Keeps r0 s) :
    Keeps r0 (State.askBlock s ch a) := by
  unfold State.askBlock
  repeat' first
    | with_reducible assumption
    | intro _
    | with_reducible apply State.askRead_keeps
    | with_reducible apply Keeps.ite
    | (lift_lets; intro _)
    | split
    | dsimp only
    | fail_if_no_progress with_reducible apply Keeps.upd
    | dsimp +zetaDelta only

theorem State.fetchBlock_keeps {r0 : State} (s : State) (ch : Nat) (kp : Keeps r0 s) :
    Keeps r0 (State.fetchBlock s ch) := by
  unfold State.fetchBlock
  repeat' first
    | with_reducible assumption
    | intro _
    | with_reducible apply State.fail_keeps
    | with_reducible apply State.askBlock_keeps
    | with_reducible apply State.chargeCh_keeps
    | with_reducible apply State.park_keeps
    | with_reducible apply Keeps.ite
    | (lift_lets; intro _)
    | split
    | dsimp only
    | fail_if_no_progress with_reducible apply Keeps.upd
    | dsimp +zetaDelta only

theorem State.prefetch_keeps {r0 : State} (s : State) (ch : Nat) (kp : Keeps r0 s) :
    Keeps r0 (State.prefetch s ch) := by
  unfold State.prefetch
  repeat' first
    | with_reducible assumption
    | intro _
    | with_reducible apply State.askBlock_keeps
    | with_reducible apply State.chargeCh_keeps
    | with_reducible apply Keeps.ite
    | (lift_lets; intro _)
    | split
    | dsimp only
    | fail_if_no_progress with_reducible apply Keeps.upd
    | dsimp +zetaDelta only

theorem State.reach_keeps {r0 : State} (s : State) (ch : Nat) (kp : Keeps r0 s) :
    Keeps r0 (State.reach s ch) := by
  unfold State.reach
  repeat' first
    | with_reducible assumption
    | intro _
    | with_reducible apply State.endProgram_keeps
    | with_reducible apply State.failAt_keeps
    | with_reducible apply State.fetchBlock_keeps
    | with_reducible apply State.fail_keeps
    | with_reducible apply State.updChan_keeps
    | with_reducible apply Keeps.ite
    | (lift_lets; intro _)
    | split
    | dsimp only
    | fail_if_no_progress with_reducible apply Keeps.upd
    | dsimp +zetaDelta only

theorem State.goTo_keeps {r0 : State} (s : State) (ch : Nat) (a : Word64) (kp : Keeps r0 s) :
    Keeps r0 (State.goTo s ch a) := by
  unfold State.goTo
  repeat' first
    | with_reducible assumption
    | intro _
    | with_reducible apply State.reach_keeps
    | with_reducible apply State.goChan_keeps
    | with_reducible apply Keeps.ite
    | (lift_lets; intro _)
    | split
    | dsimp only
    | fail_if_no_progress with_reducible apply Keeps.upd
    | dsimp +zetaDelta only

theorem State.goOn_keeps {r0 : State} (s : State) (ch : Nat) (kp : Keeps r0 s) :
    Keeps r0 (State.goOn s ch) := by
  unfold State.goOn
  repeat' first
    | with_reducible assumption
    | intro _
    | with_reducible apply State.goTo_keeps
    | with_reducible apply State.updChan_keeps
    | with_reducible apply State.interim_keeps
    | with_reducible apply State.endProgram_keeps
    | with_reducible apply Keeps.ite
    | (lift_lets; intro _)
    | split
    | dsimp only
    | fail_if_no_progress with_reducible apply Keeps.upd
    | dsimp +zetaDelta only

theorem State.replaceCond_keeps {r0 : State} (s : State) (ch : Nat) (bits : Nat) (kp : Keeps r0 s) :
    Keeps r0 (State.replaceCond s ch bits) := by
  unfold State.replaceCond
  repeat' first
    | with_reducible assumption
    | intro _
    | with_reducible apply State.updChan_keeps
    | with_reducible apply Keeps.ite
    | (lift_lets; intro _)
    | split
    | dsimp only
    | fail_if_no_progress with_reducible apply Keeps.upd
    | dsimp +zetaDelta only

theorem State.failNow_keeps {r0 : State} (s : State) (ch : Nat) (code : BitVec 16) (detail : Nat) (kp : Keeps r0 s) :
    Keeps r0 (State.failNow s ch code detail) := by
  unfold State.failNow
  repeat' first
    | with_reducible assumption
    | intro _
    | with_reducible apply State.endProgram_keeps
    | with_reducible apply Keeps.ite
    | (lift_lets; intro _)
    | split
    | dsimp only
    | fail_if_no_progress with_reducible apply Keeps.upd
    | dsimp +zetaDelta only

theorem State.startCcw_keeps {r0 : State} (s : State) (s0 : State) (ch : Nat) (k : Cost) (go : State → State) (kp0 : Keeps r0 s) (hgo : ∀ t, Keeps r0 t → Keeps r0 (go t)) (kp : Keeps r0 s0) :
    Keeps r0 (State.startCcw s s0 ch k go) := by
  unfold State.startCcw
  repeat' first
    | with_reducible assumption
    | intro _
    | with_reducible apply hgo
    | with_reducible apply State.failNow_keeps
    | with_reducible apply State.prefetch_keeps
    | with_reducible apply State.updChan_keeps
    | with_reducible apply State.chargeCh_keeps
    | with_reducible apply State.park_keeps
    | with_reducible apply Keeps.ite
    | (lift_lets; intro _)
    | split
    | dsimp only
    | fail_if_no_progress with_reducible apply Keeps.upd
    | dsimp +zetaDelta only

theorem State.onDue_keeps {r0 : State} (s : State) (ch : Nat) (cmd : Nat) (k : State → BitVec 128 → State) (hk : ∀ t a1, Keeps r0 t → Keeps r0 (k t a1)) (kp : Keeps r0 s) :
    Keeps r0 (State.onDue s ch cmd k) := by
  unfold State.onDue
  repeat' first
    | with_reducible assumption
    | intro _
    | with_reducible apply hk
    | with_reducible apply Keeps.ite
    | (lift_lets; intro _)
    | split
    | dsimp only
    | fail_if_no_progress with_reducible apply Keeps.upd
    | dsimp +zetaDelta only

theorem State.onCcw_keeps {r0 : State} (s : State) (ch : Nat) (cmd : Nat) (k : State → BitVec 128 → State) (hk : ∀ t a1, Keeps r0 t → Keeps r0 (k t a1)) (kp : Keeps r0 s) :
    Keeps r0 (State.onCcw s ch cmd k) := by
  unfold State.onCcw
  repeat' first
    | with_reducible assumption
    | intro _
    | with_reducible apply hk
    | with_reducible apply State.onDue_keeps
    | with_reducible apply State.startCcw_keeps
    | with_reducible apply Keeps.ite
    | (lift_lets; intro _)
    | split
    | dsimp only
    | fail_if_no_progress with_reducible apply Keeps.upd
    | dsimp +zetaDelta only

theorem State.movedOn_keeps {r0 : State} (s : State) (ch : Nat) (n : Nat) (kp : Keeps r0 s) :
    Keeps r0 (State.movedOn s ch n) := by
  unfold State.movedOn
  repeat' first
    | with_reducible assumption
    | intro _
    | with_reducible apply State.updChan_keeps
    | with_reducible apply Keeps.ite
    | (lift_lets; intro _)
    | split
    | dsimp only
    | fail_if_no_progress with_reducible apply Keeps.upd
    | dsimp +zetaDelta only

theorem State.moved_keeps {r0 : State} (s : State) (ch : Nat) (n : Nat) (kp : Keeps r0 s) :
    Keeps r0 (State.moved s ch n) := by
  unfold State.moved
  repeat' first
    | with_reducible assumption
    | intro _
    | with_reducible apply State.updChan_keeps
    | with_reducible apply State.movedOn_keeps
    | with_reducible apply Keeps.ite
    | (lift_lets; intro _)
    | split
    | dsimp only
    | fail_if_no_progress with_reducible apply Keeps.upd
    | dsimp +zetaDelta only

theorem State.wakeData_keeps {r0 : State} (s : State) (l : List Nat) (kp : Keeps r0 s) :
    Keeps r0 (State.wakeData s l) := by
  unfold State.wakeData
  repeat' first
    | with_reducible assumption
    | intro _
    | with_reducible apply State.each_keeps
    | with_reducible apply State.wakeDomain_keeps
    | with_reducible apply Keeps.ite
    | (lift_lets; intro _)
    | split
    | dsimp only
    | fail_if_no_progress with_reducible apply Keeps.upd
    | dsimp +zetaDelta only

theorem State.portion_keeps {r0 : State} (s : State) (ch : Nat) (kp : Keeps r0 s) :
    Keeps r0 (State.portion s ch) := by
  unfold State.portion
  repeat' first
    | with_reducible assumption
    | intro _
    | with_reducible apply State.updChan_keeps
    | with_reducible apply Keeps.ite
    | (lift_lets; intro _)
    | split
    | dsimp only
    | fail_if_no_progress with_reducible apply Keeps.upd
    | dsimp +zetaDelta only

theorem State.skipOut_keeps {r0 : State} (s : State) (ch : Nat) (more : Bool) (kp : Keeps r0 s) :
    Keeps r0 (State.skipOut s ch more) := by
  unfold State.skipOut
  repeat' first
    | with_reducible assumption
    | intro _
    | with_reducible apply State.updChan_keeps
    | with_reducible apply State.moved_keeps
    | with_reducible apply State.goOn_keeps
    | with_reducible apply State.portion_keeps
    | with_reducible apply State.replaceCond_keeps
    | with_reducible apply Keeps.ite
    | (lift_lets; intro _)
    | split
    | dsimp only
    | fail_if_no_progress with_reducible apply Keeps.upd
    | dsimp +zetaDelta only

theorem State.withMark_keeps {r0 : State} (s : State) (ch : Nat) (kp : Keeps r0 s) :
    Keeps r0 (State.withMark s ch) := by
  unfold State.withMark
  repeat' first
    | with_reducible assumption
    | intro _
    | with_reducible apply State.park_keeps
    | with_reducible apply State.giveSlot_keeps
    | with_reducible apply Keeps.ite
    | (lift_lets; intro _)
    | split
    | dsimp only
    | fail_if_no_progress with_reducible apply Keeps.upd
    | dsimp +zetaDelta only

theorem State.askPiece_keeps {r0 : State} (s : State) (ch : Nat) (pc : Word64 × Nat) (kp : Keeps r0 s) :
    Keeps r0 (State.askPiece s ch pc) := by
  unfold State.askPiece
  repeat' first
    | with_reducible assumption
    | intro _
    | with_reducible apply State.askRead_keeps
    | with_reducible apply State.updChan_keeps
    | with_reducible apply Keeps.ite
    | (lift_lets; intro _)
    | split
    | dsimp only
    | fail_if_no_progress with_reducible apply Keeps.upd
    | dsimp +zetaDelta only

theorem State.toWire_keeps {r0 : State} (s : State) (ch : Nat) (kp : Keeps r0 s) :
    Keeps r0 (State.toWire s ch) := by
  unfold State.toWire
  repeat' first
    | with_reducible assumption
    | intro _
    | with_reducible apply Keeps.elim
    | with_reducible apply State.updChan_keeps
    | with_reducible apply State.updPort_keeps
    | with_reducible apply State.wakeData_keeps
    | with_reducible apply State.wakeDomain_keeps
    | with_reducible apply Keeps.ite
    | (lift_lets; intro _)
    | split
    | dsimp only
    | fail_if_no_progress with_reducible apply Keeps.upd
    | dsimp +zetaDelta only

theorem State.unitStarts_keeps {r0 : State} (s : State) (ch : Nat) (kp : Keeps r0 s) :
    Keeps r0 (State.unitStarts s ch) := by
  unfold State.unitStarts
  repeat' first
    | with_reducible assumption
    | intro _
    | with_reducible apply State.toWire_keeps
    | with_reducible apply State.updChan_keeps
    | with_reducible apply State.askPiece_keeps
    | with_reducible apply State.failAt_keeps
    | with_reducible apply Keeps.ite
    | (lift_lets; intro _)
    | split
    | dsimp only
    | fail_if_no_progress with_reducible apply Keeps.upd
    | dsimp +zetaDelta only

theorem State.startReal_keeps {r0 : State} (s : State) (ch : Nat) (kp : Keeps r0 s) :
    Keeps r0 (State.startReal s ch) := by
  unfold State.startReal
  repeat' first
    | with_reducible assumption
    | intro _
    | with_reducible apply State.failAt_keeps
    | with_reducible apply State.withMark_keeps
    | with_reducible apply State.updChan_keeps
    | with_reducible apply State.unitStarts_keeps
    | with_reducible apply State.chargeCh_keeps
    | with_reducible apply State.park_keeps
    | with_reducible apply State.portion_keeps
    | with_reducible apply Keeps.ite
    | (lift_lets; intro _)
    | split
    | dsimp only
    | fail_if_no_progress with_reducible apply Keeps.upd
    | dsimp +zetaDelta only

theorem State.startUnit_keeps {r0 : State} (s : State) (ch : Nat) (kp : Keeps r0 s) :
    Keeps r0 (State.startUnit s ch) := by
  unfold State.startUnit
  repeat' first
    | with_reducible assumption
    | intro _
    | with_reducible apply State.startReal_keeps
    | with_reducible apply Keeps.ite
    | (lift_lets; intro _)
    | split
    | dsimp only
    | fail_if_no_progress with_reducible apply Keeps.upd
    | dsimp +zetaDelta only

theorem State.kickList_keeps {r0 : State} (s : State) (p : Nat) (l : List Nat)  (n : Nat) (h : Keeps r0 s) : Keeps r0 (s.kickList p l n) := by
  induction n generalizing s l with
  | zero => exact h
  | succ n ih =>
    unfold State.kickList
    repeat' first
      | with_reducible assumption
      | with_reducible apply ih
      | with_reducible apply State.startUnit_keeps
      | with_reducible apply State.updPort_keeps
      | intro _
      | split
      | dsimp only
      | fail_if_no_progress with_reducible apply Keeps.upd

theorem State.kickPort_keeps {r0 : State} (s : State) (p : Nat) (kp : Keeps r0 s) :
    Keeps r0 (State.kickPort s p) := by
  unfold State.kickPort
  repeat' first
    | with_reducible assumption
    | intro _
    | with_reducible apply State.kickList_keeps
    | with_reducible apply State.kmdFlush_keeps
    | with_reducible apply Keeps.ite
    | (lift_lets; intro _)
    | split
    | dsimp only
    | fail_if_no_progress with_reducible apply Keeps.upd
    | dsimp +zetaDelta only

theorem State.freePort_keeps {r0 : State} (s : State) (p : Nat) (ch : Nat) (kp : Keeps r0 s) :
    Keeps r0 (State.freePort s p ch) := by
  unfold State.freePort
  repeat' first
    | with_reducible assumption
    | intro _
    | with_reducible apply State.updPort_keeps
    | with_reducible apply Keeps.ite
    | (lift_lets; intro _)
    | split
    | dsimp only
    | fail_if_no_progress with_reducible apply Keeps.upd
    | dsimp +zetaDelta only

/-- Keeps, said of the state in a result of storing. -/
def Stored.Keeps (r0 : State) : Stored → Prop
  | .ok t => Machine.Keeps r0 t
  | .wait t _ => Machine.Keeps r0 t
  | .bad _ => True

theorem Stored.keeps_ok {r0 t : State} (h : Machine.Keeps r0 t) : (Stored.ok t).Keeps r0 := h
theorem Stored.keeps_wait {r0 t : State} {l : List Byte} (h : Machine.Keeps r0 t) : (Stored.wait t l).Keeps r0 := h
theorem Stored.keeps_bad {r0 : State} {c : BitVec 16} : (Stored.bad c).Keeps r0 := trivial

theorem State.storeIn_keeps {r0 : State} (s : State) (ch : Nat) (l : List Byte) (n : Nat) (h : Keeps r0 s) :
    (s.storeIn ch l n).Keeps r0 := by
  induction n generalizing s l with
  | zero => exact h
  | succ n ih =>
    unfold State.storeIn
    repeat' first
      | with_reducible assumption
      | with_reducible apply Stored.keeps_ok
      | with_reducible apply Stored.keeps_wait
      | with_reducible apply Stored.keeps_bad
      | with_reducible apply ih
      | with_reducible apply State.updChan_keeps
      | with_reducible apply State.writeHost_keeps
      | with_reducible apply State.store_keeps
      | with_reducible apply State.freeChChain_keeps
      | refine State.chainAppend_of ?_ (by with_reducible assumption)
      | refine State.chainWrite_of ?_ (by with_reducible assumption)
      | intro _
      | (lift_lets; intro _)
      | split
      | dsimp only
      | dsimp +zetaDelta only

theorem State.storeIn_ok {r0 s t : State} {ch : Nat} {l : List Byte} {n : Nat} (h : Keeps r0 s) (e : s.storeIn ch l n = .ok t) :
    Keeps r0 t := by
  have g := State.storeIn_keeps s ch l n h
  rw [e] at g
  exact g

theorem State.storeIn_wait {r0 s t : State} {ch : Nat} {l r : List Byte} {n : Nat} (h : Keeps r0 s) (e : s.storeIn ch l n = .wait t r) :
    Keeps r0 t := by
  have g := State.storeIn_keeps s ch l n h
  rw [e] at g
  exact g

end Sys2Proof.Machine
end

