-- ==== Sys2Proof/Laws/KeepsChanXfer.lean ====
section
/-! SUPPORT. The operations of Machine/ChanXfer.lean keep the queue of commands and the form of the memory. -/

namespace Sys2Proof.Machine
open Sys2Proof

theorem State.updXfer_keeps {r0 : State} (s : State) (ch : Nat) (f : Xfer → Xfer) (kp : Keeps r0 s) :
    Keeps r0 (State.updXfer s ch f) := by
  unfold State.updXfer
  repeat' first
    | with_reducible assumption
    | intro _
    | with_reducible apply State.updChan_keeps
    | with_reducible apply Keeps.ite
    | (lift_lets; intro _)
    | split
    | dsimp only
    | fail_if_no_progress with_reducible apply Keeps.upd
    | dsimp +zetaDelta only

theorem State.leaveReaders_keeps {r0 : State} (s : State) (p : Nat) (ch : Nat) (kp : Keeps r0 s) :
    Keeps r0 (State.leaveReaders s p ch) := by
  unfold State.leaveReaders
  repeat' first
    | with_reducible assumption
    | intro _
    | with_reducible apply State.updPort_keeps
    | with_reducible apply Keeps.ite
    | (lift_lets; intro _)
    | split
    | dsimp only
    | fail_if_no_progress with_reducible apply Keeps.upd
    | dsimp +zetaDelta only

theorem State.doneOnce_keeps {r0 : State} (s : State) (ch : Nat) (residual : Nat) (kp : Keeps r0 s) :
    Keeps r0 (State.doneOnce s ch residual) := by
  unfold State.doneOnce
  repeat' first
    | with_reducible assumption
    | intro _
    | with_reducible apply State.updXfer_keeps
    | with_reducible apply State.doneEffect_keeps
    | with_reducible apply Keeps.ite
    | (lift_lets; intro _)
    | split
    | dsimp only
    | fail_if_no_progress with_reducible apply Keeps.upd
    | dsimp +zetaDelta only

theorem State.endData_keeps {r0 : State} (s : State) (ch : Nat) (bits : Nat) (kp : Keeps r0 s) :
    Keeps r0 (State.endData s ch bits) := by
  unfold State.endData
  repeat' first
    | with_reducible assumption
    | intro _
    | with_reducible apply State.updXfer_keeps
    | with_reducible apply State.replaceCond_keeps
    | with_reducible apply State.leaveReaders_keeps
    | with_reducible apply State.failAt_keeps
    | with_reducible apply State.doneOnce_keeps
    | with_reducible apply State.goOn_keeps
    | with_reducible apply State.portion_keeps
    | with_reducible apply Keeps.ite
    | (lift_lets; intro _)
    | split
    | dsimp only
    | fail_if_no_progress with_reducible apply Keeps.upd
    | dsimp +zetaDelta only

theorem State.endSignal_keeps {r0 : State} (s : State) (ch : Nat) (bits : Nat) (code : BitVec 16) (detail : Nat) (kp : Keeps r0 s) :
    Keeps r0 (State.endSignal s ch bits code detail) := by
  unfold State.endSignal
  repeat' first
    | with_reducible assumption
    | intro _
    | with_reducible apply State.updXfer_keeps
    | with_reducible apply State.replaceCond_keeps
    | with_reducible apply State.endProgram_keeps
    | with_reducible apply State.goOn_keeps
    | with_reducible apply Keeps.ite
    | (lift_lets; intro _)
    | split
    | dsimp only
    | fail_if_no_progress with_reducible apply Keeps.upd
    | dsimp +zetaDelta only

theorem State.sendLocal_keeps {r0 : State} (s : State) (ch : Nat) (kp : Keeps r0 s) :
    Keeps r0 (State.sendLocal s ch) := by
  unfold State.sendLocal
  repeat' first
    | with_reducible assumption
    | intro _
    | refine State.grantProducer_of ?_ (by with_reducible assumption)
    | with_reducible apply State.waitGrant_keeps
    | with_reducible apply State.updXfer_keeps
    | with_reducible apply State.endSignal_keeps
    | with_reducible apply State.mbxRefused_keeps
    | with_reducible apply State.freeOne_keeps
    | with_reducible apply State.mbxAccept_keeps
    | with_reducible apply State.store_keeps
    | with_reducible apply Keeps.ite
    | (lift_lets; intro _)
    | split
    | dsimp only
    | fail_if_no_progress with_reducible apply Keeps.upd
    | dsimp +zetaDelta only

theorem State.sendFrame_keeps {r0 : State} (s : State) (ch : Nat) (seq : Word32) (kp : Keeps r0 s) :
    Keeps r0 (State.sendFrame s ch seq) := by
  unfold State.sendFrame
  repeat' first
    | with_reducible assumption
    | intro _
    | with_reducible apply State.kmdSend_keeps
    | with_reducible apply State.endSignal_keeps
    | with_reducible apply State.doneOnce_keeps
    | with_reducible apply Keeps.ite
    | (lift_lets; intro _)
    | split
    | dsimp only
    | fail_if_no_progress with_reducible apply Keeps.upd
    | dsimp +zetaDelta only

theorem State.sendRemote_keeps {r0 : State} (s : State) (ch : Nat) (kp : Keeps r0 s) :
    Keeps r0 (State.sendRemote s ch) := by
  unfold State.sendRemote
  repeat' first
    | with_reducible assumption
    | intro _
    | with_reducible apply State.withMark_keeps
    | with_reducible apply State.updXfer_keeps
    | with_reducible apply State.sendFrame_keeps
    | with_reducible apply Keeps.ite
    | (lift_lets; intro _)
    | split
    | dsimp only
    | fail_if_no_progress with_reducible apply Keeps.upd
    | dsimp +zetaDelta only

theorem State.sendMessage_keeps {r0 : State} (s : State) (ch : Nat) (kp : Keeps r0 s) :
    Keeps r0 (State.sendMessage s ch) := by
  unfold State.sendMessage
  repeat' first
    | with_reducible assumption
    | intro _
    | with_reducible apply State.sendRemote_keeps
    | with_reducible apply State.sendLocal_keeps
    | with_reducible apply Keeps.ite
    | (lift_lets; intro _)
    | split
    | dsimp only
    | fail_if_no_progress with_reducible apply Keeps.upd
    | dsimp +zetaDelta only

theorem State.gateOpen_keeps {r0 : State} (s : State) (ch : Nat) (kp : Keeps r0 s) :
    Keeps r0 (State.gateOpen s ch) := by
  unfold State.gateOpen
  repeat' first
    | with_reducible assumption
    | intro _
    | with_reducible apply State.updXfer_keeps
    | with_reducible apply State.sendRemote_keeps
    | with_reducible apply State.startUnit_keeps
    | with_reducible apply Keeps.ite
    | (lift_lets; intro _)
    | split
    | dsimp only
    | fail_if_no_progress with_reducible apply Keeps.upd
    | dsimp +zetaDelta only

theorem State.outReady_keeps {r0 : State} (s : State) (ch : Nat) (kp : Keeps r0 s) :
    Keeps r0 (State.outReady s ch) := by
  unfold State.outReady
  repeat' first
    | with_reducible assumption
    | intro _
    | with_reducible apply State.sendMessage_keeps
    | with_reducible apply State.failAt_keeps
    | with_reducible apply State.endData_keeps
    | with_reducible apply State.updXfer_keeps
    | with_reducible apply State.moved_keeps
    | with_reducible apply State.store_keeps
    | with_reducible apply State.touchCell_keeps
    | with_reducible apply State.failNow_keeps
    | with_reducible apply State.goOn_keeps
    | with_reducible apply State.startUnit_keeps
    | with_reducible apply Keeps.ite
    | (lift_lets; intro _)
    | split
    | dsimp only
    | fail_if_no_progress with_reducible apply Keeps.upd
    | dsimp +zetaDelta only

theorem State.takeDie_of {r0 s t : State} {ch n : Nat} (h : Keeps r0 s) (e : s.takeDie ch n = .ok t) : Keeps r0 t := by
  induction n generalizing s with
  | zero => cases e; exact h
  | succ n ih =>
    unfold State.takeDie at e
    repeat' split at e
    all_goals first
      | (cases e; done)
      | (cases e; exact h)
      | exact ih (State.updXfer_keeps _ _ _ h) e

theorem State.pull_keeps {r0 : State} (s : State) (ch : Nat) (kp : Keeps r0 s) :
    Keeps r0 (State.pull s ch) := by
  unfold State.pull
  repeat' first
    | with_reducible assumption
    | intro _
    | refine State.takeDie_of ?_ (by with_reducible assumption)
    | with_reducible apply State.failAt_keeps
    | with_reducible apply State.outReady_keeps
    | with_reducible apply State.askPiece_keeps
    | with_reducible apply Keeps.ite
    | (lift_lets; intro _)
    | split
    | dsimp only
    | fail_if_no_progress with_reducible apply Keeps.upd
    | dsimp +zetaDelta only

theorem State.beginOutput_keeps {r0 : State} (s : State) (s0 : State) (ch : Nat) (kp0 : Keeps r0 s) (kp : Keeps r0 s0) :
    Keeps r0 (State.beginOutput s s0 ch) := by
  unfold State.beginOutput
  repeat' first
    | with_reducible assumption
    | intro _
    | with_reducible apply State.startCcw_keeps
    | with_reducible apply State.skipOut_keeps
    | with_reducible apply State.beginSkip_keeps
    | refine State.takeDie_of ?_ (by with_reducible assumption)
    | with_reducible apply State.failNow_keeps
    | with_reducible apply State.pull_keeps
    | with_reducible apply State.park_keeps
    | with_reducible apply State.updXfer_keeps
    | with_reducible apply State.openEffect_keeps
    | with_reducible apply Keeps.ite
    | (lift_lets; intro _)
    | split
    | dsimp only
    | fail_if_no_progress with_reducible apply Keeps.upd
    | dsimp +zetaDelta only

theorem State.dataArrive_keeps {r0 : State} (s : State) (ch : Nat) (a : Word64) (len : Nat) (bytes : List Byte) (kp : Keeps r0 s) :
    Keeps r0 (State.dataArrive s ch a len bytes) := by
  unfold State.dataArrive
  repeat' first
    | with_reducible assumption
    | intro _
    | with_reducible apply State.pull_keeps
    | with_reducible apply State.updXfer_keeps
    | with_reducible apply Keeps.ite
    | (lift_lets; intro _)
    | split
    | dsimp only
    | fail_if_no_progress with_reducible apply Keeps.upd
    | dsimp +zetaDelta only

theorem State.pace_keeps {r0 : State} (s : State) (p : Nat) (kp : Keeps r0 s) :
    Keeps r0 (State.pace s p) := by
  unfold State.pace
  repeat' first
    | with_reducible assumption
    | intro _
    | with_reducible apply State.startUnit_keeps
    | with_reducible apply State.updXfer_keeps
    | with_reducible apply State.updPort_keeps
    | with_reducible apply Keeps.ite
    | (lift_lets; intro _)
    | split
    | dsimp only
    | fail_if_no_progress with_reducible apply Keeps.upd
    | dsimp +zetaDelta only

theorem State.joinReaders_keeps {r0 : State} (s : State) (ch : Nat) (kp : Keeps r0 s) :
    Keeps r0 (State.joinReaders s ch) := by
  unfold State.joinReaders
  repeat' first
    | with_reducible assumption
    | intro _
    | with_reducible apply State.pace_keeps
    | with_reducible apply State.updXfer_keeps
    | with_reducible apply State.updPort_keeps
    | with_reducible apply Keeps.ite
    | (lift_lets; intro _)
    | split
    | dsimp only
    | fail_if_no_progress with_reducible apply Keeps.upd
    | dsimp +zetaDelta only

theorem State.startInput_keeps {r0 : State} (s : State) (ch : Nat) (kp : Keeps r0 s) :
    Keeps r0 (State.startInput s ch) := by
  unfold State.startInput
  repeat' first
    | with_reducible assumption
    | intro _
    | with_reducible apply State.joinReaders_keeps
    | with_reducible apply State.startUnit_keeps
    | with_reducible apply State.updXfer_keeps
    | with_reducible apply Keeps.ite
    | (lift_lets; intro _)
    | split
    | dsimp only
    | fail_if_no_progress with_reducible apply Keeps.upd
    | dsimp +zetaDelta only

theorem State.deliver_keeps {r0 : State} (s : State) (ch : Nat) (l : List Byte) (kp : Keeps r0 s) :
    Keeps r0 (State.deliver s ch l) := by
  unfold State.deliver
  repeat' first
    | with_reducible assumption
    | intro _
    | refine State.storeIn_ok ?_ (by with_reducible assumption)
    | refine State.storeIn_wait ?_ (by with_reducible assumption)
    | with_reducible apply State.failAt_keeps
    | with_reducible apply State.updXfer_keeps
    | with_reducible apply State.movedOn_keeps
    | with_reducible apply State.waitGrant_keeps
    | with_reducible apply State.moved_keeps
    | with_reducible apply State.endData_keeps
    | with_reducible apply State.startInput_keeps
    | with_reducible apply Keeps.ite
    | (lift_lets; intro _)
    | split
    | dsimp only
    | fail_if_no_progress with_reducible apply Keeps.upd
    | dsimp +zetaDelta only

theorem State.beginInput_keeps {r0 : State} (s : State) (s0 : State) (ch : Nat) (kp0 : Keeps r0 s) (kp : Keeps r0 s0) :
    Keeps r0 (State.beginInput s s0 ch) := by
  unfold State.beginInput
  repeat' first
    | with_reducible assumption
    | intro _
    | with_reducible apply State.failNow_keeps
    | with_reducible apply State.startCcw_keeps
    | with_reducible apply State.deliver_keeps
    | with_reducible apply State.updXfer_keeps
    | with_reducible apply State.endData_keeps
    | with_reducible apply State.goOn_keeps
    | with_reducible apply State.startInput_keeps
    | with_reducible apply Keeps.ite
    | (lift_lets; intro _)
    | split
    | dsimp only
    | fail_if_no_progress with_reducible apply Keeps.upd
    | dsimp +zetaDelta only

theorem State.replyOn_keeps {r0 : State} (s : State) (ch : Nat) (kp : Keeps r0 s) :
    Keeps r0 (State.replyOn s ch) := by
  unfold State.replyOn
  repeat' first
    | with_reducible assumption
    | intro _
    | refine State.storeIn_ok ?_ (by with_reducible assumption)
    | refine State.storeIn_wait ?_ (by with_reducible assumption)
    | with_reducible apply State.failAt_keeps
    | with_reducible apply State.updXfer_keeps
    | with_reducible apply State.endData_keeps
    | with_reducible apply Keeps.ite
    | (lift_lets; intro _)
    | split
    | dsimp only
    | fail_if_no_progress with_reducible apply Keeps.upd
    | dsimp +zetaDelta only

theorem State.storeReply_keeps {r0 : State} (s : State) (ch : Nat) (l : List Byte) (kp : Keeps r0 s) :
    Keeps r0 (State.storeReply s ch l) := by
  unfold State.storeReply
  repeat' first
    | with_reducible assumption
    | intro _
    | with_reducible apply State.replyOn_keeps
    | with_reducible apply State.updXfer_keeps
    | with_reducible apply Keeps.ite
    | (lift_lets; intro _)
    | split
    | dsimp only
    | fail_if_no_progress with_reducible apply Keeps.upd
    | dsimp +zetaDelta only

theorem State.havePieces_keeps {r0 : State} (s : State) (s0 : State) (ch : Nat) (sk : Bool) (ps : List (Word64 × Nat)) (kp0 : Keeps r0 s) (kp : Keeps r0 s0) :
    Keeps r0 (State.havePieces s s0 ch sk ps) := by
  unfold State.havePieces
  repeat' first
    | with_reducible assumption
    | intro _
    | with_reducible apply State.failNow_keeps
    | with_reducible apply State.updChan_keeps
    | with_reducible apply State.beginInput_keeps
    | with_reducible apply State.beginOutput_keeps
    | with_reducible apply Keeps.ite
    | (lift_lets; intro _)
    | split
    | dsimp only
    | fail_if_no_progress with_reducible apply Keeps.upd
    | dsimp +zetaDelta only

theorem State.listStep_keeps {r0 : State} (s : State) (ch : Nat) (kp : Keeps r0 s) :
    Keeps r0 (State.listStep s ch) := by
  unfold State.listStep
  repeat' first
    | with_reducible assumption
    | intro _
    | with_reducible apply State.failNow_keeps
    | with_reducible apply State.havePieces_keeps
    | with_reducible apply State.updXfer_keeps
    | with_reducible apply State.askRead_keeps
    | with_reducible apply State.chargeCh_keeps
    | with_reducible apply State.park_keeps
    | with_reducible apply Keeps.ite
    | (lift_lets; intro _)
    | split
    | dsimp only
    | fail_if_no_progress with_reducible apply Keeps.upd
    | dsimp +zetaDelta only

theorem State.listArrive_keeps {r0 : State} (s : State) (ch : Nat) (a : Word64) (bytes : List Byte) (kp : Keeps r0 s) :
    Keeps r0 (State.listArrive s ch a bytes) := by
  unfold State.listArrive
  repeat' first
    | with_reducible assumption
    | intro _
    | with_reducible apply State.listStep_keeps
    | with_reducible apply State.updXfer_keeps
    | with_reducible apply Keeps.ite
    | (lift_lets; intro _)
    | split
    | dsimp only
    | fail_if_no_progress with_reducible apply Keeps.upd
    | dsimp +zetaDelta only

theorem State.localIdal_keeps {r0 : State} (s : State) (s0 : State) (ch : Nat) (w : BitVec 128) (kp0 : Keeps r0 s) (kp : Keeps r0 s0) :
    Keeps r0 (State.localIdal s s0 ch w) := by
  unfold State.localIdal
  repeat' first
    | with_reducible assumption
    | intro _
    | with_reducible apply State.failNow_keeps
    | with_reducible apply State.havePieces_keeps
    | with_reducible apply Keeps.ite
    | (lift_lets; intro _)
    | split
    | dsimp only
    | fail_if_no_progress with_reducible apply Keeps.upd
    | dsimp +zetaDelta only

theorem State.layOut_keeps {r0 : State} (s : State) (s0 : State) (ch : Nat) (w : BitVec 128) (kp0 : Keeps r0 s) (kp : Keeps r0 s0) :
    Keeps r0 (State.layOut s s0 ch w) := by
  unfold State.layOut
  repeat' first
    | with_reducible assumption
    | intro _
    | with_reducible apply State.localIdal_keeps
    | with_reducible apply State.listStep_keeps
    | with_reducible apply State.havePieces_keeps
    | with_reducible apply Keeps.ite
    | (lift_lets; intro _)
    | split
    | dsimp only
    | fail_if_no_progress with_reducible apply Keeps.upd
    | dsimp +zetaDelta only

theorem State.beginData_keeps {r0 : State} (s : State) (ch : Nat) (w : BitVec 128) (kp : Keeps r0 s) :
    Keeps r0 (State.beginData s ch w) := by
  unfold State.beginData
  repeat' first
    | with_reducible assumption
    | intro _
    | with_reducible apply State.updChan_keeps
    | with_reducible apply State.failNow_keeps
    | with_reducible apply State.layOut_keeps
    | with_reducible apply Keeps.ite
    | (lift_lets; intro _)
    | split
    | dsimp only
    | fail_if_no_progress with_reducible apply Keeps.upd
    | dsimp +zetaDelta only

theorem State.freeUnit_keeps {r0 : State} (s : State) (u : RxUnit) (kp : Keeps r0 s) :
    Keeps r0 (State.freeUnit s u) := by
  unfold State.freeUnit
  repeat' first
    | with_reducible assumption
    | intro _
    | with_reducible apply State.freeCells_keeps
    | with_reducible apply Keeps.ite
    | (lift_lets; intro _)
    | split
    | dsimp only
    | fail_if_no_progress with_reducible apply Keeps.upd
    | dsimp +zetaDelta only

theorem State.deliverPort_keeps {r0 : State} (s : State) (p : Nat)  (n : Nat) (h : Keeps r0 s) : Keeps r0 (s.deliverPort p n) := by
  induction n generalizing s with
  | zero => exact h
  | succ n ih =>
    unfold State.deliverPort
    repeat' first
      | with_reducible assumption
      | with_reducible apply ih
      | with_reducible apply State.failAt_keeps
      | with_reducible apply State.freeUnit_keeps
      | with_reducible apply State.updPort_keeps
      | with_reducible apply State.chargeCh_keeps
      | with_reducible apply State.deliver_keeps
      | with_reducible apply State.updXfer_keeps
      | with_reducible apply State.park_keeps
      | with_reducible apply State.portion_keeps
      | intro _
      | split
      | dsimp only
      | fail_if_no_progress with_reducible apply Keeps.upd

theorem State.pumpPort_keeps {r0 : State} (s : State) (p : Nat) (kp : Keeps r0 s) :
    Keeps r0 (State.pumpPort s p) := by
  unfold State.pumpPort
  repeat' first
    | with_reducible assumption
    | intro _
    | with_reducible apply State.pace_keeps
    | with_reducible apply State.deliverPort_keeps
    | with_reducible apply Keeps.ite
    | (lift_lets; intro _)
    | split
    | dsimp only
    | fail_if_no_progress with_reducible apply Keeps.upd
    | dsimp +zetaDelta only

theorem State.resumeCh_keeps {r0 : State} (s : State) (ch : Nat) (kp : Keeps r0 s) :
    Keeps r0 (State.resumeCh s ch) := by
  unfold State.resumeCh
  repeat' first
    | with_reducible assumption
    | intro _
    | with_reducible apply State.reach_keeps
    | with_reducible apply State.listStep_keeps
    | with_reducible apply State.sendRemote_keeps
    | with_reducible apply State.startUnit_keeps
    | with_reducible apply State.pumpPort_keeps
    | with_reducible apply Keeps.ite
    | (lift_lets; intro _)
    | split
    | dsimp only
    | fail_if_no_progress with_reducible apply Keeps.upd
    | dsimp +zetaDelta only

theorem State.release_keeps {r0 : State} (s : State) (ch : Nat) (kp : Keeps r0 s) :
    Keeps r0 (State.release s ch) := by
  unfold State.release
  repeat' first
    | with_reducible assumption
    | intro _
    | with_reducible apply State.resumeCh_keeps
    | with_reducible apply State.unpark_keeps
    | with_reducible apply Keeps.ite
    | (lift_lets; intro _)
    | split
    | dsimp only
    | fail_if_no_progress with_reducible apply Keeps.upd
    | dsimp +zetaDelta only

theorem State.releaseFor_keeps {r0 : State} (s : State) (p : ParkWhy → Bool) (kp : Keeps r0 s) :
    Keeps r0 (State.releaseFor s p) := by
  unfold State.releaseFor
  repeat' first
    | with_reducible assumption
    | intro _
    | with_reducible apply State.each_keeps
    | with_reducible apply State.release_keeps
    | with_reducible apply Keeps.ite
    | (lift_lets; intro _)
    | split
    | dsimp only
    | fail_if_no_progress with_reducible apply Keeps.upd
    | dsimp +zetaDelta only

theorem State.tryGrant_keeps {r0 : State} (s : State) (ch : Nat) (kp : Keeps r0 s) :
    Keeps r0 (State.tryGrant s ch) := by
  unfold State.tryGrant
  repeat' first
    | with_reducible assumption
    | intro _
    | with_reducible apply State.sendLocal_keeps
    | with_reducible apply State.deliver_keeps
    | with_reducible apply State.waitGrant_keeps
    | with_reducible apply State.unwaitGrant_keeps
    | with_reducible apply Keeps.ite
    | (lift_lets; intro _)
    | split
    | dsimp only
    | fail_if_no_progress with_reducible apply Keeps.upd
    | dsimp +zetaDelta only

theorem State.serveGrants_keeps {r0 : State} (s : State) (tried : List Nat)  (n : Nat) (h : Keeps r0 s) : Keeps r0 (s.serveGrants tried n) := by
  induction n generalizing s tried with
  | zero => exact h
  | succ n ih =>
    unfold State.serveGrants
    repeat' first
      | with_reducible assumption
      | with_reducible apply ih
      | with_reducible apply State.tryGrant_keeps
      | intro _
      | split
      | dsimp only
      | fail_if_no_progress with_reducible apply Keeps.upd

theorem State.served_keeps {r0 : State} (s : State) (kp : Keeps r0 s) :
    Keeps r0 (State.served s) := by
  unfold State.served
  repeat' first
    | with_reducible assumption
    | intro _
    | with_reducible apply State.serveGrants_keeps
    | with_reducible apply State.each_keeps
    | with_reducible apply State.release_keeps
    | with_reducible apply Keeps.ite
    | (lift_lets; intro _)
    | split
    | dsimp only
    | fail_if_no_progress with_reducible apply Keeps.upd
    | dsimp +zetaDelta only

theorem State.takeEvent_keeps {r0 : State} (s : State) (ch : Nat) (mask : BitVec 16) (kp : Keeps r0 s) :
    Keeps r0 (State.takeEvent s ch mask) := by
  unfold State.takeEvent
  repeat' first
    | with_reducible assumption
    | intro _
    | with_reducible apply State.replaceCond_keeps
    | with_reducible apply State.updChan_keeps
    | with_reducible apply Keeps.ite
    | (lift_lets; intro _)
    | split
    | dsimp only
    | fail_if_no_progress with_reducible apply Keeps.upd
    | dsimp +zetaDelta only

theorem State.endWait_keeps {r0 : State} (s : State) (ch : Nat) (kp : Keeps r0 s) :
    Keeps r0 (State.endWait s ch) := by
  unfold State.endWait
  repeat' first
    | with_reducible assumption
    | intro _
    | with_reducible apply State.goChan_keeps
    | with_reducible apply State.updXfer_keeps
    | with_reducible apply State.interim_keeps
    | with_reducible apply State.reach_keeps
    | with_reducible apply State.newAnchor_keeps
    | with_reducible apply State.endProgram_keeps
    | with_reducible apply Keeps.ite
    | (lift_lets; intro _)
    | split
    | dsimp only
    | fail_if_no_progress with_reducible apply Keeps.upd
    | dsimp +zetaDelta only

theorem State.setEvents_keeps {r0 : State} (s : State) (ch : Nat) (bits : BitVec 16) (kp : Keeps r0 s) :
    Keeps r0 (State.setEvents s ch bits) := by
  unfold State.setEvents
  repeat' first
    | with_reducible assumption
    | intro _
    | with_reducible apply State.goChan_keeps
    | with_reducible apply State.endWait_keeps
    | with_reducible apply State.takeEvent_keeps
    | with_reducible apply Keeps.ite
    | (lift_lets; intro _)
    | split
    | dsimp only
    | fail_if_no_progress with_reducible apply Keeps.upd
    | dsimp +zetaDelta only

end Sys2Proof.Machine
end

