-- ==== Sys2Proof/Laws/KeepsChannels.lean ====
section
/-! SUPPORT. The operations of Machine/Channels.lean keep the queue of commands and the form of the memory. -/

namespace Sys2Proof.Machine
open Sys2Proof

theorem State.dispatchCh_keeps {r0 : State} (s : State) (ch : Nat) (kp : Keeps r0 s) :
    Keeps r0 (State.dispatchCh s ch) := by
  unfold State.dispatchCh
  repeat' first
    | with_reducible assumption
    | intro _
    | with_reducible apply State.failAt_keeps
    | with_reducible apply State.newAnchor_keeps
    | with_reducible apply State.goChan_keeps
    | with_reducible apply State.reach_keeps
    | with_reducible apply State.park_keeps
    | with_reducible apply Keeps.ite
    | (lift_lets; intro _)
    | split
    | dsimp only
    | fail_if_no_progress with_reducible apply Keeps.upd
    | dsimp +zetaDelta only

theorem execDispatch_keeps {r0 sT : State} (ch : Nat) (s : State) (kp : Keeps r0 s)
    (e : execDispatch ch s = .next sT) : Keeps r0 sT := by
  unfold execDispatch at e
  rw [← Host.Outcome.next.inj e]
  repeat' first
    | with_reducible assumption
    | intro _
    | with_reducible apply State.served_keeps
    | with_reducible apply State.dispatchCh_keeps
    | with_reducible apply Keeps.ite
    | (lift_lets; intro _)
    | split
    | dsimp only
    | fail_if_no_progress with_reducible apply Keeps.upd
    | dsimp +zetaDelta only

theorem State.endStale_keeps {r0 : State} (s : State) (ch : Nat) (kp : Keeps r0 s) :
    Keeps r0 (State.endStale s ch) := by
  unfold State.endStale
  repeat' first
    | with_reducible assumption
    | intro _
    | refine State.endReadAny_of ?_ (by with_reducible assumption)
    | with_reducible apply Keeps.ite
    | (lift_lets; intro _)
    | split
    | dsimp only
    | fail_if_no_progress with_reducible apply Keeps.upd
    | dsimp +zetaDelta only

theorem State.blockArrive_keeps {r0 : State} (s : State) (ch : Nat) (words : List (BitVec 128)) (kp : Keeps r0 s) :
    Keeps r0 (State.blockArrive s ch words) := by
  unfold State.blockArrive
  repeat' first
    | with_reducible assumption
    | intro _
    | refine State.endReadAny_of ?_ (by with_reducible assumption)
    | with_reducible apply State.endStale_keeps
    | with_reducible apply State.updChan_keeps
    | with_reducible apply State.reach_keeps
    | with_reducible apply Keeps.ite
    | (lift_lets; intro _)
    | split
    | dsimp only
    | fail_if_no_progress with_reducible apply Keeps.upd
    | dsimp +zetaDelta only

theorem execCcwBlockArrive_keeps {r0 sT : State} (ch : Nat) (words : List (BitVec 128)) (s : State) (kp : Keeps r0 s)
    (e : execCcwBlockArrive ch words s = .next sT) : Keeps r0 sT := by
  unfold execCcwBlockArrive at e
  rw [← Host.Outcome.next.inj e]
  repeat' first
    | with_reducible assumption
    | intro _
    | with_reducible apply State.served_keeps
    | with_reducible apply State.blockArrive_keeps
    | with_reducible apply Keeps.ite
    | (lift_lets; intro _)
    | split
    | dsimp only
    | fail_if_no_progress with_reducible apply Keeps.upd
    | dsimp +zetaDelta only

theorem State.dataComplete_keeps {r0 : State} (s : State) (ch : Nat) (bytes : List Byte) (kp : Keeps r0 s) :
    Keeps r0 (State.dataComplete s ch bytes) := by
  unfold State.dataComplete
  repeat' first
    | with_reducible assumption
    | intro _
    | refine State.endReadAny_of ?_ (by with_reducible assumption)
    | with_reducible apply State.endStale_keeps
    | with_reducible apply State.dataArrive_keeps
    | with_reducible apply State.listArrive_keeps
    | with_reducible apply Keeps.ite
    | (lift_lets; intro _)
    | split
    | dsimp only
    | fail_if_no_progress with_reducible apply Keeps.upd
    | dsimp +zetaDelta only

theorem execDataReadComplete_keeps {r0 sT : State} (ch : Nat) (bytes : List Byte) (s : State) (kp : Keeps r0 s)
    (e : execDataReadComplete ch bytes s = .next sT) : Keeps r0 sT := by
  unfold execDataReadComplete at e
  rw [← Host.Outcome.next.inj e]
  repeat' first
    | with_reducible assumption
    | intro _
    | with_reducible apply State.served_keeps
    | with_reducible apply State.dataComplete_keeps
    | with_reducible apply Keeps.ite
    | (lift_lets; intro _)
    | split
    | dsimp only
    | fail_if_no_progress with_reducible apply Keeps.upd
    | dsimp +zetaDelta only

theorem execWrite_keeps {r0 sT : State} (ch : Nat) (s : State) (kp : Keeps r0 s)
    (e : execWrite ch s = .next sT) : Keeps r0 sT := by
  unfold execWrite at e
  rw [← Host.Outcome.next.inj e]
  repeat' first
    | with_reducible assumption
    | intro _
    | with_reducible apply State.served_keeps
    | with_reducible apply State.onDue_keeps
    | with_reducible apply State.beginData_keeps
    | with_reducible apply Keeps.ite
    | (lift_lets; intro _)
    | split
    | dsimp only
    | fail_if_no_progress with_reducible apply Keeps.upd
    | dsimp +zetaDelta only

theorem execRead_keeps {r0 sT : State} (ch : Nat) (s : State) (kp : Keeps r0 s)
    (e : execRead ch s = .next sT) : Keeps r0 sT := by
  unfold execRead at e
  rw [← Host.Outcome.next.inj e]
  repeat' first
    | with_reducible assumption
    | intro _
    | with_reducible apply State.served_keeps
    | with_reducible apply State.onDue_keeps
    | with_reducible apply State.beginData_keeps
    | with_reducible apply State.pumpPort_keeps
    | with_reducible apply Keeps.ite
    | (lift_lets; intro _)
    | split
    | dsimp only
    | fail_if_no_progress with_reducible apply Keeps.upd
    | dsimp +zetaDelta only

theorem execControl_keeps {r0 sT : State} (ch : Nat) (s : State) (kp : Keeps r0 s)
    (e : execControl ch s = .next sT) : Keeps r0 sT := by
  unfold execControl at e
  rw [← Host.Outcome.next.inj e]
  repeat' first
    | with_reducible assumption
    | intro _
    | with_reducible apply State.served_keeps
    | with_reducible apply State.onDue_keeps
    | with_reducible apply State.beginData_keeps
    | with_reducible apply Keeps.ite
    | (lift_lets; intro _)
    | split
    | dsimp only
    | fail_if_no_progress with_reducible apply Keeps.upd
    | dsimp +zetaDelta only

theorem execSense_keeps {r0 sT : State} (ch : Nat) (s : State) (kp : Keeps r0 s)
    (e : execSense ch s = .next sT) : Keeps r0 sT := by
  unfold execSense at e
  rw [← Host.Outcome.next.inj e]
  repeat' first
    | with_reducible assumption
    | intro _
    | with_reducible apply State.served_keeps
    | with_reducible apply State.onDue_keeps
    | with_reducible apply State.beginData_keeps
    | with_reducible apply Keeps.ite
    | (lift_lets; intro _)
    | split
    | dsimp only
    | fail_if_no_progress with_reducible apply Keeps.upd
    | dsimp +zetaDelta only

theorem execExch_keeps {r0 sT : State} (ch : Nat) (s : State) (kp : Keeps r0 s)
    (e : execExch ch s = .next sT) : Keeps r0 sT := by
  unfold execExch at e
  rw [← Host.Outcome.next.inj e]
  repeat' first
    | with_reducible assumption
    | intro _
    | with_reducible apply State.served_keeps
    | with_reducible apply State.onDue_keeps
    | with_reducible apply State.beginData_keeps
    | with_reducible apply Keeps.ite
    | (lift_lets; intro _)
    | split
    | dsimp only
    | fail_if_no_progress with_reducible apply Keeps.upd
    | dsimp +zetaDelta only

theorem State.doJump_keeps {r0 : State} (s : State) (ch : Nat) (w : BitVec 128) (kp : Keeps r0 s) :
    Keeps r0 (State.doJump s ch w) := by
  unfold State.doJump
  repeat' first
    | with_reducible assumption
    | intro _
    | with_reducible apply State.fail_keeps
    | with_reducible apply State.goChan_keeps
    | with_reducible apply State.dropBlocks_keeps
    | with_reducible apply State.goTo_keeps
    | with_reducible apply State.updChan_keeps
    | with_reducible apply Keeps.ite
    | (lift_lets; intro _)
    | split
    | dsimp only
    | fail_if_no_progress with_reducible apply Keeps.upd
    | dsimp +zetaDelta only

theorem execJump_keeps {r0 sT : State} (ch : Nat) (s : State) (kp : Keeps r0 s)
    (e : execJump ch s = .next sT) : Keeps r0 sT := by
  unfold execJump at e
  rw [← Host.Outcome.next.inj e]
  repeat' first
    | with_reducible assumption
    | intro _
    | with_reducible apply State.served_keeps
    | with_reducible apply State.onCcw_keeps
    | with_reducible apply State.doJump_keeps
    | with_reducible apply Keeps.ite
    | (lift_lets; intro _)
    | split
    | dsimp only
    | fail_if_no_progress with_reducible apply Keeps.upd
    | dsimp +zetaDelta only

theorem execCcwNop_keeps {r0 sT : State} (ch : Nat) (s : State) (kp : Keeps r0 s)
    (e : execCcwNop ch s = .next sT) : Keeps r0 sT := by
  unfold execCcwNop at e
  rw [← Host.Outcome.next.inj e]
  repeat' first
    | with_reducible assumption
    | intro _
    | with_reducible apply State.served_keeps
    | with_reducible apply State.onCcw_keeps
    | with_reducible apply State.goOn_keeps
    | with_reducible apply Keeps.ite
    | (lift_lets; intro _)
    | split
    | dsimp only
    | fail_if_no_progress with_reducible apply Keeps.upd
    | dsimp +zetaDelta only

theorem State.beginWait_keeps {r0 : State} (s : State) (ch : Nat) (w : BitVec 128) (st : CState) (due : Option Nat) (mask : BitVec 16) (kp : Keeps r0 s) :
    Keeps r0 (State.beginWait s ch w st due mask) := by
  unfold State.beginWait
  repeat' first
    | with_reducible assumption
    | intro _
    | with_reducible apply State.goChan_keeps
    | with_reducible apply State.dropBlocks_keeps
    | with_reducible apply State.updXfer_keeps
    | with_reducible apply Keeps.ite
    | (lift_lets; intro _)
    | split
    | dsimp only
    | fail_if_no_progress with_reducible apply Keeps.upd
    | dsimp +zetaDelta only

theorem execWaitf_keeps {r0 sT : State} (ch : Nat) (s : State) (kp : Keeps r0 s)
    (e : execWaitf ch s = .next sT) : Keeps r0 sT := by
  unfold execWaitf at e
  rw [← Host.Outcome.next.inj e]
  repeat' first
    | with_reducible assumption
    | intro _
    | with_reducible apply State.served_keeps
    | with_reducible apply State.onCcw_keeps
    | with_reducible apply State.beginWait_keeps
    | with_reducible apply Keeps.ite
    | (lift_lets; intro _)
    | split
    | dsimp only
    | fail_if_no_progress with_reducible apply Keeps.upd
    | dsimp +zetaDelta only

theorem execWaitfExpiry_keeps {r0 sT : State} (ch : Nat) (s : State) (kp : Keeps r0 s)
    (e : execWaitfExpiry ch s = .next sT) : Keeps r0 sT := by
  unfold execWaitfExpiry at e
  rw [← Host.Outcome.next.inj e]
  repeat' first
    | with_reducible assumption
    | intro _
    | with_reducible apply State.served_keeps
    | with_reducible apply State.endWait_keeps
    | with_reducible apply Keeps.ite
    | (lift_lets; intro _)
    | split
    | dsimp only
    | fail_if_no_progress with_reducible apply Keeps.upd
    | dsimp +zetaDelta only

theorem State.doWaite_keeps {r0 : State} (s : State) (ch : Nat) (w : BitVec 128) (kp : Keeps r0 s) :
    Keeps r0 (State.doWaite s ch w) := by
  unfold State.doWaite
  repeat' first
    | with_reducible assumption
    | intro _
    | with_reducible apply State.goOn_keeps
    | with_reducible apply State.takeEvent_keeps
    | with_reducible apply State.beginWait_keeps
    | with_reducible apply Keeps.ite
    | (lift_lets; intro _)
    | split
    | dsimp only
    | fail_if_no_progress with_reducible apply Keeps.upd
    | dsimp +zetaDelta only

theorem execWaite_keeps {r0 sT : State} (ch : Nat) (s : State) (kp : Keeps r0 s)
    (e : execWaite ch s = .next sT) : Keeps r0 sT := by
  unfold execWaite at e
  rw [← Host.Outcome.next.inj e]
  repeat' first
    | with_reducible assumption
    | intro _
    | with_reducible apply State.served_keeps
    | with_reducible apply State.onCcw_keeps
    | with_reducible apply State.doWaite_keeps
    | with_reducible apply Keeps.ite
    | (lift_lets; intro _)
    | split
    | dsimp only
    | fail_if_no_progress with_reducible apply Keeps.upd
    | dsimp +zetaDelta only

theorem execWaiteTimeout_keeps {r0 sT : State} (ch : Nat) (s : State) (kp : Keeps r0 s)
    (e : execWaiteTimeout ch s = .next sT) : Keeps r0 sT := by
  unfold execWaiteTimeout at e
  rw [← Host.Outcome.next.inj e]
  repeat' first
    | with_reducible assumption
    | intro _
    | with_reducible apply State.served_keeps
    | with_reducible apply State.endWait_keeps
    | with_reducible apply State.replaceCond_keeps
    | with_reducible apply Keeps.ite
    | (lift_lets; intro _)
    | split
    | dsimp only
    | fail_if_no_progress with_reducible apply Keeps.upd
    | dsimp +zetaDelta only

theorem State.doPost_keeps {r0 : State} (s : State) (ch : Nat) (w : BitVec 128) (kp : Keeps r0 s) :
    Keeps r0 (State.doPost s ch w) := by
  unfold State.doPost
  repeat' first
    | with_reducible assumption
    | intro _
    | with_reducible apply State.updXfer_keeps
    | with_reducible apply State.goOn_keeps
    | with_reducible apply State.interim_keeps
    | with_reducible apply Keeps.ite
    | (lift_lets; intro _)
    | split
    | dsimp only
    | fail_if_no_progress with_reducible apply Keeps.upd
    | dsimp +zetaDelta only

theorem execPost_keeps {r0 sT : State} (ch : Nat) (s : State) (kp : Keeps r0 s)
    (e : execPost ch s = .next sT) : Keeps r0 sT := by
  unfold execPost at e
  rw [← Host.Outcome.next.inj e]
  repeat' first
    | with_reducible assumption
    | intro _
    | with_reducible apply State.served_keeps
    | with_reducible apply State.onCcw_keeps
    | with_reducible apply State.doPost_keeps
    | with_reducible apply Keeps.ite
    | (lift_lets; intro _)
    | split
    | dsimp only
    | fail_if_no_progress with_reducible apply Keeps.upd
    | dsimp +zetaDelta only

theorem State.hostGo_keeps {r0 : State} (s : State) (ch : Nat) (kp : Keeps r0 s) :
    Keeps r0 (State.hostGo s ch) := by
  unfold State.hostGo
  repeat' first
    | with_reducible assumption
    | intro _
    | with_reducible apply State.replyOn_keeps
    | with_reducible apply State.deliver_keeps
    | with_reducible apply State.goOn_keeps
    | with_reducible apply State.endWait_keeps
    | with_reducible apply State.doPost_keeps
    | with_reducible apply Keeps.ite
    | (lift_lets; intro _)
    | split
    | dsimp only
    | fail_if_no_progress with_reducible apply Keeps.upd
    | dsimp +zetaDelta only

theorem State.hostResume_keeps {r0 : State} (s : State) (md : Nat) (kp : Keeps r0 s) :
    Keeps r0 (State.hostResume s md) := by
  unfold State.hostResume
  repeat' first
    | with_reducible assumption
    | intro _
    | with_reducible apply State.served_keeps
    | with_reducible apply State.each_keeps
    | with_reducible apply State.hostGo_keeps
    | with_reducible apply Keeps.ite
    | (lift_lets; intro _)
    | split
    | dsimp only
    | fail_if_no_progress with_reducible apply Keeps.upd
    | dsimp +zetaDelta only

theorem State.doSkip_keeps {r0 : State} (s : State) (ch : Nat) (w : BitVec 128) (kp : Keeps r0 s) :
    Keeps r0 (State.doSkip s ch w) := by
  unfold State.doSkip
  repeat' first
    | with_reducible assumption
    | intro _
    | with_reducible apply State.goTo_keeps
    | with_reducible apply State.updChan_keeps
    | with_reducible apply Keeps.ite
    | (lift_lets; intro _)
    | split
    | dsimp only
    | fail_if_no_progress with_reducible apply Keeps.upd
    | dsimp +zetaDelta only

theorem execSkipif_keeps {r0 sT : State} (ch : Nat) (s : State) (kp : Keeps r0 s)
    (e : execSkipif ch s = .next sT) : Keeps r0 sT := by
  unfold execSkipif at e
  rw [← Host.Outcome.next.inj e]
  repeat' first
    | with_reducible assumption
    | intro _
    | with_reducible apply State.served_keeps
    | with_reducible apply State.onCcw_keeps
    | with_reducible apply State.doSkip_keeps
    | with_reducible apply Keeps.ite
    | (lift_lets; intro _)
    | split
    | dsimp only
    | fail_if_no_progress with_reducible apply Keeps.upd
    | dsimp +zetaDelta only

theorem State.chEvtPend_keeps {r0 : State} (s : State) (m : Nat) (ch : Nat) (bits : BitVec 16) (kp : Keeps r0 s) :
    Keeps r0 (State.chEvtPend s m ch bits) := by
  unfold State.chEvtPend
  repeat' first
    | with_reducible assumption
    | intro _
    | with_reducible apply State.served_keeps
    | with_reducible apply State.cfgMirror_keeps
    | with_reducible apply State.setEvents_keeps
    | with_reducible apply State.accFault_keeps
    | with_reducible apply Keeps.ite
    | (lift_lets; intro _)
    | split
    | dsimp only
    | fail_if_no_progress with_reducible apply Keeps.upd
    | dsimp +zetaDelta only

theorem execChEvtPendWrite_keeps {r0 sT : State} (m : Nat) (ch : Nat) (bits : BitVec 16) (s : State) (kp : Keeps r0 s)
    (e : execChEvtPendWrite m ch bits s = .next sT) : Keeps r0 sT := by
  unfold execChEvtPendWrite at e
  rw [← Host.Outcome.next.inj e]
  repeat' first
    | with_reducible assumption
    | intro _
    | with_reducible apply State.access_keeps
    | with_reducible apply State.chEvtPend_keeps
    | with_reducible apply Keeps.ite
    | (lift_lets; intro _)
    | split
    | dsimp only
    | fail_if_no_progress with_reducible apply Keeps.upd
    | dsimp +zetaDelta only

theorem State.gpioApply_keeps {r0 : State} (s : State) (p : Nat) (l : Nat) (data : List Byte) (kp : Keeps r0 s) :
    Keeps r0 (State.gpioApply s p l data) := by
  unfold State.gpioApply
  repeat' first
    | with_reducible assumption
    | intro _
    | with_reducible apply State.updPort_keeps
    | with_reducible apply State.takeWord_keeps
    | with_reducible apply Keeps.ite
    | (lift_lets; intro _)
    | split
    | dsimp only
    | fail_if_no_progress with_reducible apply Keeps.upd
    | dsimp +zetaDelta only

theorem State.txStamp_keeps {r0 : State} (s : State) (p : Nat) (ch : Nat) (param : Word32) (kp : Keeps r0 s) :
    Keeps r0 (State.txStamp s p ch param) := by
  unfold State.txStamp
  repeat' first
    | with_reducible assumption
    | intro _
    | with_reducible apply State.portEvt_keeps
    | with_reducible apply State.updPort_keeps
    | with_reducible apply State.rxDrop_keeps
    | with_reducible apply Keeps.ite
    | (lift_lets; intro _)
    | split
    | dsimp only
    | fail_if_no_progress with_reducible apply Keeps.upd
    | dsimp +zetaDelta only

theorem State.outLeft_keeps {r0 : State} (s : State) (ch : Nat) (kp : Keeps r0 s) :
    Keeps r0 (State.outLeft s ch) := by
  unfold State.outLeft
  repeat' first
    | with_reducible assumption
    | intro _
    | with_reducible apply State.gpioApply_keeps
    | with_reducible apply State.txStamp_keeps
    | with_reducible apply State.updPort_keeps
    | with_reducible apply State.updXfer_keeps
    | with_reducible apply State.moved_keeps
    | with_reducible apply Keeps.ite
    | (lift_lets; intro _)
    | split
    | dsimp only
    | fail_if_no_progress with_reducible apply Keeps.upd
    | dsimp +zetaDelta only

theorem State.endViol_keeps {r0 : State} (s : State) (ch : Nat) (code : BitVec 16) (node : Option Nat) (kp : Keeps r0 s) :
    Keeps r0 (State.endViol s ch code node) := by
  unfold State.endViol
  repeat' first
    | with_reducible assumption
    | intro _
    | with_reducible apply Keeps.getD
    | with_reducible apply State.moved_keeps
    | with_reducible apply State.failAt_keeps
    | with_reducible apply Keeps.ite
    | (lift_lets; intro _)
    | split
    | dsimp only
    | fail_if_no_progress with_reducible apply Keeps.upd
    | dsimp +zetaDelta only

theorem State.again_keeps {r0 : State} (s : State) (ch : Nat) (kp : Keeps r0 s) :
    Keeps r0 (State.again s ch) := by
  unfold State.again
  repeat' first
    | with_reducible assumption
    | intro _
    | with_reducible apply State.startUnit_keeps
    | with_reducible apply State.updXfer_keeps
    | with_reducible apply Keeps.ite
    | (lift_lets; intro _)
    | split
    | dsimp only
    | fail_if_no_progress with_reducible apply Keeps.upd
    | dsimp +zetaDelta only

theorem State.violNack_keeps {r0 : State} (s : State) (ch : Nat) (node : Option Nat) (kp : Keeps r0 s) :
    Keeps r0 (State.violNack s ch node) := by
  unfold State.violNack
  repeat' first
    | with_reducible assumption
    | intro _
    | with_reducible apply State.moved_keeps
    | with_reducible apply State.endData_keeps
    | with_reducible apply State.updXfer_keeps
    | with_reducible apply State.endViol_keeps
    | with_reducible apply Keeps.ite
    | (lift_lets; intro _)
    | split
    | dsimp only
    | fail_if_no_progress with_reducible apply Keeps.upd
    | dsimp +zetaDelta only

theorem State.answer_keeps {r0 : State} (s : State) (ch : Nat) (cls : Nat) (node : Option Nat) (notTaken : Bool) (k : State → State) (hk : ∀ t, Keeps r0 t → Keeps r0 (k t)) (kp : Keeps r0 s) :
    Keeps r0 (State.answer s ch cls node notTaken k) := by
  unfold State.answer
  repeat' first
    | with_reducible assumption
    | intro _
    | with_reducible apply hk
    | with_reducible apply State.respTo_keeps
    | refine State.respTo_of ?_ (by with_reducible assumption)
    | with_reducible apply State.violRecord_keeps
    | with_reducible apply State.updXfer_keeps
    | with_reducible apply State.violNack_keeps
    | with_reducible apply State.endViol_keeps
    | with_reducible apply State.again_keeps
    | with_reducible apply State.respSide_keeps
    | with_reducible apply Keeps.ite
    | (lift_lets; intro _)
    | split
    | dsimp only
    | fail_if_no_progress with_reducible apply Keeps.upd
    | dsimp +zetaDelta only

theorem State.outUnit_keeps {r0 : State} (s : State) (ch : Nat) (r : UnitResult) (kp : Keeps r0 s) :
    Keeps r0 (State.outUnit s ch r) := by
  unfold State.outUnit
  repeat' first
    | with_reducible assumption
    | intro _
    | with_reducible apply State.outLeft_keeps
    | with_reducible apply State.endData_keeps
    | with_reducible apply State.updXfer_keeps
    | with_reducible apply State.startUnit_keeps
    | with_reducible apply State.doneOnce_keeps
    | with_reducible apply State.storeReply_keeps
    | with_reducible apply Keeps.ite
    | (lift_lets; intro _)
    | split
    | dsimp only
    | fail_if_no_progress with_reducible apply Keeps.upd
    | dsimp +zetaDelta only

theorem State.inUnit_keeps {r0 : State} (s : State) (ch : Nat) (r : UnitResult) (kp : Keeps r0 s) :
    Keeps r0 (State.inUnit s ch r) := by
  unfold State.inUnit
  repeat' first
    | with_reducible assumption
    | intro _
    | with_reducible apply State.endData_keeps
    | with_reducible apply State.updXfer_keeps
    | with_reducible apply State.deliver_keeps
    | with_reducible apply Keeps.ite
    | (lift_lets; intro _)
    | split
    | dsimp only
    | fail_if_no_progress with_reducible apply Keeps.upd
    | dsimp +zetaDelta only

theorem State.replyUnit_keeps {r0 : State} (s : State) (ch : Nat) (r : UnitResult) (kp : Keeps r0 s) :
    Keeps r0 (State.replyUnit s ch r) := by
  unfold State.replyUnit
  repeat' first
    | with_reducible assumption
    | intro _
    | with_reducible apply State.endData_keeps
    | with_reducible apply State.storeReply_keeps
    | with_reducible apply State.updXfer_keeps
    | with_reducible apply Keeps.ite
    | (lift_lets; intro _)
    | split
    | dsimp only
    | fail_if_no_progress with_reducible apply Keeps.upd
    | dsimp +zetaDelta only

theorem State.unitEnds_keeps {r0 : State} (s : State) (ch : Nat) (r : UnitResult) (kp : Keeps r0 s) :
    Keeps r0 (State.unitEnds s ch r) := by
  unfold State.unitEnds
  repeat' first
    | with_reducible assumption
    | intro _
    | with_reducible apply State.replyUnit_keeps
    | with_reducible apply State.outUnit_keeps
    | with_reducible apply State.inUnit_keeps
    | with_reducible apply Keeps.ite
    | (lift_lets; intro _)
    | split
    | dsimp only
    | fail_if_no_progress with_reducible apply Keeps.upd
    | dsimp +zetaDelta only

theorem State.unitComplete_keeps {r0 : State} (s : State) (ch : Nat) (r : UnitResult) (kp : Keeps r0 s) :
    Keeps r0 (State.unitComplete s ch r) := by
  unfold State.unitComplete
  repeat' first
    | with_reducible assumption
    | intro _
    | with_reducible apply State.freePort_keeps
    | with_reducible apply State.kickPort_keeps
    | with_reducible apply State.unitEnds_keeps
    | with_reducible apply State.answer_keeps
    | with_reducible apply Keeps.ite
    | (lift_lets; intro _)
    | split
    | dsimp only
    | fail_if_no_progress with_reducible apply Keeps.upd
    | dsimp +zetaDelta only

theorem execPortUnitComplete_keeps {r0 sT : State} (ch : Nat) (r : UnitResult) (s : State) (kp : Keeps r0 s)
    (e : execPortUnitComplete ch r s = .next sT) : Keeps r0 sT := by
  unfold execPortUnitComplete at e
  rw [← Host.Outcome.next.inj e]
  repeat' first
    | with_reducible assumption
    | intro _
    | with_reducible apply State.served_keeps
    | with_reducible apply State.unitComplete_keeps
    | with_reducible apply Keeps.ite
    | (lift_lets; intro _)
    | split
    | dsimp only
    | fail_if_no_progress with_reducible apply Keeps.upd
    | dsimp +zetaDelta only

theorem State.rxTimeout_keeps {r0 : State} (s : State) (ch : Nat) (kp : Keeps r0 s) :
    Keeps r0 (State.rxTimeout s ch) := by
  unfold State.rxTimeout
  repeat' first
    | with_reducible assumption
    | intro _
    | with_reducible apply State.pace_keeps
    | with_reducible apply State.endData_keeps
    | with_reducible apply State.updXfer_keeps
    | with_reducible apply Keeps.ite
    | (lift_lets; intro _)
    | split
    | dsimp only
    | fail_if_no_progress with_reducible apply Keeps.upd
    | dsimp +zetaDelta only

theorem execRxTimeout_keeps {r0 sT : State} (ch : Nat) (s : State) (kp : Keeps r0 s)
    (e : execRxTimeout ch s = .next sT) : Keeps r0 sT := by
  unfold execRxTimeout at e
  rw [← Host.Outcome.next.inj e]
  repeat' first
    | with_reducible assumption
    | intro _
    | with_reducible apply State.served_keeps
    | with_reducible apply State.rxTimeout_keeps
    | with_reducible apply Keeps.ite
    | (lift_lets; intro _)
    | split
    | dsimp only
    | fail_if_no_progress with_reducible apply Keeps.upd
    | dsimp +zetaDelta only

theorem execModbusResponseTimeout_keeps {r0 sT : State} (ch : Nat) (s : State) (kp : Keeps r0 s)
    (e : execModbusResponseTimeout ch s = .next sT) : Keeps r0 sT := by
  unfold execModbusResponseTimeout at e
  rw [← Host.Outcome.next.inj e]
  repeat' first
    | with_reducible assumption
    | intro _
    | with_reducible apply State.served_keeps
    | with_reducible apply State.kickPort_keeps
    | with_reducible apply State.endData_keeps
    | with_reducible apply State.updXfer_keeps
    | with_reducible apply State.updPort_keeps
    | with_reducible apply State.freePort_keeps
    | with_reducible apply Keeps.ite
    | (lift_lets; intro _)
    | split
    | dsimp only
    | fail_if_no_progress with_reducible apply Keeps.upd
    | dsimp +zetaDelta only

theorem execHawkGrantTimeout_keeps {r0 sT : State} (ch : Nat) (s : State) (kp : Keeps r0 s)
    (e : execHawkGrantTimeout ch s = .next sT) : Keeps r0 sT := by
  unfold execHawkGrantTimeout at e
  rw [← Host.Outcome.next.inj e]
  repeat' first
    | with_reducible assumption
    | intro _
    | with_reducible apply State.served_keeps
    | with_reducible apply State.failAt_keeps
    | with_reducible apply State.unwaitGrant_keeps
    | with_reducible apply Keeps.ite
    | (lift_lets; intro _)
    | split
    | dsimp only
    | fail_if_no_progress with_reducible apply Keeps.upd
    | dsimp +zetaDelta only

theorem State.ctlDone_keeps {r0 : State} (s : State) (ch : Nat) (op : Nat) (f : State → Nat → State) (hf : ∀ t a1, Keeps r0 t → Keeps r0 (f t a1)) (kp : Keeps r0 s) :
    Keeps r0 (State.ctlDone s ch op f) := by
  unfold State.ctlDone
  repeat' first
    | with_reducible assumption
    | intro _
    | with_reducible apply hf
    | with_reducible apply State.kickPort_keeps
    | with_reducible apply State.endData_keeps
    | with_reducible apply State.outLeft_keeps
    | with_reducible apply State.freePort_keeps
    | with_reducible apply Keeps.ite
    | (lift_lets; intro _)
    | split
    | dsimp only
    | fail_if_no_progress with_reducible apply Keeps.upd
    | dsimp +zetaDelta only

theorem execLineTest_keeps {r0 sT : State} (ch : Nat) (readings : List Word32) (s : State) (kp : Keeps r0 s)
    (e : execLineTest ch readings s = .next sT) : Keeps r0 sT := by
  unfold execLineTest at e
  rw [← Host.Outcome.next.inj e]
  repeat' first
    | with_reducible assumption
    | intro _
    | with_reducible apply State.served_keeps
    | with_reducible apply State.ctlDone_keeps
    | with_reducible apply State.lineDiag_keeps
    | with_reducible apply Keeps.ite
    | (lift_lets; intro _)
    | split
    | dsimp only
    | fail_if_no_progress with_reducible apply Keeps.upd
    | dsimp +zetaDelta only

theorem execPlcaSync_keeps {r0 sT : State} (ch : Nat) (s : State) (kp : Keeps r0 s)
    (e : execPlcaSync ch s = .next sT) : Keeps r0 sT := by
  unfold execPlcaSync at e
  rw [← Host.Outcome.next.inj e]
  repeat' first
    | with_reducible assumption
    | intro _
    | with_reducible apply State.served_keeps
    | with_reducible apply State.ctlDone_keeps
    | with_reducible apply State.updPort_keeps
    | with_reducible apply Keeps.ite
    | (lift_lets; intro _)
    | split
    | dsimp only
    | fail_if_no_progress with_reducible apply Keeps.upd
    | dsimp +zetaDelta only

theorem execRxFlush_keeps {r0 sT : State} (ch : Nat) (s : State) (kp : Keeps r0 s)
    (e : execRxFlush ch s = .next sT) : Keeps r0 sT := by
  unfold execRxFlush at e
  rw [← Host.Outcome.next.inj e]
  repeat' first
    | with_reducible assumption
    | intro _
    | with_reducible apply State.served_keeps
    | with_reducible apply State.ctlDone_keeps
    | with_reducible apply State.updPort_keeps
    | with_reducible apply State.each_keeps
    | with_reducible apply State.freeUnit_keeps
    | with_reducible apply Keeps.ite
    | (lift_lets; intro _)
    | split
    | dsimp only
    | fail_if_no_progress with_reducible apply Keeps.upd
    | dsimp +zetaDelta only

theorem execBrk_keeps {r0 sT : State} (ch : Nat) (s : State) (kp : Keeps r0 s)
    (e : execBrk ch s = .next sT) : Keeps r0 sT := by
  unfold execBrk at e
  rw [← Host.Outcome.next.inj e]
  repeat' first
    | with_reducible assumption
    | intro _
    | with_reducible apply State.served_keeps
    | with_reducible apply State.ctlDone_keeps
    | with_reducible apply State.updPort_keeps
    | with_reducible apply Keeps.ite
    | (lift_lets; intro _)
    | split
    | dsimp only
    | fail_if_no_progress with_reducible apply Keeps.upd
    | dsimp +zetaDelta only

theorem execIdleClocks_keeps {r0 sT : State} (ch : Nat) (s : State) (kp : Keeps r0 s)
    (e : execIdleClocks ch s = .next sT) : Keeps r0 sT := by
  unfold execIdleClocks at e
  rw [← Host.Outcome.next.inj e]
  repeat' first
    | with_reducible assumption
    | intro _
    | with_reducible apply State.served_keeps
    | with_reducible apply State.ctlDone_keeps
    | with_reducible apply Keeps.ite
    | (lift_lets; intro _)
    | split
    | dsimp only
    | fail_if_no_progress with_reducible apply Keeps.upd
    | dsimp +zetaDelta only

theorem execBusRecovery_keeps {r0 sT : State} (ch : Nat) (s : State) (kp : Keeps r0 s)
    (e : execBusRecovery ch s = .next sT) : Keeps r0 sT := by
  unfold execBusRecovery at e
  rw [← Host.Outcome.next.inj e]
  repeat' first
    | with_reducible assumption
    | intro _
    | with_reducible apply State.served_keeps
    | with_reducible apply State.ctlDone_keeps
    | with_reducible apply State.updPort_keeps
    | with_reducible apply Keeps.ite
    | (lift_lets; intro _)
    | split
    | dsimp only
    | fail_if_no_progress with_reducible apply Keeps.upd
    | dsimp +zetaDelta only

theorem execLinkRestart_keeps {r0 sT : State} (ch : Nat) (s : State) (kp : Keeps r0 s)
    (e : execLinkRestart ch s = .next sT) : Keeps r0 sT := by
  unfold execLinkRestart at e
  rw [← Host.Outcome.next.inj e]
  repeat' first
    | with_reducible assumption
    | intro _
    | with_reducible apply State.served_keeps
    | with_reducible apply State.ctlDone_keeps
    | with_reducible apply State.portEvt_keeps
    | with_reducible apply State.updPort_keeps
    | with_reducible apply Keeps.ite
    | (lift_lets; intro _)
    | split
    | dsimp only
    | fail_if_no_progress with_reducible apply Keeps.upd
    | dsimp +zetaDelta only

end Sys2Proof.Machine
end

