-- ==== Sys2Proof/Laws/KeepsFieldPorts.lean ====
section
/-! SUPPORT. The operations of Machine/FieldPorts.lean keep the queue of commands and the form of the memory. -/

namespace Sys2Proof.Machine
open Sys2Proof

theorem State.faultAppears_keeps {r0 : State} (s : State) (p : Nat) (cause : Nat) (kp : Keeps r0 s) :
    Keeps r0 (State.faultAppears s p cause) := by
  unfold State.faultAppears
  repeat' first
    | with_reducible assumption
    | intro _
    | with_reducible apply State.updPort_keeps
    | with_reducible apply State.portEvt_keeps
    | with_reducible apply State.kickPort_keeps
    | with_reducible apply State.enterFault_keeps
    | with_reducible apply Keeps.ite
    | (lift_lets; intro _)
    | split
    | dsimp only
    | fail_if_no_progress with_reducible apply Keeps.upd
    | dsimp +zetaDelta only

theorem execPortFault_keeps {r0 sT : State} (port : Nat) (cause : Nat) (s : State) (kp : Keeps r0 s)
    (e : execPortFault port cause s = .next sT) : Keeps r0 sT := by
  unfold execPortFault at e
  rw [← Host.Outcome.next.inj e]
  repeat' first
    | with_reducible assumption
    | intro _
    | with_reducible apply State.served_keeps
    | with_reducible apply State.faultAppears_keeps
    | with_reducible apply Keeps.ite
    | (lift_lets; intro _)
    | split
    | dsimp only
    | fail_if_no_progress with_reducible apply Keeps.upd
    | dsimp +zetaDelta only

theorem State.causesGone_keeps {r0 : State} (s : State) (p : Nat) (kp : Keeps r0 s) :
    Keeps r0 (State.causesGone s p) := by
  unfold State.causesGone
  repeat' first
    | with_reducible assumption
    | intro _
    | with_reducible apply State.updPort_keeps
    | with_reducible apply State.portEvt_keeps
    | with_reducible apply Keeps.ite
    | (lift_lets; intro _)
    | split
    | dsimp only
    | fail_if_no_progress with_reducible apply Keeps.upd
    | dsimp +zetaDelta only

theorem execFaultClearTimeout_keeps {r0 sT : State} (port : Nat) (s : State) (kp : Keeps r0 s)
    (e : execFaultClearTimeout port s = .next sT) : Keeps r0 sT := by
  unfold execFaultClearTimeout at e
  rw [← Host.Outcome.next.inj e]
  repeat' first
    | with_reducible assumption
    | intro _
    | with_reducible apply State.causesGone_keeps
    | with_reducible apply State.upOrFault_keeps
    | with_reducible apply Keeps.ite
    | (lift_lets; intro _)
    | split
    | dsimp only
    | fail_if_no_progress with_reducible apply Keeps.upd
    | dsimp +zetaDelta only

theorem execBusOffRecoveryComplete_keeps {r0 sT : State} (port : Nat) (s : State) (kp : Keeps r0 s)
    (e : execBusOffRecoveryComplete port s = .next sT) : Keeps r0 sT := by
  unfold execBusOffRecoveryComplete at e
  rw [← Host.Outcome.next.inj e]
  repeat' first
    | with_reducible assumption
    | intro _
    | with_reducible apply State.portEvt_keeps
    | with_reducible apply State.updPort_keeps
    | with_reducible apply State.upOrFault_keeps
    | with_reducible apply Keeps.ite
    | (lift_lets; intro _)
    | split
    | dsimp only
    | fail_if_no_progress with_reducible apply Keeps.upd
    | dsimp +zetaDelta only

theorem State.clrFaultW_keeps {r0 : State} (s : State) (p : Nat) (absent : Bool) (kp : Keeps r0 s) :
    Keeps r0 (State.clrFaultW s p absent) := by
  unfold State.clrFaultW
  repeat' first
    | with_reducible assumption
    | intro _
    | with_reducible apply State.causesGone_keeps
    | with_reducible apply State.updPort_keeps
    | with_reducible apply State.upOrFault_keeps
    | with_reducible apply Keeps.ite
    | (lift_lets; intro _)
    | split
    | dsimp only
    | fail_if_no_progress with_reducible apply Keeps.upd
    | dsimp +zetaDelta only

theorem execClrFault_keeps {r0 sT : State} (m : Nat) (port : Nat) (absent : Bool) (s : State) (kp : Keeps r0 s)
    (e : execClrFault m port absent s = .next sT) : Keeps r0 sT := by
  unfold execClrFault at e
  rw [← Host.Outcome.next.inj e]
  repeat' first
    | with_reducible assumption
    | intro _
    | with_reducible apply State.access_keeps
    | with_reducible apply State.cfgMirror_keeps
    | with_reducible apply State.clrFaultW_keeps
    | with_reducible apply State.accFault_keeps
    | with_reducible apply Keeps.ite
    | (lift_lets; intro _)
    | split
    | dsimp only
    | fail_if_no_progress with_reducible apply Keeps.upd
    | dsimp +zetaDelta only

theorem execLift_keeps {r0 sT : State} (m : Nat) (port : Nat) (node : BitVec 24) (s : State) (kp : Keeps r0 s)
    (e : execLift m port node s = .next sT) : Keeps r0 sT := by
  unfold execLift at e
  rw [← Host.Outcome.next.inj e]
  repeat' first
    | with_reducible assumption
    | intro _
    | with_reducible apply State.access_keeps
    | with_reducible apply State.cfgMirror_keeps
    | with_reducible apply State.updPort_keeps
    | with_reducible apply State.accFault_keeps
    | with_reducible apply Keeps.ite
    | (lift_lets; intro _)
    | split
    | dsimp only
    | fail_if_no_progress with_reducible apply Keeps.upd
    | dsimp +zetaDelta only

theorem execLiftAll_keeps {r0 sT : State} (m : Nat) (port : Nat) (s : State) (kp : Keeps r0 s)
    (e : execLiftAll m port s = .next sT) : Keeps r0 sT := by
  unfold execLiftAll at e
  rw [← Host.Outcome.next.inj e]
  repeat' first
    | with_reducible assumption
    | intro _
    | with_reducible apply State.access_keeps
    | with_reducible apply State.cfgMirror_keeps
    | with_reducible apply State.updPort_keeps
    | with_reducible apply State.accFault_keeps
    | with_reducible apply Keeps.ite
    | (lift_lets; intro _)
    | split
    | dsimp only
    | fail_if_no_progress with_reducible apply Keeps.upd
    | dsimp +zetaDelta only

theorem execDiag_keeps {r0 sT : State} (m : Nat) (port : Nat) (readings : List Word32) (s : State) (kp : Keeps r0 s)
    (e : execDiag m port readings s = .next sT) : Keeps r0 sT := by
  unfold execDiag at e
  rw [← Host.Outcome.next.inj e]
  repeat' first
    | with_reducible assumption
    | intro _
    | with_reducible apply State.access_keeps
    | with_reducible apply State.cfgMirror_keeps
    | with_reducible apply State.lineDiag_keeps
    | with_reducible apply State.accFault_keeps
    | with_reducible apply Keeps.ite
    | (lift_lets; intro _)
    | split
    | dsimp only
    | fail_if_no_progress with_reducible apply Keeps.upd
    | dsimp +zetaDelta only

theorem State.rxViol_keeps {r0 : State} (s : State) (p : Nat) (cls : Nat) (node : Option Nat) (u : RxUnit) (k : State → State) (hk : ∀ t, Keeps r0 t → Keeps r0 (k t)) (kp : Keeps r0 s) :
    Keeps r0 (State.rxViol s p cls node u k) := by
  unfold State.rxViol
  repeat' first
    | with_reducible assumption
    | intro _
    | with_reducible apply hk
    | with_reducible apply State.violAlone_keeps
    | with_reducible apply State.respTo_keeps
    | refine State.respTo_of ?_ (by with_reducible assumption)
    | with_reducible apply State.violRecord_keeps
    | with_reducible apply State.updXfer_keeps
    | with_reducible apply State.pace_keeps
    | with_reducible apply State.violNack_keeps
    | with_reducible apply State.endViol_keeps
    | with_reducible apply State.again_keeps
    | with_reducible apply State.respSide_keeps
    | with_reducible apply Keeps.ite
    | (lift_lets; intro _)
    | split
    | dsimp only
    | fail_if_no_progress with_reducible apply Keeps.upd
    | dsimp +zetaDelta only

theorem State.unsolicited_keeps {r0 : State} (s : State) (p : Nat) (node : Option Nat) (kp : Keeps r0 s) :
    Keeps r0 (State.unsolicited s p node) := by
  unfold State.unsolicited
  repeat' first
    | with_reducible assumption
    | intro _
    | with_reducible apply State.violAlone_keeps
    | with_reducible apply State.rxDrop_keeps
    | with_reducible apply Keeps.ite
    | (lift_lets; intro _)
    | split
    | dsimp only
    | fail_if_no_progress with_reducible apply Keeps.upd
    | dsimp +zetaDelta only

theorem State.bufferUnit_keeps {r0 : State} (s : State) (p : Nat) (limit : Nat) (u : RxUnit) (kp : Keeps r0 s) :
    Keeps r0 (State.bufferUnit s p limit u) := by
  unfold State.bufferUnit
  repeat' first
    | with_reducible assumption
    | intro _
    | with_reducible apply State.unsolicited_keeps
    | with_reducible apply State.pumpPort_keeps
    | with_reducible apply State.updPort_keeps
    | with_reducible apply Keeps.ite
    | (lift_lets; intro _)
    | split
    | dsimp only
    | fail_if_no_progress with_reducible apply Keeps.upd
    | dsimp +zetaDelta only

theorem State.rxT1s_keeps {r0 : State} (s : State) (p : Nat) (frame : List Byte) (wire : Nat) (bad : Option Nat) (kp : Keeps r0 s) :
    Keeps r0 (State.rxT1s s p frame wire bad) := by
  unfold State.rxT1s
  repeat' first
    | with_reducible assumption
    | intro _
    | with_reducible apply Keeps.getD
    | with_reducible apply State.rxViol_keeps
    | with_reducible apply State.bufferUnit_keeps
    | with_reducible apply State.violAlone_keeps
    | with_reducible apply Keeps.ite
    | (lift_lets; intro _)
    | split
    | dsimp only
    | fail_if_no_progress with_reducible apply Keeps.upd
    | dsimp +zetaDelta only

theorem State.rxCan_keeps {r0 : State} (s : State) (p : Nat) (h : Word64) (bytes : List Byte) (bad : Option Nat) (kp : Keeps r0 s) :
    Keeps r0 (State.rxCan s p h bytes bad) := by
  unfold State.rxCan
  repeat' first
    | with_reducible assumption
    | intro _
    | with_reducible apply State.rxViol_keeps
    | with_reducible apply State.updPort_keeps
    | with_reducible apply State.bufferUnit_keeps
    | with_reducible apply State.violAlone_keeps
    | with_reducible apply Keeps.ite
    | (lift_lets; intro _)
    | split
    | dsimp only
    | fail_if_no_progress with_reducible apply Keeps.upd
    | dsimp +zetaDelta only

theorem State.wireViol_keeps {r0 : State} (s : State) (p : Nat) (ch : Nat) (cls : Nat) (node : Option Nat) (kp : Keeps r0 s) :
    Keeps r0 (State.wireViol s p ch cls node) := by
  unfold State.wireViol
  repeat' first
    | with_reducible assumption
    | intro _
    | with_reducible apply State.kickPort_keeps
    | with_reducible apply State.answer_keeps
    | with_reducible apply State.freePort_keeps
    | with_reducible apply State.updPort_keeps
    | with_reducible apply Keeps.ite
    | (lift_lets; intro _)
    | split
    | dsimp only
    | fail_if_no_progress with_reducible apply Keeps.upd
    | dsimp +zetaDelta only

theorem State.rxUart_keeps {r0 : State} (s : State) (p : Nat) (c : Byte) (bad : Option Nat) (kp : Keeps r0 s) :
    Keeps r0 (State.rxUart s p c bad) := by
  unfold State.rxUart
  repeat' first
    | with_reducible assumption
    | intro _
    | with_reducible apply State.updPort_keeps
    | with_reducible apply State.wireViol_keeps
    | with_reducible apply State.violAlone_keeps
    | with_reducible apply State.rxViol_keeps
    | with_reducible apply State.bufferUnit_keeps
    | with_reducible apply Keeps.ite
    | (lift_lets; intro _)
    | split
    | dsimp only
    | fail_if_no_progress with_reducible apply Keeps.upd
    | dsimp +zetaDelta only

theorem State.bufferEth_keeps {r0 : State} (s : State) (p : Nat) (n : Nat) (u : RxUnit) (kp : Keeps r0 s) :
    Keeps r0 (State.bufferEth s p n u) := by
  unfold State.bufferEth
  repeat' first
    | with_reducible assumption
    | intro _
    | with_reducible apply State.unsolicited_keeps
    | refine State.grantMany_of ?_ (by with_reducible assumption)
    | with_reducible apply State.rxDrop_keeps
    | with_reducible apply State.pumpPort_keeps
    | with_reducible apply State.updPort_keeps
    | with_reducible apply State.fillCells_keeps
    | with_reducible apply Keeps.ite
    | (lift_lets; intro _)
    | split
    | dsimp only
    | fail_if_no_progress with_reducible apply Keeps.upd
    | dsimp +zetaDelta only

theorem State.paused_keeps {r0 : State} (s : State) (p : Nat) (frame : List Byte) (kp : Keeps r0 s) :
    Keeps r0 (State.paused s p frame) := by
  unfold State.paused
  repeat' first
    | with_reducible assumption
    | intro _
    | with_reducible apply State.kickPort_keeps
    | with_reducible apply State.updPort_keeps
    | with_reducible apply Keeps.ite
    | (lift_lets; intro _)
    | split
    | dsimp only
    | fail_if_no_progress with_reducible apply Keeps.upd
    | dsimp +zetaDelta only

theorem State.rxPoliced_keeps {r0 : State} (s : State) (p : Nat) (n : Nat) (u : RxUnit) (kp : Keeps r0 s) :
    Keeps r0 (State.rxPoliced s p n u) := by
  unfold State.rxPoliced
  repeat' first
    | with_reducible assumption
    | intro _
    | with_reducible apply State.rxViol_keeps
    | with_reducible apply State.updPort_keeps
    | with_reducible apply Keeps.ite
    | (lift_lets; intro _)
    | split
    | dsimp only
    | fail_if_no_progress with_reducible apply Keeps.upd
    | dsimp +zetaDelta only

theorem State.rxEth_keeps {r0 : State} (s : State) (p : Nat) (frame : List Byte) (wire : Nat) (bad : Option Nat) (kp : Keeps r0 s) :
    Keeps r0 (State.rxEth s p frame wire bad) := by
  unfold State.rxEth
  repeat' first
    | with_reducible assumption
    | intro _
    | with_reducible apply Keeps.getD
    | with_reducible apply Keeps.elim
    | with_reducible apply State.updPort_keeps
    | with_reducible apply State.rxPoliced_keeps
    | with_reducible apply State.rxViol_keeps
    | with_reducible apply State.paused_keeps
    | with_reducible apply State.violAlone_keeps
    | with_reducible apply State.bufferEth_keeps
    | with_reducible apply Keeps.ite
    | (lift_lets; intro _)
    | split
    | dsimp only
    | fail_if_no_progress with_reducible apply Keeps.upd
    | dsimp +zetaDelta only

theorem execFrameReceive_keeps {r0 sT : State} (port : Nat) (f : RxFrame) (s : State) (kp : Keeps r0 s)
    (e : execFrameReceive port f s = .next sT) : Keeps r0 sT := by
  unfold execFrameReceive at e
  rw [← Host.Outcome.next.inj e]
  repeat' first
    | with_reducible assumption
    | intro _
    | with_reducible apply State.served_keeps
    | with_reducible apply State.rxT1s_keeps
    | with_reducible apply State.rxEth_keeps
    | with_reducible apply State.rxCan_keeps
    | with_reducible apply State.rxUart_keeps
    | with_reducible apply Keeps.ite
    | (lift_lets; intro _)
    | split
    | dsimp only
    | fail_if_no_progress with_reducible apply Keeps.upd
    | dsimp +zetaDelta only

theorem execRxholdExpiry_keeps {r0 sT : State} (port : Nat) (s : State) (kp : Keeps r0 s)
    (e : execRxholdExpiry port s = .next sT) : Keeps r0 sT := by
  unfold execRxholdExpiry at e
  rw [← Host.Outcome.next.inj e]
  repeat' first
    | with_reducible assumption
    | intro _
    | with_reducible apply State.served_keeps
    | with_reducible apply State.unsolicited_keeps
    | with_reducible apply State.freeUnit_keeps
    | with_reducible apply State.updPort_keeps
    | with_reducible apply Keeps.ite
    | (lift_lets; intro _)
    | split
    | dsimp only
    | fail_if_no_progress with_reducible apply Keeps.upd
    | dsimp +zetaDelta only

theorem State.aduEnds_keeps {r0 : State} (s : State) (p : Nat) (ch : Nat) (kp : Keeps r0 s) :
    Keeps r0 (State.aduEnds s p ch) := by
  unfold State.aduEnds
  repeat' first
    | with_reducible assumption
    | intro _
    | with_reducible apply State.updPort_keeps
    | with_reducible apply State.unitEnds_keeps
    | with_reducible apply State.freePort_keeps
    | with_reducible apply State.wireViol_keeps
    | with_reducible apply State.kickPort_keeps
    | with_reducible apply State.answer_keeps
    | with_reducible apply Keeps.ite
    | (lift_lets; intro _)
    | split
    | dsimp only
    | fail_if_no_progress with_reducible apply Keeps.upd
    | dsimp +zetaDelta only

theorem execUartIdleLineExpiry_keeps {r0 sT : State} (port : Nat) (s : State) (kp : Keeps r0 s)
    (e : execUartIdleLineExpiry port s = .next sT) : Keeps r0 sT := by
  unfold execUartIdleLineExpiry at e
  rw [← Host.Outcome.next.inj e]
  repeat' first
    | with_reducible assumption
    | intro _
    | with_reducible apply State.violAlone_keeps
    | with_reducible apply State.updPort_keeps
    | with_reducible apply State.served_keeps
    | with_reducible apply State.aduEnds_keeps
    | with_reducible apply State.endData_keeps
    | with_reducible apply State.updXfer_keeps
    | with_reducible apply Keeps.ite
    | (lift_lets; intro _)
    | split
    | dsimp only
    | fail_if_no_progress with_reducible apply Keeps.upd
    | dsimp +zetaDelta only

theorem execSclStretchTimeout_keeps {r0 sT : State} (port : Nat) (s : State) (kp : Keeps r0 s)
    (e : execSclStretchTimeout port s = .next sT) : Keeps r0 sT := by
  unfold execSclStretchTimeout at e
  rw [← Host.Outcome.next.inj e]
  repeat' first
    | with_reducible assumption
    | intro _
    | with_reducible apply State.updPort_keeps
    | with_reducible apply State.violAlone_keeps
    | with_reducible apply State.served_keeps
    | with_reducible apply State.wireViol_keeps
    | with_reducible apply Keeps.ite
    | (lift_lets; intro _)
    | split
    | dsimp only
    | fail_if_no_progress with_reducible apply Keeps.upd
    | dsimp +zetaDelta only

theorem execSmbalertAssert_keeps {r0 sT : State} (port : Nat) (s : State) (kp : Keeps r0 s)
    (e : execSmbalertAssert port s = .next sT) : Keeps r0 sT := by
  unfold execSmbalertAssert at e
  rw [← Host.Outcome.next.inj e]
  repeat' first
    | with_reducible assumption
    | intro _
    | with_reducible apply State.portEvt_keeps
    | with_reducible apply State.updPort_keeps
    | with_reducible apply State.violAlone_keeps
    | with_reducible apply Keeps.ite
    | (lift_lets; intro _)
    | split
    | dsimp only
    | fail_if_no_progress with_reducible apply Keeps.upd
    | dsimp +zetaDelta only

theorem execBeaconHoldExpiry_keeps {r0 sT : State} (port : Nat) (s : State) (kp : Keeps r0 s)
    (e : execBeaconHoldExpiry port s = .next sT) : Keeps r0 sT := by
  unfold execBeaconHoldExpiry at e
  rw [← Host.Outcome.next.inj e]
  repeat' first
    | with_reducible assumption
    | intro _
    | with_reducible apply State.updPort_keeps
    | with_reducible apply Keeps.ite
    | (lift_lets; intro _)
    | split
    | dsimp only
    | fail_if_no_progress with_reducible apply Keeps.upd
    | dsimp +zetaDelta only

theorem State.plcaStatus_keeps {r0 : State} (s : State) (p : Nat) (up : Bool) (kp : Keeps r0 s) :
    Keeps r0 (State.plcaStatus s p up) := by
  unfold State.plcaStatus
  repeat' first
    | with_reducible assumption
    | intro _
    | with_reducible apply State.updPort_keeps
    | with_reducible apply State.portEvt_keeps
    | with_reducible apply Keeps.ite
    | (lift_lets; intro _)
    | split
    | dsimp only
    | fail_if_no_progress with_reducible apply Keeps.upd
    | dsimp +zetaDelta only

theorem execPlcaBeacon_keeps {r0 sT : State} (port : Nat) (found : Bool) (s : State) (kp : Keeps r0 s)
    (e : execPlcaBeacon port found s = .next sT) : Keeps r0 sT := by
  unfold execPlcaBeacon at e
  rw [← Host.Outcome.next.inj e]
  repeat' first
    | with_reducible assumption
    | intro _
    | with_reducible apply State.violAlone_keeps
    | with_reducible apply State.plcaStatus_keeps
    | with_reducible apply State.updPort_keeps
    | with_reducible apply Keeps.ite
    | (lift_lets; intro _)
    | split
    | dsimp only
    | fail_if_no_progress with_reducible apply Keeps.upd
    | dsimp +zetaDelta only

theorem State.capture_keeps {r0 : State} (s : State) (p : Nat) (l : Nat) (level : Bool) (kp : Keeps r0 s) :
    Keeps r0 (State.capture s p l level) := by
  unfold State.capture
  repeat' first
    | with_reducible assumption
    | intro _
    | with_reducible apply State.updPort_keeps
    | with_reducible apply State.violAlone_keeps
    | with_reducible apply State.pumpPort_keeps
    | with_reducible apply Keeps.ite
    | (lift_lets; intro _)
    | split
    | dsimp only
    | fail_if_no_progress with_reducible apply Keeps.upd
    | dsimp +zetaDelta only

theorem State.gpioEdge_keeps {r0 : State} (s : State) (p : Nat) (l : Nat) (level : Bool) (kp : Keeps r0 s) :
    Keeps r0 (State.gpioEdge s p l level) := by
  unfold State.gpioEdge
  repeat' first
    | with_reducible assumption
    | intro _
    | with_reducible apply State.setLine_keeps
    | with_reducible apply State.updPort_keeps
    | with_reducible apply State.capture_keeps
    | with_reducible apply State.violAlone_keeps
    | with_reducible apply Keeps.ite
    | (lift_lets; intro _)
    | split
    | dsimp only
    | fail_if_no_progress with_reducible apply Keeps.upd
    | dsimp +zetaDelta only

theorem execGpioEdge_keeps {r0 sT : State} (port : Nat) (line : Nat) (level : Bool) (s : State) (kp : Keeps r0 s)
    (e : execGpioEdge port line level s = .next sT) : Keeps r0 sT := by
  unfold execGpioEdge at e
  rw [← Host.Outcome.next.inj e]
  repeat' first
    | with_reducible assumption
    | intro _
    | with_reducible apply State.served_keeps
    | with_reducible apply State.gpioEdge_keeps
    | with_reducible apply Keeps.ite
    | (lift_lets; intro _)
    | split
    | dsimp only
    | fail_if_no_progress with_reducible apply Keeps.upd
    | dsimp +zetaDelta only

theorem execGpioTimerMatch_keeps {r0 sT : State} (port : Nat) (line : Nat) (s : State) (kp : Keeps r0 s)
    (e : execGpioTimerMatch port line s = .next sT) : Keeps r0 sT := by
  unfold execGpioTimerMatch at e
  rw [← Host.Outcome.next.inj e]
  repeat' first
    | with_reducible assumption
    | intro _
    | with_reducible apply State.updPort_keeps
    | with_reducible apply Keeps.ite
    | (lift_lets; intro _)
    | split
    | dsimp only
    | fail_if_no_progress with_reducible apply Keeps.upd
    | dsimp +zetaDelta only

theorem execPwmPeriodStart_keeps {r0 sT : State} (port : Nat) (line : Nat) (s : State) (kp : Keeps r0 s)
    (e : execPwmPeriodStart port line s = .next sT) : Keeps r0 sT := by
  unfold execPwmPeriodStart at e
  rw [← Host.Outcome.next.inj e]
  repeat' first
    | with_reducible assumption
    | intro _
    | with_reducible apply State.updPort_keeps
    | with_reducible apply Keeps.ite
    | (lift_lets; intro _)
    | split
    | dsimp only
    | fail_if_no_progress with_reducible apply Keeps.upd
    | dsimp +zetaDelta only

theorem execAdcConversion_keeps {r0 sT : State} (input : Nat) (code : BitVec 12) (s : State) (kp : Keeps r0 s)
    (e : execAdcConversion input code s = .next sT) : Keeps r0 sT := by
  unfold execAdcConversion at e
  rw [← Host.Outcome.next.inj e]
  repeat' first
    | with_reducible assumption
    | intro _
    | with_reducible apply State.updPort_keeps
    | with_reducible apply State.freePort_keeps
    | with_reducible apply State.served_keeps
    | with_reducible apply State.kickPort_keeps
    | with_reducible apply State.deliver_keeps
    | with_reducible apply Keeps.ite
    | (lift_lets; intro _)
    | split
    | dsimp only
    | fail_if_no_progress with_reducible apply Keeps.upd
    | dsimp +zetaDelta only

theorem execAdcMonitor_keeps {r0 sT : State} (input : Nat) (code : BitVec 12) (s : State) (kp : Keeps r0 s)
    (e : execAdcMonitor input code s = .next sT) : Keeps r0 sT := by
  unfold execAdcMonitor at e
  rw [← Host.Outcome.next.inj e]
  repeat' first
    | with_reducible assumption
    | intro _
    | with_reducible apply State.setLine_keeps
    | with_reducible apply State.updPort_keeps
    | with_reducible apply Keeps.ite
    | (lift_lets; intro _)
    | split
    | dsimp only
    | fail_if_no_progress with_reducible apply Keeps.upd
    | dsimp +zetaDelta only

theorem execGateEntryExpiry_keeps {r0 sT : State} (mac : Nat) (s : State) (kp : Keeps r0 s)
    (e : execGateEntryExpiry mac s = .next sT) : Keeps r0 sT := by
  unfold execGateEntryExpiry at e
  rw [← Host.Outcome.next.inj e]
  repeat' first
    | with_reducible assumption
    | intro _
    | with_reducible apply State.served_keeps
    | with_reducible apply State.kickPort_keeps
    | with_reducible apply State.updPort_keeps
    | with_reducible apply Keeps.ite
    | (lift_lets; intro _)
    | split
    | dsimp only
    | fail_if_no_progress with_reducible apply Keeps.upd
    | dsimp +zetaDelta only

theorem State.txtsPop_keeps {r0 : State} (s : State) (p : Nat) (kp : Keeps r0 s) :
    Keeps r0 (State.txtsPop s p) := by
  unfold State.txtsPop
  repeat' first
    | with_reducible assumption
    | intro _
    | with_reducible apply State.out_keeps
    | with_reducible apply State.updPort_keeps
    | with_reducible apply Keeps.ite
    | (lift_lets; intro _)
    | split
    | dsimp only
    | fail_if_no_progress with_reducible apply Keeps.upd
    | dsimp +zetaDelta only

theorem execEthTxtsPop_keeps {r0 sT : State} (m : Nat) (mac : Nat) (s : State) (kp : Keeps r0 s)
    (e : execEthTxtsPop m mac s = .next sT) : Keeps r0 sT := by
  unfold execEthTxtsPop at e
  rw [← Host.Outcome.next.inj e]
  repeat' first
    | with_reducible assumption
    | intro _
    | with_reducible apply State.accessR_keeps
    | with_reducible apply State.txtsPop_keeps
    | with_reducible apply State.accFault_keeps
    | with_reducible apply State.out_keeps
    | with_reducible apply Keeps.ite
    | (lift_lets; intro _)
    | split
    | dsimp only
    | fail_if_no_progress with_reducible apply Keeps.upd
    | dsimp +zetaDelta only

end Sys2Proof.Machine
end

