-- ==== Sys2Proof/Laws/KeepsLinks.lean ====
section
/-! SUPPORT. The operations of Machine/Links.lean keep the queue of commands and the form of the memory. -/

namespace Sys2Proof.Machine
open Sys2Proof

theorem State.linkGo_keeps {r0 : State} (s : State) (md : Nat) (kp : Keeps r0 s) :
    Keeps r0 (State.linkGo s md) := by
  unfold State.linkGo
  repeat' first
    | with_reducible assumption
    | intro _
    | with_reducible apply State.hostResume_keeps
    | with_reducible apply State.pump_keeps
    | with_reducible apply State.pbaSend_keeps
    | with_reducible apply State.batchSend_keeps
    | with_reducible apply State.dueSend_keeps
    | with_reducible apply Keeps.ite
    | (lift_lets; intro _)
    | split
    | dsimp only
    | fail_if_no_progress with_reducible apply Keeps.upd
    | dsimp +zetaDelta only

theorem State.linkPulse_keeps {r0 : State} (s : State) (md : Nat) (kp : Keeps r0 s) :
    Keeps r0 (State.linkPulse s md) := by
  unfold State.linkPulse
  repeat' first
    | with_reducible assumption
    | intro _
    | with_reducible apply State.pulse_keeps
    | with_reducible apply Keeps.ite
    | (lift_lets; intro _)
    | split
    | dsimp only
    | fail_if_no_progress with_reducible apply Keeps.upd
    | dsimp +zetaDelta only

theorem State.pbaDue_keeps {r0 : State} (s : State) (md : Nat) (kp : Keeps r0 s) :
    Keeps r0 (State.pbaDue s md) := by
  unfold State.pbaDue
  repeat' first
    | with_reducible assumption
    | intro _
    | with_reducible apply State.each_keeps
    | with_reducible apply State.setSrc_keeps
    | with_reducible apply Keeps.ite
    | (lift_lets; intro _)
    | split
    | dsimp only
    | fail_if_no_progress with_reducible apply Keeps.upd
    | dsimp +zetaDelta only

theorem State.wakeEval_keeps {r0 : State} (s : State) (kp : Keeps r0 s) :
    Keeps r0 (State.wakeEval s) := by
  unfold State.wakeEval
  repeat' first
    | with_reducible assumption
    | intro _
    | with_reducible apply Keeps.ite
    | (lift_lets; intro _)
    | split
    | dsimp only
    | fail_if_no_progress with_reducible apply Keeps.upd
    | dsimp +zetaDelta only

theorem State.convReset_keeps {r0 : State} (s : State) (md : Nat) (kp : Keeps r0 s) :
    Keeps r0 (State.convReset s md) := by
  unfold State.convReset
  repeat' first
    | with_reducible assumption
    | intro _
    | with_reducible apply State.wakeEval_keeps
    | with_reducible apply State.updLink_keeps
    | with_reducible apply State.dropBatches_keeps
    | with_reducible apply State.pbaDue_keeps
    | with_reducible apply Keeps.ite
    | (lift_lets; intro _)
    | split
    | dsimp only
    | fail_if_no_progress with_reducible apply Keeps.upd
    | dsimp +zetaDelta only

theorem execConventionalReset_keeps {r0 sT : State} (md : Nat) (s : State) (kp : Keeps r0 s)
    (e : execConventionalReset md s = .next sT) : Keeps r0 sT := by
  unfold execConventionalReset at e
  rw [← Host.Outcome.next.inj e]
  repeat' first
    | with_reducible assumption
    | intro _
    | with_reducible apply State.convReset_keeps
    | with_reducible apply Keeps.ite
    | (lift_lets; intro _)
    | split
    | dsimp only
    | fail_if_no_progress with_reducible apply Keeps.upd
    | dsimp +zetaDelta only

theorem State.wakeCheck_keeps {r0 : State} (s : State) (md : Nat) (kp : Keeps r0 s) :
    Keeps r0 (State.wakeCheck s md) := by
  unfold State.wakeCheck
  repeat' first
    | with_reducible assumption
    | intro _
    | with_reducible apply State.wantLink_keeps
    | with_reducible apply Keeps.ite
    | (lift_lets; intro _)
    | split
    | dsimp only
    | fail_if_no_progress with_reducible apply Keeps.upd
    | dsimp +zetaDelta only

theorem State.setD3_keeps {r0 : State} (s : State) (md : Nat) (d3 : Bool) (kp : Keeps r0 s) :
    Keeps r0 (State.setD3 s md d3) := by
  unfold State.setD3
  repeat' first
    | with_reducible assumption
    | intro _
    | with_reducible apply State.updCfg_keeps
    | with_reducible apply State.wakeCheck_keeps
    | with_reducible apply State.linkGo_keeps
    | with_reducible apply Keeps.ite
    | (lift_lets; intro _)
    | split
    | dsimp only
    | fail_if_no_progress with_reducible apply Keeps.upd
    | dsimp +zetaDelta only

theorem execPowerStateChange_keeps {r0 sT : State} (md : Nat) (d3 : Bool) (s : State) (kp : Keeps r0 s)
    (e : execPowerStateChange md d3 s = .next sT) : Keeps r0 sT := by
  unfold execPowerStateChange at e
  rw [← Host.Outcome.next.inj e]
  repeat' first
    | with_reducible assumption
    | intro _
    | with_reducible apply State.setD3_keeps
    | with_reducible apply Keeps.ite
    | (lift_lets; intro _)
    | split
    | dsimp only
    | fail_if_no_progress with_reducible apply Keeps.upd
    | dsimp +zetaDelta only

theorem State.setMsix_keeps {r0 : State} (s : State) (md : Nat) (en : Bool) (mask : Bool) (kp : Keeps r0 s) :
    Keeps r0 (State.setMsix s md en mask) := by
  unfold State.setMsix
  repeat' first
    | with_reducible assumption
    | intro _
    | with_reducible apply State.updCfg_keeps
    | with_reducible apply State.pbaSend_keeps
    | with_reducible apply State.dueSend_keeps
    | with_reducible apply State.dropBatches_keeps
    | with_reducible apply Keeps.ite
    | (lift_lets; intro _)
    | split
    | dsimp only
    | fail_if_no_progress with_reducible apply Keeps.upd
    | dsimp +zetaDelta only

theorem execMsixEnable_keeps {r0 sT : State} (md : Nat) (funcMask : Bool) (s : State) (kp : Keeps r0 s)
    (e : execMsixEnable md funcMask s = .next sT) : Keeps r0 sT := by
  unfold execMsixEnable at e
  rw [← Host.Outcome.next.inj e]
  repeat' first
    | with_reducible assumption
    | intro _
    | with_reducible apply State.setMsix_keeps
    | with_reducible apply Keeps.ite
    | (lift_lets; intro _)
    | split
    | dsimp only
    | fail_if_no_progress with_reducible apply Keeps.upd
    | dsimp +zetaDelta only

theorem State.setMask_keeps {r0 : State} (s : State) (md : Nat) (v : Nat) (mask : Bool) (kp : Keeps r0 s) :
    Keeps r0 (State.setMask s md v mask) := by
  unfold State.setMask
  repeat' first
    | with_reducible assumption
    | intro _
    | with_reducible apply State.updCfg_keeps
    | with_reducible apply State.pbaSend_keeps
    | with_reducible apply Keeps.ite
    | (lift_lets; intro _)
    | split
    | dsimp only
    | fail_if_no_progress with_reducible apply Keeps.upd
    | dsimp +zetaDelta only

theorem execVectorUnmask_keeps {r0 sT : State} (md : Nat) (vec : Option Nat) (s : State) (kp : Keeps r0 s)
    (e : execVectorUnmask md vec s = .next sT) : Keeps r0 sT := by
  unfold execVectorUnmask at e
  rw [← Host.Outcome.next.inj e]
  repeat' first
    | with_reducible assumption
    | intro _
    | with_reducible apply State.access_keeps
    | with_reducible apply State.setMask_keeps
    | with_reducible apply State.setMsix_keeps
    | with_reducible apply Keeps.ite
    | (lift_lets; intro _)
    | split
    | dsimp only
    | fail_if_no_progress with_reducible apply Keeps.upd
    | dsimp +zetaDelta only

theorem execVectorMask_keeps {r0 sT : State} (md : Nat) (vec : Option Nat) (s : State) (kp : Keeps r0 s)
    (e : execVectorMask md vec s = .next sT) : Keeps r0 sT := by
  unfold execVectorMask at e
  rw [← Host.Outcome.next.inj e]
  repeat' first
    | with_reducible assumption
    | intro _
    | with_reducible apply State.access_keeps
    | with_reducible apply State.setMask_keeps
    | with_reducible apply State.setMsix_keeps
    | with_reducible apply Keeps.ite
    | (lift_lets; intro _)
    | split
    | dsimp only
    | fail_if_no_progress with_reducible apply Keeps.upd
    | dsimp +zetaDelta only

theorem State.ctlRead_keeps {r0 : State} (s : State) (md : Nat) (vec : Nat) (kp : Keeps r0 s) :
    Keeps r0 (State.ctlRead s md vec) := by
  unfold State.ctlRead
  repeat' first
    | with_reducible assumption
    | intro _
    | with_reducible apply State.out_keeps
    | with_reducible apply State.setLink_keeps
    | with_reducible apply Keeps.ite
    | (lift_lets; intro _)
    | split
    | dsimp only
    | fail_if_no_progress with_reducible apply Keeps.upd
    | dsimp +zetaDelta only

theorem execVectorControlRead_keeps {r0 sT : State} (md : Nat) (vec : Nat) (s : State) (kp : Keeps r0 s)
    (e : execVectorControlRead md vec s = .next sT) : Keeps r0 sT := by
  unfold execVectorControlRead at e
  rw [← Host.Outcome.next.inj e]
  repeat' first
    | with_reducible assumption
    | intro _
    | with_reducible apply State.accessR_keeps
    | with_reducible apply State.ctlRead_keeps
    | with_reducible apply Keeps.ite
    | (lift_lets; intro _)
    | split
    | dsimp only
    | fail_if_no_progress with_reducible apply Keeps.upd
    | dsimp +zetaDelta only

theorem execL1EntryRequest_keeps {r0 sT : State} (md : Nat) (l2 : Bool) (s : State) (kp : Keeps r0 s)
    (e : execL1EntryRequest md l2 s = .next sT) : Keeps r0 sT := by
  unfold execL1EntryRequest at e
  rw [← Host.Outcome.next.inj e]
  repeat' first
    | with_reducible assumption
    | intro _
    | with_reducible apply State.setLink_keeps
    | with_reducible apply Keeps.ite
    | (lift_lets; intro _)
    | split
    | dsimp only
    | fail_if_no_progress with_reducible apply Keeps.upd
    | dsimp +zetaDelta only

theorem execLinkIdleExpiry_keeps {r0 sT : State} (md : Nat) (s : State) (kp : Keeps r0 s)
    (e : execLinkIdleExpiry md s = .next sT) : Keeps r0 sT := by
  unfold execLinkIdleExpiry at e
  rw [← Host.Outcome.next.inj e]
  repeat' first
    | with_reducible assumption
    | intro _
    | with_reducible apply State.setLink_keeps
    | with_reducible apply Keeps.ite
    | (lift_lets; intro _)
    | split
    | dsimp only
    | fail_if_no_progress with_reducible apply Keeps.upd
    | dsimp +zetaDelta only

theorem execLinkExitComplete_keeps {r0 sT : State} (md : Nat) (s : State) (kp : Keeps r0 s)
    (e : execLinkExitComplete md s = .next sT) : Keeps r0 sT := by
  unfold execLinkExitComplete at e
  rw [← Host.Outcome.next.inj e]
  repeat' first
    | with_reducible assumption
    | intro _
    | with_reducible apply State.pump_keeps
    | with_reducible apply State.updLink_keeps
    | with_reducible apply State.setLink_keeps
    | with_reducible apply Keeps.ite
    | (lift_lets; intro _)
    | split
    | dsimp only
    | fail_if_no_progress with_reducible apply Keeps.upd
    | dsimp +zetaDelta only

theorem execEarlyLinkExit_keeps {r0 sT : State} (md : Nat) (s : State) (kp : Keeps r0 s)
    (e : execEarlyLinkExit md s = .next sT) : Keeps r0 sT := by
  unfold execEarlyLinkExit at e
  rw [← Host.Outcome.next.inj e]
  repeat' first
    | with_reducible assumption
    | intro _
    | with_reducible apply State.setLink_keeps
    | with_reducible apply Keeps.ite
    | (lift_lets; intro _)
    | split
    | dsimp only
    | fail_if_no_progress with_reducible apply Keeps.upd
    | dsimp +zetaDelta only

theorem execPmeStatusClear_keeps {r0 sT : State} (md : Nat) (s : State) (kp : Keeps r0 s)
    (e : execPmeStatusClear md s = .next sT) : Keeps r0 sT := by
  unfold execPmeStatusClear at e
  rw [← Host.Outcome.next.inj e]
  repeat' first
    | with_reducible assumption
    | intro _
    | with_reducible apply State.wakeEval_keeps
    | with_reducible apply State.updCfg_keeps
    | with_reducible apply Keeps.ite
    | (lift_lets; intro _)
    | split
    | dsimp only
    | fail_if_no_progress with_reducible apply Keeps.upd
    | dsimp +zetaDelta only

theorem execD2dCrcError_keeps {r0 sT : State} (md : Nat) (s : State) (kp : Keeps r0 s)
    (e : execD2dCrcError md s = .next sT) : Keeps r0 sT := by
  unfold execD2dCrcError at e
  rw [← Host.Outcome.next.inj e]
  repeat' first
    | with_reducible assumption
    | intro _
    | with_reducible apply State.linkPulse_keeps
    | with_reducible apply State.aerCor_keeps
    | with_reducible apply State.updLink_keeps
    | with_reducible apply Keeps.ite
    | (lift_lets; intro _)
    | split
    | dsimp only
    | fail_if_no_progress with_reducible apply Keeps.upd
    | dsimp +zetaDelta only

theorem execUnexpectedCompletion_keeps {r0 sT : State} (md : Nat) (s : State) (kp : Keeps r0 s)
    (e : execUnexpectedCompletion md s = .next sT) : Keeps r0 sT := by
  unfold execUnexpectedCompletion at e
  rw [← Host.Outcome.next.inj e]
  repeat' first
    | with_reducible assumption
    | intro _
    | with_reducible apply State.aerUnc_keeps
    | with_reducible apply State.takeHeader_keeps
    | with_reducible apply Keeps.ite
    | (lift_lets; intro _)
    | split
    | dsimp only
    | fail_if_no_progress with_reducible apply Keeps.upd
    | dsimp +zetaDelta only

theorem State.badRequest_keeps {r0 : State} (s : State) (md : Nat) (what : BadRequest) (hdr : BitVec 128) (kp : Keeps r0 s) :
    Keeps r0 (State.badRequest s md what hdr) := by
  unfold State.badRequest
  repeat' first
    | with_reducible assumption
    | intro _
    | with_reducible apply State.aerUnc_keeps
    | with_reducible apply Keeps.ite
    | (lift_lets; intro _)
    | split
    | dsimp only
    | fail_if_no_progress with_reducible apply Keeps.upd
    | dsimp +zetaDelta only

theorem execMalformedRequest_keeps {r0 sT : State} (r : HostRequest) (s : State) (kp : Keeps r0 s)
    (e : execMalformedRequest r s = .next sT) : Keeps r0 sT := by
  unfold execMalformedRequest at e
  rw [← Host.Outcome.next.inj e]
  repeat' first
    | with_reducible assumption
    | intro _
    | with_reducible apply State.badRequest_keeps
    | with_reducible apply Keeps.ite
    | (lift_lets; intro _)
    | split
    | dsimp only
    | fail_if_no_progress with_reducible apply Keeps.upd
    | dsimp +zetaDelta only

theorem State.freeHeldCells_keeps {r0 : State} (s : State) (l : List Egress) (kp : Keeps r0 s) :
    Keeps r0 (State.freeHeldCells s l) := by
  unfold State.freeHeldCells
  repeat' first
    | with_reducible assumption
    | intro _
    | with_reducible apply State.each_keeps
    | with_reducible apply State.freeOne_keeps
    | with_reducible apply Keeps.ite
    | (lift_lets; intro _)
    | split
    | dsimp only
    | fail_if_no_progress with_reducible apply Keeps.upd
    | dsimp +zetaDelta only

theorem State.enterHeld_keeps {r0 : State} (s : State) (md : Nat) (e : Egress) (kp : Keeps r0 s) :
    Keeps r0 (State.enterHeld s md e) := by
  unfold State.enterHeld
  repeat' first
    | with_reducible assumption
    | intro _
    | with_reducible apply State.sendMsix_keeps
    | with_reducible apply State.each_keeps
    | with_reducible apply State.updSrc_keeps
    | with_reducible apply State.passGate_keeps
    | with_reducible apply Keeps.ite
    | (lift_lets; intro _)
    | split
    | dsimp only
    | fail_if_no_progress with_reducible apply Keeps.upd
    | dsimp +zetaDelta only

theorem State.releaseLink_keeps {r0 : State} (s : State) (md : Nat) (kp : Keeps r0 s) :
    Keeps r0 (State.releaseLink s md) := by
  unfold State.releaseLink
  repeat' first
    | with_reducible assumption
    | intro _
    | with_reducible apply State.updLink_keeps
    | with_reducible apply State.aqKick_keeps
    | with_reducible apply State.hostResume_keeps
    | with_reducible apply State.pump_keeps
    | with_reducible apply State.settled_keeps
    | with_reducible apply State.each_keeps
    | with_reducible apply State.freeHeldCells_keeps
    | with_reducible apply State.enterHeld_keeps
    | with_reducible apply Keeps.ite
    | (lift_lets; intro _)
    | split
    | dsimp only
    | fail_if_no_progress with_reducible apply Keeps.upd
    | dsimp +zetaDelta only

theorem State.dropFinal_keeps {r0 : State} (s : State) (ch : Nat) (ccw : Word64) (kp : Keeps r0 s) :
    Keeps r0 (State.dropFinal s ch ccw) := by
  unfold State.dropFinal
  repeat' first
    | with_reducible assumption
    | intro _
    | with_reducible apply State.runWaiting_keeps
    | with_reducible apply State.goChan_keeps
    | with_reducible apply Keeps.ite
    | (lift_lets; intro _)
    | split
    | dsimp only
    | fail_if_no_progress with_reducible apply Keeps.upd
    | dsimp +zetaDelta only

theorem State.dropWrite_keeps {r0 : State} (s : State) (e : Egress) (kp : Keeps r0 s) :
    Keeps r0 (State.dropWrite s e) := by
  unfold State.dropWrite
  repeat' first
    | with_reducible assumption
    | intro _
    | with_reducible apply State.dropFinal_keeps
    | with_reducible apply State.updQ_keeps
    | with_reducible apply Keeps.ite
    | (lift_lets; intro _)
    | split
    | dsimp only
    | fail_if_no_progress with_reducible apply Keeps.upd
    | dsimp +zetaDelta only

theorem State.lossStop_keeps {r0 : State} (s : State) (q : Nat) (kp : Keeps r0 s) :
    Keeps r0 (State.lossStop s q) := by
  unfold State.lossStop
  repeat' first
    | with_reducible assumption
    | intro _
    | with_reducible apply State.advance_keeps
    | with_reducible apply State.updQ_keeps
    | with_reducible apply Keeps.ite
    | (lift_lets; intro _)
    | split
    | dsimp only
    | fail_if_no_progress with_reducible apply Keeps.upd
    | dsimp +zetaDelta only

theorem State.discardLink_keeps {r0 : State} (s : State) (md : Nat) (kp : Keeps r0 s) :
    Keeps r0 (State.discardLink s md) := by
  unfold State.discardLink
  repeat' first
    | with_reducible assumption
    | intro _
    | with_reducible apply State.setLink_keeps
    | with_reducible apply State.each_keeps
    | with_reducible apply State.freeHeldCells_keeps
    | with_reducible apply State.dropWrite_keeps
    | with_reducible apply State.aqKick_keeps
    | with_reducible apply State.hostResume_keeps
    | with_reducible apply State.pump_keeps
    | with_reducible apply State.lossStop_keeps
    | with_reducible apply Keeps.ite
    | (lift_lets; intro _)
    | split
    | dsimp only
    | fail_if_no_progress with_reducible apply Keeps.upd
    | dsimp +zetaDelta only

theorem State.nlnkCtl_keeps {r0 : State} (s : State) (md : Nat) (v : Word32) (kp : Keeps r0 s) :
    Keeps r0 (State.nlnkCtl s md v) := by
  unfold State.nlnkCtl
  repeat' first
    | with_reducible assumption
    | intro _
    | with_reducible apply State.releaseLink_keeps
    | with_reducible apply State.discardLink_keeps
    | with_reducible apply Keeps.ite
    | (lift_lets; intro _)
    | split
    | dsimp only
    | fail_if_no_progress with_reducible apply Keeps.upd
    | dsimp +zetaDelta only

theorem execNlnkRelease_keeps {r0 sT : State} (md : Nat) (v : Word32) (s : State) (kp : Keeps r0 s)
    (e : execNlnkRelease md v s = .next sT) : Keeps r0 sT := by
  unfold execNlnkRelease at e
  rw [← Host.Outcome.next.inj e]
  repeat' first
    | with_reducible assumption
    | intro _
    | with_reducible apply State.nlnkCtl_keeps
    | with_reducible apply Keeps.ite
    | (lift_lets; intro _)
    | split
    | dsimp only
    | fail_if_no_progress with_reducible apply Keeps.upd
    | dsimp +zetaDelta only

theorem execNlnkDiscard_keeps {r0 sT : State} (md : Nat) (v : Word32) (s : State) (kp : Keeps r0 s)
    (e : execNlnkDiscard md v s = .next sT) : Keeps r0 sT := by
  unfold execNlnkDiscard at e
  rw [← Host.Outcome.next.inj e]
  repeat' first
    | with_reducible assumption
    | intro _
    | with_reducible apply State.nlnkCtl_keeps
    | with_reducible apply Keeps.ite
    | (lift_lets; intro _)
    | split
    | dsimp only
    | fail_if_no_progress with_reducible apply Keeps.upd
    | dsimp +zetaDelta only

theorem execLinkLeaveActive_keeps {r0 sT : State} (md : Nat) (s : State) (kp : Keeps r0 s)
    (e : execLinkLeaveActive md s = .next sT) : Keeps r0 sT := by
  unfold execLinkLeaveActive at e
  rw [← Host.Outcome.next.inj e]
  repeat' first
    | with_reducible assumption
    | intro _
    | with_reducible apply State.updLink_keeps
    | with_reducible apply Keeps.ite
    | (lift_lets; intro _)
    | split
    | dsimp only
    | fail_if_no_progress with_reducible apply Keeps.upd
    | dsimp +zetaDelta only

theorem State.moveBatches_keeps {r0 : State} (s : State) (md : Nat) (o : Nat) (kp : Keeps r0 s) :
    Keeps r0 (State.moveBatches s md o) := by
  unfold State.moveBatches
  repeat' first
    | with_reducible assumption
    | intro _
    | with_reducible apply State.each_keeps
    | with_reducible apply Keeps.ite
    | (lift_lets; intro _)
    | split
    | dsimp only
    | fail_if_no_progress with_reducible apply Keeps.upd
    | dsimp +zetaDelta only

theorem State.failover_keeps {r0 : State} (s : State) (md : Nat) (kp : Keeps r0 s) :
    Keeps r0 (State.failover s md) := by
  unfold State.failover
  repeat' first
    | with_reducible assumption
    | intro _
    | with_reducible apply State.setLink_keeps
    | with_reducible apply State.updLink_keeps
    | with_reducible apply State.pump_keeps
    | with_reducible apply State.wantLink_keeps
    | with_reducible apply State.moveBatches_keeps
    | with_reducible apply Keeps.ite
    | (lift_lets; intro _)
    | split
    | dsimp only
    | fail_if_no_progress with_reducible apply Keeps.upd
    | dsimp +zetaDelta only

theorem State.graceAct_keeps {r0 : State} (s : State) (md : Nat) (kp : Keeps r0 s) :
    Keeps r0 (State.graceAct s md) := by
  unfold State.graceAct
  repeat' first
    | with_reducible assumption
    | intro _
    | with_reducible apply State.haltDie_keeps
    | with_reducible apply State.heldPulse_keeps
    | with_reducible apply State.updLink_keeps
    | with_reducible apply Keeps.ite
    | (lift_lets; intro _)
    | split
    | dsimp only
    | fail_if_no_progress with_reducible apply Keeps.upd
    | dsimp +zetaDelta only

theorem State.loseModule_keeps {r0 : State} (s : State) (md : Nat) (kp : Keeps r0 s) :
    Keeps r0 (State.loseModule s md) := by
  unfold State.loseModule
  repeat' first
    | with_reducible assumption
    | intro _
    | with_reducible apply State.linkPulse_keeps
    | with_reducible apply State.setLink_keeps
    | with_reducible apply State.failover_keeps
    | with_reducible apply State.updLink_keeps
    | with_reducible apply State.graceAct_keeps
    | with_reducible apply Keeps.ite
    | (lift_lets; intro _)
    | split
    | dsimp only
    | fail_if_no_progress with_reducible apply Keeps.upd
    | dsimp +zetaDelta only

theorem execModuleLoss_keeps {r0 sT : State} (md : Nat) (s : State) (kp : Keeps r0 s)
    (e : execModuleLoss md s = .next sT) : Keeps r0 sT := by
  unfold execModuleLoss at e
  rw [← Host.Outcome.next.inj e]
  repeat' first
    | with_reducible assumption
    | intro _
    | with_reducible apply State.loseModule_keeps
    | with_reducible apply Keeps.ite
    | (lift_lets; intro _)
    | split
    | dsimp only
    | fail_if_no_progress with_reducible apply Keeps.upd
    | dsimp +zetaDelta only

theorem execLinkGraceExpiry_keeps {r0 sT : State} (md : Nat) (s : State) (kp : Keeps r0 s)
    (e : execLinkGraceExpiry md s = .next sT) : Keeps r0 sT := by
  unfold execLinkGraceExpiry at e
  rw [← Host.Outcome.next.inj e]
  repeat' first
    | with_reducible assumption
    | intro _
    | with_reducible apply State.graceAct_keeps
    | with_reducible apply Keeps.ite
    | (lift_lets; intro _)
    | split
    | dsimp only
    | fail_if_no_progress with_reducible apply Keeps.upd
    | dsimp +zetaDelta only

theorem State.retrained_keeps {r0 : State} (s : State) (md : Nat) (rate : BitVec 2) (x8 : Bool) (kp : Keeps r0 s) :
    Keeps r0 (State.retrained s md rate x8) := by
  unfold State.retrained
  repeat' first
    | with_reducible assumption
    | intro _
    | with_reducible apply State.setLink_keeps
    | with_reducible apply State.linkPulse_keeps
    | with_reducible apply State.journalRec_keeps
    | with_reducible apply State.convReset_keeps
    | with_reducible apply State.releaseLink_keeps
    | with_reducible apply State.pump_keeps
    | with_reducible apply Keeps.ite
    | (lift_lets; intro _)
    | split
    | dsimp only
    | fail_if_no_progress with_reducible apply Keeps.upd
    | dsimp +zetaDelta only

theorem execLinkRetrainComplete_keeps {r0 sT : State} (md : Nat) (rate : BitVec 2) (x8 : Bool) (s : State) (kp : Keeps r0 s)
    (e : execLinkRetrainComplete md rate x8 s = .next sT) : Keeps r0 sT := by
  unfold execLinkRetrainComplete at e
  rw [← Host.Outcome.next.inj e]
  repeat' first
    | with_reducible assumption
    | intro _
    | with_reducible apply State.retrained_keeps
    | with_reducible apply Keeps.ite
    | (lift_lets; intro _)
    | split
    | dsimp only
    | fail_if_no_progress with_reducible apply Keeps.upd
    | dsimp +zetaDelta only

end Sys2Proof.Machine
end

