-- ==== Sys2Proof/Laws/KeepsInterrupts.lean ====
section
/-! SUPPORT. The operations of Machine/Interrupts.lean keep the queue of commands and the form of the memory. -/

namespace Sys2Proof.Machine
open Sys2Proof

theorem execLineEvent_keeps {r0 sT : State} (src : Nat) (level : Bool) (s : State) (kp : Keeps r0 s)
    (e : execLineEvent src level s = .next sT) : Keeps r0 sT := by
  unfold execLineEvent at e
  rw [← Host.Outcome.next.inj e]
  repeat' first
    | with_reducible assumption
    | intro _
    | with_reducible apply State.setLine_keeps
    | with_reducible apply State.pulse_keeps
    | with_reducible apply Keeps.ite
    | (lift_lets; intro _)
    | split
    | dsimp only
    | fail_if_no_progress with_reducible apply Keeps.upd
    | dsimp +zetaDelta only

theorem State.reconfigured_keeps {r0 : State} (s : State) (n : Nat) (old : Src) (kp : Keeps r0 s) :
    Keeps r0 (State.reconfigured s n old) := by
  unfold State.reconfigured
  repeat' first
    | with_reducible assumption
    | intro _
    | with_reducible apply State.levelEval_keeps
    | with_reducible apply State.present_keeps
    | with_reducible apply State.route_keeps
    | with_reducible apply Keeps.ite
    | (lift_lets; intro _)
    | split
    | dsimp only
    | fail_if_no_progress with_reducible apply Keeps.upd
    | dsimp +zetaDelta only

theorem State.noEdgeService_keeps {r0 : State} (s : State) (n : Nat) (kp : Keeps r0 s) :
    Keeps r0 (State.noEdgeService s n) := by
  unfold State.noEdgeService
  repeat' first
    | with_reducible assumption
    | intro _
    | with_reducible apply State.updSrc_keeps
    | with_reducible apply Keeps.ite
    | (lift_lets; intro _)
    | split
    | dsimp only
    | fail_if_no_progress with_reducible apply Keeps.upd
    | dsimp +zetaDelta only

theorem State.icScfg_keeps {r0 : State} (s : State) (m : Nat) (n : Nat) (v : Word32) (kp : Keeps r0 s) :
    Keeps r0 (State.icScfg s m n v) := by
  unfold State.icScfg
  repeat' first
    | with_reducible assumption
    | intro _
    | with_reducible apply State.accFault_keeps
    | with_reducible apply State.cfgMirror_keeps
    | with_reducible apply State.reconfigured_keeps
    | with_reducible apply State.noEdgeService_keeps
    | with_reducible apply State.setSrc_keeps
    | with_reducible apply State.retarget_keeps
    | with_reducible apply Keeps.ite
    | (lift_lets; intro _)
    | split
    | dsimp only
    | fail_if_no_progress with_reducible apply Keeps.upd
    | dsimp +zetaDelta only

theorem execIcScfgWrite_keeps {r0 sT : State} (m : Nat) (src : Nat) (v : Word32) (s : State) (kp : Keeps r0 s)
    (e : execIcScfgWrite m src v s = .next sT) : Keeps r0 sT := by
  unfold execIcScfgWrite at e
  rw [← Host.Outcome.next.inj e]
  repeat' first
    | with_reducible assumption
    | intro _
    | with_reducible apply State.access_keeps
    | with_reducible apply State.icScfg_keeps
    | with_reducible apply Keeps.ite
    | (lift_lets; intro _)
    | split
    | dsimp only
    | fail_if_no_progress with_reducible apply Keeps.upd
    | dsimp +zetaDelta only

theorem State.icStrw_keeps {r0 : State} (s : State) (m : Nat) (n : Nat) (v : Word64) (kp : Keeps r0 s) :
    Keeps r0 (State.icStrw s m n v) := by
  unfold State.icStrw
  repeat' first
    | with_reducible assumption
    | intro _
    | with_reducible apply State.accFault_keeps
    | with_reducible apply State.cfgMirror_keeps
    | with_reducible apply State.reconfigured_keeps
    | with_reducible apply State.setSrc_keeps
    | with_reducible apply Keeps.ite
    | (lift_lets; intro _)
    | split
    | dsimp only
    | fail_if_no_progress with_reducible apply Keeps.upd
    | dsimp +zetaDelta only

theorem State.takeResult_keeps {r0 : State} (s : State) (m : Nat) (t : Nat) (r : BitVec 11) (kp : Keeps r0 s) :
    Keeps r0 (State.takeResult s m t r) := by
  unfold State.takeResult
  repeat' first
    | with_reducible assumption
    | intro _
    | with_reducible apply State.updTarget_keeps
    | with_reducible apply Keeps.ite
    | (lift_lets; intro _)
    | split
    | dsimp only
    | fail_if_no_progress with_reducible apply Keeps.upd
    | dsimp +zetaDelta only

theorem State.withdrawn_keeps {r0 : State} (s : State) (t : Nat) (kp : Keeps r0 s) :
    Keeps r0 (State.withdrawn s t) := by
  unfold State.withdrawn
  repeat' first
    | with_reducible assumption
    | intro _
    | with_reducible apply State.updTarget_keeps
    | with_reducible apply Keeps.ite
    | (lift_lets; intro _)
    | split
    | dsimp only
    | fail_if_no_progress with_reducible apply Keeps.upd
    | dsimp +zetaDelta only

theorem State.inService_keeps {r0 : State} (s : State) (n : Nat) (t : Nat) (kp : Keeps r0 s) :
    Keeps r0 (State.inService s n t) := by
  unfold State.inService
  repeat' first
    | with_reducible assumption
    | intro _
    | with_reducible apply State.updTarget_keeps
    | with_reducible apply State.reofferMember_keeps
    | with_reducible apply State.setSrc_keeps
    | with_reducible apply Keeps.ite
    | (lift_lets; intro _)
    | split
    | dsimp only
    | fail_if_no_progress with_reducible apply Keeps.upd
    | dsimp +zetaDelta only

theorem State.icTake_keeps {r0 : State} (s : State) (m : Nat) (t : Nat) (n : BitVec 11) (kp : Keeps r0 s) :
    Keeps r0 (State.icTake s m t n) := by
  unfold State.icTake
  repeat' first
    | with_reducible assumption
    | intro _
    | with_reducible apply State.accFault_keeps
    | with_reducible apply State.takeResult_keeps
    | with_reducible apply State.inService_keeps
    | with_reducible apply State.updSrc_keeps
    | with_reducible apply State.takeSrc_keeps
    | with_reducible apply State.withdrawn_keeps
    | with_reducible apply Keeps.ite
    | (lift_lets; intro _)
    | split
    | dsimp only
    | fail_if_no_progress with_reducible apply Keeps.upd
    | dsimp +zetaDelta only

theorem execIcTake_keeps {r0 sT : State} (m : Nat) (t : Nat) (n : BitVec 11) (s : State) (kp : Keeps r0 s)
    (e : execIcTake m t n s = .next sT) : Keeps r0 sT := by
  unfold execIcTake at e
  rw [← Host.Outcome.next.inj e]
  repeat' first
    | with_reducible assumption
    | intro _
    | with_reducible apply State.access_keeps
    | with_reducible apply State.icTake_keeps
    | with_reducible apply Keeps.ite
    | (lift_lets; intro _)
    | split
    | dsimp only
    | fail_if_no_progress with_reducible apply Keeps.upd
    | dsimp +zetaDelta only

theorem State.icTakeRd_keeps {r0 : State} (s : State) (m : Nat) (t : Nat) (kp : Keeps r0 s) :
    Keeps r0 (State.icTakeRd s m t) := by
  unfold State.icTakeRd
  repeat' first
    | with_reducible assumption
    | intro _
    | with_reducible apply State.out_keeps
    | with_reducible apply State.accFault_keeps
    | with_reducible apply Keeps.ite
    | (lift_lets; intro _)
    | split
    | dsimp only
    | fail_if_no_progress with_reducible apply Keeps.upd
    | dsimp +zetaDelta only

theorem execIcTakeRead_keeps {r0 sT : State} (m : Nat) (t : Nat) (s : State) (kp : Keeps r0 s)
    (e : execIcTakeRead m t s = .next sT) : Keeps r0 sT := by
  unfold execIcTakeRead at e
  rw [← Host.Outcome.next.inj e]
  repeat' first
    | with_reducible assumption
    | intro _
    | with_reducible apply State.accessR_keeps
    | with_reducible apply State.icTakeRd_keeps
    | with_reducible apply Keeps.ite
    | (lift_lets; intro _)
    | split
    | dsimp only
    | fail_if_no_progress with_reducible apply Keeps.upd
    | dsimp +zetaDelta only

theorem State.icDone_keeps {r0 : State} (s : State) (m : Nat) (t : Nat) (n : BitVec 11) (kp : Keeps r0 s) :
    Keeps r0 (State.icDone s m t n) := by
  unfold State.icDone
  repeat' first
    | with_reducible assumption
    | intro _
    | with_reducible apply State.accFault_keeps
    | with_reducible apply State.routeAll_keeps
    | with_reducible apply State.endService_keeps
    | with_reducible apply State.updTarget_keeps
    | with_reducible apply Keeps.ite
    | (lift_lets; intro _)
    | split
    | dsimp only
    | fail_if_no_progress with_reducible apply Keeps.upd
    | dsimp +zetaDelta only

theorem execIcDone_keeps {r0 sT : State} (m : Nat) (t : Nat) (n : BitVec 11) (s : State) (kp : Keeps r0 s)
    (e : execIcDone m t n s = .next sT) : Keeps r0 sT := by
  unfold execIcDone at e
  rw [← Host.Outcome.next.inj e]
  repeat' first
    | with_reducible assumption
    | intro _
    | with_reducible apply State.access_keeps
    | with_reducible apply State.icDone_keeps
    | with_reducible apply Keeps.ite
    | (lift_lets; intro _)
    | split
    | dsimp only
    | fail_if_no_progress with_reducible apply Keeps.upd
    | dsimp +zetaDelta only

theorem State.icSwset_keeps {r0 : State} (s : State) (m : Nat) (n : BitVec 11) (kp : Keeps r0 s) :
    Keeps r0 (State.icSwset s m n) := by
  unfold State.icSwset
  repeat' first
    | with_reducible assumption
    | intro _
    | with_reducible apply State.accFault_keeps
    | with_reducible apply State.pulse_keeps
    | with_reducible apply Keeps.ite
    | (lift_lets; intro _)
    | split
    | dsimp only
    | fail_if_no_progress with_reducible apply Keeps.upd
    | dsimp +zetaDelta only

theorem execIcSwset_keeps {r0 sT : State} (m : Nat) (n : BitVec 11) (s : State) (kp : Keeps r0 s)
    (e : execIcSwset m n s = .next sT) : Keeps r0 sT := by
  unfold execIcSwset at e
  rw [← Host.Outcome.next.inj e]
  repeat' first
    | with_reducible assumption
    | intro _
    | with_reducible apply State.access_keeps
    | with_reducible apply State.icSwset_keeps
    | with_reducible apply Keeps.ite
    | (lift_lets; intro _)
    | split
    | dsimp only
    | fail_if_no_progress with_reducible apply Keeps.upd
    | dsimp +zetaDelta only

theorem State.icFlush_keeps {r0 : State} (s : State) (m : Nat) (v : Word32) (kp : Keeps r0 s) :
    Keeps r0 (State.icFlush s m v) := by
  unfold State.icFlush
  repeat' first
    | with_reducible assumption
    | intro _
    | with_reducible apply State.accFault_keeps
    | with_reducible apply State.flushModule_keeps
    | with_reducible apply State.heldPulse_keeps
    | with_reducible apply Keeps.ite
    | (lift_lets; intro _)
    | split
    | dsimp only
    | fail_if_no_progress with_reducible apply Keeps.upd
    | dsimp +zetaDelta only

theorem execIcFlush_keeps {r0 sT : State} (m : Nat) (v : Word32) (s : State) (kp : Keeps r0 s)
    (e : execIcFlush m v s = .next sT) : Keeps r0 sT := by
  unfold execIcFlush at e
  rw [← Host.Outcome.next.inj e]
  repeat' first
    | with_reducible assumption
    | intro _
    | with_reducible apply State.access_keeps
    | with_reducible apply State.icFlush_keeps
    | with_reducible apply Keeps.ite
    | (lift_lets; intro _)
    | split
    | dsimp only
    | fail_if_no_progress with_reducible apply Keeps.upd
    | dsimp +zetaDelta only

theorem execModerationDeadline_keeps {r0 sT : State} (md : Nat) (vec : Nat) (s : State) (kp : Keeps r0 s)
    (e : execModerationDeadline md vec s = .next sT) : Keeps r0 sT := by
  unfold execModerationDeadline at e
  rw [← Host.Outcome.next.inj e]
  repeat' first
    | with_reducible assumption
    | intro _
    | with_reducible apply State.heldPulse_keeps
    | with_reducible apply State.closeBatch_keeps
    | with_reducible apply Keeps.ite
    | (lift_lets; intro _)
    | split
    | dsimp only
    | fail_if_no_progress with_reducible apply Keeps.upd
    | dsimp +zetaDelta only

end Sys2Proof.Machine
end

