-- ==== Sys2Proof/Laws/KeepsCoreOps.lean ====
section
/-! SUPPORT. The operations of Machine/CoreOps.lean keep the queue of commands and the form of the memory. -/

namespace Sys2Proof.Machine
open Sys2Proof

theorem State.leaveCtx_keeps {r0 : State} (s : State) (core : Nat) (k : Nat) (st : CtxSt) (kp : Keeps r0 s) :
    Keeps r0 (State.leaveCtx s core k st) := by
  unfold State.leaveCtx
  repeat' first
    | with_reducible assumption
    | intro _
    | with_reducible apply State.updCtx_keeps
    | with_reducible apply State.freeHeld_keeps
    | with_reducible apply Keeps.ite
    | (lift_lets; intro _)
    | split
    | dsimp only
    | fail_if_no_progress with_reducible apply Keeps.upd
    | dsimp +zetaDelta only

theorem State.runOver_keeps {r0 : State} (s : State) (ch : Nat) (kp : Keeps r0 s) :
    Keeps r0 (State.runOver s ch) := by
  unfold State.runOver
  repeat' first
    | with_reducible assumption
    | intro _
    | with_reducible apply State.updChan_keeps
    | with_reducible apply Keeps.ite
    | (lift_lets; intro _)
    | split
    | dsimp only
    | fail_if_no_progress with_reducible apply Keeps.upd
    | dsimp +zetaDelta only

theorem State.failRun_keeps {r0 : State} (s : State) (core : Nat) (k : Nat) (code : BitVec 16) (st : CtxSt) (kp : Keeps r0 s) :
    Keeps r0 (State.failRun s core k code st) := by
  unfold State.failRun
  repeat' first
    | with_reducible assumption
    | intro _
    | with_reducible apply State.leaveCtx_keeps
    | with_reducible apply State.endProgram_keeps
    | with_reducible apply State.runOver_keeps
    | with_reducible apply Keeps.ite
    | (lift_lets; intro _)
    | split
    | dsimp only
    | fail_if_no_progress with_reducible apply Keeps.upd
    | dsimp +zetaDelta only

theorem State.afterFree_keeps {r0 : State} (s : State) (core : Nat) (kp : Keeps r0 s) :
    Keeps r0 (State.afterFree s core) := by
  unfold State.afterFree
  repeat' first
    | with_reducible assumption
    | intro _
    | with_reducible apply State.arrange_keeps
    | with_reducible apply State.releaseFor_keeps
    | with_reducible apply State.served_keeps
    | with_reducible apply Keeps.ite
    | (lift_lets; intro _)
    | split
    | dsimp only
    | fail_if_no_progress with_reducible apply Keeps.upd
    | dsimp +zetaDelta only

theorem State.dropRun_keeps {r0 : State} (s : State) (ch : Nat) (kp : Keeps r0 s) :
    Keeps r0 (State.dropRun s ch) := by
  unfold State.dropRun
  repeat' first
    | with_reducible assumption
    | intro _
    | with_reducible apply State.arrange_keeps
    | with_reducible apply State.runOver_keeps
    | with_reducible apply State.leaveCtx_keeps
    | with_reducible apply Keeps.ite
    | (lift_lets; intro _)
    | split
    | dsimp only
    | fail_if_no_progress with_reducible apply Keeps.upd
    | dsimp +zetaDelta only

theorem State.beginRecovery_keeps {r0 : State} (s : State) (core : Nat) (kp : Keeps r0 s) :
    Keeps r0 (State.beginRecovery s core) := by
  unfold State.beginRecovery
  repeat' first
    | with_reducible assumption
    | intro _
    | with_reducible apply State.journalRec_keeps
    | with_reducible apply State.setFreeze_keeps
    | with_reducible apply Keeps.ite
    | (lift_lets; intro _)
    | split
    | dsimp only
    | fail_if_no_progress with_reducible apply Keeps.upd
    | dsimp +zetaDelta only

theorem State.lockCore_keeps {r0 : State} (s : State) (core : Nat) (k : Nat) (cause : Nat) (kp : Keeps r0 s) :
    Keeps r0 (State.lockCore s core k cause) := by
  unfold State.lockCore
  repeat' first
    | with_reducible assumption
    | intro _
    | with_reducible apply State.updCore_keeps
    | with_reducible apply State.setLock_keeps
    | with_reducible apply State.reofferMember_keeps
    | with_reducible apply State.dropService_keeps
    | with_reducible apply State.freeHeldAll_keeps
    | with_reducible apply State.each_keeps
    | with_reducible apply State.updCtx_keeps
    | with_reducible apply State.endProgram_keeps
    | with_reducible apply State.runOver_keeps
    | with_reducible apply State.beginRecovery_keeps
    | with_reducible apply State.served_keeps
    | with_reducible apply Keeps.ite
    | (lift_lets; intro _)
    | split
    | dsimp only
    | fail_if_no_progress with_reducible apply Keeps.upd
    | dsimp +zetaDelta only

theorem State.tileFault_keeps {r0 : State} (s : State) (tile : Nat) (kp : Keeps r0 s) :
    Keeps r0 (State.tileFault s tile) := by
  unfold State.tileFault
  repeat' first
    | with_reducible assumption
    | intro _
    | with_reducible apply State.each_keeps
    | with_reducible apply State.failAt_keeps
    | with_reducible apply State.dropRun_keeps
    | with_reducible apply Keeps.ite
    | (lift_lets; intro _)
    | split
    | dsimp only
    | fail_if_no_progress with_reducible apply Keeps.upd
    | dsimp +zetaDelta only

end Sys2Proof.Machine
end

