-- ==== Sys2Proof/Laws/KeepsHawks.lean ====
section
/-! SUPPORT. The operations of Machine/Hawks.lean keep the queue of commands and the form of the memory. -/

namespace Sys2Proof.Machine
open Sys2Proof

theorem State.hwkAlloc_keeps {r0 : State} (s : State) (m : Nat) (ctx : Nat) (kp : Keeps r0 s) :
    Keeps r0 (State.hwkAlloc s m ctx) := by
  unfold State.hwkAlloc
  repeat' first
    | with_reducible assumption
    | intro _
    | with_reducible apply State.accFault_keeps
    | with_reducible apply State.out_keeps
    | refine State.grant_of ?_ (by with_reducible assumption)
    | with_reducible apply Keeps.ite
    | (lift_lets; intro _)
    | split
    | dsimp only
    | fail_if_no_progress with_reducible apply Keeps.upd
    | dsimp +zetaDelta only

theorem execHwkAlloc_keeps {r0 sT : State} (m : Nat) (ctx : Nat) (s : State) (kp : Keeps r0 s)
    (e : execHwkAlloc m ctx s = .next sT) : Keeps r0 sT := by
  unfold execHwkAlloc at e
  rw [← Host.Outcome.next.inj e]
  repeat' first
    | with_reducible assumption
    | intro _
    | with_reducible apply State.accessR_keeps
    | with_reducible apply State.hwkAlloc_keeps
    | with_reducible apply Keeps.ite
    | (lift_lets; intro _)
    | split
    | dsimp only
    | fail_if_no_progress with_reducible apply Keeps.upd
    | dsimp +zetaDelta only

theorem State.hwkFree_keeps {r0 : State} (s : State) (m : Nat) (v : Word32) (kp : Keeps r0 s) :
    Keeps r0 (State.hwkFree s m v) := by
  unfold State.hwkFree
  repeat' first
    | with_reducible assumption
    | intro _
    | with_reducible apply State.accFault_keeps
    | with_reducible apply State.served_keeps
    | with_reducible apply State.each_keeps
    | with_reducible apply State.freeOne_keeps
    | with_reducible apply Keeps.ite
    | (lift_lets; intro _)
    | split
    | dsimp only
    | fail_if_no_progress with_reducible apply Keeps.upd
    | dsimp +zetaDelta only

theorem execHwkFree_keeps {r0 sT : State} (m : Nat) (v : Word32) (s : State) (kp : Keeps r0 s)
    (e : execHwkFree m v s = .next sT) : Keeps r0 sT := by
  unfold execHwkFree at e
  rw [← Host.Outcome.next.inj e]
  repeat' first
    | with_reducible assumption
    | intro _
    | with_reducible apply State.access_keeps
    | with_reducible apply State.hwkFree_keeps
    | with_reducible apply Keeps.ite
    | (lift_lets; intro _)
    | split
    | dsimp only
    | fail_if_no_progress with_reducible apply Keeps.upd
    | dsimp +zetaDelta only

theorem State.hwkCls_keeps {r0 : State} (s : State) (m : Nat) (a : Nat) (v : Word32) (kp : Keeps r0 s) :
    Keeps r0 (State.hwkCls s m a v) := by
  unfold State.hwkCls
  repeat' first
    | with_reducible assumption
    | intro _
    | with_reducible apply State.accFault_keeps
    | with_reducible apply State.served_keeps
    | with_reducible apply State.cfgMirror_keeps
    | with_reducible apply Keeps.ite
    | (lift_lets; intro _)
    | split
    | dsimp only
    | fail_if_no_progress with_reducible apply Keeps.upd
    | dsimp +zetaDelta only

theorem execHwkClsWrite_keeps {r0 sT : State} (m : Nat) (acct : Nat) (v : Word32) (s : State) (kp : Keeps r0 s)
    (e : execHwkClsWrite m acct v s = .next sT) : Keeps r0 sT := by
  unfold execHwkClsWrite at e
  rw [← Host.Outcome.next.inj e]
  repeat' first
    | with_reducible assumption
    | intro _
    | with_reducible apply State.access_keeps
    | with_reducible apply State.hwkCls_keeps
    | with_reducible apply Keeps.ite
    | (lift_lets; intro _)
    | split
    | dsimp only
    | fail_if_no_progress with_reducible apply Keeps.upd
    | dsimp +zetaDelta only

theorem State.refill_keeps {r0 : State} (s : State) (p : Nat)  (n : Nat) (h : Keeps r0 s) : Keeps r0 (s.refill p n) := by
  induction n generalizing s with
  | zero => exact h
  | succ n ih =>
    unfold State.refill
    repeat' first
      | with_reducible assumption
      | with_reducible apply ih
      | with_reducible apply State.setCell_keeps
      | intro _
      | split
      | dsimp only
      | fail_if_no_progress with_reducible apply Keeps.upd

theorem execCreditRefill_keeps {r0 sT : State} (producer : Nat) (s : State) (kp : Keeps r0 s)
    (e : execCreditRefill producer s = .next sT) : Keeps r0 sT := by
  unfold execCreditRefill at e
  rw [← Host.Outcome.next.inj e]
  repeat' first
    | with_reducible assumption
    | intro _
    | with_reducible apply State.refill_keeps
    | with_reducible apply Keeps.ite
    | (lift_lets; intro _)
    | split
    | dsimp only
    | fail_if_no_progress with_reducible apply Keeps.upd
    | dsimp +zetaDelta only

theorem execEccCorrected_keeps {r0 sT : State} (loc : EccLoc) (s : State) (kp : Keeps r0 s)
    (e : execEccCorrected loc s = .next sT) : Keeps r0 sT := by
  unfold execEccCorrected at e
  rw [← Host.Outcome.next.inj e]
  repeat' first
    | with_reducible assumption
    | intro _
    | with_reducible apply Keeps.ite
    | (lift_lets; intro _)
    | split
    | dsimp only
    | fail_if_no_progress with_reducible apply Keeps.upd
    | dsimp +zetaDelta only

end Sys2Proof.Machine
end

