-- ==== Sys2Proof/Laws/KeepsMailboxes.lean ====
section
/-! SUPPORT. The operations of Machine/Mailboxes.lean keep the queue of commands and the form of the memory. -/

namespace Sys2Proof.Machine
open Sys2Proof

theorem State.sendResult_keeps {r0 : State} (s : State) (m : Nat) (ctx : Nat) (r : BitVec 2) (kp : Keeps r0 s) :
    Keeps r0 (State.sendResult s m ctx r) := by
  unfold State.sendResult
  repeat' first
    | with_reducible assumption
    | intro _
    | with_reducible apply State.updCtx_keeps
    | with_reducible apply Keeps.ite
    | (lift_lets; intro _)
    | split
    | dsimp only
    | fail_if_no_progress with_reducible apply Keeps.upd
    | dsimp +zetaDelta only

theorem State.mbxSend_keeps {r0 : State} (s : State) (m : Nat) (ctx : Nat) (mb : Nat) (v : Word32) (kp : Keeps r0 s) :
    Keeps r0 (State.mbxSend s m ctx mb v) := by
  unfold State.mbxSend
  repeat' first
    | with_reducible assumption
    | intro _
    | with_reducible apply State.accFault_keeps
    | with_reducible apply State.sendResult_keeps
    | with_reducible apply State.mbxRefused_keeps
    | with_reducible apply State.mbxAccept_keeps
    | with_reducible apply Keeps.ite
    | (lift_lets; intro _)
    | split
    | dsimp only
    | fail_if_no_progress with_reducible apply Keeps.upd
    | dsimp +zetaDelta only

theorem execMbxSend_keeps {r0 sT : State} (m : Nat) (ctx : Nat) (mb : Nat) (v : Word32) (s : State) (kp : Keeps r0 s)
    (e : execMbxSend m ctx mb v s = .next sT) : Keeps r0 sT := by
  unfold execMbxSend at e
  rw [← Host.Outcome.next.inj e]
  repeat' first
    | with_reducible assumption
    | intro _
    | with_reducible apply State.access_keeps
    | with_reducible apply State.mbxSend_keeps
    | with_reducible apply Keeps.ite
    | (lift_lets; intro _)
    | split
    | dsimp only
    | fail_if_no_progress with_reducible apply Keeps.upd
    | dsimp +zetaDelta only

theorem State.mbxPop_keeps {r0 : State} (s : State) (m : Nat) (ctx : Nat) (mb : Nat) (kp : Keeps r0 s) :
    Keeps r0 (State.mbxPop s m ctx mb) := by
  unfold State.mbxPop
  repeat' first
    | with_reducible assumption
    | intro _
    | with_reducible apply State.accFault_keeps
    | with_reducible apply State.out_keeps
    | with_reducible apply State.mbxLine_keeps
    | with_reducible apply State.setCell_keeps
    | with_reducible apply State.setMbx_keeps
    | with_reducible apply State.touchCell_keeps
    | with_reducible apply Keeps.ite
    | (lift_lets; intro _)
    | split
    | dsimp only
    | fail_if_no_progress with_reducible apply Keeps.upd
    | dsimp +zetaDelta only

theorem execMbxPop_keeps {r0 sT : State} (m : Nat) (ctx : Nat) (mb : Nat) (s : State) (kp : Keeps r0 s)
    (e : execMbxPop m ctx mb s = .next sT) : Keeps r0 sT := by
  unfold execMbxPop at e
  rw [← Host.Outcome.next.inj e]
  repeat' first
    | with_reducible assumption
    | intro _
    | with_reducible apply State.accessR_keeps
    | with_reducible apply State.mbxPop_keeps
    | with_reducible apply Keeps.ite
    | (lift_lets; intro _)
    | split
    | dsimp only
    | fail_if_no_progress with_reducible apply Keeps.upd
    | dsimp +zetaDelta only

theorem State.mbxDrop_keeps {r0 : State} (s : State) (mb : Nat) (kp : Keeps r0 s) :
    Keeps r0 (State.mbxDrop s mb) := by
  unfold State.mbxDrop
  repeat' first
    | with_reducible assumption
    | intro _
    | with_reducible apply State.served_keeps
    | with_reducible apply State.mbxLine_keeps
    | with_reducible apply State.each_keeps
    | with_reducible apply State.updMbx_keeps
    | with_reducible apply State.freeOne_keeps
    | with_reducible apply Keeps.ite
    | (lift_lets; intro _)
    | split
    | dsimp only
    | fail_if_no_progress with_reducible apply Keeps.upd
    | dsimp +zetaDelta only

theorem State.mbxCfg_keeps {r0 : State} (s : State) (m : Nat) (mb : Nat) (v : Word32) (kp : Keeps r0 s) :
    Keeps r0 (State.mbxCfg s m mb v) := by
  unfold State.mbxCfg
  repeat' first
    | with_reducible assumption
    | intro _
    | with_reducible apply State.accFault_keeps
    | with_reducible apply State.setMbx_keeps
    | with_reducible apply State.cfgMirror_keeps
    | with_reducible apply State.updMbx_keeps
    | with_reducible apply State.mbxDrop_keeps
    | with_reducible apply Keeps.ite
    | (lift_lets; intro _)
    | split
    | dsimp only
    | fail_if_no_progress with_reducible apply Keeps.upd
    | dsimp +zetaDelta only

theorem execMbxDisable_keeps {r0 sT : State} (m : Nat) (mb : Nat) (v : Word32) (s : State) (kp : Keeps r0 s)
    (e : execMbxDisable m mb v s = .next sT) : Keeps r0 sT := by
  unfold execMbxDisable at e
  rw [← Host.Outcome.next.inj e]
  repeat' first
    | with_reducible assumption
    | intro _
    | with_reducible apply State.access_keeps
    | with_reducible apply State.mbxCfg_keeps
    | with_reducible apply Keeps.ite
    | (lift_lets; intro _)
    | split
    | dsimp only
    | fail_if_no_progress with_reducible apply Keeps.upd
    | dsimp +zetaDelta only

theorem State.semAcquire_keeps {r0 : State} (s : State) (m : Nat) (n : Nat) (kp : Keeps r0 s) :
    Keeps r0 (State.semAcquire s m n) := by
  unfold State.semAcquire
  repeat' first
    | with_reducible assumption
    | intro _
    | with_reducible apply State.accFault_keeps
    | with_reducible apply State.out_keeps
    | with_reducible apply State.setSem_keeps
    | with_reducible apply Keeps.ite
    | (lift_lets; intro _)
    | split
    | dsimp only
    | fail_if_no_progress with_reducible apply Keeps.upd
    | dsimp +zetaDelta only

theorem execSemAcquire_keeps {r0 sT : State} (m : Nat) (n : Nat) (s : State) (kp : Keeps r0 s)
    (e : execSemAcquire m n s = .next sT) : Keeps r0 sT := by
  unfold execSemAcquire at e
  rw [← Host.Outcome.next.inj e]
  repeat' first
    | with_reducible assumption
    | intro _
    | with_reducible apply State.accessR_keeps
    | with_reducible apply State.semAcquire_keeps
    | with_reducible apply Keeps.ite
    | (lift_lets; intro _)
    | split
    | dsimp only
    | fail_if_no_progress with_reducible apply Keeps.upd
    | dsimp +zetaDelta only

theorem State.semBad_keeps {r0 : State} (s : State) (m : Nat) (n : Nat) (kp : Keeps r0 s) :
    Keeps r0 (State.semBad s m n) := by
  unfold State.semBad
  repeat' first
    | with_reducible assumption
    | intro _
    | with_reducible apply State.accFault_keeps
    | with_reducible apply State.updSem_keeps
    | with_reducible apply Keeps.ite
    | (lift_lets; intro _)
    | split
    | dsimp only
    | fail_if_no_progress with_reducible apply Keeps.upd
    | dsimp +zetaDelta only

theorem State.semRelease_keeps {r0 : State} (s : State) (m : Nat) (n : Nat) (v : Word32) (kp : Keeps r0 s) :
    Keeps r0 (State.semRelease s m n v) := by
  unfold State.semRelease
  repeat' first
    | with_reducible assumption
    | intro _
    | with_reducible apply State.accFault_keeps
    | with_reducible apply State.setSem_keeps
    | with_reducible apply State.semBad_keeps
    | with_reducible apply Keeps.ite
    | (lift_lets; intro _)
    | split
    | dsimp only
    | fail_if_no_progress with_reducible apply Keeps.upd
    | dsimp +zetaDelta only

theorem execSemRelease_keeps {r0 sT : State} (m : Nat) (n : Nat) (v : Word32) (s : State) (kp : Keeps r0 s)
    (e : execSemRelease m n v s = .next sT) : Keeps r0 sT := by
  unfold execSemRelease at e
  rw [← Host.Outcome.next.inj e]
  repeat' first
    | with_reducible assumption
    | intro _
    | with_reducible apply State.access_keeps
    | with_reducible apply State.semRelease_keeps
    | with_reducible apply Keeps.ite
    | (lift_lets; intro _)
    | split
    | dsimp only
    | fail_if_no_progress with_reducible apply Keeps.upd
    | dsimp +zetaDelta only

theorem State.semForce_keeps {r0 : State} (s : State) (m : Nat) (n : Nat) (kp : Keeps r0 s) :
    Keeps r0 (State.semForce s m n) := by
  unfold State.semForce
  repeat' first
    | with_reducible assumption
    | intro _
    | with_reducible apply State.accFault_keeps
    | with_reducible apply State.updSem_keeps
    | with_reducible apply Keeps.ite
    | (lift_lets; intro _)
    | split
    | dsimp only
    | fail_if_no_progress with_reducible apply Keeps.upd
    | dsimp +zetaDelta only

theorem execSemForce_keeps {r0 sT : State} (m : Nat) (n : Nat) (s : State) (kp : Keeps r0 s)
    (e : execSemForce m n s = .next sT) : Keeps r0 sT := by
  unfold execSemForce at e
  rw [← Host.Outcome.next.inj e]
  repeat' first
    | with_reducible assumption
    | intro _
    | with_reducible apply State.access_keeps
    | with_reducible apply State.semForce_keeps
    | with_reducible apply Keeps.ite
    | (lift_lets; intro _)
    | split
    | dsimp only
    | fail_if_no_progress with_reducible apply Keeps.upd
    | dsimp +zetaDelta only

end Sys2Proof.Machine
end

