-- ==== Sys2Proof/Laws/KeepsScrims.lean ====
section
/-! SUPPORT. The operations of Machine/Scrims.lean keep the queue of commands and the form of the memory. -/

namespace Sys2Proof.Machine
open Sys2Proof

theorem execScrimRequest_keeps {r0 sT : State} (bank : Bank) (who : Requester) (b : Beats) (cls : Option Nat) (s : State) (kp : Keeps r0 s)
    (e : execScrimRequest bank who b cls s = .next sT) : Keeps r0 sT := by
  unfold execScrimRequest at e
  rw [← Host.Outcome.next.inj e]
  repeat' first
    | with_reducible assumption
    | intro _
    | with_reducible apply State.updScr_keeps
    | with_reducible apply Keeps.ite
    | (lift_lets; intro _)
    | split
    | dsimp only
    | fail_if_no_progress with_reducible apply Keeps.upd
    | dsimp +zetaDelta only

theorem execScrimTransferComplete_keeps {r0 sT : State} (arb : Nat) (s : State) (kp : Keeps r0 s)
    (e : execScrimTransferComplete arb s = .next sT) : Keeps r0 sT := by
  unfold execScrimTransferComplete at e
  rw [← Host.Outcome.next.inj e]
  repeat' first
    | with_reducible assumption
    | intro _
    | with_reducible apply State.updScr_keeps
    | with_reducible apply Keeps.ite
    | (lift_lets; intro _)
    | split
    | dsimp only
    | fail_if_no_progress with_reducible apply Keeps.upd
    | dsimp +zetaDelta only

theorem State.contain_keeps {r0 : State} (s : State) (who : Requester) (kp : Keeps r0 s) :
    Keeps r0 (State.contain s who) := by
  unfold State.contain
  repeat' first
    | with_reducible assumption
    | intro _
    | with_reducible apply State.portOos_keeps
    | with_reducible apply State.haltDie_keeps
    | with_reducible apply State.lockCore_keeps
    | with_reducible apply State.tileFault_keeps
    | with_reducible apply State.accFault_keeps
    | with_reducible apply Keeps.ite
    | (lift_lets; intro _)
    | split
    | dsimp only
    | fail_if_no_progress with_reducible apply Keeps.upd
    | dsimp +zetaDelta only

theorem State.bite_keeps {r0 : State} (s : State) (arb : Nat) (kp : Keeps r0 s) :
    Keeps r0 (State.bite s arb) := by
  unfold State.bite
  repeat' first
    | with_reducible assumption
    | intro _
    | with_reducible apply State.updScr_keeps
    | with_reducible apply State.pulse_keeps
    | with_reducible apply State.journalRec_keeps
    | with_reducible apply State.contain_keeps
    | with_reducible apply Keeps.ite
    | (lift_lets; intro _)
    | split
    | dsimp only
    | fail_if_no_progress with_reducible apply Keeps.upd
    | dsimp +zetaDelta only

theorem execScrimWatchdogBite_keeps {r0 sT : State} (arb : Nat) (s : State) (kp : Keeps r0 s)
    (e : execScrimWatchdogBite arb s = .next sT) : Keeps r0 sT := by
  unfold execScrimWatchdogBite at e
  rw [← Host.Outcome.next.inj e]
  repeat' first
    | with_reducible assumption
    | intro _
    | with_reducible apply State.served_keeps
    | with_reducible apply State.bite_keeps
    | with_reducible apply Keeps.ite
    | (lift_lets; intro _)
    | split
    | dsimp only
    | fail_if_no_progress with_reducible apply Keeps.upd
    | dsimp +zetaDelta only

theorem State.scrCtl_keeps {r0 : State} (s : State) (m : Nat) (arb : Nat) (v : Word32) (kp : Keeps r0 s) :
    Keeps r0 (State.scrCtl s m arb v) := by
  unfold State.scrCtl
  repeat' first
    | with_reducible assumption
    | intro _
    | with_reducible apply State.accFault_keeps
    | with_reducible apply State.updScr_keeps
    | with_reducible apply Keeps.ite
    | (lift_lets; intro _)
    | split
    | dsimp only
    | fail_if_no_progress with_reducible apply Keeps.upd
    | dsimp +zetaDelta only

theorem execScrimFreeze_keeps {r0 sT : State} (m : Nat) (arb : Nat) (v : Word32) (s : State) (kp : Keeps r0 s)
    (e : execScrimFreeze m arb v s = .next sT) : Keeps r0 sT := by
  unfold execScrimFreeze at e
  rw [← Host.Outcome.next.inj e]
  repeat' first
    | with_reducible assumption
    | intro _
    | with_reducible apply State.access_keeps
    | with_reducible apply State.scrCtl_keeps
    | with_reducible apply Keeps.ite
    | (lift_lets; intro _)
    | split
    | dsimp only
    | fail_if_no_progress with_reducible apply Keeps.upd
    | dsimp +zetaDelta only

end Sys2Proof.Machine
end

