-- ==== Sys2Proof/Laws/KeepsRuns.lean ====
section
/-! SUPPORT. The operations of Machine/Runs.lean keep the queue of commands and the form of the memory. -/

namespace Sys2Proof.Machine
open Sys2Proof

theorem State.tryRun_keeps {r0 : State} (s : State) (ch : Nat) (crn : Bool) (bound : Nat) (kp : Keeps r0 s) :
    Keeps r0 (State.tryRun s ch crn bound) := by
  unfold State.tryRun
  repeat' first
    | with_reducible assumption
    | intro _
    | with_reducible apply State.park_keeps
    | with_reducible apply Keeps.ite
    | (lift_lets; intro _)
    | split
    | dsimp only
    | fail_if_no_progress with_reducible apply Keeps.upd
    | dsimp +zetaDelta only

theorem State.doRun_keeps {r0 : State} (s : State) (ch : Nat) (w : BitVec 128) (kp : Keeps r0 s) :
    Keeps r0 (State.doRun s ch w) := by
  unfold State.doRun
  repeat' first
    | with_reducible assumption
    | intro _
    | with_reducible apply State.failNow_keeps
    | with_reducible apply State.tryRun_keeps
    | with_reducible apply State.updXfer_keeps
    | with_reducible apply Keeps.ite
    | (lift_lets; intro _)
    | split
    | dsimp only
    | fail_if_no_progress with_reducible apply Keeps.upd
    | dsimp +zetaDelta only

theorem execRun_keeps {r0 sT : State} (ch : Nat) (s : State) (kp : Keeps r0 s)
    (e : execRun ch s = .next sT) : Keeps r0 sT := by
  unfold execRun at e
  rw [← Host.Outcome.next.inj e]
  repeat' first
    | with_reducible assumption
    | intro _
    | with_reducible apply State.served_keeps
    | with_reducible apply State.onDue_keeps
    | with_reducible apply State.doRun_keeps
    | with_reducible apply Keeps.ite
    | (lift_lets; intro _)
    | split
    | dsimp only
    | fail_if_no_progress with_reducible apply Keeps.upd
    | dsimp +zetaDelta only

theorem State.loadCtx_keeps {r0 : State} (s : State) (ch : Nat) (core : Nat) (k : Nat) (w : BitVec 128) (r : Routine) (kp : Keeps r0 s) :
    Keeps r0 (State.loadCtx s ch core k w r) := by
  unfold State.loadCtx
  repeat' first
    | with_reducible assumption
    | intro _
    | with_reducible apply State.setCtx_keeps
    | with_reducible apply State.storeWord_keeps
    | with_reducible apply Keeps.ite
    | (lift_lets; intro _)
    | split
    | dsimp only
    | fail_if_no_progress with_reducible apply Keeps.upd
    | dsimp +zetaDelta only

theorem State.dispatchRun_keeps {r0 : State} (s : State) (ch : Nat) (core : Nat) (k : Nat) (w : BitVec 128) (r : Routine) (kp : Keeps r0 s) :
    Keeps r0 (State.dispatchRun s ch core k w r) := by
  unfold State.dispatchRun
  repeat' first
    | with_reducible assumption
    | intro _
    | with_reducible apply State.loadCtx_keeps
    | with_reducible apply State.chargeCh_keeps
    | with_reducible apply State.updCore_keeps
    | with_reducible apply State.arrange_keeps
    | with_reducible apply State.goChan_keeps
    | with_reducible apply State.wakeData_keeps
    | with_reducible apply State.wakeDomain_keeps
    | with_reducible apply Keeps.ite
    | (lift_lets; intro _)
    | split
    | dsimp only
    | fail_if_no_progress with_reducible apply Keeps.upd
    | dsimp +zetaDelta only

theorem State.runDispatch_keeps {r0 : State} (s : State) (ch : Nat) (kp : Keeps r0 s) :
    Keeps r0 (State.runDispatch s ch) := by
  unfold State.runDispatch
  repeat' first
    | with_reducible assumption
    | intro _
    | with_reducible apply State.failNow_keeps
    | with_reducible apply State.park_keeps
    | with_reducible apply State.dispatchRun_keeps
    | with_reducible apply State.prefetch_keeps
    | with_reducible apply State.updChan_keeps
    | with_reducible apply Keeps.ite
    | (lift_lets; intro _)
    | split
    | dsimp only
    | fail_if_no_progress with_reducible apply Keeps.upd
    | dsimp +zetaDelta only

theorem execRunDispatch_keeps {r0 sT : State} (ch : Nat) (s : State) (kp : Keeps r0 s)
    (e : execRunDispatch ch s = .next sT) : Keeps r0 sT := by
  unfold execRunDispatch at e
  rw [← Host.Outcome.next.inj e]
  repeat' first
    | with_reducible assumption
    | intro _
    | with_reducible apply State.served_keeps
    | with_reducible apply State.runDispatch_keeps
    | with_reducible apply Keeps.ite
    | (lift_lets; intro _)
    | split
    | dsimp only
    | fail_if_no_progress with_reducible apply Keeps.upd
    | dsimp +zetaDelta only

theorem State.exitRun_keeps {r0 : State} (s : State) (core : Nat) (k : Nat) (user : Nat) (err : Nat) (kp : Keeps r0 s) :
    Keeps r0 (State.exitRun s core k user err) := by
  unfold State.exitRun
  repeat' first
    | with_reducible assumption
    | intro _
    | with_reducible apply State.refund_keeps
    | with_reducible apply State.doneEffect_keeps
    | with_reducible apply State.runOver_keeps
    | with_reducible apply State.leaveCtx_keeps
    | with_reducible apply State.updChan_keeps
    | with_reducible apply State.endProgram_keeps
    | with_reducible apply State.goOn_keeps
    | with_reducible apply State.afterFree_keeps
    | with_reducible apply Keeps.ite
    | (lift_lets; intro _)
    | split
    | dsimp only
    | fail_if_no_progress with_reducible apply Keeps.upd
    | dsimp +zetaDelta only

theorem execCycleBoundExpiry_keeps {r0 sT : State} (core : Nat) (ctx : Nat) (s : State) (kp : Keeps r0 s)
    (e : execCycleBoundExpiry core ctx s = .next sT) : Keeps r0 sT := by
  unfold execCycleBoundExpiry at e
  rw [← Host.Outcome.next.inj e]
  repeat' first
    | with_reducible assumption
    | intro _
    | with_reducible apply State.mark_keeps
    | with_reducible apply State.passWait_keeps
    | with_reducible apply State.afterFree_keeps
    | with_reducible apply State.failRun_keeps
    | with_reducible apply Keeps.ite
    | (lift_lets; intro _)
    | split
    | dsimp only
    | fail_if_no_progress with_reducible apply Keeps.upd
    | dsimp +zetaDelta only

end Sys2Proof.Machine
end

