-- ==== Sys2Proof/Laws/KeepsAdminOps.lean ====
section
/-! SUPPORT. The operations of Machine/AdminOps.lean keep the queue of commands and the form of the memory. -/

namespace Sys2Proof.Machine
open Sys2Proof

theorem State.commitLater_keeps {r0 : State} (s : State) (what : Change) (c : AdmCmd) (kp : Keeps r0 s) :
    Keeps r0 (State.commitLater s what c) := by
  unfold State.commitLater
  repeat' first
    | with_reducible assumption
    | intro _
    | with_reducible apply State.mirror_keeps
    | with_reducible apply State.admWaits_keeps
    | with_reducible apply Keeps.ite
    | (lift_lets; intro _)
    | split
    | dsimp only
    | fail_if_no_progress with_reducible apply Keeps.upd
    | dsimp +zetaDelta only

theorem State.budgetCommit_keeps {r0 : State} (s : State) (c : AdmCmd) (kp : Keeps r0 s) :
    Keeps r0 (State.budgetCommit s c) := by
  unfold State.budgetCommit
  repeat' first
    | with_reducible assumption
    | intro _
    | with_reducible apply State.replyAdm_keeps
    | with_reducible apply State.commitLater_keeps
    | with_reducible apply Keeps.ite
    | (lift_lets; intro _)
    | split
    | dsimp only
    | fail_if_no_progress with_reducible apply Keeps.upd
    | dsimp +zetaDelta only

theorem State.portCommit_keeps {r0 : State} (s : State) (c : AdmCmd) (kp : Keeps r0 s) :
    Keeps r0 (State.portCommit s c) := by
  unfold State.portCommit
  repeat' first
    | with_reducible assumption
    | intro _
    | with_reducible apply State.replyAdm_keeps
    | with_reducible apply State.commitLater_keeps
    | with_reducible apply Keeps.ite
    | (lift_lets; intro _)
    | split
    | dsimp only
    | fail_if_no_progress with_reducible apply Keeps.upd
    | dsimp +zetaDelta only

theorem State.freeLseg_keeps {r0 : State} (s : State) (ch : Nat) (kp : Keeps r0 s) :
    Keeps r0 (State.freeLseg s ch) := by
  unfold State.freeLseg
  repeat' first
    | with_reducible assumption
    | intro _
    | with_reducible apply State.each_keeps
    | with_reducible apply State.freeOne_keeps
    | with_reducible apply Keeps.ite
    | (lift_lets; intro _)
    | split
    | dsimp only
    | fail_if_no_progress with_reducible apply Keeps.upd
    | dsimp +zetaDelta only

theorem State.takeLseg_keeps {r0 : State} (s : State) (ch : Nat) (k : Nat) (n : Nat) (kp : Keeps r0 s) :
    Keeps r0 (State.takeLseg s ch k n) := by
  unfold State.takeLseg
  repeat' first
    | with_reducible assumption
    | intro _
    | with_reducible apply State.updChan_keeps
    | with_reducible apply State.store_keeps
    | with_reducible apply State.each_keeps
    | with_reducible apply State.setCell_keeps
    | with_reducible apply Keeps.ite
    | (lift_lets; intro _)
    | split
    | dsimp only
    | fail_if_no_progress with_reducible apply Keeps.upd
    | dsimp +zetaDelta only

theorem State.bindChannel_keeps {r0 : State} (s : State) (c : AdmCmd) (kp : Keeps r0 s) :
    Keeps r0 (State.bindChannel s c) := by
  unfold State.bindChannel
  repeat' first
    | with_reducible assumption
    | intro _
    | with_reducible apply State.replyOk_keeps
    | with_reducible apply State.replyBad_keeps
    | with_reducible apply State.retarget_keeps
    | with_reducible apply State.served_keeps
    | with_reducible apply State.goChan_keeps
    | with_reducible apply State.takeLseg_keeps
    | with_reducible apply State.freeLseg_keeps
    | with_reducible apply Keeps.ite
    | (lift_lets; intro _)
    | split
    | dsimp only
    | fail_if_no_progress with_reducible apply Keeps.upd
    | dsimp +zetaDelta only

theorem State.unbindChannel_keeps {r0 : State} (s : State) (c : AdmCmd) (kp : Keeps r0 s) :
    Keeps r0 (State.unbindChannel s c) := by
  unfold State.unbindChannel
  repeat' first
    | with_reducible assumption
    | intro _
    | with_reducible apply State.replyOk_keeps
    | with_reducible apply State.replyBad_keeps
    | with_reducible apply State.goChan_keeps
    | with_reducible apply State.freeChChain_keeps
    | with_reducible apply State.freeLseg_keeps
    | with_reducible apply State.retarget_keeps
    | with_reducible apply State.served_keeps
    | with_reducible apply Keeps.ite
    | (lift_lets; intro _)
    | split
    | dsimp only
    | fail_if_no_progress with_reducible apply Keeps.upd
    | dsimp +zetaDelta only

theorem State.writeLib_keeps {r0 : State} (s : State) (t : Nat) (crn : Bool) (off : Nat) (code : List Word) (kp : Keeps r0 s) :
    Keeps r0 (State.writeLib s t crn off code) := by
  unfold State.writeLib
  repeat' first
    | with_reducible assumption
    | intro _
    | with_reducible apply State.each_keeps
    | with_reducible apply State.store_keeps
    | with_reducible apply Keeps.ite
    | (lift_lets; intro _)
    | split
    | dsimp only
    | fail_if_no_progress with_reducible apply Keeps.upd
    | dsimp +zetaDelta only

theorem State.routineLoad_keeps {r0 : State} (s : State) (c : AdmCmd) (words : List Word) (kp : Keeps r0 s) :
    Keeps r0 (State.routineLoad s c words) := by
  unfold State.routineLoad
  repeat' first
    | with_reducible assumption
    | intro _
    | with_reducible apply State.replyBad_keeps
    | with_reducible apply State.replyOk_keeps
    | with_reducible apply State.replyAdm_keeps
    | with_reducible apply State.each_keeps
    | with_reducible apply State.updLib_keeps
    | with_reducible apply State.writeLib_keeps
    | with_reducible apply Keeps.ite
    | (lift_lets; intro _)
    | split
    | dsimp only
    | fail_if_no_progress with_reducible apply Keeps.upd
    | dsimp +zetaDelta only

theorem State.writeHandlers_keeps {r0 : State} (s : State) (core : Nat) (off : Nat) (words : List Word) (kp : Keeps r0 s) :
    Keeps r0 (State.writeHandlers s core off words) := by
  unfold State.writeHandlers
  repeat' first
    | with_reducible assumption
    | intro _
    | with_reducible apply State.store_keeps
    | with_reducible apply Keeps.ite
    | (lift_lets; intro _)
    | split
    | dsimp only
    | fail_if_no_progress with_reducible apply Keeps.upd
    | dsimp +zetaDelta only

theorem State.handlerLoad_keeps {r0 : State} (s : State) (c : AdmCmd) (words : List Word) (kp : Keeps r0 s) :
    Keeps r0 (State.handlerLoad s c words) := by
  unfold State.handlerLoad
  repeat' first
    | with_reducible assumption
    | intro _
    | with_reducible apply State.replyBad_keeps
    | with_reducible apply State.replyAdm_keeps
    | with_reducible apply State.each_keeps
    | with_reducible apply State.updLib_keeps
    | with_reducible apply State.writeHandlers_keeps
    | with_reducible apply State.replyOk_keeps
    | with_reducible apply Keeps.ite
    | (lift_lets; intro _)
    | split
    | dsimp only
    | fail_if_no_progress with_reducible apply Keeps.upd
    | dsimp +zetaDelta only

theorem State.routineUnload_keeps {r0 : State} (s : State) (c : AdmCmd) (kp : Keeps r0 s) :
    Keeps r0 (State.routineUnload s c) := by
  unfold State.routineUnload
  repeat' first
    | with_reducible assumption
    | intro _
    | with_reducible apply State.replyBad_keeps
    | with_reducible apply State.each_keeps
    | with_reducible apply State.updLib_keeps
    | with_reducible apply State.replyOk_keeps
    | with_reducible apply Keeps.ite
    | (lift_lets; intro _)
    | split
    | dsimp only
    | fail_if_no_progress with_reducible apply Keeps.upd
    | dsimp +zetaDelta only

theorem State.noteVersions_keeps {r0 : State} (s : State) (kp : Keeps r0 s) :
    Keeps r0 (State.noteVersions s) := by
  unfold State.noteVersions
  repeat' first
    | with_reducible assumption
    | intro _
    | with_reducible apply Keeps.ite
    | (lift_lets; intro _)
    | split
    | dsimp only
    | fail_if_no_progress with_reducible apply Keeps.upd
    | dsimp +zetaDelta only

theorem State.journalFw_keeps {r0 : State} (s : State) (code : BitVec 16) (slot : Bool) (live : Bool) (event : Nat) (frame : Nat) (kp : Keeps r0 s) :
    Keeps r0 (State.journalFw s code slot live event frame) := by
  unfold State.journalFw
  repeat' first
    | with_reducible assumption
    | intro _
    | with_reducible apply State.journalRec_keeps
    | with_reducible apply Keeps.ite
    | (lift_lets; intro _)
    | split
    | dsimp only
    | fail_if_no_progress with_reducible apply Keeps.upd
    | dsimp +zetaDelta only

theorem State.fwLive_keeps {r0 : State} (s : State) (c : AdmCmd) (kp : Keeps r0 s) :
    Keeps r0 (State.fwLive s c) := by
  unfold State.fwLive
  repeat' first
    | with_reducible assumption
    | intro _
    | with_reducible apply State.replyBad_keeps
    | with_reducible apply State.commitLater_keeps
    | with_reducible apply State.admWaits_keeps
    | with_reducible apply Keeps.ite
    | (lift_lets; intro _)
    | split
    | dsimp only
    | fail_if_no_progress with_reducible apply Keeps.upd
    | dsimp +zetaDelta only

theorem State.journalRead_keeps {r0 : State} (s : State) (c : AdmCmd) (kp : Keeps r0 s) :
    Keeps r0 (State.journalRead s c) := by
  unfold State.journalRead
  repeat' first
    | with_reducible assumption
    | intro _
    | with_reducible apply State.flushJournal_keeps
    | with_reducible apply State.replyOk_keeps
    | with_reducible apply State.writeHost_keeps
    | with_reducible apply Keeps.ite
    | (lift_lets; intro _)
    | split
    | dsimp only
    | fail_if_no_progress with_reducible apply Keeps.upd
    | dsimp +zetaDelta only

theorem State.keySet_keeps {r0 : State} (s : State) (c : AdmCmd) (kp : Keeps r0 s) :
    Keeps r0 (State.keySet s c) := by
  unfold State.keySet
  repeat' first
    | with_reducible assumption
    | intro _
    | with_reducible apply State.replyBad_keeps
    | with_reducible apply State.replyOk_keeps
    | with_reducible apply Keeps.ite
    | (lift_lets; intro _)
    | split
    | dsimp only
    | fail_if_no_progress with_reducible apply Keeps.upd
    | dsimp +zetaDelta only

theorem State.keyRetire_keeps {r0 : State} (s : State) (c : AdmCmd) (kp : Keeps r0 s) :
    Keeps r0 (State.keyRetire s c) := by
  unfold State.keyRetire
  repeat' first
    | with_reducible assumption
    | intro _
    | with_reducible apply State.replyBad_keeps
    | with_reducible apply State.replyOk_keeps
    | with_reducible apply Keeps.ite
    | (lift_lets; intro _)
    | split
    | dsimp only
    | fail_if_no_progress with_reducible apply Keeps.upd
    | dsimp +zetaDelta only

theorem State.kmdRole_keeps {r0 : State} (s : State) (c : AdmCmd) (kp : Keeps r0 s) :
    Keeps r0 (State.kmdRole s c) := by
  unfold State.kmdRole
  repeat' first
    | with_reducible assumption
    | intro _
    | with_reducible apply State.replyOk_keeps
    | with_reducible apply State.setMbx_keeps
    | with_reducible apply State.kmdAnnounce_keeps
    | with_reducible apply State.replyAdm_keeps
    | with_reducible apply Keeps.ite
    | (lift_lets; intro _)
    | split
    | dsimp only
    | fail_if_no_progress with_reducible apply Keeps.upd
    | dsimp +zetaDelta only

end Sys2Proof.Machine
end

