-- ==== Sys2Proof/Laws/KeepsAdmins.lean ====
section
/-! SUPPORT. The operations of Machine/Admins.lean keep the queue of commands and the form of the memory. -/

namespace Sys2Proof.Machine
open Sys2Proof

theorem State.aqJournal_keeps {r0 : State} (s : State) (m : Nat) (v : Word32) (kp : Keeps r0 s) :
    Keeps r0 (State.aqJournal s m v) := by
  unfold State.aqJournal
  repeat' first
    | with_reducible assumption
    | intro _
    | with_reducible apply State.journalHost_keeps
    | with_reducible apply Keeps.ite
    | (lift_lets; intro _)
    | split
    | dsimp only
    | fail_if_no_progress with_reducible apply Keeps.upd
    | dsimp +zetaDelta only

theorem State.aqProd_keeps {r0 : State} (s : State) (m : Nat) (v : Word32) (kp : Keeps r0 s) :
    Keeps r0 (State.aqProd s m v) := by
  unfold State.aqProd
  repeat' first
    | with_reducible assumption
    | intro _
    | with_reducible apply State.accFault_keeps
    | with_reducible apply State.aqKick_keeps
    | with_reducible apply State.aqJournal_keeps
    | with_reducible apply Keeps.ite
    | (lift_lets; intro _)
    | split
    | dsimp only
    | fail_if_no_progress with_reducible apply Keeps.upd
    | dsimp +zetaDelta only

theorem execAqProd_keeps {r0 sT : State} (m : Nat) (v : Word32) (s : State) (kp : Keeps r0 s)
    (e : execAqProd m v s = .next sT) : Keeps r0 sT := by
  unfold execAqProd at e
  rw [← Host.Outcome.next.inj e]
  repeat' first
    | with_reducible assumption
    | intro _
    | with_reducible apply State.access_keeps
    | with_reducible apply State.aqProd_keeps
    | with_reducible apply Keeps.ite
    | (lift_lets; intro _)
    | split
    | dsimp only
    | fail_if_no_progress with_reducible apply Keeps.upd
    | dsimp +zetaDelta only

theorem State.aqRcons_keeps {r0 : State} (s : State) (m : Nat) (v : Word32) (kp : Keeps r0 s) :
    Keeps r0 (State.aqRcons s m v) := by
  unfold State.aqRcons
  repeat' first
    | with_reducible assumption
    | intro _
    | with_reducible apply State.accFault_keeps
    | with_reducible apply State.aqKick_keeps
    | with_reducible apply State.aqJournal_keeps
    | with_reducible apply Keeps.ite
    | (lift_lets; intro _)
    | split
    | dsimp only
    | fail_if_no_progress with_reducible apply Keeps.upd
    | dsimp +zetaDelta only

theorem execAqRcons_keeps {r0 sT : State} (m : Nat) (v : Word32) (s : State) (kp : Keeps r0 s)
    (e : execAqRcons m v s = .next sT) : Keeps r0 sT := by
  unfold execAqRcons at e
  rw [← Host.Outcome.next.inj e]
  repeat' first
    | with_reducible assumption
    | intro _
    | with_reducible apply State.access_keeps
    | with_reducible apply State.aqRcons_keeps
    | with_reducible apply Keeps.ite
    | (lift_lets; intro _)
    | split
    | dsimp only
    | fail_if_no_progress with_reducible apply Keeps.upd
    | dsimp +zetaDelta only

theorem State.aqDrain_keeps {r0 : State} (s : State) (kp : Keeps r0 s) :
    Keeps r0 (State.aqDrain s) := by
  unfold State.aqDrain
  repeat' first
    | with_reducible assumption
    | intro _
    | with_reducible apply Keeps.ite
    | (lift_lets; intro _)
    | split
    | dsimp only
    | fail_if_no_progress with_reducible apply Keeps.upd
    | dsimp +zetaDelta only

theorem State.aqCtl_keeps {r0 : State} (s : State) (m : Nat) (en : Bool) (dis : Bool) (rst : Bool) (kp : Keeps r0 s) :
    Keeps r0 (State.aqCtl s m en dis rst) := by
  unfold State.aqCtl
  repeat' first
    | with_reducible assumption
    | intro _
    | with_reducible apply State.accFault_keeps
    | with_reducible apply State.aqDrain_keeps
    | with_reducible apply State.aqKick_keeps
    | with_reducible apply Keeps.ite
    | (lift_lets; intro _)
    | split
    | dsimp only
    | fail_if_no_progress with_reducible apply Keeps.upd
    | dsimp +zetaDelta only

theorem execAqEnable_keeps {r0 sT : State} (m : Nat) (s : State) (kp : Keeps r0 s)
    (e : execAqEnable m s = .next sT) : Keeps r0 sT := by
  unfold execAqEnable at e
  rw [← Host.Outcome.next.inj e]
  repeat' first
    | with_reducible assumption
    | intro _
    | with_reducible apply State.access_keeps
    | with_reducible apply State.aqCtl_keeps
    | with_reducible apply Keeps.ite
    | (lift_lets; intro _)
    | split
    | dsimp only
    | fail_if_no_progress with_reducible apply Keeps.upd
    | dsimp +zetaDelta only

theorem execAqDisable_keeps {r0 sT : State} (m : Nat) (s : State) (kp : Keeps r0 s)
    (e : execAqDisable m s = .next sT) : Keeps r0 sT := by
  unfold execAqDisable at e
  rw [← Host.Outcome.next.inj e]
  repeat' first
    | with_reducible assumption
    | intro _
    | with_reducible apply State.access_keeps
    | with_reducible apply State.aqCtl_keeps
    | with_reducible apply Keeps.ite
    | (lift_lets; intro _)
    | split
    | dsimp only
    | fail_if_no_progress with_reducible apply Keeps.upd
    | dsimp +zetaDelta only

theorem execAqRestart_keeps {r0 sT : State} (m : Nat) (s : State) (kp : Keeps r0 s)
    (e : execAqRestart m s = .next sT) : Keeps r0 sT := by
  unfold execAqRestart at e
  rw [← Host.Outcome.next.inj e]
  repeat' first
    | with_reducible assumption
    | intro _
    | with_reducible apply State.access_keeps
    | with_reducible apply State.aqCtl_keeps
    | with_reducible apply Keeps.ite
    | (lift_lets; intro _)
    | split
    | dsimp only
    | fail_if_no_progress with_reducible apply Keeps.upd
    | dsimp +zetaDelta only

theorem State.packetRead_keeps {r0 : State} (s : State) (words : List Word32) (kp : Keeps r0 s) :
    Keeps r0 (State.packetRead s words) := by
  unfold State.packetRead
  repeat' first
    | with_reducible assumption
    | intro _
    | refine State.endReadAny_of ?_ (by with_reducible assumption)
    | with_reducible apply State.aqKick_keeps
    | with_reducible apply Keeps.ite
    | (lift_lets; intro _)
    | split
    | dsimp only
    | fail_if_no_progress with_reducible apply Keeps.upd
    | dsimp +zetaDelta only

theorem execAdminPacketRead_keeps {r0 sT : State} (words : List Word32) (s : State) (kp : Keeps r0 s)
    (e : execAdminPacketRead words s = .next sT) : Keeps r0 sT := by
  unfold execAdminPacketRead at e
  rw [← Host.Outcome.next.inj e]
  repeat' first
    | with_reducible assumption
    | intro _
    | with_reducible apply State.packetRead_keeps
    | with_reducible apply Keeps.ite
    | (lift_lets; intro _)
    | split
    | dsimp only
    | fail_if_no_progress with_reducible apply Keeps.upd
    | dsimp +zetaDelta only

theorem State.onAdmin_keeps {r0 : State} (s : State) (p : AdmCmd → Bool) (k : State → AdmCmd → State) (hk : ∀ t a1, Keeps r0 t → Keeps r0 (k t a1)) (kp : Keeps r0 s) :
    Keeps r0 (State.onAdmin s p k) := by
  unfold State.onAdmin
  repeat' first
    | with_reducible assumption
    | intro _
    | with_reducible apply hk
    | with_reducible apply State.aqKick_keeps
    | with_reducible apply State.replyAdm_keeps
    | with_reducible apply Keeps.ite
    | (lift_lets; intro _)
    | split
    | dsimp only
    | fail_if_no_progress with_reducible apply Keeps.upd
    | dsimp +zetaDelta only

theorem State.onAdminData_keeps {r0 : State} (s : State) (p : AdmCmd → Bool) (k : State → AdmCmd → State) (hk : ∀ t a1, Keeps r0 t → Keeps r0 (k t a1)) (kp : Keeps r0 s) :
    Keeps r0 (State.onAdminData s p k) := by
  unfold State.onAdminData
  repeat' first
    | with_reducible assumption
    | intro _
    | with_reducible apply hk
    | with_reducible apply State.onAdmin_keeps
    | refine State.endReadAny_of ?_ (by with_reducible assumption)
    | with_reducible apply Keeps.ite
    | (lift_lets; intro _)
    | split
    | dsimp only
    | fail_if_no_progress with_reducible apply Keeps.upd
    | dsimp +zetaDelta only

theorem execIdentify_keeps {r0 sT : State} (s : State) (kp : Keeps r0 s)
    (e : execIdentify s = .next sT) : Keeps r0 sT := by
  unfold execIdentify at e
  rw [← Host.Outcome.next.inj e]
  repeat' first
    | with_reducible assumption
    | intro _
    | with_reducible apply State.onAdmin_keeps
    | with_reducible apply State.replyOk_keeps
    | with_reducible apply Keeps.ite
    | (lift_lets; intro _)
    | split
    | dsimp only
    | fail_if_no_progress with_reducible apply Keeps.upd
    | dsimp +zetaDelta only

theorem execGetFeatures_keeps {r0 sT : State} (s : State) (kp : Keeps r0 s)
    (e : execGetFeatures s = .next sT) : Keeps r0 sT := by
  unfold execGetFeatures at e
  rw [← Host.Outcome.next.inj e]
  repeat' first
    | with_reducible assumption
    | intro _
    | with_reducible apply State.onAdmin_keeps
    | with_reducible apply State.replyOk_keeps
    | with_reducible apply Keeps.ite
    | (lift_lets; intro _)
    | split
    | dsimp only
    | fail_if_no_progress with_reducible apply Keeps.upd
    | dsimp +zetaDelta only

theorem execSetAttach_keeps {r0 sT : State} (s : State) (kp : Keeps r0 s)
    (e : execSetAttach s = .next sT) : Keeps r0 sT := by
  unfold execSetAttach at e
  rw [← Host.Outcome.next.inj e]
  repeat' first
    | with_reducible assumption
    | intro _
    | with_reducible apply State.onAdmin_keeps
    | with_reducible apply State.replyOk_keeps
    | with_reducible apply Keeps.ite
    | (lift_lets; intro _)
    | split
    | dsimp only
    | fail_if_no_progress with_reducible apply Keeps.upd
    | dsimp +zetaDelta only

theorem execQueueQuery_keeps {r0 sT : State} (s : State) (kp : Keeps r0 s)
    (e : execQueueQuery s = .next sT) : Keeps r0 sT := by
  unfold execQueueQuery at e
  rw [← Host.Outcome.next.inj e]
  repeat' first
    | with_reducible assumption
    | intro _
    | with_reducible apply State.onAdmin_keeps
    | with_reducible apply State.replyOk_keeps
    | with_reducible apply Keeps.ite
    | (lift_lets; intro _)
    | split
    | dsimp only
    | fail_if_no_progress with_reducible apply Keeps.upd
    | dsimp +zetaDelta only

theorem execBindChannel_keeps {r0 sT : State} (s : State) (kp : Keeps r0 s)
    (e : execBindChannel s = .next sT) : Keeps r0 sT := by
  unfold execBindChannel at e
  rw [← Host.Outcome.next.inj e]
  repeat' first
    | with_reducible assumption
    | intro _
    | with_reducible apply State.onAdmin_keeps
    | with_reducible apply State.bindChannel_keeps
    | with_reducible apply Keeps.ite
    | (lift_lets; intro _)
    | split
    | dsimp only
    | fail_if_no_progress with_reducible apply Keeps.upd
    | dsimp +zetaDelta only

theorem execUnbindChannel_keeps {r0 sT : State} (s : State) (kp : Keeps r0 s)
    (e : execUnbindChannel s = .next sT) : Keeps r0 sT := by
  unfold execUnbindChannel at e
  rw [← Host.Outcome.next.inj e]
  repeat' first
    | with_reducible assumption
    | intro _
    | with_reducible apply State.onAdmin_keeps
    | with_reducible apply State.unbindChannel_keeps
    | with_reducible apply Keeps.ite
    | (lift_lets; intro _)
    | split
    | dsimp only
    | fail_if_no_progress with_reducible apply Keeps.upd
    | dsimp +zetaDelta only

theorem execRoutineLoad_keeps {r0 sT : State} (code : List Word) (s : State) (kp : Keeps r0 s)
    (e : execRoutineLoad code s = .next sT) : Keeps r0 sT := by
  unfold execRoutineLoad at e
  rw [← Host.Outcome.next.inj e]
  repeat' first
    | with_reducible assumption
    | intro _
    | with_reducible apply State.onAdminData_keeps
    | with_reducible apply State.routineLoad_keeps
    | with_reducible apply Keeps.ite
    | (lift_lets; intro _)
    | split
    | dsimp only
    | fail_if_no_progress with_reducible apply Keeps.upd
    | dsimp +zetaDelta only

theorem execHandlerSetLoad_keeps {r0 sT : State} (code : List Word) (s : State) (kp : Keeps r0 s)
    (e : execHandlerSetLoad code s = .next sT) : Keeps r0 sT := by
  unfold execHandlerSetLoad at e
  rw [← Host.Outcome.next.inj e]
  repeat' first
    | with_reducible assumption
    | intro _
    | with_reducible apply State.onAdminData_keeps
    | with_reducible apply State.handlerLoad_keeps
    | with_reducible apply Keeps.ite
    | (lift_lets; intro _)
    | split
    | dsimp only
    | fail_if_no_progress with_reducible apply Keeps.upd
    | dsimp +zetaDelta only

theorem execRoutineUnload_keeps {r0 sT : State} (s : State) (kp : Keeps r0 s)
    (e : execRoutineUnload s = .next sT) : Keeps r0 sT := by
  unfold execRoutineUnload at e
  rw [← Host.Outcome.next.inj e]
  repeat' first
    | with_reducible assumption
    | intro _
    | with_reducible apply State.onAdmin_keeps
    | with_reducible apply State.routineUnload_keeps
    | with_reducible apply Keeps.ite
    | (lift_lets; intro _)
    | split
    | dsimp only
    | fail_if_no_progress with_reducible apply Keeps.upd
    | dsimp +zetaDelta only

theorem execBudgetCommit_keeps {r0 sT : State} (s : State) (kp : Keeps r0 s)
    (e : execBudgetCommit s = .next sT) : Keeps r0 sT := by
  unfold execBudgetCommit at e
  rw [← Host.Outcome.next.inj e]
  repeat' first
    | with_reducible assumption
    | intro _
    | with_reducible apply State.onAdmin_keeps
    | with_reducible apply State.budgetCommit_keeps
    | with_reducible apply Keeps.ite
    | (lift_lets; intro _)
    | split
    | dsimp only
    | fail_if_no_progress with_reducible apply Keeps.upd
    | dsimp +zetaDelta only

theorem execLatFloor_keeps {r0 sT : State} (s : State) (kp : Keeps r0 s)
    (e : execLatFloor s = .next sT) : Keeps r0 sT := by
  unfold execLatFloor at e
  rw [← Host.Outcome.next.inj e]
  repeat' first
    | with_reducible assumption
    | intro _
    | with_reducible apply State.onAdmin_keeps
    | with_reducible apply State.commitLater_keeps
    | with_reducible apply Keeps.ite
    | (lift_lets; intro _)
    | split
    | dsimp only
    | fail_if_no_progress with_reducible apply Keeps.upd
    | dsimp +zetaDelta only

theorem execPortCommit_keeps {r0 sT : State} (s : State) (kp : Keeps r0 s)
    (e : execPortCommit s = .next sT) : Keeps r0 sT := by
  unfold execPortCommit at e
  rw [← Host.Outcome.next.inj e]
  repeat' first
    | with_reducible assumption
    | intro _
    | with_reducible apply State.onAdmin_keeps
    | with_reducible apply State.portCommit_keeps
    | with_reducible apply Keeps.ite
    | (lift_lets; intro _)
    | split
    | dsimp only
    | fail_if_no_progress with_reducible apply Keeps.upd
    | dsimp +zetaDelta only

theorem execCalibrateMeasure_keeps {r0 sT : State} (block : List Byte) (s : State) (kp : Keeps r0 s)
    (e : execCalibrateMeasure block s = .next sT) : Keeps r0 sT := by
  unfold execCalibrateMeasure at e
  rw [← Host.Outcome.next.inj e]
  repeat' first
    | with_reducible assumption
    | intro _
    | with_reducible apply State.onAdmin_keeps
    | with_reducible apply State.replyBad_keeps
    | with_reducible apply State.replyOk_keeps
    | with_reducible apply State.updPort_keeps
    | with_reducible apply Keeps.ite
    | (lift_lets; intro _)
    | split
    | dsimp only
    | fail_if_no_progress with_reducible apply Keeps.upd
    | dsimp +zetaDelta only

theorem execCalibrateLoad_keeps {r0 sT : State} (block : List Byte) (s : State) (kp : Keeps r0 s)
    (e : execCalibrateLoad block s = .next sT) : Keeps r0 sT := by
  unfold execCalibrateLoad at e
  rw [← Host.Outcome.next.inj e]
  repeat' first
    | with_reducible assumption
    | intro _
    | with_reducible apply State.onAdminData_keeps
    | with_reducible apply State.commitLater_keeps
    | with_reducible apply State.replyAdm_keeps
    | with_reducible apply Keeps.ite
    | (lift_lets; intro _)
    | split
    | dsimp only
    | fail_if_no_progress with_reducible apply Keeps.upd
    | dsimp +zetaDelta only

theorem execCalibrateRead_keeps {r0 sT : State} (s : State) (kp : Keeps r0 s)
    (e : execCalibrateRead s = .next sT) : Keeps r0 sT := by
  unfold execCalibrateRead at e
  rw [← Host.Outcome.next.inj e]
  repeat' first
    | with_reducible assumption
    | intro _
    | with_reducible apply State.onAdmin_keeps
    | with_reducible apply State.replyOk_keeps
    | with_reducible apply State.writeHost_keeps
    | with_reducible apply Keeps.ite
    | (lift_lets; intro _)
    | split
    | dsimp only
    | fail_if_no_progress with_reducible apply Keeps.upd
    | dsimp +zetaDelta only

theorem execCalibrateStore_keeps {r0 sT : State} (s : State) (kp : Keeps r0 s)
    (e : execCalibrateStore s = .next sT) : Keeps r0 sT := by
  unfold execCalibrateStore at e
  rw [← Host.Outcome.next.inj e]
  repeat' first
    | with_reducible assumption
    | intro _
    | with_reducible apply State.onAdmin_keeps
    | with_reducible apply State.replyOk_keeps
    | with_reducible apply State.updPort_keeps
    | with_reducible apply Keeps.ite
    | (lift_lets; intro _)
    | split
    | dsimp only
    | fail_if_no_progress with_reducible apply Keeps.upd
    | dsimp +zetaDelta only

theorem State.fwStage_keeps {r0 : State} (s : State) (c : AdmCmd) (bytes : List Byte) (kp : Keeps r0 s) :
    Keeps r0 (State.fwStage s c bytes) := by
  unfold State.fwStage
  repeat' first
    | with_reducible assumption
    | intro _
    | with_reducible apply State.replyBad_keeps
    | with_reducible apply State.noteVersions_keeps
    | with_reducible apply State.store_keeps
    | with_reducible apply State.replyOk_keeps
    | with_reducible apply Keeps.ite
    | (lift_lets; intro _)
    | split
    | dsimp only
    | fail_if_no_progress with_reducible apply Keeps.upd
    | dsimp +zetaDelta only

theorem execFwStage_keeps {r0 sT : State} (bytes : List Byte) (s : State) (kp : Keeps r0 s)
    (e : execFwStage bytes s = .next sT) : Keeps r0 sT := by
  unfold execFwStage at e
  rw [← Host.Outcome.next.inj e]
  repeat' first
    | with_reducible assumption
    | intro _
    | with_reducible apply State.onAdminData_keeps
    | with_reducible apply State.fwStage_keeps
    | with_reducible apply Keeps.ite
    | (lift_lets; intro _)
    | split
    | dsimp only
    | fail_if_no_progress with_reducible apply Keeps.upd
    | dsimp +zetaDelta only

theorem execFwVerify_keeps {r0 sT : State} (s : State) (kp : Keeps r0 s)
    (e : execFwVerify s = .next sT) : Keeps r0 sT := by
  unfold execFwVerify at e
  rw [← Host.Outcome.next.inj e]
  repeat' first
    | with_reducible assumption
    | intro _
    | with_reducible apply State.onAdmin_keeps
    | with_reducible apply State.replyOk_keeps
    | with_reducible apply State.journalFw_keeps
    | with_reducible apply State.replyBad_keeps
    | with_reducible apply Keeps.ite
    | (lift_lets; intro _)
    | split
    | dsimp only
    | fail_if_no_progress with_reducible apply Keeps.upd
    | dsimp +zetaDelta only

theorem execFwActivate_keeps {r0 sT : State} (s : State) (kp : Keeps r0 s)
    (e : execFwActivate s = .next sT) : Keeps r0 sT := by
  unfold execFwActivate at e
  rw [← Host.Outcome.next.inj e]
  repeat' first
    | with_reducible assumption
    | intro _
    | with_reducible apply State.onAdmin_keeps
    | with_reducible apply State.replyBad_keeps
    | with_reducible apply State.replyOk_keeps
    | with_reducible apply State.journalFw_keeps
    | with_reducible apply Keeps.ite
    | (lift_lets; intro _)
    | split
    | dsimp only
    | fail_if_no_progress with_reducible apply Keeps.upd
    | dsimp +zetaDelta only

theorem execFwActivateLive_keeps {r0 sT : State} (s : State) (kp : Keeps r0 s)
    (e : execFwActivateLive s = .next sT) : Keeps r0 sT := by
  unfold execFwActivateLive at e
  rw [← Host.Outcome.next.inj e]
  repeat' first
    | with_reducible assumption
    | intro _
    | with_reducible apply State.onAdmin_keeps
    | with_reducible apply State.fwLive_keeps
    | with_reducible apply Keeps.ite
    | (lift_lets; intro _)
    | split
    | dsimp only
    | fail_if_no_progress with_reducible apply Keeps.upd
    | dsimp +zetaDelta only

theorem execFwConfirm_keeps {r0 sT : State} (s : State) (kp : Keeps r0 s)
    (e : execFwConfirm s = .next sT) : Keeps r0 sT := by
  unfold execFwConfirm at e
  rw [← Host.Outcome.next.inj e]
  repeat' first
    | with_reducible assumption
    | intro _
    | with_reducible apply State.onAdmin_keeps
    | with_reducible apply State.replyOk_keeps
    | with_reducible apply State.journalFw_keeps
    | with_reducible apply Keeps.ite
    | (lift_lets; intro _)
    | split
    | dsimp only
    | fail_if_no_progress with_reducible apply Keeps.upd
    | dsimp +zetaDelta only

theorem execJournalRead_keeps {r0 sT : State} (s : State) (kp : Keeps r0 s)
    (e : execJournalRead s = .next sT) : Keeps r0 sT := by
  unfold execJournalRead at e
  rw [← Host.Outcome.next.inj e]
  repeat' first
    | with_reducible assumption
    | intro _
    | with_reducible apply State.onAdmin_keeps
    | with_reducible apply State.journalRead_keeps
    | with_reducible apply Keeps.ite
    | (lift_lets; intro _)
    | split
    | dsimp only
    | fail_if_no_progress with_reducible apply Keeps.upd
    | dsimp +zetaDelta only

theorem execSleepNotice_keeps {r0 sT : State} (s : State) (kp : Keeps r0 s)
    (e : execSleepNotice s = .next sT) : Keeps r0 sT := by
  unfold execSleepNotice at e
  rw [← Host.Outcome.next.inj e]
  repeat' first
    | with_reducible assumption
    | intro _
    | with_reducible apply State.onAdmin_keeps
    | with_reducible apply State.replyOk_keeps
    | with_reducible apply State.flushModule_keeps
    | with_reducible apply Keeps.ite
    | (lift_lets; intro _)
    | split
    | dsimp only
    | fail_if_no_progress with_reducible apply Keeps.upd
    | dsimp +zetaDelta only

theorem execPairStatus_keeps {r0 sT : State} (s : State) (kp : Keeps r0 s)
    (e : execPairStatus s = .next sT) : Keeps r0 sT := by
  unfold execPairStatus at e
  rw [← Host.Outcome.next.inj e]
  repeat' first
    | with_reducible assumption
    | intro _
    | with_reducible apply State.onAdmin_keeps
    | with_reducible apply State.replyOk_keeps
    | with_reducible apply Keeps.ite
    | (lift_lets; intro _)
    | split
    | dsimp only
    | fail_if_no_progress with_reducible apply Keeps.upd
    | dsimp +zetaDelta only

theorem State.pairJoin_keeps {r0 : State} (s : State) (c : AdmCmd) (kp : Keeps r0 s) :
    Keeps r0 (State.pairJoin s c) := by
  unfold State.pairJoin
  repeat' first
    | with_reducible assumption
    | intro _
    | with_reducible apply State.replyBad_keeps
    | with_reducible apply State.admWaits_keeps
    | with_reducible apply State.dsSend_keeps
    | with_reducible apply Keeps.ite
    | (lift_lets; intro _)
    | split
    | dsimp only
    | fail_if_no_progress with_reducible apply Keeps.upd
    | dsimp +zetaDelta only

theorem execPairJoin_keeps {r0 sT : State} (s : State) (kp : Keeps r0 s)
    (e : execPairJoin s = .next sT) : Keeps r0 sT := by
  unfold execPairJoin at e
  rw [← Host.Outcome.next.inj e]
  repeat' first
    | with_reducible assumption
    | intro _
    | with_reducible apply State.onAdmin_keeps
    | with_reducible apply State.pairJoin_keeps
    | with_reducible apply Keeps.ite
    | (lift_lets; intro _)
    | split
    | dsimp only
    | fail_if_no_progress with_reducible apply Keeps.upd
    | dsimp +zetaDelta only

theorem execPairHandover_keeps {r0 sT : State} (s : State) (kp : Keeps r0 s)
    (e : execPairHandover s = .next sT) : Keeps r0 sT := by
  unfold execPairHandover at e
  rw [← Host.Outcome.next.inj e]
  repeat' first
    | with_reducible assumption
    | intro _
    | with_reducible apply State.onAdmin_keeps
    | with_reducible apply State.replyBad_keeps
    | with_reducible apply State.admWaits_keeps
    | with_reducible apply Keeps.ite
    | (lift_lets; intro _)
    | split
    | dsimp only
    | fail_if_no_progress with_reducible apply Keeps.upd
    | dsimp +zetaDelta only

theorem execPairLeave_keeps {r0 sT : State} (s : State) (kp : Keeps r0 s)
    (e : execPairLeave s = .next sT) : Keeps r0 sT := by
  unfold execPairLeave at e
  rw [← Host.Outcome.next.inj e]
  repeat' first
    | with_reducible assumption
    | intro _
    | with_reducible apply State.onAdmin_keeps
    | with_reducible apply State.commitLater_keeps
    | with_reducible apply State.replyBad_keeps
    | with_reducible apply Keeps.ite
    | (lift_lets; intro _)
    | split
    | dsimp only
    | fail_if_no_progress with_reducible apply Keeps.upd
    | dsimp +zetaDelta only

theorem execKmdNode_keeps {r0 sT : State} (s : State) (kp : Keeps r0 s)
    (e : execKmdNode s = .next sT) : Keeps r0 sT := by
  unfold execKmdNode at e
  rw [← Host.Outcome.next.inj e]
  repeat' first
    | with_reducible assumption
    | intro _
    | with_reducible apply State.onAdmin_keeps
    | with_reducible apply State.replyBad_keeps
    | with_reducible apply State.replyOk_keeps
    | with_reducible apply Keeps.ite
    | (lift_lets; intro _)
    | split
    | dsimp only
    | fail_if_no_progress with_reducible apply Keeps.upd
    | dsimp +zetaDelta only

theorem execKmdKeySet_keeps {r0 sT : State} (s : State) (kp : Keeps r0 s)
    (e : execKmdKeySet s = .next sT) : Keeps r0 sT := by
  unfold execKmdKeySet at e
  rw [← Host.Outcome.next.inj e]
  repeat' first
    | with_reducible assumption
    | intro _
    | with_reducible apply State.onAdmin_keeps
    | with_reducible apply State.keySet_keeps
    | with_reducible apply Keeps.ite
    | (lift_lets; intro _)
    | split
    | dsimp only
    | fail_if_no_progress with_reducible apply Keeps.upd
    | dsimp +zetaDelta only

theorem execKmdKeyRetire_keeps {r0 sT : State} (s : State) (kp : Keeps r0 s)
    (e : execKmdKeyRetire s = .next sT) : Keeps r0 sT := by
  unfold execKmdKeyRetire at e
  rw [← Host.Outcome.next.inj e]
  repeat' first
    | with_reducible assumption
    | intro _
    | with_reducible apply State.onAdmin_keeps
    | with_reducible apply State.keyRetire_keeps
    | with_reducible apply Keeps.ite
    | (lift_lets; intro _)
    | split
    | dsimp only
    | fail_if_no_progress with_reducible apply Keeps.upd
    | dsimp +zetaDelta only

theorem execKmdRole_keeps {r0 sT : State} (s : State) (kp : Keeps r0 s)
    (e : execKmdRole s = .next sT) : Keeps r0 sT := by
  unfold execKmdRole at e
  rw [← Host.Outcome.next.inj e]
  repeat' first
    | with_reducible assumption
    | intro _
    | with_reducible apply State.onAdmin_keeps
    | with_reducible apply State.kmdRole_keeps
    | with_reducible apply Keeps.ite
    | (lift_lets; intro _)
    | split
    | dsimp only
    | fail_if_no_progress with_reducible apply Keeps.upd
    | dsimp +zetaDelta only

end Sys2Proof.Machine
end

