-- ==== Sys2Proof/Laws/KeepsLoadOps.lean ====
section
/-! SUPPORT. The operations of Machine/LoadOps.lean keep the queue of commands and the form of the memory. -/

namespace Sys2Proof.Machine
open Sys2Proof

theorem State.loadLib_keeps {r0 : State} (s : State) (core : Nat) (kp : Keeps r0 s) :
    Keeps r0 (State.loadLib s core) := by
  unfold State.loadLib
  repeat' first
    | with_reducible assumption
    | intro _
    | with_reducible apply State.each_keeps
    | with_reducible apply State.clear_keeps
    | with_reducible apply State.store_keeps
    | with_reducible apply State.writeHandlers_keeps
    | with_reducible apply Keeps.ite
    | (lift_lets; intro _)
    | split
    | dsimp only
    | fail_if_no_progress with_reducible apply Keeps.upd
    | dsimp +zetaDelta only

theorem State.loadSuper_keeps {r0 : State} (s : State) (core : Nat) (kp : Keeps r0 s) :
    Keeps r0 (State.loadSuper s core) := by
  unfold State.loadSuper
  repeat' first
    | with_reducible assumption
    | intro _
    | with_reducible apply State.store_keeps
    | with_reducible apply Keeps.ite
    | (lift_lets; intro _)
    | split
    | dsimp only
    | fail_if_no_progress with_reducible apply Keeps.upd
    | dsimp +zetaDelta only

theorem State.startSuper_keeps {r0 : State} (s : State) (core : Nat) (kp : Keeps r0 s) :
    Keeps r0 (State.startSuper s core) := by
  unfold State.startSuper
  repeat' first
    | with_reducible assumption
    | intro _
    | with_reducible apply State.setCtx_keeps
    | with_reducible apply Keeps.ite
    | (lift_lets; intro _)
    | split
    | dsimp only
    | fail_if_no_progress with_reducible apply Keeps.upd
    | dsimp +zetaDelta only

theorem State.openWords_keeps {r0 : State} (s : State) (base : Nat) (n : Nat) (kp : Keeps r0 s) :
    Keeps r0 (State.openWords s base n) := by
  unfold State.openWords
  repeat' first
    | with_reducible assumption
    | intro _
    | with_reducible apply State.store_keeps
    | with_reducible apply Keeps.ite
    | (lift_lets; intro _)
    | split
    | dsimp only
    | fail_if_no_progress with_reducible apply Keeps.upd
    | dsimp +zetaDelta only

theorem State.freshCtxs_keeps {r0 : State} (s : State) (core : Nat) (kp : Keeps r0 s) :
    Keeps r0 (State.freshCtxs s core) := by
  unfold State.freshCtxs
  repeat' first
    | with_reducible assumption
    | intro _
    | with_reducible apply State.startSuper_keeps
    | with_reducible apply State.updCore_keeps
    | with_reducible apply Keeps.ite
    | (lift_lets; intro _)
    | split
    | dsimp only
    | fail_if_no_progress with_reducible apply Keeps.upd
    | dsimp +zetaDelta only

end Sys2Proof.Machine
end

