-- ==== Sys2Proof/Laws/KeepsResetOps.lean ====
section
/-! SUPPORT. The operations of Machine/ResetOps.lean keep the queue of commands and the form of the memory. -/

namespace Sys2Proof.Machine
open Sys2Proof

theorem State.reinit_keeps {r0 : State} (s : State) (warm : Bool) (kp : Keeps r0 s) :
    Keeps r0 (State.reinit s warm) := by
  unfold State.reinit
  repeat' first
    | with_reducible assumption
    | intro _
    | with_reducible apply Keeps.ite
    | (lift_lets; intro _)
    | split
    | dsimp only
    | fail_if_no_progress with_reducible apply Keeps.upd
    | fail_if_no_progress with_reducible apply Keeps.updFilter
    | dsimp +zetaDelta only

theorem State.enterReset_keeps {r0 : State} (s : State) (due : Nat) (kp : Keeps r0 s) :
    Keeps r0 (State.enterReset s due) := by
  unfold State.enterReset
  repeat' first
    | with_reducible assumption
    | intro _
    | with_reducible apply State.reinit_keeps
    | with_reducible apply Keeps.ite
    | (lift_lets; intro _)
    | split
    | dsimp only
    | fail_if_no_progress with_reducible apply Keeps.upd
    | fail_if_no_progress with_reducible apply Keeps.updFilter
    | dsimp +zetaDelta only

end Sys2Proof.Machine
end

