-- ==== Sys2Proof/Laws/KeepsPowerOps.lean ====
section
/-! SUPPORT. The operations of Machine/PowerOps.lean keep the queue of commands and the form of the memory. -/

namespace Sys2Proof.Machine
open Sys2Proof

theorem State.takeParked_of {r0 s t : State} {d home n : Nat} {l : List Nat} (h : Keeps r0 s)
    (e : s.takeParked d home n = some (l, t)) : Keeps r0 t := by
  induction n generalizing s l with
  | zero => cases e; exact h
  | succ n ih =>
    unfold State.takeParked at e
    split at e
    · cases e
    · split at e
      · cases e
      · rename_i g2
        cases e
        exact ih (Keeps.upd (State.setCell_keeps _ _ _ _ h)) g2

theorem State.layParked_keeps {r0 : State} (s : State) (cells : List Nat) (l : List Byte) (h : Keeps r0 s) :
    Keeps r0 (s.layParked cells l) := by
  induction cells generalizing s l with
  | nil => exact h
  | cons k r ih =>
    unfold State.layParked
    repeat' first
      | with_reducible assumption
      | with_reducible apply ih
      | with_reducible apply State.store_keeps
      | dsimp only

theorem State.parkDom_of {r0 s t : State} {d : Nat} (h : Keeps r0 s) (e : s.parkDom d = some t) : Keeps r0 t := by
  unfold State.parkDom at e
  try dsimp only at e
  repeat' split at e
  all_goals first
    | exact State.takeParked_of h e
    | cases e
  all_goals repeat' first
    | with_reducible assumption
    | refine State.takeParked_of ?_ (by with_reducible assumption)
    | with_reducible apply State.layParked_keeps
    | with_reducible apply State.updDom_keeps
    | intro _
    | split
    | dsimp only
    | fail_if_no_progress with_reducible apply Keeps.upd

theorem State.restDom_keeps {r0 : State} (s : State) (d : Nat) (kp : Keeps r0 s) :
    Keeps r0 (State.restDom s d) := by
  unfold State.restDom
  repeat' first
    | with_reducible assumption
    | intro _
    | refine State.parkDom_of ?_ (by with_reducible assumption)
    | with_reducible apply State.updDom_keeps
    | with_reducible apply Keeps.ite
    | (lift_lets; intro _)
    | split
    | dsimp only
    | fail_if_no_progress with_reducible apply Keeps.upd
    | fail_if_no_progress with_reducible apply Keeps.updFilter
    | dsimp +zetaDelta only

theorem State.restoreCore_keeps {r0 : State} (s : State) (core : Nat) (cells : List Nat) (kp : Keeps r0 s) :
    Keeps r0 (State.restoreCore s core cells) := by
  unfold State.restoreCore
  repeat' first
    | with_reducible assumption
    | intro _
    | with_reducible apply State.store_keeps
    | with_reducible apply State.loadSuper_keeps
    | with_reducible apply State.loadLib_keeps
    | with_reducible apply Keeps.ite
    | (lift_lets; intro _)
    | split
    | dsimp only
    | fail_if_no_progress with_reducible apply Keeps.upd
    | fail_if_no_progress with_reducible apply Keeps.updFilter
    | dsimp +zetaDelta only

theorem State.wakeDone_keeps {r0 : State} (s : State) (d : Nat) (kp : Keeps r0 s) :
    Keeps r0 (State.wakeDone s d) := by
  unfold State.wakeDone
  repeat' first
    | with_reducible assumption
    | intro _
    | with_reducible apply State.restoreCore_keeps
    | with_reducible apply State.served_keeps
    | with_reducible apply State.updDom_keeps
    | with_reducible apply State.each_keeps
    | with_reducible apply State.freeOne_keeps
    | with_reducible apply Keeps.ite
    | (lift_lets; intro _)
    | split
    | dsimp only
    | fail_if_no_progress with_reducible apply Keeps.upd
    | fail_if_no_progress with_reducible apply Keeps.updFilter
    | dsimp +zetaDelta only

theorem State.wakeL4_keeps {r0 : State} (s : State) (cause : Nat) (pin : Bool) (kp : Keeps r0 s) :
    Keeps r0 (State.wakeL4 s cause pin) := by
  unfold State.wakeL4
  repeat' first
    | with_reducible assumption
    | intro _
    | with_reducible apply State.noteWake_keeps
    | with_reducible apply Keeps.ite
    | (lift_lets; intro _)
    | split
    | dsimp only
    | fail_if_no_progress with_reducible apply Keeps.upd
    | fail_if_no_progress with_reducible apply Keeps.updFilter
    | dsimp +zetaDelta only

theorem State.loseHawk_keeps {r0 : State} (s : State) (kp : Keeps r0 s) :
    Keeps r0 (State.loseHawk s) := by
  unfold State.loseHawk
  repeat' first
    | with_reducible assumption
    | intro _
    | with_reducible apply State.each_keeps
    | with_reducible apply State.setLine_keeps
    | with_reducible apply Keeps.ite
    | (lift_lets; intro _)
    | split
    | dsimp only
    | fail_if_no_progress with_reducible apply Keeps.upd
    | fail_if_no_progress with_reducible apply Keeps.updFilter
    | dsimp +zetaDelta only

theorem State.l4Exit_keeps {r0 : State} (s : State) (elapsed : Nat) (kp : Keeps r0 s) :
    Keeps r0 (State.l4Exit s elapsed) := by
  unfold State.l4Exit
  repeat' first
    | with_reducible assumption
    | intro _
    | with_reducible apply State.each_keeps
    | with_reducible apply State.freeOne_keeps
    | with_reducible apply State.loseHawk_keeps
    | with_reducible apply State.loadSuper_keeps
    | with_reducible apply State.loadLib_keeps
    | with_reducible apply State.pulse_keeps
    | with_reducible apply Keeps.ite
    | (lift_lets; intro _)
    | split
    | dsimp only
    | fail_if_no_progress with_reducible apply Keeps.upd
    | fail_if_no_progress with_reducible apply Keeps.updFilter
    | dsimp +zetaDelta only

end Sys2Proof.Machine
end

