-- ==== Sys2Proof/Laws/KeepsPowers.lean ====
section
/-! SUPPORT. The operations of Machine/Powers.lean keep the queue of commands and the form of the memory. -/

namespace Sys2Proof.Machine
open Sys2Proof

theorem execDomainIdleExpiry_keeps {r0 sT : State} (d : Nat) (s : State) (kp : Keeps r0 s)
    (e : execDomainIdleExpiry d s = .next sT) : Keeps r0 sT := by
  unfold execDomainIdleExpiry at e
  rw [← Host.Outcome.next.inj e]
  repeat' first
    | with_reducible assumption
    | intro _
    | with_reducible apply State.restDom_keeps
    | with_reducible apply Keeps.ite
    | (lift_lets; intro _)
    | split
    | dsimp only
    | fail_if_no_progress with_reducible apply Keeps.upd
    | dsimp +zetaDelta only

theorem execWakeRequest_keeps {r0 sT : State} (d : Nat) (cause : BitVec 4) (s : State) (kp : Keeps r0 s)
    (e : execWakeRequest d cause s = .next sT) : Keeps r0 sT := by
  unfold execWakeRequest at e
  rw [← Host.Outcome.next.inj e]
  repeat' first
    | with_reducible assumption
    | intro _
    | with_reducible apply State.wakeDomain_keeps
    | with_reducible apply Keeps.ite
    | (lift_lets; intro _)
    | split
    | dsimp only
    | fail_if_no_progress with_reducible apply Keeps.upd
    | dsimp +zetaDelta only

theorem execDomainWakeComplete_keeps {r0 sT : State} (d : Nat) (s : State) (kp : Keeps r0 s)
    (e : execDomainWakeComplete d s = .next sT) : Keeps r0 sT := by
  unfold execDomainWakeComplete at e
  rw [← Host.Outcome.next.inj e]
  repeat' first
    | with_reducible assumption
    | intro _
    | with_reducible apply State.wakeDone_keeps
    | with_reducible apply Keeps.ite
    | (lift_lets; intro _)
    | split
    | dsimp only
    | fail_if_no_progress with_reducible apply Keeps.upd
    | dsimp +zetaDelta only

theorem execL4Entry_keeps {r0 sT : State} (s : State) (kp : Keeps r0 s)
    (e : execL4Entry s = .next sT) : Keeps r0 sT := by
  unfold execL4Entry at e
  rw [← Host.Outcome.next.inj e]
  repeat' first
    | with_reducible assumption
    | intro _
    | with_reducible apply State.flushJournal_keeps
    | with_reducible apply Keeps.ite
    | (lift_lets; intro _)
    | split
    | dsimp only
    | fail_if_no_progress with_reducible apply Keeps.upd
    | dsimp +zetaDelta only

theorem execL4TimerWake_keeps {r0 sT : State} (s : State) (kp : Keeps r0 s)
    (e : execL4TimerWake s = .next sT) : Keeps r0 sT := by
  unfold execL4TimerWake at e
  rw [← Host.Outcome.next.inj e]
  repeat' first
    | with_reducible assumption
    | intro _
    | with_reducible apply State.wakeL4_keeps
    | with_reducible apply Keeps.ite
    | (lift_lets; intro _)
    | split
    | dsimp only
    | fail_if_no_progress with_reducible apply Keeps.upd
    | dsimp +zetaDelta only

theorem execPairPresentFall_keeps {r0 sT : State} (s : State) (kp : Keeps r0 s)
    (e : execPairPresentFall s = .next sT) : Keeps r0 sT := by
  unfold execPairPresentFall at e
  rw [← Host.Outcome.next.inj e]
  repeat' first
    | with_reducible assumption
    | intro _
    | with_reducible apply State.retarget_keeps
    | with_reducible apply State.wakeL4_keeps
    | with_reducible apply Keeps.ite
    | (lift_lets; intro _)
    | split
    | dsimp only
    | fail_if_no_progress with_reducible apply Keeps.upd
    | dsimp +zetaDelta only

theorem execUcieL2Exit_keeps {r0 sT : State} (md : Nat) (s : State) (kp : Keeps r0 s)
    (e : execUcieL2Exit md s = .next sT) : Keeps r0 sT := by
  unfold execUcieL2Exit at e
  rw [← Host.Outcome.next.inj e]
  repeat' first
    | with_reducible assumption
    | intro _
    | with_reducible apply State.wakeL4_keeps
    | with_reducible apply State.updLink_keeps
    | with_reducible apply Keeps.ite
    | (lift_lets; intro _)
    | split
    | dsimp only
    | fail_if_no_progress with_reducible apply Keeps.upd
    | dsimp +zetaDelta only

theorem execL4ExitComplete_keeps {r0 sT : State} (elapsed : Nat) (s : State) (kp : Keeps r0 s)
    (e : execL4ExitComplete elapsed s = .next sT) : Keeps r0 sT := by
  unfold execL4ExitComplete at e
  rw [← Host.Outcome.next.inj e]
  repeat' first
    | with_reducible assumption
    | intro _
    | with_reducible apply State.l4Exit_keeps
    | with_reducible apply Keeps.ite
    | (lift_lets; intro _)
    | split
    | dsimp only
    | fail_if_no_progress with_reducible apply Keeps.upd
    | dsimp +zetaDelta only

theorem State.holdScrs_keeps {r0 : State} (s : State) (b : Bool) (kp : Keeps r0 s) :
    Keeps r0 (State.holdScrs s b) := by
  unfold State.holdScrs
  repeat' first
    | with_reducible assumption
    | intro _
    | with_reducible apply State.each_keeps
    | with_reducible apply State.updScr_keeps
    | with_reducible apply Keeps.ite
    | (lift_lets; intro _)
    | split
    | dsimp only
    | fail_if_no_progress with_reducible apply Keeps.upd
    | dsimp +zetaDelta only

theorem State.reofferAll_keeps {r0 : State} (s : State) (kp : Keeps r0 s) :
    Keeps r0 (State.reofferAll s) := by
  unfold State.reofferAll
  repeat' first
    | with_reducible assumption
    | intro _
    | with_reducible apply State.each_keeps
    | with_reducible apply State.reofferMember_keeps
    | with_reducible apply Keeps.ite
    | (lift_lets; intro _)
    | split
    | dsimp only
    | fail_if_no_progress with_reducible apply Keeps.upd
    | dsimp +zetaDelta only

theorem State.enterHold_keeps {r0 : State} (s : State) (rail : Nat) (kp : Keeps r0 s) :
    Keeps r0 (State.enterHold s rail) := by
  unfold State.enterHold
  repeat' first
    | with_reducible assumption
    | intro _
    | with_reducible apply State.reofferAll_keeps
    | with_reducible apply State.setLine_keeps
    | with_reducible apply State.flushJournal_keeps
    | with_reducible apply State.arrangeAll_keeps
    | with_reducible apply State.holdScrs_keeps
    | with_reducible apply Keeps.ite
    | (lift_lets; intro _)
    | split
    | dsimp only
    | fail_if_no_progress with_reducible apply Keeps.upd
    | dsimp +zetaDelta only

theorem execSupplyWarn_keeps {r0 sT : State} (rail : Nat) (s : State) (kp : Keeps r0 s)
    (e : execSupplyWarn rail s = .next sT) : Keeps r0 sT := by
  unfold execSupplyWarn at e
  rw [← Host.Outcome.next.inj e]
  repeat' first
    | with_reducible assumption
    | intro _
    | with_reducible apply State.enterHold_keeps
    | with_reducible apply Keeps.ite
    | (lift_lets; intro _)
    | split
    | dsimp only
    | fail_if_no_progress with_reducible apply Keeps.upd
    | dsimp +zetaDelta only

theorem execSupplyWarnRelease_keeps {r0 sT : State} (rail : Nat) (s : State) (kp : Keeps r0 s)
    (e : execSupplyWarnRelease rail s = .next sT) : Keeps r0 sT := by
  unfold execSupplyWarnRelease at e
  rw [← Host.Outcome.next.inj e]
  repeat' first
    | with_reducible assumption
    | intro _
    | with_reducible apply Keeps.ite
    | (lift_lets; intro _)
    | split
    | dsimp only
    | fail_if_no_progress with_reducible apply Keeps.upd
    | dsimp +zetaDelta only

theorem execHoldTimeout_keeps {r0 sT : State} (s : State) (kp : Keeps r0 s)
    (e : execHoldTimeout s = .next sT) : Keeps r0 sT := by
  unfold execHoldTimeout at e
  rw [← Host.Outcome.next.inj e]
  repeat' first
    | with_reducible assumption
    | intro _
    | with_reducible apply State.haltDie_keeps
    | with_reducible apply State.journalRec_keeps
    | with_reducible apply Keeps.ite
    | (lift_lets; intro _)
    | split
    | dsimp only
    | fail_if_no_progress with_reducible apply Keeps.upd
    | dsimp +zetaDelta only

theorem execSupplyReset_keeps {r0 sT : State} (rail : Nat) (s : State) (kp : Keeps r0 s)
    (e : execSupplyReset rail s = .next sT) : Keeps r0 sT := by
  unfold execSupplyReset at e
  rw [← Host.Outcome.next.inj e]
  repeat' first
    | with_reducible assumption
    | intro _
    | with_reducible apply State.enterReset_keeps
    | with_reducible apply Keeps.ite
    | (lift_lets; intro _)
    | split
    | dsimp only
    | fail_if_no_progress with_reducible apply Keeps.upd
    | dsimp +zetaDelta only

theorem execRefclkLoss_keeps {r0 sT : State} (s : State) (kp : Keeps r0 s)
    (e : execRefclkLoss s = .next sT) : Keeps r0 sT := by
  unfold execRefclkLoss at e
  rw [← Host.Outcome.next.inj e]
  repeat' first
    | with_reducible assumption
    | intro _
    | with_reducible apply State.haltDie_keeps
    | with_reducible apply Keeps.ite
    | (lift_lets; intro _)
    | split
    | dsimp only
    | fail_if_no_progress with_reducible apply Keeps.upd
    | dsimp +zetaDelta only

theorem execXtalStop_keeps {r0 sT : State} (s : State) (kp : Keeps r0 s)
    (e : execXtalStop s = .next sT) : Keeps r0 sT := by
  unfold execXtalStop at e
  rw [← Host.Outcome.next.inj e]
  repeat' first
    | with_reducible assumption
    | intro _
    | with_reducible apply Keeps.ite
    | (lift_lets; intro _)
    | split
    | dsimp only
    | fail_if_no_progress with_reducible apply Keeps.upd
    | dsimp +zetaDelta only

theorem execXtalStart_keeps {r0 sT : State} (s : State) (kp : Keeps r0 s)
    (e : execXtalStart s = .next sT) : Keeps r0 sT := by
  unfold execXtalStart at e
  rw [← Host.Outcome.next.inj e]
  repeat' first
    | with_reducible assumption
    | intro _
    | with_reducible apply Keeps.ite
    | (lift_lets; intro _)
    | split
    | dsimp only
    | fail_if_no_progress with_reducible apply Keeps.upd
    | dsimp +zetaDelta only

theorem State.resetCore_keeps {r0 : State} (s : State) (core : Nat) (kp : Keeps r0 s) :
    Keeps r0 (State.resetCore s core) := by
  unfold State.resetCore
  repeat' first
    | with_reducible assumption
    | intro _
    | with_reducible apply State.each_keeps
    | with_reducible apply State.failRun_keeps
    | with_reducible apply State.arrange_keeps
    | with_reducible apply State.updCore_keeps
    | with_reducible apply State.freeHeldAll_keeps
    | with_reducible apply Keeps.ite
    | (lift_lets; intro _)
    | split
    | dsimp only
    | fail_if_no_progress with_reducible apply Keeps.upd
    | dsimp +zetaDelta only

theorem State.resetPort_keeps {r0 : State} (s : State) (p : Nat) (kp : Keeps r0 s) :
    Keeps r0 (State.resetPort s p) := by
  unfold State.resetPort
  repeat' first
    | with_reducible assumption
    | intro _
    | with_reducible apply State.each_keeps
    | with_reducible apply State.endOnPort_keeps
    | with_reducible apply State.portSafe_keeps
    | with_reducible apply State.updPort_keeps
    | with_reducible apply Keeps.ite
    | (lift_lets; intro _)
    | split
    | dsimp only
    | fail_if_no_progress with_reducible apply Keeps.upd
    | dsimp +zetaDelta only

theorem State.resetDs_keeps {r0 : State} (s : State) (kp : Keeps r0 s) :
    Keeps r0 (State.resetDs s) := by
  unfold State.resetDs
  repeat' first
    | with_reducible assumption
    | intro _
    | with_reducible apply Keeps.ite
    | (lift_lets; intro _)
    | split
    | dsimp only
    | fail_if_no_progress with_reducible apply Keeps.upd
    | dsimp +zetaDelta only

theorem State.resetGroup_keeps {r0 : State} (s : State) (g : Nat) (kp : Keeps r0 s) :
    Keeps r0 (State.resetGroup s g) := by
  unfold State.resetGroup
  repeat' first
    | with_reducible assumption
    | intro _
    | with_reducible apply State.wakeDone_keeps
    | with_reducible apply State.wakeDomain_keeps
    | with_reducible apply State.resetCore_keeps
    | with_reducible apply State.each_keeps
    | with_reducible apply State.resetPort_keeps
    | with_reducible apply State.resetDs_keeps
    | with_reducible apply State.setLink_keeps
    | with_reducible apply Keeps.ite
    | (lift_lets; intro _)
    | split
    | dsimp only
    | fail_if_no_progress with_reducible apply Keeps.upd
    | dsimp +zetaDelta only

theorem State.groupReset_keeps {r0 : State} (s : State) (m : Nat) (g : Nat) (kp : Keeps r0 s) :
    Keeps r0 (State.groupReset s m g) := by
  unfold State.groupReset
  repeat' first
    | with_reducible assumption
    | intro _
    | with_reducible apply State.accFault_keeps
    | with_reducible apply State.served_keeps
    | with_reducible apply State.resetGroup_keeps
    | with_reducible apply Keeps.ite
    | (lift_lets; intro _)
    | split
    | dsimp only
    | fail_if_no_progress with_reducible apply Keeps.upd
    | dsimp +zetaDelta only

theorem execGroupReset_keeps {r0 sT : State} (m : Nat) (g : Nat) (s : State) (kp : Keeps r0 s)
    (e : execGroupReset m g s = .next sT) : Keeps r0 sT := by
  unfold execGroupReset at e
  rw [← Host.Outcome.next.inj e]
  repeat' first
    | with_reducible assumption
    | intro _
    | with_reducible apply State.access_keeps
    | with_reducible apply State.groupReset_keeps
    | with_reducible apply Keeps.ite
    | (lift_lets; intro _)
    | split
    | dsimp only
    | fail_if_no_progress with_reducible apply Keeps.upd
    | dsimp +zetaDelta only

end Sys2Proof.Machine
end

