-- ==== Sys2Proof/Laws/KeepsFrames.lean ====
section
/-! SUPPORT. The operations of Machine/Frames.lean keep the queue of commands and the form of the memory. -/

namespace Sys2Proof.Machine
open Sys2Proof

theorem State.lockedGone_keeps {r0 : State} (s : State) (t : State) (kp : Keeps r0 t) :
    Keeps r0 (State.lockedGone s t) := by
  unfold State.lockedGone
  repeat' first
    | with_reducible assumption
    | intro _
    | with_reducible apply State.pulse_keeps
    | with_reducible apply Keeps.ite
    | (lift_lets; intro _)
    | split
    | dsimp only
    | fail_if_no_progress with_reducible apply Keeps.upd
    | dsimp +zetaDelta only

theorem State.frmW_keeps {r0 : State} (s : State) (m : Nat) (o : Nat) (v : Word32) (kp : Keeps r0 s) :
    Keeps r0 (State.frmW s m o v) := by
  unfold State.frmW
  repeat' first
    | with_reducible assumption
    | intro _
    | with_reducible apply State.accFault_keeps
    | with_reducible apply State.lockedGone_keeps
    | with_reducible apply Keeps.ite
    | (lift_lets; intro _)
    | split
    | dsimp only
    | fail_if_no_progress with_reducible apply Keeps.upd
    | dsimp +zetaDelta only

theorem execFrmStep_keeps {r0 sT : State} (m : Nat) (v : Word32) (s : State) (kp : Keeps r0 s)
    (e : execFrmStep m v s = .next sT) : Keeps r0 sT := by
  unfold execFrmStep at e
  rw [← Host.Outcome.next.inj e]
  repeat' first
    | with_reducible assumption
    | intro _
    | with_reducible apply State.access_keeps
    | with_reducible apply State.frmW_keeps
    | with_reducible apply Keeps.ite
    | (lift_lets; intro _)
    | split
    | dsimp only
    | fail_if_no_progress with_reducible apply Keeps.upd
    | dsimp +zetaDelta only

theorem execFrameSyncFall_keeps {r0 sT : State} (s : State) (kp : Keeps r0 s)
    (e : execFrameSyncFall s = .next sT) : Keeps r0 sT := by
  unfold execFrameSyncFall at e
  rw [← Host.Outcome.next.inj e]
  repeat' first
    | with_reducible assumption
    | intro _
    | with_reducible apply Keeps.ite
    | (lift_lets; intro _)
    | split
    | dsimp only
    | fail_if_no_progress with_reducible apply Keeps.upd
    | dsimp +zetaDelta only

theorem execFrameSyncEdge_keeps {r0 sT : State} (off : Int) (s : State) (kp : Keeps r0 s)
    (e : execFrameSyncEdge off s = .next sT) : Keeps r0 sT := by
  unfold execFrameSyncEdge at e
  rw [← Host.Outcome.next.inj e]
  repeat' first
    | with_reducible assumption
    | intro _
    | with_reducible apply State.lockedGone_keeps
    | with_reducible apply Keeps.ite
    | (lift_lets; intro _)
    | split
    | dsimp only
    | fail_if_no_progress with_reducible apply Keeps.upd
    | dsimp +zetaDelta only

theorem State.setHoldover_keeps {r0 : State} (s : State) (kp : Keeps r0 s) :
    Keeps r0 (State.setHoldover s) := by
  unfold State.setHoldover
  repeat' first
    | with_reducible assumption
    | intro _
    | with_reducible apply State.pulse_keeps
    | with_reducible apply Keeps.ite
    | (lift_lets; intro _)
    | split
    | dsimp only
    | fail_if_no_progress with_reducible apply Keeps.upd
    | dsimp +zetaDelta only

theorem execPtpHoldover_keeps {r0 sT : State} (s : State) (kp : Keeps r0 s)
    (e : execPtpHoldover s = .next sT) : Keeps r0 sT := by
  unfold execPtpHoldover at e
  rw [← Host.Outcome.next.inj e]
  repeat' first
    | with_reducible assumption
    | intro _
    | with_reducible apply State.setHoldover_keeps
    | with_reducible apply Keeps.ite
    | (lift_lets; intro _)
    | split
    | dsimp only
    | fail_if_no_progress with_reducible apply Keeps.upd
    | dsimp +zetaDelta only

theorem execSyncHoldover_keeps {r0 sT : State} (s : State) (kp : Keeps r0 s)
    (e : execSyncHoldover s = .next sT) : Keeps r0 sT := by
  unfold execSyncHoldover at e
  rw [← Host.Outcome.next.inj e]
  repeat' first
    | with_reducible assumption
    | intro _
    | with_reducible apply State.setHoldover_keeps
    | with_reducible apply Keeps.ite
    | (lift_lets; intro _)
    | split
    | dsimp only
    | fail_if_no_progress with_reducible apply Keeps.upd
    | dsimp +zetaDelta only

theorem execSlewEnd_keeps {r0 sT : State} (s : State) (kp : Keeps r0 s)
    (e : execSlewEnd s = .next sT) : Keeps r0 sT := by
  unfold execSlewEnd at e
  rw [← Host.Outcome.next.inj e]
  repeat' first
    | with_reducible assumption
    | intro _
    | with_reducible apply Keeps.ite
    | (lift_lets; intro _)
    | split
    | dsimp only
    | fail_if_no_progress with_reducible apply Keeps.upd
    | dsimp +zetaDelta only

end Sys2Proof.Machine
end

