-- ==== Sys2Proof/Laws/KeepsStartOps.lean ====
section
/-! SUPPORT. The operations of Machine/StartOps.lean keep the queue of commands and the form of the memory. -/

namespace Sys2Proof.Machine
open Sys2Proof

theorem State.stepRec_keeps {r0 : State} (s : State) (k : Nat) (code : BitVec 16) (unit : Nat) (kp : Keeps r0 s) :
    Keeps r0 (State.stepRec s k code unit) := by
  unfold State.stepRec
  repeat' first
    | with_reducible assumption
    | intro _
    | with_reducible apply State.journalRec_keeps
    | with_reducible apply Keeps.ite
    | (lift_lets; intro _)
    | split
    | dsimp only
    | fail_if_no_progress with_reducible apply Keeps.upd
    | dsimp +zetaDelta only

theorem State.stepPast_keeps {r0 : State} (s : State) (k : Nat) (u : Nat) (code : BitVec 16) (kp : Keeps r0 s) :
    Keeps r0 (State.stepPast s k u code) := by
  unfold State.stepPast
  repeat' first
    | with_reducible assumption
    | intro _
    | with_reducible apply State.stepRec_keeps
    | with_reducible apply Keeps.ite
    | (lift_lets; intro _)
    | split
    | dsimp only
    | fail_if_no_progress with_reducible apply Keeps.upd
    | dsimp +zetaDelta only

theorem State.stepPass_keeps {r0 : State} (s : State) (k : Nat) (kp : Keeps r0 s) :
    Keeps r0 (State.stepPass s k) := by
  unfold State.stepPass
  repeat' first
    | with_reducible assumption
    | intro _
    | with_reducible apply State.stepRec_keeps
    | with_reducible apply Keeps.ite
    | (lift_lets; intro _)
    | split
    | dsimp only
    | fail_if_no_progress with_reducible apply Keeps.upd
    | dsimp +zetaDelta only

theorem State.stepFail_keeps {r0 : State} (s : State) (k : Nat) (u : Nat) (kp : Keeps r0 s) :
    Keeps r0 (State.stepFail s k u) := by
  unfold State.stepFail
  repeat' first
    | with_reducible assumption
    | intro _
    | with_reducible apply State.stepRec_keeps
    | with_reducible apply State.enterReset_keeps
    | with_reducible apply State.flushJournal_keeps
    | with_reducible apply State.allSafe_keeps
    | with_reducible apply Keeps.ite
    | (lift_lets; intro _)
    | split
    | dsimp only
    | fail_if_no_progress with_reducible apply Keeps.upd
    | dsimp +zetaDelta only

theorem State.beginStart_keeps {r0 : State} (s : State) (kind : Nat) (kp : Keeps r0 s) :
    Keeps r0 (State.beginStart s kind) := by
  unfold State.beginStart
  repeat' first
    | with_reducible assumption
    | intro _
    | with_reducible apply State.reinit_keeps
    | with_reducible apply Keeps.ite
    | (lift_lets; intro _)
    | split
    | dsimp only
    | fail_if_no_progress with_reducible apply Keeps.upd
    | dsimp +zetaDelta only

theorem State.stepS3_keeps {r0 : State} (s : State) (kp : Keeps r0 s) :
    Keeps r0 (State.stepS3 s) := by
  unfold State.stepS3
  repeat' first
    | with_reducible assumption
    | intro _
    | with_reducible apply State.each_keeps
    | with_reducible apply State.journalRec_keeps
    | with_reducible apply State.stepPass_keeps
    | with_reducible apply Keeps.ite
    | (lift_lets; intro _)
    | split
    | dsimp only
    | fail_if_no_progress with_reducible apply Keeps.upd
    | dsimp +zetaDelta only

theorem State.stepS4_keeps {r0 : State} (s : State) (kp : Keeps r0 s) :
    Keeps r0 (State.stepS4 s) := by
  unfold State.stepS4
  repeat' first
    | with_reducible assumption
    | intro _
    | with_reducible apply State.noteVersions_keeps
    | with_reducible apply State.journalFw_keeps
    | with_reducible apply Keeps.ite
    | (lift_lets; intro _)
    | split
    | dsimp only
    | fail_if_no_progress with_reducible apply Keeps.upd
    | dsimp +zetaDelta only

theorem State.stepS5_keeps {r0 : State} (s : State) (kp : Keeps r0 s) :
    Keeps r0 (State.stepS5 s) := by
  unfold State.stepS5
  repeat' first
    | with_reducible assumption
    | intro _
    | with_reducible apply State.stepPass_keeps
    | with_reducible apply State.lockLine_keeps
    | with_reducible apply State.each_keeps
    | with_reducible apply State.updCore_keeps
    | with_reducible apply Keeps.ite
    | (lift_lets; intro _)
    | split
    | dsimp only
    | fail_if_no_progress with_reducible apply Keeps.upd
    | dsimp +zetaDelta only

theorem State.stepS6_keeps {r0 : State} (s : State) (kp : Keeps r0 s) :
    Keeps r0 (State.stepS6 s) := by
  unfold State.stepS6
  repeat' first
    | with_reducible assumption
    | intro _
    | with_reducible apply State.stepPass_keeps
    | with_reducible apply Keeps.ite
    | (lift_lets; intro _)
    | split
    | dsimp only
    | fail_if_no_progress with_reducible apply Keeps.upd
    | dsimp +zetaDelta only

theorem State.pastS7_keeps {r0 : State} (s : State) (m : Nat) (kp : Keeps r0 s) :
    Keeps r0 (State.pastS7 s m) := by
  unfold State.pastS7
  repeat' first
    | with_reducible assumption
    | intro _
    | with_reducible apply State.stepPast_keeps
    | with_reducible apply Keeps.ite
    | (lift_lets; intro _)
    | split
    | dsimp only
    | fail_if_no_progress with_reducible apply Keeps.upd
    | dsimp +zetaDelta only

theorem State.stepS7_keeps {r0 : State} (s : State) (r : StartRun) (down : Option Nat) (kp : Keeps r0 s) :
    Keeps r0 (State.stepS7 s r down) := by
  unfold State.stepS7
  repeat' first
    | with_reducible assumption
    | intro _
    | with_reducible apply State.stepPass_keeps
    | with_reducible apply State.pastS7_keeps
    | with_reducible apply Keeps.ite
    | (lift_lets; intro _)
    | split
    | dsimp only
    | fail_if_no_progress with_reducible apply Keeps.upd
    | dsimp +zetaDelta only

theorem State.calibrate_keeps {r0 : State} (s : State) (p : Nat) (kp : Keeps r0 s) :
    Keeps r0 (State.calibrate s p) := by
  unfold State.calibrate
  repeat' first
    | with_reducible assumption
    | intro _
    | with_reducible apply State.updPort_keeps
    | with_reducible apply Keeps.ite
    | (lift_lets; intro _)
    | split
    | dsimp only
    | fail_if_no_progress with_reducible apply Keeps.upd
    | dsimp +zetaDelta only

theorem State.stepS8_keeps {r0 : State} (s : State) (kp : Keeps r0 s) :
    Keeps r0 (State.stepS8 s) := by
  unfold State.stepS8
  repeat' first
    | with_reducible assumption
    | intro _
    | with_reducible apply State.stepPass_keeps
    | with_reducible apply State.each_keeps
    | with_reducible apply State.calibrate_keeps
    | with_reducible apply Keeps.ite
    | (lift_lets; intro _)
    | split
    | dsimp only
    | fail_if_no_progress with_reducible apply Keeps.upd
    | dsimp +zetaDelta only

theorem State.stepS9_keeps {r0 : State} (s : State) (kp : Keeps r0 s) :
    Keeps r0 (State.stepS9 s) := by
  unfold State.stepS9
  repeat' first
    | with_reducible assumption
    | intro _
    | with_reducible apply State.stepPass_keeps
    | with_reducible apply State.calibrate_keeps
    | with_reducible apply State.updPort_keeps
    | with_reducible apply Keeps.ite
    | (lift_lets; intro _)
    | split
    | dsimp only
    | fail_if_no_progress with_reducible apply Keeps.upd
    | dsimp +zetaDelta only

theorem State.stepS10_keeps {r0 : State} (s : State) (kp : Keeps r0 s) :
    Keeps r0 (State.stepS10 s) := by
  unfold State.stepS10
  repeat' first
    | with_reducible assumption
    | intro _
    | with_reducible apply State.stepPass_keeps
    | with_reducible apply State.each_keeps
    | with_reducible apply State.updPort_keeps
    | with_reducible apply Keeps.ite
    | (lift_lets; intro _)
    | split
    | dsimp only
    | fail_if_no_progress with_reducible apply Keeps.upd
    | dsimp +zetaDelta only

theorem State.takeRole_keeps {r0 : State} (s : State) (role : BitVec 2) (sub : BitVec 2) (kp : Keeps r0 s) :
    Keeps r0 (State.takeRole s role sub) := by
  unfold State.takeRole
  repeat' first
    | with_reducible assumption
    | intro _
    | with_reducible apply Keeps.ite
    | (lift_lets; intro _)
    | split
    | dsimp only
    | fail_if_no_progress with_reducible apply Keeps.upd
    | dsimp +zetaDelta only

theorem State.strapViolation_keeps {r0 : State} (s : State) (kp : Keeps r0 s) :
    Keeps r0 (State.strapViolation s) := by
  unfold State.strapViolation
  repeat' first
    | with_reducible assumption
    | intro _
    | with_reducible apply State.journalRec_keeps
    | with_reducible apply Keeps.ite
    | (lift_lets; intro _)
    | split
    | dsimp only
    | fail_if_no_progress with_reducible apply Keeps.upd
    | dsimp +zetaDelta only

theorem State.roleByLink_keeps {r0 : State} (s : State) (partner : Option (BitVec 2 × Bool × Word64)) (kp : Keeps r0 s) :
    Keeps r0 (State.roleByLink s partner) := by
  unfold State.roleByLink
  repeat' first
    | with_reducible assumption
    | intro _
    | with_reducible apply State.takeRole_keeps
    | with_reducible apply State.strapViolation_keeps
    | with_reducible apply Keeps.ite
    | (lift_lets; intro _)
    | split
    | dsimp only
    | fail_if_no_progress with_reducible apply Keeps.upd
    | dsimp +zetaDelta only

theorem State.stepS11_keeps {r0 : State} (s : State) (r : StartRun) (kp : Keeps r0 s) :
    Keeps r0 (State.stepS11 s r) := by
  unfold State.stepS11
  repeat' first
    | with_reducible assumption
    | intro _
    | with_reducible apply State.stepPass_keeps
    | with_reducible apply State.takeRole_keeps
    | with_reducible apply State.roleByLink_keeps
    | with_reducible apply State.stepPast_keeps
    | with_reducible apply Keeps.ite
    | (lift_lets; intro _)
    | split
    | dsimp only
    | fail_if_no_progress with_reducible apply Keeps.upd
    | dsimp +zetaDelta only

theorem State.stepS12_keeps {r0 : State} (s : State) (kp : Keeps r0 s) :
    Keeps r0 (State.stepS12 s) := by
  unfold State.stepS12
  repeat' first
    | with_reducible assumption
    | intro _
    | with_reducible apply State.each_keeps
    | with_reducible apply State.updLib_keeps
    | with_reducible apply State.stepPass_keeps
    | with_reducible apply State.startSuper_keeps
    | with_reducible apply State.loadSuper_keeps
    | with_reducible apply State.loadLib_keeps
    | with_reducible apply Keeps.ite
    | (lift_lets; intro _)
    | split
    | dsimp only
    | fail_if_no_progress with_reducible apply Keeps.upd
    | dsimp +zetaDelta only

theorem State.finishStart_keeps {r0 : State} (s : State) (kp : Keeps r0 s) :
    Keeps r0 (State.finishStart s) := by
  unfold State.finishStart
  repeat' first
    | with_reducible assumption
    | intro _
    | with_reducible apply State.stepS12_keeps
    | with_reducible apply Keeps.ite
    | (lift_lets; intro _)
    | split
    | dsimp only
    | fail_if_no_progress with_reducible apply Keeps.upd
    | dsimp +zetaDelta only

theorem State.stopStart_keeps {r0 : State} (s : State) (k : Nat) (kp : Keeps r0 s) :
    Keeps r0 (State.stopStart s k) := by
  unfold State.stopStart
  repeat' first
    | with_reducible assumption
    | intro _
    | with_reducible apply Keeps.ite
    | (lift_lets; intro _)
    | split
    | dsimp only
    | fail_if_no_progress with_reducible apply Keeps.upd
    | dsimp +zetaDelta only

theorem State.lastSteps_keeps {r0 : State} (s : State) (fail : Option Nat) (kp : Keeps r0 s) :
    Keeps r0 (State.lastSteps s fail) := by
  unfold State.lastSteps
  repeat' first
    | with_reducible assumption
    | intro _
    | with_reducible apply State.stopStart_keeps
    | with_reducible apply State.stepFail_keeps
    | with_reducible apply State.finishStart_keeps
    | with_reducible apply Keeps.ite
    | (lift_lets; intro _)
    | split
    | dsimp only
    | fail_if_no_progress with_reducible apply Keeps.upd
    | dsimp +zetaDelta only

theorem State.primerStep_keeps {r0 : State} (s : State) (r : StartRun) (k : Nat) (kp : Keeps r0 s) :
    Keeps r0 (State.primerStep s r k) := by
  unfold State.primerStep
  repeat' first
    | with_reducible assumption
    | intro _
    | with_reducible apply State.stepS3_keeps
    | with_reducible apply State.stepPass_keeps
    | with_reducible apply State.stepS5_keeps
    | with_reducible apply State.stepS6_keeps
    | with_reducible apply State.stepS7_keeps
    | with_reducible apply State.stepS8_keeps
    | with_reducible apply State.stepS9_keeps
    | with_reducible apply State.stepS10_keeps
    | with_reducible apply State.stepS11_keeps
    | with_reducible apply Keeps.ite
    | (lift_lets; intro _)
    | split
    | dsimp only
    | fail_if_no_progress with_reducible apply Keeps.upd
    | dsimp +zetaDelta only

theorem State.primer_keeps {r0 : State} (s : State) (r : StartRun) (l : List Nat) (h : Keeps r0 s) : Keeps r0 (s.primer r l) := by
  induction l generalizing s with
  | nil =>
    unfold State.primer
    repeat' first
      | with_reducible assumption
      | with_reducible apply State.lastSteps_keeps
      | with_reducible apply State.stopStart_keeps
      | with_reducible apply State.stepS4_keeps
      | with_reducible apply State.stepFail_keeps
      | with_reducible apply State.primerStep_keeps
      | split
      | fail_if_no_progress with_reducible apply Keeps.upd
  | cons k l ih =>
    unfold State.primer
    repeat' first
      | with_reducible assumption
      | with_reducible apply ih
      | with_reducible apply State.lastSteps_keeps
      | with_reducible apply State.stopStart_keeps
      | with_reducible apply State.stepS4_keeps
      | with_reducible apply State.stepFail_keeps
      | with_reducible apply State.primerStep_keeps
      | split
      | dsimp only
      | fail_if_no_progress with_reducible apply Keeps.upd

theorem State.startDie_keeps {r0 : State} (s : State) (kind : Nat) (r : StartRun) (kp : Keeps r0 s) :
    Keeps r0 (State.startDie s kind r) := by
  unfold State.startDie
  repeat' first
    | with_reducible assumption
    | intro _
    | with_reducible apply State.beginStart_keeps
    | with_reducible apply State.primer_keeps
    | with_reducible apply Keeps.ite
    | (lift_lets; intro _)
    | split
    | dsimp only
    | fail_if_no_progress with_reducible apply Keeps.upd
    | dsimp +zetaDelta only

end Sys2Proof.Machine
end

