-- ==== Sys2Proof/Laws/KeepsStarts.lean ====
section
/-! SUPPORT. The operations of Machine/Starts.lean keep the queue of commands and the form of the memory. -/

namespace Sys2Proof.Machine
open Sys2Proof

theorem execColdStart_keeps {r0 sT : State} (r : StartRun) (s : State) (kp : Keeps r0 s)
    (e : execColdStart r s = .next sT) : Keeps r0 sT := by
  unfold execColdStart at e
  rw [← Host.Outcome.next.inj e]
  repeat' first
    | with_reducible assumption
    | intro _
    | with_reducible apply State.startDie_keeps
    | with_reducible apply Keeps.ite
    | (lift_lets; intro _)
    | split
    | dsimp only
    | fail_if_no_progress with_reducible apply Keeps.upd
    | dsimp +zetaDelta only

theorem execWarmStart_keeps {r0 sT : State} (r : StartRun) (s : State) (kp : Keeps r0 s)
    (e : execWarmStart r s = .next sT) : Keeps r0 sT := by
  unfold execWarmStart at e
  rw [← Host.Outcome.next.inj e]
  repeat' first
    | with_reducible assumption
    | intro _
    | with_reducible apply State.startDie_keeps
    | with_reducible apply Keeps.ite
    | (lift_lets; intro _)
    | split
    | dsimp only
    | fail_if_no_progress with_reducible apply Keeps.upd
    | dsimp +zetaDelta only

theorem execSelfRestart_keeps {r0 sT : State} (r : StartRun) (s : State) (kp : Keeps r0 s)
    (e : execSelfRestart r s = .next sT) : Keeps r0 sT := by
  unfold execSelfRestart at e
  rw [← Host.Outcome.next.inj e]
  repeat' first
    | with_reducible assumption
    | intro _
    | with_reducible apply State.startDie_keeps
    | with_reducible apply Keeps.ite
    | (lift_lets; intro _)
    | split
    | dsimp only
    | fail_if_no_progress with_reducible apply Keeps.upd
    | dsimp +zetaDelta only

theorem execPorNFall_keeps {r0 sT : State} (s : State) (kp : Keeps r0 s)
    (e : execPorNFall s = .next sT) : Keeps r0 sT := by
  unfold execPorNFall at e
  rw [← Host.Outcome.next.inj e]
  repeat' first
    | with_reducible assumption
    | intro _
    | with_reducible apply State.enterReset_keeps
    | with_reducible apply Keeps.ite
    | (lift_lets; intro _)
    | split
    | dsimp only
    | fail_if_no_progress with_reducible apply Keeps.upd
    | dsimp +zetaDelta only

theorem execWarmrstFall_keeps {r0 sT : State} (s : State) (kp : Keeps r0 s)
    (e : execWarmrstFall s = .next sT) : Keeps r0 sT := by
  unfold execWarmrstFall at e
  rw [← Host.Outcome.next.inj e]
  repeat' first
    | with_reducible assumption
    | intro _
    | with_reducible apply State.enterReset_keeps
    | with_reducible apply State.flushJournal_keeps
    | with_reducible apply Keeps.ite
    | (lift_lets; intro _)
    | split
    | dsimp only
    | fail_if_no_progress with_reducible apply Keeps.upd
    | dsimp +zetaDelta only

theorem State.prmCtl_keeps {r0 : State} (s : State) (m : Nat) (retry : Bool) (fallback : Bool) (restart : Bool) (kp : Keeps r0 s) :
    Keeps r0 (State.prmCtl s m retry fallback restart) := by
  unfold State.prmCtl
  repeat' first
    | with_reducible assumption
    | intro _
    | with_reducible apply State.accFault_keeps
    | with_reducible apply State.enterReset_keeps
    | with_reducible apply State.flushJournal_keeps
    | with_reducible apply Keeps.ite
    | (lift_lets; intro _)
    | split
    | dsimp only
    | fail_if_no_progress with_reducible apply Keeps.upd
    | dsimp +zetaDelta only

theorem execPrmRestart_keeps {r0 sT : State} (m : Nat) (s : State) (kp : Keeps r0 s)
    (e : execPrmRestart m s = .next sT) : Keeps r0 sT := by
  unfold execPrmRestart at e
  rw [← Host.Outcome.next.inj e]
  repeat' first
    | with_reducible assumption
    | intro _
    | with_reducible apply State.access_keeps
    | with_reducible apply State.prmCtl_keeps
    | with_reducible apply Keeps.ite
    | (lift_lets; intro _)
    | split
    | dsimp only
    | fail_if_no_progress with_reducible apply Keeps.upd
    | dsimp +zetaDelta only

theorem execClrRetry_keeps {r0 sT : State} (m : Nat) (s : State) (kp : Keeps r0 s)
    (e : execClrRetry m s = .next sT) : Keeps r0 sT := by
  unfold execClrRetry at e
  rw [← Host.Outcome.next.inj e]
  repeat' first
    | with_reducible assumption
    | intro _
    | with_reducible apply State.access_keeps
    | with_reducible apply State.prmCtl_keeps
    | with_reducible apply Keeps.ite
    | (lift_lets; intro _)
    | split
    | dsimp only
    | fail_if_no_progress with_reducible apply Keeps.upd
    | dsimp +zetaDelta only

theorem execClrFallback_keeps {r0 sT : State} (m : Nat) (s : State) (kp : Keeps r0 s)
    (e : execClrFallback m s = .next sT) : Keeps r0 sT := by
  unfold execClrFallback at e
  rw [← Host.Outcome.next.inj e]
  repeat' first
    | with_reducible assumption
    | intro _
    | with_reducible apply State.access_keeps
    | with_reducible apply State.prmCtl_keeps
    | with_reducible apply Keeps.ite
    | (lift_lets; intro _)
    | split
    | dsimp only
    | fail_if_no_progress with_reducible apply Keeps.upd
    | dsimp +zetaDelta only

theorem State.prmSwap_keeps {r0 : State} (s : State) (v : Word64) (kp : Keeps r0 s) :
    Keeps r0 (State.prmSwap s v) := by
  unfold State.prmSwap
  repeat' first
    | with_reducible assumption
    | intro _
    | with_reducible apply State.mirror_keeps
    | with_reducible apply Keeps.ite
    | (lift_lets; intro _)
    | split
    | dsimp only
    | fail_if_no_progress with_reducible apply Keeps.upd
    | dsimp +zetaDelta only

theorem execPrmSwap_keeps {r0 sT : State} (m : Nat) (v : Word64) (s : State) (kp : Keeps r0 s)
    (e : execPrmSwap m v s = .next sT) : Keeps r0 sT := by
  unfold execPrmSwap at e
  rw [← Host.Outcome.next.inj e]
  repeat' first
    | with_reducible assumption
    | intro _
    | with_reducible apply State.access_keeps
    | with_reducible apply State.accFault_keeps
    | with_reducible apply State.prmSwap_keeps
    | with_reducible apply Keeps.ite
    | (lift_lets; intro _)
    | split
    | dsimp only
    | fail_if_no_progress with_reducible apply Keeps.upd
    | dsimp +zetaDelta only

theorem State.refreeze_keeps {r0 : State} (s : State) (kp : Keeps r0 s) :
    Keeps r0 (State.refreeze s) := by
  unfold State.refreeze
  repeat' first
    | with_reducible assumption
    | intro _
    | with_reducible apply State.releaseFor_keeps
    | with_reducible apply State.routeAll_keeps
    | with_reducible apply State.reofferAll_keeps
    | with_reducible apply State.arrangeAll_keeps
    | with_reducible apply Keeps.ite
    | (lift_lets; intro _)
    | split
    | dsimp only
    | fail_if_no_progress with_reducible apply Keeps.upd
    | dsimp +zetaDelta only

theorem State.freezeW_keeps {r0 : State} (s : State) (m : Nat) (v : Word64) (kp : Keeps r0 s) :
    Keeps r0 (State.freezeW s m v) := by
  unfold State.freezeW
  repeat' first
    | with_reducible assumption
    | intro _
    | with_reducible apply State.accFault_keeps
    | with_reducible apply State.served_keeps
    | with_reducible apply State.refreeze_keeps
    | with_reducible apply Keeps.ite
    | (lift_lets; intro _)
    | split
    | dsimp only
    | fail_if_no_progress with_reducible apply Keeps.upd
    | dsimp +zetaDelta only

theorem State.freezeCrnW_keeps {r0 : State} (s : State) (m : Nat) (v : Word32) (kp : Keeps r0 s) :
    Keeps r0 (State.freezeCrnW s m v) := by
  unfold State.freezeCrnW
  repeat' first
    | with_reducible assumption
    | intro _
    | with_reducible apply State.accFault_keeps
    | with_reducible apply State.served_keeps
    | with_reducible apply State.refreeze_keeps
    | with_reducible apply Keeps.ite
    | (lift_lets; intro _)
    | split
    | dsimp only
    | fail_if_no_progress with_reducible apply Keeps.upd
    | dsimp +zetaDelta only

theorem execGctlFreeze_keeps {r0 sT : State} (m : Nat) (v : Word64) (s : State) (kp : Keeps r0 s)
    (e : execGctlFreeze m v s = .next sT) : Keeps r0 sT := by
  unfold execGctlFreeze at e
  rw [← Host.Outcome.next.inj e]
  repeat' first
    | with_reducible assumption
    | intro _
    | with_reducible apply State.access_keeps
    | with_reducible apply State.freezeW_keeps
    | with_reducible apply Keeps.ite
    | (lift_lets; intro _)
    | split
    | dsimp only
    | fail_if_no_progress with_reducible apply Keeps.upd
    | dsimp +zetaDelta only

theorem execGctlFreezeCrn_keeps {r0 sT : State} (m : Nat) (v : Word32) (s : State) (kp : Keeps r0 s)
    (e : execGctlFreezeCrn m v s = .next sT) : Keeps r0 sT := by
  unfold execGctlFreezeCrn at e
  rw [← Host.Outcome.next.inj e]
  repeat' first
    | with_reducible assumption
    | intro _
    | with_reducible apply State.access_keeps
    | with_reducible apply State.freezeCrnW_keeps
    | with_reducible apply Keeps.ite
    | (lift_lets; intro _)
    | split
    | dsimp only
    | fail_if_no_progress with_reducible apply Keeps.upd
    | dsimp +zetaDelta only

theorem execJournalFlush_keeps {r0 sT : State} (s : State) (kp : Keeps r0 s)
    (e : execJournalFlush s = .next sT) : Keeps r0 sT := by
  unfold execJournalFlush at e
  rw [← Host.Outcome.next.inj e]
  repeat' first
    | with_reducible assumption
    | intro _
    | with_reducible apply State.flushJournal_keeps
    | with_reducible apply Keeps.ite
    | (lift_lets; intro _)
    | split
    | dsimp only
    | fail_if_no_progress with_reducible apply Keeps.upd
    | dsimp +zetaDelta only

end Sys2Proof.Machine
end

