-- ==== Sys2Proof/Laws/KeepsRegisters.lean ====
section
/-! SUPPORT. The operations of Machine/Registers.lean keep the queue of commands and the form of the memory. -/

namespace Sys2Proof.Machine
open Sys2Proof

theorem State.clearOn_keeps {r0 : State} (s : State) (off : Nat) (kp : Keeps r0 s) :
    Keeps r0 (State.clearOn s off) := by
  unfold State.clearOn
  repeat' first
    | with_reducible assumption
    | intro _
    | with_reducible apply State.updScr_keeps
    | with_reducible apply State.updQ_keeps
    | with_reducible apply State.updCls_keeps
    | with_reducible apply State.updTarget_keeps
    | with_reducible apply State.updMbx_keeps
    | with_reducible apply State.updSem_keeps
    | with_reducible apply State.updPort_keeps
    | with_reducible apply Keeps.ite
    | (lift_lets; intro _)
    | split
    | dsimp only
    | fail_if_no_progress with_reducible apply Keeps.upd
    | dsimp +zetaDelta only

theorem State.readReg_keeps {r0 : State} (s : State) (m : Nat) (ctx : Nat) (off : Nat) (kp : Keeps r0 s) :
    Keeps r0 (State.readReg s m ctx off) := by
  unfold State.readReg
  repeat' first
    | with_reducible assumption
    | intro _
    | with_reducible apply State.hwkAlloc_keeps
    | with_reducible apply State.mbxPop_keeps
    | with_reducible apply State.semAcquire_keeps
    | with_reducible apply State.icTakeRd_keeps
    | with_reducible apply State.txtsPop_keeps
    | with_reducible apply State.clearOn_keeps
    | with_reducible apply State.out_keeps
    | with_reducible apply Keeps.ite
    | (lift_lets; intro _)
    | split
    | dsimp only
    | fail_if_no_progress with_reducible apply Keeps.upd
    | dsimp +zetaDelta only

theorem State.readHalf_keeps {r0 : State} (s : State) (m : Nat) (ctx : Nat) (off : Nat) (kp : Keeps r0 s) :
    Keeps r0 (State.readHalf s m ctx off) := by
  unfold State.readHalf
  repeat' first
    | with_reducible assumption
    | intro _
    | with_reducible apply State.out_keeps
    | with_reducible apply Keeps.ite
    | (lift_lets; intro _)
    | split
    | dsimp only
    | fail_if_no_progress with_reducible apply Keeps.upd
    | dsimp +zetaDelta only

theorem State.read4_keeps {r0 : State} (s : State) (m : Nat) (ctx : Nat) (off : Nat) (kp : Keeps r0 s) :
    Keeps r0 (State.read4 s m ctx off) := by
  unfold State.read4
  repeat' first
    | with_reducible assumption
    | intro _
    | with_reducible apply State.readHalf_keeps
    | with_reducible apply State.readReg_keeps
    | with_reducible apply Keeps.ite
    | (lift_lets; intro _)
    | split
    | dsimp only
    | fail_if_no_progress with_reducible apply Keeps.upd
    | dsimp +zetaDelta only

theorem State.read8_keeps {r0 : State} (s : State) (m : Nat) (ctx : Nat) (off : Nat) (kp : Keeps r0 s) :
    Keeps r0 (State.read8 s m ctx off) := by
  unfold State.read8
  repeat' first
    | with_reducible assumption
    | intro _
    | with_reducible apply State.out_keeps
    | with_reducible apply State.readReg_keeps
    | with_reducible apply Keeps.ite
    | (lift_lets; intro _)
    | split
    | dsimp only
    | fail_if_no_progress with_reducible apply Keeps.upd
    | dsimp +zetaDelta only

theorem State.regRead_keeps {r0 : State} (s : State) (m : Nat) (ctx : Nat) (off : Nat) (size : Nat) (kp : Keeps r0 s) :
    Keeps r0 (State.regRead s m ctx off size) := by
  unfold State.regRead
  repeat' first
    | with_reducible assumption
    | intro _
    | with_reducible apply State.accFault_keeps
    | with_reducible apply State.out_keeps
    | with_reducible apply State.read4_keeps
    | with_reducible apply State.read8_keeps
    | with_reducible apply Keeps.ite
    | (lift_lets; intro _)
    | split
    | dsimp only
    | fail_if_no_progress with_reducible apply Keeps.upd
    | dsimp +zetaDelta only

theorem State.aqCfgW_keeps {r0 : State} (s : State) (v : Word32) (kp : Keeps r0 s) :
    Keeps r0 (State.aqCfgW s v) := by
  unfold State.aqCfgW
  repeat' first
    | with_reducible assumption
    | intro _
    | with_reducible apply Keeps.ite
    | (lift_lets; intro _)
    | split
    | dsimp only
    | fail_if_no_progress with_reducible apply Keeps.upd
    | dsimp +zetaDelta only

theorem State.aqW_keeps {r0 : State} (s : State) (m : Nat) (o : Nat) (v : Word32) (kp : Keeps r0 s) :
    Keeps r0 (State.aqW s m o v) := by
  unfold State.aqW
  repeat' first
    | with_reducible assumption
    | intro _
    | with_reducible apply State.accFault_keeps
    | with_reducible apply State.aqCfgW_keeps
    | with_reducible apply State.aqCtl_keeps
    | with_reducible apply State.aqProd_keeps
    | with_reducible apply State.aqRcons_keeps
    | with_reducible apply Keeps.ite
    | (lift_lets; intro _)
    | split
    | dsimp only
    | fail_if_no_progress with_reducible apply Keeps.upd
    | dsimp +zetaDelta only

theorem State.pwrW_keeps {r0 : State} (s : State) (m : Nat) (o : Nat) (v : Word32) (kp : Keeps r0 s) :
    Keeps r0 (State.pwrW s m o v) := by
  unfold State.pwrW
  repeat' first
    | with_reducible assumption
    | intro _
    | with_reducible apply State.groupReset_keeps
    | with_reducible apply State.accFault_keeps
    | with_reducible apply State.retarget_keeps
    | with_reducible apply State.updDom_keeps
    | with_reducible apply Keeps.ite
    | (lift_lets; intro _)
    | split
    | dsimp only
    | fail_if_no_progress with_reducible apply Keeps.upd
    | dsimp +zetaDelta only

theorem State.prmW_keeps {r0 : State} (s : State) (m : Nat) (o : Nat) (v : Word32) (kp : Keeps r0 s) :
    Keeps r0 (State.prmW s m o v) := by
  unfold State.prmW
  repeat' first
    | with_reducible assumption
    | intro _
    | with_reducible apply State.accFault_keeps
    | with_reducible apply State.prmCtl_keeps
    | with_reducible apply Keeps.ite
    | (lift_lets; intro _)
    | split
    | dsimp only
    | fail_if_no_progress with_reducible apply Keeps.upd
    | dsimp +zetaDelta only

theorem State.kmdW_keeps {r0 : State} (s : State) (m : Nat) (o : Nat) (v : Word32) (kp : Keeps r0 s) :
    Keeps r0 (State.kmdW s m o v) := by
  unfold State.kmdW
  repeat' first
    | with_reducible assumption
    | intro _
    | with_reducible apply State.accFault_keeps
    | with_reducible apply State.cfgMirror_keeps
    | with_reducible apply Keeps.ite
    | (lift_lets; intro _)
    | split
    | dsimp only
    | fail_if_no_progress with_reducible apply Keeps.upd
    | dsimp +zetaDelta only

theorem State.qcfgCfgW_keeps {r0 : State} (s : State) (m : Nat) (q : Nat) (v : Word32) (kp : Keeps r0 s) :
    Keeps r0 (State.qcfgCfgW s m q v) := by
  unfold State.qcfgCfgW
  repeat' first
    | with_reducible assumption
    | intro _
    | with_reducible apply State.cfgMirror_keeps
    | with_reducible apply State.setQ_keeps
    | with_reducible apply State.accFault_keeps
    | with_reducible apply Keeps.ite
    | (lift_lets; intro _)
    | split
    | dsimp only
    | fail_if_no_progress with_reducible apply Keeps.upd
    | dsimp +zetaDelta only

theorem State.qcfgW_keeps {r0 : State} (s : State) (m : Nat) (q : Nat) (o : Nat) (v : Word32) (kp : Keeps r0 s) :
    Keeps r0 (State.qcfgW s m q o v) := by
  unfold State.qcfgW
  repeat' first
    | with_reducible assumption
    | intro _
    | with_reducible apply State.qcfgCfgW_keeps
    | with_reducible apply State.cfgMirror_keeps
    | with_reducible apply State.updQ_keeps
    | with_reducible apply State.accFault_keeps
    | with_reducible apply State.qctlW_keeps
    | with_reducible apply Keeps.ite
    | (lift_lets; intro _)
    | split
    | dsimp only
    | fail_if_no_progress with_reducible apply Keeps.upd
    | dsimp +zetaDelta only

theorem State.chW_keeps {r0 : State} (s : State) (m : Nat) (ch : Nat) (o : Nat) (v : Word32) (kp : Keeps r0 s) :
    Keeps r0 (State.chW s m ch o v) := by
  unfold State.chW
  repeat' first
    | with_reducible assumption
    | intro _
    | with_reducible apply State.cfgMirror_keeps
    | with_reducible apply State.goChan_keeps
    | with_reducible apply State.accFault_keeps
    | with_reducible apply State.chEvtPend_keeps
    | with_reducible apply Keeps.ite
    | (lift_lets; intro _)
    | split
    | dsimp only
    | fail_if_no_progress with_reducible apply Keeps.upd
    | dsimp +zetaDelta only

theorem State.fltW_keeps {r0 : State} (s : State) (m : Nat) (c : Nat) (o : Nat) (v : Word32) (kp : Keeps r0 s) :
    Keeps r0 (State.fltW s m c o v) := by
  unfold State.fltW
  repeat' first
    | with_reducible assumption
    | intro _
    | with_reducible apply State.accFault_keeps
    | with_reducible apply State.cfgMirror_keeps
    | with_reducible apply State.updCls_keeps
    | with_reducible apply Keeps.ite
    | (lift_lets; intro _)
    | split
    | dsimp only
    | fail_if_no_progress with_reducible apply Keeps.upd
    | dsimp +zetaDelta only

theorem State.icW_keeps {r0 : State} (s : State) (m : Nat) (o : Nat) (v : Word32) (kp : Keeps r0 s) :
    Keeps r0 (State.icW s m o v) := by
  unfold State.icW
  repeat' first
    | with_reducible assumption
    | intro _
    | with_reducible apply State.icScfg_keeps
    | with_reducible apply State.accFault_keeps
    | with_reducible apply State.cfgMirror_keeps
    | with_reducible apply State.icTake_keeps
    | with_reducible apply State.icDone_keeps
    | with_reducible apply State.icSwset_keeps
    | with_reducible apply State.icFlush_keeps
    | with_reducible apply Keeps.ite
    | (lift_lets; intro _)
    | split
    | dsimp only
    | fail_if_no_progress with_reducible apply Keeps.upd
    | dsimp +zetaDelta only

theorem State.mbxArm_keeps {r0 : State} (s : State) (mb : Nat) (v : Word32) (kp : Keeps r0 s) :
    Keeps r0 (State.mbxArm s mb v) := by
  unfold State.mbxArm
  repeat' first
    | with_reducible assumption
    | intro _
    | with_reducible apply State.cfgMirror_keeps
    | with_reducible apply State.updMbx_keeps
    | with_reducible apply Keeps.ite
    | (lift_lets; intro _)
    | split
    | dsimp only
    | fail_if_no_progress with_reducible apply Keeps.upd
    | dsimp +zetaDelta only

theorem State.mbxW_keeps {r0 : State} (s : State) (m : Nat) (ctx : Nat) (mb : Nat) (o : Nat) (v : Word32) (kp : Keeps r0 s) :
    Keeps r0 (State.mbxW s m ctx mb o v) := by
  unfold State.mbxW
  repeat' first
    | with_reducible assumption
    | intro _
    | with_reducible apply State.mbxCfg_keeps
    | with_reducible apply State.mbxSend_keeps
    | with_reducible apply State.mbxArm_keeps
    | with_reducible apply Keeps.ite
    | (lift_lets; intro _)
    | split
    | dsimp only
    | fail_if_no_progress with_reducible apply Keeps.upd
    | dsimp +zetaDelta only

theorem State.hwkW_keeps {r0 : State} (s : State) (m : Nat) (o : Nat) (v : Word32) (kp : Keeps r0 s) :
    Keeps r0 (State.hwkW s m o v) := by
  unfold State.hwkW
  repeat' first
    | with_reducible assumption
    | intro _
    | with_reducible apply State.hwkFree_keeps
    | with_reducible apply State.hwkCls_keeps
    | with_reducible apply Keeps.ite
    | (lift_lets; intro _)
    | split
    | dsimp only
    | fail_if_no_progress with_reducible apply Keeps.upd
    | dsimp +zetaDelta only

theorem State.portCtl_keeps {r0 : State} (s : State) (p : Nat) (v : Word32) (absent : Bool) (readings : List Word32) (kp : Keeps r0 s) :
    Keeps r0 (State.portCtl s p v absent readings) := by
  unfold State.portCtl
  repeat' first
    | with_reducible assumption
    | intro _
    | with_reducible apply State.clrFaultW_keeps
    | with_reducible apply State.updPort_keeps
    | with_reducible apply State.lineDiag_keeps
    | with_reducible apply Keeps.ite
    | (lift_lets; intro _)
    | split
    | dsimp only
    | fail_if_no_progress with_reducible apply Keeps.upd
    | dsimp +zetaDelta only

theorem State.commonW_keeps {r0 : State} (s : State) (p : Nat) (o : Nat) (v : Word32) (kp : Keeps r0 s) :
    Keeps r0 (State.commonW s p o v) := by
  unfold State.commonW
  repeat' first
    | with_reducible assumption
    | intro _
    | with_reducible apply State.portCtl_keeps
    | with_reducible apply State.portLine_keeps
    | with_reducible apply State.updPort_keeps
    | with_reducible apply State.retarget_keeps
    | with_reducible apply Keeps.ite
    | (lift_lets; intro _)
    | split
    | dsimp only
    | fail_if_no_progress with_reducible apply Keeps.upd
    | dsimp +zetaDelta only

theorem State.winW_of {r0 s t : State} {p i : Nat} {w : Word} (h : Keeps r0 s) (e : s.winW p i w = some t) : Keeps r0 t := by
  unfold State.winW at e
  try dsimp only at e
  repeat' split at e
  all_goals first
    | cases e
  all_goals repeat' first
    | with_reducible assumption
    | with_reducible apply State.updPort_keeps
    | intro _
    | split
    | dsimp only
    | fail_if_no_progress with_reducible apply Keeps.upd

theorem State.portW_keeps {r0 : State} (s : State) (m : Nat) (p : Nat) (o : Nat) (v : Word32) (kp : Keeps r0 s) :
    Keeps r0 (State.portW s m p o v) := by
  unfold State.portW
  repeat' first
    | with_reducible assumption
    | intro _
    | with_reducible apply Keeps.getD
    | refine State.winW_of ?_ (by with_reducible assumption)
    | with_reducible apply State.accFault_keeps
    | with_reducible apply State.cfgMirror_keeps
    | with_reducible apply State.commonW_keeps
    | with_reducible apply State.updPort_keeps
    | with_reducible apply Keeps.ite
    | (lift_lets; intro _)
    | split
    | dsimp only
    | fail_if_no_progress with_reducible apply Keeps.upd
    | dsimp +zetaDelta only

theorem State.writeReg_keeps {r0 : State} (s : State) (m : Nat) (ctx : Nat) (off : Nat) (v : Word32) (kp : Keeps r0 s) :
    Keeps r0 (State.writeReg s m ctx off v) := by
  unfold State.writeReg
  repeat' first
    | with_reducible assumption
    | intro _
    | with_reducible apply State.freezeCrnW_keeps
    | with_reducible apply State.aqW_keeps
    | with_reducible apply State.frmW_keeps
    | with_reducible apply State.pwrW_keeps
    | with_reducible apply State.prmW_keeps
    | with_reducible apply State.scrCtl_keeps
    | with_reducible apply State.kmdW_keeps
    | with_reducible apply State.dbCountW_keeps
    | with_reducible apply State.dbFetchW_keeps
    | with_reducible apply State.qcfgW_keeps
    | with_reducible apply State.chW_keeps
    | with_reducible apply State.fltW_keeps
    | with_reducible apply State.icW_keeps
    | with_reducible apply State.mbxW_keeps
    | with_reducible apply State.semRelease_keeps
    | with_reducible apply State.semForce_keeps
    | with_reducible apply State.hwkW_keeps
    | with_reducible apply State.portW_keeps
    | with_reducible apply Keeps.ite
    | (lift_lets; intro _)
    | split
    | dsimp only
    | fail_if_no_progress with_reducible apply Keeps.upd
    | dsimp +zetaDelta only

theorem State.qcfgWide_keeps {r0 : State} (s : State) (m : Nat) (q : Nat) (o : Nat) (v : Word64) (kp : Keeps r0 s) :
    Keeps r0 (State.qcfgWide s m q o v) := by
  unfold State.qcfgWide
  repeat' first
    | with_reducible assumption
    | intro _
    | with_reducible apply State.accFault_keeps
    | with_reducible apply State.cfgMirror_keeps
    | with_reducible apply State.updQ_keeps
    | with_reducible apply Keeps.ite
    | (lift_lets; intro _)
    | split
    | dsimp only
    | fail_if_no_progress with_reducible apply Keeps.upd
    | dsimp +zetaDelta only

theorem State.writeWide_keeps {r0 : State} (s : State) (m : Nat) (off : Nat) (v : Word64) (kp : Keeps r0 s) :
    Keeps r0 (State.writeWide s m off v) := by
  unfold State.writeWide
  repeat' first
    | with_reducible assumption
    | intro _
    | with_reducible apply State.freezeW_keeps
    | with_reducible apply State.accFault_keeps
    | with_reducible apply State.prmSwap_keeps
    | with_reducible apply State.cfgMirror_keeps
    | with_reducible apply State.qcfgWide_keeps
    | with_reducible apply State.goChan_keeps
    | with_reducible apply State.icStrw_keeps
    | with_reducible apply Keeps.ite
    | (lift_lets; intro _)
    | split
    | dsimp only
    | fail_if_no_progress with_reducible apply Keeps.upd
    | dsimp +zetaDelta only

theorem State.writeHalf_keeps {r0 : State} (s : State) (m : Nat) (off : Nat) (v : Word32) (kp : Keeps r0 s) :
    Keeps r0 (State.writeHalf s m off v) := by
  unfold State.writeHalf
  repeat' first
    | with_reducible assumption
    | intro _
    | with_reducible apply State.accFault_keeps
    | with_reducible apply State.writeWide_keeps
    | with_reducible apply Keeps.ite
    | (lift_lets; intro _)
    | split
    | dsimp only
    | fail_if_no_progress with_reducible apply Keeps.upd
    | dsimp +zetaDelta only

theorem State.write4_keeps {r0 : State} (s : State) (m : Nat) (ctx : Nat) (off : Nat) (v : Word32) (kp : Keeps r0 s) :
    Keeps r0 (State.write4 s m ctx off v) := by
  unfold State.write4
  repeat' first
    | with_reducible assumption
    | intro _
    | with_reducible apply State.writeHalf_keeps
    | with_reducible apply State.writeReg_keeps
    | with_reducible apply Keeps.ite
    | (lift_lets; intro _)
    | split
    | dsimp only
    | fail_if_no_progress with_reducible apply Keeps.upd
    | dsimp +zetaDelta only

theorem State.write8_keeps {r0 : State} (s : State) (m : Nat) (ctx : Nat) (off : Nat) (v : Word64) (kp : Keeps r0 s) :
    Keeps r0 (State.write8 s m ctx off v) := by
  unfold State.write8
  repeat' first
    | with_reducible assumption
    | intro _
    | with_reducible apply State.writeWide_keeps
    | with_reducible apply State.writeReg_keeps
    | with_reducible apply State.semBad_keeps
    | with_reducible apply Keeps.ite
    | (lift_lets; intro _)
    | split
    | dsimp only
    | fail_if_no_progress with_reducible apply Keeps.upd
    | dsimp +zetaDelta only

theorem State.regWrite_keeps {r0 : State} (s : State) (m : Nat) (ctx : Nat) (off : Nat) (size : Nat) (v : Word64) (kp : Keeps r0 s) :
    Keeps r0 (State.regWrite s m ctx off size v) := by
  unfold State.regWrite
  repeat' first
    | with_reducible assumption
    | intro _
    | with_reducible apply State.accFault_keeps
    | with_reducible apply State.write4_keeps
    | with_reducible apply State.write8_keeps
    | with_reducible apply Keeps.ite
    | (lift_lets; intro _)
    | split
    | dsimp only
    | fail_if_no_progress with_reducible apply Keeps.upd
    | dsimp +zetaDelta only

theorem State.outBytes_keeps {r0 : State} (s : State) (l : List Byte) (kp : Keeps r0 s) :
    Keeps r0 (State.outBytes s l) := by
  unfold State.outBytes
  repeat' first
    | with_reducible assumption
    | intro _
    | with_reducible apply State.out_keeps
    | with_reducible apply Keeps.ite
    | (lift_lets; intro _)
    | split
    | dsimp only
    | fail_if_no_progress with_reducible apply Keeps.upd
    | dsimp +zetaDelta only

theorem State.winRead_keeps {r0 : State} (s : State) (m : Nat) (off : Nat) (n : Nat) (kp : Keeps r0 s) :
    Keeps r0 (State.winRead s m off n) := by
  unfold State.winRead
  repeat' first
    | with_reducible assumption
    | intro _
    | with_reducible apply State.accFault_keeps
    | with_reducible apply State.out_keeps
    | with_reducible apply State.outBytes_keeps
    | with_reducible apply Keeps.ite
    | (lift_lets; intro _)
    | split
    | dsimp only
    | fail_if_no_progress with_reducible apply Keeps.upd
    | dsimp +zetaDelta only

theorem State.storeHawk_keeps {r0 : State} (s : State) (off : Nat) (l : List Byte) (h : Keeps r0 s) : Keeps r0 (s.storeHawk off l) := by
  induction l generalizing s off with
  | nil => exact h
  | cons b l ih =>
    unfold State.storeHawk
    repeat' first
      | with_reducible assumption
      | with_reducible apply ih
      | with_reducible apply State.store_keeps
      | split

theorem State.winWrite_keeps {r0 : State} (s : State) (m : Nat) (off : Nat) (l : List Byte) (kp : Keeps r0 s) :
    Keeps r0 (State.winWrite s m off l) := by
  unfold State.winWrite
  repeat' first
    | with_reducible assumption
    | intro _
    | with_reducible apply State.accFault_keeps
    | with_reducible apply State.store_keeps
    | with_reducible apply State.storeHawk_keeps
    | with_reducible apply Keeps.ite
    | (lift_lets; intro _)
    | split
    | dsimp only
    | fail_if_no_progress with_reducible apply Keeps.upd
    | dsimp +zetaDelta only

theorem State.bar0Read_keeps {r0 : State} (s : State) (m : Nat) (ctx : Nat) (off : Nat) (size : Nat) (kp : Keeps r0 s) :
    Keeps r0 (State.bar0Read s m ctx off size) := by
  unfold State.bar0Read
  repeat' first
    | with_reducible assumption
    | intro _
    | with_reducible apply State.accFault_keeps
    | with_reducible apply State.out_keeps
    | with_reducible apply State.winRead_keeps
    | with_reducible apply State.regRead_keeps
    | with_reducible apply Keeps.ite
    | (lift_lets; intro _)
    | split
    | dsimp only
    | fail_if_no_progress with_reducible apply Keeps.upd
    | dsimp +zetaDelta only

theorem State.windowPut_keeps {r0 : State} (s : State) (m : Nat) (off : Nat) (l : List Byte) (kp : Keeps r0 s) :
    Keeps r0 (State.windowPut s m off l) := by
  unfold State.windowPut
  repeat' first
    | with_reducible assumption
    | intro _
    | with_reducible apply State.winWrite_keeps
    | with_reducible apply State.accFault_keeps
    | with_reducible apply Keeps.ite
    | (lift_lets; intro _)
    | split
    | dsimp only
    | fail_if_no_progress with_reducible apply Keeps.upd
    | dsimp +zetaDelta only

theorem State.bar0Write_keeps {r0 : State} (s : State) (m : Nat) (ctx : Nat) (off : Nat) (size : Nat) (v : Word64) (kp : Keeps r0 s) :
    Keeps r0 (State.bar0Write s m ctx off size v) := by
  unfold State.bar0Write
  repeat' first
    | with_reducible assumption
    | intro _
    | with_reducible apply State.windowPut_keeps
    | with_reducible apply State.accFault_keeps
    | with_reducible apply State.regWrite_keeps
    | with_reducible apply Keeps.ite
    | (lift_lets; intro _)
    | split
    | dsimp only
    | fail_if_no_progress with_reducible apply Keeps.upd
    | dsimp +zetaDelta only

theorem State.bar2Read4_keeps {r0 : State} (s : State) (md : Nat) (off : Nat) (kp : Keeps r0 s) :
    Keeps r0 (State.bar2Read4 s md off) := by
  unfold State.bar2Read4
  repeat' first
    | with_reducible assumption
    | intro _
    | with_reducible apply State.ctlRead_keeps
    | with_reducible apply State.out_keeps
    | with_reducible apply Keeps.ite
    | (lift_lets; intro _)
    | split
    | dsimp only
    | fail_if_no_progress with_reducible apply Keeps.upd
    | dsimp +zetaDelta only

theorem State.bar2Write4_keeps {r0 : State} (s : State) (md : Nat) (off : Nat) (v : Word32) (kp : Keeps r0 s) :
    Keeps r0 (State.bar2Write4 s md off v) := by
  unfold State.bar2Write4
  repeat' first
    | with_reducible assumption
    | intro _
    | with_reducible apply State.updCfg_keeps
    | with_reducible apply State.setMask_keeps
    | with_reducible apply Keeps.ite
    | (lift_lets; intro _)
    | split
    | dsimp only
    | fail_if_no_progress with_reducible apply Keeps.upd
    | dsimp +zetaDelta only

theorem State.bar2Read_keeps {r0 : State} (s : State) (m : Nat) (md : Nat) (off : Nat) (size : Nat) (kp : Keeps r0 s) :
    Keeps r0 (State.bar2Read s m md off size) := by
  unfold State.bar2Read
  repeat' first
    | with_reducible assumption
    | intro _
    | with_reducible apply State.accFault_keeps
    | with_reducible apply State.out_keeps
    | with_reducible apply State.bar2Read4_keeps
    | with_reducible apply Keeps.ite
    | (lift_lets; intro _)
    | split
    | dsimp only
    | fail_if_no_progress with_reducible apply Keeps.upd
    | dsimp +zetaDelta only

theorem State.bar2Write_keeps {r0 : State} (s : State) (m : Nat) (md : Nat) (off : Nat) (size : Nat) (v : Word64) (kp : Keeps r0 s) :
    Keeps r0 (State.bar2Write s m md off size v) := by
  unfold State.bar2Write
  repeat' first
    | with_reducible assumption
    | intro _
    | with_reducible apply State.accFault_keeps
    | with_reducible apply State.bar2Write4_keeps
    | with_reducible apply Keeps.ite
    | (lift_lets; intro _)
    | split
    | dsimp only
    | fail_if_no_progress with_reducible apply Keeps.upd
    | dsimp +zetaDelta only

theorem State.cfgRead_keeps {r0 : State} (s : State) (md : Nat) (off : Nat) (size : Nat) (kp : Keeps r0 s) :
    Keeps r0 (State.cfgRead s md off size) := by
  unfold State.cfgRead
  repeat' first
    | with_reducible assumption
    | intro _
    | with_reducible apply State.updLink_keeps
    | with_reducible apply State.out_keeps
    | with_reducible apply Keeps.ite
    | (lift_lets; intro _)
    | split
    | dsimp only
    | fail_if_no_progress with_reducible apply Keeps.upd
    | dsimp +zetaDelta only

theorem State.cmdW_keeps {r0 : State} (s : State) (md : Nat) (v : Nat) (kp : Keeps r0 s) :
    Keeps r0 (State.cmdW s md v) := by
  unfold State.cmdW
  repeat' first
    | with_reducible assumption
    | intro _
    | with_reducible apply State.updCfg_keeps
    | with_reducible apply State.linkGo_keeps
    | with_reducible apply Keeps.ite
    | (lift_lets; intro _)
    | split
    | dsimp only
    | fail_if_no_progress with_reducible apply Keeps.upd
    | dsimp +zetaDelta only

theorem State.pmW_keeps {r0 : State} (s : State) (md : Nat) (v : Nat) (w1c : Nat) (kp : Keeps r0 s) :
    Keeps r0 (State.pmW s md v w1c) := by
  unfold State.pmW
  repeat' first
    | with_reducible assumption
    | intro _
    | with_reducible apply State.wakeEval_keeps
    | with_reducible apply State.updCfg_keeps
    | with_reducible apply State.wakeCheck_keeps
    | with_reducible apply State.setD3_keeps
    | with_reducible apply Keeps.ite
    | (lift_lets; intro _)
    | split
    | dsimp only
    | fail_if_no_progress with_reducible apply Keeps.upd
    | dsimp +zetaDelta only

theorem State.cfgWrite4_keeps {r0 : State} (s : State) (md : Nat) (off : Nat) (v : Nat) (w1c : Nat) (kp : Keeps r0 s) :
    Keeps r0 (State.cfgWrite4 s md off v w1c) := by
  unfold State.cfgWrite4
  repeat' first
    | with_reducible assumption
    | intro _
    | with_reducible apply State.cmdW_keeps
    | with_reducible apply State.updCfg_keeps
    | with_reducible apply State.pmW_keeps
    | with_reducible apply State.setMsix_keeps
    | with_reducible apply State.nlnkCtl_keeps
    | with_reducible apply Keeps.ite
    | (lift_lets; intro _)
    | split
    | dsimp only
    | fail_if_no_progress with_reducible apply Keeps.upd
    | dsimp +zetaDelta only

theorem State.cfgWrite_keeps {r0 : State} (s : State) (md : Nat) (off : Nat) (size : Nat) (v : Word64) (kp : Keeps r0 s) :
    Keeps r0 (State.cfgWrite s md off size v) := by
  unfold State.cfgWrite
  repeat' first
    | with_reducible assumption
    | intro _
    | with_reducible apply State.cfgWrite4_keeps
    | with_reducible apply Keeps.ite
    | (lift_lets; intro _)
    | split
    | dsimp only
    | fail_if_no_progress with_reducible apply Keeps.upd
    | dsimp +zetaDelta only

theorem State.seqrAccess_keeps {r0 : State} (s : State) (ch : Nat) (m : Nat) (off : Nat) (k : State → State) (hk : ∀ t, Keeps r0 t → Keeps r0 (k t)) (kp : Keeps r0 s) :
    Keeps r0 (State.seqrAccess s ch m off k) := by
  unfold State.seqrAccess
  repeat' first
    | with_reducible assumption
    | intro _
    | with_reducible apply hk
    | with_reducible apply State.failAt_keeps
    | with_reducible apply State.accFault_keeps
    | with_reducible apply Keeps.ite
    | (lift_lets; intro _)
    | split
    | dsimp only
    | fail_if_no_progress with_reducible apply Keeps.upd
    | dsimp +zetaDelta only

theorem State.spaceRead_keeps {r0 : State} (s : State) (sp : Space) (m : Nat) (off : Nat) (size : Nat) (kp : Keeps r0 s) :
    Keeps r0 (State.spaceRead s sp m off size) := by
  unfold State.spaceRead
  repeat' first
    | with_reducible assumption
    | intro _
    | with_reducible apply State.accessR_keeps
    | with_reducible apply State.bar0Read_keeps
    | with_reducible apply State.out_keeps
    | with_reducible apply State.unsupported_keeps
    | with_reducible apply State.bar2Read_keeps
    | with_reducible apply State.cfgRead_keeps
    | with_reducible apply State.seqrAccess_keeps
    | with_reducible apply Keeps.ite
    | (lift_lets; intro _)
    | split
    | dsimp only
    | fail_if_no_progress with_reducible apply Keeps.upd
    | dsimp +zetaDelta only

theorem State.spaceWrite_keeps {r0 : State} (s : State) (sp : Space) (m : Nat) (off : Nat) (size : Nat) (v : Word64) (kp : Keeps r0 s) :
    Keeps r0 (State.spaceWrite s sp m off size v) := by
  unfold State.spaceWrite
  repeat' first
    | with_reducible assumption
    | intro _
    | with_reducible apply State.access_keeps
    | with_reducible apply State.bar0Write_keeps
    | with_reducible apply State.unsupported_keeps
    | with_reducible apply State.bar2Write_keeps
    | with_reducible apply State.cfgWrite_keeps
    | with_reducible apply State.seqrAccess_keeps
    | with_reducible apply Keeps.ite
    | (lift_lets; intro _)
    | split
    | dsimp only
    | fail_if_no_progress with_reducible apply Keeps.upd
    | dsimp +zetaDelta only

theorem execRegisterWrite_keeps {r0 sT : State} (sp : Space) (m : Nat) (off : Nat) (size : Nat) (v : Word64) (s : State) (kp : Keeps r0 s)
    (e : execRegisterWrite sp m off size v s = .next sT) : Keeps r0 sT := by
  unfold execRegisterWrite at e
  rw [← Host.Outcome.next.inj e]
  repeat' first
    | with_reducible assumption
    | intro _
    | with_reducible apply State.spaceWrite_keeps
    | with_reducible apply Keeps.ite
    | (lift_lets; intro _)
    | split
    | dsimp only
    | fail_if_no_progress with_reducible apply Keeps.upd
    | dsimp +zetaDelta only

theorem execLowerHalfRead_keeps {r0 sT : State} (m : Nat) (off : Nat) (s : State) (kp : Keeps r0 s)
    (e : execLowerHalfRead m off s = .next sT) : Keeps r0 sT := by
  unfold execLowerHalfRead at e
  rw [← Host.Outcome.next.inj e]
  repeat' first
    | with_reducible assumption
    | intro _
    | with_reducible apply State.accessR_keeps
    | with_reducible apply State.bar0Read_keeps
    | with_reducible apply Keeps.ite
    | (lift_lets; intro _)
    | split
    | dsimp only
    | fail_if_no_progress with_reducible apply Keeps.upd
    | dsimp +zetaDelta only

theorem execRclrRead_keeps {r0 sT : State} (sp : Space) (m : Nat) (off : Nat) (size : Nat) (s : State) (kp : Keeps r0 s)
    (e : execRclrRead sp m off size s = .next sT) : Keeps r0 sT := by
  unfold execRclrRead at e
  rw [← Host.Outcome.next.inj e]
  repeat' first
    | with_reducible assumption
    | intro _
    | with_reducible apply State.spaceRead_keeps
    | with_reducible apply Keeps.ite
    | (lift_lets; intro _)
    | split
    | dsimp only
    | fail_if_no_progress with_reducible apply Keeps.upd
    | dsimp +zetaDelta only

theorem execWindowWrite_keeps {r0 sT : State} (m : Nat) (off : Nat) (bytes : List Byte) (s : State) (kp : Keeps r0 s)
    (e : execWindowWrite m off bytes s = .next sT) : Keeps r0 sT := by
  unfold execWindowWrite at e
  rw [← Host.Outcome.next.inj e]
  repeat' first
    | with_reducible assumption
    | intro _
    | with_reducible apply State.access_keeps
    | with_reducible apply State.windowPut_keeps
    | with_reducible apply Keeps.ite
    | (lift_lets; intro _)
    | split
    | dsimp only
    | fail_if_no_progress with_reducible apply Keeps.upd
    | dsimp +zetaDelta only

end Sys2Proof.Machine
end

