-- ==== Sys2Proof/Laws/KeepsOperands.lean ====
section
/-! SUPPORT. The operations of Machine/Operands.lean keep the queue of commands and the form of the memory. -/

namespace Sys2Proof.Machine
open Sys2Proof

theorem State.ctxBeat_keeps {r0 : State} (s : State) (core : Nat) (k : Nat) (kp : Keeps r0 s) :
    Keeps r0 (State.ctxBeat s core k) := by
  unfold State.ctxBeat
  repeat' first
    | with_reducible assumption
    | intro _
    | with_reducible apply State.beat_keeps
    | with_reducible apply Keeps.ite
    | (lift_lets; intro _)
    | split
    | dsimp only
    | fail_if_no_progress with_reducible apply Keeps.upd
    | dsimp +zetaDelta only

theorem State.sendHalf_keeps {r0 : State} (s : State) (core : Nat) (k : Nat) (kp : Keeps r0 s) :
    Keeps r0 (State.sendHalf s core k) := by
  unfold State.sendHalf
  repeat' first
    | with_reducible assumption
    | intro _
    | with_reducible apply State.ctxBeat_keeps
    | with_reducible apply State.regWrite_keeps
    | with_reducible apply State.updCtx_keeps
    | with_reducible apply Keeps.ite
    | (lift_lets; intro _)
    | split
    | dsimp only
    | fail_if_no_progress with_reducible apply Keeps.upd
    | dsimp +zetaDelta only

theorem State.openRun_keeps {r0 : State} (s : State) (core : Nat) (k : Nat) (kp : Keeps r0 s) :
    Keeps r0 (State.openRun s core k) := by
  unfold State.openRun
  repeat' first
    | with_reducible assumption
    | intro _
    | with_reducible apply State.exitRun_keeps
    | with_reducible apply State.replaceCond_keeps
    | with_reducible apply State.beginSkip_keeps
    | with_reducible apply State.openEffect_keeps
    | with_reducible apply Keeps.ite
    | (lift_lets; intro _)
    | split
    | dsimp only
    | fail_if_no_progress with_reducible apply Keeps.upd
    | dsimp +zetaDelta only

theorem State.putLath_keeps {r0 : State} (s : State) (ch : Nat) (w : Nat) (v : Word) (kp : Keeps r0 s) :
    Keeps r0 (State.putLath s ch w v) := by
  unfold State.putLath
  repeat' first
    | with_reducible assumption
    | intro _
    | with_reducible apply State.setEvents_keeps
    | with_reducible apply State.goChan_keeps
    | with_reducible apply Keeps.ite
    | (lift_lets; intro _)
    | split
    | dsimp only
    | fail_if_no_progress with_reducible apply Keeps.upd
    | dsimp +zetaDelta only

end Sys2Proof.Machine
end

