-- ==== Sys2Proof/Laws/KeepsTraps.lean ====
section
/-! SUPPORT. The operations of Machine/Traps.lean keep the queue of commands and the form of the memory. -/

namespace Sys2Proof.Machine
open Sys2Proof

theorem State.startHandler_keeps {r0 : State} (s : State) (core : Nat) (k : Nat) (start : Word) (kp : Keeps r0 s) :
    Keeps r0 (State.startHandler s core k start) := by
  unfold State.startHandler
  repeat' first
    | with_reducible assumption
    | intro _
    | with_reducible apply State.updCtx_keeps
    | with_reducible apply Keeps.ite
    | (lift_lets; intro _)
    | split
    | dsimp only
    | fail_if_no_progress with_reducible apply Keeps.upd
    | dsimp +zetaDelta only

theorem State.passCycles_keeps {r0 : State} (s : State) (core : Nat) (n : Nat) (kp : Keeps r0 s) :
    Keeps r0 (State.passCycles s core n) := by
  unfold State.passCycles
  repeat' first
    | with_reducible assumption
    | intro _
    | with_reducible apply State.updCore_keeps
    | with_reducible apply Keeps.ite
    | (lift_lets; intro _)
    | split
    | dsimp only
    | fail_if_no_progress with_reducible apply Keeps.upd
    | dsimp +zetaDelta only

theorem State.enter_keeps {r0 : State} (s : State) (core : Nat) (k : Nat) (x : TrapEntry) (kp : Keeps r0 s) :
    Keeps r0 (State.enter s core k x) := by
  unfold State.enter
  repeat' first
    | with_reducible assumption
    | intro _
    | with_reducible apply State.sendHalf_keeps
    | with_reducible apply State.passWait_keeps
    | with_reducible apply State.store_keeps
    | with_reducible apply State.updCtx_keeps
    | with_reducible apply State.passCycles_keeps
    | with_reducible apply State.startHandler_keeps
    | with_reducible apply Keeps.ite
    | (lift_lets; intro _)
    | split
    | dsimp only
    | fail_if_no_progress with_reducible apply Keeps.upd
    | dsimp +zetaDelta only

theorem State.putSource_keeps {r0 : State} (s : State) (core : Nat) (k : Nat) (n : Nat) (kp : Keeps r0 s) :
    Keeps r0 (State.putSource s core k n) := by
  unfold State.putSource
  repeat' first
    | with_reducible assumption
    | intro _
    | with_reducible apply State.storeWord_keeps
    | with_reducible apply Keeps.ite
    | (lift_lets; intro _)
    | split
    | dsimp only
    | fail_if_no_progress with_reducible apply Keeps.upd
    | dsimp +zetaDelta only

theorem State.raise_keeps {r0 : State} (s : State) (core : Nat) (k : Nat) (x : Exc) (kp : Keeps r0 s) :
    Keeps r0 (State.raise s core k x) := by
  unfold State.raise
  repeat' first
    | with_reducible assumption
    | intro _
    | with_reducible apply State.accFault_keeps
    | with_reducible apply State.lockCore_keeps
    | with_reducible apply State.afterFree_keeps
    | with_reducible apply State.failRun_keeps
    | with_reducible apply State.takeWord_keeps
    | with_reducible apply State.enter_keeps
    | with_reducible apply Keeps.ite
    | (lift_lets; intro _)
    | split
    | dsimp only
    | fail_if_no_progress with_reducible apply Keeps.upd
    | dsimp +zetaDelta only

theorem State.declineOffer_keeps {r0 : State} (s : State) (core : Nat) (n : Nat) (kp : Keeps r0 s) :
    Keeps r0 (State.declineOffer s core n) := by
  unfold State.declineOffer
  repeat' first
    | with_reducible assumption
    | intro _
    | with_reducible apply State.route_keeps
    | with_reducible apply State.updSrc_keeps
    | with_reducible apply Keeps.ite
    | (lift_lets; intro _)
    | split
    | dsimp only
    | fail_if_no_progress with_reducible apply Keeps.upd
    | dsimp +zetaDelta only

theorem State.prepareCtx_keeps {r0 : State} (s : State) (core : Nat) (k : Nat) (kp : Keeps r0 s) :
    Keeps r0 (State.prepareCtx s core k) := by
  unfold State.prepareCtx
  repeat' first
    | with_reducible assumption
    | intro _
    | with_reducible apply State.updCtx_keeps
    | with_reducible apply Keeps.ite
    | (lift_lets; intro _)
    | split
    | dsimp only
    | fail_if_no_progress with_reducible apply Keeps.upd
    | dsimp +zetaDelta only

theorem State.declineAbsent_keeps {r0 : State} (s : State) (core : Nat) (k : Nat) (kp : Keeps r0 s) :
    Keeps r0 (State.declineAbsent s core k) := by
  unfold State.declineAbsent
  repeat' first
    | with_reducible assumption
    | intro _
    | with_reducible apply State.each_keeps
    | with_reducible apply State.declineOffer_keeps
    | with_reducible apply Keeps.ite
    | (lift_lets; intro _)
    | split
    | dsimp only
    | fail_if_no_progress with_reducible apply Keeps.upd
    | dsimp +zetaDelta only

theorem State.takeInt_keeps {r0 : State} (s : State) (core : Nat) (k : Nat) (n : Nat) (p : Nat) (kp : Keeps r0 s) :
    Keeps r0 (State.takeInt s core k n p) := by
  unfold State.takeInt
  repeat' first
    | with_reducible assumption
    | intro _
    | with_reducible apply State.lockCore_keeps
    | refine State.commitOffer_of ?_ (by with_reducible assumption)
    | with_reducible apply State.arrange_keeps
    | with_reducible apply State.putSource_keeps
    | with_reducible apply State.enter_keeps
    | with_reducible apply Keeps.ite
    | (lift_lets; intro _)
    | split
    | dsimp only
    | fail_if_no_progress with_reducible apply Keeps.upd
    | dsimp +zetaDelta only

theorem State.acceptInt_keeps {r0 : State} (s : State) (core : Nat) (kp : Keeps r0 s) :
    Keeps r0 (State.acceptInt s core) := by
  unfold State.acceptInt
  repeat' first
    | with_reducible assumption
    | intro _
    | with_reducible apply State.declineAbsent_keeps
    | with_reducible apply State.prepareCtx_keeps
    | with_reducible apply State.takeInt_keeps
    | with_reducible apply Keeps.ite
    | (lift_lets; intro _)
    | split
    | dsimp only
    | fail_if_no_progress with_reducible apply Keeps.upd
    | dsimp +zetaDelta only

theorem State.chainInt_keeps {r0 : State} (s : State) (core : Nat) (k : Nat) (n : Nat) (p : Nat) (kp : Keeps r0 s) :
    Keeps r0 (State.chainInt s core k n p) := by
  unfold State.chainInt
  repeat' first
    | with_reducible assumption
    | intro _
    | with_reducible apply State.lockCore_keeps
    | refine State.commitOffer_of ?_ (by with_reducible assumption)
    | with_reducible apply State.updCtx_keeps
    | with_reducible apply State.passCycles_keeps
    | with_reducible apply State.putSource_keeps
    | with_reducible apply State.startHandler_keeps
    | with_reducible apply Keeps.ite
    | (lift_lets; intro _)
    | split
    | dsimp only
    | fail_if_no_progress with_reducible apply Keeps.upd
    | dsimp +zetaDelta only

theorem State.retx_keeps {r0 : State} (s : State) (core : Nat) (k : Nat) (kp : Keeps r0 s) :
    Keeps r0 (State.retx s core k) := by
  unfold State.retx
  repeat' first
    | with_reducible assumption
    | intro _
    | with_reducible apply State.raise_keeps
    | with_reducible apply State.endTopService_keeps
    | with_reducible apply State.chainInt_keeps
    | with_reducible apply State.passCycles_keeps
    | with_reducible apply State.updCtx_keeps
    | with_reducible apply State.afterFree_keeps
    | with_reducible apply State.leaveCtx_keeps
    | with_reducible apply Keeps.ite
    | (lift_lets; intro _)
    | split
    | dsimp only
    | fail_if_no_progress with_reducible apply Keeps.upd
    | dsimp +zetaDelta only

end Sys2Proof.Machine
end

