-- ==== Sys2Proof/Laws/KeepsEv.lean ====
section
/-! SUPPORT. The steps of an instruction under way (operands, results, issue and completion) keep the queue of commands and the form
of the memory, and with them every instruction of Thrumzeg-16. -/

namespace Sys2Proof.Machine
open Sys2Proof

/-- A result that keeps: the state in it, found by `g`, does. -/
def Res {α : Type} (r0 : State) (g : α → State) (r : Except Exc α) : Prop := ∀ x, r = .ok x → Keeps r0 (g x)

theorem Res.error {α : Type} {r0 : State} {g : α → State} {x : Exc} : Res r0 g (.error x : Except Exc α) := by intro y h; cases h

theorem Res.ok {α : Type} {r0 : State} {g : α → State} {x : α} (h : Keeps r0 (g x)) : Res r0 g (.ok x : Except Exc α) := by
  intro y e; cases e; exact h

theorem Res.pure {α : Type} {r0 : State} {g : α → State} {x : α} (h : Keeps r0 (g x)) : Res r0 g (Pure.pure x : Except Exc α) :=
  Res.ok h

theorem Res.throw {α : Type} {r0 : State} {g : α → State} {x : Exc} : Res r0 g (throw x : Except Exc α) := Res.error

theorem Res.bind {α β : Type} {r0 : State} {g : α → State} {gb : β → State} {m : Except Exc β} {f : β → Except Exc α}
    (hm : Res r0 gb m) (hf : ∀ x, Keeps r0 (gb x) → Res r0 g (f x)) : Res r0 g (m >>= f) := by
  cases m with
  | error x => exact Res.error
  | ok x => exact hf x (hm x rfl)

/-- A step whose result holds no state. -/
theorem Res.bindFree {α β : Type} {r0 : State} {g : α → State} {m : Except Exc β} {f : β → Except Exc α}
    (hf : ∀ x, Res r0 g (f x)) : Res r0 g (m >>= f) := by
  cases m with
  | error x => exact Res.error
  | ok x => exact hf x

theorem Res.ite {α : Type} {r0 : State} {g : α → State} {c : Prop} [Decidable c] {a b : Except Exc α} (h : Res r0 g a)
    (k : Res r0 g b) : Res r0 g (if c then a else b) := by split <;> assumption

/-- The state of an instruction under way keeps. -/
abbrev EvK (r0 : State) (e : Ev) : Prop := Keeps r0 e.s
/-- The state beside a result. -/
abbrev snd {α : Type} (x : α × Ev) : State := x.2.s

theorem Ev.upd_keeps {r0 : State} (e : Ev) (f : Ctx → Ctx) (h : EvK r0 e) : EvK r0 (e.upd f) := State.updCtx_keeps _ _ _ _ h

theorem Ev.beat_keeps {r0 : State} (e : Ev) (h : EvK r0 e) : EvK r0 e.beat := State.ctxBeat_keeps _ _ _ h

theorem Ev.wake_keeps {r0 : State} (e : Ev) (off : Nat) (h : EvK r0 e) : EvK r0 (e.wake off) := State.wakeFor_keeps _ _ h

theorem Ev.onChain_keeps {r0 : State} (e : Ev) (cell start crossed : Nat) (h : EvK r0 e) : EvK r0 (e.onChain cell start crossed) := by
  unfold Ev.onChain
  exact Ev.beat_keeps _ (State.each_keeps _ _ _ (fun _ _ g => State.ctxBeat_keeps _ _ _ g) (Ev.upd_keeps _ _ h))

theorem State.coreRegRead_keeps {r0 : State} (s : State) (core k a : Nat) (h : Keeps r0 s) : Keeps r0 (s.coreRegRead core k a).2 := by
  unfold State.coreRegRead
  exact Keeps.upd (State.regRead_keeps _ _ _ _ _ h)

theorem Ev.freshWord_keeps {r0 : State} (e : Ev) (a : Nat) (odd : Bool) (h : EvK r0 e) : EvK r0 (e.freshWord a odd).2 := by
  unfold Ev.freshWord
  exact Ev.beat_keeps _ (State.updCtx_keeps _ _ _ _ (State.coreRegRead_keeps _ _ _ _ (State.sendHalf_keeps _ _ _ h)))

theorem Ev.regWord_keeps {r0 : State} (e : Ev) (off : Nat) (h : EvK r0 e) : EvK r0 (e.regWord off).2 := by
  unfold Ev.regWord
  dsimp only
  repeat' split
  · exact Ev.upd_keeps _ _ h
  · exact Ev.freshWord_keeps _ _ _ h
  · exact Ev.freshWord_keeps _ _ _ h

theorem Ev.putReg_keeps {r0 : State} (e : Ev) (off : Nat) (w : Word) (h : EvK r0 e) : EvK r0 (e.putReg off w) := by
  unfold Ev.putReg
  dsimp only
  split
  · exact State.updCtx_keeps _ _ _ _ (State.sendHalf_keeps _ _ _ (Ev.upd_keeps _ _ h))
  · refine Ev.beat_keeps _ (State.regWrite_keeps _ _ _ _ _ _ ?_)
    repeat' split
    · exact State.updCtx_keeps _ _ _ _ (Ev.upd_keeps _ _ h)
    · exact State.sendHalf_keeps _ _ _ (Ev.upd_keeps _ _ h)
    · exact Ev.upd_keeps _ _ h

theorem Ev.load_keeps {r0 : State} (e : Ev) (fetch : Bool) (p : Place) (h : EvK r0 e) : EvK r0 (e.load fetch p).2 := by
  cases p with
  | mem a =>
    unfold Ev.load
    dsimp only
    split
    · exact h
    · exact Ev.beat_keeps _ (Ev.wake_keeps _ _ h)
  | chain a cell start crossed => exact Ev.onChain_keeps _ _ _ _ (Ev.wake_keeps _ _ h)
  | reg off => exact Ev.regWord_keeps _ _ (Ev.wake_keeps _ _ h)
  | lath ch w => exact Ev.beat_keeps _ h
  | port p w => exact Ev.beat_keeps _ (Ev.wake_keeps _ _ h)
  | nothing => exact h

theorem Ev.putMem_keeps {r0 : State} (e : Ev) (a : Nat) (v : Word) (h : EvK r0 e) : EvK r0 (e.putMem a v) :=
  State.storeWord_keeps _ _ _ (Ev.upd_keeps _ _ h)

theorem Ev.put_keeps {r0 : State} (e : Ev) (p : Place) (v : Word) (h : EvK r0 e) : EvK r0 (e.put p v) := by
  cases p with
  | mem a =>
    unfold Ev.put
    dsimp only
    split
    · exact Ev.putMem_keeps _ _ _ h
    · exact Ev.beat_keeps _ (Ev.putMem_keeps _ _ _ (Ev.wake_keeps _ _ h))
  | chain a cell start crossed => exact Ev.onChain_keeps _ _ _ _ (Ev.putMem_keeps _ _ _ (Ev.wake_keeps _ _ h))
  | reg off => exact Ev.putReg_keeps _ _ _ (Ev.wake_keeps _ _ h)
  | lath ch w => exact Ev.beat_keeps _ (State.putLath_keeps _ _ _ _ h)
  | port p w =>
    unfold Ev.put
    dsimp only
    have g : Keeps r0 (if e.s.runSkips e.core e.k then e.s else e.s.openRun e.core e.k) := Keeps.ite h (State.openRun_keeps _ _ _ h)
    revert g
    generalize (if e.s.runSkips e.core e.k then e.s else e.s.openRun e.core e.k) = s1
    intro g
    split
    · exact Ev.beat_keeps _ (Ev.wake_keeps _ _ (Keeps.getD g fun t ht => State.winW_of g ht))
    · exact h
  | nothing => exact h

theorem Ev.puts_keeps {r0 : State} (e : Ev) (ps : List Place) (ws : List Word) (h : EvK r0 e) : EvK r0 (e.puts ps ws) := by
  induction ps generalizing e ws with
  | nil => exact h
  | cons p ps ih =>
    cases ws with
    | nil => exact h
    | cons w ws => exact ih _ _ (Ev.put_keeps _ _ _ h)

theorem Ev.read_keeps {r0 : State} (e : Ev) (acc n : Nat) (w : Word) (port : Bool) (h : EvK r0 e) :
    Res r0 snd (e.read acc n w port) := Res.bindFree fun _ => Res.pure (Ev.load_keeps _ _ _ h)

theorem Ev.putSlot_keeps {r0 : State} (e : Ev) (acc k : Nat) (v : Word) (h : EvK r0 e) : Res r0 Ev.s (e.putSlot acc k v) :=
  Res.bindFree fun _ => Res.pure (Ev.put_keeps _ _ _ h)

theorem Ev.loc_keeps {r0 : State} (e : Ev) (acc : Nat) (x : Word) (h : EvK r0 e) : Res r0 snd (e.loc acc x) := by
  unfold Ev.loc
  split
  · exact Res.ok h
  · exact Res.ok h
  · exact Res.ok h
  · refine Res.bind (Ev.read_keeps _ _ _ _ _ h) fun x hx => ?_
    dsimp only
    repeat' first | with_reducible apply Res.ite | exact Res.pure hx
    exact Res.bind (Ev.putSlot_keeps _ _ _ _ hx) fun y hy => Res.pure hy

theorem Ev.after_keeps {r0 : State} (e : Ev) (acc : Nat) (l : Loc) (h : EvK r0 e) : Res r0 Ev.s (e.after acc l) := by
  unfold Ev.after
  split
  · exact Res.ok h
  · exact Ev.putSlot_keeps _ _ _ _ h

theorem Ev.readWords_keeps {r0 : State} (e : Ev) (acc : Nat) (l : Loc) (n : Nat) (h : EvK r0 e) :
    Res r0 snd (e.readWords acc l n) := by
  induction n generalizing e l with
  | zero => exact Res.ok h
  | succ n ih => exact Res.bind (Ev.read_keeps _ _ _ _ _ h) fun x hx => Res.bind (ih _ _ hx) fun y hy => Res.pure hy

theorem Ev.sources_keeps {r0 : State} (e : Ev) (acc : Nat) (x : Word) (n : Nat) (h : EvK r0 e) :
    Res r0 snd (e.sources acc x n) :=
  Res.ite (Res.ok h) <| Res.bind (Ev.loc_keeps _ _ _ h) fun _ h1 => Res.bind (Ev.readWords_keeps _ _ _ _ h1) fun _ h2 =>
    Res.bind (Ev.after_keeps _ _ _ h2) fun _ h3 => Res.pure h3

theorem Ev.source_keeps {r0 : State} (e : Ev) (acc : Nat) (x : Word) (h : EvK r0 e) : Res r0 snd (e.source acc x) :=
  Res.bind (Ev.sources_keeps _ _ _ _ h) fun _ h1 => Res.pure h1

theorem Ev.dest_keeps {r0 : State} (e : Ev) (x : Word) (n : Nat) (h : EvK r0 e) : Res r0 snd (e.dest x n) :=
  Res.bind (Ev.loc_keeps _ _ _ h) fun _ h1 => Res.bindFree fun _ => Res.bind (Ev.after_keeps _ _ _ h1) fun _ h2 => Res.pure h2

theorem Ev.fetchWord_keeps {r0 : State} (e : Ev) (w : Word) (h : EvK r0 e) : Res r0 snd (e.fetchWord w) :=
  Res.bindFree fun _ => Res.pure (Ev.load_keeps _ _ _ h)

theorem Ev.fetchWord_of {r0 : State} {e e1 : Ev} {w x : Word} (h : EvK r0 e) (g : e.fetchWord w = .ok (x, e1)) : EvK r0 e1 :=
  Ev.fetchWord_keeps e w h _ g

theorem Ev.fetchRest_keeps {r0 : State} (e : Ev) (op : Op) (w : Word) (h : EvK r0 e) : Res r0 snd (e.fetchRest op w) :=
  Res.ite (Res.bind (Ev.fetchWord_keeps _ _ h) fun _ h1 => Res.bind (Ev.fetchWord_keeps _ _ h1) fun _ h2 =>
    Res.bind (Ev.fetchWord_keeps _ _ h2) fun _ h3 => Res.pure h3) (Res.pure h)

theorem State.annulNext_keeps {r0 : State} (s : State) (core k : Nat) (h : Keeps r0 s) : Keeps r0 (s.annulNext core k) := by
  unfold State.annulNext
  dsimp only
  split
  · exact State.updCtx_keeps _ _ _ _ h
  · rename_i w e1 g
    exact State.updCtx_keeps _ _ _ _ (Ev.fetchWord_of (e := s.ev core k) h g)

theorem State.keepPtr_keeps {r0 : State} (s : State) (core k : Nat) (h : Keeps r0 s) : Keeps r0 (s.keepPtr core k) :=
  Keeps.ite h (State.updCore_keeps _ _ _ h)

theorem Ev.finish_keeps {r0 : State} (e : Ev) (i : Ins) (h : EvK r0 e) : Res r0 id (e.finish i) := by
  unfold Ev.finish
  dsimp only
  refine Res.ite Res.error ?_
  have g : ∀ f n, Keeps r0 ((e.s.updCtx e.core e.k f).setNow e.core e.k n) := fun f n =>
    State.setNow_keeps _ _ _ _ (State.updCtx_keeps _ _ _ _ h)
  refine Res.ok ?_
  show Keeps r0 _
  unfold id
  split
  · exact State.annulNext_keeps _ _ _ (g _ _)
  · exact State.keepPtr_keeps _ _ _ (g _ _)
  · exact State.mark_keeps _ _ _ (g _ _)
  · exact g _ _

theorem State.settleIns_keeps {r0 : State} (s : State) (core k : Nat) (r : Except Exc State) (h : Keeps r0 s) (g : Res r0 id r) :
    Keeps r0 (s.settleIns core k r) := by
  unfold State.settleIns
  split
  · exact g _ rfl
  · exact Keeps.ite (State.openRun_keeps _ _ _ h) (State.raise_keeps _ _ _ _ h)

theorem State.movePtr_keeps {r0 : State} (s : State) (core k : Nat) (h : Keeps r0 s) : Keeps r0 (s.movePtr core k) :=
  Keeps.ite h (State.updCore_keeps _ _ _ h)

/-- The body of an instruction keeps. -/
def BodyK (r0 : State) (body : Ev → Ins → Except Exc State) : Prop := ∀ e i, EvK r0 e → Res r0 id (body e i)

theorem Ev.ranked_keeps {r0 : State} (e : Ev) (i : Ins) (r : Except Exc State) (h : Res r0 id r) : Res r0 id (e.ranked i r) := by
  unfold Ev.ranked
  split
  · exact h
  · exact Res.error

theorem Ev.run_keeps {r0 : State} (e : Ev) (i : Ins) {body : Ev → Ins → Except Exc State} (hb : BodyK r0 body) (h : EvK r0 e) :
    Res r0 id (e.run i body) := Res.ite Res.error (Res.ite Res.error (Res.ite Res.error (Ev.ranked_keeps _ _ _ (hb _ _ h))))

theorem State.issueOne_keeps {r0 : State} (s : State) (core k : Nat) (op : Op) (undef : Bool) {body : Ev → Ins → Except Exc State}
    (hb : BodyK r0 body) (h : Keeps r0 s) : Keeps r0 (s.issueOne core k op undef body) := by
  unfold State.issueOne
  dsimp only
  have h0 : Keeps r0 (s.updCtx core k fun c => c.dropStale (s.now core k)) := State.updCtx_keeps _ _ _ _ h
  revert h0
  generalize (s.updCtx core k fun c => c.dropStale (s.now core k)) = s0
  intro h0
  split
  · exact State.raise_keeps _ _ _ _ (State.movePtr_keeps _ _ _ h0)
  · rename_i w e1 g
    have h1 : EvK r0 e1 := Ev.fetchWord_of (e := s0.ev core k) h0 g
    refine Keeps.ite (State.annulNext_keeps _ _ _ h) ?_
    split
    · exact Keeps.ite h (State.settleIns_keeps _ _ _ _ (State.movePtr_keeps _ _ _ h0) (Res.bindFree fun _ => Res.error))
    · refine Keeps.ite h (State.settleIns_keeps _ _ _ _ (State.movePtr_keeps _ _ _ h0) ?_)
      refine Res.bind (gb := snd) (Ev.fetchRest_keeps _ _ _ ?_) fun x hx => Ev.run_keeps _ _ hb hx
      exact State.movePtr_keeps _ _ _ h1

theorem State.issue_keeps {r0 : State} (s : State) (core k : Nat) (op : Op) (undef : Bool) {body : Ev → Ins → Except Exc State}
    (hb : BodyK r0 body) (h : Keeps r0 s) : Keeps r0 (s.issue core k op undef body) := by
  unfold State.issue
  dsimp only
  split
  · exact State.arrange_keeps _ _ (State.issueOne_keeps _ _ _ _ _ hb (State.arrange_keeps _ _ h))
  · exact h

theorem Ev.alu_keeps {r0 : State} (f : Flags → Word → Word → Except Exc (Word × Flags)) :
    BodyK r0 fun e i => e.alu i f := fun _ _ h =>
  Res.bind (Ev.source_keeps _ _ _ h) fun _ h1 => Res.bind (Ev.source_keeps _ _ _ h1) fun _ h2 =>
    Res.bind (Ev.dest_keeps _ _ _ h2) fun _ h3 => Res.bindFree fun _ =>
      Ev.finish_keeps _ _ (Ev.upd_keeps _ _ (Ev.puts_keeps _ _ _ h3))

theorem Ev.unary_keeps {r0 : State} (f : Flags → Word → Word × Flags) : BodyK r0 fun e i => e.unary i f := fun _ _ h =>
  Res.bind (Ev.source_keeps _ _ _ h) fun _ h1 => Res.bind (Ev.dest_keeps _ _ _ h1) fun _ h3 =>
    Ev.finish_keeps _ _ (Ev.upd_keeps _ _ (Ev.puts_keeps _ _ _ h3))

theorem Ev.test_keeps {r0 : State} (f : Flags → Word → Word → Word × Flags) : BodyK r0 fun e i => e.test i f := fun _ _ h =>
  Res.bind (Ev.source_keeps _ _ _ h) fun _ h1 => Res.bind (Ev.source_keeps _ _ _ h1) fun _ h2 =>
    Ev.finish_keeps _ _ (Ev.upd_keeps _ _ h2)

theorem Ev.skipIf_keeps {r0 : State} (f : Word → Word → Bool) : BodyK r0 fun e i => e.skipIf i f := fun _ _ h =>
  Res.bind (Ev.source_keeps _ _ _ h) fun _ h1 => Res.bind (Ev.source_keeps _ _ _ h1) fun _ h2 => Ev.finish_keeps _ _ h2

theorem Ev.returnAddr_keeps {r0 : State} (e : Ev) (i : Ins) (h : EvK r0 e) : EvK r0 (e.returnAddr i).2 := by
  unfold Ev.returnAddr
  dsimp only
  split
  · rename_i w e1 g
    exact Ev.fetchWord_of h g
  · exact State.takeWord_keeps _ h

theorem Ev.jumpTo_keeps {r0 : State} (e : Ev) (i : Ins) (t : Word) (call : Bool) (h : EvK r0 e) : Res r0 id (e.jumpTo i t call) :=
  Res.ite (Res.bind (Ev.dest_keeps _ _ _ (Ev.returnAddr_keeps _ i h)) fun _ h1 => Ev.finish_keeps _ _ (Ev.puts_keeps _ _ _ h1))
    (Ev.finish_keeps _ _ h)

theorem Ev.exit_keeps {r0 : State} (e : Ev) (u x : Word) (h : EvK r0 e) : Keeps r0 (e.exit u x) := by
  unfold Ev.exit
  dsimp only
  have g : ∀ f n, Keeps r0 (((e.s.sendHalf e.core e.k).updCtx e.core e.k f).setNow e.core e.k n) := fun f n =>
    State.setNow_keeps _ _ _ _ (State.updCtx_keeps _ _ _ _ (State.sendHalf_keeps _ _ _ h))
  split
  · exact State.exitRun_keeps _ _ _ _ _ (g _ _)
  · exact State.afterFree_keeps _ _ (State.leaveCtx_keeps _ _ _ _ (g _ _))

theorem State.sreg_keeps {r0 : State} (s : State) (core k n : Nat) (h : Keeps r0 s) : Keeps r0 (s.sreg core k n).2 := by
  unfold State.sreg State.boundLeft
  dsimp only
  repeat' split
  all_goals exact h

theorem Ev.moveWord_keeps {r0 : State} (e : Ev) (x : Block) (h : EvK r0 e) : Res r0 snd (e.moveWord x) := by
  have k : ∀ y : Word × Ev, EvK r0 y.2 → ∀ p n, EvK r0 (((if x.aseg.isSome = true then (y.2.put p y.1).put x.pa (x.aptr + 1)
      else y.2.put p y.1).put x.pd (x.dptr + 1)).put x.pn n) := by
    intro y h1 p n
    refine Ev.put_keeps _ _ _ (Ev.put_keeps _ _ _ ?_)
    split
    · exact Ev.put_keeps _ _ _ (Ev.put_keeps _ _ _ h1)
    · exact Ev.put_keeps _ _ _ h1
  unfold Ev.moveWord
  refine Res.ite Res.error ?_
  dsimp only
  split
  · exact Res.bind (g := snd) (Ev.read_keeps _ _ _ _ _ h) fun y h1 => Res.bindFree fun p => Res.pure (k y h1 p _)
  · exact Res.bind (g := snd) (gb := snd) (Res.ok (x := (x.fill, e)) h) fun y h1 => Res.bindFree fun p => Res.pure (k y h1 p _)

theorem Ev.stopBlock_keeps {r0 : State} (e : Ev) (x : Block) (t : Exc) (h : EvK r0 e) : Keeps r0 (e.stopBlock x t) := by
  unfold Ev.stopBlock
  refine State.raise_keeps _ _ _ _ (State.updCtx_keeps _ _ _ _ ?_)
  split
  · exact h
  · exact State.storeWord_keeps _ _ _ h

theorem Ev.moveNext_keeps {r0 : State} (e : Ev) (i : Ins) (x : Block) (h : EvK r0 e) : Res r0 id (e.moveNext i x) := by
  unfold Ev.moveNext
  refine Res.ite (Ev.finish_keeps _ _ (Ev.upd_keeps _ _ h)) ?_
  split
  · exact Res.ok (Ev.stopBlock_keeps _ _ _ h)
  · rename_i p e1 g
    have h1 : EvK r0 e1 := Ev.moveWord_keeps e x h _ g
    exact Res.ite (Ev.finish_keeps _ _ (Ev.upd_keeps _ _ h1)) (Ev.finish_keeps _ _ (Ev.upd_keeps _ _ h1))

theorem State.blockNext_keeps {r0 : State} (s : State) (core k : Nat) (x : Block) (h : Keeps r0 s) : Keeps r0 (s.blockNext core k x) := by
  unfold State.blockNext
  have h1 := State.movePtr_keeps _ core k (State.updCtx_keeps s core k (fun c => c.dropStale (s.now core k)) h)
  exact State.settleIns_keeps _ _ _ _ h1 (Ev.moveNext_keeps _ _ _ h1)

theorem State.issueBlock_keeps {r0 : State} (s : State) (core k : Nat) (op : Op) {body : Ev → Ins → Except Exc State}
    (hb : BodyK r0 body) (h : Keeps r0 s) : Keeps r0 (s.issueBlock core k op body) := by
  unfold State.issueBlock
  dsimp only
  split
  · exact State.issue_keeps _ _ _ _ _ hb h
  · exact Keeps.ite (State.arrange_keeps _ _ (State.blockNext_keeps _ _ _ _ (State.arrange_keeps _ _ h))) h

theorem State.alu3_keeps {r0 : State} (s : State) (core ctx : Nat) (op : Op) (f : Flags → Word → Word → Word × Flags)
    (h : Keeps r0 s) : Keeps r0 (s.alu3 core ctx op f) := State.issue_keeps _ _ _ _ _ (Ev.alu_keeps _) h

theorem State.divide_keeps {r0 : State} (s : State) (core ctx : Nat) (op : Op) (f : Nat → Nat → Nat)
    (h : Keeps r0 s) : Keeps r0 (s.divide core ctx op f) := State.issue_keeps _ _ _ _ _ (Ev.alu_keeps _) h

theorem State.skip_keeps {r0 : State} (s : State) (core ctx : Nat) (op : Op) (n : Nat)
    (h : Keeps r0 s) : Keeps r0 (s.skip core ctx op n) := State.issue_keeps _ _ _ _ _ (Ev.skipIf_keeps _) h

theorem State.jumpA_keeps {r0 : State} (s : State) (core ctx : Nat) (op : Op) (call : Bool)
    (h : Keeps r0 s) : Keeps r0 (s.jumpA core ctx op call) :=
  State.issue_keeps _ _ _ _ _ (fun _ _ h => Res.bind (Ev.source_keeps _ _ _ h) fun _ h1 => Ev.jumpTo_keeps _ _ _ _ h1) h

theorem State.sendEvent_keeps {r0 : State} (s : State) (core : Nat) (v : Word) (h : Keeps r0 s) : Keeps r0 (s.sendEvent core v) := by
  unfold State.sendEvent
  refine Keeps.ite ?_ (Keeps.ite h (State.setLatch_keeps _ _ _ h))
  exact State.each_keeps _ _ _ (fun t _ ht => State.each_keeps _ _ _ (fun u _ hu => State.setLatch_keeps _ _ _ hu) ht) h

end Sys2Proof.Machine
end

