-- ==== Sys2Proof/Laws/KeepsIsa.lean ====
section
/-! SUPPORT. Every instruction of Thrumzeg-16 keeps the queue of commands and the form of the memory. -/

namespace Sys2Proof.Machine
open Sys2Proof

theorem execNop_keeps {r0 sT : State} (core ctx : Nat) (s : State) (kp : Keeps r0 s) (e : execNop core ctx s = .next sT) :
    Keeps r0 sT := by
  unfold execNop at e
  rw [← Host.Outcome.next.inj e]
  exact State.issue_keeps _ _ _ _ _ (fun _ _ h => Ev.finish_keeps _ _ h) kp

theorem execMov_keeps {r0 sT : State} (core ctx : Nat) (s : State) (kp : Keeps r0 s) (e : execMov core ctx s = .next sT) :
    Keeps r0 sT := by
  unfold execMov at e
  rw [← Host.Outcome.next.inj e]
  exact State.issue_keeps _ _ _ _ _ (Ev.unary_keeps _) kp

theorem execMovq_keeps {r0 sT : State} (core ctx : Nat) (s : State) (kp : Keeps r0 s) (e : execMovq core ctx s = .next sT) :
    Keeps r0 sT := by
  unfold execMovq at e
  rw [← Host.Outcome.next.inj e]
  exact State.issue_keeps _ _ _ _ _ (Ev.unary_keeps _) kp

theorem execMovk_keeps {r0 sT : State} (core ctx : Nat) (s : State) (kp : Keeps r0 s) (e : execMovk core ctx s = .next sT) :
    Keeps r0 sT := by
  unfold execMovk at e
  rw [← Host.Outcome.next.inj e]
  exact State.issue_keeps _ _ _ _ _ (fun _ _ h => Res.bind (Ev.dest_keeps _ _ _ h) fun _ h1 =>
    Ev.finish_keeps _ _ (Ev.puts_keeps _ _ _ h1)) kp

theorem execAdd_keeps {r0 sT : State} (core ctx : Nat) (s : State) (kp : Keeps r0 s) (e : execAdd core ctx s = .next sT) :
    Keeps r0 sT := by
  unfold execAdd at e
  rw [← Host.Outcome.next.inj e]
  exact State.alu3_keeps _ _ _ _ _ kp

theorem execAdc_keeps {r0 sT : State} (core ctx : Nat) (s : State) (kp : Keeps r0 s) (e : execAdc core ctx s = .next sT) :
    Keeps r0 sT := by
  unfold execAdc at e
  rw [← Host.Outcome.next.inj e]
  exact State.alu3_keeps _ _ _ _ _ kp

theorem execAddq_keeps {r0 sT : State} (core ctx : Nat) (s : State) (kp : Keeps r0 s) (e : execAddq core ctx s = .next sT) :
    Keeps r0 sT := by
  unfold execAddq at e
  rw [← Host.Outcome.next.inj e]
  exact State.alu3_keeps _ _ _ _ _ kp

theorem execSub_keeps {r0 sT : State} (core ctx : Nat) (s : State) (kp : Keeps r0 s) (e : execSub core ctx s = .next sT) :
    Keeps r0 sT := by
  unfold execSub at e
  rw [← Host.Outcome.next.inj e]
  exact State.alu3_keeps _ _ _ _ _ kp

theorem execSbb_keeps {r0 sT : State} (core ctx : Nat) (s : State) (kp : Keeps r0 s) (e : execSbb core ctx s = .next sT) :
    Keeps r0 sT := by
  unfold execSbb at e
  rw [← Host.Outcome.next.inj e]
  exact State.alu3_keeps _ _ _ _ _ kp

theorem execAnd_keeps {r0 sT : State} (core ctx : Nat) (s : State) (kp : Keeps r0 s) (e : execAnd core ctx s = .next sT) :
    Keeps r0 sT := by
  unfold execAnd at e
  rw [← Host.Outcome.next.inj e]
  exact State.alu3_keeps _ _ _ _ _ kp

theorem execOr_keeps {r0 sT : State} (core ctx : Nat) (s : State) (kp : Keeps r0 s) (e : execOr core ctx s = .next sT) :
    Keeps r0 sT := by
  unfold execOr at e
  rw [← Host.Outcome.next.inj e]
  exact State.alu3_keeps _ _ _ _ _ kp

theorem execXor_keeps {r0 sT : State} (core ctx : Nat) (s : State) (kp : Keeps r0 s) (e : execXor core ctx s = .next sT) :
    Keeps r0 sT := by
  unfold execXor at e
  rw [← Host.Outcome.next.inj e]
  exact State.alu3_keeps _ _ _ _ _ kp

theorem execNot_keeps {r0 sT : State} (core ctx : Nat) (s : State) (kp : Keeps r0 s) (e : execNot core ctx s = .next sT) :
    Keeps r0 sT := by
  unfold execNot at e
  rw [← Host.Outcome.next.inj e]
  exact State.issue_keeps _ _ _ _ _ (Ev.unary_keeps _) kp

theorem execNeg_keeps {r0 sT : State} (core ctx : Nat) (s : State) (kp : Keeps r0 s) (e : execNeg core ctx s = .next sT) :
    Keeps r0 sT := by
  unfold execNeg at e
  rw [← Host.Outcome.next.inj e]
  exact State.issue_keeps _ _ _ _ _ (Ev.unary_keeps _) kp

theorem execShl_keeps {r0 sT : State} (core ctx : Nat) (s : State) (kp : Keeps r0 s) (e : execShl core ctx s = .next sT) :
    Keeps r0 sT := by
  unfold execShl at e
  rw [← Host.Outcome.next.inj e]
  exact State.alu3_keeps _ _ _ _ _ kp

theorem execShr_keeps {r0 sT : State} (core ctx : Nat) (s : State) (kp : Keeps r0 s) (e : execShr core ctx s = .next sT) :
    Keeps r0 sT := by
  unfold execShr at e
  rw [← Host.Outcome.next.inj e]
  exact State.alu3_keeps _ _ _ _ _ kp

theorem execSar_keeps {r0 sT : State} (core ctx : Nat) (s : State) (kp : Keeps r0 s) (e : execSar core ctx s = .next sT) :
    Keeps r0 sT := by
  unfold execSar at e
  rw [← Host.Outcome.next.inj e]
  exact State.alu3_keeps _ _ _ _ _ kp

theorem execRol_keeps {r0 sT : State} (core ctx : Nat) (s : State) (kp : Keeps r0 s) (e : execRol core ctx s = .next sT) :
    Keeps r0 sT := by
  unfold execRol at e
  rw [← Host.Outcome.next.inj e]
  exact State.alu3_keeps _ _ _ _ _ kp

theorem execMul_keeps {r0 sT : State} (core ctx : Nat) (s : State) (kp : Keeps r0 s) (e : execMul core ctx s = .next sT) :
    Keeps r0 sT := by
  unfold execMul at e
  rw [← Host.Outcome.next.inj e]
  exact State.alu3_keeps _ _ _ _ _ kp

theorem execMulhu_keeps {r0 sT : State} (core ctx : Nat) (s : State) (kp : Keeps r0 s) (e : execMulhu core ctx s = .next sT) :
    Keeps r0 sT := by
  unfold execMulhu at e
  rw [← Host.Outcome.next.inj e]
  exact State.alu3_keeps _ _ _ _ _ kp

theorem execMulhs_keeps {r0 sT : State} (core ctx : Nat) (s : State) (kp : Keeps r0 s) (e : execMulhs core ctx s = .next sT) :
    Keeps r0 sT := by
  unfold execMulhs at e
  rw [← Host.Outcome.next.inj e]
  exact State.alu3_keeps _ _ _ _ _ kp

theorem execDivu_keeps {r0 sT : State} (core ctx : Nat) (s : State) (kp : Keeps r0 s) (e : execDivu core ctx s = .next sT) :
    Keeps r0 sT := by
  unfold execDivu at e
  rw [← Host.Outcome.next.inj e]
  exact State.divide_keeps _ _ _ _ _ kp

theorem execRemu_keeps {r0 sT : State} (core ctx : Nat) (s : State) (kp : Keeps r0 s) (e : execRemu core ctx s = .next sT) :
    Keeps r0 sT := by
  unfold execRemu at e
  rw [← Host.Outcome.next.inj e]
  exact State.divide_keeps _ _ _ _ _ kp

theorem execCmp_keeps {r0 sT : State} (core ctx : Nat) (s : State) (kp : Keeps r0 s) (e : execCmp core ctx s = .next sT) :
    Keeps r0 sT := by
  unfold execCmp at e
  rw [← Host.Outcome.next.inj e]
  exact State.issue_keeps _ _ _ _ _ (Ev.test_keeps _) kp

theorem execTst_keeps {r0 sT : State} (core ctx : Nat) (s : State) (kp : Keeps r0 s) (e : execTst core ctx s = .next sT) :
    Keeps r0 sT := by
  unfold execTst at e
  rw [← Host.Outcome.next.inj e]
  exact State.issue_keeps _ _ _ _ _ (Ev.test_keeps _) kp

theorem execBfext_keeps {r0 sT : State} (core ctx : Nat) (s : State) (kp : Keeps r0 s) (e : execBfext core ctx s = .next sT) :
    Keeps r0 sT := by
  unfold execBfext at e
  rw [← Host.Outcome.next.inj e]
  exact State.issue_keeps _ _ _ _ _ (fun _ _ h => Res.bind (Ev.sources_keeps _ _ _ _ h) fun _ h1 =>
    Res.bind (Ev.source_keeps _ _ _ h1) fun _ h2 => Res.bind (Ev.dest_keeps _ _ _ h2) fun _ h3 => Res.bindFree fun _ =>
    Ev.finish_keeps _ _ (Ev.upd_keeps _ _ (Ev.puts_keeps _ _ _ h3))) kp

theorem execBfins_keeps {r0 sT : State} (core ctx : Nat) (s : State) (kp : Keeps r0 s) (e : execBfins core ctx s = .next sT) :
    Keeps r0 sT := by
  unfold execBfins at e
  rw [← Host.Outcome.next.inj e]
  exact State.issue_keeps _ _ _ _ _ (fun _ _ h => Res.bind (Ev.source_keeps _ _ _ h) fun _ h1 =>
    Res.bind (Ev.source_keeps _ _ _ h1) fun _ h2 => Res.bind (Ev.loc_keeps _ _ _ h2) fun _ h3 =>
    Res.bind (Ev.readWords_keeps _ _ _ _ h3) fun _ h4 => Res.bindFree fun _ => Res.bindFree fun _ =>
    Ev.finish_keeps _ _ (Ev.upd_keeps _ _ (Ev.puts_keeps _ _ _ h4))) kp

theorem execClz_keeps {r0 sT : State} (core ctx : Nat) (s : State) (kp : Keeps r0 s) (e : execClz core ctx s = .next sT) :
    Keeps r0 sT := by
  unfold execClz at e
  rw [← Host.Outcome.next.inj e]
  exact State.issue_keeps _ _ _ _ _ (Ev.unary_keeps _) kp

theorem execBperm_keeps {r0 sT : State} (core ctx : Nat) (s : State) (kp : Keeps r0 s) (e : execBperm core ctx s = .next sT) :
    Keeps r0 sT := by
  unfold execBperm at e
  rw [← Host.Outcome.next.inj e]
  exact State.issue_keeps _ _ _ _ _ (fun _ _ h => Res.bind (Ev.source_keeps _ _ _ h) fun _ h1 =>
    Res.bind (Ev.sources_keeps _ _ _ _ h1) fun _ h2 => Res.bind (Ev.dest_keeps _ _ _ h2) fun _ h3 =>
    Ev.finish_keeps _ _ (Ev.upd_keeps _ _ (Ev.puts_keeps _ _ _ h3))) kp

theorem execRetx_keeps {r0 sT : State} (core ctx : Nat) (s : State) (kp : Keeps r0 s) (e : execRetx core ctx s = .next sT) :
    Keeps r0 sT := by
  unfold execRetx at e
  rw [← Host.Outcome.next.inj e]
  exact State.issue_keeps _ _ _ _ _ (fun _ _ h => Res.ite Res.error (Res.ok (State.retx_keeps _ _ _ h))) kp

theorem execTrap_keeps {r0 sT : State} (core ctx : Nat) (s : State) (kp : Keeps r0 s) (e : execTrap core ctx s = .next sT) :
    Keeps r0 sT := by
  unfold execTrap at e
  rw [← Host.Outcome.next.inj e]
  exact State.issue_keeps _ _ _ _ _ (fun _ _ _ => Res.error) kp

theorem execExit_keeps {r0 sT : State} (core ctx : Nat) (s : State) (kp : Keeps r0 s) (e : execExit core ctx s = .next sT) :
    Keeps r0 sT := by
  unfold execExit at e
  rw [← Host.Outcome.next.inj e]
  exact State.issue_keeps _ _ _ _ _ (fun _ _ h => Res.ite Res.error (Res.bind (Ev.source_keeps _ _ _ h) fun _ h1 =>
    Res.bind (Ev.source_keeps _ _ _ h1) fun _ h2 => Res.pure (Ev.exit_keeps _ _ _ h2))) kp

theorem execWfe_keeps {r0 sT : State} (core ctx : Nat) (s : State) (kp : Keeps r0 s) (e : execWfe core ctx s = .next sT) :
    Keeps r0 sT := by
  unfold execWfe at e
  rw [← Host.Outcome.next.inj e]
  exact State.issue_keeps _ _ _ _ _ (fun _ _ h => Res.ite (Ev.finish_keeps _ _ (Ev.upd_keeps _ _ h)) (Ev.finish_keeps _ _ h)) kp

theorem execSev_keeps {r0 sT : State} (core ctx : Nat) (s : State) (kp : Keeps r0 s) (e : execSev core ctx s = .next sT) :
    Keeps r0 sT := by
  unfold execSev at e
  rw [← Host.Outcome.next.inj e]
  exact State.issue_keeps _ _ _ _ _ (fun _ _ h => Res.bind (Ev.source_keeps _ _ _ h) fun _ h1 =>
    Ev.finish_keeps _ _ (State.sendEvent_keeps _ _ _ h1)) kp

theorem execWaitt_keeps {r0 sT : State} (core ctx : Nat) (s : State) (kp : Keeps r0 s) (e : execWaitt core ctx s = .next sT) :
    Keeps r0 sT := by
  unfold execWaitt at e
  rw [← Host.Outcome.next.inj e]
  exact State.issue_keeps _ _ _ _ _ (fun _ _ h => Res.bind (Ev.sources_keeps _ _ _ _ h) fun _ h1 =>
    Res.ite (Ev.finish_keeps _ _ h1) (Ev.finish_keeps _ _ h1)) kp

theorem execLseg_keeps {r0 sT : State} (core ctx : Nat) (s : State) (kp : Keeps r0 s) (e : execLseg core ctx s = .next sT) :
    Keeps r0 sT := by
  unfold execLseg at e
  rw [← Host.Outcome.next.inj e]
  exact State.issue_keeps _ _ _ _ _ (fun _ _ h => Res.bind (Ev.sources_keeps _ _ _ _ h) fun _ h1 =>
    Res.ite Res.error (Ev.finish_keeps _ _ (Ev.upd_keeps _ _ h1))) kp

theorem execSseg_keeps {r0 sT : State} (core ctx : Nat) (s : State) (kp : Keeps r0 s) (e : execSseg core ctx s = .next sT) :
    Keeps r0 sT := by
  unfold execSseg at e
  rw [← Host.Outcome.next.inj e]
  exact State.issue_keeps _ _ _ _ _ (fun _ _ h => Res.bind (Ev.dest_keeps _ _ _ h) fun _ h1 =>
    Ev.finish_keeps _ _ (Ev.puts_keeps _ _ _ h1)) kp

theorem execMfsr_keeps {r0 sT : State} (core ctx : Nat) (s : State) (kp : Keeps r0 s) (e : execMfsr core ctx s = .next sT) :
    Keeps r0 sT := by
  unfold execMfsr at e
  rw [← Host.Outcome.next.inj e]
  exact State.issue_keeps _ _ _ _ _ (fun _ _ h => Res.bind (Ev.dest_keeps _ _ _ h) fun _ h1 =>
    Ev.finish_keeps _ _ (Ev.puts_keeps _ _ _ (State.sreg_keeps _ _ _ _ h1))) kp

theorem execMtsr_keeps {r0 sT : State} (core ctx : Nat) (s : State) (kp : Keeps r0 s) (e : execMtsr core ctx s = .next sT) :
    Keeps r0 sT := by
  unfold execMtsr at e
  rw [← Host.Outcome.next.inj e]
  exact State.issue_keeps _ _ _ _ _ (fun _ _ h => Res.bind (Ev.source_keeps _ _ _ h) fun _ h1 =>
    Ev.finish_keeps _ _ (Ev.upd_keeps _ _ h1)) kp

theorem execMovb_keeps {r0 sT : State} (core ctx : Nat) (s : State) (kp : Keeps r0 s) (e : execMovb core ctx s = .next sT) :
    Keeps r0 sT := by
  unfold execMovb at e
  rw [← Host.Outcome.next.inj e]
  exact State.issueBlock_keeps _ _ _ _ (fun _ _ h => Res.bindFree fun _ => Res.bind (Ev.read_keeps _ _ _ _ _ h) fun _ h1 =>
    Res.bind (Ev.loc_keeps _ _ _ h1) fun _ h2 => Res.bindFree fun _ => Res.bind (Ev.read_keeps _ _ _ _ _ h2) fun _ h3 =>
    Res.bindFree fun _ => Res.bind (Ev.read_keeps _ _ _ _ _ h3) fun _ h4 =>
    Res.ite Res.error (Ev.moveNext_keeps _ _ _ h4)) kp

theorem execFillb_keeps {r0 sT : State} (core ctx : Nat) (s : State) (kp : Keeps r0 s) (e : execFillb core ctx s = .next sT) :
    Keeps r0 sT := by
  unfold execFillb at e
  rw [← Host.Outcome.next.inj e]
  exact State.issueBlock_keeps _ _ _ _ (fun _ _ h => Res.bind (Ev.source_keeps _ _ _ h) fun _ h1 =>
    Res.bind (Ev.loc_keeps _ _ _ h1) fun _ h2 => Res.bindFree fun _ => Res.bind (Ev.read_keeps _ _ _ _ _ h2) fun _ h3 =>
    Res.bindFree fun _ => Res.bind (Ev.read_keeps _ _ _ _ _ h3) fun _ h4 =>
    Res.ite Res.error (Ev.moveNext_keeps _ _ _ h4)) kp

theorem execSeq_keeps {r0 sT : State} (core ctx : Nat) (s : State) (kp : Keeps r0 s) (e : execSeq core ctx s = .next sT) :
    Keeps r0 sT := by
  unfold execSeq at e
  rw [← Host.Outcome.next.inj e]
  exact State.skip_keeps _ _ _ _ _ kp

theorem execSne_keeps {r0 sT : State} (core ctx : Nat) (s : State) (kp : Keeps r0 s) (e : execSne core ctx s = .next sT) :
    Keeps r0 sT := by
  unfold execSne at e
  rw [← Host.Outcome.next.inj e]
  exact State.skip_keeps _ _ _ _ _ kp

theorem execSlt_keeps {r0 sT : State} (core ctx : Nat) (s : State) (kp : Keeps r0 s) (e : execSlt core ctx s = .next sT) :
    Keeps r0 sT := by
  unfold execSlt at e
  rw [← Host.Outcome.next.inj e]
  exact State.skip_keeps _ _ _ _ _ kp

theorem execSge_keeps {r0 sT : State} (core ctx : Nat) (s : State) (kp : Keeps r0 s) (e : execSge core ctx s = .next sT) :
    Keeps r0 sT := by
  unfold execSge at e
  rw [← Host.Outcome.next.inj e]
  exact State.skip_keeps _ _ _ _ _ kp

theorem execSltu_keeps {r0 sT : State} (core ctx : Nat) (s : State) (kp : Keeps r0 s) (e : execSltu core ctx s = .next sT) :
    Keeps r0 sT := by
  unfold execSltu at e
  rw [← Host.Outcome.next.inj e]
  exact State.skip_keeps _ _ _ _ _ kp

theorem execSgeu_keeps {r0 sT : State} (core ctx : Nat) (s : State) (kp : Keeps r0 s) (e : execSgeu core ctx s = .next sT) :
    Keeps r0 sT := by
  unfold execSgeu at e
  rw [← Host.Outcome.next.inj e]
  exact State.skip_keeps _ _ _ _ _ kp

theorem execSbs_keeps {r0 sT : State} (core ctx : Nat) (s : State) (kp : Keeps r0 s) (e : execSbs core ctx s = .next sT) :
    Keeps r0 sT := by
  unfold execSbs at e
  rw [← Host.Outcome.next.inj e]
  exact State.skip_keeps _ _ _ _ _ kp

theorem execSbz_keeps {r0 sT : State} (core ctx : Nat) (s : State) (kp : Keeps r0 s) (e : execSbz core ctx s = .next sT) :
    Keeps r0 sT := by
  unfold execSbz at e
  rw [← Host.Outcome.next.inj e]
  exact State.skip_keeps _ _ _ _ _ kp

theorem execSxx_keeps {r0 sT : State} (core ctx : Nat) (s : State) (kp : Keeps r0 s) (e : execSxx core ctx s = .next sT) :
    Keeps r0 sT := by
  unfold execSxx at e
  rw [← Host.Outcome.next.inj e]
  exact State.issue_keeps _ _ _ _ _ (fun e i h => Ev.skipIf_keeps (compares i.aux) e i h) kp

theorem execSkf_keeps {r0 sT : State} (core ctx : Nat) (s : State) (kp : Keeps r0 s) (e : execSkf core ctx s = .next sT) :
    Keeps r0 sT := by
  unfold execSkf at e
  rw [← Host.Outcome.next.inj e]
  exact State.issue_keeps _ _ _ _ _ (fun _ _ h => Ev.finish_keeps _ _ h) kp

theorem execJmpr_keeps {r0 sT : State} (core ctx : Nat) (s : State) (kp : Keeps r0 s) (e : execJmpr core ctx s = .next sT) :
    Keeps r0 sT := by
  unfold execJmpr at e
  rw [← Host.Outcome.next.inj e]
  exact State.jumpA_keeps _ _ _ _ _ kp

theorem execCallr_keeps {r0 sT : State} (core ctx : Nat) (s : State) (kp : Keeps r0 s) (e : execCallr core ctx s = .next sT) :
    Keeps r0 sT := by
  unfold execCallr at e
  rw [← Host.Outcome.next.inj e]
  exact State.jumpA_keeps _ _ _ _ _ kp

theorem execRet_keeps {r0 sT : State} (core ctx : Nat) (s : State) (kp : Keeps r0 s) (e : execRet core ctx s = .next sT) :
    Keeps r0 sT := by
  unfold execRet at e
  rw [← Host.Outcome.next.inj e]
  exact State.jumpA_keeps _ _ _ _ _ kp

theorem execJmp_keeps {r0 sT : State} (core ctx : Nat) (s : State) (kp : Keeps r0 s) (e : execJmp core ctx s = .next sT) :
    Keeps r0 sT := by
  unfold execJmp at e
  rw [← Host.Outcome.next.inj e]
  exact State.jumpA_keeps _ _ _ _ _ kp

theorem execCall_keeps {r0 sT : State} (core ctx : Nat) (s : State) (kp : Keeps r0 s) (e : execCall core ctx s = .next sT) :
    Keeps r0 sT := by
  unfold execCall at e
  rw [← Host.Outcome.next.inj e]
  exact State.jumpA_keeps _ _ _ _ _ kp

theorem execJmpk_keeps {r0 sT : State} (core ctx : Nat) (s : State) (kp : Keeps r0 s) (e : execJmpk core ctx s = .next sT) :
    Keeps r0 sT := by
  unfold execJmpk at e
  rw [← Host.Outcome.next.inj e]
  exact State.issue_keeps _ _ _ _ _ (fun _ _ h => Ev.jumpTo_keeps _ _ _ _ h) kp

theorem execCallk_keeps {r0 sT : State} (core ctx : Nat) (s : State) (kp : Keeps r0 s) (e : execCallk core ctx s = .next sT) :
    Keeps r0 sT := by
  unfold execCallk at e
  rw [← Host.Outcome.next.inj e]
  exact State.issue_keeps _ _ _ _ _ (fun _ _ h => Ev.jumpTo_keeps _ _ _ _ h) kp

theorem execLoop_keeps {r0 sT : State} (core ctx : Nat) (s : State) (kp : Keeps r0 s) (e : execLoop core ctx s = .next sT) :
    Keeps r0 sT := by
  unfold execLoop at e
  rw [← Host.Outcome.next.inj e]
  exact State.issue_keeps _ _ _ _ _ (fun _ _ h => Res.ite Res.error (Res.bind (Ev.source_keeps _ _ _ h) fun _ h1 =>
    Res.ite (Res.bind (Ev.fetchWord_keeps _ _ (Ev.upd_keeps _ _ h1)) fun _ h2 => Ev.finish_keeps _ _ h2)
      (Ev.finish_keeps _ _ (Ev.upd_keeps _ _ h1)))) kp

theorem execWaittExpiry_keeps {r0 sT : State} (core ctx : Nat) (s : State) (kp : Keeps r0 s)
    (e : execWaittExpiry core ctx s = .next sT) : Keeps r0 sT := by
  unfold execWaittExpiry at e
  rw [← Host.Outcome.next.inj e]
  split
  · split
    · exact State.arrange_keeps _ _ (State.updCtx_keeps _ _ _ _ (State.passWait_keeps _ _ _ kp))
    · exact kp
  · exact kp

theorem execCoreReadComplete_keeps {r0 sT : State} (core ctx cycles : Nat) (s : State) (kp : Keeps r0 s)
    (e : execCoreReadComplete core ctx cycles s = .next sT) : Keeps r0 sT := by
  unfold execCoreReadComplete at e
  rw [← Host.Outcome.next.inj e]
  dsimp only
  split
  · exact kp
  · exact State.arrange_keeps _ _ (State.mark_keeps _ _ _ (State.setNow_keeps _ _ _ _ (State.setCtx_keeps _ _ _ _ kp)))

end Sys2Proof.Machine
end

