-- ==== Sys2Proof/Laws/KeepsCompletions.lean ====
section
/-! SUPPORT. The operations of Machine/Completions.lean keep the queue of commands and the form of the memory. -/

namespace Sys2Proof.Machine
open Sys2Proof

theorem State.blockFails_keeps {r0 : State} (s : State) (ch : Nat) (a : Word64) (cause : Nat) (kp : Keeps r0 s) :
    Keeps r0 (State.blockFails s ch a cause) := by
  unfold State.blockFails
  repeat' first
    | with_reducible assumption
    | intro _
    | with_reducible apply State.updChan_keeps
    | with_reducible apply State.reach_keeps
    | with_reducible apply Keeps.ite
    | (lift_lets; intro _)
    | split
    | dsimp only
    | fail_if_no_progress with_reducible apply Keeps.upd
    | dsimp +zetaDelta only

theorem State.packetFails_keeps {r0 : State} (s : State) (kp : Keeps r0 s) :
    Keeps r0 (State.packetFails s) := by
  unfold State.packetFails
  repeat' first
    | with_reducible assumption
    | intro _
    | with_reducible apply Keeps.ite
    | (lift_lets; intro _)
    | split
    | dsimp only
    | fail_if_no_progress with_reducible apply Keeps.upd
    | dsimp +zetaDelta only

theorem State.reqFails_keeps {r0 : State} (s : State) (r : ReadReq) (cause : Nat) (kp : Keeps r0 s) :
    Keeps r0 (State.reqFails s r cause) := by
  unfold State.reqFails
  repeat' first
    | with_reducible assumption
    | intro _
    | with_reducible apply State.slotsGo_keeps
    | with_reducible apply State.queueReadFails_keeps
    | with_reducible apply State.blockFails_keeps
    | with_reducible apply State.failAt_keeps
    | with_reducible apply State.packetFails_keeps
    | with_reducible apply State.aqKick_keeps
    | with_reducible apply State.replyBad_keeps
    | with_reducible apply Keeps.ite
    | (lift_lets; intro _)
    | split
    | dsimp only
    | fail_if_no_progress with_reducible apply Keeps.upd
    | dsimp +zetaDelta only

theorem State.readFails_keeps {r0 : State} (s : State) (md : Nat) (idx : Nat) (cause : Nat) (kp : Keeps r0 s) :
    Keeps r0 (State.readFails s md idx cause) := by
  unfold State.readFails
  repeat' first
    | with_reducible assumption
    | intro _
    | with_reducible apply State.served_keeps
    | with_reducible apply State.pumpAll_keeps
    | with_reducible apply State.reqFails_keeps
    | with_reducible apply State.updLink_keeps
    | with_reducible apply Keeps.ite
    | (lift_lets; intro _)
    | split
    | dsimp only
    | fail_if_no_progress with_reducible apply Keeps.upd
    | dsimp +zetaDelta only

theorem execCompletionError_keeps {r0 sT : State} (md : Nat) (idx : Nat) (cause : ReadFail) (s : State) (kp : Keeps r0 s)
    (e : execCompletionError md idx cause s = .next sT) : Keeps r0 sT := by
  unfold execCompletionError at e
  rw [← Host.Outcome.next.inj e]
  repeat' first
    | with_reducible assumption
    | intro _
    | with_reducible apply State.readFails_keeps
    | with_reducible apply State.aerUnc_keeps
    | with_reducible apply State.takeHeader_keeps
    | with_reducible apply Keeps.ite
    | (lift_lets; intro _)
    | split
    | dsimp only
    | fail_if_no_progress with_reducible apply Keeps.upd
    | dsimp +zetaDelta only

theorem execCompletionTimeout_keeps {r0 sT : State} (md : Nat) (idx : Nat) (s : State) (kp : Keeps r0 s)
    (e : execCompletionTimeout md idx s = .next sT) : Keeps r0 sT := by
  unfold execCompletionTimeout at e
  rw [← Host.Outcome.next.inj e]
  repeat' first
    | with_reducible assumption
    | intro _
    | with_reducible apply State.readFails_keeps
    | with_reducible apply State.aerUnc_keeps
    | with_reducible apply Keeps.ite
    | (lift_lets; intro _)
    | split
    | dsimp only
    | fail_if_no_progress with_reducible apply Keeps.upd
    | dsimp +zetaDelta only

end Sys2Proof.Machine
end

