-- ==== Sys2Proof/Laws/KeepsDebugs.lean ====
section
/-! SUPPORT. The operations of Machine/Debugs.lean keep the queue of commands and the form of the memory. -/

namespace Sys2Proof.Machine
open Sys2Proof

theorem State.dbgAccess_keeps {r0 : State} (s : State) (dr : BitVec 66) (kp : Keeps r0 s) :
    Keeps r0 (State.dbgAccess s dr) := by
  unfold State.dbgAccess
  repeat' first
    | with_reducible assumption
    | intro _
    | with_reducible apply State.bar0Write_keeps
    | with_reducible apply State.bar0Read_keeps
    | with_reducible apply Keeps.ite
    | (lift_lets; intro _)
    | split
    | dsimp only
    | fail_if_no_progress with_reducible apply Keeps.upd
    | dsimp +zetaDelta only

theorem execDbgAccess_keeps {r0 sT : State} (dr : BitVec 66) (s : State) (kp : Keeps r0 s)
    (e : execDbgAccess dr s = .next sT) : Keeps r0 sT := by
  unfold execDbgAccess at e
  rw [← Host.Outcome.next.inj e]
  repeat' first
    | with_reducible assumption
    | intro _
    | with_reducible apply State.dbgAccess_keeps
    | with_reducible apply Keeps.ite
    | (lift_lets; intro _)
    | split
    | dsimp only
    | fail_if_no_progress with_reducible apply Keeps.upd
    | dsimp +zetaDelta only

theorem execIdcode_keeps {r0 sT : State} (s : State) (kp : Keeps r0 s)
    (e : execIdcode s = .next sT) : Keeps r0 sT := by
  unfold execIdcode at e
  rw [← Host.Outcome.next.inj e]
  repeat' first
    | with_reducible assumption
    | intro _
    | with_reducible apply Keeps.ite
    | (lift_lets; intro _)
    | split
    | dsimp only
    | fail_if_no_progress with_reducible apply Keeps.upd
    | dsimp +zetaDelta only

theorem execBypass_keeps {r0 sT : State} (s : State) (kp : Keeps r0 s)
    (e : execBypass s = .next sT) : Keeps r0 sT := by
  unfold execBypass at e
  rw [← Host.Outcome.next.inj e]
  repeat' first
    | with_reducible assumption
    | intro _
    | with_reducible apply Keeps.ite
    | (lift_lets; intro _)
    | split
    | dsimp only
    | fail_if_no_progress with_reducible apply Keeps.upd
    | dsimp +zetaDelta only

theorem execSamplePreload_keeps {r0 sT : State} (pins : List Bool) (s : State) (kp : Keeps r0 s)
    (e : execSamplePreload pins s = .next sT) : Keeps r0 sT := by
  unfold execSamplePreload at e
  rw [← Host.Outcome.next.inj e]
  repeat' first
    | with_reducible assumption
    | intro _
    | with_reducible apply Keeps.ite
    | (lift_lets; intro _)
    | split
    | dsimp only
    | fail_if_no_progress with_reducible apply Keeps.upd
    | dsimp +zetaDelta only

theorem execExtest_keeps {r0 sT : State} (s : State) (kp : Keeps r0 s)
    (e : execExtest s = .next sT) : Keeps r0 sT := by
  unfold execExtest at e
  rw [← Host.Outcome.next.inj e]
  repeat' first
    | with_reducible assumption
    | intro _
    | with_reducible apply Keeps.ite
    | (lift_lets; intro _)
    | split
    | dsimp only
    | fail_if_no_progress with_reducible apply Keeps.upd
    | dsimp +zetaDelta only

end Sys2Proof.Machine
end

