-- ==== Sys2Proof/Laws/KeepsPairOps.lean ====
section
/-! SUPPORT. The operations of Machine/PairOps.lean keep the queue of commands and the form of the memory. -/

namespace Sys2Proof.Machine
open Sys2Proof

theorem State.pairViol_keeps {r0 : State} (s : State) (reason : Nat) (kp : Keeps r0 s) :
    Keeps r0 (State.pairViol s reason) := by
  unfold State.pairViol
  repeat' first
    | with_reducible assumption
    | intro _
    | with_reducible apply State.journalRec_keeps
    | with_reducible apply Keeps.ite
    | (lift_lets; intro _)
    | split
    | dsimp only
    | fail_if_no_progress with_reducible apply Keeps.upd
    | dsimp +zetaDelta only

theorem State.replyWaiting_keeps {r0 : State} (s : State) (opc : Nat) (code : BitVec 16) (res : List Nat) (kp : Keeps r0 s) :
    Keeps r0 (State.replyWaiting s opc code res) := by
  unfold State.replyWaiting
  repeat' first
    | with_reducible assumption
    | intro _
    | with_reducible apply State.aqKick_keeps
    | with_reducible apply State.replyAdm_keeps
    | with_reducible apply Keeps.ite
    | (lift_lets; intro _)
    | split
    | dsimp only
    | fail_if_no_progress with_reducible apply Keeps.upd
    | dsimp +zetaDelta only

theorem State.openChans_keeps {r0 : State} (s : State) (p : Nat → Bool) (kp : Keeps r0 s) :
    Keeps r0 (State.openChans s p) := by
  unfold State.openChans
  repeat' first
    | with_reducible assumption
    | intro _
    | with_reducible apply State.each_keeps
    | with_reducible apply State.gateOpen_keeps
    | with_reducible apply Keeps.ite
    | (lift_lets; intro _)
    | split
    | dsimp only
    | fail_if_no_progress with_reducible apply Keeps.upd
    | dsimp +zetaDelta only

theorem State.openSet_keeps {r0 : State} (s : State) (p : Nat → Bool) (kp : Keeps r0 s) :
    Keeps r0 (State.openSet s p) := by
  unfold State.openSet
  repeat' first
    | with_reducible assumption
    | intro _
    | with_reducible apply State.aqKick_keeps
    | with_reducible apply State.releaseFor_keeps
    | with_reducible apply State.openChans_keeps
    | with_reducible apply State.openGates_keeps
    | with_reducible apply Keeps.ite
    | (lift_lets; intro _)
    | split
    | dsimp only
    | fail_if_no_progress with_reducible apply Keeps.upd
    | dsimp +zetaDelta only

theorem State.freeOldGen_keeps {r0 : State} (s : State) (l : List TxFrame) (kp : Keeps r0 s) :
    Keeps r0 (State.freeOldGen s l) := by
  unfold State.freeOldGen
  repeat' first
    | with_reducible assumption
    | intro _
    | with_reducible apply Keeps.ite
    | (lift_lets; intro _)
    | split
    | dsimp only
    | fail_if_no_progress with_reducible apply Keeps.upd
    | dsimp +zetaDelta only

theorem State.noteGates_keeps {r0 : State} (s : State) (l : List TxFrame) (kp : Keeps r0 s) :
    Keeps r0 (State.noteGates s l) := by
  unfold State.noteGates
  repeat' first
    | with_reducible assumption
    | intro _
    | with_reducible apply Keeps.foldl
    | with_reducible apply Keeps.ite
    | (lift_lets; intro _)
    | split
    | dsimp only
    | fail_if_no_progress with_reducible apply Keeps.upd
    | dsimp +zetaDelta only

theorem State.ackTo_keeps {r0 : State} (s : State) (a : BitVec 16) (kp : Keeps r0 s) :
    Keeps r0 (State.ackTo s a) := by
  unfold State.ackTo
  repeat' first
    | with_reducible assumption
    | intro _
    | with_reducible apply State.freeOldGen_keeps
    | with_reducible apply State.noteGates_keeps
    | with_reducible apply State.openSet_keeps
    | with_reducible apply Keeps.ite
    | (lift_lets; intro _)
    | split
    | dsimp only
    | fail_if_no_progress with_reducible apply Keeps.upd
    | dsimp +zetaDelta only

theorem State.giveSlots_keeps {r0 : State} (s : State) (kp : Keeps r0 s) :
    Keeps r0 (State.giveSlots s) := by
  unfold State.giveSlots
  repeat' first
    | with_reducible assumption
    | intro _
    | with_reducible apply State.each_keeps
    | with_reducible apply State.giveSlot_keeps
    | with_reducible apply Keeps.ite
    | (lift_lets; intro _)
    | split
    | dsimp only
    | fail_if_no_progress with_reducible apply Keeps.upd
    | dsimp +zetaDelta only

theorem State.markOut_keeps {r0 : State} (s : State) (kp : Keeps r0 s) :
    Keeps r0 (State.markOut s) := by
  unfold State.markOut
  repeat' first
    | with_reducible assumption
    | intro _
    | with_reducible apply State.replyWaiting_keeps
    | with_reducible apply State.giveSlots_keeps
    | with_reducible apply State.pulse_keeps
    | with_reducible apply Keeps.ite
    | (lift_lets; intro _)
    | split
    | dsimp only
    | fail_if_no_progress with_reducible apply Keeps.upd
    | dsimp +zetaDelta only

theorem State.fenceStep_keeps {r0 : State} (s : State) (kp : Keeps r0 s) :
    Keeps r0 (State.fenceStep s) := by
  unfold State.fenceStep
  repeat' first
    | with_reducible assumption
    | intro _
    | with_reducible apply State.served_keeps
    | with_reducible apply State.openSet_keeps
    | with_reducible apply Keeps.ite
    | (lift_lets; intro _)
    | split
    | dsimp only
    | fail_if_no_progress with_reducible apply Keeps.upd
    | dsimp +zetaDelta only

theorem State.goAlone_keeps {r0 : State} (s : State) (kp : Keeps r0 s) :
    Keeps r0 (State.goAlone s) := by
  unfold State.goAlone
  repeat' first
    | with_reducible assumption
    | intro _
    | with_reducible apply State.replyWaiting_keeps
    | with_reducible apply State.openSet_keeps
    | with_reducible apply State.giveSlots_keeps
    | with_reducible apply State.pulse_keeps
    | with_reducible apply Keeps.ite
    | (lift_lets; intro _)
    | split
    | dsimp only
    | fail_if_no_progress with_reducible apply Keeps.upd
    | dsimp +zetaDelta only

theorem State.toOut_keeps {r0 : State} (s : State) (kp : Keeps r0 s) :
    Keeps r0 (State.toOut s) := by
  unfold State.toOut
  repeat' first
    | with_reducible assumption
    | intro _
    | with_reducible apply State.replyWaiting_keeps
    | with_reducible apply State.pulse_keeps
    | with_reducible apply Keeps.ite
    | (lift_lets; intro _)
    | split
    | dsimp only
    | fail_if_no_progress with_reducible apply Keeps.upd
    | dsimp +zetaDelta only

theorem State.escalate_keeps {r0 : State} (s : State) (kp : Keeps r0 s) :
    Keeps r0 (State.escalate s) := by
  unfold State.escalate
  repeat' first
    | with_reducible assumption
    | intro _
    | with_reducible apply State.pulse_keeps
    | with_reducible apply State.markOut_keeps
    | with_reducible apply State.toOut_keeps
    | with_reducible apply Keeps.ite
    | (lift_lets; intro _)
    | split
    | dsimp only
    | fail_if_no_progress with_reducible apply Keeps.upd
    | dsimp +zetaDelta only

theorem State.sendNack_keeps {r0 : State} (s : State) (kp : Keeps r0 s) :
    Keeps r0 (State.sendNack s) := by
  unfold State.sendNack
  repeat' first
    | with_reducible assumption
    | intro _
    | with_reducible apply Keeps.ite
    | (lift_lets; intro _)
    | split
    | dsimp only
    | fail_if_no_progress with_reducible apply Keeps.upd
    | dsimp +zetaDelta only

theorem State.sendAck_keeps {r0 : State} (s : State) (kp : Keeps r0 s) :
    Keeps r0 (State.sendAck s) := by
  unfold State.sendAck
  repeat' first
    | with_reducible assumption
    | intro _
    | with_reducible apply Keeps.ite
    | (lift_lets; intro _)
    | split
    | dsimp only
    | fail_if_no_progress with_reducible apply Keeps.upd
    | dsimp +zetaDelta only

theorem State.recv_keeps {r0 : State} (s : State) (h : DsHdr) (numbered : Bool) (k : State → State) (hk : ∀ t, Keeps r0 t → Keeps r0 (k t)) (kp : Keeps r0 s) :
    Keeps r0 (State.recv s h numbered k) := by
  unfold State.recv
  repeat' first
    | with_reducible assumption
    | intro _
    | with_reducible apply hk
    | with_reducible apply State.sendNack_keeps
    | with_reducible apply State.pairViol_keeps
    | with_reducible apply State.ackTo_keeps
    | with_reducible apply State.sendAck_keeps
    | with_reducible apply State.escalate_keeps
    | with_reducible apply Keeps.ite
    | (lift_lets; intro _)
    | split
    | dsimp only
    | fail_if_no_progress with_reducible apply Keeps.upd
    | dsimp +zetaDelta only

theorem State.readBack_keeps {r0 : State} (s : State) (kp : Keeps r0 s) :
    Keeps r0 (State.readBack s) := by
  unfold State.readBack
  repeat' first
    | with_reducible assumption
    | intro _
    | with_reducible apply State.each_keeps
    | with_reducible apply State.updQ_keeps
    | with_reducible apply State.askPcnt_keeps
    | with_reducible apply State.askDesc_keeps
    | with_reducible apply State.kick_keeps
    | with_reducible apply State.pulse_keeps
    | with_reducible apply Keeps.ite
    | (lift_lets; intro _)
    | split
    | dsimp only
    | fail_if_no_progress with_reducible apply Keeps.upd
    | dsimp +zetaDelta only

theorem State.rewrite_keeps {r0 : State} (s : State) (kp : Keeps r0 s) :
    Keeps r0 (State.rewrite s) := by
  unfold State.rewrite
  repeat' first
    | with_reducible assumption
    | intro _
    | with_reducible apply State.each_keeps
    | with_reducible apply State.send_keeps
    | with_reducible apply Keeps.ite
    | (lift_lets; intro _)
    | split
    | dsimp only
    | fail_if_no_progress with_reducible apply Keeps.upd
    | dsimp +zetaDelta only

theorem State.portsOn_keeps {r0 : State} (s : State) (kp : Keeps r0 s) :
    Keeps r0 (State.portsOn s) := by
  unfold State.portsOn
  repeat' first
    | with_reducible assumption
    | intro _
    | with_reducible apply State.each_keeps
    | with_reducible apply State.upOrFault_keeps
    | with_reducible apply Keeps.ite
    | (lift_lets; intro _)
    | split
    | dsimp only
    | fail_if_no_progress with_reducible apply Keeps.upd
    | dsimp +zetaDelta only

theorem State.journalTake_keeps {r0 : State} (s : State) (frame : Nat) (reason : Nat) (kp : Keeps r0 s) :
    Keeps r0 (State.journalTake s frame reason) := by
  unfold State.journalTake
  repeat' first
    | with_reducible assumption
    | intro _
    | with_reducible apply State.journalRec_keeps
    | with_reducible apply Keeps.ite
    | (lift_lets; intro _)
    | split
    | dsimp only
    | fail_if_no_progress with_reducible apply Keeps.upd
    | dsimp +zetaDelta only

theorem State.ownTime_keeps {r0 : State} (s : State) (kp : Keeps r0 s) :
    Keeps r0 (State.ownTime s) := by
  unfold State.ownTime
  repeat' first
    | with_reducible assumption
    | intro _
    | with_reducible apply State.pulse_keeps
    | with_reducible apply Keeps.ite
    | (lift_lets; intro _)
    | split
    | dsimp only
    | fail_if_no_progress with_reducible apply Keeps.upd
    | dsimp +zetaDelta only

theorem State.freshLevels_keeps {r0 : State} (s : State) (kp : Keeps r0 s) :
    Keeps r0 (State.freshLevels s) := by
  unfold State.freshLevels
  repeat' first
    | with_reducible assumption
    | intro _
    | with_reducible apply State.each_keeps
    | with_reducible apply State.levelEval_keeps
    | with_reducible apply Keeps.ite
    | (lift_lets; intro _)
    | split
    | dsimp only
    | fail_if_no_progress with_reducible apply Keeps.upd
    | dsimp +zetaDelta only

theorem State.becomeActive_keeps {r0 : State} (s : State) (role : BitVec 2) (sub : BitVec 2) (take : Nat) (handed : Bool) (kp : Keeps r0 s) :
    Keeps r0 (State.becomeActive s role sub take handed) := by
  unfold State.becomeActive
  repeat' first
    | with_reducible assumption
    | intro _
    | with_reducible apply State.ownTime_keeps
    | with_reducible apply State.freshLevels_keeps
    | with_reducible apply State.loseHawk_keeps
    | with_reducible apply Keeps.ite
    | (lift_lets; intro _)
    | split
    | dsimp only
    | fail_if_no_progress with_reducible apply Keeps.upd
    | dsimp +zetaDelta only

theorem State.takeover_keeps {r0 : State} (s : State) (reason : Nat) (kp : Keeps r0 s) :
    Keeps r0 (State.takeover s reason) := by
  unfold State.takeover
  repeat' first
    | with_reducible assumption
    | intro _
    | with_reducible apply State.journalTake_keeps
    | with_reducible apply State.becomeActive_keeps
    | with_reducible apply State.portsOn_keeps
    | with_reducible apply State.readBack_keeps
    | with_reducible apply State.rewrite_keeps
    | with_reducible apply State.pulse_keeps
    | with_reducible apply Keeps.ite
    | (lift_lets; intro _)
    | split
    | dsimp only
    | fail_if_no_progress with_reducible apply Keeps.upd
    | dsimp +zetaDelta only

theorem State.detect_keeps {r0 : State} (s : State) (reason : Nat) (kp : Keeps r0 s) :
    Keeps r0 (State.detect s reason) := by
  unfold State.detect
  repeat' first
    | with_reducible assumption
    | intro _
    | with_reducible apply State.takeover_keeps
    | with_reducible apply State.toOut_keeps
    | with_reducible apply Keeps.ite
    | (lift_lets; intro _)
    | split
    | dsimp only
    | fail_if_no_progress with_reducible apply Keeps.upd
    | dsimp +zetaDelta only

theorem State.finalAgain_keeps {r0 : State} (s : State) (ch : Nat) (kp : Keeps r0 s) :
    Keeps r0 (State.finalAgain s ch) := by
  unfold State.finalAgain
  repeat' first
    | with_reducible assumption
    | intro _
    | with_reducible apply State.settled_keeps
    | with_reducible apply State.finalStands_keeps
    | with_reducible apply State.updChan_keeps
    | with_reducible apply State.endProgram_keeps
    | with_reducible apply State.takeWord_keeps
    | with_reducible apply Keeps.ite
    | (lift_lets; intro _)
    | split
    | dsimp only
    | fail_if_no_progress with_reducible apply Keeps.upd
    | dsimp +zetaDelta only

theorem State.takeUp_keeps {r0 : State} (s : State) (ch : Nat) (kp : Keeps r0 s) :
    Keeps r0 (State.takeUp s ch) := by
  unfold State.takeUp
  repeat' first
    | with_reducible assumption
    | intro _
    | with_reducible apply State.updChan_keeps
    | with_reducible apply State.finalAgain_keeps
    | with_reducible apply State.endProgram_keeps
    | with_reducible apply State.reach_keeps
    | with_reducible apply State.goChan_keeps
    | with_reducible apply Keeps.ite
    | (lift_lets; intro _)
    | split
    | dsimp only
    | fail_if_no_progress with_reducible apply Keeps.upd
    | dsimp +zetaDelta only

theorem State.takeUpAll_keeps {r0 : State} (s : State) (kp : Keeps r0 s) :
    Keeps r0 (State.takeUpAll s) := by
  unfold State.takeUpAll
  repeat' first
    | with_reducible assumption
    | intro _
    | with_reducible apply State.each_keeps
    | with_reducible apply State.takeUp_keeps
    | with_reducible apply Keeps.ite
    | (lift_lets; intro _)
    | split
    | dsimp only
    | fail_if_no_progress with_reducible apply Keeps.upd
    | dsimp +zetaDelta only

theorem execDescriptorReadComplete_keeps {r0 sT : State} (q : Nat) (slots : List (BitVec 128)) (s : State) (kp : Keeps r0 s)
    (e : execDescriptorReadComplete q slots s = .next sT) : Keeps r0 sT := by
  unfold execDescriptorReadComplete at e
  rw [← Host.Outcome.next.inj e]
  repeat' first
    | with_reducible assumption
    | intro _
    | with_reducible apply State.served_keeps
    | with_reducible apply State.takeUpAll_keeps
    | with_reducible apply State.slotsBack_keeps
    | with_reducible apply Keeps.ite
    | (lift_lets; intro _)
    | split
    | dsimp only
    | fail_if_no_progress with_reducible apply Keeps.upd
    | dsimp +zetaDelta only

theorem State.standDown_keeps {r0 : State} (s : State) (kp : Keeps r0 s) :
    Keeps r0 (State.standDown s) := by
  unfold State.standDown
  repeat' first
    | with_reducible assumption
    | intro _
    | with_reducible apply State.dsSend_keeps
    | with_reducible apply State.each_keeps
    | with_reducible apply State.portSafe_keeps
    | with_reducible apply State.updPort_keeps
    | with_reducible apply State.replyWaiting_keeps
    | with_reducible apply State.pulse_keeps
    | with_reducible apply State.enterReset_keeps
    | with_reducible apply State.flushJournal_keeps
    | with_reducible apply Keeps.ite
    | (lift_lets; intro _)
    | split
    | dsimp only
    | fail_if_no_progress with_reducible apply Keeps.upd
    | dsimp +zetaDelta only

theorem State.standUp_keeps {r0 : State} (s : State) (kp : Keeps r0 s) :
    Keeps r0 (State.standUp s) := by
  unfold State.standUp
  repeat' first
    | with_reducible assumption
    | intro _
    | with_reducible apply State.portsOn_keeps
    | with_reducible apply State.readBack_keeps
    | with_reducible apply State.pulse_keeps
    | with_reducible apply State.journalTake_keeps
    | with_reducible apply State.becomeActive_keeps
    | with_reducible apply Keeps.ite
    | (lift_lets; intro _)
    | split
    | dsimp only
    | fail_if_no_progress with_reducible apply Keeps.upd
    | dsimp +zetaDelta only

end Sys2Proof.Machine
end

