-- ==== Sys2Proof/Laws/KeepsMirrorOps.lean ====
section
/-! SUPPORT. The operations of Machine/MirrorOps.lean keep the queue of commands and the form of the memory. -/

namespace Sys2Proof.Machine
open Sys2Proof

theorem State.putLedger_keeps {r0 : State} (s : State) (w : BitVec 256) (kp : Keeps r0 s) :
    Keeps r0 (State.putLedger s w) := by
  unfold State.putLedger
  repeat' first
    | with_reducible assumption
    | intro _
    | with_reducible apply State.notePeak_keeps
    | with_reducible apply Keeps.ite
    | (lift_lets; intro _)
    | split
    | dsimp only
    | fail_if_no_progress with_reducible apply Keeps.upd
    | dsimp +zetaDelta only

theorem State.fitLseg_keeps {r0 : State} (s : State) (ch : Nat) (oldBase : Nat) (oldCells : Nat) (kp : Keeps r0 s) :
    Keeps r0 (State.fitLseg s ch oldBase oldCells) := by
  unfold State.fitLseg
  repeat' first
    | with_reducible assumption
    | intro _
    | with_reducible apply State.each_keeps
    | with_reducible apply State.freeLseg_keeps
    | with_reducible apply State.setCell_keeps
    | with_reducible apply Keeps.ite
    | (lift_lets; intro _)
    | split
    | dsimp only
    | fail_if_no_progress with_reducible apply Keeps.upd
    | dsimp +zetaDelta only

theorem State.putLathRec_keeps {r0 : State} (s : State) (r : LathRec) (kp : Keeps r0 s) :
    Keeps r0 (State.putLathRec s r) := by
  unfold State.putLathRec
  repeat' first
    | with_reducible assumption
    | intro _
    | with_reducible apply Keeps.foldl
    | with_reducible apply State.updChan_keeps
    | with_reducible apply State.fitLseg_keeps
    | with_reducible apply Keeps.ite
    | (lift_lets; intro _)
    | split
    | dsimp only
    | fail_if_no_progress with_reducible apply Keeps.upd
    | dsimp +zetaDelta only

theorem State.putQueue_keeps {r0 : State} (s : State) (r : QueueRec) (kp : Keeps r0 s) :
    Keeps r0 (State.putQueue s r) := by
  unfold State.putQueue
  repeat' first
    | with_reducible assumption
    | intro _
    | with_reducible apply State.updQ_keeps
    | with_reducible apply Keeps.ite
    | (lift_lets; intro _)
    | split
    | dsimp only
    | fail_if_no_progress with_reducible apply Keeps.upd
    | dsimp +zetaDelta only

theorem State.putEgress_keeps {r0 : State} (s : State) (r : EgressRec) (kp : Keeps r0 s) :
    Keeps r0 (State.putEgress s r) := by
  unfold State.putEgress
  repeat' first
    | with_reducible assumption
    | intro _
    | with_reducible apply State.updQ_keeps
    | with_reducible apply Keeps.ite
    | (lift_lets; intro _)
    | split
    | dsimp only
    | fail_if_no_progress with_reducible apply Keeps.upd
    | dsimp +zetaDelta only

theorem State.putBoundary_keeps {r0 : State} (s : State) (r : BoundaryRec) (kp : Keeps r0 s) :
    Keeps r0 (State.putBoundary s r) := by
  unfold State.putBoundary
  repeat' first
    | with_reducible assumption
    | intro _
    | with_reducible apply Keeps.getD
    | with_reducible apply State.updCls_keeps
    | with_reducible apply State.updPort_keeps
    | with_reducible apply State.updChan_keeps
    | with_reducible apply State.updQ_keeps
    | with_reducible apply Keeps.ite
    | (lift_lets; intro _)
    | split
    | dsimp only
    | fail_if_no_progress with_reducible apply Keeps.upd
    | dsimp +zetaDelta only

theorem State.commitAt_keeps {r0 : State} (s : State) (what : Change) (frame : BitVec 48) (kp : Keeps r0 s) :
    Keeps r0 (State.commitAt s what frame) := by
  unfold State.commitAt
  repeat' first
    | with_reducible assumption
    | intro _
    | with_reducible apply Keeps.ite
    | (lift_lets; intro _)
    | split
    | dsimp only
    | fail_if_no_progress with_reducible apply Keeps.upd
    | dsimp +zetaDelta only

theorem State.putConfig_keeps {r0 : State} (s : State) (r : ConfigRec) (kp : Keeps r0 s) :
    Keeps r0 (State.putConfig s r) := by
  unfold State.putConfig
  repeat' first
    | with_reducible assumption
    | intro _
    | with_reducible apply State.regWrite_keeps
    | with_reducible apply State.updChan_keeps
    | with_reducible apply State.freeLseg_keeps
    | with_reducible apply State.updMbx_keeps
    | with_reducible apply State.commitAt_keeps
    | with_reducible apply State.updLib_keeps
    | with_reducible apply State.writeLib_keeps
    | with_reducible apply State.each_keeps
    | with_reducible apply State.writeHandlers_keeps
    | with_reducible apply State.updPort_keeps
    | with_reducible apply Keeps.ite
    | (lift_lets; intro _)
    | split
    | dsimp only
    | fail_if_no_progress with_reducible apply Keeps.upd
    | dsimp +zetaDelta only

end Sys2Proof.Machine
end

