-- ==== Sys2Proof/Laws/KeepsPairs.lean ====
section
/-! SUPPORT. The operations of Machine/Pairs.lean keep the queue of commands and the form of the memory. -/

namespace Sys2Proof.Machine
open Sys2Proof

theorem State.bothDrive_keeps {r0 : State} (s : State) (b : Heartbeat) (kp : Keeps r0 s) :
    Keeps r0 (State.bothDrive s b) := by
  unfold State.bothDrive
  repeat' first
    | with_reducible assumption
    | intro _
    | with_reducible apply State.pairViol_keeps
    | with_reducible apply State.haltDie_keeps
    | with_reducible apply Keeps.ite
    | (lift_lets; intro _)
    | split
    | dsimp only
    | fail_if_no_progress with_reducible apply Keeps.upd
    | dsimp +zetaDelta only

theorem State.noteHb_keeps {r0 : State} (s : State) (frame : Word32) (b : Heartbeat) (kp : Keeps r0 s) :
    Keeps r0 (State.noteHb s frame b) := by
  unfold State.noteHb
  repeat' first
    | with_reducible assumption
    | intro _
    | with_reducible apply Keeps.ite
    | (lift_lets; intro _)
    | split
    | dsimp only
    | fail_if_no_progress with_reducible apply Keeps.upd
    | dsimp +zetaDelta only

theorem State.onHeartbeat_keeps {r0 : State} (s : State) (frame : Word32) (b : Heartbeat) (kp : Keeps r0 s) :
    Keeps r0 (State.onHeartbeat s frame b) := by
  unfold State.onHeartbeat
  repeat' first
    | with_reducible assumption
    | intro _
    | with_reducible apply State.noteHb_keeps
    | with_reducible apply State.pairViol_keeps
    | with_reducible apply State.bothDrive_keeps
    | with_reducible apply State.markOut_keeps
    | with_reducible apply State.goAlone_keeps
    | with_reducible apply State.detect_keeps
    | with_reducible apply Keeps.ite
    | (lift_lets; intro _)
    | split
    | dsimp only
    | fail_if_no_progress with_reducible apply Keeps.upd
    | dsimp +zetaDelta only

theorem execHeartbeat_keeps {r0 sT : State} (h : DsHdr) (b : Heartbeat) (s : State) (kp : Keeps r0 s)
    (e : execHeartbeat h b s = .next sT) : Keeps r0 sT := by
  unfold execHeartbeat at e
  rw [← Host.Outcome.next.inj e]
  repeat' first
    | with_reducible assumption
    | intro _
    | with_reducible apply State.served_keeps
    | with_reducible apply State.recv_keeps
    | with_reducible apply State.onHeartbeat_keeps
    | with_reducible apply Keeps.ite
    | (lift_lets; intro _)
    | split
    | dsimp only
    | fail_if_no_progress with_reducible apply Keeps.upd
    | dsimp +zetaDelta only

theorem State.hbCheck_keeps {r0 : State} (s : State) (kp : Keeps r0 s) :
    Keeps r0 (State.hbCheck s) := by
  unfold State.hbCheck
  repeat' first
    | with_reducible assumption
    | intro _
    | with_reducible apply State.detect_keeps
    | with_reducible apply State.markOut_keeps
    | with_reducible apply Keeps.ite
    | (lift_lets; intro _)
    | split
    | dsimp only
    | fail_if_no_progress with_reducible apply Keeps.upd
    | dsimp +zetaDelta only

theorem execHeartbeatCheck_keeps {r0 sT : State} (s : State) (kp : Keeps r0 s)
    (e : execHeartbeatCheck s = .next sT) : Keeps r0 sT := by
  unfold execHeartbeatCheck at e
  rw [← Host.Outcome.next.inj e]
  repeat' first
    | with_reducible assumption
    | intro _
    | with_reducible apply State.served_keeps
    | with_reducible apply State.hbCheck_keeps
    | with_reducible apply Keeps.ite
    | (lift_lets; intro _)
    | split
    | dsimp only
    | fail_if_no_progress with_reducible apply Keeps.upd
    | dsimp +zetaDelta only

theorem execAck_keeps {r0 sT : State} (h : DsHdr) (s : State) (kp : Keeps r0 s)
    (e : execAck h s = .next sT) : Keeps r0 sT := by
  unfold execAck at e
  rw [← Host.Outcome.next.inj e]
  repeat' first
    | with_reducible assumption
    | intro _
    | with_reducible apply State.served_keeps
    | with_reducible apply State.recv_keeps
    | with_reducible apply Keeps.ite
    | (lift_lets; intro _)
    | split
    | dsimp only
    | fail_if_no_progress with_reducible apply Keeps.upd
    | dsimp +zetaDelta only

theorem State.resend_keeps {r0 : State} (s : State) (expect : BitVec 16) (kp : Keeps r0 s) :
    Keeps r0 (State.resend s expect) := by
  unfold State.resend
  repeat' first
    | with_reducible assumption
    | intro _
    | with_reducible apply State.escalate_keeps
    | with_reducible apply State.pairViol_keeps
    | with_reducible apply Keeps.ite
    | (lift_lets; intro _)
    | split
    | dsimp only
    | fail_if_no_progress with_reducible apply Keeps.upd
    | dsimp +zetaDelta only

theorem execNack_keeps {r0 sT : State} (h : DsHdr) (expect : BitVec 16) (s : State) (kp : Keeps r0 s)
    (e : execNack h expect s = .next sT) : Keeps r0 sT := by
  unfold execNack at e
  rw [← Host.Outcome.next.inj e]
  repeat' first
    | with_reducible assumption
    | intro _
    | with_reducible apply State.served_keeps
    | with_reducible apply State.recv_keeps
    | with_reducible apply State.resend_keeps
    | with_reducible apply Keeps.ite
    | (lift_lets; intro _)
    | split
    | dsimp only
    | fail_if_no_progress with_reducible apply Keeps.upd
    | dsimp +zetaDelta only

theorem execAckTimeout_keeps {r0 sT : State} (s : State) (kp : Keeps r0 s)
    (e : execAckTimeout s = .next sT) : Keeps r0 sT := by
  unfold execAckTimeout at e
  rw [← Host.Outcome.next.inj e]
  repeat' first
    | with_reducible assumption
    | intro _
    | with_reducible apply State.served_keeps
    | with_reducible apply State.markOut_keeps
    | with_reducible apply Keeps.ite
    | (lift_lets; intro _)
    | split
    | dsimp only
    | fail_if_no_progress with_reducible apply Keeps.upd
    | dsimp +zetaDelta only

theorem State.recvMirror_keeps {r0 : State} (s : State) (h : DsHdr) (k : State → State) (hk : ∀ t, Keeps r0 t → Keeps r0 (k t)) (kp : Keeps r0 s) :
    Keeps r0 (State.recvMirror s h k) := by
  unfold State.recvMirror
  repeat' first
    | with_reducible assumption
    | intro _
    | with_reducible apply hk
    | with_reducible apply State.served_keeps
    | with_reducible apply State.recv_keeps
    | with_reducible apply Keeps.ite
    | (lift_lets; intro _)
    | split
    | dsimp only
    | fail_if_no_progress with_reducible apply Keeps.upd
    | dsimp +zetaDelta only

theorem execLedger_keeps {r0 sT : State} (h : DsHdr) (entries : List (BitVec 256)) (s : State) (kp : Keeps r0 s)
    (e : execLedger h entries s = .next sT) : Keeps r0 sT := by
  unfold execLedger at e
  rw [← Host.Outcome.next.inj e]
  repeat' first
    | with_reducible assumption
    | intro _
    | with_reducible apply State.recvMirror_keeps
    | with_reducible apply State.each_keeps
    | with_reducible apply State.putLedger_keeps
    | with_reducible apply Keeps.ite
    | (lift_lets; intro _)
    | split
    | dsimp only
    | fail_if_no_progress with_reducible apply Keeps.upd
    | dsimp +zetaDelta only

theorem execLath_keeps {r0 sT : State} (h : DsHdr) (recs : List LathRec) (s : State) (kp : Keeps r0 s)
    (e : execLath h recs s = .next sT) : Keeps r0 sT := by
  unfold execLath at e
  rw [← Host.Outcome.next.inj e]
  repeat' first
    | with_reducible assumption
    | intro _
    | with_reducible apply State.recvMirror_keeps
    | with_reducible apply State.each_keeps
    | with_reducible apply State.putLathRec_keeps
    | with_reducible apply Keeps.ite
    | (lift_lets; intro _)
    | split
    | dsimp only
    | fail_if_no_progress with_reducible apply Keeps.upd
    | dsimp +zetaDelta only

theorem execQueue_keeps {r0 sT : State} (h : DsHdr) (recs : List QueueRec) (s : State) (kp : Keeps r0 s)
    (e : execQueue h recs s = .next sT) : Keeps r0 sT := by
  unfold execQueue at e
  rw [← Host.Outcome.next.inj e]
  repeat' first
    | with_reducible assumption
    | intro _
    | with_reducible apply State.recvMirror_keeps
    | with_reducible apply State.each_keeps
    | with_reducible apply State.putQueue_keeps
    | with_reducible apply Keeps.ite
    | (lift_lets; intro _)
    | split
    | dsimp only
    | fail_if_no_progress with_reducible apply Keeps.upd
    | dsimp +zetaDelta only

theorem execEgress_keeps {r0 sT : State} (h : DsHdr) (recs : List EgressRec) (s : State) (kp : Keeps r0 s)
    (e : execEgress h recs s = .next sT) : Keeps r0 sT := by
  unfold execEgress at e
  rw [← Host.Outcome.next.inj e]
  repeat' first
    | with_reducible assumption
    | intro _
    | with_reducible apply State.recvMirror_keeps
    | with_reducible apply State.each_keeps
    | with_reducible apply State.putEgress_keeps
    | with_reducible apply Keeps.ite
    | (lift_lets; intro _)
    | split
    | dsimp only
    | fail_if_no_progress with_reducible apply Keeps.upd
    | dsimp +zetaDelta only

theorem State.liveReplied_keeps {r0 : State} (s : State) (kp : Keeps r0 s) :
    Keeps r0 (State.liveReplied s) := by
  unfold State.liveReplied
  repeat' first
    | with_reducible assumption
    | intro _
    | with_reducible apply State.send_keeps
    | with_reducible apply Keeps.ite
    | (lift_lets; intro _)
    | split
    | dsimp only
    | fail_if_no_progress with_reducible apply Keeps.upd
    | dsimp +zetaDelta only

theorem State.joined_keeps {r0 : State} (s : State) (kp : Keeps r0 s) :
    Keeps r0 (State.joined s) := by
  unfold State.joined
  repeat' first
    | with_reducible assumption
    | intro _
    | with_reducible apply State.liveReplied_keeps
    | with_reducible apply State.replyWaiting_keeps
    | with_reducible apply State.pulse_keeps
    | with_reducible apply State.dsSend_keeps
    | with_reducible apply Keeps.ite
    | (lift_lets; intro _)
    | split
    | dsimp only
    | fail_if_no_progress with_reducible apply Keeps.upd
    | dsimp +zetaDelta only

theorem execBoundary_keeps {r0 sT : State} (h : DsHdr) (recs : List BoundaryRec) (s : State) (kp : Keeps r0 s)
    (e : execBoundary h recs s = .next sT) : Keeps r0 sT := by
  unfold execBoundary at e
  rw [← Host.Outcome.next.inj e]
  repeat' first
    | with_reducible assumption
    | intro _
    | with_reducible apply State.recvMirror_keeps
    | with_reducible apply State.joined_keeps
    | with_reducible apply State.each_keeps
    | with_reducible apply State.putBoundary_keeps
    | with_reducible apply Keeps.ite
    | (lift_lets; intro _)
    | split
    | dsimp only
    | fail_if_no_progress with_reducible apply Keeps.upd
    | dsimp +zetaDelta only

theorem execConfig_keeps {r0 sT : State} (h : DsHdr) (recs : List ConfigRec) (s : State) (kp : Keeps r0 s)
    (e : execConfig h recs s = .next sT) : Keeps r0 sT := by
  unfold execConfig at e
  rw [← Host.Outcome.next.inj e]
  repeat' first
    | with_reducible assumption
    | intro _
    | with_reducible apply State.recvMirror_keeps
    | with_reducible apply State.each_keeps
    | with_reducible apply State.putConfig_keeps
    | with_reducible apply Keeps.ite
    | (lift_lets; intro _)
    | split
    | dsimp only
    | fail_if_no_progress with_reducible apply Keeps.upd
    | dsimp +zetaDelta only

theorem execBulk_keeps {r0 sT : State} (h : DsHdr) (laths : List LathRec) (queues : List QueueRec) (cfgs : List ConfigRec) (s : State) (kp : Keeps r0 s)
    (e : execBulk h laths queues cfgs s = .next sT) : Keeps r0 sT := by
  unfold execBulk at e
  rw [← Host.Outcome.next.inj e]
  repeat' first
    | with_reducible assumption
    | intro _
    | with_reducible apply State.recvMirror_keeps
    | with_reducible apply State.each_keeps
    | with_reducible apply State.putConfig_keeps
    | with_reducible apply State.putLathRec_keeps
    | with_reducible apply State.putQueue_keeps
    | with_reducible apply Keeps.ite
    | (lift_lets; intro _)
    | split
    | dsimp only
    | fail_if_no_progress with_reducible apply Keeps.upd
    | dsimp +zetaDelta only

theorem State.joinActive_keeps {r0 : State} (s : State) (step : Nat) (ver : BitVec 16) (kp : Keeps r0 s) :
    Keeps r0 (State.joinActive s step ver) := by
  unfold State.joinActive
  repeat' first
    | with_reducible assumption
    | intro _
    | with_reducible apply State.dsSend_keeps
    | with_reducible apply State.pairViol_keeps
    | with_reducible apply State.releaseFor_keeps
    | with_reducible apply State.pulse_keeps
    | with_reducible apply Keeps.ite
    | (lift_lets; intro _)
    | split
    | dsimp only
    | fail_if_no_progress with_reducible apply Keeps.upd
    | dsimp +zetaDelta only

theorem execJoin_keeps {r0 sT : State} (h : DsHdr) (step : Byte) (stateVer : BitVec 16) (s : State) (kp : Keeps r0 s)
    (e : execJoin h step stateVer s = .next sT) : Keeps r0 sT := by
  unfold execJoin at e
  rw [← Host.Outcome.next.inj e]
  repeat' first
    | with_reducible assumption
    | intro _
    | with_reducible apply State.served_keeps
    | with_reducible apply State.recv_keeps
    | with_reducible apply State.joinActive_keeps
    | with_reducible apply State.toOut_keeps
    | with_reducible apply Keeps.ite
    | (lift_lets; intro _)
    | split
    | dsimp only
    | fail_if_no_progress with_reducible apply Keeps.upd
    | dsimp +zetaDelta only

theorem execHandover_keeps {r0 sT : State} (h : DsHdr) (eqs0 : Word32) (eqs1 : Word32) (s : State) (kp : Keeps r0 s)
    (e : execHandover h eqs0 eqs1 s = .next sT) : Keeps r0 sT := by
  unfold execHandover at e
  rw [← Host.Outcome.next.inj e]
  repeat' first
    | with_reducible assumption
    | intro _
    | with_reducible apply State.served_keeps
    | with_reducible apply State.recv_keeps
    | with_reducible apply Keeps.ite
    | (lift_lets; intro _)
    | split
    | dsimp only
    | fail_if_no_progress with_reducible apply Keeps.upd
    | dsimp +zetaDelta only

theorem execAlign_keeps {r0 sT : State} (lane : Nat) (s : State) (kp : Keeps r0 s)
    (e : execAlign lane s = .next sT) : Keeps r0 sT := by
  unfold execAlign at e
  rw [← Host.Outcome.next.inj e]
  repeat' first
    | with_reducible assumption
    | intro _
    | with_reducible apply Keeps.ite
    | (lift_lets; intro _)
    | split
    | dsimp only
    | fail_if_no_progress with_reducible apply Keeps.upd
    | dsimp +zetaDelta only

theorem State.linkCame_keeps {r0 : State} (s : State) (kp : Keeps r0 s) :
    Keeps r0 (State.linkCame s) := by
  unfold State.linkCame
  repeat' first
    | with_reducible assumption
    | intro _
    | with_reducible apply State.pulse_keeps
    | with_reducible apply Keeps.ite
    | (lift_lets; intro _)
    | split
    | dsimp only
    | fail_if_no_progress with_reducible apply Keeps.upd
    | dsimp +zetaDelta only

theorem execLaneUp_keeps {r0 sT : State} (lane : Nat) (s : State) (kp : Keeps r0 s)
    (e : execLaneUp lane s = .next sT) : Keeps r0 sT := by
  unfold execLaneUp at e
  rw [← Host.Outcome.next.inj e]
  repeat' first
    | with_reducible assumption
    | intro _
    | with_reducible apply State.linkCame_keeps
    | with_reducible apply Keeps.ite
    | (lift_lets; intro _)
    | split
    | dsimp only
    | fail_if_no_progress with_reducible apply Keeps.upd
    | dsimp +zetaDelta only

theorem execLaneDown_keeps {r0 sT : State} (lane : Nat) (s : State) (kp : Keeps r0 s)
    (e : execLaneDown lane s = .next sT) : Keeps r0 sT := by
  unfold execLaneDown at e
  rw [← Host.Outcome.next.inj e]
  repeat' first
    | with_reducible assumption
    | intro _
    | with_reducible apply State.served_keeps
    | with_reducible apply State.toOut_keeps
    | with_reducible apply State.markOut_keeps
    | with_reducible apply Keeps.ite
    | (lift_lets; intro _)
    | split
    | dsimp only
    | fail_if_no_progress with_reducible apply Keeps.upd
    | dsimp +zetaDelta only

theorem execTickOrderedSet_keeps {r0 sT : State} (frame : BitVec 48) (off : Int) (s : State) (kp : Keeps r0 s)
    (e : execTickOrderedSet frame off s = .next sT) : Keeps r0 sT := by
  unfold execTickOrderedSet at e
  rw [← Host.Outcome.next.inj e]
  repeat' first
    | with_reducible assumption
    | intro _
    | with_reducible apply State.escalate_keeps
    | with_reducible apply State.pairViol_keeps
    | with_reducible apply Keeps.ite
    | (lift_lets; intro _)
    | split
    | dsimp only
    | fail_if_no_progress with_reducible apply Keeps.upd
    | dsimp +zetaDelta only

theorem execFenceEcho_keeps {r0 sT : State} (level : Bool) (s : State) (kp : Keeps r0 s)
    (e : execFenceEcho level s = .next sT) : Keeps r0 sT := by
  unfold execFenceEcho at e
  rw [← Host.Outcome.next.inj e]
  repeat' first
    | with_reducible assumption
    | intro _
    | with_reducible apply Keeps.ite
    | (lift_lets; intro _)
    | split
    | dsimp only
    | fail_if_no_progress with_reducible apply Keeps.upd
    | dsimp +zetaDelta only

theorem execFenceInRise_keeps {r0 sT : State} (s : State) (kp : Keeps r0 s)
    (e : execFenceInRise s = .next sT) : Keeps r0 sT := by
  unfold execFenceInRise at e
  rw [← Host.Outcome.next.inj e]
  repeat' first
    | with_reducible assumption
    | intro _
    | with_reducible apply Keeps.ite
    | (lift_lets; intro _)
    | split
    | dsimp only
    | fail_if_no_progress with_reducible apply Keeps.upd
    | dsimp +zetaDelta only

theorem execFenceWatchExpiry_keeps {r0 sT : State} (level : Bool) (s : State) (kp : Keeps r0 s)
    (e : execFenceWatchExpiry level s = .next sT) : Keeps r0 sT := by
  unfold execFenceWatchExpiry at e
  rw [← Host.Outcome.next.inj e]
  repeat' first
    | with_reducible assumption
    | intro _
    | with_reducible apply State.toOut_keeps
    | with_reducible apply Keeps.ite
    | (lift_lets; intro _)
    | split
    | dsimp only
    | fail_if_no_progress with_reducible apply Keeps.upd
    | dsimp +zetaDelta only

theorem execFenceArbitrationRound_keeps {r0 sT : State} (sample1 : Bool) (sample2 : Bool) (s : State) (kp : Keeps r0 s)
    (e : execFenceArbitrationRound sample1 sample2 s = .next sT) : Keeps r0 sT := by
  unfold execFenceArbitrationRound at e
  rw [← Host.Outcome.next.inj e]
  repeat' first
    | with_reducible assumption
    | intro _
    | with_reducible apply State.lastSteps_keeps
    | with_reducible apply State.takeRole_keeps
    | with_reducible apply Keeps.ite
    | (lift_lets; intro _)
    | split
    | dsimp only
    | fail_if_no_progress with_reducible apply Keeps.upd
    | dsimp +zetaDelta only

end Sys2Proof.Machine
end

