-- ==== Sys2Proof/Laws/KeepsRecovery.lean ====
section
/-! SUPPORT. The operations of Machine/Recovery.lean keep the queue of commands and the form of the memory. -/

namespace Sys2Proof.Machine
open Sys2Proof

theorem execInterruptAccept_keeps {r0 sT : State} (core : Nat) (s : State) (kp : Keeps r0 s)
    (e : execInterruptAccept core s = .next sT) : Keeps r0 sT := by
  unfold execInterruptAccept at e
  rw [← Host.Outcome.next.inj e]
  repeat' first
    | with_reducible assumption
    | intro _
    | with_reducible apply State.acceptInt_keeps
    | with_reducible apply State.arrange_keeps
    | with_reducible apply Keeps.ite
    | (lift_lets; intro _)
    | split
    | dsimp only
    | fail_if_no_progress with_reducible apply Keeps.upd
    | dsimp +zetaDelta only

theorem State.openAreas_keeps {r0 : State} (s : State) (core : Nat) (kp : Keeps r0 s) :
    Keeps r0 (State.openAreas s core) := by
  unfold State.openAreas
  repeat' first
    | with_reducible assumption
    | intro _
    | with_reducible apply State.openWords_keeps
    | with_reducible apply Keeps.ite
    | (lift_lets; intro _)
    | split
    | dsimp only
    | fail_if_no_progress with_reducible apply Keeps.upd
    | dsimp +zetaDelta only

theorem State.zeroTsbs_keeps {r0 : State} (s : State) (core : Nat) (kp : Keeps r0 s) :
    Keeps r0 (State.zeroTsbs s core) := by
  unfold State.zeroTsbs
  repeat' first
    | with_reducible assumption
    | intro _
    | with_reducible apply State.store_keeps
    | with_reducible apply Keeps.ite
    | (lift_lets; intro _)
    | split
    | dsimp only
    | fail_if_no_progress with_reducible apply Keeps.upd
    | dsimp +zetaDelta only

theorem State.recoverCore_keeps {r0 : State} (s : State) (core : Nat) (kp : Keeps r0 s) :
    Keeps r0 (State.recoverCore s core) := by
  unfold State.recoverCore
  repeat' first
    | with_reducible assumption
    | intro _
    | with_reducible apply State.loadSuper_keeps
    | with_reducible apply State.zeroTsbs_keeps
    | with_reducible apply State.loadLib_keeps
    | with_reducible apply State.openAreas_keeps
    | with_reducible apply State.freshCtxs_keeps
    | with_reducible apply State.setLock_keeps
    | with_reducible apply State.setFreeze_keeps
    | with_reducible apply State.sendSlices_keeps
    | with_reducible apply State.releaseFor_keeps
    | with_reducible apply State.served_keeps
    | with_reducible apply State.routeAll_keeps
    | with_reducible apply Keeps.ite
    | (lift_lets; intro _)
    | split
    | dsimp only
    | fail_if_no_progress with_reducible apply Keeps.upd
    | dsimp +zetaDelta only

theorem State.leaveOut_keeps {r0 : State} (s : State) (core : Nat) (kp : Keeps r0 s) :
    Keeps r0 (State.leaveOut s core) := by
  unfold State.leaveOut
  repeat' first
    | with_reducible assumption
    | intro _
    | with_reducible apply State.updCore_keeps
    | with_reducible apply State.served_keeps
    | with_reducible apply State.sendSlices_keeps
    | with_reducible apply State.tileFault_keeps
    | with_reducible apply Keeps.ite
    | (lift_lets; intro _)
    | split
    | dsimp only
    | fail_if_no_progress with_reducible apply Keeps.upd
    | dsimp +zetaDelta only

theorem execCoreRecoveryComplete_keeps {r0 sT : State} (core : Nat) (testOk : Bool) (s : State) (kp : Keeps r0 s)
    (e : execCoreRecoveryComplete core testOk s = .next sT) : Keeps r0 sT := by
  unfold execCoreRecoveryComplete at e
  rw [← Host.Outcome.next.inj e]
  repeat' first
    | with_reducible assumption
    | intro _
    | with_reducible apply State.leaveOut_keeps
    | with_reducible apply State.recoverCore_keeps
    | with_reducible apply State.journalRec_keeps
    | with_reducible apply Keeps.ite
    | (lift_lets; intro _)
    | split
    | dsimp only
    | fail_if_no_progress with_reducible apply Keeps.upd
    | dsimp +zetaDelta only

theorem execCorniceLockTimeout_keeps {r0 sT : State} (tile : Nat) (s : State) (kp : Keeps r0 s)
    (e : execCorniceLockTimeout tile s = .next sT) : Keeps r0 sT := by
  unfold execCorniceLockTimeout at e
  rw [← Host.Outcome.next.inj e]
  repeat' first
    | with_reducible assumption
    | intro _
    | with_reducible apply State.served_keeps
    | with_reducible apply State.tileFault_keeps
    | with_reducible apply Keeps.ite
    | (lift_lets; intro _)
    | split
    | dsimp only
    | fail_if_no_progress with_reducible apply Keeps.upd
    | dsimp +zetaDelta only

theorem State.moveCtx_keeps {r0 : State} (s : State) (core : Nat) (k : Nat) (core' : Nat) (k' : Nat) (kp : Keeps r0 s) :
    Keeps r0 (State.moveCtx s core k core' k') := by
  unfold State.moveCtx
  repeat' first
    | with_reducible assumption
    | intro _
    | with_reducible apply State.setCtx_keeps
    | with_reducible apply State.mark_keeps
    | with_reducible apply State.store_keeps
    | with_reducible apply State.goChan_keeps
    | with_reducible apply Keeps.ite
    | (lift_lets; intro _)
    | split
    | dsimp only
    | fail_if_no_progress with_reducible apply Keeps.upd
    | dsimp +zetaDelta only

theorem execContextMigrate_keeps {r0 sT : State} (core : Nat) (ctx : Nat) (s : State) (kp : Keeps r0 s)
    (e : execContextMigrate core ctx s = .next sT) : Keeps r0 sT := by
  unfold execContextMigrate at e
  rw [← Host.Outcome.next.inj e]
  repeat' first
    | with_reducible assumption
    | intro _
    | with_reducible apply State.served_keeps
    | with_reducible apply State.arrange_keeps
    | with_reducible apply State.moveCtx_keeps
    | with_reducible apply Keeps.ite
    | (lift_lets; intro _)
    | split
    | dsimp only
    | fail_if_no_progress with_reducible apply Keeps.upd
    | dsimp +zetaDelta only

theorem State.mbxLost_keeps {r0 : State} (s : State) (mb : Nat) (kp : Keeps r0 s) :
    Keeps r0 (State.mbxLost s mb) := by
  unfold State.mbxLost
  repeat' first
    | with_reducible assumption
    | intro _
    | with_reducible apply State.mbxLine_keeps
    | with_reducible apply State.freeCells_keeps
    | with_reducible apply State.updMbx_keeps
    | with_reducible apply Keeps.ite
    | (lift_lets; intro _)
    | split
    | dsimp only
    | fail_if_no_progress with_reducible apply Keeps.upd
    | dsimp +zetaDelta only

theorem State.retireCell_keeps {r0 : State} (s : State) (k : Nat) (kp : Keeps r0 s) :
    Keeps r0 (State.retireCell s k) := by
  unfold State.retireCell
  repeat' first
    | with_reducible assumption
    | intro _
    | with_reducible apply State.mbxLost_keeps
    | with_reducible apply State.retire_keeps
    | with_reducible apply State.failAt_keeps
    | with_reducible apply State.dropRun_keeps
    | with_reducible apply Keeps.ite
    | (lift_lets; intro _)
    | split
    | dsimp only
    | fail_if_no_progress with_reducible apply Keeps.upd
    | dsimp +zetaDelta only

theorem State.retireLath_keeps {r0 : State} (s : State) (ch : Nat) (kp : Keeps r0 s) :
    Keeps r0 (State.retireLath s ch) := by
  unfold State.retireLath
  repeat' first
    | with_reducible assumption
    | intro _
    | with_reducible apply State.pulse_keeps
    | with_reducible apply State.updChan_keeps
    | with_reducible apply State.failAt_keeps
    | with_reducible apply State.dropRun_keeps
    | with_reducible apply State.goChan_keeps
    | with_reducible apply Keeps.ite
    | (lift_lets; intro _)
    | split
    | dsimp only
    | fail_if_no_progress with_reducible apply Keeps.upd
    | dsimp +zetaDelta only

theorem State.eccLock_keeps {r0 : State} (s : State) (core : Nat) (k : Nat) (cause : Nat) (kp : Keeps r0 s) :
    Keeps r0 (State.eccLock s core k cause) := by
  unfold State.eccLock
  repeat' first
    | with_reducible assumption
    | intro _
    | with_reducible apply State.lockCore_keeps
    | with_reducible apply State.pulse_keeps
    | with_reducible apply Keeps.ite
    | (lift_lets; intro _)
    | split
    | dsimp only
    | fail_if_no_progress with_reducible apply Keeps.upd
    | dsimp +zetaDelta only

theorem State.eccOperand_keeps {r0 : State} (s : State) (core : Nat) (k : Nat) (acc : Nat) (reg : Nat) (addr : Word32) (kp : Keeps r0 s) :
    Keeps r0 (State.eccOperand s core k acc reg addr) := by
  unfold State.eccOperand
  repeat' first
    | with_reducible assumption
    | intro _
    | with_reducible apply State.arrange_keeps
    | with_reducible apply State.pulse_keeps
    | with_reducible apply State.raise_keeps
    | with_reducible apply Keeps.ite
    | (lift_lets; intro _)
    | split
    | dsimp only
    | fail_if_no_progress with_reducible apply Keeps.upd
    | dsimp +zetaDelta only

theorem State.spoilMram_keeps {r0 : State} (s : State) (loc : EccLoc) (kp : Keeps r0 s) :
    Keeps r0 (State.spoilMram s loc) := by
  unfold State.spoilMram
  repeat' first
    | with_reducible assumption
    | intro _
    | with_reducible apply Keeps.ite
    | (lift_lets; intro _)
    | split
    | dsimp only
    | fail_if_no_progress with_reducible apply Keeps.upd
    | dsimp +zetaDelta only

theorem execEccUncorrectableError_keeps {r0 sT : State} (loc : EccLoc) (s : State) (kp : Keeps r0 s)
    (e : execEccUncorrectableError loc s = .next sT) : Keeps r0 sT := by
  unfold execEccUncorrectableError at e
  rw [← Host.Outcome.next.inj e]
  repeat' first
    | with_reducible assumption
    | intro _
    | with_reducible apply State.spoilMram_keeps
    | with_reducible apply State.served_keeps
    | with_reducible apply State.retireCell_keeps
    | with_reducible apply State.retireLath_keeps
    | with_reducible apply State.eccOperand_keeps
    | with_reducible apply State.eccLock_keeps
    | with_reducible apply State.tileFault_keeps
    | with_reducible apply State.each_keeps
    | with_reducible apply State.endOnPort_keeps
    | with_reducible apply State.haltDie_keeps
    | with_reducible apply Keeps.ite
    | (lift_lets; intro _)
    | split
    | dsimp only
    | fail_if_no_progress with_reducible apply Keeps.upd
    | dsimp +zetaDelta only

end Sys2Proof.Machine
end

