-- ==== Sys2Proof/Laws/KeepsSignals.lean ====
section
/-! SUPPORT. The operations of Machine/Signals.lean keep the queue of commands and the form of the memory. -/

namespace Sys2Proof.Machine
open Sys2Proof

theorem State.doSignal_keeps {r0 : State} (s : State) (ch : Nat) (w : BitVec 128) (kp : Keeps r0 s) :
    Keeps r0 (State.doSignal s ch w) := by
  unfold State.doSignal
  repeat' first
    | with_reducible assumption
    | intro _
    | with_reducible apply State.updXfer_keeps
    | with_reducible apply State.failNow_keeps
    | with_reducible apply State.startCcw_keeps
    | with_reducible apply State.goOn_keeps
    | with_reducible apply State.replaceCond_keeps
    | with_reducible apply State.beginSkip_keeps
    | with_reducible apply State.park_keeps
    | with_reducible apply State.pull_keeps
    | with_reducible apply State.openEffect_keeps
    | with_reducible apply State.endSignal_keeps
    | with_reducible apply State.setEvents_keeps
    | with_reducible apply Keeps.ite
    | (lift_lets; intro _)
    | split
    | dsimp only
    | fail_if_no_progress with_reducible apply Keeps.upd
    | dsimp +zetaDelta only

theorem execSignal_keeps {r0 sT : State} (ch : Nat) (s : State) (kp : Keeps r0 s)
    (e : execSignal ch s = .next sT) : Keeps r0 sT := by
  unfold execSignal at e
  rw [← Host.Outcome.next.inj e]
  repeat' first
    | with_reducible assumption
    | intro _
    | with_reducible apply State.served_keeps
    | with_reducible apply State.onDue_keeps
    | with_reducible apply State.doSignal_keeps
    | with_reducible apply Keeps.ite
    | (lift_lets; intro _)
    | split
    | dsimp only
    | fail_if_no_progress with_reducible apply Keeps.upd
    | dsimp +zetaDelta only

theorem State.authFail_keeps {r0 : State} (s : State) (f : KmdFrame) (reason : Nat) (kp : Keeps r0 s) :
    Keeps r0 (State.authFail s f reason) := by
  unfold State.authFail
  repeat' first
    | with_reducible assumption
    | intro _
    | with_reducible apply State.pulse_keeps
    | with_reducible apply State.journalRec_keeps
    | with_reducible apply Keeps.ite
    | (lift_lets; intro _)
    | split
    | dsimp only
    | fail_if_no_progress with_reducible apply Keeps.upd
    | dsimp +zetaDelta only

theorem State.kmdIngress_keeps {r0 : State} (s : State) (ty : Nat) (mac : Nat) (b : List Byte) (k : State → KmdFrame → State) (hk : ∀ t a1, Keeps r0 t → Keeps r0 (k t a1)) (kp : Keeps r0 s) :
    Keeps r0 (State.kmdIngress s ty mac b k) := by
  unfold State.kmdIngress
  repeat' first
    | with_reducible assumption
    | intro _
    | with_reducible apply hk
    | with_reducible apply State.authFail_keeps
    | with_reducible apply Keeps.ite
    | (lift_lets; intro _)
    | split
    | dsimp only
    | fail_if_no_progress with_reducible apply Keeps.upd
    | dsimp +zetaDelta only

theorem State.answerKmd_keeps {r0 : State} (s : State) (f : KmdFrame) (ty : Nat) (reason : Nat) (role : BitVec 8) (epoch : BitVec 16) (kp : Keeps r0 s) :
    Keeps r0 (State.answerKmd s f ty reason role epoch) := by
  unfold State.answerKmd
  repeat' first
    | with_reducible assumption
    | intro _
    | with_reducible apply State.kmdSend_keeps
    | with_reducible apply Keeps.ite
    | (lift_lets; intro _)
    | split
    | dsimp only
    | fail_if_no_progress with_reducible apply Keeps.upd
    | dsimp +zetaDelta only

theorem State.settleData_keeps {r0 : State} (s : State) (f : KmdFrame) (ty : Nat) (reason : Nat) (role : BitVec 8) (epoch : BitVec 16) (kp : Keeps r0 s) :
    Keeps r0 (State.settleData s f ty reason role epoch) := by
  unfold State.settleData
  repeat' first
    | with_reducible assumption
    | intro _
    | with_reducible apply State.answerKmd_keeps
    | with_reducible apply Keeps.ite
    | (lift_lets; intro _)
    | split
    | dsimp only
    | fail_if_no_progress with_reducible apply Keeps.upd
    | dsimp +zetaDelta only

theorem State.bounce_keeps {r0 : State} (s : State) (f : KmdFrame) (kp : Keeps r0 s) :
    Keeps r0 (State.bounce s f) := by
  unfold State.bounce
  repeat' first
    | with_reducible assumption
    | intro _
    | with_reducible apply State.pulse_keeps
    | with_reducible apply State.journalRec_keeps
    | with_reducible apply State.settleData_keeps
    | with_reducible apply Keeps.ite
    | (lift_lets; intro _)
    | split
    | dsimp only
    | fail_if_no_progress with_reducible apply Keeps.upd
    | dsimp +zetaDelta only

theorem State.deliverData_keeps {r0 : State} (s : State) (f : KmdFrame) (kp : Keeps r0 s) :
    Keeps r0 (State.deliverData s f) := by
  unfold State.deliverData
  repeat' first
    | with_reducible assumption
    | intro _
    | with_reducible apply State.bounce_keeps
    | with_reducible apply State.settleData_keeps
    | with_reducible apply State.mbxRefused_keeps
    | refine State.grantProducer_of ?_ (by with_reducible assumption)
    | with_reducible apply State.mbxAccept_keeps
    | with_reducible apply State.store_keeps
    | with_reducible apply Keeps.ite
    | (lift_lets; intro _)
    | split
    | dsimp only
    | fail_if_no_progress with_reducible apply Keeps.upd
    | dsimp +zetaDelta only

theorem State.takeData_keeps {r0 : State} (s : State) (f : KmdFrame) (kp : Keeps r0 s) :
    Keeps r0 (State.takeData s f) := by
  unfold State.takeData
  repeat' first
    | with_reducible assumption
    | intro _
    | with_reducible apply State.deliverData_keeps
    | with_reducible apply State.answerKmd_keeps
    | with_reducible apply State.authFail_keeps
    | with_reducible apply Keeps.ite
    | (lift_lets; intro _)
    | split
    | dsimp only
    | fail_if_no_progress with_reducible apply Keeps.upd
    | dsimp +zetaDelta only

theorem execKmdData_keeps {r0 sT : State} (mac : Nat) (bytes : List Byte) (s : State) (kp : Keeps r0 s)
    (e : execKmdData mac bytes s = .next sT) : Keeps r0 sT := by
  unfold execKmdData at e
  rw [← Host.Outcome.next.inj e]
  repeat' first
    | with_reducible assumption
    | intro _
    | with_reducible apply State.kmdIngress_keeps
    | with_reducible apply State.takeData_keeps
    | with_reducible apply Keeps.ite
    | (lift_lets; intro _)
    | split
    | dsimp only
    | fail_if_no_progress with_reducible apply Keeps.upd
    | dsimp +zetaDelta only

theorem State.onAnswer_keeps {r0 : State} (s : State) (ty : Nat) (mac : Nat) (b : List Byte) (k : State → KmdFrame → State) (hk : ∀ t a1, Keeps r0 t → Keeps r0 (k t a1)) (kp : Keeps r0 s) :
    Keeps r0 (State.onAnswer s ty mac b k) := by
  unfold State.onAnswer
  repeat' first
    | with_reducible assumption
    | intro _
    | with_reducible apply hk
    | with_reducible apply State.served_keeps
    | with_reducible apply State.kmdIngress_keeps
    | with_reducible apply State.authFail_keeps
    | with_reducible apply Keeps.ite
    | (lift_lets; intro _)
    | split
    | dsimp only
    | fail_if_no_progress with_reducible apply Keeps.upd
    | dsimp +zetaDelta only

theorem execKmdAck_keeps {r0 sT : State} (mac : Nat) (bytes : List Byte) (s : State) (kp : Keeps r0 s)
    (e : execKmdAck mac bytes s = .next sT) : Keeps r0 sT := by
  unfold execKmdAck at e
  rw [← Host.Outcome.next.inj e]
  repeat' first
    | with_reducible assumption
    | intro _
    | with_reducible apply State.onAnswer_keeps
    | with_reducible apply State.endSignal_keeps
    | with_reducible apply State.doneOnce_keeps
    | with_reducible apply Keeps.ite
    | (lift_lets; intro _)
    | split
    | dsimp only
    | fail_if_no_progress with_reducible apply Keeps.upd
    | dsimp +zetaDelta only

theorem execKmdRefuse_keeps {r0 sT : State} (mac : Nat) (bytes : List Byte) (s : State) (kp : Keeps r0 s)
    (e : execKmdRefuse mac bytes s = .next sT) : Keeps r0 sT := by
  unfold execKmdRefuse at e
  rw [← Host.Outcome.next.inj e]
  repeat' first
    | with_reducible assumption
    | intro _
    | with_reducible apply State.onAnswer_keeps
    | with_reducible apply State.endSignal_keeps
    | with_reducible apply State.dropEffect_keeps
    | with_reducible apply Keeps.ite
    | (lift_lets; intro _)
    | split
    | dsimp only
    | fail_if_no_progress with_reducible apply Keeps.upd
    | dsimp +zetaDelta only

theorem State.bounced_keeps {r0 : State} (s : State) (f : KmdFrame) (kp : Keeps r0 s) :
    Keeps r0 (State.bounced s f) := by
  unfold State.bounced
  repeat' first
    | with_reducible assumption
    | intro _
    | with_reducible apply State.pulse_keeps
    | with_reducible apply State.journalRec_keeps
    | with_reducible apply State.endSignal_keeps
    | with_reducible apply State.dropEffect_keeps
    | with_reducible apply Keeps.ite
    | (lift_lets; intro _)
    | split
    | dsimp only
    | fail_if_no_progress with_reducible apply Keeps.upd
    | dsimp +zetaDelta only

theorem execKmdBounce_keeps {r0 sT : State} (mac : Nat) (bytes : List Byte) (s : State) (kp : Keeps r0 s)
    (e : execKmdBounce mac bytes s = .next sT) : Keeps r0 sT := by
  unfold execKmdBounce at e
  rw [← Host.Outcome.next.inj e]
  repeat' first
    | with_reducible assumption
    | intro _
    | with_reducible apply State.onAnswer_keeps
    | with_reducible apply State.bounced_keeps
    | with_reducible apply Keeps.ite
    | (lift_lets; intro _)
    | split
    | dsimp only
    | fail_if_no_progress with_reducible apply Keeps.upd
    | dsimp +zetaDelta only

theorem execKmdAnnounce_keeps {r0 sT : State} (mac : Nat) (bytes : List Byte) (s : State) (kp : Keeps r0 s)
    (e : execKmdAnnounce mac bytes s = .next sT) : Keeps r0 sT := by
  unfold execKmdAnnounce at e
  rw [← Host.Outcome.next.inj e]
  repeat' first
    | with_reducible assumption
    | intro _
    | with_reducible apply State.kmdIngress_keeps
    | with_reducible apply State.authFail_keeps
    | with_reducible apply Keeps.ite
    | (lift_lets; intro _)
    | split
    | dsimp only
    | fail_if_no_progress with_reducible apply Keeps.upd
    | dsimp +zetaDelta only

theorem State.kmdRetx_keeps {r0 : State} (s : State) (ch : Nat) (kp : Keeps r0 s) :
    Keeps r0 (State.kmdRetx s ch) := by
  unfold State.kmdRetx
  repeat' first
    | with_reducible assumption
    | intro _
    | with_reducible apply State.sendFrame_keeps
    | with_reducible apply State.updXfer_keeps
    | with_reducible apply State.takeWord_keeps
    | with_reducible apply State.endSignal_keeps
    | with_reducible apply State.doneOnce_keeps
    | with_reducible apply Keeps.ite
    | (lift_lets; intro _)
    | split
    | dsimp only
    | fail_if_no_progress with_reducible apply Keeps.upd
    | dsimp +zetaDelta only

theorem execKomondRetx_keeps {r0 sT : State} (ch : Nat) (s : State) (kp : Keeps r0 s)
    (e : execKomondRetx ch s = .next sT) : Keeps r0 sT := by
  unfold execKomondRetx at e
  rw [← Host.Outcome.next.inj e]
  repeat' first
    | with_reducible assumption
    | intro _
    | with_reducible apply State.served_keeps
    | with_reducible apply State.kmdRetx_keeps
    | with_reducible apply Keeps.ite
    | (lift_lets; intro _)
    | split
    | dsimp only
    | fail_if_no_progress with_reducible apply Keeps.upd
    | dsimp +zetaDelta only

end Sys2Proof.Machine
end

