-- ==== Sys2Proof/Laws/KeepsTicks.lean ====
section
/-! SUPPORT. The operations of Machine/Ticks.lean keep the queue of commands and the form of the memory. -/

namespace Sys2Proof.Machine
open Sys2Proof

theorem State.commitPort_keeps {r0 : State} (s : State) (p : Nat) (snap : Table Word32) (kp : Keeps r0 s) :
    Keeps r0 (State.commitPort s p snap) := by
  unfold State.commitPort
  repeat' first
    | with_reducible assumption
    | intro _
    | with_reducible apply State.updPort_keeps
    | with_reducible apply State.upOrFault_keeps
    | with_reducible apply State.portSafe_keeps
    | with_reducible apply Keeps.ite
    | (lift_lets; intro _)
    | split
    | dsimp only
    | fail_if_no_progress with_reducible apply Keeps.upd
    | dsimp +zetaDelta only

theorem State.switchFw_keeps {r0 : State} (s : State) (frame : Nat) (kp : Keeps r0 s) :
    Keeps r0 (State.switchFw s frame) := by
  unfold State.switchFw
  repeat' first
    | with_reducible assumption
    | intro _
    | with_reducible apply State.journalFw_keeps
    | with_reducible apply Keeps.ite
    | (lift_lets; intro _)
    | split
    | dsimp only
    | fail_if_no_progress with_reducible apply Keeps.upd
    | dsimp +zetaDelta only

theorem State.dropWork_keeps {r0 : State} (s : State) (kp : Keeps r0 s) :
    Keeps r0 (State.dropWork s) := by
  unfold State.dropWork
  repeat' first
    | with_reducible assumption
    | intro _
    | with_reducible apply State.each_keeps
    | with_reducible apply State.freeLseg_keeps
    | with_reducible apply Keeps.ite
    | (lift_lets; intro _)
    | split
    | dsimp only
    | fail_if_no_progress with_reducible apply Keeps.upd
    | dsimp +zetaDelta only

theorem State.leavePair_keeps {r0 : State} (s : State) (kind : Nat) (kp : Keeps r0 s) :
    Keeps r0 (State.leavePair s kind) := by
  unfold State.leavePair
  repeat' first
    | with_reducible assumption
    | intro _
    | with_reducible apply State.goAlone_keeps
    | with_reducible apply State.pulse_keeps
    | with_reducible apply State.dropWork_keeps
    | with_reducible apply Keeps.ite
    | (lift_lets; intro _)
    | split
    | dsimp only
    | fail_if_no_progress with_reducible apply Keeps.upd
    | dsimp +zetaDelta only

theorem State.replyCommit_keeps {r0 : State} (s : State) (gate : Option Nat) (c : AdmCmd) (res : List Nat) (kp : Keeps r0 s) :
    Keeps r0 (State.replyCommit s gate c res) := by
  unfold State.replyCommit
  repeat' first
    | with_reducible assumption
    | intro _
    | with_reducible apply State.replyOk_keeps
    | with_reducible apply Keeps.ite
    | (lift_lets; intro _)
    | split
    | dsimp only
    | fail_if_no_progress with_reducible apply Keeps.upd
    | dsimp +zetaDelta only

theorem State.applyChange_keeps {r0 : State} (s : State) (c : Commit) (kp : Keeps r0 s) :
    Keeps r0 (State.applyChange s c) := by
  unfold State.applyChange
  repeat' first
    | with_reducible assumption
    | intro _
    | with_reducible apply State.replyCommit_keeps
    | with_reducible apply State.each_keeps
    | with_reducible apply State.updCls_keeps
    | with_reducible apply State.updPort_keeps
    | with_reducible apply State.commitPort_keeps
    | with_reducible apply State.updLib_keeps
    | with_reducible apply State.switchFw_keeps
    | with_reducible apply State.leavePair_keeps
    | with_reducible apply Keeps.ite
    | (lift_lets; intro _)
    | split
    | dsimp only
    | fail_if_no_progress with_reducible apply Keeps.upd
    | dsimp +zetaDelta only

theorem State.applyChanges_keeps {r0 : State} (s : State) (kp : Keeps r0 s) :
    Keeps r0 (State.applyChanges s) := by
  unfold State.applyChanges
  repeat' first
    | with_reducible assumption
    | intro _
    | with_reducible apply State.each_keeps
    | with_reducible apply State.applyChange_keeps
    | with_reducible apply Keeps.ite
    | (lift_lets; intro _)
    | split
    | dsimp only
    | fail_if_no_progress with_reducible apply Keeps.upd
    | dsimp +zetaDelta only

theorem State.reloadBudgets_keeps {r0 : State} (s : State) (kp : Keeps r0 s) :
    Keeps r0 (State.reloadBudgets s) := by
  unfold State.reloadBudgets
  repeat' first
    | with_reducible assumption
    | intro _
    | with_reducible apply Keeps.ite
    | (lift_lets; intro _)
    | split
    | dsimp only
    | fail_if_no_progress with_reducible apply Keeps.upd
    | dsimp +zetaDelta only

theorem State.reload_keeps {r0 : State} (s : State) (kp : Keeps r0 s) :
    Keeps r0 (State.reload s) := by
  unfold State.reload
  repeat' first
    | with_reducible assumption
    | intro _
    | with_reducible apply Keeps.ite
    | (lift_lets; intro _)
    | split
    | dsimp only
    | fail_if_no_progress with_reducible apply Keeps.upd
    | dsimp +zetaDelta only

theorem State.markDip_keeps {r0 : State} (s : State) (kp : Keeps r0 s) :
    Keeps r0 (State.markDip s) := by
  unfold State.markDip
  repeat' first
    | with_reducible assumption
    | intro _
    | with_reducible apply Keeps.ite
    | (lift_lets; intro _)
    | split
    | dsimp only
    | fail_if_no_progress with_reducible apply Keeps.upd
    | dsimp +zetaDelta only

theorem State.endHold_keeps {r0 : State} (s : State) (kp : Keeps r0 s) :
    Keeps r0 (State.endHold s) := by
  unfold State.endHold
  repeat' first
    | with_reducible assumption
    | intro _
    | with_reducible apply State.journalRec_keeps
    | with_reducible apply State.routeAll_keeps
    | with_reducible apply State.reofferAll_keeps
    | with_reducible apply State.arrangeAll_keeps
    | with_reducible apply State.passLate_keeps
    | with_reducible apply State.setLine_keeps
    | with_reducible apply State.holdScrs_keeps
    | with_reducible apply Keeps.ite
    | (lift_lets; intro _)
    | split
    | dsimp only
    | fail_if_no_progress with_reducible apply Keeps.upd
    | dsimp +zetaDelta only

theorem State.measure_keeps {r0 : State} (s : State) (vddMv : BitVec 10) (temp : Int) (kp : Keeps r0 s) :
    Keeps r0 (State.measure s vddMv temp) := by
  unfold State.measure
  repeat' first
    | with_reducible assumption
    | intro _
    | with_reducible apply Keeps.ite
    | (lift_lets; intro _)
    | split
    | dsimp only
    | fail_if_no_progress with_reducible apply Keeps.upd
    | dsimp +zetaDelta only

theorem State.trip_keeps {r0 : State} (s : State) (kp : Keeps r0 s) :
    Keeps r0 (State.trip s) := by
  unfold State.trip
  repeat' first
    | with_reducible assumption
    | intro _
    | with_reducible apply State.haltDie_keeps
    | with_reducible apply State.journalRec_keeps
    | with_reducible apply Keeps.ite
    | (lift_lets; intro _)
    | split
    | dsimp only
    | fail_if_no_progress with_reducible apply Keeps.upd
    | dsimp +zetaDelta only

theorem State.joinTick_keeps {r0 : State} (s : State) (kp : Keeps r0 s) :
    Keeps r0 (State.joinTick s) := by
  unfold State.joinTick
  repeat' first
    | with_reducible assumption
    | intro _
    | with_reducible apply State.dsSend_keeps
    | with_reducible apply State.sendSlices_keeps
    | with_reducible apply Keeps.ite
    | (lift_lets; intro _)
    | split
    | dsimp only
    | fail_if_no_progress with_reducible apply Keeps.upd
    | dsimp +zetaDelta only

theorem State.roleTick_keeps {r0 : State} (s : State) (kp : Keeps r0 s) :
    Keeps r0 (State.roleTick s) := by
  unfold State.roleTick
  repeat' first
    | with_reducible assumption
    | intro _
    | with_reducible apply State.standDown_keeps
    | with_reducible apply State.standUp_keeps
    | with_reducible apply State.takeUpAll_keeps
    | with_reducible apply State.each_keeps
    | with_reducible apply State.kick_keeps
    | with_reducible apply Keeps.ite
    | (lift_lets; intro _)
    | split
    | dsimp only
    | fail_if_no_progress with_reducible apply Keeps.upd
    | dsimp +zetaDelta only

theorem State.tickBlock_keeps {r0 : State} (s : State) (kp : Keeps r0 s) :
    Keeps r0 (State.tickBlock s) := by
  unfold State.tickBlock
  repeat' first
    | with_reducible assumption
    | intro _
    | with_reducible apply Keeps.ite
    | (lift_lets; intro _)
    | split
    | dsimp only
    | fail_if_no_progress with_reducible apply Keeps.upd
    | dsimp +zetaDelta only

theorem State.pairTick_keeps {r0 : State} (s : State) (ended : List BoundaryRec) (kp : Keeps r0 s) :
    Keeps r0 (State.pairTick s ended) := by
  unfold State.pairTick
  repeat' first
    | with_reducible assumption
    | intro _
    | with_reducible apply State.sendHb_keeps
    | with_reducible apply State.roleTick_keeps
    | with_reducible apply State.joinTick_keeps
    | with_reducible apply State.mirror_keeps
    | with_reducible apply Keeps.ite
    | (lift_lets; intro _)
    | split
    | dsimp only
    | fail_if_no_progress with_reducible apply Keeps.upd
    | dsimp +zetaDelta only

theorem State.retry_keeps {r0 : State} (s : State) (ch : Nat) (kp : Keeps r0 s) :
    Keeps r0 (State.retry s ch) := by
  unfold State.retry
  repeat' first
    | with_reducible assumption
    | intro _
    | with_reducible apply State.sendRemote_keeps
    | with_reducible apply Keeps.ite
    | (lift_lets; intro _)
    | split
    | dsimp only
    | fail_if_no_progress with_reducible apply Keeps.upd
    | dsimp +zetaDelta only

theorem State.workOn_keeps {r0 : State} (s : State) (budgets : Bool) (kp : Keeps r0 s) :
    Keeps r0 (State.workOn s budgets) := by
  unfold State.workOn
  repeat' first
    | with_reducible assumption
    | intro _
    | with_reducible apply State.each_keeps
    | with_reducible apply State.release_keeps
    | with_reducible apply State.retry_keeps
    | with_reducible apply State.served_keeps
    | with_reducible apply State.pumpPort_keeps
    | with_reducible apply State.kickPort_keeps
    | with_reducible apply Keeps.ite
    | (lift_lets; intro _)
    | split
    | dsimp only
    | fail_if_no_progress with_reducible apply Keeps.upd
    | dsimp +zetaDelta only

theorem State.driveSync_keeps {r0 : State} (s : State) (kp : Keeps r0 s) :
    Keeps r0 (State.driveSync s) := by
  unfold State.driveSync
  repeat' first
    | with_reducible assumption
    | intro _
    | with_reducible apply Keeps.ite
    | (lift_lets; intro _)
    | split
    | dsimp only
    | fail_if_no_progress with_reducible apply Keeps.upd
    | dsimp +zetaDelta only

theorem State.tickReady_keeps {r0 : State} (s : State) (vddMv : BitVec 10) (temp : Int) (kp : Keeps r0 s) :
    Keeps r0 (State.tickReady s vddMv temp) := by
  unfold State.tickReady
  repeat' first
    | with_reducible assumption
    | intro _
    | with_reducible apply State.measure_keeps
    | with_reducible apply State.trip_keeps
    | with_reducible apply State.markDip_keeps
    | with_reducible apply State.endHold_keeps
    | with_reducible apply State.reload_keeps
    | with_reducible apply State.applyChanges_keeps
    | with_reducible apply State.reloadBudgets_keeps
    | with_reducible apply State.pulse_keeps
    | with_reducible apply State.driveSync_keeps
    | with_reducible apply State.pairTick_keeps
    | with_reducible apply State.tickBlock_keeps
    | with_reducible apply State.aqKick_keeps
    | with_reducible apply State.workOn_keeps
    | with_reducible apply State.retarget_keeps
    | with_reducible apply Keeps.ite
    | (lift_lets; intro _)
    | split
    | dsimp only
    | fail_if_no_progress with_reducible apply Keeps.upd
    | dsimp +zetaDelta only

theorem execTick_keeps {r0 sT : State} (vddMv : BitVec 10) (temp : Int) (s : State) (kp : Keeps r0 s)
    (e : execTick vddMv temp s = .next sT) : Keeps r0 sT := by
  unfold execTick at e
  rw [← Host.Outcome.next.inj e]
  repeat' first
    | with_reducible assumption
    | intro _
    | with_reducible apply State.fenceStep_keeps
    | with_reducible apply State.tickReady_keeps
    | with_reducible apply Keeps.ite
    | (lift_lets; intro _)
    | split
    | dsimp only
    | fail_if_no_progress with_reducible apply Keeps.upd
    | dsimp +zetaDelta only

end Sys2Proof.Machine
end

