-- ==== Sys2Proof/Laws/KeepsExec.lean ====
section
/-! SUPPORT. Every command, and the idle cycle, keep the queue of commands and the form of the memory. -/

namespace Sys2Proof.Machine
open Sys2Proof

theorem exec_keeps {r0 t : State} (i : Instr) (s : State) (kp : Keeps r0 s) (e : exec i s = .next t) : Keeps r0 t := by
  cases i with
  | dbCount a0 a1 a2 => exact execDbCount_keeps a0 a1 a2 _ kp e
  | dbFetch a0 a1 a2 => exact execDbFetch_keeps a0 a1 a2 _ kp e
  | queueEnable a0 a1 a2 => exact execQueueEnable_keeps a0 a1 a2 _ kp e
  | queueDisable a0 a1 a2 => exact execQueueDisable_keeps a0 a1 a2 _ kp e
  | queueRestart a0 a1 a2 => exact execQueueRestart_keeps a0 a1 a2 _ kp e
  | queuePause a0 a1 a2 => exact execQueuePause_keeps a0 a1 a2 _ kp e
  | registerWrite a0 a1 a2 a3 a4 => exact execRegisterWrite_keeps a0 a1 a2 a3 a4 _ kp e
  | lowerHalfRead a0 a1 => exact execLowerHalfRead_keeps a0 a1 _ kp e
  | rclrRead a0 a1 a2 a3 => exact execRclrRead_keeps a0 a1 a2 a3 _ kp e
  | windowWrite a0 a1 a2 => exact execWindowWrite_keeps a0 a1 a2 _ kp e
  | nlnkRelease a0 a1 => exact execNlnkRelease_keeps a0 a1 _ kp e
  | nlnkDiscard a0 a1 => exact execNlnkDiscard_keeps a0 a1 _ kp e
  | conventionalReset a0 => exact execConventionalReset_keeps a0 _ kp e
  | powerStateChange a0 a1 => exact execPowerStateChange_keeps a0 a1 _ kp e
  | msixEnable a0 a1 => exact execMsixEnable_keeps a0 a1 _ kp e
  | vectorUnmask a0 a1 => exact execVectorUnmask_keeps a0 a1 _ kp e
  | vectorMask a0 a1 => exact execVectorMask_keeps a0 a1 _ kp e
  | vectorControlRead a0 a1 => exact execVectorControlRead_keeps a0 a1 _ kp e
  | l1EntryRequest a0 a1 => exact execL1EntryRequest_keeps a0 a1 _ kp e
  | linkIdleExpiry a0 => exact execLinkIdleExpiry_keeps a0 _ kp e
  | linkExitComplete a0 => exact execLinkExitComplete_keeps a0 _ kp e
  | pmeStatusClear a0 => exact execPmeStatusClear_keeps a0 _ kp e
  | d2dCrcError a0 => exact execD2dCrcError_keeps a0 _ kp e
  | completionError a0 a1 a2 => exact execCompletionError_keeps a0 a1 a2 _ kp e
  | completionTimeout a0 a1 => exact execCompletionTimeout_keeps a0 a1 _ kp e
  | unexpectedCompletion a0 => exact execUnexpectedCompletion_keeps a0 _ kp e
  | malformedRequest a0 => exact execMalformedRequest_keeps a0 _ kp e
  | linkLeaveActive a0 => exact execLinkLeaveActive_keeps a0 _ kp e
  | linkRetrainComplete a0 a1 a2 => exact execLinkRetrainComplete_keeps a0 a1 a2 _ kp e
  | moduleLoss a0 => exact execModuleLoss_keeps a0 _ kp e
  | linkGraceExpiry a0 => exact execLinkGraceExpiry_keeps a0 _ kp e
  | queueTurn => exact execQueueTurn_keeps _ kp e
  | phasePoll a0 => exact execPhasePoll_keeps a0 _ kp e
  | descriptorReadComplete a0 a1 => exact execDescriptorReadComplete_keeps a0 a1 _ kp e
  | pcntReadComplete a0 a1 => exact execPcntReadComplete_keeps a0 a1 _ kp e
  | start a0 => exact execStart_keeps a0 _ kp e
  | resume a0 => exact execResume_keeps a0 _ kp e
  | halt a0 => exact execHalt_keeps a0 _ kp e
  | clear a0 => exact execClear_keeps a0 _ kp e
  | modify a0 => exact execModify_keeps a0 _ kp e
  | fence a0 => exact execFence_keeps a0 _ kp e
  | note a0 => exact execNote_keeps a0 _ kp e
  | pad a0 => exact execPad_keeps a0 _ kp e
  | dispatch a0 => exact execDispatch_keeps a0 _ kp e
  | ccwBlockArrive a0 a1 => exact execCcwBlockArrive_keeps a0 a1 _ kp e
  | write a0 => exact execWrite_keeps a0 _ kp e
  | read a0 => exact execRead_keeps a0 _ kp e
  | control a0 => exact execControl_keeps a0 _ kp e
  | sense a0 => exact execSense_keeps a0 _ kp e
  | jump a0 => exact execJump_keeps a0 _ kp e
  | ccwNop a0 => exact execCcwNop_keeps a0 _ kp e
  | waitf a0 => exact execWaitf_keeps a0 _ kp e
  | waitfExpiry a0 => exact execWaitfExpiry_keeps a0 _ kp e
  | waite a0 => exact execWaite_keeps a0 _ kp e
  | waiteTimeout a0 => exact execWaiteTimeout_keeps a0 _ kp e
  | run a0 => exact execRun_keeps a0 _ kp e
  | runDispatch a0 => exact execRunDispatch_keeps a0 _ kp e
  | post a0 => exact execPost_keeps a0 _ kp e
  | skipif a0 => exact execSkipif_keeps a0 _ kp e
  | exch a0 => exact execExch_keeps a0 _ kp e
  | signal a0 => exact execSignal_keeps a0 _ kp e
  | chEvtPendWrite a0 a1 a2 => exact execChEvtPendWrite_keeps a0 a1 a2 _ kp e
  | portUnitComplete a0 a1 => exact execPortUnitComplete_keeps a0 a1 _ kp e
  | cycleBoundExpiry a0 a1 => exact execCycleBoundExpiry_keeps a0 a1 _ kp e
  | tick a0 a1 => exact execTick_keeps a0 a1 _ kp e
  | frameSyncFall => exact execFrameSyncFall_keeps _ kp e
  | frmStep a0 a1 => exact execFrmStep_keeps a0 a1 _ kp e
  | frameSyncEdge a0 => exact execFrameSyncEdge_keeps a0 _ kp e
  | ptpHoldover => exact execPtpHoldover_keeps _ kp e
  | syncHoldover => exact execSyncHoldover_keeps _ kp e
  | nop a0 a1 => exact execNop_keeps a0 a1 _ kp e
  | mov a0 a1 => exact execMov_keeps a0 a1 _ kp e
  | add a0 a1 => exact execAdd_keeps a0 a1 _ kp e
  | adc a0 a1 => exact execAdc_keeps a0 a1 _ kp e
  | sub a0 a1 => exact execSub_keeps a0 a1 _ kp e
  | sbb a0 a1 => exact execSbb_keeps a0 a1 _ kp e
  | and a0 a1 => exact execAnd_keeps a0 a1 _ kp e
  | or a0 a1 => exact execOr_keeps a0 a1 _ kp e
  | xor a0 a1 => exact execXor_keeps a0 a1 _ kp e
  | not a0 a1 => exact execNot_keeps a0 a1 _ kp e
  | neg a0 a1 => exact execNeg_keeps a0 a1 _ kp e
  | shl a0 a1 => exact execShl_keeps a0 a1 _ kp e
  | shr a0 a1 => exact execShr_keeps a0 a1 _ kp e
  | sar a0 a1 => exact execSar_keeps a0 a1 _ kp e
  | rol a0 a1 => exact execRol_keeps a0 a1 _ kp e
  | mul a0 a1 => exact execMul_keeps a0 a1 _ kp e
  | mulhu a0 a1 => exact execMulhu_keeps a0 a1 _ kp e
  | mulhs a0 a1 => exact execMulhs_keeps a0 a1 _ kp e
  | divu a0 a1 => exact execDivu_keeps a0 a1 _ kp e
  | remu a0 a1 => exact execRemu_keeps a0 a1 _ kp e
  | movq a0 a1 => exact execMovq_keeps a0 a1 _ kp e
  | addq a0 a1 => exact execAddq_keeps a0 a1 _ kp e
  | cmp a0 a1 => exact execCmp_keeps a0 a1 _ kp e
  | tst a0 a1 => exact execTst_keeps a0 a1 _ kp e
  | seq a0 a1 => exact execSeq_keeps a0 a1 _ kp e
  | sne a0 a1 => exact execSne_keeps a0 a1 _ kp e
  | slt a0 a1 => exact execSlt_keeps a0 a1 _ kp e
  | sge a0 a1 => exact execSge_keeps a0 a1 _ kp e
  | sltu a0 a1 => exact execSltu_keeps a0 a1 _ kp e
  | sgeu a0 a1 => exact execSgeu_keeps a0 a1 _ kp e
  | sbs a0 a1 => exact execSbs_keeps a0 a1 _ kp e
  | sbz a0 a1 => exact execSbz_keeps a0 a1 _ kp e
  | sxx a0 a1 => exact execSxx_keeps a0 a1 _ kp e
  | skf a0 a1 => exact execSkf_keeps a0 a1 _ kp e
  | jmpr a0 a1 => exact execJmpr_keeps a0 a1 _ kp e
  | callr a0 a1 => exact execCallr_keeps a0 a1 _ kp e
  | ret a0 a1 => exact execRet_keeps a0 a1 _ kp e
  | jmpk a0 a1 => exact execJmpk_keeps a0 a1 _ kp e
  | callk a0 a1 => exact execCallk_keeps a0 a1 _ kp e
  | jmp a0 a1 => exact execJmp_keeps a0 a1 _ kp e
  | call a0 a1 => exact execCall_keeps a0 a1 _ kp e
  | retx a0 a1 => exact execRetx_keeps a0 a1 _ kp e
  | trap a0 a1 => exact execTrap_keeps a0 a1 _ kp e
  | exit a0 a1 => exact execExit_keeps a0 a1 _ kp e
  | wfe a0 a1 => exact execWfe_keeps a0 a1 _ kp e
  | sev a0 a1 => exact execSev_keeps a0 a1 _ kp e
  | waitt a0 a1 => exact execWaitt_keeps a0 a1 _ kp e
  | waittExpiry a0 a1 => exact execWaittExpiry_keeps a0 a1 _ kp e
  | lseg a0 a1 => exact execLseg_keeps a0 a1 _ kp e
  | sseg a0 a1 => exact execSseg_keeps a0 a1 _ kp e
  | mfsr a0 a1 => exact execMfsr_keeps a0 a1 _ kp e
  | mtsr a0 a1 => exact execMtsr_keeps a0 a1 _ kp e
  | movk a0 a1 => exact execMovk_keeps a0 a1 _ kp e
  | loop a0 a1 => exact execLoop_keeps a0 a1 _ kp e
  | movb a0 a1 => exact execMovb_keeps a0 a1 _ kp e
  | fillb a0 a1 => exact execFillb_keeps a0 a1 _ kp e
  | bfext a0 a1 => exact execBfext_keeps a0 a1 _ kp e
  | bfins a0 a1 => exact execBfins_keeps a0 a1 _ kp e
  | clz a0 a1 => exact execClz_keeps a0 a1 _ kp e
  | bperm a0 a1 => exact execBperm_keeps a0 a1 _ kp e
  | coreReadComplete a0 a1 a2 => exact execCoreReadComplete_keeps a0 a1 a2 _ kp e
  | interruptAccept a0 => exact execInterruptAccept_keeps a0 _ kp e
  | coreRecoveryComplete a0 a1 => exact execCoreRecoveryComplete_keeps a0 a1 _ kp e
  | corniceLockTimeout a0 => exact execCorniceLockTimeout_keeps a0 _ kp e
  | contextMigrate a0 a1 => exact execContextMigrate_keeps a0 a1 _ kp e
  | hwkAlloc a0 a1 => exact execHwkAlloc_keeps a0 a1 _ kp e
  | hwkFree a0 a1 => exact execHwkFree_keeps a0 a1 _ kp e
  | hwkClsWrite a0 a1 a2 => exact execHwkClsWrite_keeps a0 a1 a2 _ kp e
  | creditRefill a0 => exact execCreditRefill_keeps a0 _ kp e
  | hawkGrantTimeout a0 => exact execHawkGrantTimeout_keeps a0 _ kp e
  | eccCorrected a0 => exact execEccCorrected_keeps a0 _ kp e
  | eccUncorrectableError a0 => exact execEccUncorrectableError_keeps a0 _ kp e
  | mbxSend a0 a1 a2 a3 => exact execMbxSend_keeps a0 a1 a2 a3 _ kp e
  | mbxPop a0 a1 a2 => exact execMbxPop_keeps a0 a1 a2 _ kp e
  | mbxDisable a0 a1 a2 => exact execMbxDisable_keeps a0 a1 a2 _ kp e
  | semAcquire a0 a1 => exact execSemAcquire_keeps a0 a1 _ kp e
  | semRelease a0 a1 a2 => exact execSemRelease_keeps a0 a1 a2 _ kp e
  | semForce a0 a1 => exact execSemForce_keeps a0 a1 _ kp e
  | scrimRequest a0 a1 a2 a3 => exact execScrimRequest_keeps a0 a1 a2 a3 _ kp e
  | scrimTransferComplete a0 => exact execScrimTransferComplete_keeps a0 _ kp e
  | scrimWatchdogBite a0 => exact execScrimWatchdogBite_keeps a0 _ kp e
  | scrimFreeze a0 a1 a2 => exact execScrimFreeze_keeps a0 a1 a2 _ kp e
  | lineEvent a0 a1 => exact execLineEvent_keeps a0 a1 _ kp e
  | icScfgWrite a0 a1 a2 => exact execIcScfgWrite_keeps a0 a1 a2 _ kp e
  | icTake a0 a1 a2 => exact execIcTake_keeps a0 a1 a2 _ kp e
  | icTakeRead a0 a1 => exact execIcTakeRead_keeps a0 a1 _ kp e
  | icDone a0 a1 a2 => exact execIcDone_keeps a0 a1 a2 _ kp e
  | icSwset a0 a1 => exact execIcSwset_keeps a0 a1 _ kp e
  | icFlush a0 a1 => exact execIcFlush_keeps a0 a1 _ kp e
  | moderationDeadline a0 a1 => exact execModerationDeadline_keeps a0 a1 _ kp e
  | portFault a0 a1 => exact execPortFault_keeps a0 a1 _ kp e
  | faultClearTimeout a0 => exact execFaultClearTimeout_keeps a0 _ kp e
  | busOffRecoveryComplete a0 => exact execBusOffRecoveryComplete_keeps a0 _ kp e
  | clrFault a0 a1 a2 => exact execClrFault_keeps a0 a1 a2 _ kp e
  | lift a0 a1 a2 => exact execLift_keeps a0 a1 a2 _ kp e
  | liftAll a0 a1 => exact execLiftAll_keeps a0 a1 _ kp e
  | diag a0 a1 a2 => exact execDiag_keeps a0 a1 a2 _ kp e
  | frameReceive a0 a1 => exact execFrameReceive_keeps a0 a1 _ kp e
  | rxholdExpiry a0 => exact execRxholdExpiry_keeps a0 _ kp e
  | rxTimeout a0 => exact execRxTimeout_keeps a0 _ kp e
  | modbusResponseTimeout a0 => exact execModbusResponseTimeout_keeps a0 _ kp e
  | sclStretchTimeout a0 => exact execSclStretchTimeout_keeps a0 _ kp e
  | beaconHoldExpiry a0 => exact execBeaconHoldExpiry_keeps a0 _ kp e
  | lineTest a0 a1 => exact execLineTest_keeps a0 a1 _ kp e
  | plcaSync a0 => exact execPlcaSync_keeps a0 _ kp e
  | rxFlush a0 => exact execRxFlush_keeps a0 _ kp e
  | brk a0 => exact execBrk_keeps a0 _ kp e
  | idleClocks a0 => exact execIdleClocks_keeps a0 _ kp e
  | busRecovery a0 => exact execBusRecovery_keeps a0 _ kp e
  | linkRestart a0 => exact execLinkRestart_keeps a0 _ kp e
  | gpioEdge a0 a1 a2 => exact execGpioEdge_keeps a0 a1 a2 _ kp e
  | gpioTimerMatch a0 a1 => exact execGpioTimerMatch_keeps a0 a1 _ kp e
  | pwmPeriodStart a0 a1 => exact execPwmPeriodStart_keeps a0 a1 _ kp e
  | adcConversion a0 a1 => exact execAdcConversion_keeps a0 a1 _ kp e
  | adcMonitor a0 a1 => exact execAdcMonitor_keeps a0 a1 _ kp e
  | gateEntryExpiry a0 => exact execGateEntryExpiry_keeps a0 _ kp e
  | ethTxtsPop a0 a1 => exact execEthTxtsPop_keeps a0 a1 _ kp e
  | aqProd a0 a1 => exact execAqProd_keeps a0 a1 _ kp e
  | aqRcons a0 a1 => exact execAqRcons_keeps a0 a1 _ kp e
  | aqEnable a0 => exact execAqEnable_keeps a0 _ kp e
  | aqDisable a0 => exact execAqDisable_keeps a0 _ kp e
  | aqRestart a0 => exact execAqRestart_keeps a0 _ kp e
  | adminPacketRead a0 => exact execAdminPacketRead_keeps a0 _ kp e
  | identify => exact execIdentify_keeps _ kp e
  | getFeatures => exact execGetFeatures_keeps _ kp e
  | setAttach => exact execSetAttach_keeps _ kp e
  | queueQuery => exact execQueueQuery_keeps _ kp e
  | bindChannel => exact execBindChannel_keeps _ kp e
  | unbindChannel => exact execUnbindChannel_keeps _ kp e
  | routineLoad a0 => exact execRoutineLoad_keeps a0 _ kp e
  | handlerSetLoad a0 => exact execHandlerSetLoad_keeps a0 _ kp e
  | routineUnload => exact execRoutineUnload_keeps _ kp e
  | budgetCommit => exact execBudgetCommit_keeps _ kp e
  | latFloor => exact execLatFloor_keeps _ kp e
  | portCommit => exact execPortCommit_keeps _ kp e
  | calibrateMeasure a0 => exact execCalibrateMeasure_keeps a0 _ kp e
  | calibrateLoad a0 => exact execCalibrateLoad_keeps a0 _ kp e
  | calibrateRead => exact execCalibrateRead_keeps _ kp e
  | calibrateStore => exact execCalibrateStore_keeps _ kp e
  | fwStage a0 => exact execFwStage_keeps a0 _ kp e
  | fwVerify => exact execFwVerify_keeps _ kp e
  | fwActivate => exact execFwActivate_keeps _ kp e
  | fwActivateLive => exact execFwActivateLive_keeps _ kp e
  | fwConfirm => exact execFwConfirm_keeps _ kp e
  | journalRead => exact execJournalRead_keeps _ kp e
  | sleepNotice => exact execSleepNotice_keeps _ kp e
  | pairStatus => exact execPairStatus_keeps _ kp e
  | pairJoin => exact execPairJoin_keeps _ kp e
  | pairHandover => exact execPairHandover_keeps _ kp e
  | pairLeave => exact execPairLeave_keeps _ kp e
  | kmdNode => exact execKmdNode_keeps _ kp e
  | kmdKeySet => exact execKmdKeySet_keeps _ kp e
  | kmdKeyRetire => exact execKmdKeyRetire_keeps _ kp e
  | kmdRole => exact execKmdRole_keeps _ kp e
  | domainIdleExpiry a0 => exact execDomainIdleExpiry_keeps a0 _ kp e
  | wakeRequest a0 a1 => exact execWakeRequest_keeps a0 a1 _ kp e
  | domainWakeComplete a0 => exact execDomainWakeComplete_keeps a0 _ kp e
  | l4Entry => exact execL4Entry_keeps _ kp e
  | l4TimerWake => exact execL4TimerWake_keeps _ kp e
  | pairPresentFall => exact execPairPresentFall_keeps _ kp e
  | ucieL2Exit a0 => exact execUcieL2Exit_keeps a0 _ kp e
  | l4ExitComplete a0 => exact execL4ExitComplete_keeps a0 _ kp e
  | supplyWarn a0 => exact execSupplyWarn_keeps a0 _ kp e
  | supplyWarnRelease a0 => exact execSupplyWarnRelease_keeps a0 _ kp e
  | holdTimeout => exact execHoldTimeout_keeps _ kp e
  | supplyReset a0 => exact execSupplyReset_keeps a0 _ kp e
  | refclkLoss => exact execRefclkLoss_keeps _ kp e
  | xtalStop => exact execXtalStop_keeps _ kp e
  | groupReset a0 a1 => exact execGroupReset_keeps a0 a1 _ kp e
  | coldStart a0 => exact execColdStart_keeps a0 _ kp e
  | warmrstFall => exact execWarmrstFall_keeps _ kp e
  | warmStart a0 => exact execWarmStart_keeps a0 _ kp e
  | prmRestart a0 => exact execPrmRestart_keeps a0 _ kp e
  | selfRestart a0 => exact execSelfRestart_keeps a0 _ kp e
  | clrRetry a0 => exact execClrRetry_keeps a0 _ kp e
  | clrFallback a0 => exact execClrFallback_keeps a0 _ kp e
  | prmSwap a0 a1 => exact execPrmSwap_keeps a0 a1 _ kp e
  | gctlFreeze a0 a1 => exact execGctlFreeze_keeps a0 a1 _ kp e
  | gctlFreezeCrn a0 a1 => exact execGctlFreezeCrn_keeps a0 a1 _ kp e
  | journalFlush => exact execJournalFlush_keeps _ kp e
  | heartbeat a0 a1 => exact execHeartbeat_keeps a0 a1 _ kp e
  | heartbeatCheck => exact execHeartbeatCheck_keeps _ kp e
  | ack a0 => exact execAck_keeps a0 _ kp e
  | nack a0 a1 => exact execNack_keeps a0 a1 _ kp e
  | ledger a0 a1 => exact execLedger_keeps a0 a1 _ kp e
  | lath a0 a1 => exact execLath_keeps a0 a1 _ kp e
  | queue a0 a1 => exact execQueue_keeps a0 a1 _ kp e
  | egress a0 a1 => exact execEgress_keeps a0 a1 _ kp e
  | boundary a0 a1 => exact execBoundary_keeps a0 a1 _ kp e
  | config a0 a1 => exact execConfig_keeps a0 a1 _ kp e
  | bulk a0 a1 a2 a3 => exact execBulk_keeps a0 a1 a2 a3 _ kp e
  | join a0 a1 a2 => exact execJoin_keeps a0 a1 a2 _ kp e
  | handover a0 a1 a2 => exact execHandover_keeps a0 a1 a2 _ kp e
  | align a0 => exact execAlign_keeps a0 _ kp e
  | tickOrderedSet a0 a1 => exact execTickOrderedSet_keeps a0 a1 _ kp e
  | fenceEcho a0 => exact execFenceEcho_keeps a0 _ kp e
  | ackTimeout => exact execAckTimeout_keeps _ kp e
  | fenceInRise => exact execFenceInRise_keeps _ kp e
  | fenceWatchExpiry a0 => exact execFenceWatchExpiry_keeps a0 _ kp e
  | fenceArbitrationRound a0 a1 => exact execFenceArbitrationRound_keeps a0 a1 _ kp e
  | laneDown a0 => exact execLaneDown_keeps a0 _ kp e
  | laneUp a0 => exact execLaneUp_keeps a0 _ kp e
  | kmdData a0 a1 => exact execKmdData_keeps a0 a1 _ kp e
  | kmdAck a0 a1 => exact execKmdAck_keeps a0 a1 _ kp e
  | kmdRefuse a0 a1 => exact execKmdRefuse_keeps a0 a1 _ kp e
  | kmdBounce a0 a1 => exact execKmdBounce_keeps a0 a1 _ kp e
  | kmdAnnounce a0 a1 => exact execKmdAnnounce_keeps a0 a1 _ kp e
  | komondRetx a0 => exact execKomondRetx_keeps a0 _ kp e
  | dbgAccess a0 => exact execDbgAccess_keeps a0 _ kp e
  | idcode => exact execIdcode_keeps _ kp e
  | bypass => exact execBypass_keeps _ kp e
  | samplePreload a0 => exact execSamplePreload_keeps a0 _ kp e
  | extest => exact execExtest_keeps _ kp e
  | porNFall => exact execPorNFall_keeps _ kp e
  | xtalStart => exact execXtalStart_keeps _ kp e
  | slewEnd => exact execSlewEnd_keeps _ kp e
  | uartIdleLineExpiry a0 => exact execUartIdleLineExpiry_keeps a0 _ kp e
  | dataReadComplete a0 a1 => exact execDataReadComplete_keeps a0 a1 _ kp e
  | earlyLinkExit a0 => exact execEarlyLinkExit_keeps a0 _ kp e
  | smbalertAssert a0 => exact execSmbalertAssert_keeps a0 _ kp e
  | plcaBeacon a0 a1 => exact execPlcaBeacon_keeps a0 a1 _ kp e

theorem State.pauseEnds_keeps {r0 : State} (s : State) (p : Nat) (kp : Keeps r0 s) :
    Keeps r0 (State.pauseEnds s p) := by
  unfold State.pauseEnds
  repeat' first
    | with_reducible assumption
    | intro _
    | with_reducible apply State.kickPort_keeps
    | with_reducible apply State.updPort_keeps
    | with_reducible apply Keeps.ite
    | (lift_lets; intro _)
    | split
    | dsimp only
    | fail_if_no_progress with_reducible apply Keeps.upd
    | dsimp +zetaDelta only

theorem idleCycle_keeps {r0 : State} (s : State) (kp : Keeps r0 s) :
    Keeps r0 (idleCycle s) := by
  unfold idleCycle
  repeat' first
    | with_reducible assumption
    | intro _
    | with_reducible apply State.keepHeld_keeps
    | with_reducible apply State.pump_keeps
    | with_reducible apply State.fenceStep_keeps
    | with_reducible apply State.each_keeps
    | with_reducible apply State.pauseEnds_keeps
    | with_reducible apply Keeps.ite
    | (lift_lets; intro _)
    | split
    | dsimp only
    | fail_if_no_progress with_reducible apply Keeps.upd
    | dsimp +zetaDelta only

end Sys2Proof.Machine
end

