-- ==== Sys2Proof/Laws/State.lean ====
section
/-! SUPPORT. What each named update of the state leaves as it was, one lemma for each field, and what it reads back. -/

namespace Sys2Proof.Machine
open Sys2Proof

/-! ### queues -/

@[simp] theorem State.setQ_pending (s : State) (n : Nat) (x : Queue) : (s.setQ n x).pending = s.pending := rfl
@[simp] theorem State.setQ_mem (s : State) (n : Nat) (x : Queue) : (s.setQ n x).mem = s.mem := rfl
@[simp] theorem State.setQ_die (s : State) (n : Nat) (x : Queue) : (s.setQ n x).die = s.die := rfl
@[simp] theorem State.setQ_mode (s : State) (n : Nat) (x : Queue) : (s.setQ n x).mode = s.mode := rfl
@[simp] theorem State.setQ_carry (s : State) (n : Nat) (x : Queue) : (s.setQ n x).carry = s.carry := rfl
@[simp] theorem State.setQ_link0 (s : State) (n : Nat) (x : Queue) : (s.setQ n x).link0 = s.link0 := rfl
@[simp] theorem State.setQ_link1 (s : State) (n : Nat) (x : Queue) : (s.setQ n x).link1 = s.link1 := rfl
@[simp] theorem State.setQ_gctl (s : State) (n : Nat) (x : Queue) : (s.setQ n x).gctl = s.gctl := rfl
@[simp] theorem State.setQ_turn (s : State) (n : Nat) (x : Queue) : (s.setQ n x).turn = s.turn := rfl
@[simp] theorem State.setQ_chans (s : State) (n : Nat) (x : Queue) : (s.setQ n x).chans = s.chans := rfl
@[simp] theorem State.setQ_parkSeq (s : State) (n : Nat) (x : Queue) : (s.setQ n x).parkSeq = s.parkSeq := rfl
@[simp] theorem State.setQ_classes (s : State) (n : Nat) (x : Queue) : (s.setQ n x).classes = s.classes := rfl
@[simp] theorem State.setQ_frm (s : State) (n : Nat) (x : Queue) : (s.setQ n x).frm = s.frm := rfl
@[simp] theorem State.setQ_cores (s : State) (n : Nat) (x : Queue) : (s.setQ n x).cores = s.cores := rfl
@[simp] theorem State.setQ_libs (s : State) (n : Nat) (x : Queue) : (s.setQ n x).libs = s.libs := rfl
@[simp] theorem State.setQ_hawk (s : State) (n : Nat) (x : Queue) : (s.setQ n x).hawk = s.hawk := rfl
@[simp] theorem State.setQ_mbxs (s : State) (n : Nat) (x : Queue) : (s.setQ n x).mbxs = s.mbxs := rfl
@[simp] theorem State.setQ_sendRes (s : State) (n : Nat) (x : Queue) : (s.setQ n x).sendRes = s.sendRes := rfl
@[simp] theorem State.setQ_sems (s : State) (n : Nat) (x : Queue) : (s.setQ n x).sems = s.sems := rfl
@[simp] theorem State.setQ_scrs (s : State) (n : Nat) (x : Queue) : (s.setQ n x).scrs = s.scrs := rfl
@[simp] theorem State.setQ_srcs (s : State) (n : Nat) (x : Queue) : (s.setQ n x).srcs = s.srcs := rfl
@[simp] theorem State.setQ_vmods (s : State) (n : Nat) (x : Queue) : (s.setQ n x).vmods = s.vmods := rfl
@[simp] theorem State.setQ_batches (s : State) (n : Nat) (x : Queue) : (s.setQ n x).batches = s.batches := rfl
@[simp] theorem State.setQ_targets (s : State) (n : Nat) (x : Queue) : (s.setQ n x).targets = s.targets := rfl
@[simp] theorem State.setQ_ports (s : State) (n : Nat) (x : Queue) : (s.setQ n x).ports = s.ports := rfl
@[simp] theorem State.setQ_aq (s : State) (n : Nat) (x : Queue) : (s.setQ n x).aq = s.aq := rfl
@[simp] theorem State.setQ_commits (s : State) (n : Nat) (x : Queue) : (s.setQ n x).commits = s.commits := rfl
@[simp] theorem State.setQ_journal (s : State) (n : Nat) (x : Queue) : (s.setQ n x).journal = s.journal := rfl
@[simp] theorem State.setQ_jheld (s : State) (n : Nat) (x : Queue) : (s.setQ n x).jheld = s.jheld := rfl
@[simp] theorem State.setQ_jseq (s : State) (n : Nat) (x : Queue) : (s.setQ n x).jseq = s.jseq := rfl
@[simp] theorem State.setQ_late (s : State) (n : Nat) (x : Queue) : (s.setQ n x).late = s.late := rfl
@[simp] theorem State.setQ_turns (s : State) (n : Nat) (x : Queue) : (s.setQ n x).turns = s.turns := rfl
@[simp] theorem State.setQ_mled (s : State) (n : Nat) (x : Queue) : (s.setQ n x).mled = s.mled := rfl
@[simp] theorem State.setQ_prm (s : State) (n : Nat) (x : Queue) : (s.setQ n x).prm = s.prm := rfl
@[simp] theorem State.setQ_pwr (s : State) (n : Nat) (x : Queue) : (s.setQ n x).pwr = s.pwr := rfl
@[simp] theorem State.setQ_hold (s : State) (n : Nat) (x : Queue) : (s.setQ n x).hold = s.hold := rfl
@[simp] theorem State.setQ_ds (s : State) (n : Nat) (x : Queue) : (s.setQ n x).ds = s.ds := rfl
@[simp] theorem State.setQ_ledger (s : State) (n : Nat) (x : Queue) : (s.setQ n x).ledger = s.ledger := rfl
@[simp] theorem State.setQ_kmd (s : State) (n : Nat) (x : Queue) : (s.setQ n x).kmd = s.kmd := rfl
@[simp] theorem State.setQ_tap (s : State) (n : Nat) (x : Queue) : (s.setQ n x).tap = s.tap := rfl
@[simp] theorem State.setQ_lowHeld (s : State) (n : Nat) (x : Queue) : (s.setQ n x).lowHeld = s.lowHeld := rfl
@[simp] theorem State.setQ_upKept (s : State) (n : Nat) (x : Queue) : (s.setQ n x).upKept = s.upKept := rfl
@[simp] theorem State.setQ_wakeOut (s : State) (n : Nat) (x : Queue) : (s.setQ n x).wakeOut = s.wakeOut := rfl
@[simp] theorem State.setQ_porLow (s : State) (n : Nat) (x : Queue) : (s.setQ n x).porLow = s.porLow := rfl
@[simp] theorem State.setQ_warmLow (s : State) (n : Nat) (x : Queue) : (s.setQ n x).warmLow = s.warmLow := rfl
@[simp] theorem State.setQ_readOut (s : State) (n : Nat) (x : Queue) : (s.setQ n x).readOut = s.readOut := rfl
@[simp] theorem State.setQ_readData (s : State) (n : Nat) (x : Queue) : (s.setQ n x).readData = s.readData := rfl
@[simp] theorem State.setQ_eccCount (s : State) (n : Nat) (x : Queue) : (s.setQ n x).eccCount = s.eccCount := rfl
@[simp] theorem State.setQ_freeNext (s : State) (n : Nat) (x : Queue) : (s.setQ n x).freeNext = s.freeNext := rfl
@[simp] theorem State.q_setQ (s : State) (n : Nat) (x : Queue) : (s.setQ n x).q n = x := Table.get_set_same _ _ _ _
theorem State.q_setQ_ne (s : State) (n k : Nat) (x : Queue) (h : k ≠ n) : (s.setQ n x).q k = s.q k :=
  Table.get_set_ne _ _ _ h
@[simp] theorem State.updQ_def (s : State) (n : Nat) (h : Queue → Queue) : s.updQ n h = s.setQ n (h (s.q n)) := rfl
@[simp] theorem State.chan_setQ (s : State) (n k : Nat) (x : Queue) : (s.setQ n x).chan k = s.chan k := rfl
@[simp] theorem State.cls_setQ (s : State) (n k : Nat) (x : Queue) : (s.setQ n x).cls k = s.cls k := rfl
@[simp] theorem State.core_setQ (s : State) (n k : Nat) (x : Queue) : (s.setQ n x).core k = s.core k := rfl
@[simp] theorem State.lib_setQ (s : State) (n k : Nat) (x : Queue) : (s.setQ n x).lib k = s.lib k := rfl
@[simp] theorem State.mbx_setQ (s : State) (n k : Nat) (x : Queue) : (s.setQ n x).mbx k = s.mbx k := rfl
@[simp] theorem State.sem_setQ (s : State) (n k : Nat) (x : Queue) : (s.setQ n x).sem k = s.sem k := rfl
@[simp] theorem State.scr_setQ (s : State) (n k : Nat) (x : Queue) : (s.setQ n x).scr k = s.scr k := rfl
@[simp] theorem State.src_setQ (s : State) (n k : Nat) (x : Queue) : (s.setQ n x).src k = s.src k := rfl
@[simp] theorem State.target_setQ (s : State) (n k : Nat) (x : Queue) : (s.setQ n x).target k = s.target k := rfl
@[simp] theorem State.port_setQ (s : State) (n k : Nat) (x : Queue) : (s.setQ n x).port k = s.port k := rfl
@[simp] theorem State.link_setQ (s : State) (n md : Nat) (x : Queue) : (s.setQ n x).link md = s.link md := rfl
@[simp] theorem State.dom_setQ (s : State) (n d : Nat) (x : Queue) : (s.setQ n x).dom d = s.dom d := rfl
@[simp] theorem State.byteAt_setQ (s : State) (n a : Nat) (x : Queue) : (s.setQ n x).byteAt a = s.byteAt a := rfl

/-! ### chans -/

@[simp] theorem State.setChan_pending (s : State) (n : Nat) (x : Chan) : (s.setChan n x).pending = s.pending := rfl
@[simp] theorem State.setChan_mem (s : State) (n : Nat) (x : Chan) : (s.setChan n x).mem = s.mem := rfl
@[simp] theorem State.setChan_die (s : State) (n : Nat) (x : Chan) : (s.setChan n x).die = s.die := rfl
@[simp] theorem State.setChan_mode (s : State) (n : Nat) (x : Chan) : (s.setChan n x).mode = s.mode := rfl
@[simp] theorem State.setChan_carry (s : State) (n : Nat) (x : Chan) : (s.setChan n x).carry = s.carry := rfl
@[simp] theorem State.setChan_link0 (s : State) (n : Nat) (x : Chan) : (s.setChan n x).link0 = s.link0 := rfl
@[simp] theorem State.setChan_link1 (s : State) (n : Nat) (x : Chan) : (s.setChan n x).link1 = s.link1 := rfl
@[simp] theorem State.setChan_gctl (s : State) (n : Nat) (x : Chan) : (s.setChan n x).gctl = s.gctl := rfl
@[simp] theorem State.setChan_queues (s : State) (n : Nat) (x : Chan) : (s.setChan n x).queues = s.queues := rfl
@[simp] theorem State.setChan_turn (s : State) (n : Nat) (x : Chan) : (s.setChan n x).turn = s.turn := rfl
@[simp] theorem State.setChan_parkSeq (s : State) (n : Nat) (x : Chan) : (s.setChan n x).parkSeq = s.parkSeq := rfl
@[simp] theorem State.setChan_classes (s : State) (n : Nat) (x : Chan) : (s.setChan n x).classes = s.classes := rfl
@[simp] theorem State.setChan_frm (s : State) (n : Nat) (x : Chan) : (s.setChan n x).frm = s.frm := rfl
@[simp] theorem State.setChan_cores (s : State) (n : Nat) (x : Chan) : (s.setChan n x).cores = s.cores := rfl
@[simp] theorem State.setChan_libs (s : State) (n : Nat) (x : Chan) : (s.setChan n x).libs = s.libs := rfl
@[simp] theorem State.setChan_hawk (s : State) (n : Nat) (x : Chan) : (s.setChan n x).hawk = s.hawk := rfl
@[simp] theorem State.setChan_mbxs (s : State) (n : Nat) (x : Chan) : (s.setChan n x).mbxs = s.mbxs := rfl
@[simp] theorem State.setChan_sendRes (s : State) (n : Nat) (x : Chan) : (s.setChan n x).sendRes = s.sendRes := rfl
@[simp] theorem State.setChan_sems (s : State) (n : Nat) (x : Chan) : (s.setChan n x).sems = s.sems := rfl
@[simp] theorem State.setChan_scrs (s : State) (n : Nat) (x : Chan) : (s.setChan n x).scrs = s.scrs := rfl
@[simp] theorem State.setChan_srcs (s : State) (n : Nat) (x : Chan) : (s.setChan n x).srcs = s.srcs := rfl
@[simp] theorem State.setChan_vmods (s : State) (n : Nat) (x : Chan) : (s.setChan n x).vmods = s.vmods := rfl
@[simp] theorem State.setChan_batches (s : State) (n : Nat) (x : Chan) : (s.setChan n x).batches = s.batches := rfl
@[simp] theorem State.setChan_targets (s : State) (n : Nat) (x : Chan) : (s.setChan n x).targets = s.targets := rfl
@[simp] theorem State.setChan_ports (s : State) (n : Nat) (x : Chan) : (s.setChan n x).ports = s.ports := rfl
@[simp] theorem State.setChan_aq (s : State) (n : Nat) (x : Chan) : (s.setChan n x).aq = s.aq := rfl
@[simp] theorem State.setChan_commits (s : State) (n : Nat) (x : Chan) : (s.setChan n x).commits = s.commits := rfl
@[simp] theorem State.setChan_journal (s : State) (n : Nat) (x : Chan) : (s.setChan n x).journal = s.journal := rfl
@[simp] theorem State.setChan_jheld (s : State) (n : Nat) (x : Chan) : (s.setChan n x).jheld = s.jheld := rfl
@[simp] theorem State.setChan_jseq (s : State) (n : Nat) (x : Chan) : (s.setChan n x).jseq = s.jseq := rfl
@[simp] theorem State.setChan_late (s : State) (n : Nat) (x : Chan) : (s.setChan n x).late = s.late := rfl
@[simp] theorem State.setChan_turns (s : State) (n : Nat) (x : Chan) : (s.setChan n x).turns = s.turns := rfl
@[simp] theorem State.setChan_mled (s : State) (n : Nat) (x : Chan) : (s.setChan n x).mled = s.mled := rfl
@[simp] theorem State.setChan_prm (s : State) (n : Nat) (x : Chan) : (s.setChan n x).prm = s.prm := rfl
@[simp] theorem State.setChan_pwr (s : State) (n : Nat) (x : Chan) : (s.setChan n x).pwr = s.pwr := rfl
@[simp] theorem State.setChan_hold (s : State) (n : Nat) (x : Chan) : (s.setChan n x).hold = s.hold := rfl
@[simp] theorem State.setChan_ds (s : State) (n : Nat) (x : Chan) : (s.setChan n x).ds = s.ds := rfl
@[simp] theorem State.setChan_ledger (s : State) (n : Nat) (x : Chan) : (s.setChan n x).ledger = s.ledger := rfl
@[simp] theorem State.setChan_kmd (s : State) (n : Nat) (x : Chan) : (s.setChan n x).kmd = s.kmd := rfl
@[simp] theorem State.setChan_tap (s : State) (n : Nat) (x : Chan) : (s.setChan n x).tap = s.tap := rfl
@[simp] theorem State.setChan_lowHeld (s : State) (n : Nat) (x : Chan) : (s.setChan n x).lowHeld = s.lowHeld := rfl
@[simp] theorem State.setChan_upKept (s : State) (n : Nat) (x : Chan) : (s.setChan n x).upKept = s.upKept := rfl
@[simp] theorem State.setChan_wakeOut (s : State) (n : Nat) (x : Chan) : (s.setChan n x).wakeOut = s.wakeOut := rfl
@[simp] theorem State.setChan_porLow (s : State) (n : Nat) (x : Chan) : (s.setChan n x).porLow = s.porLow := rfl
@[simp] theorem State.setChan_warmLow (s : State) (n : Nat) (x : Chan) : (s.setChan n x).warmLow = s.warmLow := rfl
@[simp] theorem State.setChan_readOut (s : State) (n : Nat) (x : Chan) : (s.setChan n x).readOut = s.readOut := rfl
@[simp] theorem State.setChan_readData (s : State) (n : Nat) (x : Chan) : (s.setChan n x).readData = s.readData := rfl
@[simp] theorem State.setChan_eccCount (s : State) (n : Nat) (x : Chan) : (s.setChan n x).eccCount = s.eccCount := rfl
@[simp] theorem State.setChan_freeNext (s : State) (n : Nat) (x : Chan) : (s.setChan n x).freeNext = s.freeNext := rfl
@[simp] theorem State.chan_setChan (s : State) (n : Nat) (x : Chan) : (s.setChan n x).chan n = x := Table.get_set_same _ _ _ _
theorem State.chan_setChan_ne (s : State) (n k : Nat) (x : Chan) (h : k ≠ n) : (s.setChan n x).chan k = s.chan k :=
  Table.get_set_ne _ _ _ h
@[simp] theorem State.updChan_def (s : State) (n : Nat) (h : Chan → Chan) : s.updChan n h = s.setChan n (h (s.chan n)) := rfl
@[simp] theorem State.q_setChan (s : State) (n k : Nat) (x : Chan) : (s.setChan n x).q k = s.q k := rfl
@[simp] theorem State.cls_setChan (s : State) (n k : Nat) (x : Chan) : (s.setChan n x).cls k = s.cls k := rfl
@[simp] theorem State.core_setChan (s : State) (n k : Nat) (x : Chan) : (s.setChan n x).core k = s.core k := rfl
@[simp] theorem State.lib_setChan (s : State) (n k : Nat) (x : Chan) : (s.setChan n x).lib k = s.lib k := rfl
@[simp] theorem State.mbx_setChan (s : State) (n k : Nat) (x : Chan) : (s.setChan n x).mbx k = s.mbx k := rfl
@[simp] theorem State.sem_setChan (s : State) (n k : Nat) (x : Chan) : (s.setChan n x).sem k = s.sem k := rfl
@[simp] theorem State.scr_setChan (s : State) (n k : Nat) (x : Chan) : (s.setChan n x).scr k = s.scr k := rfl
@[simp] theorem State.src_setChan (s : State) (n k : Nat) (x : Chan) : (s.setChan n x).src k = s.src k := rfl
@[simp] theorem State.target_setChan (s : State) (n k : Nat) (x : Chan) : (s.setChan n x).target k = s.target k := rfl
@[simp] theorem State.port_setChan (s : State) (n k : Nat) (x : Chan) : (s.setChan n x).port k = s.port k := rfl
@[simp] theorem State.link_setChan (s : State) (n md : Nat) (x : Chan) : (s.setChan n x).link md = s.link md := rfl
@[simp] theorem State.dom_setChan (s : State) (n d : Nat) (x : Chan) : (s.setChan n x).dom d = s.dom d := rfl
@[simp] theorem State.byteAt_setChan (s : State) (n a : Nat) (x : Chan) : (s.setChan n x).byteAt a = s.byteAt a := rfl

/-! ### classes -/

@[simp] theorem State.setCls_pending (s : State) (n : Nat) (x : FClass) : (s.setCls n x).pending = s.pending := rfl
@[simp] theorem State.setCls_mem (s : State) (n : Nat) (x : FClass) : (s.setCls n x).mem = s.mem := rfl
@[simp] theorem State.setCls_die (s : State) (n : Nat) (x : FClass) : (s.setCls n x).die = s.die := rfl
@[simp] theorem State.setCls_mode (s : State) (n : Nat) (x : FClass) : (s.setCls n x).mode = s.mode := rfl
@[simp] theorem State.setCls_carry (s : State) (n : Nat) (x : FClass) : (s.setCls n x).carry = s.carry := rfl
@[simp] theorem State.setCls_link0 (s : State) (n : Nat) (x : FClass) : (s.setCls n x).link0 = s.link0 := rfl
@[simp] theorem State.setCls_link1 (s : State) (n : Nat) (x : FClass) : (s.setCls n x).link1 = s.link1 := rfl
@[simp] theorem State.setCls_gctl (s : State) (n : Nat) (x : FClass) : (s.setCls n x).gctl = s.gctl := rfl
@[simp] theorem State.setCls_queues (s : State) (n : Nat) (x : FClass) : (s.setCls n x).queues = s.queues := rfl
@[simp] theorem State.setCls_turn (s : State) (n : Nat) (x : FClass) : (s.setCls n x).turn = s.turn := rfl
@[simp] theorem State.setCls_chans (s : State) (n : Nat) (x : FClass) : (s.setCls n x).chans = s.chans := rfl
@[simp] theorem State.setCls_parkSeq (s : State) (n : Nat) (x : FClass) : (s.setCls n x).parkSeq = s.parkSeq := rfl
@[simp] theorem State.setCls_frm (s : State) (n : Nat) (x : FClass) : (s.setCls n x).frm = s.frm := rfl
@[simp] theorem State.setCls_cores (s : State) (n : Nat) (x : FClass) : (s.setCls n x).cores = s.cores := rfl
@[simp] theorem State.setCls_libs (s : State) (n : Nat) (x : FClass) : (s.setCls n x).libs = s.libs := rfl
@[simp] theorem State.setCls_hawk (s : State) (n : Nat) (x : FClass) : (s.setCls n x).hawk = s.hawk := rfl
@[simp] theorem State.setCls_mbxs (s : State) (n : Nat) (x : FClass) : (s.setCls n x).mbxs = s.mbxs := rfl
@[simp] theorem State.setCls_sendRes (s : State) (n : Nat) (x : FClass) : (s.setCls n x).sendRes = s.sendRes := rfl
@[simp] theorem State.setCls_sems (s : State) (n : Nat) (x : FClass) : (s.setCls n x).sems = s.sems := rfl
@[simp] theorem State.setCls_scrs (s : State) (n : Nat) (x : FClass) : (s.setCls n x).scrs = s.scrs := rfl
@[simp] theorem State.setCls_srcs (s : State) (n : Nat) (x : FClass) : (s.setCls n x).srcs = s.srcs := rfl
@[simp] theorem State.setCls_vmods (s : State) (n : Nat) (x : FClass) : (s.setCls n x).vmods = s.vmods := rfl
@[simp] theorem State.setCls_batches (s : State) (n : Nat) (x : FClass) : (s.setCls n x).batches = s.batches := rfl
@[simp] theorem State.setCls_targets (s : State) (n : Nat) (x : FClass) : (s.setCls n x).targets = s.targets := rfl
@[simp] theorem State.setCls_ports (s : State) (n : Nat) (x : FClass) : (s.setCls n x).ports = s.ports := rfl
@[simp] theorem State.setCls_aq (s : State) (n : Nat) (x : FClass) : (s.setCls n x).aq = s.aq := rfl
@[simp] theorem State.setCls_commits (s : State) (n : Nat) (x : FClass) : (s.setCls n x).commits = s.commits := rfl
@[simp] theorem State.setCls_journal (s : State) (n : Nat) (x : FClass) : (s.setCls n x).journal = s.journal := rfl
@[simp] theorem State.setCls_jheld (s : State) (n : Nat) (x : FClass) : (s.setCls n x).jheld = s.jheld := rfl
@[simp] theorem State.setCls_jseq (s : State) (n : Nat) (x : FClass) : (s.setCls n x).jseq = s.jseq := rfl
@[simp] theorem State.setCls_late (s : State) (n : Nat) (x : FClass) : (s.setCls n x).late = s.late := rfl
@[simp] theorem State.setCls_turns (s : State) (n : Nat) (x : FClass) : (s.setCls n x).turns = s.turns := rfl
@[simp] theorem State.setCls_mled (s : State) (n : Nat) (x : FClass) : (s.setCls n x).mled = s.mled := rfl
@[simp] theorem State.setCls_prm (s : State) (n : Nat) (x : FClass) : (s.setCls n x).prm = s.prm := rfl
@[simp] theorem State.setCls_pwr (s : State) (n : Nat) (x : FClass) : (s.setCls n x).pwr = s.pwr := rfl
@[simp] theorem State.setCls_hold (s : State) (n : Nat) (x : FClass) : (s.setCls n x).hold = s.hold := rfl
@[simp] theorem State.setCls_ds (s : State) (n : Nat) (x : FClass) : (s.setCls n x).ds = s.ds := rfl
@[simp] theorem State.setCls_ledger (s : State) (n : Nat) (x : FClass) : (s.setCls n x).ledger = s.ledger := rfl
@[simp] theorem State.setCls_kmd (s : State) (n : Nat) (x : FClass) : (s.setCls n x).kmd = s.kmd := rfl
@[simp] theorem State.setCls_tap (s : State) (n : Nat) (x : FClass) : (s.setCls n x).tap = s.tap := rfl
@[simp] theorem State.setCls_lowHeld (s : State) (n : Nat) (x : FClass) : (s.setCls n x).lowHeld = s.lowHeld := rfl
@[simp] theorem State.setCls_upKept (s : State) (n : Nat) (x : FClass) : (s.setCls n x).upKept = s.upKept := rfl
@[simp] theorem State.setCls_wakeOut (s : State) (n : Nat) (x : FClass) : (s.setCls n x).wakeOut = s.wakeOut := rfl
@[simp] theorem State.setCls_porLow (s : State) (n : Nat) (x : FClass) : (s.setCls n x).porLow = s.porLow := rfl
@[simp] theorem State.setCls_warmLow (s : State) (n : Nat) (x : FClass) : (s.setCls n x).warmLow = s.warmLow := rfl
@[simp] theorem State.setCls_readOut (s : State) (n : Nat) (x : FClass) : (s.setCls n x).readOut = s.readOut := rfl
@[simp] theorem State.setCls_readData (s : State) (n : Nat) (x : FClass) : (s.setCls n x).readData = s.readData := rfl
@[simp] theorem State.setCls_eccCount (s : State) (n : Nat) (x : FClass) : (s.setCls n x).eccCount = s.eccCount := rfl
@[simp] theorem State.setCls_freeNext (s : State) (n : Nat) (x : FClass) : (s.setCls n x).freeNext = s.freeNext := rfl
@[simp] theorem State.cls_setCls (s : State) (n : Nat) (x : FClass) : (s.setCls n x).cls n = x := Table.get_set_same _ _ _ _
theorem State.cls_setCls_ne (s : State) (n k : Nat) (x : FClass) (h : k ≠ n) : (s.setCls n x).cls k = s.cls k :=
  Table.get_set_ne _ _ _ h
@[simp] theorem State.updCls_def (s : State) (n : Nat) (h : FClass → FClass) : s.updCls n h = s.setCls n (h (s.cls n)) := rfl
@[simp] theorem State.q_setCls (s : State) (n k : Nat) (x : FClass) : (s.setCls n x).q k = s.q k := rfl
@[simp] theorem State.chan_setCls (s : State) (n k : Nat) (x : FClass) : (s.setCls n x).chan k = s.chan k := rfl
@[simp] theorem State.core_setCls (s : State) (n k : Nat) (x : FClass) : (s.setCls n x).core k = s.core k := rfl
@[simp] theorem State.lib_setCls (s : State) (n k : Nat) (x : FClass) : (s.setCls n x).lib k = s.lib k := rfl
@[simp] theorem State.mbx_setCls (s : State) (n k : Nat) (x : FClass) : (s.setCls n x).mbx k = s.mbx k := rfl
@[simp] theorem State.sem_setCls (s : State) (n k : Nat) (x : FClass) : (s.setCls n x).sem k = s.sem k := rfl
@[simp] theorem State.scr_setCls (s : State) (n k : Nat) (x : FClass) : (s.setCls n x).scr k = s.scr k := rfl
@[simp] theorem State.src_setCls (s : State) (n k : Nat) (x : FClass) : (s.setCls n x).src k = s.src k := rfl
@[simp] theorem State.target_setCls (s : State) (n k : Nat) (x : FClass) : (s.setCls n x).target k = s.target k := rfl
@[simp] theorem State.port_setCls (s : State) (n k : Nat) (x : FClass) : (s.setCls n x).port k = s.port k := rfl
@[simp] theorem State.link_setCls (s : State) (n md : Nat) (x : FClass) : (s.setCls n x).link md = s.link md := rfl
@[simp] theorem State.dom_setCls (s : State) (n d : Nat) (x : FClass) : (s.setCls n x).dom d = s.dom d := rfl
@[simp] theorem State.byteAt_setCls (s : State) (n a : Nat) (x : FClass) : (s.setCls n x).byteAt a = s.byteAt a := rfl

/-! ### cores -/

@[simp] theorem State.setCore_pending (s : State) (n : Nat) (x : Core) : (s.setCore n x).pending = s.pending := rfl
@[simp] theorem State.setCore_mem (s : State) (n : Nat) (x : Core) : (s.setCore n x).mem = s.mem := rfl
@[simp] theorem State.setCore_die (s : State) (n : Nat) (x : Core) : (s.setCore n x).die = s.die := rfl
@[simp] theorem State.setCore_mode (s : State) (n : Nat) (x : Core) : (s.setCore n x).mode = s.mode := rfl
@[simp] theorem State.setCore_carry (s : State) (n : Nat) (x : Core) : (s.setCore n x).carry = s.carry := rfl
@[simp] theorem State.setCore_link0 (s : State) (n : Nat) (x : Core) : (s.setCore n x).link0 = s.link0 := rfl
@[simp] theorem State.setCore_link1 (s : State) (n : Nat) (x : Core) : (s.setCore n x).link1 = s.link1 := rfl
@[simp] theorem State.setCore_gctl (s : State) (n : Nat) (x : Core) : (s.setCore n x).gctl = s.gctl := rfl
@[simp] theorem State.setCore_queues (s : State) (n : Nat) (x : Core) : (s.setCore n x).queues = s.queues := rfl
@[simp] theorem State.setCore_turn (s : State) (n : Nat) (x : Core) : (s.setCore n x).turn = s.turn := rfl
@[simp] theorem State.setCore_chans (s : State) (n : Nat) (x : Core) : (s.setCore n x).chans = s.chans := rfl
@[simp] theorem State.setCore_parkSeq (s : State) (n : Nat) (x : Core) : (s.setCore n x).parkSeq = s.parkSeq := rfl
@[simp] theorem State.setCore_classes (s : State) (n : Nat) (x : Core) : (s.setCore n x).classes = s.classes := rfl
@[simp] theorem State.setCore_frm (s : State) (n : Nat) (x : Core) : (s.setCore n x).frm = s.frm := rfl
@[simp] theorem State.setCore_libs (s : State) (n : Nat) (x : Core) : (s.setCore n x).libs = s.libs := rfl
@[simp] theorem State.setCore_hawk (s : State) (n : Nat) (x : Core) : (s.setCore n x).hawk = s.hawk := rfl
@[simp] theorem State.setCore_mbxs (s : State) (n : Nat) (x : Core) : (s.setCore n x).mbxs = s.mbxs := rfl
@[simp] theorem State.setCore_sendRes (s : State) (n : Nat) (x : Core) : (s.setCore n x).sendRes = s.sendRes := rfl
@[simp] theorem State.setCore_sems (s : State) (n : Nat) (x : Core) : (s.setCore n x).sems = s.sems := rfl
@[simp] theorem State.setCore_scrs (s : State) (n : Nat) (x : Core) : (s.setCore n x).scrs = s.scrs := rfl
@[simp] theorem State.setCore_srcs (s : State) (n : Nat) (x : Core) : (s.setCore n x).srcs = s.srcs := rfl
@[simp] theorem State.setCore_vmods (s : State) (n : Nat) (x : Core) : (s.setCore n x).vmods = s.vmods := rfl
@[simp] theorem State.setCore_batches (s : State) (n : Nat) (x : Core) : (s.setCore n x).batches = s.batches := rfl
@[simp] theorem State.setCore_targets (s : State) (n : Nat) (x : Core) : (s.setCore n x).targets = s.targets := rfl
@[simp] theorem State.setCore_ports (s : State) (n : Nat) (x : Core) : (s.setCore n x).ports = s.ports := rfl
@[simp] theorem State.setCore_aq (s : State) (n : Nat) (x : Core) : (s.setCore n x).aq = s.aq := rfl
@[simp] theorem State.setCore_commits (s : State) (n : Nat) (x : Core) : (s.setCore n x).commits = s.commits := rfl
@[simp] theorem State.setCore_journal (s : State) (n : Nat) (x : Core) : (s.setCore n x).journal = s.journal := rfl
@[simp] theorem State.setCore_jheld (s : State) (n : Nat) (x : Core) : (s.setCore n x).jheld = s.jheld := rfl
@[simp] theorem State.setCore_jseq (s : State) (n : Nat) (x : Core) : (s.setCore n x).jseq = s.jseq := rfl
@[simp] theorem State.setCore_late (s : State) (n : Nat) (x : Core) : (s.setCore n x).late = s.late := rfl
@[simp] theorem State.setCore_turns (s : State) (n : Nat) (x : Core) : (s.setCore n x).turns = s.turns := rfl
@[simp] theorem State.setCore_mled (s : State) (n : Nat) (x : Core) : (s.setCore n x).mled = s.mled := rfl
@[simp] theorem State.setCore_prm (s : State) (n : Nat) (x : Core) : (s.setCore n x).prm = s.prm := rfl
@[simp] theorem State.setCore_pwr (s : State) (n : Nat) (x : Core) : (s.setCore n x).pwr = s.pwr := rfl
@[simp] theorem State.setCore_hold (s : State) (n : Nat) (x : Core) : (s.setCore n x).hold = s.hold := rfl
@[simp] theorem State.setCore_ds (s : State) (n : Nat) (x : Core) : (s.setCore n x).ds = s.ds := rfl
@[simp] theorem State.setCore_ledger (s : State) (n : Nat) (x : Core) : (s.setCore n x).ledger = s.ledger := rfl
@[simp] theorem State.setCore_kmd (s : State) (n : Nat) (x : Core) : (s.setCore n x).kmd = s.kmd := rfl
@[simp] theorem State.setCore_tap (s : State) (n : Nat) (x : Core) : (s.setCore n x).tap = s.tap := rfl
@[simp] theorem State.setCore_lowHeld (s : State) (n : Nat) (x : Core) : (s.setCore n x).lowHeld = s.lowHeld := rfl
@[simp] theorem State.setCore_upKept (s : State) (n : Nat) (x : Core) : (s.setCore n x).upKept = s.upKept := rfl
@[simp] theorem State.setCore_wakeOut (s : State) (n : Nat) (x : Core) : (s.setCore n x).wakeOut = s.wakeOut := rfl
@[simp] theorem State.setCore_porLow (s : State) (n : Nat) (x : Core) : (s.setCore n x).porLow = s.porLow := rfl
@[simp] theorem State.setCore_warmLow (s : State) (n : Nat) (x : Core) : (s.setCore n x).warmLow = s.warmLow := rfl
@[simp] theorem State.setCore_readOut (s : State) (n : Nat) (x : Core) : (s.setCore n x).readOut = s.readOut := rfl
@[simp] theorem State.setCore_readData (s : State) (n : Nat) (x : Core) : (s.setCore n x).readData = s.readData := rfl
@[simp] theorem State.setCore_eccCount (s : State) (n : Nat) (x : Core) : (s.setCore n x).eccCount = s.eccCount := rfl
@[simp] theorem State.setCore_freeNext (s : State) (n : Nat) (x : Core) : (s.setCore n x).freeNext = s.freeNext := rfl
@[simp] theorem State.core_setCore (s : State) (n : Nat) (x : Core) : (s.setCore n x).core n = x := Table.get_set_same _ _ _ _
theorem State.core_setCore_ne (s : State) (n k : Nat) (x : Core) (h : k ≠ n) : (s.setCore n x).core k = s.core k :=
  Table.get_set_ne _ _ _ h
@[simp] theorem State.updCore_def (s : State) (n : Nat) (h : Core → Core) : s.updCore n h = s.setCore n (h (s.core n)) := rfl
@[simp] theorem State.q_setCore (s : State) (n k : Nat) (x : Core) : (s.setCore n x).q k = s.q k := rfl
@[simp] theorem State.chan_setCore (s : State) (n k : Nat) (x : Core) : (s.setCore n x).chan k = s.chan k := rfl
@[simp] theorem State.cls_setCore (s : State) (n k : Nat) (x : Core) : (s.setCore n x).cls k = s.cls k := rfl
@[simp] theorem State.lib_setCore (s : State) (n k : Nat) (x : Core) : (s.setCore n x).lib k = s.lib k := rfl
@[simp] theorem State.mbx_setCore (s : State) (n k : Nat) (x : Core) : (s.setCore n x).mbx k = s.mbx k := rfl
@[simp] theorem State.sem_setCore (s : State) (n k : Nat) (x : Core) : (s.setCore n x).sem k = s.sem k := rfl
@[simp] theorem State.scr_setCore (s : State) (n k : Nat) (x : Core) : (s.setCore n x).scr k = s.scr k := rfl
@[simp] theorem State.src_setCore (s : State) (n k : Nat) (x : Core) : (s.setCore n x).src k = s.src k := rfl
@[simp] theorem State.target_setCore (s : State) (n k : Nat) (x : Core) : (s.setCore n x).target k = s.target k := rfl
@[simp] theorem State.port_setCore (s : State) (n k : Nat) (x : Core) : (s.setCore n x).port k = s.port k := rfl
@[simp] theorem State.link_setCore (s : State) (n md : Nat) (x : Core) : (s.setCore n x).link md = s.link md := rfl
@[simp] theorem State.dom_setCore (s : State) (n d : Nat) (x : Core) : (s.setCore n x).dom d = s.dom d := rfl
@[simp] theorem State.byteAt_setCore (s : State) (n a : Nat) (x : Core) : (s.setCore n x).byteAt a = s.byteAt a := rfl

/-! ### libs -/

@[simp] theorem State.setLib_pending (s : State) (n : Nat) (x : Library) : (s.setLib n x).pending = s.pending := rfl
@[simp] theorem State.setLib_mem (s : State) (n : Nat) (x : Library) : (s.setLib n x).mem = s.mem := rfl
@[simp] theorem State.setLib_die (s : State) (n : Nat) (x : Library) : (s.setLib n x).die = s.die := rfl
@[simp] theorem State.setLib_mode (s : State) (n : Nat) (x : Library) : (s.setLib n x).mode = s.mode := rfl
@[simp] theorem State.setLib_carry (s : State) (n : Nat) (x : Library) : (s.setLib n x).carry = s.carry := rfl
@[simp] theorem State.setLib_link0 (s : State) (n : Nat) (x : Library) : (s.setLib n x).link0 = s.link0 := rfl
@[simp] theorem State.setLib_link1 (s : State) (n : Nat) (x : Library) : (s.setLib n x).link1 = s.link1 := rfl
@[simp] theorem State.setLib_gctl (s : State) (n : Nat) (x : Library) : (s.setLib n x).gctl = s.gctl := rfl
@[simp] theorem State.setLib_queues (s : State) (n : Nat) (x : Library) : (s.setLib n x).queues = s.queues := rfl
@[simp] theorem State.setLib_turn (s : State) (n : Nat) (x : Library) : (s.setLib n x).turn = s.turn := rfl
@[simp] theorem State.setLib_chans (s : State) (n : Nat) (x : Library) : (s.setLib n x).chans = s.chans := rfl
@[simp] theorem State.setLib_parkSeq (s : State) (n : Nat) (x : Library) : (s.setLib n x).parkSeq = s.parkSeq := rfl
@[simp] theorem State.setLib_classes (s : State) (n : Nat) (x : Library) : (s.setLib n x).classes = s.classes := rfl
@[simp] theorem State.setLib_frm (s : State) (n : Nat) (x : Library) : (s.setLib n x).frm = s.frm := rfl
@[simp] theorem State.setLib_cores (s : State) (n : Nat) (x : Library) : (s.setLib n x).cores = s.cores := rfl
@[simp] theorem State.setLib_hawk (s : State) (n : Nat) (x : Library) : (s.setLib n x).hawk = s.hawk := rfl
@[simp] theorem State.setLib_mbxs (s : State) (n : Nat) (x : Library) : (s.setLib n x).mbxs = s.mbxs := rfl
@[simp] theorem State.setLib_sendRes (s : State) (n : Nat) (x : Library) : (s.setLib n x).sendRes = s.sendRes := rfl
@[simp] theorem State.setLib_sems (s : State) (n : Nat) (x : Library) : (s.setLib n x).sems = s.sems := rfl
@[simp] theorem State.setLib_scrs (s : State) (n : Nat) (x : Library) : (s.setLib n x).scrs = s.scrs := rfl
@[simp] theorem State.setLib_srcs (s : State) (n : Nat) (x : Library) : (s.setLib n x).srcs = s.srcs := rfl
@[simp] theorem State.setLib_vmods (s : State) (n : Nat) (x : Library) : (s.setLib n x).vmods = s.vmods := rfl
@[simp] theorem State.setLib_batches (s : State) (n : Nat) (x : Library) : (s.setLib n x).batches = s.batches := rfl
@[simp] theorem State.setLib_targets (s : State) (n : Nat) (x : Library) : (s.setLib n x).targets = s.targets := rfl
@[simp] theorem State.setLib_ports (s : State) (n : Nat) (x : Library) : (s.setLib n x).ports = s.ports := rfl
@[simp] theorem State.setLib_aq (s : State) (n : Nat) (x : Library) : (s.setLib n x).aq = s.aq := rfl
@[simp] theorem State.setLib_commits (s : State) (n : Nat) (x : Library) : (s.setLib n x).commits = s.commits := rfl
@[simp] theorem State.setLib_journal (s : State) (n : Nat) (x : Library) : (s.setLib n x).journal = s.journal := rfl
@[simp] theorem State.setLib_jheld (s : State) (n : Nat) (x : Library) : (s.setLib n x).jheld = s.jheld := rfl
@[simp] theorem State.setLib_jseq (s : State) (n : Nat) (x : Library) : (s.setLib n x).jseq = s.jseq := rfl
@[simp] theorem State.setLib_late (s : State) (n : Nat) (x : Library) : (s.setLib n x).late = s.late := rfl
@[simp] theorem State.setLib_turns (s : State) (n : Nat) (x : Library) : (s.setLib n x).turns = s.turns := rfl
@[simp] theorem State.setLib_mled (s : State) (n : Nat) (x : Library) : (s.setLib n x).mled = s.mled := rfl
@[simp] theorem State.setLib_prm (s : State) (n : Nat) (x : Library) : (s.setLib n x).prm = s.prm := rfl
@[simp] theorem State.setLib_pwr (s : State) (n : Nat) (x : Library) : (s.setLib n x).pwr = s.pwr := rfl
@[simp] theorem State.setLib_hold (s : State) (n : Nat) (x : Library) : (s.setLib n x).hold = s.hold := rfl
@[simp] theorem State.setLib_ds (s : State) (n : Nat) (x : Library) : (s.setLib n x).ds = s.ds := rfl
@[simp] theorem State.setLib_ledger (s : State) (n : Nat) (x : Library) : (s.setLib n x).ledger = s.ledger := rfl
@[simp] theorem State.setLib_kmd (s : State) (n : Nat) (x : Library) : (s.setLib n x).kmd = s.kmd := rfl
@[simp] theorem State.setLib_tap (s : State) (n : Nat) (x : Library) : (s.setLib n x).tap = s.tap := rfl
@[simp] theorem State.setLib_lowHeld (s : State) (n : Nat) (x : Library) : (s.setLib n x).lowHeld = s.lowHeld := rfl
@[simp] theorem State.setLib_upKept (s : State) (n : Nat) (x : Library) : (s.setLib n x).upKept = s.upKept := rfl
@[simp] theorem State.setLib_wakeOut (s : State) (n : Nat) (x : Library) : (s.setLib n x).wakeOut = s.wakeOut := rfl
@[simp] theorem State.setLib_porLow (s : State) (n : Nat) (x : Library) : (s.setLib n x).porLow = s.porLow := rfl
@[simp] theorem State.setLib_warmLow (s : State) (n : Nat) (x : Library) : (s.setLib n x).warmLow = s.warmLow := rfl
@[simp] theorem State.setLib_readOut (s : State) (n : Nat) (x : Library) : (s.setLib n x).readOut = s.readOut := rfl
@[simp] theorem State.setLib_readData (s : State) (n : Nat) (x : Library) : (s.setLib n x).readData = s.readData := rfl
@[simp] theorem State.setLib_eccCount (s : State) (n : Nat) (x : Library) : (s.setLib n x).eccCount = s.eccCount := rfl
@[simp] theorem State.setLib_freeNext (s : State) (n : Nat) (x : Library) : (s.setLib n x).freeNext = s.freeNext := rfl
@[simp] theorem State.lib_setLib (s : State) (n : Nat) (x : Library) : (s.setLib n x).lib n = x := Table.get_set_same _ _ _ _
theorem State.lib_setLib_ne (s : State) (n k : Nat) (x : Library) (h : k ≠ n) : (s.setLib n x).lib k = s.lib k :=
  Table.get_set_ne _ _ _ h
@[simp] theorem State.updLib_def (s : State) (n : Nat) (h : Library → Library) : s.updLib n h = s.setLib n (h (s.lib n)) := rfl
@[simp] theorem State.q_setLib (s : State) (n k : Nat) (x : Library) : (s.setLib n x).q k = s.q k := rfl
@[simp] theorem State.chan_setLib (s : State) (n k : Nat) (x : Library) : (s.setLib n x).chan k = s.chan k := rfl
@[simp] theorem State.cls_setLib (s : State) (n k : Nat) (x : Library) : (s.setLib n x).cls k = s.cls k := rfl
@[simp] theorem State.core_setLib (s : State) (n k : Nat) (x : Library) : (s.setLib n x).core k = s.core k := rfl
@[simp] theorem State.mbx_setLib (s : State) (n k : Nat) (x : Library) : (s.setLib n x).mbx k = s.mbx k := rfl
@[simp] theorem State.sem_setLib (s : State) (n k : Nat) (x : Library) : (s.setLib n x).sem k = s.sem k := rfl
@[simp] theorem State.scr_setLib (s : State) (n k : Nat) (x : Library) : (s.setLib n x).scr k = s.scr k := rfl
@[simp] theorem State.src_setLib (s : State) (n k : Nat) (x : Library) : (s.setLib n x).src k = s.src k := rfl
@[simp] theorem State.target_setLib (s : State) (n k : Nat) (x : Library) : (s.setLib n x).target k = s.target k := rfl
@[simp] theorem State.port_setLib (s : State) (n k : Nat) (x : Library) : (s.setLib n x).port k = s.port k := rfl
@[simp] theorem State.link_setLib (s : State) (n md : Nat) (x : Library) : (s.setLib n x).link md = s.link md := rfl
@[simp] theorem State.dom_setLib (s : State) (n d : Nat) (x : Library) : (s.setLib n x).dom d = s.dom d := rfl
@[simp] theorem State.byteAt_setLib (s : State) (n a : Nat) (x : Library) : (s.setLib n x).byteAt a = s.byteAt a := rfl

/-! ### mbxs -/

@[simp] theorem State.setMbx_pending (s : State) (n : Nat) (x : Mbx) : (s.setMbx n x).pending = s.pending := rfl
@[simp] theorem State.setMbx_mem (s : State) (n : Nat) (x : Mbx) : (s.setMbx n x).mem = s.mem := rfl
@[simp] theorem State.setMbx_die (s : State) (n : Nat) (x : Mbx) : (s.setMbx n x).die = s.die := rfl
@[simp] theorem State.setMbx_mode (s : State) (n : Nat) (x : Mbx) : (s.setMbx n x).mode = s.mode := rfl
@[simp] theorem State.setMbx_carry (s : State) (n : Nat) (x : Mbx) : (s.setMbx n x).carry = s.carry := rfl
@[simp] theorem State.setMbx_link0 (s : State) (n : Nat) (x : Mbx) : (s.setMbx n x).link0 = s.link0 := rfl
@[simp] theorem State.setMbx_link1 (s : State) (n : Nat) (x : Mbx) : (s.setMbx n x).link1 = s.link1 := rfl
@[simp] theorem State.setMbx_gctl (s : State) (n : Nat) (x : Mbx) : (s.setMbx n x).gctl = s.gctl := rfl
@[simp] theorem State.setMbx_queues (s : State) (n : Nat) (x : Mbx) : (s.setMbx n x).queues = s.queues := rfl
@[simp] theorem State.setMbx_turn (s : State) (n : Nat) (x : Mbx) : (s.setMbx n x).turn = s.turn := rfl
@[simp] theorem State.setMbx_chans (s : State) (n : Nat) (x : Mbx) : (s.setMbx n x).chans = s.chans := rfl
@[simp] theorem State.setMbx_parkSeq (s : State) (n : Nat) (x : Mbx) : (s.setMbx n x).parkSeq = s.parkSeq := rfl
@[simp] theorem State.setMbx_classes (s : State) (n : Nat) (x : Mbx) : (s.setMbx n x).classes = s.classes := rfl
@[simp] theorem State.setMbx_frm (s : State) (n : Nat) (x : Mbx) : (s.setMbx n x).frm = s.frm := rfl
@[simp] theorem State.setMbx_cores (s : State) (n : Nat) (x : Mbx) : (s.setMbx n x).cores = s.cores := rfl
@[simp] theorem State.setMbx_libs (s : State) (n : Nat) (x : Mbx) : (s.setMbx n x).libs = s.libs := rfl
@[simp] theorem State.setMbx_hawk (s : State) (n : Nat) (x : Mbx) : (s.setMbx n x).hawk = s.hawk := rfl
@[simp] theorem State.setMbx_sendRes (s : State) (n : Nat) (x : Mbx) : (s.setMbx n x).sendRes = s.sendRes := rfl
@[simp] theorem State.setMbx_sems (s : State) (n : Nat) (x : Mbx) : (s.setMbx n x).sems = s.sems := rfl
@[simp] theorem State.setMbx_scrs (s : State) (n : Nat) (x : Mbx) : (s.setMbx n x).scrs = s.scrs := rfl
@[simp] theorem State.setMbx_srcs (s : State) (n : Nat) (x : Mbx) : (s.setMbx n x).srcs = s.srcs := rfl
@[simp] theorem State.setMbx_vmods (s : State) (n : Nat) (x : Mbx) : (s.setMbx n x).vmods = s.vmods := rfl
@[simp] theorem State.setMbx_batches (s : State) (n : Nat) (x : Mbx) : (s.setMbx n x).batches = s.batches := rfl
@[simp] theorem State.setMbx_targets (s : State) (n : Nat) (x : Mbx) : (s.setMbx n x).targets = s.targets := rfl
@[simp] theorem State.setMbx_ports (s : State) (n : Nat) (x : Mbx) : (s.setMbx n x).ports = s.ports := rfl
@[simp] theorem State.setMbx_aq (s : State) (n : Nat) (x : Mbx) : (s.setMbx n x).aq = s.aq := rfl
@[simp] theorem State.setMbx_commits (s : State) (n : Nat) (x : Mbx) : (s.setMbx n x).commits = s.commits := rfl
@[simp] theorem State.setMbx_journal (s : State) (n : Nat) (x : Mbx) : (s.setMbx n x).journal = s.journal := rfl
@[simp] theorem State.setMbx_jheld (s : State) (n : Nat) (x : Mbx) : (s.setMbx n x).jheld = s.jheld := rfl
@[simp] theorem State.setMbx_jseq (s : State) (n : Nat) (x : Mbx) : (s.setMbx n x).jseq = s.jseq := rfl
@[simp] theorem State.setMbx_late (s : State) (n : Nat) (x : Mbx) : (s.setMbx n x).late = s.late := rfl
@[simp] theorem State.setMbx_turns (s : State) (n : Nat) (x : Mbx) : (s.setMbx n x).turns = s.turns := rfl
@[simp] theorem State.setMbx_mled (s : State) (n : Nat) (x : Mbx) : (s.setMbx n x).mled = s.mled := rfl
@[simp] theorem State.setMbx_prm (s : State) (n : Nat) (x : Mbx) : (s.setMbx n x).prm = s.prm := rfl
@[simp] theorem State.setMbx_pwr (s : State) (n : Nat) (x : Mbx) : (s.setMbx n x).pwr = s.pwr := rfl
@[simp] theorem State.setMbx_hold (s : State) (n : Nat) (x : Mbx) : (s.setMbx n x).hold = s.hold := rfl
@[simp] theorem State.setMbx_ds (s : State) (n : Nat) (x : Mbx) : (s.setMbx n x).ds = s.ds := rfl
@[simp] theorem State.setMbx_ledger (s : State) (n : Nat) (x : Mbx) : (s.setMbx n x).ledger = s.ledger := rfl
@[simp] theorem State.setMbx_kmd (s : State) (n : Nat) (x : Mbx) : (s.setMbx n x).kmd = s.kmd := rfl
@[simp] theorem State.setMbx_tap (s : State) (n : Nat) (x : Mbx) : (s.setMbx n x).tap = s.tap := rfl
@[simp] theorem State.setMbx_lowHeld (s : State) (n : Nat) (x : Mbx) : (s.setMbx n x).lowHeld = s.lowHeld := rfl
@[simp] theorem State.setMbx_upKept (s : State) (n : Nat) (x : Mbx) : (s.setMbx n x).upKept = s.upKept := rfl
@[simp] theorem State.setMbx_wakeOut (s : State) (n : Nat) (x : Mbx) : (s.setMbx n x).wakeOut = s.wakeOut := rfl
@[simp] theorem State.setMbx_porLow (s : State) (n : Nat) (x : Mbx) : (s.setMbx n x).porLow = s.porLow := rfl
@[simp] theorem State.setMbx_warmLow (s : State) (n : Nat) (x : Mbx) : (s.setMbx n x).warmLow = s.warmLow := rfl
@[simp] theorem State.setMbx_readOut (s : State) (n : Nat) (x : Mbx) : (s.setMbx n x).readOut = s.readOut := rfl
@[simp] theorem State.setMbx_readData (s : State) (n : Nat) (x : Mbx) : (s.setMbx n x).readData = s.readData := rfl
@[simp] theorem State.setMbx_eccCount (s : State) (n : Nat) (x : Mbx) : (s.setMbx n x).eccCount = s.eccCount := rfl
@[simp] theorem State.setMbx_freeNext (s : State) (n : Nat) (x : Mbx) : (s.setMbx n x).freeNext = s.freeNext := rfl
@[simp] theorem State.mbx_setMbx (s : State) (n : Nat) (x : Mbx) : (s.setMbx n x).mbx n = x := Table.get_set_same _ _ _ _
theorem State.mbx_setMbx_ne (s : State) (n k : Nat) (x : Mbx) (h : k ≠ n) : (s.setMbx n x).mbx k = s.mbx k :=
  Table.get_set_ne _ _ _ h
@[simp] theorem State.updMbx_def (s : State) (n : Nat) (h : Mbx → Mbx) : s.updMbx n h = s.setMbx n (h (s.mbx n)) := rfl
@[simp] theorem State.q_setMbx (s : State) (n k : Nat) (x : Mbx) : (s.setMbx n x).q k = s.q k := rfl
@[simp] theorem State.chan_setMbx (s : State) (n k : Nat) (x : Mbx) : (s.setMbx n x).chan k = s.chan k := rfl
@[simp] theorem State.cls_setMbx (s : State) (n k : Nat) (x : Mbx) : (s.setMbx n x).cls k = s.cls k := rfl
@[simp] theorem State.core_setMbx (s : State) (n k : Nat) (x : Mbx) : (s.setMbx n x).core k = s.core k := rfl
@[simp] theorem State.lib_setMbx (s : State) (n k : Nat) (x : Mbx) : (s.setMbx n x).lib k = s.lib k := rfl
@[simp] theorem State.sem_setMbx (s : State) (n k : Nat) (x : Mbx) : (s.setMbx n x).sem k = s.sem k := rfl
@[simp] theorem State.scr_setMbx (s : State) (n k : Nat) (x : Mbx) : (s.setMbx n x).scr k = s.scr k := rfl
@[simp] theorem State.src_setMbx (s : State) (n k : Nat) (x : Mbx) : (s.setMbx n x).src k = s.src k := rfl
@[simp] theorem State.target_setMbx (s : State) (n k : Nat) (x : Mbx) : (s.setMbx n x).target k = s.target k := rfl
@[simp] theorem State.port_setMbx (s : State) (n k : Nat) (x : Mbx) : (s.setMbx n x).port k = s.port k := rfl
@[simp] theorem State.link_setMbx (s : State) (n md : Nat) (x : Mbx) : (s.setMbx n x).link md = s.link md := rfl
@[simp] theorem State.dom_setMbx (s : State) (n d : Nat) (x : Mbx) : (s.setMbx n x).dom d = s.dom d := rfl
@[simp] theorem State.byteAt_setMbx (s : State) (n a : Nat) (x : Mbx) : (s.setMbx n x).byteAt a = s.byteAt a := rfl

/-! ### sems -/

@[simp] theorem State.setSem_pending (s : State) (n : Nat) (x : Sem) : (s.setSem n x).pending = s.pending := rfl
@[simp] theorem State.setSem_mem (s : State) (n : Nat) (x : Sem) : (s.setSem n x).mem = s.mem := rfl
@[simp] theorem State.setSem_die (s : State) (n : Nat) (x : Sem) : (s.setSem n x).die = s.die := rfl
@[simp] theorem State.setSem_mode (s : State) (n : Nat) (x : Sem) : (s.setSem n x).mode = s.mode := rfl
@[simp] theorem State.setSem_carry (s : State) (n : Nat) (x : Sem) : (s.setSem n x).carry = s.carry := rfl
@[simp] theorem State.setSem_link0 (s : State) (n : Nat) (x : Sem) : (s.setSem n x).link0 = s.link0 := rfl
@[simp] theorem State.setSem_link1 (s : State) (n : Nat) (x : Sem) : (s.setSem n x).link1 = s.link1 := rfl
@[simp] theorem State.setSem_gctl (s : State) (n : Nat) (x : Sem) : (s.setSem n x).gctl = s.gctl := rfl
@[simp] theorem State.setSem_queues (s : State) (n : Nat) (x : Sem) : (s.setSem n x).queues = s.queues := rfl
@[simp] theorem State.setSem_turn (s : State) (n : Nat) (x : Sem) : (s.setSem n x).turn = s.turn := rfl
@[simp] theorem State.setSem_chans (s : State) (n : Nat) (x : Sem) : (s.setSem n x).chans = s.chans := rfl
@[simp] theorem State.setSem_parkSeq (s : State) (n : Nat) (x : Sem) : (s.setSem n x).parkSeq = s.parkSeq := rfl
@[simp] theorem State.setSem_classes (s : State) (n : Nat) (x : Sem) : (s.setSem n x).classes = s.classes := rfl
@[simp] theorem State.setSem_frm (s : State) (n : Nat) (x : Sem) : (s.setSem n x).frm = s.frm := rfl
@[simp] theorem State.setSem_cores (s : State) (n : Nat) (x : Sem) : (s.setSem n x).cores = s.cores := rfl
@[simp] theorem State.setSem_libs (s : State) (n : Nat) (x : Sem) : (s.setSem n x).libs = s.libs := rfl
@[simp] theorem State.setSem_hawk (s : State) (n : Nat) (x : Sem) : (s.setSem n x).hawk = s.hawk := rfl
@[simp] theorem State.setSem_mbxs (s : State) (n : Nat) (x : Sem) : (s.setSem n x).mbxs = s.mbxs := rfl
@[simp] theorem State.setSem_sendRes (s : State) (n : Nat) (x : Sem) : (s.setSem n x).sendRes = s.sendRes := rfl
@[simp] theorem State.setSem_scrs (s : State) (n : Nat) (x : Sem) : (s.setSem n x).scrs = s.scrs := rfl
@[simp] theorem State.setSem_srcs (s : State) (n : Nat) (x : Sem) : (s.setSem n x).srcs = s.srcs := rfl
@[simp] theorem State.setSem_vmods (s : State) (n : Nat) (x : Sem) : (s.setSem n x).vmods = s.vmods := rfl
@[simp] theorem State.setSem_batches (s : State) (n : Nat) (x : Sem) : (s.setSem n x).batches = s.batches := rfl
@[simp] theorem State.setSem_targets (s : State) (n : Nat) (x : Sem) : (s.setSem n x).targets = s.targets := rfl
@[simp] theorem State.setSem_ports (s : State) (n : Nat) (x : Sem) : (s.setSem n x).ports = s.ports := rfl
@[simp] theorem State.setSem_aq (s : State) (n : Nat) (x : Sem) : (s.setSem n x).aq = s.aq := rfl
@[simp] theorem State.setSem_commits (s : State) (n : Nat) (x : Sem) : (s.setSem n x).commits = s.commits := rfl
@[simp] theorem State.setSem_journal (s : State) (n : Nat) (x : Sem) : (s.setSem n x).journal = s.journal := rfl
@[simp] theorem State.setSem_jheld (s : State) (n : Nat) (x : Sem) : (s.setSem n x).jheld = s.jheld := rfl
@[simp] theorem State.setSem_jseq (s : State) (n : Nat) (x : Sem) : (s.setSem n x).jseq = s.jseq := rfl
@[simp] theorem State.setSem_late (s : State) (n : Nat) (x : Sem) : (s.setSem n x).late = s.late := rfl
@[simp] theorem State.setSem_turns (s : State) (n : Nat) (x : Sem) : (s.setSem n x).turns = s.turns := rfl
@[simp] theorem State.setSem_mled (s : State) (n : Nat) (x : Sem) : (s.setSem n x).mled = s.mled := rfl
@[simp] theorem State.setSem_prm (s : State) (n : Nat) (x : Sem) : (s.setSem n x).prm = s.prm := rfl
@[simp] theorem State.setSem_pwr (s : State) (n : Nat) (x : Sem) : (s.setSem n x).pwr = s.pwr := rfl
@[simp] theorem State.setSem_hold (s : State) (n : Nat) (x : Sem) : (s.setSem n x).hold = s.hold := rfl
@[simp] theorem State.setSem_ds (s : State) (n : Nat) (x : Sem) : (s.setSem n x).ds = s.ds := rfl
@[simp] theorem State.setSem_ledger (s : State) (n : Nat) (x : Sem) : (s.setSem n x).ledger = s.ledger := rfl
@[simp] theorem State.setSem_kmd (s : State) (n : Nat) (x : Sem) : (s.setSem n x).kmd = s.kmd := rfl
@[simp] theorem State.setSem_tap (s : State) (n : Nat) (x : Sem) : (s.setSem n x).tap = s.tap := rfl
@[simp] theorem State.setSem_lowHeld (s : State) (n : Nat) (x : Sem) : (s.setSem n x).lowHeld = s.lowHeld := rfl
@[simp] theorem State.setSem_upKept (s : State) (n : Nat) (x : Sem) : (s.setSem n x).upKept = s.upKept := rfl
@[simp] theorem State.setSem_wakeOut (s : State) (n : Nat) (x : Sem) : (s.setSem n x).wakeOut = s.wakeOut := rfl
@[simp] theorem State.setSem_porLow (s : State) (n : Nat) (x : Sem) : (s.setSem n x).porLow = s.porLow := rfl
@[simp] theorem State.setSem_warmLow (s : State) (n : Nat) (x : Sem) : (s.setSem n x).warmLow = s.warmLow := rfl
@[simp] theorem State.setSem_readOut (s : State) (n : Nat) (x : Sem) : (s.setSem n x).readOut = s.readOut := rfl
@[simp] theorem State.setSem_readData (s : State) (n : Nat) (x : Sem) : (s.setSem n x).readData = s.readData := rfl
@[simp] theorem State.setSem_eccCount (s : State) (n : Nat) (x : Sem) : (s.setSem n x).eccCount = s.eccCount := rfl
@[simp] theorem State.setSem_freeNext (s : State) (n : Nat) (x : Sem) : (s.setSem n x).freeNext = s.freeNext := rfl
@[simp] theorem State.sem_setSem (s : State) (n : Nat) (x : Sem) : (s.setSem n x).sem n = x := Table.get_set_same _ _ _ _
theorem State.sem_setSem_ne (s : State) (n k : Nat) (x : Sem) (h : k ≠ n) : (s.setSem n x).sem k = s.sem k :=
  Table.get_set_ne _ _ _ h
@[simp] theorem State.updSem_def (s : State) (n : Nat) (h : Sem → Sem) : s.updSem n h = s.setSem n (h (s.sem n)) := rfl
@[simp] theorem State.q_setSem (s : State) (n k : Nat) (x : Sem) : (s.setSem n x).q k = s.q k := rfl
@[simp] theorem State.chan_setSem (s : State) (n k : Nat) (x : Sem) : (s.setSem n x).chan k = s.chan k := rfl
@[simp] theorem State.cls_setSem (s : State) (n k : Nat) (x : Sem) : (s.setSem n x).cls k = s.cls k := rfl
@[simp] theorem State.core_setSem (s : State) (n k : Nat) (x : Sem) : (s.setSem n x).core k = s.core k := rfl
@[simp] theorem State.lib_setSem (s : State) (n k : Nat) (x : Sem) : (s.setSem n x).lib k = s.lib k := rfl
@[simp] theorem State.mbx_setSem (s : State) (n k : Nat) (x : Sem) : (s.setSem n x).mbx k = s.mbx k := rfl
@[simp] theorem State.scr_setSem (s : State) (n k : Nat) (x : Sem) : (s.setSem n x).scr k = s.scr k := rfl
@[simp] theorem State.src_setSem (s : State) (n k : Nat) (x : Sem) : (s.setSem n x).src k = s.src k := rfl
@[simp] theorem State.target_setSem (s : State) (n k : Nat) (x : Sem) : (s.setSem n x).target k = s.target k := rfl
@[simp] theorem State.port_setSem (s : State) (n k : Nat) (x : Sem) : (s.setSem n x).port k = s.port k := rfl
@[simp] theorem State.link_setSem (s : State) (n md : Nat) (x : Sem) : (s.setSem n x).link md = s.link md := rfl
@[simp] theorem State.dom_setSem (s : State) (n d : Nat) (x : Sem) : (s.setSem n x).dom d = s.dom d := rfl
@[simp] theorem State.byteAt_setSem (s : State) (n a : Nat) (x : Sem) : (s.setSem n x).byteAt a = s.byteAt a := rfl

/-! ### scrs -/

@[simp] theorem State.setScr_pending (s : State) (n : Nat) (x : Scr) : (s.setScr n x).pending = s.pending := rfl
@[simp] theorem State.setScr_mem (s : State) (n : Nat) (x : Scr) : (s.setScr n x).mem = s.mem := rfl
@[simp] theorem State.setScr_die (s : State) (n : Nat) (x : Scr) : (s.setScr n x).die = s.die := rfl
@[simp] theorem State.setScr_mode (s : State) (n : Nat) (x : Scr) : (s.setScr n x).mode = s.mode := rfl
@[simp] theorem State.setScr_carry (s : State) (n : Nat) (x : Scr) : (s.setScr n x).carry = s.carry := rfl
@[simp] theorem State.setScr_link0 (s : State) (n : Nat) (x : Scr) : (s.setScr n x).link0 = s.link0 := rfl
@[simp] theorem State.setScr_link1 (s : State) (n : Nat) (x : Scr) : (s.setScr n x).link1 = s.link1 := rfl
@[simp] theorem State.setScr_gctl (s : State) (n : Nat) (x : Scr) : (s.setScr n x).gctl = s.gctl := rfl
@[simp] theorem State.setScr_queues (s : State) (n : Nat) (x : Scr) : (s.setScr n x).queues = s.queues := rfl
@[simp] theorem State.setScr_turn (s : State) (n : Nat) (x : Scr) : (s.setScr n x).turn = s.turn := rfl
@[simp] theorem State.setScr_chans (s : State) (n : Nat) (x : Scr) : (s.setScr n x).chans = s.chans := rfl
@[simp] theorem State.setScr_parkSeq (s : State) (n : Nat) (x : Scr) : (s.setScr n x).parkSeq = s.parkSeq := rfl
@[simp] theorem State.setScr_classes (s : State) (n : Nat) (x : Scr) : (s.setScr n x).classes = s.classes := rfl
@[simp] theorem State.setScr_frm (s : State) (n : Nat) (x : Scr) : (s.setScr n x).frm = s.frm := rfl
@[simp] theorem State.setScr_cores (s : State) (n : Nat) (x : Scr) : (s.setScr n x).cores = s.cores := rfl
@[simp] theorem State.setScr_libs (s : State) (n : Nat) (x : Scr) : (s.setScr n x).libs = s.libs := rfl
@[simp] theorem State.setScr_hawk (s : State) (n : Nat) (x : Scr) : (s.setScr n x).hawk = s.hawk := rfl
@[simp] theorem State.setScr_mbxs (s : State) (n : Nat) (x : Scr) : (s.setScr n x).mbxs = s.mbxs := rfl
@[simp] theorem State.setScr_sendRes (s : State) (n : Nat) (x : Scr) : (s.setScr n x).sendRes = s.sendRes := rfl
@[simp] theorem State.setScr_sems (s : State) (n : Nat) (x : Scr) : (s.setScr n x).sems = s.sems := rfl
@[simp] theorem State.setScr_srcs (s : State) (n : Nat) (x : Scr) : (s.setScr n x).srcs = s.srcs := rfl
@[simp] theorem State.setScr_vmods (s : State) (n : Nat) (x : Scr) : (s.setScr n x).vmods = s.vmods := rfl
@[simp] theorem State.setScr_batches (s : State) (n : Nat) (x : Scr) : (s.setScr n x).batches = s.batches := rfl
@[simp] theorem State.setScr_targets (s : State) (n : Nat) (x : Scr) : (s.setScr n x).targets = s.targets := rfl
@[simp] theorem State.setScr_ports (s : State) (n : Nat) (x : Scr) : (s.setScr n x).ports = s.ports := rfl
@[simp] theorem State.setScr_aq (s : State) (n : Nat) (x : Scr) : (s.setScr n x).aq = s.aq := rfl
@[simp] theorem State.setScr_commits (s : State) (n : Nat) (x : Scr) : (s.setScr n x).commits = s.commits := rfl
@[simp] theorem State.setScr_journal (s : State) (n : Nat) (x : Scr) : (s.setScr n x).journal = s.journal := rfl
@[simp] theorem State.setScr_jheld (s : State) (n : Nat) (x : Scr) : (s.setScr n x).jheld = s.jheld := rfl
@[simp] theorem State.setScr_jseq (s : State) (n : Nat) (x : Scr) : (s.setScr n x).jseq = s.jseq := rfl
@[simp] theorem State.setScr_late (s : State) (n : Nat) (x : Scr) : (s.setScr n x).late = s.late := rfl
@[simp] theorem State.setScr_turns (s : State) (n : Nat) (x : Scr) : (s.setScr n x).turns = s.turns := rfl
@[simp] theorem State.setScr_mled (s : State) (n : Nat) (x : Scr) : (s.setScr n x).mled = s.mled := rfl
@[simp] theorem State.setScr_prm (s : State) (n : Nat) (x : Scr) : (s.setScr n x).prm = s.prm := rfl
@[simp] theorem State.setScr_pwr (s : State) (n : Nat) (x : Scr) : (s.setScr n x).pwr = s.pwr := rfl
@[simp] theorem State.setScr_hold (s : State) (n : Nat) (x : Scr) : (s.setScr n x).hold = s.hold := rfl
@[simp] theorem State.setScr_ds (s : State) (n : Nat) (x : Scr) : (s.setScr n x).ds = s.ds := rfl
@[simp] theorem State.setScr_ledger (s : State) (n : Nat) (x : Scr) : (s.setScr n x).ledger = s.ledger := rfl
@[simp] theorem State.setScr_kmd (s : State) (n : Nat) (x : Scr) : (s.setScr n x).kmd = s.kmd := rfl
@[simp] theorem State.setScr_tap (s : State) (n : Nat) (x : Scr) : (s.setScr n x).tap = s.tap := rfl
@[simp] theorem State.setScr_lowHeld (s : State) (n : Nat) (x : Scr) : (s.setScr n x).lowHeld = s.lowHeld := rfl
@[simp] theorem State.setScr_upKept (s : State) (n : Nat) (x : Scr) : (s.setScr n x).upKept = s.upKept := rfl
@[simp] theorem State.setScr_wakeOut (s : State) (n : Nat) (x : Scr) : (s.setScr n x).wakeOut = s.wakeOut := rfl
@[simp] theorem State.setScr_porLow (s : State) (n : Nat) (x : Scr) : (s.setScr n x).porLow = s.porLow := rfl
@[simp] theorem State.setScr_warmLow (s : State) (n : Nat) (x : Scr) : (s.setScr n x).warmLow = s.warmLow := rfl
@[simp] theorem State.setScr_readOut (s : State) (n : Nat) (x : Scr) : (s.setScr n x).readOut = s.readOut := rfl
@[simp] theorem State.setScr_readData (s : State) (n : Nat) (x : Scr) : (s.setScr n x).readData = s.readData := rfl
@[simp] theorem State.setScr_eccCount (s : State) (n : Nat) (x : Scr) : (s.setScr n x).eccCount = s.eccCount := rfl
@[simp] theorem State.setScr_freeNext (s : State) (n : Nat) (x : Scr) : (s.setScr n x).freeNext = s.freeNext := rfl
@[simp] theorem State.scr_setScr (s : State) (n : Nat) (x : Scr) : (s.setScr n x).scr n = x := Table.get_set_same _ _ _ _
theorem State.scr_setScr_ne (s : State) (n k : Nat) (x : Scr) (h : k ≠ n) : (s.setScr n x).scr k = s.scr k :=
  Table.get_set_ne _ _ _ h
@[simp] theorem State.updScr_def (s : State) (n : Nat) (h : Scr → Scr) : s.updScr n h = s.setScr n (h (s.scr n)) := rfl
@[simp] theorem State.q_setScr (s : State) (n k : Nat) (x : Scr) : (s.setScr n x).q k = s.q k := rfl
@[simp] theorem State.chan_setScr (s : State) (n k : Nat) (x : Scr) : (s.setScr n x).chan k = s.chan k := rfl
@[simp] theorem State.cls_setScr (s : State) (n k : Nat) (x : Scr) : (s.setScr n x).cls k = s.cls k := rfl
@[simp] theorem State.core_setScr (s : State) (n k : Nat) (x : Scr) : (s.setScr n x).core k = s.core k := rfl
@[simp] theorem State.lib_setScr (s : State) (n k : Nat) (x : Scr) : (s.setScr n x).lib k = s.lib k := rfl
@[simp] theorem State.mbx_setScr (s : State) (n k : Nat) (x : Scr) : (s.setScr n x).mbx k = s.mbx k := rfl
@[simp] theorem State.sem_setScr (s : State) (n k : Nat) (x : Scr) : (s.setScr n x).sem k = s.sem k := rfl
@[simp] theorem State.src_setScr (s : State) (n k : Nat) (x : Scr) : (s.setScr n x).src k = s.src k := rfl
@[simp] theorem State.target_setScr (s : State) (n k : Nat) (x : Scr) : (s.setScr n x).target k = s.target k := rfl
@[simp] theorem State.port_setScr (s : State) (n k : Nat) (x : Scr) : (s.setScr n x).port k = s.port k := rfl
@[simp] theorem State.link_setScr (s : State) (n md : Nat) (x : Scr) : (s.setScr n x).link md = s.link md := rfl
@[simp] theorem State.dom_setScr (s : State) (n d : Nat) (x : Scr) : (s.setScr n x).dom d = s.dom d := rfl
@[simp] theorem State.byteAt_setScr (s : State) (n a : Nat) (x : Scr) : (s.setScr n x).byteAt a = s.byteAt a := rfl

/-! ### srcs -/

@[simp] theorem State.setSrc_pending (s : State) (n : Nat) (x : Src) : (s.setSrc n x).pending = s.pending := rfl
@[simp] theorem State.setSrc_mem (s : State) (n : Nat) (x : Src) : (s.setSrc n x).mem = s.mem := rfl
@[simp] theorem State.setSrc_die (s : State) (n : Nat) (x : Src) : (s.setSrc n x).die = s.die := rfl
@[simp] theorem State.setSrc_mode (s : State) (n : Nat) (x : Src) : (s.setSrc n x).mode = s.mode := rfl
@[simp] theorem State.setSrc_carry (s : State) (n : Nat) (x : Src) : (s.setSrc n x).carry = s.carry := rfl
@[simp] theorem State.setSrc_link0 (s : State) (n : Nat) (x : Src) : (s.setSrc n x).link0 = s.link0 := rfl
@[simp] theorem State.setSrc_link1 (s : State) (n : Nat) (x : Src) : (s.setSrc n x).link1 = s.link1 := rfl
@[simp] theorem State.setSrc_gctl (s : State) (n : Nat) (x : Src) : (s.setSrc n x).gctl = s.gctl := rfl
@[simp] theorem State.setSrc_queues (s : State) (n : Nat) (x : Src) : (s.setSrc n x).queues = s.queues := rfl
@[simp] theorem State.setSrc_turn (s : State) (n : Nat) (x : Src) : (s.setSrc n x).turn = s.turn := rfl
@[simp] theorem State.setSrc_chans (s : State) (n : Nat) (x : Src) : (s.setSrc n x).chans = s.chans := rfl
@[simp] theorem State.setSrc_parkSeq (s : State) (n : Nat) (x : Src) : (s.setSrc n x).parkSeq = s.parkSeq := rfl
@[simp] theorem State.setSrc_classes (s : State) (n : Nat) (x : Src) : (s.setSrc n x).classes = s.classes := rfl
@[simp] theorem State.setSrc_frm (s : State) (n : Nat) (x : Src) : (s.setSrc n x).frm = s.frm := rfl
@[simp] theorem State.setSrc_cores (s : State) (n : Nat) (x : Src) : (s.setSrc n x).cores = s.cores := rfl
@[simp] theorem State.setSrc_libs (s : State) (n : Nat) (x : Src) : (s.setSrc n x).libs = s.libs := rfl
@[simp] theorem State.setSrc_hawk (s : State) (n : Nat) (x : Src) : (s.setSrc n x).hawk = s.hawk := rfl
@[simp] theorem State.setSrc_mbxs (s : State) (n : Nat) (x : Src) : (s.setSrc n x).mbxs = s.mbxs := rfl
@[simp] theorem State.setSrc_sendRes (s : State) (n : Nat) (x : Src) : (s.setSrc n x).sendRes = s.sendRes := rfl
@[simp] theorem State.setSrc_sems (s : State) (n : Nat) (x : Src) : (s.setSrc n x).sems = s.sems := rfl
@[simp] theorem State.setSrc_scrs (s : State) (n : Nat) (x : Src) : (s.setSrc n x).scrs = s.scrs := rfl
@[simp] theorem State.setSrc_vmods (s : State) (n : Nat) (x : Src) : (s.setSrc n x).vmods = s.vmods := rfl
@[simp] theorem State.setSrc_batches (s : State) (n : Nat) (x : Src) : (s.setSrc n x).batches = s.batches := rfl
@[simp] theorem State.setSrc_targets (s : State) (n : Nat) (x : Src) : (s.setSrc n x).targets = s.targets := rfl
@[simp] theorem State.setSrc_ports (s : State) (n : Nat) (x : Src) : (s.setSrc n x).ports = s.ports := rfl
@[simp] theorem State.setSrc_aq (s : State) (n : Nat) (x : Src) : (s.setSrc n x).aq = s.aq := rfl
@[simp] theorem State.setSrc_commits (s : State) (n : Nat) (x : Src) : (s.setSrc n x).commits = s.commits := rfl
@[simp] theorem State.setSrc_journal (s : State) (n : Nat) (x : Src) : (s.setSrc n x).journal = s.journal := rfl
@[simp] theorem State.setSrc_jheld (s : State) (n : Nat) (x : Src) : (s.setSrc n x).jheld = s.jheld := rfl
@[simp] theorem State.setSrc_jseq (s : State) (n : Nat) (x : Src) : (s.setSrc n x).jseq = s.jseq := rfl
@[simp] theorem State.setSrc_late (s : State) (n : Nat) (x : Src) : (s.setSrc n x).late = s.late := rfl
@[simp] theorem State.setSrc_turns (s : State) (n : Nat) (x : Src) : (s.setSrc n x).turns = s.turns := rfl
@[simp] theorem State.setSrc_mled (s : State) (n : Nat) (x : Src) : (s.setSrc n x).mled = s.mled := rfl
@[simp] theorem State.setSrc_prm (s : State) (n : Nat) (x : Src) : (s.setSrc n x).prm = s.prm := rfl
@[simp] theorem State.setSrc_pwr (s : State) (n : Nat) (x : Src) : (s.setSrc n x).pwr = s.pwr := rfl
@[simp] theorem State.setSrc_hold (s : State) (n : Nat) (x : Src) : (s.setSrc n x).hold = s.hold := rfl
@[simp] theorem State.setSrc_ds (s : State) (n : Nat) (x : Src) : (s.setSrc n x).ds = s.ds := rfl
@[simp] theorem State.setSrc_ledger (s : State) (n : Nat) (x : Src) : (s.setSrc n x).ledger = s.ledger := rfl
@[simp] theorem State.setSrc_kmd (s : State) (n : Nat) (x : Src) : (s.setSrc n x).kmd = s.kmd := rfl
@[simp] theorem State.setSrc_tap (s : State) (n : Nat) (x : Src) : (s.setSrc n x).tap = s.tap := rfl
@[simp] theorem State.setSrc_lowHeld (s : State) (n : Nat) (x : Src) : (s.setSrc n x).lowHeld = s.lowHeld := rfl
@[simp] theorem State.setSrc_upKept (s : State) (n : Nat) (x : Src) : (s.setSrc n x).upKept = s.upKept := rfl
@[simp] theorem State.setSrc_wakeOut (s : State) (n : Nat) (x : Src) : (s.setSrc n x).wakeOut = s.wakeOut := rfl
@[simp] theorem State.setSrc_porLow (s : State) (n : Nat) (x : Src) : (s.setSrc n x).porLow = s.porLow := rfl
@[simp] theorem State.setSrc_warmLow (s : State) (n : Nat) (x : Src) : (s.setSrc n x).warmLow = s.warmLow := rfl
@[simp] theorem State.setSrc_readOut (s : State) (n : Nat) (x : Src) : (s.setSrc n x).readOut = s.readOut := rfl
@[simp] theorem State.setSrc_readData (s : State) (n : Nat) (x : Src) : (s.setSrc n x).readData = s.readData := rfl
@[simp] theorem State.setSrc_eccCount (s : State) (n : Nat) (x : Src) : (s.setSrc n x).eccCount = s.eccCount := rfl
@[simp] theorem State.setSrc_freeNext (s : State) (n : Nat) (x : Src) : (s.setSrc n x).freeNext = s.freeNext := rfl
@[simp] theorem State.src_setSrc (s : State) (n : Nat) (x : Src) : (s.setSrc n x).src n = x := Table.get_set_same _ _ _ _
theorem State.src_setSrc_ne (s : State) (n k : Nat) (x : Src) (h : k ≠ n) : (s.setSrc n x).src k = s.src k :=
  Table.get_set_ne _ _ _ h
@[simp] theorem State.updSrc_def (s : State) (n : Nat) (h : Src → Src) : s.updSrc n h = s.setSrc n (h (s.src n)) := rfl
@[simp] theorem State.q_setSrc (s : State) (n k : Nat) (x : Src) : (s.setSrc n x).q k = s.q k := rfl
@[simp] theorem State.chan_setSrc (s : State) (n k : Nat) (x : Src) : (s.setSrc n x).chan k = s.chan k := rfl
@[simp] theorem State.cls_setSrc (s : State) (n k : Nat) (x : Src) : (s.setSrc n x).cls k = s.cls k := rfl
@[simp] theorem State.core_setSrc (s : State) (n k : Nat) (x : Src) : (s.setSrc n x).core k = s.core k := rfl
@[simp] theorem State.lib_setSrc (s : State) (n k : Nat) (x : Src) : (s.setSrc n x).lib k = s.lib k := rfl
@[simp] theorem State.mbx_setSrc (s : State) (n k : Nat) (x : Src) : (s.setSrc n x).mbx k = s.mbx k := rfl
@[simp] theorem State.sem_setSrc (s : State) (n k : Nat) (x : Src) : (s.setSrc n x).sem k = s.sem k := rfl
@[simp] theorem State.scr_setSrc (s : State) (n k : Nat) (x : Src) : (s.setSrc n x).scr k = s.scr k := rfl
@[simp] theorem State.target_setSrc (s : State) (n k : Nat) (x : Src) : (s.setSrc n x).target k = s.target k := rfl
@[simp] theorem State.port_setSrc (s : State) (n k : Nat) (x : Src) : (s.setSrc n x).port k = s.port k := rfl
@[simp] theorem State.link_setSrc (s : State) (n md : Nat) (x : Src) : (s.setSrc n x).link md = s.link md := rfl
@[simp] theorem State.dom_setSrc (s : State) (n d : Nat) (x : Src) : (s.setSrc n x).dom d = s.dom d := rfl
@[simp] theorem State.byteAt_setSrc (s : State) (n a : Nat) (x : Src) : (s.setSrc n x).byteAt a = s.byteAt a := rfl

/-! ### targets -/

@[simp] theorem State.setTarget_pending (s : State) (n : Nat) (x : Target) : (s.setTarget n x).pending = s.pending := rfl
@[simp] theorem State.setTarget_mem (s : State) (n : Nat) (x : Target) : (s.setTarget n x).mem = s.mem := rfl
@[simp] theorem State.setTarget_die (s : State) (n : Nat) (x : Target) : (s.setTarget n x).die = s.die := rfl
@[simp] theorem State.setTarget_mode (s : State) (n : Nat) (x : Target) : (s.setTarget n x).mode = s.mode := rfl
@[simp] theorem State.setTarget_carry (s : State) (n : Nat) (x : Target) : (s.setTarget n x).carry = s.carry := rfl
@[simp] theorem State.setTarget_link0 (s : State) (n : Nat) (x : Target) : (s.setTarget n x).link0 = s.link0 := rfl
@[simp] theorem State.setTarget_link1 (s : State) (n : Nat) (x : Target) : (s.setTarget n x).link1 = s.link1 := rfl
@[simp] theorem State.setTarget_gctl (s : State) (n : Nat) (x : Target) : (s.setTarget n x).gctl = s.gctl := rfl
@[simp] theorem State.setTarget_queues (s : State) (n : Nat) (x : Target) : (s.setTarget n x).queues = s.queues := rfl
@[simp] theorem State.setTarget_turn (s : State) (n : Nat) (x : Target) : (s.setTarget n x).turn = s.turn := rfl
@[simp] theorem State.setTarget_chans (s : State) (n : Nat) (x : Target) : (s.setTarget n x).chans = s.chans := rfl
@[simp] theorem State.setTarget_parkSeq (s : State) (n : Nat) (x : Target) : (s.setTarget n x).parkSeq = s.parkSeq := rfl
@[simp] theorem State.setTarget_classes (s : State) (n : Nat) (x : Target) : (s.setTarget n x).classes = s.classes := rfl
@[simp] theorem State.setTarget_frm (s : State) (n : Nat) (x : Target) : (s.setTarget n x).frm = s.frm := rfl
@[simp] theorem State.setTarget_cores (s : State) (n : Nat) (x : Target) : (s.setTarget n x).cores = s.cores := rfl
@[simp] theorem State.setTarget_libs (s : State) (n : Nat) (x : Target) : (s.setTarget n x).libs = s.libs := rfl
@[simp] theorem State.setTarget_hawk (s : State) (n : Nat) (x : Target) : (s.setTarget n x).hawk = s.hawk := rfl
@[simp] theorem State.setTarget_mbxs (s : State) (n : Nat) (x : Target) : (s.setTarget n x).mbxs = s.mbxs := rfl
@[simp] theorem State.setTarget_sendRes (s : State) (n : Nat) (x : Target) : (s.setTarget n x).sendRes = s.sendRes := rfl
@[simp] theorem State.setTarget_sems (s : State) (n : Nat) (x : Target) : (s.setTarget n x).sems = s.sems := rfl
@[simp] theorem State.setTarget_scrs (s : State) (n : Nat) (x : Target) : (s.setTarget n x).scrs = s.scrs := rfl
@[simp] theorem State.setTarget_srcs (s : State) (n : Nat) (x : Target) : (s.setTarget n x).srcs = s.srcs := rfl
@[simp] theorem State.setTarget_vmods (s : State) (n : Nat) (x : Target) : (s.setTarget n x).vmods = s.vmods := rfl
@[simp] theorem State.setTarget_batches (s : State) (n : Nat) (x : Target) : (s.setTarget n x).batches = s.batches := rfl
@[simp] theorem State.setTarget_ports (s : State) (n : Nat) (x : Target) : (s.setTarget n x).ports = s.ports := rfl
@[simp] theorem State.setTarget_aq (s : State) (n : Nat) (x : Target) : (s.setTarget n x).aq = s.aq := rfl
@[simp] theorem State.setTarget_commits (s : State) (n : Nat) (x : Target) : (s.setTarget n x).commits = s.commits := rfl
@[simp] theorem State.setTarget_journal (s : State) (n : Nat) (x : Target) : (s.setTarget n x).journal = s.journal := rfl
@[simp] theorem State.setTarget_jheld (s : State) (n : Nat) (x : Target) : (s.setTarget n x).jheld = s.jheld := rfl
@[simp] theorem State.setTarget_jseq (s : State) (n : Nat) (x : Target) : (s.setTarget n x).jseq = s.jseq := rfl
@[simp] theorem State.setTarget_late (s : State) (n : Nat) (x : Target) : (s.setTarget n x).late = s.late := rfl
@[simp] theorem State.setTarget_turns (s : State) (n : Nat) (x : Target) : (s.setTarget n x).turns = s.turns := rfl
@[simp] theorem State.setTarget_mled (s : State) (n : Nat) (x : Target) : (s.setTarget n x).mled = s.mled := rfl
@[simp] theorem State.setTarget_prm (s : State) (n : Nat) (x : Target) : (s.setTarget n x).prm = s.prm := rfl
@[simp] theorem State.setTarget_pwr (s : State) (n : Nat) (x : Target) : (s.setTarget n x).pwr = s.pwr := rfl
@[simp] theorem State.setTarget_hold (s : State) (n : Nat) (x : Target) : (s.setTarget n x).hold = s.hold := rfl
@[simp] theorem State.setTarget_ds (s : State) (n : Nat) (x : Target) : (s.setTarget n x).ds = s.ds := rfl
@[simp] theorem State.setTarget_ledger (s : State) (n : Nat) (x : Target) : (s.setTarget n x).ledger = s.ledger := rfl
@[simp] theorem State.setTarget_kmd (s : State) (n : Nat) (x : Target) : (s.setTarget n x).kmd = s.kmd := rfl
@[simp] theorem State.setTarget_tap (s : State) (n : Nat) (x : Target) : (s.setTarget n x).tap = s.tap := rfl
@[simp] theorem State.setTarget_lowHeld (s : State) (n : Nat) (x : Target) : (s.setTarget n x).lowHeld = s.lowHeld := rfl
@[simp] theorem State.setTarget_upKept (s : State) (n : Nat) (x : Target) : (s.setTarget n x).upKept = s.upKept := rfl
@[simp] theorem State.setTarget_wakeOut (s : State) (n : Nat) (x : Target) : (s.setTarget n x).wakeOut = s.wakeOut := rfl
@[simp] theorem State.setTarget_porLow (s : State) (n : Nat) (x : Target) : (s.setTarget n x).porLow = s.porLow := rfl
@[simp] theorem State.setTarget_warmLow (s : State) (n : Nat) (x : Target) : (s.setTarget n x).warmLow = s.warmLow := rfl
@[simp] theorem State.setTarget_readOut (s : State) (n : Nat) (x : Target) : (s.setTarget n x).readOut = s.readOut := rfl
@[simp] theorem State.setTarget_readData (s : State) (n : Nat) (x : Target) : (s.setTarget n x).readData = s.readData := rfl
@[simp] theorem State.setTarget_eccCount (s : State) (n : Nat) (x : Target) : (s.setTarget n x).eccCount = s.eccCount := rfl
@[simp] theorem State.setTarget_freeNext (s : State) (n : Nat) (x : Target) : (s.setTarget n x).freeNext = s.freeNext := rfl
@[simp] theorem State.target_setTarget (s : State) (n : Nat) (x : Target) : (s.setTarget n x).target n = x := Table.get_set_same _ _ _ _
theorem State.target_setTarget_ne (s : State) (n k : Nat) (x : Target) (h : k ≠ n) : (s.setTarget n x).target k = s.target k :=
  Table.get_set_ne _ _ _ h
@[simp] theorem State.updTarget_def (s : State) (n : Nat) (h : Target → Target) : s.updTarget n h = s.setTarget n (h (s.target n)) := rfl
@[simp] theorem State.q_setTarget (s : State) (n k : Nat) (x : Target) : (s.setTarget n x).q k = s.q k := rfl
@[simp] theorem State.chan_setTarget (s : State) (n k : Nat) (x : Target) : (s.setTarget n x).chan k = s.chan k := rfl
@[simp] theorem State.cls_setTarget (s : State) (n k : Nat) (x : Target) : (s.setTarget n x).cls k = s.cls k := rfl
@[simp] theorem State.core_setTarget (s : State) (n k : Nat) (x : Target) : (s.setTarget n x).core k = s.core k := rfl
@[simp] theorem State.lib_setTarget (s : State) (n k : Nat) (x : Target) : (s.setTarget n x).lib k = s.lib k := rfl
@[simp] theorem State.mbx_setTarget (s : State) (n k : Nat) (x : Target) : (s.setTarget n x).mbx k = s.mbx k := rfl
@[simp] theorem State.sem_setTarget (s : State) (n k : Nat) (x : Target) : (s.setTarget n x).sem k = s.sem k := rfl
@[simp] theorem State.scr_setTarget (s : State) (n k : Nat) (x : Target) : (s.setTarget n x).scr k = s.scr k := rfl
@[simp] theorem State.src_setTarget (s : State) (n k : Nat) (x : Target) : (s.setTarget n x).src k = s.src k := rfl
@[simp] theorem State.port_setTarget (s : State) (n k : Nat) (x : Target) : (s.setTarget n x).port k = s.port k := rfl
@[simp] theorem State.link_setTarget (s : State) (n md : Nat) (x : Target) : (s.setTarget n x).link md = s.link md := rfl
@[simp] theorem State.dom_setTarget (s : State) (n d : Nat) (x : Target) : (s.setTarget n x).dom d = s.dom d := rfl
@[simp] theorem State.byteAt_setTarget (s : State) (n a : Nat) (x : Target) : (s.setTarget n x).byteAt a = s.byteAt a := rfl

/-! ### ports -/

@[simp] theorem State.setPort_pending (s : State) (n : Nat) (x : Port) : (s.setPort n x).pending = s.pending := rfl
@[simp] theorem State.setPort_mem (s : State) (n : Nat) (x : Port) : (s.setPort n x).mem = s.mem := rfl
@[simp] theorem State.setPort_die (s : State) (n : Nat) (x : Port) : (s.setPort n x).die = s.die := rfl
@[simp] theorem State.setPort_mode (s : State) (n : Nat) (x : Port) : (s.setPort n x).mode = s.mode := rfl
@[simp] theorem State.setPort_carry (s : State) (n : Nat) (x : Port) : (s.setPort n x).carry = s.carry := rfl
@[simp] theorem State.setPort_link0 (s : State) (n : Nat) (x : Port) : (s.setPort n x).link0 = s.link0 := rfl
@[simp] theorem State.setPort_link1 (s : State) (n : Nat) (x : Port) : (s.setPort n x).link1 = s.link1 := rfl
@[simp] theorem State.setPort_gctl (s : State) (n : Nat) (x : Port) : (s.setPort n x).gctl = s.gctl := rfl
@[simp] theorem State.setPort_queues (s : State) (n : Nat) (x : Port) : (s.setPort n x).queues = s.queues := rfl
@[simp] theorem State.setPort_turn (s : State) (n : Nat) (x : Port) : (s.setPort n x).turn = s.turn := rfl
@[simp] theorem State.setPort_chans (s : State) (n : Nat) (x : Port) : (s.setPort n x).chans = s.chans := rfl
@[simp] theorem State.setPort_parkSeq (s : State) (n : Nat) (x : Port) : (s.setPort n x).parkSeq = s.parkSeq := rfl
@[simp] theorem State.setPort_classes (s : State) (n : Nat) (x : Port) : (s.setPort n x).classes = s.classes := rfl
@[simp] theorem State.setPort_frm (s : State) (n : Nat) (x : Port) : (s.setPort n x).frm = s.frm := rfl
@[simp] theorem State.setPort_cores (s : State) (n : Nat) (x : Port) : (s.setPort n x).cores = s.cores := rfl
@[simp] theorem State.setPort_libs (s : State) (n : Nat) (x : Port) : (s.setPort n x).libs = s.libs := rfl
@[simp] theorem State.setPort_hawk (s : State) (n : Nat) (x : Port) : (s.setPort n x).hawk = s.hawk := rfl
@[simp] theorem State.setPort_mbxs (s : State) (n : Nat) (x : Port) : (s.setPort n x).mbxs = s.mbxs := rfl
@[simp] theorem State.setPort_sendRes (s : State) (n : Nat) (x : Port) : (s.setPort n x).sendRes = s.sendRes := rfl
@[simp] theorem State.setPort_sems (s : State) (n : Nat) (x : Port) : (s.setPort n x).sems = s.sems := rfl
@[simp] theorem State.setPort_scrs (s : State) (n : Nat) (x : Port) : (s.setPort n x).scrs = s.scrs := rfl
@[simp] theorem State.setPort_srcs (s : State) (n : Nat) (x : Port) : (s.setPort n x).srcs = s.srcs := rfl
@[simp] theorem State.setPort_vmods (s : State) (n : Nat) (x : Port) : (s.setPort n x).vmods = s.vmods := rfl
@[simp] theorem State.setPort_batches (s : State) (n : Nat) (x : Port) : (s.setPort n x).batches = s.batches := rfl
@[simp] theorem State.setPort_targets (s : State) (n : Nat) (x : Port) : (s.setPort n x).targets = s.targets := rfl
@[simp] theorem State.setPort_aq (s : State) (n : Nat) (x : Port) : (s.setPort n x).aq = s.aq := rfl
@[simp] theorem State.setPort_commits (s : State) (n : Nat) (x : Port) : (s.setPort n x).commits = s.commits := rfl
@[simp] theorem State.setPort_journal (s : State) (n : Nat) (x : Port) : (s.setPort n x).journal = s.journal := rfl
@[simp] theorem State.setPort_jheld (s : State) (n : Nat) (x : Port) : (s.setPort n x).jheld = s.jheld := rfl
@[simp] theorem State.setPort_jseq (s : State) (n : Nat) (x : Port) : (s.setPort n x).jseq = s.jseq := rfl
@[simp] theorem State.setPort_late (s : State) (n : Nat) (x : Port) : (s.setPort n x).late = s.late := rfl
@[simp] theorem State.setPort_turns (s : State) (n : Nat) (x : Port) : (s.setPort n x).turns = s.turns := rfl
@[simp] theorem State.setPort_mled (s : State) (n : Nat) (x : Port) : (s.setPort n x).mled = s.mled := rfl
@[simp] theorem State.setPort_prm (s : State) (n : Nat) (x : Port) : (s.setPort n x).prm = s.prm := rfl
@[simp] theorem State.setPort_pwr (s : State) (n : Nat) (x : Port) : (s.setPort n x).pwr = s.pwr := rfl
@[simp] theorem State.setPort_hold (s : State) (n : Nat) (x : Port) : (s.setPort n x).hold = s.hold := rfl
@[simp] theorem State.setPort_ds (s : State) (n : Nat) (x : Port) : (s.setPort n x).ds = s.ds := rfl
@[simp] theorem State.setPort_ledger (s : State) (n : Nat) (x : Port) : (s.setPort n x).ledger = s.ledger := rfl
@[simp] theorem State.setPort_kmd (s : State) (n : Nat) (x : Port) : (s.setPort n x).kmd = s.kmd := rfl
@[simp] theorem State.setPort_tap (s : State) (n : Nat) (x : Port) : (s.setPort n x).tap = s.tap := rfl
@[simp] theorem State.setPort_lowHeld (s : State) (n : Nat) (x : Port) : (s.setPort n x).lowHeld = s.lowHeld := rfl
@[simp] theorem State.setPort_upKept (s : State) (n : Nat) (x : Port) : (s.setPort n x).upKept = s.upKept := rfl
@[simp] theorem State.setPort_wakeOut (s : State) (n : Nat) (x : Port) : (s.setPort n x).wakeOut = s.wakeOut := rfl
@[simp] theorem State.setPort_porLow (s : State) (n : Nat) (x : Port) : (s.setPort n x).porLow = s.porLow := rfl
@[simp] theorem State.setPort_warmLow (s : State) (n : Nat) (x : Port) : (s.setPort n x).warmLow = s.warmLow := rfl
@[simp] theorem State.setPort_readOut (s : State) (n : Nat) (x : Port) : (s.setPort n x).readOut = s.readOut := rfl
@[simp] theorem State.setPort_readData (s : State) (n : Nat) (x : Port) : (s.setPort n x).readData = s.readData := rfl
@[simp] theorem State.setPort_eccCount (s : State) (n : Nat) (x : Port) : (s.setPort n x).eccCount = s.eccCount := rfl
@[simp] theorem State.setPort_freeNext (s : State) (n : Nat) (x : Port) : (s.setPort n x).freeNext = s.freeNext := rfl
@[simp] theorem State.port_setPort (s : State) (n : Nat) (x : Port) : (s.setPort n x).port n = x := Table.get_set_same _ _ _ _
theorem State.port_setPort_ne (s : State) (n k : Nat) (x : Port) (h : k ≠ n) : (s.setPort n x).port k = s.port k :=
  Table.get_set_ne _ _ _ h
@[simp] theorem State.updPort_def (s : State) (n : Nat) (h : Port → Port) : s.updPort n h = s.setPort n (h (s.port n)) := rfl
@[simp] theorem State.q_setPort (s : State) (n k : Nat) (x : Port) : (s.setPort n x).q k = s.q k := rfl
@[simp] theorem State.chan_setPort (s : State) (n k : Nat) (x : Port) : (s.setPort n x).chan k = s.chan k := rfl
@[simp] theorem State.cls_setPort (s : State) (n k : Nat) (x : Port) : (s.setPort n x).cls k = s.cls k := rfl
@[simp] theorem State.core_setPort (s : State) (n k : Nat) (x : Port) : (s.setPort n x).core k = s.core k := rfl
@[simp] theorem State.lib_setPort (s : State) (n k : Nat) (x : Port) : (s.setPort n x).lib k = s.lib k := rfl
@[simp] theorem State.mbx_setPort (s : State) (n k : Nat) (x : Port) : (s.setPort n x).mbx k = s.mbx k := rfl
@[simp] theorem State.sem_setPort (s : State) (n k : Nat) (x : Port) : (s.setPort n x).sem k = s.sem k := rfl
@[simp] theorem State.scr_setPort (s : State) (n k : Nat) (x : Port) : (s.setPort n x).scr k = s.scr k := rfl
@[simp] theorem State.src_setPort (s : State) (n k : Nat) (x : Port) : (s.setPort n x).src k = s.src k := rfl
@[simp] theorem State.target_setPort (s : State) (n k : Nat) (x : Port) : (s.setPort n x).target k = s.target k := rfl
@[simp] theorem State.link_setPort (s : State) (n md : Nat) (x : Port) : (s.setPort n x).link md = s.link md := rfl
@[simp] theorem State.dom_setPort (s : State) (n d : Nat) (x : Port) : (s.setPort n x).dom d = s.dom d := rfl
@[simp] theorem State.byteAt_setPort (s : State) (n a : Nat) (x : Port) : (s.setPort n x).byteAt a = s.byteAt a := rfl

/-! ### A run of bytes stored -/

@[simp] theorem State.store_pending (s : State) (a : Nat) (l : List Byte) : (s.store a l).pending = s.pending := rfl
@[simp] theorem State.store_die (s : State) (a : Nat) (l : List Byte) : (s.store a l).die = s.die := rfl
@[simp] theorem State.store_mode (s : State) (a : Nat) (l : List Byte) : (s.store a l).mode = s.mode := rfl
@[simp] theorem State.store_carry (s : State) (a : Nat) (l : List Byte) : (s.store a l).carry = s.carry := rfl
@[simp] theorem State.store_link0 (s : State) (a : Nat) (l : List Byte) : (s.store a l).link0 = s.link0 := rfl
@[simp] theorem State.store_link1 (s : State) (a : Nat) (l : List Byte) : (s.store a l).link1 = s.link1 := rfl
@[simp] theorem State.store_gctl (s : State) (a : Nat) (l : List Byte) : (s.store a l).gctl = s.gctl := rfl
@[simp] theorem State.store_queues (s : State) (a : Nat) (l : List Byte) : (s.store a l).queues = s.queues := rfl
@[simp] theorem State.store_turn (s : State) (a : Nat) (l : List Byte) : (s.store a l).turn = s.turn := rfl
@[simp] theorem State.store_chans (s : State) (a : Nat) (l : List Byte) : (s.store a l).chans = s.chans := rfl
@[simp] theorem State.store_parkSeq (s : State) (a : Nat) (l : List Byte) : (s.store a l).parkSeq = s.parkSeq := rfl
@[simp] theorem State.store_classes (s : State) (a : Nat) (l : List Byte) : (s.store a l).classes = s.classes := rfl
@[simp] theorem State.store_frm (s : State) (a : Nat) (l : List Byte) : (s.store a l).frm = s.frm := rfl
@[simp] theorem State.store_cores (s : State) (a : Nat) (l : List Byte) : (s.store a l).cores = s.cores := rfl
@[simp] theorem State.store_libs (s : State) (a : Nat) (l : List Byte) : (s.store a l).libs = s.libs := rfl
@[simp] theorem State.store_hawk (s : State) (a : Nat) (l : List Byte) : (s.store a l).hawk = s.hawk := rfl
@[simp] theorem State.store_mbxs (s : State) (a : Nat) (l : List Byte) : (s.store a l).mbxs = s.mbxs := rfl
@[simp] theorem State.store_sendRes (s : State) (a : Nat) (l : List Byte) : (s.store a l).sendRes = s.sendRes := rfl
@[simp] theorem State.store_sems (s : State) (a : Nat) (l : List Byte) : (s.store a l).sems = s.sems := rfl
@[simp] theorem State.store_scrs (s : State) (a : Nat) (l : List Byte) : (s.store a l).scrs = s.scrs := rfl
@[simp] theorem State.store_srcs (s : State) (a : Nat) (l : List Byte) : (s.store a l).srcs = s.srcs := rfl
@[simp] theorem State.store_vmods (s : State) (a : Nat) (l : List Byte) : (s.store a l).vmods = s.vmods := rfl
@[simp] theorem State.store_batches (s : State) (a : Nat) (l : List Byte) : (s.store a l).batches = s.batches := rfl
@[simp] theorem State.store_targets (s : State) (a : Nat) (l : List Byte) : (s.store a l).targets = s.targets := rfl
@[simp] theorem State.store_ports (s : State) (a : Nat) (l : List Byte) : (s.store a l).ports = s.ports := rfl
@[simp] theorem State.store_aq (s : State) (a : Nat) (l : List Byte) : (s.store a l).aq = s.aq := rfl
@[simp] theorem State.store_commits (s : State) (a : Nat) (l : List Byte) : (s.store a l).commits = s.commits := rfl
@[simp] theorem State.store_journal (s : State) (a : Nat) (l : List Byte) : (s.store a l).journal = s.journal := rfl
@[simp] theorem State.store_jheld (s : State) (a : Nat) (l : List Byte) : (s.store a l).jheld = s.jheld := rfl
@[simp] theorem State.store_jseq (s : State) (a : Nat) (l : List Byte) : (s.store a l).jseq = s.jseq := rfl
@[simp] theorem State.store_late (s : State) (a : Nat) (l : List Byte) : (s.store a l).late = s.late := rfl
@[simp] theorem State.store_turns (s : State) (a : Nat) (l : List Byte) : (s.store a l).turns = s.turns := rfl
@[simp] theorem State.store_mled (s : State) (a : Nat) (l : List Byte) : (s.store a l).mled = s.mled := rfl
@[simp] theorem State.store_prm (s : State) (a : Nat) (l : List Byte) : (s.store a l).prm = s.prm := rfl
@[simp] theorem State.store_pwr (s : State) (a : Nat) (l : List Byte) : (s.store a l).pwr = s.pwr := rfl
@[simp] theorem State.store_hold (s : State) (a : Nat) (l : List Byte) : (s.store a l).hold = s.hold := rfl
@[simp] theorem State.store_ds (s : State) (a : Nat) (l : List Byte) : (s.store a l).ds = s.ds := rfl
@[simp] theorem State.store_ledger (s : State) (a : Nat) (l : List Byte) : (s.store a l).ledger = s.ledger := rfl
@[simp] theorem State.store_kmd (s : State) (a : Nat) (l : List Byte) : (s.store a l).kmd = s.kmd := rfl
@[simp] theorem State.store_tap (s : State) (a : Nat) (l : List Byte) : (s.store a l).tap = s.tap := rfl
@[simp] theorem State.store_lowHeld (s : State) (a : Nat) (l : List Byte) : (s.store a l).lowHeld = s.lowHeld := rfl
@[simp] theorem State.store_upKept (s : State) (a : Nat) (l : List Byte) : (s.store a l).upKept = s.upKept := rfl
@[simp] theorem State.store_wakeOut (s : State) (a : Nat) (l : List Byte) : (s.store a l).wakeOut = s.wakeOut := rfl
@[simp] theorem State.store_porLow (s : State) (a : Nat) (l : List Byte) : (s.store a l).porLow = s.porLow := rfl
@[simp] theorem State.store_warmLow (s : State) (a : Nat) (l : List Byte) : (s.store a l).warmLow = s.warmLow := rfl
@[simp] theorem State.store_readOut (s : State) (a : Nat) (l : List Byte) : (s.store a l).readOut = s.readOut := rfl
@[simp] theorem State.store_readData (s : State) (a : Nat) (l : List Byte) : (s.store a l).readData = s.readData := rfl
@[simp] theorem State.store_eccCount (s : State) (a : Nat) (l : List Byte) : (s.store a l).eccCount = s.eccCount := rfl
@[simp] theorem State.store_freeNext (s : State) (a : Nat) (l : List Byte) : (s.store a l).freeNext = s.freeNext := rfl
@[simp] theorem State.q_store (s : State) (a : Nat) (l : List Byte) (i : Nat) : (s.store a l).q i = s.q i := rfl
@[simp] theorem State.chan_store (s : State) (a : Nat) (l : List Byte) (i : Nat) : (s.store a l).chan i = s.chan i := rfl
@[simp] theorem State.cls_store (s : State) (a : Nat) (l : List Byte) (i : Nat) : (s.store a l).cls i = s.cls i := rfl
@[simp] theorem State.core_store (s : State) (a : Nat) (l : List Byte) (i : Nat) : (s.store a l).core i = s.core i := rfl
@[simp] theorem State.lib_store (s : State) (a : Nat) (l : List Byte) (i : Nat) : (s.store a l).lib i = s.lib i := rfl
@[simp] theorem State.mbx_store (s : State) (a : Nat) (l : List Byte) (i : Nat) : (s.store a l).mbx i = s.mbx i := rfl
@[simp] theorem State.sem_store (s : State) (a : Nat) (l : List Byte) (i : Nat) : (s.store a l).sem i = s.sem i := rfl
@[simp] theorem State.scr_store (s : State) (a : Nat) (l : List Byte) (i : Nat) : (s.store a l).scr i = s.scr i := rfl
@[simp] theorem State.src_store (s : State) (a : Nat) (l : List Byte) (i : Nat) : (s.store a l).src i = s.src i := rfl
@[simp] theorem State.target_store (s : State) (a : Nat) (l : List Byte) (i : Nat) : (s.store a l).target i = s.target i := rfl
@[simp] theorem State.port_store (s : State) (a : Nat) (l : List Byte) (i : Nat) : (s.store a l).port i = s.port i := rfl

/-! ### A value read -/

@[simp] theorem State.out_pending (s : State) (v : Nat) : (s.out v).pending = s.pending := rfl
@[simp] theorem State.out_mem (s : State) (v : Nat) : (s.out v).mem = s.mem := rfl
@[simp] theorem State.out_die (s : State) (v : Nat) : (s.out v).die = s.die := rfl
@[simp] theorem State.out_mode (s : State) (v : Nat) : (s.out v).mode = s.mode := rfl
@[simp] theorem State.out_carry (s : State) (v : Nat) : (s.out v).carry = s.carry := rfl
@[simp] theorem State.out_link0 (s : State) (v : Nat) : (s.out v).link0 = s.link0 := rfl
@[simp] theorem State.out_link1 (s : State) (v : Nat) : (s.out v).link1 = s.link1 := rfl
@[simp] theorem State.out_gctl (s : State) (v : Nat) : (s.out v).gctl = s.gctl := rfl
@[simp] theorem State.out_queues (s : State) (v : Nat) : (s.out v).queues = s.queues := rfl
@[simp] theorem State.out_turn (s : State) (v : Nat) : (s.out v).turn = s.turn := rfl
@[simp] theorem State.out_chans (s : State) (v : Nat) : (s.out v).chans = s.chans := rfl
@[simp] theorem State.out_parkSeq (s : State) (v : Nat) : (s.out v).parkSeq = s.parkSeq := rfl
@[simp] theorem State.out_classes (s : State) (v : Nat) : (s.out v).classes = s.classes := rfl
@[simp] theorem State.out_frm (s : State) (v : Nat) : (s.out v).frm = s.frm := rfl
@[simp] theorem State.out_cores (s : State) (v : Nat) : (s.out v).cores = s.cores := rfl
@[simp] theorem State.out_libs (s : State) (v : Nat) : (s.out v).libs = s.libs := rfl
@[simp] theorem State.out_hawk (s : State) (v : Nat) : (s.out v).hawk = s.hawk := rfl
@[simp] theorem State.out_mbxs (s : State) (v : Nat) : (s.out v).mbxs = s.mbxs := rfl
@[simp] theorem State.out_sendRes (s : State) (v : Nat) : (s.out v).sendRes = s.sendRes := rfl
@[simp] theorem State.out_sems (s : State) (v : Nat) : (s.out v).sems = s.sems := rfl
@[simp] theorem State.out_scrs (s : State) (v : Nat) : (s.out v).scrs = s.scrs := rfl
@[simp] theorem State.out_srcs (s : State) (v : Nat) : (s.out v).srcs = s.srcs := rfl
@[simp] theorem State.out_vmods (s : State) (v : Nat) : (s.out v).vmods = s.vmods := rfl
@[simp] theorem State.out_batches (s : State) (v : Nat) : (s.out v).batches = s.batches := rfl
@[simp] theorem State.out_targets (s : State) (v : Nat) : (s.out v).targets = s.targets := rfl
@[simp] theorem State.out_ports (s : State) (v : Nat) : (s.out v).ports = s.ports := rfl
@[simp] theorem State.out_aq (s : State) (v : Nat) : (s.out v).aq = s.aq := rfl
@[simp] theorem State.out_commits (s : State) (v : Nat) : (s.out v).commits = s.commits := rfl
@[simp] theorem State.out_journal (s : State) (v : Nat) : (s.out v).journal = s.journal := rfl
@[simp] theorem State.out_jheld (s : State) (v : Nat) : (s.out v).jheld = s.jheld := rfl
@[simp] theorem State.out_jseq (s : State) (v : Nat) : (s.out v).jseq = s.jseq := rfl
@[simp] theorem State.out_late (s : State) (v : Nat) : (s.out v).late = s.late := rfl
@[simp] theorem State.out_turns (s : State) (v : Nat) : (s.out v).turns = s.turns := rfl
@[simp] theorem State.out_mled (s : State) (v : Nat) : (s.out v).mled = s.mled := rfl
@[simp] theorem State.out_prm (s : State) (v : Nat) : (s.out v).prm = s.prm := rfl
@[simp] theorem State.out_pwr (s : State) (v : Nat) : (s.out v).pwr = s.pwr := rfl
@[simp] theorem State.out_hold (s : State) (v : Nat) : (s.out v).hold = s.hold := rfl
@[simp] theorem State.out_ds (s : State) (v : Nat) : (s.out v).ds = s.ds := rfl
@[simp] theorem State.out_ledger (s : State) (v : Nat) : (s.out v).ledger = s.ledger := rfl
@[simp] theorem State.out_kmd (s : State) (v : Nat) : (s.out v).kmd = s.kmd := rfl
@[simp] theorem State.out_tap (s : State) (v : Nat) : (s.out v).tap = s.tap := rfl
@[simp] theorem State.out_lowHeld (s : State) (v : Nat) : (s.out v).lowHeld = s.lowHeld := rfl
@[simp] theorem State.out_upKept (s : State) (v : Nat) : (s.out v).upKept = s.upKept := rfl
@[simp] theorem State.out_wakeOut (s : State) (v : Nat) : (s.out v).wakeOut = s.wakeOut := rfl
@[simp] theorem State.out_porLow (s : State) (v : Nat) : (s.out v).porLow = s.porLow := rfl
@[simp] theorem State.out_warmLow (s : State) (v : Nat) : (s.out v).warmLow = s.warmLow := rfl
@[simp] theorem State.out_readData (s : State) (v : Nat) : (s.out v).readData = s.readData := rfl
@[simp] theorem State.out_eccCount (s : State) (v : Nat) : (s.out v).eccCount = s.eccCount := rfl
@[simp] theorem State.out_freeNext (s : State) (v : Nat) : (s.out v).freeNext = s.freeNext := rfl
@[simp] theorem State.q_out (s : State) (v : Nat) (i : Nat) : (s.out v).q i = s.q i := rfl
@[simp] theorem State.chan_out (s : State) (v : Nat) (i : Nat) : (s.out v).chan i = s.chan i := rfl
@[simp] theorem State.cls_out (s : State) (v : Nat) (i : Nat) : (s.out v).cls i = s.cls i := rfl
@[simp] theorem State.core_out (s : State) (v : Nat) (i : Nat) : (s.out v).core i = s.core i := rfl
@[simp] theorem State.lib_out (s : State) (v : Nat) (i : Nat) : (s.out v).lib i = s.lib i := rfl
@[simp] theorem State.mbx_out (s : State) (v : Nat) (i : Nat) : (s.out v).mbx i = s.mbx i := rfl
@[simp] theorem State.sem_out (s : State) (v : Nat) (i : Nat) : (s.out v).sem i = s.sem i := rfl
@[simp] theorem State.scr_out (s : State) (v : Nat) (i : Nat) : (s.out v).scr i = s.scr i := rfl
@[simp] theorem State.src_out (s : State) (v : Nat) (i : Nat) : (s.out v).src i = s.src i := rfl
@[simp] theorem State.target_out (s : State) (v : Nat) (i : Nat) : (s.out v).target i = s.target i := rfl
@[simp] theorem State.port_out (s : State) (v : Nat) (i : Nat) : (s.out v).port i = s.port i := rfl

@[simp] theorem State.out_readOut (s : State) (v : Nat) : (s.out v).readOut = BitVec.ofNat 64 v := rfl

/-! ### An access refused and counted -/

@[simp] theorem State.accErr_pending (s : State) (m : Nat) : (s.accErr m).pending = s.pending := rfl
@[simp] theorem State.accErr_mem (s : State) (m : Nat) : (s.accErr m).mem = s.mem := rfl
@[simp] theorem State.accErr_die (s : State) (m : Nat) : (s.accErr m).die = s.die := rfl
@[simp] theorem State.accErr_mode (s : State) (m : Nat) : (s.accErr m).mode = s.mode := rfl
@[simp] theorem State.accErr_carry (s : State) (m : Nat) : (s.accErr m).carry = s.carry := rfl
@[simp] theorem State.accErr_link0 (s : State) (m : Nat) : (s.accErr m).link0 = s.link0 := rfl
@[simp] theorem State.accErr_link1 (s : State) (m : Nat) : (s.accErr m).link1 = s.link1 := rfl
@[simp] theorem State.accErr_queues (s : State) (m : Nat) : (s.accErr m).queues = s.queues := rfl
@[simp] theorem State.accErr_turn (s : State) (m : Nat) : (s.accErr m).turn = s.turn := rfl
@[simp] theorem State.accErr_chans (s : State) (m : Nat) : (s.accErr m).chans = s.chans := rfl
@[simp] theorem State.accErr_parkSeq (s : State) (m : Nat) : (s.accErr m).parkSeq = s.parkSeq := rfl
@[simp] theorem State.accErr_classes (s : State) (m : Nat) : (s.accErr m).classes = s.classes := rfl
@[simp] theorem State.accErr_frm (s : State) (m : Nat) : (s.accErr m).frm = s.frm := rfl
@[simp] theorem State.accErr_cores (s : State) (m : Nat) : (s.accErr m).cores = s.cores := rfl
@[simp] theorem State.accErr_libs (s : State) (m : Nat) : (s.accErr m).libs = s.libs := rfl
@[simp] theorem State.accErr_hawk (s : State) (m : Nat) : (s.accErr m).hawk = s.hawk := rfl
@[simp] theorem State.accErr_mbxs (s : State) (m : Nat) : (s.accErr m).mbxs = s.mbxs := rfl
@[simp] theorem State.accErr_sendRes (s : State) (m : Nat) : (s.accErr m).sendRes = s.sendRes := rfl
@[simp] theorem State.accErr_sems (s : State) (m : Nat) : (s.accErr m).sems = s.sems := rfl
@[simp] theorem State.accErr_scrs (s : State) (m : Nat) : (s.accErr m).scrs = s.scrs := rfl
@[simp] theorem State.accErr_srcs (s : State) (m : Nat) : (s.accErr m).srcs = s.srcs := rfl
@[simp] theorem State.accErr_vmods (s : State) (m : Nat) : (s.accErr m).vmods = s.vmods := rfl
@[simp] theorem State.accErr_batches (s : State) (m : Nat) : (s.accErr m).batches = s.batches := rfl
@[simp] theorem State.accErr_targets (s : State) (m : Nat) : (s.accErr m).targets = s.targets := rfl
@[simp] theorem State.accErr_ports (s : State) (m : Nat) : (s.accErr m).ports = s.ports := rfl
@[simp] theorem State.accErr_aq (s : State) (m : Nat) : (s.accErr m).aq = s.aq := rfl
@[simp] theorem State.accErr_commits (s : State) (m : Nat) : (s.accErr m).commits = s.commits := rfl
@[simp] theorem State.accErr_journal (s : State) (m : Nat) : (s.accErr m).journal = s.journal := rfl
@[simp] theorem State.accErr_jheld (s : State) (m : Nat) : (s.accErr m).jheld = s.jheld := rfl
@[simp] theorem State.accErr_jseq (s : State) (m : Nat) : (s.accErr m).jseq = s.jseq := rfl
@[simp] theorem State.accErr_late (s : State) (m : Nat) : (s.accErr m).late = s.late := rfl
@[simp] theorem State.accErr_turns (s : State) (m : Nat) : (s.accErr m).turns = s.turns := rfl
@[simp] theorem State.accErr_mled (s : State) (m : Nat) : (s.accErr m).mled = s.mled := rfl
@[simp] theorem State.accErr_prm (s : State) (m : Nat) : (s.accErr m).prm = s.prm := rfl
@[simp] theorem State.accErr_pwr (s : State) (m : Nat) : (s.accErr m).pwr = s.pwr := rfl
@[simp] theorem State.accErr_hold (s : State) (m : Nat) : (s.accErr m).hold = s.hold := rfl
@[simp] theorem State.accErr_ds (s : State) (m : Nat) : (s.accErr m).ds = s.ds := rfl
@[simp] theorem State.accErr_ledger (s : State) (m : Nat) : (s.accErr m).ledger = s.ledger := rfl
@[simp] theorem State.accErr_kmd (s : State) (m : Nat) : (s.accErr m).kmd = s.kmd := rfl
@[simp] theorem State.accErr_tap (s : State) (m : Nat) : (s.accErr m).tap = s.tap := rfl
@[simp] theorem State.accErr_lowHeld (s : State) (m : Nat) : (s.accErr m).lowHeld = s.lowHeld := rfl
@[simp] theorem State.accErr_upKept (s : State) (m : Nat) : (s.accErr m).upKept = s.upKept := rfl
@[simp] theorem State.accErr_wakeOut (s : State) (m : Nat) : (s.accErr m).wakeOut = s.wakeOut := rfl
@[simp] theorem State.accErr_porLow (s : State) (m : Nat) : (s.accErr m).porLow = s.porLow := rfl
@[simp] theorem State.accErr_warmLow (s : State) (m : Nat) : (s.accErr m).warmLow = s.warmLow := rfl
@[simp] theorem State.accErr_readOut (s : State) (m : Nat) : (s.accErr m).readOut = s.readOut := rfl
@[simp] theorem State.accErr_readData (s : State) (m : Nat) : (s.accErr m).readData = s.readData := rfl
@[simp] theorem State.accErr_eccCount (s : State) (m : Nat) : (s.accErr m).eccCount = s.eccCount := rfl
@[simp] theorem State.accErr_freeNext (s : State) (m : Nat) : (s.accErr m).freeNext = s.freeNext := rfl
@[simp] theorem State.q_accErr (s : State) (m : Nat) (i : Nat) : (s.accErr m).q i = s.q i := rfl
@[simp] theorem State.chan_accErr (s : State) (m : Nat) (i : Nat) : (s.accErr m).chan i = s.chan i := rfl
@[simp] theorem State.cls_accErr (s : State) (m : Nat) (i : Nat) : (s.accErr m).cls i = s.cls i := rfl
@[simp] theorem State.core_accErr (s : State) (m : Nat) (i : Nat) : (s.accErr m).core i = s.core i := rfl
@[simp] theorem State.lib_accErr (s : State) (m : Nat) (i : Nat) : (s.accErr m).lib i = s.lib i := rfl
@[simp] theorem State.mbx_accErr (s : State) (m : Nat) (i : Nat) : (s.accErr m).mbx i = s.mbx i := rfl
@[simp] theorem State.sem_accErr (s : State) (m : Nat) (i : Nat) : (s.accErr m).sem i = s.sem i := rfl
@[simp] theorem State.scr_accErr (s : State) (m : Nat) (i : Nat) : (s.accErr m).scr i = s.scr i := rfl
@[simp] theorem State.src_accErr (s : State) (m : Nat) (i : Nat) : (s.accErr m).src i = s.src i := rfl
@[simp] theorem State.target_accErr (s : State) (m : Nat) (i : Nat) : (s.accErr m).target i = s.target i := rfl
@[simp] theorem State.port_accErr (s : State) (m : Nat) (i : Nat) : (s.accErr m).port i = s.port i := rfl

/-! ### A power domain -/

@[simp] theorem State.updDom_pending (s : State) (d : Nat) (f : Dom → Dom) : (s.updDom d f).pending = s.pending := rfl
@[simp] theorem State.updDom_mem (s : State) (d : Nat) (f : Dom → Dom) : (s.updDom d f).mem = s.mem := rfl
@[simp] theorem State.updDom_die (s : State) (d : Nat) (f : Dom → Dom) : (s.updDom d f).die = s.die := rfl
@[simp] theorem State.updDom_mode (s : State) (d : Nat) (f : Dom → Dom) : (s.updDom d f).mode = s.mode := rfl
@[simp] theorem State.updDom_carry (s : State) (d : Nat) (f : Dom → Dom) : (s.updDom d f).carry = s.carry := rfl
@[simp] theorem State.updDom_link0 (s : State) (d : Nat) (f : Dom → Dom) : (s.updDom d f).link0 = s.link0 := rfl
@[simp] theorem State.updDom_link1 (s : State) (d : Nat) (f : Dom → Dom) : (s.updDom d f).link1 = s.link1 := rfl
@[simp] theorem State.updDom_gctl (s : State) (d : Nat) (f : Dom → Dom) : (s.updDom d f).gctl = s.gctl := rfl
@[simp] theorem State.updDom_queues (s : State) (d : Nat) (f : Dom → Dom) : (s.updDom d f).queues = s.queues := rfl
@[simp] theorem State.updDom_turn (s : State) (d : Nat) (f : Dom → Dom) : (s.updDom d f).turn = s.turn := rfl
@[simp] theorem State.updDom_chans (s : State) (d : Nat) (f : Dom → Dom) : (s.updDom d f).chans = s.chans := rfl
@[simp] theorem State.updDom_parkSeq (s : State) (d : Nat) (f : Dom → Dom) : (s.updDom d f).parkSeq = s.parkSeq := rfl
@[simp] theorem State.updDom_classes (s : State) (d : Nat) (f : Dom → Dom) : (s.updDom d f).classes = s.classes := rfl
@[simp] theorem State.updDom_frm (s : State) (d : Nat) (f : Dom → Dom) : (s.updDom d f).frm = s.frm := rfl
@[simp] theorem State.updDom_cores (s : State) (d : Nat) (f : Dom → Dom) : (s.updDom d f).cores = s.cores := rfl
@[simp] theorem State.updDom_libs (s : State) (d : Nat) (f : Dom → Dom) : (s.updDom d f).libs = s.libs := rfl
@[simp] theorem State.updDom_hawk (s : State) (d : Nat) (f : Dom → Dom) : (s.updDom d f).hawk = s.hawk := rfl
@[simp] theorem State.updDom_mbxs (s : State) (d : Nat) (f : Dom → Dom) : (s.updDom d f).mbxs = s.mbxs := rfl
@[simp] theorem State.updDom_sendRes (s : State) (d : Nat) (f : Dom → Dom) : (s.updDom d f).sendRes = s.sendRes := rfl
@[simp] theorem State.updDom_sems (s : State) (d : Nat) (f : Dom → Dom) : (s.updDom d f).sems = s.sems := rfl
@[simp] theorem State.updDom_scrs (s : State) (d : Nat) (f : Dom → Dom) : (s.updDom d f).scrs = s.scrs := rfl
@[simp] theorem State.updDom_srcs (s : State) (d : Nat) (f : Dom → Dom) : (s.updDom d f).srcs = s.srcs := rfl
@[simp] theorem State.updDom_vmods (s : State) (d : Nat) (f : Dom → Dom) : (s.updDom d f).vmods = s.vmods := rfl
@[simp] theorem State.updDom_batches (s : State) (d : Nat) (f : Dom → Dom) : (s.updDom d f).batches = s.batches := rfl
@[simp] theorem State.updDom_targets (s : State) (d : Nat) (f : Dom → Dom) : (s.updDom d f).targets = s.targets := rfl
@[simp] theorem State.updDom_ports (s : State) (d : Nat) (f : Dom → Dom) : (s.updDom d f).ports = s.ports := rfl
@[simp] theorem State.updDom_aq (s : State) (d : Nat) (f : Dom → Dom) : (s.updDom d f).aq = s.aq := rfl
@[simp] theorem State.updDom_commits (s : State) (d : Nat) (f : Dom → Dom) : (s.updDom d f).commits = s.commits := rfl
@[simp] theorem State.updDom_journal (s : State) (d : Nat) (f : Dom → Dom) : (s.updDom d f).journal = s.journal := rfl
@[simp] theorem State.updDom_jheld (s : State) (d : Nat) (f : Dom → Dom) : (s.updDom d f).jheld = s.jheld := rfl
@[simp] theorem State.updDom_jseq (s : State) (d : Nat) (f : Dom → Dom) : (s.updDom d f).jseq = s.jseq := rfl
@[simp] theorem State.updDom_late (s : State) (d : Nat) (f : Dom → Dom) : (s.updDom d f).late = s.late := rfl
@[simp] theorem State.updDom_turns (s : State) (d : Nat) (f : Dom → Dom) : (s.updDom d f).turns = s.turns := rfl
@[simp] theorem State.updDom_mled (s : State) (d : Nat) (f : Dom → Dom) : (s.updDom d f).mled = s.mled := rfl
@[simp] theorem State.updDom_prm (s : State) (d : Nat) (f : Dom → Dom) : (s.updDom d f).prm = s.prm := rfl
@[simp] theorem State.updDom_hold (s : State) (d : Nat) (f : Dom → Dom) : (s.updDom d f).hold = s.hold := rfl
@[simp] theorem State.updDom_ds (s : State) (d : Nat) (f : Dom → Dom) : (s.updDom d f).ds = s.ds := rfl
@[simp] theorem State.updDom_ledger (s : State) (d : Nat) (f : Dom → Dom) : (s.updDom d f).ledger = s.ledger := rfl
@[simp] theorem State.updDom_kmd (s : State) (d : Nat) (f : Dom → Dom) : (s.updDom d f).kmd = s.kmd := rfl
@[simp] theorem State.updDom_tap (s : State) (d : Nat) (f : Dom → Dom) : (s.updDom d f).tap = s.tap := rfl
@[simp] theorem State.updDom_lowHeld (s : State) (d : Nat) (f : Dom → Dom) : (s.updDom d f).lowHeld = s.lowHeld := rfl
@[simp] theorem State.updDom_upKept (s : State) (d : Nat) (f : Dom → Dom) : (s.updDom d f).upKept = s.upKept := rfl
@[simp] theorem State.updDom_wakeOut (s : State) (d : Nat) (f : Dom → Dom) : (s.updDom d f).wakeOut = s.wakeOut := rfl
@[simp] theorem State.updDom_porLow (s : State) (d : Nat) (f : Dom → Dom) : (s.updDom d f).porLow = s.porLow := rfl
@[simp] theorem State.updDom_warmLow (s : State) (d : Nat) (f : Dom → Dom) : (s.updDom d f).warmLow = s.warmLow := rfl
@[simp] theorem State.updDom_readOut (s : State) (d : Nat) (f : Dom → Dom) : (s.updDom d f).readOut = s.readOut := rfl
@[simp] theorem State.updDom_readData (s : State) (d : Nat) (f : Dom → Dom) : (s.updDom d f).readData = s.readData := rfl
@[simp] theorem State.updDom_eccCount (s : State) (d : Nat) (f : Dom → Dom) : (s.updDom d f).eccCount = s.eccCount := rfl
@[simp] theorem State.updDom_freeNext (s : State) (d : Nat) (f : Dom → Dom) : (s.updDom d f).freeNext = s.freeNext := rfl
@[simp] theorem State.q_updDom (s : State) (d : Nat) (f : Dom → Dom) (i : Nat) : (s.updDom d f).q i = s.q i := rfl
@[simp] theorem State.chan_updDom (s : State) (d : Nat) (f : Dom → Dom) (i : Nat) : (s.updDom d f).chan i = s.chan i := rfl
@[simp] theorem State.cls_updDom (s : State) (d : Nat) (f : Dom → Dom) (i : Nat) : (s.updDom d f).cls i = s.cls i := rfl
@[simp] theorem State.core_updDom (s : State) (d : Nat) (f : Dom → Dom) (i : Nat) : (s.updDom d f).core i = s.core i := rfl
@[simp] theorem State.lib_updDom (s : State) (d : Nat) (f : Dom → Dom) (i : Nat) : (s.updDom d f).lib i = s.lib i := rfl
@[simp] theorem State.mbx_updDom (s : State) (d : Nat) (f : Dom → Dom) (i : Nat) : (s.updDom d f).mbx i = s.mbx i := rfl
@[simp] theorem State.sem_updDom (s : State) (d : Nat) (f : Dom → Dom) (i : Nat) : (s.updDom d f).sem i = s.sem i := rfl
@[simp] theorem State.scr_updDom (s : State) (d : Nat) (f : Dom → Dom) (i : Nat) : (s.updDom d f).scr i = s.scr i := rfl
@[simp] theorem State.src_updDom (s : State) (d : Nat) (f : Dom → Dom) (i : Nat) : (s.updDom d f).src i = s.src i := rfl
@[simp] theorem State.target_updDom (s : State) (d : Nat) (f : Dom → Dom) (i : Nat) : (s.updDom d f).target i = s.target i := rfl
@[simp] theorem State.port_updDom (s : State) (d : Nat) (f : Dom → Dom) (i : Nat) : (s.updDom d f).port i = s.port i := rfl

@[simp] theorem State.dom_updDom (s : State) (d : Nat) (f : Dom → Dom) : (s.updDom d f).dom d = f (s.dom d) :=
  Table.get_set_same _ _ _ _

/-! ### A module -/

@[simp] theorem State.setLink_pending (s : State) (md : Nat) (l : Link) : (s.setLink md l).pending = s.pending := by unfold State.setLink; split <;> rfl
@[simp] theorem State.setLink_mem (s : State) (md : Nat) (l : Link) : (s.setLink md l).mem = s.mem := by unfold State.setLink; split <;> rfl
@[simp] theorem State.setLink_die (s : State) (md : Nat) (l : Link) : (s.setLink md l).die = s.die := by unfold State.setLink; split <;> rfl
@[simp] theorem State.setLink_mode (s : State) (md : Nat) (l : Link) : (s.setLink md l).mode = s.mode := by unfold State.setLink; split <;> rfl
@[simp] theorem State.setLink_carry (s : State) (md : Nat) (l : Link) : (s.setLink md l).carry = s.carry := by unfold State.setLink; split <;> rfl
@[simp] theorem State.setLink_gctl (s : State) (md : Nat) (l : Link) : (s.setLink md l).gctl = s.gctl := by unfold State.setLink; split <;> rfl
@[simp] theorem State.setLink_queues (s : State) (md : Nat) (l : Link) : (s.setLink md l).queues = s.queues := by unfold State.setLink; split <;> rfl
@[simp] theorem State.setLink_turn (s : State) (md : Nat) (l : Link) : (s.setLink md l).turn = s.turn := by unfold State.setLink; split <;> rfl
@[simp] theorem State.setLink_chans (s : State) (md : Nat) (l : Link) : (s.setLink md l).chans = s.chans := by unfold State.setLink; split <;> rfl
@[simp] theorem State.setLink_parkSeq (s : State) (md : Nat) (l : Link) : (s.setLink md l).parkSeq = s.parkSeq := by unfold State.setLink; split <;> rfl
@[simp] theorem State.setLink_classes (s : State) (md : Nat) (l : Link) : (s.setLink md l).classes = s.classes := by unfold State.setLink; split <;> rfl
@[simp] theorem State.setLink_frm (s : State) (md : Nat) (l : Link) : (s.setLink md l).frm = s.frm := by unfold State.setLink; split <;> rfl
@[simp] theorem State.setLink_cores (s : State) (md : Nat) (l : Link) : (s.setLink md l).cores = s.cores := by unfold State.setLink; split <;> rfl
@[simp] theorem State.setLink_libs (s : State) (md : Nat) (l : Link) : (s.setLink md l).libs = s.libs := by unfold State.setLink; split <;> rfl
@[simp] theorem State.setLink_hawk (s : State) (md : Nat) (l : Link) : (s.setLink md l).hawk = s.hawk := by unfold State.setLink; split <;> rfl
@[simp] theorem State.setLink_mbxs (s : State) (md : Nat) (l : Link) : (s.setLink md l).mbxs = s.mbxs := by unfold State.setLink; split <;> rfl
@[simp] theorem State.setLink_sendRes (s : State) (md : Nat) (l : Link) : (s.setLink md l).sendRes = s.sendRes := by unfold State.setLink; split <;> rfl
@[simp] theorem State.setLink_sems (s : State) (md : Nat) (l : Link) : (s.setLink md l).sems = s.sems := by unfold State.setLink; split <;> rfl
@[simp] theorem State.setLink_scrs (s : State) (md : Nat) (l : Link) : (s.setLink md l).scrs = s.scrs := by unfold State.setLink; split <;> rfl
@[simp] theorem State.setLink_srcs (s : State) (md : Nat) (l : Link) : (s.setLink md l).srcs = s.srcs := by unfold State.setLink; split <;> rfl
@[simp] theorem State.setLink_vmods (s : State) (md : Nat) (l : Link) : (s.setLink md l).vmods = s.vmods := by unfold State.setLink; split <;> rfl
@[simp] theorem State.setLink_batches (s : State) (md : Nat) (l : Link) : (s.setLink md l).batches = s.batches := by unfold State.setLink; split <;> rfl
@[simp] theorem State.setLink_targets (s : State) (md : Nat) (l : Link) : (s.setLink md l).targets = s.targets := by unfold State.setLink; split <;> rfl
@[simp] theorem State.setLink_ports (s : State) (md : Nat) (l : Link) : (s.setLink md l).ports = s.ports := by unfold State.setLink; split <;> rfl
@[simp] theorem State.setLink_aq (s : State) (md : Nat) (l : Link) : (s.setLink md l).aq = s.aq := by unfold State.setLink; split <;> rfl
@[simp] theorem State.setLink_commits (s : State) (md : Nat) (l : Link) : (s.setLink md l).commits = s.commits := by unfold State.setLink; split <;> rfl
@[simp] theorem State.setLink_journal (s : State) (md : Nat) (l : Link) : (s.setLink md l).journal = s.journal := by unfold State.setLink; split <;> rfl
@[simp] theorem State.setLink_jheld (s : State) (md : Nat) (l : Link) : (s.setLink md l).jheld = s.jheld := by unfold State.setLink; split <;> rfl
@[simp] theorem State.setLink_jseq (s : State) (md : Nat) (l : Link) : (s.setLink md l).jseq = s.jseq := by unfold State.setLink; split <;> rfl
@[simp] theorem State.setLink_late (s : State) (md : Nat) (l : Link) : (s.setLink md l).late = s.late := by unfold State.setLink; split <;> rfl
@[simp] theorem State.setLink_turns (s : State) (md : Nat) (l : Link) : (s.setLink md l).turns = s.turns := by unfold State.setLink; split <;> rfl
@[simp] theorem State.setLink_mled (s : State) (md : Nat) (l : Link) : (s.setLink md l).mled = s.mled := by unfold State.setLink; split <;> rfl
@[simp] theorem State.setLink_prm (s : State) (md : Nat) (l : Link) : (s.setLink md l).prm = s.prm := by unfold State.setLink; split <;> rfl
@[simp] theorem State.setLink_pwr (s : State) (md : Nat) (l : Link) : (s.setLink md l).pwr = s.pwr := by unfold State.setLink; split <;> rfl
@[simp] theorem State.setLink_hold (s : State) (md : Nat) (l : Link) : (s.setLink md l).hold = s.hold := by unfold State.setLink; split <;> rfl
@[simp] theorem State.setLink_ds (s : State) (md : Nat) (l : Link) : (s.setLink md l).ds = s.ds := by unfold State.setLink; split <;> rfl
@[simp] theorem State.setLink_ledger (s : State) (md : Nat) (l : Link) : (s.setLink md l).ledger = s.ledger := by unfold State.setLink; split <;> rfl
@[simp] theorem State.setLink_kmd (s : State) (md : Nat) (l : Link) : (s.setLink md l).kmd = s.kmd := by unfold State.setLink; split <;> rfl
@[simp] theorem State.setLink_tap (s : State) (md : Nat) (l : Link) : (s.setLink md l).tap = s.tap := by unfold State.setLink; split <;> rfl
@[simp] theorem State.setLink_lowHeld (s : State) (md : Nat) (l : Link) : (s.setLink md l).lowHeld = s.lowHeld := by unfold State.setLink; split <;> rfl
@[simp] theorem State.setLink_upKept (s : State) (md : Nat) (l : Link) : (s.setLink md l).upKept = s.upKept := by unfold State.setLink; split <;> rfl
@[simp] theorem State.setLink_wakeOut (s : State) (md : Nat) (l : Link) : (s.setLink md l).wakeOut = s.wakeOut := by unfold State.setLink; split <;> rfl
@[simp] theorem State.setLink_porLow (s : State) (md : Nat) (l : Link) : (s.setLink md l).porLow = s.porLow := by unfold State.setLink; split <;> rfl
@[simp] theorem State.setLink_warmLow (s : State) (md : Nat) (l : Link) : (s.setLink md l).warmLow = s.warmLow := by unfold State.setLink; split <;> rfl
@[simp] theorem State.setLink_readOut (s : State) (md : Nat) (l : Link) : (s.setLink md l).readOut = s.readOut := by unfold State.setLink; split <;> rfl
@[simp] theorem State.setLink_readData (s : State) (md : Nat) (l : Link) : (s.setLink md l).readData = s.readData := by unfold State.setLink; split <;> rfl
@[simp] theorem State.setLink_eccCount (s : State) (md : Nat) (l : Link) : (s.setLink md l).eccCount = s.eccCount := by unfold State.setLink; split <;> rfl
@[simp] theorem State.setLink_freeNext (s : State) (md : Nat) (l : Link) : (s.setLink md l).freeNext = s.freeNext := by unfold State.setLink; split <;> rfl
@[simp] theorem State.link_setLink (s : State) (md : Nat) (l : Link) : (s.setLink md l).link md = l := by
  unfold State.setLink State.link
  split <;> rfl

/-! ### A context -/

@[simp] theorem State.ctx_setCtx (s : State) (n k : Nat) (x : Ctx) : (s.setCtx n k x).ctx n k = x := by
  unfold State.setCtx State.ctx
  rw [State.updCore_def, State.core_setCore]
  exact Table.get_set_same _ _ _ _

theorem State.ctx_setCtx_ne (s : State) (n k j : Nat) (x : Ctx) (h : j ≠ k) : (s.setCtx n k x).ctx n j = s.ctx n j := by
  unfold State.setCtx State.ctx
  rw [State.updCore_def, State.core_setCore]
  exact Table.get_set_ne _ _ _ h

@[simp] theorem State.setCtx_pending (s : State) (n k : Nat) (x : Ctx) : (s.setCtx n k x).pending = s.pending := rfl
@[simp] theorem State.setCtx_mem (s : State) (n k : Nat) (x : Ctx) : (s.setCtx n k x).mem = s.mem := rfl
@[simp] theorem State.setCtx_die (s : State) (n k : Nat) (x : Ctx) : (s.setCtx n k x).die = s.die := rfl
@[simp] theorem State.setCtx_mode (s : State) (n k : Nat) (x : Ctx) : (s.setCtx n k x).mode = s.mode := rfl
@[simp] theorem State.setCtx_carry (s : State) (n k : Nat) (x : Ctx) : (s.setCtx n k x).carry = s.carry := rfl
@[simp] theorem State.setCtx_link0 (s : State) (n k : Nat) (x : Ctx) : (s.setCtx n k x).link0 = s.link0 := rfl
@[simp] theorem State.setCtx_link1 (s : State) (n k : Nat) (x : Ctx) : (s.setCtx n k x).link1 = s.link1 := rfl
@[simp] theorem State.setCtx_gctl (s : State) (n k : Nat) (x : Ctx) : (s.setCtx n k x).gctl = s.gctl := rfl
@[simp] theorem State.setCtx_queues (s : State) (n k : Nat) (x : Ctx) : (s.setCtx n k x).queues = s.queues := rfl
@[simp] theorem State.setCtx_turn (s : State) (n k : Nat) (x : Ctx) : (s.setCtx n k x).turn = s.turn := rfl
@[simp] theorem State.setCtx_chans (s : State) (n k : Nat) (x : Ctx) : (s.setCtx n k x).chans = s.chans := rfl
@[simp] theorem State.setCtx_parkSeq (s : State) (n k : Nat) (x : Ctx) : (s.setCtx n k x).parkSeq = s.parkSeq := rfl
@[simp] theorem State.setCtx_classes (s : State) (n k : Nat) (x : Ctx) : (s.setCtx n k x).classes = s.classes := rfl
@[simp] theorem State.setCtx_frm (s : State) (n k : Nat) (x : Ctx) : (s.setCtx n k x).frm = s.frm := rfl
@[simp] theorem State.setCtx_libs (s : State) (n k : Nat) (x : Ctx) : (s.setCtx n k x).libs = s.libs := rfl
@[simp] theorem State.setCtx_hawk (s : State) (n k : Nat) (x : Ctx) : (s.setCtx n k x).hawk = s.hawk := rfl
@[simp] theorem State.setCtx_mbxs (s : State) (n k : Nat) (x : Ctx) : (s.setCtx n k x).mbxs = s.mbxs := rfl
@[simp] theorem State.setCtx_sendRes (s : State) (n k : Nat) (x : Ctx) : (s.setCtx n k x).sendRes = s.sendRes := rfl
@[simp] theorem State.setCtx_sems (s : State) (n k : Nat) (x : Ctx) : (s.setCtx n k x).sems = s.sems := rfl
@[simp] theorem State.setCtx_scrs (s : State) (n k : Nat) (x : Ctx) : (s.setCtx n k x).scrs = s.scrs := rfl
@[simp] theorem State.setCtx_srcs (s : State) (n k : Nat) (x : Ctx) : (s.setCtx n k x).srcs = s.srcs := rfl
@[simp] theorem State.setCtx_vmods (s : State) (n k : Nat) (x : Ctx) : (s.setCtx n k x).vmods = s.vmods := rfl
@[simp] theorem State.setCtx_batches (s : State) (n k : Nat) (x : Ctx) : (s.setCtx n k x).batches = s.batches := rfl
@[simp] theorem State.setCtx_targets (s : State) (n k : Nat) (x : Ctx) : (s.setCtx n k x).targets = s.targets := rfl
@[simp] theorem State.setCtx_ports (s : State) (n k : Nat) (x : Ctx) : (s.setCtx n k x).ports = s.ports := rfl
@[simp] theorem State.setCtx_aq (s : State) (n k : Nat) (x : Ctx) : (s.setCtx n k x).aq = s.aq := rfl
@[simp] theorem State.setCtx_commits (s : State) (n k : Nat) (x : Ctx) : (s.setCtx n k x).commits = s.commits := rfl
@[simp] theorem State.setCtx_journal (s : State) (n k : Nat) (x : Ctx) : (s.setCtx n k x).journal = s.journal := rfl
@[simp] theorem State.setCtx_jheld (s : State) (n k : Nat) (x : Ctx) : (s.setCtx n k x).jheld = s.jheld := rfl
@[simp] theorem State.setCtx_jseq (s : State) (n k : Nat) (x : Ctx) : (s.setCtx n k x).jseq = s.jseq := rfl
@[simp] theorem State.setCtx_late (s : State) (n k : Nat) (x : Ctx) : (s.setCtx n k x).late = s.late := rfl
@[simp] theorem State.setCtx_turns (s : State) (n k : Nat) (x : Ctx) : (s.setCtx n k x).turns = s.turns := rfl
@[simp] theorem State.setCtx_mled (s : State) (n k : Nat) (x : Ctx) : (s.setCtx n k x).mled = s.mled := rfl
@[simp] theorem State.setCtx_prm (s : State) (n k : Nat) (x : Ctx) : (s.setCtx n k x).prm = s.prm := rfl
@[simp] theorem State.setCtx_pwr (s : State) (n k : Nat) (x : Ctx) : (s.setCtx n k x).pwr = s.pwr := rfl
@[simp] theorem State.setCtx_hold (s : State) (n k : Nat) (x : Ctx) : (s.setCtx n k x).hold = s.hold := rfl
@[simp] theorem State.setCtx_ds (s : State) (n k : Nat) (x : Ctx) : (s.setCtx n k x).ds = s.ds := rfl
@[simp] theorem State.setCtx_ledger (s : State) (n k : Nat) (x : Ctx) : (s.setCtx n k x).ledger = s.ledger := rfl
@[simp] theorem State.setCtx_kmd (s : State) (n k : Nat) (x : Ctx) : (s.setCtx n k x).kmd = s.kmd := rfl
@[simp] theorem State.setCtx_tap (s : State) (n k : Nat) (x : Ctx) : (s.setCtx n k x).tap = s.tap := rfl
@[simp] theorem State.setCtx_lowHeld (s : State) (n k : Nat) (x : Ctx) : (s.setCtx n k x).lowHeld = s.lowHeld := rfl
@[simp] theorem State.setCtx_upKept (s : State) (n k : Nat) (x : Ctx) : (s.setCtx n k x).upKept = s.upKept := rfl
@[simp] theorem State.setCtx_wakeOut (s : State) (n k : Nat) (x : Ctx) : (s.setCtx n k x).wakeOut = s.wakeOut := rfl
@[simp] theorem State.setCtx_porLow (s : State) (n k : Nat) (x : Ctx) : (s.setCtx n k x).porLow = s.porLow := rfl
@[simp] theorem State.setCtx_warmLow (s : State) (n k : Nat) (x : Ctx) : (s.setCtx n k x).warmLow = s.warmLow := rfl
@[simp] theorem State.setCtx_readOut (s : State) (n k : Nat) (x : Ctx) : (s.setCtx n k x).readOut = s.readOut := rfl
@[simp] theorem State.setCtx_readData (s : State) (n k : Nat) (x : Ctx) : (s.setCtx n k x).readData = s.readData := rfl
@[simp] theorem State.setCtx_eccCount (s : State) (n k : Nat) (x : Ctx) : (s.setCtx n k x).eccCount = s.eccCount := rfl
@[simp] theorem State.setCtx_freeNext (s : State) (n k : Nat) (x : Ctx) : (s.setCtx n k x).freeNext = s.freeNext := rfl

end Sys2Proof.Machine
end

