-- ==== Sys2Proof/Laws/Emits.lean ====
section
/-! SUPPORT. The operations that carry an outcome out of the block (records, head records, interrupt sources, the journal, frames to the
partner) leave the queues, too, but for those of Laws/Reports.lean. -/

namespace Sys2Proof.Machine
open Sys2Proof

/-- From s to t only the egress of the modules, interrupt sources with their batches and wakes, the journal, the count of refused accesses
and the frames to the partner have changed. -/
def Emits (s t : State) : Prop :=
  t = { s with link0 := t.link0, link1 := t.link1, gctl := t.gctl, srcs := t.srcs, batches := t.batches, journal := t.journal,
               jheld := t.jheld, jseq := t.jseq, late := t.late, pwr := t.pwr, ds := t.ds, wakeOut := t.wakeOut }

theorem Emits.refl (s : State) : Emits s s := rfl

theorem Emits.trans {r s t : State} (h : Emits r s) (g : Emits s t) : Emits r t := by
  unfold Emits at *
  rw [h] at g
  exact g

/-- An update of fields that reports change. -/
theorem Emits.upd {r0 s : State} (h : Emits r0 s) {x5 x6 x7 x21 x23 x28 x29 x30 x31 x35 x37 x43} :
    Emits r0 (State.mk s.pending s.mem s.die s.mode s.carry x5 x6 x7 s.queues s.turn s.chans s.parkSeq s.classes s.frm s.cores s.libs s.hawk s.mbxs s.sendRes s.sems s.scrs x21 s.vmods x23 s.targets s.ports s.aq s.commits x28 x29 x30 x31 s.turns s.mled s.prm x35 s.hold x37 s.ledger s.kmd s.tap s.lowHeld s.upKept x43 s.porLow s.warmLow s.readOut s.readData s.eccCount s.freeNext) := by
  unfold Emits at *
  rw [h]

theorem Emits.foldl {α : Type} {r0 s : State} {f : State → α → State} (l : List α) (hf : ∀ t a, Emits r0 t → Emits r0 (f t a))
    (h : Emits r0 s) : Emits r0 (l.foldl f s) := by
  induction l generalizing s with
  | nil => exact h
  | cons a r ih => exact ih (hf _ _ h)

theorem Emits.elim {α : Type} {r0 a : State} {o : Option α} {f : α → State} (h : Emits r0 a) (g : ∀ x, Emits r0 (f x)) :
    Emits r0 (o.elim a f) := by
  cases o with
  | none => exact h
  | some x => exact g x

theorem Emits.ite {r0 a b : State} {c : Prop} [Decidable c] (h : Emits r0 a) (g : Emits r0 b) : Emits r0 (if c then a else b) := by
  split <;> assumption

theorem Emits.queues {s t : State} (h : Emits s t) : t.queues = s.queues := by rw [h]

theorem Emits.q {s t : State} (h : Emits s t) (n : Nat) : t.q n = s.q n := by unfold State.q; rw [h.queues]

theorem Emits.reports {s t : State} (h : Emits s t) : Reports s t := by unfold Emits Reports at *; rw [h]

theorem State.each_emits {r0 : State} {α : Type} (s : State) (l : List α) (f : State → α → State)
    (hf : ∀ t a, Emits r0 t → Emits r0 (f t a)) (h : Emits r0 s) : Emits r0 (s.each l f) := Emits.foldl l hf h

theorem State.setSrc_emits {r0 : State} (s : State) (n : Nat) (x : Src) (kp : Emits r0 s) :
    Emits r0 (State.setSrc s n x) := by
  unfold State.setSrc
  repeat' first
    | with_reducible assumption
    | intro _
    | with_reducible apply Emits.ite
    | (lift_lets; intro _)
    | split
    | dsimp only
    | fail_if_no_progress with_reducible apply Emits.upd
    | dsimp +zetaDelta only

theorem State.updSrc_emits {r0 : State} (s : State) (n : Nat) (f : Src → Src) (kp : Emits r0 s) :
    Emits r0 (State.updSrc s n f) := by
  unfold State.updSrc
  repeat' first
    | with_reducible assumption
    | intro _
    | with_reducible apply State.setSrc_emits
    | with_reducible apply Emits.ite
    | (lift_lets; intro _)
    | split
    | dsimp only
    | fail_if_no_progress with_reducible apply Emits.upd
    | dsimp +zetaDelta only

theorem State.setLink_emits {r0 : State} (s : State) (md : Nat) (l : Link) (kp : Emits r0 s) :
    Emits r0 (State.setLink s md l) := by
  unfold State.setLink
  repeat' first
    | with_reducible assumption
    | intro _
    | with_reducible apply Emits.ite
    | (lift_lets; intro _)
    | split
    | dsimp only
    | fail_if_no_progress with_reducible apply Emits.upd
    | dsimp +zetaDelta only

theorem State.updLink_emits {r0 : State} (s : State) (md : Nat) (f : Link → Link) (kp : Emits r0 s) :
    Emits r0 (State.updLink s md f) := by
  unfold State.updLink
  repeat' first
    | with_reducible assumption
    | intro _
    | with_reducible apply State.setLink_emits
    | with_reducible apply Emits.ite
    | (lift_lets; intro _)
    | split
    | dsimp only
    | fail_if_no_progress with_reducible apply Emits.upd
    | dsimp +zetaDelta only

theorem State.updCfg_emits {r0 : State} (s : State) (md : Nat) (f : LinkCfg → LinkCfg) (kp : Emits r0 s) :
    Emits r0 (State.updCfg s md f) := by
  unfold State.updCfg
  repeat' first
    | with_reducible assumption
    | intro _
    | with_reducible apply State.updLink_emits
    | with_reducible apply Emits.ite
    | (lift_lets; intro _)
    | split
    | dsimp only
    | fail_if_no_progress with_reducible apply Emits.upd
    | dsimp +zetaDelta only

theorem State.updDom_emits {r0 : State} (s : State) (d : Nat) (f : Dom → Dom) (kp : Emits r0 s) :
    Emits r0 (State.updDom s d f) := by
  unfold State.updDom
  repeat' first
    | with_reducible assumption
    | intro _
    | with_reducible apply Emits.ite
    | (lift_lets; intro _)
    | split
    | dsimp only
    | fail_if_no_progress with_reducible apply Emits.upd
    | dsimp +zetaDelta only

theorem State.noteWake_emits {r0 : State} (s : State) (d : Nat) (cause : Nat) (kp : Emits r0 s) :
    Emits r0 (State.noteWake s d cause) := by
  unfold State.noteWake
  repeat' first
    | with_reducible assumption
    | intro _
    | with_reducible apply Emits.ite
    | (lift_lets; intro _)
    | split
    | dsimp only
    | fail_if_no_progress with_reducible apply Emits.upd
    | dsimp +zetaDelta only

theorem State.wakeDomain_emits {r0 : State} (s : State) (d : Nat) (cause : Nat) (kp : Emits r0 s) :
    Emits r0 (State.wakeDomain s d cause) := by
  unfold State.wakeDomain
  repeat' first
    | with_reducible assumption
    | intro _
    | with_reducible apply State.noteWake_emits
    | with_reducible apply State.updDom_emits
    | with_reducible apply Emits.ite
    | (lift_lets; intro _)
    | split
    | dsimp only
    | fail_if_no_progress with_reducible apply Emits.upd
    | dsimp +zetaDelta only

theorem State.wakeFor_emits {r0 : State} (s : State) (off : Nat) (kp : Emits r0 s) :
    Emits r0 (State.wakeFor s off) := by
  unfold State.wakeFor
  repeat' first
    | with_reducible assumption
    | intro _
    | with_reducible apply Emits.elim
    | with_reducible apply State.wakeDomain_emits
    | with_reducible apply Emits.ite
    | (lift_lets; intro _)
    | split
    | dsimp only
    | fail_if_no_progress with_reducible apply Emits.upd
    | dsimp +zetaDelta only

theorem State.touchCell_emits {r0 : State} (s : State) (k : Nat) (kp : Emits r0 s) :
    Emits r0 (State.touchCell s k) := by
  unfold State.touchCell
  repeat' first
    | with_reducible assumption
    | intro _
    | with_reducible apply State.wakeDomain_emits
    | with_reducible apply Emits.ite
    | (lift_lets; intro _)
    | split
    | dsimp only
    | fail_if_no_progress with_reducible apply Emits.upd
    | dsimp +zetaDelta only

theorem State.accErr_emits {r0 : State} (s : State) (m : Nat) (kp : Emits r0 s) :
    Emits r0 (State.accErr s m) := by
  unfold State.accErr
  repeat' first
    | with_reducible assumption
    | intro _
    | with_reducible apply Emits.ite
    | (lift_lets; intro _)
    | split
    | dsimp only
    | fail_if_no_progress with_reducible apply Emits.upd
    | dsimp +zetaDelta only

theorem State.aerUnc_emits {r0 : State} (s : State) (md : Nat) (bit : Nat) (hdr : BitVec 128) (advisory : Bool) (kp : Emits r0 s) :
    Emits r0 (State.aerUnc s md bit hdr advisory) := by
  unfold State.aerUnc
  repeat' first
    | with_reducible assumption
    | intro _
    | with_reducible apply State.updLink_emits
    | with_reducible apply Emits.ite
    | (lift_lets; intro _)
    | split
    | dsimp only
    | fail_if_no_progress with_reducible apply Emits.upd
    | dsimp +zetaDelta only

theorem State.aerCor_emits {r0 : State} (s : State) (md : Nat) (bit : Nat) (kp : Emits r0 s) :
    Emits r0 (State.aerCor s md bit) := by
  unfold State.aerCor
  repeat' first
    | with_reducible assumption
    | intro _
    | with_reducible apply State.updLink_emits
    | with_reducible apply Emits.ite
    | (lift_lets; intro _)
    | split
    | dsimp only
    | fail_if_no_progress with_reducible apply Emits.upd
    | dsimp +zetaDelta only

theorem State.wantLink_emits {r0 : State} (s : State) (md : Nat) (kp : Emits r0 s) :
    Emits r0 (State.wantLink s md) := by
  unfold State.wantLink
  repeat' first
    | with_reducible assumption
    | intro _
    | with_reducible apply State.setLink_emits
    | with_reducible apply Emits.ite
    | (lift_lets; intro _)
    | split
    | dsimp only
    | fail_if_no_progress with_reducible apply Emits.upd
    | dsimp +zetaDelta only

theorem State.egress_emits {r0 : State} (s : State) (md : Nat) (kind : EgKind) (addr : Word64) (bytes : List Byte) (relaxed : Bool) (kp : Emits r0 s) :
    Emits r0 (State.egress s md kind addr bytes relaxed) := by
  unfold State.egress
  repeat' first
    | with_reducible assumption
    | intro _
    | with_reducible apply State.setLink_emits
    | with_reducible apply State.wantLink_emits
    | with_reducible apply Emits.ite
    | (lift_lets; intro _)
    | split
    | dsimp only
    | fail_if_no_progress with_reducible apply Emits.upd
    | dsimp +zetaDelta only

theorem State.sendMsix_emits {r0 : State} (s : State) (md : Nat) (v : Nat) (kp : Emits r0 s) :
    Emits r0 (State.sendMsix s md v) := by
  unfold State.sendMsix
  repeat' first
    | with_reducible assumption
    | intro _
    | with_reducible apply State.updCfg_emits
    | with_reducible apply State.egress_emits
    | with_reducible apply Emits.ite
    | (lift_lets; intro _)
    | split
    | dsimp only
    | fail_if_no_progress with_reducible apply Emits.upd
    | dsimp +zetaDelta only

theorem State.pbaSend_emits {r0 : State} (s : State) (md : Nat) (vs : List Nat) (kp : Emits r0 s) :
    Emits r0 (State.pbaSend s md vs) := by
  unfold State.pbaSend
  repeat' first
    | with_reducible assumption
    | intro _
    | with_reducible apply State.each_emits
    | with_reducible apply State.egress_emits
    | with_reducible apply State.updCfg_emits
    | with_reducible apply Emits.ite
    | (lift_lets; intro _)
    | split
    | dsimp only
    | fail_if_no_progress with_reducible apply Emits.upd
    | dsimp +zetaDelta only

theorem State.wantMsix_emits {r0 : State} (s : State) (md : Nat) (kp : Emits r0 s) :
    Emits r0 (State.wantMsix s md) := by
  unfold State.wantMsix
  repeat' first
    | with_reducible assumption
    | intro _
    | with_reducible apply State.wantLink_emits
    | with_reducible apply Emits.ite
    | (lift_lets; intro _)
    | split
    | dsimp only
    | fail_if_no_progress with_reducible apply Emits.upd
    | dsimp +zetaDelta only

theorem State.closeBatch_emits {r0 : State} (s : State) (md : Nat) (v : Nat) (kp : Emits r0 s) :
    Emits r0 (State.closeBatch s md v) := by
  unfold State.closeBatch
  repeat' first
    | with_reducible assumption
    | intro _
    | with_reducible apply State.sendMsix_emits
    | with_reducible apply State.wantMsix_emits
    | with_reducible apply Emits.ite
    | (lift_lets; intro _)
    | split
    | dsimp only
    | fail_if_no_progress with_reducible apply Emits.upd
    | dsimp +zetaDelta only

theorem State.dropBatches_emits {r0 : State} (s : State) (md : Nat) (kp : Emits r0 s) :
    Emits r0 (State.dropBatches s md) := by
  unfold State.dropBatches
  repeat' first
    | with_reducible assumption
    | intro _
    | with_reducible apply State.each_emits
    | with_reducible apply State.updSrc_emits
    | with_reducible apply Emits.ite
    | (lift_lets; intro _)
    | split
    | dsimp only
    | fail_if_no_progress with_reducible apply Emits.upd
    | dsimp +zetaDelta only

theorem State.msixEvent_emits {r0 : State} (s : State) (n : Nat) (kp : Emits r0 s) :
    Emits r0 (State.msixEvent s n) := by
  unfold State.msixEvent
  repeat' first
    | with_reducible assumption
    | intro _
    | with_reducible apply State.wantMsix_emits
    | with_reducible apply State.updSrc_emits
    | with_reducible apply State.sendMsix_emits
    | with_reducible apply State.closeBatch_emits
    | with_reducible apply Emits.ite
    | (lift_lets; intro _)
    | split
    | dsimp only
    | fail_if_no_progress with_reducible apply Emits.upd
    | dsimp +zetaDelta only

theorem State.route_emits {r0 : State} (s : State) (n : Nat) (kp : Emits r0 s) :
    Emits r0 (State.route s n) := by
  unfold State.route
  repeat' first
    | with_reducible assumption
    | intro _
    | with_reducible apply State.setSrc_emits
    | with_reducible apply State.wakeDomain_emits
    | with_reducible apply Emits.ite
    | (lift_lets; intro _)
    | split
    | dsimp only
    | fail_if_no_progress with_reducible apply Emits.upd
    | dsimp +zetaDelta only

theorem State.present_emits {r0 : State} (s : State) (n : Nat) (kp : Emits r0 s) :
    Emits r0 (State.present s n) := by
  unfold State.present
  repeat' first
    | with_reducible assumption
    | intro _
    | with_reducible apply State.route_emits
    | with_reducible apply State.msixEvent_emits
    | with_reducible apply Emits.ite
    | (lift_lets; intro _)
    | split
    | dsimp only
    | fail_if_no_progress with_reducible apply Emits.upd
    | dsimp +zetaDelta only

theorem State.edge_emits {r0 : State} (s : State) (n : Nat) (kp : Emits r0 s) :
    Emits r0 (State.edge s n) := by
  unfold State.edge
  repeat' first
    | with_reducible assumption
    | intro _
    | with_reducible apply State.present_emits
    | with_reducible apply State.updSrc_emits
    | with_reducible apply Emits.ite
    | (lift_lets; intro _)
    | split
    | dsimp only
    | fail_if_no_progress with_reducible apply Emits.upd
    | dsimp +zetaDelta only

theorem State.levelEval_emits {r0 : State} (s : State) (n : Nat) (kp : Emits r0 s) :
    Emits r0 (State.levelEval s n) := by
  unfold State.levelEval
  repeat' first
    | with_reducible assumption
    | intro _
    | with_reducible apply State.present_emits
    | with_reducible apply State.setSrc_emits
    | with_reducible apply State.route_emits
    | with_reducible apply Emits.ite
    | (lift_lets; intro _)
    | split
    | dsimp only
    | fail_if_no_progress with_reducible apply Emits.upd
    | dsimp +zetaDelta only

theorem State.heldPulse_emits {r0 : State} (s0 : State) (s : State) (kp : Emits r0 s) :
    Emits r0 (State.heldPulse s0 s) := by
  unfold State.heldPulse
  repeat' first
    | with_reducible assumption
    | intro _
    | with_reducible apply State.edge_emits
    | with_reducible apply Emits.ite
    | (lift_lets; intro _)
    | split
    | dsimp only
    | fail_if_no_progress with_reducible apply Emits.upd
    | dsimp +zetaDelta only

theorem State.setLine_emits {r0 : State} (s : State) (n : Nat) (level : Bool) (kp : Emits r0 s) :
    Emits r0 (State.setLine s n level) := by
  unfold State.setLine
  repeat' first
    | with_reducible assumption
    | intro _
    | with_reducible apply State.setSrc_emits
    | with_reducible apply State.levelEval_emits
    | with_reducible apply State.heldPulse_emits
    | with_reducible apply State.edge_emits
    | with_reducible apply Emits.ite
    | (lift_lets; intro _)
    | split
    | dsimp only
    | fail_if_no_progress with_reducible apply Emits.upd
    | dsimp +zetaDelta only

theorem State.pulse_emits {r0 : State} (s : State) (n : Nat) (kp : Emits r0 s) :
    Emits r0 (State.pulse s n) := by
  unfold State.pulse
  repeat' first
    | with_reducible assumption
    | intro _
    | with_reducible apply State.heldPulse_emits
    | with_reducible apply State.edge_emits
    | with_reducible apply Emits.ite
    | (lift_lets; intro _)
    | split
    | dsimp only
    | fail_if_no_progress with_reducible apply Emits.upd
    | dsimp +zetaDelta only

theorem State.accFault_emits {r0 : State} (s : State) (m : Nat) (kp : Emits r0 s) :
    Emits r0 (State.accFault s m) := by
  unfold State.accFault
  repeat' first
    | with_reducible assumption
    | intro _
    | with_reducible apply State.pulse_emits
    | with_reducible apply State.accErr_emits
    | with_reducible apply Emits.ite
    | (lift_lets; intro _)
    | split
    | dsimp only
    | fail_if_no_progress with_reducible apply Emits.upd
    | dsimp +zetaDelta only

theorem State.takeSrc_emits {r0 : State} (s : State) (n : Nat) (kp : Emits r0 s) :
    Emits r0 (State.takeSrc s n) := by
  unfold State.takeSrc
  repeat' first
    | with_reducible assumption
    | intro _
    | with_reducible apply State.updSrc_emits
    | with_reducible apply Emits.ite
    | (lift_lets; intro _)
    | split
    | dsimp only
    | fail_if_no_progress with_reducible apply Emits.upd
    | dsimp +zetaDelta only

theorem State.routeAll_emits {r0 : State} (s : State) (kp : Emits r0 s) :
    Emits r0 (State.routeAll s) := by
  unfold State.routeAll
  repeat' first
    | with_reducible assumption
    | intro _
    | with_reducible apply State.each_emits
    | with_reducible apply State.route_emits
    | with_reducible apply Emits.ite
    | (lift_lets; intro _)
    | split
    | dsimp only
    | fail_if_no_progress with_reducible apply Emits.upd
    | dsimp +zetaDelta only

theorem State.reofferMember_emits {r0 : State} (s : State) (i : Nat) (kp : Emits r0 s) :
    Emits r0 (State.reofferMember s i) := by
  unfold State.reofferMember
  repeat' first
    | with_reducible assumption
    | intro _
    | with_reducible apply State.each_emits
    | with_reducible apply State.route_emits
    | with_reducible apply Emits.ite
    | (lift_lets; intro _)
    | split
    | dsimp only
    | fail_if_no_progress with_reducible apply Emits.upd
    | dsimp +zetaDelta only

theorem State.closeAll_emits {r0 : State} (s : State) (md : Nat) (l : List (Nat × Batch)) (kp : Emits r0 s) :
    Emits r0 (State.closeAll s md l) := by
  unfold State.closeAll
  repeat' first
    | with_reducible assumption
    | intro _
    | with_reducible apply State.each_emits
    | with_reducible apply State.closeBatch_emits
    | with_reducible apply Emits.ite
    | (lift_lets; intro _)
    | split
    | dsimp only
    | fail_if_no_progress with_reducible apply Emits.upd
    | dsimp +zetaDelta only

theorem State.flushModule_emits {r0 : State} (s : State) (md : Nat) (kp : Emits r0 s) :
    Emits r0 (State.flushModule s md) := by
  unfold State.flushModule
  repeat' first
    | with_reducible assumption
    | intro _
    | with_reducible apply State.closeAll_emits
    | with_reducible apply Emits.ite
    | (lift_lets; intro _)
    | split
    | dsimp only
    | fail_if_no_progress with_reducible apply Emits.upd
    | dsimp +zetaDelta only

theorem State.batchSend_emits {r0 : State} (s : State) (md : Nat) (kp : Emits r0 s) :
    Emits r0 (State.batchSend s md) := by
  unfold State.batchSend
  repeat' first
    | with_reducible assumption
    | intro _
    | with_reducible apply State.closeAll_emits
    | with_reducible apply Emits.ite
    | (lift_lets; intro _)
    | split
    | dsimp only
    | fail_if_no_progress with_reducible apply Emits.upd
    | dsimp +zetaDelta only

theorem State.dueSend_emits {r0 : State} (s : State) (md : Nat) (kp : Emits r0 s) :
    Emits r0 (State.dueSend s md) := by
  unfold State.dueSend
  repeat' first
    | with_reducible assumption
    | intro _
    | with_reducible apply State.each_emits
    | with_reducible apply State.sendMsix_emits
    | with_reducible apply State.updSrc_emits
    | with_reducible apply Emits.ite
    | (lift_lets; intro _)
    | split
    | dsimp only
    | fail_if_no_progress with_reducible apply Emits.upd
    | dsimp +zetaDelta only

theorem State.flushJournal_emits {r0 : State} (s : State) (kp : Emits r0 s) :
    Emits r0 (State.flushJournal s) := by
  unfold State.flushJournal
  repeat' first
    | with_reducible assumption
    | intro _
    | with_reducible apply State.wakeDomain_emits
    | with_reducible apply Emits.ite
    | (lift_lets; intro _)
    | split
    | dsimp only
    | fail_if_no_progress with_reducible apply Emits.upd
    | dsimp +zetaDelta only

theorem State.journalRec_emits {r0 : State} (s : State) (code : BitVec 16) (long : Bool) (step : Bool) (fw : Bool) (mid : Nat) (payload : Nat) (kp : Emits r0 s) :
    Emits r0 (State.journalRec s code long step fw mid payload) := by
  unfold State.journalRec
  repeat' first
    | with_reducible assumption
    | intro _
    | with_reducible apply State.flushJournal_emits
    | with_reducible apply Emits.ite
    | (lift_lets; intro _)
    | split
    | dsimp only
    | fail_if_no_progress with_reducible apply Emits.upd
    | dsimp +zetaDelta only

theorem State.journalHost_emits {r0 : State} (s : State) (m : Nat) (kind : Nat) (q : Nat) (count : Nat) (why : Nat) (kp : Emits r0 s) :
    Emits r0 (State.journalHost s m kind q count why) := by
  unfold State.journalHost
  repeat' first
    | with_reducible assumption
    | intro _
    | with_reducible apply State.journalRec_emits
    | with_reducible apply Emits.ite
    | (lift_lets; intro _)
    | split
    | dsimp only
    | fail_if_no_progress with_reducible apply Emits.upd
    | dsimp +zetaDelta only

theorem State.dsSend_emits {r0 : State} (s : State) (ty : TxType) (prio : Bool) (body : TxBody) (kp : Emits r0 s) :
    Emits r0 (State.dsSend s ty prio body) := by
  unfold State.dsSend
  repeat' first
    | with_reducible assumption
    | intro _
    | with_reducible apply Emits.ite
    | (lift_lets; intro _)
    | split
    | dsimp only
    | fail_if_no_progress with_reducible apply Emits.upd
    | dsimp +zetaDelta only

theorem State.mirror_emits {r0 : State} (s : State) (ty : TxType) (prio : Bool) (body : TxBody) (kp : Emits r0 s) :
    Emits r0 (State.mirror s ty prio body) := by
  unfold State.mirror
  repeat' first
    | with_reducible assumption
    | intro _
    | with_reducible apply State.dsSend_emits
    | with_reducible apply Emits.ite
    | (lift_lets; intro _)
    | split
    | dsimp only
    | fail_if_no_progress with_reducible apply Emits.upd
    | dsimp +zetaDelta only

theorem State.cfgMirror_emits {r0 : State} (s : State) (off : Nat) (size : Nat) (v : Nat) (kp : Emits r0 s) :
    Emits r0 (State.cfgMirror s off size v) := by
  unfold State.cfgMirror
  repeat' first
    | with_reducible assumption
    | intro _
    | with_reducible apply State.mirror_emits
    | with_reducible apply Emits.ite
    | (lift_lets; intro _)
    | split
    | dsimp only
    | fail_if_no_progress with_reducible apply Emits.upd
    | dsimp +zetaDelta only

theorem State.notePeak_emits {r0 : State} (s : State) (t : Nat) (kp : Emits r0 s) :
    Emits r0 (State.notePeak s t) := by
  unfold State.notePeak
  repeat' first
    | with_reducible assumption
    | intro _
    | with_reducible apply Emits.ite
    | (lift_lets; intro _)
    | split
    | dsimp only
    | fail_if_no_progress with_reducible apply Emits.upd
    | dsimp +zetaDelta only

theorem State.sendSlices_emits {r0 : State} (s : State) (kp : Emits r0 s) :
    Emits r0 (State.sendSlices s) := by
  unfold State.sendSlices
  repeat' first
    | with_reducible assumption
    | intro _
    | with_reducible apply State.each_emits
    | with_reducible apply State.dsSend_emits
    | with_reducible apply Emits.ite
    | (lift_lets; intro _)
    | split
    | dsimp only
    | fail_if_no_progress with_reducible apply Emits.upd
    | dsimp +zetaDelta only

theorem State.mirrorCh_emits {r0 : State} (s : State) (ch : Nat) (kp : Emits r0 s) :
    Emits r0 (State.mirrorCh s ch) := by
  unfold State.mirrorCh
  repeat' first
    | with_reducible assumption
    | intro _
    | with_reducible apply State.mirror_emits
    | with_reducible apply Emits.ite
    | (lift_lets; intro _)
    | split
    | dsimp only
    | fail_if_no_progress with_reducible apply Emits.upd
    | dsimp +zetaDelta only

theorem State.enterHead_emits {r0 : State} (s : State) (q : Nat) (bytes : List Byte) (raise : Bool) (kp : Emits r0 s) :
    Emits r0 (State.enterHead s q bytes raise) := by
  unfold State.enterHead
  repeat' first
    | with_reducible assumption
    | intro _
    | with_reducible apply State.setLink_emits
    | with_reducible apply State.heldPulse_emits
    | with_reducible apply State.egress_emits
    | with_reducible apply State.pulse_emits
    | with_reducible apply Emits.ite
    | (lift_lets; intro _)
    | split
    | dsimp only
    | fail_if_no_progress with_reducible apply Emits.upd
    | dsimp +zetaDelta only

theorem State.gateRec_emits {r0 : State} (s : State) (md : Nat) (w : Egress) (raise : Bool) (kp : Emits r0 s) :
    Emits r0 (State.gateRec s md w raise) := by
  unfold State.gateRec
  repeat' first
    | with_reducible assumption
    | intro _
    | with_reducible apply Emits.ite
    | (lift_lets; intro _)
    | split
    | dsimp only
    | fail_if_no_progress with_reducible apply Emits.upd
    | dsimp +zetaDelta only

theorem State.putRec_emits {r0 : State} (s : State) (md : Nat) (w : Egress) (enter : State → State) (henter : ∀ t, Emits r0 t → Emits r0 (enter t)) (kp : Emits r0 s) :
    Emits r0 (State.putRec s md w enter) := by
  unfold State.putRec
  repeat' first
    | with_reducible assumption
    | intro _
    | with_reducible apply henter
    | with_reducible apply State.gateRec_emits
    | with_reducible apply State.mirror_emits
    | with_reducible apply Emits.ite
    | (lift_lets; intro _)
    | split
    | dsimp only
    | fail_if_no_progress with_reducible apply Emits.upd
    | dsimp +zetaDelta only

theorem State.send_emits {r0 : State} (s : State) (md : Nat) (kind : EgKind) (addr : Word64) (bytes : List Byte) (relaxed : Bool) (kp : Emits r0 s) :
    Emits r0 (State.send s md kind addr bytes relaxed) := by
  unfold State.send
  repeat' first
    | with_reducible assumption
    | intro _
    | with_reducible apply State.heldPulse_emits
    | with_reducible apply State.egress_emits
    | with_reducible apply Emits.ite
    | (lift_lets; intro _)
    | split
    | dsimp only
    | fail_if_no_progress with_reducible apply Emits.upd
    | dsimp +zetaDelta only

theorem State.portLine_emits {r0 : State} (s : State) (p : Nat) (kp : Emits r0 s) :
    Emits r0 (State.portLine s p) := by
  unfold State.portLine
  repeat' first
    | with_reducible assumption
    | intro _
    | with_reducible apply State.setLine_emits
    | with_reducible apply Emits.ite
    | (lift_lets; intro _)
    | split
    | dsimp only
    | fail_if_no_progress with_reducible apply Emits.upd
    | dsimp +zetaDelta only

theorem State.retarget_emits {r0 : State} (s : State) (kp : Emits r0 s) :
    Emits r0 (State.retarget s) := by
  unfold State.retarget
  repeat' first
    | with_reducible assumption
    | intro _
    | with_reducible apply State.each_emits
    | with_reducible apply State.wakeDomain_emits
    | with_reducible apply Emits.ite
    | (lift_lets; intro _)
    | split
    | dsimp only
    | fail_if_no_progress with_reducible apply Emits.upd
    | dsimp +zetaDelta only

theorem State.sendHb_emits {r0 : State} (s : State) (halting : Bool) (kp : Emits r0 s) :
    Emits r0 (State.sendHb s halting) := by
  unfold State.sendHb
  repeat' first
    | with_reducible assumption
    | intro _
    | with_reducible apply State.dsSend_emits
    | with_reducible apply Emits.ite
    | (lift_lets; intro _)
    | split
    | dsimp only
    | fail_if_no_progress with_reducible apply Emits.upd
    | dsimp +zetaDelta only

theorem State.pumpReads_emits {r0 : State} (s : State) (md : Nat)  (n : Nat) (h : Emits r0 s) : Emits r0 (s.pumpReads md n) := by
  induction n generalizing s with
  | zero => exact h
  | succ n ih =>
    unfold State.pumpReads
    repeat' first
      | with_reducible assumption
      | with_reducible apply ih
      | with_reducible apply State.setLink_emits
      | intro _
      | split
      | dsimp only
      | fail_if_no_progress with_reducible apply Emits.upd

theorem State.pump_emits {r0 : State} (s : State) (md : Nat) (kp : Emits r0 s) :
    Emits r0 (State.pump s md) := by
  unfold State.pump
  repeat' first
    | with_reducible assumption
    | intro _
    | with_reducible apply State.pumpReads_emits
    | with_reducible apply Emits.ite
    | (lift_lets; intro _)
    | split
    | dsimp only
    | fail_if_no_progress with_reducible apply Emits.upd
    | dsimp +zetaDelta only

theorem State.pumpAll_emits {r0 : State} (s : State) (md : Nat) (kp : Emits r0 s) :
    Emits r0 (State.pumpAll s md) := by
  unfold State.pumpAll
  repeat' first
    | with_reducible assumption
    | intro _
    | with_reducible apply State.pump_emits
    | with_reducible apply Emits.ite
    | (lift_lets; intro _)
    | split
    | dsimp only
    | fail_if_no_progress with_reducible apply Emits.upd
    | dsimp +zetaDelta only

theorem State.askRead_emits {r0 : State} (s : State) (md : Nat) (r : HostRead) (kp : Emits r0 s) :
    Emits r0 (State.askRead s md r) := by
  unfold State.askRead
  repeat' first
    | with_reducible assumption
    | intro _
    | with_reducible apply State.pump_emits
    | with_reducible apply State.wantLink_emits
    | with_reducible apply State.updLink_emits
    | with_reducible apply Emits.ite
    | (lift_lets; intro _)
    | split
    | dsimp only
    | fail_if_no_progress with_reducible apply Emits.upd
    | dsimp +zetaDelta only

theorem State.dropReads_emits {r0 : State} (s : State) (p : ReadReq → Bool) (kp : Emits r0 s) :
    Emits r0 (State.dropReads s p) := by
  unfold State.dropReads
  repeat' first
    | with_reducible assumption
    | intro _
    | with_reducible apply Emits.ite
    | (lift_lets; intro _)
    | split
    | dsimp only
    | fail_if_no_progress with_reducible apply Emits.upd
    | dsimp +zetaDelta only

theorem State.writeHost_emits {r0 : State} (s : State) (md : Nat) (kind : EgKind) (addr : Nat) (l : List Byte) (relaxed : Bool)  (n : Nat) (h : Emits r0 s) : Emits r0 (s.writeHost md kind addr l relaxed n) := by
  induction n generalizing s addr l with
  | zero => exact h
  | succ n ih =>
    unfold State.writeHost
    repeat' first
      | with_reducible assumption
      | with_reducible apply ih
      | with_reducible apply State.send_emits
      | intro _
      | split
      | dsimp only
      | fail_if_no_progress with_reducible apply Emits.upd

theorem State.lockLine_emits {r0 : State} (s : State) (kp : Emits r0 s) :
    Emits r0 (State.lockLine s) := by
  unfold State.lockLine
  repeat' first
    | with_reducible assumption
    | intro _
    | with_reducible apply State.setLine_emits
    | with_reducible apply Emits.ite
    | (lift_lets; intro _)
    | split
    | dsimp only
    | fail_if_no_progress with_reducible apply Emits.upd
    | dsimp +zetaDelta only

theorem State.setLock_emits {r0 : State} (s : State) (core : Nat) (b : Bool) (kp : Emits r0 s) :
    Emits r0 (State.setLock s core b) := by
  unfold State.setLock
  repeat' first
    | with_reducible assumption
    | intro _
    | with_reducible apply State.lockLine_emits
    | with_reducible apply Emits.ite
    | (lift_lets; intro _)
    | split
    | dsimp only
    | fail_if_no_progress with_reducible apply Emits.upd
    | dsimp +zetaDelta only

theorem State.setFreeze_emits {r0 : State} (s : State) (core : Nat) (b : Bool) (kp : Emits r0 s) :
    Emits r0 (State.setFreeze s core b) := by
  unfold State.setFreeze
  repeat' first
    | with_reducible assumption
    | intro _
    | with_reducible apply Emits.ite
    | (lift_lets; intro _)
    | split
    | dsimp only
    | fail_if_no_progress with_reducible apply Emits.upd
    | dsimp +zetaDelta only

theorem State.mbxLine_emits {r0 : State} (s : State) (mb : Nat) (kp : Emits r0 s) :
    Emits r0 (State.mbxLine s mb) := by
  unfold State.mbxLine
  repeat' first
    | with_reducible assumption
    | intro _
    | with_reducible apply State.setLine_emits
    | with_reducible apply Emits.ite
    | (lift_lets; intro _)
    | split
    | dsimp only
    | fail_if_no_progress with_reducible apply Emits.upd
    | dsimp +zetaDelta only

theorem State.askBlock_emits {r0 : State} (s : State) (ch : Nat) (a : Word64) (kp : Emits r0 s) :
    Emits r0 (State.askBlock s ch a) := by
  unfold State.askBlock
  repeat' first
    | with_reducible assumption
    | intro _
    | with_reducible apply State.askRead_emits
    | with_reducible apply Emits.ite
    | (lift_lets; intro _)
    | split
    | dsimp only
    | fail_if_no_progress with_reducible apply Emits.upd
    | dsimp +zetaDelta only

theorem State.wakeData_emits {r0 : State} (s : State) (l : List Nat) (kp : Emits r0 s) :
    Emits r0 (State.wakeData s l) := by
  unfold State.wakeData
  repeat' first
    | with_reducible assumption
    | intro _
    | with_reducible apply State.each_emits
    | with_reducible apply State.wakeDomain_emits
    | with_reducible apply Emits.ite
    | (lift_lets; intro _)
    | split
    | dsimp only
    | fail_if_no_progress with_reducible apply Emits.upd
    | dsimp +zetaDelta only

theorem State.linkPulse_emits {r0 : State} (s : State) (md : Nat) (kp : Emits r0 s) :
    Emits r0 (State.linkPulse s md) := by
  unfold State.linkPulse
  repeat' first
    | with_reducible assumption
    | intro _
    | with_reducible apply State.pulse_emits
    | with_reducible apply Emits.ite
    | (lift_lets; intro _)
    | split
    | dsimp only
    | fail_if_no_progress with_reducible apply Emits.upd
    | dsimp +zetaDelta only

theorem State.pbaDue_emits {r0 : State} (s : State) (md : Nat) (kp : Emits r0 s) :
    Emits r0 (State.pbaDue s md) := by
  unfold State.pbaDue
  repeat' first
    | with_reducible assumption
    | intro _
    | with_reducible apply State.each_emits
    | with_reducible apply State.setSrc_emits
    | with_reducible apply Emits.ite
    | (lift_lets; intro _)
    | split
    | dsimp only
    | fail_if_no_progress with_reducible apply Emits.upd
    | dsimp +zetaDelta only

theorem State.wakeEval_emits {r0 : State} (s : State) (kp : Emits r0 s) :
    Emits r0 (State.wakeEval s) := by
  unfold State.wakeEval
  repeat' first
    | with_reducible assumption
    | intro _
    | with_reducible apply Emits.ite
    | (lift_lets; intro _)
    | split
    | dsimp only
    | fail_if_no_progress with_reducible apply Emits.upd
    | dsimp +zetaDelta only

theorem State.convReset_emits {r0 : State} (s : State) (md : Nat) (kp : Emits r0 s) :
    Emits r0 (State.convReset s md) := by
  unfold State.convReset
  repeat' first
    | with_reducible assumption
    | intro _
    | with_reducible apply State.wakeEval_emits
    | with_reducible apply State.updLink_emits
    | with_reducible apply State.dropBatches_emits
    | with_reducible apply State.pbaDue_emits
    | with_reducible apply Emits.ite
    | (lift_lets; intro _)
    | split
    | dsimp only
    | fail_if_no_progress with_reducible apply Emits.upd
    | dsimp +zetaDelta only

theorem State.wakeCheck_emits {r0 : State} (s : State) (md : Nat) (kp : Emits r0 s) :
    Emits r0 (State.wakeCheck s md) := by
  unfold State.wakeCheck
  repeat' first
    | with_reducible assumption
    | intro _
    | with_reducible apply State.wantLink_emits
    | with_reducible apply Emits.ite
    | (lift_lets; intro _)
    | split
    | dsimp only
    | fail_if_no_progress with_reducible apply Emits.upd
    | dsimp +zetaDelta only

theorem State.setMsix_emits {r0 : State} (s : State) (md : Nat) (en : Bool) (mask : Bool) (kp : Emits r0 s) :
    Emits r0 (State.setMsix s md en mask) := by
  unfold State.setMsix
  repeat' first
    | with_reducible assumption
    | intro _
    | with_reducible apply State.updCfg_emits
    | with_reducible apply State.pbaSend_emits
    | with_reducible apply State.dueSend_emits
    | with_reducible apply State.dropBatches_emits
    | with_reducible apply Emits.ite
    | (lift_lets; intro _)
    | split
    | dsimp only
    | fail_if_no_progress with_reducible apply Emits.upd
    | dsimp +zetaDelta only

theorem State.setMask_emits {r0 : State} (s : State) (md : Nat) (v : Nat) (mask : Bool) (kp : Emits r0 s) :
    Emits r0 (State.setMask s md v mask) := by
  unfold State.setMask
  repeat' first
    | with_reducible assumption
    | intro _
    | with_reducible apply State.updCfg_emits
    | with_reducible apply State.pbaSend_emits
    | with_reducible apply Emits.ite
    | (lift_lets; intro _)
    | split
    | dsimp only
    | fail_if_no_progress with_reducible apply Emits.upd
    | dsimp +zetaDelta only

theorem State.badRequest_emits {r0 : State} (s : State) (md : Nat) (what : BadRequest) (hdr : BitVec 128) (kp : Emits r0 s) :
    Emits r0 (State.badRequest s md what hdr) := by
  unfold State.badRequest
  repeat' first
    | with_reducible assumption
    | intro _
    | with_reducible apply State.aerUnc_emits
    | with_reducible apply Emits.ite
    | (lift_lets; intro _)
    | split
    | dsimp only
    | fail_if_no_progress with_reducible apply Emits.upd
    | dsimp +zetaDelta only

theorem State.moveBatches_emits {r0 : State} (s : State) (md : Nat) (o : Nat) (kp : Emits r0 s) :
    Emits r0 (State.moveBatches s md o) := by
  unfold State.moveBatches
  repeat' first
    | with_reducible assumption
    | intro _
    | with_reducible apply State.each_emits
    | with_reducible apply Emits.ite
    | (lift_lets; intro _)
    | split
    | dsimp only
    | fail_if_no_progress with_reducible apply Emits.upd
    | dsimp +zetaDelta only

theorem State.reconfigured_emits {r0 : State} (s : State) (n : Nat) (old : Src) (kp : Emits r0 s) :
    Emits r0 (State.reconfigured s n old) := by
  unfold State.reconfigured
  repeat' first
    | with_reducible assumption
    | intro _
    | with_reducible apply State.levelEval_emits
    | with_reducible apply State.present_emits
    | with_reducible apply State.route_emits
    | with_reducible apply Emits.ite
    | (lift_lets; intro _)
    | split
    | dsimp only
    | fail_if_no_progress with_reducible apply Emits.upd
    | dsimp +zetaDelta only

theorem State.icStrw_emits {r0 : State} (s : State) (m : Nat) (n : Nat) (v : Word64) (kp : Emits r0 s) :
    Emits r0 (State.icStrw s m n v) := by
  unfold State.icStrw
  repeat' first
    | with_reducible assumption
    | intro _
    | with_reducible apply State.accFault_emits
    | with_reducible apply State.cfgMirror_emits
    | with_reducible apply State.reconfigured_emits
    | with_reducible apply State.setSrc_emits
    | with_reducible apply Emits.ite
    | (lift_lets; intro _)
    | split
    | dsimp only
    | fail_if_no_progress with_reducible apply Emits.upd
    | dsimp +zetaDelta only

theorem State.icSwset_emits {r0 : State} (s : State) (m : Nat) (n : BitVec 11) (kp : Emits r0 s) :
    Emits r0 (State.icSwset s m n) := by
  unfold State.icSwset
  repeat' first
    | with_reducible assumption
    | intro _
    | with_reducible apply State.accFault_emits
    | with_reducible apply State.pulse_emits
    | with_reducible apply Emits.ite
    | (lift_lets; intro _)
    | split
    | dsimp only
    | fail_if_no_progress with_reducible apply Emits.upd
    | dsimp +zetaDelta only

theorem State.icFlush_emits {r0 : State} (s : State) (m : Nat) (v : Word32) (kp : Emits r0 s) :
    Emits r0 (State.icFlush s m v) := by
  unfold State.icFlush
  repeat' first
    | with_reducible assumption
    | intro _
    | with_reducible apply State.accFault_emits
    | with_reducible apply State.flushModule_emits
    | with_reducible apply State.heldPulse_emits
    | with_reducible apply Emits.ite
    | (lift_lets; intro _)
    | split
    | dsimp only
    | fail_if_no_progress with_reducible apply Emits.upd
    | dsimp +zetaDelta only

theorem State.beginRecovery_emits {r0 : State} (s : State) (core : Nat) (kp : Emits r0 s) :
    Emits r0 (State.beginRecovery s core) := by
  unfold State.beginRecovery
  repeat' first
    | with_reducible assumption
    | intro _
    | with_reducible apply State.journalRec_emits
    | with_reducible apply State.setFreeze_emits
    | with_reducible apply Emits.ite
    | (lift_lets; intro _)
    | split
    | dsimp only
    | fail_if_no_progress with_reducible apply Emits.upd
    | dsimp +zetaDelta only

theorem State.journalFw_emits {r0 : State} (s : State) (code : BitVec 16) (slot : Bool) (live : Bool) (event : Nat) (frame : Nat) (kp : Emits r0 s) :
    Emits r0 (State.journalFw s code slot live event frame) := by
  unfold State.journalFw
  repeat' first
    | with_reducible assumption
    | intro _
    | with_reducible apply State.journalRec_emits
    | with_reducible apply Emits.ite
    | (lift_lets; intro _)
    | split
    | dsimp only
    | fail_if_no_progress with_reducible apply Emits.upd
    | dsimp +zetaDelta only

theorem State.aqJournal_emits {r0 : State} (s : State) (m : Nat) (v : Word32) (kp : Emits r0 s) :
    Emits r0 (State.aqJournal s m v) := by
  unfold State.aqJournal
  repeat' first
    | with_reducible assumption
    | intro _
    | with_reducible apply State.journalHost_emits
    | with_reducible apply Emits.ite
    | (lift_lets; intro _)
    | split
    | dsimp only
    | fail_if_no_progress with_reducible apply Emits.upd
    | dsimp +zetaDelta only

theorem State.wakeL4_emits {r0 : State} (s : State) (cause : Nat) (pin : Bool) (kp : Emits r0 s) :
    Emits r0 (State.wakeL4 s cause pin) := by
  unfold State.wakeL4
  repeat' first
    | with_reducible assumption
    | intro _
    | with_reducible apply State.noteWake_emits
    | with_reducible apply Emits.ite
    | (lift_lets; intro _)
    | split
    | dsimp only
    | fail_if_no_progress with_reducible apply Emits.upd
    | fail_if_no_progress with_reducible apply Emits.updFilter
    | dsimp +zetaDelta only

theorem State.reofferAll_emits {r0 : State} (s : State) (kp : Emits r0 s) :
    Emits r0 (State.reofferAll s) := by
  unfold State.reofferAll
  repeat' first
    | with_reducible assumption
    | intro _
    | with_reducible apply State.each_emits
    | with_reducible apply State.reofferMember_emits
    | with_reducible apply Emits.ite
    | (lift_lets; intro _)
    | split
    | dsimp only
    | fail_if_no_progress with_reducible apply Emits.upd
    | dsimp +zetaDelta only

theorem State.lockedGone_emits {r0 : State} (s : State) (t : State) (kp : Emits r0 t) :
    Emits r0 (State.lockedGone s t) := by
  unfold State.lockedGone
  repeat' first
    | with_reducible assumption
    | intro _
    | with_reducible apply State.pulse_emits
    | with_reducible apply Emits.ite
    | (lift_lets; intro _)
    | split
    | dsimp only
    | fail_if_no_progress with_reducible apply Emits.upd
    | dsimp +zetaDelta only

theorem State.takeRole_emits {r0 : State} (s : State) (role : BitVec 2) (sub : BitVec 2) (kp : Emits r0 s) :
    Emits r0 (State.takeRole s role sub) := by
  unfold State.takeRole
  repeat' first
    | with_reducible assumption
    | intro _
    | with_reducible apply Emits.ite
    | (lift_lets; intro _)
    | split
    | dsimp only
    | fail_if_no_progress with_reducible apply Emits.upd
    | dsimp +zetaDelta only

theorem State.strapViolation_emits {r0 : State} (s : State) (kp : Emits r0 s) :
    Emits r0 (State.strapViolation s) := by
  unfold State.strapViolation
  repeat' first
    | with_reducible assumption
    | intro _
    | with_reducible apply State.journalRec_emits
    | with_reducible apply Emits.ite
    | (lift_lets; intro _)
    | split
    | dsimp only
    | fail_if_no_progress with_reducible apply Emits.upd
    | dsimp +zetaDelta only

theorem State.roleByLink_emits {r0 : State} (s : State) (partner : Option (BitVec 2 × Bool × Word64)) (kp : Emits r0 s) :
    Emits r0 (State.roleByLink s partner) := by
  unfold State.roleByLink
  repeat' first
    | with_reducible assumption
    | intro _
    | with_reducible apply State.takeRole_emits
    | with_reducible apply State.strapViolation_emits
    | with_reducible apply Emits.ite
    | (lift_lets; intro _)
    | split
    | dsimp only
    | fail_if_no_progress with_reducible apply Emits.upd
    | dsimp +zetaDelta only

theorem State.declineOffer_emits {r0 : State} (s : State) (core : Nat) (n : Nat) (kp : Emits r0 s) :
    Emits r0 (State.declineOffer s core n) := by
  unfold State.declineOffer
  repeat' first
    | with_reducible assumption
    | intro _
    | with_reducible apply State.route_emits
    | with_reducible apply State.updSrc_emits
    | with_reducible apply Emits.ite
    | (lift_lets; intro _)
    | split
    | dsimp only
    | fail_if_no_progress with_reducible apply Emits.upd
    | dsimp +zetaDelta only

theorem State.declineAbsent_emits {r0 : State} (s : State) (core : Nat) (k : Nat) (kp : Emits r0 s) :
    Emits r0 (State.declineAbsent s core k) := by
  unfold State.declineAbsent
  repeat' first
    | with_reducible assumption
    | intro _
    | with_reducible apply State.each_emits
    | with_reducible apply State.declineOffer_emits
    | with_reducible apply Emits.ite
    | (lift_lets; intro _)
    | split
    | dsimp only
    | fail_if_no_progress with_reducible apply Emits.upd
    | dsimp +zetaDelta only

theorem State.pairViol_emits {r0 : State} (s : State) (reason : Nat) (kp : Emits r0 s) :
    Emits r0 (State.pairViol s reason) := by
  unfold State.pairViol
  repeat' first
    | with_reducible assumption
    | intro _
    | with_reducible apply State.journalRec_emits
    | with_reducible apply Emits.ite
    | (lift_lets; intro _)
    | split
    | dsimp only
    | fail_if_no_progress with_reducible apply Emits.upd
    | dsimp +zetaDelta only

theorem State.noteGates_emits {r0 : State} (s : State) (l : List TxFrame) (kp : Emits r0 s) :
    Emits r0 (State.noteGates s l) := by
  unfold State.noteGates
  repeat' first
    | with_reducible assumption
    | intro _
    | with_reducible apply Emits.foldl
    | with_reducible apply Emits.ite
    | (lift_lets; intro _)
    | split
    | dsimp only
    | fail_if_no_progress with_reducible apply Emits.upd
    | dsimp +zetaDelta only

theorem State.sendNack_emits {r0 : State} (s : State) (kp : Emits r0 s) :
    Emits r0 (State.sendNack s) := by
  unfold State.sendNack
  repeat' first
    | with_reducible assumption
    | intro _
    | with_reducible apply Emits.ite
    | (lift_lets; intro _)
    | split
    | dsimp only
    | fail_if_no_progress with_reducible apply Emits.upd
    | dsimp +zetaDelta only

theorem State.sendAck_emits {r0 : State} (s : State) (kp : Emits r0 s) :
    Emits r0 (State.sendAck s) := by
  unfold State.sendAck
  repeat' first
    | with_reducible assumption
    | intro _
    | with_reducible apply Emits.ite
    | (lift_lets; intro _)
    | split
    | dsimp only
    | fail_if_no_progress with_reducible apply Emits.upd
    | dsimp +zetaDelta only

theorem State.rewrite_emits {r0 : State} (s : State) (kp : Emits r0 s) :
    Emits r0 (State.rewrite s) := by
  unfold State.rewrite
  repeat' first
    | with_reducible assumption
    | intro _
    | with_reducible apply State.each_emits
    | with_reducible apply State.send_emits
    | with_reducible apply Emits.ite
    | (lift_lets; intro _)
    | split
    | dsimp only
    | fail_if_no_progress with_reducible apply Emits.upd
    | dsimp +zetaDelta only

theorem State.journalTake_emits {r0 : State} (s : State) (frame : Nat) (reason : Nat) (kp : Emits r0 s) :
    Emits r0 (State.journalTake s frame reason) := by
  unfold State.journalTake
  repeat' first
    | with_reducible assumption
    | intro _
    | with_reducible apply State.journalRec_emits
    | with_reducible apply Emits.ite
    | (lift_lets; intro _)
    | split
    | dsimp only
    | fail_if_no_progress with_reducible apply Emits.upd
    | dsimp +zetaDelta only

theorem State.liveReplied_emits {r0 : State} (s : State) (kp : Emits r0 s) :
    Emits r0 (State.liveReplied s) := by
  unfold State.liveReplied
  repeat' first
    | with_reducible assumption
    | intro _
    | with_reducible apply State.send_emits
    | with_reducible apply Emits.ite
    | (lift_lets; intro _)
    | split
    | dsimp only
    | fail_if_no_progress with_reducible apply Emits.upd
    | dsimp +zetaDelta only

theorem State.linkCame_emits {r0 : State} (s : State) (kp : Emits r0 s) :
    Emits r0 (State.linkCame s) := by
  unfold State.linkCame
  repeat' first
    | with_reducible assumption
    | intro _
    | with_reducible apply State.pulse_emits
    | with_reducible apply Emits.ite
    | (lift_lets; intro _)
    | split
    | dsimp only
    | fail_if_no_progress with_reducible apply Emits.upd
    | dsimp +zetaDelta only

theorem State.measure_emits {r0 : State} (s : State) (vddMv : BitVec 10) (temp : Int) (kp : Emits r0 s) :
    Emits r0 (State.measure s vddMv temp) := by
  unfold State.measure
  repeat' first
    | with_reducible assumption
    | intro _
    | with_reducible apply Emits.ite
    | (lift_lets; intro _)
    | split
    | dsimp only
    | fail_if_no_progress with_reducible apply Emits.upd
    | dsimp +zetaDelta only

theorem State.joinTick_emits {r0 : State} (s : State) (kp : Emits r0 s) :
    Emits r0 (State.joinTick s) := by
  unfold State.joinTick
  repeat' first
    | with_reducible assumption
    | intro _
    | with_reducible apply State.dsSend_emits
    | with_reducible apply State.sendSlices_emits
    | with_reducible apply Emits.ite
    | (lift_lets; intro _)
    | split
    | dsimp only
    | fail_if_no_progress with_reducible apply Emits.upd
    | dsimp +zetaDelta only

theorem State.tickBlock_emits {r0 : State} (s : State) (kp : Emits r0 s) :
    Emits r0 (State.tickBlock s) := by
  unfold State.tickBlock
  repeat' first
    | with_reducible assumption
    | intro _
    | with_reducible apply Emits.ite
    | (lift_lets; intro _)
    | split
    | dsimp only
    | fail_if_no_progress with_reducible apply Emits.upd
    | dsimp +zetaDelta only

end Sys2Proof.Machine
end

