-- ==== Sys2Proof/Laws/Reports.lean ====
section
/-! SUPPORT. The operations that carry an outcome out of the block (records, head records, interrupt sources, the journal, frames to the
partner) change nothing else: one lemma for each, over the relation `Reports` of Safety. -/

namespace Sys2Proof.Machine
open Sys2Proof

theorem Reports.refl (s : State) : Reports s s := rfl

theorem Reports.trans {r s t : State} (h : Reports r s) (g : Reports s t) : Reports r t := by
  unfold Reports at *
  rw [h] at g
  exact g

/-- An update of fields that reports change. -/
theorem Reports.upd {r0 s : State} (h : Reports r0 s) {x5 x6 x7 x8 x21 x23 x28 x29 x30 x31 x35 x37 x43} :
    Reports r0 (State.mk s.pending s.mem s.die s.mode s.carry x5 x6 x7 x8 s.turn s.chans s.parkSeq s.classes s.frm s.cores s.libs s.hawk s.mbxs s.sendRes s.sems s.scrs x21 s.vmods x23 s.targets s.ports s.aq s.commits x28 x29 x30 x31 s.turns s.mled s.prm x35 s.hold x37 s.ledger s.kmd s.tap s.lowHeld s.upKept x43 s.porLow s.warmLow s.readOut s.readData s.eccCount s.freeNext) := by
  unfold Reports at *
  rw [h]

theorem Reports.foldl {α : Type} {r0 s : State} {f : State → α → State} (l : List α) (hf : ∀ t a, Reports r0 t → Reports r0 (f t a))
    (h : Reports r0 s) : Reports r0 (l.foldl f s) := by
  induction l generalizing s with
  | nil => exact h
  | cons a r ih => exact ih (hf _ _ h)

theorem Reports.elim {α : Type} {r0 a : State} {o : Option α} {f : α → State} (h : Reports r0 a) (g : ∀ x, Reports r0 (f x)) :
    Reports r0 (o.elim a f) := by
  cases o with
  | none => exact h
  | some x => exact g x

theorem Reports.ite {r0 a b : State} {c : Prop} [Decidable c] (h : Reports r0 a) (g : Reports r0 b) : Reports r0 (if c then a else b) := by
  split <;> assumption

theorem State.each_reports {r0 : State} {α : Type} (s : State) (l : List α) (f : State → α → State)
    (hf : ∀ t a, Reports r0 t → Reports r0 (f t a)) (h : Reports r0 s) : Reports r0 (s.each l f) := Reports.foldl l hf h

theorem State.setQ_reports {r0 : State} (s : State) (n : Nat) (x : Queue) (kp : Reports r0 s) :
    Reports r0 (State.setQ s n x) := by
  unfold State.setQ
  repeat' first
    | with_reducible assumption
    | intro _
    | with_reducible apply Reports.ite
    | (lift_lets; intro _)
    | split
    | dsimp only
    | fail_if_no_progress with_reducible apply Reports.upd
    | dsimp +zetaDelta only

theorem State.updQ_reports {r0 : State} (s : State) (n : Nat) (f : Queue → Queue) (kp : Reports r0 s) :
    Reports r0 (State.updQ s n f) := by
  unfold State.updQ
  repeat' first
    | with_reducible assumption
    | intro _
    | with_reducible apply State.setQ_reports
    | with_reducible apply Reports.ite
    | (lift_lets; intro _)
    | split
    | dsimp only
    | fail_if_no_progress with_reducible apply Reports.upd
    | dsimp +zetaDelta only

theorem State.setSrc_reports {r0 : State} (s : State) (n : Nat) (x : Src) (kp : Reports r0 s) :
    Reports r0 (State.setSrc s n x) := by
  unfold State.setSrc
  repeat' first
    | with_reducible assumption
    | intro _
    | with_reducible apply Reports.ite
    | (lift_lets; intro _)
    | split
    | dsimp only
    | fail_if_no_progress with_reducible apply Reports.upd
    | dsimp +zetaDelta only

theorem State.updSrc_reports {r0 : State} (s : State) (n : Nat) (f : Src → Src) (kp : Reports r0 s) :
    Reports r0 (State.updSrc s n f) := by
  unfold State.updSrc
  repeat' first
    | with_reducible assumption
    | intro _
    | with_reducible apply State.setSrc_reports
    | with_reducible apply Reports.ite
    | (lift_lets; intro _)
    | split
    | dsimp only
    | fail_if_no_progress with_reducible apply Reports.upd
    | dsimp +zetaDelta only

theorem State.setLink_reports {r0 : State} (s : State) (md : Nat) (l : Link) (kp : Reports r0 s) :
    Reports r0 (State.setLink s md l) := by
  unfold State.setLink
  repeat' first
    | with_reducible assumption
    | intro _
    | with_reducible apply Reports.ite
    | (lift_lets; intro _)
    | split
    | dsimp only
    | fail_if_no_progress with_reducible apply Reports.upd
    | dsimp +zetaDelta only

theorem State.updLink_reports {r0 : State} (s : State) (md : Nat) (f : Link → Link) (kp : Reports r0 s) :
    Reports r0 (State.updLink s md f) := by
  unfold State.updLink
  repeat' first
    | with_reducible assumption
    | intro _
    | with_reducible apply State.setLink_reports
    | with_reducible apply Reports.ite
    | (lift_lets; intro _)
    | split
    | dsimp only
    | fail_if_no_progress with_reducible apply Reports.upd
    | dsimp +zetaDelta only

theorem State.updCfg_reports {r0 : State} (s : State) (md : Nat) (f : LinkCfg → LinkCfg) (kp : Reports r0 s) :
    Reports r0 (State.updCfg s md f) := by
  unfold State.updCfg
  repeat' first
    | with_reducible assumption
    | intro _
    | with_reducible apply State.updLink_reports
    | with_reducible apply Reports.ite
    | (lift_lets; intro _)
    | split
    | dsimp only
    | fail_if_no_progress with_reducible apply Reports.upd
    | dsimp +zetaDelta only

theorem State.updDom_reports {r0 : State} (s : State) (d : Nat) (f : Dom → Dom) (kp : Reports r0 s) :
    Reports r0 (State.updDom s d f) := by
  unfold State.updDom
  repeat' first
    | with_reducible assumption
    | intro _
    | with_reducible apply Reports.ite
    | (lift_lets; intro _)
    | split
    | dsimp only
    | fail_if_no_progress with_reducible apply Reports.upd
    | dsimp +zetaDelta only

theorem State.noteWake_reports {r0 : State} (s : State) (d : Nat) (cause : Nat) (kp : Reports r0 s) :
    Reports r0 (State.noteWake s d cause) := by
  unfold State.noteWake
  repeat' first
    | with_reducible assumption
    | intro _
    | with_reducible apply Reports.ite
    | (lift_lets; intro _)
    | split
    | dsimp only
    | fail_if_no_progress with_reducible apply Reports.upd
    | dsimp +zetaDelta only

theorem State.wakeDomain_reports {r0 : State} (s : State) (d : Nat) (cause : Nat) (kp : Reports r0 s) :
    Reports r0 (State.wakeDomain s d cause) := by
  unfold State.wakeDomain
  repeat' first
    | with_reducible assumption
    | intro _
    | with_reducible apply State.noteWake_reports
    | with_reducible apply State.updDom_reports
    | with_reducible apply Reports.ite
    | (lift_lets; intro _)
    | split
    | dsimp only
    | fail_if_no_progress with_reducible apply Reports.upd
    | dsimp +zetaDelta only

theorem State.wakeFor_reports {r0 : State} (s : State) (off : Nat) (kp : Reports r0 s) :
    Reports r0 (State.wakeFor s off) := by
  unfold State.wakeFor
  repeat' first
    | with_reducible assumption
    | intro _
    | with_reducible apply Reports.elim
    | with_reducible apply State.wakeDomain_reports
    | with_reducible apply Reports.ite
    | (lift_lets; intro _)
    | split
    | dsimp only
    | fail_if_no_progress with_reducible apply Reports.upd
    | dsimp +zetaDelta only

theorem State.touchCell_reports {r0 : State} (s : State) (k : Nat) (kp : Reports r0 s) :
    Reports r0 (State.touchCell s k) := by
  unfold State.touchCell
  repeat' first
    | with_reducible assumption
    | intro _
    | with_reducible apply State.wakeDomain_reports
    | with_reducible apply Reports.ite
    | (lift_lets; intro _)
    | split
    | dsimp only
    | fail_if_no_progress with_reducible apply Reports.upd
    | dsimp +zetaDelta only

theorem State.accErr_reports {r0 : State} (s : State) (m : Nat) (kp : Reports r0 s) :
    Reports r0 (State.accErr s m) := by
  unfold State.accErr
  repeat' first
    | with_reducible assumption
    | intro _
    | with_reducible apply Reports.ite
    | (lift_lets; intro _)
    | split
    | dsimp only
    | fail_if_no_progress with_reducible apply Reports.upd
    | dsimp +zetaDelta only

theorem State.aerUnc_reports {r0 : State} (s : State) (md : Nat) (bit : Nat) (hdr : BitVec 128) (advisory : Bool) (kp : Reports r0 s) :
    Reports r0 (State.aerUnc s md bit hdr advisory) := by
  unfold State.aerUnc
  repeat' first
    | with_reducible assumption
    | intro _
    | with_reducible apply State.updLink_reports
    | with_reducible apply Reports.ite
    | (lift_lets; intro _)
    | split
    | dsimp only
    | fail_if_no_progress with_reducible apply Reports.upd
    | dsimp +zetaDelta only

theorem State.aerCor_reports {r0 : State} (s : State) (md : Nat) (bit : Nat) (kp : Reports r0 s) :
    Reports r0 (State.aerCor s md bit) := by
  unfold State.aerCor
  repeat' first
    | with_reducible assumption
    | intro _
    | with_reducible apply State.updLink_reports
    | with_reducible apply Reports.ite
    | (lift_lets; intro _)
    | split
    | dsimp only
    | fail_if_no_progress with_reducible apply Reports.upd
    | dsimp +zetaDelta only

theorem State.wantLink_reports {r0 : State} (s : State) (md : Nat) (kp : Reports r0 s) :
    Reports r0 (State.wantLink s md) := by
  unfold State.wantLink
  repeat' first
    | with_reducible assumption
    | intro _
    | with_reducible apply State.setLink_reports
    | with_reducible apply Reports.ite
    | (lift_lets; intro _)
    | split
    | dsimp only
    | fail_if_no_progress with_reducible apply Reports.upd
    | dsimp +zetaDelta only

theorem State.egress_reports {r0 : State} (s : State) (md : Nat) (kind : EgKind) (addr : Word64) (bytes : List Byte) (relaxed : Bool) (kp : Reports r0 s) :
    Reports r0 (State.egress s md kind addr bytes relaxed) := by
  unfold State.egress
  repeat' first
    | with_reducible assumption
    | intro _
    | with_reducible apply State.setLink_reports
    | with_reducible apply State.wantLink_reports
    | with_reducible apply Reports.ite
    | (lift_lets; intro _)
    | split
    | dsimp only
    | fail_if_no_progress with_reducible apply Reports.upd
    | dsimp +zetaDelta only

theorem State.sendMsix_reports {r0 : State} (s : State) (md : Nat) (v : Nat) (kp : Reports r0 s) :
    Reports r0 (State.sendMsix s md v) := by
  unfold State.sendMsix
  repeat' first
    | with_reducible assumption
    | intro _
    | with_reducible apply State.updCfg_reports
    | with_reducible apply State.egress_reports
    | with_reducible apply Reports.ite
    | (lift_lets; intro _)
    | split
    | dsimp only
    | fail_if_no_progress with_reducible apply Reports.upd
    | dsimp +zetaDelta only

theorem State.pbaSend_reports {r0 : State} (s : State) (md : Nat) (vs : List Nat) (kp : Reports r0 s) :
    Reports r0 (State.pbaSend s md vs) := by
  unfold State.pbaSend
  repeat' first
    | with_reducible assumption
    | intro _
    | with_reducible apply State.each_reports
    | with_reducible apply State.egress_reports
    | with_reducible apply State.updCfg_reports
    | with_reducible apply Reports.ite
    | (lift_lets; intro _)
    | split
    | dsimp only
    | fail_if_no_progress with_reducible apply Reports.upd
    | dsimp +zetaDelta only

theorem State.wantMsix_reports {r0 : State} (s : State) (md : Nat) (kp : Reports r0 s) :
    Reports r0 (State.wantMsix s md) := by
  unfold State.wantMsix
  repeat' first
    | with_reducible assumption
    | intro _
    | with_reducible apply State.wantLink_reports
    | with_reducible apply Reports.ite
    | (lift_lets; intro _)
    | split
    | dsimp only
    | fail_if_no_progress with_reducible apply Reports.upd
    | dsimp +zetaDelta only

theorem State.closeBatch_reports {r0 : State} (s : State) (md : Nat) (v : Nat) (kp : Reports r0 s) :
    Reports r0 (State.closeBatch s md v) := by
  unfold State.closeBatch
  repeat' first
    | with_reducible assumption
    | intro _
    | with_reducible apply State.sendMsix_reports
    | with_reducible apply State.wantMsix_reports
    | with_reducible apply Reports.ite
    | (lift_lets; intro _)
    | split
    | dsimp only
    | fail_if_no_progress with_reducible apply Reports.upd
    | dsimp +zetaDelta only

theorem State.dropBatches_reports {r0 : State} (s : State) (md : Nat) (kp : Reports r0 s) :
    Reports r0 (State.dropBatches s md) := by
  unfold State.dropBatches
  repeat' first
    | with_reducible assumption
    | intro _
    | with_reducible apply State.each_reports
    | with_reducible apply State.updSrc_reports
    | with_reducible apply Reports.ite
    | (lift_lets; intro _)
    | split
    | dsimp only
    | fail_if_no_progress with_reducible apply Reports.upd
    | dsimp +zetaDelta only

theorem State.msixEvent_reports {r0 : State} (s : State) (n : Nat) (kp : Reports r0 s) :
    Reports r0 (State.msixEvent s n) := by
  unfold State.msixEvent
  repeat' first
    | with_reducible assumption
    | intro _
    | with_reducible apply State.wantMsix_reports
    | with_reducible apply State.updSrc_reports
    | with_reducible apply State.sendMsix_reports
    | with_reducible apply State.closeBatch_reports
    | with_reducible apply Reports.ite
    | (lift_lets; intro _)
    | split
    | dsimp only
    | fail_if_no_progress with_reducible apply Reports.upd
    | dsimp +zetaDelta only

theorem State.route_reports {r0 : State} (s : State) (n : Nat) (kp : Reports r0 s) :
    Reports r0 (State.route s n) := by
  unfold State.route
  repeat' first
    | with_reducible assumption
    | intro _
    | with_reducible apply State.setSrc_reports
    | with_reducible apply State.wakeDomain_reports
    | with_reducible apply Reports.ite
    | (lift_lets; intro _)
    | split
    | dsimp only
    | fail_if_no_progress with_reducible apply Reports.upd
    | dsimp +zetaDelta only

theorem State.present_reports {r0 : State} (s : State) (n : Nat) (kp : Reports r0 s) :
    Reports r0 (State.present s n) := by
  unfold State.present
  repeat' first
    | with_reducible assumption
    | intro _
    | with_reducible apply State.route_reports
    | with_reducible apply State.msixEvent_reports
    | with_reducible apply Reports.ite
    | (lift_lets; intro _)
    | split
    | dsimp only
    | fail_if_no_progress with_reducible apply Reports.upd
    | dsimp +zetaDelta only

theorem State.edge_reports {r0 : State} (s : State) (n : Nat) (kp : Reports r0 s) :
    Reports r0 (State.edge s n) := by
  unfold State.edge
  repeat' first
    | with_reducible assumption
    | intro _
    | with_reducible apply State.present_reports
    | with_reducible apply State.updSrc_reports
    | with_reducible apply Reports.ite
    | (lift_lets; intro _)
    | split
    | dsimp only
    | fail_if_no_progress with_reducible apply Reports.upd
    | dsimp +zetaDelta only

theorem State.levelEval_reports {r0 : State} (s : State) (n : Nat) (kp : Reports r0 s) :
    Reports r0 (State.levelEval s n) := by
  unfold State.levelEval
  repeat' first
    | with_reducible assumption
    | intro _
    | with_reducible apply State.present_reports
    | with_reducible apply State.setSrc_reports
    | with_reducible apply State.route_reports
    | with_reducible apply Reports.ite
    | (lift_lets; intro _)
    | split
    | dsimp only
    | fail_if_no_progress with_reducible apply Reports.upd
    | dsimp +zetaDelta only

theorem State.heldPulse_reports {r0 : State} (s0 : State) (s : State) (kp : Reports r0 s) :
    Reports r0 (State.heldPulse s0 s) := by
  unfold State.heldPulse
  repeat' first
    | with_reducible assumption
    | intro _
    | with_reducible apply State.edge_reports
    | with_reducible apply Reports.ite
    | (lift_lets; intro _)
    | split
    | dsimp only
    | fail_if_no_progress with_reducible apply Reports.upd
    | dsimp +zetaDelta only

theorem State.setLine_reports {r0 : State} (s : State) (n : Nat) (level : Bool) (kp : Reports r0 s) :
    Reports r0 (State.setLine s n level) := by
  unfold State.setLine
  repeat' first
    | with_reducible assumption
    | intro _
    | with_reducible apply State.setSrc_reports
    | with_reducible apply State.levelEval_reports
    | with_reducible apply State.heldPulse_reports
    | with_reducible apply State.edge_reports
    | with_reducible apply Reports.ite
    | (lift_lets; intro _)
    | split
    | dsimp only
    | fail_if_no_progress with_reducible apply Reports.upd
    | dsimp +zetaDelta only

theorem State.pulse_reports {r0 : State} (s : State) (n : Nat) (kp : Reports r0 s) :
    Reports r0 (State.pulse s n) := by
  unfold State.pulse
  repeat' first
    | with_reducible assumption
    | intro _
    | with_reducible apply State.heldPulse_reports
    | with_reducible apply State.edge_reports
    | with_reducible apply Reports.ite
    | (lift_lets; intro _)
    | split
    | dsimp only
    | fail_if_no_progress with_reducible apply Reports.upd
    | dsimp +zetaDelta only

theorem State.accFault_reports {r0 : State} (s : State) (m : Nat) (kp : Reports r0 s) :
    Reports r0 (State.accFault s m) := by
  unfold State.accFault
  repeat' first
    | with_reducible assumption
    | intro _
    | with_reducible apply State.pulse_reports
    | with_reducible apply State.accErr_reports
    | with_reducible apply Reports.ite
    | (lift_lets; intro _)
    | split
    | dsimp only
    | fail_if_no_progress with_reducible apply Reports.upd
    | dsimp +zetaDelta only

theorem State.takeSrc_reports {r0 : State} (s : State) (n : Nat) (kp : Reports r0 s) :
    Reports r0 (State.takeSrc s n) := by
  unfold State.takeSrc
  repeat' first
    | with_reducible assumption
    | intro _
    | with_reducible apply State.updSrc_reports
    | with_reducible apply Reports.ite
    | (lift_lets; intro _)
    | split
    | dsimp only
    | fail_if_no_progress with_reducible apply Reports.upd
    | dsimp +zetaDelta only

theorem State.routeAll_reports {r0 : State} (s : State) (kp : Reports r0 s) :
    Reports r0 (State.routeAll s) := by
  unfold State.routeAll
  repeat' first
    | with_reducible assumption
    | intro _
    | with_reducible apply State.each_reports
    | with_reducible apply State.route_reports
    | with_reducible apply Reports.ite
    | (lift_lets; intro _)
    | split
    | dsimp only
    | fail_if_no_progress with_reducible apply Reports.upd
    | dsimp +zetaDelta only

theorem State.reofferMember_reports {r0 : State} (s : State) (i : Nat) (kp : Reports r0 s) :
    Reports r0 (State.reofferMember s i) := by
  unfold State.reofferMember
  repeat' first
    | with_reducible assumption
    | intro _
    | with_reducible apply State.each_reports
    | with_reducible apply State.route_reports
    | with_reducible apply Reports.ite
    | (lift_lets; intro _)
    | split
    | dsimp only
    | fail_if_no_progress with_reducible apply Reports.upd
    | dsimp +zetaDelta only

theorem State.closeAll_reports {r0 : State} (s : State) (md : Nat) (l : List (Nat × Batch)) (kp : Reports r0 s) :
    Reports r0 (State.closeAll s md l) := by
  unfold State.closeAll
  repeat' first
    | with_reducible assumption
    | intro _
    | with_reducible apply State.each_reports
    | with_reducible apply State.closeBatch_reports
    | with_reducible apply Reports.ite
    | (lift_lets; intro _)
    | split
    | dsimp only
    | fail_if_no_progress with_reducible apply Reports.upd
    | dsimp +zetaDelta only

theorem State.flushModule_reports {r0 : State} (s : State) (md : Nat) (kp : Reports r0 s) :
    Reports r0 (State.flushModule s md) := by
  unfold State.flushModule
  repeat' first
    | with_reducible assumption
    | intro _
    | with_reducible apply State.closeAll_reports
    | with_reducible apply Reports.ite
    | (lift_lets; intro _)
    | split
    | dsimp only
    | fail_if_no_progress with_reducible apply Reports.upd
    | dsimp +zetaDelta only

theorem State.batchSend_reports {r0 : State} (s : State) (md : Nat) (kp : Reports r0 s) :
    Reports r0 (State.batchSend s md) := by
  unfold State.batchSend
  repeat' first
    | with_reducible assumption
    | intro _
    | with_reducible apply State.closeAll_reports
    | with_reducible apply Reports.ite
    | (lift_lets; intro _)
    | split
    | dsimp only
    | fail_if_no_progress with_reducible apply Reports.upd
    | dsimp +zetaDelta only

theorem State.dueSend_reports {r0 : State} (s : State) (md : Nat) (kp : Reports r0 s) :
    Reports r0 (State.dueSend s md) := by
  unfold State.dueSend
  repeat' first
    | with_reducible assumption
    | intro _
    | with_reducible apply State.each_reports
    | with_reducible apply State.sendMsix_reports
    | with_reducible apply State.updSrc_reports
    | with_reducible apply Reports.ite
    | (lift_lets; intro _)
    | split
    | dsimp only
    | fail_if_no_progress with_reducible apply Reports.upd
    | dsimp +zetaDelta only

theorem State.flushJournal_reports {r0 : State} (s : State) (kp : Reports r0 s) :
    Reports r0 (State.flushJournal s) := by
  unfold State.flushJournal
  repeat' first
    | with_reducible assumption
    | intro _
    | with_reducible apply State.wakeDomain_reports
    | with_reducible apply Reports.ite
    | (lift_lets; intro _)
    | split
    | dsimp only
    | fail_if_no_progress with_reducible apply Reports.upd
    | dsimp +zetaDelta only

theorem State.journalRec_reports {r0 : State} (s : State) (code : BitVec 16) (long : Bool) (step : Bool) (fw : Bool) (mid : Nat) (payload : Nat) (kp : Reports r0 s) :
    Reports r0 (State.journalRec s code long step fw mid payload) := by
  unfold State.journalRec
  repeat' first
    | with_reducible assumption
    | intro _
    | with_reducible apply State.flushJournal_reports
    | with_reducible apply Reports.ite
    | (lift_lets; intro _)
    | split
    | dsimp only
    | fail_if_no_progress with_reducible apply Reports.upd
    | dsimp +zetaDelta only

theorem State.journalHost_reports {r0 : State} (s : State) (m : Nat) (kind : Nat) (q : Nat) (count : Nat) (why : Nat) (kp : Reports r0 s) :
    Reports r0 (State.journalHost s m kind q count why) := by
  unfold State.journalHost
  repeat' first
    | with_reducible assumption
    | intro _
    | with_reducible apply State.journalRec_reports
    | with_reducible apply Reports.ite
    | (lift_lets; intro _)
    | split
    | dsimp only
    | fail_if_no_progress with_reducible apply Reports.upd
    | dsimp +zetaDelta only

theorem State.dsSend_reports {r0 : State} (s : State) (ty : TxType) (prio : Bool) (body : TxBody) (kp : Reports r0 s) :
    Reports r0 (State.dsSend s ty prio body) := by
  unfold State.dsSend
  repeat' first
    | with_reducible assumption
    | intro _
    | with_reducible apply Reports.ite
    | (lift_lets; intro _)
    | split
    | dsimp only
    | fail_if_no_progress with_reducible apply Reports.upd
    | dsimp +zetaDelta only

theorem State.mirror_reports {r0 : State} (s : State) (ty : TxType) (prio : Bool) (body : TxBody) (kp : Reports r0 s) :
    Reports r0 (State.mirror s ty prio body) := by
  unfold State.mirror
  repeat' first
    | with_reducible assumption
    | intro _
    | with_reducible apply State.dsSend_reports
    | with_reducible apply Reports.ite
    | (lift_lets; intro _)
    | split
    | dsimp only
    | fail_if_no_progress with_reducible apply Reports.upd
    | dsimp +zetaDelta only

theorem State.cfgMirror_reports {r0 : State} (s : State) (off : Nat) (size : Nat) (v : Nat) (kp : Reports r0 s) :
    Reports r0 (State.cfgMirror s off size v) := by
  unfold State.cfgMirror
  repeat' first
    | with_reducible assumption
    | intro _
    | with_reducible apply State.mirror_reports
    | with_reducible apply Reports.ite
    | (lift_lets; intro _)
    | split
    | dsimp only
    | fail_if_no_progress with_reducible apply Reports.upd
    | dsimp +zetaDelta only

theorem State.notePeak_reports {r0 : State} (s : State) (t : Nat) (kp : Reports r0 s) :
    Reports r0 (State.notePeak s t) := by
  unfold State.notePeak
  repeat' first
    | with_reducible assumption
    | intro _
    | with_reducible apply Reports.ite
    | (lift_lets; intro _)
    | split
    | dsimp only
    | fail_if_no_progress with_reducible apply Reports.upd
    | dsimp +zetaDelta only

theorem State.sendSlices_reports {r0 : State} (s : State) (kp : Reports r0 s) :
    Reports r0 (State.sendSlices s) := by
  unfold State.sendSlices
  repeat' first
    | with_reducible assumption
    | intro _
    | with_reducible apply State.each_reports
    | with_reducible apply State.dsSend_reports
    | with_reducible apply Reports.ite
    | (lift_lets; intro _)
    | split
    | dsimp only
    | fail_if_no_progress with_reducible apply Reports.upd
    | dsimp +zetaDelta only

theorem State.mirrorCh_reports {r0 : State} (s : State) (ch : Nat) (kp : Reports r0 s) :
    Reports r0 (State.mirrorCh s ch) := by
  unfold State.mirrorCh
  repeat' first
    | with_reducible assumption
    | intro _
    | with_reducible apply State.mirror_reports
    | with_reducible apply Reports.ite
    | (lift_lets; intro _)
    | split
    | dsimp only
    | fail_if_no_progress with_reducible apply Reports.upd
    | dsimp +zetaDelta only

theorem State.enterHead_reports {r0 : State} (s : State) (q : Nat) (bytes : List Byte) (raise : Bool) (kp : Reports r0 s) :
    Reports r0 (State.enterHead s q bytes raise) := by
  unfold State.enterHead
  repeat' first
    | with_reducible assumption
    | intro _
    | with_reducible apply State.setLink_reports
    | with_reducible apply State.heldPulse_reports
    | with_reducible apply State.egress_reports
    | with_reducible apply State.pulse_reports
    | with_reducible apply Reports.ite
    | (lift_lets; intro _)
    | split
    | dsimp only
    | fail_if_no_progress with_reducible apply Reports.upd
    | dsimp +zetaDelta only

theorem State.gateRec_reports {r0 : State} (s : State) (md : Nat) (w : Egress) (raise : Bool) (kp : Reports r0 s) :
    Reports r0 (State.gateRec s md w raise) := by
  unfold State.gateRec
  repeat' first
    | with_reducible assumption
    | intro _
    | with_reducible apply Reports.ite
    | (lift_lets; intro _)
    | split
    | dsimp only
    | fail_if_no_progress with_reducible apply Reports.upd
    | dsimp +zetaDelta only

theorem State.putRec_reports {r0 : State} (s : State) (md : Nat) (w : Egress) (enter : State → State) (henter : ∀ t, Reports r0 t → Reports r0 (enter t)) (kp : Reports r0 s) :
    Reports r0 (State.putRec s md w enter) := by
  unfold State.putRec
  repeat' first
    | with_reducible assumption
    | intro _
    | with_reducible apply henter
    | with_reducible apply State.gateRec_reports
    | with_reducible apply State.mirror_reports
    | with_reducible apply Reports.ite
    | (lift_lets; intro _)
    | split
    | dsimp only
    | fail_if_no_progress with_reducible apply Reports.upd
    | dsimp +zetaDelta only

theorem State.writeHead_reports {r0 : State} (s : State) (q : Nat) (kp : Reports r0 s) :
    Reports r0 (State.writeHead s q) := by
  unfold State.writeHead
  repeat' first
    | with_reducible assumption
    | intro _
    | with_reducible apply State.updQ_reports
    | with_reducible apply State.gateRec_reports
    | with_reducible apply State.mirror_reports
    | with_reducible apply State.enterHead_reports
    | with_reducible apply Reports.ite
    | (lift_lets; intro _)
    | split
    | dsimp only
    | fail_if_no_progress with_reducible apply Reports.upd
    | dsimp +zetaDelta only

theorem State.advance0_reports {r0 : State} (s : State) (q : Nat) (kp : Reports r0 s) :
    Reports r0 (State.advance0 s q) := by
  unfold State.advance0
  repeat' first
    | with_reducible assumption
    | intro _
    | with_reducible apply State.writeHead_reports
    | with_reducible apply State.setQ_reports
    | with_reducible apply Reports.ite
    | (lift_lets; intro _)
    | split
    | dsimp only
    | fail_if_no_progress with_reducible apply Reports.upd
    | dsimp +zetaDelta only

theorem State.markDone_reports {r0 : State} (s : State) (q : Nat) (cnt : Word32) (kp : Reports r0 s) :
    Reports r0 (State.markDone s q cnt) := by
  unfold State.markDone
  repeat' first
    | with_reducible assumption
    | intro _
    | with_reducible apply State.updQ_reports
    | with_reducible apply Reports.ite
    | (lift_lets; intro _)
    | split
    | dsimp only
    | fail_if_no_progress with_reducible apply Reports.upd
    | dsimp +zetaDelta only

theorem State.send_reports {r0 : State} (s : State) (md : Nat) (kind : EgKind) (addr : Word64) (bytes : List Byte) (relaxed : Bool) (kp : Reports r0 s) :
    Reports r0 (State.send s md kind addr bytes relaxed) := by
  unfold State.send
  repeat' first
    | with_reducible assumption
    | intro _
    | with_reducible apply State.heldPulse_reports
    | with_reducible apply State.egress_reports
    | with_reducible apply Reports.ite
    | (lift_lets; intro _)
    | split
    | dsimp only
    | fail_if_no_progress with_reducible apply Reports.upd
    | dsimp +zetaDelta only

theorem State.enterEntry_reports {r0 : State} (s : State) (q : Nat) (cnt : Word32) (b : List Byte) (kp : Reports r0 s) :
    Reports r0 (State.enterEntry s q cnt b) := by
  unfold State.enterEntry
  repeat' first
    | with_reducible assumption
    | intro _
    | with_reducible apply State.send_reports
    | with_reducible apply State.advance0_reports
    | with_reducible apply State.markDone_reports
    | with_reducible apply Reports.ite
    | (lift_lets; intro _)
    | split
    | dsimp only
    | fail_if_no_progress with_reducible apply Reports.upd
    | dsimp +zetaDelta only

theorem State.finish0_reports {r0 : State} (s : State) (q : Nat) (cnt : Word32) (r : StatusRec) (kp : Reports r0 s) :
    Reports r0 (State.finish0 s q cnt r) := by
  unfold State.finish0
  repeat' first
    | with_reducible assumption
    | intro _
    | with_reducible apply State.putRec_reports
    | with_reducible apply State.enterEntry_reports
    | with_reducible apply Reports.ite
    | (lift_lets; intro _)
    | split
    | dsimp only
    | fail_if_no_progress with_reducible apply Reports.upd
    | dsimp +zetaDelta only

theorem State.finishFence_reports {r0 : State} (s : State) (q : Nat) (f : Word32) (detail : Nat) (kp : Reports r0 s) :
    Reports r0 (State.finishFence s q f detail) := by
  unfold State.finishFence
  repeat' first
    | with_reducible assumption
    | intro _
    | with_reducible apply State.updQ_reports
    | with_reducible apply State.finish0_reports
    | with_reducible apply Reports.ite
    | (lift_lets; intro _)
    | split
    | dsimp only
    | fail_if_no_progress with_reducible apply Reports.upd
    | dsimp +zetaDelta only

theorem State.settle_reports {r0 : State} (s : State)  (n : Nat) (h : Reports r0 s) : Reports r0 (s.settle n) := by
  induction n generalizing s with
  | zero => exact h
  | succ n ih =>
    unfold State.settle
    repeat' first
      | with_reducible assumption
      | with_reducible apply ih
      | with_reducible apply State.finishFence_reports
      | intro _
      | split
      | dsimp only
      | fail_if_no_progress with_reducible apply Reports.upd

theorem State.settled_reports {r0 : State} (s : State) (kp : Reports r0 s) :
    Reports r0 (State.settled s) := by
  unfold State.settled
  repeat' first
    | with_reducible assumption
    | intro _
    | with_reducible apply State.settle_reports
    | with_reducible apply Reports.ite
    | (lift_lets; intro _)
    | split
    | dsimp only
    | fail_if_no_progress with_reducible apply Reports.upd
    | dsimp +zetaDelta only

theorem State.advance_reports {r0 : State} (s : State) (q : Nat) (kp : Reports r0 s) :
    Reports r0 (State.advance s q) := by
  unfold State.advance
  repeat' first
    | with_reducible assumption
    | intro _
    | with_reducible apply State.settled_reports
    | with_reducible apply State.advance0_reports
    | with_reducible apply Reports.ite
    | (lift_lets; intro _)
    | split
    | dsimp only
    | fail_if_no_progress with_reducible apply Reports.upd
    | dsimp +zetaDelta only

theorem State.finish_reports {r0 : State} (s : State) (q : Nat) (cnt : Word32) (r : StatusRec) (kp : Reports r0 s) :
    Reports r0 (State.finish s q cnt r) := by
  unfold State.finish
  repeat' first
    | with_reducible assumption
    | intro _
    | with_reducible apply State.settled_reports
    | with_reducible apply State.finish0_reports
    | with_reducible apply Reports.ite
    | (lift_lets; intro _)
    | split
    | dsimp only
    | fail_if_no_progress with_reducible apply Reports.upd
    | dsimp +zetaDelta only

theorem State.portLine_reports {r0 : State} (s : State) (p : Nat) (kp : Reports r0 s) :
    Reports r0 (State.portLine s p) := by
  unfold State.portLine
  repeat' first
    | with_reducible assumption
    | intro _
    | with_reducible apply State.setLine_reports
    | with_reducible apply Reports.ite
    | (lift_lets; intro _)
    | split
    | dsimp only
    | fail_if_no_progress with_reducible apply Reports.upd
    | dsimp +zetaDelta only

theorem State.retarget_reports {r0 : State} (s : State) (kp : Reports r0 s) :
    Reports r0 (State.retarget s) := by
  unfold State.retarget
  repeat' first
    | with_reducible assumption
    | intro _
    | with_reducible apply State.each_reports
    | with_reducible apply State.wakeDomain_reports
    | with_reducible apply Reports.ite
    | (lift_lets; intro _)
    | split
    | dsimp only
    | fail_if_no_progress with_reducible apply Reports.upd
    | dsimp +zetaDelta only

theorem State.sendHb_reports {r0 : State} (s : State) (halting : Bool) (kp : Reports r0 s) :
    Reports r0 (State.sendHb s halting) := by
  unfold State.sendHb
  repeat' first
    | with_reducible assumption
    | intro _
    | with_reducible apply State.dsSend_reports
    | with_reducible apply Reports.ite
    | (lift_lets; intro _)
    | split
    | dsimp only
    | fail_if_no_progress with_reducible apply Reports.upd
    | dsimp +zetaDelta only

theorem State.pumpReads_reports {r0 : State} (s : State) (md : Nat)  (n : Nat) (h : Reports r0 s) : Reports r0 (s.pumpReads md n) := by
  induction n generalizing s with
  | zero => exact h
  | succ n ih =>
    unfold State.pumpReads
    repeat' first
      | with_reducible assumption
      | with_reducible apply ih
      | with_reducible apply State.setLink_reports
      | intro _
      | split
      | dsimp only
      | fail_if_no_progress with_reducible apply Reports.upd

theorem State.pump_reports {r0 : State} (s : State) (md : Nat) (kp : Reports r0 s) :
    Reports r0 (State.pump s md) := by
  unfold State.pump
  repeat' first
    | with_reducible assumption
    | intro _
    | with_reducible apply State.pumpReads_reports
    | with_reducible apply Reports.ite
    | (lift_lets; intro _)
    | split
    | dsimp only
    | fail_if_no_progress with_reducible apply Reports.upd
    | dsimp +zetaDelta only

theorem State.pumpAll_reports {r0 : State} (s : State) (md : Nat) (kp : Reports r0 s) :
    Reports r0 (State.pumpAll s md) := by
  unfold State.pumpAll
  repeat' first
    | with_reducible assumption
    | intro _
    | with_reducible apply State.pump_reports
    | with_reducible apply Reports.ite
    | (lift_lets; intro _)
    | split
    | dsimp only
    | fail_if_no_progress with_reducible apply Reports.upd
    | dsimp +zetaDelta only

theorem State.askRead_reports {r0 : State} (s : State) (md : Nat) (r : HostRead) (kp : Reports r0 s) :
    Reports r0 (State.askRead s md r) := by
  unfold State.askRead
  repeat' first
    | with_reducible assumption
    | intro _
    | with_reducible apply State.pump_reports
    | with_reducible apply State.wantLink_reports
    | with_reducible apply State.updLink_reports
    | with_reducible apply Reports.ite
    | (lift_lets; intro _)
    | split
    | dsimp only
    | fail_if_no_progress with_reducible apply Reports.upd
    | dsimp +zetaDelta only

theorem State.dropReads_reports {r0 : State} (s : State) (p : ReadReq → Bool) (kp : Reports r0 s) :
    Reports r0 (State.dropReads s p) := by
  unfold State.dropReads
  repeat' first
    | with_reducible assumption
    | intro _
    | with_reducible apply Reports.ite
    | (lift_lets; intro _)
    | split
    | dsimp only
    | fail_if_no_progress with_reducible apply Reports.upd
    | dsimp +zetaDelta only

theorem State.writeHost_reports {r0 : State} (s : State) (md : Nat) (kind : EgKind) (addr : Nat) (l : List Byte) (relaxed : Bool)  (n : Nat) (h : Reports r0 s) : Reports r0 (s.writeHost md kind addr l relaxed n) := by
  induction n generalizing s addr l with
  | zero => exact h
  | succ n ih =>
    unfold State.writeHost
    repeat' first
      | with_reducible assumption
      | with_reducible apply ih
      | with_reducible apply State.send_reports
      | intro _
      | split
      | dsimp only
      | fail_if_no_progress with_reducible apply Reports.upd

theorem State.lockLine_reports {r0 : State} (s : State) (kp : Reports r0 s) :
    Reports r0 (State.lockLine s) := by
  unfold State.lockLine
  repeat' first
    | with_reducible assumption
    | intro _
    | with_reducible apply State.setLine_reports
    | with_reducible apply Reports.ite
    | (lift_lets; intro _)
    | split
    | dsimp only
    | fail_if_no_progress with_reducible apply Reports.upd
    | dsimp +zetaDelta only

theorem State.setLock_reports {r0 : State} (s : State) (core : Nat) (b : Bool) (kp : Reports r0 s) :
    Reports r0 (State.setLock s core b) := by
  unfold State.setLock
  repeat' first
    | with_reducible assumption
    | intro _
    | with_reducible apply State.lockLine_reports
    | with_reducible apply Reports.ite
    | (lift_lets; intro _)
    | split
    | dsimp only
    | fail_if_no_progress with_reducible apply Reports.upd
    | dsimp +zetaDelta only

theorem State.setFreeze_reports {r0 : State} (s : State) (core : Nat) (b : Bool) (kp : Reports r0 s) :
    Reports r0 (State.setFreeze s core b) := by
  unfold State.setFreeze
  repeat' first
    | with_reducible assumption
    | intro _
    | with_reducible apply Reports.ite
    | (lift_lets; intro _)
    | split
    | dsimp only
    | fail_if_no_progress with_reducible apply Reports.upd
    | dsimp +zetaDelta only

theorem State.mbxLine_reports {r0 : State} (s : State) (mb : Nat) (kp : Reports r0 s) :
    Reports r0 (State.mbxLine s mb) := by
  unfold State.mbxLine
  repeat' first
    | with_reducible assumption
    | intro _
    | with_reducible apply State.setLine_reports
    | with_reducible apply Reports.ite
    | (lift_lets; intro _)
    | split
    | dsimp only
    | fail_if_no_progress with_reducible apply Reports.upd
    | dsimp +zetaDelta only

theorem State.askSlots_reports {r0 : State} (s : State) (q : Nat) (r : ReadReq) (kp : Reports r0 s) :
    Reports r0 (State.askSlots s q r) := by
  unfold State.askSlots
  repeat' first
    | with_reducible assumption
    | intro _
    | with_reducible apply State.askRead_reports
    | with_reducible apply State.updQ_reports
    | with_reducible apply Reports.ite
    | (lift_lets; intro _)
    | split
    | dsimp only
    | fail_if_no_progress with_reducible apply Reports.upd
    | dsimp +zetaDelta only

theorem State.askDesc_reports {r0 : State} (s : State) (q : Nat) (c : Word32) (n : Nat) (again : Bool) (kp : Reports r0 s) :
    Reports r0 (State.askDesc s q c n again) := by
  unfold State.askDesc
  repeat' first
    | with_reducible assumption
    | intro _
    | with_reducible apply State.askSlots_reports
    | with_reducible apply Reports.ite
    | (lift_lets; intro _)
    | split
    | dsimp only
    | fail_if_no_progress with_reducible apply Reports.upd
    | dsimp +zetaDelta only

theorem State.askPoll_reports {r0 : State} (s : State) (q : Nat) (kp : Reports r0 s) :
    Reports r0 (State.askPoll s q) := by
  unfold State.askPoll
  repeat' first
    | with_reducible assumption
    | intro _
    | with_reducible apply State.askSlots_reports
    | with_reducible apply Reports.ite
    | (lift_lets; intro _)
    | split
    | dsimp only
    | fail_if_no_progress with_reducible apply Reports.upd
    | dsimp +zetaDelta only

theorem State.askPcnt_reports {r0 : State} (s : State) (q : Nat) (kp : Reports r0 s) :
    Reports r0 (State.askPcnt s q) := by
  unfold State.askPcnt
  repeat' first
    | with_reducible assumption
    | intro _
    | with_reducible apply State.askRead_reports
    | with_reducible apply State.updQ_reports
    | with_reducible apply Reports.ite
    | (lift_lets; intro _)
    | split
    | dsimp only
    | fail_if_no_progress with_reducible apply Reports.upd
    | dsimp +zetaDelta only

theorem State.slotsGo_reports {r0 : State} (s : State) (kp : Reports r0 s) :
    Reports r0 (State.slotsGo s) := by
  unfold State.slotsGo
  repeat' first
    | with_reducible assumption
    | intro _
    | with_reducible apply State.each_reports
    | with_reducible apply State.askSlots_reports
    | with_reducible apply Reports.ite
    | (lift_lets; intro _)
    | split
    | dsimp only
    | fail_if_no_progress with_reducible apply Reports.upd
    | dsimp +zetaDelta only

theorem State.cancelReads_reports {r0 : State} (s : State) (q : Nat) (kp : Reports r0 s) :
    Reports r0 (State.cancelReads s q) := by
  unfold State.cancelReads
  repeat' first
    | with_reducible assumption
    | intro _
    | with_reducible apply State.updQ_reports
    | with_reducible apply Reports.ite
    | (lift_lets; intro _)
    | split
    | dsimp only
    | fail_if_no_progress with_reducible apply Reports.upd
    | dsimp +zetaDelta only

theorem State.staleSlots_reports {r0 : State} (s : State) (q : Nat) (kp : Reports r0 s) :
    Reports r0 (State.staleSlots s q) := by
  unfold State.staleSlots
  repeat' first
    | with_reducible assumption
    | intro _
    | with_reducible apply State.updQ_reports
    | with_reducible apply State.cancelReads_reports
    | with_reducible apply Reports.ite
    | (lift_lets; intro _)
    | split
    | dsimp only
    | fail_if_no_progress with_reducible apply Reports.upd
    | dsimp +zetaDelta only

theorem State.kick_reports {r0 : State} (s : State) (q : Nat) (kp : Reports r0 s) :
    Reports r0 (State.kick s q) := by
  unfold State.kick
  repeat' first
    | with_reducible assumption
    | intro _
    | with_reducible apply State.askPcnt_reports
    | with_reducible apply State.askDesc_reports
    | with_reducible apply Reports.ite
    | (lift_lets; intro _)
    | split
    | dsimp only
    | fail_if_no_progress with_reducible apply Reports.upd
    | dsimp +zetaDelta only

theorem State.offer_reports {r0 : State} (s : State) (m : Nat) (q : Nat) (count : Word32) (kp : Reports r0 s) :
    Reports r0 (State.offer s m q count) := by
  unfold State.offer
  repeat' first
    | with_reducible assumption
    | intro _
    | with_reducible apply State.kick_reports
    | with_reducible apply State.setQ_reports
    | with_reducible apply State.journalHost_reports
    | with_reducible apply Reports.ite
    | (lift_lets; intro _)
    | split
    | dsimp only
    | fail_if_no_progress with_reducible apply Reports.upd
    | dsimp +zetaDelta only

theorem State.stopQueue_reports {r0 : State} (s : State) (q : Nat) (why : Nat) (errIdx : Word32) (kp : Reports r0 s) :
    Reports r0 (State.stopQueue s q why errIdx) := by
  unfold State.stopQueue
  repeat' first
    | with_reducible assumption
    | intro _
    | with_reducible apply State.advance_reports
    | with_reducible apply State.staleSlots_reports
    | with_reducible apply State.updQ_reports
    | with_reducible apply Reports.ite
    | (lift_lets; intro _)
    | split
    | dsimp only
    | fail_if_no_progress with_reducible apply Reports.upd
    | dsimp +zetaDelta only

theorem State.bindEntry_reports {r0 : State} (s : State) (q : Nat) (len : Nat) (pad : Bool) (fence : Bool) (kp : Reports r0 s) :
    Reports r0 (State.bindEntry s q len pad fence) := by
  unfold State.bindEntry
  repeat' first
    | with_reducible assumption
    | intro _
    | with_reducible apply State.updQ_reports
    | with_reducible apply State.mirror_reports
    | with_reducible apply State.writeHead_reports
    | with_reducible apply Reports.ite
    | (lift_lets; intro _)
    | split
    | dsimp only
    | fail_if_no_progress with_reducible apply Reports.upd
    | dsimp +zetaDelta only

theorem State.bindReturned_reports {r0 : State} (s : State) (q : Nat)  (n : Nat) (h : Reports r0 s) : Reports r0 (s.bindReturned q n) := by
  induction n generalizing s with
  | zero => exact h
  | succ n ih =>
    unfold State.bindReturned
    repeat' first
      | with_reducible assumption
      | with_reducible apply ih
      | with_reducible apply State.updQ_reports
      | with_reducible apply State.bindEntry_reports
      | intro _
      | split
      | dsimp only
      | fail_if_no_progress with_reducible apply Reports.upd

theorem State.enableQ_reports {r0 : State} (s : State) (q : Nat) (kp : Reports r0 s) :
    Reports r0 (State.enableQ s q) := by
  unfold State.enableQ
  repeat' first
    | with_reducible assumption
    | intro _
    | with_reducible apply State.settled_reports
    | with_reducible apply State.writeHead_reports
    | with_reducible apply State.updQ_reports
    | with_reducible apply Reports.ite
    | (lift_lets; intro _)
    | split
    | dsimp only
    | fail_if_no_progress with_reducible apply Reports.upd
    | dsimp +zetaDelta only

theorem State.drainQ_reports {r0 : State} (s : State) (q : Nat) (kp : Reports r0 s) :
    Reports r0 (State.drainQ s q) := by
  unfold State.drainQ
  repeat' first
    | with_reducible assumption
    | intro _
    | with_reducible apply State.updQ_reports
    | with_reducible apply State.cancelReads_reports
    | with_reducible apply State.advance_reports
    | with_reducible apply State.finishFence_reports
    | with_reducible apply Reports.ite
    | (lift_lets; intro _)
    | split
    | dsimp only
    | fail_if_no_progress with_reducible apply Reports.upd
    | dsimp +zetaDelta only

theorem State.pauseQ_reports {r0 : State} (s : State) (q : Nat) (kp : Reports r0 s) :
    Reports r0 (State.pauseQ s q) := by
  unfold State.pauseQ
  repeat' first
    | with_reducible assumption
    | intro _
    | with_reducible apply State.writeHead_reports
    | with_reducible apply State.updQ_reports
    | with_reducible apply State.cancelReads_reports
    | with_reducible apply Reports.ite
    | (lift_lets; intro _)
    | split
    | dsimp only
    | fail_if_no_progress with_reducible apply Reports.upd
    | dsimp +zetaDelta only

theorem State.restartQ_reports {r0 : State} (s : State) (q : Nat) (kp : Reports r0 s) :
    Reports r0 (State.restartQ s q) := by
  unfold State.restartQ
  repeat' first
    | with_reducible assumption
    | intro _
    | with_reducible apply State.writeHead_reports
    | with_reducible apply State.updQ_reports
    | with_reducible apply State.staleSlots_reports
    | with_reducible apply State.askDesc_reports
    | with_reducible apply State.askPoll_reports
    | with_reducible apply State.kick_reports
    | with_reducible apply Reports.ite
    | (lift_lets; intro _)
    | split
    | dsimp only
    | fail_if_no_progress with_reducible apply Reports.upd
    | dsimp +zetaDelta only

theorem State.qctl_reports {r0 : State} (s : State) (q : Nat) (en : Bool) (dis : Bool) (rst : Bool) (pause : Bool) (kp : Reports r0 s) :
    Reports r0 (State.qctl s q en dis rst pause) := by
  unfold State.qctl
  repeat' first
    | with_reducible assumption
    | intro _
    | with_reducible apply State.updQ_reports
    | with_reducible apply State.enableQ_reports
    | with_reducible apply State.drainQ_reports
    | with_reducible apply State.restartQ_reports
    | with_reducible apply State.pauseQ_reports
    | with_reducible apply State.kick_reports
    | with_reducible apply State.writeHead_reports
    | with_reducible apply Reports.ite
    | (lift_lets; intro _)
    | split
    | dsimp only
    | fail_if_no_progress with_reducible apply Reports.upd
    | dsimp +zetaDelta only

theorem State.pollMissed_reports {r0 : State} (s : State) (q : Nat) (kp : Reports r0 s) :
    Reports r0 (State.pollMissed s q) := by
  unfold State.pollMissed
  repeat' first
    | with_reducible assumption
    | intro _
    | with_reducible apply State.advance_reports
    | with_reducible apply State.updQ_reports
    | with_reducible apply Reports.ite
    | (lift_lets; intro _)
    | split
    | dsimp only
    | fail_if_no_progress with_reducible apply Reports.upd
    | dsimp +zetaDelta only

theorem State.dbCountW_reports {r0 : State} (s : State) (m : Nat) (q : Nat) (count : Word32) (kp : Reports r0 s) :
    Reports r0 (State.dbCountW s m q count) := by
  unfold State.dbCountW
  repeat' first
    | with_reducible assumption
    | intro _
    | with_reducible apply State.accFault_reports
    | with_reducible apply State.askPoll_reports
    | with_reducible apply State.offer_reports
    | with_reducible apply Reports.ite
    | (lift_lets; intro _)
    | split
    | dsimp only
    | fail_if_no_progress with_reducible apply Reports.upd
    | dsimp +zetaDelta only

theorem State.dbFetchW_reports {r0 : State} (s : State) (m : Nat) (q : Nat) (v : Word32) (kp : Reports r0 s) :
    Reports r0 (State.dbFetchW s m q v) := by
  unfold State.dbFetchW
  repeat' first
    | with_reducible assumption
    | intro _
    | with_reducible apply State.accFault_reports
    | with_reducible apply State.askPoll_reports
    | with_reducible apply State.kick_reports
    | with_reducible apply State.updQ_reports
    | with_reducible apply Reports.ite
    | (lift_lets; intro _)
    | split
    | dsimp only
    | fail_if_no_progress with_reducible apply Reports.upd
    | dsimp +zetaDelta only

theorem State.qctlW_reports {r0 : State} (s : State) (m : Nat) (q : Nat) (en : Bool) (dis : Bool) (rst : Bool) (pause : Bool) (kp : Reports r0 s) :
    Reports r0 (State.qctlW s m q en dis rst pause) := by
  unfold State.qctlW
  repeat' first
    | with_reducible assumption
    | intro _
    | with_reducible apply State.cfgMirror_reports
    | with_reducible apply State.retarget_reports
    | with_reducible apply State.qctl_reports
    | with_reducible apply State.accFault_reports
    | with_reducible apply Reports.ite
    | (lift_lets; intro _)
    | split
    | dsimp only
    | fail_if_no_progress with_reducible apply Reports.upd
    | dsimp +zetaDelta only

theorem State.markApplied_reports {r0 : State} (s : State) (q : Nat) (cnt : Word32) (kp : Reports r0 s) :
    Reports r0 (State.markApplied s q cnt) := by
  unfold State.markApplied
  repeat' first
    | with_reducible assumption
    | intro _
    | with_reducible apply State.updQ_reports
    | with_reducible apply Reports.ite
    | (lift_lets; intro _)
    | split
    | dsimp only
    | fail_if_no_progress with_reducible apply Reports.upd
    | dsimp +zetaDelta only

theorem State.applyEntry_reports {r0 : State} (s : State) (q : Nat) (ty : Nat) (act : State → Nat → Entry → State) (hact : ∀ t a1 a2, Reports r0 t → Reports r0 (act t a1 a2)) (kp : Reports r0 s) :
    Reports r0 (State.applyEntry s q ty act) := by
  unfold State.applyEntry
  repeat' first
    | with_reducible assumption
    | intro _
    | with_reducible apply hact
    | with_reducible apply State.markApplied_reports
    | with_reducible apply State.finish_reports
    | with_reducible apply State.settled_reports
    | with_reducible apply Reports.ite
    | (lift_lets; intro _)
    | split
    | dsimp only
    | fail_if_no_progress with_reducible apply Reports.upd
    | dsimp +zetaDelta only

theorem State.refuse_reports {r0 : State} (s : State) (q : Nat) (ch : Nat) (e : Entry) (kp : Reports r0 s) :
    Reports r0 (State.refuse s q ch e) := by
  unfold State.refuse
  repeat' first
    | with_reducible assumption
    | intro _
    | with_reducible apply State.finish0_reports
    | with_reducible apply Reports.ite
    | (lift_lets; intro _)
    | split
    | dsimp only
    | fail_if_no_progress with_reducible apply Reports.upd
    | dsimp +zetaDelta only

theorem State.askBlock_reports {r0 : State} (s : State) (ch : Nat) (a : Word64) (kp : Reports r0 s) :
    Reports r0 (State.askBlock s ch a) := by
  unfold State.askBlock
  repeat' first
    | with_reducible assumption
    | intro _
    | with_reducible apply State.askRead_reports
    | with_reducible apply Reports.ite
    | (lift_lets; intro _)
    | split
    | dsimp only
    | fail_if_no_progress with_reducible apply Reports.upd
    | dsimp +zetaDelta only

theorem State.wakeData_reports {r0 : State} (s : State) (l : List Nat) (kp : Reports r0 s) :
    Reports r0 (State.wakeData s l) := by
  unfold State.wakeData
  repeat' first
    | with_reducible assumption
    | intro _
    | with_reducible apply State.each_reports
    | with_reducible apply State.wakeDomain_reports
    | with_reducible apply Reports.ite
    | (lift_lets; intro _)
    | split
    | dsimp only
    | fail_if_no_progress with_reducible apply Reports.upd
    | dsimp +zetaDelta only

theorem State.linkPulse_reports {r0 : State} (s : State) (md : Nat) (kp : Reports r0 s) :
    Reports r0 (State.linkPulse s md) := by
  unfold State.linkPulse
  repeat' first
    | with_reducible assumption
    | intro _
    | with_reducible apply State.pulse_reports
    | with_reducible apply Reports.ite
    | (lift_lets; intro _)
    | split
    | dsimp only
    | fail_if_no_progress with_reducible apply Reports.upd
    | dsimp +zetaDelta only

theorem State.pbaDue_reports {r0 : State} (s : State) (md : Nat) (kp : Reports r0 s) :
    Reports r0 (State.pbaDue s md) := by
  unfold State.pbaDue
  repeat' first
    | with_reducible assumption
    | intro _
    | with_reducible apply State.each_reports
    | with_reducible apply State.setSrc_reports
    | with_reducible apply Reports.ite
    | (lift_lets; intro _)
    | split
    | dsimp only
    | fail_if_no_progress with_reducible apply Reports.upd
    | dsimp +zetaDelta only

theorem State.wakeEval_reports {r0 : State} (s : State) (kp : Reports r0 s) :
    Reports r0 (State.wakeEval s) := by
  unfold State.wakeEval
  repeat' first
    | with_reducible assumption
    | intro _
    | with_reducible apply Reports.ite
    | (lift_lets; intro _)
    | split
    | dsimp only
    | fail_if_no_progress with_reducible apply Reports.upd
    | dsimp +zetaDelta only

theorem State.convReset_reports {r0 : State} (s : State) (md : Nat) (kp : Reports r0 s) :
    Reports r0 (State.convReset s md) := by
  unfold State.convReset
  repeat' first
    | with_reducible assumption
    | intro _
    | with_reducible apply State.wakeEval_reports
    | with_reducible apply State.updLink_reports
    | with_reducible apply State.dropBatches_reports
    | with_reducible apply State.pbaDue_reports
    | with_reducible apply Reports.ite
    | (lift_lets; intro _)
    | split
    | dsimp only
    | fail_if_no_progress with_reducible apply Reports.upd
    | dsimp +zetaDelta only

theorem State.wakeCheck_reports {r0 : State} (s : State) (md : Nat) (kp : Reports r0 s) :
    Reports r0 (State.wakeCheck s md) := by
  unfold State.wakeCheck
  repeat' first
    | with_reducible assumption
    | intro _
    | with_reducible apply State.wantLink_reports
    | with_reducible apply Reports.ite
    | (lift_lets; intro _)
    | split
    | dsimp only
    | fail_if_no_progress with_reducible apply Reports.upd
    | dsimp +zetaDelta only

theorem State.setMsix_reports {r0 : State} (s : State) (md : Nat) (en : Bool) (mask : Bool) (kp : Reports r0 s) :
    Reports r0 (State.setMsix s md en mask) := by
  unfold State.setMsix
  repeat' first
    | with_reducible assumption
    | intro _
    | with_reducible apply State.updCfg_reports
    | with_reducible apply State.pbaSend_reports
    | with_reducible apply State.dueSend_reports
    | with_reducible apply State.dropBatches_reports
    | with_reducible apply Reports.ite
    | (lift_lets; intro _)
    | split
    | dsimp only
    | fail_if_no_progress with_reducible apply Reports.upd
    | dsimp +zetaDelta only

theorem State.setMask_reports {r0 : State} (s : State) (md : Nat) (v : Nat) (mask : Bool) (kp : Reports r0 s) :
    Reports r0 (State.setMask s md v mask) := by
  unfold State.setMask
  repeat' first
    | with_reducible assumption
    | intro _
    | with_reducible apply State.updCfg_reports
    | with_reducible apply State.pbaSend_reports
    | with_reducible apply Reports.ite
    | (lift_lets; intro _)
    | split
    | dsimp only
    | fail_if_no_progress with_reducible apply Reports.upd
    | dsimp +zetaDelta only

theorem State.badRequest_reports {r0 : State} (s : State) (md : Nat) (what : BadRequest) (hdr : BitVec 128) (kp : Reports r0 s) :
    Reports r0 (State.badRequest s md what hdr) := by
  unfold State.badRequest
  repeat' first
    | with_reducible assumption
    | intro _
    | with_reducible apply State.aerUnc_reports
    | with_reducible apply Reports.ite
    | (lift_lets; intro _)
    | split
    | dsimp only
    | fail_if_no_progress with_reducible apply Reports.upd
    | dsimp +zetaDelta only

theorem State.lossStop_reports {r0 : State} (s : State) (q : Nat) (kp : Reports r0 s) :
    Reports r0 (State.lossStop s q) := by
  unfold State.lossStop
  repeat' first
    | with_reducible assumption
    | intro _
    | with_reducible apply State.advance_reports
    | with_reducible apply State.updQ_reports
    | with_reducible apply Reports.ite
    | (lift_lets; intro _)
    | split
    | dsimp only
    | fail_if_no_progress with_reducible apply Reports.upd
    | dsimp +zetaDelta only

theorem State.moveBatches_reports {r0 : State} (s : State) (md : Nat) (o : Nat) (kp : Reports r0 s) :
    Reports r0 (State.moveBatches s md o) := by
  unfold State.moveBatches
  repeat' first
    | with_reducible assumption
    | intro _
    | with_reducible apply State.each_reports
    | with_reducible apply Reports.ite
    | (lift_lets; intro _)
    | split
    | dsimp only
    | fail_if_no_progress with_reducible apply Reports.upd
    | dsimp +zetaDelta only

theorem State.reconfigured_reports {r0 : State} (s : State) (n : Nat) (old : Src) (kp : Reports r0 s) :
    Reports r0 (State.reconfigured s n old) := by
  unfold State.reconfigured
  repeat' first
    | with_reducible assumption
    | intro _
    | with_reducible apply State.levelEval_reports
    | with_reducible apply State.present_reports
    | with_reducible apply State.route_reports
    | with_reducible apply Reports.ite
    | (lift_lets; intro _)
    | split
    | dsimp only
    | fail_if_no_progress with_reducible apply Reports.upd
    | dsimp +zetaDelta only

theorem State.icStrw_reports {r0 : State} (s : State) (m : Nat) (n : Nat) (v : Word64) (kp : Reports r0 s) :
    Reports r0 (State.icStrw s m n v) := by
  unfold State.icStrw
  repeat' first
    | with_reducible assumption
    | intro _
    | with_reducible apply State.accFault_reports
    | with_reducible apply State.cfgMirror_reports
    | with_reducible apply State.reconfigured_reports
    | with_reducible apply State.setSrc_reports
    | with_reducible apply Reports.ite
    | (lift_lets; intro _)
    | split
    | dsimp only
    | fail_if_no_progress with_reducible apply Reports.upd
    | dsimp +zetaDelta only

theorem State.icSwset_reports {r0 : State} (s : State) (m : Nat) (n : BitVec 11) (kp : Reports r0 s) :
    Reports r0 (State.icSwset s m n) := by
  unfold State.icSwset
  repeat' first
    | with_reducible assumption
    | intro _
    | with_reducible apply State.accFault_reports
    | with_reducible apply State.pulse_reports
    | with_reducible apply Reports.ite
    | (lift_lets; intro _)
    | split
    | dsimp only
    | fail_if_no_progress with_reducible apply Reports.upd
    | dsimp +zetaDelta only

theorem State.icFlush_reports {r0 : State} (s : State) (m : Nat) (v : Word32) (kp : Reports r0 s) :
    Reports r0 (State.icFlush s m v) := by
  unfold State.icFlush
  repeat' first
    | with_reducible assumption
    | intro _
    | with_reducible apply State.accFault_reports
    | with_reducible apply State.flushModule_reports
    | with_reducible apply State.heldPulse_reports
    | with_reducible apply Reports.ite
    | (lift_lets; intro _)
    | split
    | dsimp only
    | fail_if_no_progress with_reducible apply Reports.upd
    | dsimp +zetaDelta only

theorem State.beginRecovery_reports {r0 : State} (s : State) (core : Nat) (kp : Reports r0 s) :
    Reports r0 (State.beginRecovery s core) := by
  unfold State.beginRecovery
  repeat' first
    | with_reducible assumption
    | intro _
    | with_reducible apply State.journalRec_reports
    | with_reducible apply State.setFreeze_reports
    | with_reducible apply Reports.ite
    | (lift_lets; intro _)
    | split
    | dsimp only
    | fail_if_no_progress with_reducible apply Reports.upd
    | dsimp +zetaDelta only

theorem State.journalFw_reports {r0 : State} (s : State) (code : BitVec 16) (slot : Bool) (live : Bool) (event : Nat) (frame : Nat) (kp : Reports r0 s) :
    Reports r0 (State.journalFw s code slot live event frame) := by
  unfold State.journalFw
  repeat' first
    | with_reducible assumption
    | intro _
    | with_reducible apply State.journalRec_reports
    | with_reducible apply Reports.ite
    | (lift_lets; intro _)
    | split
    | dsimp only
    | fail_if_no_progress with_reducible apply Reports.upd
    | dsimp +zetaDelta only

theorem State.aqJournal_reports {r0 : State} (s : State) (m : Nat) (v : Word32) (kp : Reports r0 s) :
    Reports r0 (State.aqJournal s m v) := by
  unfold State.aqJournal
  repeat' first
    | with_reducible assumption
    | intro _
    | with_reducible apply State.journalHost_reports
    | with_reducible apply Reports.ite
    | (lift_lets; intro _)
    | split
    | dsimp only
    | fail_if_no_progress with_reducible apply Reports.upd
    | dsimp +zetaDelta only

theorem State.wakeL4_reports {r0 : State} (s : State) (cause : Nat) (pin : Bool) (kp : Reports r0 s) :
    Reports r0 (State.wakeL4 s cause pin) := by
  unfold State.wakeL4
  repeat' first
    | with_reducible assumption
    | intro _
    | with_reducible apply State.noteWake_reports
    | with_reducible apply Reports.ite
    | (lift_lets; intro _)
    | split
    | dsimp only
    | fail_if_no_progress with_reducible apply Reports.upd
    | fail_if_no_progress with_reducible apply Reports.updFilter
    | dsimp +zetaDelta only

theorem State.reofferAll_reports {r0 : State} (s : State) (kp : Reports r0 s) :
    Reports r0 (State.reofferAll s) := by
  unfold State.reofferAll
  repeat' first
    | with_reducible assumption
    | intro _
    | with_reducible apply State.each_reports
    | with_reducible apply State.reofferMember_reports
    | with_reducible apply Reports.ite
    | (lift_lets; intro _)
    | split
    | dsimp only
    | fail_if_no_progress with_reducible apply Reports.upd
    | dsimp +zetaDelta only

theorem State.lockedGone_reports {r0 : State} (s : State) (t : State) (kp : Reports r0 t) :
    Reports r0 (State.lockedGone s t) := by
  unfold State.lockedGone
  repeat' first
    | with_reducible assumption
    | intro _
    | with_reducible apply State.pulse_reports
    | with_reducible apply Reports.ite
    | (lift_lets; intro _)
    | split
    | dsimp only
    | fail_if_no_progress with_reducible apply Reports.upd
    | dsimp +zetaDelta only

theorem State.takeRole_reports {r0 : State} (s : State) (role : BitVec 2) (sub : BitVec 2) (kp : Reports r0 s) :
    Reports r0 (State.takeRole s role sub) := by
  unfold State.takeRole
  repeat' first
    | with_reducible assumption
    | intro _
    | with_reducible apply Reports.ite
    | (lift_lets; intro _)
    | split
    | dsimp only
    | fail_if_no_progress with_reducible apply Reports.upd
    | dsimp +zetaDelta only

theorem State.strapViolation_reports {r0 : State} (s : State) (kp : Reports r0 s) :
    Reports r0 (State.strapViolation s) := by
  unfold State.strapViolation
  repeat' first
    | with_reducible assumption
    | intro _
    | with_reducible apply State.journalRec_reports
    | with_reducible apply Reports.ite
    | (lift_lets; intro _)
    | split
    | dsimp only
    | fail_if_no_progress with_reducible apply Reports.upd
    | dsimp +zetaDelta only

theorem State.roleByLink_reports {r0 : State} (s : State) (partner : Option (BitVec 2 × Bool × Word64)) (kp : Reports r0 s) :
    Reports r0 (State.roleByLink s partner) := by
  unfold State.roleByLink
  repeat' first
    | with_reducible assumption
    | intro _
    | with_reducible apply State.takeRole_reports
    | with_reducible apply State.strapViolation_reports
    | with_reducible apply Reports.ite
    | (lift_lets; intro _)
    | split
    | dsimp only
    | fail_if_no_progress with_reducible apply Reports.upd
    | dsimp +zetaDelta only

theorem State.declineOffer_reports {r0 : State} (s : State) (core : Nat) (n : Nat) (kp : Reports r0 s) :
    Reports r0 (State.declineOffer s core n) := by
  unfold State.declineOffer
  repeat' first
    | with_reducible assumption
    | intro _
    | with_reducible apply State.route_reports
    | with_reducible apply State.updSrc_reports
    | with_reducible apply Reports.ite
    | (lift_lets; intro _)
    | split
    | dsimp only
    | fail_if_no_progress with_reducible apply Reports.upd
    | dsimp +zetaDelta only

theorem State.declineAbsent_reports {r0 : State} (s : State) (core : Nat) (k : Nat) (kp : Reports r0 s) :
    Reports r0 (State.declineAbsent s core k) := by
  unfold State.declineAbsent
  repeat' first
    | with_reducible assumption
    | intro _
    | with_reducible apply State.each_reports
    | with_reducible apply State.declineOffer_reports
    | with_reducible apply Reports.ite
    | (lift_lets; intro _)
    | split
    | dsimp only
    | fail_if_no_progress with_reducible apply Reports.upd
    | dsimp +zetaDelta only

theorem State.pairViol_reports {r0 : State} (s : State) (reason : Nat) (kp : Reports r0 s) :
    Reports r0 (State.pairViol s reason) := by
  unfold State.pairViol
  repeat' first
    | with_reducible assumption
    | intro _
    | with_reducible apply State.journalRec_reports
    | with_reducible apply Reports.ite
    | (lift_lets; intro _)
    | split
    | dsimp only
    | fail_if_no_progress with_reducible apply Reports.upd
    | dsimp +zetaDelta only

theorem State.noteGates_reports {r0 : State} (s : State) (l : List TxFrame) (kp : Reports r0 s) :
    Reports r0 (State.noteGates s l) := by
  unfold State.noteGates
  repeat' first
    | with_reducible assumption
    | intro _
    | with_reducible apply Reports.foldl
    | with_reducible apply Reports.ite
    | (lift_lets; intro _)
    | split
    | dsimp only
    | fail_if_no_progress with_reducible apply Reports.upd
    | dsimp +zetaDelta only

theorem State.sendNack_reports {r0 : State} (s : State) (kp : Reports r0 s) :
    Reports r0 (State.sendNack s) := by
  unfold State.sendNack
  repeat' first
    | with_reducible assumption
    | intro _
    | with_reducible apply Reports.ite
    | (lift_lets; intro _)
    | split
    | dsimp only
    | fail_if_no_progress with_reducible apply Reports.upd
    | dsimp +zetaDelta only

theorem State.sendAck_reports {r0 : State} (s : State) (kp : Reports r0 s) :
    Reports r0 (State.sendAck s) := by
  unfold State.sendAck
  repeat' first
    | with_reducible assumption
    | intro _
    | with_reducible apply Reports.ite
    | (lift_lets; intro _)
    | split
    | dsimp only
    | fail_if_no_progress with_reducible apply Reports.upd
    | dsimp +zetaDelta only

theorem State.readBack_reports {r0 : State} (s : State) (kp : Reports r0 s) :
    Reports r0 (State.readBack s) := by
  unfold State.readBack
  repeat' first
    | with_reducible assumption
    | intro _
    | with_reducible apply State.each_reports
    | with_reducible apply State.updQ_reports
    | with_reducible apply State.askPcnt_reports
    | with_reducible apply State.askDesc_reports
    | with_reducible apply State.kick_reports
    | with_reducible apply State.pulse_reports
    | with_reducible apply Reports.ite
    | (lift_lets; intro _)
    | split
    | dsimp only
    | fail_if_no_progress with_reducible apply Reports.upd
    | dsimp +zetaDelta only

theorem State.rewrite_reports {r0 : State} (s : State) (kp : Reports r0 s) :
    Reports r0 (State.rewrite s) := by
  unfold State.rewrite
  repeat' first
    | with_reducible assumption
    | intro _
    | with_reducible apply State.each_reports
    | with_reducible apply State.send_reports
    | with_reducible apply Reports.ite
    | (lift_lets; intro _)
    | split
    | dsimp only
    | fail_if_no_progress with_reducible apply Reports.upd
    | dsimp +zetaDelta only

theorem State.journalTake_reports {r0 : State} (s : State) (frame : Nat) (reason : Nat) (kp : Reports r0 s) :
    Reports r0 (State.journalTake s frame reason) := by
  unfold State.journalTake
  repeat' first
    | with_reducible assumption
    | intro _
    | with_reducible apply State.journalRec_reports
    | with_reducible apply Reports.ite
    | (lift_lets; intro _)
    | split
    | dsimp only
    | fail_if_no_progress with_reducible apply Reports.upd
    | dsimp +zetaDelta only

theorem State.putQueue_reports {r0 : State} (s : State) (r : QueueRec) (kp : Reports r0 s) :
    Reports r0 (State.putQueue s r) := by
  unfold State.putQueue
  repeat' first
    | with_reducible assumption
    | intro _
    | with_reducible apply State.updQ_reports
    | with_reducible apply Reports.ite
    | (lift_lets; intro _)
    | split
    | dsimp only
    | fail_if_no_progress with_reducible apply Reports.upd
    | dsimp +zetaDelta only

theorem State.putEgress_reports {r0 : State} (s : State) (r : EgressRec) (kp : Reports r0 s) :
    Reports r0 (State.putEgress s r) := by
  unfold State.putEgress
  repeat' first
    | with_reducible assumption
    | intro _
    | with_reducible apply State.updQ_reports
    | with_reducible apply Reports.ite
    | (lift_lets; intro _)
    | split
    | dsimp only
    | fail_if_no_progress with_reducible apply Reports.upd
    | dsimp +zetaDelta only

theorem State.liveReplied_reports {r0 : State} (s : State) (kp : Reports r0 s) :
    Reports r0 (State.liveReplied s) := by
  unfold State.liveReplied
  repeat' first
    | with_reducible assumption
    | intro _
    | with_reducible apply State.send_reports
    | with_reducible apply Reports.ite
    | (lift_lets; intro _)
    | split
    | dsimp only
    | fail_if_no_progress with_reducible apply Reports.upd
    | dsimp +zetaDelta only

theorem State.linkCame_reports {r0 : State} (s : State) (kp : Reports r0 s) :
    Reports r0 (State.linkCame s) := by
  unfold State.linkCame
  repeat' first
    | with_reducible assumption
    | intro _
    | with_reducible apply State.pulse_reports
    | with_reducible apply Reports.ite
    | (lift_lets; intro _)
    | split
    | dsimp only
    | fail_if_no_progress with_reducible apply Reports.upd
    | dsimp +zetaDelta only

theorem State.measure_reports {r0 : State} (s : State) (vddMv : BitVec 10) (temp : Int) (kp : Reports r0 s) :
    Reports r0 (State.measure s vddMv temp) := by
  unfold State.measure
  repeat' first
    | with_reducible assumption
    | intro _
    | with_reducible apply Reports.ite
    | (lift_lets; intro _)
    | split
    | dsimp only
    | fail_if_no_progress with_reducible apply Reports.upd
    | dsimp +zetaDelta only

theorem State.joinTick_reports {r0 : State} (s : State) (kp : Reports r0 s) :
    Reports r0 (State.joinTick s) := by
  unfold State.joinTick
  repeat' first
    | with_reducible assumption
    | intro _
    | with_reducible apply State.dsSend_reports
    | with_reducible apply State.sendSlices_reports
    | with_reducible apply Reports.ite
    | (lift_lets; intro _)
    | split
    | dsimp only
    | fail_if_no_progress with_reducible apply Reports.upd
    | dsimp +zetaDelta only

theorem State.tickBlock_reports {r0 : State} (s : State) (kp : Reports r0 s) :
    Reports r0 (State.tickBlock s) := by
  unfold State.tickBlock
  repeat' first
    | with_reducible assumption
    | intro _
    | with_reducible apply Reports.ite
    | (lift_lets; intro _)
    | split
    | dsimp only
    | fail_if_no_progress with_reducible apply Reports.upd
    | dsimp +zetaDelta only

end Sys2Proof.Machine
end

