-- ==== Sys2Proof/Laws/Queues.lean ====
section
/-! SUPPORT. What the shared operations on queues and host reads do to the queues and to the reads of the modules. -/

namespace Sys2Proof.Machine
open Sys2Proof

/-- A queue is replaced by one that x describes, and every other queue is as it was. -/
def QOnly (s t : State) (q : Nat) (x : Queue) : Prop := t.q q = x ∧ ∀ k, k ≠ q → t.q k = s.q k

theorem QOnly.emits {s t u : State} {q : Nat} {x : Queue} (h : QOnly s t q x) (e : Emits t u) : QOnly s u q x :=
  ⟨(e.q q).trans h.1, fun k hk => (e.q k).trans (h.2 k hk)⟩

theorem QOnly.setQ (s : State) (q : Nat) (x : Queue) : QOnly s (s.setQ q x) q x :=
  ⟨State.q_setQ s q x, fun k hk => State.q_setQ_ne s q k x hk⟩

theorem QOnly.then {s t u : State} {q : Nat} {x y : Queue} (h : QOnly s t q x) (g : QOnly t u q y) : QOnly s u q y :=
  ⟨g.1, fun k hk => (g.2 k hk).trans (h.2 k hk)⟩

theorem QOnly.upd {s t : State} {q : Nat} {x : Queue} (h : QOnly s t q x) (f : Queue → Queue) : QOnly s (t.updQ q f) q (f x) := by
  refine h.then ?_
  rw [← h.1]
  exact QOnly.setQ t q _

/-- The head record of a queue changes only what it remembers of the record (R120). -/
theorem State.writeHead_q (s : State) (q : Nat) :
    ∃ a b, QOnly s (s.writeHead q) q { s.q q with lastHead := a, raise := b } := by
  unfold State.writeHead
  dsimp only
  split
  · exact ⟨(s.q q).lastHead, (s.q q).raise, rfl, fun _ _ => rfl⟩
  · have h1 : QOnly s (s.updQ q fun x => { x with lastHead := some (s.q q).headFields, raise := false }) q
        { s.q q with lastHead := some (s.q q).headFields, raise := false } := QOnly.setQ s q _
    refine ⟨some (s.q q).headFields, false, h1.emits ?_⟩
    split
    · exact State.gateRec_emits _ _ _ _ (State.mirror_emits _ _ _ _ (Emits.refl _))
    · exact State.enterHead_emits _ _ _ _ (Emits.refl _)

/-- A producer-count read that is asked for changes only that it is no longer wanted (R105). -/
theorem State.askPcnt_q (s : State) (q : Nat) : QOnly s (s.askPcnt q) q { s.q q with wantPcnt := false } :=
  (QOnly.setQ s q _).emits (State.askRead_emits _ _ _ (Emits.refl _))

/-- A slot read that is asked for stands as being read, and waits if 64 are out (R115). -/
theorem State.askSlots_q (s : State) (q : Nat) (r : ReadReq) :
    ∃ w, QOnly s (s.askSlots q r) q { s.q q with reading := true, wantRead := w } := by
  unfold State.askSlots
  dsimp only
  split
  · exact ⟨none, (QOnly.setQ s q _).emits (State.askRead_emits _ _ _ (Emits.refl _))⟩
  · exact ⟨some r, QOnly.setQ s q _⟩

/-- The arbiter's reading on changes only what is out for the queue (R105, R115). -/
theorem State.kick_q (s : State) (q : Nat) :
    ∃ a b w, QOnly s (s.kick q) q { s.q q with wantPcnt := a, reading := b, wantRead := w } := by
  unfold State.kick
  dsimp only
  split
  · exact ⟨(s.q q).wantPcnt, (s.q q).reading, (s.q q).wantRead, rfl, fun _ _ => rfl⟩
  · have h1 : ∃ a, QOnly s (if (s.q q).wantPcnt = true then s.askPcnt q else s) q { s.q q with wantPcnt := a } := by
      split
      · exact ⟨false, s.askPcnt_q q⟩
      · exact ⟨(s.q q).wantPcnt, rfl, fun _ _ => rfl⟩
    revert h1
    generalize (if (s.q q).wantPcnt = true then s.askPcnt q else s) = s1
    rintro ⟨a, h1⟩
    have h0 : ∃ a b w, QOnly s s1 q { s.q q with wantPcnt := a, reading := b, wantRead := w } :=
      ⟨a, (s.q q).reading, (s.q q).wantRead, h1⟩
    have h2 : ∀ c n, ∃ a b w, QOnly s (s1.askDesc q c n false) q { s.q q with wantPcnt := a, reading := b, wantRead := w } := by
      intro c n
      obtain ⟨w, hw⟩ := s1.askSlots_q q (.desc q c n false)
      rw [h1.1] at hw
      exact ⟨a, true, w, h1.then hw⟩
    repeat' split
    all_goals first | exact h0 | exact h2 _ _

/-! ### Reads stay with their module -/

/-- A read of a kind is out at a module or waits there. -/
def State.holdsRead (s : State) (md : Nat) (r : ReadReq) : Prop := ∃ x ∈ (s.link md).reads ++ (s.link md).waiting, x.req = r

theorem State.pumpReads_holds (s : State) (md n : Nat) (r : ReadReq) (h : s.holdsRead md r) : (s.pumpReads md n).holdsRead md r := by
  induction n generalizing s with
  | zero => exact h
  | succ n ih =>
    unfold State.pumpReads
    dsimp only
    split
    · exact h
    · rename_i a t ht
      split
      · apply ih
        obtain ⟨x, hx, hr⟩ := h
        refine ⟨x, ?_, hr⟩
        rw [State.link_setLink]
        simp only [ht, List.mem_append, List.mem_cons, List.mem_singleton] at hx ⊢
        tauto
      · exact h

theorem State.wantLink_reads (s : State) (md : Nat) :
    ((s.wantLink md).link md).reads = (s.link md).reads ∧ ((s.wantLink md).link md).waiting = (s.link md).waiting := by
  have hw : ∀ (t : State) (b : Bool), ({ t with wakeOut := b } : State).link md = t.link md := fun t b => rfl
  unfold State.wantLink
  dsimp only
  split
  · rw [hw, State.link_setLink]
    constructor <;> (dsimp only; split <;> rfl)
  · rw [State.link_setLink]
    constructor <;> (split <;> rfl)

theorem addWaiting_mem (l : List HostRead) (r x : HostRead) : x ∈ addWaiting l r ↔ x ∈ l ∨ x = r := by
  unfold addWaiting
  split
  · simp only [List.mem_append, List.mem_filter, List.mem_singleton]
    cases x.guar <;> simp <;> tauto
  · simp

/-- A read that is asked for is held by its module, beside those held before (R66). -/
theorem State.askRead_holds (s : State) (md : Nat) (r : HostRead) :
    (s.askRead md r).holdsRead md r.req ∧ ∀ x, s.holdsRead md x → (s.askRead md r).holdsRead md x := by
  have key : ∀ x, (x = r.req ∨ s.holdsRead md x) → (s.askRead md r).holdsRead md x := by
    intro x hx
    unfold State.askRead State.pump
    apply State.pumpReads_holds
    unfold State.holdsRead
    obtain ⟨h1, h2⟩ := State.wantLink_reads (s.updLink md fun l => { l with waiting := addWaiting l.waiting r }) md
    rw [h1, h2]
    unfold State.updLink
    rw [State.link_setLink]
    dsimp only
    rcases hx with rfl | ⟨y, hy, hr⟩
    · exact ⟨r, List.mem_append.mpr (Or.inr ((addWaiting_mem _ _ _).mpr (Or.inr rfl))), rfl⟩
    · refine ⟨y, ?_, hr⟩
      rcases List.mem_append.mp hy with h | h
      · exact List.mem_append.mpr (Or.inl h)
      · exact List.mem_append.mpr (Or.inr ((addWaiting_mem _ _ _).mpr (Or.inl h)))
  exact ⟨key _ (Or.inl rfl), fun x hx => key x (Or.inr hx)⟩

end Sys2Proof.Machine
end

