-- ==== Sys2Proof/Tests/Slice0.lean ====
section
/-! SUPPORT. Tests of the model: the hypotheses of each statement are met by a state (wit_…), and single commands on small states do
what the rule says (test_…). Expected values are worked out by hand from the rules. -/

open Sys2Proof Sys2Proof.Machine

/-! ### States that meet the hypotheses of the statements -/

/-- A running die with both functions enabled. -/
def wDie : State := { State.reset with
  die := .ready, porLow := false, ds := { fenceOut := true, fenceIn := true },
  link0 := { cfg := { memEn := true, busEn := true }, up := true }, link1 := { cfg := { memEn := true, busEn := true } } }

/-- Queues: 3 running, 4 disabled and good, 5 paused, 6 disabled with a bad SIZE, 7 in ERROR, 8 running in PHASE mode. -/
def wQ : State := { wDie with
  queues := [(3, { st := .running }), (4, { ring := 0x1000 }), (5, { st := .paused }), (6, { size := 11 }),
  (7, { st := .error }), (8, { st := .running, phase := true })] }

/-- Queue 3 has one NOTE on die, published, and a credit. -/
def wTurn : State := { wDie with queues := [(3, { st := .running, onDie := [0x107], prod := 1, credit := 1 })] }
/-- Queue 3 has an entry of an undefined TYPE on die. -/
def wBad : State := { wDie with queues := [(3, { st := .running, onDie := [0x109], prod := 1, credit := 1 })] }
/-- The same queue of the configuration class. -/
def wBadC : State := wBad.updQ 3 fun x => { x with config := true }
/-- A descriptor read and a producer-count read of queue 3 are out. -/
def wRead : State := { wDie with
  queues := [(3, { st := .running, reading := true })],
  link0 := { wDie.link0 with reads := [{ req := .desc 3 0 1 false, tags := 1, units := 1, guar := false },
                                       { req := .pcnt 3, tags := 1, units := 1, guar := false }] } }

/-- Only the producer count of queue 3 is out, as the second read. -/
def wPcnt : State := wRead.updQ 3 fun x => { x with reading := false }

/-- A bound entry of a TYPE for channel 9; a FENCE waits for HEAD of queue 9 at 1. -/
def wE (ty : Nat) : Entry := { cnt := 0, slots := [BitVec.ofNat 128 (ty + 0x100 + 9 * 0x100000000 + if ty = 6 then 0x10000800000000000 else 0), 0], applied := false, done := false, dropped := none }
/-- Queue 3 has bound that entry, and channel 9 is bound to it in a state. -/
def wEnt (ty : Nat) (st : CState) : State := { wDie with
  queues := [(3, { st := .running, bound := [wE ty], fence := if ty = 6 then some 0 else none })], chans := [(9, { st, bound := true, queue := 3 })] }

/-- The state that a command leaves, for tests. -/
def after (i : Instr) (s : State) : State :=
  match exec i s with
  | .next t => t
  | _ => s

/-- A message of vector 2047 waits behind its PBA bit on module 1. -/
def wPba : State := { wDie with link1 := { cfg := { msixEn := true, memEn := true, busEn := true, pba := [2047] }, up := true } }
/-- Module 1 leaves L2 and has an open batch. -/
def wExit : State := { wDie with link1 := { cfg := { d3 := true }, lstate := 2, exiting := true }, batches := [(2048, { count := 1, deadline := 5 })] }
/-- The function of module 1 is in D3hot. -/
def wD3 : State := { wDie with link1 := { cfg := { d3 := true } } }
/-- A function with PME_En whose module holds a write. -/
def wPme : State := { wDie with link0 := { wDie.link0 with cfg := { wDie.link0.cfg with pmeEn := true },
                                                           queue := [{ kind := .head 3, addr := 0, bytes := [], eqs := 1, relaxed := false }] } }
/-- A packet read of the admin queue is out. -/
def wAdmRead : State := { wDie with
  aq := { st := .running, reading := true }
  link0 := { wDie.link0 with reads := [{ req := .admin, tags := 1, units := 1, guar := false }] } }
/-- The link of module 0 has left Active, in SINGLE mode and in REDUNDANT mode with module 1 usable. -/
def wLoss : State := { wDie with link0 := { wDie.link0 with lstate := 3 } }
def wLoss2 : State := { wLoss with mode := 2, link1 := { cfg := { busEn := true }, up := true } }
/-- The same with GRACE 0 and LL_ACTION HOLD; and of a module that does not carry. -/
def wLoss0 : State := wLoss.updCfg 0 fun c => { c with grace := 0, llAction := 1 }
def wLoss3 : State := { wLoss2 with carry := true }
/-- Data and a head record are held and wait for software; queue 3 runs, queue 5 is paused. -/
def wHeld : State := { wQ with
  link0 := { wDie.link0 with lost := true, holding := true, graceOver := true, lstate := 3,
                             held := [{ kind := .data 9, addr := 0x40, bytes := [1], eqs := 0, relaxed := false },
                                      { kind := .head 3, addr := 0, bytes := [], eqs := 1, relaxed := false }] } }
/-- GRACE still runs for a lost module, with LL_ACTION 2 and 1. -/
def wHeld2 : State := { wDie with link0 := { wDie.link0 with lstate := 3, lost := true, holding := true, llAtLoss := 2 } }
def wHeld1 : State := { wDie with link0 := { wDie.link0 with lstate := 3, lost := true, holding := true, llAtLoss := 1 } }

/-- A CCW: CMD, FLAGS, COUNT, PARAM and address. -/
def wCcw (cmd flags count param addr : Nat) : BitVec 128 :=
  BitVec.ofNat 128 (cmd + flags * 0x100 + count * 0x10000 + param * 0x100000000 + addr * 0x10000000000000000)
/-- A channel whose CCW at 0x1000 is due. -/
def wChan (ws : List (BitVec 128)) : Chan :=
  { st := .active, bound := true, queue := 3, began := some (3, 0, 0), ccwa := 0x1000, fetched := true, blocks := [(0x1000, ws)] }
/-- Channel 9 runs a program of queue 3. -/
def wProg (ws : List (BitVec 128)) : State := { wDie with queues := [(3, { st := .running })], chans := [(9, wChan ws), (10, {})] }
/-- Two NOPs with CC. -/
def wNop : BitVec 128 := wCcw 9 2 0 0 0
/-- Channel 9 waits, for a tick or for an event. -/
def wWait (st : CState) : State := { wDie with
  queues := [(3, { st := .running })]
  chans := [(9, { wChan [] with st, fetched := false, blocks := [], due := some 0, mask := if st = .waitEvent then 3 else 0, xfer := { cc := true } })] }
/-- UART port 0x30 is up, and channel 9 has begun a transfer on it. -/
def wPort (ws : List (BitVec 128)) (x : Xfer) (p : Port) : State := { wProg ws with
  chans := [(9, { wChan ws with xfer := x, lcells := 4, lbase := 64 })], ports := [(0x30, { p with st := 1 })] }
/-- A data CCW with CC. -/
def wData (cmd count port addr : Nat) : BitVec 128 := wCcw cmd 2 count port addr
/-- Channel 9 with a local segment has a data CCW due. -/
def wDue (w : BitVec 128) : State := { wProg [w, wNop] with
  chans := [(9, { wChan [w, wNop] with lcells := 4, lbase := 64 })], ports := [(0x30, { st := 1 })] }
/-- A read of a channel is out on module 0. -/
def wOut (s : State) (r : ReadReq) : State := { s with link0 := { s.link0 with reads := [{ req := r, tags := 1, units := 1, guar := false }] } }
/-- Channel 9 waits for its dispatch. -/
def wStart : State := { wDie with queues := [(3, { st := .running })],
                                  chans := [(9, { wChan [] with st := .startPending, fetched := false, blocks := [] })] }
/-- A command of the admin queue. -/
def wCmd (words : List Word32) : AdmCmd := { cnt := 0, words }
/-- The FWC has that command in progress. -/
def wAdm (words : List Word32) : State := { wDie with
  aq := { st := .running, cmds := [wCmd words] }, gctl := { wDie.gctl with cells := 32768, hawkQ := 15 }, frm := { wDie.frm with period := 10000 } }
/-- Its host data are out on module 0. -/
def wAdmD (words : List Word32) : State := wOut (wAdm words) (.adminData 0)

/-! ### Instructions of the cores -/

/-- A core whose context k is about to issue the code at a level, with the words w0 and on of its private area. -/
def wIsa (core k : Nat) (pl : BitVec 2) (code slots : List Word) : State :=
  (((wDie.store (localBase core + 2 * libWord core) (wordBytes code)).store (localBase core + 2 * privWord core k) (wordBytes slots)).setCtx core k
    { ({} : Ctx) with st := .ready, pl, cseg := seg (aliasAddr (libWord core)) 0xFF, segs := [(0, seg (aliasAddr (privWord core k)) 0xFF)],
                      vtb := BitVec.ofNat 16 (vtbWord core), tsbr := BitVec.ofNat 16 (tsbWord core k) }).updCore core fun c => { c with ptr := k }
/-- What the core issues, found by running. -/
def wIssue (s : State) (core k : Nat) : Option (Ins × Ev) :=
  let f := s.fetching core k
  if (s.arrange core).ctxTurn core k = true ∧ ((s.arrange core).ctx core k).block = none ∧ f.ctx.annul = false then
    match f.fetchWord f.ctx.pc with
    | .error _ => none
    | .ok (w, e1) => match opOf w with
      | none => none
      | some o => match ({ e1 with s := e1.s.movePtr core k } : Ev).fetchRest o w with
        | .error _ => none
        | .ok (i, e2) => if i.op = o ∧ e2.ctx.badSlot (some o) = false ∧ i.ok = true ∧ i.needsRight core e2.pl = false then some (i, { e2 with cyc := i.cyc }) else none
  else none
theorem wIssue_issues {s core k i e} (h : wIssue s core k = some (i, e)) : Issues s core k i e := by
  unfold wIssue at h
  simp only at h
  split at h
  · rename_i h1
    split at h
    · simp at h
    · rename_i w e1 hw
      split at h
      · simp at h
      · rename_i o ho
        split at h
        · simp at h
        · rename_i j e2 hr
          split at h
          · rename_i h2
            obtain ⟨ho', hb, hk, hn⟩ := h2
            simp only [Option.some.injEq, Prod.mk.injEq] at h
            obtain ⟨rfl, rfl⟩ := h
            subst ho'
            exact ⟨h1.1, h1.2.1, h1.2.2, w, e1, e2, hw, ho, hr, hb, hk, hn, rfl⟩
          · simp at h
  · simp at h
theorem beat_block (e : Ev) : e.beat.block = e.block := rfl
/-- Words of memory need no open effect. -/
theorem puts_open (ps : List Place) (h : ps.all (fun p => match p with | .mem _ => true | _ => false) = true) (e : Ev) (hb : e.block = false) (ws : List Word) :
    (e.puts ps ws).block = false := by
  induction ps generalizing e ws with
  | nil => exact hb
  | cons p r ih =>
    cases ws with
    | nil => exact hb
    | cons w ws =>
      simp only [List.all_cons, Bool.and_eq_true] at h
      refine ih h.2 _ ?_ ws
      cases p <;> simp at h
      simp only [Ev.put]
      split
      · exact hb
      · exact (beat_block _).trans hb
/-- The operands A and B and the places of n result words, found by running. -/
def wABD (s : State) (core k n : Nat) : Option (Ins × Ev × Word × Ev × Word × Ev × List Place × Ev) :=
  match wIssue s core k with
  | none => none
  | some (i, e0) => match e0.source 1 i.a with
    | .error _ => none
    | .ok (a, e1) => match e1.source 2 i.b with
      | .error _ => none
      | .ok (b, e2) => match (if n = 0 then .ok ([], e2) else e2.dest i.d n) with
        | .error _ => none
        | .ok (ps, e3) => if e3.block = false ∧ ps.all (fun p => match p with | .mem _ => true | _ => false) = true then some (i, e0, a, e1, b, e2, ps, e3) else none
theorem wABD_reads {s core k n i e0 a e1 b e2 ps e3} (h : wABD s core k n = some (i, e0, a, e1, b, e2, ps, e3)) :
    ReadsA s core k i a e1 ∧ ReadsAB s core k i a b e2 ∧ (n ≠ 0 → Places e2 i.d n ps e3) := by
  unfold wABD at h
  split at h
  · simp at h
  · rename_i i' e0' hi
    split at h
    · simp at h
    · rename_i a' e1' ha
      split at h
      · simp at h
      · rename_i b' e2' hb
        split at h
        · simp at h
        · rename_i ps' e3' hd
          split at h
          · rename_i hg
            simp only [Option.some.injEq, Prod.mk.injEq] at h
            obtain ⟨rfl, rfl, rfl, rfl, rfl, rfl, rfl, rfl⟩ := h
            refine ⟨⟨_, wIssue_issues hi, ha⟩, ⟨_, ⟨_, wIssue_issues hi, ha⟩, hb⟩, fun hn => ?_⟩
            rw [if_neg hn] at hd
            exact ⟨hd, fun ws => puts_open _ hg.2 _ hg.1 ws⟩
          · simp at h
/-- An instruction of an opcode that reads A and B and may write n words comes next. -/
theorem wABD_some {s core k n op} (h : ((wABD s core k n).map fun x => x.1.op) = some op) :
    ∃ i a b e1 e e' ps, i.op = op ∧ ReadsA s core k i a e1 ∧ ReadsAB s core k i a b e ∧ (n ≠ 0 → Places e i.d n ps e') := by
  cases hx : wABD s core k n with
  | none => simp [hx] at h
  | some x =>
    obtain ⟨i, e0, a, e1, b, e2, ps, e3⟩ := x
    have := wABD_reads hx
    simp [hx] at h
    exact ⟨i, a, b, e1, e2, e3, ps, h, this.1, this.2.1, this.2.2⟩
theorem wIssue_some {s core k op} (h : ((wIssue s core k).map fun x => x.1.op) = some op) : ∃ i e, i.op = op ∧ Issues s core k i e := by
  cases hx : wIssue s core k with
  | none => simp [hx] at h
  | some x => obtain ⟨i, e⟩ := x; simp [hx] at h; exact ⟨i, e, h, wIssue_issues hx⟩
def wTwo (op : Nat) : State := wIsa 0 0 2 [BitVec.ofNat 16 (op * 1024 + 2 * 32 + 3)] [0, 0, 0x8001, 5]
def wHas3 (op : Op) : Option Op := ((wABD (wTwo (shortOps.findIdx fun x => x.1 = op)) 0 0 1).map fun x => x.1.op)
def wHasOp (s : State) (core k : Nat) : Option Op := (wIssue s core k).map fun x => x.1.op
/-- A routine of a library. -/
def wRoutine1 : Routine := { num := 1, crn := false, off := 0, len := 4, bound := 100, mbx := none, code := [0, 0, 0, 0] }

/-! ### StepRunsFrontCommand -/

theorem wit_StepRunsFrontCommand : ({ State.reset with pending := [Instr.xtalStop, Instr.idcode] } : State).pending = Instr.xtalStop :: [Instr.idcode] := rfl

/-! ### QueueIsFirstInFirstOut -/

theorem wit_QueueIsFirstInFirstOut : ∃ t, step { State.reset with pending := [Instr.idcode] } = .next t ∧ t.pending = [] := ⟨_, rfl, rfl⟩

/-! ### MemoryStaysCanonical -/

theorem wit_MemoryStaysCanonical : ({ State.reset with mem := [(0x400000, 1), (0xC00000, 2)] } : State).memOk := rfl

/-! ### IdleStepAdvancesTime -/

theorem wit_IdleStepAdvancesTime : ({ State.reset with die := .ready } : State).timerRuns = true ∧ State.reset.frm.time.toNat < State.reset.frm.next.toNat ∧
    State.reset.frm.adj = 0 ∧ State.reset.frm.slew = 0 ∧ State.reset.frm.frac < 1000000000 ∧ State.reset.timerRuns = false ∧ State.reset.ds.pulse = none ∧
    State.reset.hawk.cells = [] ∧ (∀ p, (State.reset.port p).pauseTo = 0) := by
  refine ⟨by decide, by decide, by decide, by decide, by decide, by decide, by decide, by decide, fun p => rfl⟩

/-! ### DoorbellWrites -/

theorem wit_DoorbellWrites : wQ.admits 0 (dbOff 3) = true ∧ wQ.dbRefused 0 3 = false ∧ (wQ.q 3).phase = false ∧ (wQ.q 3).st = .running ∧
    (64 - (wQ.q 3).head).toNat ≤ (wQ.q 3).slots ∧ ((wQ.q 3).prod - (wQ.q 3).head).toNat ≤ (64 - (wQ.q 3).head).toNat ∧
    (wQ.q 3).slots < (65 - (wQ.q 3).head).toNat ∧ bitOf (1 : Word32) 0 = true ∧ wQ.dbRefused 0 4 = true ∧ wQ.admits 0 (dbOff 5) = true ∧
    wQ.dbRefused 0 5 = false ∧ (wQ.q 5).phase = false ∧ (wQ.q 5).st ≠ .running ∧ wQ.admits 0 (dbOff 8) = true ∧ wQ.dbRefused 0 8 = false ∧
    (wQ.q 8).phase = true ∧ wQ.eligible 8 = true ∧ (wQ.q 8).reading = false ∧ (wQ.q 8).onDie = [] := by decide

/-! ### QueueStateCommands -/

theorem wit_QueueStateCommands : wQ.admits 0 (qcfgOff 4) = true ∧ rightsOk 0 (qcfgOff 4) = true ∧ (wQ.q 4).st = .disabled ∧ wQ.cfgErr 4 = 0 ∧
    (wQ.q 6).st = .disabled ∧ wQ.cfgErr 6 = 1 ∧ (wQ.q 3).st = .running ∧ (wQ.q 3).fence = none ∧ (wQ.q 3).bound = [] ∧
    (wQ.q 3).reading = false ∧ (wQ.q 3).retake = false ∧ (wQ.q 7).st = .error ∧ (wQ.q 5).st = .paused := by decide

/-! ### ArbiterCommands -/

theorem wit_ArbiterCommands_turn : wTurn.nextTurn (wTurn.queues.map (·.1)) = some 3 ∧ (wTurn.q 3).roundBurst = 1 ∧
    (wTurn.q 3).find = .entry 1 false false ∧ wBad.nextTurn (wBad.queues.map (·.1)) = some 3 ∧ (wBad.q 3).find = .bad 1 ∧
    (wBad.q 3).config = false ∧ wBadC.nextTurn (wBadC.queues.map (·.1)) = some 3 ∧ (wBadC.q 3).find = .bad 1 ∧ (wBadC.q 3).config = true := by decide
theorem wit_ArbiterCommands_poll : wQ.eligible 8 = true ∧ (wQ.q 8).phase = true ∧ (wQ.q 8).reading = false ∧ (wQ.q 8).onDie = [] := by decide
theorem wit_ArbiterCommands_reads : (wRead.endReadAny (isSlotReq 3)).map (fun x => x.1.req) = some (.desc 3 0 1 false) ∧ (wRead.q 3).st = .running ∧
    (0 : Word32) = (wRead.q 3).fetch + BitVec.ofNat 32 (wRead.q 3).onDie.length ∧ (wRead.q 3).failing = 0 ∧ (wRead.q 3).turnLeft = 0 ∧
    (∀ e ∈ wRead.queues, e.2.wantRead = none) ∧
    (∀ e ∈ wRead.chans, e.2.takeDue = false) ∧ wRead.noneWait ∧
    (wRead.endReadAny (fun r => r = .pcnt 3)).isSome = true ∧ (1 - (wRead.q 3).head).toNat ≤ (wRead.q 3).slots ∧
    ((wRead.q 3).prod - (wRead.q 3).head).toNat ≤ (1 - (wRead.q 3).head).toNat := by decide

/-! ### ChannelEntries -/

theorem wit_ChannelEntries : (wEnt 0x01 .idle).nextEntry 3 0x01 = some (wE 0x01) ∧ ((wEnt 0x01 .idle).chan (wE 0x01).ch).bound = true ∧
    ((wEnt 0x01 .idle).chan (wE 0x01).ch).queue = 3 ∧ ((wEnt 0x01 .idle).chan (wE 0x01).ch).st = .idle ∧
    (wEnt 0x01 .active).nextEntry 3 0x01 = some (wE 0x01) ∧ (wEnt 0x02 .suspended).nextEntry 3 0x02 = some (wE 0x02) ∧
    (wEnt 0x03 .active).nextEntry 3 0x03 = some (wE 0x03) ∧ ((wEnt 0x03 .active).chan 9).atStop = false ∧
    (wEnt 0x03 .waitTick).nextEntry 3 0x03 = some (wE 0x03) ∧ (wEnt 0x03 .suspended).nextEntry 3 0x03 = some (wE 0x03) ∧
    (wEnt 0x04 .error).nextEntry 3 0x04 = some (wE 0x04) ∧ (wEnt 0x05 .halted).nextEntry 3 0x05 = some (wE 0x05) := by decide

/-! ### UnboundEntriesChangeNoChannel -/

theorem wit_UnboundEntriesChangeNoChannel : ((wEnt 0x01 .idle).setChan 9 {}).nextEntry 3 0x01 = some (wE 0x01) ∧
    (((wEnt 0x01 .idle).setChan 9 {}).chan (wE 0x01).ch).bound = false := by decide

/-! ### QueueDirectedEntries -/

theorem wit_QueueDirectedEntries : ((wEnt 0x07 .idle).q 3).retake = false ∧ (wEnt 0x07 .idle).nextEntry 3 0x07 = some (wE 0x07) ∧
    ((wEnt 0x07 .idle).q 3).bound = [wE 0x07] ∧ (wEnt 0x07 .idle).gates = false ∧ (wEnt 0x07 .idle).hold = false ∧ (wEnt 0x07 .idle).heldAt ((wEnt 0x07 .idle).qModule 3) = false ∧
    (wEnt 0x0F .idle).nextEntry 3 0x0F = some (wE 0x0F) ∧ ((wEnt 0x0F .idle).q 3).bound = [wE 0x0F] ∧
    (wEnt 0x06 .idle).nextEntry 3 0x06 = some (wE 0x06) ∧
    (((wEnt 0x06 .idle).markApplied 3 (wE 0x06).cnt).writeHead 3).readyFences = [] := by decide

/-! ### MisalignedAccessesAreCounted -/

theorem wit_MisalignedAccessesAreCounted : wDie.admits 0 0x2002 = true ∧ rightsOk 0 0x2002 = true ∧ ¬ ((4 = 4 ∨ 4 = 8) ∧ 0x2002 % 4 = 0) ∧
    wDie.admits 0 0x3FFFFF = true ∧ rightsOk 0 0x3FFFFF = true ∧ ¬ ((1 = 4 ∨ 1 = 8) ∧ 0x3FFFFF % 1 = 0) := by decide
theorem test_misaligned_read : (after (.rclrRead .bar0 1 0x2002 4) { wDie with readOut := 5 }).readOut = 0 := by decide

/-! ### UpperHalfReadReturnsTheShadow -/

theorem wit_UpperHalfReadReturnsTheShadow : isWide 0x2000 = true ∧ wDie.admits 0 0x2000 = true ∧ rightsOk 0 0x2000 = true ∧
    wDie.admits 0 0x2004 = true ∧ rightsOk 0 0x2004 = true ∧ isWide 0x7008 = true ∧ rightsOk 0 0x7008 = true ∧ rightsOk 0 0x700C = true := by decide
theorem test_lower_half_read : (after (.lowerHalfRead 0 0x2000) { wDie with frm := { time := 0x500000007 } }).upKept = [((0, 0x2000), 5)] := by decide

/-! ### TwoHalvesWriteTheWhole -/

theorem wit_TwoHalvesWriteTheWhole : isWide 0x20000 = true ∧ wQ.admits 0 0x20000 = true ∧ wQ.admits 0 0x20004 = true ∧
    rightsOk 0 0x20000 = true ∧ rightsOk 0 0x20004 = true ∧ wQ.wideMay 0 0x20000 = true ∧ isWide 0x40008 = true ∧
    rightsOk 0 0x40008 = true ∧ rightsOk 0 0x4000C = true ∧ wQ.wideMay 0 0x40008 = false ∧ ∀ e ∈ wQ.lowHeld, e.1 ≠ (0, 0x20000) := by decide
theorem test_upper_half_write : ((after (.registerWrite .bar0 0 0x20004 4 9) { wDie with lowHeld := [((0, 0x20000), 0x100)] }).q 0).ring = 0x900000100 := by decide

/-! ### RegisterFieldsWrittenAndCleared -/

theorem wit_RegisterFieldsWrittenAndCleared : isConfigMaster 0 = true ∧ wDie.admits 0 (0x80000 + 256 * 63 + 4 * 6) = true ∧
    rightsOk 0 (0x80000 + 256 * 63 + 4 * 6) = true ∧ wDie.admits 0 (0x80000 + 256 * 0 + 4 * 1) = true ∧ rightsOk 0 (0x80000 + 256 * 0 + 4 * 1) = true ∧
    (wDie.q 1023).st = .disabled ∧ wDie.admits 0 (qcfgOff 1023) = true ∧ rightsOk 0 (qcfgOff 1023) = true ∧ rightsOk 0 0x08 = true ∧
    rightsOk 0 (qcfgOff 1023 + 0x30) = true ∧ rightsOk 0 (0x80044 + 256 * 63) = true ∧ rightsOk 0 (0xA4004 + 8 * 255) = true := by decide
theorem test_sem_info_clears : ((after (.rclrRead .bar0 0 (0xA4004 + 8 * 255) 4) { wDie with sems := [(255, { value := 3, bad := 2 })] }).sem 255) = { value := 3 } := by decide
theorem test_class_shadow : ((after (.registerWrite .bar0 0 (0x80000 + 256 * 63 + 4) 4 0x123) wDie).cls 63).shadow.disp = 0x123 := by decide

/-! ### WindowWritesStoreBytes -/

theorem wit_WindowWritesStoreBytes_core : isHost 0 = true ∧ inRange 0x410000 0x400000 0xFFFFFF = true ∧
    ({ wDie with gctl := { freeze := 2 } } : State).admits 0 0x410000 = true ∧ winSizeOk 0x410000 4 256 = true ∧
    windowCore 0x410000 = some (1, 0) ∧ 0 < localSize 1 ∧ ({ wDie with gctl := { freeze := 2 } } : State).drained 1 = true ∧
    wDie.drained 1 = false := by decide
theorem wit_WindowWritesStoreBytes_hawk : windowCore 0xDFFFFC = none ∧ ({ wDie with gctl := { hawkQ := 15 } } : State).inHawk 0xDFFFFC = true ∧
    ({ wDie with gctl := { hawkQ := 15 } } : State).hitsRetired 0xDFFFFC 4 = false ∧
    ({ wDie with gctl := { hawkQ := 15 } } : State).bankStopped 0xDFFFFC 4 = false ∧ winSizeOk 0xDFFFFC 4 256 = true ∧
    inRange 0xDFFFFC 0x400000 0xFFFFFF = true ∧ wDie.admits 0 0xDFFFFC = true ∧
    ({ wDie with gctl := { hawkQ := 15 }, hawk := { cells := [(32767, .retired)] } } : State).hitsRetired 0xDFFFFC 4 = true := by decide

/-! ### FunctionConfigurationEvents -/

theorem wit_FunctionConfigurationEvents : (0 < 2 ∧ 1 < 2) ∧ (wPba.link 1).cfg.msixEn = true ∧ (wPba.link 1).cfg.funcMask = false ∧
    (wPba.link 1).holding = false ∧ (wPba.link 1).cfg.pba.contains 2047 = true ∧ (wPba.link 1).canIssue = true ∧ wPba.admits 1 0x8000 = true ∧
    wDie.admits 0 0x8000 = true ∧ (wDie.link 0).usable = true ∧ wExit.linkServed = true ∧ (wExit.link 1).cfg.memEn = false := by decide
theorem wit_FunctionConfigurationEvents_pme : (wPme.link 0).cfg.pmeEn = true ∧ wPme.holdsRequest 0 = true ∧ (wPme.link 0).cfg.pmeStatus = false ∧
    NoHostWaits wPme := by
  refine ⟨by decide, by decide, by decide, by decide, by intro e he; cases he⟩
theorem test_unmask_sends : ((after (.vectorUnmask 1 (some 2047)) wPba).link 1).queue.map (·.kind) = [.msix 2047] := by decide

/-! ### LinkStateRows -/

theorem wit_LinkStateRows : (wDie.link 0).quiet = true ∧ (wDie.link 0).lstate = 0 ∧ (wDie.link 0).cfg.linkIdle ≠ 0 ∧ (wDie.link 0).waiting = [] ∧
    wDie.latOk 0 = true ∧ (wExit.link 1).exiting = true ∧ (wExit.link 1).lstate = 2 ∧ (wExit.link 1).cfg.d3 = true ∧
    (∃ b ∈ wExit.batches, b.1 / 2048 = 1) ∧ (wD3.link 1).quiet = true ∧ (wD3.link 1).lstate = 0 ∧ (wD3.link 1).cfg.d3 = true := by decide

/-! ### LinkErrorRows -/

theorem wit_LinkErrorRows : (wRead.link 0).reads[1]? = some { req := .pcnt 3, tags := 1, units := 1, guar := false } ∧ (wPcnt.q 3).st = .running ∧
    (wPcnt.link 0).reads[1]? = some { req := .pcnt 3, tags := 1, units := 1, guar := false } ∧ (wPcnt.q 3).reading = false ∧
    wPcnt.noneWait ∧ (wAdmRead.link 0).reads[0]? = some { req := .admin, tags := 1, units := 1, guar := false } ∧
    wAdmRead.aq.st = .running ∧ wAdmRead.noneWait := by decide

/-! ### LinkLossAndRelease -/

theorem wit_LinkLossAndRelease_loss : (wLoss.link 0).lstate = 3 ∧ (wLoss.link 0).lost = false ∧ wLoss.mode ≠ 2 ∧ (wLoss.link 0).cfg.grace ≠ 0 ∧
    (wLoss0.link 0).lstate = 3 ∧ (wLoss0.link 0).lost = false ∧ wLoss0.mode ≠ 2 ∧ (wLoss0.link 0).cfg.grace = 0 ∧ (wLoss0.link 0).cfg.llAction = 1 ∧
    (wLoss0.link 0).graceOver = false ∧ (wLoss2.link 0).lstate = 3 ∧ (wLoss2.link 0).lost = false ∧ wLoss2.mode = 2 ∧ b2n wLoss2.carry = 0 ∧
    (wLoss2.link (otherMd 0)).up = true ∧ (wLoss2.link (otherMd 0)).lost = false ∧ (wLoss2.link (otherMd 0)).lstate.toNat < 2 ∧
    (wLoss3.link 0).lstate = 3 ∧ (wLoss3.link 0).lost = false ∧ wLoss3.mode = 2 ∧ b2n wLoss3.carry ≠ 0 := by decide
theorem wit_LinkLossAndRelease_held : (wLoss.link 0).holding = false ∧ wHeld.heldSet 0 = true ∧ (wHeld.link 0).lstate = 3 ∧
    bitOf (1 : Word32) 1 = false ∧ bitOf (2 : Word32) 0 = false ∧ (wHeld.q 3).st = .running ∧ (wHeld.q 5).st = .paused ∧ wHeld.qModule 3 = 0 ∧
    wHeld.qModule 5 = 0 ∧ (wHeld2.link 0).lost = true ∧ (wHeld2.link 0).holding = true ∧ (wHeld2.link 0).graceOver = false ∧
    (wHeld2.link 0).llAtLoss = 2 ∧ (wHeld2.link 0).lstate = 3 ∧ (wHeld1.link 0).llAtLoss = 1 ∧ (wHeld1.link 0).lost = true ∧
    (wHeld1.link 0).holding = true ∧ (wHeld1.link 0).graceOver = false := by decide
theorem test_discard_stops : ((after (.nlnkDiscard 0 2) wHeld).q 3).st = .error := by decide
theorem test_release_sends : ((after (.nlnkRelease 0 1) wHeld).link 0).queue.map (·.kind) = [.data 9, .head 3] := by decide

/-! ### CommandWordsThatFlow -/

theorem wit_jump_in_block : CcwDue (wProg [wCcw 8 0 0 0 0x1020, wNop, wNop]) 9 8 (wCcw 8 0 0 0 0x1020) ∧
    CcwHeld (wProg [wCcw 8 0 0 0 0x1020, wNop, wNop]) 9 0x1020 := ⟨by unfold CcwDue; decide, by decide, by decide, _, rfl, by decide, by decide, by decide⟩
theorem wit_jump_out : CcwDue (wProg [wCcw 8 0 0 0 0x2020]) 9 8 (wCcw 8 0 0 0 0x2020) ∧ BlockPaid (wProg [wCcw 8 0 0 0 0x2020]) 9 ∧
    blockOf (0x2020 : Word64) ≠ blockOf (0x1000 : Word64) := by unfold CcwDue BlockPaid; decide
theorem wit_nop_cc : CcwDue (wProg [wNop, wNop]) 9 9 wNop ∧ CcwHeld (wProg [wNop, wNop]) 9 0x1010 :=
  ⟨by unfold CcwDue; decide, by decide, by decide, _, rfl, by decide, by decide, by decide⟩
theorem wit_nop_ends : CcwDue (wProg [wCcw 9 0 0 0 0]) 9 9 (wCcw 9 0 0 0 0) ∧ EndsQuietly (wProg [wCcw 9 0 0 0 0]) 9 := by
  unfold CcwDue EndsQuietly; decide
theorem wit_skipif : CcwDue (wProg [wCcw 14 2 0 0x01010004 0, wNop, wNop]) 9 14 (wCcw 14 2 0 0x01010004 0) ∧
    CcwHeld (wProg [wCcw 14 2 0 0x01010004 0, wNop, wNop]) 9 0x1020 := ⟨by unfold CcwDue; decide, by decide, by decide, _, rfl, by decide, by decide, by decide⟩
theorem wit_post : CcwDue (wProg [wCcw 13 2 0 7 0, wNop]) 9 13 (wCcw 13 2 0 7 0) ∧ (wProg [wCcw 13 2 0 7 0, wNop]).gates = false ∧ (wProg [wCcw 13 2 0 7 0, wNop]).hostWaits 0 = false ∧
    CcwHeld (wProg [wCcw 13 2 0 7 0, wNop]) 9 0x1010 := ⟨by unfold CcwDue; decide, by decide, by decide, by decide, by decide, _, rfl, by decide, by decide, by decide⟩
theorem test_skip : ((after (.skipif 9) (wProg [wCcw 14 2 0 0x01010004 0, wNop, wNop])).chan 9).ccwa = 0x1020 := by decide

/-! ### WaitsBeginAndEnd -/

theorem wit_waits : CcwDue (wProg [wCcw 10 2 0 4 0]) 9 10 (wCcw 10 2 0 4 0) ∧ CcwDue (wProg [wCcw 11 2 0 0x20003 0]) 9 11 (wCcw 11 2 0 0x20003 0) ∧
    CcwDue ((wProg [wCcw 11 2 0 3 0, wNop]).updChan 9 fun c => { c with pend := 6 }) 9 11 (wCcw 11 2 0 3 0) ∧
    bitOf ((6 : BitVec 16) &&& 3) 1 = true ∧ bitOf ((6 : BitVec 16) &&& 3) 0 = false ∧
    CcwDue (wProg [wCcw 16 2 0 0xF00A 0, wNop]) 9 16 (wCcw 16 2 0 0xF00A 0) := by unfold CcwDue; decide
theorem wit_waits_next : CcwHeld ((wProg [wCcw 11 2 0 3 0, wNop]).updChan 9 fun c => { c with pend := 6 }) 9 0x1010 ∧
    CcwHeld (wProg [wCcw 16 2 0 0xF00A 0, wNop]) 9 0x1010 :=
  ⟨⟨by decide, by decide, _, rfl, by decide, by decide, by decide⟩, by decide, by decide, _, rfl, by decide, by decide, by decide⟩
theorem wit_wait_ends : (wWait .waitTick).noneWait ∧ (wWait .waitTick).arbiterOn = true ∧ ((wWait .waitTick).chan 9).st = .waitTick ∧
    ((wWait .waitTick).chan 9).due = some 0 ∧ 0 ≤ (wWait .waitTick).frm.frame.toNat ∧ BlockPaid (wWait .waitTick) 9 ∧
    ((wWait .waitEvent).chan 9).st = .waitEvent ∧ BlockPaid (wWait .waitEvent) 9 ∧
    ((wWait .waitTick).admits 0x80 (chOff 9) = true ∧ rightsOk 0x80 (chOff 9) = true) := by unfold BlockPaid; decide
theorem test_takes_lowest : ((after (.waite 9) ((wProg [wCcw 11 2 0 7 0, wNop]).updChan 9 fun c => { c with pend := 6 })).chan 9).pend = 4 := by decide

/-! ### TransfersBegin -/

theorem wit_transfers_begin : CcwDue (wDue (wData 1 100 0x30 0x5000)) 9 1 (wData 1 100 0x30 0x5000) ∧
    (wDue (wData 1 100 0x30 0x5000)).portJudge 0x30 1 0 = none ∧ (wDue (wData 1 100 0x30 0x5000)).countOk 0x30 1 0 100 = true ∧
    (wDue (wData 1 100 0x30 0x5000)).readSize 9 (0x5000, 100) = 100 ∧ CcwDue (wDue (wData 2 8 0x30 0x5000)) 9 2 (wData 2 8 0x30 0x5000) ∧
    (wDue (wData 2 8 0x30 0x5000)).portJudge 0x30 2 0 = none ∧ (wDue (wData 2 8 0x30 0x5000)).isBuffered 0x30 = true ∧
    ((wDue (wData 2 8 0x30 0x5000)).port 0x30).buf = [] := by unfold CcwDue; decide
theorem wit_sense : CcwDue (wDue (wData 4 32 0x30 0x8000000000000010)) 9 4 (wData 4 32 0x30 0x8000000000000010) ∧
    (wDue (wData 4 32 0x30 0x8000000000000010)).portJudge 0x30 4 0 = none ∧
    ((wDue (wData 4 32 0x30 0x8000000000000010)).chan 9).lsegBad (0x8000000000000010, 32) = false ∧
    CcwGoesOn (wDue (wData 4 32 0x30 0x8000000000000010)) 9 ∧
    ((wDue (wData 1 100 0x30 0x5000)).laid 9 (wData 1 100 0x30 0x5000)).replayed 9 = none ∧
    ((wDue (wData 1 100 0x30 0x5000)).laid 9 (wData 1 100 0x30 0x5000)).outBad 9 false = none ∧
    (wDue (wData 1 100 0x30 0x5000)).canOpen 9 = none ∧
    ((wDue (wData 1 100 0x30 0x5000)).laid 9 (wData 1 100 0x30 0x5000)).fitsCh 9
      (startCost (((wDue (wData 1 100 0x30 0x5000)).laid 9 (wData 1 100 0x30 0x5000)).outCost 9 false).1) = true :=
  ⟨by unfold CcwDue; decide, by decide, by decide, ⟨by decide, by decide, ⟨_, rfl, by decide, by decide, by decide⟩,
   ⟨by decide, by decide, _, rfl, by decide, by decide, by decide⟩, by decide⟩, by decide, by decide, by decide, by decide⟩

/-! ### DispatchAndArrivals -/

theorem wit_dispatch : wStart.noneWait ∧ (wStart.chan 9).st = .startPending ∧ wStart.arbiterOn = true ∧
    wStart.pickTurn (wStart.turns.get {} 0) (wStart.startable 0) = some (9, { best := 10 }) ∧
    wStart.fitsCh 9 { disp := 1 } = true ∧ BlockPaid wStart 9 := by unfold BlockPaid; decide
theorem wit_block : ((wOut (wWait .active) (.ccw 9 0x1000)).link 0).reads.map (·.req) = [.ccw 9 0x1000] ∧
    ((wOut (wWait .active) (.ccw 9 0x1000)).link 0).waiting = [] ∧ ((wWait .active).chan 9).st = .active ∧
    ((wWait .active).chan 9).fetched = false ∧ (wWait .active).ccwCheck wNop none = none ∧ blockOf ((wWait .active).chan 9).ccwa = 0x1000 := by decide
theorem wit_local : (wPort [wData 1 2 0xFF 0x5000, wNop] { cmd := 1, param := 0x300FF, phase := .data, pieces := [(0x5000, 2)], parts := [(0x1000, 2)] } {}).lsegRetired 9 3 2 = false ∧
    CcwGoesOn (wPort [wData 1 2 0xFF 0x5000, wNop] { cmd := 1, param := 0x300FF, phase := .data, pieces := [(0x5000, 2)], parts := [(0x1000, 2)] } {}) 9 :=
  ⟨by decide, by decide, by decide, ⟨_, rfl, by decide, by decide, by decide⟩, ⟨by decide, by decide, _, rfl, by decide, by decide, by decide⟩, by decide⟩

/-! ### UnitsAndTimeouts -/

def wWire (cmd : Nat) : State := wPort [wData cmd 1 0x30 0x5000 ||| 0x4000, wNop]
  { cmd, param := 0x30, phase := if cmd = 1 then .wire else .input, parts := [(0x1000, 1)], sls := [true], out := if cmd = 1 then [5] else [], unit := 1 }
  { unitOn := if cmd = 1 then some 9 else none, readers := if cmd = 1 then [] else [9] }
def wModbus : State := wPort [wData 2 1 0x130 0x5000 ||| 0x4000, wNop]
  { cmd := 2, param := 0x130, phase := .wire, parts := [(0x1000, 1)], sls := [true] } { unitOn := some 9, act := [(0x100, 2)] }
def wCan : State :=
  { wPort [wData 2 1 0x20 0x5000 ||| 0x4000, wNop] { cmd := 2, param := 0x20, phase := .input, parts := [(0x1000, 1)], sls := [true] } {} with
    ports := [(0x20, { st := 1, act := [(0x108, 0x00010000)], readers := [9] })] }
def wGrant : State := { wWire 1 with hawk := { waits := [{ ch := 9, acct := 0, ticks := 2 }] } }
theorem wit_unit : ((wWire 1).chan 9).port = 0x30 ∧ ((wWire 1).chan 9).st = .active ∧ ((wWire 1).chan 9).xfer.phase = .wire ∧
    ((wWire 1).port 0x30).unitOn = some 9 ∧ portKind 0x30 = some .uart ∧ NoUnitReady (wWire 1) ∧ CcwGoesOn (wWire 1) 9 :=
  ⟨by decide, by decide, by decide, by decide, by decide, by unfold NoUnitReady; decide, by decide, by decide,
   ⟨_, rfl, by decide, by decide, by decide⟩, ⟨by decide, by decide, _, rfl, by decide, by decide, by decide⟩, by decide⟩
theorem wit_rx_timeout : (wCan.chan 9).port = 0x20 ∧ wCan.rxTo 0x20 ≠ 0 ∧ (wCan.chan 9).xfer.slHere = true ∧ 0 < (wCan.chan 9).xfer.left ∧
    (wCan.port 0x20).readers = [9] ∧ CcwGoesOn wCan 9 :=
  ⟨by decide, by decide, by decide, by decide, by decide, by decide, by decide,
   ⟨_, rfl, by decide, by decide, by decide⟩, ⟨by decide, by decide, _, rfl, by decide, by decide, by decide⟩, by decide⟩
theorem wit_modbus : (wModbus.chan 9).port = 0x30 ∧ wModbus.isModbus 0x30 = true ∧ (wModbus.chan 9).xfer.slHere = true ∧ NoUnitReady wModbus ∧ CcwGoesOn wModbus 9 :=
  ⟨by decide, by decide, by decide, by unfold NoUnitReady; decide, by decide, by decide,
   ⟨_, rfl, by decide, by decide, by decide⟩, ⟨by decide, by decide, _, rfl, by decide, by decide, by decide⟩, by decide⟩
theorem wit_grant : wGrant.hawk.waits = [{ ch := 9, acct := 0, ticks := 2 }] ∧ EndsQuietly { wGrant with hawk := { wGrant.hawk with waits := [] } } 9 := by
  unfold EndsQuietly; decide
theorem test_rx_timeout_bits : ((after (.rxTimeout 9) wCan).chan 9).cond = 0x89 := by decide

/-! ### ControlOperationsComplete -/

def wCtl (port op : Nat) : State :=
  { wPort [wData 3 1 port 0xC000000000000000, wNop] { cmd := 3, param := BitVec.ofNat 32 port, phase := .wire, parts := [(0x1000, 1)], out := [BitVec.ofNat 8 op], unit := 1 } {} with
    ports := [(port, { st := 1, unitOn := some 9, breakOn := true, linkDown := true, buf := [{ node := none, bytes := [1], cells := [5], cost := 0, last := true }] })] }
theorem wit_ctl_op : (wCtl 0x48 1).ctlOn 9 1 = true ∧ (wCtl 0x48 6).ctlOn 9 6 = true ∧ (wCtl 0 2).ctlOn 9 2 = true ∧ (wCtl 0x30 4).ctlOn 9 4 = true ∧
    (wCtl 0x40 5).ctlOn 9 5 = true ∧ (wCtl 0x60 7).ctlOn 9 7 = true ∧ (wCtl 0x20 3).ctlOn 9 3 = true ∧ ((wCtl 0x60 7).port 0x60).unitOn = some 9 ∧
    NoUnitReady (wCtl 0x60 7) := by unfold NoUnitReady; decide
theorem wit_ctl_goes_on : CcwGoesOn (wCtl 0x60 7) 9 ∧ ((wCtl 0x60 7).chan 9).port = 0x60 :=
  ⟨⟨by decide, by decide, ⟨_, rfl, by decide, by decide, by decide⟩, ⟨by decide, by decide, _, rfl, by decide, by decide, by decide⟩, by decide⟩, by decide⟩
theorem test_link_restart : ((after (.linkRestart 9) (wCtl 0x60 7)).port 0x60).linkDown = false := by decide

/-! ### RoutinesOfChannels -/

def wRoutine : Routine := { num := 1, crn := false, off := 0, len := 4, bound := 100, mbx := none, code := [0, 0, 0, 0] }
def wRunW : BitVec 128 := wCcw 0x0C 2 8 0x00400001 0x8000000000000000
def wRun : State := { wDue wRunW with libs := [(0, { routines := [wRoutine] })] }
def wRunning : State := { wDie with queues := [(3, { st := .running })], chans := [(9, { wChan [wRunW, wNop] with xfer := { cmd := 0x0C, phase := .run } })],
                                    libs := [(0, { routines := [wRoutine] })] }
def wBound : State := (after (.runDispatch 9) wRunning).updCtx 0 0 fun c => { c with left := 0 }
theorem wit_run : CcwDue wRun 9 0x0C wRunW ∧ wRun.routine 0 1 false = some wRoutine ∧ (wRun.chan 9).lsegBad (ccwAddr wRunW, 8) = false ∧
    wRun.unfitCh 9 (runCost false 64) = false ∧ wRun.runBlocked 9 false 64 = none ∧ runBound wRoutine (ccwParam wRunW) = 64 ∧ tileOfCh 9 = 0 := by
  unfold CcwDue; decide
theorem wit_run_dispatch : wRunning.noneWait ∧ wRunning.arbiterOn = true ∧ (wRunning.chan 9).heldCcw = some wRunW ∧
    wRunning.runBlocked 9 false 64 = none ∧ wRunning.pickCtx 0 false (wRunning.isGuar 9) = some (0, 0) := by decide
set_option maxRecDepth 8000 in
theorem wit_bound : ((wBound.ctx 0 0).run.map fun x => x.ch) = some 9 ∧ (wBound.ctx 0 0).st = .ready ∧
    wBound.boundReached 0 0 = true ∧ EndsQuietly wBound 9 ∧ (∀ e ∈ wBound.chans, e.2.parked = false) := by
  unfold EndsQuietly; decide

/-! ### TickOpensTheNextFrame -/

theorem wit_tick_temp : (30 : Int) < tempTrip ∧ tempTrip ≤ 200 := by unfold tempTrip; split <;> decide
theorem wit_tick : wDie.die = .ready ∧ wDie.commits = [] ∧ wDie.ds.role = 0 ∧ wDie.hold = false ∧ wDie.frm.stepDue = none ∧
    wDie.frm.stepMark = false ∧ wDie.noneWait ∧ NoUnitReady wDie ∧ (∀ e ∈ wDie.chans, e.2.parked = false) ∧ wDie.ds.pulse = none ∧
    (∀ e ∈ wDie.ports, e.2.buf = [] ∧ e.2.readers = []) ∧ wDie.ds.handing = false ∧ wDie.ds.taking = false ∧ wDie.aq.cmds = [] := by
  unfold NoUnitReady; decide
def wDip : State := { wDie with hold := true, pwr := { wDie.pwr with vddWarn := true } }
theorem wit_tick_hold : wDip.hold = true ∧ wDip.pwr.warns = true ∧ wDip.die = .ready := by decide
theorem test_tick_halted : (after (.tick 900 30) { wDie with die := .halted, prm := { wDie.prm with st := 1 } }).frm.frame = wDie.frm.frame + 1 := by decide

/-! ### DisciplineOfTheFrameTimer -/

def wFrm (src : BitVec 2) : State := { wDie with frm := { wDie.frm with
  src, firstStep := true, locked := true, noEdge := 4, noCorr := 255, slew := -3, time := 100000, opened := 100000, next := 1000000 } }
theorem wit_discipline : (wFrm 0).admits 0 0x2028 = true ∧ isConfigMaster 0 = true ∧ (wFrm 0).frm.src ≠ 2 ∧ (wFrm 0).ds.role ≠ 2 ∧
    100000 < (100001 : Word32).toInt.natAbs ∧ (wFrm 2).frm.src = 2 ∧ (wFrm 2).die = .ready ∧
    10 * (wFrm 2).frm.syncWin.toNat < ((wFrm 2).frm.toEdge 50000).tickErr.natAbs ∧ ((wFrm 2).frm.toEdge 99).tickErr.natAbs ≤ 10 * (wFrm 2).frm.syncWin.toNat ∧
    (wFrm 0).frm.slewCycles ≤ (wFrm 0).frm.cyclesTo (wFrm 0).frm.next.toNat ∧ (wFrm 1).frm.holdFr.toNat ≤ (wFrm 1).frm.noCorr := by decide

/-! ### HawkCells -/

def wHawk : State := { wDie with gctl := { wDie.gctl with cells := 32768, hawkQ := 15 }, hawk := { wDie.hawk with cells := [(5, .held 0 0)], acct := [(5, 65)] } }
theorem wit_hawk : wHawk.admits 0 hwkBase = true ∧ rightsOk 0 hwkBase = true ∧ wHawk.cellFree 6 = true ∧ (wHawk.dom 127).level = 0 ∧
    wHawk.heldBy 0 5 = true ∧ wHawk.heldBy 0 6 = false ∧ wHawk.noneWait ∧ wHawk.credits 3 < 2 ∧ wHawk.cell 8 = .free ∧ wHawk.die = .ready := by decide
set_option maxRecDepth 20000 in
theorem wit_hawk_account : wHawk.grantOk (wHawk.acctOf 0 0) = true := by decide
set_option maxRecDepth 20000 in
theorem wit_hawk_reserve : wHawk.rsvSum 3 100 + 1024 ≤ wHawk.gctl.cells.toNat := by decide
theorem test_free_one : (after (.hwkFree 0 5) wHawk).cell 5 = .free := by decide

/-! ### MailboxesAndSemaphores -/

def wMbx (ms : List Msg) (d : BitVec 6) : State := { wHawk with mbxs := [(7, { en := true, depth := d, msgs := ms, any := true })], sems := [(7, { value := 1 })] }
def wMsg : Msg := { cell := 9, sender := 0, len := 4 }
theorem wit_mailbox : (wMbx [] 2).admits 0 (mbxBase 7) = true ∧ rightsOk 0 (mbxBase 7) = true ∧ (wMbx [] 2).heldBy 0 (bitsOf (0x40005 : Word32) 0 15) = true ∧
    bitsOf (0x40005 : Word32) 16 6 = 4 ∧ ((wMbx [] 2).mbx 7).en = true ∧ ((wMbx [] 2).mbx 7).full = false ∧ ((wMbx [wMsg] 1).mbx 7).full = true ∧
    ((wMbx [] 2).mbx 7).armed = false ∧ coreOfMid 0 = none ∧ ((wMbx [wMsg] 2).mbx 7).msgs = [wMsg] ∧ isConfigMaster 0 = true ∧
    bitsOf (0x10004 : Word32) 1 6 = 2 ∧ bitOf (0x10004 : Word32) 16 = true ∧ bitsOf (0x10004 : Word32) 7 9 = 0 ∧ ((wMbx [wMsg] 2).mbx 7).rxm = 0 := by decide
theorem wit_semaphore : (wMbx [] 2).admits 0 (semBase 7) = true ∧ rightsOk 0 (semBase 7) = true ∧ ((wMbx [] 2).sem 7).value.toNat = 0 + 1 ∧
    ((wMbx [] 2).sem 7).value.toNat ≠ 1 + 1 := by decide
theorem test_pop_word : (after (.mbxPop 0 0 7) (wMbx [wMsg] 2)).readOut = 0x08008009 := by decide

/-! ### ScrimArbiters -/

def wReq (m rank beats : Nat) : ScrReq := { who := .master m, m, rank, beats }
def wScr (m rank beats : Nat) : State := { wDie with scrs := [(3, { busy := some (wReq m rank beats) })], classes := [(1, { act := { kind := 2 } })] }
theorem wit_scrim : (wDie.scr 3).freeze = false ∧ (wDie.scr 3).hold = false ∧ (wDie.scr 3).busy = none ∧ arbiterOf (.hawkCell 7) = 3 ∧
    ((wScr 0x84 0 8).scr 3).busy = some (wReq 0x84 0 8) ∧ (wScr 0x84 0 8).scrRank (.master 0x85) (some 1) = 2 ∧ 
    (wScr 0x84 0 8).scrRank (.master 0x85) (some 0) ≠ 2 ∧ ((wScr 0x84 0 8).scr 3).pend = [] ∧ isHost 1 = true ∧
    (wScr 1 0 8).noneWait ∧ wDie.admits 0 0x5000 = true ∧ rightsOk 0 0x5030 = true := by decide
theorem test_revokes : ((after (.scrimRequest (.hawkCell 7) (.master 0x85) ⟨4, 6⟩ (some 1)) (wScr 0x84 0 8)).scr 3).pend = [wReq 0x84 0 8] := by decide
theorem test_last_beat : ((after (.scrimRequest (.hawkCell 7) (.master 0x85) ⟨4, 7⟩ (some 1)) (wScr 0x84 0 8)).scr 3).pend = [] := by decide

/-! ### InterruptSources -/

def wSrc : State := { wDie with
  frm := { wDie.frm with time := 5 }
  srcs := [(0x410, { en := true, pend := true, tgt := true, offer := true, loc := 3, prio := 5, sense := some 0, line := true }), (0x411, { act := true, sense := some 0, loc := 3 })]
  targets := [(3, { service := [(0x411, 2)] })]
  batches := [(7, { count := 1, deadline := 5 }), (2055, { count := 1, deadline := 5 })] }
theorem wit_sources : srcReserved 0x412 = false ∧ srcIsLevel 0x412 = true ∧ (wSrc.src 0x412).act = false ∧ wSrc.srcSense 0x410 = 0 ∧ (wSrc.src 0x410).line = true ∧
    srcIsLevel 0x401 = false ∧ srcReserved 0x401 = false ∧ wSrc.admits 0x20 icBase = true ∧ takeRight 0x20 3 = true ∧ wSrc.presentedTo 0x410 3 = true ∧
    wSrc.presentedTo 0x412 3 = false ∧ rightsOk 0x20 (icBase + 0xF000 + 3 * 16) = true ∧ (wSrc.src 0x411).act = true ∧ wSrc.srcLevelSense 0x411 = true ∧
    ((wSrc.target 3).service.any fun e => e.1 == 0x411) = true ∧ isConfigMaster 0 = true ∧ rightsOk 0 (icBase + 0xF800) = true ∧
    (wSrc.batches.any fun b => b.1 == 1 * 2048 + 7 && decide (b.2.deadline ≤ wSrc.frm.time.toNat)) = true ∧
    (wSrc.link 0).canIssue = true ∧ (wSrc.link 1).canIssue = true ∧ (wSrc.link 1).holding = false ∧ (wSrc.link 0).holding = false ∧ wSrc.srcSense 0x412 = 0 := by decide
theorem test_take_answers : ((after (.icTake 0x20 3 0x410) wSrc).target 3).result.get 0x7FF 0x20 = 0x410 := by decide

/-! ### PortFaultsAndQuarantine -/

def wBus (st : BitVec 3) (cause : BitVec 4) (causes : List Nat) : State := { wDie with
  ports := [(0x20, { st, cause, causes, recovering := cause = 6, quar := [7, 9], act := [(0x108, 1)] })] }
theorem wit_port_faults : causeOk 0x20 7 = true ∧ ((wBus 1 0 []).port 0x20).st = 1 ∧ (wBus 1 0 []).portChans 0x20 = [] ∧ ((wBus 1 0 []).port 0x20).linkDown = false ∧
    ((wBus 2 7 [7]).port 0x20).st = 2 ∧ (wBus 2 7 [7]).pEnabled 0x20 = true ∧ (∀ c ∈ ((wBus 2 7 [7]).port 0x20).causes, c ≠ 6) ∧
    ((wBus 2 6 [6]).port 0x20).recovering = true ∧ portKind 0x20 = some .can ∧ (wBus 2 7 [7]).admits 0 (portBase 0x20) = true ∧ isConfigMaster 0 = true ∧
    NoUnitReady (wBus 1 0 []) := by unfold NoUnitReady; decide
theorem test_lift_one : ((after (.lift 0 0x20 7) (wBus 1 0 [])).port 0x20).quar = [9] := by decide

/-! ### UnitsThatPortsReceive -/

def wUart (mode : Nat) : State := { wDie with
  frm := { wDie.frm with time := 10000000 }
  ports := [(0x30, { st := 1, act := [(0x100, BitVec.ofNat 32 mode)], adu := [3], vresp := some 0,
                     buf := if mode = 0 then [{ node := none, bytes := [1], cost := 1, last := false, cells := [] }] else [] })] }
def wIdleRead : State := wPort [wData 2 1 0x30 0x5000 ||| 0x4000, wNop]
  { cmd := 2, param := 0x30, phase := .input, parts := [(0x1000, 1)], sls := [true] } { readers := [9] }
def wI2c : State := { wDie with ports := [(0x48, { st := 1, act := [(0x100, 0x10)], vresp := some 0 }), (0, { st := 1, act := [(0x100, 12)], silent := true, beaconHeld := true }),
                                          (1, { st := 1, act := [(0x100, 0)], silent := true })] }
theorem wit_received : portKind 0x30 = some .uart ∧ (wUart 0).isModbus 0x30 = false ∧ ((wUart 0).port 0x30).st = 1 ∧ ((wUart 0).port 0x30).readers = [] ∧
    respOf (bitsOf ((wUart 0).vresp 0x30) (4 * unsolClass 0x30) 4) = .ignore ∧ (wUart 2).isModbus 0x30 = true ∧ ((wUart 2).port 0x30).unitOn = none ∧
    respOf (bitsOf (wI2c.vresp 0x48) 4 4) = .ignore ∧ bitOf (wI2c.pcfg 0x48 0x100) 4 = true ∧ wI2c.isPaced 0 = true ∧ bitOf (wI2c.pcfg 1 0x100) 2 = false ∧
    (wUart 0).noneWait ∧ (wUart 0).die = .ready ∧ 0 + 100 * ((wUart 0).port 0x30).rxhold.toNat ≤ (wUart 0).frm.time.toNat := by decide
theorem wit_idle_line : (wIdleRead.port 0x30).readers = [9] ∧ (wIdleRead.chan 9).xfer.slHere = true ∧ wIdleRead.isModbus 0x30 = false ∧ CcwGoesOn wIdleRead 9 :=
  ⟨by decide, by decide, by decide, by decide, by decide, ⟨_, rfl, by decide, by decide, by decide⟩, ⟨by decide, by decide, _, rfl, by decide, by decide, by decide⟩, by decide⟩
theorem test_uart_buffers : ((after (.frameReceive 0x30 (.uart 0x41 none)) (wUart 0)).port 0x30).buf.map (·.bytes) = [[1], [0x41]] := by decide

/-! ### PinsAndConverters -/

def wGpio (mode : Nat) : State := { wDie with
  ports := [(0x50, { st := 1, act := [(0x100 + 12, BitVec.ofNat 32 mode)], outs := 1, timers := [(3, 0)], dutyNext := [(3, 500)] }),
            (0x60, { st := 1, act := [(0x100, 0x100), (0x1008, 0x100)], txts := [(5, 77)] }),
            (0x58, { st := 1, act := [(0x100 + 12, 2), (0x140 + 12, 0x08000010)] })] }
def wAdc : State := { wPort [wData 2 2 0x358 0x8000000000000010, wNop]
    { cmd := 2, param := 0x358, phase := .wire, parts := [(0x1000, 2)], sls := [false], pieces := [(0x8000000000000010, 2)] } {} with
  ports := [(0x58, { st := 1, unitOn := some 9 })] }
theorem wit_pins : portKind 0x50 = some .gpio ∧ ((wGpio 0).port 0x50).st = 1 ∧ (wGpio 0).lineMode 0x50 3 = 0 ∧ (wGpio 0).lineMode 0x50 2 ≠ 5 ∧
    (wGpio 4).lineMode 0x50 3 = 4 ∧ ((wGpio 4).port 0x50).timers = [(3, 0)] ∧ (wGpio 2).lineMode 0x50 3 = 2 ∧
    bitOf ((wGpio 0).pcfg 0x58 0x10C) 1 = true ∧ bitOf ((wGpio 0).pcfg 0x60 0x100) 8 = true ∧ (wGpio 0).gateValid 0x60 1 = true ∧ (wGpio 0).gateEnd 0x60 1 ≤ (wGpio 0).gatePos 0x60 ∧
    ((wGpio 0).port 0x60).txts = [(5, 77)] ∧ (wGpio 0).admits 0 (portBase 0x60 + 0x200) = true ∧ rightsOk 0 (portBase 0x60 + 0x200) = true := by decide
theorem wit_adc : (wAdc.port portAdc).unitOn = some 9 ∧ (wAdc.chan 9).node = 3 ∧ (wAdc.chan 9).port = portAdc ∧ (wAdc.chan 9).xfer.left = 2 ∧
    wAdc.lsegRetired 9 0x10 2 = false ∧ NoUnitReady wAdc ∧ CcwGoesOn wAdc 9 :=
  ⟨by decide, by decide, by decide, by decide, by decide, by unfold NoUnitReady; decide, by decide, by decide,
   ⟨_, rfl, by decide, by decide, by decide⟩, ⟨by decide, by decide, _, rfl, by decide, by decide, by decide⟩, by decide⟩
theorem test_timer_toggles : ((after (.gpioTimerMatch 0x50 3) (wGpio 4)).port 0x50).outs = 9 := by decide

/-! ### AdminQueueRegisters -/

def wAq (st : AqState) : State := { wDie with aq := { st, csize := if st = .draining then 7 else 0 }, prm := { wDie.prm with st := 1 } }
theorem wit_admin_queue : (wAq .running).admits 0 aqBase = true ∧ (wAq .running).aqMay 0 = true ∧ (1 : Word32) - (wAq .running).aq.ccons = 1 ∧
    1 ≤ (wAq .running).aq.packetSlots ∧ (wAq .running).aq.packetSlots < 17 ∧ ((wAq .running).aq.rprod - (wAq .running).aq.rcons).toNat < (wAq .running).aq.replySlots ∧
    (wAq .disabled).aqCfgErr = 0 ∧ (wDie.aqCfgErr ≠ 0 ∧ wDie.aq.st = .disabled) ∧ (wAq .error).aq.cmds = [] ∧
    (wOut { wAq .running with aq := { (wAq .running).aq with cprod := 1 } } .admin).link0.reads.map (fun r => r.req) = [.admin] ∧
    (opcTarget (wCmd [1, 0]).opc).isSome = true ∧ (wCmd [1, 0]).hostBytes = 0 := by decide
theorem test_enable_runs : (after (.aqEnable 0) (wAq .disabled)).aq.st = .running := by decide

/-! ### AdminQueries -/

theorem wit_admin_queries : OneAdmin (wAdm [0x01, 0]) (wCmd [0x01, 0]) 1 ∧ OneAdmin (wAdm [0x02, 0]) (wCmd [0x02, 0]) 2 ∧
    OneAdmin (wAdm [0x10, 3]) (wCmd [0x10, 3]) 0x10 ∧ OneAdmin (wAdm [0x80, 0]) (wCmd [0x80, 0]) 0x80 ∧ OneAdmin (wAdm [0x70, 0]) (wCmd [0x70, 0]) 0x70 ∧
    OneAdmin (wAdm [0x03, 0, 2, 0]) (wCmd [0x03, 0, 2, 0]) 3 ∧ ((wAdm [0x70, 0]).src 0x400).en = false ∧
    ((wAdm [0x70, 0]).link 0).canIssue = true ∧ ((wAdm [0x70, 0]).link 1).canIssue = true := by unfold OneAdmin; decide
theorem wit_journal_read : OneAdmin (wAdm [0x60, 0, 0x4000, 0, 64]) (wCmd [0x60, 0, 0x4000, 0, 64]) 0x60 ∧ (wAdm [0x60, 0, 0x4000, 0, 64]).jheld = [] ∧
    pickRecords ((wAdm [0x60, 0, 0x4000, 0, 64]).journal.filter fun r => !r.bad).reverse 0 0 64 1 = ([], 1) := by unfold OneAdmin; decide

/-! ### AdminBindingAndLibraries -/

def wBind : List Word32 := [0x11, 9, 0x20003]
def wUnbound : State := { wAdm [0x12, 9] with chans := [(9, { bound := true, queue := 3, lcells := 1, lbase := 5 })], hawk := { cells := [(5, .lseg 9)] } }
def wLoadR : List Word32 := [0x20, 1, 1, 0x4000, 0, 4, 100, 0x1FF]
def wLoadH : List Word32 := [0x20, 1, 0x3000, 0x4000, 0, 66, 0, 0]
def wFrozen : State := { wAdmD wLoadH with gctl := { (wAdmD wLoadH).gctl with freezeCrn := 1 } }
theorem wit_unbind : OneAdmin wUnbound (wCmd [0x12, 9]) 0x12 ∧ (wUnbound.chan 9).bound = true ∧ (wUnbound.chan 9).st = .idle ∧ wUnbound.noneWait := by
  unfold OneAdmin; decide
theorem wit_bind : OneAdmin (wAdm [0x11, 9, 3]) (wCmd [0x11, 9, 3]) 0x11 ∧ bitsOf ((wCmd [0x11, 9, 3]).pw 0) 16 7 = 0 ∧
    ((wAdm [0x11, 9, 3]).chan 9).bound = false ∧ ((wAdm [0x11, 9, 3]).chan 9).st = .idle := by unfold OneAdmin; decide
theorem wit_routine_load : OneAdmin (wAdmD wLoadR) (wCmd wLoadR) 0x20 ∧ (wCmd wLoadR).handlers = false ∧ DataOut (wAdmD wLoadR) (wCmd wLoadR) ∧
    (∀ i ∈ tilesOf 1, (wAdmD wLoadR).routine i 1 false = none) ∧ placeRun ((wAdmD wLoadR).usedWords (tilesOf 1) false) 4 none = some 0 :=
  ⟨by unfold OneAdmin; decide, by decide, ⟨0, by decide, by decide, by decide, by decide⟩, by decide, by decide⟩
theorem wit_handler_load : OneAdmin wFrozen (wCmd wLoadH) 0x20 ∧ (wCmd wLoadH).handlers = true ∧ DataOut wFrozen (wCmd wLoadH) ∧
    ((tilesOf 1).all fun i => (libCores i true).all wFrozen.drained) = true ∧ (∀ i ∈ tilesOf 1, (wFrozen.lib i).routines = []) :=
  ⟨by unfold OneAdmin; decide, by decide, ⟨0, by decide, by decide, by decide, by decide⟩, by decide, by decide⟩
theorem wit_unload : OneAdmin (wAdm [0x21, 1, 1]) (wCmd [0x21, 1, 1]) 0x21 ∧ (tilesOf 1).any (fun i => (wAdm [0x21, 1, 1]).runsRoutine i 1 false) = false := by
  unfold OneAdmin; decide

/-! ### AdminCommits -/

def wCalB : List Byte := (wAdm [0x41, 0, 0]).calBlock 0 []
def wCal (op : Word32) : State := { wAdmD [0x41, 0, op, 0x40] with ports := [(0, { cal := wCalB })] }
def wLive : State := { wAdm [0x52, 0, 1] with prm := { wDie.prm with verified := true }, mem := [(0x2260006, 1)] }
def wActive : State := { wAdm [0x83, 0] with ds := { wDie.ds with role := 1, sub := 2 } }
theorem wit_commits : OneAdmin (wAdm [0x31, 0, 5]) (wCmd [0x31, 0, 5]) 0x31 ∧ OneAdmin (wAdm [0x40, 0, 1]) (wCmd [0x40, 0, 1]) 0x40 ∧
    (∀ p ∈ (wCmd [0x40, 0, 1]).ports, ((wAdm [0x40, 0, 1]).port p).st ≠ 4 ∧ (wAdm [0x40, 0, 1]).shadowBad p = none) ∧
    OneAdmin wActive (wCmd [0x83, 0]) 0x83 ∧ wActive.ds.role = 1 := by unfold OneAdmin; decide
set_option maxRecDepth 8000 in
theorem wit_budget_commit : OneAdmin (wAdm [0x30, 0]) (wCmd [0x30, 0]) 0x30 ∧ (wAdm [0x30, 0]).admission (wAdm [0x30, 0]).snapshot = none := by
  unfold OneAdmin; decide
set_option maxRecDepth 20000 in
theorem wit_calibration_block : calOk 0 wCalB = true := by decide
theorem wit_calibration : OneAdmin (wCal 1) (wCmd [0x41, 0, 1, 0x40]) 0x41 ∧ DataOut (wCal 1) (wCmd [0x41, 0, 1, 0x40]) ∧ (wCmd [0x41, 0, 1, 0x40]).calOp = 1 ∧
    OneAdmin (wCal 2) (wCmd [0x41, 0, 2, 0x40]) 0x41 ∧ ((wCal 2).port 0).cal.length = 64 ∧ OneAdmin (wAdm [0x41, 0, 0]) (wCmd [0x41, 0, 0]) 0x41 ∧
    OneAdmin (wAdm [0x41, 0, 3]) (wCmd [0x41, 0, 3]) 0x41 ∧ ((wAdm [0x41, 0, 0]).port 0).st = 0 :=
  ⟨by unfold OneAdmin; decide, ⟨0, by decide, by decide, by decide, by decide⟩, by decide, by unfold OneAdmin; decide, by decide, by unfold OneAdmin; decide,
   by unfold OneAdmin; decide, by decide⟩
set_option maxRecDepth 8000 in
theorem wit_live : OneAdmin wLive (wCmd [0x52, 0, 1]) 0x52 ∧ wLive.drives = true ∧ wLive.liveOk = true ∧ wLive.prm.activating = false := by
  unfold OneAdmin; decide

/-! ### AdminFirmwarePairAndKeys -/

def wStage : List Word32 := [0x50, 0, 0x4000, 0, 4, 8]
def wVer (words : List Word32) : State := { wAdm words with prm := { wDie.prm with verified := true } }
def wStandby : State := { wAdm [0x81, 0] with ds := { wDie.ds with role := 2, sub := 3, lanes := 3 } }
def wSync : State := { wAdm [0x82, 0] with ds := { wDie.ds with role := 1, sub := 1, lanes := 3 } }
theorem wit_firmware : OneAdmin (wAdmD wStage) (wCmd wStage) 0x50 ∧ DataOut (wAdmD wStage) (wCmd wStage) ∧ (wAdmD wStage).prm.activating = false ∧
    (([1, 2, 3, 4] : List Byte)).length = ((wCmd wStage).pw 2).toNat ∧ OneAdmin (wAdm [0x51, 0, 4096]) (wCmd [0x51, 0, 4096]) 0x51 ∧
    OneAdmin (wVer [0x52, 0, 0]) (wCmd [0x52, 0, 0]) 0x52 ∧ (wVer [0x52, 0, 0]).prm.verified = true ∧ OneAdmin (wAdm [0x53, 0]) (wCmd [0x53, 0]) 0x53 :=
  ⟨by unfold OneAdmin; decide, ⟨0, by decide, by decide, by decide, by decide⟩, by decide, by decide, by unfold OneAdmin; decide, by unfold OneAdmin; decide,
   by decide, by unfold OneAdmin; decide⟩
theorem wit_pair_commands : OneAdmin wStandby (wCmd [0x81, 0]) 0x81 ∧ wStandby.dsUp = true ∧ wStandby.ds.sub = 3 ∧ wSync.aq.cmds = [wCmd [0x82, 0]] ∧
    wSync.admCheck (wCmd [0x82, 0]) = none ∧ wSync.paired = true ∧ wSync.ds.handing = false := by unfold OneAdmin; decide
theorem wit_komond_commands : OneAdmin (wAdm [0x90, 7]) (wCmd [0x90, 7]) 0x90 ∧ OneAdmin (wAdm [0x91, 1, 5, 3, 1]) (wCmd [0x91, 1, 5, 3, 1]) 0x91 ∧
    OneAdmin (wAdm [0x92, 1]) (wCmd [0x92, 1]) 0x92 ∧ OneAdmin (wAdm [0x93, 7, 2, 1]) (wCmd [0x93, 7, 2, 1]) 0x93 ∧
    ((1 : BitVec 16) - ((wAdm [0x93, 7, 2, 1]).mbx 7).epoch).toNat = 1 := by unfold OneAdmin; decide

/-! ### ThreeOperandResults -/

set_option maxRecDepth 20000 in
theorem wit_add : wHas3 .add = some .add ∧ wHas3 .addq = some .addq ∧ wHas3 .adc = some .adc ∧ wHas3 .sub = some .sub ∧ wHas3 .sbb = some .sbb ∧
    wHas3 .and = some .and ∧ wHas3 .or = some .or ∧ wHas3 .xor = some .xor := by decide
set_option maxRecDepth 20000 in
theorem wit_shift : wHas3 .shl = some .shl ∧ wHas3 .shr = some .shr ∧ wHas3 .sar = some .sar ∧ wHas3 .rol = some .rol ∧ wHas3 .mul = some .mul ∧
    wHas3 .mulhu = some .mulhu ∧ wHas3 .mulhs = some .mulhs ∧ wHas3 .divu = some .divu ∧ wHas3 .remu = some .remu := by decide
theorem wit_three_operands : ∃ i a b e1 e e' ps, i.op = .add ∧ ReadsA (wTwo 2) 0 0 i a e1 ∧ ReadsAB (wTwo 2) 0 0 i a b e ∧
    ((1 : Nat) ≠ 0 → Places e i.d 1 ps e') := wABD_some (by set_option maxRecDepth 20000 in decide)

/-! ### OtherResults -/

def wCrn (code slots : List Word) : State := wIsa 64 1 2 code slots
def wClz : State := wCrn [0xF320, 1, 2, 0] [0, 0, 0x0123]
def wBfext : State := wCrn [0xF301, 3, 6, 2] [0, 0, 0x0B12, 0, 0, 0, 0x1234, 0x5678]
def wBfins : State := wCrn [0xF310, 6, 3, 2] [0, 0, 0x0B12, 0x0ABC, 0, 0, 0x1234, 0x5678]
def wBperm : State := wCrn [0xF330, 3, 2, 4] [0, 0, 0x8001, 0, 0xCDEF, 0x89AB, 0x4567, 0x0123]
def wMovk : State := wIsa 0 0 2 [0xF010, 3, 0xBEEF, 0] []
set_option maxRecDepth 20000 in
theorem wit_one_operand : wHas3 .mov = some .mov ∧ wHas3 .movq = some .movq ∧ wHas3 .not = some .not ∧ wHas3 .neg = some .neg ∧
    wHas3 .cmp = some .cmp ∧ wHas3 .tst = some .tst ∧ wHasOp wMovk 0 0 = some .movk := by decide
set_option maxRecDepth 20000 in
theorem wit_cornice_only : wHasOp wClz 64 1 = some .clz ∧ wHasOp wBfext 64 1 = some .bfext ∧ wHasOp wBfins 64 1 = some .bfins ∧
    wHasOp wBperm 64 1 = some .bperm := by decide
theorem wit_movk : ∃ i e, i.op = .movk ∧ Issues wMovk 0 0 i e := wIssue_some (by set_option maxRecDepth 20000 in decide)

/-! ### SkipsEventsAndWaits -/

def wLong (w d a b : Word) : State := wIsa 0 0 2 [w, d, a, b] [0, 0, 0x8001, 5]
def wSxx : State := wLong 0xF162 0 2 3
def wOne (op d : Nat) : State := wIsa 0 0 2 [BitVec.ofNat 16 (op * 1024 + d * 32)] [0, 0, 0x8001, 5]
def wLatch : State := (wOne 0x27 0).updCtx 0 0 fun c => { c with evl := true }
def wSev (v : Word) : State := wIsa 0 0 2 [0x28 * 1024 + 2] [0, 0, v]
def wWaitt (hi : Word) : State := wIsa 0 0 2 [0x29 * 1024 + 2] [0, 0, 5, hi]
def wTimed : State := (wWaitt 0).updCtx 0 0 fun c => { c with st := .waiting, wait := .time 0 }
set_option maxRecDepth 20000 in
theorem wit_skips : wHas3 .seq = some .seq ∧ wHas3 .sne = some .sne ∧ wHas3 .slt = some .slt ∧ wHas3 .sge = some .sge ∧ wHas3 .sltu = some .sltu ∧
    wHas3 .sgeu = some .sgeu ∧ wHas3 .sbs = some .sbs ∧ wHas3 .sbz = some .sbz ∧ wHasOp wSxx 0 0 = some .sxx ∧ wHasOp (wOne 0x20 3) 0 0 = some .skf := by decide
set_option maxRecDepth 20000 in
theorem wit_instruction_waits : wHasOp (wOne 0 0) 0 0 = some .nop ∧ wHasOp wLatch 0 0 = some .wfe ∧ wHasOp (wSev 9) 0 0 = some .sev ∧
    wHasOp (wWaitt 0) 0 0 = some .waitt := by decide
theorem wit_wait_over : (wTimed.ctx 0 0).st = .waiting ∧ (wTimed.ctx 0 0).slot = none ∧ (wTimed.ctx 0 0).wait = .time 0 ∧ wTimed.die = .ready := by decide
set_option maxRecDepth 20000 in
theorem test_skip_holds : ((after (.slt 0 0) (wTwo 0x1A)).ctx 0 0).pc = 2 ∧ ((after (.sge 0 0) (wTwo 0x1B)).ctx 0 0).pc = 1 := by decide

/-! ### JumpsAndLoops -/

def wJump (op : Nat) : State := wIsa 0 0 2 [BitVec.ofNat 16 (op * 1024 + 2), 0xF000] ([0, 0, 0x40] ++ List.replicate 30 7)
def wRet : State := wIsa 0 0 2 [0x23 * 1024] (List.replicate 32 0x40)
def wJumpL (lop : Nat) : State := wIsa 0 0 2 [BitVec.ofNat 16 (0xF000 + lop * 16), 0, if lop < 0x1A then 0x55 else 2, 0] [0, 0, 0x40]
def wLoop (n : Word) : State := wIsa 0 0 2 [0xF202, 0, 9, 2, 0, 0, 0, 0, 0, 0xF000] [0, 0, n]
set_option maxRecDepth 20000 in
theorem wit_jumps : wHasOp (wJump 0x21) 0 0 = some .jmpr ∧ wHasOp (wJump 0x22) 0 0 = some .callr ∧ wHasOp wRet 0 0 = some .ret ∧
    wHasOp (wJumpL 0x18) 0 0 = some .jmpk ∧ wHasOp (wJumpL 0x19) 0 0 = some .callk ∧ wHasOp (wJumpL 0x1A) 0 0 = some .jmp ∧
    wHasOp (wJumpL 0x1B) 0 0 = some .call ∧ wHasOp (wLoop 3) 0 0 = some .loop := by decide
set_option maxRecDepth 20000 in
theorem test_call_slot : ((after (.callr 0 0) (wJump 0x22)).ctx 0 0).slot = some 0x40 ∧
    (after (.callr 0 0) (wJump 0x22)).wordAt (localBase 0 + 2 * (privWord 0 0 + 31)) = 5 := by decide
set_option maxRecDepth 20000 in
theorem test_loop_passed : ((after (.loop 0 0) (wLoop 0)).ctx 0 0).pc = 13 := by decide

/-! ### SegmentAndSpecialRegisters -/

def wSeg (op d s : Nat) (pl : BitVec 2) : State := wIsa 0 0 pl [BitVec.ofNat 16 (op * 1024 + d * 32 + s)] [0, 0, 0x4000, 0xC0, 0x1F]
set_option maxRecDepth 20000 in
theorem wit_registers : wHasOp (wSeg 0x2A 6 2 2) 0 0 = some .lseg ∧ wHasOp (wSeg 0x2B 2 0 2) 0 0 = some .sseg ∧ wHasOp (wSeg 0x2C 2 3 2) 0 0 = some .mfsr ∧
    wHasOp (wSeg 0x2D 0 2 2) 0 0 = some .mtsr ∧ wHasOp (wSeg 0x2D 13 2 1) 0 0 = some .mtsr ∧ wHasOp (wSeg 0x2D 13 2 2) 0 0 = none := by decide
set_option maxRecDepth 20000 in
theorem test_lseg_loads : ((after (.lseg 0 0) (wSeg 0x2A 6 2 2)).ctx 0 0).segReg 6 = { base := 0xC04000, limit := 0x1F, v := true } := by decide

/-! ### TrapsReturnsAndExits -/

def wCore (depth : Nat) (code slots : List Word) : State := (wIsa 0 0 2 code slots).updCtx 0 0 fun c => { c with depth, tsbr := 0x3A30, pl := 1, ints := [none] }
def wRetx (cause : Word) : State :=
  (wCore 1 [0x24 * 1024] []).store (localBase 0 + 2 * 0x3A00) (wordBytes ([7, 0x4F, 3, 2, cause, 0, 0, 0, 0x99] ++ List.replicate 9 5 ++ [0x103] ++ List.replicate 27 2 ++ [0, 0]))
def wRunInfo : RunInfo := { ch := 9, routine := 1, rs := false, cls := 0, tile := 0, bound := 64, frame := 0, codeOff := 0, codeLen := 4, port := none }
def wExitI (err : Word) : State :=
  { (wIsa 0 0 2 [0x26 * 1024 + 2 * 32 + 3] [0, 0, 0x41, err]).updCtx 0 0 (fun c => { c with run := some wRunInfo, left := 100 }) with
    queues := [(3, { st := .running })]
    chans := [(9, { wChan [wCcw 0x0C 2 8 0x00400001 0x8000000000000000, wNop] with xfer := { cmd := 0x0C, phase := .run }, inRun := true })] }
set_option maxRecDepth 20000 in
theorem wit_traps : wHasOp (wIsa 0 0 2 [0x25 * 1024 + 7] []) 0 0 = some .trap ∧ wHasOp (wRetx 0) 0 0 = some .retx ∧ wHasOp (wExitI 0) 0 0 = some .exit ∧
    wHasOp (wIsa 0 0 2 [0x12 * 1024 + 2 * 32 + 4] [0, 0, 5, 5, 0]) 0 0 = some .divu := by decide
set_option maxRecDepth 20000 in
theorem wit_exit : ∃ i e, i.op = .exit ∧ Issues (wExitI 1) 0 0 i e := wIssue_some (by decide)
theorem wit_exit_quiet : EndsQuietly (wExitI 1) 9 ∧ CcwGoesOn (wExitI 0) 9 ∧ (∀ x ∈ (wExitI 1).chans, x.2.parked = false) :=
  ⟨by unfold EndsQuietly; decide, ⟨by decide, by decide, ⟨_, rfl, by decide, by decide, by decide⟩, ⟨by decide, by decide, _, rfl, by decide, by decide, by decide⟩, by decide⟩,
   by decide⟩
set_option maxRecDepth 20000 in
theorem test_retx_restores : ((after (.retx 0 0) (wRetx 0)).ctx 0 0).pc = 7 ∧ ((after (.retx 0 0) (wRetx 0)).ctx 0 0).depth = 0 := by decide

/-! ### UnhandledFaultAtLevelTwo -/

def wFault : State := (wExitI 0).store (localBase 0 + 2 * 0x3800) (List.replicate 16 0xFF)
theorem wit_unhandled : (wFault.ctx 0 0).pl = 2 ∧ (wFault.ctx 0 0).run = some wRunInfo ∧ wFault.vtbOk 0 0 = true ∧ wFault.vectorWord 0 0 2 = 0xFFFF ∧
    EndsQuietly wFault 9 ∧ (∀ e ∈ wFault.chans, e.2.parked = false) := by unfold EndsQuietly; decide
set_option maxRecDepth 20000 in
theorem test_unhandled : ((wFault.raise 0 0 { vec := 2 }).ctx 0 0).run = none ∧ ((wFault.raise 0 0 { vec := 2 }).chan 9).lastStatus = stRoutineFault ∧
    (wFault.raise 0 0 { vec := 2 }).mem = wFault.mem := by decide

/-! ### ExceptionEntry -/

def wEntry : State := (wIsa 0 3 2 [0x25 * 1024 + 7] []).store (localBase 0 + 2 * 0x3800) (List.replicate 128 0x11)
set_option maxRecDepth 20000 in
theorem wit_exception_entry : (wEntry.ctx 0 3).heldW = none ∧ (wEntry.ctx 0 3).st = .ready ∧ Memory.wf wEntry.mem = true ∧ wEntry.vtbOk 0 3 = true ∧ wEntry.entryLock 0 3 39 = none := by decide
set_option maxRecDepth 40000 in
theorem test_trap_entered : ((after (.trap 0 3) wEntry).ctx 0 3).pc = 0x1111 ∧ (after (.trap 0 3) wEntry).wordAt (localBase 0 + 2 * 0x3C40) = 1 ∧
    ((after (.trap 0 3) wEntry).ctx 0 3).depth = 1 := by decide

/-! ### BlockMovesAndFills -/

def wMovb (n : Word) : State := wIsa 0 0 2 [0xF210, 0x6002, 0x6003, 4] ([0, 0, 0x20, 0x10, n] ++ List.replicate 14 7)
def wFillb (n : Word) : State := wIsa 0 0 2 [0xF220, 0x6002, 3, 4] [0, 0, 0x20, 0xABCD, n]
/-- The slots of MOVB, or of FILLB, name one place twice; and a pointer that leads out of its segment. -/
def wMovbSame : State := wIsa 0 0 2 [0xF210, 0x6002, 0x6003, 3] [0, 0, 0x20, 0x10]
def wMovbOut : State := wIsa 0 0 2 [0xF210, 0x6002, 0x6003, 4] [0, 0, 0x20, 0x110, 2]
def blk0 (s : State) : Block := (((s.arrange 0).ctx 0 0).block).getD { dseg := 0, dptr := 0, aseg := none, aptr := 0, fill := 0, pd := .nothing, pa := .nothing, pn := .nothing, n := 0, each := 0, since := 0, undo := none }
def wMovb2 (n : Word) : State := after (.movb 0 0) (wMovb n)
def wFillb2 (n : Word) : State := after (.fillb 0 0) (wFillb n)
set_option maxRecDepth 20000 in
theorem wit_block_moves : wHasOp (wMovb 2) 0 0 = some .movb ∧ wHasOp (wFillb 2) 0 0 = some .fillb ∧ wHasOp wMovbSame 0 0 = some .movb ∧
    wHasOp wMovbOut 0 0 = some .movb := by decide
set_option maxRecDepth 40000 in
theorem test_movb_word : (after (.movb 0 0) (wMovb 2)).wordAt (localBase 0 + 2 * (0x3000 + 0x20)) = 7 ∧
    (after (.movb 0 0) (wMovb 2)).wordAt (localBase 0 + 2 * (0x3000 + 2)) = 0x21 ∧ (after (.movb 0 0) (wMovb 2)).wordAt (localBase 0 + 2 * (0x3000 + 4)) = 1 ∧
    ((after (.movb 0 0) (wMovb 2)).ctx 0 0).pc = 0 := by
  decide
set_option maxRecDepth 40000 in
theorem test_fillb_words : (after (.fillb 0 0) (wFillb 1)).wordAt (localBase 0 + 2 * (0x3000 + 0x20)) = 0xABCD ∧ ((after (.fillb 0 0) (wFillb 1)).ctx 0 0).pc = 4 := by
  decide

/-! ### InstructionCompletion -/

def wEvt (flow : Flow) : Ev := { s := wTwo 2, core := 0, k := 0, now := 3, since := 3, flow }
def wEvl : Ev := { wEvt .seq with s := (wTwo 2).updCtx 0 0 fun c => { c with loops := [(0, 9), (3, 0), (6, 2)] } }
def wNoLoop (e : Ev) : Bool := (List.range 3).all fun j => e.charged.loopSeen e.now (6 + j) == 0
theorem wit_completion : wNoLoop (wEvt .seq) = true ∧ (wEvt .seq).charged.slot = none ∧ (wEvt .seq).block = false ∧
    (wEvl.charged.loopSeen 3 6).toNat = 2 ∧ wEvl.charged.loopSeen 3 3 = wEvl.charged.pc ∧ (wEvl.charged.loopSeen 3 0).toNat = 9 := by decide

/-! ### WordAccesses -/

theorem wit_word_accesses : isOwn 0 (localBase 0) = true ∧ Memory.wf (wTwo 2).mem = true ∧ ((wTwo 2).ctx 0 0).heldW = none ∧ ((wTwo 2).ctx 0 0).run = none := by decide
theorem test_register_halves : (((wTwo 2).ev 0 0).putReg 0xA0000 5).ctx.heldW = some (0xA0000, 5) := by decide

/-! ### CoreEvents -/

def wStalled : State := (wExitI 0).updCtx 0 0 fun c => { c with st := .stalled, stallEnd := 7 }
def wOffered : State := { wEntry with srcs := [(0x640, { sense := some 3, en := true, pend := true, offer := true, loc := 11, prio := 4, tgt := true, trw := 1 })] }
/-- The offer that core 0 takes, where it is of source 0x640 and no lockup. -/
def wOffTaken : Option State :=
  let s0 := ((wOffered.arrange 0).prepareCtx 0 0).declineAbsent 0 0
  if s0.bestOffer 0 0 (s0.corePri 0) = some (0x640, 4) ∧ s0.entryLock 0 0 20 = none then s0.commitOffer 0x640 (memberOfCore 0) else none
def wLocked (core : Nat) (frames : List Nat) : State :=
  { wDie with gctl := { wDie.gctl with coreLock := if core < 64 then 1 else 0, crnLock := if core < 64 then 0 else 1 }, cores := [(core, { lockFrames := frames })],
              frm := { wDie.frm with frame := 9 }, queues := [(3, { st := .running })], chans := [(9, wChan [])] }
def wMoving : State :=
  { (wExitI 0).updCtx 0 0 (fun c => { c with st := .held, heldFrom := .ready }) with gctl := { wDie.gctl with freeze := 1 } }
theorem wit_stall_end : (wStalled.ctx 0 0).st = .stalled ∧ (wStalled.ctx 0 0).wait = .nothing ∧ wStalled.die = .ready := by decide
theorem wit_locked : (wLocked 0 []).locked 0 = true ∧ ((wLocked 0 []).core 0).out = false ∧ (wLocked 64 [1]).locked 64 = true ∧
    EndsQuietly (wLocked 64 [1]) 9 ∧ ((wLocked 64 [1]).chans.filter fun e => tileOfCh e.1 == 0 && e.2.running).map (·.1) = [9] := by unfold EndsQuietly; decide
set_option maxRecDepth 20000 in
theorem wit_interrupt : (wOffered.dom 0).level = 0 ∧ (wOffered.arrange 0).coreOk 0 = true ∧ (wOffered.arrange 0).intCtx 0 = some 0 ∧ wOffTaken.isSome = true := by decide
set_option maxRecDepth 20000 in
theorem wit_migrate : wMoving.migrateTo 0 false = some (1, 0) ∧ (wMoving.ctx 0 0).atBoundary = true ∧ wMoving.frozen 0 = true ∧ wMoving.kindOf 0 ≠ 2 := by decide

/-! ### PowerRestWakeAndSupply -/

def wRest : State := { wDie with pwr := { wDie.pwr with restEn := true, dieTol := 20, doms := [(131, { maxrest := 3 }), (5, { maxrest := 3 })] },
                                 gctl := { wDie.gctl with cells := 32768, hawkQ := 15 } }
def wRest3 : State := { wRest with pwr := { wRest.pwr with dieTol := 200 }, ports := [] }
def wAsleep : State := { wDie with pwr := { wDie.pwr with doms := [(131, { level := 2 })] } }
def wWaking : State := { wDie with pwr := { wDie.pwr with doms := [(80, { level := 3, waking := true, cells := [5, 6] })] },
                                   hawk := { cells := [(5, .parked 80), (6, .parked 80)] } }
def wL4 : State := { wDie with die := .l4, pwr := { wDie.pwr with l4wake := 5 } }
def wL4Out : State := { wDie with die := .l4, pwr := { wDie.pwr with l4waking := true }, frm := { wDie.frm with periodAct := 1000 } }
def wHoldS : State := { wDie with hold := true, pwr := { wDie.pwr with vddWarn := true }, frm := { wDie.frm with count := 300000 } }
set_option maxRecDepth 8000 in
theorem wit_rest : wRest.domIdle 131 = true ∧ wRest.domTarget 131 = 2 ∧ (wRest.dom 131).level = 0 ∧ wRest3.domTarget 5 = 3 ∧ wRest3.domIdle 5 = true := by decide
theorem wit_asleep : (wAsleep.dom 131).level ≠ 0 ∧ (wAsleep.dom 131).waking = false ∧ (wWaking.dom 80).waking = true ∧ wL4.die = .l4 ∧ wL4.pwr.l4wake ≠ 0 ∧
    wL4Out.pwr.l4waking = true ∧ wHoldS.pwr.warns = true ∧
    wHoldS.pwr.holdAt + 300000 ≤ wHoldS.frm.count := by decide
def wL4Able : State := { wDie with pwr := { wDie.pwr with restEn := true, l4ok := true, dieTol := 5000 },
                                   link0 := { cfg := { d3 := true }, up := true, lstate := 2 }, link1 := { conn := false } }
theorem wit_l4 : wL4Able.l4Ready = true := by decide
theorem wit_l2 : ({ wDie with link1 := { wDie.link1 with lstate := 2 } } : State).link 1 = { wDie.link1 with lstate := 2 } := by decide

/-! ### StartsFreezesSwapsAndJournal -/

def wRun0 : StartRun := { fail := none, mod1 := false, conn1 := true, rate0 := 3, rate1 := 2, linkUp := false, partner := none, usReady := 900, usTimer := 700 }
def wStartDue (n : Nat) : State := { wDie with die := .reset, porLow := n == 0, prm := { wDie.prm with due := n, nextMode := 1 }, queues := [(3, { st := .running })] }
def wStopped : State := { wDie with prm := { wDie.prm with st := 2 }, jheld := [{ seq := 1, code := 0, long := false, step := false, fw := false, dipped := false, mid := 0, frame := 0, boot := 0, payload := 0 }] }
def wSwap : State := { wDie with libs := [(0, { routines := [wRoutine1, { wRoutine1 with num := 2, off := 4 }] })] }
theorem wit_starts : (wStartDue 0).die = .reset ∧ (wStartDue 0).prm.due = 0 ∧ (wStartDue 1).prm.due = 1 ∧ (wStartDue 2).warmLow = false ∧ (wStartDue 0).ds.present = false ∧
    (wStartDue 0).prm.retry = [] ∧ wRun0.fail = none ∧ (wStartDue 0).porLow = true ∧ (wStartDue 1).porLow = false ∧ (wStartDue 0).prm.bootLost = false ∧
    (wStartDue 0).leAt (slotBase false) 4 = 0 ∧ (wStartDue 0).leAt (slotBase true) 4 = 0 := by decide
theorem wit_prm : wDie.admits 0x10 0x4040 = true ∧ prmMay 0x10 = true ∧ wStopped.prm.st = 2 ∧ wDie.admits 0x10 0x4058 = true ∧
    (wSwap.routine 0 1 false).isSome = true ∧ (wSwap.routine 0 2 false).isSome = true ∧ wSwap.boundUnfit false 100 = false ∧ wSwap.routine 0 3 false = none ∧
    isConfigMaster 0x10 = true ∧ wStopped.jheld ≠ [] := by decide

/-! ### PairFramesAndRoles -/

def wHdr : DsHdr := { seq := 0, ack := 0xFFFF, frame := 0, crcOk := true, lenOk := true }
def wHb (role : BitVec 2) (halting : Bool) : Heartbeat :=
  { role, sub := 1, hold := false, halting, rolePin := true, stateVer := 1, lastHb := 0, eqs0 := 4, eqs1 := 5, adj := 7, period := 10000, version := 1, serial := 0 }
def wPair (role sub : BitVec 2) : State := { wDie with ds := { role, sub, lanes := 3, fenceOut := role ≠ 2 } }
def wTx (seq : BitVec 16) : TxFrame := { id := seq.toNat, seq, ty := .queue, prio := true, tries := 1, body := .bytes [], madeAt := 0 }
def wSends : State := { wPair 1 1 with ds := { (wPair 1 1).ds with unacked := [wTx 1, wTx 2, wTx 3], txSeq := 4 } }
def wGate : State := { wPair 1 1 with ds := { (wPair 1 1).ds with unacked := [wTx 3], gated := [{ id := 3, md := 0, w := { kind := .reply, addr := 0, bytes := [], eqs := 0, relaxed := false } }] }, frm := { wDie.frm with time := 2000 } }
def wArb : State := { wDie with die := .reset, ds := { wDie.ds with arbRound := some 2 } }
theorem wit_hears : Hears (wPair 2 1) wHdr ∧ Hears (wPair 1 1) wHdr ∧ Hears wSends wHdr ∧ (wPair 2 1).mirrors = true ∧ (wPair 2 1).ds.handDue = false ∧
    (wPair 2 1).queues = [] ∧ (wPair 2 1).ports = [] ∧ (wPair 2 1).chans = [] := by unfold Hears; decide
theorem wit_pair_more : (splitAck wSends.ds.unacked 2).isSome = true ∧ wGate.paired = true ∧ wGate.ds.gated.map (·.id) = [3] ∧ wGate.ds.unacked.map (·.id) = [3] ∧ wArb.prm.count 12 ≠ 3 ∧ wArb.prm.s12Fail = none ∧ wArb.die = .reset ∧ wArb.ds.arbRound = some 2 ∧
    (wPair 2 1).freeEntry 0 = some 0 := by decide
theorem test_third_miss : (after .heartbeatCheck { wPair 2 1 with ds := { (wPair 2 1).ds with miss := 2 } }).ds.role = 0 := by decide

/-! ### KomondFrames -/

/-- A payload whose MAC is that of its bytes under the key slot of the witness. -/
def wFrame (f : KmdFrame) : List Byte := f.bytes ++ (Config.aesCmac [] f.bytes).toList.take 8
def wKf (ty : Nat) (msg : List Byte) : KmdFrame :=
  { kmdBlank ty with keyId := 1, dstNode := 5, dstMbx := 7, srcNode := 6, ch := 9, chV := true, role := 2, epoch := 3, seq := 4, msg }
def wKmd : Kmd := { en := true, ports := 1, node := some 5, keys := [(0, { id := 1, rx := true, tx := true, bytes := [] })],
                    peers := [(2, { v := true, auto := true, node := 6, mbx := 7, role := 1, epoch := 2 })] }
def wKomond : State := { wHawk with kmd := wKmd, ports := [(0x60, { st := 1 })], mbxs := [(7, { en := true, role := 2, epoch := 3 })] }
/-- Channel 9 waits for the answer to a SIGNAL to mailbox 7 of node 6. -/
def wAnswer (sl : Bool) : State := { wProg [wNop, wNop] with
  chans := [(9, { wChan [wNop, wNop] with xfer := { cmd := 0x10, param := 7 + 6 * 256, phase := .node, kmdSeq := some (4, 1), sl } })]
  kmd := wKmd, ports := [(0x60, { st := 1 })], frm := { wDie.frm with time := 60000 } }
theorem wFrame_taken {s : State} {ty : Nat} {g : KmdFrame} {e : Nat × Key} (hc : KmdComes s 0)
    (hl : g.bytes.length = 24 + (kmdParse (wFrame g)).msg.length) (hm : (kmdParse (wFrame g)).msg.length = fieldAt (wFrame g) 13 1)
    (hs : (match ty with | 1 => decide (1 ≤ fieldAt (wFrame g) 13 1) && decide (fieldAt (wFrame g) 13 1 ≤ 48) | 2 | 3 | 4 => fieldAt (wFrame g) 13 1 == 0
                         | 5 => decide (fieldAt (wFrame g) 13 1 ≤ 48) | _ => false) = true)
    (hv : (kmdParse (wFrame g)).ver = 1) (ht : (kmdParse (wFrame g)).ty = ty)
    (hf : s.kmd.keys.find? (fun e => e.2.rx && e.2.id.toNat == (kmdParse (wFrame g)).keyId) = some e) (hb : e.2.bytes = [])
    (hn : s.kmd.node.map (·.toNat) = some (kmdParse (wFrame g)).dstNode) : KmdTaken s ty 0 (wFrame g) (kmdParse (wFrame g)) := by
  have hlen : (wFrame g).length = g.bytes.length + 8 := by simp [wFrame]
  refine ⟨hc, rfl, ?_, ht, ⟨e, hf, ?_⟩, .inl hn⟩
  · subst ht
    unfold kmdValid
    simp only [hv, Bool.and_eq_true]
    exact ⟨⟨by decide, by simp only [decide_eq_true_eq]; omega⟩, hs⟩
  · rw [← hl, hb]
    simp [wFrame]
set_option maxRecDepth 20000 in
theorem wit_komond_data : KmdTaken wKomond 1 0 (wFrame (wKf 1 [1, 2])) (kmdParse (wFrame (wKf 1 [1, 2]))) ∧
    wKomond.stampOk (kmdParse (wFrame (wKf 1 [1, 2]))) = true ∧ (kmdParse (wFrame (wKf 1 [1, 2]))).dstNode ≠ kmdBroadcast ∧
    (kmdParse (wFrame (wKf 1 [1, 2]))).dstMbx = 7 ∧ (wKomond.mbx 7).role = (kmdParse (wFrame (wKf 1 [1, 2]))).role ∧
    (wKomond.mbx 7).epoch = (kmdParse (wFrame (wKf 1 [1, 2]))).epoch ∧ (wKomond.mbx 7).full = false ∧ (wKomond.mbx 7).en = true ∧
    wKomond.kmd.cache = [] :=
  ⟨wFrame_taken (e := (0, { id := 1, rx := true, tx := true, bytes := [] })) (by unfold KmdComes; decide) (by decide) (by decide) (by decide) (by decide)
    (by decide) (by decide) rfl (by decide), by decide, by decide, by decide, by decide, by decide, by decide, by decide, by decide⟩
/-- A cell in the credit of Komond ingress, for the grant. -/
def wKmdCell : State := { wKomond with hawk := { wKomond.hawk with cells := [(5, .held 0 0), (6, .credit 21)] } }
theorem wit_komond_grant : (wKmdCell.grantProducer 21 3 sysAcct (.mbx 7)).map (·.1) = some 6 := by decide
set_option maxRecDepth 20000 in
theorem wit_komond_answer : KmdTaken (wAnswer false) 2 0 (wFrame (wKf 2 [])) (kmdParse (wFrame (wKf 2 []))) ∧
    KmdTaken (wAnswer false) 3 0 (wFrame (wKf 3 [])) (kmdParse (wFrame (wKf 3 []))) ∧ KmdTaken (wAnswer true) 3 0 (wFrame (wKf 3 [])) (kmdParse (wFrame (wKf 3 []))) ∧
    KmdTaken (wAnswer false) 4 0 (wFrame (wKf 4 [])) (kmdParse (wFrame (wKf 4 []))) ∧ KmdTaken (wAnswer false) 5 0 (wFrame (wKf 5 [])) (kmdParse (wFrame (wKf 5 []))) ∧
    (wAnswer false).stampOk (kmdParse (wFrame (wKf 4 []))) = true ∧ (wAnswer false).kmdAnswers (kmdParse (wFrame (wKf 4 []))) = true ∧
    (kmdParse (wFrame (wKf 4 []))).ch = 9 ∧ CcwGoesOn (wAnswer true) 9 ∧ EndsQuietly (wAnswer false) 9 :=
  ⟨wFrame_taken (e := (0, { id := 1, rx := true, tx := true, bytes := [] })) (by unfold KmdComes; decide) (by decide) (by decide) (by decide) (by decide) (by decide) (by decide) rfl (by decide),
   wFrame_taken (e := (0, { id := 1, rx := true, tx := true, bytes := [] })) (by unfold KmdComes; decide) (by decide) (by decide) (by decide) (by decide) (by decide) (by decide) rfl (by decide),
   wFrame_taken (e := (0, { id := 1, rx := true, tx := true, bytes := [] })) (by unfold KmdComes; decide) (by decide) (by decide) (by decide) (by decide) (by decide) (by decide) rfl (by decide),
   wFrame_taken (e := (0, { id := 1, rx := true, tx := true, bytes := [] })) (by unfold KmdComes; decide) (by decide) (by decide) (by decide) (by decide) (by decide) (by decide) rfl (by decide),
   wFrame_taken (e := (0, { id := 1, rx := true, tx := true, bytes := [] })) (by unfold KmdComes; decide) (by decide) (by decide) (by decide) (by decide) (by decide) (by decide) rfl (by decide),
   by decide, by decide, by decide,
   ⟨by decide, by decide, ⟨_, rfl, by decide, by decide, by decide⟩, ⟨by decide, by decide, _, rfl, by decide, by decide, by decide⟩, by decide⟩,
   by unfold EndsQuietly; decide⟩
theorem wit_komond_retx : ((wAnswer false).chan 9).xfer.kmdSeq = some (4, 1) ∧ 1000 * max 1 (wAnswer false).kmd.retx.toNat ≤ (wAnswer false).frm.time.toNat ∧
    ((wAnswer false).chan 9).xfer.kmdAt = 0 ∧ 1 < (wAnswer false).kmd.retries.toNat ∧ (wAnswer false).kmdCan = true ∧
    bitsOf ((wAnswer false).chan 9).xfer.param 8 18 ≠ kmdBroadcast ∧ ({ wAnswer false with kmd := { wKmd with retries := 0 } } : State).kmd.retries.toNat ≤ 1 := by decide
theorem test_komond_drops : ((after (.kmdData 0 [0x11]) wKomond).kmd.dropped) = 1 := by decide

/-! ### DebugAccessPort -/

theorem wit_debug : wDie.admits 0x1FF 8 = true ∧ State.reset.admits 0x1FF 8 = false ∧ wDie.admits 0x1FF (0xA4000 + 8 * 255) = true ∧
    wDie.admits 0x1FF (0x80000 + 256 * 63 + 4 * 6) = true ∧ wDie.admits 0x1FF 0x3FFFFF = true ∧
    (({ wDie with sems := [(255, { value := 0x200 })] } : State).sem 255).value.toNat = 0x1FF + 1 ∧ (0 : BitVec 66).getLsbD 65 = false := by decide
theorem test_idcode : (after .idcode wDie).tap.dr = 0x14096A1F := by decide

/-! ### Commands that name nothing of the die -/

/-- A module, a master, a queue, a channel, a vector out of range. -/
theorem test_wf_links : (Instr.moduleLoss 2).wf = false ∧ (Instr.gctlFreeze 512 0).wf = false ∧ (Instr.dbCount 0 1024 0).wf = false ∧
    (Instr.dispatch 4096).wf = false ∧ (Instr.vectorUnmask 0 (some 2048)).wf = false ∧ (Instr.vectorControlRead 0 2048).wf = false := by decide
/-- A space, a size, a half out of range. -/
theorem test_wf_registers : (Instr.registerWrite (.bar2 2) 0 0 4 0).wf = false ∧ (Instr.rclrRead (.cfg 2) 0 0 4).wf = false ∧
    (Instr.registerWrite .bar0 0 0 9 0).wf = false ∧ (Instr.rclrRead .bar0 0 0 0).wf = false ∧ (Instr.lowerHalfRead 0 4).wf = false := by decide
/-- A core, a context of a Trowel and of a Cornice core, a tile out of range. -/
theorem test_wf_cores : (Instr.add 72 0).wf = false ∧ (Instr.add 63 8).wf = false ∧ (Instr.add 64 4).wf = false ∧ (Instr.interruptAccept 72).wf = false ∧
    (Instr.corniceLockTimeout 8).wf = false := by decide
/-- An account, a producer, a place of an ECC error, a mailbox, an arbiter and its operands out of range. -/
theorem test_wf_hawk : (Instr.hwkClsWrite 0 65 0).wf = false ∧ (Instr.creditRefill 24).wf = false ∧ (Instr.eccCorrected (.hawkCell 32768)).wf = false ∧
    (Instr.eccUncorrectableError (.sequencerUnit 8)).wf = false ∧ (Instr.mbxSend 0 0 256 0).wf = false ∧ (Instr.scrimFreeze 0 40 0).wf = false ∧
    (Instr.scrimRequest .gpioAdc .queueArbiter ⟨0, 0⟩ none).wf = false ∧ (Instr.scrimRequest .gpioAdc .queueArbiter ⟨9, 0⟩ none).wf = false ∧
    (Instr.scrimRequest .gpioAdc .queueArbiter ⟨1, 0⟩ (some 64)).wf = false := by decide
/-- A bank, a requester, a copy of the boot block, a ledger slot out of range. -/
theorem test_wf_banks : (Instr.scrimRequest (.hawkCell 32768) .queueArbiter ⟨1, 0⟩ none).wf = false ∧ (Instr.scrimRequest (.lath 8) .queueArbiter ⟨1, 0⟩ none).wf = false ∧
    (Instr.scrimRequest (.mac 4) .queueArbiter ⟨1, 0⟩ none).wf = false ∧ (Instr.scrimRequest (.egress 2) .queueArbiter ⟨1, 0⟩ none).wf = false ∧
    (Instr.scrimRequest .fwcMram (.master 2) ⟨1, 0⟩ none).wf = false ∧ (Instr.scrimRequest .fwcMram (.port 0x57) ⟨1, 0⟩ none).wf = false ∧
    (Instr.eccUncorrectableError (.bootCopy 2)).wf = false ∧ (Instr.eccUncorrectableError (.ledgerSlot 8192)).wf = false := by decide
/-- A master that is not in R49's table, a sequencer of another tile, a channel of the sequencer's space, a read too long. -/
theorem test_wf_masters : (Instr.dbCount 2 0 0).wf = false ∧ (Instr.dbCount 0x028 0 0).wf = false ∧ (Instr.dbCount 0x090 0 0).wf = false ∧
    (Instr.registerWrite (.seqr 512) 0x81 0 4 0).wf = false ∧ (Instr.registerWrite (.seqr 4096) 0x90 0 4 0).wf = false ∧
    (Instr.rclrRead .bar0 0 0 513).wf = false := by decide
/-- A source, a target, a port, a GPIO line, an ADC input, a MAC out of range. -/
theorem test_wf_ports : (Instr.lineEvent 0x7FF true).wf = false ∧ (Instr.icTake 0 1024 0).wf = false ∧ (Instr.faultClearTimeout 0x57).wf = false ∧
    (Instr.faultClearTimeout 0x64).wf = false ∧ (Instr.pwmPeriodStart 0x56 0).wf = false ∧ (Instr.pwmPeriodStart 0x50 16).wf = false ∧
    (Instr.gateEntryExpiry 4).wf = false ∧ (Instr.kmdAck 4 []).wf = false := by decide
/-- A packet, a domain, a rail, a supply, a lane out of range. -/
theorem test_wf_die : (Instr.adminPacketRead []).wf = false ∧ (Instr.domainIdleExpiry 134).wf = false ∧ (Instr.supplyWarn 3).wf = false ∧
    (Instr.supplyReset 2).wf = false ∧ (Instr.laneUp 2).wf = false := by decide
/-- Commands that name things of the die. -/
theorem test_wf_good : (Instr.add 63 7).wf = true ∧ (Instr.add 71 3).wf = true ∧ (Instr.dbCount 0x1FF 1023 5).wf = true ∧
    (Instr.registerWrite .bar0 0 3 2 0).wf = true ∧ (Instr.faultClearTimeout 0x58).wf = true ∧ (Instr.laneUp 1).wf = true := by decide
end

section
/-! PROOFS. The register blocks of BAR0: how an admitted access reaches a register, what the plain registers take and give back, and
which reads clear. -/

namespace Sys2Proof.Machine
open Sys2Proof

/-! ### What a refused access and a report leave -/

/-- From s to t only what an interrupt event touches has changed: the modules, the sources with their batches, and the wakes that they
ask for (R324, R328, R333, R334). -/
def Signals (s t : State) : Prop :=
  t = { s with link0 := t.link0, link1 := t.link1, srcs := t.srcs, batches := t.batches, pwr := t.pwr, wakeOut := t.wakeOut }

theorem Signals.refl (s : State) : Signals s s := rfl

theorem Signals.trans {r s t : State} (h : Signals r s) (g : Signals s t) : Signals r t := by
  unfold Signals at *
  rw [h] at g
  exact g

theorem Signals.gctl {s t : State} (h : Signals s t) : t.gctl = s.gctl := by rw [h]

theorem State.setLink_signals (s : State) (md : Nat) (l : Link) : Signals s (s.setLink md l) := by
  unfold State.setLink
  split <;> rfl

theorem State.wantLink_signals (s : State) (md : Nat) : Signals s (s.wantLink md) := by
  unfold State.wantLink
  dsimp only
  split
  · exact (s.setLink_signals md _).trans rfl
  · exact s.setLink_signals md _

theorem State.wantMsix_signals (s : State) (md : Nat) : Signals s (s.wantMsix md) := by
  unfold State.wantMsix
  split
  · exact s.wantLink_signals md
  · exact Signals.refl s

theorem State.egress_signals (s : State) (md : Nat) (kind : EgKind) (addr : Word64) (bytes : List Byte) (relaxed : Bool) :
    Signals s (s.egress md kind addr bytes relaxed) := by
  unfold State.egress
  dsimp only
  split
  · exact s.setLink_signals md _
  · exact (s.setLink_signals md _).trans (State.wantLink_signals _ md)

theorem State.sendMsix_signals (s : State) (md v : Nat) : Signals s (s.sendMsix md v) := by
  unfold State.sendMsix
  dsimp only
  split
  · split
    · exact Signals.refl s
    · exact s.setLink_signals md _
  · exact s.egress_signals md _ _ _ _

theorem State.closeBatch_signals (s : State) (md v : Nat) : Signals s (s.closeBatch md v) := by
  unfold State.closeBatch
  split
  · exact Signals.trans (s := { s with batches := _ }) rfl (State.sendMsix_signals _ md v)
  · split
    · exact Signals.refl s
    · exact Signals.trans (s := { s with batches := _ }) rfl (State.wantMsix_signals _ md)

theorem State.msixEvent_signals (s : State) (n : Nat) : Signals s (s.msixEvent n) := by
  have due : ∀ md, Signals s ((s.updSrc n fun x => { x with due := true }).wantMsix md) := fun md =>
    Signals.trans (s := s.updSrc n _) rfl (State.wantMsix_signals _ md)
  unfold State.msixEvent
  dsimp only
  split
  · exact due _
  · split
    · split
      · exact s.sendMsix_signals _ _
      · exact due _
    · split
      · exact Signals.trans (s := { s with batches := _ }) rfl (State.closeBatch_signals _ _ _)
      · exact Signals.trans (s := { s with batches := _ }) rfl (State.wantMsix_signals _ _)

theorem State.wakeDomain_signals (s : State) (d cause : Nat) : Signals s (s.wakeDomain d cause) := by
  unfold State.wakeDomain
  split <;> rfl

theorem State.route_signals (s : State) (n : Nat) : Signals s (s.route n) := by
  unfold State.route
  dsimp only
  split
  · split
    · rfl
    · exact Signals.trans (s := s.setSrc n _) rfl (State.wakeDomain_signals _ _ _)
  · split <;> rfl

theorem State.present_signals (s : State) (n : Nat) : Signals s (s.present n) := by
  unfold State.present
  dsimp only
  split
  · exact Signals.refl s
  · split
    · split
      · exact Signals.refl s
      · exact s.route_signals n
    · exact s.msixEvent_signals n

theorem State.edge_signals (s : State) (n : Nat) : Signals s (s.edge n) :=
  Signals.trans (s := s.updSrc n _) rfl (State.present_signals _ n)

theorem State.heldPulse_signals {r s : State} (s0 : State) (h : Signals r s) : Signals r (s0.heldPulse s) := by
  have h1 : Signals r (if s.heldSet 0 && !s0.heldSet 0 then s.edge 0x408 else s) := by
    split
    · exact h.trans (s.edge_signals _)
    · exact h
  unfold State.heldPulse
  dsimp only
  split
  · exact h1.trans (State.edge_signals _ _)
  · exact h1

/-- An event of a Pulse source changes only what an interrupt event touches (R322, R323). -/
theorem State.pulse_signals (s : State) (n : Nat) : Signals s (s.pulse n) := by
  unfold State.pulse
  split
  · exact Signals.refl s
  · exact State.heldPulse_signals s (s.edge_signals n)

theorem Emits.classes {s t : State} (h : Emits s t) : t.classes = s.classes := by rw [h]

theorem Emits.cls {s t : State} (h : Emits s t) (c : Nat) : t.cls c = s.cls c := by unfold State.cls; rw [h.classes]

theorem Emits.tap {s t : State} (h : Emits s t) : t.tap = s.tap := by rw [h]

theorem Emits.readOut {s t : State} (h : Emits s t) : t.readOut = s.readOut := by rw [h]

/-- A refused access is counted once, with its master (R37, R41). -/
@[simp] theorem State.accFault_gctl (s : State) (m : Nat) :
    (s.accFault m).gctl = { s.gctl with accCount := satInc s.gctl.accCount, accMid := BitVec.ofNat 9 m } :=
  ((s.accErr m).pulse_signals 0x40B).gctl

/-! ### From an access to the register that it reaches -/

/-- A host whose access is admitted has Memory Space Enable set (R63). -/
theorem State.memEn_of_admits {s : State} {m off : Nat} (hm : isHost m = true) (h : s.admits m off = true) : (s.link m).cfg.memEn = true := by
  have hd : (m == 0x1FF) = false := by
    simp only [isHost, Bool.or_eq_true, beq_iff_eq] at hm
    exact beq_eq_false_iff_ne.mpr (by omega)
  unfold State.admits at h
  cases hs : s.die <;> simp [hs, hm, hd] at h <;> simp [h]

theorem State.noBar_of_admits {s : State} {m off : Nat} (h : s.admits m off = true) : s.noBar m true = false := by
  unfold State.noBar
  cases hm : isHost m
  · rfl
  · simp [State.memEn_of_admits hm h]

/-- An admitted write to a domain that is not switched, or none, acts on the state as it stands (R63, R398). -/
theorem State.access_of_admits {s : State} {m off : Nat} (k : State → State) (h : s.admits m off = true) (lt : off < 0x1000000)
    (hd : offDom off = none) : s.access m off k = k s := by
  simp [State.access, lt, State.noBar_of_admits h, h, State.wakeFor, hd]

/-- An admitted read likewise. -/
theorem State.accessR_of_admits {s : State} {m off : Nat} (k : State → State) (h : s.admits m off = true) (lt : off < 0x1000000)
    (hd : offDom off = none) : s.accessR m off k = k s := by
  simp [State.accessR, lt, State.noBar_of_admits h, h, State.wakeFor, hd]

/-- Below the windows BAR0 is the register blocks (R39). -/
theorem State.bar0Write_regs (s : State) {m off : Nat} (ctx size : Nat) (v : Word64) (lt : off < 0x400000) (hr : rightsOk m off = true) :
    s.bar0Write m ctx off size v = s.regWrite m ctx off size v := by
  simp [State.bar0Write, hr, Nat.not_le.mpr lt]

theorem State.bar0Read_regs (s : State) {m off : Nat} (ctx size : Nat) (lt : off < 0x400000) (hr : rightsOk m off = true) :
    s.bar0Read m ctx off size = s.regRead m ctx off size := by
  simp [State.bar0Read, mayReach, hr, Nat.not_le.mpr lt]

/-- The debug port reaches every register block (R36, R49). -/
theorem rightsOk_midDebug (off : Nat) : rightsOk midDebug off = true := by simp [rightsOk, midDebug]

/-- An aligned 4 B write outside the 64-bit registers is a write of the 32-bit register there (R41, R44). -/
theorem State.regWrite_narrow (s : State) (m ctx : Nat) {off : Nat} (v : Word64) (ha : off % 4 = 0) (hw : isWide (wideAt off) = false) :
    s.regWrite m ctx off 4 v = s.writeReg m ctx off (BitVec.ofNat 32 v.toNat) := by
  simp [State.regWrite, regSizeOk, aligned, ha, State.write4, hw]

/-- An aligned 4 B read outside the 64-bit registers is a read of the 32-bit register there (R41, R45). -/
theorem State.regRead_narrow (s : State) (m ctx : Nat) {off : Nat} (ha : off % 4 = 0) (hw : isWide (wideAt off) = false) :
    s.regRead m ctx off 4 = s.readReg m ctx off := by
  simp [State.regRead, regSizeOk, aligned, ha, State.read4, hw]

/-- An aligned 8 B write of a 64-bit register writes it whole (R44). -/
theorem State.regWrite_wide (s : State) (m ctx : Nat) {off : Nat} (v : Word64) (ha : off % 8 = 0) (hw : isWide off = true) :
    s.regWrite m ctx off 8 v = s.writeWide m off v := by
  simp [State.regWrite, regSizeOk, aligned, ha, State.write8, hw]

/-- A read that is not aligned returns 0 and is counted (R41). -/
theorem State.regRead_misaligned (s : State) (m ctx : Nat) {off : Nat} (ha : off % 4 ≠ 0) :
    s.regRead m ctx off 4 = (s.out 0).accFault m := by
  simp [State.regRead, regSizeOk, aligned, ha]

/-- Where the 64-bit registers of BAR0 begin (R44, R45). -/
theorem isWide_iff (off : Nat) : isWide off = true ↔
    off ∈ [0x10, 0x20, 0x1000, 0x1008, 0x2000, 0x2008, 0x2010, 0x4020, 0x4048, 0x4058, 0x7008] ∨
    (0x20000 ≤ off ∧ off < 0x30000 ∧ off % 64 < 0x20 ∧ off % 8 = 0) ∨
    (0x40000 ≤ off ∧ off < 0x80000 ∧ off % 64 ∈ [0x08, 0x10, 0x18, 0x28]) ∨
    (0x90000 ≤ off ∧ off < 0x98000 ∧ off % 16 = 8) ∨
    (0x160000 ≤ off ∧ off < 0x170000 ∧ off % 0x4000 = 0x208) := by
  simp only [isWide, inRange, List.contains_iff_mem, Bool.or_eq_true, Bool.and_eq_true, decide_eq_true_eq, beq_iff_eq, Nat.le_iff_lt_add_one, or_assoc, and_assoc]

/-- From the work classes up to the Ethernet ports only the block of the interrupt sources holds 64-bit registers (R39). -/
theorem isWide_wideAt_of_plain {off : Nat} (h : 0x80000 ≤ off ∧ off < 0x90000 ∨ 0x98000 ≤ off ∧ off < 0x160000) : isWide (wideAt off) = false := by
  rw [← Bool.not_eq_true, isWide_iff]
  simp only [wideAt, List.mem_cons, List.not_mem_nil, or_false]
  omega

/-- The upper half of a queue's block from 0x20 on holds 32-bit registers (R133). -/
theorem isWide_wideAt_of_qcfg {off : Nat} (h : 0x20000 ≤ off ∧ off < 0x30000) (ho : 0x20 ≤ off % 64) : isWide (wideAt off) = false := by
  rw [← Bool.not_eq_true, isWide_iff]
  simp only [wideAt, List.mem_cons, List.not_mem_nil, or_false]
  omega

theorem isWide_qcfgOff {q : Nat} (hq : q < 1024) : isWide (qcfgOff q) = true := by
  refine (isWide_iff _).mpr (.inr (.inl ?_))
  unfold qcfgOff
  omega

/-! ### The registers -/

theorem State.writeReg_flt (s : State) (m ctx : Nat) {c o : Nat} (v : Word32) (hc : c < 64) (ho : o < 256) :
    s.writeReg m ctx (0x80000 + 256 * c + o) v = s.fltW m c o v := by
  have hi : (0x80000 + 256 * c + o - 0x80000) / 256 = c := by omega
  have hm : (0x80000 + 256 * c + o) % 256 = o := by omega
  simp (disch := omega) only [State.writeReg, if_neg, if_pos, hi, hm]

/-- Registers whose read has no effect but RCLR (R17, R19). -/
theorem State.readReg_plain (s : State) (m ctx : Nat) {off : Nat}
    (h : off < 0x9F000 ∨ 0xA4000 ≤ off ∧ off < 0xA4800 ∧ off % 8 = 4) : s.readReg m ctx off = (s.out (s.regWord m ctx off)).clearOn off := by
  simp (disch := omega) only [State.readReg, hwkBase, if_neg]

theorem State.writeReg_semLock (s : State) (m ctx : Nat) {n : Nat} (v : Word32) (hn : n < 256) :
    s.writeReg m ctx (0xA4000 + 8 * n) v = s.semRelease m n v := by
  have hi : (0xA4000 + 8 * n - 0xA4000) / 8 = n := by omega
  simp (disch := omega) only [State.writeReg, if_neg, if_pos, hi]

theorem State.clearOn_accErr (s : State) : s.clearOn 0x08 = { s with gctl := { s.gctl with accCount := 0 } } := rfl

theorem State.clearOn_qcfgState (s : State) {q : Nat} (hq : q < 1024) :
    s.clearOn (qcfgOff q + 0x30) = s.setQ q { s.q q with dbBad := 0 } := by
  have hi : (0x20000 + q * 64 + 0x30 - 0x20000) / 64 = q := by omega
  simp (disch := omega) only [State.clearOn, qcfgOff, if_neg, if_pos, hi, State.updQ_def]

theorem State.clearOn_fltOvr (s : State) {c : Nat} (hc : c < 64) :
    s.clearOn (0x80044 + 256 * c) = s.setCls c { s.cls c with overruns := 0, parks := 0 } := by
  have hi : (0x80044 + 256 * c - 0x80000) / 256 = c := by omega
  simp (disch := omega) only [State.clearOn, if_neg, if_pos, hi, State.updCls_def, FClass.clearCounts]

theorem State.clearOn_semInfo (s : State) {n : Nat} (hn : n < 256) :
    s.clearOn (0xA4004 + 8 * n) = s.setSem n { s.sem n with bad := 0 } := by
  have hi : (0xA4004 + 8 * n - 0xA4000) / 8 = n := by omega
  simp (disch := omega) only [State.clearOn, if_neg, if_pos, hi, State.updSem_def]

theorem State.regWord_accErr (s : State) (m ctx : Nat) : s.regWord m ctx 0x08 = s.gctl.accCount.toNat + s.gctl.accMid.toNat * 0x10000 := rfl

/-- GCTL_ACCERR returns the count of refused accesses with the latest requester, and its read clears the count (R47). -/
theorem State.regRead_accErr (s : State) (m ctx : Nat) : s.regRead m ctx 0x08 4 =
    { s.out (s.gctl.accCount.toNat + s.gctl.accMid.toNat * 0x10000) with gctl := { s.gctl with accCount := 0 } } := by
  rw [s.regRead_narrow m ctx (by omega) rfl, s.readReg_plain m ctx (by omega), s.regWord_accErr, State.clearOn_accErr]
  rfl

theorem State.regWord_fltOvr (s : State) (m ctx : Nat) {c : Nat} (hc : c < 64) :
    s.regWord m ctx (0x80044 + 256 * c) = (s.cls c).overruns.toNat + (s.cls c).parks.toNat * 0x10000 := by
  have hi : (0x80044 + 256 * c - 0x80000) / 256 = c := by omega
  have hm : (0x80044 + 256 * c) % 256 = 0x44 := by omega
  simp (disch := omega) only [State.regWord, if_neg, if_pos, hi, hm]
  rfl

theorem State.regWord_semInfo (s : State) (m ctx : Nat) {n : Nat} (hn : n < 256) :
    s.regWord m ctx (0xA4004 + 8 * n) = (s.sem n).value.toNat + (s.sem n).bad.toNat * 0x10000 := by
  have hi : (0xA4004 + 8 * n - 0xA4000) / 8 = n := by omega
  simp (disch := omega) only [State.regWord, if_neg, if_pos, hi]

/-! ### Rows that reach a register -/

/-- The registers of the domains that are not switched (R39, R51). -/
theorem offDom_eq_none {off : Nat} (h : off < 0x6000 ∨ 0x7000 ≤ off ∧ off < 0x100000) : offDom off = none := by
  by_cases h6 : off < 0x6000
  · exact if_pos h6
  · simp (disch := omega) only [offDom, if_neg, if_pos]

section Rows

variable {s : State} {m off : Nat} (ha : s.admits m off = true) (hr : rightsOk m off = true)
  (hd : off < 0x6000 ∨ 0x7000 ≤ off ∧ off < 0x100000)

include ha hr hd

theorem exec_registerWrite_bar0 (size : Nat) (v : Word64) :
    exec (.registerWrite .bar0 m off size v) s = .next (s.regWrite m 0 off size v) := by
  refine congrArg Host.Outcome.next ?_
  exact (State.access_of_admits (fun s => s.bar0Write m 0 off size v) ha (by omega) (offDom_eq_none hd)).trans (s.bar0Write_regs 0 size v (by omega) hr)

theorem exec_rclrRead_bar0 (size : Nat) : exec (.rclrRead .bar0 m off size) s = .next (s.regRead m 0 off size) := by
  refine congrArg Host.Outcome.next ?_
  exact (State.accessR_of_admits (fun s => s.bar0Read m 0 off size) ha (by omega) (offDom_eq_none hd)).trans (s.bar0Read_regs 0 size (by omega) hr)

/-- A read of a 32-bit register that has no effect but RCLR (R17, R19). -/
theorem exec_rclrRead_plain (h4 : off % 4 = 0) (hw : isWide (wideAt off) = false)
    (hp : off < 0x9F000 ∨ 0xA4000 ≤ off ∧ off < 0xA4800 ∧ off % 8 = 4) :
    exec (.rclrRead .bar0 m off 4) s = .next ((s.out (s.regWord m 0 off)).clearOn off) := by
  rw [exec_rclrRead_bar0 ha hr hd, s.regRead_narrow m 0 h4 hw, s.readReg_plain m 0 hp]

end Rows

/-! ### Budget registers and the ring of a queue -/

/-- A configuration master's write of a budget register goes to the class's shadow (R221). -/
theorem State.fltW_of_config (s : State) {m i : Nat} (c : Nat) (v : Word32) (hm : isConfigMaster m = true) (hi : i ≤ 6) :
    s.fltW m c (4 * i) v = (s.setCls c { s.cls c with shadow := (s.cls c).shadow.put i v }).cfgMirror (0x80000 + c * 0x100 + 4 * i) 4 v.toNat := by
  have h4 : 4 * i / 4 = i := by omega
  simp (disch := omega) only [State.fltW, if_neg, hm, h4, State.updCls_def, Bool.not_true, Bool.false_eq_true, if_false]

/-- Any other master's is refused (R221). -/
theorem State.fltW_refused (s : State) {m i : Nat} (c : Nat) (v : Word32) (hm : isConfigMaster m = false) (hi : i ≤ 6) :
    s.fltW m c (4 * i) v = s.accFault m := by
  simp (disch := omega) only [State.fltW, if_neg, hm, Bool.not_false, if_true]

theorem State.writeWide_qcfg (s : State) (m : Nat) {off : Nat} (v : Word64) (h : 0x20000 ≤ off ∧ off < 0x30000) :
    s.writeWide m off v = s.qcfgWide m ((off - 0x20000) / 64) (off % 64) v := by
  simp (disch := omega) only [State.writeWide, if_neg, if_pos]

/-- The ring address of a DISABLED queue takes a whole write (R133). -/
theorem State.qcfgWide_ring (s : State) (m : Nat) {q : Nat} (v : Word64) (hs : (s.q q).st = .disabled) :
    s.qcfgWide m q 0 v = (s.setQ q { s.q q with ring := v }).cfgMirror (qcfgOff q) 8 v.toNat :=
  if_neg (not_not_intro hs)

theorem toNat_ofNat_pair {a b : Nat} (ha : a < 0x10000) (hb : b < 0x10000) :
    (BitVec.ofNat 64 (a + b * 0x10000)).toNat = a + b * 0x10000 := by
  rw [BitVec.toNat_ofNat]
  exact Nat.mod_eq_of_lt (by omega)

theorem runs_budgetWrite {s : State} {m c i : Nat} (v : Word32) (hm : isConfigMaster m = true) (hc : c < 64) (hi : i ≤ 6)
    (ha : s.admits m (0x80000 + 256 * c + 4 * i) = true) (hr : rightsOk m (0x80000 + 256 * c + 4 * i) = true) :
    Runs (.registerWrite .bar0 m (0x80000 + 256 * c + 4 * i) 4 (v.zeroExtend 64)) s fun t =>
      (t.cls c).shadow = (s.cls c).shadow.put i v ∧ (t.cls c).act = (s.cls c).act ∧ (∀ k, k ≠ c → t.cls k = s.cls k) ∧
      Reports { s with classes := t.classes } t := by
  have hv : BitVec.ofNat 32 (v.zeroExtend 64).toNat = v := by
    rw [BitVec.toNat_setWidth, Nat.mod_eq_of_lt (by omega), BitVec.ofNat_toNat, BitVec.setWidth_eq]
  refine ⟨_, exec_registerWrite_bar0 ha hr (by omega) 4 _, ?_⟩
  rw [s.regWrite_narrow m 0 _ (by omega) (isWide_wideAt_of_plain (by omega)), hv, s.writeReg_flt m 0 v hc (by omega), s.fltW_of_config c v hm hi]
  have he := State.cfgMirror_emits (s.setCls c { s.cls c with shadow := (s.cls c).shadow.put i v }) (0x80000 + c * 0x100 + 4 * i) 4 v.toNat (Emits.refl _)
  refine ⟨?_, ?_, fun k hk => ?_, ?_⟩
  · rw [he.cls, State.cls_setCls]
  · rw [he.cls, State.cls_setCls]
  · rw [he.cls, State.cls_setCls_ne _ _ _ _ hk]
  · rw [he.classes]
    exact he.reports

theorem runs_ringWrite {s : State} {m q : Nat} (v : Word64) (hq : q < 1024) (hs : (s.q q).st = .disabled)
    (ha : s.admits m (qcfgOff q) = true) (hr : rightsOk m (qcfgOff q) = true) :
    Runs (.registerWrite .bar0 m (qcfgOff q) 8 v) s fun t =>
      t.q q = { s.q q with ring := v } ∧ (∀ k, k ≠ q → t.q k = s.q k) ∧ Reports s t := by
  have ho : qcfgOff q = 0x20000 + q * 64 := rfl
  have hi : (qcfgOff q - 0x20000) / 64 = q := by omega
  have hm : qcfgOff q % 64 = 0 := by omega
  refine ⟨_, exec_registerWrite_bar0 ha hr (by omega) 8 v, ?_⟩
  rw [s.regWrite_wide m 0 v (by omega) (isWide_qcfgOff hq), s.writeWide_qcfg m v (by omega), hi, hm, s.qcfgWide_ring m v hs]
  have he := State.cfgMirror_emits (s.setQ q { s.q q with ring := v }) (qcfgOff q) 8 v.toNat (Emits.refl _)
  obtain ⟨hself, hothers⟩ := (QOnly.setQ s q _).emits he
  exact ⟨hself, hothers, (State.setQ_reports s q _ (Reports.refl s)).trans he.reports⟩

theorem runs_accErrRead {s : State} {m : Nat} (ha : s.admits m 0x08 = true) (hr : rightsOk m 0x08 = true) :
    Runs (.rclrRead .bar0 m 0x08 4) s fun t =>
      t.readOut.toNat = s.gctl.accCount.toNat + s.gctl.accMid.toNat * 0x10000 ∧
      t = { s with readOut := t.readOut, gctl := { s.gctl with accCount := 0 } } := by
  refine ⟨_, exec_rclrRead_bar0 ha hr (by omega) 4, ?_⟩
  rw [s.regRead_accErr]
  exact ⟨toNat_ofNat_pair (by omega) (by omega), rfl⟩

theorem runs_qcfgStateRead {s : State} {m q : Nat} (hq : q < 1024) (ha : s.admits m (qcfgOff q + 0x30) = true)
    (hr : rightsOk m (qcfgOff q + 0x30) = true) :
    Runs (.rclrRead .bar0 m (qcfgOff q + 0x30) 4) s fun t => t.readOut = BitVec.ofNat 64 (s.regWord m 0 (qcfgOff q + 0x30)) ∧
      t = { s.setQ q { s.q q with dbBad := 0 } with readOut := t.readOut } := by
  have ho : qcfgOff q = 0x20000 + q * 64 := rfl
  refine ⟨_, exec_rclrRead_plain ha hr (by omega) (by omega) (isWide_wideAt_of_qcfg (by omega) (by omega)) (by omega), ?_⟩
  rw [State.clearOn_qcfgState _ hq]
  exact ⟨rfl, rfl⟩

theorem runs_fltOvrRead {s : State} {m c : Nat} (hc : c < 64) (ha : s.admits m (0x80044 + 256 * c) = true)
    (hr : rightsOk m (0x80044 + 256 * c) = true) :
    Runs (.rclrRead .bar0 m (0x80044 + 256 * c) 4) s fun t =>
      t.readOut.toNat = (s.cls c).overruns.toNat + (s.cls c).parks.toNat * 0x10000 ∧
      t = { s.setCls c { s.cls c with overruns := 0, parks := 0 } with readOut := t.readOut } := by
  refine ⟨_, exec_rclrRead_plain ha hr (by omega) (by omega) (isWide_wideAt_of_plain (by omega)) (by omega), ?_⟩
  rw [s.regWord_fltOvr m 0 hc, State.clearOn_fltOvr _ hc]
  exact ⟨toNat_ofNat_pair (by omega) (by omega), rfl⟩

theorem runs_semInfoRead {s : State} {m n : Nat} (hn : n < 256) (ha : s.admits m (0xA4004 + 8 * n) = true)
    (hr : rightsOk m (0xA4004 + 8 * n) = true) :
    Runs (.rclrRead .bar0 m (0xA4004 + 8 * n) 4) s fun t =>
      t.readOut.toNat = (s.sem n).value.toNat + (s.sem n).bad.toNat * 0x10000 ∧
      t = { s.setSem n { s.sem n with bad := 0 } with readOut := t.readOut } := by
  refine ⟨_, exec_rclrRead_plain ha hr (by omega) (by omega) (isWide_wideAt_of_plain (by omega)) (by omega), ?_⟩
  rw [s.regWord_semInfo m 0 hn, State.clearOn_semInfo _ hn]
  exact ⟨toNat_ofNat_pair (by omega) (by omega), rfl⟩

/-- Settles O17: each row is run to the register that it reaches; writes are mirrored, which only emits, and reads clear only there. -/
theorem registerFieldsWrittenAndCleared : Obligations.RegisterFieldsWrittenAndCleared := by
  intro s m hm
  exact ⟨fun c i v hc _ hi ha hr => runs_budgetWrite v hm hc hi ha hr, fun q v hq hs ha hr => runs_ringWrite v hq hs ha hr, runs_accErrRead,
    fun q hq ha hr => runs_qcfgStateRead hq ha hr, fun c hc ha hr => runs_fltOvrRead hc ha hr, fun n hn ha hr => runs_semInfoRead hn ha hr⟩

end Sys2Proof.Machine
end

section
/-! PROOFS. The debug access port (R503): how its data register is laid out, what one access does, and its rows. -/

namespace Sys2Proof.Machine
open Sys2Proof

/-! ### The data register -/

/-- DBG_ACCESS's data register as R503 lays it out: DATA, offset, WRITE and GO. -/
def dbgWord (data off : Nat) (wr go : Bool) : BitVec 66 := BitVec.ofNat 66 (data + off * 2 ^ 32 + b2n wr * 2 ^ 64 + b2n go * 2 ^ 65)

theorem b2n_le_one (b : Bool) : b2n b ≤ 1 := by cases b <;> decide

section DbgWord

variable {data off : Nat} (wr go : Bool) (hd : data < 2 ^ 32) (ho : off < 2 ^ 32)

include hd ho

theorem toNat_dbgWord : (dbgWord data off wr go).toNat = data + off * 2 ^ 32 + b2n wr * 2 ^ 64 + b2n go * 2 ^ 65 := by
  have := b2n_le_one wr
  have := b2n_le_one go
  rw [dbgWord, BitVec.toNat_ofNat]
  exact Nat.mod_eq_of_lt (by omega)

theorem dbgWord_data : bitsOf (dbgWord data off wr go) 0 32 = data := by
  rw [bitsOf, toNat_dbgWord wr go hd ho, Nat.shiftRight_eq_div_pow]
  omega

theorem dbgWord_off : bitsOf (dbgWord data off wr go) 32 32 = off := by
  rw [bitsOf, toNat_dbgWord wr go hd ho, Nat.shiftRight_eq_div_pow]
  omega

theorem dbgWord_write : bitOf (dbgWord data off wr go) 64 = wr := by
  rw [bitOf, BitVec.getLsbD, toNat_dbgWord wr go hd ho, Nat.testBit_eq_decide_div_mod_eq]
  cases wr <;> cases go <;> simp [b2n] <;> omega

theorem dbgWord_go : bitOf (dbgWord data off wr go) 65 = go := by
  rw [bitOf, BitVec.getLsbD, toNat_dbgWord wr go hd ho, Nat.testBit_eq_decide_div_mod_eq]
  cases wr <;> cases go <;> simp [b2n] <;> omega

/-- An access clears GO and keeps offset and WRITE (R503). -/
theorem dbgDone_dbgWord (d : Nat) : dbgDone (dbgWord data off wr go) d = dbgWord (d % 2 ^ 32) off wr false := by
  rw [dbgDone, dbgWord_off wr go hd ho, dbgWord_write wr go hd ho]
  have : b2n false = 0 := rfl
  exact congrArg (BitVec.ofNat 66) (by omega)

end DbgWord

theorem dbgWord_writes (data off : Nat) : dbgWord data off true false = BitVec.ofNat 66 (data + off * 2 ^ 32 + 2 ^ 64) :=
  congrArg (BitVec.ofNat 66) (by simp only [b2n, if_true, Bool.false_eq_true, if_false]; omega)

theorem dbgWord_reads (data off : Nat) : dbgWord data off false false = BitVec.ofNat 66 (data + off * 2 ^ 32) :=
  congrArg (BitVec.ofNat 66) (by simp only [b2n, Bool.false_eq_true, if_false]; omega)

/-! ### One access of the debug port -/

/-- Update-DR with DBG_ACCESS in force, before any access. -/
def State.loadDbg (s : State) (dr : BitVec 66) : State := { s with tap := { s.tap with ir := 4, dr } }

/-- The data register after an access. -/
def State.setDr (s : State) (dr : BitVec 66) : State := { s with tap := { s.tap with dr } }

/-- Without GO, or where nothing serves the port, no access is made (R425, R503). -/
theorem State.dbgAccess_idle (s : State) (dr : BitVec 66) (h : dr.getLsbD 65 = false ∨ s.admits 0x1FF (bitsOf dr 32 32) = false) :
    s.dbgAccess dr = s.loadDbg dr := by
  refine if_pos (Bool.or_eq_true_iff.mpr (h.imp (fun hg => ?_) fun ha => ?_))
  · rw [bitOf, hg, Bool.not_false]
  · exact congrArg (! ·) ha

theorem State.dbg_served {s : State} {dr : BitVec 66} (hg : bitOf dr 65 = true) (ha : s.admits midDebug (bitsOf dr 32 32) = true) :
    ¬ (!(bitOf dr 65) || !((s.loadDbg dr).admits midDebug (bitsOf dr 32 32))) = true := by
  rw [hg, show (s.loadDbg dr).admits midDebug (bitsOf dr 32 32) = true from ha]
  decide

theorem State.dbgAccess_of_write {s : State} {dr : BitVec 66} (hg : bitOf dr 65 = true) (ha : s.admits midDebug (bitsOf dr 32 32) = true)
    (hw : bitOf dr 64 = true) : s.dbgAccess dr =
      ((s.loadDbg dr).bar0Write midDebug 0 (bitsOf dr 32 32) 4 (BitVec.ofNat 64 (bitsOf dr 0 32))).setDr (dbgDone dr (bitsOf dr 0 32)) :=
  (if_neg (State.dbg_served hg ha)).trans (if_pos hw)

theorem State.dbgAccess_of_read {s : State} {dr : BitVec 66} (hg : bitOf dr 65 = true) (ha : s.admits midDebug (bitsOf dr 32 32) = true)
    (hw : bitOf dr 64 = false) : s.dbgAccess dr =
      ((s.loadDbg dr).bar0Read midDebug 0 (bitsOf dr 32 32) 4).setDr
        (dbgDone dr ((s.loadDbg dr).bar0Read midDebug 0 (bitsOf dr 32 32) 4).readOut.toNat) :=
  (if_neg (State.dbg_served hg ha)).trans (if_neg (Bool.eq_false_iff.mp hw))

section Access

variable {s : State} {data off : Nat} (hd : data < 2 ^ 32) (lt : off < 0x400000) (ha : s.admits midDebug off = true)

include hd lt ha

/-- A write of the debug port is a 4 B write of the register blocks as master 0x1FF (R49, R503). -/
theorem State.dbgAccess_write : s.dbgAccess (dbgWord data off true true) =
    ((s.loadDbg (dbgWord data off true true)).regWrite midDebug 0 off 4 (BitVec.ofNat 64 data)).setDr (dbgWord data off true false) := by
  have ho : off < 2 ^ 32 := by omega
  have hoff := dbgWord_off true true hd ho
  rw [State.dbgAccess_of_write (dbgWord_go true true hd ho) (hoff.symm ▸ ha) (dbgWord_write true true hd ho), hoff,
    dbgWord_data true true hd ho, dbgDone_dbgWord true true hd ho, Nat.mod_eq_of_lt hd, State.bar0Write_regs _ 0 4 _ lt (rightsOk_midDebug off)]

/-- A read of the debug port is a 4 B read of the register blocks as master 0x1FF (R49, R503). -/
theorem State.dbgAccess_read {x : Nat} (lx : x < 2 ^ 32)
    (hx : ((s.loadDbg (dbgWord data off false true)).regRead midDebug 0 off 4).readOut.toNat = x) :
    s.dbgAccess (dbgWord data off false true) =
      ((s.loadDbg (dbgWord data off false true)).regRead midDebug 0 off 4).setDr (dbgWord x off false false) := by
  have ho : off < 2 ^ 32 := by omega
  have hoff := dbgWord_off false true hd ho
  rw [State.dbgAccess_of_read (dbgWord_go false true hd ho) (hoff.symm ▸ ha) (dbgWord_write false true hd ho), hoff,
    dbgDone_dbgWord false true hd ho, State.bar0Read_regs _ 0 4 lt (rightsOk_midDebug off), hx, Nat.mod_eq_of_lt lx]

end Access

/-! ### What a refused access of the debug port leaves -/

theorem Reports.setTap {s t : State} (h : Reports s t) (x : Tap) : Reports { s with tap := x } { t with tap := x } := by
  unfold Reports at *
  rw [h]

/-- An access of the debug port that is refused is counted under its master and changes the reports, and the data register is as the
access leaves it. -/
theorem State.accFault_setDr (s : State) (dr : BitVec 66) : ∃ u, (s.accFault midDebug).setDr dr = u ∧
    u.gctl.accCount = satInc s.gctl.accCount ∧ u.gctl.accMid = 0x1FF ∧ Reports { s with tap := u.tap } u ∧
    u.tap = { s.tap with dr } ∧ u.readOut = s.readOut := by
  have hg := s.accFault_gctl midDebug
  have he := State.accFault_emits s midDebug (Emits.refl s)
  generalize s.accFault midDebug = t at hg he
  refine ⟨_, rfl, congrArg Gctl.accCount hg, congrArg Gctl.accMid hg, he.reports.setTap _, ?_, he.readOut⟩
  exact congrArg (fun p : Tap => { p with dr }) he.tap

/-! ### The rows of the debug access port -/

/-- The owner's 4 B write of 0 releases a semaphore (R313). -/
theorem State.semRelease_of_owner (s : State) {m n : Nat} (hr : rightsOk m (semBase n) = true) (hn : n < 256)
    (hv : (s.sem n).value.toNat = m + 1) : s.semRelease m n 0 = s.setSem n { s.sem n with value := 0 } := by
  simp [State.semRelease, hr, Nat.not_le.mpr hn, hv]

section Rows

variable {s : State} {off : Nat} (data : Word32) (ha : s.admits midDebug off = true)

include ha

theorem runs_dbgAccErrRead (h8 : off = 8) : Runs (.dbgAccess (dbgWord data.toNat off false true)) s fun t =>
    t.tap = { s.tap with ir := 4, dr := BitVec.ofNat 66 (s.gctl.accCount.toNat + s.gctl.accMid.toNat * 0x10000 + off * 2 ^ 32) } ∧
    t = { s with tap := t.tap, readOut := t.readOut, gctl := { s.gctl with accCount := 0 } } := by
  subst h8
  have hout : ((s.loadDbg (dbgWord data.toNat 8 false true)).regRead midDebug 0 8 4).readOut.toNat =
      s.gctl.accCount.toNat + s.gctl.accMid.toNat * 0x10000 := by
    rw [State.regRead_accErr]
    exact toNat_ofNat_pair (by omega) (by omega)
  refine ⟨_, congrArg Host.Outcome.next (State.dbgAccess_read data.isLt (by omega) ha (by omega) hout), ?_⟩
  rw [State.regRead_accErr, dbgWord_reads]
  exact ⟨rfl, rfl⟩

theorem runs_dbgSemRelease {n : Nat} (hn : n < 256) (ho : off = 0xA4000 + 8 * n) (hv : (s.sem n).value.toNat = midDebug + 1) :
    Runs (.dbgAccess (dbgWord 0 off true true)) s fun t =>
      t.sem n = { s.sem n with value := 0 } ∧ (∀ k, k ≠ n → t.sem k = s.sem k) ∧
      t = { s with sems := t.sems, tap := { s.tap with ir := 4, dr := BitVec.ofNat 66 (off * 2 ^ 32 + 2 ^ 64) } } := by
  have hrun := State.dbgAccess_write (data := 0) (by omega) (by omega) ha
  have hrel := (s.loadDbg (dbgWord 0 off true true)).semRelease_of_owner (rightsOk_midDebug _) hn hv
  rw [dbgWord_writes, Nat.zero_add, ho, State.regWrite_narrow _ midDebug 0 _ (by omega) (isWide_wideAt_of_plain (by omega)),
    State.writeReg_semLock _ midDebug 0 _ hn, ← ho, show BitVec.ofNat 32 (BitVec.ofNat 64 0).toNat = 0 from rfl, hrel] at hrun
  refine ⟨_, congrArg Host.Outcome.next hrun, ?_⟩
  generalize BitVec.ofNat 66 (off * 2 ^ 32 + 2 ^ 64) = done
  exact ⟨State.sem_setSem s n _, fun k hk => State.sem_setSem_ne s n k _ hk, rfl⟩

theorem runs_dbgBudgetWrite {c i : Nat} (hc : c < 64) (hi : i ≤ 6) (ho : off = 0x80000 + 256 * c + 4 * i) :
    Runs (.dbgAccess (dbgWord data.toNat off true true)) s fun t =>
      t.gctl.accCount = satInc s.gctl.accCount ∧ t.gctl.accMid = 0x1FF ∧ Reports { s with tap := t.tap } t ∧
      t.tap = { s.tap with ir := 4, dr := BitVec.ofNat 66 (data.toNat + off * 2 ^ 32 + 2 ^ 64) } := by
  have hrun := State.dbgAccess_write data.isLt (by omega) ha
  rw [dbgWord_writes, ho, State.regWrite_narrow _ midDebug 0 _ (by omega) (isWide_wideAt_of_plain (by omega)),
    State.writeReg_flt _ midDebug 0 _ hc (by omega), State.fltW_refused _ c _ rfl hi, ← ho] at hrun
  obtain ⟨u, hu, hcount, hmid, hrep, htap, -⟩ := State.accFault_setDr (s.loadDbg (dbgWord data.toNat off true true))
    (BitVec.ofNat 66 (data.toNat + off * 2 ^ 32 + 2 ^ 64))
  exact ⟨u, congrArg Host.Outcome.next (hrun.trans hu), hcount, hmid, hrep, htap⟩

theorem runs_dbgMisalignedRead (lt : off < 0x400000) (h4 : off % 4 ≠ 0) : Runs (.dbgAccess (dbgWord data.toNat off false true)) s fun t =>
    t.gctl.accCount = satInc s.gctl.accCount ∧ t.gctl.accMid = 0x1FF ∧ Reports { s with tap := t.tap, readOut := t.readOut } t ∧
    t.tap = { s.tap with ir := 4, dr := BitVec.ofNat 66 (off * 2 ^ 32) } := by
  have hread := State.regRead_misaligned (s.loadDbg (dbgWord data.toNat off false true)) midDebug 0 h4
  have hx : ((s.loadDbg (dbgWord data.toNat off false true)).regRead midDebug 0 off 4).readOut.toNat = 0 := by
    rw [hread, (State.accFault_emits _ midDebug (Emits.refl _)).readOut]
    rfl
  have hrun := State.dbgAccess_read data.isLt lt ha (by omega) hx
  rw [hread, dbgWord_reads, Nat.zero_add] at hrun
  obtain ⟨u, hu, hcount, hmid, hrep, htap, hout⟩ := State.accFault_setDr ((s.loadDbg (dbgWord data.toNat off false true)).out 0)
    (BitVec.ofNat 66 (off * 2 ^ 32))
  refine ⟨u, congrArg Host.Outcome.next (hrun.trans hu), hcount, hmid, ?_, htap⟩
  rw [hout]
  exact hrep

end Rows

/-- Settles O60: an access with GO is a 4 B access of the register blocks as master 0x1FF, whose register says the rest. -/
theorem debugAccessPort : Obligations.DebugAccessPort := by
  intro s
  refine ⟨⟨_, rfl, rfl, rfl, rfl, rfl⟩, ⟨_, rfl, rfl, rfl, rfl, rfl⟩, fun _ => ⟨_, rfl, rfl⟩, ⟨_, rfl, rfl⟩,
    fun dr h => ⟨_, rfl, s.dbgAccess_idle dr h⟩, fun off wr data dr lt ha hdr => ?_⟩
  subst hdr
  refine ⟨fun h8 hw => ?_, fun n hn ho hw h0 hv => ?_, fun c i hc _ hi ho hw => ?_, fun h4 hw => ?_⟩ <;> subst hw
  · exact runs_dbgAccErrRead data ha h8
  · subst h0
    exact runs_dbgSemRelease ha hn ho hv
  · exact runs_dbgBudgetWrite data ha hc hi ho
  · exact runs_dbgMisalignedRead data ha lt h4

end Sys2Proof.Machine
end

section
/-! PROOFS. The reset state (R16). -/

namespace Sys2Proof.Machine
open Sys2Proof

/-- Settles O6: each table and the memory stand empty at reset, so each entry reads as its default. -/
theorem resetState : Obligations.ResetState :=
  ⟨rfl, rfl, fun _ => rfl, rfl, fun _ => rfl, fun _ => ⟨rfl, rfl⟩, rfl, rfl, rfl, rfl, fun _ => ⟨rfl, rfl⟩, fun _ => rfl, fun _ => rfl, rfl, rfl, rfl⟩

end Sys2Proof.Machine
end

section
/-! PROOFS. Accesses that wake the domain which they reach (R41, R44, R45, log 121): what a wake leaves, misaligned accesses, and the two
halves of a 64-bit register. -/

namespace Sys2Proof.Machine
open Sys2Proof

/-! ### What a wake leaves -/

/-- The state with its power registers replaced. -/
def State.setPwr (s : State) (p : Pwr) : State := { s with pwr := p }

/-- A wake for an access is all in the power registers (R398, R405). -/
theorem State.wakeFor_eq (s : State) (off : Nat) : s.wakeFor off = s.setPwr (s.wakeFor off).pwr := by
  have hd : ∀ d c, s.wakeDomain d c = s.setPwr (s.wakeDomain d c).pwr := fun d c => by
    unfold State.wakeDomain
    split <;> rfl
  unfold State.wakeFor
  cases offDom off with
  | none => rfl
  | some d => exact hd d _

/-- What a wake leaves in the power registers depends on them alone (R405). -/
theorem State.wakeFor_pwr_congr {s t : State} (h : t.pwr = s.pwr) (off : Nat) : (t.wakeFor off).pwr = (s.wakeFor off).pwr := by
  have hdom : ∀ d, t.dom d = s.dom d := fun d => by rw [State.dom, h, State.dom]
  have hd : ∀ d c, (t.wakeDomain d c).pwr = (s.wakeDomain d c).pwr := fun d c => by
    unfold State.wakeDomain
    rw [hdom d]
    split
    · simp only [State.noteWake, State.updDom, hdom d, h]
    · exact h
  unfold State.wakeFor
  cases offDom off with
  | none => exact h
  | some d => exact hd d _

/-- A domain that is being woken is asked for once (R405). -/
theorem State.wakeDomain_idem (s : State) (d c : Nat) : (s.wakeDomain d c).wakeDomain d c = s.wakeDomain d c := by
  by_cases h : d < 134 ∧ isLinkDom d = false ∧ (s.dom d).level ≠ 0 ∧ (s.dom d).waking = false
  · have hw : ((s.wakeDomain d c).dom d).waking = true := by
      rw [State.wakeDomain, if_pos h]
      show ((s.updDom d fun x => { x with waking := true }).dom d).waking = true
      rw [State.dom_updDom]
    refine if_neg ?_
    rintro ⟨-, -, -, hn⟩
    rw [hw] at hn
    cases hn
  · have hs : s.wakeDomain d c = s := if_neg h
    rw [hs, hs]

theorem State.wakeFor_idem (s : State) (off : Nat) : (s.wakeFor off).wakeFor off = s.wakeFor off := by
  unfold State.wakeFor
  cases offDom off with
  | none => rfl
  | some d => exact s.wakeDomain_idem d _

/-- A wake commutes with an update that has nothing to do with the power registers. -/
theorem State.wakeFor_comm {f : State → State} (hf : ∀ s p, f (s.setPwr p) = (f s).setPwr p) {s : State} (hp : (f s).pwr = s.pwr) (off : Nat) :
    (f s).wakeFor off = f (s.wakeFor off) := by
  rw [(f s).wakeFor_eq off, State.wakeFor_pwr_congr hp, ← hf, ← s.wakeFor_eq off]

/-- The state with its held lower halves replaced. -/
def State.setLowHeld (s : State) (l : List ((Nat × Nat) × Word32)) : State := { s with lowHeld := l }

theorem State.wakeFor_setLowHeld (s : State) (off : Nat) (l : List ((Nat × Nat) × Word32)) :
    (s.setLowHeld l).wakeFor off = (s.wakeFor off).setLowHeld l :=
  State.wakeFor_comm (f := fun s => s.setLowHeld l) (fun _ _ => rfl) rfl off

theorem State.wakeFor_out (s : State) (off v : Nat) : (s.out v).wakeFor off = (s.wakeFor off).out v :=
  State.wakeFor_comm (f := fun s => s.out v) (fun _ _ => rfl) rfl off

theorem State.admits_wakeFor (s : State) (off m o : Nat) : (s.wakeFor off).admits m o = s.admits m o := by
  rw [s.wakeFor_eq off]
  rfl

theorem State.wideMay_wakeFor (s : State) (off m o : Nat) : (s.wakeFor off).wideMay m o = s.wideMay m o := by
  rw [s.wakeFor_eq off]
  rfl

/-- Both halves of a 64-bit register of the register blocks lie in one domain (R39, R51). -/
theorem offDom_upperHalf {off : Nat} (h : off % 8 = 0) : offDom (off + 4) = offDom off := by
  have hsub : ∀ a k, k ∈ [0x1000, 0x4000, 0x10000, 0x20000, 0x80000] → a % 8 = 0 → (off + 4 - a) / k = (off - a) / k := by
    intro a k hk ha
    simp only [List.mem_cons, List.not_mem_nil, or_false] at hk
    rcases hk with rfl | rfl | rfl | rfl | rfl <;> omega
  unfold offDom
  repeat' with_reducible refine if_congr (by omega) ?_ ?_
  all_goals simp (disch := decide) only [hsub]

theorem State.wakeFor_upperHalf (s : State) {off : Nat} (lt : off < 0x400000) (h : off % 8 = 0) : s.wakeFor (off + 4) = s.wakeFor off := by
  unfold State.wakeFor
  rw [offDom_upperHalf h, if_neg (by omega), if_neg (by omega)]

/-! ### An admitted access of the register blocks -/

/-- An admitted write wakes the domain that it reaches, and proceeds (R63, R398, log 121). -/
theorem State.access_wakes {s : State} {m off : Nat} (k : State → State) (h : s.admits m off = true) (lt : off < 0x1000000) :
    s.access m off k = k (s.wakeFor off) := by
  simp [State.access, lt, State.noBar_of_admits h, h]

/-- An admitted read likewise. -/
theorem State.accessR_wakes {s : State} {m off : Nat} (k : State → State) (h : s.admits m off = true) (lt : off < 0x1000000) :
    s.accessR m off k = k (s.wakeFor off) := by
  simp [State.accessR, lt, State.noBar_of_admits h, h]

section Access

variable {s : State} {m off : Nat} (lt : off < 0x400000) (ha : s.admits m off = true) (hr : rightsOk m off = true)

include lt ha hr

theorem exec_registerWrite_wakes (size : Nat) (v : Word64) :
    exec (.registerWrite .bar0 m off size v) s = .next ((s.wakeFor off).regWrite m 0 off size v) := by
  refine congrArg Host.Outcome.next ?_
  exact (State.access_wakes (fun s => s.bar0Write m 0 off size v) ha (by omega)).trans (State.bar0Write_regs _ 0 size v lt hr)

theorem exec_rclrRead_wakes (size : Nat) : exec (.rclrRead .bar0 m off size) s = .next ((s.wakeFor off).regRead m 0 off size) := by
  refine congrArg Host.Outcome.next ?_
  exact (State.accessR_wakes (fun s => s.bar0Read m 0 off size) ha (by omega)).trans (State.bar0Read_regs _ 0 size lt hr)

theorem exec_lowerHalfRead_wakes (hw : isWide off = true) :
    exec (.lowerHalfRead m off) s = .next ((s.wakeFor off).regRead m 0 off 4) := by
  refine congrArg Host.Outcome.next ((if_pos ⟨lt, hw⟩).trans ?_)
  exact (State.accessR_wakes (fun s => s.bar0Read m 0 off 4) ha (by omega)).trans (State.bar0Read_regs _ 0 4 lt hr)

end Access

/-- A refused access, after the wake, is counted with its master, and nothing else but the reports has changed (R37, R41). -/
theorem State.accFault_wakeFor (s : State) (off m : Nat) :
    ((s.wakeFor off).accFault m).gctl.accCount = satInc s.gctl.accCount ∧ ((s.wakeFor off).accFault m).gctl.accMid = BitVec.ofNat 9 m ∧
      Emits s ((s.wakeFor off).accFault m) := by
  have hg : (s.wakeFor off).gctl = s.gctl := by
    rw [s.wakeFor_eq off]
    rfl
  rw [State.accFault_gctl, hg]
  exact ⟨rfl, rfl, State.accFault_emits _ m (State.wakeFor_emits s off (Emits.refl s))⟩

/-! ### Misaligned accesses -/

/-- An access of another size or alignment than R41 accepts. -/
theorem regSizeOk_eq_false {off size : Nat} (h : ¬ ((size = 4 ∨ size = 8) ∧ off % size = 0)) : regSizeOk off size = false := by
  rw [← Bool.not_eq_true]
  simpa [regSizeOk, aligned] using h

theorem State.regWrite_refused (s : State) (m ctx : Nat) {off size : Nat} (v : Word64) (h : regSizeOk off size = false) :
    s.regWrite m ctx off size v = s.accFault m := by
  simp [State.regWrite, h]

theorem State.regRead_refused (s : State) (m ctx : Nat) {off size : Nat} (h : regSizeOk off size = false) :
    s.regRead m ctx off size = (s.out 0).accFault m := by
  simp [State.regRead, h]

/-- Settles O14: an access that R41 does not accept is refused and counted before it reaches a register. -/
theorem misalignedAccessesAreCounted : Obligations.MisalignedAccessesAreCounted := by
  intro s m off size lt ha hr hsize
  have hno := regSizeOk_eq_false hsize
  constructor
  · intro v
    obtain ⟨hcount, hmid, he⟩ := s.accFault_wakeFor off m
    refine ⟨_, exec_registerWrite_wakes lt ha hr size v, ?_⟩
    rw [State.regWrite_refused _ m 0 v hno]
    exact ⟨hcount, hmid, he.readOut, he.queues, he.reports⟩
  · obtain ⟨hcount, hmid, he⟩ := (s.out 0).accFault_wakeFor off m
    refine ⟨_, exec_rclrRead_wakes lt ha hr size, ?_⟩
    rw [State.regRead_refused _ m 0 hno, ← State.wakeFor_out]
    exact ⟨hcount, hmid, he.readOut, he.queues, he.reports⟩

/-! ### The halves of a 64-bit register -/

theorem wideAt_of_aligned {off : Nat} (h : off % 8 = 0) : wideAt off = off := by
  unfold wideAt
  omega

theorem wideAt_upperHalf {off : Nat} (h : off % 8 = 0) : wideAt (off + 4) = off := by
  unfold wideAt
  omega

/-- What is held under a key is what was put there last (R44, R45). -/
theorem takeHeld_putHeld (l : List ((Nat × Nat) × Word32)) (k : Nat × Nat) (v : Word32) :
    takeHeld (putHeld l k v) k = some (v, l.filter fun e => e.1 != k) := by
  simp [takeHeld, putHeld, takeFirst]

theorem takeHeld_cons_same (l : List ((Nat × Nat) × Word32)) (k : Nat × Nat) (v : Word32) : takeHeld ((k, v) :: l) k = some (v, l) := by
  simp [takeHeld, takeFirst]

theorem takeHeld_eq_none {l : List ((Nat × Nat) × Word32)} {k : Nat × Nat} (h : ∀ e ∈ l, e.1 ≠ k) : takeHeld l k = none := by
  induction l with
  | nil => rfl
  | cons e r ih =>
    have hr := ih fun x hx => h x (List.mem_cons_of_mem e hx)
    simp only [takeHeld, Option.map_eq_none_iff] at hr ⊢
    simp [takeFirst, h e List.mem_cons_self, hr]

theorem putHeld_of_not_held {l : List ((Nat × Nat) × Word32)} {k : Nat × Nat} (v : Word32) (h : ∀ e ∈ l, e.1 ≠ k) :
    putHeld l k v = (k, v) :: l := by
  unfold putHeld
  rw [List.filter_eq_self.mpr fun e he => by simpa using h e he]

theorem ofNat_zeroExtend (v : Word32) : BitVec.ofNat 32 (v.zeroExtend 64).toNat = v := by
  rw [BitVec.toNat_setWidth, Nat.mod_eq_of_lt (by omega), BitVec.ofNat_toNat, BitVec.setWidth_eq]

theorem ofNat_halves (lo hi : Word32) : BitVec.ofNat 64 (lo.toNat + hi.toNat * 0x100000000) = hi ++ lo := by
  apply BitVec.eq_of_toNat_eq
  rw [BitVec.toNat_append, BitVec.toNat_ofNat, Nat.mod_eq_of_lt (by omega), Nat.shiftLeft_eq, Nat.mul_comm hi.toNat, Nat.add_comm]
  exact Nat.two_pow_add_eq_or_of_lt lo.isLt hi.toNat

section Halves

variable (s : State) (m : Nat) {off : Nat}

/-- An aligned 4 B read within a 64-bit register reads a half of it (R41, R45). -/
theorem State.regRead_half (h4 : off % 4 = 0) (hw : isWide (wideAt off) = true) : s.regRead m 0 off 4 = s.readHalf m 0 off := by
  simp [State.regRead, regSizeOk, aligned, h4, State.read4, hw]

/-- An aligned 4 B write within a 64-bit register writes a half of it (R41, R44). -/
theorem State.regWrite_half (v : Word64) (h4 : off % 4 = 0) (hw : isWide (wideAt off) = true) :
    s.regWrite m 0 off 4 v = s.writeHalf m off (BitVec.ofNat 32 v.toNat) := by
  simp [State.regWrite, regSizeOk, aligned, h4, State.write4, hw]

/-- A half that the master may not write is refused (R57, R170, R228). -/
theorem State.writeHalf_refused (v : Word32) (hm : s.wideMay m (wideAt off) = false) : s.writeHalf m off v = s.accFault m := by
  simp [State.writeHalf, hm]

variable (h8 : off % 8 = 0)

include h8

/-- A read of the lower half keeps the upper half for the master (R45). -/
theorem State.readHalf_lower : s.readHalf m 0 off =
    { s.out (s.regWord m 0 off) with upKept := putHeld s.upKept (m, off) (BitVec.ofNat 32 (s.regWord m 0 (off + 4))) } := if_pos h8

/-- A read of the upper half returns what is kept for the master (R45). -/
theorem State.readHalf_upper {v : Word32} {l : List ((Nat × Nat) × Word32)} (hk : takeHeld s.upKept (m, off) = some (v, l)) :
    s.readHalf m 0 (off + 4) = { s.out v.toNat with upKept := l } := by
  have hne : (off + 4) % 8 ≠ 0 := by omega
  simp only [State.readHalf, if_neg hne, wideAt_upperHalf h8, hk]
  rfl

/-- A write of the lower half is held (R44). -/
theorem State.writeHalf_lower (v : Word32) (hm : s.wideMay m off = true) :
    s.writeHalf m off v = s.setLowHeld (putHeld s.lowHeld (m, off) v) := by
  simp [State.writeHalf, wideAt_of_aligned h8, hm, h8, State.setLowHeld]

/-- A write of the upper half writes the held lower half with it, which is held no more (R44). -/
theorem State.writeHalf_upper_held (v w : Word32) {l : List ((Nat × Nat) × Word32)} (hm : s.wideMay m off = true)
    (hk : takeHeld s.lowHeld (m, off) = some (w, l)) : s.writeHalf m (off + 4) v =
    (s.setLowHeld l).writeWide m off (BitVec.ofNat 64 (w.toNat + v.toNat * 0x100000000)) := by
  have hne : (off + 4) % 8 ≠ 0 := by omega
  simp [State.writeHalf, wideAt_upperHalf h8, hm, hne, hk, State.setLowHeld]

/-- A write of the upper half with no lower half held keeps the low 32 bits that the register has (R44). -/
theorem State.writeHalf_upper_free (v : Word32) (hm : s.wideMay m off = true) (hk : takeHeld s.lowHeld (m, off) = none) :
    s.writeHalf m (off + 4) v = s.writeWide m off (BitVec.ofNat 64 (s.regWord m 0 off + v.toNat * 0x100000000)) := by
  have hne : (off + 4) % 8 ≠ 0 := by omega
  simp [State.writeHalf, wideAt_upperHalf h8, hm, hne, hk]

/-- An upper half that follows the lower half writes both at once, with nothing held any more (R44). -/
theorem State.writeHalf_upper_after_lower (lo hi : Word32) (hm : s.wideMay m off = true) :
    (s.setLowHeld (((m, off), lo) :: s.lowHeld)).writeHalf m (off + 4) hi = s.writeWide m off (hi ++ lo) := by
  rw [← ofNat_halves]
  exact State.writeHalf_upper_held _ m h8 hi lo hm (takeHeld_cons_same _ _ _)

end Halves

/-- Settles O15: the lower half's read keeps the upper half under the master and the register, where the upper half's read finds it. -/
theorem upperHalfReadReturnsTheShadow : Obligations.UpperHalfReadReturnsTheShadow := by
  intro s m off lt hw h8 ha hr
  have hw8 : isWide (wideAt off) = true := by rwa [wideAt_of_aligned h8]
  have hw4 : isWide (wideAt (off + 4)) = true := by rwa [wideAt_upperHalf h8]
  refine ⟨_, exec_lowerHalfRead_wakes lt ha hr hw, ?_⟩
  rw [State.regRead_half _ m (by omega) hw8, State.readHalf_lower _ m h8]
  refine ⟨rfl, rfl, fun u hu hau hru => ⟨_, exec_rclrRead_wakes (by omega) hau hru 4, ?_⟩⟩
  have hk : (u.wakeFor off).upKept = putHeld (s.wakeFor off).upKept (m, off) (BitVec.ofNat 32 ((s.wakeFor off).regWord m 0 (off + 4))) :=
    (congrArg State.upKept (u.wakeFor_eq off)).trans hu
  have htake := takeHeld_putHeld (s.wakeFor off).upKept (m, off) (BitVec.ofNat 32 ((s.wakeFor off).regWord m 0 (off + 4)))
  rw [u.wakeFor_upperHalf lt h8, State.regRead_half _ m (by omega) hw4, State.readHalf_upper _ m h8 (hk ▸ htake)]
  exact ⟨congrArg (BitVec.ofNat 64) (BitVec.toNat_ofNat _ _), rfl⟩

/-- Settles O16: the lower half waits under the master and the register, and the upper half's write takes it from there. -/
theorem twoHalvesWriteTheWhole : Obligations.TwoHalvesWriteTheWhole := by
  intro s m off lo hi lt hw h8 ha ha4 hr hr4 hno
  have hw8 : isWide (wideAt off) = true := by rwa [wideAt_of_aligned h8]
  have hw4 : isWide (wideAt (off + 4)) = true := by rwa [wideAt_upperHalf h8]
  have lt4 : off + 4 < 0x400000 := by omega
  have hheld : (s.wakeFor off).lowHeld = s.lowHeld := by
    rw [s.wakeFor_eq off]
    rfl
  have hwhole : ∀ v : Word64, exec (.registerWrite .bar0 m off 8 v) s = .next ((s.wakeFor off).writeWide m off v) := fun v => by
    rw [exec_registerWrite_wakes lt ha hr, State.regWrite_wide _ m 0 v h8 hw]
  have hupper : ∀ t : State, t.admits m (off + 4) = true →
      exec (.registerWrite .bar0 m (off + 4) 4 (hi.zeroExtend 64)) t = .next ((t.wakeFor off).writeHalf m (off + 4) hi) := fun t hat => by
    rw [exec_registerWrite_wakes lt4 hat hr4, t.wakeFor_upperHalf lt h8, State.regWrite_half _ m _ (by omega) hw4, ofNat_zeroExtend]
  have hlower : exec (.registerWrite .bar0 m off 4 (lo.zeroExtend 64)) s = .next ((s.wakeFor off).writeHalf m off lo) := by
    rw [exec_registerWrite_wakes lt ha hr, State.regWrite_half _ m _ (by omega) hw8, ofNat_zeroExtend]
  refine ⟨hwhole, fun hmay => ?_, fun hmay => ?_⟩
  · have hmay' : (s.wakeFor off).wideMay m off = true := by rwa [s.wideMay_wakeFor]
    refine ⟨⟨_, hlower, ?_⟩, ?_⟩
    · rw [State.writeHalf_lower _ m h8 lo hmay', hheld, putHeld_of_not_held lo hno]
      refine ⟨rfl, ?_⟩
      show exec _ ((s.wakeFor off).setLowHeld (((m, off), lo) :: s.lowHeld)) = _
      have hat : ((s.wakeFor off).setLowHeld (((m, off), lo) :: s.lowHeld)).admits m (off + 4) = true := (s.admits_wakeFor off m (off + 4)).trans ha4
      rw [hupper _ hat, State.wakeFor_setLowHeld, State.wakeFor_idem, ← hheld, State.writeHalf_upper_after_lower _ m h8 lo hi hmay', hwhole]
    · rw [hupper s ha4, State.writeHalf_upper_free _ m h8 hi hmay' (hheld ▸ takeHeld_eq_none hno), hwhole]
  · obtain ⟨hcount, hmid, he⟩ := s.accFault_wakeFor off m
    have hfault : ∀ o (v : Word32), wideAt o = off → (s.wakeFor off).writeHalf m o v = (s.wakeFor off).accFault m := fun o v ho =>
      State.writeHalf_refused _ m v (by rw [ho, s.wideMay_wakeFor, hmay])
    have hlow : ((s.wakeFor off).accFault m).lowHeld = s.lowHeld := by rw [he]
    intro i hi
    rcases List.mem_cons.mp hi with rfl | hi
    · exact ⟨_, hlower.trans (congrArg _ (hfault off lo (wideAt_of_aligned h8))), hcount, hmid, hlow, he.reports⟩
    · obtain rfl := List.mem_singleton.mp hi
      exact ⟨_, (hupper s ha4).trans (congrArg _ (hfault _ _ (wideAt_upperHalf h8))), hcount, hmid, hlow, he.reports⟩

end Sys2Proof.Machine
end

section
/-! PROOFS. Writes through the windows (R42, R43, R507): which bytes they store, and when they are refused. -/

namespace Sys2Proof.Machine
open Sys2Proof

/-! ### Bytes stored -/

/-- What a run of bytes stored reads as, byte by byte. -/
theorem State.byteAt_store {s : State} (hm : s.memOk) (off a : Nat) (l : List Byte) :
    (s.store off l).byteAt a = if off ≤ a ∧ a < off + l.length then l.getD (a - off) 0 else s.byteAt a := by
  split
  next h =>
    have hi : a - off < l.length := by omega
    have hget := Memory.get_setMany_in s.mem off (a - off) l hm hi
    rw [Nat.add_sub_cancel' h.1] at hget
    rw [List.getD_eq_getElem l 0 hi]
    exact hget
  next h => exact Memory.get_setMany_out s.mem off a l (by omega)

/-- A store through the Hawk window changes the memory alone. -/
theorem State.storeHawk_eq (s : State) (off : Nat) (l : List Byte) : s.storeHawk off l = { s with mem := (s.storeHawk off l).mem } := by
  induction l generalizing s off with
  | nil => rfl
  | cons b l ih =>
    unfold State.storeHawk
    split
    · rw [ih]
      rfl
    · exact ih s (off + 1)

/-- Bytes stored through the Hawk window land in the slices in service, and nowhere else (R34). -/
theorem State.byteAt_storeHawk {s : State} (hm : s.memOk) (off a : Nat) (l : List Byte) :
    (s.storeHawk off l).byteAt a =
      if off ≤ a ∧ a < off + l.length ∧ s.inHawk a = true then l.getD (a - off) 0 else s.byteAt a := by
  induction l generalizing s off with
  | nil => exact (if_neg (by simp; omega)).symm
  | cons b l ih =>
    have other : a ≠ off →
        (if off + 1 ≤ a ∧ a < off + 1 + l.length ∧ s.inHawk a = true then l.getD (a - (off + 1)) 0 else s.byteAt a) =
          if off ≤ a ∧ a < off + (b :: l).length ∧ s.inHawk a = true then (b :: l).getD (a - off) 0 else s.byteAt a := fun hne => by
      have hlo : off + 1 ≤ a ↔ off ≤ a := by omega
      have hhi : a < off + 1 + l.length ↔ a < off + (b :: l).length := by rw [List.length_cons]; omega
      simp only [hlo, hhi]
      split
      next h => rw [show a - off = a - (off + 1) + 1 by omega, List.getD_cons_succ]
      next h => rfl
    unfold State.storeHawk
    split
    next hin =>
      have hm' : (s.store off [b]).memOk := Memory.setMany_wf s.mem off [b] hm
      rw [ih hm', State.byteAt_store hm]
      show (if off + 1 ≤ a ∧ a < off + 1 + l.length ∧ s.inHawk a = true then _ else _) = _
      by_cases ha : a = off
      · subst ha
        simp [hin]
      · rw [if_neg (c := off ≤ a ∧ a < off + [b].length) (by simp; omega)]
        exact other ha
    next hin =>
      rw [ih hm]
      by_cases ha : a = off
      · subst ha
        simp [hin]
      · exact other ha

/-! ### Accesses of the windows -/

theorem countsRetired_of_isHost {m : Nat} (hm : isHost m = true) : countsRetired m = true := by simp [countsRetired, hm]

/-- A host has the right to every window (R36). -/
theorem windowMay_of_isHost {m : Nat} (off : Nat) (hm : isHost m = true) : windowMay m off = true := by simp [windowMay, hm]

theorem exec_windowWrite_wakes {s : State} {m off : Nat} (bytes : List Byte) (hm : isHost m = true) (hin : inRange off 0x400000 0xFFFFFF = true)
    (ha : s.admits m off = true) : exec (.windowWrite m off bytes) s = .next ((s.wakeFor off).winWrite m off bytes) := by
  have lt : off < 0x1000000 := by
    simp only [inRange, Bool.and_eq_true, decide_eq_true_eq] at hin
    omega
  refine congrArg Host.Outcome.next ((if_pos hin).trans ((State.access_wakes (fun s => s.windowPut m off bytes) ha lt).trans ?_))
  exact if_pos (windowMay_of_isHost off hm)

section Writes

variable {s : State} {m off : Nat} {l : List Byte} (hsz : winSizeOk off l.length 256 = true)

include hsz

/-- A host's write to the local memory of a core that is drained is stored (R43). -/
theorem State.winWrite_drained {core o : Nat} (hw : windowCore off = some (core, o)) (ho : o < localSize core) (hd : s.drained core = true) :
    s.winWrite m off l = s.store off l := by
  simp [State.winWrite, hsz, hw, Nat.not_le.mpr ho, hd]

/-- A host's write to the local memory of a core that is not drained is refused (R43). -/
theorem State.winWrite_undrained (hm : isHost m = true) {core o : Nat} (hw : windowCore off = some (core, o)) (ho : o < localSize core) (hd : s.drained core = false) :
    s.winWrite m off l = s.accFault m := by
  simp [State.winWrite, hsz, hw, Nat.not_le.mpr ho, hd, countsRetired_of_isHost hm]

variable (hw : windowCore off = none) (hb : s.bankStopped off l.length = false)

include hw hb

/-- A write that touches no retired cell goes into the Hawk window (R42). -/
theorem State.winWrite_hawk (hr : s.hitsRetired off l.length = false) : s.winWrite m off l = s.storeHawk off l := by
  simp [State.winWrite, hsz, hw, hb, hr]

/-- A host's write that touches a retired cell is refused (R507). -/
theorem State.winWrite_retired (hm : isHost m = true) (hr : s.hitsRetired off l.length = true) : s.winWrite m off l = s.accFault m := by
  simp [State.winWrite, hsz, hw, hb, hr, countsRetired_of_isHost hm]

end Writes

/-! ### What a wake leaves of the windows -/

theorem State.drained_wakeFor (s : State) (off core : Nat) : (s.wakeFor off).drained core = s.drained core := by
  rw [s.wakeFor_eq off]
  rfl

theorem State.bankStopped_wakeFor (s : State) (off a n : Nat) : (s.wakeFor off).bankStopped a n = s.bankStopped a n := by
  rw [s.wakeFor_eq off]
  rfl

theorem State.hitsRetired_wakeFor (s : State) (off a n : Nat) : (s.wakeFor off).hitsRetired a n = s.hitsRetired a n := by
  rw [s.wakeFor_eq off]
  rfl

theorem State.inHawk_wakeFor (s : State) (off a : Nat) : (s.wakeFor off).inHawk a = s.inHawk a := by
  rw [s.wakeFor_eq off]
  rfl

theorem State.mem_wakeFor (s : State) (off : Nat) : (s.wakeFor off).mem = s.mem := by
  rw [s.wakeFor_eq off]
  rfl

theorem State.memOk_wakeFor {s : State} (off : Nat) (h : s.memOk) : (s.wakeFor off).memOk := by
  unfold State.memOk
  rwa [s.mem_wakeFor]

theorem State.byteAt_wakeFor (s : State) (off a : Nat) : (s.wakeFor off).byteAt a = s.byteAt a := by
  unfold State.byteAt
  rw [s.mem_wakeFor]

/-- Settles O18: an admitted write wakes its domain and is then stored whole, stored in the Hawk byte by byte, or refused. -/
theorem windowWritesStoreBytes : Obligations.WindowWritesStoreBytes := by
  intro s m off bytes hm hmem hin ha hsz
  have hrun := exec_windowWrite_wakes bytes hm hin ha
  have hmem' := State.memOk_wakeFor off hmem
  refine ⟨?_, fun hw hb hr => ?_, fun h => ?_⟩
  · rintro ⟨core, o, hw, ho, hd⟩
    rw [State.winWrite_drained hsz hw ho ((s.drained_wakeFor off core).trans hd)] at hrun
    refine ⟨_, hrun, fun a => ?_, rfl⟩
    rw [State.byteAt_store hmem', s.byteAt_wakeFor]
  · rw [State.winWrite_hawk hsz hw ((s.bankStopped_wakeFor off off _).trans hb) ((s.hitsRetired_wakeFor off off _).trans hr)] at hrun
    refine ⟨_, hrun, fun a => ?_, State.storeHawk_eq _ off bytes⟩
    rw [State.byteAt_storeHawk hmem', s.inHawk_wakeFor, s.byteAt_wakeFor]
  · have hfault : (s.wakeFor off).winWrite m off bytes = (s.wakeFor off).accFault m := by
      rcases h with ⟨core, o, hw, ho, hd⟩ | ⟨hw, hb, hr⟩
      · exact State.winWrite_undrained hsz hm hw ho ((s.drained_wakeFor off core).trans hd)
      · exact State.winWrite_retired hsz hw ((s.bankStopped_wakeFor off off _).trans hb) hm ((s.hitsRetired_wakeFor off off _).trans hr)
    rw [hfault] at hrun
    obtain ⟨hcount, hmid, he⟩ := s.accFault_wakeFor off m
    have hbytes : ((s.wakeFor off).accFault m).mem = s.mem := by rw [he]
    exact ⟨_, hrun, hcount, hmid, fun a => congrArg (Memory.get · a) hbytes, he.reports⟩

end Sys2Proof.Machine
end

section
/-! PROOFS. The cells of the Hawk (R29, R296 to R303): which cell a grant takes, what a free and a credit change, and errors of the ECC. -/

namespace Sys2Proof.Machine
open Sys2Proof

/-! ### A cell put into a state -/

theorem State.cell_of_hawk {s t : State} (h : t.hawk = s.hawk) (k : Nat) : t.cell k = s.cell k := by
  unfold State.cell
  rw [h]

@[simp] theorem State.cell_setCell (s : State) (k : Nat) (c : CellSt) (a : Nat) : (s.setCell k c a).cell k = c := Table.get_set_same _ _ _ _

theorem State.cell_setCell_ne (s : State) {k j : Nat} (c : CellSt) (a : Nat) (h : j ≠ k) : (s.setCell k c a).cell j = s.cell j :=
  Table.get_set_ne _ _ _ h

theorem State.acct_setCell (s : State) (k : Nat) (c : CellSt) (a : Nat) : (s.setCell k c a).hawk.acct.get 0 k = a := Table.get_set_same _ _ _ _

/-! ### The cell that a grant takes (R297) -/

theorem State.lt_of_cellFree {s : State} {k : Nat} (h : s.cellFree k = true) : k < 32768 := by
  simp only [State.cellFree, Bool.and_eq_true, decide_eq_true_eq] at h
  exact h.1.1

theorem State.cell_of_cellFree {s : State} {k : Nat} (h : s.cellFree k = true) : s.cell k = .free := by
  simp only [State.cellFree, Bool.and_eq_true, decide_eq_true_eq] at h
  exact h.2

theorem State.sliceOn_of_cellFree {s : State} {k : Nat} (h : s.cellFree k = true) : s.sliceOn (k / 8192) = true := by
  simp only [State.cellFree, Bool.and_eq_true, decide_eq_true_eq] at h
  exact h.1.2

theorem State.cellFree_of_firstFree {s : State} {k n j : Nat} (h : s.firstFree k n = some j) : s.cellFree j = true := by
  induction n generalizing k with
  | zero => cases h
  | succ n ih =>
    unfold State.firstFree at h
    split at h
    next hk =>
      cases h
      exact hk
    next hk => exact ih h

/-- A search that covers a free cell finds one. -/
theorem State.firstFree_isSome {s : State} {k n j : Nat} (hj : s.cellFree j = true) (h : k ≤ j ∧ j < k + n) : (s.firstFree k n).isSome = true := by
  induction n generalizing k with
  | zero => omega
  | succ n ih =>
    unfold State.firstFree
    split
    next hk => rfl
    next hk =>
      have hne : k ≠ j := by
        rintro rfl
        exact hk hj
      exact ih (by omega)

theorem State.cellFree_of_freeIn {s : State} {q k : Nat} (h : s.freeIn q = some k) : s.cellFree k = true := by
  unfold State.freeIn at h
  dsimp only at h
  split at h
  · split at h
    next hp =>
      cases h
      exact (Bool.and_eq_true_iff.mp hp).2
    next hp => exact State.cellFree_of_firstFree h
  · cases h

/-- An awake slice in service with a free cell has one to give (R403). -/
theorem State.freeIn_isSome {s : State} {k : Nat} (hk : s.cellFree k = true) (hl : (s.dom (127 + k / 8192)).level = 0) :
    (s.freeIn (k / 8192)).isSome = true := by
  unfold State.freeIn
  dsimp only
  rw [State.sliceOn_of_cellFree hk, hl, if_pos (by rfl)]
  split
  · rfl
  · exact State.firstFree_isSome hk (by omega)

/-- A search that keeps the first answer is that of the library. -/
theorem foldl_eq_findSome? {α β : Type} {f : β → Option α} {g : Option α → β → Option α} (hn : ∀ b, g none b = f b)
    (hs : ∀ a b, g (some a) b = some a) (l : List β) : l.foldl g none = l.findSome? f := by
  have hkeep : ∀ (l : List β) (a : α), l.foldl g (some a) = some a := fun l => by
    induction l with
    | nil => exact fun _ => rfl
    | cons b l ih => exact fun a => by rw [List.foldl_cons, hs, ih]
  induction l with
  | nil => rfl
  | cons b l ih =>
    rw [List.foldl_cons, hn, List.findSome?_cons]
    cases f b with
    | none => exact ih
    | some a => exact hkeep l a

theorem State.pickCell_eq (s : State) (home : Nat) : s.pickCell home = (List.range 4).findSome? fun i => s.freeIn ((home + i) % 4) :=
  foldl_eq_findSome? (fun _ => rfl) (fun _ _ => rfl) _

theorem State.cellFree_of_pickCell {s : State} {home k : Nat} (h : s.pickCell home = some k) : s.cellFree k = true := by
  rw [State.pickCell_eq] at h
  obtain ⟨i, -, hi⟩ := List.exists_of_findSome?_eq_some h
  exact State.cellFree_of_freeIn hi

/-- From whatever home slice, a free cell of an awake slice in service is enough (R297). -/
theorem State.exists_pickCell {s : State} (home : Nat) {k : Nat} (hk : s.cellFree k = true) (hl : (s.dom (127 + k / 8192)).level = 0) :
    ∃ j, s.pickCell home = some j := by
  rw [← Option.isSome_iff_exists, State.pickCell_eq, List.findSome?_isSome_iff]
  have lt := State.lt_of_cellFree hk
  refine ⟨(k / 8192 + 4 - home % 4) % 4, List.mem_range.mpr (Nat.mod_lt _ (by decide)), ?_⟩
  rw [show (home + (k / 8192 + 4 - home % 4) % 4) % 4 = k / 8192 by omega]
  exact State.freeIn_isSome hk hl

/-- What a grant that is allowed answers. -/
theorem State.grant_eq {s : State} {home a k : Nat} (c : CellSt) (ha : s.grantOk a = true) (hk : s.pickCell home = some k) :
    s.grant home a c = some (k, { s.setCell k c (a + 1) with freeNext := s.freeNext + 1 }) := by
  simp [State.grant, ha, hk]

/-! ### Nobody waits for a cell -/

/-- With no waiting request and no channel that waits for a ledger entry, nothing follows a free (R220, R300). -/
theorem State.served_of_noneWait {s : State} (h : s.noneWait) : s.served = s := by
  obtain ⟨hw, hc⟩ := h
  have hlist : s.waitList (· == .ledger) = [] := by
    have hnone : (s.chans.filter fun e => e.2.parked && e.2.why == .ledger) = [] := by
      rw [List.filter_eq_nil_iff]
      intro e he
      simpa using hc e he
    simp [State.waitList, hnone]
  have hserve : s.serveGrants [] s.hawk.waits.length = s := by
    rw [hw]
    rfl
  unfold State.served
  dsimp only
  rw [hserve, hlist]
  rfl

/-! ### Rows of the allocator's registers -/

/-- The state with the Hawk's allocator replaced. -/
def State.setHawk (s : State) (h : Hawk) : State := { s with hawk := h }

/-- Reports leave the allocator alone. -/
theorem Emits.setHawk {s t : State} {h : Hawk} (he : Emits (s.setHawk h) t) : t.hawk = h ∧ Reports { s with hawk := t.hawk } t := by
  have hk : t.hawk = h := by rw [he]; rfl
  rw [hk]
  exact ⟨rfl, he.reports⟩

theorem exec_hwkAlloc {s : State} {m : Nat} (ctx : Nat) (ha : s.admits m hwkBase = true) :
    exec (.hwkAlloc m ctx) s = .next (s.hwkAlloc m ctx) :=
  congrArg Host.Outcome.next (State.accessR_of_admits (fun s => s.hwkAlloc m ctx) ha (by decide) (offDom_eq_none (by decide)))

theorem runs_hwkAlloc {s : State} {m : Nat} (ctx : Nat) {k0 : Nat} (ha : s.admits m hwkBase = true) (hr : rightsOk m hwkBase = true)
    (hg : s.grantOk (s.acctOf m ctx) = true) (hf : s.cellFree k0 = true) (hl : (s.dom (127 + k0 / 8192)).level = 0) :
    Runs (.hwkAlloc m ctx) s fun t => ∃ k, s.cellFree k = true ∧ t.cell k = .held m (heldCtx m ctx) ∧
      t.hawk.acct.get 0 k = s.acctOf m ctx + 1 ∧ t.readOut.toNat = k + 0x8000 ∧ (∀ j, j ≠ k → t.cell j = s.cell j) ∧
      t = { s with hawk := t.hawk, readOut := t.readOut, freeNext := s.freeNext + 1 } := by
  obtain ⟨k, hk⟩ := State.exists_pickCell (homeSlice m) hf hl
  have hfree := State.cellFree_of_pickCell hk
  have lt := State.lt_of_cellFree hfree
  have hrun : s.hwkAlloc m ctx =
      ({ s.setCell k (.held m (heldCtx m ctx)) (s.acctOf m ctx + 1) with freeNext := s.freeNext + 1 } : State).out (k + 0x8000) := by
    simp [State.hwkAlloc, hr, State.grant_eq _ hg hk]
  have hhawk : (s.hwkAlloc m ctx).hawk = (s.setCell k (.held m (heldCtx m ctx)) (s.acctOf m ctx + 1)).hawk := by
    rw [hrun]
    rfl
  have hout : (s.hwkAlloc m ctx).readOut.toNat = k + 0x8000 := by
    rw [hrun, State.out_readOut, BitVec.toNat_ofNat]
    exact Nat.mod_eq_of_lt (by omega)
  have hframe : s.hwkAlloc m ctx =
      { s with hawk := (s.hwkAlloc m ctx).hawk, readOut := (s.hwkAlloc m ctx).readOut, freeNext := s.freeNext + 1 } := by
    rw [hrun]
    rfl
  refine ⟨_, exec_hwkAlloc ctx ha, k, hfree, ?_, ?_, hout, fun j hj => ?_, hframe⟩
  · rw [State.cell_of_hawk hhawk, State.cell_setCell]
  · rw [hhawk, State.acct_setCell]
  · rw [State.cell_of_hawk hhawk, State.cell_setCell_ne s _ _ hj]

section Free

variable {s : State} {m : Nat} {v : Word32} (ha : s.admits m (hwkBase + 4) = true) (hr : rightsOk m (hwkBase + 4) = true) (hv : bitOf v 16 = false)

include ha

theorem exec_hwkFree (v : Word32) : exec (.hwkFree m v) s = .next (s.hwkFree m v) :=
  congrArg Host.Outcome.next (State.access_of_admits (fun s => s.hwkFree m v) ha (by decide) (offDom_eq_none (by decide)))

include hr hv

theorem runs_hwkFree_held (hh : s.heldBy m (bitsOf v 0 15) = true) (hn : s.noneWait) :
    Runs (.hwkFree m v) s fun t => t.cell (bitsOf v 0 15) = .free ∧ (∀ j, j ≠ bitsOf v 0 15 → t.cell j = s.cell j) ∧ t = { s with hawk := t.hawk } := by
  have hret : s.retiredCell (bitsOf v 0 15) = false := by
    unfold State.heldBy at hh
    unfold State.retiredCell
    split at hh <;> simp_all
  have hrun : s.hwkFree m v = (s.setCell (bitsOf v 0 15) .free 0).served := by
    simp [State.hwkFree, hr, State.freeNames, hv, hh, State.each, State.freeOne, hret]
  rw [State.served_of_noneWait (s := s.setCell _ _ _) hn] at hrun
  refine ⟨_, (exec_hwkFree ha v).trans (congrArg _ hrun), State.cell_setCell s _ _ _, fun j hj => State.cell_setCell_ne s _ _ hj, rfl⟩

theorem runs_hwkFree_notHeld (hh : s.heldBy m (bitsOf v 0 15) = false) :
    Runs (.hwkFree m v) s fun t => t.hawk = { s.hawk with badFree := satInc s.hawk.badFree } ∧ Reports { s with hawk := t.hawk } t := by
  have hrun : s.hwkFree m v = (s.setHawk { s.hawk with badFree := satInc s.hawk.badFree }).accFault m := by
    simp [State.hwkFree, hr, State.freeNames, hv, hh, State.setHawk]
  exact ⟨_, (exec_hwkFree ha v).trans (congrArg _ hrun), (State.accFault_emits _ m (Emits.refl _)).setHawk⟩

end Free

/-! ### Reserves (R303) -/

/-- A configuration master has the right to every register block (R36). -/
theorem rightsOk_of_isConfigMaster {m : Nat} (off : Nat) (hm : isConfigMaster m = true) : rightsOk m off = true := by
  simp only [isConfigMaster, Bool.or_eq_true] at hm
  rcases hm with hm | hm <;> simp [rightsOk, hm]

/-- The allocator with an account's reserve and ceiling as a write of HWK_CLS sets them. -/
def Hawk.setCls (h : Hawk) (a : Nat) (v : Word32) : Hawk :=
  { h with rsv := h.rsv.set a (BitVec.ofNat 16 (bitsOf v 0 16)), ceil := h.ceil.set a (BitVec.ofNat 16 (bitsOf v 16 16)) }

theorem toNat_ofNat_bitsOf (v : Word32) (lo : Nat) : (BitVec.ofNat 16 (bitsOf v lo 16)).toNat = bitsOf v lo 16 :=
  (BitVec.toNat_ofNat _ _).trans (Nat.mod_eq_of_lt (Nat.mod_lt _ (by decide)))

theorem State.rsv_setCls {s t : State} {a : Nat} {v : Word32} (h : t.hawk = s.hawk.setCls a v) :
    t.rsv a = bitsOf v 0 16 ∧ t.ceil a = bitsOf v 16 16 := by
  unfold State.rsv State.ceil
  rw [h]
  exact ⟨(congrArg BitVec.toNat (Table.get_set_same _ _ _ _)).trans (toNat_ofNat_bitsOf v 0),
    (congrArg BitVec.toNat (Table.get_set_same _ _ _ _)).trans (toNat_ofNat_bitsOf v 16)⟩

theorem State.rsv_setCls_ne {s t : State} {a b : Nat} {v : Word32} (h : t.hawk = s.hawk.setCls a v) (hb : b ≠ a) :
    t.rsv b = s.rsv b ∧ t.ceil b = s.ceil b := by
  unfold State.rsv State.ceil
  rw [h]
  exact ⟨congrArg BitVec.toNat (Table.get_set_ne _ _ _ hb), congrArg BitVec.toNat (Table.get_set_ne _ _ _ hb)⟩

/-- BAR0 offset of an account's register: HWK_SYS_CFG, or HWK_CLS of a class (R303). -/
def hwkClsOff (a : Nat) : Nat := hwkBase + if a = 64 then 0x20 else 0x100 + 8 * a

theorem runs_hwkClsWrite {s : State} {m a : Nat} {v : Word32} (ha : s.admits m hwkBase = true) (hm : isConfigMaster m = true) (hle : a ≤ 64)
    (hsum : s.rsvSum a (bitsOf v 0 16) + 1024 ≤ s.gctl.cells.toNat) (hn : s.noneWait) :
    Runs (.hwkClsWrite m a v) s fun t => t.rsv a = bitsOf v 0 16 ∧ t.ceil a = bitsOf v 16 16 ∧
      (∀ b, b ≠ a → t.rsv b = s.rsv b ∧ t.ceil b = s.ceil b) ∧ t.hawk.cells = s.hawk.cells ∧ Reports { s with hawk := t.hawk } t := by
  have hrun : s.hwkCls m a v = ((s.setHawk (s.hawk.setCls a v)).cfgMirror (hwkClsOff a) 4 v.toNat).served := by
    have hrights := rightsOk_of_isConfigMaster hwkBase hm
    simp [State.hwkCls, hrights, hm, Nat.not_lt.mpr hle, Nat.not_lt.mpr hsum]
    rfl
  have he := State.cfgMirror_emits (s.setHawk (s.hawk.setCls a v)) (hwkClsOff a) 4 v.toNat (Emits.refl _)
  obtain ⟨hk, hrep⟩ := he.setHawk
  have hnone : ((s.setHawk (s.hawk.setCls a v)).cfgMirror (hwkClsOff a) 4 v.toNat).noneWait := by
    refine ⟨?_, ?_⟩
    · rw [hk]
      exact hn.1
    · rw [he]
      exact hn.2
  rw [State.served_of_noneWait hnone] at hrun
  obtain ⟨hrsv, hceil⟩ := State.rsv_setCls hk
  refine ⟨_, congrArg Host.Outcome.next ((State.access_of_admits (fun s => s.hwkCls m a v) ha (by decide) (offDom_eq_none (by decide))).trans hrun),
    hrsv, hceil, fun b hb => State.rsv_setCls_ne hk hb, ?_, hrep⟩
  rw [hk]
  rfl

/-! ### Credits (R298) -/

/-- From s to t only free cells have gone into the credit of a producer. -/
def CreditsOnly (s t : State) (p : Nat) : Prop :=
  (∀ j, s.cell j ≠ .free → t.cell j = s.cell j) ∧ (∀ j, t.cell j = s.cell j ∨ t.cell j = .credit p) ∧
    t = { s with hawk := t.hawk, freeNext := t.freeNext }

theorem CreditsOnly.refl (s : State) (p : Nat) : CreditsOnly s s p := ⟨fun _ _ => rfl, fun _ => .inl rfl, rfl⟩

theorem CreditsOnly.trans {r s t : State} {p : Nat} (h : CreditsOnly r s p) (g : CreditsOnly s t p) : CreditsOnly r t p := by
  obtain ⟨hbusy, hcell, hframe⟩ := h
  obtain ⟨gbusy, gcell, gframe⟩ := g
  refine ⟨fun j hj => ?_, fun j => ?_, ?_⟩
  · have hs := hbusy j hj
    exact (gbusy j (hs ▸ hj)).trans hs
  · rcases gcell j with g | g
    · exact (hcell j).imp g.trans g.trans
    · exact .inr g
  · rw [hframe] at gframe
    exact gframe

/-- A free cell goes into the credit. -/
theorem CreditsOnly.setCell {s : State} {k : Nat} (p n : Nat) (hk : s.cellFree k = true) :
    CreditsOnly s { s.setCell k (.credit p) 0 with freeNext := n } p := by
  refine ⟨fun j hj => ?_, fun j => ?_, rfl⟩
  · have hne : j ≠ k := by
      rintro rfl
      exact hj (State.cell_of_cellFree hk)
    exact State.cell_setCell_ne s _ _ hne
  · by_cases hj : j = k
    · subst hj
      exact .inr (State.cell_setCell s j _ _)
    · exact .inl (State.cell_setCell_ne s _ _ hj)

theorem State.refill_creditsOnly (s : State) (p n : Nat) : CreditsOnly s (s.refill p n) p := by
  induction n generalizing s with
  | zero => exact CreditsOnly.refl s p
  | succ n ih =>
    unfold State.refill
    split
    next h => exact CreditsOnly.refl s p
    next k h => exact (CreditsOnly.setCell p _ (State.cellFree_of_pickCell h)).trans (ih _)

theorem runs_creditRefill (s : State) (p : Nat) : Runs (.creditRefill p) s fun t => CreditsOnly s t p := by
  refine ⟨_, rfl, ?_⟩
  split
  · exact s.refill_creditsOnly p _
  · exact CreditsOnly.refl s p

/-! ### Errors of the ECC (R29) -/

/-- A free cell is retired alone. -/
theorem runs_eccHawkCell {s : State} {k : Nat} (lt : k < 32768) (hf : s.cell k = .free) (hd : s.die = .ready) (hn : s.noneWait) :
    Runs (.eccUncorrectableError (.hawkCell k)) s fun t => t.cell k = .retired ∧ (∀ j, j ≠ k → t.cell j = s.cell j) ∧ t.chans = s.chans ∧ t.mem = s.mem := by
  have hret : s.retireCell k = s.retire k := by
    have hne : s.retiredCell k = false := by simp [State.retiredCell, hf]
    simp [State.retireCell, Nat.not_le.mpr lt, hne, hf]
  have he : Emits (s.withdraw k) (s.retire k) := State.pulse_emits _ _ (Emits.refl _)
  have hcells : ∀ j, (s.retire k).cell j = (s.setCell k .retired 0).cell j := fun j => by
    rw [he]
    rfl
  have hchans : (s.retire k).chans = s.chans := by
    rw [he]
    rfl
  have hnone : (s.retire k).noneWait := by
    refine ⟨?_, hchans ▸ hn.2⟩
    rw [he]
    exact hn.1
  have hrun : exec (.eccUncorrectableError (.hawkCell k)) s = .next (s.retire k) := by
    show Host.Outcome.next (if s.die ≠ .ready then _ else (s.retireCell k).served) = _
    rw [if_neg (not_not_intro hd), hret, State.served_of_noneWait hnone]
  refine ⟨_, hrun, ?_, fun j hj => ?_, hchans, ?_⟩
  · exact (hcells k).trans (State.cell_setCell s k _ _)
  · exact (hcells j).trans (State.cell_setCell_ne s _ _ hj)
  · rw [he]
    rfl

/-- A property that every step of a fold keeps holds at its end. -/
theorem State.each_induction {α : Type} {P : State → Prop} {s : State} (l : List α) {f : State → α → State} (hs : P s)
    (step : ∀ t a, P t → P (f t a)) : P (s.each l f) := by
  induction l generalizing s with
  | nil => exact hs
  | cons a l ih => exact ih (step s a hs)

/-- A halted die with the channels and the memory of s. -/
def HaltedWith (s t : State) : Prop := t.die = .halted ∧ t.chans = s.chans ∧ t.mem = s.mem

theorem HaltedWith.emits {s t u : State} (h : HaltedWith s t) (he : Emits t u) : HaltedWith s u := by
  rw [he]
  exact h

theorem State.allSafe_haltedWith (s : State) : HaltedWith s ({ s with die := .halted } : State).allSafe :=
  State.each_induction (s.ports.map (·.1)) ⟨rfl, rfl, rfl⟩ fun _ _ ⟨hd, hc, hm⟩ => ⟨hd, hc, hm⟩

theorem State.journalOpen_haltedWith {s t : State} (ht : HaltedWith s t) : HaltedWith s t.journalOpen := by
  have hrec : ∀ (u : State) (x : Nat), HaltedWith s u → HaltedWith s (u.journalRec stIndeterminate true false false midFwc x) :=
    fun u x hu => hu.emits (State.journalRec_emits _ _ _ _ _ _ _ (Emits.refl u))
  unfold State.journalOpen
  extract_lets slots s1 s2
  have h1 : HaltedWith s s1 := State.each_induction _ ht fun u e hu => hrec u _ hu
  have h2 : HaltedWith s s2 := State.each_induction _ h1 fun u e hu => hrec u _ hu
  split
  · exact h2
  · exact h2

/-- A halt leaves the channels and the memory as they are (R194). -/
theorem State.haltDie_haltedWith {s : State} (h : s.die ≠ .halted) : HaltedWith s s.haltDie := by
  unfold State.haltDie
  rw [if_neg h]
  extract_lets s1 s2 s3 s4
  have h1 : HaltedWith s s1 := State.allSafe_haltedWith s
  clear_value s1
  have h3 : HaltedWith s s3 := (State.journalOpen_haltedWith (t := s2) h1).emits (State.flushJournal_emits _ (Emits.refl _))
  clear_value s3
  have h4 : HaltedWith s s4 := h3.emits (State.sendHb_emits s3 true (Emits.refl s3))
  clear_value s4
  exact h4

/-- Settles O32: each row is run to the operation on cells that it is, after which nobody waits. -/
theorem hawkCells : Obligations.HawkCells := by
  intro s
  exact ⟨fun m ctx k0 ha hr hg hf hl => runs_hwkAlloc ctx ha hr hg hf hl, fun m v ha hr hv hh hn => runs_hwkFree_held ha hr hv hh hn,
    fun m v ha hr hv hh => runs_hwkFree_notHeld ha hr hv hh, fun m a v ha hm hle hsum hn => runs_hwkClsWrite ha hm hle hsum hn,
    fun p _ _ => runs_creditRefill s p, fun loc => ⟨_, rfl, rfl⟩, fun k lt hf hd hn => runs_eccHawkCell lt hf hd hn,
    fun hd => ⟨s.haltDie, congrArg Host.Outcome.next (if_neg (not_not_intro hd)), State.haltDie_haltedWith (by rw [hd]; decide)⟩⟩

end Sys2Proof.Machine
end

section
/-! PROOFS. Queries of the admin queue (R373 to R377, R383, R392, R393): what sending leaves of the modules, a reply to the only command in
progress, and the rows that are a reply. -/

namespace Sys2Proof.Machine
open Sys2Proof

/-! ### What sending leaves of the modules -/

/-- A module has only been given more to send: its traffic is held or not as before, it may issue requests or not as before, and nothing has
left its egress queue. -/
def Link.Grew (l k : Link) : Prop := k.holding = l.holding ∧ k.canIssue = l.canIssue ∧ ∀ e ∈ l.queue, e ∈ k.queue

theorem Link.Grew.refl (l : Link) : l.Grew l := ⟨rfl, rfl, fun _ h => h⟩

theorem Link.Grew.trans {l k j : Link} (h : l.Grew k) (g : k.Grew j) : l.Grew j := by
  obtain ⟨hhold, hissue, hqueue⟩ := h
  obtain ⟨ghold, gissue, gqueue⟩ := g
  exact ⟨ghold.trans hhold, gissue.trans hissue, fun e he => gqueue e (hqueue e he)⟩

/-- Both modules have only been given more to send. -/
def LinksGrew (s t : State) : Prop := ∀ md, (s.link md).Grew (t.link md)

theorem LinksGrew.of_links {s t : State} (h0 : t.link0 = s.link0) (h1 : t.link1 = s.link1) : LinksGrew s t := fun md => by
  unfold State.link
  rw [h0, h1]
  exact Link.Grew.refl _

theorem LinksGrew.refl (s : State) : LinksGrew s s := .of_links rfl rfl

theorem LinksGrew.trans {r s t : State} (h : LinksGrew r s) (g : LinksGrew s t) : LinksGrew r t := fun md => (h md).trans (g md)

/-- The number 0 names the one module, and every other number the other. -/
theorem State.link_congr (s : State) {i md : Nat} (h : i = 0 ↔ md = 0) : s.link i = s.link md := by
  unfold State.link
  simp only [h]

theorem State.link_setLink_other (s : State) {i md : Nat} (l : Link) (h : ¬ (i = 0 ↔ md = 0)) : (s.setLink md l).link i = s.link i := by
  unfold State.setLink State.link
  by_cases hm : md = 0
  · have hi : i ≠ 0 := fun hi => h ⟨fun _ => hm, fun _ => hi⟩
    simp [hm, hi]
  · have hi : i = 0 := Classical.not_not.mp fun hi => h ⟨fun h0 => absurd h0 hi, fun h0 => absurd h0 hm⟩
    simp [hm, hi]

theorem LinksGrew.setLink {s : State} {md : Nat} {l : Link} (h : (s.link md).Grew l) : LinksGrew s (s.setLink md l) := fun i => by
  by_cases hi : i = 0 ↔ md = 0
  · rwa [State.link_congr s hi, State.link_congr (s.setLink md l) hi, State.link_setLink]
  · rw [s.link_setLink_other l hi]
    exact Link.Grew.refl _

theorem State.wantLink_grew (s : State) (md : Nat) : LinksGrew s (s.wantLink md) := by
  have hl : (s.link md).Grew (if (s.link md).lstate = 1 ∨ (s.link md).lstate = 2 then { s.link md with exiting := true } else s.link md) := by
    split <;> exact ⟨rfl, rfl, fun _ h => h⟩
  have hwake : ∀ t : State, LinksGrew t { t with wakeOut := true } := fun t => .of_links rfl rfl
  unfold State.wantLink
  dsimp only
  generalize (if (s.link md).lstate = 1 ∨ (s.link md).lstate = 2 then _ else _) = l at hl ⊢
  split
  · refine LinksGrew.trans ?_ (hwake _)
    exact LinksGrew.setLink (hl.trans ⟨rfl, rfl, fun _ h => h⟩)
  · exact LinksGrew.setLink hl

theorem State.wantMsix_grew (s : State) (md : Nat) : LinksGrew s (s.wantMsix md) := by
  unfold State.wantMsix
  split
  · exact s.wantLink_grew md
  · exact LinksGrew.refl s

theorem State.egress_grew (s : State) (md : Nat) (kind : EgKind) (addr : Word64) (bytes : List Byte) (relaxed : Bool) :
    LinksGrew s (s.egress md kind addr bytes relaxed) := by
  unfold State.egress
  dsimp only
  split
  · exact LinksGrew.setLink ⟨rfl, rfl, fun _ h => h⟩
  · refine LinksGrew.trans ?_ (State.wantLink_grew _ md)
    exact LinksGrew.setLink ⟨rfl, rfl, fun _ h => List.mem_append_left _ h⟩

theorem State.sendMsix_grew (s : State) (md v : Nat) : LinksGrew s (s.sendMsix md v) := by
  unfold State.sendMsix
  dsimp only
  split
  · split
    · exact LinksGrew.refl s
    · exact LinksGrew.setLink ⟨rfl, rfl, fun _ h => h⟩
  · exact s.egress_grew md _ _ _ _

theorem State.closeBatch_grew (s : State) (md v : Nat) : LinksGrew s (s.closeBatch md v) := by
  unfold State.closeBatch
  split
  · exact LinksGrew.trans (s := { s with batches := _ }) (.of_links rfl rfl) (State.sendMsix_grew _ md v)
  · split
    · exact LinksGrew.refl s
    · exact LinksGrew.trans (s := { s with batches := _ }) (.of_links rfl rfl) (State.wantMsix_grew _ md)

theorem State.msixEvent_grew (s : State) (n : Nat) : LinksGrew s (s.msixEvent n) := by
  have due : ∀ md, LinksGrew s ((s.updSrc n fun x => { x with due := true }).wantMsix md) := fun md =>
    LinksGrew.trans (s := s.updSrc n _) (.of_links rfl rfl) (State.wantMsix_grew _ md)
  unfold State.msixEvent
  dsimp only
  split
  · exact due _
  · split
    · split
      · exact s.sendMsix_grew _ _
      · exact due _
    · split
      · exact LinksGrew.trans (s := { s with batches := _ }) (.of_links rfl rfl) (State.closeBatch_grew _ _ _)
      · exact LinksGrew.trans (s := { s with batches := _ }) (.of_links rfl rfl) (State.wantMsix_grew _ _)

theorem State.wakeDomain_grew (s : State) (d cause : Nat) : LinksGrew s (s.wakeDomain d cause) := by
  unfold State.wakeDomain
  split <;> exact .of_links rfl rfl

theorem State.route_grew (s : State) (n : Nat) : LinksGrew s (s.route n) := by
  unfold State.route
  dsimp only
  split
  · split
    · exact .of_links rfl rfl
    · exact LinksGrew.trans (s := s.setSrc n _) (.of_links rfl rfl) (State.wakeDomain_grew _ _ _)
  · split <;> exact .of_links rfl rfl

theorem State.present_grew (s : State) (n : Nat) : LinksGrew s (s.present n) := by
  unfold State.present
  dsimp only
  split
  · exact LinksGrew.refl s
  · split
    · split
      · exact LinksGrew.refl s
      · exact s.route_grew n
    · exact s.msixEvent_grew n

theorem State.edge_grew (s : State) (n : Nat) : LinksGrew s (s.edge n) :=
  LinksGrew.trans (s := s.updSrc n _) (.of_links rfl rfl) (State.present_grew _ n)

theorem State.heldPulse_grew {r s : State} (s0 : State) (h : LinksGrew r s) : LinksGrew r (s0.heldPulse s) := by
  have h1 : LinksGrew r (if s.heldSet 0 && !s0.heldSet 0 then s.edge 0x408 else s) := by
    split
    · exact h.trans (s.edge_grew _)
    · exact h
  unfold State.heldPulse
  dsimp only
  split
  · exact h1.trans (State.edge_grew _ _)
  · exact h1

theorem State.pulse_grew (s : State) (n : Nat) : LinksGrew s (s.pulse n) := by
  unfold State.pulse
  split
  · exact LinksGrew.refl s
  · exact State.heldPulse_grew s (s.edge_grew n)

/-! ### Records sent and batches closed -/

theorem State.send_signals (s : State) (md : Nat) (kind : EgKind) (addr : Word64) (bytes : List Byte) (relaxed : Bool) :
    Signals s (s.send md kind addr bytes relaxed) := State.heldPulse_signals s (s.egress_signals md kind addr bytes relaxed)

theorem State.send_grew (s : State) (md : Nat) (kind : EgKind) (addr : Word64) (bytes : List Byte) (relaxed : Bool) :
    LinksGrew s (s.send md kind addr bytes relaxed) := State.heldPulse_grew s (s.egress_grew md kind addr bytes relaxed)

/-- Data written to host memory are records sent, one after the other (R66). -/
theorem State.writeHost_sends (s : State) (md : Nat) (kind : EgKind) (addr : Nat) (l : List Byte) (relaxed : Bool) (n : Nat) :
    Signals s (s.writeHost md kind addr l relaxed n) ∧ LinksGrew s (s.writeHost md kind addr l relaxed n) := by
  induction n generalizing s addr l with
  | zero => exact ⟨Signals.refl s, LinksGrew.refl s⟩
  | succ n ih =>
    unfold State.writeHost
    split
    · exact ⟨Signals.refl s, LinksGrew.refl s⟩
    · obtain ⟨hsig, hgrew⟩ := ih (s.send md kind (BitVec.ofNat 64 addr) (l.take _) relaxed) (addr + _) (l.drop _)
      exact ⟨(s.send_signals md kind _ _ relaxed).trans hsig, (s.send_grew md kind _ _ relaxed).trans hgrew⟩

theorem State.flushModule_sends (s : State) (md : Nat) : Signals s (s.flushModule md) ∧ LinksGrew s (s.flushModule md) :=
  State.each_induction (P := fun t => Signals s t ∧ LinksGrew s t) _ ⟨Signals.refl s, LinksGrew.refl s⟩ fun _ _ ⟨hsig, hgrew⟩ =>
    ⟨hsig.trans (State.closeBatch_signals _ _ _), hgrew.trans (State.closeBatch_grew _ _ _)⟩

/-- From s to t only the modules, and with them WAKE_OUT_N, have changed. -/
def LinksOnly (s t : State) : Prop := t = { s with link0 := t.link0, link1 := t.link1, wakeOut := t.wakeOut }

theorem LinksOnly.trans {r s t : State} (h : LinksOnly r s) (g : LinksOnly s t) : LinksOnly r t := by
  unfold LinksOnly at *
  rw [h] at g
  exact g

theorem LinksOnly.batches {s t : State} (h : LinksOnly s t) : t.batches = s.batches := by rw [h]

theorem LinksOnly.srcs {s t : State} (h : LinksOnly s t) : t.srcs = s.srcs := by rw [h]

theorem State.setLink_linksOnly (s : State) (md : Nat) (l : Link) : LinksOnly s (s.setLink md l) := by
  unfold State.setLink
  split <;> rfl

theorem State.egress_linksOnly (s : State) (md : Nat) (kind : EgKind) (addr : Word64) (bytes : List Byte) (relaxed : Bool) :
    LinksOnly s (s.egress md kind addr bytes relaxed) := by
  have hwant : ∀ t : State, LinksOnly t (t.wantLink md) := fun t => by
    unfold State.wantLink
    dsimp only
    split
    · exact (t.setLink_linksOnly md _).trans rfl
    · exact t.setLink_linksOnly md _
  unfold State.egress
  dsimp only
  split
  · exact s.setLink_linksOnly md _
  · exact (s.setLink_linksOnly md _).trans (hwant _)

theorem State.sendMsix_linksOnly (s : State) (md v : Nat) : LinksOnly s (s.sendMsix md v) := by
  unfold State.sendMsix
  dsimp only
  split
  · split
    · rfl
    · exact s.setLink_linksOnly md _
  · exact s.egress_linksOnly md _ _ _ _

/-! ### Batches closed by a flush -/

/-- A batch that closes while its function can send leaves the open ones, and no source changes (R334). -/
theorem State.closeBatch_closes {s : State} {md : Nat} (v : Nat) (h : (s.link md).canIssue = true) :
    (s.closeBatch md v).batches = s.batches.filter (fun b => b.1 ≠ md * 2048 + v) ∧ (s.closeBatch md v).srcs = s.srcs := by
  have heq : s.closeBatch md v = { s with batches := s.batches.filter fun b => b.1 ≠ md * 2048 + v }.sendMsix md v := if_pos h
  rw [heq]
  exact ⟨(State.sendMsix_linksOnly _ md v).batches, (State.sendMsix_linksOnly _ md v).srcs⟩

/-- Of the batches of a list that close one after the other none stays open. -/
theorem State.closeEach_closes {s : State} {md : Nat} (l : List (Nat × Batch)) (h : (s.link md).canIssue = true) :
    (s.each l fun s b => s.closeBatch md (b.1 % 2048)).srcs = s.srcs ∧
      ∀ b ∈ (s.each l fun s b => s.closeBatch md (b.1 % 2048)).batches, b ∈ s.batches ∧ ∀ x ∈ l, b.1 ≠ md * 2048 + x.1 % 2048 := by
  induction l generalizing s with
  | nil => exact ⟨rfl, fun b hb => ⟨hb, fun x hx => nomatch hx⟩⟩
  | cons x l ih =>
    obtain ⟨hbatches, hsrcs⟩ := State.closeBatch_closes (x.1 % 2048) h
    obtain ⟨-, hissue, -⟩ := s.closeBatch_grew md (x.1 % 2048) md
    obtain ⟨ihsrcs, ihbatches⟩ := ih (hissue.trans h)
    refine ⟨ihsrcs.trans hsrcs, fun b hb => ?_⟩
    obtain ⟨hin, hne⟩ := ihbatches b hb
    rw [hbatches, List.mem_filter, decide_eq_true_eq] at hin
    exact ⟨hin.1, List.forall_mem_cons.mpr ⟨hin.2, hne⟩⟩

theorem insertDesc_perm {α : Type} (f : α → Nat) (a : α) (l : List α) : (insertDesc f a l).Perm (a :: l) := by
  induction l with
  | nil => exact .refl _
  | cons b l ih =>
    unfold insertDesc
    split
    · exact .refl _
    · exact (ih.cons b).trans (.swap a b l)

theorem sortDesc_perm {α : Type} (f : α → Nat) (l : List α) : (sortDesc f l).Perm l := by
  induction l with
  | nil => exact .refl _
  | cons a l ih => exact (insertDesc_perm f a _).trans (ih.cons a)

/-- A flush of a module that can send closes every batch of it, and no source changes (R336, R393). -/
theorem State.flushModule_closes {s : State} {md : Nat} (h : (s.link md).canIssue = true) :
    (s.flushModule md).srcs = s.srcs ∧ ∀ b ∈ (s.flushModule md).batches, b ∈ s.batches ∧ b.1 / 2048 ≠ md := by
  obtain ⟨hsrcs, hbatches⟩ := State.closeEach_closes (sortDesc (fun b => s.topPrio b.2.srcs) (s.batches.filter fun b => b.1 / 2048 == md)) h
  refine ⟨hsrcs, fun b hb => ?_⟩
  obtain ⟨hin, hne⟩ := hbatches b hb
  refine ⟨hin, fun hmd => ?_⟩
  have hlisted : b ∈ s.batches.filter fun b => b.1 / 2048 == md := List.mem_filter.mpr ⟨hin, beq_iff_eq.mpr hmd⟩
  exact hne b ((sortDesc_perm _ _).mem_iff.mpr hlisted) (by omega)

end Sys2Proof.Machine
end

section
/-! PROOFS. The only command in progress is replied to (R375, R376), and the rows of the admin queue that are a query. -/

namespace Sys2Proof.Machine
open Sys2Proof

/-! ### A source that is off, and records that bring no HELD -/

/-- Where no HELD bit comes up, no LINK source pulses (R322). -/
theorem State.heldPulse_of_heldSet {s0 s : State} (h : ∀ md, s.heldSet md = true → s0.heldSet md = true) : s0.heldPulse s = s := by
  have hnot : ∀ md, (s.heldSet md && !s0.heldSet md) = false := fun md => by
    cases hs : s.heldSet md
    · rfl
    · simp [h md hs]
  simp [State.heldPulse, hnot]

/-- A write as it enters a module's egress queue. -/
def Link.nextWrite (l : Link) (kind : EgKind) (addr : Word64) (bytes : List Byte) (relaxed : Bool) : Egress :=
  { kind, addr, bytes, eqs := l.eqs + 1, relaxed := relaxed && l.cfg.roEn }

/-- A module with one more write in its egress queue. -/
def Link.pushed (l : Link) (w : Egress) : Link := { l with eqs := l.eqs + 1, queue := l.queue ++ [w] }

theorem State.wantLink_other (s : State) {i md : Nat} (h : ¬ (i = 0 ↔ md = 0)) : (s.wantLink md).link i = s.link i := by
  have hwake : ∀ t : State, ({ t with wakeOut := true } : State).link i = t.link i := fun _ => rfl
  unfold State.wantLink
  dsimp only
  split
  · rw [hwake, s.link_setLink_other _ h]
  · rw [s.link_setLink_other _ h]

section Flowing

variable {s : State} {md : Nat} (hh : (s.link md).holding = false) (kind : EgKind) (addr : Word64) (bytes : List Byte) (relaxed : Bool)

include hh

/-- A write to a module whose traffic flows enters its egress queue (R74). -/
theorem State.egress_flowing :
    s.egress md kind addr bytes relaxed = (s.setLink md ((s.link md).pushed ((s.link md).nextWrite kind addr bytes relaxed))).wantLink md :=
  if_neg (by rw [hh]; decide)

/-- It brings no HELD bit up. -/
theorem State.heldSet_egress (i : Nat) (h : (s.egress md kind addr bytes relaxed).heldSet i = true) : s.heldSet i = true := by
  by_cases hi : i = 0 ↔ md = 0
  · obtain ⟨hhold, -, -⟩ := s.egress_grew md kind addr bytes relaxed md
    have hflow : ((s.egress md kind addr bytes relaxed).link i).holding = false := by rw [State.link_congr _ hi, hhold, hh]
    simp [State.heldSet, hflow] at h
  · have hsame : (s.egress md kind addr bytes relaxed).link i = s.link i := by
      rw [State.egress_flowing hh, State.wantLink_other _ hi, State.link_setLink_other _ _ hi]
    simpa only [State.heldSet, hsame] using h

/-- A record sent to such a module is written there and no more. -/
theorem State.send_flowing : s.send md kind addr bytes relaxed = s.egress md kind addr bytes relaxed :=
  State.heldPulse_of_heldSet (State.heldSet_egress hh kind addr bytes relaxed)

/-- The write stands in the egress queue then. -/
theorem State.egress_mem : ∃ e ∈ ((s.egress md kind addr bytes relaxed).link md).queue, e.kind = kind ∧ e.addr = addr ∧ e.bytes = bytes := by
  have hmem : (s.link md).nextWrite kind addr bytes relaxed ∈
      ((s.setLink md ((s.link md).pushed ((s.link md).nextWrite kind addr bytes relaxed))).link md).queue := by
    rw [State.link_setLink]
    exact List.mem_append_right _ (List.mem_singleton.mpr rfl)
  obtain ⟨-, -, hq⟩ := (s.setLink md ((s.link md).pushed ((s.link md).nextWrite kind addr bytes relaxed))).wantLink_grew md md
  rw [State.egress_flowing hh]
  exact ⟨_, hq _ hmem, rfl, rfl, rfl⟩

end Flowing

theorem State.present_of_off {s : State} {n : Nat} (h : (s.src n).en = false) : s.present n = s := if_pos (by rw [h]; rfl)

/-- An event of a source that is off only sets its PEND bit (R323, R324). -/
theorem State.pulse_of_off {s : State} {n : Nat} (hn : srcReserved n = false) (hen : (s.src n).en = false) :
    s.pulse n = s.updSrc n fun x => { x with pend := true } := by
  have hoff : ((s.updSrc n fun x => { x with pend := true }).src n).en = false := by
    rw [State.updSrc_def, State.src_setSrc]
    exact hen
  have hedge : s.edge n = s.updSrc n fun x => { x with pend := true } := State.present_of_off hoff
  have hlinks : ∀ md, (s.edge n).heldSet md = true → s.heldSet md = true := by
    rw [hedge]
    exact fun md h => h
  unfold State.pulse
  rw [hn, if_neg (by decide), State.heldPulse_of_heldSet hlinks, hedge]

/-! ### The admin queue after the only command -/

/-- The state with the admin queue replaced. -/
def State.setAq (s : State) (a : Aq) : State := { s with aq := a }

theorem Signals.setAq {s t : State} (h : Signals s t) (a : Aq) : Signals (s.setAq a) (t.setAq a) := by
  unfold Signals State.setAq at *
  rw [h]

theorem Signals.reports {s t : State} (h : Signals s t) : Reports s t := by
  unfold Signals Reports at *
  rw [h]

theorem Signals.aq {s t : State} (h : Signals s t) : t.aq = s.aq := by rw [h]

/-- With no command in progress and no packet to read, the admin queue stands still (R371, R378). -/
theorem State.aqKick_of_idle {s : State} (hc : s.aq.cmds = []) (hp : s.aq.cprod = s.aq.ccons) : s.aqKick = s := by
  have hstart : s.admStart 17 = s := by
    have hnone : Machine.startable [] [] = [] := rfl
    unfold State.admStart
    simp [hc, hnone, State.each]
  unfold State.aqKick
  rw [hstart]
  simp [State.askPacket, hp]

/-- The admin queue once its only command has been replied to (R376). -/
def Aq.replied (a : Aq) : Aq := { a with cmds := [], rprod := a.rprod + 1 }

/-- The only command in progress of a running queue can be replied to at once, and nothing follows. -/
structure CanReply (s : State) (c : AdmCmd) : Prop where
  cmds : s.aq.cmds = [c]
  running : s.aq.st = .running
  noPacket : s.aq.cprod = s.aq.ccons
  noGate : s.gates = false
  flowing : (s.link s.aqModule).holding = false

theorem CanReply.of_oneAdmin {s : State} {c : AdmCmd} {opc : Nat} (h : OneAdmin s c opc) : CanReply s c := by
  obtain ⟨-, hrun, hcmds, -, -, -, hcp, hgate, hflow⟩ := h
  exact ⟨hcmds, hrun, hcp, hgate, hflow⟩

/-- What has only signalled and sent leaves the reply as it was. -/
theorem CanReply.signals {s t : State} {c : AdmCmd} (h : CanReply s c) (hs : Signals s t) (hl : LinksGrew s t) : CanReply t c := by
  have haq := hs.aq
  have hmod : t.aqModule = s.aqModule := by rw [hs]; rfl
  have hgate : t.gates = s.gates := by rw [hs]; rfl
  obtain ⟨hhold, -, -⟩ := hl s.aqModule
  exact ⟨haq ▸ h.cmds, haq ▸ h.running, haq ▸ h.noPacket, hgate ▸ h.noGate, by rw [hmod, hhold, h.flowing]⟩

/-- The reply of a command as it stands in the ring: with the phase of its slot (R373, R375). -/
def Aq.replyBytes (a : Aq) (c : AdmCmd) (res : List Nat) : List Byte :=
  (c.reply stOk 0xFF res).take 5 ++ [BitVec.ofNat 8 (a.phase a.rprod)] ++ (c.reply stOk 0xFF res).drop 6

/-- The address of the next slot of the reply ring (R373). -/
def Aq.replyAddr (a : Aq) : Word64 := a.rring + BitVec.ofNat 64 (32 * (a.rprod.toNat % a.replySlots))

/-- The only command, of which only the reply was left, is gone from a running queue, and RPROD advances (R376, R381). -/
theorem State.gone_admWaits {s : State} {c : AdmCmd} (h : CanReply s c) :
    { (s.admWaits c).aq.gone c.cnt with rprod := (s.admWaits c).aq.rprod + 1 } = s.aq.replied := by
  simp [State.admWaits, Aq.gone, Aq.replied, h.cmds, h.running]

/-- Where no gate stands a reply enters at once (R379). -/
theorem State.replyAdm_open {s : State} (hg : s.gates = false) (c : AdmCmd) (code : BitVec 16) (arg : Nat) (res : List Nat)
    (chg : Option (List ConfigRec)) : s.replyAdm c code arg res chg = (s.admWaits c).enterReply c.cnt (c.reply code arg res) := by
  have hg' : (s.admWaits c).gates = false := hg
  simp [State.replyAdm, hg']

/-- A reply on a module whose traffic flows is written, RPROD advances, and source 0x400 is raised (R376). -/
theorem State.enterReply_flowing {s : State} (hh : (s.link s.aqModule).holding = false) (cnt : Word32) (b : List Byte) :
    s.enterReply cnt b = ((s.egress s.aqModule (.admin cnt) s.aq.replyAddr (b.take 5 ++ [BitVec.ofNat 8 (s.aq.phase s.aq.rprod)] ++ b.drop 6) false).setAq
      { s.aq.gone cnt with rprod := s.aq.rprod + 1 }).pulse 0x400 := by
  rw [← State.send_flowing hh]
  exact if_neg (by rw [State.heldAt, hh]; decide)

section Reply

variable {s : State} {c : AdmCmd} (h : CanReply s c) (res : List Nat) (chg : Option (List ConfigRec))

include h

/-- The reply is sent at once, the command is in progress no more, and nothing follows. -/
theorem State.replyOk_aqKick : (s.replyOk c res chg).aqKick =
    (((s.admWaits c).egress s.aqModule (.admin c.cnt) s.aq.replyAddr (s.aq.replyBytes c res) false).setAq s.aq.replied).pulse 0x400 := by
  have hreply : s.replyOk c res chg =
      (((s.admWaits c).egress s.aqModule (.admin c.cnt) s.aq.replyAddr (s.aq.replyBytes c res) false).setAq s.aq.replied).pulse 0x400 := by
    refine (State.replyAdm_open h.noGate c stOk 0xFF res chg).trans ((State.enterReply_flowing (s := s.admWaits c) h.flowing _ _).trans ?_)
    rw [State.gone_admWaits h]
    rfl
  have haq : (s.replyOk c res chg).aq = s.aq.replied := by
    rw [hreply, (State.pulse_signals _ _).aq]
    rfl
  rw [State.aqKick_of_idle (by rw [haq]; rfl) (by rw [haq]; exact h.noPacket), hreply]

/-- The reply stands in the egress queue, and nothing else has changed but the admin queue and the reports (R375, R376). -/
theorem State.replyOk_replied : Replied s (s.replyOk c res chg).aqKick c stOk 0xFF res ∧
    Reports { s with aq := (s.replyOk c res chg).aqKick.aq } (s.replyOk c res chg).aqKick := by
  rw [State.replyOk_aqKick h]
  have hpulse := State.pulse_signals (((s.admWaits c).egress s.aqModule (.admin c.cnt) s.aq.replyAddr (s.aq.replyBytes c res) false).setAq s.aq.replied) 0x400
  have hgrew := State.pulse_grew (((s.admWaits c).egress s.aqModule (.admin c.cnt) s.aq.replyAddr (s.aq.replyBytes c res) false).setAq s.aq.replied) 0x400
  obtain ⟨e, he, hkind, haddr, hbytes⟩ := State.egress_mem (s := s.admWaits c) (md := s.aqModule) h.flowing (.admin c.cnt) s.aq.replyAddr (s.aq.replyBytes c res) false
  obtain ⟨-, -, hq⟩ := hgrew s.aqModule
  refine ⟨⟨hpulse.aq, e, hq e he, hkind, haddr, hbytes⟩, ?_⟩
  rw [hpulse.aq]
  exact ((Signals.setAq (State.egress_signals (s.admWaits c) s.aqModule _ _ _ _) s.aq.replied).trans hpulse).reports

/-- With source 0x400 off, the reply opens and closes no batch. -/
theorem State.replyOk_batches (hen : (s.src 0x400).en = false) : (s.replyOk c res chg).aqKick.batches = s.batches := by
  have hlinks := State.egress_linksOnly (s.admWaits c) s.aqModule (.admin c.cnt) s.aq.replyAddr (s.aq.replyBytes c res) false
  have hoff : ((((s.admWaits c).egress s.aqModule (.admin c.cnt) s.aq.replyAddr (s.aq.replyBytes c res) false).setAq s.aq.replied).src 0x400).en = false :=
    (congrArg (fun t : Table Src => (t.get {} 0x400).en) hlinks.srcs).trans hen
  rw [State.replyOk_aqKick h, State.pulse_of_off (by decide) hoff, State.updSrc_def, State.setSrc_batches]
  exact hlinks.batches

end Reply

/-! ### The rows of the opcodes -/

section Rows

variable {s : State} {c : AdmCmd} {opc : Nat} (h : OneAdmin s c opc)

include h

/-- The row of the opcode acts on the command, and the admin queue goes on (R377, R378). -/
theorem OneAdmin.onAdmin (k : State → AdmCmd → State) : s.onAdmin (opIs opc) k = (k s c).aqKick := by
  obtain ⟨hdie, -, hcmds, hwaits, hopc, hcheck, -⟩ := h
  have hdue : s.admDue (opIs opc) = some c := by
    simp [State.admDue, State.fwcOn, hdie, hcmds, startable, hwaits, opIs, hopc]
  simp only [State.onAdmin, hdue, hcheck]

/-- A reply after what has only signalled and sent. -/
theorem OneAdmin.replied {t : State} (hs : Signals s t) (hl : LinksGrew s t) (res : List Nat) (chg : Option (List ConfigRec)) :
    Replied s (t.replyOk c res chg).aqKick c stOk 0xFF res ∧ Reports { s with aq := (t.replyOk c res chg).aqKick.aq } (t.replyOk c res chg).aqKick := by
  obtain ⟨⟨haq, hentry⟩, hrep⟩ := State.replyOk_replied ((CanReply.of_oneAdmin h).signals hs hl) res chg
  have hmod : t.aqModule = s.aqModule := by
    rw [hs]
    rfl
  rw [hs.aq] at haq hentry
  rw [hmod] at hentry
  exact ⟨⟨haq, hentry⟩, (hs.setAq _).reports.trans hrep⟩

/-- A row that is a reply and nothing else. -/
theorem OneAdmin.runs_reply {i : Instr} {k : State → AdmCmd → State} (hi : exec i s = .next (s.onAdmin (opIs opc) k)) {res : List Nat}
    {chg : Option (List ConfigRec)} (hk : k s c = s.replyOk c res chg) :
    Runs i s fun t => Replied s t c stOk 0xFF res ∧ Reports { s with aq := t.aq } t := by
  refine ⟨(s.replyOk c res chg).aqKick, ?_, h.replied (Signals.refl s) (LinksGrew.refl s) res chg⟩
  rw [hi, h.onAdmin, hk]

end Rows

/-- SLEEP_NOTICE closes every batch of both modules before it replies (R393). -/
theorem runs_sleepNotice {s : State} {c : AdmCmd} (h : OneAdmin s c 0x70) (hen : (s.src 0x400).en = false) (h0 : (s.link 0).canIssue = true)
    (h1 : (s.link 1).canIssue = true) : Runs (.sleepNotice) s fun t =>
      Replied s t c stOk 0xFF [s.flushCount] ∧ (∀ b ∈ t.batches, 2 ≤ b.1 / 2048) ∧ Reports { s with aq := t.aq } t := by
  obtain ⟨hsig0, hgrew0⟩ := s.flushModule_sends 0
  obtain ⟨hsig1, hgrew1⟩ := (s.flushModule 0).flushModule_sends 1
  obtain ⟨-, hissue, -⟩ := hgrew0 1
  obtain ⟨hsrcs0, hclosed0⟩ := State.flushModule_closes h0
  obtain ⟨hsrcs1, hclosed1⟩ := State.flushModule_closes (hissue.trans h1)
  have hsig := hsig0.trans hsig1
  have hgrew := hgrew0.trans hgrew1
  have hoff : (((s.flushModule 0).flushModule 1).src 0x400).en = false :=
    (congrArg (fun t : Table Src => (t.get {} 0x400).en) (hsrcs1.trans hsrcs0)).trans hen
  obtain ⟨hreply, hrep⟩ := h.replied hsig hgrew [s.flushCount] none
  refine ⟨_, congrArg Host.Outcome.next (h.onAdmin _), hreply, fun b hb => ?_, hrep⟩
  rw [State.replyOk_batches ((CanReply.of_oneAdmin h).signals hsig hgrew) _ _ hoff] at hb
  obtain ⟨hb0, hne1⟩ := hclosed1 b hb
  obtain ⟨-, hne0⟩ := hclosed0 b hb0
  omega

/-- SEQ of the oldest of some records, or what the next record will have (R392). -/
def oldestSeq (l : List JRec) (n : Nat) : Nat :=
  match l with
  | [] => n
  | r :: _ => r.seq.toNat

/-- JOURNAL_READ with every record in the MRAM: it writes those that it picks, and replies (R392). -/
theorem State.journalRead_eq {s : State} {c : AdmCmd} {l recs : List JRec} {next : Nat} (hj : s.jheld = [])
    (hl : l = (s.journal.filter fun r => !r.bad).reverse)
    (hp : pickRecords l (c.pw64 3) (bitsOf (c.pw 5) 0 16) (c.pw 2).toNat (s.jseq.toNat + 1) = (recs, next)) :
    s.journalRead c =
      (s.writeHost s.aqModule .reply (c.pw64 0) (recs.flatMap JRec.bytes) false ((recs.flatMap JRec.bytes).length + 1)).replyOk c
        [recs.length, (recs.flatMap JRec.bytes).length, (max next (c.pw64 3)) % 0x100000000, (max next (c.pw64 3)) / 0x100000000,
          oldestSeq l (s.jseq.toNat + 1) % 0x100000000, oldestSeq l (s.jseq.toNat + 1) / 0x100000000] none := by
  have hflush : s.flushJournal = s := if_pos (by rw [hj]; rfl)
  subst hl
  unfold State.journalRead oldestSeq
  simp only [hflush, hp] <;> rfl

theorem runs_journalRead {s : State} {c : AdmCmd} (h : OneAdmin s c 0x60) {l recs : List JRec} {next : Nat} (hj : s.jheld = [])
    (hl : l = (s.journal.filter fun r => !r.bad).reverse)
    (hp : pickRecords l (c.pw64 3) (bitsOf (c.pw 5) 0 16) (c.pw 2).toNat (s.jseq.toNat + 1) = (recs, next)) :
    Runs (.journalRead) s fun t => Replied s t c stOk 0xFF [recs.length, (recs.flatMap JRec.bytes).length,
        (max next (c.pw64 3)) % 0x100000000, (max next (c.pw64 3)) / 0x100000000, oldestSeq l (s.jseq.toNat + 1) % 0x100000000,
        oldestSeq l (s.jseq.toNat + 1) / 0x100000000] ∧
      Reports { s with aq := t.aq } t := by
  obtain ⟨hsig, hgrew⟩ := s.writeHost_sends s.aqModule .reply (c.pw64 0) (recs.flatMap JRec.bytes) false ((recs.flatMap JRec.bytes).length + 1)
  refine ⟨_, congrArg Host.Outcome.next (h.onAdmin State.journalRead), ?_⟩
  rw [State.journalRead_eq hj hl hp]
  exact h.replied hsig hgrew _ none

/-- The state with the attach mode of the next start and the subsystem IDs as a SET_ATTACH gives them (R55, R60). -/
def State.attached (s : State) (c : AdmCmd) : State :=
  { s with prm := { s.prm with nextMode := BitVec.ofNat 2 (bitsOf (c.pw 0) 0 2), subVendor := BitVec.ofNat 16 (bitsOf (c.pw 1) 0 16),
                               subId := BitVec.ofNat 16 (bitsOf (c.pw 1) 16 16) } }

/-- What reports from there leave: only they, the admin queue and PRM have changed. -/
theorem Reports.attached {s t : State} {c : AdmCmd} (h : Reports { s.attached c with aq := t.aq } t) :
    t.prm = (s.attached c).prm ∧ Reports { s with aq := t.aq, prm := t.prm } t := by
  have hprm : t.prm = (s.attached c).prm := by rw [h]
  refine ⟨hprm, ?_⟩
  rw [hprm]
  exact h

/-- SET_ATTACH sets what the next start reads before it replies (R55, R60). -/
theorem runs_setAttach {s : State} {c : AdmCmd} (h : OneAdmin s c 0x03) :
    Runs (.setAttach) s fun t => Replied s t c stOk 0xFF [s.mode.toNat + bitsOf (c.pw 0) 0 2 * 4] ∧
      t.prm = { s.prm with nextMode := BitVec.ofNat 2 (bitsOf (c.pw 0) 0 2), subVendor := BitVec.ofNat 16 (bitsOf (c.pw 1) 0 16),
                           subId := BitVec.ofNat 16 (bitsOf (c.pw 1) 16 16) } ∧ Reports { s with aq := t.aq, prm := t.prm } t := by
  obtain ⟨hcmds, hrun, hcp, hgate, hflow⟩ := CanReply.of_oneAdmin h
  have hcan : CanReply (s.attached c) c := ⟨hcmds, hrun, hcp, hgate, hflow⟩
  obtain ⟨hreply, hrep⟩ := State.replyOk_replied hcan [s.mode.toNat + bitsOf (c.pw 0) 0 2 * 4]
    (some [.attach (BitVec.ofNat 2 (bitsOf (c.pw 0) 0 2)) (BitVec.ofNat 16 (bitsOf (c.pw 1) 0 16)) (BitVec.ofNat 16 (bitsOf (c.pw 1) 16 16))])
  exact ⟨_, congrArg Host.Outcome.next (h.onAdmin _), hreply, hrep.attached⟩

/-- Settles O40: with one command in progress each row is that command's reply, after what the row itself does. -/
theorem adminQueries : Obligations.AdminQueries := by
  intro s c
  exact ⟨fun h => h.runs_reply rfl rfl, fun h => h.runs_reply rfl rfl, fun h => h.runs_reply rfl rfl, fun h => h.runs_reply rfl rfl,
    fun h hen h0 h1 => runs_sleepNotice h hen h0 h1, fun h l recs next hj hl hp => runs_journalRead h hj hl hp, fun h => runs_setAttach h⟩

end Sys2Proof.Machine
end

section
/-! PROOFS. One module of the host link on its own: what changes it alone, and the link states (R77 to R83). -/

namespace Sys2Proof.Machine
open Sys2Proof

/-! ### A module on its own -/

@[simp] theorem State.setLink_link (s : State) (md : Nat) : s.setLink md (s.link md) = s := by
  unfold State.setLink State.link
  split <;> rfl

@[simp] theorem State.setLink_setLink (s : State) (md : Nat) (a b : Link) : (s.setLink md a).setLink md b = s.setLink md b := by
  unfold State.setLink
  split <;> rfl

@[simp] theorem State.updLink_def (s : State) (md : Nat) (f : Link → Link) : s.updLink md f = s.setLink md (f (s.link md)) := rfl

@[simp] theorem State.updCfg_def (s : State) (md : Nat) (f : LinkCfg → LinkCfg) :
    s.updCfg md f = s.setLink md { s.link md with cfg := f (s.link md).cfg } := rfl

theorem otherMd_ne (md : Nat) : ¬ (otherMd md = 0 ↔ md = 0) := by
  unfold otherMd
  split <;> omega

@[simp] theorem State.link_otherMd_setLink (s : State) (md : Nat) (l : Link) : (s.setLink md l).link (otherMd md) = s.link (otherMd md) :=
  s.link_setLink_other l (otherMd_ne md)

/-- What changes only one module changes the two modules only. -/
theorem State.setLink_links (s : State) (md : Nat) (l : Link) :
    s.setLink md l = { s with link0 := (s.setLink md l).link0, link1 := (s.setLink md l).link1 } := by
  unfold State.setLink
  split <;> rfl

/-- Issuing reads moves reads from those that wait to those that are out, and changes nothing else (R66). -/
theorem State.pump_eq (s : State) (md : Nat) : ∃ w r, s.pump md = s.setLink md { s.link md with waiting := w, reads := r } := by
  have key : ∀ n (s : State), ∃ w r, s.pumpReads md n = s.setLink md { s.link md with waiting := w, reads := r } := by
    intro n
    induction n with
    | zero => exact fun s => ⟨_, _, (s.setLink_link md).symm⟩
    | succ n ih =>
      intro s
      unfold State.pumpReads
      dsimp only
      split
      · exact ⟨_, _, (s.setLink_link md).symm⟩
      · split
        · obtain ⟨w, r, h⟩ := ih (s.setLink md { s.link md with waiting := _, reads := _ })
          exact ⟨w, r, by rw [h, State.link_setLink, State.setLink_setLink]⟩
        · exact ⟨_, _, (s.setLink_link md).symm⟩
  exact key _ s

/-! ### Link states -/

/-- One cycle of a link leaves its state (R84). -/
theorem drainLink_state (l : Link) : (drainLink l).lstate = l.lstate ∧ (drainLink l).exiting = l.exiting := by
  unfold drainLink
  dsimp only
  repeat' split
  all_goals exact ⟨rfl, rfl⟩

section Rows

variable {s : State} {md : Nat}

theorem runs_l1EntryRequest {l2 : Bool} (hq : (s.link md).quiet = true) (hl : (s.link md).lstate = 0) (hd : l2 = true → (s.link md).cfg.d3 = true) :
    Runs (.l1EntryRequest md l2) s fun t => t = s.setLink md { s.link md with lstate := if l2 then 2 else 1, exiting := false } := by
  have hd3 : (!l2 || (s.link md).cfg.d3) = true := by
    cases l2
    · rfl
    · exact hd rfl
  exact ⟨_, rfl, if_pos (by rw [hq, hl, hd3]; rfl)⟩

theorem runs_linkIdleExpiry (hi : (s.link md).cfg.linkIdle ≠ 0) (hq : (s.link md).quiet = true) (hw : (s.link md).waiting = [])
    (hl : (s.link md).lstate = 0) (hb : s.latOk md = true) :
    Runs (.linkIdleExpiry md) s fun t => t = s.setLink md { s.link md with lstate := 1, exiting := false } :=
  ⟨_, rfl, if_pos (by simpa [hq, hw, hl, hb] using hi)⟩

theorem runs_linkExitComplete (hx : (s.link md).exiting = true) (hl : (s.link md).lstate = 1 ∨ (s.link md).lstate = 2) :
    Runs (.linkExitComplete md) s fun t => (t.link md).lstate = 0 ∧ (t.link md).exiting = false ∧
      t.link (otherMd md) = s.link (otherMd md) ∧ t = { s with link0 := t.link0, link1 := t.link1 } := by
  obtain ⟨sent, hrun⟩ : ∃ sent, exec (.linkExitComplete md) s =
      .next (((s.setLink md { s.link md with lstate := 0, exiting := false, sent }).updLink md drainLink).pump md) :=
    ⟨_, congrArg Host.Outcome.next (if_pos (by simpa [hx] using hl))⟩
  refine ⟨_, hrun, ?_⟩
  rw [State.updLink_def, State.setLink_setLink, State.link_setLink]
  obtain ⟨hstate, hexit⟩ := drainLink_state { s.link md with lstate := 0, exiting := false, sent }
  obtain ⟨w, r, ht⟩ := (s.setLink md (drainLink { s.link md with lstate := 0, exiting := false, sent })).pump_eq md
  rw [ht, State.link_setLink, State.setLink_setLink]
  refine ⟨?_, ?_, s.link_otherMd_setLink md _, s.setLink_links md _⟩
  · rwa [State.link_setLink]
  · rwa [State.link_setLink]

theorem runs_earlyLinkExit (hl : (s.link md).lstate = 1 ∨ (s.link md).lstate = 2) (hb : ∃ b ∈ s.batches, b.1 / 2048 = md) :
    Runs (.earlyLinkExit md) s fun t => t = s.setLink md { s.link md with exiting := true } :=
  ⟨_, rfl, if_pos (by simpa [List.any_eq_true, hl] using And.intro hl hb)⟩

theorem runs_linkLeaveActive (hl : (s.link md).lstate = 0) :
    Runs (.linkLeaveActive md) s fun t => t = s.setLink md { s.link md with lstate := 3 } := ⟨_, rfl, if_pos hl⟩

end Rows

/-- Settles O20: each row's condition holds, and what it then does is written out; an exit also drains one write and issues reads, which
leaves the link's state. -/
theorem linkStateRows : Obligations.LinkStateRows := fun _ _ _ =>
  ⟨fun _ hq hl hd => runs_l1EntryRequest hq hl hd, fun hi hq hw hl hb => runs_linkIdleExpiry hi hq hw hl hb, fun hx hl => runs_linkExitComplete hx hl,
    fun hl hb => runs_earlyLinkExit hl hb, fun hl => runs_linkLeaveActive hl⟩

end Sys2Proof.Machine
end

section
/-! PROOFS. What sending, and the work of queues and channels, leave of the modules and of the queues (R66, R74, R86, R118 to R123). -/

namespace Sys2Proof.Machine
open Sys2Proof

/-! ### Modules to which more is given -/

/-- A write is no head record. -/
def EgKind.Stays (k : EgKind) : Prop := ∀ q, k ≠ .head q

/-- A module has been given more to send or to read, and nothing else has happened to it: writes that wait stay (a head record may be replaced by
a newer one), and only where its traffic is held do writes join the held ones (R74, R86, R120). -/
structure Link.Sends (l k : Link) : Prop where
  frame : k = { l with exiting := k.exiting, held := k.held, queue := k.queue, eqs := k.eqs, sent := k.sent, reads := k.reads,
                       waiting := k.waiting, cfg := { l.cfg with pba := k.cfg.pba, pmeStatus := k.cfg.pmeStatus } }
  queue : ∀ w ∈ l.queue, w.kind.Stays → w ∈ k.queue
  held : ∀ w ∈ l.held, w.kind.Stays → w ∈ k.held
  queueFull : l.queue ≠ [] → k.queue ≠ []
  heldFull : l.held ≠ [] → k.held ≠ []
  flowing : l.holding = false → k.held = l.held
  pme : l.cfg.pmeStatus = true → k.cfg.pmeStatus = true

theorem Link.Sends.refl (l : Link) : l.Sends l := ⟨rfl, fun _ h _ => h, fun _ h _ => h, id, id, fun _ => rfl, id⟩

/-- A module of which only these fields have changed. -/
theorem Link.Sends.same {l k : Link}
    (h : k = { l with exiting := k.exiting, sent := k.sent, reads := k.reads, waiting := k.waiting,
                      cfg := { l.cfg with pba := k.cfg.pba, pmeStatus := k.cfg.pmeStatus } })
    (hp : l.cfg.pmeStatus = true → k.cfg.pmeStatus = true) : l.Sends k := by
  have hq : k.queue = l.queue := by rw [h]
  have hh : k.held = l.held := by rw [h]
  refine ⟨?_, fun w hw _ => hq ▸ hw, fun w hw _ => hh ▸ hw, fun hn => hq ▸ hn, fun hn => hh ▸ hn, fun _ => hh, hp⟩
  conv_lhs => rw [h]
  rw [← hh, ← hq]
  have he : k.eqs = l.eqs := by rw [h]
  rw [he]

theorem Link.Sends.trans {l k j : Link} (h : l.Sends k) (g : k.Sends j) : l.Sends j where
  frame := by
    have gf := g.frame
    rw [h.frame] at gf
    exact gf
  queue w hw hs := g.queue w (h.queue w hw hs) hs
  held w hw hs := g.held w (h.held w hw hs) hs
  queueFull hn := g.queueFull (h.queueFull hn)
  heldFull hn := g.heldFull (h.heldFull hn)
  flowing hf := by
    have hk : k.holding = l.holding := by rw [h.frame]
    rw [g.flowing (hk.trans hf), h.flowing hf]
  pme hp := g.pme (h.pme hp)

theorem Link.Sends.holding {l k : Link} (h : l.Sends k) : k.holding = l.holding := by rw [h.frame]

theorem Link.Sends.canIssue {l k : Link} (h : l.Sends k) : k.canIssue = l.canIssue := by rw [h.frame]; rfl

/-- What is held after one more write (R86). -/
theorem mem_heldPush {h : List Egress} {w : Egress} (e : Egress) (hw : w ∈ h) (hs : w.kind.Stays) : w ∈ heldPush h e := by
  unfold heldPush
  split
  · exact List.mem_append_left _ (List.mem_filter.mpr ⟨hw, decide_eq_true (hs _)⟩)
  · exact List.mem_append_left _ hw

theorem heldPush_ne_nil (h : List Egress) (e : Egress) : heldPush h e ≠ [] := by
  unfold heldPush
  split <;> simp

/-- What the modules and the queues are: all that sending and the work of channels read and change of them. -/
structure Queue.Rests (x y : Queue) : Prop where
  module : y.module = x.module
  fetch : y.fetch = x.fetch
  why : y.why = x.why
  errIdx : y.errIdx = x.errIdx
  st : y.st = x.st ∨ x.st = .draining

theorem Queue.Rests.refl (x : Queue) : x.Rests x := ⟨rfl, rfl, rfl, rfl, .inl rfl⟩

theorem Queue.Rests.trans {x y z : Queue} (h : x.Rests y) (g : y.Rests z) : x.Rests z where
  module := g.module.trans h.module
  fetch := g.fetch.trans h.fetch
  why := g.why.trans h.why
  errIdx := g.errIdx.trans h.errIdx
  st := by
    rcases h.st with hy | hd
    · rcases g.st with hz | hd
      · exact .inl (hz.trans hy)
      · exact .inr (hy ▸ hd)
    · exact .inr hd

/-- From s to t the modules have only been given more to send or to read, no queue has stopped, begun or moved its FETCH (one that drains may have
become DISABLED), and the carrying module is the same: what records, channel programs and fences do (R118 to R123, R131). -/
structure Flows (s t : State) : Prop where
  links : ∀ md, (s.link md).Sends (t.link md)
  queues : ∀ q, (s.q q).Rests (t.q q)
  mode : t.mode = s.mode
  carry : t.carry = s.carry

theorem Flows.refl (s : State) : Flows s s := ⟨fun _ => .refl _, fun _ => .refl _, rfl, rfl⟩

theorem Flows.trans {r s t : State} (h : Flows r s) (g : Flows s t) : Flows r t :=
  ⟨fun md => (h.links md).trans (g.links md), fun q => (h.queues q).trans (g.queues q), g.mode.trans h.mode, g.carry.trans h.carry⟩

/-- The modules, the queues, the attach mode and the carrying module: all that Flows speaks of (R55, R56). -/
abbrev State.hostSide (s : State) := (s.link0, s.link1, s.queues, s.mode, s.carry)

/-- An update that leaves the modules, the queues and the carrying module. -/
theorem Flows.same {r s t : State} (h : Flows r s) (e : t.hostSide = s.hostSide) : Flows r t := by
  simp only [State.hostSide, Prod.mk.injEq] at e
  obtain ⟨h0, h1, hq, hm, hc⟩ := e
  refine h.trans ⟨fun md => ?_, fun q => ?_, hm, hc⟩
  · have hl : t.link md = s.link md := by unfold State.link; rw [h0, h1]
    rw [hl]
    exact .refl _
  · have hx : t.q q = s.q q := by unfold State.q; rw [hq]
    rw [hx]
    exact .refl _

theorem Flows.setLink {r s : State} (h : Flows r s) {md : Nat} {l : Link} (hl : (s.link md).Sends l) : Flows r (s.setLink md l) := by
  refine h.trans ⟨fun i => ?_, fun q => ?_, s.setLink_mode md l, s.setLink_carry md l⟩
  · by_cases hi : i = 0 ↔ md = 0
    · rwa [State.link_congr s hi, State.link_congr (s.setLink md l) hi, State.link_setLink]
    · rw [s.link_setLink_other l hi]
      exact .refl _
  · have hx : (s.setLink md l).q q = s.q q := by unfold State.q; rw [State.setLink_queues]
    rw [hx]
    exact .refl _

theorem Flows.setQ {r s : State} (h : Flows r s) {q : Nat} {x : Queue} (hx : (s.q q).Rests x) : Flows r (s.setQ q x) := by
  refine h.trans ⟨fun _ => .refl _, fun k => ?_, rfl, rfl⟩
  by_cases hk : k = q
  · rwa [hk, State.q_setQ]
  · rw [s.q_setQ_ne q k x hk]
    exact .refl _

theorem Flows.each {α : Type} {r s : State} (l : List α) {f : State → α → State} (hf : ∀ t a, Flows r t → Flows r (f t a)) (h : Flows r s) :
    Flows r (s.each l f) := State.each_induction (P := Flows r) l h hf

theorem Flows.ite {r a b : State} {c : Prop} [Decidable c] (h : Flows r a) (g : Flows r b) : Flows r (if c then a else b) := by
  split <;> assumption

theorem Flows.qModule {s t : State} (h : Flows s t) (q : Nat) : t.qModule q = s.qModule q := by
  unfold State.qModule
  rw [h.mode, h.carry, (h.queues q).module]

section Sending

variable {r s : State} (h : Flows r s)

include h

theorem State.wantLink_flows (md : Nat) : Flows r (s.wantLink md) := by
  have hl : (s.link md).Sends (if (s.link md).lstate = 1 ∨ (s.link md).lstate = 2 then { s.link md with exiting := true } else s.link md) := by
    split
    · exact .same (by rfl) (by exact id)
    · exact .refl _
  unfold State.wantLink
  dsimp only
  generalize (if (s.link md).lstate = 1 ∨ (s.link md).lstate = 2 then _ else _) = l at hl ⊢
  split
  · exact .same (s := s.setLink md _) (h.setLink (hl.trans (.same rfl fun _ => rfl))) (by rfl)
  · exact h.setLink hl

theorem State.wantMsix_flows (md : Nat) : Flows r (s.wantMsix md) := .ite (State.wantLink_flows h md) h

theorem State.egress_flows (md : Nat) (kind : EgKind) (addr : Word64) (bytes : List Byte) (relaxed : Bool) :
    Flows r (s.egress md kind addr bytes relaxed) := by
  unfold State.egress
  dsimp only
  split
  · rename_i hh
    refine h.setLink ⟨rfl, fun _ hw _ => hw, fun _ hw hs => mem_heldPush _ hw hs, id, fun _ => heldPush_ne_nil _ _, fun hf => ?_, id⟩
    rw [hh] at hf
    cases hf
  · refine State.wantLink_flows (h.setLink ?_) md
    exact ⟨rfl, fun _ hw _ => List.mem_append_left _ hw, fun _ hw _ => hw, fun _ => by simp, id, fun _ => rfl, id⟩

theorem State.sendMsix_flows (md v : Nat) : Flows r (s.sendMsix md v) := by
  unfold State.sendMsix
  dsimp only
  split
  · exact .ite h (h.setLink (.same (by rfl) (by exact id)))
  · exact State.egress_flows h md _ _ _ _

theorem State.closeBatch_flows (md v : Nat) : Flows r (s.closeBatch md v) := by
  unfold State.closeBatch
  split
  · exact State.sendMsix_flows (h.same (by rfl)) md v
  · split
    · exact h
    · exact State.wantMsix_flows (h.same (by rfl)) md

theorem State.msixEvent_flows (n : Nat) : Flows r (s.msixEvent n) := by
  have due : ∀ md, Flows r ((s.updSrc n fun x => { x with due := true }).wantMsix md) := State.wantMsix_flows (h.same (by rfl))
  unfold State.msixEvent
  dsimp only
  split
  · exact due _
  · split
    · exact .ite (State.sendMsix_flows h _ _) (due _)
    · exact .ite (State.closeBatch_flows (h.same (by rfl)) _ _) (State.wantMsix_flows (h.same (by rfl)) _)

theorem State.wakeDomain_flows (d cause : Nat) : Flows r (s.wakeDomain d cause) := .ite (h.same (by rfl)) h

theorem State.route_flows (n : Nat) : Flows r (s.route n) := by
  unfold State.route
  dsimp only
  split
  · split
    · exact h.same (by rfl)
    · exact State.wakeDomain_flows (h.same (by rfl)) _ _
  · exact .ite (h.same (by rfl)) h

theorem State.present_flows (n : Nat) : Flows r (s.present n) := by
  unfold State.present
  dsimp only
  split
  · exact h
  · exact .ite (.ite h (State.route_flows h n)) (State.msixEvent_flows h n)

theorem State.edge_flows (n : Nat) : Flows r (s.edge n) := State.present_flows (h.same (by rfl)) n

theorem State.heldPulse_flows (s0 : State) : Flows r (s0.heldPulse s) := by
  have h1 : Flows r (if s.heldSet 0 && !s0.heldSet 0 then s.edge 0x408 else s) := .ite (State.edge_flows h _) h
  exact .ite (State.edge_flows h1 _) h1

theorem State.pulse_flows (n : Nat) : Flows r (s.pulse n) := .ite h (State.heldPulse_flows (State.edge_flows h n) s)

theorem State.send_flows (md : Nat) (kind : EgKind) (addr : Word64) (bytes : List Byte) (relaxed : Bool) :
    Flows r (s.send md kind addr bytes relaxed) := State.heldPulse_flows (State.egress_flows h md kind addr bytes relaxed) s

theorem State.pump_flows (md : Nat) : Flows r (s.pump md) := by
  obtain ⟨w, rd, hp⟩ := s.pump_eq md
  rw [hp]
  exact h.setLink (.same (by rfl) (by exact id))

theorem State.askRead_flows (md : Nat) (x : HostRead) : Flows r (s.askRead md x) :=
  State.pump_flows (State.wantLink_flows (h.setLink (.same (by rfl) (by exact id))) md) md

theorem State.pbaSend_flows (md : Nat) (vs : List Nat) : Flows r (s.pbaSend md vs) :=
  Flows.each vs (fun t _ ht => .ite (State.egress_flows (ht.setLink (.same (by rfl) (by exact id))) md _ _ _ _) ht) h

theorem State.closeAll_flows (md : Nat) (l : List (Nat × Batch)) : Flows r (s.closeAll md l) :=
  Flows.each _ (fun _ _ ht => State.closeBatch_flows ht md _) h

theorem State.batchSend_flows (md : Nat) : Flows r (s.batchSend md) := .ite (State.closeAll_flows h md _) h

theorem State.dueSend_flows (md : Nat) : Flows r (s.dueSend md) :=
  Flows.each _ (fun _ _ ht => .ite (State.sendMsix_flows (ht.same (by rfl)) md _) ht) h

end Sending

end Sys2Proof.Machine
end

section
/-! PROOFS. Errors of a module as Advanced Error Reporting records them (R71, R82, log 4). -/

namespace Sys2Proof.Machine
open Sys2Proof

theorem bitOf_or_pow {n : Nat} (x : BitVec n) {b : Nat} (h : b < n) : bitOf (x ||| BitVec.ofNat n (2 ^ b)) b = true := by
  unfold bitOf
  rw [BitVec.getLsbD_or, BitVec.getLsbD_ofNat, Nat.testBit_two_pow_self, decide_eq_true h, Bool.true_and, Bool.or_true]

/-- An uncorrectable error sets its status bit, and with it only the First Error Pointer and the Header Log change (R82). -/
theorem LinkCfg.logUnc_eq (c : LinkCfg) (bit : Nat) (hdr : BitVec 128) :
    ∃ f h, c.logUnc bit hdr = { c with aerUnc := c.aerUnc ||| BitVec.ofNat 32 (2 ^ bit), aerFirst := f, aerHdr := h } := by
  unfold LinkCfg.logUnc
  dsimp only
  split
  · exact ⟨c.aerFirst, c.aerHdr, rfl⟩
  · exact ⟨_, _, rfl⟩

/-- A configuration space of which, from c to d, only what AER and Device Status record has changed. -/
def LinkCfg.Records (c d : LinkCfg) : Prop :=
  d = { c with aerUnc := d.aerUnc, aerCor := d.aerCor, aerFirst := d.aerFirst, aerHdr := d.aerHdr, devStat := d.devStat }

/-- A module that has recorded an error, and may have sent a message. -/
def Link.Records (l k : Link) : Prop := l.cfg.Records k.cfg ∧ k = { l with cfg := k.cfg, sent := k.sent }

/-- An error that is not advisory sets its status bit and the bit of its severity in Device Status, and sends the message of that severity where it
is not masked and reporting is enabled (R82). -/
theorem Link.aerError_records (l : Link) (bit : Nat) (hdr : BitVec 128) {sev : Nat} (hs : sev = if bitOf l.cfg.aerSev bit then 2 else 1)
    {adv : Bool} (ha : (adv && !bitOf l.cfg.aerSev bit) = false) :
    l.Records (l.aerError bit hdr adv) ∧ (l.aerError bit hdr adv).cfg.aerUnc = l.cfg.aerUnc ||| BitVec.ofNat 32 (2 ^ bit) ∧
      (∃ d, (l.aerError bit hdr adv).cfg.devStat = d ||| BitVec.ofNat 4 (2 ^ sev)) ∧
      (bitOf l.cfg.aerMask bit = false → l.cfg.reports sev (decide (bit = 20)) = true → (l.aerError bit hdr adv).sent = errMsg sev :: l.sent) := by
  obtain ⟨d, hd⟩ : ∃ d, d = l.cfg.devStat ||| (if decide (bit = 20) then 8 else 0) := ⟨_, rfl⟩
  obtain ⟨f, h, hlog⟩ := LinkCfg.logUnc_eq { l.cfg with devStat := d ||| BitVec.ofNat 4 (2 ^ sev) } bit hdr
  obtain ⟨k, hk⟩ : ∃ k : Link, k = { l with cfg := { l.cfg with devStat := d ||| BitVec.ofNat 4 (2 ^ sev) }.logUnc bit hdr } := ⟨_, rfl⟩
  have heq : l.aerError bit hdr adv = if !(bitOf l.cfg.aerMask bit) && l.cfg.reports sev (decide (bit = 20)) then k.say (errMsg sev) else k := by
    rw [hk, hs, hd]
    exact if_neg (by rw [ha]; decide)
  rw [heq, hk, hlog]
  split
  · exact ⟨⟨rfl, rfl⟩, rfl, ⟨d, rfl⟩, fun _ _ => rfl⟩
  · rename_i hn
    exact ⟨⟨rfl, rfl⟩, rfl, ⟨d, rfl⟩, fun hm hr => absurd (by rw [hm, hr]; rfl) hn⟩

/-- A non-fatal advisory error sets the advisory bit of the correctable status and the correctable bit of Device Status, and where that bit
is not masked the error's own status bit too (R82). -/
theorem Link.aerError_advises (l : Link) (bit : Nat) (hdr : BitVec 128) (hs : bitOf l.cfg.aerSev bit = false) :
    l.Records (l.aerError bit hdr true) ∧ (l.aerError bit hdr true).cfg.aerCor = l.cfg.aerCor ||| 0x2000 ∧
      (∃ d, (l.aerError bit hdr true).cfg.devStat = d ||| 1) ∧
      (bitOf l.cfg.aerCorMask 13 = false → (l.aerError bit hdr true).cfg.aerUnc = l.cfg.aerUnc ||| BitVec.ofNat 32 (2 ^ bit)) := by
  obtain ⟨d, hd⟩ : ∃ d, d = l.cfg.devStat ||| (if decide (bit = 20) then 8 else 0) := ⟨_, rfl⟩
  obtain ⟨c, hc⟩ : ∃ c : LinkCfg, c = { l.cfg with aerCor := l.cfg.aerCor ||| 0x2000, devStat := d ||| 1 } := ⟨_, rfl⟩
  obtain ⟨f, h, hlog⟩ := c.logUnc_eq bit hdr
  obtain ⟨k, hk⟩ : ∃ k : Link, k = { l with cfg := c.logUnc bit hdr } := ⟨_, rfl⟩
  have heq : l.aerError bit hdr true = if bitOf l.cfg.aerCorMask 13 then { l with cfg := c } else
      if l.cfg.reports 0 (decide (bit = 20)) then k.say .errCor else k := by
    rw [hk, hc, hd]
    exact if_pos (by rw [hs]; rfl)
  rw [heq, hk, hlog, hc]
  split
  · rename_i hm
    exact ⟨⟨rfl, rfl⟩, rfl, ⟨d, rfl⟩, fun hn => absurd (hm.symm.trans hn) (by decide)⟩
  · split
    · exact ⟨⟨rfl, rfl⟩, rfl, ⟨d, rfl⟩, fun _ => rfl⟩
    · exact ⟨⟨rfl, rfl⟩, rfl, ⟨d, rfl⟩, fun _ => rfl⟩

/-- A correctable error sets its status bit (R82). -/
theorem State.aerCor_eq (s : State) (md bit : Nat) : ∃ k : Link, s.aerCor md bit = s.setLink md k ∧ (s.link md).Records k ∧
    k.cfg.aerCor = (s.link md).cfg.aerCor ||| BitVec.ofNat 32 (2 ^ bit) := by
  refine ⟨_, rfl, ?_, ?_⟩
  all_goals
    dsimp only
    split
  · exact ⟨rfl, rfl⟩
  · exact ⟨rfl, rfl⟩
  · rfl
  · rfl

theorem State.aerUnc_eq (s : State) (md bit : Nat) (hdr : BitVec 128) (adv : Bool) :
    s.aerUnc md bit hdr adv = s.setLink md ((s.link md).aerError bit hdr adv) := rfl

end Sys2Proof.Machine
end

section
/-! PROOFS. Events of a function's configuration space (R63 to R65, R72 to R74, R81). -/

namespace Sys2Proof.Machine
open Sys2Proof

/-! ### Channels that do not wait at host memory -/

theorem Table.get_eq_or_mem {α : Type} (t : Table α) (d : α) (k : Nat) : t.get d k = d ∨ (k, t.get d k) ∈ t := by
  induction t with
  | nil => exact .inl rfl
  | cons e r ih =>
    obtain ⟨j, w⟩ := e
    unfold Table.get
    split
    · rename_i hk
      exact .inr (hk ▸ List.mem_cons_self)
    · exact ih.imp id (List.mem_cons_of_mem _)

/-- Where no channel waits at an access to host memory, none goes on there (R85). -/
theorem State.hostResume_of_noHostWaits {s : State} (h : NoHostWaits s) (md : Nat) : s.hostResume md = s := by
  obtain ⟨hnone, hphase⟩ := h
  have hgo : ∀ ch, s.hostGo ch = s := fun ch => by
    have hp : (s.chan ch).xfer.phase ≠ .host ∧ (s.chan ch).xfer.phase ≠ .hostPi ∧ (s.chan ch).xfer.phase ≠ .hostWait ∧
        (s.chan ch).xfer.phase ≠ .hostPost := by
      rcases Table.get_eq_or_mem s.chans {} ch with hd | hm
      · rw [State.chan, hd]
        decide
      · exact hphase _ hm
    obtain ⟨h1, h2, h3, h4⟩ := hp
    unfold State.hostGo
    dsimp only
    split
    · rfl
    · split
      · exact absurd ‹_› h1
      · exact absurd ‹_› h2
      · exact absurd ‹_› h3
      · exact absurd ‹_› h4
      · rfl
  have heach : ∀ l : List Nat, (s.each l fun s ch => s.hostGo ch) = s := fun l => by
    induction l with
    | nil => rfl
    | cons a l ih =>
      show (s.hostGo a).each l _ = s
      rw [hgo]
      exact ih
  unfold State.hostResume
  rw [heach, State.served_of_noneWait hnone, ite_self]

/-! ### What a wake reason and a reset change -/

/-- The state with WAKE_OUT_N asserted or not. -/
def State.setWake (s : State) (b : Bool) : State := { s with wakeOut := b }

@[simp] theorem State.link_setWake (s : State) (b : Bool) (md : Nat) : (s.setWake b).link md = s.link md := rfl

/-- A module for which a request is queued: an exit from L1 or L2 starts (R80). -/
def Link.wanted (l : Link) : Link := if l.lstate = 1 ∨ l.lstate = 2 then { l with exiting := true } else l

theorem Link.wanted_eq (l : Link) : ∃ x, l.wanted = { l with exiting := x } := by
  unfold Link.wanted
  split
  · exact ⟨true, rfl⟩
  · exact ⟨l.exiting, rfl⟩

/-- A module whose function asks to be woken: PME_Status is set, and PM_PME sent where the link is not in L2 (R81). -/
def Link.woken (l : Link) : Link :=
  { l.wanted with cfg := { l.wanted.cfg with pmeStatus := true }, sent := if l.lstate = 2 then l.wanted.sent else .pmPme :: l.wanted.sent }

theorem Link.woken_eq (l : Link) : ∃ x m, l.woken = { l with exiting := x, sent := m, cfg := { l.cfg with pmeStatus := true } } := by
  obtain ⟨x, hx⟩ := l.wanted_eq
  unfold Link.woken
  rw [hx]
  exact ⟨x, _, rfl⟩

/-- The function asks to be woken (R81). -/
def Link.wakes (l : Link) : Bool := l.cfg.d3 && l.cfg.pmeEn && !l.cfg.pmeStatus

theorem State.wantLink_eq (s : State) (md : Nat) : s.wantLink md =
    if (s.link md).wakes then (s.setLink md (s.link md).woken).setWake true else s.setLink md (s.link md).wanted := rfl

/-- A request for a module changes only the exit under way, PME_Status and the messages sent (R80, R81). -/
theorem State.wantLink_link (s : State) (md : Nat) : ∃ x p m, (s.wantLink md).link md =
    { s.link md with exiting := x, sent := m, cfg := { (s.link md).cfg with pmeStatus := p } } := by
  rw [State.wantLink_eq]
  split
  · obtain ⟨x, m, hx⟩ := (s.link md).woken_eq
    rw [State.link_setWake, State.link_setLink]
    exact ⟨x, true, m, hx⟩
  · obtain ⟨x, hx⟩ := (s.link md).wanted_eq
    rw [State.link_setLink]
    exact ⟨x, _, _, hx⟩

/-- In D3hot with PME_En set a request sets PME_Status, and asserts WAKE_OUT_N where it was not set (R81). -/
theorem State.wantLink_pme {s : State} {md : Nat} (hd : (s.link md).cfg.d3 = true) (he : (s.link md).cfg.pmeEn = true) :
    ((s.wantLink md).link md).cfg.pmeStatus = true ∧ ((s.link md).cfg.pmeStatus = false → (s.wantLink md).wakeOut = true) := by
  rw [State.wantLink_eq]
  cases hp : (s.link md).cfg.pmeStatus
  · rw [if_pos (by simp [Link.wakes, hd, he, hp]), State.link_setWake, State.link_setLink]
    exact ⟨rfl, fun _ => rfl⟩
  · obtain ⟨x, hx⟩ := (s.link md).wanted_eq
    rw [if_neg (by simp [Link.wakes, hp]), State.link_setLink, hx]
    exact ⟨hp, fun hf => by cases hf⟩

theorem State.pbaDue_link (s : State) (md i : Nat) : (s.pbaDue md).link i = s.link i :=
  State.each_induction (P := fun t => t.link i = s.link i) _ rfl fun t n ht => by
    dsimp only
    split
    · exact ht
    · exact ht

theorem State.dropBatches_link (s : State) (md i : Nat) : (s.dropBatches md).link i = s.link i :=
  State.each_induction (P := fun t => t.link i = s.link i) _ rfl fun t b ht =>
    State.each_induction (P := fun t => t.link i = s.link i) _ ht fun t n ht => by
      split
      · exact ht
      · exact ht

/-- A conventional reset, module by module (R65). -/
theorem State.convReset_link (s : State) (md i : Nat) : (s.convReset md).link i =
    (s.setLink md { s.link md with cfg := {}, crcRetry := 0, retrain := 0, down := 0 }).link i := by
  have hw : ∀ t : State, (t.wakeEval).link i = t.link i := fun _ => rfl
  unfold State.convReset
  rw [hw, State.updLink_def]
  by_cases hi : i = 0 ↔ md = 0
  · rw [State.link_congr _ hi, State.link_setLink, State.link_congr _ hi, State.link_setLink, State.dropBatches_link, State.pbaDue_link]
  · rw [State.link_setLink_other _ _ hi, State.link_setLink_other _ _ hi, State.dropBatches_link, State.pbaDue_link]

/-! ### Vectors -/

/-- A vector's message, with the function unmasked and able to issue requests and the vector unmasked, is sent and its PBA bit cleared
(R73). -/
theorem State.pbaSend_one {s : State} {md v : Nat} (he : (s.link md).cfg.msixEn = true) (hi : (s.link md).canIssue = true)
    (hp : (s.link md).cfg.pba.contains v = true) (hm : ((s.link md).cfg.ent v).mask = false) (hf : (s.link md).cfg.funcMask = false) :
    s.pbaSend md [v] = (s.updCfg md fun c => { c with pba := c.pba.filter (· ≠ v) }).egress md (.msix v) ((s.link md).cfg.ent v).addr
      (leBytes 4 ((s.link md).cfg.ent v).data.toNat) false := by
  show (if _ then _ else s) = _
  rw [if_pos]
  simp only [he, hi, hp, hm, hf]
  rfl

/-- What stays behind a module's messages of a vector is no message of it (R74). -/
theorem kind_of_mem_splitVec {v : Nat} {l : List Egress} : ∀ w ∈ (splitVec v l).2, w.kind ≠ .msix v := by
  induction l with
  | nil => intro w hw; cases hw
  | cons e r ih =>
    intro w hw
    unfold splitVec at hw
    dsimp only at hw
    split at hw
    · exact ih w hw
    · rename_i hn
      rcases List.mem_cons.mp hw with rfl | hr
      · exact fun hk => hn (.inl hk)
      · exact ih w hr

/-! ### Rows -/

theorem Emits.setLink (s : State) (md : Nat) (l : Link) : Emits s (s.setLink md l) := State.setLink_emits s md l (Emits.refl s)

/-- A configuration space in which, from c to d, only what sending changes has changed. -/
theorem Flows.cfg {s t : State} (h : Flows s t) (md : Nat) :
    (t.link md).cfg = { (s.link md).cfg with pba := (t.link md).cfg.pba, pmeStatus := (t.link md).cfg.pmeStatus } :=
  congrArg Link.cfg (h.links md).frame

section Rows

variable {s : State} {md : Nat}

theorem runs_conventionalReset : Runs (.conventionalReset md) s fun t => (t.link md).cfg = {} ∧ (t.link md).crcRetry = 0 ∧ (t.link md).retrain = 0 ∧
    (t.link md).down = 0 ∧ t.link (otherMd md) = s.link (otherMd md) ∧ t.queues = s.queues ∧ Reports s t := by
  have he := State.convReset_emits s md (Emits.refl s)
  refine ⟨_, rfl, ?_⟩
  beta_reduce
  rw [State.convReset_link, State.convReset_link, State.link_setLink, State.link_otherMd_setLink]
  exact ⟨rfl, rfl, rfl, rfl, rfl, he.queues, he.reports⟩

theorem State.srcModule_setLink (s : State) (md : Nat) (l : Link) (n : Nat) : (s.setLink md l).srcModule n = s.srcModule n := by
  unfold State.setLink
  split <;> rfl

/-- What a module holds does not depend on its configuration space (R81). -/
theorem State.holdsRequest_updCfg (s : State) (md : Nat) (f : LinkCfg → LinkCfg) : (s.updCfg md f).holdsRequest md = s.holdsRequest md := by
  simp only [State.updCfg_def, State.holdsRequest, State.link_setLink, State.setLink_batches, State.setLink_srcs, State.srcModule_setLink]

theorem runs_enterD3hot : Runs (.powerStateChange md true) s fun t => (t.link md).cfg.d3 = true ∧ t.link (otherMd md) = s.link (otherMd md) ∧
    ((s.link md).cfg.pmeEn = false ∨ s.holdsRequest md = false → t = s.updCfg md fun c => { c with d3 := true }) ∧
    ((s.link md).cfg.pmeEn = true → s.holdsRequest md = true → (t.link md).cfg.pmeStatus = true ∧
      ((s.link md).cfg.pmeStatus = false → t.wakeOut = true)) ∧ t.queues = s.queues ∧ Reports s t := by
  obtain ⟨u, hu⟩ : ∃ u, u = s.updCfg md fun c => { c with d3 := true } := ⟨_, rfl⟩
  have hl : u.link md = { s.link md with cfg := { (s.link md).cfg with d3 := true } } := by rw [hu, State.updCfg_def, State.link_setLink]
  have hother : u.link (otherMd md) = s.link (otherMd md) := by rw [hu, State.updCfg_def, State.link_otherMd_setLink]
  have hholds : u.holdsRequest md = s.holdsRequest md := by rw [hu, State.holdsRequest_updCfg]
  have hrun : exec (.powerStateChange md true) s = .next (u.wakeCheck md) := by rw [hu]; rfl
  have he : Emits s (u.wakeCheck md) := State.wakeCheck_emits u md (hu ▸ Emits.setLink s md _)
  refine ⟨_, hrun, ?_⟩
  beta_reduce
  rw [← hu]
  refine and_assoc.mp (and_assoc.mp (and_assoc.mp ⟨?_, he.queues, he.reports⟩))
  unfold State.wakeCheck
  dsimp only
  by_cases hw : (s.link md).cfg.pmeEn = true ∧ s.holdsRequest md = true
  · obtain ⟨hpme, hreq⟩ := hw
    obtain ⟨x, p, m, hx⟩ := u.wantLink_link md
    rw [if_pos (by simp [hl, hholds, hpme, hreq])]
    refine ⟨⟨⟨?_, ?_⟩, ?_⟩, fun _ _ => ?_⟩
    · rw [hx, hl]
    · rw [u.wantLink_other (otherMd_ne md), hother]
    · simp [hpme, hreq]
    · have hwake := State.wantLink_pme (s := u) (md := md) (by rw [hl]) (by rw [hl]; exact hpme)
      rwa [hl] at hwake
  · rw [if_neg (by simpa [hl, hholds] using hw)]
    exact ⟨⟨⟨by rw [hl], hother⟩, fun _ => rfl⟩, fun h1 h2 => absurd ⟨h1, h2⟩ hw⟩

theorem NoHostWaits.emits {t : State} (h : NoHostWaits s) (e : Emits s t) : NoHostWaits t := by
  rw [e]
  exact h

theorem runs_leaveD3hot (h : NoHostWaits s) : Runs (.powerStateChange md false) s fun t => (t.link md).cfg.d3 = false ∧
    (t.link md).cfg.bar0 = (s.link md).cfg.bar0 ∧ t.queues = s.queues ∧ Reports s t := by
  obtain ⟨u, hu⟩ : ∃ u, u = s.updCfg md fun c => { c with d3 := false } := ⟨_, rfl⟩
  have hl : (u.link md).cfg = { (s.link md).cfg with d3 := false } := by rw [hu, State.updCfg_def, State.link_setLink]
  obtain ⟨t, ht⟩ : ∃ t, t = (((u.dueSend md).batchSend md).pbaSend md (u.pbaList md)).pump md := ⟨_, rfl⟩
  have hf : Flows u t := by
    rw [ht]
    exact State.pump_flows (State.pbaSend_flows (State.batchSend_flows (State.dueSend_flows (Flows.refl u) md) md) md _) md
  have he : Emits s t := by
    rw [ht]
    refine State.pump_emits _ md (State.pbaSend_emits _ md _ (State.batchSend_emits _ md (State.dueSend_emits u md ?_)))
    exact hu ▸ Emits.setLink s md _
  have hrun : exec (.powerStateChange md false) s = .next t := by
    have hr : exec (.powerStateChange md false) s = .next (t.hostResume md) := by rw [ht, hu]; rfl
    rw [hr, State.hostResume_of_noHostWaits (h.emits he)]
  refine ⟨t, hrun, ?_, ?_, he.queues, he.reports⟩
  · rw [hf.cfg, hl]
  · rw [hf.cfg, hl]

theorem runs_msixEnable (mask : Bool) : Runs (.msixEnable md mask) s fun t => (t.link md).cfg.msixEn = true ∧ (t.link md).cfg.funcMask = mask ∧
    t.queues = s.queues ∧ Reports s t := by
  obtain ⟨u, hu⟩ : ∃ u, u = s.updCfg md fun c => { c with msixEn := true, funcMask := mask } := ⟨_, rfl⟩
  have hl : (u.link md).cfg = { (s.link md).cfg with msixEn := true, funcMask := mask } := by rw [hu, State.updCfg_def, State.link_setLink]
  have hrun : exec (.msixEnable md mask) s = .next ((u.dueSend md).pbaSend md (u.pbaList md)) := by rw [hu]; rfl
  have hf : Flows u ((u.dueSend md).pbaSend md (u.pbaList md)) := State.pbaSend_flows (State.dueSend_flows (Flows.refl u) md) md _
  have he : Emits s ((u.dueSend md).pbaSend md (u.pbaList md)) :=
    State.pbaSend_emits _ md _ (State.dueSend_emits u md (hu ▸ Emits.setLink s md _))
  refine ⟨_, hrun, ?_, ?_, he.queues, he.reports⟩
  · rw [hf.cfg, hl]
  · rw [hf.cfg, hl]

theorem runs_pmeStatusClear (hm : md < 2) : Runs (.pmeStatusClear md) s fun t => (t.link md).cfg = { (s.link md).cfg with pmeStatus := false } ∧
    t.wakeOut = (s.link (otherMd md)).cfg.pmeStatus ∧ t.link (otherMd md) = s.link (otherMd md) ∧ Reports s t := by
  have hw : ∀ (t : State) i, (t.wakeEval).link i = t.link i := fun _ _ => rfl
  refine ⟨_, rfl, ?_, ?_, ?_, State.wakeEval_reports _ (State.updCfg_reports s md _ (Reports.refl s))⟩
  · rw [hw, State.updCfg_def, State.link_setLink]
  · obtain rfl | rfl : md = 0 ∨ md = 1 := by omega
    · rfl
    · exact Bool.or_false _
  · rw [hw, State.updCfg_def, State.link_otherMd_setLink]

end Rows

/-! ### Accesses to the table of vectors -/

theorem State.out_setLink (s : State) (md n : Nat) (l : Link) : (s.setLink md l).out n = (s.out n).setLink md l := by
  unfold State.setLink
  split <;> rfl

/-- A table of vectors with the Mask bit of one written (R73, R74). -/
def LinkCfg.masked (c : LinkCfg) (v : Nat) (mask : Bool) : LinkCfg := { c with msix := c.msix.set v { c.ent v with mask } }

theorem LinkCfg.ent_masked (c : LinkCfg) (v : Nat) (mask : Bool) : (c.masked v mask).ent v = { c.ent v with mask } := Table.get_set_same _ _ _ _

theorem LinkCfg.ent_masked_ne (c : LinkCfg) {v k : Nat} (mask : Bool) (h : k ≠ v) : (c.masked v mask).ent k = c.ent k := Table.get_set_ne _ _ _ h

/-- An access to the table of vectors with Memory Space Enable clear is an Unsupported Request (R63). -/
theorem State.access_closed {s : State} {md : Nat} (off : Nat) (k : State → State) (hm : md < 2) (hs : s.linkServed = true) (hc : (s.link md).cfg.memEn = false) :
    s.access md off k = s.unsupported md false := by
  have hh : isHost md = true := by
    obtain rfl | rfl : md = 0 ∨ md = 1 := by omega
    · rfl
    · rfl
  exact if_pos (by simp [State.noBar, hh, hs, hc])

section Vectors

variable {s : State} {md v : Nat}

section Reached

variable (ha : s.admits md 0x8000 = true) (hv : v < 2048)

include ha hv

theorem exec_vectorMask : exec (.vectorMask md (some v)) s = .next (s.setMask md v true) := by
  refine congrArg Host.Outcome.next ((State.access_of_admits _ ha (by decide) (by decide)).trans ?_)
  exact if_pos hv

theorem exec_vectorUnmask : exec (.vectorUnmask md (some v)) s = .next (s.setMask md v false) := by
  refine congrArg Host.Outcome.next ((State.access_of_admits _ ha (by decide) (by decide)).trans ?_)
  exact if_pos hv

theorem exec_vectorControlRead : exec (.vectorControlRead md v) s = .next (s.ctlRead md v) := by
  refine congrArg Host.Outcome.next ((State.accessR_of_admits _ ha (by decide) (by decide)).trans ?_)
  exact if_pos hv

theorem runs_vectorMask : Runs (.vectorMask md (some v)) s fun t => (t.link md).cfg.ent v = { (s.link md).cfg.ent v with mask := true } ∧
    (∀ k, k ≠ v → (t.link md).cfg.ent k = (s.link md).cfg.ent k) ∧ (t.link md).queue = (s.link md).queue ∧ t.queues = s.queues ∧ Reports s t := by
  have hset : s.setMask md v true = s.updCfg md fun c => c.masked v true := rfl
  have he := Emits.setLink s md { s.link md with cfg := (s.link md).cfg.masked v true }
  refine ⟨_, exec_vectorMask ha hv, ?_⟩
  beta_reduce
  rw [hset, State.updCfg_def, State.link_setLink]
  exact ⟨LinkCfg.ent_masked _ v true, fun k hk => LinkCfg.ent_masked_ne _ true hk, rfl, he.queues, he.reports⟩

theorem runs_vectorUnmask (hen : (s.link md).cfg.msixEn = true) (hf : (s.link md).cfg.funcMask = false) (hi : (s.link md).canIssue = true)
    (hh : (s.link md).holding = false) (hp : (s.link md).cfg.pba.contains v = true) :
    Runs (.vectorUnmask md (some v)) s fun t => ((t.link md).cfg.ent v).mask = false ∧ (t.link md).cfg.pba.contains v = false ∧
      (∃ w ∈ (t.link md).queue, w.kind = .msix v ∧ w.addr = ((s.link md).cfg.ent v).addr) ∧ t.queues = s.queues ∧ Reports s t := by
  obtain ⟨u, hu⟩ : ∃ u, u = s.updCfg md fun c => c.masked v false := ⟨_, rfl⟩
  have hl : u.link md = { s.link md with cfg := (s.link md).cfg.masked v false } := by rw [hu, State.updCfg_def, State.link_setLink]
  have hent : (u.link md).cfg.ent v = { (s.link md).cfg.ent v with mask := false } := by
    rw [hl]
    exact LinkCfg.ent_masked _ v false
  have hset : s.setMask md v false = u.pbaSend md [v] := by rw [hu]; rfl
  have he : Emits s (u.pbaSend md [v]) := State.pbaSend_emits u md [v] (hu ▸ Emits.setLink s md _)
  refine ⟨_, exec_vectorUnmask ha hv, ?_⟩
  beta_reduce
  rw [hset]
  refine and_assoc.mp (and_assoc.mp ⟨?_, he.queues, he.reports⟩)
  rw [State.pbaSend_one (by rw [hl]; exact hen) (by rw [hl]; exact hi) (by rw [hl]; exact hp) (by rw [hent]) (by rw [hl]; exact hf)]
  obtain ⟨x, hx⟩ : ∃ x, x = u.updCfg md fun c => { c with pba := c.pba.filter (· ≠ v) } := ⟨_, rfl⟩
  have hxl : x.link md = { u.link md with cfg := { (u.link md).cfg with pba := (u.link md).cfg.pba.filter (· ≠ v) } } := by
    rw [hx, State.updCfg_def, State.link_setLink]
  have hxh : (x.link md).holding = false := by
    rw [hxl, hl]
    exact hh
  rw [← hx]
  refine ⟨?_, ?_⟩
  · rw [State.egress_flowing hxh]
    obtain ⟨a, p, m, hw⟩ := (x.setLink md ((x.link md).pushed ((x.link md).nextWrite (.msix v) ((u.link md).cfg.ent v).addr
      (leBytes 4 ((u.link md).cfg.ent v).data.toNat) false))).wantLink_link md
    rw [hw, State.link_setLink, hxl]
    refine ⟨?_, by simp [Link.pushed]⟩
    show ((u.link md).cfg.ent v).mask = false
    rw [hent]
  · obtain ⟨w, hw, hk, haddr, -⟩ := State.egress_mem hxh (.msix v) ((u.link md).cfg.ent v).addr (leBytes 4 ((u.link md).cfg.ent v).data.toNat) false
    exact ⟨w, hw, hk, by rw [haddr, hent]⟩

theorem runs_vectorControlRead (hu : (s.link md).usable = true) : Runs (.vectorControlRead md v) s fun t =>
    t.readOut.toNat = b2n ((s.link md).cfg.ent v).mask ∧ (∀ w ∈ (t.link md).queue, w.kind ≠ .msix v) ∧
    (t.link md).cfg = (s.link md).cfg ∧ t.link (otherMd md) = s.link (otherMd md) ∧ Reports { s with readOut := t.readOut } t := by
  have hrun : s.ctlRead md v = (s.setLink md ((s.link md).sendUpTo v)).out (b2n ((s.link md).cfg.ent v).mask) :=
    if_pos (by rw [hu, Bool.or_true])
  have hb := b2n_le_one ((s.link md).cfg.ent v).mask
  have hout : ∀ (t : State) (n i : Nat), (t.out n).link i = t.link i := fun _ _ _ => rfl
  refine ⟨_, exec_vectorControlRead ha hv, ?_⟩
  beta_reduce
  rw [hrun, hout, hout, State.link_setLink, State.link_otherMd_setLink]
  refine ⟨?_, kind_of_mem_splitVec, rfl, rfl, ?_⟩
  · show (BitVec.ofNat 64 _).toNat = _
    rw [BitVec.toNat_ofNat]
    exact Nat.mod_eq_of_lt (by omega)
  · rw [State.out_setLink, State.setLink_readOut]
    exact State.setLink_reports _ md _ (Reports.refl (s.out _))

end Reached

/-- An access to the table of vectors with Memory Space Enable clear is recorded, and masks nothing (R63). -/
theorem runs_vectorClosed (hm : md < 2) (hs : s.linkServed = true) (hc : (s.link md).cfg.memEn = false) {i : Instr}
    (hi : i ∈ [Instr.vectorMask md (some v), .vectorUnmask md (some v)]) :
    Runs i s fun t => bitOf (t.link md).cfg.aerUnc 20 = true ∧ (t.link md).cfg.msix = (s.link md).cfg.msix ∧ (t.link md).queue = (s.link md).queue ∧
      t.link (otherMd md) = s.link (otherMd md) ∧ Reports { s with freeNext := t.freeNext } t := by
  have hrun : exec i s = .next (s.unsupported md false) := by
    simp only [List.mem_cons, List.not_mem_nil, or_false] at hi
    rcases hi with rfl | rfl
    · exact congrArg Host.Outcome.next (State.access_closed _ _ hm hs hc)
    · exact congrArg Host.Outcome.next (State.access_closed _ _ hm hs hc)
  have hl : s.takeHeader.2.link = s.link := rfl
  refine ⟨_, hrun, ?_⟩
  beta_reduce
  unfold State.unsupported
  obtain ⟨⟨hcfg, hlink⟩, hunc, -, -⟩ := (s.link md).aerError_records 20 s.takeHeader.1 rfl (adv := false) rfl
  rw [State.aerUnc_eq, State.link_setLink, State.link_otherMd_setLink, State.setLink_freeNext, hl]
  refine ⟨by rw [hunc]; exact bitOf_or_pow _ (by decide), by rw [hcfg], by rw [hlink], rfl, ?_⟩
  exact State.setLink_reports _ md _ (Reports.refl _)

end Vectors

/-- Settles O19: what each event does to its function is followed through the sending that it makes; an access to a vector reaches its table
where Memory Space Enable is set, and else is recorded as an error. -/
theorem functionConfigurationEvents : Obligations.FunctionConfigurationEvents := fun _ _ hm =>
  ⟨runs_conventionalReset, runs_enterD3hot, fun h => runs_leaveD3hot h, fun mask => runs_msixEnable mask,
    fun ha => ⟨fun _ hv => runs_vectorMask ha hv, fun _ hv hen hf hi hh hp => runs_vectorUnmask ha hv hen hf hi hh hp,
      fun _ hv hu => runs_vectorControlRead ha hv hu⟩,
    fun hs hc _ _ hi => runs_vectorClosed hm hs hc hi, runs_pmeStatusClear hm⟩

end Sys2Proof.Machine
end

section
/-! PROOFS. Records, head records, HEAD, fences and the reads of queues only add to what the modules hold (R105, R115, R118 to R123). -/

namespace Sys2Proof.Machine
open Sys2Proof

/-- What Queue.Rests speaks of. -/
abbrev Queue.standing (x : Queue) := (x.module, x.fetch, x.why, x.errIdx, x.st)

/-- A queue of which what the arbiter judges by has not changed. -/
theorem Queue.Rests.same {x y : Queue} (e : y.standing = x.standing) : x.Rests y := by
  simp only [Queue.standing, Prod.mk.injEq] at e
  obtain ⟨hm, hf, hw, he, hs⟩ := e
  exact ⟨hm, hf, hw, he, .inl hs⟩

theorem mem_of_updateHead {l m : List Egress} {q : Nat} {b : List Byte} (h : updateHead l q b = some m) :
    (∀ w ∈ l, w.kind.Stays → w ∈ m) ∧ (l ≠ [] → m ≠ []) := by
  unfold updateHead at h
  split at h
  · cases h
  · split at h
    · obtain rfl := Option.some.inj h
      exact ⟨fun w hw hs => List.mem_append_left _ (List.mem_filter.mpr ⟨hw, decide_eq_true (hs q)⟩), fun _ => by simp⟩
    · obtain rfl := Option.some.inj h
      exact ⟨fun w hw hs => List.mem_map.mpr ⟨w, hw, if_neg (hs q)⟩, fun hn => by simpa using hn⟩

/-- An update of both modules in which each has only had reads changed. -/
theorem Flows.links01 {r t : State} {a b : Link} (g : Flows r t) (h0 : t.link0.Sends a) (h1 : t.link1.Sends b) : Flows r { t with link0 := a, link1 := b } :=
  Flows.setLink (md := 1) (g.setLink (md := 0) h0) h1

section Records

variable {r s : State} (h : Flows r s)

include h

theorem State.dsSend_flows (ty : TxType) (prio : Bool) (body : TxBody) : Flows r (s.dsSend ty prio body) := .ite (h.same (by rfl)) h

theorem State.mirror_flows (ty : TxType) (prio : Bool) (body : TxBody) : Flows r (s.mirror ty prio body) := .ite (State.dsSend_flows h _ _ _) h

theorem State.gateRec_flows (md : Nat) (w : Egress) (raise : Bool) : Flows r (s.gateRec md w raise) := h.same (by rfl)

theorem State.enterHead_flows (q : Nat) (bytes : List Byte) (raise : Bool) : Flows r (s.enterHead q bytes raise) := by
  have h1 : Flows r (match updateHead (s.link (s.qModule q)).queue q (stampFrame bytes s.frameLo) with
      | some ql => s.setLink (s.qModule q) { s.link (s.qModule q) with queue := ql }
      | none => s.heldPulse (s.egress (s.qModule q) (.head q) (s.q q).hrec (stampFrame bytes s.frameLo) false)) := by
    split
    · rename_i ql hu
      obtain ⟨hmem, hfull⟩ := mem_of_updateHead hu
      exact h.setLink ⟨rfl, hmem, fun _ hw _ => hw, hfull, id, fun _ => rfl, id⟩
    · exact State.heldPulse_flows (State.egress_flows h _ _ _ _ _) s
  exact .ite (State.pulse_flows h1 q) h1

theorem State.putRec_flows (md : Nat) (w : Egress) {enter : State → State} (henter : ∀ t, Flows r t → Flows r (enter t)) :
    Flows r (s.putRec md w enter) := by
  unfold State.putRec
  exact .ite (h.same (by rfl)) (.ite (State.gateRec_flows (State.mirror_flows h _ _ _) _ _ _) (henter s h))

theorem State.writeHead_flows (q : Nat) : Flows r (s.writeHead q) := by
  unfold State.writeHead
  dsimp only
  have h1 : Flows r (s.updQ q fun x => { x with lastHead := some (s.q q).headFields, raise := false }) := h.setQ (.same (by rfl))
  split
  · exact h
  · split
    · exact State.gateRec_flows (State.mirror_flows h1 _ _ _) _ _ _
    · exact State.enterHead_flows h1 _ _ _

theorem State.advance0_flows (q : Nat) : Flows r (s.advance0 q) := by
  unfold State.advance0
  dsimp only
  split
  · exact State.writeHead_flows h q
  · refine State.writeHead_flows (h.setQ ?_) q
    split
    · rename_i hd
      obtain ⟨hst, -, -⟩ := hd
      exact ⟨rfl, rfl, rfl, rfl, .inr hst⟩
    · exact .same (by rfl)

theorem State.markDone_flows (q : Nat) (cnt : Word32) : Flows r (s.markDone q cnt) := h.setQ (.same (by rfl))

theorem State.enterEntry_flows (q : Nat) (cnt : Word32) (b : List Byte) : Flows r (s.enterEntry q cnt b) := by
  have hsend := State.send_flows h (s.qModule q) (.entry q cnt) ((s.q q).statAddr cnt) (stampFrame b s.frameLo) false
  exact .ite hsend (State.advance0_flows (State.markDone_flows hsend q cnt) q)

theorem State.finish0_flows (q : Nat) (cnt : Word32) (x : StatusRec) : Flows r (s.finish0 q cnt x) :=
  State.putRec_flows h _ _ fun _ ht => State.enterEntry_flows ht q cnt _

theorem State.finishFence_flows (q : Nat) (f : Word32) (detail : Nat) : Flows r (s.finishFence q f detail) := by
  unfold State.finishFence
  split
  · exact h.setQ (.same (by rfl))
  · exact .ite h (State.finish0_flows (h.setQ (.same (by rfl))) q f _)

theorem State.settle_flows (n : Nat) : Flows r (s.settle n) := by
  induction n generalizing s with
  | zero => exact h
  | succ n ih =>
    unfold State.settle
    split
    · exact h
    · exact ih (State.finishFence_flows h _ _ 0)

theorem State.settled_flows : Flows r s.settled := State.settle_flows h _

theorem State.advance_flows (q : Nat) : Flows r (s.advance q) := State.settled_flows (State.advance0_flows h q)

theorem State.cancelReads_flows (q : Nat) : Flows r (s.cancelReads q) := by
  unfold State.cancelReads
  dsimp only
  refine Flows.links01 ?_ ?_ ?_
  · refine .ite (.setQ ?_ (.same (by rfl))) ?_
    · exact .ite (h.setQ (.same (by rfl))) h
    · exact .ite (h.setQ (.same (by rfl))) h
  · exact .same (by rfl) (by exact id)
  · exact .same (by rfl) (by exact id)

theorem State.staleSlots_flows (q : Nat) : Flows r (s.staleSlots q) :=
  .setQ (Flows.links01 (State.cancelReads_flows h q) (.same (by rfl) (by exact id)) (.same (by rfl) (by exact id))) (.same (by rfl))

theorem State.askSlots_flows (q : Nat) (x : ReadReq) : Flows r (s.askSlots q x) := by
  unfold State.askSlots
  dsimp only
  exact .ite (State.askRead_flows (h.setQ (.same (by rfl))) _ _) (h.setQ (.same (by rfl)))

theorem State.slotsGo_flows : Flows r s.slotsGo := by
  refine Flows.each _ (fun t q ht => ?_) h
  split
  · exact ht
  · exact State.askSlots_flows ht q _

end Records

end Sys2Proof.Machine
end

section
/-! PROOFS. Errors of the host link: what AER records, and what a read that failed ends (R70, R71, R82, R125, R154, R381). -/

namespace Sys2Proof.Machine
open Sys2Proof

/-! ### Errors that are only recorded -/

section Recorded

variable {s : State} {md : Nat}

theorem runs_d2dCrcError : Runs (.d2dCrcError md) s fun t => (t.link md).crcRetry = satInc (s.link md).crcRetry ∧
    (t.link md).cfg.aerCor = (s.link md).cfg.aerCor ||| 1 ∧ t.queues = s.queues ∧ Reports s t := by
  obtain ⟨u, hu⟩ : ∃ u, u = s.updLink md fun l => { l with crcRetry := satInc l.crcRetry } := ⟨_, rfl⟩
  have hul : u.link md = { s.link md with crcRetry := satInc (s.link md).crcRetry } := by rw [hu, State.updLink_def, State.link_setLink]
  obtain ⟨k, hk, ⟨-, hframe⟩, hcor⟩ := u.aerCor_eq md 0
  have hrun : exec (.d2dCrcError md) s = .next ((u.aerCor md 0).linkPulse md) := by rw [hu]; rfl
  have hl : (u.aerCor md 0).link md = k := by rw [hk, State.link_setLink]
  have hf : Flows (u.aerCor md 0) ((u.aerCor md 0).linkPulse md) := State.pulse_flows (Flows.refl _) _
  have he : Emits s ((u.aerCor md 0).linkPulse md) := State.linkPulse_emits _ md (State.aerCor_emits u md 0 (hu ▸ Emits.setLink s md _))
  refine ⟨_, hrun, ?_, ?_, he.queues, he.reports⟩
  · rw [(hf.links md).frame, hl, hframe, hul]
  · rw [hf.cfg, hl, hcor, hul]
    rfl

theorem runs_unexpectedCompletion : Runs (.unexpectedCompletion md) s fun t =>
    (bitOf (s.link md).cfg.aerSev 16 = true → bitOf (t.link md).cfg.aerUnc 16 = true ∧ bitOf (t.link md).cfg.devStat 2 = true) ∧
    (bitOf (s.link md).cfg.aerSev 16 = false → bitOf (t.link md).cfg.aerCor 13 = true ∧ bitOf (t.link md).cfg.devStat 0 = true ∧
      (bitOf (s.link md).cfg.aerCorMask 13 = false → bitOf (t.link md).cfg.aerUnc 16 = true)) ∧
    t = { s.setLink md { s.link md with cfg := (t.link md).cfg, sent := (t.link md).sent } with freeNext := t.freeNext } := by
  have hl : s.takeHeader.2.link = s.link := rfl
  have hset : ∀ l, s.takeHeader.2.setLink md l = { s.setLink md l with freeNext := (s.takeHeader.2.setLink md l).freeNext } := fun l => by
    unfold State.setLink
    split <;> rfl
  refine ⟨_, rfl, ?_⟩
  beta_reduce
  rw [State.aerUnc_eq, State.link_setLink, hl]
  have hend : (s.link md).Records ((s.link md).aerError 16 s.takeHeader.1 true) → s.takeHeader.2.setLink md ((s.link md).aerError 16 s.takeHeader.1 true) =
      { s.setLink md { s.link md with cfg := ((s.link md).aerError 16 s.takeHeader.1 true).cfg, sent := ((s.link md).aerError 16 s.takeHeader.1 true).sent } with
        freeNext := (s.takeHeader.2.setLink md ((s.link md).aerError 16 s.takeHeader.1 true)).freeNext } := fun ⟨_, hframe⟩ => by
    rw [← hframe]
    exact hset _
  cases hsev : bitOf (s.link md).cfg.aerSev 16
  · obtain ⟨hrec, hcor, ⟨d, hd⟩, hunc⟩ := (s.link md).aerError_advises 16 s.takeHeader.1 hsev
    refine ⟨fun hf => (by cases hf), fun _ => ⟨?_, ?_, fun hm => ?_⟩, hend hrec⟩
    · rw [hcor]
      exact bitOf_or_pow (b := 13) _ (by decide)
    · rw [hd]
      exact bitOf_or_pow (b := 0) _ (by decide)
    · rw [hunc hm]
      exact bitOf_or_pow _ (by decide)
  · obtain ⟨hrec, hunc, ⟨d, hd⟩, -⟩ := (s.link md).aerError_records 16 s.takeHeader.1 (sev := 2) (by rw [hsev]; rfl) (adv := true) (by rw [hsev]; rfl)
    refine ⟨fun _ => ⟨?_, ?_⟩, fun hf => (by cases hf), hend hrec⟩
    · rw [hunc]
      exact bitOf_or_pow _ (by decide)
    · rw [hd]
      exact bitOf_or_pow (b := 2) _ (by decide)

/-- Errors of requests that the die does not serve, none of them advisory: their bits (R71, R82). -/
theorem runs_malformedRequest (hdr : BitVec 128) {p : BadRequest × Nat} (hp : p ∈ [(BadRequest.malformed, 18), (.poisoned, 12), (.unsupported true, 20)]) :
    Runs (.malformedRequest ⟨md, p.1, hdr⟩) s fun t => bitOf (t.link md).cfg.aerUnc p.2 = true ∧
      (bitOf (s.link md).cfg.aerMask p.2 = false → (s.link md).cfg.reports (if bitOf (s.link md).cfg.aerSev p.2 then 2 else 1) (p.2 = 20) = true →
        (t.link md).sent = (if bitOf (s.link md).cfg.aerSev p.2 then LinkMsg.errFatal else LinkMsg.errNonfatal) :: (s.link md).sent) ∧
      t = s.setLink md { s.link md with cfg := (t.link md).cfg, sent := (t.link md).sent } := by
  have hrun : exec (.malformedRequest ⟨md, p.1, hdr⟩) s = .next (s.aerUnc md p.2 hdr false) ∧ p.2 < 32 := by
    simp only [List.mem_cons, List.not_mem_nil, or_false] at hp
    rcases hp with rfl | rfl | rfl <;> exact ⟨rfl, by decide⟩
  obtain ⟨hexec, hlt⟩ := hrun
  obtain ⟨⟨-, hframe⟩, hunc, -, hsent⟩ := (s.link md).aerError_records p.2 hdr rfl (adv := false) rfl
  refine ⟨_, hexec, ?_⟩
  beta_reduce
  rw [State.aerUnc_eq, State.link_setLink]
  refine ⟨by rw [hunc]; exact bitOf_or_pow _ hlt, fun hm hr => ?_, by rw [← hframe]⟩
  rw [hsent hm hr]
  split <;> rfl

end Recorded

/-! ### Reads that fail -/

theorem Reports.noneWait {s t : State} (h : Reports s t) (hn : s.noneWait) : t.noneWait := by
  rw [h]
  exact hn

/-- The read of a RUNNING queue's producer count fails: the queue stops, and of its module only the read goes (R82, R125). -/
theorem State.readFails_pcnt {s : State} {md idx q : Nat} {r : HostRead} (cause : Nat) (hr : (s.link md).reads[idx]? = some r) (hreq : r.req = .pcnt q)
    (hst : (s.q q).st = .running) (hrd : (s.q q).reading = false) (hn : s.noneWait) :
    ((s.readFails md idx cause).q q).st = .error ∧ ((s.readFails md idx cause).q q).why = 7 ∧
      ((s.readFails md idx cause).q q).errIdx = (s.q q).fetch ∧
      ((s.readFails md idx cause).link md).cfg.aerUnc = (s.link md).cfg.aerUnc ∧ Reports s (s.readFails md idx cause) := by
  obtain ⟨u, hu⟩ : ∃ u, u = s.setLink md { s.link md with reads := (s.link md).reads.eraseIdx idx } := ⟨_, rfl⟩
  have huq : u.q q = s.q q := by
    unfold State.q
    rw [hu, State.setLink_queues]
  obtain ⟨v, hv⟩ : ∃ v, v = u.setQ q { u.q q with st := .error, why := 7, errIdx := (u.q q).fetch, onDie := [], raise := true, turnLeft := 0, failing := 0 } :=
    ⟨_, rfl⟩
  obtain ⟨t, ht⟩ : ∃ t, t = (((v.staleSlots q).advance q).slotsGo).pumpAll md := ⟨_, rfl⟩
  have hstop : u.queueReadFails q (.pcnt q) = (v.staleSlots q).advance q := by
    have hs : u.queueReadFails q (.pcnt q) = u.stopQueue q 7 (u.q q).fetch := by
      rw [← huq] at hst hrd
      unfold State.queueReadFails
      dsimp only
      rw [if_pos hst, if_neg (by rw [hrd]; decide)]
    rw [hs, hv]
    rfl
  have hrep : Reports s t := by
    have hur : Reports s (u.queueReadFails q (.pcnt q)) := by
      rw [hstop, hv]
      refine State.advance_reports _ q (State.staleSlots_reports _ q (State.setQ_reports _ q _ ?_))
      exact hu ▸ State.setLink_reports s md _ (Reports.refl s)
    rw [ht, ← hstop]
    exact State.pumpAll_reports _ md (State.slotsGo_reports _ hur)
  have hflow : Flows v t := by
    rw [ht]
    exact State.pump_flows (State.pump_flows (State.slotsGo_flows (State.advance_flows (State.staleSlots_flows (Flows.refl v) q) q)) md) _
  have heq : s.readFails md idx cause = t := by
    have hfail : s.readFails md idx cause = (((u.queueReadFails q (.pcnt q)).slotsGo).pumpAll md).served := by
      unfold State.readFails
      rw [hr]
      dsimp only
      rw [hreq, hu]
      rfl
    rw [hfail, hstop, ← ht, State.served_of_noneWait (hrep.noneWait hn)]
  have hvq : v.q q = { s.q q with st := .error, why := 7, errIdx := (s.q q).fetch, onDie := [], raise := true, turnLeft := 0, failing := 0 } := by
    rw [hv, State.q_setQ, huq]
  have hvl : v.link md = { s.link md with reads := (s.link md).reads.eraseIdx idx } := by rw [hv, State.link_setQ, hu, State.link_setLink]
  have hq := hflow.queues q
  rw [hvq] at hq
  rw [heq]
  refine ⟨?_, hq.why, hq.errIdx, ?_, hrep⟩
  · rcases hq.st with hst | hst
    · exact hst
    · cases hst
  · rw [hflow.cfg, hvl]

theorem State.packetFails_running {s : State} (h : s.aq.st = .running) : s.packetFails = s.setAq { s.aq with reading := false, st := .error } := by
  unfold State.packetFails
  rw [if_pos h]
  rfl

theorem State.setAq_setLink (s : State) (md : Nat) (l : Link) (a : Aq) : (s.setLink md l).setAq a = (s.setAq a).setLink md l := by
  unfold State.setLink
  split <;> rfl

/-- The packet read of a RUNNING admin queue fails: the admin queue stops (R381). -/
theorem State.readFails_admin {s : State} {md idx : Nat} {r : HostRead} (cause : Nat) (hr : (s.link md).reads[idx]? = some r) (hreq : r.req = .admin)
    (hst : s.aq.st = .running) (hn : s.noneWait) :
    (s.readFails md idx cause).aq = { s.aq with reading := false, st := .error } ∧
      Reports (s.setAq { s.aq with reading := false, st := .error }) (s.readFails md idx cause) := by
  obtain ⟨u, hu⟩ : ∃ u, u = (s.setAq { s.aq with reading := false, st := .error }).setLink md
      { s.link md with reads := (s.link md).reads.eraseIdx idx } := ⟨_, rfl⟩
  have hrep : Reports (s.setAq { s.aq with reading := false, st := .error }) (u.pumpAll md) := by
    refine State.pumpAll_reports u md ?_
    exact hu ▸ State.setLink_reports _ md _ (Reports.refl _)
  have hfails : (s.setLink md { s.link md with reads := (s.link md).reads.eraseIdx idx }).packetFails = u := by
    rw [State.packetFails_running (by rw [State.setLink_aq]; exact hst), State.setLink_aq, State.setAq_setLink, hu]
  have heq : s.readFails md idx cause = u.pumpAll md := by
    have hfail : s.readFails md idx cause = (u.pumpAll md).served := by
      unfold State.readFails
      rw [hr]
      dsimp only
      rw [hreq, ← hfails]
      rfl
    rw [hfail, State.served_of_noneWait (hrep.noneWait hn)]
  rw [heq]
  refine ⟨?_, hrep⟩
  rw [hrep]
  rfl

/-! ### Completions that fail or do not come -/

section Failing

variable {s : State} {md idx : Nat} {r : HostRead} (hr : (s.link md).reads[idx]? = some r)

include hr

theorem lt_length_of_read : idx < (s.link md).reads.length := (List.getElem?_eq_some_iff.mp hr).1

/-- The state in which the read of a timeout fails: the error is recorded (R70, R82). -/
theorem exec_completionTimeout : exec (.completionTimeout md idx) s = .next ((s.aerUnc md 14 0 false).readFails md idx 1) := by
  refine congrArg Host.Outcome.next ?_
  rw [if_pos (lt_length_of_read hr)]

/-- An error that is recorded leaves the reads that are out, and the queues. -/
theorem State.aerUnc_leaves (bit : Nat) (hdr : BitVec 128) : ∃ u, u = s.aerUnc md bit hdr false ∧ (u.link md).reads[idx]? = some r ∧
    (u.link md).cfg.aerUnc = (s.link md).cfg.aerUnc ||| BitVec.ofNat 32 (2 ^ bit) ∧ u.queues = s.queues ∧ u.aq = s.aq ∧ Reports s u := by
  obtain ⟨⟨-, hframe⟩, hunc, -, -⟩ := (s.link md).aerError_records bit hdr rfl (adv := false) rfl
  refine ⟨_, rfl, ?_⟩
  rw [State.aerUnc_eq, State.link_setLink]
  refine ⟨?_, hunc, State.setLink_queues s md _, State.setLink_aq s md _, State.setLink_reports s md _ (Reports.refl s)⟩
  rw [hframe]
  exact hr

theorem runs_pcntTimeout {q : Nat} (hreq : r.req = .pcnt q) (hst : (s.q q).st = .running) (hrd : (s.q q).reading = false) (hn : s.noneWait) :
    Runs (.completionTimeout md idx) s fun t => (t.q q).st = .error ∧ (t.q q).why = 7 ∧
      (t.link md).cfg.aerUnc = (s.link md).cfg.aerUnc ||| 0x4000 ∧ Reports s t := by
  obtain ⟨u, hu, hread, hunc, hqs, -, hrep⟩ := State.aerUnc_leaves hr 14 0
  have hq : u.q q = s.q q := by
    unfold State.q
    rw [hqs]
  obtain ⟨herr, hwhy, -, haer, hfails⟩ := State.readFails_pcnt 1 hread hreq (hq ▸ hst) (hq ▸ hrd) (hrep.noneWait hn)
  refine ⟨_, exec_completionTimeout hr, ?_⟩
  rw [← hu]
  exact ⟨herr, hwhy, haer.trans hunc, hrep.trans hfails⟩

theorem runs_pcntError {q : Nat} (hreq : r.req = .pcnt q) (hst : (s.q q).st = .running) (hrd : (s.q q).reading = false) (hn : s.noneWait)
    (cause : ReadFail) :
    Runs (.completionError md idx cause) s fun t => (t.q q).st = .error ∧ (t.q q).why = 7 ∧
      (t.q q).errIdx = (s.q q).fetch ∧ (cause = .poisoned → (t.link md).cfg.aerUnc = (s.link md).cfg.aerUnc ||| 0x1000) ∧
      Reports { s with freeNext := t.freeNext } t := by
  have hfree : ∀ {u t : State}, Reports u t → u.freeNext = t.freeNext := fun h => by rw [h]
  by_cases hc : cause = .poisoned
  · obtain ⟨u, hu, hread, hunc, hqs, -, hrep⟩ := State.aerUnc_leaves (s := s.takeHeader.2) hr 12 s.takeHeader.1
    have hq : u.q q = s.q q := by
      unfold State.q
      rw [hqs]
      rfl
    obtain ⟨herr, hwhy, hidx, haer, hfails⟩ := State.readFails_pcnt (failCode cause) hread hreq (hq ▸ hst) (hq ▸ hrd) (hrep.noneWait hn)
    have hrun : exec (.completionError md idx cause) s = .next (u.readFails md idx (failCode cause)) := by
      refine congrArg Host.Outcome.next ?_
      rw [if_pos ⟨hc, lt_length_of_read hr⟩, ← hu]
    refine ⟨_, hrun, herr, hwhy, hidx.trans (congrArg Queue.fetch hq), fun _ => haer.trans hunc, ?_⟩
    rw [← hfree (hrep.trans hfails)]
    exact hrep.trans hfails
  · obtain ⟨herr, hwhy, hidx, -, hfails⟩ := State.readFails_pcnt (failCode cause) hr hreq hst hrd hn
    have hrun : exec (.completionError md idx cause) s = .next (s.readFails md idx (failCode cause)) := by
      refine congrArg Host.Outcome.next ?_
      rw [if_neg fun h => hc h.1]
    refine ⟨_, hrun, herr, hwhy, hidx, fun h => absurd h hc, ?_⟩
    rw [← hfree hfails]
    exact hfails

theorem runs_adminTimeout (hreq : r.req = .admin) (hst : s.aq.st = .running) (hn : s.noneWait) :
    Runs (.completionTimeout md idx) s fun t => t.aq = { s.aq with reading := false, st := .error } ∧ Reports { s with aq := t.aq } t := by
  obtain ⟨u, hu, hread, -, -, haq, hrep⟩ := State.aerUnc_leaves hr 14 0
  obtain ⟨hend, hfails⟩ := State.readFails_admin 1 hread hreq (haq ▸ hst) (hrep.noneWait hn)
  rw [haq] at hend hfails
  refine ⟨_, exec_completionTimeout hr, ?_⟩
  rw [← hu]
  refine ⟨hend, ?_⟩
  rw [hend]
  refine Reports.trans (s := u.setAq { s.aq with reading := false, st := .error }) ?_ hfails
  unfold Reports State.setAq at *
  rw [hrep]

end Failing

/-- Settles O21: AER's record of an error is written out, and the stop of a queue whose read failed changes of the modules only what sending and
reading do. -/
theorem linkErrorRows : Obligations.LinkErrorRows := fun _ _ _ =>
  ⟨runs_d2dCrcError, runs_unexpectedCompletion, fun hdr _ hp => runs_malformedRequest hdr hp,
    fun _ _ _ hr hreq hst hrd hn => ⟨fun cause => runs_pcntError hr hreq hst hrd hn cause, runs_pcntTimeout hr hreq hst hrd hn⟩,
    fun _ _ hr hreq hst hn => runs_adminTimeout hr hreq hst hn⟩

end Sys2Proof.Machine
end

section
/-! PROOFS. What an interrupt event and a record leave of the power registers, and what a halt leaves (R194, R405, R431). -/

namespace Sys2Proof.Machine
open Sys2Proof

/-! ### Wakes that only start -/

/-- Only the latest wake and the wakes under way have changed: every domain is at the level where it was (R405). -/
def Pwr.Woken (p r : Pwr) : Prop :=
  r = { p with doms := r.doms, wakeDom := r.wakeDom, wakeCause := r.wakeCause } ∧ ∀ d, (r.doms.get {} d).level = (p.doms.get {} d).level

theorem Pwr.Woken.refl (p : Pwr) : p.Woken p := ⟨rfl, fun _ => rfl⟩

theorem Pwr.Woken.trans {p q r : Pwr} (h : p.Woken q) (g : q.Woken r) : p.Woken r := by
  obtain ⟨hq, hl⟩ := h
  obtain ⟨hr, gl⟩ := g
  refine ⟨?_, fun d => (gl d).trans (hl d)⟩
  rw [hq] at hr
  exact hr

theorem State.dom_updDom_ne (s : State) {d j : Nat} (f : Dom → Dom) (h : j ≠ d) : (s.updDom d f).dom j = s.dom j := Table.get_set_ne _ _ _ h

/-- A wake changes nothing but the power registers (R405). -/
theorem State.wakeDomain_pwr (s : State) (d cause : Nat) : s.wakeDomain d cause = { s with pwr := (s.wakeDomain d cause).pwr } := by
  unfold State.wakeDomain
  split <;> rfl

theorem State.wakeDomain_woken (s : State) (d cause : Nat) : s.pwr.Woken (s.wakeDomain d cause).pwr := by
  unfold State.wakeDomain
  split
  · refine ⟨rfl, fun j => ?_⟩
    show ((s.updDom d fun x => { x with waking := true }).dom j).level = (s.dom j).level
    by_cases hj : j = d
    · subst hj
      rw [State.dom_updDom]
    · rw [s.dom_updDom_ne _ hj]
  · exact Pwr.Woken.refl _

/-- An event of the interrupt controller (R324, R328, R333): of the power registers it changes what a wake changes. -/
def Stirs (s t : State) : Prop := Signals s t ∧ s.pwr.Woken t.pwr

theorem Stirs.refl (s : State) : Stirs s s := ⟨Signals.refl s, Pwr.Woken.refl _⟩

theorem Stirs.trans {r s t : State} (h : Stirs r s) (g : Stirs s t) : Stirs r t := ⟨h.1.trans g.1, h.2.trans g.2⟩

theorem Stirs.of_pwr {s t : State} (h : Signals s t) (hp : t.pwr = s.pwr) : Stirs s t := ⟨h, hp ▸ Pwr.Woken.refl _⟩

theorem State.wantLink_pwr (s : State) (md : Nat) : (s.wantLink md).pwr = s.pwr := by
  rw [State.wantLink_eq]
  split
  · exact s.setLink_pwr md _
  · exact s.setLink_pwr md _

theorem State.wantMsix_pwr (s : State) (md : Nat) : (s.wantMsix md).pwr = s.pwr := by
  unfold State.wantMsix
  split
  · exact s.wantLink_pwr md
  · rfl

theorem State.egress_pwr (s : State) (md : Nat) (kind : EgKind) (addr : Word64) (bytes : List Byte) (relaxed : Bool) :
    (s.egress md kind addr bytes relaxed).pwr = s.pwr := by
  unfold State.egress
  dsimp only
  split
  · exact s.setLink_pwr md _
  · exact (State.wantLink_pwr _ md).trans (s.setLink_pwr md _)

theorem State.sendMsix_pwr (s : State) (md v : Nat) : (s.sendMsix md v).pwr = s.pwr := by
  unfold State.sendMsix
  dsimp only
  split
  · split
    · rfl
    · exact s.setLink_pwr md _
  · exact s.egress_pwr md _ _ _ _

theorem State.closeBatch_pwr (s : State) (md v : Nat) : (s.closeBatch md v).pwr = s.pwr := by
  unfold State.closeBatch
  split
  · exact State.sendMsix_pwr _ md v
  · split
    · rfl
    · exact State.wantMsix_pwr _ md

theorem State.msixEvent_pwr (s : State) (n : Nat) : (s.msixEvent n).pwr = s.pwr := by
  unfold State.msixEvent
  dsimp only
  split
  · exact State.wantMsix_pwr _ _
  · split
    · split
      · exact s.sendMsix_pwr _ _
      · exact State.wantMsix_pwr _ _
    · split
      · exact State.closeBatch_pwr _ _ _
      · exact State.wantMsix_pwr _ _

theorem State.setSrc_stirs (s : State) (n : Nat) (x : Src) : Stirs s (s.setSrc n x) := .of_pwr rfl rfl

theorem State.route_stirs (s : State) (n : Nat) : Stirs s (s.route n) := by
  refine ⟨s.route_signals n, ?_⟩
  unfold State.route
  dsimp only
  split
  · split
    · exact Pwr.Woken.refl _
    · exact State.wakeDomain_woken _ _ _
  · split
    · exact Pwr.Woken.refl _
    · exact Pwr.Woken.refl _

theorem State.present_stirs (s : State) (n : Nat) : Stirs s (s.present n) := by
  unfold State.present
  dsimp only
  split
  · exact Stirs.refl s
  · split
    · split
      · exact Stirs.refl s
      · exact s.route_stirs n
    · exact .of_pwr (s.msixEvent_signals n) (s.msixEvent_pwr n)

theorem State.edge_stirs (s : State) (n : Nat) : Stirs s (s.edge n) := (s.setSrc_stirs n _).trans (State.present_stirs _ n)

theorem State.heldPulse_stirs {r s : State} (s0 : State) (h : Stirs r s) : Stirs r (s0.heldPulse s) := by
  have h1 : Stirs r (if s.heldSet 0 && !s0.heldSet 0 then s.edge 0x408 else s) := by
    split
    · exact h.trans (s.edge_stirs _)
    · exact h
  unfold State.heldPulse
  dsimp only
  split
  · exact h1.trans (State.edge_stirs _ _)
  · exact h1

theorem State.pulse_stirs (s : State) (n : Nat) : Stirs s (s.pulse n) := by
  unfold State.pulse
  split
  · exact Stirs.refl s
  · exact State.heldPulse_stirs s (s.edge_stirs n)

theorem State.levelEval_stirs (s : State) (n : Nat) : Stirs s (s.levelEval n) := by
  unfold State.levelEval
  extract_lets x on
  clear_value on
  split
  · exact Stirs.refl s
  · split
    · split
      · exact Stirs.refl s
      · exact (s.setSrc_stirs n _).trans (State.present_stirs _ n)
    · split
      · exact (s.setSrc_stirs n _).trans (State.route_stirs _ n)
      · exact Stirs.refl s

theorem State.setLine_stirs (s : State) (n : Nat) (level : Bool) : Stirs s (s.setLine n level) := by
  have h1 : ∀ x, Stirs s (s.setSrc n x) := s.setSrc_stirs n
  unfold State.setLine
  dsimp only
  split
  · exact Stirs.refl s
  · split
    · exact (h1 _).trans (State.levelEval_stirs _ n)
    · split
      · exact State.heldPulse_stirs _ ((h1 _).trans (State.edge_stirs _ n))
      · exact h1 _

/-- Steps that are each an event are an event. -/
theorem Stirs.each {α : Type} {s : State} (l : List α) {f : State → α → State} (step : ∀ t a, Stirs t (f t a)) : Stirs s (s.each l f) :=
  State.each_induction (P := Stirs s) l (Stirs.refl s) fun t a h => h.trans (step t a)

theorem State.reofferMember_stirs (s : State) (i : Nat) : Stirs s (s.reofferMember i) := .each _ fun t n => by
  dsimp only
  split
  · exact t.route_stirs n
  · exact Stirs.refl t

theorem State.reofferAll_stirs (s : State) : Stirs s s.reofferAll := .each _ State.reofferMember_stirs

/-! ### Records -/

/-- Only the journal and the wakes that its writes ask for have changed (R431). -/
def Recorded (s t : State) : Prop :=
  t = { s with journal := t.journal, jheld := t.jheld, jseq := t.jseq, pwr := t.pwr } ∧ s.pwr.Woken t.pwr

theorem Recorded.refl (s : State) : Recorded s s := ⟨rfl, Pwr.Woken.refl _⟩

theorem Recorded.trans {r s t : State} (h : Recorded r s) (g : Recorded s t) : Recorded r t := by
  obtain ⟨hs, hp⟩ := h
  obtain ⟨ht, gp⟩ := g
  refine ⟨?_, hp.trans gp⟩
  rw [hs] at ht
  exact ht

theorem State.wakeDomain_recorded (s : State) (d cause : Nat) : Recorded s (s.wakeDomain d cause) := by
  refine ⟨?_, s.wakeDomain_woken d cause⟩
  conv_lhs => rw [s.wakeDomain_pwr d cause]
  rw [s.wakeDomain_pwr d cause]

/-- What stands in the journal once every held record is written (R431). -/
theorem State.flushJournal_leaves (s : State) : s.flushJournal.jheld = [] ∧ s.flushJournal.jseq = s.jseq ∧ Recorded s s.flushJournal := by
  unfold State.flushJournal
  split
  next he => exact ⟨List.isEmpty_iff.mp he, rfl, Recorded.refl s⟩
  next =>
    obtain ⟨u, hu⟩ : ∃ u : State, u = { s with journal := fitUnits (s.jheld ++ s.journal) journalUnits, jheld := [] } := ⟨_, rfl⟩
    have hs : Recorded s u := by rw [hu]; exact ⟨rfl, Pwr.Woken.refl _⟩
    rw [← hu]
    refine ⟨?_, ?_, hs.trans ((u.wakeDomain_recorded 131 5).trans (State.wakeDomain_recorded _ 133 5))⟩
    · rw [State.wakeDomain_pwr _ 133, u.wakeDomain_pwr 131, hu]
    · rw [State.wakeDomain_pwr _ 133, u.wakeDomain_pwr 131, hu]

theorem State.journalRec_recorded (s : State) (code : BitVec 16) (long step fw : Bool) (mid payload : Nat) :
    Recorded s (s.journalRec code long step fw mid payload) := by
  have h1 : Recorded s (if 64 ≤ s.jheld.length then s.flushJournal else s) := by
    split
    · exact s.flushJournal_leaves.2.2
    · exact Recorded.refl s
  exact h1.trans ⟨rfl, Pwr.Woken.refl _⟩

theorem Recorded.each {α : Type} {s : State} (l : List α) {f : State → α → State} (step : ∀ t a, Recorded t (f t a)) : Recorded s (s.each l f) :=
  State.each_induction (P := Recorded s) l (Recorded.refl s) fun t a h => h.trans (step t a)

/-! ### The die halt -/

/-- The MRAM's ledger slots after the open effects are journalled: none without a partner in sync (R194, R432). -/
theorem State.journalOpen_leaves (s : State) :
    Recorded { s with mled := s.journalOpen.mled } s.journalOpen ∧ (s.paired = false → s.journalOpen.mled = []) := by
  unfold State.journalOpen
  extract_lets slots s1 s2
  have h2 : Recorded s s2 := (Recorded.each _ fun t e => t.journalRec_recorded _ _ _ _ _ _).trans (.each _ fun t e => t.journalRec_recorded _ _ _ _ _ _)
  clear_value s2
  obtain ⟨h2, hp⟩ := h2
  split
  next hpair => exact ⟨⟨by rw [h2], hp⟩, fun h => absurd hpair (by rw [h]; decide)⟩
  next => exact ⟨⟨by rw [h2], hp⟩, fun _ => rfl⟩

theorem State.sendHb_ds (s : State) (halting : Bool) : s.sendHb halting = { s with ds := (s.sendHb halting).ds } := by
  unfold State.sendHb State.dsSend
  dsimp only
  split <;> rfl

theorem State.allSafe_ports (s : State) : s.allSafe = { s with ports := s.allSafe.ports } :=
  State.each_induction (P := fun t => t = { s with ports := t.ports }) _ rfl fun t p h => by
    unfold State.portSafe State.updPort State.setPort
    dsimp only
    rw [h]

/-- A halt (R194): the ports drive their safe state, nothing leaves a module any more, the open effects and the held records are
journalled, FENCE_OUT_N is released, and programs, queues and time stay where they are. -/
structure State.HaltLeaves (s t : State) : Prop where
  die : t.die = .halted
  jheld : t.jheld = []
  link0 : t.link0 = s.link0.dropEgress
  link1 : t.link1 = s.link1.dropEgress
  fence : t.ds.fenceOut = false
  mled : s.paired = false → t.mled = []
  woken : s.pwr.Woken t.pwr
  frame : t = { s with die := t.die, ports := t.ports, link0 := t.link0, link1 := t.link1, journal := t.journal, jheld := t.jheld,
                       jseq := t.jseq, pwr := t.pwr, mled := t.mled, ds := t.ds, late := t.late }

theorem State.haltDie_leaves {s : State} (h : s.die ≠ .halted) : s.HaltLeaves s.haltDie := by
  unfold State.haltDie
  rw [if_neg h]
  extract_lets s1 s2 s3 s4
  obtain ⟨p, hp⟩ : ∃ p, s1 = { s with die := .halted, ports := p } := ⟨_, State.allSafe_ports { s with die := .halted }⟩
  clear_value s1
  subst hp
  obtain ⟨hopen, hmled⟩ := s2.journalOpen_leaves
  obtain ⟨hheld, -, hflush⟩ := s2.journalOpen.flushJournal_leaves
  obtain ⟨hrec, hwoken⟩ := hopen.trans hflush
  have h3 : s3 = { s with die := .halted, ports := p, link0 := s.link0.dropEgress, link1 := s.link1.dropEgress, mled := s2.journalOpen.mled,
                          journal := s3.journal, jheld := s3.jheld, jseq := s3.jseq, pwr := s3.pwr } := hrec
  have hp3 : s.pwr.Woken s3.pwr := hwoken
  have hj3 : s3.jheld = [] := hheld
  have hm3 : s3.mled = s2.journalOpen.mled := by rw [h3]
  clear_value s3
  have h4 : s4 = { s3 with ds := s4.ds } := s3.sendHb_ds true
  clear_value s4
  rw [h4]
  exact ⟨by rw [h3], hj3, by rw [h3], by rw [h3], rfl, fun hpair => hm3.trans (hmled hpair), hp3, by rw [h3]⟩

end Sys2Proof.Machine
end

section
/-! PROOFS. Rest, parking, wakes and L4 (R397 to R409). -/

namespace Sys2Proof.Machine
open Sys2Proof

/-! ### Parking at L3 -/

/-- Cells taken for a domain's parked state are charged to nobody and change nothing but the allocator (R404). -/
theorem State.takeParked_leaves {s t : State} {d home n : Nat} {l : List Nat} (h : s.takeParked d home n = some (l, t)) :
    l.length = n ∧ (∀ c ∈ l, t.cell c = .parked d) ∧ (∀ c, s.cell c = .parked d → t.cell c = .parked d) ∧
      t = { s with hawk := t.hawk, freeNext := t.freeNext } := by
  induction n generalizing s t l with
  | zero =>
    obtain ⟨rfl, rfl⟩ : [] = l ∧ s = t := by simpa [State.takeParked] using h
    exact ⟨rfl, by simp, fun _ hc => hc, rfl⟩
  | succ n ih =>
    unfold State.takeParked at h
    split at h
    · cases h
    next k hk =>
      obtain ⟨u, hu⟩ : ∃ u, u = ({ s.setCell k (.parked d) 0 with freeNext := s.freeNext + 1 } : State) := ⟨_, rfl⟩
      rw [← hu] at h
      have hself : u.cell k = .parked d := by rw [hu]; exact s.cell_setCell k _ _
      have hkeep : ∀ c, s.cell c = .parked d → u.cell c = .parked d := fun c hc => by
        by_cases hck : c = k
        · rw [hck, hself]
        · rw [hu]
          exact (s.cell_setCell_ne _ _ hck).trans hc
      split at h
      · cases h
      next l' t' hl =>
        obtain ⟨rfl, rfl⟩ : k :: l' = l ∧ t' = t := by simpa using h
        obtain ⟨hlen, hcells, hkept, hframe⟩ := ih hl
        refine ⟨by rw [List.length_cons, hlen], ?_, fun c hc => hkept c (hkeep c hc), ?_⟩
        · rintro c (_ | ⟨_, hc⟩)
          · exact hkept k hself
          · exact hcells c hc
        · rw [hu] at hframe
          exact hframe

theorem State.layParked_mem (s : State) (cells : List Nat) (l : List Byte) : s.layParked cells l = { s with mem := (s.layParked cells l).mem } := by
  induction cells generalizing s l with
  | nil => rfl
  | cons k r ih =>
    unfold State.layParked
    rw [ih]
    rfl

/-- A domain that parks its state is at L3 with its cells (R404). -/
theorem State.parkDom_leaves {s t : State} {d : Nat} (h : s.parkDom d = some t) :
    (t.dom d).level = 3 ∧ (t.dom d).cells.length = parkCells d ∧ (∀ c ∈ (t.dom d).cells, t.cell c = .parked d) ∧
      (∀ j, j ≠ d → t.dom j = s.dom j) ∧ t = { s with pwr := t.pwr, hawk := t.hawk, mem := t.mem, freeNext := t.freeNext } := by
  unfold State.parkDom at h
  extract_lets n at h
  split at h
  case isFalse => cases h
  split at h
  · cases h
  next cells s1 hc =>
    obtain ⟨hlen, hcells, -, hframe⟩ := State.takeParked_leaves hc
    extract_lets s2 at h
    obtain ⟨m, f, h2⟩ : ∃ m f, s2 = { s1 with mem := m, freeNext := f } := by
      show ∃ m f, (if isCoreDom d then _ else _) = _
      split
      · exact ⟨_, _, s1.layParked_mem cells _⟩
      · exact ⟨_, _, State.layParked_mem _ cells _⟩
    clear_value s2
    obtain rfl := Option.some.inj h
    have hself := s2.dom_updDom d fun x => { x with level := 3, cells }
    refine ⟨by rw [hself], by rw [hself]; exact hlen, ?_, fun j hj => (s2.dom_updDom_ne _ hj).trans ?_, ?_⟩
    · rw [hself]
      intro c hc
      have : s2.cell c = s1.cell c := by rw [h2]; rfl
      exact this.trans (hcells c hc)
    · rw [h2, hframe]
      rfl
    · rw [h2, hframe]
      rfl

/-- What a domain that rests does (R402, R404). -/
theorem State.restDom_eq {s : State} {d n : Nat} (hdie : s.die = .ready) (lt : d < 134) (hl : (s.dom d).level = 0) (hw : (s.dom d).waking = false)
    (hi : s.domIdle d = true) (ht : s.domTarget d = n) (hn : 0 < n) :
    s.restDom d = if n = 3 then (match s.parkDom d with
      | some s1 => s1
      | none => s.updDom d fun x => { x with level := 2 }) else s.updDom d fun x => { x with level := n } := by
  unfold State.restDom
  dsimp only
  rw [ht]
  exact (if_pos (by simp [hdie, lt, hl, hw, hi]; omega)).trans (by split <;> rfl)

/-! ### The end of a wake -/

/-- The cells of a list each freed. -/
def State.freeAll (s : State) (l : List Nat) : State := s.each l fun s k => s.freeOne k

theorem State.freeOne_frame (s : State) (k : Nat) :
    s.freeOne k = { s with hawk := { s.hawk with cells := (s.freeOne k).hawk.cells, acct := (s.freeOne k).hawk.acct } } := by
  unfold State.freeOne
  split <;> rfl

theorem State.freeAll_frame (s : State) (l : List Nat) :
    s.freeAll l = { s with hawk := { s.hawk with cells := (s.freeAll l).hawk.cells, acct := (s.freeAll l).hawk.acct } } :=
  State.each_induction (P := fun t => t = { s with hawk := { s.hawk with cells := t.hawk.cells, acct := t.hawk.acct } }) l rfl fun t k h => by
    rw [t.freeOne_frame k]
    rw [h]

theorem State.freeOne_self {s : State} {k : Nat} (h : s.cell k ≠ .retired) : (s.freeOne k).cell k = .free := by
  have hr : s.retiredCell k = false := decide_eq_false h
  rw [State.freeOne, hr]
  exact s.cell_setCell k _ _

theorem State.freeOne_cell (s : State) (k c : Nat) : (s.freeOne k).cell c = s.cell c ∨ (s.freeOne k).cell c = .free := by
  unfold State.freeOne
  split
  · exact .inl rfl
  · by_cases hc : c = k
    · rw [hc]
      exact .inr (s.cell_setCell k _ _)
    · exact .inl (s.cell_setCell_ne _ _ hc)

/-- A cell that is FREE stays so while others are freed (R296). -/
theorem State.freeAll_free {s : State} {c : Nat} (l : List Nat) (h : s.cell c = .free) : (s.freeAll l).cell c = .free :=
  State.each_induction (P := fun t => t.cell c = .free) l h fun t k ht => (t.freeOne_cell k c).elim (fun e => e.trans ht) id

/-- Every listed cell that is not retired is FREE (R296). -/
theorem State.freeAll_cell {s : State} {l : List Nat} {c : Nat} (hc : c ∈ l) (h : s.cell c ≠ .retired) : (s.freeAll l).cell c = .free := by
  induction l generalizing s with
  | nil => cases hc
  | cons k l ih =>
    show ((s.freeOne k).freeAll l).cell c = .free
    by_cases hk : c = k
    · rw [← hk]
      exact State.freeAll_free l (State.freeOne_self h)
    · rcases s.freeOne_cell k c with e | e
      · exact ih ((List.mem_cons.mp hc).resolve_left hk) (e ▸ h)
      · exact State.freeAll_free l e

/-- Only the memory has changed. -/
def Loads (s t : State) : Prop := ∃ m, t = { s with mem := m }

theorem Loads.refl (s : State) : Loads s s := ⟨s.mem, rfl⟩

theorem Loads.trans {r s t : State} (h : Loads r s) (g : Loads s t) : Loads r t := by
  obtain ⟨m, rfl⟩ := h
  obtain ⟨n, rfl⟩ := g
  exact ⟨n, rfl⟩

theorem State.store_loads (s : State) (a : Nat) (l : List Byte) : Loads s (s.store a l) := ⟨_, rfl⟩

theorem Loads.each {α : Type} {s : State} (l : List α) {f : State → α → State} (step : ∀ t a, Loads t (f t a)) : Loads s (s.each l f) :=
  State.each_induction (P := Loads s) l (Loads.refl s) fun t a h => h.trans (step t a)

theorem State.loadLib_loads (s : State) (core : Nat) : Loads s (s.loadLib core) := by
  unfold State.loadLib
  extract_lets l crn s1
  have h1 : Loads s s1 := Loads.trans ⟨_, rfl⟩ (.each _ fun t r => t.store_loads _ _)
  clear_value s1
  split
  · exact h1.trans (s1.store_loads _ _)
  · exact h1.trans ((s1.store_loads _ _).trans (State.store_loads _ _ _))

theorem State.loadSuper_loads (s : State) (core : Nat) : Loads s (s.loadSuper core) := by
  unfold State.loadSuper
  split
  · exact Loads.refl s
  · split
    · exact Loads.refl s
    · exact s.store_loads _ _

theorem State.restoreCore_loads (s : State) (core : Nat) (cells : List Nat) : Loads s (s.restoreCore core cells) :=
  ((s.loadLib_loads core).trans (State.loadSuper_loads _ core)).trans (State.store_loads _ _ _)

/-- What was stored reads back. -/
theorem State.bytesAt_store {s : State} (hm : s.memOk) (a : Nat) (l : List Byte) : (s.store a l).bytesAt a l.length = l := by
  refine List.ext_getElem (by simp [State.bytesAt, Memory.getMany]) fun i h1 h2 => ?_
  simpa [State.bytesAt, Memory.getMany, State.store] using Memory.get_setMany_in s.mem a i l hm h2

theorem State.parkedBytes_length (s : State) (cells : List Nat) : (s.parkedBytes cells).length = 60 * cells.length := by
  induction cells with
  | nil => rfl
  | cons k r ih =>
    have hk : (s.bytesAt (cellAddr k) 60).length = 60 := by simp [State.bytesAt, Memory.getMany]
    rw [State.parkedBytes, List.flatMap_cons, List.length_append, hk]
    rw [State.parkedBytes] at ih
    rw [ih, List.length_cons]
    omega

/-- A woken core has its parked words back (R404). -/
theorem State.restoreCore_bytes {s : State} (hm : s.memOk) (core : Nat) {cells : List Nat} (hc : cells.length = 137) :
    (s.restoreCore core cells).bytesAt (coreParked core).1 (coreParked core).2 = (s.parkedBytes cells).take (coreParked core).2 := by
  have hlen : ((s.parkedBytes cells).take (coreParked core).2).length = (coreParked core).2 := by
    rw [List.length_take, s.parkedBytes_length, hc]
    rfl
  have hok : ((s.loadLib core).loadSuper core).memOk :=
    (State.loadSuper_keeps _ core (State.loadLib_keeps s core (Keeps.refl s))).2 hm
  have h := State.bytesAt_store hok (coreParked core).1 ((s.parkedBytes cells).take (coreParked core).2)
  rwa [hlen] at h

/-! ### Rows of rest and wakes -/

theorem runs_domainIdleExpiry {s : State} {d n : Nat} (hdie : s.die = .ready) (lt : d < 134) (hl : (s.dom d).level = 0)
    (hw : (s.dom d).waking = false) (hi : s.domIdle d = true) (ht : s.domTarget d = n) (hn : 0 < n) :
    (n < 3 → Runs (.domainIdleExpiry d) s fun t => (t.dom d).level = n ∧ (∀ j, j ≠ d → t.dom j = s.dom j) ∧ t = { s with pwr := t.pwr }) ∧
    (n = 3 → (s.parkDom d).isSome = true → Runs (.domainIdleExpiry d) s fun t => (t.dom d).level = 3 ∧ (t.dom d).cells.length = parkCells d ∧
      (∀ c ∈ (t.dom d).cells, t.cell c = .parked d) ∧ (∀ j, j ≠ d → t.dom j = s.dom j) ∧
      t = { s with pwr := t.pwr, hawk := t.hawk, mem := t.mem, freeNext := t.freeNext }) ∧
    (n = 3 → s.parkDom d = none → Runs (.domainIdleExpiry d) s fun t => (t.dom d).level = 2 ∧ t = { s with pwr := t.pwr }) := by
  have hrest := State.restDom_eq hdie lt hl hw hi ht hn
  refine ⟨fun h3 => ⟨s.restDom d, rfl, ?_⟩, fun h3 hp => ⟨s.restDom d, rfl, ?_⟩, fun h3 hp => ⟨s.restDom d, rfl, ?_⟩⟩
  · rw [hrest, if_neg (by omega)]
    exact ⟨congrArg Dom.level (s.dom_updDom d _), fun j hj => s.dom_updDom_ne _ hj, rfl⟩
  · obtain ⟨t, hpark⟩ := Option.isSome_iff_exists.mp hp
    rw [hrest, if_pos h3, hpark]
    exact State.parkDom_leaves hpark
  · rw [hrest, if_pos h3, hp]
    exact ⟨congrArg Dom.level (s.dom_updDom d _), rfl⟩

theorem State.dom_noteWake (s : State) (d cause j : Nat) : (s.noteWake d cause).dom j = s.dom j := rfl

theorem runs_wakeRequest {s : State} {d : Nat} (cause : BitVec 4) (lt : d < 134) (hd : isLinkDom d = false) (hl : (s.dom d).level ≠ 0)
    (hw : (s.dom d).waking = false) :
    Runs (.wakeRequest d cause) s fun t => (t.dom d).waking = true ∧ t.pwr.wakeDom.toNat = d ∧ t.pwr.wakeCause = cause ∧
      (∀ j, j ≠ d → t.dom j = s.dom j) ∧ t = { s with pwr := t.pwr } := by
  refine ⟨_, congrArg Host.Outcome.next (if_pos ⟨lt, hd, hl, hw⟩), ?_, ?_, ?_, fun j hj => ?_, rfl⟩
  · rw [State.dom_noteWake, State.dom_updDom]
  · exact Nat.mod_eq_of_lt (by omega)
  · exact BitVec.ofNat_toNat .. |>.trans (BitVec.setWidth_eq _)
  · rw [State.dom_noteWake, s.dom_updDom_ne _ hj]

/-- The state at the end of a wake before those that wait are served (R398, R404). -/
def State.woken (s : State) (d : Nat) : State :=
  ((if isCoreDom d && (s.dom d).level == 3 then s.restoreCore d (s.dom d).cells else s).freeAll (s.dom d).cells).updDom d
    fun y => { y with level := 0, waking := false, cells := [] }

theorem State.wakeDone_of_noneWait {s : State} {d : Nat} (hw : (s.dom d).waking = true) (hn : s.noneWait) : s.wakeDone d = s.woken d := by
  have hserved : s.wakeDone d = (s.woken d).served := if_pos hw
  rw [hserved]
  refine State.served_of_noneWait ?_
  have h1 : Loads s (if isCoreDom d && (s.dom d).level == 3 then s.restoreCore d (s.dom d).cells else s) := by
    split
    · exact s.restoreCore_loads d _
    · exact Loads.refl s
  obtain ⟨m, h1⟩ := h1
  unfold State.woken
  rw [h1, State.freeAll_frame]
  exact hn

theorem runs_domainWakeComplete {s : State} {d : Nat} (hw : (s.dom d).waking = true) (hn : s.noneWait) :
    Runs (.domainWakeComplete d) s fun t => (t.dom d).level = 0 ∧ (t.dom d).waking = false ∧
      (∀ c ∈ (s.dom d).cells, s.cell c ≠ .retired → t.cell c = .free) ∧
      (s.memOk → d < 72 → (s.dom d).level = 3 → (s.dom d).cells.length = 137 →
        t.bytesAt (coreParked d).1 (coreParked d).2 = (s.parkedBytes (s.dom d).cells).take (coreParked d).2) ∧
      t = { s with pwr := t.pwr, hawk := t.hawk, mem := t.mem } := by
  refine ⟨s.woken d, congrArg Host.Outcome.next (State.wakeDone_of_noneWait hw hn), ?_⟩
  have hdom := State.dom_updDom ((if isCoreDom d && (s.dom d).level == 3 then s.restoreCore d (s.dom d).cells else s).freeAll (s.dom d).cells) d
    fun y => { y with level := 0, waking := false, cells := [] }
  have h1 : Loads s (if isCoreDom d && (s.dom d).level == 3 then s.restoreCore d (s.dom d).cells else s) := by
    split
    · exact s.restoreCore_loads d _
    · exact Loads.refl s
  have hbytes : s.memOk → d < 72 → (s.dom d).level = 3 → (s.dom d).cells.length = 137 →
      (s.woken d).bytesAt (coreParked d).1 (coreParked d).2 = (s.parkedBytes (s.dom d).cells).take (coreParked d).2 := by
    intro hm lt hl hc
    have hcond : (isCoreDom d && (s.dom d).level == 3) = true := by simp [isCoreDom, lt, hl]
    unfold State.woken
    rw [if_pos hcond, State.freeAll_frame]
    exact State.restoreCore_bytes hm d hc
  refine ⟨congrArg Dom.level hdom, congrArg Dom.waking hdom, fun c hc hr => ?_, hbytes, ?_⟩
  · obtain ⟨m, h1⟩ := h1
    refine State.freeAll_cell (s := if isCoreDom d && (s.dom d).level == 3 then s.restoreCore d (s.dom d).cells else s) hc ?_
    rw [h1]
    exact hr
  · obtain ⟨m, h1⟩ := h1
    unfold State.woken
    rw [h1, State.freeAll_frame]
    rfl

/-! ### Rows of L4 -/

theorem runs_l4Entry {s : State} (h : s.l4Ready = true) :
    Runs (.l4Entry) s fun t => t.die = .l4 ∧ t.jheld = [] ∧ t = { s with die := t.die, journal := t.journal, jheld := t.jheld, pwr := t.pwr } := by
  obtain ⟨hheld, hseq, hframe, -⟩ := s.flushJournal_leaves
  refine ⟨{ s.flushJournal with die := .l4 }, congrArg Host.Outcome.next (if_pos h), rfl, hheld, ?_⟩
  rw [hseq] at hframe
  conv_lhs => rw [hframe]

theorem State.wakeL4_of_l4 {s : State} (cause : Nat) (pin : Bool) (hd : s.die = .l4) (hw : s.pwr.l4waking = false) :
    s.wakeL4 cause pin = { s with pwr := { s.pwr with wakeDom := 0xFF, wakeCause := BitVec.ofNat 4 cause, l4waking := true }, wakeOut := s.wakeOut || pin } :=
  if_pos ⟨hd, hw⟩

theorem runs_l4TimerWake {s : State} (hd : s.die = .l4) (hw : s.pwr.l4waking = false) (hn : s.pwr.l4wake ≠ 0) :
    Runs (.l4TimerWake) s fun t => t = { s with pwr := { s.pwr with wakeDom := 0xFF, wakeCause := 8, l4waking := true }, wakeOut := true } := by
  refine ⟨s.wakeL4 8 true, congrArg Host.Outcome.next (if_neg hn), ?_⟩
  beta_reduce
  rw [State.wakeL4_of_l4 8 true hd hw, Bool.or_true]
  rfl

/-- Targets judged afresh start wakes, and change nothing else (R400, R405). -/
theorem State.retarget_pwr (s : State) : s.retarget = { s with pwr := s.retarget.pwr } :=
  State.each_induction (P := fun t => t = { s with pwr := t.pwr }) _ rfl fun t d h => by
    split
    · rw [t.wakeDomain_pwr]
      rw [h]
    · exact h

theorem runs_pairPresentFall {s : State} (hd : s.die ≠ .l4) :
    Runs (.pairPresentFall) s fun t => t = { s with ds := { s.ds with present := true }, pwr := t.pwr } := by
  refine ⟨State.retarget { s with ds := { s.ds with present := true } }, ?_, State.retarget_pwr _⟩
  exact congrArg (fun u => Host.Outcome.next (State.retarget u)) (if_neg fun h => hd h.1)

theorem runs_pairPresentFall_l4 {s : State} (hd : s.die = .l4) (hw : s.pwr.l4waking = false) (hdoms : s.pwr.doms = []) :
    Runs (.pairPresentFall) s fun t => t.pwr = { s.pwr with wakeDom := 0xFF, wakeCause := 9, l4waking := true } ∧
      t = { s with ds := { s.ds with present := true }, wakeOut := true, pwr := t.pwr } := by
  obtain ⟨u, hu⟩ : ∃ u : State, u = { s with ds := { s.ds with present := true } } := ⟨_, rfl⟩
  have hwake : u.wakeL4 9 true = { u with pwr := { u.pwr with wakeDom := 0xFF, wakeCause := 9, l4waking := true }, wakeOut := true } := by
    rw [State.wakeL4_of_l4 9 true (by rw [hu]; exact hd) (by rw [hu]; exact hw), Bool.or_true]
    rfl
  have hrun : exec (.pairPresentFall) s = .next (u.wakeL4 9 true) := by
    show Host.Outcome.next (State.retarget (State.wakeL4 _ 9 true)) = _
    rw [← hu, hwake]
    unfold State.retarget
    have hl : u.pwr.doms = [] := by rw [hu]; exact hdoms
    rw [show ({ u with pwr := { u.pwr with wakeDom := 0xFF, wakeCause := 9, l4waking := true }, wakeOut := true } : State).pwr.doms = [] from hl]
    rfl
  refine ⟨_, hrun, ?_⟩
  beta_reduce
  rw [hwake, hu]
  exact ⟨rfl, rfl⟩

theorem runs_ucieL2Exit {s : State} {md : Nat} (hl : (s.link md).lstate = 2) :
    Runs (.ucieL2Exit md) s fun t => t.link md = { s.link md with exiting := true } ∧ t.link (otherMd md) = s.link (otherMd md) ∧
      (s.die = .l4 → s.pwr.l4waking = false → t.pwr = { s.pwr with wakeDom := 0xFF, wakeCause := 7, l4waking := true }) := by
  obtain ⟨u, hu⟩ : ∃ u, u = s.setLink md { s.link md with exiting := true } := ⟨_, rfl⟩
  have hrun : exec (.ucieL2Exit md) s = .next (u.wakeL4 7 false) := by
    show Host.Outcome.next (State.wakeL4 (s.updLink md _) 7 false) = _
    rw [State.updLink_def, if_pos hl, hu]
  have hlinks : ∀ j, (u.wakeL4 7 false).link j = u.link j := fun j => by
    unfold State.wakeL4
    split <;> rfl
  refine ⟨_, hrun, ?_, ?_, fun hd hw => ?_⟩
  · rw [hlinks, hu]
    exact s.link_setLink md _
  · rw [hlinks, hu]
    exact s.link_otherMd_setLink md _
  · rw [State.wakeL4_of_l4 7 false (by rw [hu, State.setLink_die]; exact hd) (by rw [hu, State.setLink_pwr]; exact hw)]
    show ({ u.pwr with wakeDom := 0xFF, wakeCause := 7, l4waking := true } : Pwr) = _
    rw [hu, State.setLink_pwr]

end Sys2Proof.Machine
end

section
/-! PROOFS. The end of L4, supply supervision, clocks, pins and group resets (R192 to R194, R408 to R421), and what O56 says of them and of
rest and wakes. -/

namespace Sys2Proof.Machine
open Sys2Proof

/-- Steps that change nothing from a state change nothing. -/
theorem State.each_noop {α : Type} {s : State} {l : List α} {f : State → α → State} (h : ∀ a ∈ l, f s a = s) : s.each l f = s := by
  induction l with
  | nil => rfl
  | cons a l ih =>
    show (f s a).each l f = s
    rw [h a (List.mem_cons_self ..)]
    exact ih fun b hb => h b (List.mem_cons_of_mem _ hb)

/-! ### The end of L4 -/

/-- The die, the queues, the journal, Primer and the frame timer are as they were: what the end of L4 must leave while it puts the Hawk
and the cores in order (R408). -/
structure RestoresFrom (s t : State) : Prop where
  die : t.die = s.die
  queues : t.queues = s.queues
  journal : t.journal = s.journal
  prm : t.prm = s.prm
  frm : t.frm = s.frm

theorem RestoresFrom.trans {r s t : State} (h : RestoresFrom r s) (g : RestoresFrom s t) : RestoresFrom r t :=
  ⟨g.die.trans h.die, g.queues.trans h.queues, g.journal.trans h.journal, g.prm.trans h.prm, g.frm.trans h.frm⟩

theorem RestoresFrom.refl (s : State) : RestoresFrom s s := ⟨rfl, rfl, rfl, rfl, rfl⟩

theorem RestoresFrom.each {α : Type} {s : State} (l : List α) {f : State → α → State} (step : ∀ t a, RestoresFrom t (f t a)) :
    RestoresFrom s (s.each l f) :=
  State.each_induction (P := RestoresFrom s) l (RestoresFrom.refl s) fun t a h => h.trans (step t a)

theorem Signals.restoresFrom {s t : State} (h : Signals s t) : RestoresFrom s t := by
  rw [h]
  exact ⟨rfl, rfl, rfl, rfl, rfl⟩

theorem Loads.restoresFrom {s t : State} (h : Loads s t) : RestoresFrom s t := by
  obtain ⟨m, rfl⟩ := h
  exact ⟨rfl, rfl, rfl, rfl, rfl⟩

theorem State.freeAll_restoresFrom (s : State) (l : List Nat) : RestoresFrom s (s.freeAll l) := by
  rw [s.freeAll_frame l]
  exact ⟨rfl, rfl, rfl, rfl, rfl⟩

theorem State.loseHawk_restoresFrom (s : State) : RestoresFrom s s.loseHawk := by
  unfold State.loseHawk
  extract_lets cells hawk s1
  have h1 : RestoresFrom s s1 := ⟨rfl, rfl, rfl, rfl, rfl⟩
  exact h1.trans (.each _ fun t m => (t.setLine_stirs _ _).1.restoresFrom)

/-- The state of which the end of L4 counts the time: the Hawk's contents lost and the cores loaded (R408). -/
def State.l4Restored (s : State) : State :=
  ({ s.each s.pwr.doms fun s e => s.each e.2.cells fun s k => s.freeOne k with die := .ready } : State).loseHawk.each allCores
    fun s c => (s.loadLib c).loadSuper c

theorem State.l4Restored_restoresFrom (s : State) : RestoresFrom { s with die := .ready } s.l4Restored := by
  have h0 : RestoresFrom s (s.each s.pwr.doms fun s e => s.each e.2.cells fun s k => s.freeOne k) := .each _ fun t e => t.freeAll_restoresFrom _
  have h1 : RestoresFrom { s with die := .ready } { s.each s.pwr.doms fun s e => s.each e.2.cells fun s k => s.freeOne k with die := .ready } :=
    ⟨rfl, h0.queues, h0.journal, h0.prm, h0.frm⟩
  exact (h1.trans (State.loseHawk_restoresFrom _)).trans
    (.each _ fun t c => (t.loadLib_loads c).restoresFrom.trans (State.loadSuper_loads _ c).restoresFrom)

theorem Table.get_mapVals {α β : Type} (f : α → β) (t : Table α) (d : α) (k : Nat) :
    Table.get (Table.mapVals (fun _ x => f x) t) (f d) k = f (Table.get t d k) := by
  induction t with
  | nil => rfl
  | cons e r ih =>
    obtain ⟨j, v⟩ := e
    show (if k = j then f v else Table.get (Table.mapVals (fun _ x => f x) r) (f d) k) = f (if k = j then v else Table.get r d k)
    rw [ih]
    split <;> rfl

/-- A domain at L0 with nothing parked and no wake under way, its MAXREST kept. -/
def Dom.atL0 (d : Dom) : Dom := { d with level := 0, waking := false, cells := [] }

theorem runs_l4ExitComplete {s : State} (n : Nat) (hd : s.die = .l4) (hw : s.pwr.l4waking = true) :
    Runs (.l4ExitComplete n) s fun t => t.die = .ready ∧ t.frm.time = BitVec.ofNat 64 (s.frm.time.toNat + n * 100000000 / 32768) ∧
      t.frm.holdover = true ∧ t.frm.locked = false ∧ t.frm.frame = s.frm.frame ∧ (∀ j, (t.dom j).level = 0) ∧ t.pwr.l4waking = false ∧
      t.queues = s.queues ∧ t.journal = s.journal ∧ t.prm = s.prm := by
  obtain ⟨u, hu⟩ : ∃ u, u = s.l4Restored := ⟨_, rfl⟩
  have hres : RestoresFrom { s with die := .ready } u := hu ▸ s.l4Restored_restoresFrom
  obtain ⟨T, hT⟩ : ∃ T, T = s.frm.time.toNat + n * 100000000 / 32768 := ⟨_, rfl⟩
  obtain ⟨v, hv⟩ : ∃ v : State, v =
      { u with pwr := { u.pwr with l4waking := false, doms := u.pwr.doms.mapVals fun _ d => d.atL0 },
               frm := { u.frm with time := BitVec.ofNat 64 T,
                                   next := BitVec.ofNat 64 (nextTick T u.frm.periodAct.toNat),
                                   stepMark := true, holdover := true, taken := true, locked := false, goodEdges := 0 } } := ⟨_, rfl⟩
  have hrun : exec (.l4ExitComplete n) s = .next (v.pulse 0x402) := by
    have hl4 : (s.die ≠ .l4 || !s.pwr.l4waking) = false := by simp [hd, hw]
    have hexit : s.l4Exit n = v.pulse 0x402 := by
      unfold State.l4Exit
      extract_lets t s0 s1 s2
      have ht : t = T := hT.symm
      clear_value t
      subst ht
      have hs2 : s2 = u := hu.symm
      clear_value s2
      subst hs2
      rw [hl4, if_neg Bool.false_ne_true, hv]
      rfl
    exact congrArg Host.Outcome.next hexit
  obtain ⟨hsig, hwoke, hlevels⟩ := v.pulse_stirs 0x402
  have hkeep := hsig.restoresFrom
  have hlevel : ∀ j, (v.dom j).level = 0 := fun j => by
    rw [hv]
    exact congrArg Dom.level (Table.get_mapVals Dom.atL0 u.pwr.doms {} j)
  refine ⟨_, hrun, ?_, ?_, ?_, ?_, ?_, fun j => (hlevels j).trans (hlevel j), ?_, ?_, ?_, ?_⟩
  · rw [hkeep.die, hv]
    exact hres.die
  · rw [hkeep.frm, hv, hT]
  · rw [hkeep.frm, hv]
  · rw [hkeep.frm, hv]
  · rw [hkeep.frm, hv]
    show u.frm.frame = s.frm.frame
    rw [hres.frm]
  · rw [hwoke, hv]
  · rw [hkeep.queues, hv]
    exact hres.queues
  · rw [hkeep.journal, hv]
    exact hres.journal
  · rw [hkeep.prm, hv]
    exact hres.prm

/-! ### Hold -/

/-- Only the cores have changed. -/
def CoresOnly (s t : State) : Prop := ∃ c, t = { s with cores := c }

theorem CoresOnly.refl (s : State) : CoresOnly s s := ⟨s.cores, rfl⟩

theorem CoresOnly.trans {r s t : State} (h : CoresOnly r s) (g : CoresOnly s t) : CoresOnly r t := by
  obtain ⟨m, rfl⟩ := h
  obtain ⟨n, rfl⟩ := g
  exact ⟨n, rfl⟩

theorem CoresOnly.each {α : Type} {s : State} (l : List α) {f : State → α → State} (step : ∀ t a, CoresOnly t (f t a)) : CoresOnly s (s.each l f) :=
  State.each_induction (P := CoresOnly s) l (CoresOnly.refl s) fun t a h => h.trans (step t a)

theorem State.updCtx_coresOnly (s : State) (core k : Nat) (f : Ctx → Ctx) : CoresOnly s (s.updCtx core k f) := ⟨_, rfl⟩

theorem State.passWait_coresOnly (s : State) (core k : Nat) : CoresOnly s (s.passWait core k) := by
  have hnow : ∀ n, CoresOnly s (s.setNow core k n) := fun n => ⟨_, rfl⟩
  unfold State.passWait
  dsimp only
  split
  · exact (hnow _).trans (State.updCtx_coresOnly _ core k _)
  · exact hnow _
  · exact CoresOnly.refl s

theorem State.holdCtx_coresOnly (s : State) (core k : Nat) : CoresOnly s (s.holdCtx core k) := by
  have hmark : ∀ f, CoresOnly s (((s.passWait core k).updCtx core k f).mark core k) := fun f =>
    ((s.passWait_coresOnly core k).trans (State.updCtx_coresOnly _ core k f)).trans (State.updCtx_coresOnly _ core k _)
  unfold State.holdCtx
  dsimp only
  split
  · split
    · exact hmark _
    · exact CoresOnly.refl s
  · split
    · exact hmark _
    · exact CoresOnly.refl s

theorem State.wfeWake_coresOnly (s : State) (core k : Nat) : CoresOnly s (s.wfeWake core k) := by
  unfold State.wfeWake
  dsimp only
  split
  · exact (s.passWait_coresOnly core k).trans (State.updCtx_coresOnly _ core k _)
  · exact CoresOnly.refl s

theorem State.arrange_coresOnly (s : State) (core : Nat) : CoresOnly s (s.arrange core) :=
  .each _ fun t k => (t.holdCtx_coresOnly core k).trans (State.wfeWake_coresOnly _ core k)

theorem State.arrangeAll_coresOnly (s : State) : CoresOnly s s.arrangeAll := .each _ State.arrange_coresOnly

/-- Bank arbiters of a list put into Hold or out of it. -/
def State.holdEach (s : State) (l : List Nat) (b : Bool) : State := s.each l fun s a => s.updScr a fun x => { x with hold := b }

theorem State.holdEach_scrs (s : State) (l : List Nat) (b : Bool) : ∃ c, s.holdEach l b = { s with scrs := c } :=
  State.each_induction (P := fun t => ∃ c, t = { s with scrs := c }) l ⟨s.scrs, rfl⟩ <| by
    rintro _ a ⟨c, rfl⟩
    exact ⟨_, rfl⟩

/-- Every listed arbiter is in Hold, and one that is stays so (R192, R320). -/
theorem State.holdEach_hold {s : State} {l : List Nat} {a : Nat} (h : a ∈ l ∨ (s.scr a).hold = true) : ((s.holdEach l true).scr a).hold = true := by
  induction l generalizing s with
  | nil => exact h.resolve_left (by simp)
  | cons i l ih =>
    show (((s.updScr i fun x => { x with hold := true }).holdEach l true).scr a).hold = true
    refine ih ?_
    by_cases hi : a = i
    · subst hi
      exact .inr (congrArg Scr.hold (s.scr_setScr a _))
    · refine h.imp (fun hm => (List.mem_cons.mp hm).resolve_left hi) fun hs => ?_
      rw [State.updScr, s.scr_setScr_ne i a _ hi]
      exact hs

/-- What Hold leaves once it has begun with u: every bank arbiter waits and the held records are written (R192, R415). -/
theorem State.enterHold_leaves (u : State) :
    ∃ t, t = (((u.holdScrs true).arrangeAll.flushJournal).setLine 0x405 true).reofferAll ∧ t.hold = u.hold ∧ t.frm = u.frm ∧ u.pwr.Woken t.pwr ∧
      t.jheld = [] ∧ (∀ a, a < 37 → (t.scr a).hold = true) ∧ t.chans = u.chans ∧ t.queues = u.queues ∧ t.mem = u.mem := by
  obtain ⟨c, hscr⟩ := u.holdEach_scrs (List.range 37) true
  have hall : ∀ a, a < 37 → (((u.holdScrs true)).scr a).hold = true := fun a lt => State.holdEach_hold (.inl (List.mem_range.mpr lt))
  obtain ⟨v, hv⟩ : ∃ v, v = u.holdScrs true := ⟨_, rfl⟩
  rw [← hv] at hall ⊢
  have hscr : v = { u with scrs := c } := hv.trans hscr
  obtain ⟨k, hcores⟩ := v.arrangeAll_coresOnly
  obtain ⟨hheld, -, hflush, hwoken⟩ := v.arrangeAll.flushJournal_leaves
  obtain ⟨w, hw⟩ : ∃ w, w = v.arrangeAll.flushJournal := ⟨_, rfl⟩
  rw [← hw] at hheld hflush hwoken ⊢
  obtain ⟨hsig, hwoken'⟩ := (w.setLine_stirs 0x405 true).trans (State.reofferAll_stirs _)
  refine ⟨_, rfl, ?_, ?_, ?_, ?_, fun a lt => ?_, ?_, ?_, ?_⟩
  · rw [hsig, hflush, hcores, hscr]
  · rw [hsig, hflush, hcores, hscr]
  · refine Pwr.Woken.trans ?_ hwoken'
    rw [hcores, hscr] at hwoken
    exact hwoken
  · rw [hsig]
    exact hheld
  · have hs : ((w.setLine 0x405 true).reofferAll).scrs = v.scrs := by rw [hsig, hflush, hcores]
    rw [State.scr, hs]
    exact hall a lt
  · rw [hsig, hflush, hcores, hscr]
  · rw [hsig, hflush, hcores, hscr]
  · rw [hsig, hflush, hcores, hscr]

end Sys2Proof.Machine
end

section
/-! PROOFS. Supply supervision, clocks, pins and group resets by row, and O56 (R192 to R194, R412 to R421). -/

namespace Sys2Proof.Machine
open Sys2Proof

/-! ### Supply supervision -/

theorem Pwr.setWarn_dips (p : Pwr) (r : Nat) (b : Bool) : (p.setWarn r b).dips = p.dips := by
  unfold Pwr.setWarn
  dsimp only
  split <;> cases b <;> rfl

theorem Pwr.setWarn_warns (p : Pwr) {r : Nat} (h : r < 3) : (p.setWarn r true).warns = true := by
  match r, h with
  | 0, _ => rfl
  | 1, _ => simp [Pwr.warns, Pwr.setWarn]
  | 2, _ => simp [Pwr.warns, Pwr.setWarn]

theorem Pwr.Woken.warns {p r : Pwr} (h : p.Woken r) : r.warns = p.warns := by
  rw [h.1]
  rfl

theorem Pwr.Woken.dips {p r : Pwr} (h : p.Woken r) : r.dips = p.dips := by rw [h.1]

theorem Pwr.Woken.goodLost {p r : Pwr} (h : p.Woken r) : r.goodLost = p.goodLost := by rw [h.1]

theorem Pwr.Woken.refclkOk {p r : Pwr} (h : p.Woken r) : r.refclkOk = p.refclkOk := by rw [h.1]

theorem runs_supplyWarn {s : State} {r : Nat} (lt : r < 3) (hd : s.die = .ready) (hh : s.hold = false) :
    Runs (.supplyWarn r) s fun t => t.hold = true ∧ t.pwr.dips = satInc s.pwr.dips ∧ bitOf t.frm.flags 0 = true ∧ t.pwr.warns = true ∧ t.jheld = [] ∧
      (∀ a, a < 37 → (t.scr a).hold = true) ∧ t.chans = s.chans ∧ t.queues = s.queues ∧ t.mem = s.mem := by
  obtain ⟨p, hp⟩ : ∃ p, p = s.pwr.setWarn r true := ⟨_, rfl⟩
  obtain ⟨u, hu⟩ : ∃ u : State, u = { s with
      hold := true,
      pwr := { p with dips := satInc p.dips, pmic := if r = 2 then satInc p.pmic else p.pmic, lowMv := p.vddMv, dipFrames := 1, holdAt := s.frm.count,
                      dipRails := p.rails },
      frm := { s.frm with flags := s.frm.flags ||| 1, dippedN := if bitOf s.frm.flags 0 then s.frm.dippedN else satInc s.frm.dippedN } } := ⟨_, rfl⟩
  obtain ⟨t, ht, hhold, hfrm, hwoken, hheld, hscr, hchans, hqueues, hmem⟩ := u.enterHold_leaves
  have hrun : exec (.supplyWarn r) s = .next t := by
    have henter : (({ s with pwr := p } : State)).enterHold r = t := by
      unfold State.enterHold
      rw [if_neg (by simp [hd, hh]), ht, hu]
    show Host.Outcome.next (if r < 3 then ({ s with pwr := s.pwr.setWarn r true } : State).enterHold r else s) = _
    rw [if_pos lt, ← hp, henter]
  have hdips : p.dips = s.pwr.dips := by rw [hp, Pwr.setWarn_dips]
  have hwarns : p.warns = true := by rw [hp, Pwr.setWarn_warns _ lt]
  refine ⟨t, hrun, ?_, ?_, ?_, ?_, hheld, hscr, ?_, ?_, ?_⟩
  · rw [hhold, hu]
  · rw [hwoken.dips, hu]
    exact congrArg satInc hdips
  · rw [hfrm, hu]
    show (s.frm.flags ||| 1).getLsbD 0 = true
    simp
  · rw [hwoken.warns, hu]
    exact hwarns
  · rw [hchans, hu]
  · rw [hqueues, hu]
  · rw [hmem, hu]

theorem runs_holdTimeout {s : State} (hh : s.hold = true) (hd : s.die = .ready) (hw : s.pwr.warns = true) (hc : s.pwr.holdAt + 300000 ≤ s.frm.count) :
    Runs (.holdTimeout) s fun t => t.die = .halted ∧ t.pwr.goodLost = true ∧ t.jheld = [] ∧ t.link0.queue = [] ∧ t.link1.queue = [] ∧
      t.ds.fenceOut = false ∧ (s.paired = false → t.mled = []) ∧ t.frm = s.frm ∧ t.queues = s.queues := by
  obtain ⟨u, hu⟩ : ∃ u, u = ({ s with pwr := { s.pwr with goodLost := true } } : State).journalRec stSupplyHalt false false false midFwc
    ({ s with pwr := { s.pwr with goodLost := true } } : State).dipPayload := ⟨_, rfl⟩
  obtain ⟨hrec, hwoken⟩ : Recorded { s with pwr := { s.pwr with goodLost := true } } u := hu ▸ State.journalRec_recorded _ _ _ _ _ _ _
  have hrun : exec (.holdTimeout) s = .next u.haltDie := by
    rw [hu]
    exact congrArg Host.Outcome.next (if_pos (by simp [hh, hd, hw, holdLimit, hc]))
  have hready : u.die ≠ .halted := by
    rw [hrec]
    exact hd ▸ (by decide)
  have hpaired : u.paired = s.paired := by
    rw [hrec]
    rfl
  have hl := State.haltDie_leaves hready
  refine ⟨_, hrun, hl.die, ?_, hl.jheld, ?_, ?_, hl.fence, fun hp => hl.mled (hpaired.trans hp), ?_, ?_⟩
  · rw [hl.woken.goodLost, hwoken.goodLost]
  · rw [hl.link0]
    rfl
  · rw [hl.link1]
    rfl
  · rw [hl.frame, hrec]
  · rw [hl.frame, hrec]

theorem runs_refclkLoss {s : State} (hd : s.die = .ready) :
    Runs (.refclkLoss) s fun t => t.die = .halted ∧ t.pwr.refclkOk = false ∧ t.jheld = [] ∧ t.link0.queue = [] ∧ t.ds.fenceOut = false ∧ t.frm = s.frm := by
  obtain ⟨u, hu⟩ : ∃ u : State, u = { s with pwr := { s.pwr with refclkOk := false } } := ⟨_, rfl⟩
  have hdu : u.die = .ready := by rw [hu]; exact hd
  have hl := State.haltDie_leaves (s := u) (by rw [hdu]; decide)
  refine ⟨u.haltDie, ?_, hl.die, ?_, hl.jheld, ?_, hl.fence, ?_⟩
  · show Host.Outcome.next (if ({ s with pwr := { s.pwr with refclkOk := false } } : State).die = .ready then _ else _) = _
    rw [← hu, if_pos hdu]
  · rw [hl.woken.refclkOk, hu]
  · rw [hl.link0]
    rfl
  · rw [hl.frame, hu]

/-! ### Resets -/

/-- The memory from an address on reads as before where only cells below it are dropped. -/
theorem Memory.get_filter (p : Host.Cell → Bool) (m : List Host.Cell) {b : Nat} (h : ∀ v, p (b, v) = true) : Memory.get (m.filter p) b = Memory.get m b := by
  unfold Memory.get
  induction m with
  | nil => rfl
  | cons c r ih =>
    obtain ⟨a, v⟩ := c
    by_cases hb : b = a
    · subst hb
      rw [List.filter_cons_of_pos (h v)]
      simp [Table.get]
    · rw [List.filter_cons]
      split
      · exact (if_neg hb).trans (ih.trans (if_neg hb).symm)
      · exact ih.trans (if_neg hb).symm

/-- Under reset the queues and channels are at their reset, held records are lost, and the MRAM keeps what it held (R16, R421, R431). -/
theorem State.enterReset_leaves (s : State) (due : Nat) : (s.enterReset due).die = .reset ∧ (s.enterReset due).prm.due = due ∧
    (s.enterReset due).jheld = [] ∧ (s.enterReset due).journal = s.journal ∧ (s.enterReset due).queues = [] ∧ (s.enterReset due).chans = [] ∧
    (∀ b, mramBase ≤ b → Memory.get (s.enterReset due).mem b = Memory.get s.mem b) :=
  ⟨rfl, rfl, rfl, rfl, rfl, rfl, fun _ hb => Memory.get_filter _ s.mem fun _ => decide_eq_true hb⟩

theorem runs_supplyReset (s : State) {r : Nat} (lt : r < 2) : Runs (.supplyReset r) s fun t =>
    t.die = .reset ∧ t.prm.due = 0 ∧ t.jheld = [] ∧ t.journal = s.journal ∧ t.queues = [] ∧ t.chans = [] ∧
      (∀ b, mramBase ≤ b → Memory.get t.mem b = Memory.get s.mem b) :=
  ⟨_, congrArg Host.Outcome.next (if_pos lt), s.enterReset_leaves 0⟩

theorem runs_porNFall (s : State) : Runs (.porNFall) s fun t =>
    t.porLow = true ∧ t.die = .reset ∧ t.prm.due = 0 ∧ t.jheld = [] ∧ t.journal = s.journal ∧ t.queues = [] ∧ t.chans = [] := by
  obtain ⟨hdie, hdue, hheld, hjournal, hqueues, hchans, -⟩ := State.enterReset_leaves { s with porLow := true } 0
  exact ⟨_, rfl, rfl, hdie, hdue, hheld, hjournal, hqueues, hchans⟩

/-- A domain at L0 that no wake is under way for is reset as it stands (R412, R419). -/
theorem runs_groupReset {s u : State} {g : Nat} (lt : g < 134) (hd : s.die = .ready) (hw : (s.dom g).waking = false) (hl : (s.dom g).level = 0)
    (hu : (if isCoreDom g then s.resetCore g
      else if !(domPorts g).isEmpty then s.each (domPorts g) fun s p => s.resetPort p
      else if g = 124 then s.resetDs
      else if isLinkDom g then s.setLink (g - 125) { conn := (s.link (g - 125)).conn }
      else s) = u) (hn : u.noneWait) : exec (.groupReset 0x10 g) s = .next u := by
  have hwake : s.wakeDomain g 6 = s := if_neg fun ⟨_, _, hlevel, _⟩ => hlevel hl
  have hdone : s.wakeDone g = s := if_neg (by simp [hw])
  have hgroup : s.resetGroup g = u := by
    unfold State.resetGroup
    rw [hwake, hdone]
    exact hu
  have hadm : s.admits 0x10 0x3808 = true := by simp [State.admits, hd, isHost]
  have hreset : s.groupReset 0x10 g = u := by
    unfold State.groupReset
    rw [if_neg (by decide), if_pos lt, hgroup, State.served_of_noneWait hn]
  exact congrArg Host.Outcome.next ((State.access_of_admits (fun s => s.groupReset 0x10 g) hadm (by decide) (offDom_eq_none (by decide))).trans hreset)

/-- With every context FREE there is nothing to hold and nothing to wake (R212, R287). -/
theorem State.arrange_of_free {s : State} {core : Nat} (h : ∀ k, (s.ctx core k).st = .free) : s.arrange core = s :=
  State.each_noop fun k _ => by
    have hhold : s.holdCtx core k = s := by
      unfold State.holdCtx
      dsimp only
      rw [h k, if_neg (by decide), if_neg (by simp)]
    rw [hhold]
    unfold State.wfeWake
    dsimp only
    rw [h k, if_neg (by simp)]

/-- A core's cycles, its pointer and its contexts at their reset. -/
def Core.cleared (c : Core) : Core := { c with ctxs := [], cycle := 0, ptr := 0 }

theorem ctxCount_le (core : Nat) : ctxCount core ≤ 8 := by
  unfold ctxCount
  split <;> decide

theorem State.resetCore_of_idle {s : State} {g : Nat} (h : ∀ k, k < 8 → (s.ctx g k).run = none) :
    ∃ hw : Hawk, s.resetCore g = ({ s with hawk := { s.hawk with cells := hw.cells, acct := hw.acct } } : State).updCore g Core.cleared := by
  have hruns : (s.each (List.range (ctxCount g)) fun s k => if (s.ctx g k).run.isSome then s.failRun g k stUnitFault .free else s) = s :=
    State.each_noop fun k hk => by
      rw [h k (Nat.lt_of_lt_of_le (List.mem_range.mp hk) (ctxCount_le g))]
      rfl
  have hheld : s.freeHeldAll (midOfCore g) = { s with hawk := { s.hawk with
      cells := (s.freeHeldAll (midOfCore g)).hawk.cells, acct := (s.freeHeldAll (midOfCore g)).hawk.acct } } := s.freeAll_frame _
  refine ⟨(s.freeHeldAll (midOfCore g)).hawk, ?_⟩
  have hfree : ∀ k, (((s.freeHeldAll (midOfCore g)).updCore g Core.cleared).ctx g k).st = .free := fun k => by
    rw [State.ctx, State.updCore, State.core_setCore]
    rfl
  have hreset : s.resetCore g = ((s.freeHeldAll (midOfCore g)).updCore g Core.cleared).arrange g := by
    unfold State.resetCore
    rw [hruns]
    rfl
  rw [hreset, State.arrange_of_free hfree]
  conv_lhs => rw [hheld]

theorem runs_groupReset_core {s : State} {g : Nat} (hd : s.die = .ready) (hn : s.noneWait) (hw : (s.dom g).waking = false) (hl : (s.dom g).level = 0)
    (lt : g < 72) (hrun : ∀ k, k < 8 → (s.ctx g k).run = none) :
    Runs (.groupReset 0x10 g) s fun t => (∀ k, (t.ctx g k).st = .free) ∧ (t.core g).cycle = 0 ∧ (∀ j, j ≠ g → t.core j = s.core j) := by
  obtain ⟨hawk, hcore⟩ := State.resetCore_of_idle hrun
  refine ⟨_, runs_groupReset (by omega) hd hw hl (if_pos (decide_eq_true lt)) (hcore ▸ hn), ?_⟩
  rw [hcore]
  refine ⟨fun k => ?_, ?_, fun j hj => State.core_setCore_ne _ _ _ _ hj⟩
  · rw [State.ctx, State.updCore, State.core_setCore]
    rfl
  · rw [State.updCore, State.core_setCore]
    rfl

theorem runs_groupReset_ds {s : State} {g : Nat} (hd : s.die = .ready) (hn : s.noneWait) (hw : (s.dom g).waking = false) (hl : (s.dom g).level = 0)
    (hg : g = 124) : Runs (.groupReset 0x10 g) s fun t =>
      t = { s with frm := { s.frm with pairLock := false }, ds := { s.ds with lanes := 0, aligned := 0, unacked := [], txWait := [], txSeq := 0, rxSeq := 0 } } := by
  subst hg
  exact ⟨s.resetDs, runs_groupReset (by decide) hd hw hl rfl hn, rfl⟩

theorem runs_groupReset_link {s : State} {g : Nat} (hd : s.die = .ready) (hn : s.noneWait) (hw : (s.dom g).waking = false) (hl : (s.dom g).level = 0)
    (hg : g = 125 ∨ g = 126) : Runs (.groupReset 0x10 g) s fun t =>
      t.link (g - 125) = { conn := (s.link (g - 125)).conn } ∧ t.link (126 - g) = s.link (126 - g) := by
  have hkeep : (s.setLink (g - 125) { conn := (s.link (g - 125)).conn }).noneWait := by
    rw [State.setLink_links]
    exact hn
  obtain rfl | rfl := hg
  · exact ⟨s.setLink 0 _, runs_groupReset (by decide) hd hw hl rfl hkeep, s.link_setLink 0 _, s.link_setLink_other _ (by decide)⟩
  · exact ⟨s.setLink 1 _, runs_groupReset (by decide) hd hw hl rfl hkeep, s.link_setLink 1 _, s.link_setLink_other _ (by decide)⟩

/-- Settles O56, row by row. -/
theorem powerRestWakeAndSupply : Obligations.PowerRestWakeAndSupply := by
  intro s d
  exact ⟨fun n hd lt hl hw hi ht hn => runs_domainIdleExpiry hd lt hl hw hi ht hn,
    fun cause lt hd hl hw => runs_wakeRequest cause lt hd hl hw,
    runs_domainWakeComplete,
    runs_l4Entry,
    runs_l4TimerWake,
    runs_pairPresentFall,
    runs_pairPresentFall_l4,
    fun md _ hl => runs_ucieL2Exit hl,
    fun n hd hw => runs_l4ExitComplete n hd hw,
    fun r lt hd hh => runs_supplyWarn lt hd hh,
    ⟨_, rfl, rfl⟩,
    ⟨_, rfl, rfl⟩,
    runs_holdTimeout,
    fun r lt => runs_supplyReset s lt,
    runs_refclkLoss,
    ⟨_, rfl, rfl⟩,
    ⟨_, rfl, rfl⟩,
    runs_porNFall s,
    fun g hd hn hw hl => ⟨fun lt hrun => runs_groupReset_core hd hn hw hl lt hrun, fun hg => runs_groupReset_ds hd hn hw hl hg,
      fun hg => runs_groupReset_link hd hn hw hl hg⟩⟩

end Sys2Proof.Machine
end

section
/-! PROOFS. What a data CCW that starts leaves of the state: its channel as it stands, and little else (R145, R163, R215). -/

namespace Sys2Proof.Machine
open Sys2Proof

/-! ### One channel at work -/

theorem Table.set_set {α : Type} (t : Table α) (k : Nat) (v w : α) : Table.set (Table.set t k v) k w = Table.set t k w := by
  induction t with
  | nil => simp [Table.set]
  | cons e r ih =>
    obtain ⟨j, x⟩ := e
    by_cases hlt : k < j
    · simp [Table.set, hlt]
    · by_cases heq : k = j
      · simp [Table.set, heq]
      · simp [Table.set, hlt, heq, ih]

theorem Table.mem_set {α : Type} {t : Table α} {k : Nat} {v : α} {e : Nat × α} (h : e ∈ Table.set t k v) : e = (k, v) ∨ e ∈ t := by
  induction t with
  | nil => exact .inl (List.mem_singleton.mp h)
  | cons c r ih =>
    obtain ⟨j, x⟩ := c
    unfold Table.set at h
    split at h
    · exact List.mem_cons.mp h
    · split at h
      · exact (List.mem_cons.mp h).imp id (List.mem_cons_of_mem _)
      · rcases List.mem_cons.mp h with he | he
        · exact .inr (he ▸ List.mem_cons_self ..)
        · exact (ih he).imp id (List.mem_cons_of_mem _)

theorem State.setChan_setChan (s : State) (ch : Nat) (x y : Chan) : (s.setChan ch x).setChan ch y = s.setChan ch y := by
  show ({ s with chans := _ } : State) = _
  unfold State.setChan
  rw [Table.set_set]

/-- From s to t a channel stands as x, the ports and the memory as given, and else only what classes have spent, the ledgers and the frames
to the partner have changed. -/
def OnChan (s t : State) (ch : Nat) (x : Chan) (ports : Table Port) (mem : List Host.Cell) : Prop :=
  t = { s with mem, ports, chans := s.chans.set ch x, classes := t.classes, ledger := t.ledger, mled := t.mled, ds := t.ds }

section OnChan

variable {s t : State} {ch : Nat} {x : Chan} {ps : Table Port} {m : List Host.Cell}

theorem State.setChan_onChan (s : State) (ch : Nat) (x : Chan) : OnChan s (s.setChan ch x) ch x s.ports s.mem := rfl

theorem OnChan.chan (h : OnChan s t ch x ps m) : t.chan ch = x := by
  rw [h]
  exact s.chan_setChan ch x

theorem OnChan.ports (h : OnChan s t ch x ps m) : t.ports = ps := by rw [h]

theorem OnChan.setChan (h : OnChan s t ch x ps m) (y : Chan) : OnChan s (t.setChan ch y) ch y ps m := by
  have hset : t.chans.set ch y = s.chans.set ch y := by
    rw [h]
    exact Table.set_set s.chans ch x y
  unfold OnChan State.setChan
  rw [hset]
  conv_lhs => rw [h]

theorem OnChan.updChan (h : OnChan s t ch x ps m) (f : Chan → Chan) : OnChan s (t.updChan ch f) ch (f x) ps m := by
  rw [State.updChan_def, h.chan]
  exact h.setChan (f x)

/-- An update of what such a step may change. -/
theorem OnChan.upd (h : OnChan s t ch x ps m) (classes : Table FClass) (ledger : Table LEntry) (mled : Table MSlot) (ds : Ds) :
    OnChan s { t with classes, ledger, mled, ds } ch x ps m := by
  unfold OnChan at *
  conv_lhs => rw [h]

theorem OnChan.setPorts (h : OnChan s t ch x ps m) (q : Table Port) : OnChan s { t with ports := q } ch x q m := by
  unfold OnChan at *
  conv_lhs => rw [h]

theorem OnChan.setMem (h : OnChan s t ch x ps m) (n : List Host.Cell) : OnChan s { t with mem := n } ch x ps n := by
  unfold OnChan at *
  conv_lhs => rw [h]

theorem OnChan.updPort (h : OnChan s t ch x ps m) (p : Nat) (f : Port → Port) : OnChan s (t.updPort p f) ch x (t.updPort p f).ports m := h.setPorts _

theorem OnChan.setCls (h : OnChan s t ch x ps m) (n : Nat) (y : FClass) : OnChan s (t.setCls n y) ch x ps m := h.upd _ t.ledger t.mled t.ds

theorem OnChan.mirror (h : OnChan s t ch x ps m) (ty : TxType) (prio : Bool) (body : TxBody) : OnChan s (t.mirror ty prio body) ch x ps m := by
  unfold State.mirror State.dsSend
  split
  · split
    · exact h.upd _ _ _ _
    · exact h
  · exact h

theorem OnChan.goChan (h : OnChan s t ch x ps m) (f : Chan → Chan) : OnChan s (t.goChan ch f) ch (f x) ps m := (h.updChan f).mirror _ _ _

theorem OnChan.programOf (h : OnChan s t ch x ps m) : ProgramOf { s with mem := t.mem } t ch := by
  refine ⟨?_, fun k hk => ?_⟩
  · unfold ProgramWork Reports
    rw [h]
  · rw [h]
    exact s.chan_setChan_ne ch k x hk

theorem OnChan.mem (h : OnChan s t ch x ps m) : t.mem = m := by rw [h]

theorem OnChan.die (h : OnChan s t ch x ps m) : t.die = s.die := by rw [h]

theorem OnChan.hold (h : OnChan s t ch x ps m) : t.hold = s.hold := by rw [h]

theorem OnChan.links (h : OnChan s t ch x ps m) (md : Nat) : t.link md = s.link md := by
  rw [h]
  rfl

theorem OnChan.retiredCell (h : OnChan s t ch x ps m) (k : Nat) : t.retiredCell k = s.retiredCell k := by
  rw [h]
  rfl

end OnChan

/-- A channel that is not parked for a ledger entry or a slot. -/
def Chan.NoLedgerWait (c : Chan) : Prop := c.parked = true → c.why ≠ .ledger

theorem State.chan_noLedgerWait {s : State} (h : s.noneWait) (ch : Nat) : (s.chan ch).NoLedgerWait := by
  intro hp
  rcases Table.get_eq_or_mem s.chans {} ch with he | hm
  · have hd : s.chan ch = {} := he
    rw [hd] at hp
    cases hp
  · exact h.2 _ hm hp

theorem OnChan.noneWait {s t : State} {ch : Nat} {x : Chan} {ps : Table Port} {m : List Host.Cell} (h : OnChan s t ch x ps m)
    (hn : s.noneWait) (hx : x.NoLedgerWait) : t.noneWait := by
  rw [h]
  refine ⟨hn.1, fun e he hp => ?_⟩
  rcases Table.mem_set he with rfl | hm
  · exact hx hp
  · exact hn.2 e hm hp

/-! ### Costs -/

theorem OnChan.chargeCh {s t : State} {ch : Nat} {x : Chan} {ps : Table Port} {m : List Host.Cell} (h : OnChan s t ch x ps m) (k : Cost) :
    OnChan s (t.chargeCh ch k) ch x (t.chargeCh ch k).ports m := by
  unfold State.chargeCh State.charge
  extract_lets y sp s1
  have h1 : OnChan s s1 ch x ps m := h.setCls _ _
  clear_value s1
  split
  · rw [h1.ports]
    exact h1
  · exact h1.updPort _ _

/-- A cost without bus time leaves the ports alone (R215). -/
theorem State.chargeCh_ports {s : State} {k : Cost} (ch : Nat) (h : k.bus = none) : (s.chargeCh ch k).ports = s.ports := by
  unfold State.chargeCh State.charge
  rw [h]
  rfl

/-- A CCW that is not the last of its block, with its cost within the budgets, starts charged with it (R154, R213, R215). -/
theorem State.startCcw_fits {s s0 : State} {ch : Nat} {k : Cost} {go : State → State} (hu : s.unfitCh ch (startCost k) = false)
    (hf : s.fitsCh ch (startCost k) = true) (ha : bitsOf (s.chan ch).ccwa 4 2 ≠ 3) :
    s.startCcw s0 ch k go = go ((s.chargeCh ch (startCost k)).updChan ch fun c => { c with released := false }) := by
  obtain ⟨t, ht⟩ : ∃ t, t = (s.chargeCh ch (startCost k)).updChan ch fun c => { c with released := false } := ⟨_, rfl⟩
  have hccwa : (t.chan ch).ccwa = (s.chan ch).ccwa := by
    have hch : (s.chargeCh ch (startCost k)).chan ch = s.chan ch := by
      unfold State.chargeCh State.charge
      dsimp only
      split <;> rfl
    rw [ht, State.updChan_def, State.chan_setChan, hch]
  have hpre : t.prefetch ch = t := by
    unfold State.prefetch
    dsimp only
    rw [if_neg (by rw [hccwa]; simp [ha])]
  unfold State.startCcw
  rw [hu, hf, if_neg Bool.false_ne_true, if_pos rfl, ← ht, hpre]

/-- The channel and the class counters as they stand before a CCW starts are judged alike with its data laid out (R213, R215). -/
theorem State.unfitCh_setChan (s : State) (ch : Nat) {x : Chan} (k : Cost) (h : x.wcls = (s.chan ch).wcls) : (s.setChan ch x).unfitCh ch k = s.unfitCh ch k := by
  unfold State.unfitCh
  rw [State.chan_setChan, h]
  rfl

theorem State.fitsCh_setChan (s : State) (ch : Nat) {x : Chan} (k : Cost) (h : x.wcls = (s.chan ch).wcls) : (s.setChan ch x).fitsCh ch k = s.fitsCh ch k := by
  unfold State.fitsCh
  rw [State.chan_setChan, h]
  rfl

/-! ### How the data of a CCW are laid out -/

/-- A channel with the data of a new CCW laid out in one piece: received from or stored at a, the response of an EXCH at b (R140, R145,
R149). -/
def Chan.laid (c : Chan) (w : BitVec 128) (a b : Word64) : Chan :=
  ({ c with lastPort := some (bitsOf (ccwParam w) 0 8),
            xfer := { c.beginXfer w with spans := [(a, ccwCount w)], pieces := [(a, ccwCount w)], dest := [(b, ccwCount w)] } } : Chan).showData

/-- The transfer of a CCW that begins one (R148). -/
theorem Chan.beginXfer_new {c : Chan} (w : BitVec 128) (h : c.inChain = false) : c.beginXfer w =
    { cmd := ccwCmd w, param := ccwParam w, first := c.ccwa, rs := ccwRs w, pi := c.xfer.pi, sl := ccwSl w, parts := [(c.ccwa, ccwCount w)],
      sls := [ccwSl w] } := by
  unfold Chan.beginXfer
  rw [h]
  rfl

/-- The transfer that a CCW begins with its data laid out (R148). -/
theorem Chan.laid_xfer {c : Chan} (w : BitVec 128) (a b : Word64) (h : c.inChain = false) : (c.laid w a b).xfer =
    { cmd := ccwCmd w, param := ccwParam w, first := c.ccwa, rs := ccwRs w, pi := c.xfer.pi, sl := ccwSl w, parts := [(c.ccwa, ccwCount w)],
      sls := [ccwSl w], spans := [(a, ccwCount w)], pieces := [(a, ccwCount w)], dest := [(b, ccwCount w)] } := by
  unfold Chan.laid
  rw [Chan.beginXfer_new w h]
  rfl

theorem Chan.laid_frame (c : Chan) (w : BitVec 128) (a b : Word64) : c.laid w a b =
    { c with lastPort := some (bitsOf (ccwParam w) 0 8), xfer := (c.laid w a b).xfer, remain := (c.laid w a b).remain, data := (c.laid w a b).data } := rfl

/-- A data CCW on a port that its checks allow begins with its data in one piece (R143 to R149, R508). -/
theorem State.beginData_laid {s : State} {ch p : Nat} {w : BitVec 128} (hp : p = bitsOf (ccwParam w) 0 8) (hloc : p ≠ portLocal) (hid : ccwId w = false)
    (hin : (s.chan ch).inChain = false) (hj : s.portJudge p (ccwCmd w) (argNode p (ccwParam w)) = none)
    (hc : s.countOk p (ccwCmd w) (argNode p (ccwParam w)) (ccwCount w) = true) {a b : Word64}
    (ha : a = if ccwSk w && (ccwCmd w == 0x02 || ccwCmd w == 0x04) then skipAddr else ccwAddr w) (hb : b = if ccwSk w then skipAddr else a)
    (hl : (s.chan ch).lsegBad (a, ccwCount w) = false) :
    s.beginData ch w = if ccwCmd w == 0x02 || ccwCmd w == 0x04 then (s.setChan ch ((s.chan ch).laid w a b)).beginInput s ch
      else (s.setChan ch ((s.chan ch).laid w a b)).beginOutput s ch := by
  have hx := (s.chan ch).beginXfer_new w hin
  obtain ⟨u, hu⟩ : ∃ u, u = s.updChan ch fun c => { c with xfer := (s.chan ch).beginXfer w, lastPort := some p } := ⟨_, rfl⟩
  have huchan : u.chan ch = { s.chan ch with xfer := (s.chan ch).beginXfer w, lastPort := some p } := by
    rw [hu, State.updChan_def, State.chan_setChan]
  have hlay : s.beginData ch w = u.layOut s ch w := by
    have hport : bitsOf ((s.chan ch).beginXfer w).param 0 8 = p := by rw [hx]; exact hp.symm
    have hjudge : (if (s.chan ch).inChain = true then none
        else s.portJudge p ((s.chan ch).beginXfer w).cmd (argNode p ((s.chan ch).beginXfer w).param)) = none := by
      rw [hin, if_neg Bool.false_ne_true, hx]
      exact hj
    have hcount : s.countOk p ((s.chan ch).beginXfer w).cmd (argNode p ((s.chan ch).beginXfer w).param) (ccwCount w) = true := by
      rw [hx]
      exact hc
    unfold State.beginData
    dsimp only
    rw [hport, if_neg hloc, hjudge]
    dsimp only
    rw [hcount, if_neg (by decide), hu]
  have hpieces : u.layOut s ch w = u.havePieces s ch (ccwSk w) [(a, ccwCount w)] := by
    have hnew : (u.chan ch).xfer.takesNew = (ccwCmd w == 0x02 || ccwCmd w == 0x04) := by rw [huchan, hx]; rfl
    unfold State.layOut
    rw [hid, if_neg Bool.false_ne_true, hnew, ← ha]
  rw [hlay, hpieces]
  have hbad : [(a, ccwCount w)].any (u.chan ch).lsegBad = false := by
    rw [List.any_cons, List.any_nil, Bool.or_false, huchan]
    exact hl
  have hcmd : (u.chan ch).xfer.cmd = ccwCmd w := by rw [huchan, hx]
  unfold State.havePieces
  extract_lets c input u1
  have hu1 : u1 = s.setChan ch ((s.chan ch).laid w a b) := by
    have hdest : (if ccwSk w then [(a, ccwCount w)].map fun e => (skipAddr, e.2) else [(a, ccwCount w)]) = [(b, ccwCount w)] := by
      rw [hb]
      split <;> rfl
    show u.updChan ch _ = _
    rw [State.updChan_def, huchan, hu, State.updChan_def, State.setChan_setChan, hdest, hx]
    unfold Chan.laid
    rw [hx, hp]
    rfl
  have hinput : input = (ccwCmd w == 0x02 || ccwCmd w == 0x04) := by
    show ((u.chan ch).xfer.cmd == 0x02 || (u.chan ch).xfer.cmd == 0x04) = _
    rw [hcmd]
  rw [hu1, hinput, hbad, if_neg Bool.false_ne_true]

/-- A CCW laid out and within the budgets starts with its channel as laid out, and without bus time on ports as they are (R215). -/
theorem State.startCcw_onChan {s : State} {ch : Nat} {x : Chan} {k : Cost} (hblk : bitsOf x.ccwa 4 2 ≠ 3)
    (hu : (s.setChan ch x).unfitCh ch (startCost k) = false) (hf : (s.setChan ch x).fitsCh ch (startCost k) = true) :
    ∃ t ps, (∀ go, (s.setChan ch x).startCcw s ch k go = go t) ∧ OnChan s t ch { x with released := false } ps s.mem ∧ (k.bus = none → ps = s.ports) := by
  refine ⟨_, _, fun go => State.startCcw_fits hu hf ?_, ((s.setChan_onChan ch x).chargeCh (startCost k)).updChan _, fun hb => ?_⟩
  · rw [State.chan_setChan]
    exact hblk
  · exact State.chargeCh_ports ch hb

theorem OnChan.served {s t : State} {ch : Nat} {x : Chan} {ps : Table Port} {m : List Host.Cell} (h : OnChan s t ch x ps m)
    (hn : s.noneWait) (hx : x.NoLedgerWait) : t.served = t := State.served_of_noneWait (h.noneWait hn hx)

end Sys2Proof.Machine
end

section
/-! PROOFS. READ on a port whose units are buffered (R145, R348, R351). -/

namespace Sys2Proof.Machine
open Sys2Proof

/-- A CCW that is due is the one that its channel holds, on a die that runs programs (R155, R192). -/
theorem State.dueCcw_some {s : State} {ch cmd : Nat} {w : BitVec 128} (h : s.dueCcw ch cmd = some w) (hin : (s.chan ch).inChain = false) :
    s.die = .ready ∧ s.hold = false ∧ (s.chan ch).heldCcw = some w ∧ ccwCmd w = cmd := by
  unfold State.dueCcw at h
  dsimp only at h
  split at h
  case isFalse => cases h
  next hc =>
    obtain ⟨hdie, hhold, -⟩ := hc
    split at h
    · cases h
    next v hv =>
      rw [hin, if_neg Bool.false_ne_true] at h
      split at h
      next hcmd =>
        obtain rfl := Option.some.inj h
        exact ⟨hdie, hhold, hv, hcmd⟩
      · cases h

/-- An address that skips names no byte of the local segment (R149). -/
theorem Chan.lsegBad_skip (c : Chan) (n : Nat) : c.lsegBad (skipAddr, n) = false := by
  have hs : (spaceOf skipAddr == 2) = false := by decide
  show (spaceOf skipAddr == 2 && _) = false
  rw [hs, Bool.false_and]

/-- What input is buffered depends on a port's configuration alone (R348). -/
theorem State.isBuffered_congr {s t : State} {p : Nat} (h : t.ports = s.ports) : t.isBuffered p = s.isBuffered p := by
  have hc : ∀ o, t.pcfg p o = s.pcfg p o := fun o => by
    unfold State.pcfg State.port
    rw [h]
  unfold State.isBuffered State.isPaced State.isModbus
  rw [hc]

/-- A port of which no READ is paced starts none (R349). -/
theorem State.pace_of_not_t1s (s : State) {p : Nat} (h : portKind p ≠ some .t1s) : s.pace p = s := by
  unfold State.pace
  split
  · rfl
  · rw [if_neg (by simp [h])]

theorem portKind_of_isBuffered {s : State} {p : Nat} (h : s.isBuffered p = true) : portKind p ≠ some .spi ∧ portKind p ≠ some .i2c := by
  unfold State.isBuffered at h
  constructor
  · intro e
    rw [e] at h
    cases h
  · intro e
    rw [e] at h
    cases h

/-- A port that buffers its input gathers no chain of READs (R345). -/
theorem State.gathers_read {s : State} {p : Nat} (h : s.isBuffered p = true) : s.gathers p 0x02 = false := by
  obtain ⟨hspi, hi2c⟩ := portKind_of_isBuffered h
  unfold State.gathers
  split
  case h_1 => simp
  case h_2 e => exact absurd e hspi
  case h_3 e => exact absurd e hi2c
  case h_4 => rfl
  case h_5 => rfl
  case h_6 => rfl
  case h_7 => rfl

/-- A READ begun on a port whose units are buffered, none of them there, waits on the port behind the READs already there (R351). -/
theorem State.startInput_joins {t : State} {ch p : Nat} {x : Chan} (hx : t.chan ch = x) (hp : x.port = p) (hb : t.isBuffered p = true)
    (hk : portKind p ≠ some .t1s) (hr : ch ∉ (t.port p).readers) :
    t.startInput ch = (t.updPort p fun q => { q with readers := q.readers ++ [ch] }).setChan ch { x with xfer := { x.xfer with phase := .input } } := by
  have hwait : t.waitsInput ch = true := by
    unfold State.waitsInput
    dsimp only
    rw [hx, hp, hb]
    rfl
  have hjoin : (t.updPort p fun q => if q.readers.contains ch then q else { q with readers := q.readers ++ [ch] }) =
      t.updPort p fun q => { q with readers := q.readers ++ [ch] } := by
    have hc : (t.port p).readers.contains ch = false := by simpa using hr
    rw [State.updPort_def, State.updPort_def, hc]
    rfl
  unfold State.startInput
  rw [hwait, if_pos rfl]
  unfold State.joinReaders
  dsimp only
  rw [hx, hp, hjoin, State.pace_of_not_t1s _ hk]
  unfold State.updXfer
  rw [State.updChan_def]
  show State.setChan _ ch { t.chan ch with xfer := { (t.chan ch).xfer with phase := .input } } = _
  rw [hx]

section Read

variable {s : State} {ch p : Nat} {w : BitVec 128} (hp : p = bitsOf (ccwParam w) 0 8) (hloc : p ≠ portLocal) (hid : ccwId w = false)

include hp hloc hid

theorem runs_read (hdue : CcwDue s ch 0x02 w) (hj : s.portJudge p 0x02 (argNode p (ccwParam w)) = none)
    (hc : s.countOk p 0x02 (argNode p (ccwParam w)) (ccwCount w) = true) (hl : (s.chan ch).lsegBad (ccwAddr w, ccwCount w) = false)
    (hb : s.isBuffered p = true) (hk : portKind p ≠ some .t1s) (hbuf : (s.port p).buf = []) (hr : ch ∉ (s.port p).readers) :
    Runs (.read ch) s fun t => (t.chan ch).xfer.cmd = 0x02 ∧ (t.chan ch).xfer.phase = .input ∧ (t.chan ch).lastPort = some p ∧
      (t.port p).readers = (s.port p).readers ++ [ch] ∧ ProgramOf s t ch := by
  obtain ⟨hn, hw, hin, hpi, hblk, hu, hf⟩ := hdue
  obtain ⟨hdie, hhold, hheld, hcmd⟩ := State.dueCcw_some hw hin
  obtain ⟨a, ha⟩ : ∃ a, a = if ccwSk w && (ccwCmd w == 0x02 || ccwCmd w == 0x04) then skipAddr else ccwAddr w := ⟨_, rfl⟩
  obtain ⟨b, hb'⟩ : ∃ b, b = if ccwSk w then skipAddr else a := ⟨_, rfl⟩
  have hla : (s.chan ch).lsegBad (a, ccwCount w) = false := by
    rw [ha]
    split
    · exact Chan.lsegBad_skip _ _
    · exact hl
  obtain ⟨L, hL⟩ : ∃ L, L = (s.chan ch).laid w a b := ⟨_, rfl⟩
  obtain ⟨u, hu'⟩ : ∃ u, u = s.setChan ch L := ⟨_, rfl⟩
  have huL : u.chan ch = L := by rw [hu']; exact s.chan_setChan ch L
  have hbegin : s.beginData ch w = u.beginInput s ch := by
    rw [State.beginData_laid hp hloc hid hin (by rw [hcmd]; exact hj) (by rw [hcmd]; exact hc) ha hb' hla, hcmd, if_pos (by decide), ← hL, ← hu']
  have hx := (s.chan ch).laid_xfer w a b hin
  have hfr := (s.chan ch).laid_frame w a b
  rw [← hL] at hx hfr
  have hLp : L.port = p := by
    unfold Chan.port
    rw [hx]
    exact hp.symm
  have hbu : u.isBuffered p = true := by
    rw [hu']
    exact (State.isBuffered_congr (s := s) rfl).trans hb
  have hkinds := portKind_of_isBuffered hb
  have hstart : u.beginInput s ch = u.startCcw s ch {} fun s => s.startInput ch := by
    have hwait : u.waitsInput ch = true := by
      unfold State.waitsInput
      dsimp only
      rw [huL, hLp, hbu]
      rfl
    have hcmd2 : ¬ (p = portLocal ∨ L.xfer.cmd = 0x04) := by
      rw [hx, hcmd]
      rintro (h | h)
      · exact hloc h
      · cases h
    have hended : L.xfer.ended = false := by rw [hx]
    have hheld : L.xfer.hold = [] := by rw [hx]
    unfold State.beginInput
    dsimp only
    rw [huL, hLp, if_neg hcmd2, hended, if_neg Bool.false_ne_true, hheld, if_neg (by simp), if_neg (fun h => hkinds.1 h.1), State.gathers_read hbu,
      Bool.and_false, if_neg Bool.false_ne_true, hwait, if_pos rfl]
  have hwcls : L.wcls = (s.chan ch).wcls := by rw [hfr]
  obtain ⟨t, ps, hgo, hon, hps⟩ := State.startCcw_onChan (s := s) (x := L) (k := {}) (by rw [hfr]; exact hblk)
    ((s.unfitCh_setChan ch _ hwcls).trans hu) ((s.fitsCh_setChan ch _ hwcls).trans hf)
  obtain rfl := hps rfl
  have hfits : u.startCcw s ch {} (fun s => s.startInput ch) = t.startInput ch := by
    rw [hu']
    exact hgo _
  have htport : t.port p = s.port p := by
    unfold State.port
    rw [hon.ports]
  have hjoin := State.startInput_joins (x := { L with released := false }) hon.chan hLp ((State.isBuffered_congr hon.ports).trans hb) hk (htport ▸ hr)
  obtain ⟨v, hv⟩ : ∃ v, v = t.startInput ch := ⟨_, rfl⟩
  have hvon : OnChan s v ch { L with released := false, xfer := { L.xfer with phase := .input } } (t.updPort p fun q => { q with readers := q.readers ++ [ch] }).ports s.mem := by
    rw [hv, hjoin]
    exact (hon.updPort p _).setChan _
  have hvport : v.port p = { s.port p with readers := (s.port p).readers ++ [ch] } := by
    rw [State.port, hvon.ports, ← htport]
    exact t.port_setPort p _
  have hpump : v.pumpPort (v.chan ch).port = v := by
    rw [hvon.chan]
    show v.pumpPort L.port = v
    unfold State.pumpPort
    rw [hLp, hvon.hold, hvon.die, hhold, hdie, if_neg (by decide), hvport, hbuf]
    exact State.pace_of_not_t1s _ hk
  have hserved : v.served = v := hvon.served hn (by rw [hfr]; exact s.chan_noLedgerWait hn ch)
  have hrun : exec (.read ch) s = .next v := by
    have hstep : s.onDue ch 0x02 (fun s w => let s1 := s.beginData ch w; s1.pumpPort (s1.chan ch).port) = v := by
      unfold State.onDue
      rw [hw]
      dsimp only
      rw [hbegin, hstart, hfits, ← hv, hpump]
    show Host.Outcome.next (State.served (s.onDue ch 0x02 fun s w => let s1 := s.beginData ch w; s1.pumpPort (s1.chan ch).port)) = _
    rw [hstep, hserved]
  have hprog := hvon.programOf
  rw [hvon.mem] at hprog
  refine ⟨v, hrun, ?_, ?_, ?_, ?_, hprog⟩
  · rw [hvon.chan, hx]
    exact hcmd
  · rw [hvon.chan]
  · rw [hvon.chan, hfr, ← hp]
  · rw [hvport]

end Read

end Sys2Proof.Machine
end

section
/-! PROOFS. A data CCW that is complete and goes on (R150, R152, R153), and SENSE into the local segment (R145, R367). -/

namespace Sys2Proof.Machine
open Sys2Proof

/-! ### Going on -/

/-- The checks of a CCW look at nothing of a port but its configuration in force (R146, R341). -/
theorem State.ccwCheck_congr {s t : State} (h : ∀ p, (t.port p).act = (s.port p).act) (w : BitVec 128) (cont : Option (Nat × Word32 × Bool)) :
    t.ccwCheck w cont = s.ccwCheck w cont := by
  have hcfg : ∀ p o, t.pcfg p o = s.pcfg p o := fun p o => by
    unfold State.pcfg
    rw [h]
  have harg : ∀ p c x, t.portArgOk p c x = s.portArgOk p c x := fun p c x => by
    unfold State.portArgOk State.isModbus
    simp only [hcfg]
  unfold State.ccwCheck State.badParam
  simp only [harg]

/-- What a channel keeps from the start of a CCW to its end, so that the program can go on (R153). -/
structure Chan.SameProgram (c x : Chan) : Prop where
  blocks : x.blocks = c.blocks
  ccwa : x.ccwa = c.ccwa
  haltReq : x.haltReq = c.haltReq
  retired : x.retired = c.retired
  inChain : x.inChain = c.inChain
  pi : x.xfer.pi = c.xfer.pi
  parked : x.parked = c.parked
  why : x.why = c.why

theorem Chan.SameProgram.heldCcw {c x : Chan} (h : c.SameProgram x) : x.heldCcw = c.heldCcw := by
  unfold Chan.heldCcw
  rw [h.blocks, h.ccwa]

theorem Chan.SameProgram.noLedgerWait {c x : Chan} (h : c.SameProgram x) (hc : c.NoLedgerWait) : x.NoLedgerWait := by
  unfold Chan.NoLedgerWait
  rw [h.parked, h.why]
  exact hc

/-- The channel when the sequencer has reached the CCW w (R146). -/
def Chan.reached (c : Chan) (w : BitVec 128) : Chan :=
  { c with fetched := true, suOnce := false, afterJump := false,
           remain := if c.inChain || cmdData (ccwCmd w) then ccwCount w else c.remain,
           portions := if c.inChain || cmdData (ccwCmd w) then 0 else c.portions,
           data := if c.inChain || cmdData (ccwCmd w) then ccwAddr w else c.data }

/-- A CCW that passes its checks and is neither a JUMP nor suspends is reached (R146, R156, R158). -/
theorem State.reach_held {t : State} {ch : Nat} {x : Chan} {w : BitVec 128} (hx : t.chan ch = x) (hr : x.retired = false) (hh : x.haltReq = false)
    (hin : x.inChain = false) (hw : x.heldCcw = some w) (hc : t.ccwCheck w none = none) (h8 : ccwCmd w ≠ 8) (hsu : ccwSu w = false) :
    t.reach ch = t.setChan ch (x.reached w) := by
  unfold State.reach
  dsimp only
  rw [hx, hr, hh, hin, hw, if_neg Bool.false_ne_true, Bool.false_and, if_neg Bool.false_ne_true]
  dsimp only
  rw [if_neg Bool.false_ne_true, hc]
  dsimp only
  rw [hsu, if_neg (by simp [h8]), Bool.false_and, if_neg Bool.false_ne_true, State.updChan_def, hx]
  rfl

/-- A command that chains on with CC to a CCW that the channel holds goes on there (R153). -/
theorem OnChan.goOn {s t : State} {ch : Nat} {x : Chan} {ps : Table Port} {m : List Host.Cell} (h : OnChan s t ch x ps m) (hgo : CcwGoesOn s ch)
    (hx : (s.chan ch).SameProgram x) (hps : ∀ p, (t.port p).act = (s.port p).act) :
    ∃ y, OnChan s (t.goOn ch) ch y ps m ∧ y.ccwa = (s.chan ch).ccwa + 16 ∧ y.cond = x.cond ∧ y.lastPort = x.lastPort ∧ y.NoLedgerWait := by
  obtain ⟨hin, hpi, ⟨w, hw, hcd, hcc, hwpi⟩, ⟨hhalt, hret, v, hv, hcheck, h8, hsu⟩, hn⟩ := hgo
  obtain ⟨y, hy⟩ : ∃ y : Chan, y = { x with inChain := false, xfer := {}, ccwa := x.ccwa + 16, fetched := false } := ⟨_, rfl⟩
  obtain ⟨u, hu⟩ : ∃ u, u = (t.updChan ch fun c => { c with inChain := false, xfer := {} }).goChan ch fun c =>
    { c with ccwa := x.ccwa + 16, fetched := false } := ⟨_, rfl⟩
  have hon : OnChan s u ch y ps m := by
    rw [hu, hy]
    exact (h.updChan _).goChan _
  have hgoOn : t.goOn ch = u.reach ch := by
    unfold State.goOn
    dsimp only
    rw [h.chan, hx.heldCcw, hw]
    dsimp only
    rw [hcd, Bool.false_and, if_neg Bool.false_ne_true, hx.pi, hpi, hwpi, Bool.false_or, Bool.false_and, if_neg Bool.false_ne_true, if_neg Bool.false_ne_true,
      hcc, if_pos rfl, hu]
    rfl
  have hheld : y.heldCcw = some v := by
    rw [← hv, hy]
    unfold Chan.heldCcw
    dsimp only
    rw [hx.blocks, hx.ccwa]
  have hact : ∀ p, (u.port p).act = (s.port p).act := fun p => by
    rw [← hps p]
    unfold State.port
    rw [hon.ports, h.ports]
  have hreach : u.reach ch = u.setChan ch (y.reached v) :=
    State.reach_held hon.chan (by rw [hy]; exact hx.retired.trans hret) (by rw [hy]; exact hx.haltReq.trans hhalt) (by rw [hy]) hheld
      ((State.ccwCheck_congr hact v none).trans hcheck) h8 hsu
  refine ⟨y.reached v, ?_, ?_, ?_, ?_, ?_⟩
  · rw [hgoOn, hreach]
    exact hon.setChan _
  · rw [hy, ← hx.ccwa]
    rfl
  · rw [hy]
    rfl
  · rw [hy]
    rfl
  · rw [hy]
    exact hx.noLedgerWait (s.chan_noLedgerWait hn ch)

/-! ### The end of a data CCW -/

/-- A transfer that has opened no effect, of which no bit is set. -/
structure Xfer.Plain (x : Xfer) : Prop where
  slot : x.slot = none
  mslot : x.mslot = none
  cond : x.cond = 0
  bits : x.bits = 0
  outDone : x.outDone = false

/-- No effect is open, so none is marked DONE (R176). -/
theorem State.doneOnce_plain {t : State} {ch : Nat} {x : Chan} (hx : t.chan ch = x) (hp : x.xfer.Plain) (r : Nat) :
    t.doneOnce ch r = t.updXfer ch fun x => { x with outDone := true } := by
  have heffect : t.doneEffect ch r = t := by
    unfold State.doneEffect
    dsimp only
    rw [hx, hp.slot, hp.mslot]
  unfold State.doneOnce
  rw [hx, hp.outDone, if_neg Bool.false_ne_true, heffect]

/-- The port of a READ with the channel out of the list of those that wait (R351). -/
def Port.left (q : Port) (ch : Nat) : Port :=
  { q with readers := q.readers.filter fun c => c != ch, beaconHeld := q.beaconHeld && !(q.readers.filter fun c => c != ch).isEmpty }

/-- A data CCW of no chain that ends with no bit set clears the condition bits and goes on (R150, R152). -/
theorem OnChan.endData {s t : State} {ch : Nat} {x : Chan} {ps : Table Port} {m : List Host.Cell} (h : OnChan s t ch x ps m) (hgo : CcwGoesOn s ch)
    (hx : (s.chan ch).SameProgram x) (hps : ∀ p, (t.port p).act = (s.port p).act) (hp : x.xfer.Plain) :
    ∃ y qs, OnChan s (t.endData ch 0) ch y qs m ∧ y.ccwa = (s.chan ch).ccwa + 16 ∧ y.cond = BitVec.ofNat 16 (x.cond.toNat / 256 * 256) ∧ y.NoLedgerWait := by
  obtain ⟨-, -, ⟨w, hw, hcd, -, -⟩, -⟩ := id hgo
  have hchained : x.chained = false := by
    unfold Chan.chained
    rw [hx.heldCcw, hw]
    exact hcd
  obtain ⟨y, hy⟩ : ∃ y : Chan, y = { x with cond := BitVec.ofNat 16 (x.cond.toNat / 256 * 256 + 0 % 256), xfer := { x.xfer with cond := 0, bits := 0 } } := ⟨_, rfl⟩
  obtain ⟨u, hu⟩ : ∃ u, u = ((t.leaveReaders x.port ch).replaceCond ch 0).updXfer ch fun x => { x with cond := 0, bits := 0 } := ⟨_, rfl⟩
  have hon : OnChan s u ch y (t.leaveReaders x.port ch).ports m := by
    rw [hu, hy]
    exact ((h.updPort x.port fun q => q.left ch).updChan _).updChan _
  have hplain : y.xfer.Plain := by
    rw [hy]
    exact ⟨hp.slot, hp.mslot, rfl, rfl, hp.outDone⟩
  have hsame : (s.chan ch).SameProgram y := by
    rw [hy]
    exact ⟨hx.blocks, hx.ccwa, hx.haltReq, hx.retired, hx.inChain, hx.pi, hx.parked, hx.why⟩
  have hend : t.endData ch 0 = ((u.updXfer ch fun x => { x with outDone := true }).portion ch).goOn ch := by
    have hcode : (if x.xfer.slHere then none else lengthCode 0) = none := by
      split <;> rfl
    unfold State.endData
    dsimp only
    rw [h.chan, hp.cond, hp.bits, show (0 ||| 0 : Nat) = 0 from rfl, show (0 ||| 0 : Nat) = 0 from rfl, hcode]
    dsimp only
    rw [hchained, if_neg Bool.false_ne_true, ← hu, State.doneOnce_plain hon.chan hplain]
  obtain ⟨z, hz⟩ : ∃ z : Chan, z = { y with xfer := { y.xfer with outDone := true }, portions := satInc y.portions } := ⟨_, rfl⟩
  have hon' : OnChan s ((u.updXfer ch fun x => { x with outDone := true }).portion ch) ch z (t.leaveReaders x.port ch).ports m := by
    rw [hz]
    exact (hon.updChan _).updChan _
  have hsame' : (s.chan ch).SameProgram z := by
    rw [hz]
    exact ⟨hsame.blocks, hsame.ccwa, hsame.haltReq, hsame.retired, hsame.inChain, hsame.pi, hsame.parked, hsame.why⟩
  have hact : ∀ p, (((u.updXfer ch fun x => { x with outDone := true }).portion ch).port p).act = (s.port p).act := fun p => by
    rw [← hps p, State.port, hon'.ports]
    show ((t.setPort x.port ((t.port x.port).left ch)).port p).act = (t.port p).act
    by_cases hpx : p = x.port
    · rw [hpx, State.port_setPort]
      rfl
    · rw [t.port_setPort_ne x.port p _ hpx]
  obtain ⟨v, hv, hccwa, hcond, -, hwait⟩ := hon'.goOn hgo hsame' hact
  rw [← hend] at hv
  refine ⟨v, _, hv, hccwa, ?_, hwait⟩
  rw [hcond, hz, hy, ← Nat.add_zero (x.cond.toNat / 256 * 256)]

/-! ### SENSE into the local segment -/

/-- Bytes that make one piece in the local segment are stored there (R143, R145). -/
theorem State.storeIn_lseg {t : State} {ch : Nat} {x : Chan} {a : Word64} {l : List Byte} (hx : t.chan ch = x) (hp : x.xfer.pieces = [(a, l.length)])
    (hl : 0 < l.length) (ha : spaceOf a = 2) (hr : t.lsegRetired ch (bitsOf a 0 16) l.length = false) :
    t.storeIn ch l (l.length + x.xfer.pieces.length + 1) = .ok ((t.store (x.lsegAddr (bitsOf a 0 16)) l).updChan ch fun c =>
      { c with xfer := { c.xfer with pieces := [(a + BitVec.ofNat 64 l.length, 0)], off := c.xfer.off + l.length } }) := by
  have hskip : a ≠ skipAddr := by
    rintro rfl
    exact absurd ha (by decide)
  have hne : l.isEmpty = false := by
    rw [List.isEmpty_eq_false_iff]
    exact List.ne_nil_of_length_pos hl
  rw [hp]
  show t.storeIn ch l (l.length + 2) = _
  unfold State.storeIn
  rw [hne, if_neg Bool.false_ne_true]
  dsimp only
  rw [hx, hp]
  dsimp only
  rw [if_neg (by omega), Nat.min_self, if_neg hskip, ha]
  rw [hr, if_neg Bool.false_ne_true, List.take_length, List.drop_length, Nat.sub_self]
  unfold State.storeIn
  rfl

theorem State.senseBlock_length (s : State) (p : Nat) : (s.senseBlock p).length = 128 := by
  unfold State.senseBlock
  dsimp only
  rw [List.length_take, List.length_append, List.length_replicate]
  omega

/-- Bytes that fill an input of one piece in the local segment are stored there, and the program goes on (R145, R152, R153). -/
theorem OnChan.deliver {s t : State} {ch : Nat} {x : Chan} {ps : Table Port} {m : List Host.Cell} (h : OnChan s t ch x ps m) (hgo : CcwGoesOn s ch)
    (hx : (s.chan ch).SameProgram x) (hps : ∀ p, (t.port p).act = (s.port p).act) (hplain : x.xfer.Plain) {a : Word64} {l : List Byte}
    (hp : x.xfer.pieces = [(a, l.length)]) (hsize : x.xfer.size = l.length) (htotal : x.xfer.total = 0) (hhold : x.xfer.hold = []) (hl : 0 < l.length)
    (ha : spaceOf a = 2) (hr : t.lsegRetired ch (bitsOf a 0 16) l.length = false) :
    ∃ y qs, OnChan s (t.deliver ch l) ch y qs (Memory.setMany m (x.lsegAddr (bitsOf a 0 16)) l) ∧ y.ccwa = (s.chan ch).ccwa + 16 ∧
      y.cond = BitVec.ofNat 16 (x.cond.toNat / 256 * 256) ∧ y.NoLedgerWait := by
  obtain ⟨-, -, ⟨w, hw, hcd, -, -⟩, -⟩ := id hgo
  have hchained : x.chained = false := by
    unfold Chan.chained
    rw [hx.heldCcw, hw]
    exact hcd
  obtain ⟨x1, hx1⟩ : ∃ x1 : Chan, x1 = { x with xfer := { x.xfer with pieces := [(a + BitVec.ofNat 64 l.length, 0)], off := x.xfer.off + l.length } } := ⟨_, rfl⟩
  obtain ⟨x2, hx2⟩ : ∃ x2 : Chan, x2 = ({ x1 with xfer := { x1.xfer with total := x1.xfer.total + l.length } } : Chan).showData := ⟨_, rfl⟩
  obtain ⟨x3, hx3⟩ : ∃ x3 : Chan, x3 = { x2 with xfer := { x2.xfer with units := x2.xfer.units + 1, hold := [], retries := 0 } } := ⟨_, rfl⟩
  obtain ⟨u, hu⟩ : ∃ u, u = (((t.store (x.lsegAddr (bitsOf a 0 16)) l).updChan ch fun c =>
      { c with xfer := { c.xfer with pieces := [(a + BitVec.ofNat 64 l.length, 0)], off := c.xfer.off + l.length } }).moved ch l.length).updXfer ch
        fun x => { x with hold := [], retries := 0 } := ⟨_, rfl⟩
  have hon : OnChan s u ch x3 ps (Memory.setMany m (x.lsegAddr (bitsOf a 0 16)) l) := by
    have hstore : OnChan s (t.store (x.lsegAddr (bitsOf a 0 16)) l) ch x ps (Memory.setMany m (x.lsegAddr (bitsOf a 0 16)) l) := by
      rw [← h.mem]
      exact h.setMem _
    rw [hu, hx3, hx2, hx1]
    exact (((hstore.updChan _).updChan _).updChan _).updChan _
  have hsame : (s.chan ch).SameProgram x3 := by
    rw [hx3, hx2, hx1]
    exact ⟨hx.blocks, hx.ccwa, hx.haltReq, hx.retired, hx.inChain, hx.pi, hx.parked, hx.why⟩
  have hplain3 : x3.xfer.Plain := by
    rw [hx3, hx2, hx1]
    exact ⟨hplain.slot, hplain.mslot, hplain.cond, hplain.bits, hplain.outDone⟩
  have htotal3 : x3.xfer.total = l.length := by
    rw [hx3, hx2, hx1]
    show x.xfer.total + l.length = l.length
    rw [htotal, Nat.zero_add]
  have hleft3 : x3.xfer.left = 0 := by
    have hsize3 : x3.xfer.size = l.length := by
      rw [hx3, hx2, hx1]
      exact hsize
    rw [Xfer.left, hsize3, htotal3, Nat.sub_self]
  have hbits3 : x3.xfer.inBits = 0 := by
    have hne : (l.length == 0) = false := by simpa using List.ne_nil_of_length_pos hl
    rw [Xfer.inBits, hleft3, htotal3, hne]
    rfl
  have hact : ∀ p, (u.port p).act = (s.port p).act := fun p => by
    rw [← hps p]
    unfold State.port
    rw [hon.ports, h.ports]
  have hdeliver : t.deliver ch l = u.endData ch 0 := by
    have hleft : x.xfer.left = l.length := by rw [Xfer.left, hsize, htotal, Nat.sub_zero]
    unfold State.deliver
    dsimp only
    rw [h.chan, hhold, List.nil_append, hleft, List.take_length, List.drop_length, State.storeIn_lseg h.chan hp hl ha hr, hchained]
    dsimp only
    rw [show (!false && !([] : List Byte).isEmpty) = false from rfl]
    simp only [Bool.false_eq_true, if_false]
    rw [← hu, hon.chan, if_pos (.inl hleft3), hbits3]
  obtain ⟨y, qs, hy, hccwa, hcond, hwait⟩ := hon.endData hgo hsame hact hplain3
  refine ⟨y, qs, hdeliver ▸ hy, hccwa, ?_, hwait⟩
  rw [hcond, hx3, hx2, hx1]
  rfl

theorem runs_sense {s : State} {ch p n : Nat} {w : BitVec 128} (hp : p = bitsOf (ccwParam w) 0 8) (hloc : p ≠ portLocal) (hid : ccwId w = false)
    (hdue : CcwDue s ch 0x04 w) (hj : s.portJudge p 0x04 (argNode p (ccwParam w)) = none)
    (hc : s.countOk p 0x04 (argNode p (ccwParam w)) (ccwCount w) = true) (hsk : ccwSk w = false) (hsp : spaceOf (ccwAddr w) = 2) (hn : n = ccwCount w)
    (hle : n ≤ 128) (hl : (s.chan ch).lsegBad (ccwAddr w, n) = false) (hr : s.lsegRetired ch (bitsOf (ccwAddr w) 0 16) n = false)
    (hu : s.unfitCh ch (startCost { sbeat := ceilDiv n 32 }) = false) (hf : s.fitsCh ch (startCost { sbeat := ceilDiv n 32 }) = true)
    (hgo : CcwGoesOn s ch) (hm : s.memOk) :
    Runs (.sense ch) s fun t => t.bytesAt ((s.chan ch).lsegAddr (bitsOf (ccwAddr w) 0 16)) n = (s.senseBlock p).take n ∧
      MemOnly s t ((s.chan ch).lsegAddr (bitsOf (ccwAddr w) 0 16)) n ∧ (t.chan ch).ccwa = (s.chan ch).ccwa + 16 ∧
      (t.chan ch).cond = BitVec.ofNat 16 ((s.chan ch).cond.toNat / 256 * 256) ∧ ProgramOf { s with mem := t.mem } t ch := by
  obtain ⟨hnone, hw, hin, hpi, hblk, -, -⟩ := hdue
  obtain ⟨hdie, hhold, hheld, hcmd⟩ := State.dueCcw_some hw hin
  subst hn
  obtain ⟨l, hl'⟩ : ∃ l, l = (s.senseBlock p).take (ccwCount w) := ⟨_, rfl⟩
  have hlen : l.length = ccwCount w := by
    rw [hl', List.length_take, s.senseBlock_length]
    omega
  have hpos : 0 < ccwCount w := by
    unfold ccwCount
    split <;> omega
  obtain ⟨L, hL⟩ : ∃ L, L = (s.chan ch).laid w (ccwAddr w) (ccwAddr w) := ⟨_, rfl⟩
  have hx := (s.chan ch).laid_xfer w (ccwAddr w) (ccwAddr w) hin
  have hfr := (s.chan ch).laid_frame w (ccwAddr w) (ccwAddr w)
  rw [← hL] at hx hfr
  obtain ⟨u, hu'⟩ : ∃ u, u = s.setChan ch L := ⟨_, rfl⟩
  have huL : u.chan ch = L := by rw [hu']; exact s.chan_setChan ch L
  have hbegin : s.beginData ch w = u.beginInput s ch := by
    rw [State.beginData_laid hp hloc hid hin (by rw [hcmd]; exact hj) (by rw [hcmd]; exact hc) (a := ccwAddr w) (b := ccwAddr w) (by rw [hsk]; rfl)
      (by rw [hsk]; rfl) hl, hcmd, if_pos (by decide), ← hL, ← hu']
  have hLp : L.port = p := by
    unfold Chan.port
    rw [hx]
    exact hp.symm
  have hsize : L.xfer.size = ccwCount w := by
    rw [hx]
    exact Nat.zero_add _
  have hbytes : u.dieBytes ch = l := by
    have h4 : L.xfer.cmd = 0x04 := by rw [hx]; exact hcmd
    have htot : L.xfer.total = 0 := by rw [hx]
    unfold State.dieBytes
    dsimp only
    rw [huL, h4, if_pos rfl, Xfer.left, hsize, htot, hLp, hl', hu']
    rfl
  have hstart : u.beginInput s ch = u.startCcw s ch { sbeat := ceilDiv l.length 32 } fun s => (s.updXfer ch fun x => { x with ended := true }).deliver ch l := by
    have h4 : L.xfer.cmd = 0x04 := by rw [hx]; exact hcmd
    have hnl : decide (p = portLocal) = false := decide_eq_false hloc
    unfold State.beginInput
    dsimp only
    rw [huL, hLp, if_pos (.inr h4), hnl, Bool.false_and, if_neg Bool.false_ne_true, hbytes]
  have hwcls : L.wcls = (s.chan ch).wcls := by rw [hfr]
  obtain ⟨t, ps, hstartCcw, hon, hps⟩ := State.startCcw_onChan (s := s) (x := L) (k := { sbeat := ceilDiv l.length 32 }) (by rw [hfr]; exact hblk)
    ((s.unfitCh_setChan ch _ hwcls).trans (hlen ▸ hu)) ((s.fitsCh_setChan ch _ hwcls).trans (hlen ▸ hf))
  obtain rfl := hps rfl
  obtain ⟨x, hx'⟩ : ∃ x : Chan, x = { L with released := false, xfer := { L.xfer with ended := true } } := ⟨_, rfl⟩
  have hon' : OnChan s (t.updXfer ch fun x => { x with ended := true }) ch x s.ports s.mem := by
    rw [hx']
    exact hon.updChan _
  have hsame : (s.chan ch).SameProgram x := by
    rw [hx', hx, hfr]
    exact ⟨rfl, rfl, rfl, rfl, rfl, rfl, rfl, rfl⟩
  have hret : (t.updXfer ch fun x => { x with ended := true }).lsegRetired ch (bitsOf (ccwAddr w) 0 16) l.length = false := by
    have hbase : x.lbase = (s.chan ch).lbase := by rw [hx', hfr]
    rw [hlen, ← hr]
    unfold State.lsegRetired
    simp only [hon'.chan, hon'.retiredCell, hbase]
  obtain ⟨y, qs, hy, hccwa, hcond, hwait⟩ := hon'.deliver hgo hsame (fun p => by rw [State.port, hon'.ports]; rfl) (a := ccwAddr w) (l := l)
    (by rw [hx', hx]; exact ⟨rfl, rfl, rfl, rfl, rfl⟩) (by rw [hx', hx, hlen]) (by rw [hx', hlen]; exact hsize) (by rw [hx', hx]) (by rw [hx', hx])
    (by rw [hlen]; exact hpos) hsp hret
  obtain ⟨v, hv⟩ : ∃ v, v = (t.updXfer ch fun x => { x with ended := true }).deliver ch l := ⟨_, rfl⟩
  have haddr : x.lsegAddr (bitsOf (ccwAddr w) 0 16) = (s.chan ch).lsegAddr (bitsOf (ccwAddr w) 0 16) := by
    rw [hx', hfr]
    rfl
  rw [← hv, haddr] at hy
  have hrun : exec (.sense ch) s = .next v := by
    have hstep : s.onDue ch 0x04 (fun s w => s.beginData ch w) = v := by
      unfold State.onDue
      rw [hw]
      dsimp only
      rw [hbegin, hstart, hu', hstartCcw, hv]
    show Host.Outcome.next (State.served (s.onDue ch 0x04 fun s w => s.beginData ch w)) = _
    rw [hstep, hy.served hnone hwait]
  refine ⟨v, hrun, ?_, fun b hb => ?_, ?_, ?_, hy.programOf⟩
  · have hread := State.bytesAt_store hm ((s.chan ch).lsegAddr (bitsOf (ccwAddr w) 0 16)) l
    rw [hlen] at hread
    rw [State.bytesAt, hy.mem, ← hl']
    exact hread
  · rw [hy.mem]
    exact Memory.get_setMany_out s.mem _ b l (hlen ▸ hb)
  · rw [hy.chan]
    exact hccwa
  · rw [hy.chan, hcond, hx', hfr]

end Sys2Proof.Machine
end

section
/-! PROOFS. WRITE, CONTROL and EXCH with their data in host memory (R66, R145, R176, R187), and O25. -/

namespace Sys2Proof.Machine
open Sys2Proof

/-! ### The effect of an output is opened -/

/-- Of a channel, only the ledger's bookkeeping of an effect has changed (R176). -/
def Chan.Opened (x y : Chan) : Prop :=
  y = { x with nextOrd := y.nextOrd, xfer := { x.xfer with slot := y.xfer.slot, gate := y.xfer.gate, mslot := y.xfer.mslot } }

theorem OnChan.markSlot {s t : State} {ch : Nat} {x : Chan} {ps : Table Port} {m : List Host.Cell} (h : OnChan s t ch x ps m) (k : MSlot) :
    ∃ j, OnChan s (t.markSlot ch k) ch { x with xfer := { x.xfer with mslot := j } } ps m := by
  unfold State.markSlot
  split
  · exact ⟨x.xfer.mslot, h⟩
  · split
    · exact ⟨x.xfer.mslot, h⟩
    next j _ => exact ⟨some j, (h.upd t.classes t.ledger (t.mled.set j k) t.ds).updChan _⟩

theorem OnChan.openEffect {s t : State} {ch : Nat} {x : Chan} {ps : Table Port} {m : List Host.Cell} (h : OnChan s t ch x ps m) (ccw : Word64) (rs : Bool) :
    ∃ y, OnChan s (t.openEffect ch ccw rs) ch y ps m ∧ x.Opened y := by
  unfold State.openEffect
  extract_lets c old
  split
  next q cnt _ =>
  split
  · exact ⟨x, h, rfl⟩
  next i _ =>
    extract_lets e s0 s1 s2
    have h0 : OnChan s s0 ch { x with nextOrd := x.nextOrd + 1 } ps m :=
      OnChan.goChan (t := State.notePeak { t with ledger := Table.set old i e } (tileOfCh ch)) (h.upd t.classes _ t.mled _) _
    clear_value s0
    have h1 : OnChan s s1 ch { x with nextOrd := x.nextOrd + 1 } ps m := h0.mirror _ _ _
    clear_value s1
    have h2 := h1.updChan fun c => { c with xfer := { c.xfer with slot := some i, gate := if s1.gates then some s1.lastFrame else c.xfer.gate } }
    obtain ⟨j, h3⟩ := h2.markSlot { ch, rs, queue := q, cnt, ccw, frame := t.frameLo, done := false }
    exact ⟨_, h3, rfl⟩

/-! ### Reads that are asked for -/

/-- The reads of a module that are out or wait (R66). -/
def Link.pending (l : Link) : List HostRead := l.reads ++ l.waiting

theorem State.pumpReads_pending (s : State) (md n : Nat) : ((s.pumpReads md n).link md).pending = (s.link md).pending := by
  induction n generalizing s with
  | zero => rfl
  | succ n ih =>
    unfold State.pumpReads
    dsimp only
    split
    · rfl
    next r t hw =>
      split
      · rw [ih, State.link_setLink]
        show ((s.link md).reads ++ [r]) ++ t = (s.link md).reads ++ (s.link md).waiting
        rw [hw, List.append_assoc, List.singleton_append]
      · rfl

theorem mem_addWaiting (l : List HostRead) (r : HostRead) : r ∈ addWaiting l r := by
  unfold addWaiting
  split <;> simp

/-- A read that is asked for is out or waits (R66, R67). -/
theorem State.mem_askRead (s : State) (md : Nat) (r : HostRead) : r ∈ ((s.askRead md r).link md).pending := by
  obtain ⟨x, p, m, hl⟩ := State.wantLink_link (s.updLink md fun l => { l with waiting := addWaiting l.waiting r }) md
  show r ∈ ((State.pumpReads _ md _).link md).pending
  rw [State.pumpReads_pending, hl, State.updLink_def, State.link_setLink]
  exact List.mem_append_right _ (mem_addWaiting _ r)

theorem State.hasRead_of_mem {s : State} {md : Nat} {r : HostRead} {f : ReadReq → Bool} (h : r ∈ (s.link md).pending) (hf : f r.req = true) :
    s.hasRead f = true := by
  refine List.any_eq_true.mpr ⟨r, ?_, hf⟩
  rcases List.mem_append.mp h with h | h
  all_goals
    unfold State.link at h
    split at h
    all_goals simp [h]

theorem OnChan.chModule {s t : State} {ch : Nat} {x : Chan} {ps : Table Port} {m : List Host.Cell} (h : OnChan s t ch x ps m)
    (hb : x.began = (s.chan ch).began) (hq : x.queue = (s.chan ch).queue) : t.chModule ch = s.chModule ch := by
  have hmod : ∀ q, t.qModule q = s.qModule q := fun q => by
    rw [h]
    rfl
  unfold State.chModule
  rw [h.chan, hb, hq, hmod]

/-- A host piece that is due is asked for in its first part (R66). -/
theorem OnChan.askPiece {s t : State} {ch : Nat} {x : Chan} {ps : Table Port} (h : OnChan s t ch x ps s.mem)
    (hb : x.began = (s.chan ch).began) (hq : x.queue = (s.chan ch).queue) (pc : Word64 × Nat) :
    ((t.askPiece ch pc).chan ch) = { x with xfer := { x.xfer with phase := .data } } ∧
      (t.askPiece ch pc).hasRead (fun r => r = .data ch pc.1 (s.readSize ch pc)) = true ∧ ProgramOf s (t.askPiece ch pc) ch ∧
      (s.noneWait → x.NoLedgerWait → (t.askPiece ch pc).noneWait) := by
  have hmd := h.chModule hb hq
  have hsize : t.readSize ch pc = s.readSize ch pc := by
    unfold State.readSize
    rw [hmd, h.links]
  obtain ⟨r, hr⟩ : ∃ r : HostRead, r = { req := .data ch pc.1 (t.readSize ch pc), tags := t.readReqs (t.chModule ch) (t.readSize ch pc),
                                            units := readUnits (t.readSize ch pc), guar := t.isGuar ch } := ⟨_, rfl⟩
  have hon := h.updChan fun c => { c with xfer := { c.xfer with phase := .data } }
  obtain ⟨u, hu⟩ : ∃ u, u = t.updChan ch fun c => { c with xfer := { c.xfer with phase := .data } } := ⟨_, rfl⟩
  rw [← hu] at hon
  have hask : t.askPiece ch pc = u.askRead (t.chModule ch) r := by
    rw [hr, hu]
    rfl
  have hem : Emits u (u.askRead (t.chModule ch) r) := State.askRead_emits _ _ _ (Emits.refl _)
  have hchans : (u.askRead (t.chModule ch) r).chans = u.chans := by rw [hem]
  have hchan : ∀ k, (u.askRead (t.chModule ch) r).chan k = u.chan k := fun k => by
    unfold State.chan
    rw [hchans]
  rw [hask]
  refine ⟨(hchan ch).trans hon.chan, ?_, ?_, fun hn hw => ?_⟩
  · refine State.hasRead_of_mem (u.mem_askRead _ r) ?_
    rw [hr, hsize]
    exact decide_eq_true rfl
  · obtain ⟨hwork, hother⟩ := hon.programOf
    rw [hon.mem] at hwork
    refine ⟨?_, fun k hk => (hchan k).trans (hother k hk)⟩
    unfold ProgramWork Reports at *
    rw [hem]
    rw [hwork]
  · have hnu := hon.noneWait hn hw
    have hhawk : (u.askRead (t.chModule ch) r).hawk = u.hawk := by rw [hem]
    exact ⟨by rw [hhawk]; exact hnu.1, by rw [hchans]; exact hnu.2⟩

/-! ### Outputs -/

theorem State.laid_eq (s : State) (ch : Nat) (w : BitVec 128) : s.laid ch w = s.setChan ch ((s.chan ch).laid w (ccwAddr w) (ccwAddr w)) := rfl

/-- A host piece that stands first is not brought in at once (R66, R145). -/
theorem State.takeDie_host {t : State} {ch : Nat} {x : Chan} {a : Word64} {k : Nat} (hx : t.chan ch = x) (hp : x.xfer.pieces = [(a, k)]) (hk : 0 < k)
    (ha : spaceOf a = 0) (n : Nat) : t.takeDie ch (n + 1) = .ok t := by
  have hhost : isHostPiece (a, k) = true := by
    unfold isHostPiece
    rw [ha]
    rfl
  unfold State.takeDie
  rw [hx, hp]
  dsimp only
  rw [if_neg (by omega), if_pos hhost]

/-- A piece of host data, with nothing in hand, is asked for (R66, R187). -/
theorem State.pull_host {t : State} {ch : Nat} {x : Chan} {a : Word64} {k : Nat} (hx : t.chan ch = x) (hp : x.xfer.pieces = [(a, k)]) (hk : 0 < k)
    (ha : spaceOf a = 0) (ho : x.xfer.out = []) : t.pull ch = t.askPiece ch (a, k) := by
  unfold State.pull
  rw [State.takeDie_host hx hp hk ha]
  dsimp only
  rw [hx, hp]
  dsimp only
  rw [ho, if_neg (by simp)]

/-- An output whose data lie in host memory starts with its effect opened (R144, R155, R176). -/
theorem State.beginOutput_host {s : State} {ch : Nat} {x : Chan} {a : Word64} {k : Nat} (hp : x.xfer.pieces = [(a, k)])
    (hk : 0 < k) (ha : spaceOf a = 0) (hloc : x.port ≠ portLocal) (hslot : x.xfer.slot = none) (hskip : x.xfer.skip = none)
    (hr : (s.setChan ch x).replayed ch = none) (hb : (s.setChan ch x).outBad ch x.chained = none) (ho : s.canOpen ch = none) :
    (s.setChan ch x).beginOutput s ch = (s.setChan ch x).startCcw s ch ((s.setChan ch x).outCost ch x.chained).1 fun t =>
      ((t.openEffect ch x.xfer.first x.xfer.rs).updXfer ch fun y => { y with paid := ((s.setChan ch x).outCost ch x.chained).2 }).pull ch := by
  have hx : (s.setChan ch x).chan ch = x := s.chan_setChan ch x
  have hopens : (x.xfer.slot.isNone && x.xfer.skip.isNone && x.port != portLocal) = true := by simp [hslot, hskip, hloc]
  have hcan : (s.setChan ch x).canOpen ch = none := ho
  unfold State.beginOutput
  dsimp only
  rw [hx, hopens, hskip, if_neg (by simp), if_pos rfl, hr]
  dsimp only
  rw [State.takeDie_host hx hp hk ha]
  dsimp only
  rw [if_neg hloc, hb, if_pos rfl, hcan]
  rfl

/-- An output whose data are one piece of host memory, on a channel of which nothing else of its program has changed (R145). -/
structure Chan.Asks (c x : Chan) (w : BitVec 128) : Prop where
  pieces : x.xfer.pieces = [(ccwAddr w, ccwCount w)]
  out : x.xfer.out = []
  cmd : x.xfer.cmd = ccwCmd w
  param : x.xfer.param = ccwParam w
  lastPort : x.lastPort = some (bitsOf (ccwParam w) 0 8)
  began : x.began = c.began
  queue : x.queue = c.queue
  parked : x.parked = c.parked
  why : x.why = c.why

theorem Chan.laid_asks {c : Chan} (w : BitVec 128) (h : c.inChain = false) : c.Asks (c.laid w (ccwAddr w) (ccwAddr w)) w := by
  have hx := c.laid_xfer w (ccwAddr w) (ccwAddr w) h
  exact ⟨by rw [hx], by rw [hx], by rw [hx], by rw [hx], rfl, rfl, rfl, rfl, rfl⟩

theorem Chan.Asks.opened {c x y : Chan} {w : BitVec 128} (h : c.Asks x w) (hy : Chan.Opened { x with released := false } y) (b : Bool) :
    c.Asks { y with xfer := { y.xfer with paid := b } } w := by
  unfold Chan.Opened at hy
  rw [hy]
  exact ⟨h.pieces, h.out, h.cmd, h.param, h.lastPort, h.began, h.queue, h.parked, h.why⟩

theorem ccwCount_pos (w : BitVec 128) : 0 < ccwCount w := by
  unfold ccwCount
  split <;> omega

/-- Pulling in the data of an output asks for its first part (R66, R187). -/
theorem OnChan.pull {s v : State} {ch : Nat} {z : Chan} {w : BitVec 128} {ps : Table Port} (h : OnChan s v ch z ps s.mem) (hz : (s.chan ch).Asks z w)
    (hsp : spaceOf (ccwAddr w) = 0) (hnone : s.noneWait) : (v.pull ch).noneWait ∧ ((v.pull ch).chan ch).xfer.cmd = ccwCmd w ∧
      ((v.pull ch).chan ch).xfer.param = ccwParam w ∧ ((v.pull ch).chan ch).xfer.phase = .data ∧
      ((v.pull ch).chan ch).lastPort = some (bitsOf (ccwParam w) 0 8) ∧
      (v.pull ch).hasRead (fun r => r = .data ch (ccwAddr w) (s.readSize ch (ccwAddr w, ccwCount w))) = true ∧ ProgramOf s (v.pull ch) ch := by
  obtain ⟨hchan, hread, hprog, hwait⟩ := h.askPiece hz.began hz.queue (ccwAddr w, ccwCount w)
  have hz' : z.NoLedgerWait := by
    have hc := s.chan_noLedgerWait hnone ch
    unfold Chan.NoLedgerWait at hc ⊢
    rw [hz.parked, hz.why]
    exact hc
  rw [State.pull_host h.chan hz.pieces (ccwCount_pos w) hsp hz.out, hchan]
  exact ⟨hwait hnone hz', hz.cmd, hz.param, rfl, hz.lastPort, hread, hprog⟩

/-- An output that starts has its effect opened and the first part of its data asked for (R144, R155, R176). -/
theorem State.beginOutput_pulls {s : State} {ch : Nat} {x : Chan} {w : BitVec 128} (hask : (s.chan ch).Asks x w) (hblk : bitsOf x.ccwa 4 2 ≠ 3)
    (hsp : spaceOf (ccwAddr w) = 0) (hloc : x.port ≠ portLocal) (hslot : x.xfer.slot = none) (hskip : x.xfer.skip = none)
    (hr : (s.setChan ch x).replayed ch = none) (hb : (s.setChan ch x).outBad ch x.chained = none) (ho : s.canOpen ch = none)
    (hu : (s.setChan ch x).unfitCh ch (startCost ((s.setChan ch x).outCost ch x.chained).1) = false)
    (hf : (s.setChan ch x).fitsCh ch (startCost ((s.setChan ch x).outCost ch x.chained).1) = true) :
    ∃ v z ps, (s.setChan ch x).beginOutput s ch = v.pull ch ∧ OnChan s v ch z ps s.mem ∧ (s.chan ch).Asks z w := by
  obtain ⟨t, ps, hgo, hon, -⟩ := State.startCcw_onChan hblk hu hf
  obtain ⟨y, hopen, hy⟩ := hon.openEffect x.xfer.first x.xfer.rs
  refine ⟨_, _, ps, ?_, hopen.updChan fun c => { c with xfer := { c.xfer with paid := ((s.setChan ch x).outCost ch x.chained).2 } }, hask.opened hy _⟩
  exact (State.beginOutput_host hask.pieces (ccwCount_pos w) hsp hloc hslot hskip hr hb ho).trans (hgo _)

/-- The facts about a CCW laid out that its begin turns on. -/
theorem Chan.laid_output {c : Chan} (w : BitVec 128) (a b : Word64) (h : c.inChain = false) : (c.laid w a b).port = bitsOf (ccwParam w) 0 8 ∧
    (c.laid w a b).xfer.slot = none ∧ (c.laid w a b).xfer.skip = none ∧ (c.laid w a b).chained = c.chained := by
  have hx := c.laid_xfer w a b h
  refine ⟨?_, by rw [hx], by rw [hx], rfl⟩
  unfold Chan.port
  rw [hx]

theorem runs_output {s : State} {ch p n c : Nat} {w : BitVec 128} {i : Instr}
    (hi : exec i s = .next (s.onDue ch c fun s w => s.beginData ch w).served) (hc : c ≠ 0x02 ∧ c ≠ 0x04)
    (hp : p = bitsOf (ccwParam w) 0 8) (hloc : p ≠ portLocal) (hid : ccwId w = false) (hdue : CcwDue s ch c w)
    (hj : s.portJudge p c (argNode p (ccwParam w)) = none) (hcount : s.countOk p c (argNode p (ccwParam w)) (ccwCount w) = true)
    (hsk : ccwSk w = false) (hsp : spaceOf (ccwAddr w) = 0) (hn : n = s.readSize ch (ccwAddr w, ccwCount w)) (hr : (s.laid ch w).replayed ch = none)
    (hb : (s.laid ch w).outBad ch (ccwCd w) = none) (ho : s.canOpen ch = none)
    (hu : (s.laid ch w).unfitCh ch (startCost ((s.laid ch w).outCost ch (ccwCd w)).1) = false)
    (hf : (s.laid ch w).fitsCh ch (startCost ((s.laid ch w).outCost ch (ccwCd w)).1) = true) :
    Runs i s fun t => (t.chan ch).xfer.cmd = c ∧ (t.chan ch).xfer.param = ccwParam w ∧ (t.chan ch).xfer.phase = .data ∧
      (t.chan ch).lastPort = some p ∧ t.hasRead (fun r => r = .data ch (ccwAddr w) n) = true ∧ ProgramOf s t ch := by
  obtain ⟨hnone, hw, hin, hpi, hblk, -, -⟩ := hdue
  obtain ⟨-, -, hheld, hcmd⟩ := State.dueCcw_some hw hin
  have hask := Chan.laid_asks w hin
  obtain ⟨hport, hslot, hskip, hchain⟩ := Chan.laid_output w (ccwAddr w) (ccwAddr w) hin
  have hccwa : ((s.chan ch).laid w (ccwAddr w) (ccwAddr w)).ccwa = (s.chan ch).ccwa := rfl
  have hcd : ((s.chan ch).laid w (ccwAddr w) (ccwAddr w)).chained = ccwCd w := by
    rw [hchain]
    unfold Chan.chained
    rw [hheld]
  have hnohost : (s.chan ch).lsegBad (ccwAddr w, ccwCount w) = false := by
    show (spaceOf (ccwAddr w) == 2 && _) = false
    rw [hsp]
    rfl
  have hbegin : s.beginData ch w = (s.setChan ch ((s.chan ch).laid w (ccwAddr w) (ccwAddr w))).beginOutput s ch := by
    rw [State.beginData_laid hp hloc hid hin (by rw [hcmd]; exact hj) (by rw [hcmd]; exact hcount) (a := ccwAddr w) (b := ccwAddr w) (by rw [hsk]; rfl)
      (by rw [hsk]; rfl) hnohost, hcmd, if_neg (by simp [hc])]
  rw [State.laid_eq, ← hcd] at hb hu hf
  rw [State.laid_eq] at hr
  generalize (s.chan ch).laid w (ccwAddr w) (ccwAddr w) = x at hask hport hslot hskip hccwa hb hu hf hr hbegin
  obtain ⟨v, z, ps, hout, hon, hz⟩ := State.beginOutput_pulls hask (hccwa ▸ hblk) hsp (by rw [hport, ← hp]; exact hloc) hslot hskip hr hb ho hu hf
  obtain ⟨hnw, hc1, hc2, hc3, hc4, hread, hprog⟩ := hon.pull hz hsp hnone
  have hrun : exec i s = .next (v.pull ch) := by
    have hstep : s.onDue ch c (fun s w => s.beginData ch w) = v.pull ch := by
      unfold State.onDue
      rw [hw]
      exact hbegin.trans hout
    rw [hi, hstep, State.served_of_noneWait hnw]
  exact ⟨_, hrun, hc1.trans hcmd, hc2, hc3, hp ▸ hc4, hn ▸ hread, hprog⟩

/-- Settles O25: outputs by the effect that they open and the read that they ask for, READ by the port's readers, SENSE by what it stores. -/
theorem transfersBegin : Obligations.TransfersBegin := by
  intro s ch p n w hp hloc hid
  refine ⟨fun i c hi hdue hj hcount hsk hsp hn hr hb ho hu hf => ?_, runs_read hp hloc hid, fun hdue hj hcount hsk hsp hn hle hl hr hu hf hgo hm =>
    runs_sense hp hloc hid hdue hj hcount hsk hsp hn hle hl hr hu hf hgo hm⟩
  obtain ⟨rfl, rfl⟩ | ⟨rfl, rfl⟩ | ⟨rfl, rfl⟩ := hi
  · exact runs_output rfl (by decide) hp hloc hid hdue hj hcount hsk hsp hn hr hb ho hu hf
  · exact runs_output rfl (by decide) hp hloc hid hdue hj hcount hsk hsp hn hr hb ho hu hf
  · exact runs_output rfl (by decide) hp hloc hid hdue hj hcount hsk hsp hn hr hb ho hu hf

end Sys2Proof.Machine
end

section
/-! PROOFS. The loss of a module and the end of GRACE (R83 to R85). -/

namespace Sys2Proof.Machine
open Sys2Proof

/-! ### What stands after a module has been lost or has come back -/

/-- An event of a module's LINK source (R322) gives the modules at most more to send. -/
theorem State.linkPulse_tells (s : State) (md : Nat) : Flows s (s.linkPulse md) ∧ Signals s (s.linkPulse md) :=
  ⟨State.pulse_flows (.refl s) _, s.pulse_signals _⟩

/-- NLNK_CFG.HELD in terms of the module (R86). -/
def Link.waitsForSoftware (l : Link) : Bool := l.holding && l.graceOver && (!l.queue.isEmpty || !l.held.isEmpty)

theorem State.heldSet_eq (s : State) (md : Nat) : s.heldSet md = (s.link md).waitsForSoftware := rfl

/-- A module that waits for software still does when more is given to it (R86). -/
theorem Link.Sends.waitsForSoftware {l k : Link} (h : l.Sends k) (hw : l.waitsForSoftware = true) : k.waitsForSoftware = true := by
  simp only [Link.waitsForSoftware, Bool.and_eq_true, Bool.or_eq_true, Bool.not_eq_true', List.isEmpty_eq_false_iff] at hw ⊢
  obtain ⟨⟨hh, hg⟩, hfull⟩ := hw
  have hgrace : k.graceOver = l.graceOver := by rw [h.frame]
  exact ⟨⟨h.holding.trans hh, hgrace.trans hg⟩, hfull.imp h.queueFull h.heldFull⟩

/-- A module as it is lost (R83). -/
def Link.gone (l : Link) : Link := { l with lost := true, down := satInc l.down, llAtLoss := l.cfg.llAction }

/-- The state once a module's loss is recorded, before its traffic moves or is held (R83). -/
def State.gone (s : State) (md : Nat) : State := (s.setLink md (s.link md).gone).linkPulse md

theorem State.gone_link (s : State) (md : Nat) : (s.link md).gone.Sends ((s.gone md).link md) := by
  have h := (State.linkPulse_tells (s.setLink md (s.link md).gone) md).1.links md
  rwa [State.link_setLink] at h

theorem State.gone_signals (s : State) (md : Nat) : Signals s (s.gone md) :=
  (s.setLink_signals md _).trans (State.linkPulse_tells _ md).2

theorem Signals.carry {s t : State} (h : Signals s t) : t.carry = s.carry := by rw [h]

theorem Signals.queues {s t : State} (h : Signals s t) : t.queues = s.queues := by rw [h]

theorem Signals.jseq {s t : State} (h : Signals s t) : t.jseq = s.jseq := by rw [h]

theorem Signals.die {s t : State} (h : Signals s t) : t.die = s.die := by rw [h]

section Loss

variable {s : State} {md : Nat}

theorem exec_moduleLoss (hl : (s.link md).lstate = 3) (hlost : (s.link md).lost = false) : exec (.moduleLoss md) s = .next (s.loseModule md) :=
  congrArg Host.Outcome.next (if_pos (by rw [hl, hlost]; rfl))

/-- The module's traffic is held, and with a GRACE of 0 the end of GRACE is at once (R85). -/
theorem State.loseModule_holds (h : s.mode ≠ 2 ∨ (b2n s.carry = md ∧ ((s.link (otherMd md)).up = false ∨ (s.link (otherMd md)).lost = true ∨
      2 ≤ (s.link (otherMd md)).lstate.toNat))) :
    s.loseModule md = if (s.link md).cfg.grace = 0 then ((s.gone md).updLink md Link.hold).graceAct md else (s.gone md).updLink md Link.hold := by
  show (if s.mode = 2 then _ else _) = _
  rcases h with hm | ⟨hc, ho⟩
  · exact if_neg hm
  · by_cases hm : s.mode = 2
    · rw [if_pos hm, if_neg (not_not.mpr hc)]
      refine if_neg ?_
      rcases ho with ho | ho | ho
      · simp [ho]
      · simp [ho]
      · rintro hand
        simp only [Bool.and_eq_true, Bool.or_eq_true, decide_eq_true_eq] at hand
        obtain ⟨-, h0 | h1⟩ := hand
        · rw [h0] at ho
          exact absurd ho (by decide)
        · rw [h1] at ho
          exact absurd ho (by decide)
    · exact if_neg hm

theorem State.gone_hold (s : State) (md : Nat) : ((s.gone md).updLink md Link.hold).link md = ((s.gone md).link md).hold := State.link_setLink _ _ _

/-- GRACE ends with no halt: the held writes wait for software (R85). -/
theorem State.graceAct_waits (hlost : (s.link md).lost = true) (hh : (s.link md).holding = true) (hg : (s.link md).graceOver = false)
    (h2 : (s.link md).llAtLoss ≠ 2) (h0 : (s.link md).llAtLoss ≠ 0 ∨ s.ds.present = false ∨ s.dsUp = false ∨ s.paired = false) :
    s.graceAct md = s.heldPulse (s.setLink md { s.link md with graceOver := true }) := by
  refine (if_neg (by simp [hlost, hh, hg])).trans (if_neg ?_)
  have h2' : ¬ (s.link md).llAtLoss = 2#2 := h2
  rcases h0 with h0 | h0 | h0 | h0
  · have h0' : ¬ (s.link md).llAtLoss = 0#2 := h0
    simp [h2', h0']
  · simp [h2', h0]
  · simp [h2', h0]
  · simp [h2', h0]

theorem State.graceAct_waits_leaves (hlost : (s.link md).lost = true) (hh : (s.link md).holding = true) (hg : (s.link md).graceOver = false)
    (h2 : (s.link md).llAtLoss ≠ 2) (h0 : (s.link md).llAtLoss ≠ 0 ∨ s.ds.present = false ∨ s.dsUp = false ∨ s.paired = false) :
    ({ s.link md with graceOver := true } : Link).Sends ((s.graceAct md).link md) ∧ Signals s (s.graceAct md) := by
  rw [State.graceAct_waits hlost hh hg h2 h0]
  have hf := (State.heldPulse_flows (.refl (s.setLink md { s.link md with graceOver := true })) s).links md
  rw [State.link_setLink] at hf
  exact ⟨hf, State.heldPulse_signals s (s.setLink_signals md _)⟩

theorem runs_moduleLoss_graces (hl : (s.link md).lstate = 3) (hlost : (s.link md).lost = false)
    (h : s.mode ≠ 2 ∨ (b2n s.carry = md ∧ ((s.link (otherMd md)).up = false ∨ (s.link (otherMd md)).lost = true ∨
      2 ≤ (s.link (otherMd md)).lstate.toNat))) (hg : (s.link md).cfg.grace ≠ 0) :
    Runs (.moduleLoss md) s fun t => (t.link md).lost = true ∧ (t.link md).down = satInc (s.link md).down ∧ (t.link md).holding = true ∧
      (t.link md).llAtLoss = (s.link md).cfg.llAction ∧ (t.link md).unacked = [] ∧ t.queues = s.queues ∧ Reports s t := by
  refine ⟨_, (exec_moduleLoss hl hlost).trans (congrArg _ ((State.loseModule_holds h).trans (if_neg hg))), ?_⟩
  have hk := s.gone_link md
  have ht := s.gone_hold md
  have hsig : Signals s ((s.gone md).updLink md Link.hold) := (s.gone_signals md).trans (State.setLink_signals _ _ _)
  beta_reduce
  rw [ht]
  refine ⟨?_, ?_, rfl, ?_, rfl, hsig.queues, hsig.reports⟩
  · show ((s.gone md).link md).lost = true
    rw [hk.frame]; rfl
  · show ((s.gone md).link md).down = _
    rw [hk.frame]; rfl
  · show ((s.gone md).link md).llAtLoss = _
    rw [hk.frame]; rfl

theorem runs_moduleLoss_waits (hl : (s.link md).lstate = 3) (hlost : (s.link md).lost = false)
    (h : s.mode ≠ 2 ∨ (b2n s.carry = md ∧ ((s.link (otherMd md)).up = false ∨ (s.link (otherMd md)).lost = true ∨
      2 ≤ (s.link (otherMd md)).lstate.toNat))) (hg : (s.link md).cfg.grace = 0) (ha : (s.link md).cfg.llAction = 1)
    (ho : (s.link md).graceOver = false) :
    Runs (.moduleLoss md) s fun t => (t.link md).lost = true ∧ (t.link md).holding = true ∧ (t.link md).graceOver = true ∧
      t.queues = s.queues ∧ Reports s t := by
  refine ⟨_, (exec_moduleLoss hl hlost).trans (congrArg _ ((State.loseModule_holds h).trans (if_pos hg))), ?_⟩
  have hk := s.gone_link md
  have ht := s.gone_hold md
  have hsig : Signals s ((s.gone md).updLink md Link.hold) := (s.gone_signals md).trans (State.setLink_signals _ _ _)
  generalize (s.gone md).updLink md Link.hold = u at ht hsig ⊢
  have hlost' : (u.link md).lost = true := by rw [ht]; show ((s.gone md).link md).lost = true; rw [hk.frame]; rfl
  have hgo : (u.link md).graceOver = false := by rw [ht]; show ((s.gone md).link md).graceOver = false; rw [hk.frame]; exact ho
  have hll : (u.link md).llAtLoss = 1 := by rw [ht]; show ((s.gone md).link md).llAtLoss = 1; rw [hk.frame]; exact ha
  have hhold : (u.link md).holding = true := by rw [ht]; rfl
  obtain ⟨hs, hg⟩ := State.graceAct_waits_leaves hlost' hhold hgo (by rw [hll]; decide) (.inl (by rw [hll]; decide))
  have hfin := hsig.trans hg
  refine ⟨?_, hs.holding.trans hhold, ?_, hfin.queues, hfin.reports⟩
  · rw [hs.frame]; exact hlost'
  · rw [hs.frame]

theorem runs_moduleLoss_standby (hl : (s.link md).lstate = 3) (hlost : (s.link md).lost = false) (hm : s.mode = 2) (hc : b2n s.carry ≠ md) :
    Runs (.moduleLoss md) s fun t => (t.link md).lost = true ∧ (t.link md).down = satInc (s.link md).down ∧ t.carry = s.carry ∧
      (t.link md).holding = (s.link md).holding ∧ t.queues = s.queues ∧ Reports s t := by
  refine ⟨s.gone md, (exec_moduleLoss hl hlost).trans (congrArg _ ((if_pos hm).trans (if_pos hc))), ?_⟩
  have hk := s.gone_link md
  have hsig := s.gone_signals md
  refine ⟨?_, ?_, hsig.carry, hk.holding, hsig.queues, hsig.reports⟩
  · rw [hk.frame]; rfl
  · rw [hk.frame]; rfl

/-! ### Traffic that moves to the other module (R84) -/

theorem Link.mem_replay (es : List Egress) (l : Link) : (∀ w ∈ l.queue, w ∈ (l.replay es).queue) ∧
    ∀ w ∈ es, ∃ x ∈ (l.replay es).queue, x.kind = w.kind ∧ x.addr = w.addr ∧ x.bytes = w.bytes := by
  induction es generalizing l with
  | nil => exact ⟨fun _ h => h, fun _ h => (List.not_mem_nil h).elim⟩
  | cons e r ih =>
    obtain ⟨hold, hnew⟩ := ih { l with eqs := l.eqs + 1, queue := l.queue ++ [{ e with eqs := l.eqs + 1 }] }
    refine ⟨fun w hw => hold w (List.mem_append_left _ hw), fun w hw => ?_⟩
    rcases List.mem_cons.mp hw with rfl | hr
    · exact ⟨_, hold _ (List.mem_append_right _ (List.mem_singleton.mpr rfl)), rfl, rfl, rfl⟩
    · exact hnew w hr

/-- Of the batches' move only the batches change (R75). -/
theorem State.moveBatches_eq (s : State) (md o : Nat) : s.moveBatches md o = { s with batches := (s.moveBatches md o).batches } :=
  State.each_induction (P := fun t => t = { s with batches := t.batches }) _ rfl fun t b ht => by rw [ht]

/-- What a failover leaves: this module holds nothing, and the other has all that it had to send (R84). -/
theorem State.failover_leaves (s : State) (md : Nat) :
    (s.failover md).link md = { s.link md with unacked := [], queue := [], reads := [], waiting := [] } ∧
    (∀ w ∈ (s.link md).unacked ++ (s.link md).queue, w.kind.Stays →
      ∃ x ∈ ((s.failover md).link (otherMd md)).queue, x.kind = w.kind ∧ x.addr = w.addr ∧ x.bytes = w.bytes) ∧
    (s.failover md).carry = decide (md = 0) ∧ Reports { s with carry := (s.failover md).carry } (s.failover md) := by
  have hne : ¬ (md = 0 ↔ otherMd md = 0) := fun h => otherMd_ne md h.symm
  unfold State.failover
  extract_lets l o s1 s2
  have h1 : s1.link md = { l with unacked := [], queue := [], reads := [], waiting := [] } := State.link_setLink _ _ _
  have hr2 : Reports s s2 := State.setLink_reports _ _ _ (State.setLink_reports _ _ _ (Reports.refl s))
  have hlink : ∀ i, ({ s2 with carry := decide (o = 1) }.moveBatches md o).link i = s2.link i := fun i => by
    rw [State.moveBatches_eq]; rfl
  have hcarry : ({ s2 with carry := decide (o = 1) }.moveBatches md o).carry = decide (o = 1) := by
    rw [State.moveBatches_eq]
  have h3 : Reports { s with carry := decide (o = 1) } ({ s2 with carry := decide (o = 1) }.moveBatches md o) := by
    refine State.moveBatches_reports _ md o ?_
    unfold Reports at hr2 ⊢
    rw [hr2]
  have hs2 : s2.link md = s1.link md := State.link_setLink_other _ _ hne
  obtain ⟨-, hall⟩ := Link.mem_replay (l.unacked ++ l.queue) (s1.link o)
  have hq : (s2.link o).queue = ((s1.link o).replay (l.unacked ++ l.queue)).queue := by
    rw [show s2.link o = _ from State.link_setLink _ _ _]
  generalize { s2 with carry := decide (o = 1) }.moveBatches md o = s3 at hlink hcarry h3
  have hf : Flows s3 ((s3.wantLink o).pump o) := State.pump_flows (State.wantLink_flows (.refl s3) o) o
  obtain ⟨wt, rd, hp⟩ := (s3.wantLink o).pump_eq o
  have hc : ((s3.wantLink o).pump o).carry = decide (o = 1) := hf.carry.trans hcarry
  refine ⟨?_, fun w hw hst => ?_, ?_, ?_⟩
  · rw [hp, State.link_setLink_other _ _ hne, State.wantLink_other _ hne, hlink, hs2, h1]
  · obtain ⟨x, hx, hkind, hab⟩ := hall w hw
    refine ⟨x, (hf.links o).queue x ?_ (fun q => hkind ▸ hst q), hkind, hab⟩
    rw [hlink, hq]
    exact hx
  · rw [hc]
    refine decide_eq_decide.mpr ?_
    show otherMd md = 1 ↔ md = 0
    unfold otherMd
    split <;> omega
  · rw [hc]
    exact State.pump_reports _ _ (State.wantLink_reports _ _ h3)

theorem runs_moduleLoss_failover (hl : (s.link md).lstate = 3) (hlost : (s.link md).lost = false) (hm : s.mode = 2) (hc : b2n s.carry = md)
    (hup : (s.link (otherMd md)).up = true) (hol : (s.link (otherMd md)).lost = false) (hol3 : (s.link (otherMd md)).lstate.toNat < 2) :
    Runs (.moduleLoss md) s fun t => t.carry = decide (md = 0) ∧ (t.link md).lost = true ∧ (t.link md).queue = [] ∧ (t.link md).unacked = [] ∧
      (t.link md).reads = [] ∧ (∀ w ∈ (s.link md).unacked ++ (s.link md).queue, (∀ q, w.kind ≠ .head q) →
        ∃ x ∈ (t.link (otherMd md)).queue, x.kind = w.kind ∧ x.addr = w.addr ∧ x.bytes = w.bytes) ∧ Reports { s with carry := t.carry } t := by
  have hst : (s.link (otherMd md)).lstate = 0 ∨ (s.link (otherMd md)).lstate = 1 := by bv_omega
  refine ⟨(s.gone md).failover md, (exec_moduleLoss hl hlost).trans (congrArg _ ((if_pos hm).trans ((if_neg (not_not.mpr hc)).trans
    (if_pos (by simpa [hup, hol] using hst))))), ?_⟩
  have hk := s.gone_link md
  have hsig := s.gone_signals md
  obtain ⟨hlink, hall, hcarry, hrep⟩ := (s.gone md).failover_leaves md
  have hun : ((s.gone md).link md).unacked = (s.link md).unacked := by rw [hk.frame]; rfl
  refine ⟨hcarry, ?_, ?_, ?_, ?_, fun w hw hst => hall w ?_ hst, ?_⟩
  · rw [hlink]
    show ((s.gone md).link md).lost = true
    rw [hk.frame]; rfl
  · rw [hlink]
  · rw [hlink]
  · rw [hlink]
  · rw [hun]
    exact (List.mem_append.mp hw).elim (List.mem_append_left _) fun h => List.mem_append_right _ (hk.queue w h hst)
  · have hr := hsig.reports
    generalize (s.gone md).failover md = t at hrep
    generalize s.gone md = u at hr hrep
    unfold Reports at hr hrep ⊢
    rw [hr] at hrep
    exact hrep

/-! ### The end of GRACE (R85) -/

theorem runs_linkGraceExpiry_halts (hlost : (s.link md).lost = true) (hh : (s.link md).holding = true) (hg : (s.link md).graceOver = false)
    (hll : (s.link md).llAtLoss = 2 ∨ ((s.link md).llAtLoss = 0 ∧ s.ds.present = true ∧ s.dsUp = true ∧ s.paired = true)) :
    Runs (.linkGraceExpiry md) s fun t => t.die = .halted ∧ t.queues = s.queues ∧ t.chans = s.chans := by
  refine ⟨s.haltDie, congrArg _ ((if_neg (by simp [hlost, hh, hg])).trans (if_pos ?_)), ?_⟩
  · rcases hll with h2 | ⟨h0, hp, hu, hpair⟩
    · simp [h2]
    · simp [h0, hp, hu, hpair]
  · by_cases hd : s.die = .halted
    · rw [show s.haltDie = s from if_pos hd]
      exact ⟨hd, rfl, rfl⟩
    · have h := State.haltDie_leaves hd
      exact ⟨h.die, by rw [h.frame], by rw [h.frame]⟩

theorem runs_linkGraceExpiry_waits (hlost : (s.link md).lost = true) (hh : (s.link md).holding = true) (hg : (s.link md).graceOver = false)
    (h2 : (s.link md).llAtLoss ≠ 2) (h0 : (s.link md).llAtLoss ≠ 0 ∨ s.ds.present = false ∨ s.dsUp = false ∨ s.paired = false) :
    Runs (.linkGraceExpiry md) s fun t => (t.link md).graceOver = true ∧ (t.link md).holding = true ∧ t.die = s.die ∧ t.queues = s.queues ∧
      Reports s t := by
  obtain ⟨hs, hsig⟩ := State.graceAct_waits_leaves hlost hh hg h2 h0
  exact ⟨_, rfl, by rw [hs.frame], hs.holding.trans hh, hsig.die, hsig.queues, hsig.reports⟩

end Loss

end Sys2Proof.Machine
end

section
/-! PROOFS. Cells, budgets, ledgers and the ends of programs only add to what the modules hold (R120, R135, R174, R218, R300). -/

namespace Sys2Proof.Machine
open Sys2Proof

section Cells

variable {r s : State} (h : Flows r s)

include h

theorem State.levelEval_flows (n : Nat) : Flows r (s.levelEval n) := by
  unfold State.levelEval
  extract_lets x on
  refine .ite h (.ite (.ite h ?_) (.ite ?_ h))
  · exact State.present_flows (h.same (by rfl)) n
  · exact State.route_flows (h.same (by rfl)) n

theorem State.setLine_flows (n : Nat) (level : Bool) : Flows r (s.setLine n level) := by
  unfold State.setLine
  extract_lets x s1 hit
  have h1 : Flows r s1 := h.same (by rfl)
  exact .ite h (.ite (State.levelEval_flows h1 n) (.ite (State.heldPulse_flows (State.edge_flows h1 n) s1) h1))

theorem State.touchCell_flows (k : Nat) : Flows r (s.touchCell k) := State.wakeDomain_flows h _ _

theorem State.charge_flows (c t : Nat) (k : Cost) : Flows r (s.charge c t k) := by
  unfold State.charge
  extract_lets x sp s1
  have h1 : Flows r s1 := h.same (by rfl)
  clear_value s1
  split
  · exact h1
  · exact h1.same (by rfl)

theorem State.chargeCh_flows (ch : Nat) (k : Cost) : Flows r (s.chargeCh ch k) := State.charge_flows h _ _ k

theorem State.beat_flows (c t n : Nat) : Flows r (s.beat c t n) := State.charge_flows h c t _

theorem State.countPark_flows (c : Nat) (overrun : Bool) : Flows r (s.countPark c overrun) := by
  unfold State.countPark
  extract_lets s1
  have h1 : Flows r s1 := h.same (by rfl)
  exact .ite (State.pulse_flows h1 _) h1

theorem State.grant_flows {home acct k : Nat} {c : CellSt} {t : State} (e : s.grant home acct c = some (k, t)) : Flows r t := by
  unfold State.grant at e
  split at e
  · split at e
    · cases e
    · obtain ⟨-, rfl⟩ := Prod.mk.inj (Option.some.inj e)
      exact h.same (by rfl)
  · cases e

theorem State.grantProducer_flows {p home acct k : Nat} {c : CellSt} {t : State} (e : s.grantProducer p home acct c = some (k, t)) : Flows r t := by
  unfold State.grantProducer at e
  split at e
  · split at e
    · obtain ⟨-, rfl⟩ := Prod.mk.inj (Option.some.inj e)
      exact h.same (by rfl)
    · exact State.grant_flows h e
  · cases e

theorem State.grantMany_flows {p home acct : Nat} {c : CellSt} {n : Nat} {l : List Nat} {t : State}
    (e : s.grantMany p home acct c n = some (l, t)) : Flows r t := by
  induction n generalizing s l with
  | zero =>
    obtain ⟨-, rfl⟩ := Prod.mk.inj (Option.some.inj e)
    exact h
  | succ n ih =>
    unfold State.grantMany at e
    split at e
    · cases e
    · rename_i hp
      split at e
      · cases e
      · rename_i hm
        obtain ⟨-, rfl⟩ := Prod.mk.inj (Option.some.inj e)
        exact ih (State.grantProducer_flows h hp) hm

theorem State.hawkStore_flows (a : Nat) (l : List Byte) : Flows r (s.hawkStore a l) := .ite (h.same (by rfl)) h

theorem State.freeOne_flows (k : Nat) : Flows r (s.freeOne k) := .ite h (h.same (by rfl))

theorem State.withdraw_flows (k : Nat) : Flows r (s.withdraw k) := h.same (by rfl)

theorem State.freeCells_flows (cells : List Nat) : Flows r (s.freeCells cells) :=
  .each _ (fun _ k ht => State.withdraw_flows ht k) (.each _ (fun _ k ht => State.freeOne_flows ht k) h)

theorem State.freeHeldCells_flows (l : List Egress) : Flows r (s.freeHeldCells l) := .each _ (fun _ k ht => State.freeOne_flows ht k) h

theorem State.freeChain_flows (owner : CellSt) (head : Nat) : Flows r (s.freeChain owner head) := by
  unfold State.freeChain
  extract_lets x s1
  have h1 : Flows r s1 := .each _ (fun _ k ht => .ite (State.freeOne_flows ht k) ht) h
  clear_value s1
  split
  · exact h1
  · exact .each _ (fun _ k ht => State.withdraw_flows ht k) h1

theorem State.freeChChain_flows (ch : Nat) : Flows r (s.freeChChain ch) := by
  unfold State.freeChChain
  split
  · exact h
  · exact (State.freeChain_flows h _ _).same (by rfl)

theorem State.fillCells_flows (cells : List Nat) (l : List Byte) : Flows r (s.fillCells cells l) := by
  induction cells generalizing s l with
  | nil => exact h
  | cons k rest ih =>
    cases rest with
    | nil => exact h.same (by rfl)
    | cons k2 rest => exact ih (h.same (by rfl)) _

theorem State.chainAppend_flows {ch acct : Nat} {l : List Byte} {t : State} (e : s.chainAppend ch acct l = some t) : Flows r t := by
  unfold State.chainAppend at e
  split at e
  · exact Option.some.inj e ▸ h
  · dsimp only at e
    split at e
    · split at e
      · cases e
      · rename_i hm
        obtain rfl := Option.some.inj e
        exact (State.fillCells_flows (State.grantMany_flows h hm) _ _).same (by rfl)
    · split at e
      · cases e
      · split at e
        · obtain rfl := Option.some.inj e
          exact h.same (by rfl)
        · split at e
          · cases e
          · rename_i hm
            obtain rfl := Option.some.inj e
            exact State.fillCells_flows ((State.grantMany_flows (h.same (by rfl)) hm).same (by rfl)) _ _

theorem State.waitGrant_flows (ch acct : Nat) : Flows r (s.waitGrant ch acct) := .ite h (h.same (by rfl))

theorem State.notePeak_flows (t : Nat) : Flows r (s.notePeak t) := h.same (by rfl)

theorem State.wakeData_flows (l : List Nat) : Flows r (s.wakeData l) := .each l (fun _ _ ht => State.wakeDomain_flows ht _ _) h

end Cells

section Ledgers

variable {r s : State} (h : Flows r s)

include h

theorem State.doneEffect_flows (ch residual : Nat) : Flows r (s.doneEffect ch residual) := by
  unfold State.doneEffect
  extract_lets x s1
  have h1 : Flows r s1 := by
    dsimp only [s1]
    split
    · exact h
    · split
      · exact h
      · exact State.mirror_flows (.ite (h.same (by rfl)) (h.same (by rfl))) _ _ _
  clear_value s1
  split
  · exact h1
  · split
    · exact h1
    · exact h1.same (by rfl)

theorem State.markReported_flows (i : Nat) (e : LEntry) : Flows r (s.markReported i e) := State.mirror_flows (h.same (by rfl)) _ _ _

theorem State.reportOne_flows (ch : Nat) (slot mslot : Option Nat) : Flows r (s.reportOne ch slot mslot) := by
  unfold State.reportOne
  extract_lets s1
  have h1 : Flows r s1 := by
    dsimp only [s1]
    split
    · exact h
    · split
      · exact h
      · exact State.markReported_flows h _ _
  clear_value s1
  split
  · exact h1
  · exact h1.same (by rfl)

theorem State.mirrorCh_flows (ch : Nat) : Flows r (s.mirrorCh ch) := State.mirror_flows h _ _ _

theorem State.goChan_flows (ch : Nat) (f : Chan → Chan) : Flows r (s.goChan ch f) := State.mirrorCh_flows (h.same (by rfl)) ch

theorem State.reportBelow_flows (ch : Nat) (gen floor : BitVec 16) (mslots : List Nat) : Flows r (s.reportBelow ch gen floor mslots) := by
  unfold State.reportBelow
  extract_lets below s1 s2
  have h1 : Flows r s1 := .each _ (fun _ e ht => State.markReported_flows ht _ _) h
  have h2 : Flows r s2 := h1.same (by rfl)
  exact .ite (State.goChan_flows h2 _ _) h2

theorem State.reportAll_flows (ch : Nat) : Flows r (s.reportAll ch) := (State.reportBelow_flows h ch _ _ _).same (by rfl)

theorem State.giveSlot_flows (ch : Nat) : Flows r (s.giveSlot ch) := by
  unfold State.giveSlot
  dsimp only
  split
  · split
    · exact h.same (by rfl)
    · exact h
  · exact h

theorem State.markSlot_flows (ch : Nat) (m : MSlot) : Flows r (s.markSlot ch m) := by
  unfold State.markSlot
  refine .ite h ?_
  split
  · exact h
  · exact h.same (by rfl)

theorem State.openEffect_flows (ch : Nat) (ccw : Word64) (rs : Bool) : Flows r (s.openEffect ch ccw rs) := by
  unfold State.openEffect
  extract_lets c old
  split
  split
  · exact h
  · extract_lets e s0 s1 s2
    have h0 : Flows r s0 := State.goChan_flows (State.notePeak_flows (h.same (by rfl)) _) _ _
    clear_value s0
    have h1 : Flows r s1 := State.mirror_flows h0 _ _ _
    clear_value s1
    have h2 : Flows r s2 := h1.same (by rfl)
    exact State.markSlot_flows h2 _ _

theorem State.beginSkip_flows (ch : Nat) (x : Option Nat × BitVec 8 × Nat) : Flows r (s.beginSkip ch x) := by
  have h1 : Flows r (if x.1.isNone then s.takeWord.2 else s) := .ite (h.same (by rfl)) h
  exact h1.same (by rfl)

theorem State.newAnchor_flows (ch : Nat) : Flows r (s.newAnchor ch) := by
  have h1 := State.goChan_flows h ch fun c => { c with anchor := c.ccwa, gen := c.gen + 1, nextOrd := 0, rfloor := 0, replayTo := 0 }
  exact .ite h1 (h1.same (by rfl))

end Ledgers

section Ends

variable {r s : State} (h : Flows r s)

include h

theorem State.clearChan_flows (ch : Nat) : Flows r (s.clearChan ch) := (State.freeChChain_flows h ch).same (by rfl)

theorem State.haltAtRest_flows (q ch : Nat) (e : Entry) : Flows r (s.haltAtRest q ch e) := by
  unfold State.haltAtRest
  split
  · exact State.finish0_flows (State.goChan_flows (State.freeChChain_flows h ch) _ _) q _ _
  · exact State.finish0_flows h q _ _
  · exact State.finish0_flows h q _ _

theorem State.clearAtRest_flows (q ch : Nat) (e : Entry) : Flows r (s.clearAtRest q ch e) :=
  State.finish0_flows (State.mirrorCh_flows (State.clearChan_flows h ch) ch) q _ _

theorem State.runWaiting_flows (ch : Nat) : Flows r (s.runWaiting ch) := by
  refine Flows.each _ (fun t w ht => ?_) (h.same (by rfl))
  split
  · exact ht
  · exact .ite (State.haltAtRest_flows ht _ ch _) (State.clearAtRest_flows ht _ ch _)

theorem State.finalStands_flows (q : Nat) (cnt : Word32) (ch : Nat) (code : BitVec 16) : Flows r (s.finalStands q cnt ch code) := by
  have h2 := State.goChan_flows (State.reportAll_flows h ch) ch fun c => { c with st := endState code, ending := none }
  exact State.runWaiting_flows (State.advance0_flows (State.markDone_flows (.ite h2 (State.freeChChain_flows h2 ch)) q cnt) q) ch

theorem State.enterFinal_flows (q : Nat) (cnt : Word32) (ch : Nat) (code : BitVec 16) (ccw : Word64) (b : List Byte) :
    Flows r (s.enterFinal q cnt ch code ccw b) := by
  have h1 := State.send_flows h (s.qModule q) (.final q cnt ch code ccw) ((s.q q).statAddr cnt) (stampFrame b s.frameLo) false
  exact .ite h1 (State.finalStands_flows h1 q cnt ch code)

theorem State.dropBlocks_flows (ch : Nat) : Flows r (s.dropBlocks ch) :=
  ((Flows.links01 (a := s.link0.staleReads ch) (b := s.link1.staleReads ch) h (.same (by rfl) (by exact id)) (.same (by rfl) (by exact id))).same (by rfl))

theorem State.endProgram_flows (ch : Nat) (code : BitVec 16) (residual detail : Nat) : Flows r (s.endProgram ch code residual detail) := by
  unfold State.endProgram
  extract_lets c s1
  have h1 : Flows r s1 :=
    State.goChan_flows (State.beat_flows (State.dropBlocks_flows (s := (s.leavePorts ch).unwaitGrant ch) (h.same (by rfl)) ch) _ _ _) _ _
  clear_value s1
  split
  exact State.putRec_flows h1 _ _ fun t ht => State.settled_flows (State.enterFinal_flows ht _ _ _ _ _ _)

theorem State.failAt_flows (ch : Nat) (code : BitVec 16) (detail : Nat) : Flows r (s.failAt ch code detail) := by
  unfold State.failAt
  dsimp only
  split
  · exact State.endProgram_flows (h.same (by rfl)) _ _ _ _
  · exact State.endProgram_flows (h.same (by rfl)) _ _ _ _

theorem State.fail_flows (ch : Nat) (code : BitVec 16) : Flows r (s.fail ch code) := State.endProgram_flows h ch code _ _

theorem State.failNow_flows (ch : Nat) (code : BitVec 16) (detail : Nat) : Flows r (s.failNow ch code detail) := State.endProgram_flows h ch code _ _

theorem State.interimReports_flows (ch : Nat) (what : Reported) : Flows r (s.interimReports ch what) := by
  cases what with
  | one slot mslot => exact State.reportOne_flows h ch slot mslot
  | below gen floor mslots => exact State.reportBelow_flows h ch gen floor mslots

theorem State.enterInterim_flows (md ch : Nat) (what : Reported) (addr : Word64) (b : List Byte) : Flows r (s.enterInterim md ch what addr b) := by
  have h1 := State.send_flows h md (.interim ch what) addr (stampFrame b s.frameLo) false
  exact .ite h1 (State.interimReports_flows h1 ch what)

theorem State.interim_flows (ch : Nat) (post : Bool) (ccw : Word64) (residual detail : Nat) : Flows r (s.interim ch post ccw residual detail) := by
  unfold State.interim
  extract_lets c addr what s1
  have h1 : Flows r s1 := State.goChan_flows (State.beat_flows h _ _ _) _ _
  clear_value s1
  refine .ite h ?_
  split
  exact State.putRec_flows h1 _ _ fun t ht => State.enterInterim_flows ht _ _ _ _ _

theorem State.enterReply_flows (cnt : Word32) (b : List Byte) : Flows r (s.enterReply cnt b) := by
  unfold State.enterReply
  extract_lets a md full s1
  have h1 : Flows r s1 := State.send_flows h _ _ _ _ _
  exact .ite h1 (State.pulse_flows (h1.same (by rfl)) _)

theorem State.passGate_flows (g : Gated) : Flows r (s.passGate g) := by
  unfold State.passGate
  split
  · exact State.enterFinal_flows h _ _ _ _ _ _
  · exact State.enterEntry_flows h _ _ _
  · exact State.enterInterim_flows h _ _ _ _ _
  · exact State.enterHead_flows h _ _ _
  · exact State.enterReply_flows h _ _
  · exact State.send_flows h _ _ _ _ _

theorem State.park_flows (ch : Nat) (why : ParkWhy) (overrun : Bool) : Flows r (s.park ch why overrun) := by
  unfold State.park
  extract_lets c s1 s2
  have h1 : Flows r s1 := State.countPark_flows h _ _
  have h2 : Flows r s2 := State.goChan_flows h1 _ _
  exact .ite (State.failAt_flows h _ _ _) (.ite (State.failAt_flows h1 _ _ _) (h2.same (by rfl)))

theorem State.unpark_flows (ch : Nat) : Flows r (s.unpark ch) := State.goChan_flows h _ _

theorem State.writeHost_flows (md : Nat) (kind : EgKind) (addr : Nat) (l : List Byte) (relaxed : Bool) (n : Nat) :
    Flows r (s.writeHost md kind addr l relaxed n) := by
  induction n generalizing s addr l with
  | zero => exact h
  | succ n ih => exact .ite h (ih (State.send_flows h md kind _ _ relaxed) _ _)

end Ends

end Sys2Proof.Machine
end

section
/-! PROOFS. Messages, commands, CCWs and outputs only add to what the modules hold (R66, R145 to R157, R305, R323, R371, R477). -/

namespace Sys2Proof.Machine
open Sys2Proof

section Messages

variable {r s : State} (h : Flows r s)

include h

theorem State.passWait_flows (core k : Nat) : Flows r (s.passWait core k) := by
  unfold State.passWait
  extract_lets n
  split
  · exact h.same (by rfl)
  · exact h.same (by rfl)
  · exact h

theorem State.wfeWake_flows (core k : Nat) : Flows r (s.wfeWake core k) := .ite ((State.passWait_flows h core k).same (by rfl)) h

theorem State.setLatch_flows (core k : Nat) : Flows r (s.setLatch core k) := .ite (State.wfeWake_flows (h.same (by rfl)) core k) h

theorem State.mbxLine_flows (mb : Nat) : Flows r (s.mbxLine mb) := State.setLine_flows h _ _

theorem State.mbxFire_flows (mb : Nat) : Flows r (s.mbxFire mb) := .ite (State.setLatch_flows (h.same (by rfl)) _ _) h

theorem State.mbxAccept_flows (mb cell : Nat) (m : MsgHdr) : Flows r (s.mbxAccept mb cell m) := by
  unfold State.mbxAccept
  extract_lets x s1 s2
  have h1 : Flows r s1 := (State.touchCell_flows h cell).same (by rfl)
  clear_value s1
  have h2 : Flows r s2 := by
    dsimp only [s2]
    split
    · exact h1
    · exact h1.same (by rfl)
  clear_value s2
  exact State.mbxLine_flows (State.mbxFire_flows (h2.same (by rfl)) mb) mb

theorem State.kmdFlush_flows (p : Nat) : Flows r (s.kmdFlush p) := by
  refine Flows.each _ (fun t l ht => ?_) h
  split
  · exact ht
  · exact .ite (ht.same (by rfl)) ht

theorem State.kmdSend_flows (f : KmdFrame) : Flows r (s.kmdSend f) := by
  unfold State.kmdSend
  split
  · exact State.kmdFlush_flows (h.same (by rfl)) _
  · exact h

theorem State.replyAdm_flows (c : AdmCmd) (code : BitVec 16) (arg : Nat) (res : List Nat) (chg : Option (List ConfigRec)) :
    Flows r (s.replyAdm c code arg res chg) := by
  unfold State.replyAdm
  extract_lets b s1
  have h1 : Flows r s1 := h.same (by rfl)
  clear_value s1
  exact .ite (State.gateRec_flows (State.mirror_flows h1 _ _ _) _ _ _) (State.enterReply_flows h1 _ _)

theorem State.askPacket_flows : Flows r s.askPacket :=
  .ite (State.askRead_flows (State.wakeDomain_flows (State.wakeDomain_flows (h.same (by rfl)) _ _) _ _) _ _) h

theorem State.admStart1_flows (c : AdmCmd) : Flows r (s.admStart1 c) :=
  .ite (State.replyAdm_flows h c _ _ _ _) (.ite h (State.askRead_flows (h.same (by rfl)) _ _))

theorem State.admStart_flows (n : Nat) : Flows r (s.admStart n) := by
  induction n generalizing s with
  | zero => exact h
  | succ n ih =>
    unfold State.admStart
    extract_lets s1
    have h1 : Flows r s1 := .ite (.each _ (fun _ c ht => State.admStart1_flows ht c) h) h
    exact .ite (ih h1) h1

theorem State.aqKick_flows : Flows r s.aqKick := State.askPacket_flows (State.admStart_flows h 17)

end Messages

section Words

variable {r s : State} (h : Flows r s)

include h

theorem State.askBlock_flows (ch : Nat) (a : Word64) : Flows r (s.askBlock ch a) := State.askRead_flows h _ _

theorem State.fetchBlock_flows (ch : Nat) : Flows r (s.fetchBlock ch) :=
  .ite h (.ite (State.fail_flows h ch _) (.ite (State.askBlock_flows (State.chargeCh_flows h ch _) ch _) (State.park_flows h ch _ _)))

theorem State.prefetch_flows (ch : Nat) : Flows r (s.prefetch ch) := .ite (State.askBlock_flows (State.chargeCh_flows h ch _) ch _) h

theorem State.reach_flows (ch : Nat) : Flows r (s.reach ch) := by
  unfold State.reach
  extract_lets c cont
  refine .ite (State.endProgram_flows h ch _ _ _) (.ite (State.failAt_flows h ch _ _) ?_)
  split
  · split
    · exact .ite (State.failAt_flows h ch _ _) (State.fetchBlock_flows h ch)
    · exact State.fetchBlock_flows h ch
  · split
    · exact State.endProgram_flows h ch _ _ _
    · exact .ite (State.fail_flows h ch _) (.ite (State.endProgram_flows h ch _ _ _) (h.same (by rfl)))

theorem State.goTo_flows (ch : Nat) (a : Word64) : Flows r (s.goTo ch a) := State.reach_flows (State.goChan_flows h ch _) ch

theorem State.goOn_flows (ch : Nat) : Flows r (s.goOn ch) := by
  unfold State.goOn
  extract_lets c
  split
  · exact h
  · extract_lets pi s1 s2
    have h1 : Flows r s1 := .ite (State.interim_flows h ch _ _ _ _) h
    clear_value s1
    have h2 : Flows r s2 := h1.same (by rfl)
    exact .ite (State.goTo_flows (h.same (by rfl)) ch _) (.ite (h.same (by rfl)) (.ite (State.goTo_flows h2 ch _) (State.endProgram_flows h2 ch _ _ _)))

theorem State.replaceCond_flows (ch bits : Nat) : Flows r (s.replaceCond ch bits) := h.same (by rfl)

theorem State.moved_flows (ch n : Nat) : Flows r (s.moved ch n) := h.same (by rfl)

theorem State.portion_flows (ch : Nat) : Flows r (s.portion ch) := h.same (by rfl)

/-- A CCW that starts goes on from its own state, and one that does not ends or parks the program as it stood before (R215). -/
theorem State.startCcw_flows {s0 : State} (h0 : Flows r s0) (ch : Nat) (k : Cost) {go : State → State} (hgo : ∀ t, Flows r t → Flows r (go t)) :
    Flows r (s.startCcw s0 ch k go) :=
  .ite (State.failNow_flows h0 ch _ _)
    (.ite (hgo _ (State.prefetch_flows ((State.chargeCh_flows h ch _).same (by rfl)) ch)) (State.park_flows h0 ch _ _))

theorem State.skipOut_flows (ch : Nat) (more : Bool) : Flows r (s.skipOut ch more) := by
  unfold State.skipOut
  extract_lets x s1
  have h1 : Flows r s1 := h.same (by rfl)
  clear_value s1
  split
  · exact h1
  · exact .ite (State.goOn_flows h1 ch) (State.goOn_flows (h1.same (by rfl)) ch)

theorem State.withMark_flows (ch : Nat) : Flows r (s.withMark ch) :=
  .ite (.ite (State.park_flows h ch _ _) (State.giveSlot_flows h ch)) h

theorem State.askPiece_flows (ch : Nat) (pc : Word64 × Nat) : Flows r (s.askPiece ch pc) := State.askRead_flows (h.same (by rfl)) _ _

theorem State.toWire_flows (ch : Nat) : Flows r (s.toWire ch) := by
  unfold State.toWire
  extract_lets c p
  have h1 : Flows r ((portDom p).elim s fun d => s.wakeDomain d 2) := by
    cases portDom p with
    | none => exact h
    | some d => exact State.wakeDomain_flows h d 2
  exact (State.wakeData_flows h1 _).same (by rfl)

theorem State.unitStarts_flows (ch : Nat) : Flows r (s.unitStarts ch) := by
  unfold State.unitStarts
  extract_lets x
  split
  · exact State.toWire_flows h ch
  · extract_lets s1
    have h1 : Flows r s1 := h.same (by rfl)
    clear_value s1
    refine .ite (State.askPiece_flows h1 ch _) ?_
    split
    · exact State.failAt_flows h1 ch _ _
    · exact State.toWire_flows (h1.same (by rfl)) ch

theorem State.startReal_flows (ch : Nat) : Flows r (s.startReal ch) := by
  unfold State.startReal
  extract_lets c p s1 k noBus
  refine .ite h ?_
  split
  · exact State.failAt_flows h ch _ _
  · have h1 : Flows r s1 := State.withMark_flows h ch
    clear_value s1
    refine .ite h1 (.ite (h1.same (by rfl)) (.ite h1 (.ite (State.failAt_flows h1 ch _ _) (.ite (State.unitStarts_flows (State.chargeCh_flows h1 ch _) ch) ?_))))
    exact .ite (State.park_flows (State.portion_flows h1 ch) ch _ _) (State.park_flows h1 ch _ _)

theorem State.startUnit_flows (ch : Nat) : Flows r (s.startUnit ch) := .ite h (State.startReal_flows h ch)

theorem State.leaveReaders_flows (p ch : Nat) : Flows r (s.leaveReaders p ch) := h.same (by rfl)

theorem State.doneOnce_flows (ch residual : Nat) : Flows r (s.doneOnce ch residual) := .ite h ((State.doneEffect_flows h ch residual).same (by rfl))

theorem State.endData_flows (ch bits : Nat) : Flows r (s.endData ch bits) := by
  unfold State.endData
  extract_lets c all s1
  have h1 : Flows r s1 := h.same (by rfl)
  clear_value s1
  split
  · exact State.failAt_flows (State.doneOnce_flows h1 ch _) ch _ _
  · exact .ite (State.goOn_flows h1 ch) (State.goOn_flows (State.portion_flows (State.doneOnce_flows h1 ch _) ch) ch)

theorem State.endSignal_flows (ch bits : Nat) (code : BitVec 16) (detail : Nat) : Flows r (s.endSignal ch bits code detail) := by
  unfold State.endSignal
  extract_lets c s1
  have h1 : Flows r s1 := h.same (by rfl)
  exact .ite (State.endProgram_flows h1 ch _ _ _) (State.goOn_flows h1 ch)

theorem State.sendLocal_flows (ch : Nat) : Flows r (s.sendLocal ch) := by
  unfold State.sendLocal
  extract_lets c mb m
  split
  · exact State.waitGrant_flows (h.same (by rfl)) ch _
  · rename_i k s1 hg
    have h1 := State.grantProducer_flows h hg
    exact .ite (State.endSignal_flows (s := (s1.freeOne k).mbxRefused mb) ((State.freeOne_flows h1 k).same (by rfl)) ch _ _ _)
      (State.endSignal_flows (State.mbxAccept_flows (h1.same (by rfl)) mb k _) ch _ _ _)

theorem State.sendFrame_flows (ch : Nat) (seq : Word32) : Flows r (s.sendFrame ch seq) := by
  unfold State.sendFrame
  extract_lets s1 kmd s2
  have h1 : Flows r s1 := State.kmdSend_flows h _
  have h2 : Flows r s2 := h1.same (by rfl)
  exact .ite (.ite (State.endSignal_flows (State.doneOnce_flows h2 ch 0) ch _ _ _) h2) h

theorem State.sendRemote_flows (ch : Nat) : Flows r (s.sendRemote ch) := by
  unfold State.sendRemote
  extract_lets s1 c1 seq p
  have h1 : Flows r s1 := State.withMark_flows (h.same (by rfl)) ch
  exact .ite h1 (.ite (h1.same (by rfl)) (State.sendFrame_flows (h1.same (by rfl)) ch seq))

theorem State.sendMessage_flows (ch : Nat) : Flows r (s.sendMessage ch) := .ite (State.sendRemote_flows h ch) (State.sendLocal_flows h ch)

theorem State.outReady_flows (ch : Nat) : Flows r (s.outReady ch) := by
  unfold State.outReady
  extract_lets c p n off
  refine .ite (State.sendMessage_flows h ch) (.ite (.ite (State.failAt_flows h ch _ _) ?_) ?_)
  · exact State.endData_flows ((State.touchCell_flows h _).same (by rfl)) ch 0
  · split
    · exact State.failNow_flows h ch _ _
    · exact .ite (State.goOn_flows h ch) (State.startUnit_flows (h.same (by rfl)) ch)

theorem State.takeDie_flows {ch n : Nat} {t : State} (e : s.takeDie ch n = .ok t) : Flows r t := by
  induction n generalizing s with
  | zero => exact Except.ok.inj e ▸ h
  | succ n ih =>
    unfold State.takeDie at e
    split at e
    · exact Except.ok.inj e ▸ h
    · split at e
      · exact ih (h.same (by rfl)) e
      · split at e
        · exact Except.ok.inj e ▸ h
        · split at e
          · cases e
          · exact ih (h.same (by rfl)) e

theorem State.pull_flows (ch : Nat) : Flows r (s.pull ch) := by
  unfold State.pull
  split
  · exact State.failAt_flows h ch _ _
  · rename_i s1 hd
    have h1 := State.takeDie_flows h hd
    extract_lets x
    split
    · exact State.outReady_flows h1 ch
    · exact .ite (State.outReady_flows h1 ch) (State.askPiece_flows h1 ch _)

theorem State.beginOutput_flows {s0 : State} (h0 : Flows r s0) (ch : Nat) : Flows r (s.beginOutput s0 ch) := by
  unfold State.beginOutput
  extract_lets c x more opens
  refine .ite (State.startCcw_flows h h0 ch _ fun t ht => State.skipOut_flows ht ch more) ?_
  split
  · exact State.startCcw_flows h h0 ch _ fun t ht => State.skipOut_flows (State.beginSkip_flows ht ch _) ch more
  · split
    · exact State.failNow_flows h ch _ _
    · rename_i s1 hd
      have h1 := State.takeDie_flows h hd
      refine .ite (State.startCcw_flows h1 h0 ch _ fun t ht => State.pull_flows ht ch) ?_
      split
      · exact State.failNow_flows h1 ch _ _
      · exact State.park_flows h0 ch _ _
      · exact State.park_flows h0 ch _ _
      · refine State.startCcw_flows h1 h0 ch _ fun t ht => ?_
        have hopen : Flows r (if opens then t.openEffect ch x.first x.rs else t) := .ite (State.openEffect_flows ht ch _ _) ht
        exact State.pull_flows (hopen.same (by rfl)) ch

end Words

end Sys2Proof.Machine
end

section
/-! PROOFS. Inputs, deliveries and programs that waited for host traffic only add to what the modules hold (R86, R145 to R154, R300, R351). -/

namespace Sys2Proof.Machine
open Sys2Proof

/-- The state with which a store ends flows from another (R145). -/
def Stored.Flows (r : State) : Stored → Prop
  | .ok t => Machine.Flows r t
  | .wait t _ => Machine.Flows r t
  | .bad _ => True

section Inputs

variable {r s : State} (h : Flows r s)

include h

theorem State.chainWrite_flows {k off n : Nat} {l : List Byte} {t : State} (e : s.chainWrite k off l n = .ok t) : Flows r t := by
  induction n generalizing s k off l with
  | zero =>
    unfold State.chainWrite at e
    split at e
    · exact Except.ok.inj e ▸ h
    · cases e
  | succ n ih =>
    unfold State.chainWrite at e
    split at e
    · exact Except.ok.inj e ▸ h
    · split at e
      · cases e
      · exact ih (State.hawkStore_flows h _ _) e

theorem State.storeIn_flows (ch : Nat) (l : List Byte) (n : Nat) : (s.storeIn ch l n).Flows r := by
  induction n generalizing s l with
  | zero => exact h
  | succ n ih =>
    unfold State.storeIn
    split
    · exact h
    · dsimp only
      split
      · exact h
      · split
        · exact ih (h.same (by rfl)) _
        · split
          · exact ih (h.same (by rfl)) _
          · split
            · split
              · exact h
              · exact ih ((State.writeHost_flows h _ _ _ _ _ _).same (by rfl)) _
            · split
              · exact trivial
              · exact ih (h.same (by rfl)) _
            · split
              · have h0 : Flows r (if (s.chan ch).xfer.newDone then s
                    else (s.freeChChain ch).updChan ch fun c => { c with xfer := { c.xfer with newDone := true } }) :=
                  .ite h ((State.freeChChain_flows h ch).same (by rfl))
                split
                · exact trivial
                · split
                  · exact h0
                  · rename_i ha
                    exact ih ((State.chainAppend_flows h0 ha).same (by rfl)) _
              · split
                · exact trivial
                · split
                  · exact trivial
                  · rename_i hw
                    exact ih ((State.chainWrite_flows h hw).same (by rfl)) _

/-- The READs of a port are kept going (R351). -/
theorem State.pace_flows (p : Nat) : Flows r (s.pace p) := by
  unfold State.pace
  split
  · exact h
  · extract_lets s1
    have h1 : Flows r s1 := State.startUnit_flows (h.same (by rfl)) _
    clear_value s1
    exact .ite (h1.same (by rfl)) h

theorem State.joinReaders_flows (ch : Nat) : Flows r (s.joinReaders ch) := by
  have h1 : Flows r ((s.updPort (s.chan ch).port fun q =>
      if q.readers.contains ch then q else { q with readers := q.readers ++ [ch] }).updXfer ch fun x => { x with phase := .input }) := h.same (by rfl)
  exact State.pace_flows h1 _

theorem State.startInput_flows (ch : Nat) : Flows r (s.startInput ch) := .ite (State.joinReaders_flows h ch) (State.startUnit_flows (h.same (by rfl)) ch)

theorem State.deliver_flows (ch : Nat) (l : List Byte) : Flows r (s.deliver ch l) := by
  unfold State.deliver
  extract_lets c buf now rest
  have hs := State.storeIn_flows h ch now (now.length + c.xfer.pieces.length + 1)
  split
  next => exact State.failAt_flows h ch _ _
  next s1 l1 e =>
    have h1 : Flows r s1 := by
      rw [e] at hs
      exact hs
    extract_lets s2
    have h2 : Flows r s2 := h1.same (by rfl)
    exact .ite (h2.same (by rfl)) (State.waitGrant_flows h2 ch _)
  next s1 e =>
    have h1 : Flows r s1 := by
      rw [e] at hs
      exact hs
    extract_lets s2 x
    have h2 : Flows r s2 := h1.same (by rfl)
    exact .ite (State.endData_flows h2 ch _) (State.startInput_flows h2 ch)

theorem State.beginInput_flows {s0 : State} (h0 : Flows r s0) (ch : Nat) : Flows r (s.beginInput s0 ch) := by
  have start : ∀ k {go : State → State}, (∀ t, Flows r t → Flows r (go t)) → Flows r (s.startCcw s0 ch k go) := fun k _ hgo =>
    State.startCcw_flows h h0 ch k hgo
  unfold State.beginInput
  extract_lets c p l
  refine .ite (.ite (State.failNow_flows h ch _ _) (start _ fun t ht => State.deliver_flows (ht.same (by rfl)) ch l)) ?_
  refine .ite (start _ fun t ht => State.endData_flows ht ch 0) (.ite (start _ fun t ht => State.deliver_flows ht ch []) ?_)
  refine .ite (State.failNow_flows h ch _ _) (.ite (start _ fun t ht => State.goOn_flows ht ch) ?_)
  exact .ite (start _ fun t ht => State.startInput_flows ht ch) (start _ fun t ht => State.startInput_flows (ht.same (by rfl)) ch)

theorem State.replyOn_flows (ch : Nat) : Flows r (s.replyOn ch) := by
  unfold State.replyOn
  extract_lets x
  have hs := State.storeIn_flows h ch x.hold (x.hold.length + x.pieces.length + 1)
  split
  next => exact State.failAt_flows h ch _ _
  next s1 l1 e =>
    have h1 : Flows r s1 := by
      rw [e] at hs
      exact hs
    exact h1.same (by rfl)
  next s1 e =>
    have h1 : Flows r s1 := by
      rw [e] at hs
      exact hs
    exact State.endData_flows (h1.same (by rfl)) ch 0

theorem State.havePieces_flows {s0 : State} (h0 : Flows r s0) (ch : Nat) (sk : Bool) (ps : List (Word64 × Nat)) : Flows r (s.havePieces s0 ch sk ps) := by
  unfold State.havePieces
  extract_lets c input s1
  have h1 : Flows r s1 := h.same (by rfl)
  exact .ite (State.failNow_flows h ch _ _) (.ite (State.beginInput_flows h1 h0 ch) (State.beginOutput_flows h1 h0 ch))

theorem State.listStep_flows (ch : Nat) : Flows r (s.listStep ch) := by
  unfold State.listStep
  extract_lets c
  split
  · exact h
  · refine .ite ?_ (.ite (State.failNow_flows h ch _ _) (.ite (State.askRead_flows (State.chargeCh_flows (h.same (by rfl)) ch _) _ _) (State.park_flows (h.same (by rfl)) ch _ _)))
    split
    · exact State.failNow_flows h ch _ _
    · exact State.havePieces_flows (h.same (by rfl)) (h.same (by rfl)) ch _ _

end Inputs

section Serving

variable {r s : State} (h : Flows r s)

include h

theorem State.freeUnit_flows (u : RxUnit) : Flows r (s.freeUnit u) := State.freeCells_flows h _

theorem State.deliverPort_flows (p n : Nat) : Flows r (s.deliverPort p n) := by
  induction n generalizing s with
  | zero => exact h
  | succ n ih =>
    unfold State.deliverPort
    split
    · exact h
    next ch u rest _ =>
      extract_lets c paid t k lost s1 noBus
      have h1 : Flows r s1 := State.freeUnit_flows ((State.chargeCh_flows h ch k).same (by rfl)) u
      clear_value s1
      refine .ite (State.failAt_flows h ch _ _) (.ite (ih (.ite (State.failAt_flows h1 ch _ _) (State.deliver_flows (h1.same (by rfl)) ch _))) ?_)
      exact .ite (State.park_flows (State.portion_flows h ch) ch _ _) (State.park_flows h ch _ _)

theorem State.pumpPort_flows (p : Nat) : Flows r (s.pumpPort p) := .ite h (State.pace_flows (State.deliverPort_flows h p _) p)

theorem State.resumeCh_flows (ch : Nat) : Flows r (s.resumeCh ch) := by
  unfold State.resumeCh
  extract_lets c
  refine .ite h ?_
  split
  · exact .ite h (State.reach_flows h ch)
  · exact State.listStep_flows h ch
  · exact .ite (State.sendRemote_flows h ch) (State.startUnit_flows h ch)
  · exact State.pumpPort_flows h _
  · exact h

theorem State.release_flows (ch : Nat) : Flows r (s.release ch) := .ite (State.resumeCh_flows (State.unpark_flows h ch) ch) h

theorem State.tryGrant_flows (ch : Nat) : Flows r (s.tryGrant ch) := by
  unfold State.tryGrant
  extract_lets s1 more
  have h1 : Flows r s1 := .ite (State.sendLocal_flows h ch) (State.deliver_flows h ch [])
  exact .ite h1 (.ite (State.waitGrant_flows (s := s1.unwaitGrant ch) (h1.same (by rfl)) ch _) (h1.same (by rfl)))

theorem State.serveGrants_flows (tried : List Nat) (n : Nat) : Flows r (s.serveGrants tried n) := by
  induction n generalizing s tried with
  | zero => exact h
  | succ n ih =>
    unfold State.serveGrants
    split
    · exact h
    · exact ih (State.tryGrant_flows h _) _

theorem State.served_flows : Flows r s.served := .each _ (fun _ ch ht => State.release_flows ht ch) (State.serveGrants_flows h [] _)

theorem State.endWait_flows (ch : Nat) : Flows r (s.endWait ch) := by
  unfold State.endWait
  extract_lets c s0 s1 s2
  have h0 : Flows r s0 := State.goChan_flows h ch _
  clear_value s0
  have h1 : Flows r s1 := .ite (State.interim_flows h0 ch _ _ _ _) h0
  clear_value s1
  have h2 : Flows r s2 := h1.same (by rfl)
  exact .ite (h0.same (by rfl)) (.ite (State.reach_flows (State.newAnchor_flows (State.goChan_flows h2 ch _) ch) ch)
    (State.endProgram_flows (State.newAnchor_flows h2 ch) ch _ _ _))

theorem State.doPost_flows (ch : Nat) (w : BitVec 128) : Flows r (s.doPost ch w) :=
  .ite (h.same (by rfl)) (State.goOn_flows ((State.interim_flows h ch _ _ _ _).same (by rfl)) ch)

theorem State.hostGo_flows (ch : Nat) : Flows r (s.hostGo ch) := by
  unfold State.hostGo
  extract_lets c
  refine .ite h ?_
  split
  · exact .ite (State.replyOn_flows h ch) (State.deliver_flows h ch [])
  · exact State.goOn_flows h ch
  · exact State.endWait_flows h ch
  · split
    · exact h
    · exact State.doPost_flows h ch _
  · exact h

/-- Programs that waited for a module go on (R86). -/
theorem State.hostResume_flows (md : Nat) : Flows r (s.hostResume md) :=
  .ite h (State.served_flows (.each _ (fun _ ch ht => State.hostGo_flows ht ch) h))

end Serving

end Sys2Proof.Machine
end

section
/-! PROOFS. RELEASE, DISCARD and the retraining of a module (R59, R65, R86, R87, R198), and O22. -/

namespace Sys2Proof.Machine
open Sys2Proof

/-- What one step over a list brings about, and every step keeps, stands at its end. -/
theorem State.each_reaches {α : Type} {R : State → State → Prop} {P : State → Prop} (hrefl : ∀ t, R t t) (htrans : ∀ {t u v}, R t u → R u v → R t v)
    {f : State → α → State} (hf : ∀ t a, R t (f t a)) (hP : ∀ {t u}, R t u → P t → P u) {a : α} {l : List α} (ha : a ∈ l) {s : State}
    (hx : ∀ t, R s t → P (f t a)) : P (s.each l f) := by
  induction l generalizing s with
  | nil => exact (List.not_mem_nil ha).elim
  | cons b rest ih =>
    show P ((f s b).each rest f)
    rcases List.mem_cons.mp ha with rfl | hr
    · exact hP (State.each_induction (P := R (f s a)) rest (hrefl _) fun t c ht => htrans ht (hf t c)) (hx s (hrefl s))
    · exact ih hr fun t ht => hx t (htrans (hf s b) ht)

/-! ### RELEASE (R86) -/

theorem State.enterHeld_flows {r s : State} (h : Flows r s) (md : Nat) (e : Egress) : Flows r (s.enterHeld md e) := by
  unfold State.enterHeld
  split
  · exact .ite (State.sendMsix_flows h md _) (.each _ (fun _ _ ht => .ite (ht.same (by rfl)) ht) h)
  · exact State.passGate_flows h _

/-- A data record, or an interim one (R86). -/
def EgKind.Direct (k : EgKind) : Prop := (∃ ch, k = .data ch) ∨ ∃ ch what, k = .interim ch what

theorem EgKind.Direct.stays {k : EgKind} (h : k.Direct) : k.Stays := by
  rintro q rfl
  rcases h with ⟨_, h⟩ | ⟨_, _, h⟩
  · cases h
  · cases h

/-- A write of this kind for this place is in the egress queue of a module. -/
def State.Queued (s : State) (md : Nat) (kind : EgKind) (addr : Word64) : Prop := ∃ x ∈ (s.link md).queue, x.kind = kind ∧ x.addr = addr

theorem State.Queued.flows {s t : State} {md : Nat} {kind : EgKind} {addr : Word64} (hk : kind.Stays) (h : Flows s t) (hq : s.Queued md kind addr) :
    t.Queued md kind addr := by
  obtain ⟨x, hx, rfl, rfl⟩ := hq
  exact ⟨x, (h.links md).queue x hx hk, rfl, rfl⟩

theorem State.send_queued {s : State} {md : Nat} (hh : (s.link md).holding = false) (kind : EgKind) (addr : Word64) (bytes : List Byte) (relaxed : Bool) :
    (s.send md kind addr bytes relaxed).Queued md kind addr := by
  obtain ⟨x, hx, hkind, haddr, -⟩ := State.egress_mem hh kind addr bytes relaxed
  rw [State.send_flowing hh]
  exact ⟨x, hx, hkind, haddr⟩

/-- A held data or interim record enters the egress queue of a module that is held no more (R86). -/
theorem State.enterHeld_queued {s : State} {md : Nat} {e : Egress} (hh : (s.link md).holding = false) (hk : e.kind.Direct) :
    (s.enterHeld md e).Queued md e.kind e.addr := by
  obtain ⟨kind, addr, bytes, eqs, relaxed, cells⟩ := e
  rcases hk with ⟨ch, hd⟩ | ⟨ch, what, hi⟩
  · obtain rfl : kind = .data ch := hd
    exact State.send_queued hh _ _ _ _
  · obtain rfl : kind = .interim ch what := hi
    have hsent := State.send_queued hh (.interim ch what) addr (stampFrame bytes s.frameLo) false
    show (if s.heldAt md then _ else _ : State).Queued md (.interim ch what) addr
    split
    · exact hsent
    · exact hsent.flows (EgKind.Direct.stays (.inr ⟨ch, what, rfl⟩)) (State.interimReports_flows (.refl _) ch what)

/-- A module released (R86). -/
def Link.released (l : Link) : Link :=
  { l with held := [], holding := false, graceOver := false, queue := l.queue.map fun e => { e with cells := [] } }

/-- RELEASE only sends on what the module held (R86). -/
theorem State.releaseLink_flows (s : State) (md : Nat) : Flows (s.setLink md (s.link md).released) (s.releaseLink md) :=
  State.aqKick_flows (State.hostResume_flows (State.pump_flows (State.settled_flows
    (.each _ (fun _ e ht => State.enterHeld_flows ht md e) (State.freeHeldCells_flows (.refl _) _))) md) md)

theorem State.releaseLink_sends (s : State) (md : Nat) : (s.link md).released.Sends ((s.releaseLink md).link md) := by
  have h := (s.releaseLink_flows md).links md
  rwa [State.link_setLink] at h

/-- Every held data and interim record stands in the egress queue after RELEASE (R86). -/
theorem State.releaseLink_queued (s : State) (md : Nat) {w : Egress} (hw : w ∈ (s.link md).held) (hk : w.kind.Direct) :
    (s.releaseLink md).Queued md w.kind w.addr := by
  obtain ⟨u, hu⟩ : ∃ u, u = (s.setLink md (s.link md).released).freeHeldCells ((s.link md).queue ++ (s.link md).held) := ⟨_, rfl⟩
  have hflow : Flows (s.setLink md (s.link md).released) u := hu ▸ State.freeHeldCells_flows (.refl _) _
  have hholding : (u.link md).holding = false := by
    rw [(hflow.links md).holding, State.link_setLink]
    rfl
  have hentered : (u.each (s.link md).held fun s e => s.enterHeld md e).Queued md w.kind w.addr :=
    State.each_reaches (R := Flows) (P := fun t => t.Queued md w.kind w.addr) Flows.refl Flows.trans (fun t e => State.enterHeld_flows (.refl t) md e)
      (fun hf hq => hq.flows hk.stays hf) hw fun t ht => State.enterHeld_queued ((ht.links md).holding.trans hholding) hk
  have hrest : s.releaseLink md = ((((u.each (s.link md).held fun s e => s.enterHeld md e).settled).pump md).hostResume md).aqKick := by
    rw [hu]
    rfl
  rw [hrest]
  exact hentered.flows hk.stays (State.aqKick_flows (State.hostResume_flows (State.pump_flows (State.settled_flows (.refl _)) md) md))

section Release

variable {s : State} {md : Nat}

theorem bitOf_or_one (v : Word32) : bitOf (v ||| 1) 0 = true ∧ bitOf (v ||| 1) 1 = bitOf v 1 := by
  refine ⟨bitOf_or_pow v (b := 0) (by decide), ?_⟩
  unfold bitOf
  rw [BitVec.getLsbD_or]
  exact Bool.or_false _

theorem bitOf_or_two (v : Word32) : bitOf (v ||| 2) 1 = true ∧ bitOf (v ||| 2) 0 = bitOf v 0 := by
  refine ⟨bitOf_or_pow v (b := 1) (by decide), ?_⟩
  unfold bitOf
  rw [BitVec.getLsbD_or]
  exact Bool.or_false _

theorem runs_nlnkRelease {v : Word32} (hs : s.heldSet md = true) (hv : bitOf v 1 = false) :
    Runs (.nlnkRelease md v) s fun t => (t.link md).holding = false ∧ (t.link md).held = [] ∧ (t.link md).graceOver = false ∧
      (∀ w ∈ (s.link md).queue, (∀ q, w.kind ≠ .head q) → ∃ x ∈ (t.link md).queue, x.kind = w.kind ∧ x.addr = w.addr ∧ x.bytes = w.bytes) ∧
      (∀ w ∈ (s.link md).held, ((∃ ch, w.kind = .data ch) ∨ ∃ ch what, w.kind = .interim ch what) →
        ∃ x ∈ (t.link md).queue, x.kind = w.kind ∧ x.addr = w.addr) := by
  obtain ⟨hr, hd⟩ := bitOf_or_one v
  have hrun : exec (.nlnkRelease md v) s = .next (s.releaseLink md) := by
    refine congrArg Host.Outcome.next ?_
    unfold State.nlnkCtl
    rw [hr, hd, hv, hs]
    rfl
  have h := s.releaseLink_sends md
  refine ⟨_, hrun, h.holding, h.flowing rfl, by rw [h.frame]; rfl, fun w hw hst => ?_, fun w hw hk => s.releaseLink_queued md hw hk⟩
  exact ⟨_, h.queue { w with cells := [] } (List.mem_map_of_mem hw) hst, rfl, rfl, rfl⟩

end Release

/-! ### DISCARD (R198) -/

theorem State.dropFinal_flows {r s : State} (h : Flows r s) (ch : Nat) (ccw : Word64) : Flows r (s.dropFinal ch ccw) :=
  .ite h (State.runWaiting_flows (State.goChan_flows h ch _) ch)

theorem State.dropWrite_flows {r s : State} (h : Flows r s) (e : Egress) : Flows r (s.dropWrite e) := by
  unfold State.dropWrite
  split
  · exact State.dropFinal_flows (h.setQ (.same (by rfl))) _ _
  · exact h.setQ (.same (by rfl))
  · exact h.same (by rfl)
  · exact h

/-- What stopping the queues of a module and what follows leave: each module has at most more to send, a queue keeps its FETCH, and one that has
stopped for the loss stays so (R198). -/
structure Loses (md q : Nat) (s t : State) : Prop where
  link : (s.link md).Sends (t.link md)
  fetch : (t.q q).fetch = (s.q q).fetch
  stopped : (s.q q).st = .error ∧ (s.q q).why = 8 → (t.q q).st = .error ∧ (t.q q).why = 8

section Discard

variable {md q : Nat}

theorem Loses.refl (s : State) : Loses md q s s := ⟨.refl _, rfl, id⟩

theorem Loses.trans {s t u : State} (h : Loses md q s t) (g : Loses md q t u) : Loses md q s u :=
  ⟨h.link.trans g.link, g.fetch.trans h.fetch, fun hs => g.stopped (h.stopped hs)⟩

/-- A queue that does not drain keeps its state while work goes on (R131). -/
theorem Queue.Rests.keeps {x y : Queue} (h : x.Rests y) (hx : x.st ≠ .draining) : y.st = x.st := h.st.resolve_right hx

theorem Flows.loses {s t : State} (h : Flows s t) : Loses md q s t where
  link := h.links md
  fetch := (h.queues q).fetch
  stopped := fun ⟨hst, hwhy⟩ => ⟨((h.queues q).keeps (by rw [hst]; decide)).trans hst, (h.queues q).why.trans hwhy⟩

/-- A queue as its module's loss stops it (R198). -/
def Queue.lost (x : Queue) : Queue :=
  { x with st := .error, why := 8, onDie := [], raise := true, turnLeft := 0, failing := 0, errIdx := headOf (x.bound.filter fun e => !e.done) x.fetch }

theorem State.lossStop_flows (s : State) (k : Nat) : Flows (s.setQ k (s.q k).lost) (s.lossStop k) := State.advance_flows (.refl _) k

/-- A queue that its module's loss stops is in ERROR with WHY 8 (R198). -/
theorem State.lossStop_stopped (s : State) (k : Nat) : ((s.lossStop k).q k).st = .error ∧ ((s.lossStop k).q k).why = 8 := by
  have h := Flows.loses (md := 0) (q := k) (s.lossStop_flows k)
  refine h.stopped ?_
  rw [State.q_setQ]
  exact ⟨rfl, rfl⟩

theorem State.lossStop_loses (s : State) (k : Nat) : Loses md q s (s.lossStop k) := by
  refine Loses.trans ?_ (s.lossStop_flows k).loses
  refine ⟨.refl _, ?_, fun hs => ?_⟩
  · by_cases hk : q = k
    · rw [hk, State.q_setQ]
      rfl
    · rw [s.q_setQ_ne k q _ hk]
  · by_cases hk : q = k
    · rw [hk, State.q_setQ]
      exact ⟨rfl, rfl⟩
    · rwa [s.q_setQ_ne k q _ hk]

/-- A queue that is enabled is among those of the module that carries it (R55). -/
theorem State.mem_carried {s : State} (hq : (s.q q).st ≠ .disabled) : q ∈ s.carried (s.qModule q) := by
  refine List.mem_map.mpr ⟨(q, s.q q), List.mem_filter.mpr ⟨?_, ?_⟩, rfl⟩
  · rcases Table.get_eq_or_mem s.queues {} q with hd | hm
    · exact absurd (congrArg Queue.st hd) hq
    · exact hm
  · rw [Bool.and_eq_true, beq_iff_eq]
    exact ⟨bne_iff_ne.mpr hq, rfl⟩

/-- A module's traffic discarded (R198). -/
def Link.discarded (l : Link) : Link := { l with queue := [], held := [], holding := false, graceOver := false, replaying := 0 }

/-- The state once every write that a module held is dropped (R198). -/
def State.droppedAll (s : State) (md : Nat) : State :=
  ((s.setLink md (s.link md).discarded).freeHeldCells ((s.link md).queue ++ (s.link md).held)).each ((s.link md).queue ++ (s.link md).held)
    fun s e => s.dropWrite e

theorem State.droppedAll_flows (s : State) (md : Nat) : Flows (s.setLink md (s.link md).discarded) (s.droppedAll md) :=
  .each _ (fun _ e ht => State.dropWrite_flows ht e) (State.freeHeldCells_flows (.refl _) _)

theorem State.discardLink_eq (s : State) (md : Nat) : s.discardLink md =
    (((((s.droppedAll md).each ((s.droppedAll md).carried md) fun s q => s.lossStop q).pump md).hostResume md).aqKick) := rfl

theorem State.discardLink_end (s : State) (md : Nat) : Flows ((s.droppedAll md).each ((s.droppedAll md).carried md) fun s q => s.lossStop q)
    (s.discardLink md) := State.aqKick_flows (State.hostResume_flows (State.pump_flows (.refl _) md) md)

theorem State.discardLink_loses (s : State) (md q : Nat) : Loses md q (s.setLink md (s.link md).discarded) (s.discardLink md) :=
  (Flows.loses (s.droppedAll_flows md)).trans (Loses.trans
    (State.each_induction (P := Loses md q (s.droppedAll md)) _ (.refl _) fun t k ht => ht.trans (t.lossStop_loses k)) (s.discardLink_end md).loses)

/-- A queue of the module that runs or pauses stops for the loss (R198). -/
theorem State.discardLink_stops (s : State) (hst : (s.q q).st = .running ∨ (s.q q).st = .paused) (hm : s.qModule q = md) :
    ((s.discardLink md).q q).st = .error ∧ ((s.discardLink md).q q).why = 8 := by
  have hflow := s.droppedAll_flows md
  have hq1 : (s.setLink md (s.link md).discarded).q q = s.q q := by
    unfold State.q
    rw [State.setLink_queues]
  have hm1 : (s.setLink md (s.link md).discarded).qModule q = md := by
    unfold State.qModule
    rw [hq1, State.setLink_mode, State.setLink_carry]
    exact hm
  have hdrains : (s.q q).st ≠ .draining := by rcases hst with h | h <;> rw [h] <;> decide
  have henabled : ((s.droppedAll md).q q).st ≠ .disabled := by
    rw [(hflow.queues q).keeps (hq1 ▸ hdrains), hq1]
    rcases hst with h | h <;> rw [h] <;> decide
  have hcarried : q ∈ (s.droppedAll md).carried md := by
    have := State.mem_carried henabled
    rwa [hflow.qModule, hm1] at this
  refine (Flows.loses (md := md) (s.discardLink_end md)).stopped ?_
  exact State.each_reaches (R := Loses md q) (P := fun t => (t.q q).st = .error ∧ (t.q q).why = 8) Loses.refl Loses.trans
    (fun t k => t.lossStop_loses k) (fun h => h.stopped) hcarried fun t _ => t.lossStop_stopped q

theorem runs_nlnkDiscard {s : State} {v : Word32} (hs : s.heldSet md = true) (hv : bitOf v 0 = false) :
    Runs (.nlnkDiscard md v) s fun t => (t.link md).holding = false ∧ (t.link md).held = [] ∧ (t.link md).graceOver = false ∧
      ∀ q, (s.q q).st = .running ∨ (s.q q).st = .paused → s.qModule q = md →
        (t.q q).st = .error ∧ (t.q q).why = 8 ∧ (t.q q).fetch = (s.q q).fetch := by
  obtain ⟨hd, hr⟩ := bitOf_or_two v
  have hrun : exec (.nlnkDiscard md v) s = .next (s.discardLink md) := by
    refine congrArg Host.Outcome.next ?_
    unfold State.nlnkCtl
    rw [hr, hd, hv, hs]
    rfl
  have h := (s.discardLink_loses md 0).link
  rw [State.link_setLink] at h
  refine ⟨_, hrun, h.holding, h.flowing rfl, by rw [h.frame]; rfl, fun q hst hm => ?_⟩
  obtain ⟨herr, hwhy⟩ := s.discardLink_stops hst hm
  refine ⟨herr, hwhy, (s.discardLink_loses md q).fetch.trans ?_⟩
  unfold State.q
  rw [State.setLink_queues]

end Discard

/-! ### Retraining (R59, R65, R87) -/

theorem State.pbaDue_signals (s : State) (md : Nat) : Signals s (s.pbaDue md) :=
  State.each_induction (P := Signals s) _ (Signals.refl s) fun t n ht => by
    dsimp only
    split
    · exact ht.trans rfl
    · exact ht

theorem State.dropBatches_signals (s : State) (md : Nat) : Signals s (s.dropBatches md) :=
  State.each_induction (P := Signals s) _ rfl fun t b ht =>
    State.each_induction (P := Signals s) _ ht fun t n ht => by
      split
      · exact ht.trans rfl
      · exact ht

theorem State.convReset_signals (s : State) (md : Nat) : Signals s (s.convReset md) :=
  ((s.pbaDue_signals md).trans (State.dropBatches_signals _ md)).trans ((State.setLink_signals _ md _).trans rfl)

/-- A module as its training leaves it (R59). -/
def Link.trained (l : Link) (rate : BitVec 2) (x8 : Bool) : Link := { l with lstate := 0, rate, x8, retrain := satInc l.retrain, lost := false }

/-- The state once a retrain is recorded (R59). -/
def State.trained (s : State) (md : Nat) (rate : BitVec 2) (x8 : Bool) : State :=
  ((s.setLink md ((s.link md).trained rate x8)).journalRec stOk false false false midFwc (Config.retrainPayload rate x8)).linkPulse md

/-- The state once a module that was lost is reset besides (R65). -/
def State.returned (s : State) (md : Nat) (rate : BitVec 2) (x8 : Bool) : State :=
  if (s.link md).lost then (s.trained md rate x8).convReset md else s.trained md rate x8

theorem State.retrained_eq (s : State) (md : Nat) (rate : BitVec 2) (x8 : Bool) : s.retrained md rate x8 =
    if (s.link md).holding && !((s.returned md rate x8).heldSet md) then (s.returned md rate x8).releaseLink md
    else (s.returned md rate x8).pump md := rfl

section Retrain

variable {s : State} {md : Nat} (rate : BitVec 2) (x8 : Bool)

theorem State.trained_leaves : ((s.link md).trained rate x8).Sends ((s.trained md rate x8).link md) ∧ (s.trained md rate x8).jseq = s.jseq + 1 ∧
    (s.trained md rate x8).queues = s.queues ∧ Reports s (s.trained md rate x8) := by
  obtain ⟨u, hu⟩ : ∃ u, u = (s.setLink md ((s.link md).trained rate x8)).journalRec stOk false false false midFwc (Config.retrainPayload rate x8) := ⟨_, rfl⟩
  have hrec : Recorded (s.setLink md ((s.link md).trained rate x8)) u := hu ▸ State.journalRec_recorded _ _ _ _ _ _ _
  have hjseq : u.jseq = s.jseq + 1 := by
    rw [hu]
    show (s.setLink md _).jseq + 1 = _
    rw [State.setLink_jseq]
  have hrep : Reports s u := hu ▸ State.journalRec_reports _ _ _ _ _ _ _ (State.setLink_reports s md _ (Reports.refl s))
  have hlink : u.link md = (s.link md).trained rate x8 := by
    have : u.link md = (s.setLink md ((s.link md).trained rate x8)).link md := by rw [hrec.1]; rfl
    rw [this, State.link_setLink]
  have hqueues : u.queues = s.queues := by rw [hrec.1]; exact State.setLink_queues s md _
  obtain ⟨hflow, hsig⟩ := u.linkPulse_tells md
  have ht : s.trained md rate x8 = u.linkPulse md := by rw [hu]; rfl
  rw [ht]
  exact ⟨hlink ▸ hflow.links md, hsig.jseq.trans hjseq, hsig.queues.trans hqueues, State.linkPulse_reports _ md hrep⟩

/-- What a retrain leaves before the held traffic goes on (R59, R65): the link is Active at its rate and width, the loss has ended, and the module
has at most more to send. -/
structure Link.Returns (l k : Link) (rate : BitVec 2) (x8 : Bool) : Prop where
  lstate : k.lstate = 0
  rate : k.rate = rate
  x8 : k.x8 = x8
  lost : k.lost = false
  holding : k.holding = l.holding
  graceOver : k.graceOver = l.graceOver
  waits : l.waitsForSoftware = true → k.waitsForSoftware = true
  retrain : l.lost = false → k.retrain = satInc l.retrain
  cfg : l.lost = true → k.cfg = {}

theorem Link.Sends.returns {l k : Link} (h : (l.trained rate x8).Sends k) (hl : l.lost = false) : l.Returns k rate x8 where
  lstate := by rw [h.frame]; rfl
  rate := by rw [h.frame]; rfl
  x8 := by rw [h.frame]; rfl
  lost := by rw [h.frame]; rfl
  holding := h.holding
  graceOver := by rw [h.frame]; rfl
  waits := h.waitsForSoftware
  retrain _ := by rw [h.frame]; rfl
  cfg hc := by rw [hl] at hc; cases hc

theorem Link.Sends.returns_reset {l k : Link} (h : (l.trained rate x8).Sends k) (hl : l.lost = true) :
    l.Returns { k with cfg := {}, crcRetry := 0, retrain := 0, down := 0 } rate x8 where
  lstate := by show k.lstate = 0; rw [h.frame]; rfl
  rate := by show k.rate = rate; rw [h.frame]; rfl
  x8 := by show k.x8 = x8; rw [h.frame]; rfl
  lost := by show k.lost = false; rw [h.frame]; rfl
  holding := h.holding
  graceOver := by show k.graceOver = l.graceOver; rw [h.frame]; rfl
  waits := h.waitsForSoftware
  retrain hc := by rw [hl] at hc; cases hc
  cfg _ := rfl

theorem State.returned_leaves : (s.link md).Returns ((s.returned md rate x8).link md) rate x8 ∧ (s.returned md rate x8).jseq = s.jseq + 1 ∧
    (s.returned md rate x8).queues = s.queues ∧ Reports s (s.returned md rate x8) := by
  obtain ⟨hs, hj, hq, hr⟩ := State.trained_leaves (s := s) (md := md) rate x8
  unfold State.returned
  split
  next hl =>
    have hsig := (s.trained md rate x8).convReset_signals md
    refine ⟨?_, hsig.jseq.trans hj, hsig.queues.trans hq, State.convReset_reports _ md hr⟩
    rw [State.convReset_link, State.link_setLink]
    exact hs.returns_reset rate x8 hl
  next hl => exact ⟨hs.returns rate x8 (Bool.eq_false_iff.mpr hl), hj, hq, hr⟩

theorem exec_linkRetrainComplete (hl : (s.link md).lstate = 3) : exec (.linkRetrainComplete md rate x8) s = .next (s.retrained md rate x8) :=
  congrArg Host.Outcome.next (if_pos hl)

/-- Issuing reads leaves what a retrain has set (R66). -/
theorem State.returned_pump : (s.link md).Returns (((s.returned md rate x8).pump md).link md) rate x8 ∧ ((s.returned md rate x8).pump md).jseq = s.jseq + 1 ∧
    ((s.returned md rate x8).pump md).queues = s.queues ∧ Reports s ((s.returned md rate x8).pump md) := by
  obtain ⟨hk, hj, hq, hr⟩ := State.returned_leaves (s := s) (md := md) rate x8
  obtain ⟨w, rd, hp⟩ := (s.returned md rate x8).pump_eq md
  refine ⟨?_, ?_, ?_, State.pump_reports _ md hr⟩
  · rw [hp, State.link_setLink]
    exact ⟨hk.lstate, hk.rate, hk.x8, hk.lost, hk.holding, hk.graceOver, hk.waits, hk.retrain, hk.cfg⟩
  · rw [hp, State.setLink_jseq, hj]
  · rw [hp, State.setLink_queues, hq]

theorem runs_retrain_flowing (hl : (s.link md).lstate = 3) (hh : (s.link md).holding = false) :
    Runs (.linkRetrainComplete md rate x8) s fun t => (t.link md).lstate = 0 ∧ (t.link md).rate = rate ∧ (t.link md).x8 = x8 ∧
      (t.link md).lost = false ∧ t.jseq = s.jseq + 1 ∧ t.queues = s.queues ∧
      ((s.link md).lost = false → (t.link md).retrain = satInc (s.link md).retrain) ∧ ((s.link md).lost = true → (t.link md).cfg = {}) ∧ Reports s t := by
  obtain ⟨hk, hj, hq, hr⟩ := State.returned_pump (s := s) (md := md) rate x8
  refine ⟨_, (exec_linkRetrainComplete rate x8 hl).trans (congrArg _ ((s.retrained_eq md rate x8).trans (if_neg ?_))), hk.lstate, hk.rate, hk.x8, hk.lost,
    hj, hq, hk.retrain, hk.cfg, hr⟩
  rw [hh]
  exact Bool.false_ne_true

theorem runs_retrain_waits (hl : (s.link md).lstate = 3) (hs : s.heldSet md = true) :
    Runs (.linkRetrainComplete md rate x8) s fun t => (t.link md).lstate = 0 ∧ (t.link md).rate = rate ∧ (t.link md).x8 = x8 ∧
      (t.link md).lost = false ∧ t.jseq = s.jseq + 1 ∧ t.heldSet md = true ∧ t.queues = s.queues ∧ Reports s t := by
  obtain ⟨hk, hj, hq, hr⟩ := State.returned_pump (s := s) (md := md) rate x8
  obtain ⟨hk0, -⟩ := State.returned_leaves (s := s) (md := md) rate x8
  have hheld : (s.returned md rate x8).heldSet md = true := hk0.waits hs
  refine ⟨_, (exec_linkRetrainComplete rate x8 hl).trans (congrArg _ ((s.retrained_eq md rate x8).trans (if_neg ?_))), hk.lstate, hk.rate, hk.x8, hk.lost,
    hj, hk.waits hs, hq, hr⟩
  rw [hheld]
  simp

theorem runs_retrain_releases (hl : (s.link md).lstate = 3) (hh : (s.link md).holding = true) (hg : (s.link md).graceOver = false) :
    Runs (.linkRetrainComplete md rate x8) s fun t => (t.link md).lstate = 0 ∧ (t.link md).rate = rate ∧ (t.link md).x8 = x8 ∧
      (t.link md).lost = false ∧ (t.link md).holding = false ∧ (t.link md).held = [] := by
  obtain ⟨hk, -⟩ := State.returned_leaves (s := s) (md := md) rate x8
  have hheld : (s.returned md rate x8).heldSet md = false := by
    rw [State.heldSet_eq]
    unfold Link.waitsForSoftware
    rw [hk.graceOver, hg, Bool.and_false, Bool.false_and]
  have h := (s.returned md rate x8).releaseLink_sends md
  refine ⟨_, (exec_linkRetrainComplete rate x8 hl).trans (congrArg _ ((s.retrained_eq md rate x8).trans (if_pos ?_))), ?_, ?_, ?_, ?_, h.holding, h.flowing rfl⟩
  · rw [hh, hheld]
    rfl
  · rw [h.frame]; exact hk.lstate
  · rw [h.frame]; exact hk.rate
  · rw [h.frame]; exact hk.x8
  · rw [h.frame]; exact hk.lost

end Retrain

/-- Settles O22: each row through what its own change leaves of the module, and RELEASE and DISCARD through what all the work that they set off
leaves of modules and queues (Flows). -/
theorem linkLossAndRelease : Obligations.LinkLossAndRelease := by
  intro s md _
  refine ⟨fun hl hlost => ⟨fun h => ⟨runs_moduleLoss_graces hl hlost h, runs_moduleLoss_waits hl hlost h⟩, runs_moduleLoss_standby hl hlost,
    runs_moduleLoss_failover hl hlost⟩, fun hlost hh hg => ⟨runs_linkGraceExpiry_halts hlost hh hg, runs_linkGraceExpiry_waits hlost hh hg⟩,
    fun rate x8 hl => ⟨runs_retrain_flowing rate x8 hl, runs_retrain_waits rate x8 hl, runs_retrain_releases rate x8 hl⟩,
    fun v hs hv => runs_nlnkRelease hs hv, fun v hs hv => runs_nlnkDiscard hs hv⟩

end Sys2Proof.Machine
end

section
/-! PROOFS. Doorbells of queues (R36, R104, R105, R107, R110): the reads that they ask for, the counts that they offer, and O8. -/

namespace Sys2Proof.Machine
open Sys2Proof

/-! ### Reads that a queue asks for -/

theorem QOnly.refl (s : State) (q : Nat) : QOnly s s q (s.q q) := ⟨rfl, fun _ _ => rfl⟩

theorem QOnly.others {s t : State} {q : Nat} {x : Queue} (h : QOnly s t q x) : ∀ k, k ≠ q → t.q k = s.q k := h.2

theorem State.askSlots_holds {s : State} {q : Nat} {x : ReadReq} (r : ReadReq) (h : s.holdsRead (s.qModule q) x) :
    (s.askSlots q r).holdsRead (s.qModule q) x := by
  unfold State.askSlots
  dsimp only
  split
  · exact (State.askRead_holds _ _ _).2 x h
  · exact h

/-- A slot read that is asked for is held by the queue's module, or waits for one of the 64 places (R115). -/
theorem State.askSlots_asks (s : State) (q : Nat) (r : ReadReq) :
    QOnly s (s.askSlots q r) q { s.q q with reading := true, wantRead := ((s.askSlots q r).q q).wantRead } ∧
      (((s.askSlots q r).q q).wantRead = some r ∨ (s.askSlots q r).holdsRead (s.qModule q) r) := by
  constructor
  · obtain ⟨w, hw⟩ := s.askSlots_q q r
    have hwant : ((s.askSlots q r).q q).wantRead = w := by rw [hw.1]
    rwa [hwant]
  · unfold State.askSlots
    dsimp only
    split
    · exact .inr (State.askRead_holds _ _ _).1
    · exact .inl (by rw [State.updQ_def, State.q_setQ])

theorem State.askPcnt_holds (s : State) (q : Nat) : (s.askPcnt q).holdsRead (s.qModule q) (.pcnt q) := (State.askRead_holds _ _ _).1

theorem State.qModule_askPcnt (s : State) (q : Nat) : (s.askPcnt q).qModule q = s.qModule q :=
  Flows.qModule (State.askRead_flows ((Flows.refl s).setQ (.same (by rfl))) _ _) q

theorem State.kick_of_not_running {s : State} {q : Nat} (h : (s.q q).st ≠ .running) : s.kick q = s := if_pos h

/-- A running queue's producer count that was asked for is read (R105). -/
theorem State.kick_holds_pcnt {s : State} {q : Nat} (hr : (s.q q).st = .running) (hw : (s.q q).wantPcnt = true) :
    (s.kick q).holdsRead (s.qModule q) (.pcnt q) := by
  have hp := s.askPcnt_holds q
  have hd : ∀ c n, ((s.askPcnt q).askDesc q c n false).holdsRead (s.qModule q) (.pcnt q) := fun c n => by
    rw [← s.qModule_askPcnt q] at hp ⊢
    exact State.askSlots_holds _ hp
  unfold State.kick
  dsimp only
  rw [if_neg (not_not_intro hr), if_pos hw]
  split
  · exact hp
  · split
    · split
      · exact hd _ _
      · exact hp
    · split
      · exact hp
      · exact hd _ _

/-! ### Counts offered (R104) -/

section Offer

variable {s : State} {q : Nat} {count : Word32} (m : Nat)

/-- A count that passes the check becomes PROD, and the arbiter reads on (R104, R115). -/
theorem State.offer_accepted (hfit : (count - (s.q q).head).toNat ≤ (s.q q).slots)
    (hon : ((s.q q).prod - (s.q q).head).toNat ≤ (count - (s.q q).head).toNat) :
    ∃ a b w, QOnly s (s.offer m q count) q { s.q q with prod := count, wantPcnt := a, reading := b, wantRead := w } := by
  have hoffer : s.offer m q count = (s.setQ q { s.q q with prod := count }).kick q := if_pos ⟨hfit, hon⟩
  obtain ⟨a, b, w, hk⟩ := (s.setQ q { s.q q with prod := count }).kick_q q
  rw [State.q_setQ] at hk
  exact ⟨a, b, w, hoffer ▸ (QOnly.setQ s q _).then hk⟩

/-- A count that fails it changes DB_BAD alone and is journalled (R104). -/
theorem State.offer_refused (h : (s.q q).slots < (count - (s.q q).head).toNat ∨
    (count - (s.q q).head).toNat < ((s.q q).prod - (s.q q).head).toNat) :
    QOnly s (s.offer m q count) q { s.q q with dbBad := satInc (s.q q).dbBad } ∧ (s.offer m q count).jseq = s.jseq + 1 := by
  have hoffer : s.offer m q count = (s.setQ q { s.q q with dbBad := satInc (s.q q).dbBad }).journalHost m 0 q count.toNat 0 :=
    if_neg (by omega)
  rw [hoffer]
  exact ⟨(QOnly.setQ s q _).emits (State.journalHost_emits _ _ _ _ _ _ (Emits.refl _)), rfl⟩

end Offer

/-! ### Rows of the doorbells -/

section Doorbells

variable {s : State} {m q : Nat}

/-- A doorbell lies in no domain that is switched (R39, R134). -/
theorem State.access_dbOff (hq : q < 1024) (ha : s.admits m (dbOff q) = true) (k : State → State) : s.access m (dbOff q) k = k s := by
  unfold dbOff at ha ⊢
  exact State.access_of_admits k ha (by omega) (offDom_eq_none (by omega))

theorem State.dbCountW_refused (hr : s.dbRefused m q = true) (v : Word32) : s.dbCountW m q v = s.accFault m := if_pos hr

theorem State.dbFetchW_refused (hr : s.dbRefused m q = true) (v : Word32) : s.dbFetchW m q v = s.accFault m := if_pos hr

theorem State.dbCountW_offers (hr : s.dbRefused m q = false) (hp : (s.q q).phase = false) (v : Word32) : s.dbCountW m q v = s.offer m q v := by
  simp [State.dbCountW, hr, hp]

theorem State.dbFetchW_kicks (hr : s.dbRefused m q = false) (hp : (s.q q).phase = false) {v : Word32} (hv : bitOf v 0 = true) :
    s.dbFetchW m q v = (s.setQ q { s.q q with wantPcnt := true }).kick q := by
  simp [State.dbFetchW, hr, hp, hv]

theorem State.dbCountW_polls (hr : s.dbRefused m q = false) (hp : (s.q q).phase = true) (he : s.eligible q = true)
    (hread : (s.q q).reading = false) (hdie : (s.q q).onDie = []) (v : Word32) : s.dbCountW m q v = s.askPoll q := by
  simp [State.dbCountW, hr, hp, he, hread, hdie]

theorem State.dbFetchW_polls (hr : s.dbRefused m q = false) (hp : (s.q q).phase = true) (he : s.eligible q = true)
    (hread : (s.q q).reading = false) (hdie : (s.q q).onDie = []) (v : Word32) : s.dbFetchW m q v = s.askPoll q := by
  simp [State.dbFetchW, hr, hp, he, hread, hdie]

/-- The header at FETCH is asked for, and nothing else changes (R110). -/
theorem State.askPoll_asks (s : State) (q : Nat) :
    (s.askPoll q).q q = { s.q q with reading := true, wantRead := ((s.askPoll q).q q).wantRead } ∧
      (((s.askPoll q).q q).wantRead = some (.poll q) ∨
        ∃ r ∈ ((s.askPoll q).link (s.qModule q)).reads ++ ((s.askPoll q).link (s.qModule q)).waiting, r.req = .poll q) ∧
      (∀ k, k ≠ q → (s.askPoll q).q k = s.q k) ∧ Reports s (s.askPoll q) := by
  obtain ⟨⟨hself, hothers⟩, hasked⟩ := s.askSlots_asks q (.poll q)
  exact ⟨hself, hasked, hothers, State.askPoll_reports s q (Reports.refl s)⟩

/-- A refused access is counted with its master and leaves every queue (R36, R107). -/
theorem State.accFault_leaves (s : State) (m : Nat) : (s.accFault m).gctl.accCount = satInc s.gctl.accCount ∧
    (s.accFault m).gctl.accMid = BitVec.ofNat 9 m ∧ (s.accFault m).queues = s.queues ∧ Reports s (s.accFault m) := by
  rw [State.accFault_gctl]
  exact ⟨rfl, rfl, (State.accFault_emits s m (Emits.refl s)).queues, State.accFault_reports s m (Reports.refl s)⟩

variable (hq : q < 1024) (ha : s.admits m (dbOff q) = true)

include hq ha

theorem exec_dbCount (v : Word32) : exec (.dbCount m q v) s = .next (s.dbCountW m q v) :=
  congrArg Host.Outcome.next (State.access_dbOff hq ha _)

theorem exec_dbFetch (v : Word32) : exec (.dbFetch m q v) s = .next (s.dbFetchW m q v) :=
  congrArg Host.Outcome.next (State.access_dbOff hq ha _)

/-- What both doorbells do alike, either does (R107). -/
theorem runs_doorbell {P : State → Prop} {v : Word32} (hcount : P (s.dbCountW m q v)) (hfetch : P (s.dbFetchW m q v)) :
    ∀ i ∈ [Instr.dbCount m q v, Instr.dbFetch m q v], Runs i s P := by
  intro i hi
  rcases List.mem_pair.mp hi with rfl | rfl
  · exact ⟨_, exec_dbCount hq ha v, hcount⟩
  · exact ⟨_, exec_dbFetch hq ha v, hfetch⟩

theorem runs_dbFetch_running (hr : s.dbRefused m q = false) (hp : (s.q q).phase = false) {v : Word32} (hv : bitOf v 0 = true)
    (hst : (s.q q).st = .running) :
    Runs (.dbFetch m q v) s fun t => (∃ r ∈ (t.link (s.qModule q)).reads ++ (t.link (s.qModule q)).waiting, r.req = .pcnt q) ∧
      (∀ k, k ≠ q → t.q k = s.q k) ∧ Reports s t := by
  obtain ⟨u, hu⟩ : ∃ u, u = s.setQ q { s.q q with wantPcnt := true } := ⟨_, rfl⟩
  have hx : u.q q = { s.q q with wantPcnt := true } := by rw [hu, State.q_setQ]
  have hmod : u.qModule q = s.qModule q := by
    rw [hu]
    exact ((Flows.refl s).setQ (.same (by rfl))).qModule q
  obtain ⟨a, b, w, hk⟩ := u.kick_q q
  have hothers : QOnly s u q _ := hu ▸ QOnly.setQ s q _
  have hrun : exec (.dbFetch m q v) s = .next (u.kick q) := by rw [exec_dbFetch hq ha, State.dbFetchW_kicks hr hp hv, hu]
  refine ⟨_, hrun, ?_, (hothers.then hk).others, State.kick_reports u q (hu ▸ State.setQ_reports s q _ (Reports.refl s))⟩
  rw [← hmod]
  exact State.kick_holds_pcnt (by rw [hx]; exact hst) (by rw [hx])

theorem runs_dbFetch_not_running (hr : s.dbRefused m q = false) (hp : (s.q q).phase = false) {v : Word32} (hv : bitOf v 0 = true)
    (hst : (s.q q).st ≠ .running) : Runs (.dbFetch m q v) s fun t => t = s.setQ q { s.q q with wantPcnt := true } := by
  refine ⟨_, exec_dbFetch hq ha v, (State.dbFetchW_kicks hr hp hv).trans (State.kick_of_not_running ?_)⟩
  rw [State.q_setQ]
  exact hst

theorem runs_dbCount_accepted (hr : s.dbRefused m q = false) (hp : (s.q q).phase = false) {count : Word32}
    (hfit : (count - (s.q q).head).toNat ≤ (s.q q).slots) (hon : ((s.q q).prod - (s.q q).head).toNat ≤ (count - (s.q q).head).toNat) :
    Runs (.dbCount m q count) s fun t => (t.q q).prod = count ∧ (t.q q).head = (s.q q).head ∧ (t.q q).fetch = (s.q q).fetch ∧
      (t.q q).st = (s.q q).st ∧ (∀ k, k ≠ q → t.q k = s.q k) ∧ Reports s t := by
  obtain ⟨a, b, w, hself, hothers⟩ := State.offer_accepted m hfit hon
  refine ⟨_, (exec_dbCount hq ha count).trans (congrArg _ (State.dbCountW_offers hr hp count)), ?_⟩
  dsimp only
  rw [hself]
  exact ⟨rfl, rfl, rfl, rfl, hothers, State.offer_reports s m q count (Reports.refl s)⟩

theorem runs_dbCount_refused (hr : s.dbRefused m q = false) (hp : (s.q q).phase = false) {count : Word32}
    (h : (s.q q).slots < (count - (s.q q).head).toNat ∨ (count - (s.q q).head).toNat < ((s.q q).prod - (s.q q).head).toNat) :
    Runs (.dbCount m q count) s fun t => t.q q = { s.q q with dbBad := satInc (s.q q).dbBad } ∧ t.jseq = s.jseq + 1 ∧
      (∀ k, k ≠ q → t.q k = s.q k) ∧ Reports s t := by
  obtain ⟨⟨hself, hothers⟩, hjseq⟩ := State.offer_refused m h
  exact ⟨_, (exec_dbCount hq ha count).trans (congrArg _ (State.dbCountW_offers hr hp count)), hself, hjseq, hothers,
    State.offer_reports s m q count (Reports.refl s)⟩

end Doorbells

/-- Settles O8: each doorbell's branch is taken by what the state says of the queue, and what it then asks for or records leaves the rest of the
queue and every other queue (QOnly). -/
theorem doorbellWrites : Obligations.DoorbellWrites := by
  intro s m q hq ha
  refine ⟨fun hr hp => ⟨fun count => runs_dbCount_accepted hq ha hr hp, fun count => runs_dbCount_refused hq ha hr hp,
    fun v => runs_dbFetch_running hq ha hr hp, fun v => runs_dbFetch_not_running hq ha hr hp⟩, fun hr hp he hread hdie v => ?_, fun hr v => ?_⟩
  · refine runs_doorbell hq ha ?_ ?_
    · rw [State.dbCountW_polls hr hp he hread hdie]
      exact s.askPoll_asks q
    · rw [State.dbFetchW_polls hr hp he hread hdie]
      exact s.askPoll_asks q
  · refine runs_doorbell hq ha ?_ ?_
    · rw [State.dbCountW_refused hr]
      exact s.accFault_leaves m
    · rw [State.dbFetchW_refused hr]
      exact s.accFault_leaves m

end Sys2Proof.Machine
end

section
/-! PROOFS. The queue arbiter (R110, R113, R115, R125): what a turn binds or stops, reads of a queue that come back, and O10. -/

namespace Sys2Proof.Machine
open Sys2Proof

/-! ### The queue whose turn it is -/

theorem State.hasTurn_iff {s : State} {q : Nat} :
    s.hasTurn q = true ↔ s.eligible q = true ∧ 0 < (s.q q).credit ∧ (s.q q).find ≠ .nothing := by
  simp [State.hasTurn, and_assoc]

theorem State.hasTurn_of_nextTurn {s : State} {q : Nat} {qs : List Nat} (h : s.nextTurn qs = some q) : s.hasTurn q = true := by
  unfold State.nextTurn at h
  split at h
  next k hk =>
    obtain rfl := Option.some.inj h
    exact Bool.and_elim_right (List.find?_some (p := fun k => decide (s.turn ≤ k) && s.hasTurn k) hk)
  · exact List.find?_some h

theorem State.die_of_eligible {s : State} {q : Nat} (h : s.eligible q = true) : s.die = .ready := by
  simp only [State.eligible, State.arbiterOn, Bool.and_eq_true, decide_eq_true_eq] at h
  tauto

theorem State.st_of_eligible {s : State} {q : Nat} (h : s.eligible q = true) : (s.q q).st = .running := by
  simp only [State.eligible, Bool.and_eq_true, decide_eq_true_eq] at h
  tauto

/-- The state with the place at which the next search starts (R113). -/
def State.setTurn (s : State) (n : Nat) : State := { s with turn := n }

theorem Reports.setTurn {s t : State} (h : Reports s t) (n : Nat) : Reports (s.setTurn n) (t.setTurn n) := by
  unfold Reports at *
  rw [h]
  rfl

theorem exec_queueTurn {s : State} {q : Nat} (h : s.nextTurn (s.queues.map (·.1)) = some q) :
    exec .queueTurn s = .next ((s.turn1 q).setTurn (q + 1)) := by
  refine congrArg Host.Outcome.next ?_
  unfold State.queueTurn
  dsimp only
  rw [h]
  rfl

theorem burstOf_ne_zero (b : BitVec 6) : burstOf b ≠ 0 := by
  unfold burstOf
  split
  · decide
  · rename_i hb
    exact fun h => hb (BitVec.eq_of_toNat_eq h)

/-! ### The loop of a turn (R113) -/

section Turn

variable {s : State} {q served : Nat}

theorem State.turnLoop_zero (n : Nat) : s.turnLoop q 0 n = s := by
  cases n with
  | zero => rfl
  | succ n => rw [State.turnLoop, if_pos (Or.inl rfl)]

/-- A queue with a turn is served by what the arbiter finds at FETCH. -/
theorem State.turnLoop_goes (hs : served ≠ 0) (ht : s.hasTurn q = true) : ¬ (served = 0 ∨ (s.q q).credit = 0 ∨ (!s.eligible q) = true) := by
  obtain ⟨he, hc, -⟩ := State.hasTurn_iff.mp ht
  simp only [he, hs, Bool.not_true, Bool.false_eq_true, or_false, false_or]
  omega

theorem State.turnLoop_entry (hs : served ≠ 0) (ht : s.hasTurn q = true) {len : Nat} {fence : Bool} (hf : (s.q q).find = .entry len false fence)
    (n : Nat) : s.turnLoop q served (n + 1) = (s.bindEntry q len false fence).turnLoop q (served - 1) n := by
  rw [State.turnLoop, if_neg (State.turnLoop_goes hs ht), hf]
  rfl

theorem State.turnLoop_bad (hs : served ≠ 0) (ht : s.hasTurn q = true) {why : Nat} (hf : (s.q q).find = .bad why) (n : Nat) :
    s.turnLoop q served (n + 1) = s.malformed q why := by
  rw [State.turnLoop, if_neg (State.turnLoop_goes hs ht), hf]

variable {u : State} (hu : s.turnLoop q served ((s.q q).onDie.length + 1) = u)

include hu

/-- After the loop of a turn the arbiter only reads on (R113, R115). -/
theorem State.turnOn_q : ∃ l a b w, QOnly u (s.turnOn q served) q { u.q q with turnLeft := l, wantPcnt := a, reading := b, wantRead := w } := by
  unfold State.turnOn
  dsimp only
  rw [hu]
  split
  · obtain ⟨w, hw⟩ := (u.setQ q { u.q q with turnLeft := served - ((s.q q).credit - (u.q q).credit) }).askSlots_q q (.poll q)
    rw [State.q_setQ] at hw
    exact ⟨_, (u.q q).wantPcnt, true, w, (QOnly.setQ u q _).then hw⟩
  · obtain ⟨a, b, w, hk⟩ := (u.setQ q { u.q q with turnLeft := 0 }).kick_q q
    rw [State.q_setQ] at hk
    exact ⟨0, a, b, w, (QOnly.setQ u q _).then hk⟩

theorem State.turnOn_reports {r : State} (h : Reports r u) : Reports r (s.turnOn q served) := by
  unfold State.turnOn
  dsimp only
  rw [hu]
  exact .ite (State.askPoll_reports _ q (State.updQ_reports u q _ h)) (State.kick_reports _ q (State.updQ_reports u q _ h))

/-- For a queue that its turn has stopped nothing is read (R125). -/
theorem State.turnOn_stopped (hst : (u.q q).st ≠ .running) : s.turnOn q served = u.setQ q { u.q q with turnLeft := 0 } := by
  have hel : u.eligible q = false := by
    cases he : u.eligible q
    · rfl
    · exact absurd (State.st_of_eligible he) hst
  unfold State.turnOn
  dsimp only
  rw [hu, if_neg (by simp [hel])]
  refine State.kick_of_not_running ?_
  rw [State.updQ_def, State.q_setQ]
  exact hst

end Turn

/-! ### An entry bound (R113, R116) -/

theorem State.bindEntry_q (s : State) (q len : Nat) (pad fence : Bool) :
    ∃ a b, QOnly s (s.bindEntry q len pad fence) q { (s.q q).bind len pad fence with lastHead := a, raise := b } := by
  unfold State.bindEntry
  dsimp only
  obtain ⟨u, hu⟩ : ∃ u, u = (s.updQ q fun x => x.bind len pad fence).mirror .queue false
      ((s.updQ q fun x => x.bind len pad fence).queueBody q) := ⟨_, rfl⟩
  have hbound : QOnly s u q ((s.q q).bind len pad fence) := hu ▸ (QOnly.setQ s q _).emits (State.mirror_emits _ _ _ _ (Emits.refl _))
  rw [← hu]
  split
  · obtain ⟨a, b, hw⟩ := u.writeHead_q q
    rw [hbound.1] at hw
    exact ⟨a, b, hbound.then hw⟩
  · exact ⟨((s.q q).bind len pad fence).lastHead, ((s.q q).bind len pad fence).raise, hbound⟩

theorem runs_queueTurn_binds {s : State} {q len : Nat} {fence : Bool} (hn : s.nextTurn (s.queues.map (·.1)) = some q)
    (hb : (s.q q).roundBurst = 1) (hf : (s.q q).find = .entry len false fence) :
    Runs .queueTurn s fun t => (t.q q).bound = (s.q q).bound ++
        [{ cnt := (s.q q).fetch, slots := (s.q q).onDie.take len, applied := false, done := false, dropped := none }] ∧
      (t.q q).fetch = (s.q q).fetch + BitVec.ofNat 32 len ∧ (t.q q).credit = (s.q q).credit - 1 ∧ t.turn = q + 1 ∧
      (∀ k, k ≠ q → t.q k = s.q k) ∧ Reports { s with turn := q + 1 } t := by
  have hburst : burstOf (s.q q).roundBurst = 1 := by
    rw [hb]
    decide
  have hloop : s.turnLoop q 1 ((s.q q).onDie.length + 1) = s.bindEntry q len false fence :=
    (State.turnLoop_entry Nat.one_ne_zero (State.hasTurn_of_nextTurn hn) hf _).trans (State.turnLoop_zero _)
  obtain ⟨a, b, hbind⟩ := s.bindEntry_q q len false fence
  obtain ⟨l, c, d, w, hturn⟩ := State.turnOn_q hloop
  rw [hbind.1] at hturn
  have hall := hbind.then hturn
  have hrep := State.turnOn_reports hloop (State.bindEntry_reports s q len false fence (Reports.refl s))
  refine ⟨_, exec_queueTurn hn, ?_⟩
  unfold State.turn1
  rw [hburst]
  have hself : (((s.turnOn q 1).setTurn (q + 1)).q q) = _ := hall.1
  dsimp only
  rw [hself]
  exact ⟨rfl, rfl, rfl, rfl, hall.others, hrep.setTurn (q + 1)⟩

/-! ### A malformed entry (R124, R125) -/

/-- A queue in ERROR at a count, for a reason (R125). -/
def Queue.ErrorAt (x : Queue) (why : BitVec 4) (errIdx : Word32) : Prop := x.st = .error ∧ x.why = why ∧ x.errIdx = errIdx

theorem Queue.Rests.errorAt {x y : Queue} {why : BitVec 4} {errIdx : Word32} (h : x.Rests y) (hx : x.ErrorAt why errIdx) : y.ErrorAt why errIdx := by
  obtain ⟨hst, hwhy, herr⟩ := hx
  exact ⟨(h.keeps (by rw [hst]; decide)).trans hst, h.why.trans hwhy, h.errIdx.trans herr⟩

theorem State.stopQueue_errorAt (s : State) (q why : Nat) (errIdx : Word32) :
    ((s.stopQueue q why errIdx).q q).ErrorAt (BitVec.ofNat 4 why) errIdx := by
  refine Queue.Rests.errorAt ((State.advance_flows (State.staleSlots_flows (.refl (s.updQ q _)) q) q).queues q) ?_
  rw [State.updQ_def, State.q_setQ]
  exact ⟨rfl, rfl, rfl⟩

/-- A halt leaves the queues (R194). -/
theorem State.haltDie_queues (s : State) : s.haltDie.queues = s.queues := by
  by_cases h : s.die = .halted
  · rw [State.haltDie, if_pos h]
  · rw [(State.haltDie_leaves h).frame]

theorem State.malformed_stops {s : State} {q why : Nat} (h : (s.q q).config = false ∨ ¬ why < 6) :
    s.malformed q why = s.stopQueue q why (s.q q).fetch :=
  if_neg (by rcases h with h | h <;> simp [h])

/-- A malformed entry of a configuration-class queue halts the die with the queue in ERROR at it (R125, R126). -/
theorem State.malformed_halts {s : State} {q why : Nat} (hc : (s.q q).config = true) (hw : why < 6) (hd : s.die ≠ .halted) :
    (s.malformed q why).die = .halted ∧ ((s.malformed q why).q q).ErrorAt (BitVec.ofNat 4 why) (s.q q).fetch := by
  obtain ⟨x, hx⟩ : ∃ x : Queue, x =
      { s.q q with st := .error, why := BitVec.ofNat 4 why, errIdx := (s.q q).fetch, onDie := [], turnLeft := 0, failing := 0 } := ⟨_, rfl⟩
  obtain ⟨u, hu⟩ : ∃ u, u = (if (s.setQ q x).paired then (s.setQ q x).mirror .queue false ((s.setQ q x).queueBody q) else s.setQ q x).journalHost
      (s.qModule q) 2 q (s.q q).fetch.toNat why := ⟨_, rfl⟩
  have hem : Emits (s.setQ q x) u := hu ▸ State.journalHost_emits _ _ _ _ _ _ (.ite (State.mirror_emits _ _ _ _ (Emits.refl _)) (Emits.refl _))
  have heq : s.malformed q why = u.haltDie := by
    rw [hu, hx]
    exact if_pos (by simp [hc, hw])
  have hdie : u.die ≠ .halted := by
    rw [hem]
    exact hd
  have hq : u.haltDie.q q = x := by
    unfold State.q
    rw [u.haltDie_queues, hem.queues]
    exact State.q_setQ s q x
  rw [heq, hq, hx]
  exact ⟨(State.haltDie_leaves hdie).die, rfl, rfl, rfl⟩

theorem State.malformed_errorAt {s : State} {q why : Nat} (hd : s.die ≠ .halted) :
    ((s.malformed q why).q q).ErrorAt (BitVec.ofNat 4 why) (s.q q).fetch := by
  by_cases h : (s.q q).config = true ∧ why < 6
  · obtain ⟨hc, hw⟩ := h
    exact (State.malformed_halts hc hw hd).2
  · rw [State.malformed_stops]
    · exact s.stopQueue_errorAt q why _
    · rwa [not_and_or, Bool.not_eq_true] at h

theorem runs_queueTurn_stops {s : State} {q why : Nat} (hn : s.nextTurn (s.queues.map (·.1)) = some q) (hf : (s.q q).find = .bad why) :
    Runs .queueTurn s fun t => (t.q q).st = .error ∧ (t.q q).why = BitVec.ofNat 4 why ∧ (t.q q).errIdx = (s.q q).fetch ∧
      ((s.q q).config = false → Reports { s with turn := q + 1 } t) ∧ ((s.q q).config = true → why < 6 → t.die = .halted) := by
  have ht := State.hasTurn_of_nextTurn hn
  have hdie : s.die ≠ .halted := by
    rw [State.die_of_eligible (State.hasTurn_iff.mp ht).1]
    decide
  have hloop := State.turnLoop_bad (burstOf_ne_zero (s.q q).roundBurst) ht hf (s.q q).onDie.length
  obtain ⟨hst, hwhy, herr⟩ := State.malformed_errorAt (q := q) (why := why) hdie
  have hend : s.turn1 q = (s.malformed q why).setQ q { (s.malformed q why).q q with turnLeft := 0 } :=
    State.turnOn_stopped hloop (by rw [hst]; decide)
  have hself : ((s.turn1 q).setTurn (q + 1)).q q = { (s.malformed q why).q q with turnLeft := 0 } := by
    rw [hend]
    exact State.q_setQ _ q _
  refine ⟨_, exec_queueTurn hn, ?_⟩
  dsimp only
  rw [hself]
  refine ⟨hst, hwhy, herr, fun hc => ?_, fun hc hw => ?_⟩
  · refine Reports.setTurn (State.turnOn_reports hloop ?_) (q + 1)
    rw [State.malformed_stops (.inl hc)]
    exact State.stopQueue_reports s q why _ (Reports.refl s)
  · rw [hend]
    exact (State.malformed_halts hc hw hdie).1

theorem runs_phasePoll {s : State} {q : Nat} (he : s.eligible q = true) (hp : (s.q q).phase = true) (hread : (s.q q).reading = false)
    (hdie : (s.q q).onDie = []) :
    Runs (.phasePoll q) s fun t => t.q q = { s.q q with reading := true, wantRead := (t.q q).wantRead } ∧
      ((t.q q).wantRead = some (.poll q) ∨ ∃ r ∈ (t.link (s.qModule q)).reads ++ (t.link (s.qModule q)).waiting, r.req = .poll q) ∧
      (∀ k, k ≠ q → t.q k = s.q k) ∧ Reports s t :=
  ⟨_, congrArg Host.Outcome.next (if_pos (by simp [he, hp, hread, hdie])), s.askPoll_asks q⟩

/-! ### Reads of a queue that come back (R105, R115) -/

theorem State.endRead_emits {s u : State} {md : Nat} {p : ReadReq → Bool} {r : HostRead} (h : s.endRead md p = some (r, u)) : Emits s u := by
  unfold State.endRead at h
  split at h
  · cases h
  · obtain ⟨-, rfl⟩ := Prod.mk.inj (Option.some.inj h)
    exact State.pumpAll_emits _ md (State.updLink_emits s md _ (Emits.refl s))

theorem State.endReadAny_emits {s u : State} {p : ReadReq → Bool} {r : HostRead} (h : s.endReadAny p = some (r, u)) : Emits s u := by
  unfold State.endReadAny at h
  split at h
  next x hx =>
    obtain rfl := Option.some.inj h
    exact State.endRead_emits hx
  · exact State.endRead_emits h

theorem runs_pcntReadComplete {s u : State} {q : Nat} {count : Word32} {r : HostRead} (hr : s.endReadAny (fun r => r = .pcnt q) = some (r, u))
    (hdis : (s.q q).st ≠ .disabled) (hdrain : (s.q q).st ≠ .draining) (hfit : (count - (s.q q).head).toNat ≤ (s.q q).slots)
    (hon : ((s.q q).prod - (s.q q).head).toNat ≤ (count - (s.q q).head).toNat) :
    Runs (.pcntReadComplete q count) s fun t => (t.q q).prod = count ∧ (t.q q).head = (s.q q).head ∧ (t.q q).fetch = (s.q q).fetch ∧
      (∀ k, k ≠ q → t.q k = s.q k) ∧ Reports s t := by
  have hem := State.endReadAny_emits hr
  have hq : u.q q = s.q q := hem.q q
  have hrun : exec (.pcntReadComplete q count) s = .next (u.offer (u.qModule q) q count) := by
    refine congrArg Host.Outcome.next ?_
    rw [hr]
    exact if_neg (by rw [hq]; tauto)
  rw [← hq] at hfit hon
  obtain ⟨a, b, w, hoffer⟩ := State.offer_accepted (u.qModule q) hfit hon
  refine ⟨_, hrun, ?_⟩
  dsimp only
  rw [hoffer.1, hq]
  exact ⟨rfl, rfl, rfl, fun k hk => (hoffer.others k hk).trans (hem.q k), State.offer_reports u _ q count hem.reports⟩

/-- Where no other queue's read waits for a place, only the queue's own is issued (R115). -/
theorem State.slotsGo_q {s : State} {q : Nat} (h : ∀ k, k ≠ q → (s.q k).wantRead = none) :
    ∃ b w, QOnly s s.slotsGo q { s.q q with reading := b, wantRead := w } := by
  refine State.each_induction (P := fun t => ∃ b w, QOnly s t q { s.q q with reading := b, wantRead := w }) _
    ⟨(s.q q).reading, (s.q q).wantRead, QOnly.refl s q⟩ ?_
  rintro t k ⟨b, w, ht⟩
  dsimp only
  split
  · exact ⟨b, w, ht⟩
  next r hr =>
    by_cases hk : k = q
    · subst hk
      obtain ⟨w', hw⟩ := t.askSlots_q k r
      rw [ht.1] at hw
      exact ⟨true, w', ht.then hw⟩
    · rw [ht.others k hk, h k hk] at hr
      cases hr

theorem State.takeUpAll_of_none {s : State} (h : ∀ e ∈ s.chans, e.2.takeDue = false) : s.takeUpAll = s := by
  have hnone : (s.chans.filter fun e => e.2.takeDue) = [] := by
    rw [List.filter_eq_nil_iff]
    intro e he
    simp [h e he]
  unfold State.takeUpAll
  rw [hnone]
  exact ite_self s

theorem State.wantRead_of_none {s : State} (h : ∀ e ∈ s.queues, e.2.wantRead = none) (k : Nat) : (s.q k).wantRead = none := by
  rcases Table.get_eq_or_mem s.queues {} k with hd | hm
  · rw [State.q, hd]
  · exact h _ hm

theorem State.setQ_setQ (s : State) (q : Nat) (x y : Queue) : (s.setQ q x).setQ q y = s.setQ q y := by
  unfold State.setQ
  rw [Table.set_set]

/-- A queue whose read has come back with slots, which join those on die (R115). -/
def Queue.joined (x : Queue) (l : List (BitVec 128)) : Queue := { x with reading := false, onDie := x.onDie ++ l }

/-- Slots that come back in turn for a running queue join those on die, and the arbiter reads on (R115). -/
theorem State.slotsArrive_running {s : State} {q : Nat} {c : Word32} (n : Nat) (slots : List (BitVec 128))
    (hc : c = (s.q q).fetch + BitVec.ofNat 32 (s.q q).onDie.length) (hst : (s.q q).st = .running) (hfail : (s.q q).failing = 0)
    (hleft : (s.q q).turnLeft = 0) :
    s.slotsArrive q (.desc q c n false) slots = (s.setQ q ((s.q q).joined (slots.take n))).kick q := by
  unfold State.slotsArrive
  dsimp only
  rw [State.updQ_def, State.q_setQ, if_pos hc, State.setQ_setQ]
  unfold State.slotsActed
  rw [State.q_setQ]
  simp [hst, hfail, hleft, Queue.joined]

/-- Slots that come back in turn for a running queue, where no other queue's read waits for a place, change only what is on die of that queue and
what is out for it (R115). -/
theorem State.slotsBack_running {s u : State} {q n : Nat} {c : Word32} {r : HostRead} (slots : List (BitVec 128))
    (hr : s.endReadAny (isSlotReq q) = some (r, u)) (hreq : r.req = .desc q c n false)
    (hc : c = (s.q q).fetch + BitVec.ofNat 32 (s.q q).onDie.length) (hst : (s.q q).st = .running) (hfail : (s.q q).failing = 0)
    (hleft : (s.q q).turnLeft = 0) (hwant : ∀ e ∈ s.queues, e.2.wantRead = none) :
    (∃ a b w, QOnly s (s.slotsBack q slots) q { (s.q q).joined (slots.take n) with wantPcnt := a, reading := b, wantRead := w }) ∧
      Reports s (s.slotsBack q slots) := by
  have hem := State.endReadAny_emits hr
  have hq : u.q q = s.q q := hem.q q
  obtain ⟨v, hv⟩ : ∃ v, v = (u.setQ q ((s.q q).joined (slots.take n))).kick q := ⟨_, rfl⟩
  have hback : s.slotsBack q slots = v.slotsGo := by
    rw [← hq] at hc hst hfail hleft hv
    unfold State.slotsBack
    rw [hr]
    dsimp only
    rw [hreq, hv, State.slotsArrive_running n slots hc hst hfail hleft]
  obtain ⟨a, b, w, hkick⟩ := (u.setQ q ((s.q q).joined (slots.take n))).kick_q q
  rw [State.q_setQ, ← hv] at hkick
  have hended : QOnly s u q (s.q q) := (QOnly.refl s q).emits hem
  have hjoined := (hended.then (QOnly.setQ u q _)).then hkick
  obtain ⟨b', w', hgo⟩ := State.slotsGo_q (s := v) (q := q) fun k hk => by
    rw [hjoined.others k hk]
    exact State.wantRead_of_none hwant k
  rw [hjoined.1] at hgo
  rw [hback]
  exact ⟨⟨a, b', w', hjoined.then hgo⟩, State.slotsGo_reports v (hv ▸ State.kick_reports _ q (State.setQ_reports u q _ hem.reports))⟩

theorem runs_descriptorReadComplete {s u : State} {q n : Nat} {c : Word32} {r : HostRead} (slots : List (BitVec 128))
    (hr : s.endReadAny (isSlotReq q) = some (r, u)) (hreq : r.req = .desc q c n false)
    (hc : c = (s.q q).fetch + BitVec.ofNat 32 (s.q q).onDie.length) (hst : (s.q q).st = .running) (hfail : (s.q q).failing = 0)
    (hleft : (s.q q).turnLeft = 0) (hwant : ∀ e ∈ s.queues, e.2.wantRead = none) (hdue : ∀ e ∈ s.chans, e.2.takeDue = false) (hn : s.noneWait) :
    Runs (.descriptorReadComplete q slots) s fun t => (t.q q).onDie = (s.q q).onDie ++ slots.take n ∧ (t.q q).fetch = (s.q q).fetch ∧
      (t.q q).bound = (s.q q).bound ∧ (∀ k, k ≠ q → t.q k = s.q k) ∧ Reports s t := by
  obtain ⟨⟨a, b, w, hself, hothers⟩, hrep⟩ := State.slotsBack_running slots hr hreq hc hst hfail hleft hwant
  have hchans : (s.slotsBack q slots).chans = s.chans := by rw [hrep]
  have hrun : exec (.descriptorReadComplete q slots) s = .next (s.slotsBack q slots) := by
    refine congrArg Host.Outcome.next ?_
    rw [State.takeUpAll_of_none (hchans ▸ hdue), State.served_of_noneWait (hrep.noneWait hn)]
  refine ⟨_, hrun, ?_⟩
  dsimp only
  rw [hself]
  exact ⟨rfl, rfl, rfl, hothers, hrep⟩

/-- Settles O10: a turn goes through what the arbiter finds at FETCH (bindEntry, malformed) and reads on (turnOn_q); reads that come back end in a
count offered or in slots that join those on die. -/
theorem arbiterCommands : Obligations.ArbiterCommands := fun _ _ =>
  ⟨fun _ _ hn hb hf => runs_queueTurn_binds hn hb hf, fun _ hn hf => runs_queueTurn_stops hn hf,
    fun he hp hread hdie => runs_phasePoll he hp hread hdie,
    fun slots _ _ _ _ hr hreq hc hst hfail hleft hwant hdue hn => runs_descriptorReadComplete slots hr hreq hc hst hfail hleft hwant hdue hn,
    fun _ _ _ hr hdis hdrain hfit hon => runs_pcntReadComplete hr hdis hdrain hfit hon⟩

end Sys2Proof.Machine
end

section
/-! PROOFS. FENCE, NOTE and PAD (R101, R116, R118, R123): what a finished entry leaves of its queue, what the fences that finish after it leave,
and O13. -/

namespace Sys2Proof.Machine
open Sys2Proof

/-! ### Work on one queue leaves the others -/

/-- From s to t no queue but q has changed. -/
def OthersKept (q : Nat) (s t : State) : Prop := ∀ k, k ≠ q → t.q k = s.q k

section Others

variable {r s : State} {q : Nat}

theorem OthersKept.refl (s : State) (q : Nat) : OthersKept q s s := fun _ _ => rfl

theorem OthersKept.trans {t : State} (h : OthersKept q r s) (g : OthersKept q s t) : OthersKept q r t := fun k hk => (g k hk).trans (h k hk)

theorem OthersKept.emits {t : State} (h : OthersKept q r s) (e : Emits s t) : OthersKept q r t := h.trans fun k _ => e.q k

theorem OthersKept.setQ (h : OthersKept q r s) (x : Queue) : OthersKept q r (s.setQ q x) := h.trans (QOnly.setQ s q x).others

variable (h : OthersKept q r s)

include h

theorem State.writeHead_others : OthersKept q r (s.writeHead q) := by
  obtain ⟨a, b, hw⟩ := s.writeHead_q q
  exact h.trans hw.others

theorem State.advance0_others : OthersKept q r (s.advance0 q) := by
  unfold State.advance0
  dsimp only
  split
  · exact State.writeHead_others h
  · exact State.writeHead_others (h.setQ _)

theorem State.enterEntry_others (cnt : Word32) (b : List Byte) : OthersKept q r (s.enterEntry q cnt b) := by
  have hsend : OthersKept q r (s.send (s.qModule q) (.entry q cnt) ((s.q q).statAddr cnt) (stampFrame b s.frameLo) false) :=
    h.emits (State.send_emits s _ _ _ _ _ (Emits.refl s))
  unfold State.enterEntry
  dsimp only
  split
  · exact hsend
  · exact State.advance0_others (hsend.setQ _)

theorem State.finish0_others (cnt : Word32) (x : StatusRec) : OthersKept q r (s.finish0 q cnt x) := by
  unfold State.finish0 State.putRec
  dsimp only
  split
  · exact h.trans fun _ _ => rfl
  · split
    · exact h.emits (State.gateRec_emits _ _ _ _ (State.mirror_emits _ _ _ _ (Emits.refl s)))
    · exact State.enterEntry_others h cnt _

theorem State.finishFence_others (f : Word32) (detail : Nat) : OthersKept q r (s.finishFence q f detail) := by
  unfold State.finishFence
  split
  · exact h.setQ _
  · split
    · exact h
    · exact State.finish0_others (h.setQ _) f _

end Others

/-! ### A queue that HEAD has passed (R118) -/

/-- HEAD of a queue has passed every entry bound and stands at a count (R118). -/
def Queue.PassedTo (x : Queue) (head : Word32) : Prop := x.bound = [] ∧ x.head = head

section Passed

variable {s : State} {q : Nat}

/-- A fence that finishes changes no queue that has nothing bound but for the fence that it waits at (R123). -/
theorem State.finishFence_passedTo {head : Word32} (h : (s.q q).PassedTo head) (k : Nat) (f : Word32) (detail : Nat) :
    ((s.finishFence k f detail).q q).PassedTo head := by
  by_cases hk : q = k
  · subst hk
    obtain ⟨hbound, hhead⟩ := h
    have hnone : (s.q q).entryAt f = none := by rw [Queue.entryAt, hbound, List.find?_nil]
    unfold State.finishFence
    rw [hnone]
    dsimp only
    rw [State.updQ_def, State.q_setQ]
    exact ⟨hbound, hhead⟩
  · rw [State.finishFence_others (OthersKept.refl s k) f detail q hk]
    exact h

theorem State.settle_passedTo {head : Word32} (h : (s.q q).PassedTo head) (n : Nat) : ((s.settle n).q q).PassedTo head := by
  induction n generalizing s with
  | zero => exact h
  | succ n ih =>
    unfold State.settle
    split
    · exact h
    · exact ih (State.finishFence_passedTo h _ _ 0)

theorem passDone_done (e : Entry) (h : e.done = true) : passDone [e] = ([], hdrIe e.hdr && !e.isPad) := by
  simp [passDone, h]

/-- HEAD passes the only entry bound once it is done, and stands at FETCH (R118). -/
theorem State.advance0_passedTo {e : Entry} (hr : (s.q q).retake = false) (hb : (s.q q).bound = [e]) (hd : e.done = true) :
    ((s.advance0 q).q q).PassedTo (s.q q).fetch := by
  unfold State.advance0
  dsimp only
  rw [hr, if_neg Bool.false_ne_true, hb, passDone_done e hd]
  obtain ⟨a, b, hw⟩ := State.writeHead_q (s.setQ q _) q
  rw [hw.1, State.q_setQ]
  split
  · exact ⟨rfl, rfl⟩
  · exact ⟨rfl, rfl⟩

/-- A queue whose only bound entry is finished is passed to FETCH (R118). -/
theorem State.markDone_passedTo {e : Entry} (hr : (s.q q).retake = false) (hb : (s.q q).bound = [e]) :
    (((s.markDone q e.cnt).advance0 q).q q).PassedTo (s.q q).fetch := by
  have hx : (s.markDone q e.cnt).q q = _ := State.q_setQ s q _
  have hpassed := State.advance0_passedTo (s := s.markDone q e.cnt) (q := q) (e := { e with done := true, applied := true })
    (by rw [hx]; exact hr) (by rw [hx]; simp [hb]) rfl
  rwa [hx] at hpassed

theorem EgKind.stays_entry (q : Nat) (cnt : Word32) : (EgKind.entry q cnt).Stays := fun _ h => EgKind.noConfusion h

/-- Where no gate holds it back and its module's traffic flows, the record of the only entry bound enters the egress queue, and HEAD passes
the entry (R118, R177, R192). -/
theorem State.finish0_open {e : Entry} (hg : s.gates = false) (hh : s.hold = false) (hheld : s.heldAt (s.qModule q) = false)
    (hr : (s.q q).retake = false) (hb : (s.q q).bound = [e]) (x : StatusRec) :
    ((s.finish0 q e.cnt x).q q).PassedTo (s.q q).fetch ∧
      (s.finish0 q e.cnt x).Queued (s.qModule q) (.entry q e.cnt) ((s.q q).statAddr e.cnt) := by
  obtain ⟨u, hu⟩ : ∃ u, u = s.send (s.qModule q) (.entry q e.cnt) ((s.q q).statAddr e.cnt) (stampFrame (x.bytes 0) s.frameLo) false := ⟨_, rfl⟩
  have hem : Emits s u := hu ▸ State.send_emits s _ _ _ _ _ (Emits.refl s)
  have hqueued : u.Queued (s.qModule q) (.entry q e.cnt) ((s.q q).statAddr e.cnt) := hu ▸ State.send_queued hheld _ _ _ _
  have hend : s.finish0 q e.cnt x = (u.markDone q e.cnt).advance0 q := by
    unfold State.finish0 State.putRec State.enterEntry
    dsimp only
    rw [hg, hh, hheld, hu, if_neg Bool.false_ne_true, if_neg Bool.false_ne_true, if_neg Bool.false_ne_true]
  have hq : u.q q = s.q q := hem.q q
  rw [← hq] at hr hb
  rw [hend]
  refine ⟨?_, hqueued.flows (EgKind.stays_entry q e.cnt) (State.advance0_flows (State.markDone_flows (.refl u) q e.cnt) q)⟩
  rw [← hq]
  exact State.markDone_passedTo hr hb

end Passed

/-! ### Rows -/

/-- The record of a NOTE, with its VALUE (R101). -/
def Entry.noteRec (e : Entry) : StatusRec := { tag := hdrTag e.hdr, status := stOk, kind := 1, detail := bitsOf e.hdr 32 32 }

section Rows

variable {s : State} {q : Nat} {e : Entry}

theorem exec_note (h : s.nextEntry q 0x07 = some e) : exec (.note q) s = .next ((s.markApplied q e.cnt).finish q e.cnt e.noteRec) := by
  refine congrArg Host.Outcome.next ?_
  rw [h]
  rfl

theorem exec_pad (h : s.nextEntry q 0x0F = some e) : exec (.pad q) s = .next ((s.markDone q e.cnt).advance q) := by
  refine congrArg Host.Outcome.next ?_
  rw [h]

theorem exec_fence (h : s.nextEntry q 0x06 = some e) : exec (.fence q) s = .next ((s.markApplied q e.cnt).writeHead q).settled := by
  refine congrArg Host.Outcome.next ?_
  rw [h]

theorem runs_note (hr : (s.q q).retake = false) (hn : s.nextEntry q 0x07 = some e) (hb : (s.q q).bound = [e]) (hg : s.gates = false)
    (hh : s.hold = false) (hheld : s.heldAt (s.qModule q) = false) :
    Runs (.note q) s fun t => (t.q q).bound = [] ∧ (t.q q).head = (s.q q).fetch ∧
      (∃ w ∈ (t.link (s.qModule q)).queue, w.kind = .entry q e.cnt ∧ w.addr = (s.q q).statAddr e.cnt) ∧ Reports s t := by
  obtain ⟨t, ht⟩ : ∃ t, t = s.markApplied q e.cnt := ⟨_, rfl⟩
  have hx : t.q q = { s.q q with bound := [{ e with applied := true }] } := by
    rw [ht, State.markApplied, State.updQ_def, State.q_setQ, hb]
    simp
  have hmod : t.qModule q = s.qModule q := ht ▸ ((Flows.refl s).setQ (.same (by rfl))).qModule q
  obtain ⟨hpassed, hqueued⟩ := State.finish0_open (s := t) (q := q) (e := { e with applied := true }) (by rw [ht]; exact hg) (by rw [ht]; exact hh)
    (by rw [hmod, ht]; exact hheld) (by rw [hx]; exact hr) (by rw [hx]) e.noteRec
  rw [hx] at hpassed hqueued
  rw [hmod] at hqueued
  obtain ⟨hbound, hhead⟩ := State.settle_passedTo hpassed _
  exact ⟨_, (exec_note hn).trans (by rw [← ht]; rfl), hbound, hhead, hqueued.flows (EgKind.stays_entry q e.cnt) (State.settled_flows (.refl _)),
    State.finish_reports t q e.cnt e.noteRec (ht ▸ State.markApplied_reports s q e.cnt (Reports.refl s))⟩

theorem runs_pad (hr : (s.q q).retake = false) (hn : s.nextEntry q 0x0F = some e) (hb : (s.q q).bound = [e]) :
    Runs (.pad q) s fun t => (t.q q).bound = [] ∧ (t.q q).head = (s.q q).fetch ∧ Reports s t := by
  obtain ⟨hbound, hhead⟩ := State.settle_passedTo (State.markDone_passedTo hr hb) _
  exact ⟨_, exec_pad hn, hbound, hhead, State.advance_reports _ q (State.markDone_reports s q e.cnt (Reports.refl s))⟩

/-- Where no fence's conditions hold, none finishes (R123). -/
theorem State.settled_of_none (h : s.readyFences = []) : s.settled = s := by
  unfold State.settled
  generalize (s.queues.filter fun e => e.2.fence.isSome).length = n
  cases n with
  | zero => rfl
  | succ n => rw [State.settle, h]

theorem runs_fence (hn : s.nextEntry q 0x06 = some e)
    (hf : ((s.markApplied q e.cnt).writeHead q).readyFences = []) :
    Runs (.fence q) s fun t => (t.q q).bound = (s.q q).bound.map (fun x => if x.cnt = e.cnt then { x with applied := true } else x) ∧
      (t.q q).fence = (s.q q).fence ∧ (∀ k, k ≠ q → t.q k = s.q k) ∧ Reports s t := by
  obtain ⟨a, b, hw⟩ := (s.markApplied q e.cnt).writeHead_q q
  have happlied : QOnly s (s.markApplied q e.cnt) q _ := QOnly.setQ s q _
  rw [happlied.1] at hw
  have hall := happlied.then hw
  refine ⟨_, (exec_fence hn).trans (congrArg _ (State.settled_of_none hf)), ?_⟩
  dsimp only
  rw [hall.1]
  exact ⟨rfl, rfl, hall.others, State.writeHead_reports _ q (State.markApplied_reports s q e.cnt (Reports.refl s))⟩

end Rows

/-- Settles O13: a finished entry that is the only one bound is passed by HEAD, and the fences that finish after it leave that and its record
(PassedTo, Flows). -/
theorem queueDirectedEntries : Obligations.QueueDirectedEntries := fun _ _ _ hr =>
  ⟨fun hn hb hg hh hheld => runs_note hr hn hb hg hh hheld, fun hn hb => runs_pad hr hn hb, fun hn hf => runs_fence hn hf⟩

end Sys2Proof.Machine
end

section
/-! PROOFS. What the work of a channel's program leaves: the parts of the die that no program touches, the other channels, and how a program
ends (R138, R141, R154, R165 to R177). -/

namespace Sys2Proof.Machine
open Sys2Proof

/-! ### What no program touches -/

/-- The parts of a state that neither a program on a channel nor a report changes. -/
abbrev State.apart (s : State) :=
  (s.pending, s.mem, s.die, s.mode, s.carry, s.turn, s.frm, s.cores, s.libs, s.mbxs, s.sendRes, s.sems, s.scrs, s.vmods, s.targets, s.aq, s.commits,
   s.turns, s.prm, s.hold, s.kmd, s.tap, s.lowHeld, s.upKept, s.porLow, s.warmLow, s.readOut, s.readData, s.eccCount)

theorem ProgramWork.iff {s t : State} : ProgramWork s t ↔ t.apart = s.apart := by
  constructor
  · intro h
    unfold ProgramWork Reports at h
    rw [h]
  · intro h
    simp only [State.apart, Prod.mk.injEq] at h
    obtain ⟨h1, h2, h3, h4, h5, h6, h7, h8, h9, h10, h11, h12, h13, h14, h15, h16, h17, h18, h19, h20, h21, h22, h23, h24, h25, h26, h27, h28, h29⟩ := h
    unfold ProgramWork Reports
    cases s
    cases t
    simp_all

theorem Reports.apart {s t : State} (h : Reports s t) : t.apart = s.apart := by
  unfold Reports at h
  rw [h]

theorem Reports.chans {s t : State} (h : Reports s t) : t.chans = s.chans := by
  unfold Reports at h
  rw [h]

theorem Reports.chan {s t : State} (h : Reports s t) (k : Nat) : t.chan k = s.chan k := by
  unfold State.chan
  rw [h.chans]

theorem Reports.hawk {s t : State} (h : Reports s t) : t.hawk = s.hawk := by
  unfold Reports at h
  rw [h]

theorem ProgramOf.refl (s : State) (ch : Nat) : ProgramOf s s ch := ⟨ProgramWork.iff.mpr rfl, fun _ _ => rfl⟩

section Work

variable {r s t : State} {ch : Nat}

theorem ProgramOf.apart (h : ProgramOf s t ch) : t.apart = s.apart := ProgramWork.iff.mp h.1

theorem ProgramOf.trans (h : ProgramOf r s ch) (g : ProgramOf s t ch) : ProgramOf r t ch :=
  ⟨ProgramWork.iff.mpr (g.apart.trans h.apart), fun k hk => (g.2 k hk).trans (h.2 k hk)⟩

/-- An update that leaves the channels and what no program touches. -/
theorem ProgramOf.same (h : ProgramOf r s ch) (e : t.apart = s.apart) (hc : t.chans = s.chans) : ProgramOf r t ch :=
  h.trans ⟨ProgramWork.iff.mpr e, fun k _ => by rw [State.chan, State.chan, hc]⟩

end Work

theorem State.goChan_chan (s : State) (ch : Nat) (f : Chan → Chan) : (s.goChan ch f).chan ch = f (s.chan ch) := by
  have he : Emits (s.updChan ch f) (s.goChan ch f) := State.mirrorCh_emits _ ch (Emits.refl _)
  rw [he.reports.chan, State.updChan_def, State.chan_setChan]

theorem State.goChan_reports (s : State) (ch : Nat) (f : Chan → Chan) : Reports (s.setChan ch (f (s.chan ch))) (s.goChan ch f) :=
  (State.mirrorCh_emits (s.updChan ch f) ch (Emits.refl _)).reports

/-! ### Cells that go back -/

/-- From s to t only the cells of the Hawk have changed, and not the requests that wait for them. -/
def CellsOnly (s t : State) : Prop := t = s.setHawk t.hawk ∧ t.hawk.waits = s.hawk.waits

theorem CellsOnly.refl (s : State) : CellsOnly s s := ⟨rfl, rfl⟩

theorem CellsOnly.trans {r s t : State} (h : CellsOnly r s) (g : CellsOnly s t) : CellsOnly r t := by
  obtain ⟨hs, hw⟩ := h
  obtain ⟨gs, gw⟩ := g
  refine ⟨?_, gw.trans hw⟩
  rw [hs] at gs
  exact gs

theorem State.setCell_cellsOnly (s : State) (k : Nat) (c : CellSt) (a : Nat) : CellsOnly s (s.setCell k c a) := ⟨rfl, rfl⟩

theorem State.freeOne_cellsOnly (s : State) (k : Nat) : CellsOnly s (s.freeOne k) := by
  unfold State.freeOne
  split
  · exact .refl s
  · exact s.setCell_cellsOnly k _ _

theorem State.withdraw_cellsOnly (s : State) (k : Nat) : CellsOnly s (s.withdraw k) := ⟨rfl, rfl⟩

theorem CellsOnly.each {α : Type} {r s : State} (h : CellsOnly r s) (l : List α) {f : State → α → State} (hf : ∀ u a, CellsOnly u (f u a)) :
    CellsOnly r (s.each l f) := State.each_induction (P := CellsOnly r) l h fun u a hu => hu.trans (hf u a)

theorem State.freeChain_cellsOnly (s : State) (owner : CellSt) (head : Nat) : CellsOnly s (s.freeChain owner head) := by
  have hfree : CellsOnly s (s.each (s.chainCells head (s.hawk.cells.length + 1)).1 fun s k => if s.cell k = owner then s.freeOne k else s) :=
    (CellsOnly.refl s).each _ fun u k => by
      split
      · exact u.freeOne_cellsOnly k
      · exact .refl u
  unfold State.freeChain
  dsimp only
  split
  · exact hfree
  · exact hfree.each _ State.withdraw_cellsOnly

theorem State.freeCells_cellsOnly (s : State) (l : List Nat) : CellsOnly s (s.freeCells l) :=
  ((CellsOnly.refl s).each _ State.freeOne_cellsOnly).each _ State.withdraw_cellsOnly

/-! ### One channel as it stands -/

/-- From s to t a channel has become x, and else only the reports have changed. -/
structure ChanTo (s t : State) (ch : Nat) (x : Chan) : Prop where
  reports : Reports { s with chans := t.chans } t
  chan : t.chan ch = x
  others : ∀ k, k ≠ ch → t.chan k = s.chan k

section ChanTo

variable {s t u : State} {ch : Nat} {x : Chan}

theorem ChanTo.refl (s : State) (ch : Nat) : ChanTo s s ch (s.chan ch) := ⟨rfl, rfl, fun _ _ => rfl⟩

theorem ChanTo.report (h : ChanTo s t ch x) (g : Reports t u) : ChanTo s u ch x := by
  refine ⟨?_, (g.chan ch).trans h.chan, fun k hk => (g.chan k).trans (h.others k hk)⟩
  rw [g.chans]
  exact h.reports.trans g

theorem ChanTo.setChan (h : ChanTo s t ch x) (y : Chan) : ChanTo s (t.setChan ch y) ch y := by
  refine ⟨?_, t.chan_setChan ch y, fun k hk => (t.chan_setChan_ne ch k y hk).trans (h.others k hk)⟩
  have hr := h.reports
  unfold Reports State.setChan at *
  conv_lhs => rw [hr]

theorem ChanTo.updChan (h : ChanTo s t ch x) (f : Chan → Chan) : ChanTo s (t.updChan ch f) ch (f x) := by
  rw [State.updChan_def, h.chan]
  exact h.setChan _

theorem ChanTo.goChan (h : ChanTo s t ch x) (f : Chan → Chan) : ChanTo s (t.goChan ch f) ch (f x) :=
  (h.updChan f).report (State.mirrorCh_emits _ ch (Emits.refl _)).reports

/-- A channel of a state that only reports separate from the first. -/
theorem ChanTo.of_reports (h : ChanTo t u ch x) (g : Reports s t) : ChanTo s u ch x := by
  refine ⟨?_, h.chan, fun k hk => (h.others k hk).trans (g.chan k)⟩
  have hr := h.reports
  unfold Reports at g
  rw [g] at hr
  exact hr

end ChanTo

/-- A channel's chain is freed: the channel has none, and else only cells have changed (R141). -/
theorem State.freeChChain_to (s : State) (ch : Nat) : ∃ h : Hawk, h.waits = s.hawk.waits ∧ (s.freeChChain ch).hawk = h ∧
    ChanTo (s.setHawk h) (s.freeChChain ch) ch { s.chan ch with chain := none } := by
  unfold State.freeChChain
  split
  next hn =>
    have hx : ({ s.chan ch with chain := none } : Chan) = s.chan ch := by rw [← hn]
    rw [hx]
    exact ⟨s.hawk, rfl, rfl, .refl s ch⟩
  next c _ =>
    obtain ⟨hs, hw⟩ := s.freeChain_cellsOnly (.chain ch) c
    have hto := (ChanTo.refl (s.freeChain (.chain ch) c) ch).updChan fun c => { c with chain := none }
    have hx : (s.freeChain (.chain ch) c).chan ch = s.chan ch := by
      rw [hs]
      rfl
    rw [hx] at hto
    exact ⟨(s.freeChain (.chain ch) c).hawk, hw, rfl, hs ▸ hto⟩

end Sys2Proof.Machine
end

section
/-! PROOFS. How a program ends: its FINAL record, its end state, and the entries that waited at its channel (R136, R138, R168, R174). -/

namespace Sys2Proof.Machine
open Sys2Proof

/-! ### A program at work, with its channel as it stands -/

/-- From s to t programs did work, of the channels only one was written, which stands as x, and ws are the requests that wait for cells. -/
structure Worked (s t : State) (ch : Nat) (x : Chan) (ws : List GrantWait) : Prop where
  apart : t.apart = s.apart
  chans : (t.chans = s.chans ∧ s.chan ch = x) ∨ t.chans = s.chans.set ch x
  waits : t.hawk.waits = ws

section Worked

variable {r s t : State} {ch : Nat} {x : Chan} {ws : List GrantWait}

theorem Worked.refl (s : State) (ch : Nat) : Worked s s ch (s.chan ch) s.hawk.waits := ⟨rfl, .inl ⟨rfl, rfl⟩, rfl⟩

theorem Worked.hold (h : Worked s t ch x ws) : t.hold = s.hold := by
  have ha := h.apart
  simp only [State.apart, Prod.mk.injEq] at ha
  simp only [ha]

theorem Worked.chan (h : Worked s t ch x ws) : t.chan ch = x := by
  unfold State.chan
  rcases h.chans with ⟨hc, hx⟩ | hc
  · rw [hc]
    exact hx
  · rw [hc, Table.get_set_same]

theorem Worked.prog (h : Worked s t ch x ws) : ProgramOf s t ch := by
  refine ⟨ProgramWork.iff.mpr h.apart, fun k hk => ?_⟩
  unfold State.chan
  rcases h.chans with ⟨hc, -⟩ | hc
  · rw [hc]
  · rw [hc, Table.get_set_ne _ _ _ hk]

/-- An update of what programs change besides channels and requests for cells. -/
theorem Worked.same (h : Worked r s ch x ws) (e : t.apart = s.apart) (hc : t.chans = s.chans) (hw : t.hawk.waits = s.hawk.waits) : Worked r t ch x ws :=
  ⟨e.trans h.apart, hc ▸ h.chans, hw.trans h.waits⟩

theorem Worked.reports (h : Worked r s ch x ws) (g : Reports s t) : Worked r t ch x ws := h.same g.apart g.chans (congrArg Hawk.waits g.hawk)

theorem Worked.emits (h : Worked r s ch x ws) (g : Emits s t) : Worked r t ch x ws := h.reports g.reports

theorem Worked.setChan (h : Worked r s ch x ws) (y : Chan) : Worked r (s.setChan ch y) ch y ws := by
  refine ⟨h.apart, .inr ?_, h.waits⟩
  show s.chans.set ch y = _
  rcases h.chans with ⟨hc, -⟩ | hc
  · rw [hc]
  · rw [hc, Table.set_set]

theorem Worked.updChan (h : Worked r s ch x ws) (f : Chan → Chan) : Worked r (s.updChan ch f) ch (f x) ws := by
  rw [State.updChan_def, h.chan]
  exact h.setChan _

theorem Worked.goChan (h : Worked r s ch x ws) (f : Chan → Chan) : Worked r (s.goChan ch f) ch (f x) ws :=
  (h.updChan f).emits (State.mirrorCh_emits _ ch (Emits.refl _))

theorem Worked.each {α : Type} (h : Worked r s ch x ws) (l : List α) {f : State → α → State} (hf : ∀ u a, Worked r u ch x ws → Worked r (f u a) ch x ws) :
    Worked r (s.each l f) ch x ws := State.each_induction (P := fun u => Worked r u ch x ws) l h hf

/-- Where no request waits for cells, and none of the channels for an entry or a slot, none does so now (R220, R300). -/
theorem Worked.noneWait (h : Worked s t ch x []) (hn : s.noneWait) (hx : x.NoLedgerWait) : t.noneWait := by
  refine ⟨h.waits, fun e he hp => ?_⟩
  rcases h.chans with ⟨hc, -⟩ | hc
  · exact hn.2 e (hc ▸ he) hp
  · rcases Table.mem_set (hc ▸ he) with rfl | hm
    · exact hx hp
    · exact hn.2 e hm hp

theorem Worked.trans {y : Chan} {vs : List GrantWait} (h : Worked r s ch x ws) (g : Worked s t ch y vs) : Worked r t ch y vs := by
  refine ⟨g.apart.trans h.apart, ?_, g.waits⟩
  rcases g.chans with ⟨hc, hy⟩ | hc
  · rw [hc, ← hy, h.chan]
    exact h.chans
  · rcases h.chans with ⟨hs, -⟩ | hs
    · exact .inr (hc.trans (by rw [hs]))
    · exact .inr (hc.trans (by rw [hs, Table.set_set]))

theorem CellsOnly.worked {u : State} (h : Worked r s ch x ws) (g : CellsOnly s u) : Worked r u ch x ws :=
  h.same (by rw [g.1]; rfl) (by rw [g.1]; rfl) g.2

theorem Worked.freeChChain (h : Worked r s ch x ws) : Worked r (s.freeChChain ch) ch { x with chain := none } ws := by
  unfold State.freeChChain
  rw [h.chan]
  split
  next hn =>
    have hx : ({ x with chain := none } : Chan) = x := by rw [← hn]
    rw [hx]
    exact h
  · exact ((s.freeChain_cellsOnly _ _).worked h).updChan _

theorem Worked.beat (h : Worked r s ch x ws) (c t n : Nat) : Worked r (s.beat c t n) ch x ws := h.same rfl rfl rfl

theorem Worked.unwaitGrant (h : Worked r s ch x ws) : Worked r (s.unwaitGrant ch) ch x (ws.filter fun w => w.ch ≠ ch) :=
  ⟨h.apart, h.chans, by rw [← h.waits]; rfl⟩

theorem Worked.leavePorts (h : Worked r s ch x ws) : Worked r (s.leavePorts ch) ch x ws := h.same rfl rfl rfl

theorem Worked.dropBlocks (h : Worked r s ch x ws) : Worked r (s.dropBlocks ch) ch { x with blocks := [], badBlock := none, fetched := false } ws :=
  (h.same (t := { s with link0 := s.link0.staleReads ch, link1 := s.link1.staleReads ch }) rfl rfl rfl).updChan _

theorem Worked.markReported (h : Worked r s ch x ws) (i : Nat) (e : LEntry) : Worked r (s.markReported i e) ch x ws :=
  (h.same (t := { s with ledger := s.ledger.set i { e with st := 3 } }) rfl rfl rfl).emits (State.mirror_emits _ _ _ _ (Emits.refl _))

/-- A record that reports effects below an ordinal moves RFLOOR of its channel, and nothing else of it (R175, R469). -/
theorem Worked.reportBelow (h : Worked r s ch x ws) (gen floor : BitVec 16) (l : List Nat) :
    ∃ f, Worked r (s.reportBelow ch gen floor l) ch { x with rfloor := f } ws := by
  unfold State.reportBelow
  extract_lets below s1 s2
  have h2 : Worked r s2 ch x ws := (h.each (ch := ch) _ fun u e hu => hu.markReported e.1 e.2).same (t := s2) rfl rfl rfl
  clear_value s2
  split
  · exact ⟨floor, h2.goChan _⟩
  · exact ⟨x.rfloor, h2⟩

theorem Worked.reportAll (h : Worked r s ch x ws) :
    ∃ f, Worked r (s.reportAll ch) ch { x with rfloor := f, xfer := { x.xfer with slot := none, mslot := none } } ws := by
  obtain ⟨f, hf⟩ := h.reportBelow (s.chan ch).gen (s.chan ch).nextOrd ((s.mled.filter fun e => e.2.ch == ch).map (·.1))
  exact ⟨f, hf.updChan fun c => { c with xfer := { c.xfer with slot := none, mslot := none } }⟩

end Worked

/-! ### Queues with no FENCE -/

/-- No queue waits at a FENCE. -/
def State.noFence (s : State) : Prop := ∀ e ∈ s.queues, e.2.fence = none

theorem State.noFence.q {s : State} (h : s.noFence) (q : Nat) : (s.q q).fence = none := by
  rcases Table.get_eq_or_mem s.queues {} q with he | hm
  · exact (congrArg Queue.fence he).trans rfl
  · exact h _ hm

theorem State.noFence.setQ {s : State} (h : s.noFence) {q : Nat} {x : Queue} (hx : x.fence = none) : (s.setQ q x).noFence := by
  intro e he
  rcases Table.mem_set he with rfl | hm
  · exact hx
  · exact h _ hm

theorem State.noFence.emits {s t : State} (h : s.noFence) (g : Emits s t) : t.noFence := by
  intro e he
  exact h e (g.queues ▸ he)

/-- Where no queue waits at a FENCE, none finishes (R123). -/
theorem State.noFence.settled {s : State} (h : s.noFence) : s.settled = s := by
  refine State.settled_of_none ?_
  unfold State.readyFences
  refine List.filterMap_eq_nil_iff.mpr fun e he => ?_
  rw [h e he]

theorem State.noFence.writeHead {s : State} (h : s.noFence) (q : Nat) : (s.writeHead q).noFence := by
  unfold State.writeHead
  extract_lets x f b s1
  have h1 : s1.noFence := h.setQ (h.q q)
  clear_value s1
  split
  · exact h
  · split
    · exact h1.emits (State.gateRec_emits _ _ _ _ (State.mirror_emits _ _ _ _ (Emits.refl _)))
    · exact h1.emits (State.enterHead_emits _ _ _ _ (Emits.refl _))

theorem State.noFence.advance0 {s : State} (h : s.noFence) (q : Nat) : (s.advance0 q).noFence := by
  unfold State.advance0
  extract_lets x p x1 x2
  split
  · exact h.writeHead q
  · refine State.noFence.writeHead (h.setQ ?_) q
    show (if _ then _ else _ : Queue).fence = none
    split
    · rfl
    · exact h.q q

theorem State.noFence.markDone {s : State} (h : s.noFence) (q : Nat) (cnt : Word32) : (s.markDone q cnt).noFence := by
  refine h.setQ ?_
  show (if (s.q q).fence = some cnt then none else (s.q q).fence) = none
  rw [h.q q]
  rfl

theorem State.goChan_queues (s : State) (ch : Nat) (f : Chan → Chan) : (s.goChan ch f).queues = s.queues :=
  (State.mirrorCh_emits (s.updChan ch f) ch (Emits.refl _)).queues

theorem State.markReported_queues (s : State) (i : Nat) (e : LEntry) : (s.markReported i e).queues = s.queues :=
  (State.mirror_emits ({ s with ledger := s.ledger.set i { e with st := 3 } } : State) _ _ _ (Emits.refl _)).queues

theorem State.reportAll_queues (s : State) (ch : Nat) : (s.reportAll ch).queues = s.queues := by
  show (s.reportBelow ch _ _ _).queues = s.queues
  unfold State.reportBelow
  extract_lets below s1 s2
  have h2 : s2.queues = s.queues :=
    State.each_induction (P := fun u => u.queues = s.queues) (s := s) _ rfl fun u e hu => (u.markReported_queues _ _).trans hu
  clear_value s2
  split
  · exact (s2.goChan_queues ch _).trans h2
  · exact h2

theorem State.freeChChain_queues (s : State) (ch : Nat) : (s.freeChChain ch).queues = s.queues := by
  unfold State.freeChChain
  split
  · rfl
  · rw [State.updChan_def, State.setChan_queues, (s.freeChain_cellsOnly _ _).1]
    rfl

/-! ### The gates of a pair (R177) -/

/-- What the gates of R177 look at. -/
abbrev Ds.gating (d : Ds) := (d.role, d.sub, d.pulse)

theorem Ds.sendOn_gating (d : Ds) (n : Nat) : (d.sendOn n).gating = d.gating := by
  induction n generalizing d with
  | zero => rfl
  | succ n ih =>
    unfold Ds.sendOn
    split
    · rfl
    · split
      · rfl
      · exact ih _

theorem State.gates_congr {s t : State} (h : t.ds.gating = s.ds.gating) : t.gates = s.gates := by
  simp only [Ds.gating, Prod.mk.injEq] at h
  obtain ⟨hr, hs, hp⟩ := h
  unfold State.gates State.paired
  rw [hr, hs, hp]

theorem State.mirror_gates (s : State) (ty : TxType) (prio : Bool) (body : TxBody) : (s.mirror ty prio body).gates = s.gates := by
  unfold State.mirror State.dsSend
  split
  · split
    · exact State.gates_congr (Ds.sendOn_gating _ _)
    · rfl
  · rfl

theorem State.goChan_gates (s : State) (ch : Nat) (f : Chan → Chan) : (s.goChan ch f).gates = s.gates := State.mirror_gates _ _ _ _

/-! ### The end of a program -/

section Ends

variable {r s : State} {ch : Nat} {x : Chan} {ws : List GrantWait}

/-- The channel of a program that ends with a code, while its FINAL record is on its way (R138). -/
def Chan.finishing (c : Chan) (code : BitVec 16) : Chan :=
  { c with st := .statusPending, parked := false, lastStatus := code, ending := some code, inRun := false,
           began := none, blocks := [], fetched := false, inChain := false, afterJump := false, due := none, released := false,
           why := .none, mask := 0, xfer := { c.xfer with phase := .none, gate := none } }

/-- The channel of a program that has ended with a code (R138, R168, R174). -/
structure Chan.Over (y : Chan) (code : BitVec 16) : Prop where
  st : y.st = endState code
  lastStatus : y.lastStatus = code
  began : y.began = none
  inRun : y.inRun = false
  parked : y.parked = false

/-- The FINAL record stands, with no entry that waits for the channel: the channel is in the end state of its code (R138, R168). -/
theorem Worked.finalStands {code : BitVec 16} (h : Worked r s ch (x.finishing code) ws) (hw : x.waiting = []) (hn : s.noFence) (q : Nat) (cnt : Word32) :
    (∃ y, Worked r (s.finalStands q cnt ch code) ch y ws ∧ y.Over code) ∧ (s.finalStands q cnt ch code).noFence := by
  obtain ⟨f, hf⟩ := h.reportAll
  obtain ⟨s2, hs2⟩ : ∃ u, u = (s.reportAll ch).goChan ch fun c => { c with st := endState code, ending := none } := ⟨_, rfl⟩
  have h2 := hf.goChan fun c => { c with st := endState code, ending := none }
  rw [← hs2] at h2
  obtain ⟨s3, c3, hs3, h3⟩ : ∃ u c, u = (if endState code = .suspended then s2 else s2.freeChChain ch) ∧
      Worked r u ch { x.finishing code with rfloor := f, xfer := { (x.finishing code).xfer with slot := none, mslot := none }, st := endState code, ending := none, chain := c } ws := by
    split
    · exact ⟨_, _, rfl, h2⟩
    · exact ⟨_, _, rfl, h2.freeChChain⟩
  have h4 := h3.reports (State.advance0_reports _ q (State.markDone_reports _ q cnt (Reports.refl _)))
  have heq : s.finalStands q cnt ch code = ((s3.markDone q cnt).advance0 q).updChan ch fun c => { c with waiting := [], haltReq := false } := by
    unfold State.finalStands State.runWaiting
    dsimp only
    rw [← hs2, ← hs3, h4.chan]
    dsimp only [Chan.finishing]
    rw [hw]
    rfl
  have hq3 : s3.queues = s.queues := by
    have hq2 : s2.queues = s.queues := by rw [hs2, State.goChan_queues, State.reportAll_queues]
    rw [hs3]
    split
    · exact hq2
    · exact (s2.freeChChain_queues ch).trans hq2
  have hn3 : s3.noFence := fun e he => hn e (hq3 ▸ he)
  rw [heq]
  exact ⟨⟨_, h4.updChan _, rfl, rfl, rfl, rfl, rfl⟩, (hn3.markDone q cnt).advance0 q⟩

/-- Where no gate stands, out of Hold and with nothing held at the module of its queue, a FINAL record enters at once (R118, R177, R192). -/
theorem State.putRec_enterFinal {s : State} (hg : s.gates = false) (hh : s.hold = false) {q : Nat} (hl : (s.link (s.qModule q)).holding = false)
    (w : Egress) (cnt : Word32) (ch : Nat) (code : BitVec 16) (ccw : Word64) (b : List Byte) :
    ∃ v, Emits s v ∧ s.putRec (s.qModule q) w (fun s => (s.enterFinal q cnt ch code ccw b).settled) = (v.finalStands q cnt ch code).settled := by
  refine ⟨_, State.send_emits s (s.qModule q) (.final q cnt ch code ccw) ((s.q q).statAddr cnt) (stampFrame b s.frameLo) false (Emits.refl s), ?_⟩
  unfold State.putRec
  rw [hh, hg, if_neg Bool.false_ne_true, if_neg Bool.false_ne_true]
  unfold State.enterFinal
  dsimp only
  rw [State.heldAt, hl, if_neg Bool.false_ne_true]

/-- A program that ends with nothing that waits for its end: its channel is over, and only programs' work is done (R138, R168, R174). -/
theorem State.endProgram_over {s : State} {ch : Nat} (code : BitVec 16) (residual detail : Nat) (hg : s.gates = false) (hh : s.hold = false)
    (hl : (s.link (s.chModule ch)).holding = false) (hn : s.noFence) (hw : (s.chan ch).waiting = []) :
    ∃ y, Worked s (s.endProgram ch code residual detail) ch y (s.hawk.waits.filter fun w => w.ch ≠ ch) ∧ y.Over code := by
  obtain ⟨u, hu⟩ : ∃ u, u = (((s.leavePorts ch).unwaitGrant ch).dropBlocks ch |>.beat (s.chan ch).wcls (tileOfCh ch) 1).goChan ch (·.finishing code) := ⟨_, rfl⟩
  have hwork := ((((Worked.refl s ch).leavePorts.unwaitGrant).dropBlocks).beat (s.chan ch).wcls (tileOfCh ch) 1).goChan (·.finishing code)
  have hflows : Flows s u := by
    rw [hu]
    exact State.goChan_flows (State.beat_flows (State.dropBlocks_flows ((Flows.refl s).same (t := (s.leavePorts ch).unwaitGrant ch) rfl) ch) _ _ _) ch _
  have hugates : u.gates = false := by
    rw [hu, State.goChan_gates]
    exact hg
  have huhold : u.hold = false := by
    rw [hu]
    exact hwork.hold.trans hh
  have huq : u.queues = s.queues := by
    rw [hu, State.goChan_queues]
    rfl
  have hun : u.noFence := fun e he => hn e (huq ▸ he)
  rw [← hu] at hwork
  have hmod : ∀ q, s.chModule ch = s.qModule q → (u.link (u.qModule q)).holding = false := fun q hq => by
    rw [hflows.qModule, ← hq, (hflows.links _).holding]
    exact hl
  have hend : ∀ q cnt w ccw b, s.chModule ch = s.qModule q → ∃ y,
      Worked s (u.putRec (u.qModule q) w fun s => (s.enterFinal q cnt ch code ccw b).settled) ch y (s.hawk.waits.filter fun w => w.ch ≠ ch) ∧ y.Over code :=
    fun q cnt w ccw b hq => by
      obtain ⟨v, hv, heq⟩ := State.putRec_enterFinal hugates huhold (hmod q hq) w cnt ch code ccw b
      obtain ⟨⟨y, hy, hover⟩, hnf⟩ := (hwork.emits hv).finalStands hw (hun.emits hv) q cnt
      exact ⟨y, by rw [heq, hnf.settled]; exact hy, hover⟩
  subst hu
  unfold State.endProgram
  cases hb : (s.chan ch).began with
  | none => exact hend _ _ _ _ _ (by rw [State.chModule, hb])
  | some b => exact hend _ _ _ _ _ (by rw [State.chModule, hb])

end Ends

end Sys2Proof.Machine
end

section
/-! PROOFS. START, RESUME, HALT, CLEAR and MODIFY at the channel that their queue has bound (R116, R117, R136, R137). -/

namespace Sys2Proof.Machine
open Sys2Proof

/-- A CLEAR leaves its channel IDLE, with its condition and events 0 and its chain freed, and else only cells have changed (R136). -/
theorem State.clearChan_to (s : State) (ch : Nat) : ∃ (k : Hawk) (y : Chan), ChanTo (s.setHawk k) (s.clearChan ch) ch y ∧
    y.st = .idle ∧ y.cond = 0 ∧ y.pend = 0 ∧ y.chain = none := by
  obtain ⟨k, -, -, hto⟩ := s.freeChChain_to ch
  exact ⟨k, _, hto.updChan _, rfl, rfl, rfl, rfl⟩

section Entries

variable {s t : State} {q : Nat} {e : Entry}

/-- An entry at a channel that its queue has bound acts on it, and the fences that wait finish (R116, R117). -/
theorem State.applyEntry_bound {ty : Nat} (hn : s.nextEntry q ty = some e) (hb : (s.chan e.ch).bound = true) (hq : (s.chan e.ch).queue = q)
    (act : State → Nat → Entry → State) : s.applyEntry q ty act = (act (s.markApplied q e.cnt) e.ch e).settled := by
  have hx : (s.markApplied q e.cnt).chan e.ch = s.chan e.ch := rfl
  unfold State.applyEntry
  rw [hn]
  dsimp only
  rw [hx, hb, hq, if_neg (by simp)]

theorem runs_entry {i : Instr} {ty : Nat} {act : State → Nat → Entry → State} {P : State → Prop} (hi : exec i s = .next (s.applyEntry q ty act))
    (hb : (s.chan e.ch).bound = true) (hq : (s.chan e.ch).queue = q) (hn : s.nextEntry q ty = some e)
    (hP : P (act (s.markApplied q e.cnt) e.ch e).settled) : Runs i s P :=
  ⟨_, hi.trans (congrArg _ (State.applyEntry_bound hn hb hq act)), hP⟩

theorem ChanTo.settled {ch : Nat} {x : Chan} (h : ChanTo s t ch x) : ChanTo s t.settled ch x := h.report (State.settled_reports _ (Reports.refl _))

theorem ChanTo.finish0 {ch : Nat} {x : Chan} (h : ChanTo s t ch x) (q : Nat) (cnt : Word32) (r : StatusRec) : ChanTo s (t.finish0 q cnt r) ch x :=
  h.report (State.finish0_reports _ _ _ _ (Reports.refl _))

/-- The channel of an entry as it stands when the entry acts (R116). -/
theorem State.markApplied_to (s : State) (q : Nat) (e : Entry) : ChanTo s (s.markApplied q e.cnt) e.ch (s.chan e.ch) :=
  (ChanTo.refl s e.ch).report (State.markApplied_reports _ _ _ (Reports.refl _))

/-- An entry that changes its channel by f (R136). -/
theorem ChanTo.of_goChan {f : Chan → Chan} (h : t = (s.markApplied q e.cnt).goChan e.ch f) : ChanTo s t.settled e.ch (f (s.chan e.ch)) :=
  h ▸ ((s.markApplied_to q e).goChan f).settled

/-- An entry that changes its channel by f and is finished with a record (R136). -/
theorem ChanTo.of_finish {f : Chan → Chan} {cnt : Word32} {r : StatusRec} (h : t = ((s.markApplied q e.cnt).goChan e.ch f).finish0 q cnt r) :
    ChanTo s t.settled e.ch (f (s.chan e.ch)) := h ▸ (((s.markApplied_to q e).goChan f).finish0 q cnt r).settled

/-! ### Entries that start and change a program -/

variable (hb : (s.chan e.ch).bound = true) (hq : (s.chan e.ch).queue = q)

include hb hq

theorem runs_start (hn : s.nextEntry q 0x01 = some e) (hst : (s.chan e.ch).st = .idle) :
    Runs (.start q) s fun t => (t.chan e.ch).st = .startPending ∧ (t.chan e.ch).ccwa = BitVec.ofNat 64 (bitsOf e.hdr 64 64) ∧
      (t.chan e.ch).arg = BitVec.ofNat 64 (bitsOf (e.slots.getD 1 0) 0 64) ∧ (t.chan e.ch).cond = 0 ∧
      (∀ k, k ≠ e.ch → t.chan k = s.chan k) ∧ Reports { s with chans := t.chans } t := by
  have hact : (s.markApplied q e.cnt).doStart q e.ch e = (s.markApplied q e.cnt).goChan e.ch _ := if_pos hst
  refine runs_entry rfl hb hq hn ?_
  have h := ChanTo.of_goChan hact
  rw [h.chan]
  exact ⟨rfl, rfl, rfl, rfl, h.others, h.reports⟩

theorem runs_start_refused (hn : s.nextEntry q 0x01 = some e) (hst : (s.chan e.ch).st ≠ .idle) : Runs (.start q) s fun t => Reports s t := by
  have hact : (s.markApplied q e.cnt).doStart q e.ch e = (s.markApplied q e.cnt).refuse q e.ch e := if_neg hst
  refine runs_entry rfl hb hq hn ?_
  rw [hact]
  exact State.settled_reports _ (State.refuse_reports _ _ _ _ (State.markApplied_reports _ _ _ (Reports.refl s)))

theorem runs_resume (hn : s.nextEntry q 0x02 = some e) (hst : (s.chan e.ch).st = .suspended) :
    Runs (.resume q) s fun t => (t.chan e.ch).st = .startPending ∧ (t.chan e.ch).suOnce = true ∧ (t.chan e.ch).ccwa = (s.chan e.ch).ccwa ∧
      (∀ k, k ≠ e.ch → t.chan k = s.chan k) ∧ Reports { s with chans := t.chans } t := by
  have hact : (s.markApplied q e.cnt).doResume q e.ch e = (s.markApplied q e.cnt).goChan e.ch _ := if_pos hst
  refine runs_entry rfl hb hq hn ?_
  have h := ChanTo.of_goChan hact
  rw [h.chan]
  exact ⟨rfl, rfl, rfl, h.others, h.reports⟩

theorem runs_modify (hn : s.nextEntry q 0x05 = some e) (hst : (s.chan e.ch).st ∈ [CState.idle, .suspended, .halted]) :
    Runs (.modify q) s fun t =>
      (t.chan e.ch).ccwa = (if bitOf e.hdr 44 then BitVec.ofNat 64 (bitsOf e.hdr 64 64) else (s.chan e.ch).ccwa) ∧
      (t.chan e.ch).arg = (if bitOf e.hdr 45 then BitVec.ofNat 64 (bitsOf (e.slots.getD 1 0) 0 64) else (s.chan e.ch).arg) ∧
      (t.chan e.ch).st = (s.chan e.ch).st ∧ (∀ k, k ≠ e.ch → t.chan k = s.chan k) ∧ Reports { s with chans := t.chans } t := by
  refine runs_entry rfl hb hq hn ?_
  obtain ⟨f, hf⟩ : ∃ f : Chan → Chan, f = fun c =>
      { c with ccwa := if bitOf e.hdr 44 then BitVec.ofNat 64 (bitsOf e.hdr 64 64) else c.ccwa,
               arg := if bitOf e.hdr 45 then BitVec.ofNat 64 (bitsOf (e.slots.getD 1 0) 0 64) else c.arg } := ⟨_, rfl⟩
  have hact : (s.markApplied q e.cnt).doModify q e.ch e =
      ((s.markApplied q e.cnt).goChan e.ch f).finish0 q e.cnt (((s.markApplied q e.cnt).goChan e.ch f).entryRec e.ch e stOk) := by
    have hx : (s.markApplied q e.cnt).chan e.ch = s.chan e.ch := rfl
    simp only [List.mem_cons, List.not_mem_nil, or_false] at hst
    unfold State.doModify
    rw [hx, hf]
    rcases hst with hst | hst | hst <;> rw [hst]
  have h := ChanTo.of_finish hact
  rw [h.chan, hf]
  exact ⟨rfl, rfl, rfl, h.others, h.reports⟩

/-! ### CLEAR, and HALT where no program ends -/

theorem runs_clear (hn : s.nextEntry q 0x04 = some e) (hst : (s.chan e.ch).st ∈ [CState.idle, .suspended, .halted, .error]) :
    Runs (.clear q) s fun t => (t.chan e.ch).st = .idle ∧ (t.chan e.ch).cond = 0 ∧ (t.chan e.ch).pend = 0 ∧ (t.chan e.ch).chain = none ∧
      (∀ k, k ≠ e.ch → t.chan k = s.chan k) ∧ Reports { s with chans := t.chans, hawk := t.hawk } t := by
  have hact : (s.markApplied q e.cnt).doClear q e.ch e = (s.markApplied q e.cnt).clearAtRest q e.ch e := by
    have hx : (s.markApplied q e.cnt).chan e.ch = s.chan e.ch := rfl
    simp only [List.mem_cons, List.not_mem_nil, or_false] at hst
    unfold State.doClear
    rw [hx]
    rcases hst with hst | hst | hst | hst <;> rw [hst]
  obtain ⟨k, y, hto, hst, hcond, hpend, hchain⟩ := (s.markApplied q e.cnt).clearChan_to e.ch
  have h : ChanTo (s.setHawk k) ((s.markApplied q e.cnt).clearAtRest q e.ch e).settled e.ch y :=
    (((hto.report (State.mirrorCh_emits _ e.ch (Emits.refl _)).reports).finish0 q e.cnt _).settled).of_reports rfl
  have hhawk : State.hawk (((s.markApplied q e.cnt).clearAtRest q e.ch e).settled) = k := h.reports.hawk
  refine runs_entry rfl hb hq hn ?_
  rw [hact, h.chan, hhawk]
  exact ⟨hst, hcond, hpend, hchain, h.others, h.reports⟩

theorem runs_halt_suspended (hn : s.nextEntry q 0x03 = some e) (hst : (s.chan e.ch).st = .suspended) :
    Runs (.halt q) s fun t => (t.chan e.ch).st = .halted ∧ (t.chan e.ch).chain = none ∧ (∀ k, k ≠ e.ch → t.chan k = s.chan k) := by
  obtain ⟨k, -, -, hto⟩ := (s.markApplied q e.cnt).freeChChain_to e.ch
  obtain ⟨f, hf⟩ : ∃ f : Chan → Chan, f = fun c => { c with st := .halted, haltReq := false } := ⟨_, rfl⟩
  obtain ⟨u, hu⟩ : ∃ u, u = ((s.markApplied q e.cnt).freeChChain e.ch).goChan e.ch f := ⟨_, rfl⟩
  have hact : (s.markApplied q e.cnt).doHalt q e.ch e = u.finish0 q e.cnt (u.entryRec e.ch e stOk) := by
    have hx : ((s.markApplied q e.cnt).chan e.ch).st = .suspended := hst
    unfold State.doHalt
    rw [hx]
    dsimp only
    unfold State.haltAtRest
    rw [hx, hu, hf]
  have h := (((hto.goChan f).finish0 q e.cnt (u.entryRec e.ch e stOk)).settled).of_reports (s := s.setHawk k) rfl
  rw [← hu, ← hact] at h
  refine runs_entry rfl hb hq hn ?_
  rw [h.chan, hf]
  exact ⟨rfl, rfl, h.others⟩

theorem runs_halt_active (hn : s.nextEntry q 0x03 = some e) (hst : (s.chan e.ch).st = .active) (hstop : (s.chan e.ch).atStop = false) :
    Runs (.halt q) s fun t => (t.chan e.ch).st = .active ∧ (t.chan e.ch).haltReq = true ∧
      (∀ k, k ≠ e.ch → t.chan k = s.chan k) ∧ Reports { s with chans := t.chans } t := by
  have hact : (s.markApplied q e.cnt).doHalt q e.ch e = ((s.markApplied q e.cnt).waitEntry q e.ch e).goChan e.ch fun c => { c with haltReq := true } := by
    have hx : (s.markApplied q e.cnt).chan e.ch = s.chan e.ch := rfl
    unfold State.doHalt
    rw [hx, hst, hstop]
    rfl
  have h := ((((s.markApplied_to q e).updChan fun c => { c with waiting := c.waiting ++ [(q, e.cnt)] }).goChan fun c => { c with haltReq := true })).settled
  refine runs_entry rfl hb hq hn ?_
  rw [hact]
  refine ⟨?_, ?_, h.others, h.reports⟩
  · exact (congrArg Chan.st h.chan).trans hst
  · exact congrArg Chan.haltReq h.chan

end Entries

/-! ### HALT of a program that runs -/

/-- The channel of a program that a HALT has ended: its FINAL record is on its way, or stands (R136, R137). -/
def Chan.Stopped (c : Chan) : Prop := c.st ∈ [CState.statusPending, .halted, .idle] ∧ c.began = none

/-- Programs did work, and the one on a channel has been ended by a HALT. -/
def Halted (r s : State) (ch : Nat) : Prop := ∃ x ws, Worked r s ch x ws ∧ x.Stopped

section Halted

variable {r s t : State} {ch : Nat}

theorem Halted.reports (h : Halted r s ch) (g : Reports s t) : Halted r t ch := by
  obtain ⟨x, ws, hx, hs⟩ := h
  exact ⟨x, ws, hx.reports g, hs⟩

theorem Halted.finish0 (h : Halted r s ch) (q : Nat) (cnt : Word32) (x : StatusRec) : Halted r (s.finish0 q cnt x) ch :=
  h.reports (State.finish0_reports _ _ _ _ (Reports.refl _))

theorem Halted.haltAtRest (h : Halted r s ch) (q : Nat) (e : Entry) : Halted r (s.haltAtRest q ch e) ch := by
  unfold State.haltAtRest
  split
  · obtain ⟨x, ws, hx, -, hb⟩ := h
    exact Halted.finish0 ⟨_, _, hx.freeChChain.goChan _, by simp, hb⟩ _ _ _
  · exact h.finish0 _ _ _
  · exact h.finish0 _ _ _

theorem Halted.clearAtRest (h : Halted r s ch) (q : Nat) (e : Entry) : Halted r (s.clearAtRest q ch e) ch := by
  obtain ⟨x, ws, hx, -, hb⟩ := h
  unfold State.clearAtRest
  refine Halted.finish0 (Halted.reports (s := s.clearChan ch) ⟨_, _, hx.freeChChain.updChan _, ?_, ?_⟩ (State.mirrorCh_emits _ ch (Emits.refl _)).reports) _ _ _
  · simp
  · exact hb

theorem Halted.runWaiting (h : Halted r s ch) : Halted r (s.runWaiting ch) ch := by
  obtain ⟨x, ws, hx, hst, hb⟩ := h
  refine State.each_induction (P := fun u => Halted r u ch) _ ⟨_, _, hx.updChan _, hst, hb⟩ fun u w hu => ?_
  split
  · exact hu
  · split
    · exact hu.haltAtRest _ _
    · exact hu.clearAtRest _ _

theorem Halted.finalStands (h : Halted r s ch) (q : Nat) (cnt : Word32) : Halted r (s.finalStands q cnt ch stHalted) ch := by
  obtain ⟨x, ws, hx, -, hb⟩ := h
  obtain ⟨f, hf⟩ := hx.reportAll
  refine Halted.runWaiting (Halted.reports ?_ (State.advance0_reports _ q (State.markDone_reports _ q cnt (Reports.refl _))))
  exact ⟨_, _, (hf.goChan fun c => { c with st := endState stHalted, ending := none }).freeChChain, (by decide : endState stHalted ∈ _), hb⟩

theorem Halted.enterFinal (h : Halted r s ch) (q : Nat) (cnt : Word32) (ccw : Word64) (b : List Byte) :
    Halted r (s.enterFinal q cnt ch stHalted ccw b) ch := by
  have h1 := h.reports (State.send_emits s (s.qModule q) (.final q cnt ch stHalted ccw) ((s.q q).statAddr cnt) (stampFrame b s.frameLo) false (Emits.refl s)).reports
  unfold State.enterFinal
  dsimp only
  split
  · exact h1
  · exact h1.finalStands q cnt

/-- A record is put forward: it waits, or it enters (R177, R192). -/
theorem Halted.putRec (h : Halted r s ch) (md : Nat) (w : Egress) {enter : State → State} (he : Halted r (enter s) ch) : Halted r (s.putRec md w enter) ch := by
  unfold State.putRec
  split
  · exact h.reports rfl
  · split
    · exact h.reports (State.gateRec_reports _ _ _ _ (State.mirror_reports _ _ _ _ (Reports.refl _)))
    · exact he

/-- A program that a HALT ends has ended (R136, R138). -/
theorem State.endProgram_halted (s : State) (ch residual detail : Nat) : Halted s (s.endProgram ch stHalted residual detail) ch := by
  have h1 : Halted s _ ch := ⟨_, _, ((((Worked.refl s ch).leavePorts.unwaitGrant).dropBlocks).beat (s.chan ch).wcls (tileOfCh ch) 1).goChan
    (·.finishing stHalted), by simp [Chan.finishing], rfl⟩
  unfold State.endProgram
  exact h1.putRec _ _ ((h1.enterFinal _ _ _ _).reports (State.settled_reports _ (Reports.refl _)))

/-- A program that a HALT ends where it stands has ended (R136, R174). -/
theorem State.failAt_halted (s : State) (ch detail : Nat) : Halted s (s.failAt ch stHalted detail) ch := by
  have hwork : ∀ {u v : State} {x : Chan} {ws : List GrantWait}, Worked u v ch x ws → ∀ n, Halted u (v.endProgram ch stHalted n detail) ch := fun h n => by
    obtain ⟨y, vs, hy, hs⟩ := State.endProgram_halted _ ch n detail
    exact ⟨y, vs, h.trans hy, hs⟩
  have h1 : Worked s (s.updChan ch fun c => { c with ccwa := (s.chan ch).stand.1 }) ch _ _ := (Worked.refl s ch).updChan _
  unfold State.failAt
  dsimp only
  split
  · exact hwork h1 _
  · exact hwork (h1.same (t := (State.takeWord (s.updChan ch _)).2) rfl rfl rfl) _

end Halted

theorem runs_halt_running {s : State} {q : Nat} {e : Entry} (hb : (s.chan e.ch).bound = true) (hq : (s.chan e.ch).queue = q)
    (hn : s.nextEntry q 0x03 = some e) (hst : (s.chan e.ch).st ∈ [CState.startPending, .waitTick, .waitEvent] ∨
      ((s.chan e.ch).st = .active ∧ (s.chan e.ch).atStop = true)) :
    Runs (.halt q) s fun t => (t.chan e.ch).st ∈ [CState.statusPending, .halted, .idle] ∧ (t.chan e.ch).began = none := by
  have hact : (s.markApplied q e.cnt).doHalt q e.ch e = ((s.markApplied q e.cnt).waitEntry q e.ch e).failAt e.ch stHalted 0 := by
    have hx : (s.markApplied q e.cnt).chan e.ch = s.chan e.ch := rfl
    unfold State.doHalt
    rw [hx]
    rcases hst with hst | ⟨hst, hstop⟩
    · simp only [List.mem_cons, List.not_mem_nil, or_false] at hst
      rcases hst with hst | hst | hst <;> rw [hst]
    · rw [hst, hstop]
      rfl
  refine runs_entry rfl hb hq hn ?_
  rw [hact]
  obtain ⟨x, ws, hx, hs⟩ := (((s.markApplied q e.cnt).waitEntry q e.ch e).failAt_halted e.ch 0).reports (State.settled_reports _ (Reports.refl _))
  rw [hx.chan]
  exact hs

/-- Settles O11: an entry that its queue has bound acts on its channel alone, and a HALT of a running program ends it. -/
theorem channelEntries : Obligations.ChannelEntries := fun _ _ _ hb hq =>
  ⟨runs_start hb hq, runs_start_refused hb hq, runs_resume hb hq, runs_halt_running hb hq, runs_halt_active hb hq, runs_halt_suspended hb hq,
    runs_clear hb hq, runs_modify hb hq⟩

end Sys2Proof.Machine
end

section
/-! PROOFS. Command words that are due, and where the sequencer goes on (R146, R153, R154, R213, R215). -/

namespace Sys2Proof.Machine
open Sys2Proof

/-! ### One channel and what its class has spent -/

/-- From s to t only one channel was written, which stands as x, and but for reports only what its class has spent has changed. -/
structure Alone (s t : State) (ch : Nat) (x : Chan) : Prop where
  reports : Reports { s with chans := t.chans, classes := t.classes } t
  chans : (t.chans = s.chans ∧ s.chan ch = x) ∨ t.chans = s.chans.set ch x
  cls : ∀ c, c ≠ (s.chan ch).wcls → t.cls c = s.cls c

section Alone

variable {s t u : State} {ch : Nat} {x : Chan}

theorem Alone.refl (s : State) (ch : Nat) : Alone s s ch (s.chan ch) := ⟨rfl, .inl ⟨rfl, rfl⟩, fun _ _ => rfl⟩

theorem Alone.worked (h : Alone s t ch x) : Worked s t ch x s.hawk.waits := ⟨h.reports.apart, h.chans, congrArg Hawk.waits h.reports.hawk⟩

theorem Alone.chan (h : Alone s t ch x) : t.chan ch = x := h.worked.chan

theorem Alone.alone (h : Alone s t ch x) : ChannelAlone s t ch := ⟨h.reports, h.worked.prog.2, h.cls⟩

theorem Alone.ports (h : Alone s t ch x) : t.ports = s.ports := by
  have hr := h.reports
  unfold Reports at hr
  rw [hr]

theorem Reports.classes (h : Reports s t) : t.classes = s.classes := by
  unfold Reports at h
  rw [h]

theorem Reports.ports {s t : State} (h : Reports s t) : t.ports = s.ports := by
  unfold Reports at h
  rw [h]

theorem State.goChan_ports (s : State) (ch : Nat) (f : Chan → Chan) : (s.goChan ch f).ports = s.ports := (s.goChan_reports ch f).ports

theorem Alone.report (h : Alone s t ch x) (g : Reports t u) : Alone s u ch x := by
  refine ⟨?_, g.chans ▸ h.chans, fun c hc => ?_⟩
  · rw [g.chans, g.classes]
    exact h.reports.trans g
  · rw [State.cls, g.classes]
    exact h.cls c hc

theorem Alone.emits (h : Alone s t ch x) (g : Emits t u) : Alone s u ch x := h.report g.reports

theorem Alone.setChan (h : Alone s t ch x) (y : Chan) : Alone s (t.setChan ch y) ch y := by
  refine ⟨?_, (h.worked.setChan y).chans, h.cls⟩
  have hr := h.reports
  unfold Reports State.setChan at *
  conv_lhs => rw [hr]

theorem Alone.updChan (h : Alone s t ch x) (f : Chan → Chan) : Alone s (t.updChan ch f) ch (f x) := by
  rw [State.updChan_def, h.chan]
  exact h.setChan _

theorem Alone.updXfer (h : Alone s t ch x) (f : Xfer → Xfer) : Alone s (t.updXfer ch f) ch { x with xfer := f x.xfer } := h.updChan _

theorem Alone.goChan (h : Alone s t ch x) (f : Chan → Chan) : Alone s (t.goChan ch f) ch (f x) :=
  (h.updChan f).emits (State.mirrorCh_emits _ ch (Emits.refl _))

theorem Alone.dropBlocks (h : Alone s t ch x) : Alone s (t.dropBlocks ch) ch { x with blocks := [], badBlock := none, fetched := false } :=
  (h.report (u := { t with link0 := t.link0.staleReads ch, link1 := t.link1.staleReads ch }) rfl).updChan _

/-- A cost without bus time changes its class alone (R215). -/
theorem Alone.chargeCh (h : Alone s t ch x) (hx : x.wcls = (s.chan ch).wcls) (k : Cost) (hk : k.bus = none) : Alone s (t.chargeCh ch k) ch x := by
  obtain ⟨y, hy⟩ : ∃ y, t.chargeCh ch k = t.setCls (s.chan ch).wcls y := by
    unfold State.chargeCh State.charge
    rw [hk, h.chan, hx]
    exact ⟨_, rfl⟩
  rw [hy]
  refine ⟨?_, h.chans, fun c hc => (Table.get_set_ne _ _ _ hc).trans (h.cls c hc)⟩
  have hr := h.reports
  unfold Reports State.setCls at *
  conv_lhs => rw [hr]

theorem Alone.served (h : Alone s t ch x) (hn : s.noneWait) (hx : x.NoLedgerWait) : t.served = t :=
  State.served_of_noneWait ((hn.1 ▸ h.worked).noneWait hn hx)

end Alone

/-! ### A CCW that is due -/

/-- The channel of a CCW that is due is ACTIVE (R155). -/
theorem State.dueCcw_active {s : State} {ch cmd : Nat} {w : BitVec 128} (h : s.dueCcw ch cmd = some w) : (s.chan ch).st = .active := by
  unfold State.dueCcw at h
  dsimp only at h
  split at h
  next hc =>
    obtain ⟨-, -, hst, -⟩ := hc
    exact hst
  next => cases h

/-- The state in which a command that costs its dispatch slot alone acts (R213, R215). -/
def State.slotTaken (s : State) (ch : Nat) : State := (s.chargeCh ch (startCost {})).updChan ch fun c => { c with released := false }

theorem State.slotTaken_alone (s : State) (ch : Nat) : Alone s (s.slotTaken ch) ch { s.chan ch with released := false } :=
  ((Alone.refl s ch).chargeCh rfl (startCost {}) rfl).updChan _

section Due

variable {s : State} {ch cmd : Nat} {w : BitVec 128} (h : CcwDue s ch cmd w)

include h

/-- The row of a command that is due acts once its dispatch slot is charged (R155, R215). -/
theorem CcwDue.onCcw (k : State → BitVec 128 → State) : s.onCcw ch cmd k = k (s.slotTaken ch) w := by
  obtain ⟨-, hdue, -, -, hblk, hu, hf⟩ := h
  unfold State.onCcw State.onDue
  rw [hdue]
  exact State.startCcw_fits hu hf hblk

/-- A command whose work is on its channel alone, and leaves no wait for an entry or a slot, is all that its row does. -/
theorem CcwDue.runs {i : Instr} {k : State → BitVec 128 → State} (hi : exec i s = .next (s.onCcw ch cmd k).served) {P : State → Prop} {x : Chan}
    {ws : List GrantWait} (hw : Worked s (k (s.slotTaken ch) w) ch x ws) (hws : ws = []) (hx : x.NoLedgerWait) (hP : P (k (s.slotTaken ch) w)) : Runs i s P := by
  refine ⟨_, ?_, hP⟩
  rw [hi, h.onCcw, State.served_of_noneWait ((hws ▸ hw).noneWait h.1 hx)]

theorem CcwDue.waits : s.hawk.waits = [] := h.1.1

end Due

/-! ### The next CCW, where the channel holds it -/

/-- A channel that goes on at the CCW v, which stands at a (R146, R153). -/
def Chan.atCcw (x : Chan) (a : Word64) (v : BitVec 128) : Chan := Chan.reached { x with ccwa := a, fetched := false } v

/-- What a channel must have kept so that a CCW held before is held still. -/
structure Chan.Holds (c x : Chan) : Prop where
  blocks : x.blocks = c.blocks
  haltReq : x.haltReq = c.haltReq
  retired : x.retired = c.retired
  inChain : x.inChain = false

/-- The program goes on at a CCW that the channel holds, and which it reaches (R146, R153). -/
theorem State.goTo_held {s t : State} {ch : Nat} {a : Word64} {x : Chan} (h : CcwHeld s ch a) (ht : t.chan ch = x) (hx : (s.chan ch).Holds x)
    (hp : ∀ p, (t.port p).act = (s.port p).act) :
    ∃ v, t.goTo ch a = (t.goChan ch fun c => { c with ccwa := a, fetched := false }).setChan ch (x.atCcw a v) := by
  obtain ⟨hhalt, hret, v, hv, hcheck, h8, hsu⟩ := h
  have hports : ∀ p, (t.goChan ch fun c => { c with ccwa := a, fetched := false }).port p = t.port p := fun p => by
    rw [State.port, (t.goChan_reports ch _).ports]
    rfl
  have hheld : ({ x with ccwa := a, fetched := false } : Chan).heldCcw = some v := by
    rw [← hv]
    unfold Chan.heldCcw
    rw [hx.blocks]
  refine ⟨v, State.reach_held ?_ (hx.retired.trans hret) (hx.haltReq.trans hhalt) hx.inChain hheld ?_ h8 hsu⟩
  · rw [State.goChan_chan, ht]
  · rw [State.ccwCheck_congr (s := s) fun p => by rw [hports, hp]]
    exact hcheck

theorem State.port_congr {s t : State} (h : t.ports = s.ports) (p : Nat) : t.port p = s.port p := by
  rw [State.port, h]
  rfl

theorem Alone.goTo {r s t : State} {ch : Nat} {a : Word64} {x : Chan} (h : Alone r t ch x) (hc : CcwHeld s ch a) (hx : (s.chan ch).Holds x)
    (hp : t.ports = s.ports) : ∃ v, Alone r (t.goTo ch a) ch (x.atCcw a v) := by
  obtain ⟨v, hv⟩ := State.goTo_held hc h.chan hx fun p => by rw [State.port_congr hp]
  exact ⟨v, hv ▸ (h.goChan _).setChan _⟩

theorem Worked.goTo {r s t : State} {ch : Nat} {a : Word64} {x : Chan} {ws : List GrantWait} (h : Worked r t ch x ws) (hc : CcwHeld s ch a)
    (hx : (s.chan ch).Holds x) (hp : ∀ p, (t.port p).act = (s.port p).act) :
    ∃ v, Worked r (t.goTo ch a) ch (x.atCcw a v) ws ∧ (t.goTo ch a).ports = t.ports := by
  obtain ⟨v, hv⟩ := State.goTo_held hc h.chan hx hp
  rw [hv]
  exact ⟨v, (h.goChan _).setChan _, t.goChan_ports ch _⟩

/-- A command of no chain, with no interim record due, leaves its CCW: with CC it goes on at the next one, else the program ends with OK (R153). -/
theorem State.goOn_plain {t : State} {ch : Nat} {x : Chan} {w : BitVec 128} (ht : t.chan ch = x) (hw : x.heldCcw = some w) (hin : x.inChain = false)
    (hpi : x.xfer.pi = false) (hwpi : ccwPi w = false) (hcmd : cmdData (ccwCmd w) = false) :
    t.goOn ch = if ccwCc w then (t.updChan ch fun c => { c with inChain := false, xfer := {} }).goTo ch (x.ccwa + 16)
      else (t.updChan ch fun c => { c with inChain := false, xfer := {} }).endProgram ch stOk x.remain 0 := by
  have hrem : ((t.updChan ch fun c => { c with inChain := false, xfer := {} }).chan ch).remain = x.remain := by
    rw [State.updChan_def, State.chan_setChan, ht]
  unfold State.goOn
  dsimp only
  rw [ht, hw]
  dsimp only
  rw [hcmd, hin, hpi, hwpi, Bool.or_self, Bool.and_false, if_neg Bool.false_ne_true, Bool.false_and, if_neg Bool.false_ne_true,
    if_neg Bool.false_ne_true, hrem]

/-! ### The next CCW, where its block must be read -/

/-- Whether a read unit fits turns on the class's budgets and on the read units it has spent (R213, R215). -/
theorem State.fits_urd_congr {s t : State} {c : Nat} (hact : (t.cls c).act = (s.cls c).act) (h0 : t.spentOf c 0 = s.spentOf c 0)
    (h1 : t.spentOf c 1 = s.spentOf c 1) (tile md : Nat) : t.fits c tile (urdCost md 1) = s.fits c tile (urdCost md 1) := by
  unfold State.fits State.charges urdCost
  split <;> simp [under, hact, h0, h1]

theorem State.unfit_urd_congr {s t : State} {c : Nat} (hact : (t.cls c).act = (s.cls c).act) (tile md : Nat) :
    t.unfit c tile (urdCost md 1) = s.unfit c tile (urdCost md 1) := by
  unfold State.unfit State.charges urdCost
  split <;> simp [hact]

/-- The read of one block is within the budgets of a channel (R215). -/
def State.mayRead (s : State) (ch : Nat) : Prop := s.unfitCh ch (urdCost (s.chModule ch) 1) = false ∧ s.fitsCh ch (urdCost (s.chModule ch) 1) = true

theorem BlockPaid.mayRead {s : State} {ch : Nat} (h : BlockPaid s ch) : s.mayRead ch := h.2.2

/-- The read stays within the budgets where the channel keeps its class and module, and the class what it has spent of read units. -/
theorem State.mayRead.congr {s t : State} {ch : Nat} (h : s.mayRead ch) (hm : t.chModule ch = s.chModule ch) (hc : (t.chan ch).wcls = (s.chan ch).wcls)
    (hact : (t.cls (s.chan ch).wcls).act = (s.cls (s.chan ch).wcls).act) (h0 : t.spentOf (s.chan ch).wcls 0 = s.spentOf (s.chan ch).wcls 0)
    (h1 : t.spentOf (s.chan ch).wcls 1 = s.spentOf (s.chan ch).wcls 1) : t.mayRead ch := by
  obtain ⟨hu, hf⟩ := h
  unfold State.mayRead State.unfitCh State.fitsCh at *
  rw [hm, hc, State.fits_urd_congr hact h0 h1, State.unfit_urd_congr hact]
  exact ⟨hu, hf⟩

/-- The module of a channel's program turns on the queue that began it (R56). -/
theorem State.chModule_congr {s t : State} {ch : Nat} (h : Flows s t) (hb : (t.chan ch).began = (s.chan ch).began) (hq : (t.chan ch).queue = (s.chan ch).queue) :
    t.chModule ch = s.chModule ch := by
  unfold State.chModule
  rw [hb, hq, h.qModule]

theorem State.askBlock_hasRead (s : State) (ch : Nat) (a : Word64) : (s.askBlock ch a).hasRead (fun r => r = .ccw ch (blockOf a)) = true :=
  State.hasRead_of_mem (s.mem_askRead _ _) (decide_eq_true rfl)

/-- The block of the CCW at CCWA is read, or is under way (R154, R215). -/
theorem Worked.fetchBlock {s t : State} {ch : Nat} {x : Chan} {ws : List GrantWait} (h : Worked s t ch x ws) (hp : t.mayRead ch) :
    Worked s (t.fetchBlock ch) ch x ws ∧ (t.fetchBlock ch).hasBlock ch x.ccwa = true := by
  have hem : Emits (t.chargeCh ch (urdCost (t.chModule ch) 1)) ((t.chargeCh ch (urdCost (t.chModule ch) 1)).askBlock ch (t.chan ch).ccwa) :=
    State.askBlock_emits _ _ _ (Emits.refl _)
  have hcharge : Worked s (t.chargeCh ch (urdCost (t.chModule ch) 1)) ch x ws := by
    unfold urdCost
    split <;> exact h.same rfl rfl rfl
  unfold State.fetchBlock
  dsimp only
  rw [hp.1, hp.2]
  split
  next hb =>
    rw [← h.chan]
    exact ⟨h.chan.symm ▸ h, hb⟩
  next =>
    rw [if_neg Bool.false_ne_true, if_pos rfl]
    refine ⟨hcharge.emits hem, ?_⟩
    unfold State.hasBlock
    rw [h.chan, State.askBlock_hasRead, Bool.or_true]

/-- The sequencer comes to a CCW whose block it must read (R154). -/
theorem State.reach_unread {t : State} {ch : Nat} {x : Chan} (ht : t.chan ch = x) (hr : x.retired = false) (hh : x.haltReq = false) (hb : x.blocks = [])
    (hbad : x.badBlock = none) : t.reach ch = t.fetchBlock ch := by
  have hheld : x.heldCcw = none := by
    unfold Chan.heldCcw
    rw [hb]
    rfl
  unfold State.reach
  dsimp only
  rw [ht, hr, hh, hheld, hbad, if_neg Bool.false_ne_true, Bool.false_and, if_neg Bool.false_ne_true]

/-- The slot of a command is charged to dispatch slots, and leaves the read units (R213). -/
theorem State.slotTaken_mayRead {s : State} {ch : Nat} (h : s.mayRead ch) : (s.slotTaken ch).mayRead ch := by
  have hx : (s.slotTaken ch).chan ch = { s.chan ch with released := false } := (s.slotTaken_alone ch).chan
  obtain ⟨n, hcls⟩ : ∃ n, (s.slotTaken ch).cls (s.chan ch).wcls =
      { s.cls (s.chan ch).wcls with spent := (s.cls (s.chan ch).wcls).spent.set (tileKey (tileOfCh ch) 0) n } := ⟨_, Table.get_set_same _ _ _ _⟩
  have hkey : ∀ k, k < 2 → (s.slotTaken ch).spentOf (s.chan ch).wcls k = s.spentOf (s.chan ch).wcls k := fun k hk => by
    unfold State.spentOf
    rw [hcls]
    exact Table.get_set_ne _ _ _ (by unfold tileKey; omega)
  exact h.congr (State.chModule_congr (State.chargeCh_flows (.refl s) ch _ |>.same (t := s.slotTaken ch) rfl) (by rw [hx]) (by rw [hx])) (by rw [hx])
    (by rw [hcls]) (hkey 0 (by omega)) (hkey 1 (by omega))

end Sys2Proof.Machine
end

section
/-! PROOFS. JUMP, NOP, SKIPIF and POST (R153, R154, R156, R157, R162). -/

namespace Sys2Proof.Machine
open Sys2Proof

section Flow

variable {s : State} {ch : Nat} {w : BitVec 128}

theorem Flows.updChan {r s : State} (h : Flows r s) (ch : Nat) (f : Chan → Chan) : Flows r (s.updChan ch f) := h.same rfl

/-- The read stays within the budgets while the channel keeps its program and its class, and no class spends (R213, R215). -/
theorem State.mayRead.kept {s t : State} {ch : Nat} {x : Chan} (h : s.mayRead ch) (hf : Flows s t) (ht : t.chan ch = x) (hb : x.began = (s.chan ch).began)
    (hq : x.queue = (s.chan ch).queue) (hw : x.wcls = (s.chan ch).wcls) (hc : t.classes = s.classes) : t.mayRead ch := by
  have hcls : ∀ c, t.cls c = s.cls c := fun c => by rw [State.cls, hc]; rfl
  have hspent : ∀ c k, t.spentOf c k = s.spentOf c k := fun c k => by rw [State.spentOf, hcls]; rfl
  exact h.congr (State.chModule_congr hf (by rw [ht, hb]) (by rw [ht, hq])) (by rw [ht, hw]) (by rw [hcls]) (hspent _ _) (hspent _ _)

theorem State.goChan_classes (s : State) (ch : Nat) (f : Chan → Chan) : (s.goChan ch f).classes = s.classes := (s.goChan_reports ch f).classes

/-! ### JUMP -/

/-- Where a JUMP leads (R156). -/
def jumpTo (w : BitVec 128) : Word64 := BitVec.ofNat 64 (bitsOf (ccwAddr w) 0 62)

/-- A JUMP that is not one too many counts and goes on at its target, the blocks discarded where it leaves its own (R154, R156). -/
theorem State.doJump_counts {t : State} (hj : (t.chan ch).jumps < 16) (w : BitVec 128) : t.doJump ch w =
    ((if blockOf (jumpTo w) = blockOf (t.chan ch).ccwa then t.goChan ch fun c => { c with jumps := c.jumps + 1 }
      else (t.goChan ch fun c => { c with jumps := c.jumps + 1 }).dropBlocks ch).updChan ch fun c => { c with afterJump := true }).goTo ch (jumpTo w) := by
  unfold State.doJump
  dsimp only
  rw [if_neg (by omega)]
  rfl

theorem runs_jump_near (h : CcwDue s ch 0x08 w) (hj : (s.chan ch).jumps < 16) (hblk : blockOf (jumpTo w) = blockOf (s.chan ch).ccwa)
    (hheld : CcwHeld s ch (jumpTo w)) :
    Runs (.jump ch) s fun t => (t.chan ch).ccwa = jumpTo w ∧ (t.chan ch).jumps = (s.chan ch).jumps + 1 ∧
      (t.chan ch).fetched = true ∧ (t.chan ch).st = .active ∧ ChannelAlone s t ch := by
  obtain ⟨hn, hdue, hin, -⟩ := id h
  have hslot := s.slotTaken_alone ch
  have hcount := (hslot.goChan fun c => { c with jumps := c.jumps + 1 }).updChan fun c => { c with afterJump := true }
  obtain ⟨v, hv⟩ := hcount.goTo hheld ⟨rfl, rfl, rfl, hin⟩ hcount.ports
  have hstep := State.doJump_counts (t := s.slotTaken ch) (ch := ch) (by rw [hslot.chan]; exact hj) w
  rw [hslot.chan, if_pos hblk] at hstep
  rw [← hstep] at hv
  refine h.runs (k := fun s w => s.doJump ch w) rfl hv.worked hn.1 (s.chan_noLedgerWait hn ch) ?_
  rw [hv.chan]
  exact ⟨rfl, rfl, rfl, State.dueCcw_active hdue, hv.alone⟩

/-- A JUMP to another block discards the blocks and comes to its target (R154, R156). -/
theorem Alone.jumpFar {t : State} {x : Chan} {a : Word64} (h : Alone s t ch x) (hin : t.mayRead ch) (hhalt : x.haltReq = false) (hret : x.retired = false) :
    Worked s (((((t.goChan ch fun c => { c with jumps := c.jumps + 1 }).dropBlocks ch).updChan ch fun c => { c with afterJump := true })).goTo ch a) ch
      { x with jumps := x.jumps + 1, blocks := [], badBlock := none, afterJump := true, ccwa := a, fetched := false } s.hawk.waits ∧
    (((((t.goChan ch fun c => { c with jumps := c.jumps + 1 }).dropBlocks ch).updChan ch fun c => { c with afterJump := true })).goTo ch a).hasBlock ch a = true := by
  obtain ⟨v, hv⟩ : ∃ v, v = (t.goChan ch fun c => { c with jumps := c.jumps + 1 }).dropBlocks ch := ⟨_, rfl⟩
  have hvflows : Flows t v := by
    rw [hv]
    exact State.dropBlocks_flows (State.goChan_flows (.refl t) ch _) ch
  have hvcls : v.classes = t.classes := by
    rw [hv]
    exact t.goChan_classes ch _
  obtain ⟨u, hu⟩ : ∃ u, u = (v.updChan ch fun c => { c with afterJump := true }).goChan ch fun c => { c with ccwa := a, fetched := false } := ⟨_, rfl⟩
  have hva := (h.goChan fun c => { c with jumps := c.jumps + 1 }).dropBlocks
  rw [← hv] at hva ⊢
  have hgo := (hva.updChan fun c => { c with afterJump := true }).goChan fun c => { c with ccwa := a, fetched := false }
  have huflows : Flows t u := by
    rw [hu]
    exact State.goChan_flows (hvflows.updChan ch _) ch _
  have hucls : u.classes = t.classes := by
    rw [hu, State.goChan_classes]
    exact hvcls
  rw [← hu] at hgo
  have hbegan : x.began = (t.chan ch).began := by rw [h.chan]
  have hqueue : x.queue = (t.chan ch).queue := by rw [h.chan]
  have hcls : x.wcls = (t.chan ch).wcls := by rw [h.chan]
  have hgoes : ((v.updChan ch fun c => { c with afterJump := true }).goTo ch a) = u.fetchBlock ch := by
    show State.reach _ ch = _
    rw [← hu]
    exact State.reach_unread hgo.chan hret hhalt rfl rfl
  rw [hgoes]
  have hread : u.mayRead ch := hin.kept huflows hgo.chan hbegan hqueue hcls hucls
  exact hgo.worked.fetchBlock hread

theorem runs_jump_far (h : CcwDue s ch 0x08 w) (hj : (s.chan ch).jumps < 16) (hblk : blockOf (jumpTo w) ≠ blockOf (s.chan ch).ccwa)
    (hpaid : BlockPaid s ch) :
    Runs (.jump ch) s fun t => (t.chan ch).ccwa = jumpTo w ∧ (t.chan ch).jumps = (s.chan ch).jumps + 1 ∧
      (t.chan ch).blocks = [] ∧ (t.chan ch).st = .active ∧ t.hasBlock ch (jumpTo w) = true ∧ ProgramOf s t ch := by
  obtain ⟨hn, hdue, hin, -⟩ := id h
  obtain ⟨hhalt, hret, -, -⟩ := id hpaid
  have hslot := s.slotTaken_alone ch
  have hstep := State.doJump_counts (t := s.slotTaken ch) (ch := ch) (by rw [hslot.chan]; exact hj) w
  rw [hslot.chan, if_neg hblk] at hstep
  obtain ⟨hwork, hhas⟩ := hslot.jumpFar (a := jumpTo w) (State.slotTaken_mayRead hpaid.mayRead) hhalt hret
  rw [← hstep] at hwork hhas
  refine h.runs (k := fun s w => s.doJump ch w) rfl hwork hn.1 (s.chan_noLedgerWait hn ch) ?_
  rw [hwork.chan]
  exact ⟨rfl, rfl, rfl, State.dueCcw_active hdue, hhas, hwork.prog⟩

/-! ### NOP -/

/-- A command word that is no data CCW, has CC and no PI, goes on at the next CCW (R153). -/
theorem State.goOn_next {t : State} {x : Chan} {cmd : Nat} (h : CcwDue s ch cmd w) (ht : t.chan ch = x) (hx : (s.chan ch).SameProgram x)
    (hcmd : cmdData cmd = false) (hcc : ccwCc w = true) (hpi : ccwPi w = false) :
    t.goOn ch = (t.updChan ch fun c => { c with inChain := false, xfer := {} }).goTo ch ((s.chan ch).ccwa + 16) := by
  obtain ⟨-, hdue, hin, hxpi, -⟩ := h
  obtain ⟨-, -, hw, hc⟩ := State.dueCcw_some hdue hin
  have hgo := State.goOn_plain ht (hx.heldCcw.trans hw) (hx.inChain.trans hin) (hx.pi.trans hxpi) hpi (hc ▸ hcmd)
  rwa [hcc, if_pos rfl, hx.ccwa] at hgo

theorem Alone.next {r t : State} {x : Chan} {cmd : Nat} (ht : Alone r t ch x) (hp : t.ports = s.ports) (h : CcwDue s ch cmd w) (hx : (s.chan ch).SameProgram x)
    (hcmd : cmdData cmd = false) (hcc : ccwCc w = true) (hpi : ccwPi w = false) (hheld : CcwHeld s ch ((s.chan ch).ccwa + 16)) :
    ∃ v, Alone r (t.goOn ch) ch (Chan.atCcw { x with inChain := false, xfer := {} } ((s.chan ch).ccwa + 16) v) := by
  rw [State.goOn_next h ht.chan hx hcmd hcc hpi]
  exact (ht.updChan fun c => { c with inChain := false, xfer := {} }).goTo hheld ⟨hx.blocks, hx.haltReq, hx.retired, rfl⟩ hp

theorem Worked.next {r t : State} {x : Chan} {cmd : Nat} {ws : List GrantWait} (ht : Worked r t ch x ws) (hp : t.ports = s.ports) (h : CcwDue s ch cmd w)
    (hx : (s.chan ch).SameProgram x) (hcmd : cmdData cmd = false) (hcc : ccwCc w = true) (hpi : ccwPi w = false)
    (hheld : CcwHeld s ch ((s.chan ch).ccwa + 16)) :
    ∃ v, Worked r (t.goOn ch) ch (Chan.atCcw { x with inChain := false, xfer := {} } ((s.chan ch).ccwa + 16) v) ws := by
  rw [State.goOn_next h ht.chan hx hcmd hcc hpi]
  obtain ⟨v, hv, -⟩ := (ht.updChan fun c => { c with inChain := false, xfer := {} }).goTo hheld ⟨hx.blocks, hx.haltReq, hx.retired, rfl⟩ fun p =>
    congrArg Port.act (State.port_congr hp p)
  exact ⟨v, hv⟩

theorem runs_nop (h : CcwDue s ch 0x09 w) (hcc : ccwCc w = true) (hpi : ccwPi w = false) (hheld : CcwHeld s ch ((s.chan ch).ccwa + 16)) :
    Runs (.ccwNop ch) s fun t => (t.chan ch).ccwa = (s.chan ch).ccwa + 16 ∧ (t.chan ch).fetched = true ∧ (t.chan ch).st = .active ∧ ChannelAlone s t ch := by
  obtain ⟨hn, hdue, -⟩ := id h
  obtain ⟨v, hv⟩ := (s.slotTaken_alone ch).next (s.slotTaken_alone ch).ports h ⟨rfl, rfl, rfl, rfl, rfl, rfl, rfl, rfl⟩ rfl hcc hpi hheld
  refine h.runs (k := fun s _ => s.goOn ch) rfl hv.worked hn.1 (s.chan_noLedgerWait hn ch) ?_
  rw [hv.chan]
  exact ⟨rfl, rfl, State.dueCcw_active hdue, hv.alone⟩

theorem runs_nop_last (h : CcwDue s ch 0x09 w) (hcc : ccwCc w = false) (hpi : ccwPi w = false) (hq : EndsQuietly s ch) :
    Runs (.ccwNop ch) s fun t => (t.chan ch).st = .idle ∧ (t.chan ch).lastStatus = stOk ∧ (t.chan ch).began = none ∧ ProgramOf s t ch := by
  obtain ⟨hn, hdue, hin, hxpi, -⟩ := id h
  obtain ⟨-, -, hw, hc⟩ := State.dueCcw_some hdue hin
  obtain ⟨hg, hh, -, hwait, hnf, hl, -⟩ := hq
  obtain ⟨u, hu⟩ : ∃ u, u = (s.slotTaken ch).updChan ch fun c => { c with inChain := false, xfer := {} } := ⟨_, rfl⟩
  have hslot := s.slotTaken_alone ch
  have hua := hslot.updChan fun c => { c with inChain := false, xfer := {} }
  rw [← hu] at hua
  have hmod : u.chModule ch = s.chModule ch := by
    refine State.chModule_congr ?_ (by rw [hua.chan]) (by rw [hua.chan])
    rw [hu]
    exact ((State.chargeCh_flows (.refl s) ch _).updChan ch _).updChan ch _
  obtain ⟨y, hy, hover⟩ := u.endProgram_over (ch := ch) stOk (s.chan ch).remain 0 (by rw [hu]; exact hg) (by rw [hu]; exact hh) (by rw [hmod, hu]; exact hl)
    (by rw [hu]; exact hnf) (by rw [hua.chan]; exact hwait)
  have hstep : (s.slotTaken ch).goOn ch = u.endProgram ch stOk (s.chan ch).remain 0 := by
    rw [State.goOn_plain hslot.chan hw hin hxpi hpi (by rw [hc]; rfl), hcc, if_neg Bool.false_ne_true, ← hu]
  have hwork := hua.worked.trans hy
  rw [← hstep] at hwork
  refine h.runs (k := fun s _ => s.goOn ch) rfl hwork ?_ ?_ ?_
  · rw [hua.worked.waits, h.waits]
    rfl
  · intro hp
    rw [hover.parked] at hp
    cases hp
  · rw [hwork.chan]
    exact ⟨hover.st, hover.lastStatus, hover.began, hwork.prog⟩

/-! ### SKIPIF -/

theorem runs_skipif (h : CcwDue s ch 0x0E w) {n : Nat}
    (hs : n = (if ((s.chan ch).cond.toNat &&& bitsOf (ccwParam w) 0 16 ≠ 0) ↔ bitOf (ccwParam w) 24 = false then bitsOf (ccwParam w) 16 8 else 0))
    (hheld : CcwHeld s ch ((s.chan ch).ccwa + BitVec.ofNat 64 (16 * (n + 1)))) :
    Runs (.skipif ch) s fun t => (t.chan ch).ccwa = (s.chan ch).ccwa + BitVec.ofNat 64 (16 * (n + 1)) ∧ (t.chan ch).fetched = true ∧
      (t.chan ch).cond = (s.chan ch).cond ∧ ChannelAlone s t ch := by
  obtain ⟨hn, hdue, hin, -⟩ := id h
  have hslot := s.slotTaken_alone ch
  obtain ⟨v, hv⟩ := (hslot.updChan fun c => { c with xfer := {} }).goTo hheld ⟨rfl, rfl, rfl, hin⟩ rfl
  have hstep : (s.slotTaken ch).doSkip ch w = ((s.slotTaken ch).updChan ch fun c => { c with xfer := {} }).goTo ch
      ((s.chan ch).ccwa + BitVec.ofNat 64 (16 * (n + 1))) := by
    unfold State.doSkip
    dsimp only
    rw [hslot.chan, hs]
    congr 6
    cases bitOf (ccwParam w) 24 <;> simp
  rw [← hstep] at hv
  refine h.runs (k := fun s w => s.doSkip ch w) rfl hv.worked hn.1 (s.chan_noLedgerWait hn ch) ?_
  rw [hv.chan]
  exact ⟨rfl, rfl, rfl, hv.alone⟩

/-! ### POST -/

/-- POST where the interim area is off is a NOP (R162). -/
theorem State.doPost_off {t : State} (hi : (t.chan ch).ien = false) (w : BitVec 128) :
    t.doPost ch w = (t.updChan ch fun c => { c with xfer := { c.xfer with phase := .none } }).goOn ch := by
  unfold State.doPost State.interimWaits State.interim
  dsimp only
  rw [hi]
  rfl

theorem runs_post_off (h : CcwDue s ch 0x0D w) (hcc : ccwCc w = true) (hpi : ccwPi w = false) (hi : (s.chan ch).ien = false)
    (hheld : CcwHeld s ch ((s.chan ch).ccwa + 16)) :
    Runs (.post ch) s fun t => (t.chan ch).ccwa = (s.chan ch).ccwa + 16 ∧ (t.chan ch).iseq = (s.chan ch).iseq ∧ ChannelAlone s t ch := by
  obtain ⟨hn, hdue, -, hxpi, -⟩ := id h
  have hslot := s.slotTaken_alone ch
  obtain ⟨v, hv⟩ := (hslot.updChan fun c => { c with xfer := { c.xfer with phase := .none } }).next hslot.ports h ⟨rfl, rfl, rfl, rfl, rfl, rfl, rfl, rfl⟩ rfl hcc hpi hheld
  rw [← State.doPost_off (by rw [hslot.chan]; exact hi) w] at hv
  refine h.runs (k := fun s w => s.doPost ch w) rfl hv.worked hn.1 (s.chan_noLedgerWait hn ch) ?_
  rw [hv.chan]
  exact ⟨rfl, rfl, hv.alone⟩

theorem leBytes_length (n v : Nat) : (leBytes n v).length = n := by simp [leBytes]

theorem stampFrame_length (r : StatusRec) (f g : Word32) : (stampFrame (r.bytes f) g).length = 32 := by
  unfold stampFrame StatusRec.bytes
  simp only [List.length_append, List.length_take, leBytes_length]
  omega

theorem State.reportBelow_ports (s : State) (ch : Nat) (gen floor : BitVec 16) (l : List Nat) : (s.reportBelow ch gen floor l).ports = s.ports := by
  unfold State.reportBelow
  extract_lets below s1 s2
  have h2 : s2.ports = s.ports := State.each_induction (P := fun u => u.ports = s.ports) (s := s) _ rfl fun u e hu =>
    (State.mirror_emits ({ u with ledger := u.ledger.set e.1 { e.2 with st := 3 } } : State) _ _ _ (Emits.refl _)).reports.ports.trans hu
  clear_value s2
  split
  · exact (s2.goChan_ports ch _).trans h2
  · exact h2

/-- Where the interim record of a channel goes (R162). -/
def Chan.interimAddr (c : Chan) : Word64 := c.irec + BitVec.ofNat 64 (32 * (c.iseq.toNat % 2 ^ c.irsz.toNat))

/-- The record of a POST enters the egress queue of its program's module, and ISEQ counts (R162, R175). -/
theorem State.interim_post (hi : (s.chan ch).ien = true) (hg : s.gates = false) (hh : s.hold = false) (hl : (s.link (s.chModule ch)).holding = false)
    (ccw : Word64) (residual detail : Nat) :
    ∃ f, Worked s (s.interim ch true ccw residual detail) ch { s.chan ch with iseq := (s.chan ch).iseq + 1, rfloor := f } s.hawk.waits ∧
      (s.interim ch true ccw residual detail).ports = s.ports ∧
      ∃ e ∈ ((s.interim ch true ccw residual detail).link (s.chModule ch)).queue, e.kind.Stays ∧ e.addr = (s.chan ch).interimAddr ∧ e.bytes.length = 32 := by
  obtain ⟨u, hu⟩ : ∃ u, u = (s.beat (s.chan ch).wcls (tileOfCh ch) 1).goChan ch fun c => { c with iseq := c.iseq + 1 } := ⟨_, rfl⟩
  have hwork := ((Worked.refl s ch).beat (s.chan ch).wcls (tileOfCh ch) 1).goChan fun c => { c with iseq := c.iseq + 1 }
  rw [← hu] at hwork
  have huhold : u.hold = false := hwork.hold.trans hh
  have hugates : u.gates = false := by
    rw [hu, State.goChan_gates]
    exact hg
  have huports : u.ports = s.ports := by
    rw [hu, State.goChan_ports]
    rfl
  have huflows : Flows s u := by
    rw [hu]
    exact State.goChan_flows (State.beat_flows (.refl s) _ _ _) ch _
  have hul : (u.link (s.chModule ch)).holding = false := (huflows.links _).holding.trans hl
  obtain ⟨r, l, hr⟩ : ∃ (r : StatusRec) (l : List Nat), s.interim ch true ccw residual detail =
      u.enterInterim (s.chModule ch) ch (.below (s.chan ch).gen (s.chan ch).nextOrd l) (s.chan ch).interimAddr (r.bytes 0) := by
    unfold State.interim State.chModule
    dsimp only
    rw [hi, if_neg (by decide), ← hu]
    cases (s.chan ch).began <;> exact ⟨_, _, by unfold State.putRec; rw [huhold, hugates]; rfl⟩
  obtain ⟨v, hv⟩ : ∃ v, v = u.send (s.chModule ch) (.interim ch (.below (s.chan ch).gen (s.chan ch).nextOrd l)) (s.chan ch).interimAddr
    (stampFrame (r.bytes 0) u.frameLo) false := ⟨_, rfl⟩
  have hvemits : Emits u v := by
    rw [hv]
    exact State.send_emits _ _ _ _ _ _ (Emits.refl _)
  have hflow : u.heldAt (s.chModule ch) = false := hul
  obtain ⟨e, he, hkind, haddr, hbytes⟩ := State.egress_mem hul (.interim ch (.below (s.chan ch).gen (s.chan ch).nextOrd l)) (s.chan ch).interimAddr
    (stampFrame (r.bytes 0) u.frameLo) false
  rw [← State.send_flowing hul, ← hv] at he
  have hstays : e.kind.Stays := fun q hq => by
    rw [hkind] at hq
    cases hq
  have heq : s.interim ch true ccw residual detail = v.reportBelow ch (s.chan ch).gen (s.chan ch).nextOrd l := by
    rw [hr]
    unfold State.enterInterim
    dsimp only
    rw [← hv, hflow]
    rfl
  rw [heq]
  obtain ⟨f, hf⟩ := (hwork.emits hvemits).reportBelow (s.chan ch).gen (s.chan ch).nextOrd l
  exact ⟨f, hf, by rw [State.reportBelow_ports, hvemits.reports.ports, huports], e,
    ((State.reportBelow_flows (.refl v) ch _ _ _).links _).queue e he hstays, hstays, haddr, by rw [hbytes, stampFrame_length]⟩

theorem runs_post_on (h : CcwDue s ch 0x0D w) (hcc : ccwCc w = true) (hpi : ccwPi w = false) (hi : (s.chan ch).ien = true) (hg : s.gates = false)
    (hwaits : s.hostWaits (s.chModule ch) = false) (hheld : CcwHeld s ch ((s.chan ch).ccwa + 16)) :
    Runs (.post ch) s fun t => (t.chan ch).ccwa = (s.chan ch).ccwa + 16 ∧ (t.chan ch).iseq = (s.chan ch).iseq + 1 ∧
      (∃ e ∈ (t.link (s.chModule ch)).queue, e.addr = (s.chan ch).interimAddr ∧ e.bytes.length = 32) ∧ ProgramOf s t ch := by
  obtain ⟨hn, hdue, hin, -⟩ := id h
  obtain ⟨-, hhold, -, -⟩ := State.dueCcw_some hdue hin
  obtain ⟨-, hl⟩ := Bool.or_eq_false_iff.mp hwaits
  obtain ⟨u, hu⟩ : ∃ u, u = s.slotTaken ch := ⟨_, rfl⟩
  have hslot := s.slotTaken_alone ch
  have hflows : Flows s u := by
    rw [hu]
    exact (State.chargeCh_flows (.refl s) ch _).updChan ch _
  rw [← hu] at hslot
  have hmod : u.chModule ch = s.chModule ch := State.chModule_congr hflows (by rw [hslot.chan]) (by rw [hslot.chan])
  have huw : u.interimWaits ch = false := by
    unfold State.interimWaits
    rw [hmod, show u.hostWaits (s.chModule ch) = false by rw [hu]; exact hwaits, Bool.and_false]
  obtain ⟨f, hf, hports, e, he, hstays, haddr, hlen⟩ := State.interim_post (s := u) (ch := ch) (by rw [hslot.chan]; exact hi) (by rw [hu]; exact hg)
    (hslot.worked.hold.trans hhold) (by rw [hmod, hu]; exact hl) (u.chan ch).ccwa (u.chan ch).remain (ccwParam w).toNat
  obtain ⟨r, hr⟩ : ∃ r, r = u.interim ch true (u.chan ch).ccwa (u.chan ch).remain (ccwParam w).toNat := ⟨_, rfl⟩
  rw [← hr] at hf hports he
  rw [hmod] at he
  rw [hslot.chan] at hf haddr
  have hfin := (hslot.worked.trans hf).updChan fun c => { c with xfer := { c.xfer with phase := .none } }
  obtain ⟨v, hv⟩ := hfin.next (hports.trans hslot.ports) h ⟨rfl, rfl, rfl, rfl, rfl, rfl, rfl, rfl⟩ rfl hcc hpi hheld
  have hstep : u.doPost ch w = (r.updChan ch fun c => { c with xfer := { c.xfer with phase := .none } }).goOn ch := by
    unfold State.doPost
    rw [huw, hr]
    rfl
  rw [← hstep] at hv
  have hmem := ((State.goOn_flows ((Flows.refl r).updChan ch fun c => { c with xfer := { c.xfer with phase := .none } }) ch).links (s.chModule ch)).queue e he hstays
  rw [hu] at hv hstep
  refine h.runs (k := fun s w => s.doPost ch w) rfl hv ?_ (s.chan_noLedgerWait hn ch) ?_
  · rw [← hu, hslot.worked.waits, h.waits]
  · rw [hv.chan]
    exact ⟨rfl, rfl, ⟨e, hstep ▸ hmem, haddr, hlen⟩, hv.prog⟩

end Flow

/-- Settles O23: each command word leaves the channel at the CCW that it goes on at, or ends its program. -/
theorem commandWordsThatFlow : Obligations.CommandWordsThatFlow := fun _ _ _ =>
  ⟨runs_jump_near, runs_jump_far, runs_nop, runs_nop_last, fun _ h hs hheld => runs_skipif h hs hheld, runs_post_off,
    fun h hcc hpi hi hg _ hw hheld => runs_post_on h hcc hpi hi hg hw hheld⟩

end Sys2Proof.Machine
end

section
/-! PROOFS. Waits, their ends, and the events of channels (R138, R145, R154, R159, R161). -/

namespace Sys2Proof.Machine
open Sys2Proof

section Waits

variable {s t : State} {ch : Nat} {x : Chan} {w : BitVec 128}

theorem Worked.served {ws : List GrantWait} (h : Worked s t ch x ws) (hws : ws = []) (hn : s.noneWait) (hx : x.NoLedgerWait) : t.served = t :=
  State.served_of_noneWait ((hws ▸ h).noneWait hn hx)

/-- The bits 7 to 0 of a channel's condition word are replaced (R152). -/
def Chan.withBits (c : Chan) (bits : Nat) : Chan := { c with cond := BitVec.ofNat 16 (c.cond.toNat / 256 * 256 + bits % 256) }

theorem Worked.replaceCond {ws : List GrantWait} (h : Worked s t ch x ws) (bits : Nat) : Worked s (t.replaceCond ch bits) ch (x.withBits bits) ws := h.updChan _

theorem Alone.replaceCond (h : Alone s t ch x) (bits : Nat) : Alone s (t.replaceCond ch bits) ch (x.withBits bits) := h.updChan _

/-! ### A wait begins -/

/-- A channel that waits: its blocks are discarded, and of the command the flags stay that the wait's end needs (R154). -/
def Chan.waiting1 (c : Chan) (w : BitVec 128) (st : CState) (due : Option Nat) (mask : BitVec 16) : Chan :=
  { c with xfer := { pi := ccwPi w, cc := ccwCc w }, blocks := [], badBlock := none, fetched := false, st, due, mask, parked := false }

theorem Alone.beginWait (h : Alone s t ch x) (w : BitVec 128) (st : CState) (due : Option Nat) (mask : BitVec 16) :
    Alone s (t.beginWait ch w st due mask) ch (x.waiting1 w st due mask) :=
  ((h.updChan fun c => { c with xfer := { pi := ccwPi w, cc := ccwCc w } }).dropBlocks).goChan fun c => { c with st, due, mask, parked := false }

theorem runs_waitf (h : CcwDue s ch 0x0A w) :
    Runs (.waitf ch) s fun t => (t.chan ch).st = .waitTick ∧ (t.chan ch).parked = false ∧
      (t.chan ch).due = some (s.frm.frame.toNat + bitsOf (ccwParam w) 0 16) ∧ (t.chan ch).blocks = [] ∧ ChannelAlone s t ch := by
  have hv := (s.slotTaken_alone ch).beginWait w .waitTick (some ((s.slotTaken ch).frm.frame.toNat + bitsOf (ccwParam w) 0 16)) 0
  refine h.runs (k := fun s w => s.beginWait ch w .waitTick (some (s.frm.frame.toNat + bitsOf (ccwParam w) 0 16)) 0) rfl hv.worked h.waits nofun ?_
  rw [hv.chan]
  exact ⟨rfl, rfl, rfl, rfl, hv.alone⟩

theorem runs_waite_none (h : CcwDue s ch 0x0B w) (hnone : (s.chan ch).pend &&& BitVec.ofNat 16 (bitsOf (ccwParam w) 0 16) = 0) :
    Runs (.waite ch) s fun t => (t.chan ch).st = .waitEvent ∧ (t.chan ch).mask = BitVec.ofNat 16 (bitsOf (ccwParam w) 0 16) ∧
      (t.chan ch).due = (if bitsOf (ccwParam w) 16 16 = 0 then none else some (s.frm.frame.toNat + bitsOf (ccwParam w) 16 16)) ∧
      (t.chan ch).pend = (s.chan ch).pend ∧ (t.chan ch).blocks = [] ∧ ChannelAlone s t ch := by
  have hslot := s.slotTaken_alone ch
  have hv := hslot.beginWait w .waitEvent (if bitsOf (ccwParam w) 16 16 = 0 then none else some (s.frm.frame.toNat + bitsOf (ccwParam w) 16 16))
    (BitVec.ofNat 16 (bitsOf (ccwParam w) 0 16))
  have hstep : (s.slotTaken ch).doWaite ch w = (s.slotTaken ch).beginWait ch w .waitEvent
      (if bitsOf (ccwParam w) 16 16 = 0 then none else some (s.frm.frame.toNat + bitsOf (ccwParam w) 16 16)) (BitVec.ofNat 16 (bitsOf (ccwParam w) 0 16)) := by
    unfold State.doWaite
    dsimp only
    rw [hslot.chan, if_neg (not_not.mpr hnone)]
    rfl
  rw [← hstep] at hv
  refine h.runs (k := fun s w => s.doWaite ch w) rfl hv.worked h.waits nofun ?_
  rw [hv.chan]
  exact ⟨rfl, rfl, rfl, rfl, rfl, hv.alone⟩

/-! ### An event is taken -/

theorem lowestBit_eq {v : BitVec 16} {b : Nat} (hb : b < 16) (hset : bitOf v b = true) (hlow : ∀ i, i < b → bitOf v i = false) : lowestBit v.toNat = b := by
  have hfind : (List.range 16).find? (fun i => Nat.testBit v.toNat i) = some b :=
    List.find?_range_eq_some.mpr ⟨hset, List.mem_range.mpr hb, fun i hi => by rw [Bool.not_eq_true']; exact hlow i hi⟩
  rw [lowestBit, hfind]
  rfl

/-- A channel whose WAITE has taken the pending bit b (R152, R159). -/
def Chan.took (c : Chan) (b : Nat) : Chan :=
  Chan.withBits { c with pend := c.pend &&& ~~~(BitVec.ofNat 16 (2 ^ b)) } 32

theorem Alone.takeEvent (h : Alone s t ch x) {mask : BitVec 16} {b : Nat} (hb : lowestBit (x.pend &&& mask).toNat = b) :
    Alone s (t.takeEvent ch mask) ch (x.took b) := by
  unfold State.takeEvent
  dsimp only
  rw [h.chan, hb]
  exact (h.updChan fun c => { c with pend := c.pend &&& ~~~(BitVec.ofNat 16 (2 ^ b)) }).replaceCond 32

theorem runs_waite_takes {b : Nat} (hb : b < 16) (h : CcwDue s ch 0x0B w) (hcc : ccwCc w = true) (hpi : ccwPi w = false)
    (hheld : CcwHeld s ch ((s.chan ch).ccwa + 16)) (hset : bitOf ((s.chan ch).pend &&& BitVec.ofNat 16 (bitsOf (ccwParam w) 0 16)) b = true)
    (hlow : ∀ i, i < b → bitOf ((s.chan ch).pend &&& BitVec.ofNat 16 (bitsOf (ccwParam w) 0 16)) i = false) :
    Runs (.waite ch) s fun t => (t.chan ch).pend = (s.chan ch).pend &&& ~~~(BitVec.ofNat 16 (2 ^ b)) ∧
      (t.chan ch).cond = BitVec.ofNat 16 ((s.chan ch).cond.toNat / 256 * 256 + 32) ∧ (t.chan ch).ccwa = (s.chan ch).ccwa + 16 ∧
      (t.chan ch).st = .active ∧ ChannelAlone s t ch := by
  obtain ⟨hn, hdue, -⟩ := id h
  have hslot := s.slotTaken_alone ch
  have htake := hslot.takeEvent (lowestBit_eq hb hset hlow)
  obtain ⟨v, hv⟩ := htake.next htake.ports h ⟨rfl, rfl, rfl, rfl, rfl, rfl, rfl, rfl⟩ rfl hcc hpi hheld
  have hsome : (s.chan ch).pend &&& BitVec.ofNat 16 (bitsOf (ccwParam w) 0 16) ≠ 0 := fun h0 => by
    rw [h0] at hset
    simp [bitOf] at hset
  have hstep : (s.slotTaken ch).doWaite ch w = ((s.slotTaken ch).takeEvent ch (BitVec.ofNat 16 (bitsOf (ccwParam w) 0 16))).goOn ch := by
    unfold State.doWaite
    dsimp only
    rw [hslot.chan, if_pos hsome]
  rw [← hstep] at hv
  refine h.runs (k := fun s w => s.doWaite ch w) rfl hv.worked hn.1 (s.chan_noLedgerWait hn ch) ?_
  rw [hv.chan]
  exact ⟨rfl, rfl, rfl, State.dueCcw_active hdue, hv.alone⟩

/-! ### A wait ends -/

/-- The anchor of a channel is where it stands, of the next generation (R138, R159, R197). -/
def Chan.anchored (c : Chan) : Chan := { c with anchor := c.ccwa, gen := c.gen + 1, nextOrd := 0, rfloor := 0, replayTo := 0 }

theorem Worked.newAnchor {ws : List GrantWait} (h : Worked s t ch x ws) : Worked s (t.newAnchor ch) ch x.anchored ws := by
  have h1 := h.goChan fun c => { c with anchor := c.ccwa, gen := c.gen + 1, nextOrd := 0, rfloor := 0, replayTo := 0 }
  unfold State.newAnchor
  dsimp only
  split
  · exact h1
  · exact h1.same rfl rfl rfl

theorem State.newAnchor_classes (s : State) (ch : Nat) : (s.newAnchor ch).classes = s.classes := by
  unfold State.newAnchor
  dsimp only
  split <;> exact s.goChan_classes ch _

/-- A channel whose wait is over, at the CCW after it, its new anchor (R138, R145, R159). -/
def Chan.resumed (c : Chan) : Chan :=
  Chan.anchored { c with st := .active, due := none, mask := 0, parked := false, xfer := {}, ccwa := c.ccwa + 16, fetched := false }

/-- A wait with CC and no PI ends: the channel is at the CCW after it, and reads its block (R138, R145, R154, R159). -/
theorem State.endWait_reads (hread : t.mayRead ch) (hpi : (t.chan ch).xfer.pi = false) (hcc : (t.chan ch).xfer.cc = true) (hblocks : (t.chan ch).blocks = [])
    (hbad : (t.chan ch).badBlock = none) (hhalt : (t.chan ch).haltReq = false) (hret : (t.chan ch).retired = false) :
    Worked t (t.endWait ch) ch (t.chan ch).resumed t.hawk.waits ∧ (t.endWait ch).hasBlock ch ((t.chan ch).ccwa + 16) = true := by
  obtain ⟨v, hv⟩ : ∃ v, v = t.goChan ch fun c => { c with st := .active, due := none, mask := 0, parked := false } := ⟨_, rfl⟩
  obtain ⟨u, hu⟩ : ∃ u, u = ((v.updChan ch fun c => { c with xfer := {} }).goChan ch fun c =>
    { c with ccwa := c.ccwa + 16, fetched := false }).newAnchor ch := ⟨_, rfl⟩
  have hvw := (Worked.refl t ch).goChan fun c => { c with st := .active, due := none, mask := 0, parked := false }
  rw [← hv] at hvw
  have huw := ((hvw.updChan fun c => { c with xfer := {} }).goChan fun c => { c with ccwa := c.ccwa + 16, fetched := false }).newAnchor
  rw [← hu] at huw
  have hflows : Flows t u := by
    rw [hu, hv]
    exact State.newAnchor_flows (State.goChan_flows ((State.goChan_flows (.refl t) ch _).updChan ch _) ch _) ch
  have hclasses : u.classes = t.classes := by
    rw [hu, State.newAnchor_classes, State.goChan_classes, hv]
    exact t.goChan_classes ch _
  have hstep : t.endWait ch = u.fetchBlock ch := by
    unfold State.endWait
    dsimp only
    rw [hpi, hcc, ← hv]
    show State.reach (((v.updChan ch fun c => { c with xfer := {} }).goChan ch fun c => { c with ccwa := c.ccwa + 16, fetched := false }).newAnchor ch) ch = _
    rw [← hu]
    exact State.reach_unread huw.chan hret hhalt hblocks hbad
  rw [hstep]
  exact huw.fetchBlock (hread.kept hflows huw.chan rfl rfl rfl hclasses)

theorem Chan.isDue_of_le {c : Chan} {n f : Nat} (h : c.due = some n) (hn : n ≤ f) : c.isDue f = true := by
  unfold Chan.isDue
  rw [h]
  exact decide_eq_true hn

theorem runs_waitfExpiry {n : Nat} (hn : s.noneWait) (harb : s.arbiterOn = true) (hst : (s.chan ch).st = .waitTick) (hpark : (s.chan ch).parked = false)
    (hdue : (s.chan ch).due = some n) (hle : n ≤ s.frm.frame.toNat) (hpi : (s.chan ch).xfer.pi = false) (hcc : (s.chan ch).xfer.cc = true)
    (hblocks : (s.chan ch).blocks = []) (hbad : (s.chan ch).badBlock = none) (hpaid : BlockPaid s ch) :
    Runs (.waitfExpiry ch) s fun t => (t.chan ch).st = .active ∧ (t.chan ch).ccwa = (s.chan ch).ccwa + 16 ∧
      (t.chan ch).anchor = (s.chan ch).ccwa + 16 ∧ (t.chan ch).due = none ∧ t.hasBlock ch ((s.chan ch).ccwa + 16) = true ∧ ProgramOf s t ch := by
  obtain ⟨hhalt, hret, -⟩ := id hpaid
  obtain ⟨hv, hhas⟩ := State.endWait_reads hpaid.mayRead hpi hcc hblocks hbad hhalt hret
  refine ⟨s.endWait ch, ?_, ?_⟩
  · show execWaitfExpiry ch s = _
    unfold execWaitfExpiry
    dsimp only
    rw [hst, hpark, Chan.isDue_of_le hdue hle, harb, hv.served hn.1 hn nofun]
    rfl
  · dsimp only
    rw [hv.chan]
    exact ⟨rfl, rfl, rfl, rfl, hhas, hv.prog⟩

theorem runs_waiteTimeout {n : Nat} (hn : s.noneWait) (harb : s.arbiterOn = true) (hst : (s.chan ch).st = .waitEvent)
    (hdue : (s.chan ch).due = some n) (hle : n ≤ s.frm.frame.toNat) (hpi : (s.chan ch).xfer.pi = false) (hcc : (s.chan ch).xfer.cc = true)
    (hblocks : (s.chan ch).blocks = []) (hbad : (s.chan ch).badBlock = none) (hpaid : BlockPaid s ch) :
    Runs (.waiteTimeout ch) s fun t => (t.chan ch).st = .active ∧ (t.chan ch).ccwa = (s.chan ch).ccwa + 16 ∧
      (t.chan ch).cond = BitVec.ofNat 16 ((s.chan ch).cond.toNat / 256 * 256 + 8) ∧ (t.chan ch).pend = (s.chan ch).pend ∧
      t.hasBlock ch ((s.chan ch).ccwa + 16) = true ∧ ProgramOf s t ch := by
  obtain ⟨hhalt, hret, -⟩ := id hpaid
  have huw := (Worked.refl s ch).replaceCond 8
  have hread : (s.replaceCond ch 8).mayRead ch := hpaid.mayRead.kept ((Flows.refl s).updChan ch _) huw.chan rfl rfl rfl rfl
  obtain ⟨hv, hhas⟩ := State.endWait_reads hread (by rw [huw.chan]; exact hpi) (by rw [huw.chan]; exact hcc) (by rw [huw.chan]; exact hblocks)
    (by rw [huw.chan]; exact hbad) (by rw [huw.chan]; exact hhalt) (by rw [huw.chan]; exact hret)
  rw [huw.chan] at hv hhas
  have hwork := huw.trans hv
  refine ⟨(s.replaceCond ch 8).endWait ch, ?_, ?_⟩
  · show execWaiteTimeout ch s = _
    unfold execWaiteTimeout
    dsimp only
    rw [hst, Chan.isDue_of_le hdue hle, harb, hwork.served hn.1 hn nofun]
    rfl
  · dsimp only
    rw [hwork.chan]
    exact ⟨rfl, rfl, rfl, rfl, hhas, hwork.prog⟩

/-! ### Events of a channel that waits for none -/

/-- Events are set where the channel waits for none (R159). -/
theorem Alone.setEvents (h : Alone s t ch x) (hst : x.st ≠ .waitEvent) (bits : BitVec 16) :
    Alone s (t.setEvents ch bits) ch { x with pend := x.pend ||| bits } := by
  have hgo := h.goChan fun c => { c with pend := c.pend ||| bits }
  unfold State.setEvents
  dsimp only
  rw [hgo.chan, if_neg fun hc => hst hc.1]
  exact hgo

theorem runs_chEvtPendWrite {m : Nat} {bits : BitVec 16} (hch : ch < 4096) (hn : s.noneWait) (ha : s.admits m (chOff ch) = true)
    (hr : rightsOk m (chOff ch) = true) (hst : (s.chan ch).st ≠ .waitEvent) :
    Runs (.chEvtPendWrite m ch bits) s fun t => t.chan ch = { s.chan ch with pend := (s.chan ch).pend ||| bits } ∧ ChannelAlone s t ch := by
  have hv := (((Alone.refl s ch).emits (State.wakeFor_emits s (chOff ch) (Emits.refl s))).setEvents hst bits).emits
    (State.cfgMirror_emits _ (chOff ch + 0x34) 4 bits.toNat (Emits.refl _))
  refine ⟨_, ?_, hv.chan, hv.alone⟩
  show Host.Outcome.next (s.access m (chOff ch) fun s => s.chEvtPend m ch bits) = _
  rw [State.access_wakes _ ha (by unfold chOff; omega), State.chEvtPend, if_pos hr, hv.served hn (s.chan_noLedgerWait hn ch)]

/-! ### SIGNAL -/

/-- From r to t, in two steps of one channel each, only channels and what classes have spent have changed, but for reports. -/
theorem Reports.twoChannels {r s t : State} (h : Reports { r with chans := s.chans, classes := s.classes } s)
    (g : Reports { s with chans := t.chans, classes := t.classes } t) : Reports { r with chans := t.chans, classes := t.classes } t := by
  unfold Reports at *
  rw [h] at g
  exact g

/-- The row of a SIGNAL of an event that is due (R161, R215). -/
theorem CcwDue.onSignal (h : CcwDue s ch 0x10 w) (hevent : bitOf (ccwParam w) 31 = false) : s.onDue ch 0x10 (fun s w => s.doSignal ch w) =
    (((s.slotTaken ch).updChan ch fun c => { c with
        xfer := { cmd := 0x10, param := ccwParam w, first := (s.chan ch).ccwa, sl := ccwSl w, pi := c.xfer.pi } }).setEvents (bitsOf (ccwParam w) 0 12)
      (BitVec.ofNat 16 (2 ^ bitsOf (ccwParam w) 12 4))).endSignal ch 0 stOk 0 := by
  obtain ⟨-, hdue, -, -, hblk, hu, hf⟩ := h
  unfold State.onDue
  rw [hdue]
  dsimp only
  unfold State.doSignal
  dsimp only
  rw [hevent, if_neg Bool.false_ne_true, State.startCcw_fits hu hf hblk]
  rfl

/-- A SIGNAL without condition bits clears those of its channel and goes on (R150, R152). -/
theorem State.endSignal_clear (t : State) (ch : Nat) :
    t.endSignal ch 0 stOk 0 = ((t.replaceCond ch 0).updChan ch fun c => { c with xfer := { c.xfer with phase := .none, kmdSeq := none } }).goOn ch := by
  unfold State.endSignal
  dsimp only
  rw [if_neg (by simp)]
  rfl

theorem runs_signal {d : Nat} (h : CcwDue s ch 0x10 w) (hevent : bitOf (ccwParam w) 31 = false) (hd : d = bitsOf (ccwParam w) 0 12) (hne : d ≠ ch)
    (hst : (s.chan d).st ≠ .waitEvent) (hcc : ccwCc w = true) (hpi : ccwPi w = false) (hheld : CcwHeld s ch ((s.chan ch).ccwa + 16)) :
    Runs (.signal ch) s fun t => t.chan d = { s.chan d with pend := (s.chan d).pend ||| BitVec.ofNat 16 (2 ^ bitsOf (ccwParam w) 12 4) } ∧
      (t.chan ch).ccwa = (s.chan ch).ccwa + 16 ∧ (t.chan ch).cond = BitVec.ofNat 16 ((s.chan ch).cond.toNat / 256 * 256) ∧
      Reports { s with chans := t.chans, classes := t.classes } t ∧ ∀ k, k ≠ ch → k ≠ d → t.chan k = s.chan k := by
  obtain ⟨hn, -⟩ := id h
  obtain ⟨u, hu⟩ : ∃ u, u = (s.slotTaken ch).updChan ch fun c => { c with
    xfer := { cmd := 0x10, param := ccwParam w, first := (s.chan ch).ccwa, sl := ccwSl w, pi := c.xfer.pi } } := ⟨_, rfl⟩
  have hua := (s.slotTaken_alone ch).updChan fun c => { c with
    xfer := { cmd := 0x10, param := ccwParam w, first := (s.chan ch).ccwa, sl := ccwSl w, pi := c.xfer.pi } }
  rw [← hu] at hua
  obtain ⟨v, hv⟩ : ∃ v, v = u.setEvents d (BitVec.ofNat 16 (2 ^ bitsOf (ccwParam w) 12 4)) := ⟨_, rfl⟩
  have hud : u.chan d = s.chan d := hua.alone.2.1 d hne
  have hva := (Alone.refl u d).setEvents (by rw [hud]; exact hst) (BitVec.ofNat 16 (2 ^ bitsOf (ccwParam w) 12 4))
  rw [← hv] at hva
  have hvch := (hva.alone.2.1 ch hne.symm).trans hua.chan
  have hta := ((Alone.refl v ch).replaceCond 0).updChan fun c => { c with xfer := { c.xfer with phase := .none, kmdSeq := none } }
  rw [hvch] at hta
  obtain ⟨b, hb⟩ := hta.next (hva.ports.trans hua.ports) h ⟨rfl, rfl, rfl, rfl, rfl, rfl, rfl, rfl⟩ rfl hcc hpi hheld
  obtain ⟨t, ht⟩ : ∃ t, t = v.endSignal ch 0 stOk 0 := ⟨_, rfl⟩
  rw [← State.endSignal_clear, ← ht] at hb
  have hun : u.noneWait := (hn.1 ▸ hua.worked).noneWait hn (s.chan_noLedgerWait hn ch)
  have hvn : v.noneWait := (hun.1 ▸ hva.worked).noneWait hun (hud ▸ s.chan_noLedgerWait hn d)
  refine ⟨t, ?_, ?_, ?_, ?_, hua.reports.twoChannels hva.reports |>.twoChannels hb.reports, fun k hk hkd => ?_⟩
  · show Host.Outcome.next (s.onDue ch 0x10 fun s w => s.doSignal ch w).served = _
    rw [h.onSignal hevent, ← hu, ← hd, ← hv, ← ht, hb.served hvn (s.chan_noLedgerWait hn ch)]
  · rw [hb.alone.2.1 d hne, hva.chan, hud]
  · rw [hb.chan]
    rfl
  · rw [hb.chan]
    show BitVec.ofNat 16 ((s.chan ch).cond.toNat / 256 * 256 + 0 % 256) = _
    rw [Nat.zero_mod, Nat.add_zero]
  · rw [hb.alone.2.1 k hk, hva.alone.2.1 k hkd, hua.alone.2.1 k hk]

end Waits

/-- Settles O24: waits begin and end as their lemmas say, and events go to channels that wait for none. -/
theorem waitsBeginAndEnd : Obligations.WaitsBeginAndEnd := fun _ _ _ =>
  ⟨runs_waitf, runs_waite_none, fun _ => runs_waite_takes, fun _ => runs_waitfExpiry, fun _ => runs_waiteTimeout, fun _ _ => runs_chEvtPendWrite,
    fun _ => runs_signal⟩

end Sys2Proof.Machine
end

section
/-! PROOFS. The ends of data CCWs: the transfer ends, the program goes on, the port is free (R150 to R153, R163, R176). -/

namespace Sys2Proof.Machine
open Sys2Proof

section DataEnds

variable {r s t : State} {ch : Nat} {x : Chan} {ws : List GrantWait}

theorem Worked.updPort (h : Worked r t ch x ws) (p : Nat) (f : Port → Port) : Worked r (t.updPort p f) ch x ws := h.same rfl rfl rfl

theorem Worked.updXfer (h : Worked r t ch x ws) (f : Xfer → Xfer) : Worked r (t.updXfer ch f) ch { x with xfer := f x.xfer } ws := h.updChan _

/-- What is written to the die's memory before work is there after it. -/
theorem Worked.store (h : Worked r t ch x ws) (a : Nat) (l : List Byte) : Worked (r.store a l) (t.store a l) ch x ws := by
  refine ⟨?_, h.chans, h.waits⟩
  have ha := h.apart
  simp only [State.apart, Prod.mk.injEq] at ha
  simp only [State.apart, State.store, ha]

/-- An update of one port keeps the configuration in force of all, where it keeps its own. -/
theorem State.updPort_act (t : State) (p k : Nat) {f : Port → Port} (hf : ∀ q, (f q).act = q.act) : ((t.updPort p f).port k).act = (t.port k).act := by
  rw [State.updPort_def]
  by_cases hk : k = p
  · rw [hk, State.port_setPort, hf]
  · rw [t.port_setPort_ne p k _ hk]

/-! ### Going on -/

/-- A command that chains on with CC to a CCW that the channel holds goes on there (R153). -/
theorem Worked.goesOn (h : Worked r t ch x ws) (hgo : CcwGoesOn s ch) (hx : (s.chan ch).SameProgram x) (hact : ∀ p, (t.port p).act = (s.port p).act) :
    ∃ v, Worked r (t.goOn ch) ch (Chan.atCcw { x with inChain := false, xfer := {} } ((s.chan ch).ccwa + 16) v) ws ∧ (t.goOn ch).ports = t.ports := by
  obtain ⟨hin, hpi, ⟨w, hw, hcd, hcc, hwpi⟩, hheld, -⟩ := hgo
  have hstep : t.goOn ch = (t.updChan ch fun c => { c with inChain := false, xfer := {} }).goTo ch ((s.chan ch).ccwa + 16) := by
    unfold State.goOn
    dsimp only
    rw [h.chan, hx.heldCcw, hw]
    dsimp only
    rw [hcd, Bool.false_and, if_neg Bool.false_ne_true, hx.pi, hpi, hwpi, Bool.false_or, Bool.false_and, if_neg Bool.false_ne_true, if_neg Bool.false_ne_true,
      hcc, if_pos rfl, hx.ccwa]
  rw [hstep]
  exact (h.updChan fun c => { c with inChain := false, xfer := {} }).goTo hheld ⟨hx.blocks, hx.haltReq, hx.retired, rfl⟩ hact

/-! ### The end of a data CCW -/

theorem Worked.doneEffect (h : Worked r t ch x ws) (n : Nat) : Worked r (t.doneEffect ch n) ch x ws := by
  unfold State.doneEffect
  extract_lets y s1
  have h1 : Worked r s1 ch x ws := by
    dsimp only [s1]
    split
    · exact h
    · split
      · exact h
      · refine Worked.emits (s := if _ then _ else _) ?_ (State.mirror_emits _ _ _ _ (Emits.refl _))
        split
        · exact h.same rfl rfl rfl
        · exact h.same rfl rfl rfl
  clear_value s1
  split
  · exact h1
  · split
    · exact h1
    · exact h1.same rfl rfl rfl

theorem State.doneEffect_ports (t : State) (ch n : Nat) : (t.doneEffect ch n).ports = t.ports := by
  unfold State.doneEffect
  extract_lets y s1
  have h1 : s1.ports = t.ports := by
    dsimp only [s1]
    split
    · rfl
    · split
      · rfl
      · rw [(State.mirror_emits _ _ _ _ (Emits.refl _)).reports.ports]
        split <;> rfl
  clear_value s1
  split
  · exact h1
  · split <;> exact h1

/-- The DONE mark writes of the channel only that it is made (R176). -/
theorem Worked.doneOnce (h : Worked r t ch x ws) (n : Nat) :
    Worked r (t.doneOnce ch n) ch { x with xfer := { x.xfer with outDone := true } } ws ∧ (t.doneOnce ch n).ports = t.ports := by
  unfold State.doneOnce
  rw [h.chan]
  split
  next hd =>
    have hx : ({ x with xfer := { x.xfer with outDone := true } } : Chan) = x := by rw [← hd]
    rw [hx]
    exact ⟨h, rfl⟩
  next => exact ⟨(h.doneEffect n).updChan fun c => { c with xfer := { c.xfer with outDone := true } }, t.doneEffect_ports ch n⟩

/-- The CCW of a channel that goes on is no link of a chain (R148). -/
theorem CcwGoesOn.chained (hgo : CcwGoesOn s ch) (hx : (s.chan ch).SameProgram x) : x.chained = false := by
  obtain ⟨-, -, ⟨w, hw, hcd, -⟩, -⟩ := hgo
  unfold Chan.chained
  rw [hx.heldCcw, hw]
  exact hcd

/-- A data CCW of no chain with no bit of its own ends, and its condition bits do not end the program: they stand in the condition word, and
the program goes on (R150, R152, R153). -/
theorem Worked.endData (h : Worked r t ch x ws) (hgo : CcwGoesOn s ch) (hx : (s.chan ch).SameProgram x) (hact : ∀ p, (t.port p).act = (s.port p).act)
    (hcond : x.xfer.cond = 0) (hbits : x.xfer.bits = 0) (b : Nat) (hb : x.xfer.slHere = true ∨ lengthCode b = none) :
    ∃ y, Worked r (t.endData ch b) ch y ws ∧ (t.endData ch b).ports = (t.leaveReaders x.port ch).ports ∧ y.ccwa = (s.chan ch).ccwa + 16 ∧
      y.cond = BitVec.ofNat 16 (x.cond.toNat / 256 * 256 + b % 256) ∧ y.xfer = {} ∧ y.parked = x.parked ∧ y.why = x.why := by
  obtain ⟨u, hu⟩ : ∃ u, u = ((t.leaveReaders x.port ch).replaceCond ch b).updXfer ch fun x => { x with cond := b, bits := 0 } := ⟨_, rfl⟩
  have huw : Worked r u ch { x.withBits b with xfer := { x.xfer with cond := b, bits := 0 } } ws := by
    rw [hu]
    exact ((h.updPort x.port fun q => q.left ch).replaceCond b).updChan fun c => { c with xfer := { c.xfer with cond := b, bits := 0 } }
  have huports : u.ports = (t.leaveReaders x.port ch).ports := by
    rw [hu]
    rfl
  obtain ⟨hd, hdports⟩ := huw.doneOnce x.remain
  have hcode : (if x.xfer.slHere then none else lengthCode b) = none := by
    rcases hb with hsl | hnone
    · rw [hsl, if_pos rfl]
    · rw [hnone, ite_self]
  have hend : t.endData ch b = ((u.doneOnce ch x.remain).portion ch).goOn ch := by
    unfold State.endData
    dsimp only
    rw [h.chan, hcond, hbits, Nat.or_self, Nat.zero_or, hcode]
    dsimp only
    rw [hgo.chained hx, if_neg Bool.false_ne_true, ← hu]
  have hlast : ∀ p, (((u.doneOnce ch x.remain).portion ch).port p).act = (s.port p).act := fun p => by
    rw [State.port_congr (t := (u.doneOnce ch x.remain).portion ch) (s := t.leaveReaders x.port ch) (hdports.trans huports), ← hact]
    exact t.updPort_act x.port p fun _ => rfl
  obtain ⟨v, hv, hvports⟩ := (hd.updChan fun c => { c with portions := satInc c.portions }).goesOn hgo
    ⟨hx.blocks, hx.ccwa, hx.haltReq, hx.retired, hx.inChain, hx.pi, hx.parked, hx.why⟩ hlast
  rw [hend]
  exact ⟨_, hv, hvports.trans (hdports.trans huports), rfl, rfl, rfl, rfl, rfl⟩

/-! ### The port of a data CCW that has ended -/

/-- No unit is ready for a port and no Komond frame for its MAC: none starts there (R212, R358). -/
theorem State.kickPort_none {t : State} (hr : ∀ e ∈ t.chans, e.2.xfer.phase ≠ .ready) (hk : t.kmd.waiting = []) (p : Nat) : t.kickPort p = t := by
  have hnone : (t.chans.filter fun e => e.2.xfer.phase == .ready && e.2.st = .active && e.2.xfer.cmd != 0x10 && e.2.port == p) = [] :=
    List.filter_eq_nil_iff.mpr fun e he => by simp [hr e he]
  unfold State.kickPort
  dsimp only
  rw [hnone]
  unfold State.kmdFlush
  rw [hk]
  rfl

theorem Worked.kickPort (h : Worked s t ch x ws) (hx : x.xfer.phase ≠ .ready) (hr : NoUnitReady s) (p : Nat) : t.kickPort p = t := by
  have ha := h.apart
  simp only [State.apart, Prod.mk.injEq] at ha
  refine State.kickPort_none (fun e he => ?_) (by simp only [ha]; exact hr.2) p
  rcases h.chans with ⟨hc, -⟩ | hc
  · exact hr.1 e (hc ▸ he)
  · rcases Table.mem_set (hc ▸ he) with rfl | hm
    · exact hx
    · exact hr.1 e hm

theorem State.leaveReaders_port (t : State) (p ch : Nat) : (t.leaveReaders p ch).port p = (t.port p).left ch := t.port_setPort p _

/-! ### An output unit has left -/

/-- What an output unit that leaves changes of its port: timestamps, counts, and events that come up (R359, R366). -/
structure Port.Sent (q q' : Port) : Prop where
  frame : q' = { q with evt := q'.evt, rxdrop := q'.rxdrop, txts := q'.txts, txFrames := q'.txFrames, txErr := q'.txErr }
  evt : ∀ i, bitOf q.evt i = true → bitOf q'.evt i = true

theorem Port.Sent.refl (q : Port) : q.Sent q := ⟨rfl, fun _ => id⟩

theorem Port.Sent.trans {q q' q'' : Port} (h : q.Sent q') (g : q'.Sent q'') : q.Sent q'' := by
  refine ⟨?_, fun i hi => g.evt i (h.evt i hi)⟩
  have hg := g.frame
  rw [h.frame] at hg
  exact hg

/-- From s to t only ports have changed, as an output unit that leaves changes them, and reports. -/
structure UnitSent (s t : State) : Prop where
  reports : Reports { s with ports := t.ports } t
  port : ∀ p, (s.port p).Sent (t.port p)

theorem UnitSent.refl (s : State) : UnitSent s s := ⟨rfl, fun _ => .refl _⟩

theorem UnitSent.updPort (h : UnitSent s t) (p : Nat) (f : Port → Port) (hf : ∀ q : Port, q.Sent (f q)) : UnitSent s (t.updPort p f) := by
  refine ⟨?_, fun k => ?_⟩
  · have hr := h.reports
    unfold State.updPort
    generalize f (t.port p) = y
    unfold Reports State.setPort at *
    conv_lhs => rw [hr]
  · rw [State.updPort_def]
    by_cases hk : k = p
    · rw [hk, State.port_setPort]
      exact (h.port p).trans (hf _)
    · rw [t.port_setPort_ne p k _ hk]
      exact h.port k

theorem UnitSent.emits {u : State} (h : UnitSent s t) (g : Emits t u) : UnitSent s u := by
  refine ⟨?_, fun p => ?_⟩
  · rw [g.reports.ports]
    exact h.reports.trans g.reports
  · rw [State.port_congr g.reports.ports]
    exact h.port p

theorem UnitSent.portEvt (h : UnitSent s t) (p i : Nat) : UnitSent s (t.portEvt p i) :=
  UnitSent.emits (h.updPort p (fun q => { q with evt := q.evt ||| BitVec.ofNat 8 (2 ^ i) }) fun q => ⟨rfl, fun j hj => by
    unfold bitOf at *
    rw [BitVec.getLsbD_or, hj, Bool.true_or]⟩) (State.portLine_emits _ p (Emits.refl _))

theorem UnitSent.txStamp (h : UnitSent s t) (p ch : Nat) (param : Word32) : UnitSent s (t.txStamp p ch param) := by
  unfold State.txStamp
  split
  · split
    · refine UnitSent.portEvt (h.updPort p (fun q => { q with
        txts := q.txts ++ [(ch, BitVec.ofNat 64 (t.sfdTime p) - BitVec.ofNat 64 (bitsOf (t.pcfg p 0x10C) 0 16 / 10))] }) fun _ => ⟨rfl, fun _ => id⟩) p 7
    · exact UnitSent.portEvt (h.updPort p (fun q => { q with rxdrop := satInc q.rxdrop }) fun _ => ⟨rfl, fun _ => id⟩) p 4
  · exact h

theorem UnitSent.worked (h : UnitSent s t) (g : Worked r s ch x ws) : Worked r t ch x ws :=
  (g.same (t := { s with ports := t.ports }) rfl rfl rfl).reports h.reports

/-- A channel that has moved a unit of n bytes (R163, R219). -/
def Chan.movedUnit (c : Chan) (n : Nat) : Chan :=
  let c1 := ({ c with xfer := { c.xfer with total := c.xfer.total + n } } : Chan).showData
  { c1 with xfer := { c1.xfer with units := c1.xfer.units + 1 } }

theorem Worked.moved (h : Worked r t ch x ws) (n : Nat) : Worked r (t.moved ch n) ch (x.movedUnit n) ws := (h.updChan _).updChan _

/-- A channel whose output unit has left (R163, R174). -/
def Chan.unitLeft (c : Chan) : Chan :=
  { c.movedUnit c.xfer.unit with
    xfer := { (c.movedUnit c.xfer.unit).xfer with out := if c.xfer.cmd = 0x0F then c.xfer.out else c.xfer.out.drop c.xfer.unit } }

/-- Its program stands where it stood. -/
theorem Chan.unitLeft_same (x : Chan) : x.SameProgram x.unitLeft := ⟨rfl, rfl, rfl, rfl, rfl, rfl, rfl, rfl⟩

theorem Chan.unitLeft_port (x : Chan) : x.unitLeft.port = x.port := rfl

theorem Chan.unitLeft_cmd (x : Chan) : x.unitLeft.xfer.cmd = x.xfer.cmd := rfl

theorem Chan.unitLeft_cond (x : Chan) : x.unitLeft.xfer.cond = x.xfer.cond := rfl

theorem Chan.unitLeft_bits (x : Chan) : x.unitLeft.xfer.bits = x.xfer.bits := rfl

theorem Chan.unitLeft_pieces (x : Chan) : x.unitLeft.xfer.pieces = x.xfer.pieces := rfl

theorem Chan.unitLeft_out (x : Chan) : x.unitLeft.xfer.out = if x.xfer.cmd = 0x0F then x.xfer.out else x.xfer.out.drop x.xfer.unit := rfl

theorem Chan.unitLeft_condWord (x : Chan) : x.unitLeft.cond = x.cond := rfl

theorem Worked.outLeft (h : Worked r t ch x ws) (hp : portKind x.port ≠ some .gpio) :
    Worked r (t.outLeft ch) ch x.unitLeft ws ∧ ∀ p, (t.port p).Sent ((t.outLeft ch).port p) := by
  have hstamp := (UnitSent.refl t).txStamp x.port ch x.xfer.param
  obtain ⟨u, hsent, hstep⟩ : ∃ u, UnitSent t u ∧
      t.outLeft ch = (u.moved ch x.xfer.unit).updXfer ch fun y => { y with out := if y.cmd = 0x0F then y.out else y.out.drop y.unit } := by
    unfold State.outLeft
    dsimp only
    rw [h.chan, if_neg hp]
    split
    · exact ⟨_, hstamp.updPort x.port (fun q => { q with txFrames := q.txFrames + 1 }) fun _ => ⟨rfl, fun _ => id⟩, rfl⟩
    · exact ⟨_, hstamp.updPort x.port (fun q => { q with txErr := q.txErr - 1 }) fun _ => ⟨rfl, fun _ => id⟩, rfl⟩
    · exact ⟨_, hstamp, rfl⟩
  rw [hstep]
  exact ⟨((hsent.worked h).moved x.xfer.unit).updChan fun c =>
    { c with xfer := { c.xfer with out := if c.xfer.cmd = 0x0F then c.xfer.out else c.xfer.out.drop c.xfer.unit } }, hsent.port⟩

end DataEnds

end Sys2Proof.Machine
end

section
/-! PROOFS. DISPATCH, and the arrival of CCW blocks and of host data (R138, R144, R146, R154, R187, R197). -/

namespace Sys2Proof.Machine
open Sys2Proof

section Arrivals

variable {s : State} {ch : Nat}

/-! ### DISPATCH -/

theorem runs_dispatch {tn : Turn} (hn : s.noneWait) (harb : s.arbiterOn = true)
    (hpick : s.pickTurn (s.turns.get {} (tileOfCh ch)) (s.startable (tileOfCh ch)) = some (ch, tn)) (hu : s.unfitCh ch { disp := 1 } = false)
    (hf : s.fitsCh ch { disp := 1 } = true) (hblocks : (s.chan ch).blocks = []) (hbad : (s.chan ch).badBlock = none) (hpaid : BlockPaid s ch) :
    Runs (.dispatch ch) s fun t => (t.chan ch).st = .active ∧ (t.chan ch).anchor = (s.chan ch).ccwa ∧ (t.chan ch).gen = (s.chan ch).gen + 1 ∧
      t.turns = s.turns.set (tileOfCh ch) tn ∧ t.hasBlock ch (s.chan ch).ccwa = true ∧ ProgramOf { s with turns := t.turns } t ch := by
  obtain ⟨hhalt, hret, -⟩ := id hpaid
  obtain ⟨r, hr⟩ : ∃ r, r = ({ s with turns := s.turns.set (tileOfCh ch) tn } : State) := ⟨_, rfl⟩
  obtain ⟨u, hu'⟩ : ∃ u, u = (r.goChan ch fun c => { c with st := .active }).newAnchor ch := ⟨_, rfl⟩
  have hrch : r.chan ch = s.chan ch := by
    rw [hr]
    rfl
  have huw := ((Worked.refl r ch).goChan fun c => { c with st := .active }).newAnchor
  rw [← hu', hrch] at huw
  have hflows : Flows s u := by
    rw [hu', hr]
    exact State.newAnchor_flows (State.goChan_flows (hr ▸ (Flows.refl s).same (t := { s with turns := s.turns.set (tileOfCh ch) tn }) rfl) ch _) ch
  have hclasses : u.classes = s.classes := by
    rw [hu', State.newAnchor_classes, State.goChan_classes, hr]
  obtain ⟨hv, hhas⟩ := huw.fetchBlock (hpaid.mayRead.kept hflows huw.chan rfl rfl rfl hclasses)
  have hturns : (u.fetchBlock ch).turns = s.turns.set (tileOfCh ch) tn := by
    have ha := hv.apart
    simp only [State.apart, Prod.mk.injEq] at ha
    simp only [ha, hr]
  have hstep : s.dispatchCh ch = u.fetchBlock ch := by
    unfold State.dispatchCh
    dsimp only
    rw [harb, hpick]
    dsimp only
    rw [hu, hf, ← hr, ← hu', State.reach_unread huw.chan hret hhalt hblocks hbad]
    simp
  have hrn : r.noneWait := by
    rw [hr]
    exact hn
  refine ⟨u.fetchBlock ch, ?_, ?_⟩
  · show Host.Outcome.next (s.dispatchCh ch).served = _
    rw [hstep, hv.served hrn.1 hrn (s.chan_noLedgerWait hn ch)]
  · dsimp only
    rw [hv.chan, hturns, ← hr]
    exact ⟨rfl, rfl, rfl, rfl, hhas, hv.prog⟩

/-! ### A read that comes back -/

/-- Where a module has one read under way, none that waits, and the other module none, that read comes back (R66). -/
theorem State.endReadAny_only {md : Nat} {r : HostRead} (hmd : md < 2) (hr : (s.link md).reads = [r]) (hw : (s.link md).waiting = [])
    (ho : (s.link (otherMd md)).reads = []) :
    ∃ u, (∀ p : ReadReq → Bool, p r.req = true → s.endReadAny p = some (r, u)) ∧ Emits s u ∧ (u.link md).reads = [] := by
  obtain ⟨v, hv⟩ : ∃ v, v = s.updLink md fun l => { l with reads := [] } := ⟨_, rfl⟩
  have hany : ∀ p : ReadReq → Bool, p r.req = true → s.endReadAny p = some (r, v.pumpAll md) := fun p hp => by
    have htake : takeFirst (fun r => p r.req) [r] = some (r, []) := if_pos hp
    have hend : s.endRead md p = some (r, v.pumpAll md) := by
      unfold State.endRead
      rw [hr, htake, hv]
    unfold State.endReadAny
    obtain rfl | rfl : md = 0 ∨ md = 1 := by omega
    · rw [hend]
    · have hnone : s.endRead 0 p = none := by
        unfold State.endRead
        rw [show (s.link 0).reads = [] from ho]
        rfl
      rw [hnone, hend]
  have hvlink : v.link md = { s.link md with reads := [] } := by
    rw [hv]
    exact State.link_setLink _ _ _
  have hpump : v.pump md = v := by
    unfold State.pump
    rw [hvlink, hw]
    rfl
  have hlink : (v.pumpAll md).link md = v.link md := by
    obtain ⟨w, rs, heq⟩ := v.pump_eq (if md = 0 then 1 else 0)
    unfold State.pumpAll
    rw [hpump, heq]
    refine State.link_setLink_other _ _ ?_
    split <;> omega
  exact ⟨_, hany, State.endReadAny_emits (hany (fun _ => true) rfl), by rw [hlink, hvlink]⟩

/-! ### A CCW block -/

/-- A CCW that passes its checks and does not suspend is reached where no JUMP came before it (R146, R156, R158). -/
theorem State.reach_passed {t : State} {x : Chan} {w : BitVec 128} (hx : t.chan ch = x) (hr : x.retired = false) (hh : x.haltReq = false)
    (hin : x.inChain = false) (hw : x.heldCcw = some w) (hc : t.ccwCheck w none = none) (hj : x.afterJump = false) (hsu : ccwSu w = false) :
    t.reach ch = t.setChan ch (x.reached w) := by
  unfold State.reach
  dsimp only
  rw [hx, hr, hh, hin, hw, if_neg Bool.false_ne_true, Bool.false_and, if_neg Bool.false_ne_true]
  dsimp only
  rw [if_neg Bool.false_ne_true, hc]
  dsimp only
  rw [hj, hsu, Bool.and_false, Bool.false_and, if_neg Bool.false_ne_true, Bool.false_and, if_neg Bool.false_ne_true, State.updChan_def, hx]
  rfl

theorem runs_ccwBlockArrive {md : Nat} {r : HostRead} {a : Word64} {words : List (BitVec 128)} (hn : s.noneWait) (hmd : md < 2) (hr : (s.link md).reads = [r])
    (hw : (s.link md).waiting = []) (ho : (s.link (otherMd md)).reads = []) (hreq : r.req = .ccw ch a) (hst : (s.chan ch).st = .active)
    (hfe : (s.chan ch).fetched = false) (hph : (s.chan ch).xfer.phase = .none) (hhalt : (s.chan ch).haltReq = false) (hret : (s.chan ch).retired = false)
    (hin : (s.chan ch).inChain = false) (hj : (s.chan ch).afterJump = false) (hblk : blockOf (s.chan ch).ccwa = a)
    (hcheck : s.ccwCheck (words.getD (bitsOf (s.chan ch).ccwa 4 2) 0) none = none) (hsu : ccwSu (words.getD (bitsOf (s.chan ch).ccwa 4 2) 0) = false) :
    Runs (.ccwBlockArrive ch words) s fun t => (t.chan ch).blocks = [(a, words)] ∧ (t.chan ch).fetched = true ∧ (t.chan ch).ccwa = (s.chan ch).ccwa ∧
      (t.link md).reads = [] ∧ ChannelAlone s t ch := by
  obtain ⟨u, hu, hem, hreads⟩ := State.endReadAny_only hmd hr hw ho
  have hua := (Alone.refl s ch).emits hem
  have hkeep : ((s.chan ch).blocks.filter fun b => b.1 = blockOf (s.chan ch).ccwa && b.1 ≠ a) = [] :=
    List.filter_eq_nil_iff.mpr fun b _ => by simp [hblk]
  have hva := hua.updChan fun c => { c with blocks := (c.blocks.filter fun b => b.1 = blockOf c.ccwa && b.1 ≠ a) ++ [(a, words)] }
  rw [hkeep, List.nil_append] at hva
  obtain ⟨v, hv⟩ : ∃ v, v = u.updChan ch fun c => { c with blocks := (c.blocks.filter fun b => b.1 = blockOf c.ccwa && b.1 ≠ a) ++ [(a, words)] } := ⟨_, rfl⟩
  rw [← hv] at hva
  obtain ⟨w, hwd⟩ : ∃ w, w = words.getD (bitsOf (s.chan ch).ccwa 4 2) 0 := ⟨_, rfl⟩
  rw [← hwd] at hcheck hsu
  have hheld : ({ s.chan ch with blocks := [(a, words)] } : Chan).heldCcw = some w := by
    unfold Chan.heldCcw
    simp [hblk, hwd]
  have hreach : v.reach ch = v.setChan ch (Chan.reached { s.chan ch with blocks := [(a, words)] } w) :=
    State.reach_passed hva.chan hret hhalt hin hheld ((State.ccwCheck_congr (fun p => congrArg Port.act (State.port_congr hva.ports p)) w none).trans hcheck)
      hj hsu
  have hstep : s.blockArrive ch words = v.setChan ch (Chan.reached { s.chan ch with blocks := [(a, words)] } w) := by
    unfold State.blockArrive
    rw [hu _ (by rw [hreq]; exact beq_self_eq_true ch)]
    dsimp only
    rw [hreq]
    dsimp only
    rw [← hv, hva.chan, if_pos ⟨hst, hfe, hph, hblk⟩, hreach]
  have hta := hva.setChan (Chan.reached { s.chan ch with blocks := [(a, words)] } w)
  refine ⟨v.setChan ch (Chan.reached { s.chan ch with blocks := [(a, words)] } w), ?_, ?_⟩
  · show Host.Outcome.next (s.blockArrive ch words).served = _
    rw [hstep, hta.served hn (s.chan_noLedgerWait hn ch)]
  · dsimp only
    rw [hta.chan]
    refine ⟨rfl, rfl, rfl, ?_, hta.alone⟩
    rw [hv]
    exact hreads

/-! ### Host data for the local segment -/

/-- The data of a host piece have arrived: the transfer has them in hand, and no piece is left (R187). -/
def Xfer.gotData (x : Xfer) (bytes : List Byte) : Xfer := { x with out := bytes, pieces := [] }

theorem State.pull_done {u : State} {pc : Word64 × Nat} (hpieces : (u.chan ch).xfer.pieces = [pc]) (hz : pc.2 = 0) :
    u.pull ch = (u.updXfer ch fun x => { x with pieces := [] }).outReady ch := by
  have hlast : ((u.updXfer ch fun x => { x with pieces := [] }).chan ch).xfer.pieces = [] := by
    rw [State.updXfer, State.updChan_def, State.chan_setChan]
  have htake : u.takeDie ch ((u.chan ch).xfer.pieces.length + 1) = .ok (u.updXfer ch fun x => { x with pieces := [] }) := by
    rw [hpieces]
    show u.takeDie ch 2 = _
    unfold State.takeDie
    rw [hpieces]
    dsimp only
    rw [if_pos hz]
    unfold State.takeDie
    rw [hlast]
  unfold State.pull
  rw [htake]
  dsimp only
  rw [hlast]

theorem State.dataArrive_whole {u : State} {n : Nat} {a : Word64} {bytes : List Byte} (hlen : bytes.length = n) (hst : (u.chan ch).st = .active)
    (hph : (u.chan ch).xfer.phase = .data) (hpieces : (u.chan ch).xfer.pieces = [(a, n)]) (hout : (u.chan ch).xfer.out = []) :
    u.dataArrive ch a n bytes = (u.setChan ch { u.chan ch with xfer := (u.chan ch).xfer.gotData bytes }).outReady ch := by
  obtain ⟨v, hv⟩ : ∃ v, v = u.setChan ch { u.chan ch with
    xfer := { (u.chan ch).xfer with out := bytes, pieces := [(a + BitVec.ofNat 64 n, 0)] } } := ⟨_, rfl⟩
  have hvch : v.chan ch = { u.chan ch with xfer := { (u.chan ch).xfer with out := bytes, pieces := [(a + BitVec.ofNat 64 n, 0)] } } := by
    rw [hv, State.chan_setChan]
  have hstep : u.dataArrive ch a n bytes = v.pull ch := by
    unfold State.dataArrive
    dsimp only
    rw [hpieces]
    dsimp only
    rw [if_pos ⟨hph, rfl, hst⟩, hv, Nat.sub_self, State.updXfer, State.updChan_def, hout, List.nil_append, List.take_of_length_le hlen.le]
  have hset : (v.updXfer ch fun x => { x with pieces := [] }) = u.setChan ch { u.chan ch with xfer := (u.chan ch).xfer.gotData bytes } := by
    rw [State.updXfer, State.updChan_def, hvch, hv, State.setChan, State.setChan, Table.set_set]
    rfl
  rw [hstep, State.pull_done (by rw [hvch]) rfl, hset]

/-- The data of an output for the local segment are stored there, and the CCW ends (R144). -/
theorem State.outReady_local {u : State} (hcmd : (u.chan ch).xfer.cmd = 0x01) (hport : (u.chan ch).port = portLocal)
    (hret : u.lsegRetired ch (bitsOf (u.chan ch).xfer.param 16 16 + (u.chan ch).xfer.total) (u.chan ch).xfer.out.length = false) :
    u.outReady ch = ((((u.touchCell (u.chan ch).lbase).store
      ((u.chan ch).lsegAddr (bitsOf (u.chan ch).xfer.param 16 16 + (u.chan ch).xfer.total)) (u.chan ch).xfer.out).moved ch (u.chan ch).xfer.out.length).updXfer
        ch fun x => { x with out := [] }).endData ch 0 := by
  unfold State.outReady
  dsimp only
  rw [if_neg (by rw [hcmd]; decide), if_pos hport, hret, if_neg Bool.false_ne_true]

theorem State.lsegRetired_congr {s t : State} (hb : (t.chan ch).lbase = (s.chan ch).lbase) (hh : t.hawk = s.hawk) (off n : Nat) :
    t.lsegRetired ch off n = s.lsegRetired ch off n := by
  unfold State.lsegRetired State.retiredCell State.cell
  rw [hb, hh]

theorem runs_dataReadComplete {md n : Nat} {r : HostRead} {a : Word64} {bytes : List Byte} (hmd : md < 2) (hr : (s.link md).reads = [r])
    (hw : (s.link md).waiting = []) (ho : (s.link (otherMd md)).reads = []) (hreq : r.req = .data ch a n) (hlen : bytes.length = n)
    (hst : (s.chan ch).st = .active) (hcmd : (s.chan ch).xfer.cmd = 0x01) (hport : (s.chan ch).port = portLocal) (hph : (s.chan ch).xfer.phase = .data)
    (hpieces : (s.chan ch).xfer.pieces = [(a, n)]) (hout : (s.chan ch).xfer.out = []) (hcond : (s.chan ch).xfer.cond = 0)
    (hbits : (s.chan ch).xfer.bits = 0) (hret : s.lsegRetired ch (bitsOf (s.chan ch).xfer.param 16 16 + (s.chan ch).xfer.total) n = false)
    (hgo : CcwGoesOn s ch) (hmem : s.memOk) :
    Runs (.dataReadComplete ch bytes) s fun t =>
      t.bytesAt ((s.chan ch).lsegAddr (bitsOf (s.chan ch).xfer.param 16 16 + (s.chan ch).xfer.total)) n = bytes ∧
      MemOnly s t ((s.chan ch).lsegAddr (bitsOf (s.chan ch).xfer.param 16 16 + (s.chan ch).xfer.total)) n ∧
      (t.chan ch).ccwa = (s.chan ch).ccwa + 16 ∧ ProgramOf { s with mem := t.mem } t ch := by
  obtain ⟨-, -, -, -, hn⟩ := id hgo
  obtain ⟨off, hoff⟩ : ∃ off, off = bitsOf (s.chan ch).xfer.param 16 16 + (s.chan ch).xfer.total := ⟨_, rfl⟩
  obtain ⟨u, hu, hem, -⟩ := State.endReadAny_only hmd hr hw ho
  have huch : u.chan ch = s.chan ch := hem.reports.chan ch
  obtain ⟨x, hx⟩ : ∃ x : Chan, x = { s.chan ch with xfer := (s.chan ch).xfer.gotData bytes } := ⟨_, rfl⟩
  obtain ⟨v, hv⟩ : ∃ v, v = u.setChan ch x := ⟨_, rfl⟩
  have hvw : Worked s v ch x s.hawk.waits := hv ▸ ((Worked.refl s ch).emits hem).setChan x
  obtain ⟨r, hrd⟩ : ∃ r, r = s.store ((s.chan ch).lsegAddr off) bytes := ⟨_, rfl⟩
  obtain ⟨y, hy⟩ : ∃ y, y = (v.touchCell (s.chan ch).lbase).store ((s.chan ch).lsegAddr off) bytes := ⟨_, rfl⟩
  have htouch : Emits v (v.touchCell (s.chan ch).lbase) := State.touchCell_emits _ _ (Emits.refl v)
  have hyw : Worked r y ch x s.hawk.waits := hrd ▸ hy ▸ (hvw.emits htouch).store ((s.chan ch).lsegAddr off) bytes
  obtain ⟨z, hz⟩ : ∃ z, z = (y.moved ch n).updXfer ch fun x => { x with out := [] } := ⟨_, rfl⟩
  have hzw := (hyw.moved n).updXfer fun x => { x with out := [] }
  rw [← hz] at hzw
  have hports : z.ports = s.ports := by
    rw [hz, hy]
    show (v.touchCell (s.chan ch).lbase).ports = _
    rw [htouch.reports.ports, hv]
    exact hem.reports.ports
  have hact : ∀ p, (z.port p).act = (s.port p).act := fun p => congrArg Port.act (State.port_congr hports p)
  have hsame : (s.chan ch).SameProgram { x.movedUnit n with xfer := { (x.movedUnit n).xfer with out := [] } } := by
    rw [hx]
    exact ⟨rfl, rfl, rfl, rfl, rfl, rfl, rfl, rfl⟩
  obtain ⟨c, hc, -, hccwa, -, -, hpark, hwhy⟩ := hzw.endData hgo hsame hact (by rw [hx]; exact hcond) (by rw [hx]; exact hbits) 0 (.inr rfl)
  have hstep : s.dataComplete ch bytes = z.endData ch 0 := by
    have hvch : v.chan ch = x := hvw.chan
    have hlocal : v.outReady ch = z.endData ch 0 := by
      rw [State.outReady_local (by rw [hvch, hx]; exact hcmd) (by rw [hvch, hx]; exact hport) ?_, hvch, hz, hy, hx, hoff, ← hlen]
      · rfl
      · rw [State.lsegRetired_congr (s := s) (by rw [hvch, hx]) (by rw [hv]; exact hem.reports.hawk), hvch, hx]
        show s.lsegRetired ch (bitsOf (s.chan ch).xfer.param 16 16 + (s.chan ch).xfer.total) bytes.length = false
        rw [hlen]
        exact hret
    unfold State.dataComplete
    rw [hu _ (by rw [hreq]; exact beq_self_eq_true ch)]
    dsimp only
    rw [hreq]
    dsimp only
    rw [State.dataArrive_whole hlen (by rw [huch]; exact hst) (by rw [huch]; exact hph) (by rw [huch]; exact hpieces) (by rw [huch]; exact hout), huch,
      ← hx, ← hv, hlocal]
  have hmems : (z.endData ch 0).mem = Memory.setMany s.mem ((s.chan ch).lsegAddr off) bytes := by
    have ha := hc.apart
    simp only [State.apart, Prod.mk.injEq] at ha
    simp only [ha, hrd, State.store]
  refine ⟨z.endData ch 0, ?_, ?_⟩
  · show Host.Outcome.next (s.dataComplete ch bytes).served = _
    rw [hstep, hc.served hn.1 (hrd ▸ hn) fun hp => ?_]
    rw [hwhy, hx]
    rw [hpark, hx] at hp
    exact s.chan_noLedgerWait hn ch hp
  · dsimp only
    rw [hc.chan, ← hoff]
    refine ⟨?_, fun b hb => ?_, hccwa, ?_⟩
    · rw [← hlen]
      refine Eq.trans ?_ (State.bytesAt_store hmem ((s.chan ch).lsegAddr off) bytes)
      unfold State.bytesAt
      rw [hmems]
      rfl
    · rw [hmems]
      exact Memory.get_setMany_out _ _ _ _ (hlen ▸ hb)
    · have hp := hc.prog
      rw [hrd] at hp
      rw [hmems]
      exact hp

end Arrivals

/-- Settles O26: the dispatch, the block and the data each find the channel as its row expects it. -/
theorem dispatchAndArrivals : Obligations.DispatchAndArrivals := fun s ch hn => by
  refine ⟨fun tn hst harb hpick hu hf hblocks hbad hpaid => runs_dispatch hn harb hpick hu hf hblocks hbad hpaid, ?_, ?_⟩
  · intro md r a words hmd hr hw ho hreq hst hfe hph hhalt hret hin hj hblk hcheck hsu
    exact runs_ccwBlockArrive hn hmd hr hw ho hreq hst hfe hph hhalt hret hin hj hblk hcheck hsu
  · intro md n r a bytes hmd hr hw ho hreq hlen hst hcmd hport hph hpieces hout hcond hbits hret hgo hmem
    exact runs_dataReadComplete hmd hr hw ho hreq hlen hst hcmd hport hph hpieces hout hcond hbits hret hgo hmem

end Sys2Proof.Machine
end

section
/-! PROOFS. The last unit of a WRITE, timeouts, and CONTROL operations (R150, R152, R153, R163, R300, R353, R509). -/

namespace Sys2Proof.Machine
open Sys2Proof

section Units

variable {s t : State} {ch p : Nat} {x : Chan} {ws : List GrantWait}

/-- A port whose unit was this channel's has none any more. -/
theorem State.freePort_unitOn (h : (s.port p).unitOn = some ch) : ((s.freePort p ch).port p).unitOn = none := by
  rw [State.freePort, State.updPort_def, State.port_setPort]
  exact if_pos h

theorem State.freePort_act (s : State) (p ch k : Nat) : ((s.freePort p ch).port k).act = (s.port k).act := s.updPort_act p k fun _ => rfl

theorem Worked.freePort (s : State) (ch p : Nat) : Worked s (s.freePort p ch) ch (s.chan ch) s.hawk.waits := (Worked.refl s ch).updPort p _

/-! ### What is left of a transfer's end, once its port has been treated -/

/-- A data CCW that stands in x with no bits ends with the bits b, which do not end the program; nobody waits for its port (R150, R152). -/
theorem Worked.endsAt (h : Worked s t ch x s.hawk.waits) (hgo : CcwGoesOn s ch) (hx : (s.chan ch).SameProgram x) (hact : ∀ k, (t.port k).act = (s.port k).act)
    (hport : x.port = p) (hcond : x.xfer.cond = 0) (hbits : x.xfer.bits = 0) (b : Nat) (hb : x.xfer.slHere = true ∨ lengthCode b = none) :
    ∃ y, Worked s (t.endData ch b) ch y [] ∧ (t.endData ch b).port p = (t.port p).left ch ∧ y.ccwa = (s.chan ch).ccwa + 16 ∧
      y.cond = BitVec.ofNat 16 (x.cond.toNat / 256 * 256 + b % 256) ∧ y.xfer = {} ∧ (t.endData ch b).served = t.endData ch b := by
  obtain ⟨-, -, -, -, hn⟩ := id hgo
  obtain ⟨y, hy, hports, hccwa, hycond, hxfer, hpark, hwhy⟩ := h.endData hgo hx hact hcond hbits b hb
  have hwait : y.NoLedgerWait := fun hp => by
    rw [hwhy, hx.why]
    rw [hpark, hx.parked] at hp
    exact s.chan_noLedgerWait hn ch hp
  refine ⟨y, hn.1 ▸ hy, ?_, hccwa, hycond, hxfer, hy.served hn.1 hn hwait⟩
  rw [State.port_congr hports, hport, State.leaveReaders_port]

/-! ### The last unit of a WRITE -/

/-- A unit that its port answered is not one whose port saw a violation, where it saw none (R364). -/
theorem State.unitViol_none {r : UnitResult} (hcmd : (s.chan ch).xfer.cmd = 0x01) (hv : r.viol = none) : s.unitViol ch r = none := by
  unfold State.unitViol
  dsimp only
  rw [hcmd, hv]
  split <;> simp

/-- Once the last unit of an output has left, its CCW ends with no bit, and nobody waits for its port (R150, R152). -/
theorem Worked.outEnds (h : Worked s t ch (s.chan ch) s.hawk.waits) (hgo : CcwGoesOn s ch) (hact : ∀ k, (t.port k).act = (s.port k).act)
    (hp : p = (s.chan ch).port) (hgpio : portKind p ≠ some .gpio) (hcond : (s.chan ch).xfer.cond = 0) (hbits : (s.chan ch).xfer.bits = 0) :
    ∃ y q, Worked s ((t.outLeft ch).endData ch 0) ch y [] ∧ ((t.outLeft ch).endData ch 0).port p = q.left ch ∧ (t.port p).Sent q ∧
      y.ccwa = (s.chan ch).ccwa + 16 ∧ y.cond = BitVec.ofNat 16 ((s.chan ch).cond.toNat / 256 * 256) ∧ y.xfer = {} ∧
      ((t.outLeft ch).endData ch 0).served = (t.outLeft ch).endData ch 0 := by
  obtain ⟨hl, hsent⟩ := h.outLeft (hp ▸ hgpio)
  obtain ⟨u, hu⟩ : ∃ u, u = t.outLeft ch := ⟨_, rfl⟩
  rw [← hu] at hl hsent ⊢
  have hact' : ∀ k, (u.port k).act = (s.port k).act := fun k => by
    rw [(hsent k).frame]
    exact hact k
  obtain ⟨y, hy, hyp, hccwa, hycond, hxfer, hserved⟩ := hl.endsAt hgo (s.chan ch).unitLeft_same hact' ((s.chan ch).unitLeft_port.trans hp.symm)
    ((s.chan ch).unitLeft_cond.trans hcond) ((s.chan ch).unitLeft_bits.trans hbits) 0 (.inr rfl)
  refine ⟨y, u.port p, hy, hyp, hsent p, hccwa, hycond.trans ?_, hxfer, hserved⟩
  rw [Nat.zero_mod, Nat.add_zero, Chan.unitLeft_condWord]

/-- With the last bytes of a WRITE gone, and no more to come, its CCW is done (R150). -/
theorem Worked.unitEnds_last {x : Chan} {r : UnitResult} (h : Worked s t ch x s.hawk.waits) (hcmd : x.xfer.cmd = 0x01) (hreply : x.xfer.reply = false)
    (hgpio : portKind x.port ≠ some .gpio) (hlast : x.xfer.out.length ≤ x.xfer.unit) (hpieces : ∀ e ∈ x.xfer.pieces, e.2 = 0)
    (hnack : r.nack = false) (hto : r.timeout = false) : t.unitEnds ch r = (t.outLeft ch).endData ch 0 := by
  have hisOut : x.isOut = true := by
    unfold Chan.isOut
    rw [hcmd]
    rfl
  have hnone : (x.unitLeft.xfer.out.isEmpty && x.unitLeft.xfer.pieces.all fun e => e.2 = 0) = true := by
    rw [Chan.unitLeft_out, Chan.unitLeft_pieces, hcmd, if_neg (by decide), List.drop_eq_nil_of_le hlast]
    exact List.all_eq_true.mpr fun e he => decide_eq_true (hpieces e he)
  obtain ⟨hl, -⟩ := h.outLeft hgpio
  unfold State.unitEnds
  dsimp only
  rw [h.chan, hreply, if_neg Bool.false_ne_true, hisOut, if_pos rfl]
  unfold State.outUnit
  dsimp only
  rw [hnack, hto, hl.chan, Chan.unitLeft_cmd, hcmd, if_neg (by decide), if_neg (by decide), if_pos hnone]

theorem runs_portUnitComplete (hp : p = (s.chan ch).port) (hst : (s.chan ch).st = .active) (hcond : (s.chan ch).xfer.cond = 0)
    (hbits : (s.chan ch).xfer.bits = 0) {r : UnitResult} (hdie : s.die = .ready) (hcmd : (s.chan ch).xfer.cmd = 0x01) (hph : (s.chan ch).xfer.phase = .wire)
    (hreply : (s.chan ch).xfer.reply = false) (hon : (s.port p).unitOn = some ch) (hkind : portKind p ≠ some .gpio ∧ portKind p ≠ some .adc)
    (hlast : (s.chan ch).xfer.out.length ≤ (s.chan ch).xfer.unit) (hpieces : ∀ e ∈ (s.chan ch).xfer.pieces, e.2 = 0) (hawake : s.portAwake p = true)
    (hviol : r.viol = none) (hnack : r.nack = false) (hto : r.timeout = false) (hgo : CcwGoesOn s ch) (hready : NoUnitReady s) :
    Runs (.portUnitComplete ch r) s fun t => (t.chan ch).ccwa = (s.chan ch).ccwa + 16 ∧ (t.port p).unitOn = none ∧
      (t.chan ch).cond = BitVec.ofNat 16 ((s.chan ch).cond.toNat / 256 * 256) ∧ ProgramOf s t ch := by
  obtain ⟨hgpio, hadc⟩ := hkind
  obtain ⟨y, q, hy, hyp, hq, hccwa, hycond, hxfer, hserved⟩ := (Worked.freePort s ch p).outEnds hgo (s.freePort_act p ch) hp hgpio hcond hbits
  have hends : (s.freePort p ch).unitEnds ch r = ((s.freePort p ch).outLeft ch).endData ch 0 :=
    (Worked.freePort s ch p).unitEnds_last hcmd hreply (hp ▸ hgpio) hlast hpieces hnack hto
  have hkick := hy.kickPort (by rw [hxfer]; exact nofun) hready p
  refine ⟨((s.freePort p ch).outLeft ch).endData ch 0, ?_, ?_⟩
  · show Host.Outcome.next (s.unitComplete ch r).served = _
    have hplain : s.unitIsPlain ch = true := by
      unfold State.unitIsPlain usesWire
      dsimp only
      rw [hcmd, ← hp]
      simp [hadc]
    unfold State.unitComplete
    dsimp only
    rw [if_pos ⟨hst, hph, hp ▸ hon, hplain, hdie, hp ▸ hawake⟩, State.unitViol_none hcmd hviol, ← hp]
    dsimp only
    rw [hends, hkick, hserved]
  · dsimp only
    rw [hy.chan, hyp]
    refine ⟨hccwa, ?_, hycond, hy.prog⟩
    rw [Port.left, hq.frame]
    exact State.freePort_unitOn hon

/-! ### Timeouts -/

/-- SHORT and ZERO of an input of which nothing came (R152). -/
theorem Xfer.inBits_none {x : Xfer} (ht : x.total = 0) (hl : 0 < x.left) : x.inBits = 129 := by
  unfold Xfer.inBits
  rw [ht, decide_eq_true hl]
  rfl

theorem runs_rxTimeout (hp : p = (s.chan ch).port) (hst : (s.chan ch).st = .active) (hcond : (s.chan ch).xfer.cond = 0) (hbits : (s.chan ch).xfer.bits = 0)
    (hcmd : (s.chan ch).xfer.cmd = 0x02) (hph : (s.chan ch).xfer.phase = .input) (hrx : s.rxTo p ≠ 0) (htotal : (s.chan ch).xfer.total = 0)
    (hleft : 0 < (s.chan ch).xfer.left) (hsl : (s.chan ch).xfer.slHere = true) (hreaders : (s.port p).readers = [ch]) (hgo : CcwGoesOn s ch) :
    Runs (.rxTimeout ch) s fun t => (t.chan ch).ccwa = (s.chan ch).ccwa + 16 ∧ (t.port p).readers = [] ∧
      (t.chan ch).cond = BitVec.ofNat 16 ((s.chan ch).cond.toNat / 256 * 256 + 137) ∧ ProgramOf s t ch := by
  obtain ⟨u, hu⟩ : ∃ u, u = s.updXfer ch fun x => { x with ended := true } := ⟨_, rfl⟩
  have huw := (Worked.refl s ch).updXfer fun x => { x with ended := true }
  rw [← hu] at huw
  have huport : u.port p = s.port p := by
    rw [hu]
    rfl
  obtain ⟨y, hy, hyp, hccwa, hycond, -, hserved⟩ := huw.endsAt hgo ⟨rfl, rfl, rfl, rfl, rfl, rfl, rfl, rfl⟩ (fun k => by rw [hu]; rfl) hp.symm hcond hbits
    137 (.inl hsl)
  have hnobody : ((u.endData ch 137).port p).readers = [] := by
    rw [hyp, huport, Port.left, hreaders]
    simp
  have hpace : (u.endData ch 137).pace p = u.endData ch 137 := by
    unfold State.pace
    rw [hnobody]
  refine ⟨u.endData ch 137, ?_, ?_⟩
  · show Host.Outcome.next (s.rxTimeout ch).served = _
    unfold State.rxTimeout
    dsimp only
    rw [← hp, if_pos ⟨hst, hcmd, .inl hph, hrx⟩, if_pos htotal, Xfer.inBits_none htotal hleft, ← hu, show (8 ||| 129 : Nat) = 137 from rfl, hpace, hserved]
  · dsimp only
    rw [hy.chan]
    exact ⟨hccwa, hnobody, hycond, hy.prog⟩

theorem runs_modbusResponseTimeout (hp : p = (s.chan ch).port) (hst : (s.chan ch).st = .active) (hcond : (s.chan ch).xfer.cond = 0)
    (hbits : (s.chan ch).xfer.bits = 0) (hcmd : (s.chan ch).xfer.cmd = 0x02) (hph : (s.chan ch).xfer.phase = .wire) (hkind : portKind p = some .uart)
    (hmod : s.isModbus p = true) (htotal : (s.chan ch).xfer.total = 0) (hleft : 0 < (s.chan ch).xfer.left) (hsl : (s.chan ch).xfer.slHere = true)
    (hon : (s.port p).unitOn = some ch) (hgo : CcwGoesOn s ch) (hready : NoUnitReady s) :
    Runs (.modbusResponseTimeout ch) s fun t => (t.chan ch).ccwa = (s.chan ch).ccwa + 16 ∧ (t.port p).unitOn = none ∧ (t.port p).adu = [] ∧
      (t.chan ch).cond = BitVec.ofNat 16 ((s.chan ch).cond.toNat / 256 * 256 + 137) ∧ ProgramOf s t ch := by
  obtain ⟨u, hu⟩ : ∃ u, u = ((s.freePort p ch).updPort p fun q => { q with adu := [] }).updXfer ch fun x => { x with ended := true } := ⟨_, rfl⟩
  have huw := ((Worked.freePort s ch p).updPort p fun q => { q with adu := [] }).updXfer fun x => { x with ended := true }
  rw [← hu] at huw
  have huport : u.port p = { (s.freePort p ch).port p with adu := [] } := by
    rw [hu]
    exact State.port_setPort _ _ _
  have hact : ∀ k, (u.port k).act = (s.port k).act := fun k => by
    rw [hu]
    exact ((s.freePort p ch).updPort_act p k (f := fun q => { q with adu := [] }) fun _ => rfl).trans (s.freePort_act p ch k)
  obtain ⟨y, hy, hyp, hccwa, hycond, hxfer, hserved⟩ := huw.endsAt hgo ⟨rfl, rfl, rfl, rfl, rfl, rfl, rfl, rfl⟩ hact hp.symm hcond hbits 137 (.inl hsl)
  have hbit : s.recvBits ch = 129 := by
    unfold State.recvBits Chan.isOut
    dsimp only
    rw [hcmd, if_neg (by decide), if_neg (by decide), Xfer.inBits_none htotal hleft]
  have hkick := hy.kickPort (by rw [hxfer]; exact nofun) hready p
  refine ⟨u.endData ch 137, ?_, ?_⟩
  · show execModbusResponseTimeout ch s = _
    unfold execModbusResponseTimeout
    dsimp only
    rw [← hp, if_pos ⟨hst, hph, hkind, hmod, .inr hcmd⟩, hbit, ← hu, show (8 ||| 129 : Nat) = 137 from rfl, hkick, hserved]
  · dsimp only
    rw [hy.chan, hyp, huport]
    exact ⟨hccwa, State.freePort_unitOn hon, rfl, hycond, hy.prog⟩

/-- A program fails where it stands, with its entry and its module as for a quiet end: its channel is in the end state of the code (R138, R148, R174). -/
theorem State.failAt_over {code : BitVec 16} (detail : Nat) (hg : s.gates = false) (hh : s.hold = false) (hl : (s.link (s.chModule ch)).holding = false)
    (hf : s.noFence) (hw : (s.chan ch).waiting = []) :
    ∃ y, Worked s (s.failAt ch code detail) ch y (s.hawk.waits.filter fun w => w.ch ≠ ch) ∧ y.Over code := by
  obtain ⟨u, hu⟩ : ∃ u, u = s.updChan ch fun c => { c with ccwa := (s.chan ch).stand.1 } := ⟨_, rfl⟩
  have huw := (Worked.refl s ch).updChan fun c => { c with ccwa := (s.chan ch).stand.1 }
  rw [← hu] at huw
  have hflows : Flows s u := hu ▸ (Flows.refl s).updChan ch _
  have hend : ∀ v : State, v = { u with freeNext := v.freeNext } → ∀ n,
      ∃ y, Worked s (v.endProgram ch code n detail) ch y (s.hawk.waits.filter fun w => w.ch ≠ ch) ∧ y.Over code := fun v hv n => by
    have hvw : Worked s v ch _ s.hawk.waits := huw.same (by rw [hv]) (by rw [hv]) (by rw [hv])
    have hmod : v.chModule ch = s.chModule ch := State.chModule_congr (hflows.same (by rw [hv])) (by rw [hvw.chan]) (by rw [hvw.chan])
    obtain ⟨y, hy, hover⟩ := State.endProgram_over (s := v) (ch := ch) code n detail (by rw [hv, hu]; exact hg) (by rw [hv, hu]; exact hh)
      (by rw [hmod, hv, hu]; exact hl) (by rw [hv, hu]; exact hf) (by rw [hvw.chan]; exact hw)
    rw [hvw.waits] at hy
    exact ⟨y, hvw.trans hy, hover⟩
  unfold State.failAt
  dsimp only
  rw [← hu]
  split
  · exact hend u rfl _
  · exact hend u.takeWord.2 rfl _

theorem runs_hawkGrantTimeout {g : GrantWait} (hwaits : s.hawk.waits = [g]) (hg : g.ch = ch) (hticks : 2 ≤ g.ticks)
    (hq : EndsQuietly { s with hawk := { s.hawk with waits := [] } } ch) :
    Runs (.hawkGrantTimeout ch) s fun t => (t.chan ch).st = .error ∧ (t.chan ch).lastStatus = stHawkExhausted ∧ t.noneWait ∧ ProgramOf s t ch := by
  obtain ⟨r, hr⟩ : ∃ r, r = s.unwaitGrant ch := ⟨_, rfl⟩
  have hrs : r = { s with hawk := { s.hawk with waits := [] } } := by
    rw [hr, State.unwaitGrant, hwaits]
    simp [hg]
  rw [← hrs] at hq
  obtain ⟨hgates, hhold, hn, hwait, hf, hl, -⟩ := hq
  obtain ⟨y, hy, hover⟩ := State.failAt_over (code := stHawkExhausted) 0 hgates hhold hl hf hwait
  rw [hn.1] at hy
  have htn : (r.failAt ch stHawkExhausted 0).noneWait := hy.noneWait hn fun hp => by
    rw [hover.parked] at hp
    cases hp
  refine ⟨r.failAt ch stHawkExhausted 0, ?_, ?_⟩
  · show execHawkGrantTimeout ch s = _
    unfold execHawkGrantTimeout
    rw [hwaits, List.find?_cons_of_pos (by simp [hg])]
    dsimp only
    rw [if_pos hticks, ← hr, State.served_of_noneWait htn]
  · dsimp only
    rw [hy.chan]
    have hrp : ProgramOf s r ch := hrs ▸ (ProgramOf.refl s ch).same rfl rfl
    exact ⟨hover.st, hover.lastStatus, htn, hrp.trans hy.prog⟩

end Units

/-- Settles O27: units and timeouts end the CCW with its bits, and a grant that is not served ends its program. -/
theorem unitsAndTimeouts : Obligations.UnitsAndTimeouts := fun s ch p hp hst hcond hbits => by
  refine ⟨fun r hdie hcmd hph hreply hon hkind => ?_, runs_rxTimeout hp hst hcond hbits, runs_modbusResponseTimeout hp hst hcond hbits, fun _ => runs_hawkGrantTimeout⟩
  refine runs_portUnitComplete hp hst hcond hbits hdie hcmd hph hreply hon ⟨?_, ?_⟩
  all_goals
    intro h
    rw [h] at hkind
    simp at hkind

end Sys2Proof.Machine
end

section
/-! PROOFS. CONTROL operations that a port has applied (R153, R509). -/

namespace Sys2Proof.Machine
open Sys2Proof

section Control

variable {s : State} {ch p : Nat}

/-- What O28 has of every CONTROL operation: its port and channel, with no bit set, and nobody waiting for the port. -/
structure CtlReady (s : State) (ch p : Nat) : Prop where
  port : p = (s.chan ch).port
  cond : (s.chan ch).xfer.cond = 0
  bits : (s.chan ch).xfer.bits = 0
  unitOn : (s.port p).unitOn = some ch
  goesOn : CcwGoesOn s ch
  noReady : NoUnitReady s

/-- A CONTROL operation is no operation of a GPIO port (R509). -/
theorem State.ctlOn_notGpio {op : Nat} (h : s.ctlOn ch op = true) : portKind (s.chan ch).port ≠ some .gpio := by
  intro hk
  unfold State.ctlOn at h
  dsimp only at h
  rw [hk] at h
  simp at h

/-- What an operation does to its port and to the cells of its units: other ports keep their configuration, and no wire is taken. -/
structure CtlEffect (s t : State) (ch p : Nat) : Prop where
  worked : Worked s t ch (s.chan ch) s.hawk.waits
  act : ∀ k, (t.port k).act = (s.port k).act
  unitOn : (t.port p).unitOn = none

theorem CtlEffect.freed (h : (s.port p).unitOn = some ch) : CtlEffect s (s.freePort p ch) ch p :=
  ⟨.freePort s ch p, s.freePort_act p ch, State.freePort_unitOn h⟩

theorem CtlEffect.updPort {t : State} (h : CtlEffect s t ch p) {f : Port → Port} (hact : ∀ q, (f q).act = q.act) (hon : ∀ q, (f q).unitOn = q.unitOn) :
    CtlEffect s (t.updPort p f) ch p := by
  refine ⟨h.worked.updPort p f, fun k => (t.updPort_act p k hact).trans (h.act k), ?_⟩
  rw [State.updPort_def, State.port_setPort, hon]
  exact h.unitOn

/-- The port has applied an operation: the program goes on, the wire is free, and the port is as the operation leaves it (R153, R509). -/
theorem CtlReady.runs (h : CtlReady s ch p) {i : Instr} {op : Nat} {f : State → Nat → State} (hi : exec i s = .next (s.ctlDone ch op f).served)
    (hon : s.ctlOn ch op = true) (he : CtlEffect s (f (s.freePort p ch) p) ch p) {P : Port → Prop}
    (hP : ∀ q : Port, ((f (s.freePort p ch) p).port p).Sent q → P (q.left ch)) :
    Runs i s fun t => P (t.port p) ∧ (t.chan ch).ccwa = (s.chan ch).ccwa + 16 ∧ (t.port p).unitOn = none ∧ ProgramOf s t ch := by
  obtain ⟨y, q, hy, hyp, hq, hccwa, -, hxfer, hserved⟩ := he.worked.outEnds h.goesOn he.act h.port (h.port ▸ State.ctlOn_notGpio hon) h.cond h.bits
  have hkick := hy.kickPort (by rw [hxfer]; exact nofun) h.noReady p
  refine ⟨((f (s.freePort p ch) p).outLeft ch).endData ch 0, ?_, ?_⟩
  · rw [hi, State.ctlDone, if_pos hon]
    dsimp only
    rw [← h.port, hkick, hserved]
  · dsimp only
    rw [hy.chan, hyp]
    refine ⟨hP q hq, hccwa, ?_, hy.prog⟩
    rw [Port.left, hq.frame]
    exact he.unitOn

theorem CtlReady.freed (h : CtlReady s ch p) : CtlEffect s (s.freePort p ch) ch p := .freed h.unitOn

/-- An operation that changes fields of its port alone. -/
theorem CtlReady.runsPort (h : CtlReady s ch p) {i : Instr} {op : Nat} {f : State → Nat → State} (hi : exec i s = .next (s.ctlDone ch op f).served)
    (hon : s.ctlOn ch op = true) {g : Port → Port} (hf : f (s.freePort p ch) p = (s.freePort p ch).updPort p g) (hact : ∀ q, (g q).act = q.act)
    (hunit : ∀ q, (g q).unitOn = q.unitOn) {P : Port → Prop} (hP : ∀ q : Port, (g ((s.freePort p ch).port p)).Sent q → P (q.left ch)) :
    Runs i s fun t => P (t.port p) ∧ (t.chan ch).ccwa = (s.chan ch).ccwa + 16 ∧ (t.port p).unitOn = none ∧ ProgramOf s t ch := by
  refine h.runs hi hon ?_ fun q hq => hP q ?_
  · rw [hf]
    exact h.freed.updPort hact hunit
  · rwa [hf, State.updPort_def, State.port_setPort] at hq

theorem CtlReady.lineTest (h : CtlReady s ch p) {readings : List Word32} (hon : s.ctlOn ch 1 = true)
    (hk : portKind p = some .t1s ∨ portKind p = some .can ∨ portKind p = some .i2c) :
    Runs (.lineTest ch readings) s fun t => (t.port p).lineMon = readings.take 22 ∧ (t.chan ch).ccwa = (s.chan ch).ccwa + 16 ∧
      (t.port p).unitOn = none ∧ ProgramOf s t ch := by
  refine h.runsPort (f := fun s p => s.lineDiag p readings) (g := fun q => { q with lineMon := readings.take 22 }) (P := fun q => q.lineMon = readings.take 22)
    rfl hon ?_ (fun _ => rfl) (fun _ => rfl) fun q hq => by rw [hq.frame]; rfl
  unfold State.lineDiag
  rcases hk with hk | hk | hk <;> rw [hk]

theorem State.freePort_pcfg (s : State) (p ch k o : Nat) : (s.freePort p ch).pcfg k o = s.pcfg k o := by
  unfold State.pcfg
  rw [s.freePort_act]

theorem CtlReady.plcaFollower (h : CtlReady s ch p) (hon : s.ctlOn ch 2 = true) (hc : bitOf (s.pcfg p 0x100) 2 = false) :
    Runs (.plcaSync ch) s fun t => (t.port p).silent = true ∧ (t.chan ch).ccwa = (s.chan ch).ccwa + 16 ∧ (t.port p).unitOn = none ∧ ProgramOf s t ch := by
  refine h.runsPort (f := fun s p => s.updPort p fun q => if bitOf (s.pcfg p 0x100) 2 then { q with beaconHeld := false, curId := 0 } else { q with silent := true })
    (g := fun q => { q with silent := true }) (P := fun q => q.silent = true) rfl hon ?_ (fun _ => rfl) (fun _ => rfl) fun q hq => by rw [hq.frame]; rfl
  rw [State.freePort_pcfg, hc]
  rfl

theorem CtlReady.plcaCoordinator (h : CtlReady s ch p) (hon : s.ctlOn ch 2 = true) (hc : bitOf (s.pcfg p 0x100) 2 = true) :
    Runs (.plcaSync ch) s fun t => ((t.port p).beaconHeld = false ∧ (t.port p).curId = 0) ∧ (t.chan ch).ccwa = (s.chan ch).ccwa + 16 ∧
      (t.port p).unitOn = none ∧ ProgramOf s t ch := by
  refine h.runsPort (f := fun s p => s.updPort p fun q => if bitOf (s.pcfg p 0x100) 2 then { q with beaconHeld := false, curId := 0 } else { q with silent := true })
    (g := fun q => { q with beaconHeld := false, curId := 0 }) (P := fun q => q.beaconHeld = false ∧ q.curId = 0) rfl hon ?_ (fun _ => rfl) (fun _ => rfl)
    fun q hq => by rw [hq.frame]; exact ⟨rfl, rfl⟩
  rw [State.freePort_pcfg, hc]
  rfl

theorem CtlReady.brk (h : CtlReady s ch p) (hon : s.ctlOn ch 4 = true) :
    Runs (.brk ch) s fun t => (t.port p).breakOn = false ∧ (t.chan ch).ccwa = (s.chan ch).ccwa + 16 ∧ (t.port p).unitOn = none ∧ ProgramOf s t ch :=
  h.runsPort (f := fun s p => s.updPort p fun q => { q with breakOn := false }) (P := fun q => q.breakOn = false) rfl hon rfl (fun _ => rfl) (fun _ => rfl)
    fun q hq => by rw [hq.frame]; rfl

theorem CtlReady.busRecovery (h : CtlReady s ch p) (hon : s.ctlOn ch 6 = true) :
    Runs (.busRecovery ch) s fun t => (t.port p).recoveries = (s.port p).recoveries + 1 ∧ (t.chan ch).ccwa = (s.chan ch).ccwa + 16 ∧
      (t.port p).unitOn = none ∧ ProgramOf s t ch := by
  refine h.runsPort (f := fun s p => s.updPort p fun q => { q with recoveries := q.recoveries + 1 })
    (P := fun q => q.recoveries = (s.port p).recoveries + 1) rfl hon rfl (fun _ => rfl) (fun _ => rfl) fun q hq => ?_
  have hcount : ((s.freePort p ch).port p).recoveries = (s.port p).recoveries := by rw [State.freePort, State.updPort_def, State.port_setPort]
  rw [hq.frame, ← hcount]
  rfl

theorem CtlReady.idleClocks (h : CtlReady s ch p) (hon : s.ctlOn ch 5 = true) :
    Runs (.idleClocks ch) s fun t => (t.chan ch).ccwa = (s.chan ch).ccwa + 16 ∧ (t.port p).unitOn = none ∧ ProgramOf s t ch := by
  obtain ⟨t, hrun, -, ht⟩ := h.runs (f := fun s _ => s) (P := fun _ => True) (i := .idleClocks ch) rfl hon h.freed fun _ _ => trivial
  exact ⟨t, hrun, ht⟩

/-! ### Operations that touch more than their port -/

/-- Cells that are freed are no port's business. -/
theorem CtlEffect.cells {t u : State} (h : CtlEffect s t ch p) (g : CellsOnly t u) : CtlEffect s u ch p := by
  have hport : ∀ k, u.port k = t.port k := State.port_congr (by rw [g.1]; rfl)
  exact ⟨g.worked h.worked, fun k => by rw [hport, h.act], by rw [hport, h.unitOn]⟩

theorem CtlEffect.emits {t u : State} (h : CtlEffect s t ch p) (g : Emits t u) : CtlEffect s u ch p := by
  have hport : ∀ k, u.port k = t.port k := State.port_congr g.reports.ports
  exact ⟨h.worked.emits g, fun k => by rw [hport, h.act], by rw [hport, h.unitOn]⟩

theorem CtlReady.rxFlush (h : CtlReady s ch p) (hon : s.ctlOn ch 3 = true) :
    Runs (.rxFlush ch) s fun t => (t.port p).buf = [] ∧ (t.chan ch).ccwa = (s.chan ch).ccwa + 16 ∧ (t.port p).unitOn = none ∧ ProgramOf s t ch := by
  obtain ⟨u, hu⟩ : ∃ u, u = (s.freePort p ch).each ((s.freePort p ch).port p).buf fun s u => s.freeUnit u := ⟨_, rfl⟩
  have hcells : CellsOnly (s.freePort p ch) u := hu ▸ (CellsOnly.refl _).each _ fun v a => v.freeCells_cellsOnly a.cells
  refine h.runs (f := fun s p => (s.each (s.port p).buf fun s u => s.freeUnit u).updPort p fun q => { q with buf := [] }) (P := fun q => q.buf = []) rfl hon ?_
    fun q hq => ?_
  · rw [← hu]
    exact (h.freed.cells hcells).updPort (fun _ => rfl) fun _ => rfl
  · rw [← hu, State.updPort_def, State.port_setPort] at hq
    rw [hq.frame]
    rfl

theorem CtlReady.linkRestart (h : CtlReady s ch p) (hon : s.ctlOn ch 7 = true) :
    Runs (.linkRestart ch) s fun t => ((t.port p).linkDown = false ∧ bitOf (t.port p).evt 6 = true) ∧ (t.chan ch).ccwa = (s.chan ch).ccwa + 16 ∧
      (t.port p).unitOn = none ∧ ProgramOf s t ch := by
  obtain ⟨u, hu⟩ : ∃ u, u = ((s.freePort p ch).updPort p fun q => { q with linkDown := false }).updPort p fun q => { q with evt := q.evt ||| BitVec.ofNat 8 (2 ^ 6) } :=
    ⟨_, rfl⟩
  have hemits : Emits u (u.portLine p) := State.portLine_emits u p (Emits.refl u)
  refine h.runs (f := fun s p => (s.updPort p fun q => { q with linkDown := false }).portEvt p 6) (P := fun q => q.linkDown = false ∧ bitOf q.evt 6 = true)
    rfl hon ?_ fun q hq => ?_
  · rw [State.portEvt, ← hu]
    refine CtlEffect.emits ?_ hemits
    rw [hu]
    exact (h.freed.updPort (f := fun q => { q with linkDown := false }) (fun _ => rfl) fun _ => rfl).updPort
      (f := fun q => { q with evt := q.evt ||| BitVec.ofNat 8 (2 ^ 6) }) (fun _ => rfl) fun _ => rfl
  · rw [State.portEvt, ← hu, State.port_congr hemits.reports.ports, hu, State.updPort_def, State.port_setPort, State.updPort_def, State.port_setPort] at hq
    refine ⟨?_, hq.evt 6 (bitOf_or_pow _ (by decide))⟩
    rw [hq.frame]
    rfl

end Control

/-- Settles O28: each operation has its own effect on the port, and all end alike. -/
theorem controlOperationsComplete : Obligations.ControlOperationsComplete := fun s ch p hp hcond hbits hon hgo hready => by
  have h : CtlReady s ch p := ⟨hp, hcond, hbits, hon, hgo, hready⟩
  exact ⟨fun _ => h.lineTest, h.plcaFollower, fun hc hb => by simpa only [and_assoc] using h.plcaCoordinator hc hb, h.rxFlush, h.brk, h.idleClocks,
    h.busRecovery, fun hc => by simpa only [and_assoc] using h.linkRestart hc⟩

end Sys2Proof.Machine
end

section
/-! PROOFS. Words in the die's memory (R11, R242). -/

namespace Sys2Proof.Machine
open Sys2Proof

theorem leBytes_succ (n v : Nat) : leBytes (n + 1) v = BitVec.ofNat 8 v :: leBytes n (v / 256) := by
  unfold leBytes
  rw [List.range_succ_eq_map, List.map_cons, List.map_map]
  refine congrArg₂ List.cons (by simp) (List.map_congr_left fun i _ => ?_)
  show BitVec.ofNat 8 (v >>> (8 * (i + 1))) = BitVec.ofNat 8 ((v / 256) >>> (8 * i))
  rw [Nat.mul_add, Nat.add_comm, Nat.shiftRight_add, Nat.shiftRight_eq_div_pow v]

/-- Little-endian bytes hold the number that they are made from, as far as they go (R11). -/
theorem ofLeBytes_leBytes (n v : Nat) : ofLeBytes (leBytes n v) = v % 256 ^ n := by
  induction n generalizing v with
  | zero => simp [leBytes, ofLeBytes, Nat.mod_one]
  | succ n ih =>
    rw [leBytes_succ]
    show (BitVec.ofNat 8 v).toNat + 256 * ofLeBytes (leBytes n (v / 256)) = _
    rw [ih, BitVec.toNat_ofNat, show 256 ^ (n + 1) = 256 * 256 ^ n from pow_succ' 256 n, Nat.mod_mul]

section Words

variable {s t : State}

theorem State.bytesAt_congr {a n : Nat} (h : ∀ b, a ≤ b → b < a + n → Memory.get t.mem b = Memory.get s.mem b) : t.bytesAt a n = s.bytesAt a n := by
  unfold State.bytesAt Memory.getMany
  refine List.map_congr_left fun i hi => ?_
  have hlt := List.mem_range.mp hi
  exact h (a + i) (by omega) (by omega)

theorem State.bytesAt_store_out (s : State) {a b n : Nat} {l : List Byte} (h : a + n ≤ b ∨ b + l.length ≤ a) : (s.store b l).bytesAt a n = s.bytesAt a n :=
  State.bytesAt_congr fun j hl hu => Memory.get_setMany_out _ _ _ _ (by omega)

theorem State.wordAt_storeWord (hm : s.memOk) (a : Nat) (w : Word) : (s.storeWord a w).wordAt a = w := by
  have hbytes : (s.storeWord a w).bytesAt a 2 = leBytes 2 w.toNat := State.bytesAt_store hm a (leBytes 2 w.toNat)
  unfold State.wordAt State.leAt
  rw [hbytes, ofLeBytes_leBytes]
  refine BitVec.eq_of_toNat_eq ?_
  rw [BitVec.toNat_ofNat]
  have := w.isLt
  omega

theorem State.wordAt_storeWord_out (s : State) {a b : Nat} (w : Word) (h : a + 2 ≤ b ∨ b + 2 ≤ a) : (s.storeWord b w).wordAt a = s.wordAt a := by
  unfold State.wordAt State.leAt
  rw [State.storeWord, State.bytesAt_store_out s (by rwa [leBytes_length])]

theorem State.get_storeWord_out (s : State) {a b : Nat} (w : Word) (h : b < a ∨ a + 2 ≤ b) : Memory.get (s.storeWord a w).mem b = Memory.get s.mem b :=
  Memory.get_setMany_out _ _ _ _ (by rwa [leBytes_length])

end Words

end Sys2Proof.Machine
end

section
/-! PROOFS. RUN, its dispatch on a context, and the end of its bound (R160, R213, R265 to R272). -/

namespace Sys2Proof.Machine
open Sys2Proof

section Routines

variable {s t : State} {ch core k : Nat} {x : Chan} {w : BitVec 128} {r : Routine} {ws : List GrantWait} {m : List Host.Cell}

/-! ### RUN -/

theorem State.runBlocked_updXfer (s : State) (ch : Nat) (f : Xfer → Xfer) (crn : Bool) (b : Nat) :
    (s.updXfer ch f).runBlocked ch crn b = s.runBlocked ch crn b := by
  unfold State.runBlocked State.fitsCh State.isGuar State.updXfer
  rw [State.updChan_def, State.chan_setChan]
  rfl

theorem runs_run (h : CcwDue s ch 0x0C w) (hr : s.routine (tileOfCh ch) (bitsOf (ccwParam w) 0 12) (bitOf (ccwParam w) 12) = some r)
    (hbound : bitsOf (ccwParam w) 16 16 ≤ r.bound) (hseg : (s.chan ch).lsegBad (ccwAddr w, ccwCount w) = false)
    (hchain : spaceOf (ccwAddr w) = 1 → ((s.chan ch).pieceHead (ccwAddr w)).isSome = true)
    (hu : s.unfitCh ch (runCost (bitOf (ccwParam w) 12) (runBound r (ccwParam w))) = false)
    (hb : s.runBlocked ch (bitOf (ccwParam w) 12) (runBound r (ccwParam w)) = none) :
    Runs (.run ch) s fun t => (t.chan ch).xfer.phase = .run ∧ (t.chan ch).xfer.cmd = 0x0C ∧ (t.chan ch).xfer.first = (s.chan ch).ccwa ∧
      (t.chan ch).st = .active ∧ ChannelAlone s t ch := by
  obtain ⟨hn, hdue, -⟩ := h
  obtain ⟨t, ht⟩ : ∃ t, t = s.updXfer ch fun _ =>
    { cmd := 0x0C, param := ccwParam w, first := (s.chan ch).ccwa, rs := ccwRs w, sl := ccwSl w, pi := ccwPi w, phase := .run } := ⟨_, rfl⟩
  have hta := (Alone.refl s ch).updXfer fun _ =>
    { cmd := 0x0C, param := ccwParam w, first := (s.chan ch).ccwa, rs := ccwRs w, sl := ccwSl w, pi := ccwPi w, phase := .run }
  rw [← ht] at hta
  have hhead : ¬(spaceOf (ccwAddr w) = 1 ∧ ((s.chan ch).pieceHead (ccwAddr w)).isNone) := fun ⟨hs, hnone⟩ => by
    have := hchain hs
    rw [Option.isNone_iff_eq_none.mp hnone] at this
    cases this
  refine ⟨t, ?_, ?_⟩
  · show Host.Outcome.next (s.onDue ch 0x0C fun s w => s.doRun ch w).served = _
    unfold State.onDue
    rw [hdue]
    dsimp only
    unfold State.doRun
    dsimp only
    rw [hr]
    dsimp only
    rw [if_neg (Nat.not_lt.mpr hbound), hseg, if_neg Bool.false_ne_true, if_neg hhead, hu, if_neg Bool.false_ne_true, State.tryRun, State.runBlocked_updXfer, hb, ← ht]
    dsimp only
    rw [hta.served hn (s.chan_noLedgerWait hn ch)]
  · dsimp only
    rw [hta.chan]
    exact ⟨rfl, rfl, rfl, State.dueCcw_active hdue, hta.alone⟩

/-! ### Work on a core beside that on a channel -/

/-- From s to t, besides the work of programs of which one channel stands as x, the cores have changed, and the memory is m. -/
def WorkedOn (s : State) (m : List Host.Cell) (t : State) (ch : Nat) (x : Chan) (ws : List GrantWait) : Prop :=
  Worked { s with cores := t.cores, mem := m } t ch x ws

theorem Worked.on (h : Worked s t ch x ws) : WorkedOn s s.mem t ch x ws := by
  have ha := h.apart
  simp only [State.apart, Prod.mk.injEq] at ha
  refine ⟨?_, h.chans, h.waits⟩
  simp only [State.apart, ha]

/-- Work that leaves the cores and the memory. -/
theorem WorkedOn.lift {y : Chan} {vs : List GrantWait} {u : State} (h : WorkedOn s m t ch x ws) (f : ∀ r, Worked r t ch x ws → Worked r u ch y vs) :
    WorkedOn s m u ch y vs ∧ u.cores = t.cores := by
  have hu := f _ h
  have ha := hu.apart
  simp only [State.apart, Prod.mk.injEq] at ha
  have hc : u.cores = t.cores := by simp only [ha]
  unfold WorkedOn
  rw [hc]
  exact ⟨hu, rfl⟩

theorem WorkedOn.chan (h : WorkedOn s m t ch x ws) : t.chan ch = x := Worked.chan h

theorem WorkedOn.mem (h : WorkedOn s m t ch x ws) : t.mem = m := by
  have ha := Worked.apart h
  simp only [State.apart, Prod.mk.injEq] at ha
  simp only [ha]

theorem WorkedOn.prog (h : WorkedOn s m t ch x ws) : ProgramOf { s with cores := t.cores, mem := m } t ch := Worked.prog h

theorem WorkedOn.cores {u : State} (h : WorkedOn s m t ch x ws) (g : CoresOnly t u) : WorkedOn s m u ch x ws := by
  obtain ⟨c, rfl⟩ := g
  have ha := Worked.apart h
  simp only [State.apart, Prod.mk.injEq] at ha
  refine ⟨?_, h.chans, h.waits⟩
  simp only [State.apart, ha]

theorem WorkedOn.store (h : WorkedOn s m t ch x ws) (a : Nat) (l : List Byte) : WorkedOn s (Memory.setMany m a l) (t.store a l) ch x ws := by
  have ha := Worked.apart h
  simp only [State.apart, Prod.mk.injEq] at ha
  refine ⟨?_, h.chans, h.waits⟩
  simp only [State.apart, State.store, ha]

theorem WorkedOn.noneWait (h : WorkedOn s m t ch x []) (hn : s.noneWait) (hx : x.NoLedgerWait) : t.noneWait := Worked.noneWait h hn hx

/-! ### Contexts while their core is arranged -/

/-- A context runs what it was given, READY or HELD before it goes on (R212, R287). -/
structure Ctx.Running (c : Ctx) (i : RunInfo) (n : Nat) : Prop where
  run : c.run = some i
  left : c.left = n
  st : c.st = .ready ∨ (c.st = .held ∧ c.heldFrom = .ready)

theorem State.ctx_updCtx (s : State) (core k : Nat) (f : Ctx → Ctx) : (s.updCtx core k f).ctx core k = f (s.ctx core k) := s.ctx_setCtx core k _

theorem State.ctx_setNow (s : State) (core k n j : Nat) : (s.setNow core k n).ctx core j = s.ctx core j := by
  unfold State.setNow State.ctx
  rw [State.updCore_def, State.core_setCore]
  split <;> rfl

/-- What is done to one context leaves the others of its core. -/
theorem State.passWait_ctx_ne (s : State) (core k : Nat) {j : Nat} (hj : j ≠ k) : (s.passWait core k).ctx core j = s.ctx core j := by
  unfold State.passWait
  dsimp only
  split
  · rw [State.updCtx, State.ctx_setCtx_ne _ _ _ _ _ hj, State.ctx_setNow]
  · exact s.ctx_setNow core k _ j
  · rfl

theorem State.holdCtx_ctx_ne (s : State) (core k : Nat) {j : Nat} (hj : j ≠ k) : (s.holdCtx core k).ctx core j = s.ctx core j := by
  have hset : ∀ f, (((s.passWait core k).updCtx core k f).mark core k).ctx core j = s.ctx core j := fun f => by
    rw [State.mark, State.updCtx, State.ctx_setCtx_ne _ _ _ _ _ hj, State.updCtx, State.ctx_setCtx_ne _ _ _ _ _ hj, s.passWait_ctx_ne core k hj]
  unfold State.holdCtx
  dsimp only
  split
  · split
    · exact hset _
    · rfl
  · split
    · exact hset _
    · rfl

theorem State.wfeWake_ctx_ne (s : State) (core k : Nat) {j : Nat} (hj : j ≠ k) : (s.wfeWake core k).ctx core j = s.ctx core j := by
  unfold State.wfeWake
  dsimp only
  split
  · rw [State.updCtx, State.ctx_setCtx_ne _ _ _ _ _ hj, s.passWait_ctx_ne core k hj]
  · rfl

/-- What the arranging of one context keeps of it, the arranging of its core keeps of it. -/
theorem State.arrange_ctx {P : Ctx → Prop} (hstep : ∀ u : State, P (u.ctx core k) → P (((u.holdCtx core k).wfeWake core k).ctx core k))
    (h : P (s.ctx core k)) : P ((s.arrange core).ctx core k) := by
  refine State.each_induction (P := fun u => P (u.ctx core k)) _ h fun u j hu => ?_
  by_cases hj : k = j
  · exact hj ▸ hstep u hu
  · rwa [State.wfeWake_ctx_ne _ core j hj, u.holdCtx_ctx_ne core j hj]

theorem State.wfeWake_of_not_waiting {u : State} (h : (u.ctx core k).st ≠ .waiting) : u.wfeWake core k = u := if_neg fun hc => h hc.1

theorem State.arrange_running {i : RunInfo} {n : Nat} (h : (s.ctx core k).Running i n) : ((s.arrange core).ctx core k).Running i n := by
  refine State.arrange_ctx (P := fun c => c.Running i n) (fun u hu => ?_) h
  have hhold : ((u.holdCtx core k).ctx core k).Running i n := by
    obtain ⟨hrun, hleft, hst | ⟨hst, hfrom⟩⟩ := id hu
    · have hpass : u.passWait core k = u := by
        unfold State.passWait
        dsimp only
        rw [hst]
      unfold State.holdCtx
      dsimp only
      rw [if_pos (.inl hst), hpass]
      split
      · rw [State.mark, State.ctx_updCtx, State.ctx_updCtx]
        exact ⟨hrun, hleft, .inr ⟨rfl, hst⟩⟩
      · exact hu
    · have hpass : (u.passWait core k).ctx core k = u.ctx core k := by
        unfold State.passWait
        dsimp only
        rw [hst]
        exact u.ctx_setNow core k _ k
      unfold State.holdCtx
      dsimp only
      rw [if_neg (by rw [hst]; decide)]
      split
      · rw [State.mark, State.ctx_updCtx, State.ctx_updCtx, hpass]
        exact ⟨hrun, hleft, .inl hfrom⟩
      · exact hu
  rw [State.wfeWake_of_not_waiting]
  · exact hhold
  · obtain ⟨-, -, hst | ⟨hst, -⟩⟩ := hhold <;> rw [hst] <;> decide

theorem State.arrange_free {c : Ctx} (hc : c.st = .free) (h : s.ctx core k = c) : (s.arrange core).ctx core k = c := by
  refine State.arrange_ctx (P := fun x => x = c) (fun u hu => ?_) h
  have hst : (u.ctx core k).st = .free := hu ▸ hc
  have hhold : u.holdCtx core k = u := by
    unfold State.holdCtx
    dsimp only
    rw [hst, if_neg (by decide), if_neg (by simp)]
  rw [hhold, State.wfeWake_of_not_waiting (by rw [hst]; decide)]
  exact hu

/-! ### The dispatch of a RUN -/

theorem Worked.chargeCh (h : Worked s t ch x ws) (c : Cost) : Worked s (t.chargeCh ch c) ch x ws := by
  unfold State.chargeCh State.charge
  dsimp only
  split <;> exact h.same rfl rfl rfl

theorem Worked.prefetch (h : Worked s t ch x ws) : Worked s (t.prefetch ch) ch x ws := by
  unfold State.prefetch
  dsimp only
  split
  · exact (h.chargeCh _).emits (State.askBlock_emits _ _ _ (Emits.refl _))
  · exact h

/-- What a dispatch loads into a context (R269). -/
def State.loadedInfo (s : State) (ch : Nat) (w : BitVec 128) (r : Routine) : RunInfo :=
  { ch, routine := r.num, rs := ccwRs w, cls := (s.chan ch).wcls, tile := tileOfCh ch, bound := runBound r (ccwParam w),
    frame := s.frm.frame, codeOff := r.off, codeLen := r.len, port := (s.chan ch).lastPort.filter (· ≠ portLocal) }

/-- The three words of a RUN that a dispatch leaves in the context's own area (R269). -/
def runWords (m : List Host.Cell) (ch core k : Nat) (w : BitVec 128) (r : Routine) : List Host.Cell :=
  Memory.setMany (Memory.setMany (Memory.setMany m (localBase core + 2 * privWord core k) (leBytes 2 (BitVec.ofNat 16 ch).toNat))
    (localBase core + 2 * privWord core k + 2) (leBytes 2 (BitVec.ofNat 16 (ceilDiv (ccwCount w) 2)).toNat))
    (localBase core + 2 * privWord core k + 4) (leBytes 2 (BitVec.ofNat 16 r.num).toNat)

theorem WorkedOn.loadCtx (h : WorkedOn s m t ch x ws) (w : BitVec 128) (r : Routine) :
    WorkedOn s (runWords m ch core k w r) (t.loadCtx ch core k w r) ch x ws ∧
      ((t.loadCtx ch core k w r).ctx core k).Running (t.loadedInfo ch w r) (16 * runBound r (ccwParam w)) := by
  have hset : ∀ c : Ctx, CoresOnly t (t.setCtx core k c) := fun c => ⟨_, rfl⟩
  refine ⟨(((h.cores (hset _)).store _ _).store _ _).store _ _, ?_⟩
  have hctx : ∀ u : State, ∀ a l, (u.store a l).ctx core k = u.ctx core k := fun u a l => rfl
  unfold State.loadCtx
  dsimp only
  rw [State.storeWord, hctx, State.storeWord, hctx, State.storeWord, hctx, State.ctx_setCtx]
  exact ⟨rfl, rfl, .inl rfl⟩

theorem State.ctx_congr {s t : State} (h : t.cores = s.cores) (core k : Nat) : t.ctx core k = s.ctx core k := by
  unfold State.ctx State.core
  rw [h]

/-- The words of a RUN stand in the context's area, and nothing else of the memory has changed (R269). -/
theorem State.runWords_stand {t : State} (hm : s.memOk) (h : t.mem = runWords s.mem ch core k w r) :
    t.wordAt (localBase core + 2 * privWord core k) = BitVec.ofNat 16 ch ∧ MemOnly s t (localBase core + 2 * privWord core k) 6 := by
  obtain ⟨a, ha⟩ : ∃ a, a = localBase core + 2 * privWord core k := ⟨_, rfl⟩
  obtain ⟨u, hu⟩ : ∃ u, u = ((s.storeWord a (BitVec.ofNat 16 ch)).storeWord (a + 2) (BitVec.ofNat 16 (ceilDiv (ccwCount w) 2))).storeWord (a + 4)
    (BitVec.ofNat 16 r.num) := ⟨_, rfl⟩
  have htu : t.mem = u.mem := by
    rw [h, hu, ha]
    rfl
  rw [← ha]
  refine ⟨?_, fun b hb => ?_⟩
  · have hword : t.wordAt a = u.wordAt a := by
      show BitVec.ofNat 16 (ofLeBytes (Memory.getMany t.mem a 2)) = _
      rw [htu]
      rfl
    rw [hword, hu, State.wordAt_storeWord_out _ _ (.inl (by omega)), State.wordAt_storeWord_out _ _ (.inl (by omega)), State.wordAt_storeWord hm]
  · rw [htu, hu, State.get_storeWord_out _ _ (by omega), State.get_storeWord_out _ _ (by omega), State.get_storeWord_out _ _ (by omega)]

/-- The channel of a RUN that is on a context (R160, R269). -/
def Chan.onCtx (c : Chan) (core k : Nat) (crn : Bool) : Chan := { c with inRun := true, core := core % 64, ctx := k, crn }

theorem WorkedOn.dispatchRun (h : WorkedOn s m t ch x ws) (w : BitVec 128) (r : Routine) :
    WorkedOn s (runWords m ch core k w r) (t.dispatchRun ch core k w r) ch (x.onCtx core k r.crn) ws ∧
      ∃ i, i.ch = ch ∧ ((t.dispatchRun ch core k w r).ctx core k).Running i (16 * runBound r (ccwParam w)) := by
  obtain ⟨hv, hrun⟩ := (h.lift fun _ h => h.chargeCh (runCost r.crn (runBound r (ccwParam w)))).1.loadCtx (core := core) (k := k) w r
  obtain ⟨v, hvd⟩ : ∃ v, v = (t.chargeCh ch (runCost r.crn (runBound r (ccwParam w)))).loadCtx ch core k w r := ⟨_, rfl⟩
  obtain ⟨u, hu⟩ : ∃ u, u = if t.isGuar ch then v.updCore core fun c => { c with placed := c.placed + runBound r (ccwParam w) } else v := ⟨_, rfl⟩
  rw [← hvd] at hv hrun
  have hplaced : CoresOnly v u ∧ u.ctx core k = v.ctx core k := by
    rw [hu]
    split
    · refine ⟨⟨_, rfl⟩, ?_⟩
      unfold State.ctx
      rw [State.updCore_def, State.core_setCore]
    · exact ⟨.refl v, rfl⟩
  obtain ⟨l, y, hl, hy⟩ : ∃ l y, t.dispatchRun ch core k w r = y.arrange core ∧
      y = (((u.wakeDomain core 2).wakeData l).goChan ch fun c => { c with inRun := true, core := core % 64, ctx := k, crn := r.crn }) := by
    refine ⟨(t.chan ch).chain.toList.map (· / 8192) ++ (if (t.chan ch).lcells = 0 then [] else [(t.chan ch).lbase / 8192]), _, ?_, rfl⟩
    rw [hu, hvd]
    rfl
  have hwake : Emits u ((u.wakeDomain core 2).wakeData l) := State.wakeData_emits _ _ (State.wakeDomain_emits _ _ _ (Emits.refl u))
  have huw := hv.cores hplaced.1
  obtain ⟨hyw, hycores⟩ := huw.lift fun _ h => (h.emits hwake).goChan fun c => { c with inRun := true, core := core % 64, ctx := k, crn := r.crn }
  rw [← hy] at hyw hycores
  rw [← hplaced.2, ← State.ctx_congr hycores] at hrun
  rw [hl]
  exact ⟨hyw.cores (y.arrange_coresOnly core), _, rfl, State.arrange_running hrun⟩

theorem runs_runDispatch (hn : s.noneWait) (hm : s.memOk) (hst : (s.chan ch).st = .active) (hph : (s.chan ch).xfer.phase = .run)
    (hin : (s.chan ch).inRun = false) (harb : s.arbiterOn = true) (hw : (s.chan ch).heldCcw = some w)
    (hr : s.routine (tileOfCh ch) (bitsOf (ccwParam w) 0 12) (bitOf (ccwParam w) 12) = some r)
    (hb : s.runBlocked ch r.crn (runBound r (ccwParam w)) = none) (hpick : s.pickCtx (tileOfCh ch) r.crn (s.isGuar ch) = some (core, k)) :
    Runs (.runDispatch ch) s fun t => (t.chan ch).inRun = true ∧ (t.chan ch).ctx = k ∧ (t.chan ch).core = core % 64 ∧
      ((t.ctx core k).run.map fun x => x.ch) = some ch ∧ (t.ctx core k).left = 16 * runBound r (ccwParam w) ∧
      t.wordAt (localBase core + 2 * privWord core k) = BitVec.ofNat 16 ch ∧ MemOnly s t (localBase core + 2 * privWord core k) 6 ∧
      ProgramOf { s with cores := t.cores, mem := t.mem } t ch := by
  have hpre := ((Worked.refl s ch).updChan fun c => { c with released := false }).prefetch
  obtain ⟨u, hu⟩ : ∃ u, u = (s.updChan ch fun c => { c with released := false }).prefetch ch := ⟨_, rfl⟩
  rw [← hu] at hpre
  obtain ⟨hv, i, hi, hrun, hleft, -⟩ := hpre.on.dispatchRun (core := core) (k := k) w r
  obtain ⟨hword, hmem⟩ := State.runWords_stand hm hv.mem
  rw [hn.1] at hv
  refine ⟨u.dispatchRun ch core k w r, ?_, ?_⟩
  · show Host.Outcome.next (s.runDispatch ch).served = _
    unfold State.runDispatch
    dsimp only
    rw [hst, hph, hin, harb, hw]
    dsimp only
    rw [hr]
    dsimp only
    rw [hb]
    dsimp only
    rw [hpick]
    dsimp only
    rw [if_neg (by decide), ← hu, State.served_of_noneWait (hv.noneWait hn (s.chan_noLedgerWait hn ch))]
  · dsimp only
    rw [hv.chan, hrun, hleft, hv.mem]
    exact ⟨rfl, rfl, rfl, congrArg some hi, rfl, hword, hmem, hv.prog⟩

/-! ### The end of a routine's bound -/

theorem State.freeHeld_cellsOnly (s : State) (m k : Nat) : CellsOnly s (s.freeHeld m k) := (CellsOnly.refl s).each _ State.freeOne_cellsOnly

/-- A channel whose RUN is over (R271). -/
def Chan.ranOut (c : Chan) : Chan := { c with inRun := false }

/-- A context leaves a routine: it is FREE and runs nothing, and the channel has no RUN (R271). -/
theorem WorkedOn.leaves (h : WorkedOn s m t ch x ws) :
    WorkedOn s m ((t.leaveCtx core k .free).runOver ch) ch x.ranOut ws ∧
      (((t.leaveCtx core k .free).runOver ch).ctx core k).st = .free ∧ (((t.leaveCtx core k .free).runOver ch).ctx core k).run = none ∧
      Flows t ((t.leaveCtx core k .free).runOver ch) ∧ ((t.leaveCtx core k .free).runOver ch).ds = t.ds ∧
      ((t.leaveCtx core k .free).runOver ch).queues = t.queues := by
  obtain ⟨v, hv⟩ : ∃ v, v = t.freeHeld (midOfCore core) k := ⟨_, rfl⟩
  have hcells : CellsOnly t v := hv ▸ t.freeHeld_cellsOnly _ _
  obtain ⟨u, hu⟩ : ∃ u, u = t.leaveCtx core k .free := ⟨_, rfl⟩
  have hleave : CoresOnly v u ∧ (u.ctx core k).st = .free ∧ (u.ctx core k).run = none := by
    rw [hu, State.leaveCtx, ← hv]
    refine ⟨⟨_, rfl⟩, ?_⟩
    rw [State.ctx_updCtx]
    exact ⟨rfl, rfl⟩
  obtain ⟨⟨c, hc⟩, hst, hrun⟩ := id hleave
  have hframe : u = ({ t.setHawk v.hawk with cores := c } : State) := by
    rw [hc]
    conv_lhs => rw [hcells.1]
  rw [← hu]
  refine ⟨(((h.lift fun _ h => hcells.worked h).1.cores hleave.1).lift fun _ h => h.updChan fun c => { c with inRun := false }).1, hst, hrun, ?_, ?_, ?_⟩
  · exact ((Flows.refl t).same (by rw [hframe]; rfl)).updChan ch _
  · show u.ds = t.ds
    rw [hframe]
    rfl
  · show u.queues = t.queues
    rw [hframe]
    rfl

/-- No parked channel waits, and nothing for cells: only the contexts of the core are arranged (R220, R264). -/
theorem State.afterFree_none {t : State} (hn : t.noneWait) (hp : ∀ e ∈ t.chans, e.2.parked = false) (core : Nat) : t.afterFree core = t.arrange core := by
  have hlist : t.waitList (fun w => w = .context || w = .ledger) = [] := by
    unfold State.waitList
    rw [List.filter_eq_nil_iff.mpr fun e he => by rw [hp e he]; simp]
    rfl
  unfold State.afterFree
  rw [State.served_of_noneWait hn, State.releaseFor, hlist]
  rfl

theorem runs_cycleBoundExpiry {i : RunInfo} {u : State} (hu : u = if (s.ctx core k).st = .waiting then (s.passWait core k).mark core k else s)
    (hrun : (u.ctx core k).run = some i) (hch : i.ch = ch) (hreached : u.boundReached core k = true) (hq : EndsQuietly s ch)
    (hpark : ∀ e ∈ s.chans, e.2.parked = false) :
    Runs (.cycleBoundExpiry core k) s fun t => (t.chan ch).st = .error ∧ (t.chan ch).lastStatus = stCycleBound ∧ (t.chan ch).inRun = false ∧
      (t.ctx core k).run = none ∧ ProgramOf { s with cores := t.cores } t ch := by
  obtain ⟨hg, hh, hn, hwait, hf, hl, -⟩ := hq
  have hcores : CoresOnly s u := by
    rw [hu]
    split
    · exact (s.passWait_coresOnly core k).trans (State.updCtx_coresOnly _ core k _)
    · exact .refl s
  have huw := (Worked.refl s ch).on.cores hcores
  obtain ⟨hv, hfree, hnone, hflows, hds, hqueues⟩ := huw.leaves (core := core) (k := k)
  obtain ⟨v, hvd⟩ : ∃ v, v = (u.leaveCtx core k .free).runOver ch := ⟨_, rfl⟩
  rw [← hvd] at hv hfree hnone hflows hds hqueues
  obtain ⟨c, hc⟩ := id hcores
  have hvflows : Flows s v := ((Flows.refl s).same (by rw [hc])).trans hflows
  have hmod : v.chModule ch = s.chModule ch := State.chModule_congr hvflows (by rw [hv.chan]; rfl) (by rw [hv.chan]; rfl)
  have hvhold : v.hold = false := (Worked.hold hv).trans hh
  have hvgates : v.gates = false := (State.gates_congr (by rw [hds, hc])).trans hg
  have hvf : v.noFence := fun e he => hf e (by rw [hqueues, hc] at he; exact he)
  obtain ⟨y, hy, hover⟩ := State.endProgram_over (s := v) (ch := ch) stCycleBound (u.chan ch).remain (runDetail i core k) hvgates hvhold
    (by rw [hmod, (hvflows.links _).holding]; exact hl) hvf (by rw [hv.chan]; exact hwait)
  obtain ⟨z, hz⟩ : ∃ z, z = v.endProgram ch stCycleBound (u.chan ch).remain (runDetail i core k) := ⟨_, rfl⟩
  rw [← hz] at hy
  rw [Worked.waits hv, hn.1] at hy
  obtain ⟨hzw, hzcores⟩ := hv.lift fun _ h => h.trans hy
  have hzn : z.noneWait := hzw.noneWait hn fun hp => by
    rw [hover.parked] at hp
    cases hp
  have hzpark : ∀ e ∈ z.chans, e.2.parked = false := fun e he => by
    rcases Worked.chans hzw with ⟨hcs, -⟩ | hcs
    · exact hpark e (hcs ▸ he)
    · rcases Table.mem_set (hcs ▸ he) with rfl | hm
      · exact hover.parked
      · exact hpark e hm
  have htw := hzw.cores (z.arrange_coresOnly core)
  have hctx : z.ctx core k = v.ctx core k := State.ctx_congr hzcores core k
  refine ⟨z.arrange core, ?_, ?_⟩
  · show execCycleBoundExpiry core k s = _
    unfold execCycleBoundExpiry
    dsimp only
    rw [← hu, hreached, if_pos rfl, State.failRun, hrun]
    dsimp only
    rw [hch, ← hvd, ← hz, State.afterFree_none hzn hzpark]
  · dsimp only
    rw [htw.chan, State.arrange_free (hctx ▸ hfree) rfl, hctx]
    exact ⟨hover.st, hover.lastStatus, hover.inRun, hnone, htw.prog⟩

end Routines

/-- Settles O29: a RUN waits for a context, the dispatch loads it, and the end of its bound frees it. -/
theorem routinesOfChannels : Obligations.RoutinesOfChannels := fun _ _ _ _ =>
  ⟨runs_run, fun _ _ => runs_runDispatch, fun _ _ _ _ hu hrun hch hreached hq hpark _ _ => runs_cycleBoundExpiry hu hrun hch hreached hq hpark⟩

end Sys2Proof.Machine
end

section
/-! PROOFS. The reply of an admin command whose row has changed something, the host data that come for it, and edits of the routine libraries
(R375 to R387). -/

namespace Sys2Proof.Machine
open Sys2Proof

/-! ### The reply after a change -/

/-- From s to t nothing has changed that decides how an admin command is replied to: the modules flow as they did, and the admin queue and
the gates are the same (R376, R379). -/
structure KeepsReply (s t : State) : Prop where
  flows : Flows s t
  aq : t.aq = s.aq
  gates : t.gates = s.gates

section Reply

variable {r s t u : State} {c : AdmCmd} {opc : Nat}

theorem KeepsReply.refl (s : State) : KeepsReply s s := ⟨.refl s, rfl, rfl⟩

theorem KeepsReply.trans (h : KeepsReply r s) (g : KeepsReply s t) : KeepsReply r t :=
  ⟨h.flows.trans g.flows, g.aq.trans h.aq, g.gates.trans h.gates⟩

/-- An update that leaves the modules, the queues, the admin queue and what the gates depend on. -/
theorem KeepsReply.same (h : KeepsReply r s) (e : t.hostSide = s.hostSide) (ha : t.aq = s.aq) (hd : t.ds.gating = s.ds.gating) : KeepsReply r t :=
  h.trans ⟨(Flows.refl s).same e, ha, State.gates_congr hd⟩

theorem Reports.aq (h : Reports s t) : t.aq = s.aq := by
  unfold Reports at h
  rw [h]

theorem KeepsReply.goChan (h : KeepsReply r s) (ch : Nat) (f : Chan → Chan) : KeepsReply r (s.goChan ch f) :=
  h.trans ⟨State.goChan_flows (.refl s) ch f, (s.goChan_reports ch f).aq, s.goChan_gates ch f⟩

theorem KeepsReply.aqModule (h : KeepsReply s t) : t.aqModule = s.aqModule := by
  unfold State.aqModule
  rw [h.flows.mode, h.flows.carry]

theorem KeepsReply.canReply (h : KeepsReply s t) (g : CanReply s c) : CanReply t c := by
  have hl := h.flows.links s.aqModule
  refine ⟨h.aq ▸ g.cmds, h.aq ▸ g.running, h.aq ▸ g.noPacket, h.gates ▸ g.noGate, ?_⟩
  rw [h.aqModule, hl.frame]
  exact g.flowing

/-- What has been changed stands beside the reply, and nothing else has changed but the admin queue and the reports. -/
theorem KeepsReply.replied (h : KeepsReply s t) (g : OneAdmin s c opc) (res : List Nat) (chg : Option (List ConfigRec)) :
    Replied s (t.replyOk c res chg).aqKick c stOk 0xFF res ∧ Reports { t with aq := (t.replyOk c res chg).aqKick.aq } (t.replyOk c res chg).aqKick := by
  obtain ⟨⟨haq, hentry⟩, hrep⟩ := State.replyOk_replied (h.canReply (.of_oneAdmin g)) res chg
  rw [h.aq] at haq hentry
  rw [h.aqModule] at hentry
  exact ⟨⟨haq, hentry⟩, hrep⟩

/-- A row acts on the command where it asks for a command like it (R377, R378). -/
theorem OneAdmin.onAdmin_of (h : OneAdmin s c opc) {p : AdmCmd → Bool} (hp : p c = true) (k : State → AdmCmd → State) : s.onAdmin p k = (k s c).aqKick := by
  obtain ⟨hdie, -, hcmds, hwaits, -, hcheck, -⟩ := h
  have hdue : s.admDue p = some c := by
    simp [State.admDue, State.fwcOn, hdie, hcmds, startable, hwaits, hp]
  simp only [State.onAdmin, hdue, hcheck]

theorem OneAdmin.opcode (h : OneAdmin s c opc) : c.opc = opc := by
  obtain ⟨-, -, -, -, hopc, -⟩ := h
  exact hopc

/-! ### Host data -/

/-- What a read that comes back changes: the module's reads alone, and with them nothing that a reply depends on. -/
def ReadsOnly (s t : State) : Prop := LinksOnly s t ∧ KeepsReply s t

theorem ReadsOnly.refl (s : State) : ReadsOnly s s := ⟨(rfl : s = s), .refl s⟩

theorem ReadsOnly.trans (h : ReadsOnly r s) (g : ReadsOnly s t) : ReadsOnly r t := ⟨h.1.trans g.1, h.2.trans g.2⟩

theorem State.setReads_readsOnly (s : State) (md : Nat) (w l : List HostRead) : ReadsOnly s (s.setLink md { s.link md with waiting := w, reads := l }) :=
  ⟨s.setLink_linksOnly md _, (Flows.refl s).setLink ⟨rfl, fun _ h _ => h, fun _ h _ => h, id, id, fun _ => rfl, id⟩, s.setLink_aq md _,
    State.gates_congr (congrArg Ds.gating (s.setLink_ds md _))⟩

theorem State.pump_readsOnly (s : State) (md : Nat) : ReadsOnly s (s.pump md) := by
  obtain ⟨w, l, h⟩ := s.pump_eq md
  rw [h]
  exact s.setReads_readsOnly md w l

theorem State.pumpAll_readsOnly (s : State) (md : Nat) : ReadsOnly s (s.pumpAll md) := (s.pump_readsOnly md).trans (State.pump_readsOnly _ _)

theorem State.endRead_readsOnly {md : Nat} {p : ReadReq → Bool} {x : HostRead} (h : s.endRead md p = some (x, u)) : ReadsOnly s u := by
  unfold State.endRead at h
  split at h
  · cases h
  · obtain ⟨-, rfl⟩ := Prod.mk.inj (Option.some.inj h)
    exact (s.setReads_readsOnly md (s.link md).waiting _).trans (State.pumpAll_readsOnly _ md)

theorem State.endReadAny_readsOnly {p : ReadReq → Bool} {x : HostRead} (h : s.endReadAny p = some (x, u)) : ReadsOnly s u := by
  unfold State.endReadAny at h
  split at h
  next y hy =>
    obtain rfl := Option.some.inj h
    exact State.endRead_readsOnly hy
  · exact State.endRead_readsOnly h

/-- With its data in, a row acts on the command in a state that differs by the module's reads alone (R381). -/
theorem OneAdmin.onAdminData (h : OneAdmin s c opc) (hd : DataOut s c) : ∃ u, ReadsOnly s u ∧
    ∀ (p : AdmCmd → Bool) (k : State → AdmCmd → State), p c = true → s.onAdminData p k = (k u c).aqKick := by
  obtain ⟨md, hmd, hreads, hwaiting, hother⟩ := hd
  obtain ⟨x, hx, hreq⟩ := List.map_eq_singleton_iff.mp hreads
  obtain ⟨u, hany, -, -⟩ := State.endReadAny_only hmd hx hwaiting hother
  have hmine : s.endReadAny (fun r => r = .adminData c.cnt) = some (x, u) := hany _ (by rw [hreq]; exact decide_eq_true rfl)
  refine ⟨u, State.endReadAny_readsOnly hmine, fun p k hp => ?_⟩
  unfold State.onAdminData
  rw [h.onAdmin_of hp, hmine]

end Reply

/-! ### The libraries of some tiles -/

/-- A change of the die, tile by tile, edits the tile's library by f, and else changes only the memory. -/
def EditsLib (f : Library → Library) (g : State → Nat → State) : Prop := ∀ s i, g s i = { s.updLib i f with mem := (g s i).mem }

section Libraries

variable {s t u : State} {f : Library → Library} {g : State → Nat → State} {ts : List Nat}

theorem EditsLib.lib (h : EditsLib f g) (s : State) (i : Nat) : (g s i).lib i = f (s.lib i) := by
  rw [h s i]
  exact Table.get_set_same _ _ _ _

theorem EditsLib.lib_ne (h : EditsLib f g) (s : State) {i j : Nat} (hj : j ≠ i) : (g s i).lib j = s.lib j := by
  rw [h s i]
  exact Table.get_set_ne _ _ _ hj

/-- Only the libraries and the memory change. -/
theorem EditsLib.each_only (h : EditsLib f g) (s : State) (ts : List Nat) : s.each ts g = { s with libs := (s.each ts g).libs, mem := (s.each ts g).mem } :=
  State.each_induction (P := fun u => u = { s with libs := u.libs, mem := u.mem }) ts rfl fun u i hu => by
    rw [h u i, hu]
    rfl

theorem EditsLib.each_out (h : EditsLib f g) (s : State) {i : Nat} (hi : i ∉ ts) : (s.each ts g).lib i = s.lib i := by
  induction ts generalizing s with
  | nil => rfl
  | cons j l ih => exact (ih (g s j) fun hl => hi (List.mem_cons_of_mem _ hl)).trans (h.lib_ne s fun hj => hi (hj ▸ List.mem_cons_self))

/-- Each named tile's library is edited once. -/
theorem EditsLib.each_in (h : EditsLib f g) (hts : ts.Nodup) (s : State) {i : Nat} (hi : i ∈ ts) : (s.each ts g).lib i = f (s.lib i) := by
  induction ts generalizing s with
  | nil => cases hi
  | cons j l ih =>
    obtain ⟨hj, hl⟩ := List.nodup_cons.mp hts
    obtain rfl | hil := List.mem_cons.mp hi
    · exact (h.each_out (g s i) hj).trans (h.lib s i)
    · exact (ih hl (g s j) hil).trans (congrArg f (h.lib_ne s fun e => hj (e ▸ hil)))

theorem EditsLib.each_keepsReply (h : EditsLib f g) (s : State) (ts : List Nat) : KeepsReply s (s.each ts g) := by
  rw [h.each_only s ts]
  exact (KeepsReply.refl s).same rfl rfl rfl

theorem tilesOf_nodup (mask : Nat) : (tilesOf mask).Nodup := List.nodup_range.filter _

/-- Changes of the memory alone leave everything else. -/
theorem State.each_mem {α : Type} (s : State) (l : List α) {f : State → α → State} (hf : ∀ u a, f u a = { u with mem := (f u a).mem }) :
    s.each l f = { s with mem := (s.each l f).mem } :=
  State.each_induction (P := fun u => u = { s with mem := u.mem }) l rfl fun u a hu => by
    rw [hf u a, hu]

theorem editsLib_of_mem {w : State → Nat → State} (hw : ∀ u i, w u i = { u with mem := (w u i).mem }) : EditsLib f fun s i => (w s i).updLib i f := fun s i => by
  show (w s i).updLib i f = { s.updLib i f with mem := (w s i).mem }
  rw [hw s i]
  rfl

/-- The smallest library is that of the libraries. -/
theorem State.smallest_congr (h : t.libs = s.libs) (ts : List Nat) (crn : Bool) : t.smallest ts crn = s.smallest ts crn := by
  unfold State.smallest State.wordsLeft State.lib
  rw [h]

end Libraries

end Sys2Proof.Machine
end

section
/-! PROOFS. Loading and unloading of routines and handler sets (R386, R387, R444). -/

namespace Sys2Proof.Machine
open Sys2Proof

/-- The routine that a ROUTINE_LOAD brings, at an offset (R387). -/
def AdmCmd.loaded (c : AdmCmd) (words : List Word) (off : Nat) : Routine :=
  { num := bitsOf (c.pw 0) 0 12, crn := bitOf (c.pw 0) 12, off, len := c.codeLen, bound := bitsOf (c.pw 4) 0 16, mbx := c.loadMbx,
    code := words.take c.codeLen }

/-- A library with one more routine. -/
def Library.with (l : Library) (r : Routine) : Library := { l with routines := l.routines ++ [r] }

/-- A library without the routines of a number. -/
def Library.without (l : Library) (num : Nat) (crn : Bool) : Library := { l with routines := l.routines.filter fun r => !(r.num == num && r.crn == crn) }

section Loads

variable {s u : State} {c : AdmCmd} {words : List Word} {off : Nat}

theorem State.writeLib_mem (s : State) (i : Nat) (crn : Bool) (off : Nat) (code : List Word) :
    s.writeLib i crn off code = { s with mem := (s.writeLib i crn off code).mem } := s.each_mem _ fun _ _ => rfl

/-- What a ROUTINE_LOAD does to one tile. -/
def AdmCmd.loadTile (c : AdmCmd) (words : List Word) (off : Nat) (s : State) (i : Nat) : State :=
  (s.writeLib i (bitOf (c.pw 0) 12) off (words.take c.codeLen)).updLib i fun l => l.with (c.loaded words off)

theorem AdmCmd.loadTile_edits (c : AdmCmd) (words : List Word) (off : Nat) : EditsLib (fun l => l.with (c.loaded words off)) (c.loadTile words off) :=
  editsLib_of_mem fun u i => u.writeLib_mem i _ _ _

/-- A routine that no named tile has is added to each of them (R387). -/
theorem State.routineLoad_new (hnone : ∀ i ∈ tilesOf c.target, s.routine i (bitsOf (c.pw 0) 0 12) (bitOf (c.pw 0) 12) = none)
    (hplace : placeRun (s.usedWords (tilesOf c.target) (bitOf (c.pw 0) 12)) c.codeLen none = some off) :
    ∃ chg, s.routineLoad c words = (s.each (tilesOf c.target) (c.loadTile words off)).replyOk c
      [off, (s.each (tilesOf c.target) (c.loadTile words off)).smallest (tilesOf c.target) (bitOf (c.pw 0) 12)] chg := by
  have hthere : ((tilesOf c.target).filter fun t => (s.routine t (bitsOf (c.pw 0) 0 12) (bitOf (c.pw 0) 12)).isSome) = [] :=
    List.filter_eq_nil_iff.mpr fun i hi => by simp [hnone i hi]
  have htodo : ((tilesOf c.target).filter fun t => (s.routine t (bitsOf (c.pw 0) 0 12) (bitOf (c.pw 0) 12)).isNone) = tilesOf c.target :=
    List.filter_eq_self.mpr fun i hi => by simp [hnone i hi]
  unfold State.routineLoad
  dsimp only
  rw [hthere, htodo]
  refine ⟨some ((tilesOf c.target).map fun t => .routine t (bitsOf (c.pw 0) 0 12) (bitOf (c.pw 0) 12) off (bitsOf (c.pw 4) 0 16) c.loadMbx
    (words.take c.codeLen)), ?_⟩
  show (match tilesOf c.target, (none : Option Routine) with | [], some r => _ | _, _ => _) = _
  split
  next h => cases h
  · show (match placeRun (s.usedWords (tilesOf c.target) (bitOf (c.pw 0) 12)) c.codeLen none with | none => _ | some off => _) = _
    rw [hplace]
    rfl

/-- In t the libraries of the named tiles have been edited, and else only the admin queue, the memory and the reports differ from s. -/
structure LibsEdited (s t : State) (ts : List Nat) (f : Library → Library) : Prop where
  named : ∀ i ∈ ts, t.lib i = f (s.lib i)
  others : ∀ i, i ∉ ts → t.lib i = s.lib i
  reports : Reports { s with aq := t.aq, libs := t.libs, mem := t.mem } t

/-- After an edit of the libraries the command is replied to, and the reply leaves them. -/
theorem EditsLib.replied {f : Library → Library} {g : State → Nat → State} {ts : List Nat} {opc : Nat} (hg : EditsLib f g) (hts : ts.Nodup)
    (h : OneAdmin s c opc) (hu : ReadsOnly s u) (res : List Nat) (chg : Option (List ConfigRec)) :
    Replied s ((u.each ts g).replyOk c res chg).aqKick c stOk 0xFF res ∧ ((u.each ts g).replyOk c res chg).aqKick.libs = (u.each ts g).libs ∧
      ((u.each ts g).replyOk c res chg).aqKick.mem = (u.each ts g).mem ∧ LibsEdited s ((u.each ts g).replyOk c res chg).aqKick ts f := by
  obtain ⟨he, hk⟩ := hu
  obtain ⟨hreply, hrep⟩ := (hk.trans (hg.each_keepsReply u ts)).replied h res chg
  obtain ⟨t, ht⟩ : ∃ t, t = ((u.each ts g).replyOk c res chg).aqKick := ⟨_, rfl⟩
  rw [← ht] at hreply hrep ⊢
  have hlibs : t.libs = (u.each ts g).libs := by
    unfold Reports at hrep
    rw [hrep]
  have hmem : t.mem = (u.each ts g).mem := by
    unfold Reports at hrep
    rw [hrep]
  have hbase : u.libs = s.libs := by rw [he]
  have hlib : ∀ i, u.lib i = s.lib i := fun i => congrArg (fun l : Table Library => l.get {} i) hbase
  have hlib' : ∀ i, t.lib i = (u.each ts g).lib i := fun i => congrArg (fun l : Table Library => l.get {} i) hlibs
  refine ⟨hreply, hlibs, hmem, fun i hi => ?_, fun i hi => ?_, ?_⟩
  · rw [hlib', hg.each_in hts u hi, hlib]
  · rw [hlib', hg.each_out u hi, hlib]
  · have hstart : Reports { s with aq := t.aq, libs := t.libs, mem := t.mem } { u with aq := t.aq, libs := t.libs, mem := t.mem } := by
      unfold LinksOnly at he
      unfold Reports
      rw [he]
    refine hstart.trans ?_
    rw [hlibs, hmem]
    rw [hg.each_only u ts] at hrep
    exact hrep

/-! ### Routines -/

theorem Library.find_with {l : Library} {r : Routine} {p : Routine → Bool} (hnone : l.routines.find? p = none) (hp : p r = true) :
    (l.with r).routines.find? p = some r := by
  show (l.routines ++ [r]).find? p = some r
  rw [List.find?_append, hnone, List.find?_cons_of_pos hp]
  rfl

theorem Library.find_without (l : Library) (num : Nat) (crn : Bool) : ((l.without num crn).routines.find? fun r => r.num == num && r.crn == crn) = none := by
  refine List.find?_eq_none.mpr fun r hr => ?_
  obtain ⟨-, hne⟩ := List.mem_filter.mp hr
  intro hb
  rw [hb] at hne
  cases hne

theorem runs_routineLoad (h : OneAdmin s c 0x20) (hnot : c.handlers = false) (hd : DataOut s c)
    (hnone : ∀ i ∈ tilesOf c.target, s.routine i (bitsOf (c.pw 0) 0 12) (bitOf (c.pw 0) 12) = none)
    (hplace : placeRun (s.usedWords (tilesOf c.target) (bitOf (c.pw 0) 12)) c.codeLen none = some off) :
    Runs (.routineLoad words) s fun t =>
      (∀ i ∈ tilesOf c.target, t.routine i (bitsOf (c.pw 0) 0 12) (bitOf (c.pw 0) 12) = some (c.loaded words off)) ∧
      (∀ i, i ∉ tilesOf c.target → t.lib i = s.lib i) ∧
      Replied s t c stOk 0xFF [off, t.smallest (tilesOf c.target) (bitOf (c.pw 0) 12)] ∧ Reports { s with aq := t.aq, libs := t.libs, mem := t.mem } t := by
  obtain ⟨u, hu, hrow⟩ := h.onAdminData hd
  have hlibs : u.libs = s.libs := by rw [hu.1]
  have hlib : ∀ i, u.lib i = s.lib i := fun i => congrArg (fun l : Table Library => l.get {} i) hlibs
  have hnone' : ∀ i ∈ tilesOf c.target, u.routine i (bitsOf (c.pw 0) 0 12) (bitOf (c.pw 0) 12) = none := fun i hi => by
    unfold State.routine
    rw [hlib]
    exact hnone i hi
  have hplace' : placeRun (u.usedWords (tilesOf c.target) (bitOf (c.pw 0) 12)) c.codeLen none = some off := by
    simpa only [State.usedWords, hlib] using hplace
  obtain ⟨chg, hload⟩ := State.routineLoad_new (words := words) hnone' hplace'
  obtain ⟨hreply, hl, -, hed⟩ := (c.loadTile_edits words off).replied (tilesOf_nodup c.target) h hu
    [off, (u.each (tilesOf c.target) (c.loadTile words off)).smallest (tilesOf c.target) (bitOf (c.pw 0) 12)] chg
  refine ⟨_, congrArg Host.Outcome.next (hrow _ _ (by rw [h.opcode, hnot]; rfl)), ?_⟩
  dsimp only
  rw [hload, State.smallest_congr hl]
  refine ⟨fun i hi => ?_, hed.others, hreply, hed.reports⟩
  unfold State.routine
  rw [hed.named i hi]
  exact Library.find_with (hnone i hi) (by simp [AdmCmd.loaded])

theorem runs_routineUnload (h : OneAdmin s c 0x21)
    (hrun : ((tilesOf c.target).any fun i => s.runsRoutine i (bitsOf (c.pw 0) 0 12) (bitOf (c.pw 0) 12)) = false) :
    Runs (.routineUnload) s fun t => (∀ i ∈ tilesOf c.target, t.routine i (bitsOf (c.pw 0) 0 12) (bitOf (c.pw 0) 12) = none) ∧
      (∀ i, i ∉ tilesOf c.target → t.lib i = s.lib i) ∧ Replied s t c stOk 0xFF [] ∧ Reports { s with aq := t.aq, libs := t.libs } t := by
  have hedits : EditsLib (fun l => l.without (bitsOf (c.pw 0) 0 12) (bitOf (c.pw 0) 12))
      fun s t => s.updLib t fun l => l.without (bitsOf (c.pw 0) 0 12) (bitOf (c.pw 0) 12) := fun _ _ => rfl
  obtain ⟨hreply, -, hmem, hed⟩ := hedits.replied (tilesOf_nodup c.target) h (.refl s) []
    (some ((tilesOf c.target).map fun t => .routineGone t (bitsOf (c.pw 0) 0 12) (bitOf (c.pw 0) 12)))
  have hkeeps : ((s.each (tilesOf c.target) fun s t => s.updLib t fun l => l.without (bitsOf (c.pw 0) 0 12) (bitOf (c.pw 0) 12))).mem = s.mem :=
    State.each_induction (P := fun u => u.mem = s.mem) _ rfl fun _ _ hu => hu
  have hrow : s.routineUnload c = (s.each (tilesOf c.target) fun s t => s.updLib t fun l => l.without (bitsOf (c.pw 0) 0 12) (bitOf (c.pw 0) 12)).replyOk c []
      (some ((tilesOf c.target).map fun t => .routineGone t (bitsOf (c.pw 0) 0 12) (bitOf (c.pw 0) 12))) := if_neg (by rw [hrun]; exact Bool.false_ne_true)
  refine ⟨_, congrArg Host.Outcome.next (h.onAdmin _), ?_⟩
  dsimp only
  rw [hrow]
  refine ⟨fun i hi => ?_, hed.others, hreply, ?_⟩
  · unfold State.routine
    rw [hed.named i hi]
    exact Library.find_without _ _ _
  · have hr := hed.reports
    rw [hmem, hkeeps] at hr
    exact hr

/-! ### Handler sets -/

/-- What a HANDLER_SET_LOAD does to one tile. -/
def AdmCmd.handTile (c : AdmCmd) (words : List Word) (off : Nat) (s : State) (i : Nat) : State :=
  (s.each (libCores i (bitOf (c.pw 0) 12)) fun s core => s.writeHandlers core off (words.take c.codeLen)).updLib i fun l =>
    l.setHand (bitOf (c.pw 0) 12) { off, len := c.codeLen - 64, words := words.take c.codeLen }

theorem AdmCmd.handTile_edits (c : AdmCmd) (words : List Word) (off : Nat) :
    EditsLib (fun l => l.setHand (bitOf (c.pw 0) 12) { off, len := c.codeLen - 64, words := words.take c.codeLen }) (c.handTile words off) :=
  editsLib_of_mem (w := fun u i => u.each (libCores i (bitOf (c.pw 0) 12)) fun s core => s.writeHandlers core off (words.take c.codeLen))
    fun u _ => u.each_mem _ fun _ _ => rfl

theorem Library.hand_setHand (l : Library) (crn : Bool) (x : HandSet) : (l.setHand crn x).hand crn = some x := by
  cases crn <;> rfl

theorem Library.setHand_routines (l : Library) (crn : Bool) (x : HandSet) : (l.setHand crn x).routines = l.routines := by
  cases crn <;> rfl

/-- In libraries that hold no routine a handler set is placed at the front (R387). -/
theorem State.handlerLoad_front (hdrained : ((tilesOf c.target).all fun i => (libCores i (bitOf (c.pw 0) 12)).all s.drained) = true)
    (hempty : ∀ i ∈ tilesOf c.target, (s.lib i).routines = []) (hlen : c.codeLen - 64 ≤ libWords) :
    ∃ chg, s.handlerLoad c words = (s.each (tilesOf c.target) (c.handTile words 0)).replyOk c
      [0, (s.each (tilesOf c.target) (c.handTile words 0)).smallest (tilesOf c.target) (bitOf (c.pw 0) 12)] chg := by
  have hused : ((tilesOf c.target).flatMap fun t => ((s.lib t).routines.filter fun r => r.crn = bitOf (c.pw 0) 12).map fun r => (r.off, r.len)) = [] :=
    List.flatMap_eq_nil_iff.mpr fun i hi => by simp [hempty i hi]
  have hfirst : firstRun [] (c.codeLen - 64) 0 1 = some 0 := if_neg (by omega)
  unfold State.handlerLoad
  dsimp only
  rw [hdrained, hused]
  refine ⟨some ((tilesOf c.target).map fun t => .handlers t (bitOf (c.pw 0) 12) 0 (words.take c.codeLen)), ?_⟩
  show (match firstRun [] (c.codeLen - 64) 0 1 with | none => _ | some off => _) = _
  rw [hfirst]
  rfl

theorem runs_handlerSetLoad (h : OneAdmin s c 0x20) (hhand : c.handlers = true) (hd : DataOut s c)
    (hdrained : ((tilesOf c.target).all fun i => (libCores i (bitOf (c.pw 0) 12)).all s.drained) = true)
    (hempty : ∀ i ∈ tilesOf c.target, (s.lib i).routines = []) (hoff : off = 0) (hlen : c.codeLen - 64 ≤ libWords) :
    Runs (.handlerSetLoad words) s fun t =>
      (∀ i ∈ tilesOf c.target, (t.lib i).hand (bitOf (c.pw 0) 12) = some { off, len := c.codeLen - 64, words := words.take c.codeLen } ∧
        (t.lib i).routines = []) ∧
      (∀ i, i ∉ tilesOf c.target → t.lib i = s.lib i) ∧
      Replied s t c stOk 0xFF [off, t.smallest (tilesOf c.target) (bitOf (c.pw 0) 12)] ∧ Reports { s with aq := t.aq, libs := t.libs, mem := t.mem } t := by
  subst hoff
  obtain ⟨u, hu, hrow⟩ := h.onAdminData hd
  have hlibs : u.libs = s.libs := by rw [hu.1]
  have hcores : u.drained = s.drained := by rw [hu.1]; rfl
  obtain ⟨chg, hload⟩ := State.handlerLoad_front (s := u) (words := words) (by rw [hcores]; exact hdrained)
    (fun i hi => by unfold State.lib; rw [hlibs]; exact hempty i hi) hlen
  obtain ⟨hreply, hl, -, hed⟩ := (c.handTile_edits words 0).replied (tilesOf_nodup c.target) h hu
    [0, (u.each (tilesOf c.target) (c.handTile words 0)).smallest (tilesOf c.target) (bitOf (c.pw 0) 12)] chg
  refine ⟨_, congrArg Host.Outcome.next (hrow _ _ (by rw [h.opcode, hhand]; rfl)), ?_⟩
  dsimp only
  rw [hload, State.smallest_congr hl]
  refine ⟨fun i hi => ?_, hed.others, hreply, hed.reports⟩
  rw [hed.named i hi, Library.hand_setHand, Library.setHand_routines]
  exact ⟨rfl, hempty i hi⟩

end Loads

end Sys2Proof.Machine
end

section
/-! PROOFS. Channels that are bound and unbound, with their local segments (R143, R384, R385). -/

namespace Sys2Proof.Machine
open Sys2Proof

section Binding

variable {r s t u v : State} {c : AdmCmd} {ch n k : Nat} {x : Chan}

/-! ### Cells -/

theorem CellsOnly.keepsReply (h : CellsOnly s t) : KeepsReply s t := by
  rw [h.1]
  exact (KeepsReply.refl s).same rfl rfl rfl

theorem State.freeLseg_cellsOnly (s : State) (ch : Nat) : CellsOnly s (s.freeLseg ch) := (CellsOnly.refl s).each _ State.freeOne_cellsOnly

/-- A cell that is free stays so while others are freed. -/
theorem State.freeOne_keepsFree {j : Nat} (h : s.cell j = .free) (k : Nat) : (s.freeOne k).cell j = .free := by
  unfold State.freeOne
  split
  · exact h
  · by_cases hj : j = k
    · rw [hj, State.cell_setCell]
    · rw [s.cell_setCell_ne _ _ hj, h]

theorem State.freeOne_cell_ne {j k : Nat} (h : j ≠ k) : (s.freeOne k).cell j = s.cell j := by
  unfold State.freeOne
  split
  · rfl
  · exact s.cell_setCell_ne _ _ h

/-- Every cell of a list goes free that has not been retired (R296). -/
theorem State.each_freeOne_cell (l : List Nat) {j : Nat} (hj : j ∈ l) (h : s.cell j ≠ .retired) : (s.each l fun s k => s.freeOne k).cell j = .free := by
  induction l generalizing s with
  | nil => cases hj
  | cons a l ih =>
    by_cases ha : j = a
    · subst ha
      have hfree : (s.freeOne j).cell j = .free := by
        unfold State.freeOne State.retiredCell
        rw [decide_eq_false h, if_neg Bool.false_ne_true, State.cell_setCell]
      exact State.each_induction (P := fun u => u.cell j = .free) l hfree fun u k hu => State.freeOne_keepsFree hu k
    · obtain rfl | hl := List.mem_cons.mp hj
      · exact absurd rfl ha
      · exact ih hl (by rwa [State.freeOne_cell_ne ha])

/-- The cells of a local segment go free (R385). -/
theorem State.freeLseg_cell {j : Nat} (h : s.cell j = .lseg ch) : (s.freeLseg ch).cell j = .free := by
  refine State.each_freeOne_cell _ ?_ (by rw [h]; exact nofun)
  obtain he | hm := Table.get_eq_or_mem s.hawk.cells .free j
  · have : (CellSt.free : CellSt) = .lseg ch := he.symm.trans h
    cases this
  · refine List.mem_map.mpr ⟨_, List.mem_filter.mpr ⟨hm, decide_eq_true h⟩, rfl⟩

/-- A run of cells put into a state is in it. -/
theorem State.each_setCell_cell (x : CellSt) (k : Nat) (l : List Nat) {i : Nat} (hi : i ∈ l) : (s.each l fun s i => s.setCell (k + i) x 0).cell (k + i) = x := by
  induction l generalizing s with
  | nil => cases hi
  | cons a l ih =>
    obtain rfl | hl := List.mem_cons.mp hi
    · refine State.each_induction (P := fun u => u.cell (k + i) = x) l (s.cell_setCell _ x 0) fun u j hu => ?_
      by_cases hj : k + i = k + j
      · rw [hj, State.cell_setCell]
      · rw [u.cell_setCell_ne _ _ hj, hu]
    · exact ih hl

/-- Bytes that are all 0, one cell after the other. -/
def zeroCells (n : Nat) : List Byte := List.replicate (64 * n) 0

theorem State.takeLseg_cell (s : State) (ch k : Nat) {i n : Nat} (hi : i < n) : (s.takeLseg ch k n).cell (k + i) = .lseg ch :=
  State.each_setCell_cell (.lseg ch) k (List.range n) (List.mem_range.mpr hi)

/-- A channel with a local segment of n cells from k on (R143). -/
def Chan.withLseg (x : Chan) (k n : Nat) : Chan := { x with lbase := if n = 0 then 0 else k, lcells := n }

theorem State.takeCells_cellsOnly (s : State) (ch k n : Nat) : CellsOnly s (s.each (List.range n) fun s i => s.setCell (k + i) (.lseg ch) 0) :=
  (CellsOnly.refl s).each _ fun u _ => u.setCell_cellsOnly _ _ _

theorem Worked.takeLseg (h : Worked r s ch x []) (k n : Nat) :
    Worked (r.store (cellAddr k) (zeroCells n)) (s.takeLseg ch k n) ch (x.withLseg k n) [] :=
  (((s.takeCells_cellsOnly ch k n).worked h).store (cellAddr k) (zeroCells n)).updChan fun c => c.withLseg k n

theorem State.takeLseg_keepsReply (s : State) (ch k n : Nat) : KeepsReply s (s.takeLseg ch k n) :=
  (s.takeCells_cellsOnly ch k n).keepsReply.same rfl rfl rfl

/-! ### The channel after its cells -/

/-- Once its cells have changed, a channel is bound or unbound: nobody has waited for cells, and the domains that its queue keeps awake
are looked at again (R384, R385). -/
theorem Worked.rebind (h : Worked r v ch x []) (hn : r.noneWait) (f : Chan → Chan) (hx : (f x).NoLedgerWait) :
    Worked r ((v.goChan ch f).served.retarget) ch (f x) [] ∧ KeepsReply v ((v.goChan ch f).served.retarget) ∧
      ∀ j, ((v.goChan ch f).served.retarget).cell j = v.cell j := by
  have hg := h.goChan f
  rw [State.served_of_noneWait (hg.noneWait hn hx), State.retarget_pwr]
  exact ⟨hg.same rfl rfl rfl, ((KeepsReply.refl v).goChan ch f).same rfl rfl rfl, State.cell_of_hawk (v.goChan_reports ch f).hawk⟩

theorem Worked.withAq (h : Worked s t ch x []) (a : Aq) : Worked { s with aq := a } { t with aq := a } ch x [] := by
  have ha := h.apart
  simp only [State.apart, Prod.mk.injEq] at ha
  refine ⟨?_, h.chans, h.waits⟩
  simp only [State.apart, ha]

/-- The reply to a command that has worked on a channel leaves it as it is. -/
theorem Worked.replied {m : List Host.Cell} {opc : Nat} (h : Worked { s with mem := m } u ch x []) (hk : KeepsReply s u) (g : OneAdmin s c opc)
    (res : List Nat) (chg : Option (List ConfigRec)) :
    ∃ t, t = (u.replyOk c res chg).aqKick ∧ Replied s t c stOk 0xFF res ∧ t.chan ch = x ∧ t.mem = m ∧ (∀ j, t.cell j = u.cell j) ∧
      ProgramOf { s with aq := t.aq, mem := m } t ch := by
  obtain ⟨hreply, hrep⟩ := hk.replied g res chg
  obtain ⟨t, ht⟩ : ∃ t, t = (u.replyOk c res chg).aqKick := ⟨_, rfl⟩
  rw [← ht] at hreply hrep
  have hw := (h.withAq t.aq).reports hrep
  refine ⟨t, ht, hreply, hw.chan, ?_, State.cell_of_hawk hrep.hawk, hw.prog⟩
  have ha := hw.apart
  simp only [State.apart, Prod.mk.injEq] at ha
  simp only [ha]

/-! ### The rows -/

/-- A channel as UNBIND_CHANNEL leaves it (R385). -/
def Chan.unbound (y : Chan) : Chan := { y with bound := false, st := .idle, lbase := 0, lcells := 0 }

theorem runs_unbindChannel (h : OneAdmin s c 0x12) (hch : ch = c.target) (hb : (s.chan ch).bound = true) (hst : (s.chan ch).st = .idle)
    (hchain : (s.chan ch).chain = none) (hn : s.noneWait) :
    Runs (.unbindChannel) s fun t => (t.chan ch).bound = false ∧ (t.chan ch).lcells = 0 ∧ (∀ j, s.cell j = .lseg ch → t.cell j = .free) ∧
      Replied s t c stOk 0xFF [] ∧ ProgramOf { s with aq := t.aq } t ch := by
  have hfree := s.freeLseg_cellsOnly ch
  have hv : Worked s (s.freeLseg ch) ch (s.chan ch) [] := hfree.worked (hn.1 ▸ .refl s ch)
  obtain ⟨hw, hk, hcell⟩ := hv.rebind hn Chan.unbound (s.chan_noLedgerWait hn ch)
  have hrow : s.unbindChannel c = ((((s.freeLseg ch).goChan ch Chan.unbound).served).retarget).replyOk c [] (some [.unbind ch]) := by
    unfold State.unbindChannel
    dsimp only
    rw [← hch, hb, hst, State.freeChChain, hv.chan, hchain]
    rw [if_neg (by simp), if_neg (by simp)]
    rfl
  obtain ⟨t, ht, hreply, htx, hmem, htcell, hprog⟩ := Worked.replied (m := s.mem) hw (hfree.keepsReply.trans hk) h [] (some [.unbind ch])
  refine ⟨t, (congrArg Host.Outcome.next (h.onAdmin _)).trans (by rw [hrow, ht]), ?_⟩
  dsimp only
  rw [htx]
  exact ⟨rfl, rfl, fun j hj => ((htcell j).trans (hcell j)).trans (State.freeLseg_cell hj), hreply, hprog⟩

/-- A channel as BIND_CHANNEL leaves it (R384). -/
def Chan.boundTo (q : Nat) (y : Chan) : Chan := { y with queue := q, bound := true }

/-- The state with a channel bound to a queue, its local segment n cells from k on (R384). -/
def State.bindTo (s : State) (ch q n k : Nat) : State := (((s.freeLseg ch).takeLseg ch k n).goChan ch (Chan.boundTo q)).served.retarget

theorem Worked.bindTo (h : Worked r s ch x []) (hn : r.noneWait) (hx : x.NoLedgerWait) (q n k : Nat) :
    Worked (r.store (cellAddr k) (zeroCells n)) (s.bindTo ch q n k) ch ((x.withLseg k n).boundTo q) [] ∧ KeepsReply s (s.bindTo ch q n k) ∧
      ∀ i, i < n → (s.bindTo ch q n k).cell (k + i) = .lseg ch := by
  have hfree := s.freeLseg_cellsOnly ch
  obtain ⟨hw, hk, hcell⟩ := ((hfree.worked h).takeLseg k n).rebind hn (Chan.boundTo q) hx
  exact ⟨hw, (hfree.keepsReply.trans (State.takeLseg_keepsReply _ ch k n)).trans hk, fun i hi => (hcell _).trans (State.takeLseg_cell _ ch k hi)⟩

/-- BIND_CHANNEL of a channel that is not bound takes the run that was found; with no cells, none (R384). -/
theorem State.bindChannel_new (hch : ch = c.target) (hlen : n = bitsOf (c.pw 0) 16 7) (hb : (s.chan ch).bound = false) (hst : (s.chan ch).st = .idle)
    (hrun : n = 0 ∨ (s.owed + n ≤ s.freeOrCredit + (s.chan ch).lcells ∧ s.lsegRun ch n = some k)) :
    ∃ (fn k' : Nat) (u : State), (n ≠ 0 → k' = k) ∧ u = ({ s with freeNext := fn } : State).bindTo ch (bitsOf (c.pw 0) 0 10) n k' ∧
      s.bindChannel c = u.replyOk c [(u.chan ch).lbase % 0x8000 + n * 0x10000] (some [.bind ch (bitsOf (c.pw 0) 0 10) n]) := by
  unfold State.bindChannel
  dsimp only
  rw [← hch, ← hlen, hb, hst, if_neg (by simp), if_neg (by simp)]
  by_cases hz : n = 0
  · rw [if_pos hz]
    exact ⟨s.freeNext, 0, s.bindTo ch (bitsOf (c.pw 0) 0 10) n 0, fun h => absurd hz h, rfl, rfl⟩
  · obtain h0 | ⟨hroom, hfound⟩ := hrun
    · exact absurd h0 hz
    rw [if_neg hz, if_neg (Nat.not_lt.mpr hroom), hfound]
    exact ⟨s.freeNext + 1, k, ({ s with freeNext := s.freeNext + 1 } : State).bindTo ch (bitsOf (c.pw 0) 0 10) n k, fun _ => rfl, rfl, rfl⟩

theorem runs_bindChannel (h : OneAdmin s c 0x11) (hch : ch = c.target) (hlen : n = bitsOf (c.pw 0) 16 7) (hb : (s.chan ch).bound = false)
    (hst : (s.chan ch).st = .idle) (hm : s.memOk) (hn : s.noneWait)
    (hrun : n = 0 ∨ (s.owed + n ≤ s.freeOrCredit + (s.chan ch).lcells ∧ s.lsegRun ch n = some k)) :
    Runs (.bindChannel) s fun t => (t.chan ch).bound = true ∧ (t.chan ch).queue = bitsOf (c.pw 0) 0 10 ∧ (t.chan ch).lcells = n ∧
      (t.chan ch).lbase = (if n = 0 then 0 else k) ∧ (∀ i, i < n → t.cell (k + i) = .lseg ch) ∧
      t.bytesAt (cellAddr k) (64 * n) = List.replicate (64 * n) 0 ∧ MemOnly s t (cellAddr k) (64 * n) ∧
      Replied s t c stOk 0xFF [(t.chan ch).lbase % 0x8000 + n * 0x10000] ∧ ProgramOf { s with aq := t.aq, mem := t.mem } t ch := by
  obtain ⟨fn, k', u, hk', hu, hrow⟩ := State.bindChannel_new hch hlen hb hst hrun
  have hstart : Worked s { s with freeNext := fn } ch (s.chan ch) [] := Worked.same (s := s) (hn.1 ▸ .refl s ch) rfl rfl rfl
  obtain ⟨hw, hk, hcell⟩ := hstart.bindTo hn (s.chan_noLedgerWait hn ch) (bitsOf (c.pw 0) 0 10) n k'
  rw [← hu] at hw hk hcell
  have hkeeps : KeepsReply s u := KeepsReply.trans (s := { s with freeNext := fn }) ((KeepsReply.refl s).same rfl rfl rfl) hk
  obtain ⟨t, ht, hreply, htx, hmem, htcell, hprog⟩ := Worked.replied hw hkeeps h [(u.chan ch).lbase % 0x8000 + n * 0x10000]
    (some [.bind ch (bitsOf (c.pw 0) 0 10) n])
  have hat : t.mem = (s.store (cellAddr k) (zeroCells n)).mem := by
    by_cases hz : n = 0
    · subst hz
      exact hmem
    · rw [hmem, hk' hz]
      rfl
  refine ⟨t, (congrArg Host.Outcome.next (h.onAdmin _)).trans (by rw [hrow, ht]), ?_⟩
  dsimp only
  rw [hw.chan] at hreply
  rw [htx, hmem]
  refine ⟨rfl, rfl, rfl, ?_, fun i hi => ?_, ?_, fun b hb => ?_, hreply, hprog⟩
  · show (if n = 0 then 0 else k') = _
    split
    · rfl
    next hz => exact hk' hz
  · rw [htcell, ← hk' (Nat.ne_of_gt (Nat.zero_lt_of_lt hi))]
    exact hcell i hi
  · have hbytes := State.bytesAt_store hm (cellAddr k) (zeroCells n)
    rw [zeroCells, List.length_replicate] at hbytes
    unfold State.bytesAt at hbytes ⊢
    rw [hat]
    exact hbytes
  · rw [hat]
    refine Memory.get_setMany_out _ _ _ _ ?_
    rwa [zeroCells, List.length_replicate]

end Binding

/-- Settles O41: each of the commands is carried out on the channel's cells or on the libraries of the named tiles, and the reply follows. -/
theorem adminBindingAndLibraries : Obligations.AdminBindingAndLibraries := fun _ _ =>
  ⟨fun _ _ _ h hch hlen hb hst hm hn hrun => runs_bindChannel h hch hlen hb hst hm hn hrun,
    fun _ h hch hb hst hchain hn => runs_unbindChannel h hch hb hst hchain hn,
    fun _ _ h hnot hd hnone hplace => runs_routineLoad h hnot hd hnone hplace,
    fun _ _ h hhand hd hdrained hempty hoff hlen => runs_handlerSetLoad h hhand hd hdrained hempty hoff hlen,
    fun h hrun => runs_routineUnload h hrun⟩

end Sys2Proof.Machine
end

section
/-! PROOFS. A routine begins on a context only where it is dispatched: cells, budgets, ledgers and the ends of programs begin none (R135, R174, R218,
R269, R300). -/

namespace Sys2Proof.Machine
open Sys2Proof

/-- From s to t no context that ran no routine has come to run one (R269). -/
def NoRunBegins (s t : State) : Prop := ∀ core k, (s.ctx core k).run = none → (t.ctx core k).run = none

theorem NoRunBegins.refl (s : State) : NoRunBegins s s := fun _ _ => id

theorem NoRunBegins.trans {r s t : State} (h : NoRunBegins r s) (g : NoRunBegins s t) : NoRunBegins r t := fun core k hr => g core k (h core k hr)

/-- An update that leaves the cores. -/
theorem NoRunBegins.same {r s t : State} (h : NoRunBegins r s) (e : t.cores = s.cores) : NoRunBegins r t :=
  h.trans fun core k hr => by rwa [State.ctx_congr e]

theorem NoRunBegins.ite {r a b : State} {c : Prop} [Decidable c] (h : NoRunBegins r a) (g : NoRunBegins r b) : NoRunBegins r (if c then a else b) := by
  split <;> assumption

theorem NoRunBegins.each {α : Type} {r s : State} (l : List α) {f : State → α → State} (hf : ∀ t a, NoRunBegins r t → NoRunBegins r (f t a))
    (h : NoRunBegins r s) : NoRunBegins r (s.each l f) := State.each_induction (P := NoRunBegins r) l h hf

/-- What only reports leaves the cores. -/
theorem NoRunBegins.reports {r s t : State} (h : NoRunBegins r s) (g : Reports s t) : NoRunBegins r t := h.same (by rw [g])

theorem NoRunBegins.emits {r s t : State} (h : NoRunBegins r s) (g : Emits s t) : NoRunBegins r t := h.reports g.reports

/-- A core whose contexts come to run no routine. -/
theorem NoRunBegins.setCore {r s : State} (h : NoRunBegins r s) (core : Nat) {x : Core}
    (hx : ∀ k, (s.ctx core k).run = none → (x.ctxs.get {} k).run = none) : NoRunBegins r (s.setCore core x) := by
  refine h.trans fun g k hr => ?_
  unfold State.ctx
  by_cases hg : g = core
  · rw [hg, State.core_setCore]
    exact hx k (hg ▸ hr)
  · rw [s.core_setCore_ne core g x hg]
    exact hr

theorem NoRunBegins.updCtx {r s : State} (h : NoRunBegins r s) (core k : Nat) {f : Ctx → Ctx} (hf : ∀ c, c.run = none → (f c).run = none) :
    NoRunBegins r (s.updCtx core k f) :=
  h.setCore core fun j hj => by
    by_cases hk : j = k
    · rw [hk, Table.get_set_same]
      exact hf _ (hk ▸ hj)
    · rw [Table.get_set_ne _ _ _ hk]
      exact hj

section Reporting

variable {r s : State} (h : NoRunBegins r s)

include h

theorem State.wakeDomain_noRun (d cause : Nat) : NoRunBegins r (s.wakeDomain d cause) := h.emits (State.wakeDomain_emits s d cause (Emits.refl s))

theorem State.touchCell_noRun (k : Nat) : NoRunBegins r (s.touchCell k) := State.wakeDomain_noRun h _ _

theorem State.wakeData_noRun (l : List Nat) : NoRunBegins r (s.wakeData l) := h.emits (State.wakeData_emits s l (Emits.refl s))

theorem State.notePeak_noRun (t : Nat) : NoRunBegins r (s.notePeak t) := h.emits (State.notePeak_emits s t (Emits.refl s))

theorem State.pulse_noRun (n : Nat) : NoRunBegins r (s.pulse n) := h.emits (State.pulse_emits s n (Emits.refl s))

theorem State.setLine_noRun (n : Nat) (level : Bool) : NoRunBegins r (s.setLine n level) := h.emits (State.setLine_emits s n level (Emits.refl s))

theorem State.mbxLine_noRun (mb : Nat) : NoRunBegins r (s.mbxLine mb) := State.setLine_noRun h _ _

theorem State.mirror_noRun (ty : TxType) (prio : Bool) (body : TxBody) : NoRunBegins r (s.mirror ty prio body) :=
  h.emits (State.mirror_emits s ty prio body (Emits.refl s))

theorem State.mirrorCh_noRun (ch : Nat) : NoRunBegins r (s.mirrorCh ch) := State.mirror_noRun h _ _ _

theorem State.cfgMirror_noRun (off size v : Nat) : NoRunBegins r (s.cfgMirror off size v) := h.emits (State.cfgMirror_emits s off size v (Emits.refl s))

theorem State.gateRec_noRun (md : Nat) (w : Egress) (raise : Bool) : NoRunBegins r (s.gateRec md w raise) := h.same (by rfl)

theorem State.send_noRun (md : Nat) (kind : EgKind) (addr : Word64) (bytes : List Byte) (relaxed : Bool) :
    NoRunBegins r (s.send md kind addr bytes relaxed) := h.emits (State.send_emits s md kind addr bytes relaxed (Emits.refl s))

theorem State.writeHost_noRun (md : Nat) (kind : EgKind) (addr : Nat) (l : List Byte) (relaxed : Bool) (n : Nat) :
    NoRunBegins r (s.writeHost md kind addr l relaxed n) := h.emits (State.writeHost_emits s md kind addr l relaxed n (Emits.refl s))

theorem State.askRead_noRun (md : Nat) (x : HostRead) : NoRunBegins r (s.askRead md x) := h.emits (State.askRead_emits s md x (Emits.refl s))

theorem State.askBlock_noRun (ch : Nat) (a : Word64) : NoRunBegins r (s.askBlock ch a) := State.askRead_noRun h _ _

theorem State.accFault_noRun (m : Nat) : NoRunBegins r (s.accFault m) := h.emits (State.accFault_emits s m (Emits.refl s))

theorem State.retarget_noRun : NoRunBegins r s.retarget := h.emits (State.retarget_emits s (Emits.refl s))

theorem State.finish0_noRun (q : Nat) (cnt : Word32) (x : StatusRec) : NoRunBegins r (s.finish0 q cnt x) := h.reports (State.finish0_reports s q cnt x (Reports.refl s))

theorem State.advance0_noRun (q : Nat) : NoRunBegins r (s.advance0 q) := h.reports (State.advance0_reports s q (Reports.refl s))

theorem State.markDone_noRun (q : Nat) (cnt : Word32) : NoRunBegins r (s.markDone q cnt) := h.same (by rfl)

theorem State.settled_noRun : NoRunBegins r s.settled := h.reports (State.settled_reports s (Reports.refl s))

theorem State.putRec_noRun (md : Nat) (w : Egress) {enter : State → State} (henter : ∀ t, NoRunBegins r t → NoRunBegins r (enter t)) :
    NoRunBegins r (s.putRec md w enter) :=
  .ite (h.same (by rfl)) (.ite (State.gateRec_noRun (State.mirror_noRun h _ _ _) _ _ _) (henter s h))

end Reporting

section Cells

variable {r s : State} (h : NoRunBegins r s)

include h

theorem State.charge_noRun (c t : Nat) (k : Cost) : NoRunBegins r (s.charge c t k) := by
  unfold State.charge
  extract_lets x sp s1
  have h1 : NoRunBegins r s1 := h.same (by rfl)
  clear_value s1
  split
  · exact h1
  · exact h1.same (by rfl)

theorem State.chargeCh_noRun (ch : Nat) (k : Cost) : NoRunBegins r (s.chargeCh ch k) := State.charge_noRun h _ _ k

theorem State.beat_noRun (c t n : Nat) : NoRunBegins r (s.beat c t n) := State.charge_noRun h c t _

theorem State.countPark_noRun (c : Nat) (overrun : Bool) : NoRunBegins r (s.countPark c overrun) := by
  unfold State.countPark
  extract_lets s1
  have h1 : NoRunBegins r s1 := h.same (by rfl)
  exact .ite (State.pulse_noRun h1 _) h1

theorem State.grant_noRun {home acct k : Nat} {c : CellSt} {t : State} (e : s.grant home acct c = some (k, t)) : NoRunBegins r t := by
  unfold State.grant at e
  split at e
  · split at e
    · cases e
    · obtain ⟨-, rfl⟩ := Prod.mk.inj (Option.some.inj e)
      exact h.same (by rfl)
  · cases e

theorem State.grantProducer_noRun {p home acct k : Nat} {c : CellSt} {t : State} (e : s.grantProducer p home acct c = some (k, t)) : NoRunBegins r t := by
  unfold State.grantProducer at e
  split at e
  · split at e
    · obtain ⟨-, rfl⟩ := Prod.mk.inj (Option.some.inj e)
      exact h.same (by rfl)
    · exact State.grant_noRun h e
  · cases e

theorem State.grantMany_noRun {p home acct : Nat} {c : CellSt} {n : Nat} {l : List Nat} {t : State}
    (e : s.grantMany p home acct c n = some (l, t)) : NoRunBegins r t := by
  induction n generalizing s l with
  | zero =>
    obtain ⟨-, rfl⟩ := Prod.mk.inj (Option.some.inj e)
    exact h
  | succ n ih =>
    unfold State.grantMany at e
    split at e
    · cases e
    · rename_i hp
      split at e
      · cases e
      · rename_i hm
        obtain ⟨-, rfl⟩ := Prod.mk.inj (Option.some.inj e)
        exact ih (State.grantProducer_noRun h hp) hm

theorem State.hawkStore_noRun (a : Nat) (l : List Byte) : NoRunBegins r (s.hawkStore a l) := .ite (h.same (by rfl)) h

theorem State.freeOne_noRun (k : Nat) : NoRunBegins r (s.freeOne k) := .ite h (h.same (by rfl))

theorem State.withdraw_noRun (k : Nat) : NoRunBegins r (s.withdraw k) := h.same (by rfl)

theorem State.freeCells_noRun (cells : List Nat) : NoRunBegins r (s.freeCells cells) :=
  .each _ (fun _ k ht => State.withdraw_noRun ht k) (.each _ (fun _ k ht => State.freeOne_noRun ht k) h)

theorem State.freeChain_noRun (owner : CellSt) (head : Nat) : NoRunBegins r (s.freeChain owner head) := by
  unfold State.freeChain
  extract_lets x s1
  have h1 : NoRunBegins r s1 := .each _ (fun _ k ht => .ite (State.freeOne_noRun ht k) ht) h
  clear_value s1
  split
  · exact h1
  · exact .each _ (fun _ k ht => State.withdraw_noRun ht k) h1

theorem State.freeChChain_noRun (ch : Nat) : NoRunBegins r (s.freeChChain ch) := by
  unfold State.freeChChain
  split
  · exact h
  · exact (State.freeChain_noRun h _ _).same (by rfl)

theorem State.fillCells_noRun (cells : List Nat) (l : List Byte) : NoRunBegins r (s.fillCells cells l) := by
  induction cells generalizing s l with
  | nil => exact h
  | cons k rest ih =>
    cases rest with
    | nil => exact h.same (by rfl)
    | cons k2 rest => exact ih (h.same (by rfl)) _

theorem State.chainAppend_noRun {ch acct : Nat} {l : List Byte} {t : State} (e : s.chainAppend ch acct l = some t) : NoRunBegins r t := by
  unfold State.chainAppend at e
  split at e
  · exact Option.some.inj e ▸ h
  · dsimp only at e
    split at e
    · split at e
      · cases e
      · rename_i hm
        obtain rfl := Option.some.inj e
        exact (State.fillCells_noRun (State.grantMany_noRun h hm) _ _).same (by rfl)
    · split at e
      · cases e
      · split at e
        · obtain rfl := Option.some.inj e
          exact h.same (by rfl)
        · split at e
          · cases e
          · rename_i hm
            obtain rfl := Option.some.inj e
            exact State.fillCells_noRun ((State.grantMany_noRun (h.same (by rfl)) hm).same (by rfl)) _ _

theorem State.waitGrant_noRun (ch acct : Nat) : NoRunBegins r (s.waitGrant ch acct) := .ite h (h.same (by rfl))

end Cells

section Ledgers

variable {r s : State} (h : NoRunBegins r s)

include h

theorem State.doneEffect_noRun (ch residual : Nat) : NoRunBegins r (s.doneEffect ch residual) := by
  unfold State.doneEffect
  extract_lets x s1
  have h1 : NoRunBegins r s1 := by
    dsimp only [s1]
    split
    · exact h
    · split
      · exact h
      · exact State.mirror_noRun (.ite (h.same (by rfl)) (h.same (by rfl))) _ _ _
  clear_value s1
  split
  · exact h1
  · split
    · exact h1
    · exact h1.same (by rfl)

theorem State.markReported_noRun (i : Nat) (e : LEntry) : NoRunBegins r (s.markReported i e) := State.mirror_noRun (h.same (by rfl)) _ _ _

theorem State.reportOne_noRun (ch : Nat) (slot mslot : Option Nat) : NoRunBegins r (s.reportOne ch slot mslot) := by
  unfold State.reportOne
  extract_lets s1
  have h1 : NoRunBegins r s1 := by
    dsimp only [s1]
    split
    · exact h
    · split
      · exact h
      · exact State.markReported_noRun h _ _
  clear_value s1
  split
  · exact h1
  · exact h1.same (by rfl)

theorem State.goChan_noRun (ch : Nat) (f : Chan → Chan) : NoRunBegins r (s.goChan ch f) := State.mirrorCh_noRun (h.same (by rfl)) ch

theorem State.reportBelow_noRun (ch : Nat) (gen floor : BitVec 16) (mslots : List Nat) : NoRunBegins r (s.reportBelow ch gen floor mslots) := by
  unfold State.reportBelow
  extract_lets below s1 s2
  have h1 : NoRunBegins r s1 := .each _ (fun _ e ht => State.markReported_noRun ht _ _) h
  have h2 : NoRunBegins r s2 := h1.same (by rfl)
  exact .ite (State.goChan_noRun h2 _ _) h2

theorem State.reportAll_noRun (ch : Nat) : NoRunBegins r (s.reportAll ch) := (State.reportBelow_noRun h ch _ _ _).same (by rfl)

theorem State.giveSlot_noRun (ch : Nat) : NoRunBegins r (s.giveSlot ch) := by
  unfold State.giveSlot
  dsimp only
  split
  · split
    · exact h.same (by rfl)
    · exact h
  · exact h

theorem State.markSlot_noRun (ch : Nat) (m : MSlot) : NoRunBegins r (s.markSlot ch m) := by
  unfold State.markSlot
  refine .ite h ?_
  split
  · exact h
  · exact h.same (by rfl)

theorem State.openEffect_noRun (ch : Nat) (ccw : Word64) (rs : Bool) : NoRunBegins r (s.openEffect ch ccw rs) := by
  unfold State.openEffect
  extract_lets c old
  split
  split
  · exact h
  · extract_lets e s0 s1 s2
    have h0 : NoRunBegins r s0 := State.goChan_noRun (State.notePeak_noRun (h.same (by rfl)) _) _ _
    clear_value s0
    have h1 : NoRunBegins r s1 := State.mirror_noRun h0 _ _ _
    clear_value s1
    have h2 : NoRunBegins r s2 := h1.same (by rfl)
    exact State.markSlot_noRun h2 _ _

theorem State.beginSkip_noRun (ch : Nat) (x : Option Nat × BitVec 8 × Nat) : NoRunBegins r (s.beginSkip ch x) := by
  have h1 : NoRunBegins r (if x.1.isNone then s.takeWord.2 else s) := .ite (h.same (by rfl)) h
  exact h1.same (by rfl)

theorem State.newAnchor_noRun (ch : Nat) : NoRunBegins r (s.newAnchor ch) := by
  have h1 := State.goChan_noRun h ch fun c => { c with anchor := c.ccwa, gen := c.gen + 1, nextOrd := 0, rfloor := 0, replayTo := 0 }
  exact .ite h1 (h1.same (by rfl))

end Ledgers

section Ends

variable {r s : State} (h : NoRunBegins r s)

include h

theorem State.clearChan_noRun (ch : Nat) : NoRunBegins r (s.clearChan ch) := (State.freeChChain_noRun h ch).same (by rfl)

theorem State.haltAtRest_noRun (q ch : Nat) (e : Entry) : NoRunBegins r (s.haltAtRest q ch e) := by
  unfold State.haltAtRest
  split
  · exact State.finish0_noRun (State.goChan_noRun (State.freeChChain_noRun h ch) _ _) q _ _
  · exact State.finish0_noRun h q _ _
  · exact State.finish0_noRun h q _ _

theorem State.clearAtRest_noRun (q ch : Nat) (e : Entry) : NoRunBegins r (s.clearAtRest q ch e) :=
  State.finish0_noRun (State.mirrorCh_noRun (State.clearChan_noRun h ch) ch) q _ _

theorem State.runWaiting_noRun (ch : Nat) : NoRunBegins r (s.runWaiting ch) := by
  refine NoRunBegins.each _ (fun t w ht => ?_) (h.same (by rfl))
  split
  · exact ht
  · exact .ite (State.haltAtRest_noRun ht _ ch _) (State.clearAtRest_noRun ht _ ch _)

theorem State.finalStands_noRun (q : Nat) (cnt : Word32) (ch : Nat) (code : BitVec 16) : NoRunBegins r (s.finalStands q cnt ch code) := by
  have h2 := State.goChan_noRun (State.reportAll_noRun h ch) ch fun c => { c with st := endState code, ending := none }
  exact State.runWaiting_noRun (State.advance0_noRun (State.markDone_noRun (.ite h2 (State.freeChChain_noRun h2 ch)) q cnt) q) ch

theorem State.enterFinal_noRun (q : Nat) (cnt : Word32) (ch : Nat) (code : BitVec 16) (ccw : Word64) (b : List Byte) :
    NoRunBegins r (s.enterFinal q cnt ch code ccw b) := by
  have h1 := State.send_noRun h (s.qModule q) (.final q cnt ch code ccw) ((s.q q).statAddr cnt) (stampFrame b s.frameLo) false
  exact .ite h1 (State.finalStands_noRun h1 q cnt ch code)

theorem State.dropBlocks_noRun (ch : Nat) : NoRunBegins r (s.dropBlocks ch) := h.same (by rfl)

theorem State.endProgram_noRun (ch : Nat) (code : BitVec 16) (residual detail : Nat) : NoRunBegins r (s.endProgram ch code residual detail) := by
  unfold State.endProgram
  extract_lets c s1
  have h1 : NoRunBegins r s1 :=
    State.goChan_noRun (State.beat_noRun (State.dropBlocks_noRun (s := (s.leavePorts ch).unwaitGrant ch) (h.same (by rfl)) ch) _ _ _) _ _
  clear_value s1
  split
  exact State.putRec_noRun h1 _ _ fun t ht => State.settled_noRun (State.enterFinal_noRun ht _ _ _ _ _ _)

theorem State.failAt_noRun (ch : Nat) (code : BitVec 16) (detail : Nat) : NoRunBegins r (s.failAt ch code detail) := by
  unfold State.failAt
  dsimp only
  split
  · exact State.endProgram_noRun (h.same (by rfl)) _ _ _ _
  · exact State.endProgram_noRun (h.same (by rfl)) _ _ _ _

theorem State.fail_noRun (ch : Nat) (code : BitVec 16) : NoRunBegins r (s.fail ch code) := State.endProgram_noRun h ch code _ _

theorem State.failNow_noRun (ch : Nat) (code : BitVec 16) (detail : Nat) : NoRunBegins r (s.failNow ch code detail) := State.endProgram_noRun h ch code _ _

theorem State.interimReports_noRun (ch : Nat) (what : Reported) : NoRunBegins r (s.interimReports ch what) := by
  cases what with
  | one slot mslot => exact State.reportOne_noRun h ch slot mslot
  | below gen floor mslots => exact State.reportBelow_noRun h ch gen floor mslots

theorem State.enterInterim_noRun (md ch : Nat) (what : Reported) (addr : Word64) (b : List Byte) : NoRunBegins r (s.enterInterim md ch what addr b) := by
  have h1 := State.send_noRun h md (.interim ch what) addr (stampFrame b s.frameLo) false
  exact .ite h1 (State.interimReports_noRun h1 ch what)

theorem State.interim_noRun (ch : Nat) (post : Bool) (ccw : Word64) (residual detail : Nat) : NoRunBegins r (s.interim ch post ccw residual detail) := by
  unfold State.interim
  extract_lets c addr what s1
  have h1 : NoRunBegins r s1 := State.goChan_noRun (State.beat_noRun h _ _ _) _ _
  clear_value s1
  refine .ite h ?_
  split
  exact State.putRec_noRun h1 _ _ fun t ht => State.enterInterim_noRun ht _ _ _ _ _

theorem State.enterReply_noRun (cnt : Word32) (b : List Byte) : NoRunBegins r (s.enterReply cnt b) := by
  unfold State.enterReply
  extract_lets a md full s1
  have h1 : NoRunBegins r s1 := State.send_noRun h _ _ _ _ _
  exact .ite h1 (State.pulse_noRun (h1.same (by rfl)) _)

theorem State.park_noRun (ch : Nat) (why : ParkWhy) (overrun : Bool) : NoRunBegins r (s.park ch why overrun) := by
  unfold State.park
  extract_lets c s1 s2
  have h1 : NoRunBegins r s1 := State.countPark_noRun h _ _
  have h2 : NoRunBegins r s2 := State.goChan_noRun h1 _ _
  exact .ite (State.failAt_noRun h _ _ _) (.ite (State.failAt_noRun h1 _ _ _) (h2.same (by rfl)))

theorem State.unpark_noRun (ch : Nat) : NoRunBegins r (s.unpark ch) := State.goChan_noRun h _ _

end Ends

end Sys2Proof.Machine
end

section
/-! PROOFS. Messages, commands, CCWs and outputs begin no routine (R66, R145 to R157, R305, R323, R371, R477). -/

namespace Sys2Proof.Machine
open Sys2Proof

/-- The completion of an instruction leaves the routine that a context runs (R253). -/
theorem Ctx.complete_run (c : Ctx) (now : Nat) (pc next : Word) : (c.complete now pc next).run = c.run := by
  unfold Ctx.complete
  split <;> rfl

section Messages

variable {r s : State} (h : NoRunBegins r s)

include h

theorem State.setNow_noRun (core k n : Nat) : NoRunBegins r (s.setNow core k n) :=
  h.trans fun g j hr => by
    unfold State.setNow
    refine NoRunBegins.setCore (.refl s) core (fun i hi => ?_) g j hr
    split <;> exact hi

theorem State.passWait_noRun (core k : Nat) : NoRunBegins r (s.passWait core k) := by
  unfold State.passWait
  extract_lets n
  split
  · refine (State.setNow_noRun h core k n).updCtx core k fun c hc => ?_
    unfold Ctx.spend
    split <;> exact hc
  · exact State.setNow_noRun h core k n
  · exact h

theorem State.wfeWake_noRun (core k : Nat) : NoRunBegins r (s.wfeWake core k) :=
  .ite ((State.passWait_noRun h core k).updCtx core k fun c hc => (Ctx.complete_run c _ _ _).trans hc) h

theorem State.setLatch_noRun (core k : Nat) : NoRunBegins r (s.setLatch core k) :=
  .ite (State.wfeWake_noRun (h.updCtx core k (f := fun c => { c with evl := true }) fun _ hc => hc) core k) h

theorem State.mbxFire_noRun (mb : Nat) : NoRunBegins r (s.mbxFire mb) := .ite (State.setLatch_noRun (h.same (by rfl)) _ _) h

theorem State.mbxAccept_noRun (mb cell : Nat) (m : MsgHdr) : NoRunBegins r (s.mbxAccept mb cell m) := by
  unfold State.mbxAccept
  extract_lets x s1 s2
  have h1 : NoRunBegins r s1 := (State.touchCell_noRun h cell).same (by rfl)
  clear_value s1
  have h2 : NoRunBegins r s2 := by
    dsimp only [s2]
    split
    · exact h1
    · exact h1.same (by rfl)
  clear_value s2
  exact State.mbxLine_noRun (State.mbxFire_noRun (h2.same (by rfl)) mb) mb

theorem State.kmdFlush_noRun (p : Nat) : NoRunBegins r (s.kmdFlush p) := by
  refine NoRunBegins.each _ (fun t l ht => ?_) h
  split
  · exact ht
  · exact .ite (ht.same (by rfl)) ht

theorem State.kmdSend_noRun (f : KmdFrame) : NoRunBegins r (s.kmdSend f) := by
  unfold State.kmdSend
  split
  · exact State.kmdFlush_noRun (h.same (by rfl)) _
  · exact h

theorem State.replyAdm_noRun (c : AdmCmd) (code : BitVec 16) (arg : Nat) (res : List Nat) (chg : Option (List ConfigRec)) :
    NoRunBegins r (s.replyAdm c code arg res chg) := by
  unfold State.replyAdm
  extract_lets b s1
  have h1 : NoRunBegins r s1 := h.same (by rfl)
  clear_value s1
  exact .ite (State.gateRec_noRun (State.mirror_noRun h1 _ _ _) _ _ _) (State.enterReply_noRun h1 _ _)

theorem State.askPacket_noRun : NoRunBegins r s.askPacket :=
  .ite (State.askRead_noRun (State.wakeDomain_noRun (State.wakeDomain_noRun (h.same (by rfl)) _ _) _ _) _ _) h

theorem State.admStart1_noRun (c : AdmCmd) : NoRunBegins r (s.admStart1 c) :=
  .ite (State.replyAdm_noRun h c _ _ _ _) (.ite h (State.askRead_noRun (h.same (by rfl)) _ _))

theorem State.admStart_noRun (n : Nat) : NoRunBegins r (s.admStart n) := by
  induction n generalizing s with
  | zero => exact h
  | succ n ih =>
    unfold State.admStart
    extract_lets s1
    have h1 : NoRunBegins r s1 := .ite (.each _ (fun _ c ht => State.admStart1_noRun ht c) h) h
    exact .ite (ih h1) h1

theorem State.aqKick_noRun : NoRunBegins r s.aqKick := State.askPacket_noRun (State.admStart_noRun h 17)

end Messages

section Words

variable {r s : State} (h : NoRunBegins r s)

include h

theorem State.fetchBlock_noRun (ch : Nat) : NoRunBegins r (s.fetchBlock ch) :=
  .ite h (.ite (State.fail_noRun h ch _) (.ite (State.askBlock_noRun (State.chargeCh_noRun h ch _) ch _) (State.park_noRun h ch _ _)))

theorem State.prefetch_noRun (ch : Nat) : NoRunBegins r (s.prefetch ch) := .ite (State.askBlock_noRun (State.chargeCh_noRun h ch _) ch _) h

theorem State.reach_noRun (ch : Nat) : NoRunBegins r (s.reach ch) := by
  unfold State.reach
  extract_lets c cont
  refine .ite (State.endProgram_noRun h ch _ _ _) (.ite (State.failAt_noRun h ch _ _) ?_)
  split
  · split
    · exact .ite (State.failAt_noRun h ch _ _) (State.fetchBlock_noRun h ch)
    · exact State.fetchBlock_noRun h ch
  · split
    · exact State.endProgram_noRun h ch _ _ _
    · exact .ite (State.fail_noRun h ch _) (.ite (State.endProgram_noRun h ch _ _ _) (h.same (by rfl)))

theorem State.goTo_noRun (ch : Nat) (a : Word64) : NoRunBegins r (s.goTo ch a) := State.reach_noRun (State.goChan_noRun h ch _) ch

theorem State.goOn_noRun (ch : Nat) : NoRunBegins r (s.goOn ch) := by
  unfold State.goOn
  extract_lets c
  split
  · exact h
  · extract_lets pi s1 s2
    have h1 : NoRunBegins r s1 := .ite (State.interim_noRun h ch _ _ _ _) h
    clear_value s1
    have h2 : NoRunBegins r s2 := h1.same (by rfl)
    exact .ite (State.goTo_noRun (h.same (by rfl)) ch _) (.ite (h.same (by rfl)) (.ite (State.goTo_noRun h2 ch _) (State.endProgram_noRun h2 ch _ _ _)))

/-- A CCW that starts goes on from its own state, and one that does not ends or parks the program as it stood before (R215). -/
theorem State.startCcw_noRun {s0 : State} (h0 : NoRunBegins r s0) (ch : Nat) (k : Cost) {go : State → State} (hgo : ∀ t, NoRunBegins r t → NoRunBegins r (go t)) :
    NoRunBegins r (s.startCcw s0 ch k go) :=
  .ite (State.failNow_noRun h0 ch _ _)
    (.ite (hgo _ (State.prefetch_noRun ((State.chargeCh_noRun h ch _).same (by rfl)) ch)) (State.park_noRun h0 ch _ _))

theorem State.skipOut_noRun (ch : Nat) (more : Bool) : NoRunBegins r (s.skipOut ch more) := by
  unfold State.skipOut
  extract_lets x s1
  have h1 : NoRunBegins r s1 := h.same (by rfl)
  clear_value s1
  split
  · exact h1
  · exact .ite (State.goOn_noRun h1 ch) (State.goOn_noRun (h1.same (by rfl)) ch)

theorem State.withMark_noRun (ch : Nat) : NoRunBegins r (s.withMark ch) :=
  .ite (.ite (State.park_noRun h ch _ _) (State.giveSlot_noRun h ch)) h

theorem State.askPiece_noRun (ch : Nat) (pc : Word64 × Nat) : NoRunBegins r (s.askPiece ch pc) := State.askRead_noRun (h.same (by rfl)) _ _

theorem State.toWire_noRun (ch : Nat) : NoRunBegins r (s.toWire ch) := by
  unfold State.toWire
  extract_lets c p
  have h1 : NoRunBegins r ((portDom p).elim s fun d => s.wakeDomain d 2) := by
    cases portDom p with
    | none => exact h
    | some d => exact State.wakeDomain_noRun h d 2
  exact (State.wakeData_noRun h1 _).same (by rfl)

theorem State.unitStarts_noRun (ch : Nat) : NoRunBegins r (s.unitStarts ch) := by
  unfold State.unitStarts
  extract_lets x
  split
  · exact State.toWire_noRun h ch
  · extract_lets s1
    have h1 : NoRunBegins r s1 := h.same (by rfl)
    clear_value s1
    refine .ite (State.askPiece_noRun h1 ch _) ?_
    split
    · exact State.failAt_noRun h1 ch _ _
    · exact State.toWire_noRun (h1.same (by rfl)) ch

theorem State.startReal_noRun (ch : Nat) : NoRunBegins r (s.startReal ch) := by
  unfold State.startReal
  extract_lets c p s1 k noBus
  refine .ite h ?_
  split
  · exact State.failAt_noRun h ch _ _
  · have h1 : NoRunBegins r s1 := State.withMark_noRun h ch
    clear_value s1
    refine .ite h1 (.ite (h1.same (by rfl)) (.ite h1 (.ite (State.failAt_noRun h1 ch _ _) (.ite (State.unitStarts_noRun (State.chargeCh_noRun h1 ch _) ch) ?_))))
    exact .ite (State.park_noRun (s := s1.portion ch) (h1.same (by rfl)) ch _ _) (State.park_noRun h1 ch _ _)

theorem State.startUnit_noRun (ch : Nat) : NoRunBegins r (s.startUnit ch) := .ite h (State.startReal_noRun h ch)

theorem State.doneOnce_noRun (ch residual : Nat) : NoRunBegins r (s.doneOnce ch residual) := .ite h ((State.doneEffect_noRun h ch residual).same (by rfl))

theorem State.endData_noRun (ch bits : Nat) : NoRunBegins r (s.endData ch bits) := by
  unfold State.endData
  extract_lets c all s1
  have h1 : NoRunBegins r s1 := h.same (by rfl)
  clear_value s1
  split
  · exact State.failAt_noRun (State.doneOnce_noRun h1 ch _) ch _ _
  · exact .ite (State.goOn_noRun h1 ch) (State.goOn_noRun ((State.doneOnce_noRun h1 ch _).same (by rfl)) ch)

theorem State.endSignal_noRun (ch bits : Nat) (code : BitVec 16) (detail : Nat) : NoRunBegins r (s.endSignal ch bits code detail) := by
  unfold State.endSignal
  extract_lets c s1
  have h1 : NoRunBegins r s1 := h.same (by rfl)
  exact .ite (State.endProgram_noRun h1 ch _ _ _) (State.goOn_noRun h1 ch)

theorem State.sendLocal_noRun (ch : Nat) : NoRunBegins r (s.sendLocal ch) := by
  unfold State.sendLocal
  extract_lets c mb m
  split
  · exact State.waitGrant_noRun (h.same (by rfl)) ch _
  · rename_i k s1 hg
    have h1 := State.grantProducer_noRun h hg
    exact .ite (State.endSignal_noRun (s := (s1.freeOne k).mbxRefused mb) ((State.freeOne_noRun h1 k).same (by rfl)) ch _ _ _)
      (State.endSignal_noRun (State.mbxAccept_noRun (h1.same (by rfl)) mb k _) ch _ _ _)

theorem State.sendFrame_noRun (ch : Nat) (seq : Word32) : NoRunBegins r (s.sendFrame ch seq) := by
  unfold State.sendFrame
  extract_lets s1 kmd s2
  have h1 : NoRunBegins r s1 := State.kmdSend_noRun h _
  have h2 : NoRunBegins r s2 := h1.same (by rfl)
  exact .ite (.ite (State.endSignal_noRun (State.doneOnce_noRun h2 ch 0) ch _ _ _) h2) h

theorem State.sendRemote_noRun (ch : Nat) : NoRunBegins r (s.sendRemote ch) := by
  unfold State.sendRemote
  extract_lets s1 c1 seq p
  have h1 : NoRunBegins r s1 := State.withMark_noRun (h.same (by rfl)) ch
  exact .ite h1 (.ite (h1.same (by rfl)) (State.sendFrame_noRun (h1.same (by rfl)) ch seq))

theorem State.sendMessage_noRun (ch : Nat) : NoRunBegins r (s.sendMessage ch) := .ite (State.sendRemote_noRun h ch) (State.sendLocal_noRun h ch)

theorem State.outReady_noRun (ch : Nat) : NoRunBegins r (s.outReady ch) := by
  unfold State.outReady
  extract_lets c p n off
  refine .ite (State.sendMessage_noRun h ch) (.ite (.ite (State.failAt_noRun h ch _ _) ?_) ?_)
  · exact State.endData_noRun ((State.touchCell_noRun h _).same (by rfl)) ch 0
  · split
    · exact State.failNow_noRun h ch _ _
    · exact .ite (State.goOn_noRun h ch) (State.startUnit_noRun (h.same (by rfl)) ch)

theorem State.takeDie_noRun {ch n : Nat} {t : State} (e : s.takeDie ch n = .ok t) : NoRunBegins r t := by
  induction n generalizing s with
  | zero => exact Except.ok.inj e ▸ h
  | succ n ih =>
    unfold State.takeDie at e
    split at e
    · exact Except.ok.inj e ▸ h
    · split at e
      · exact ih (h.same (by rfl)) e
      · split at e
        · exact Except.ok.inj e ▸ h
        · split at e
          · cases e
          · exact ih (h.same (by rfl)) e

theorem State.pull_noRun (ch : Nat) : NoRunBegins r (s.pull ch) := by
  unfold State.pull
  split
  · exact State.failAt_noRun h ch _ _
  · rename_i s1 hd
    have h1 := State.takeDie_noRun h hd
    extract_lets x
    split
    · exact State.outReady_noRun h1 ch
    · exact .ite (State.outReady_noRun h1 ch) (State.askPiece_noRun h1 ch _)

theorem State.beginOutput_noRun {s0 : State} (h0 : NoRunBegins r s0) (ch : Nat) : NoRunBegins r (s.beginOutput s0 ch) := by
  unfold State.beginOutput
  extract_lets c x more opens
  refine .ite (State.startCcw_noRun h h0 ch _ fun t ht => State.skipOut_noRun ht ch more) ?_
  split
  · exact State.startCcw_noRun h h0 ch _ fun t ht => State.skipOut_noRun (State.beginSkip_noRun ht ch _) ch more
  · split
    · exact State.failNow_noRun h ch _ _
    · rename_i s1 hd
      have h1 := State.takeDie_noRun h hd
      refine .ite (State.startCcw_noRun h1 h0 ch _ fun t ht => State.pull_noRun ht ch) ?_
      split
      · exact State.failNow_noRun h1 ch _ _
      · exact State.park_noRun h0 ch _ _
      · exact State.park_noRun h0 ch _ _
      · refine State.startCcw_noRun h1 h0 ch _ fun t ht => ?_
        have hopen : NoRunBegins r (if opens then t.openEffect ch x.first x.rs else t) := .ite (State.openEffect_noRun ht ch _ _) ht
        exact State.pull_noRun (hopen.same (by rfl)) ch

end Words

end Sys2Proof.Machine
end

section
/-! PROOFS. Inputs, deliveries and programs that waited for host traffic begin no routine (R86, R145 to R154, R300, R351). -/

namespace Sys2Proof.Machine
open Sys2Proof

/-- The state with which a store ends flows from another (R145). -/
def Stored.NoRunBegins (r : State) : Stored → Prop
  | .ok t => Machine.NoRunBegins r t
  | .wait t _ => Machine.NoRunBegins r t
  | .bad _ => True

section Inputs

variable {r s : State} (h : NoRunBegins r s)

include h

theorem State.chainWrite_noRun {k off n : Nat} {l : List Byte} {t : State} (e : s.chainWrite k off l n = .ok t) : NoRunBegins r t := by
  induction n generalizing s k off l with
  | zero =>
    unfold State.chainWrite at e
    split at e
    · exact Except.ok.inj e ▸ h
    · cases e
  | succ n ih =>
    unfold State.chainWrite at e
    split at e
    · exact Except.ok.inj e ▸ h
    · split at e
      · cases e
      · exact ih (State.hawkStore_noRun h _ _) e

theorem State.storeIn_noRun (ch : Nat) (l : List Byte) (n : Nat) : (s.storeIn ch l n).NoRunBegins r := by
  induction n generalizing s l with
  | zero => exact h
  | succ n ih =>
    unfold State.storeIn
    split
    · exact h
    · dsimp only
      split
      · exact h
      · split
        · exact ih (h.same (by rfl)) _
        · split
          · exact ih (h.same (by rfl)) _
          · split
            · split
              · exact h
              · exact ih ((State.writeHost_noRun h _ _ _ _ _ _).same (by rfl)) _
            · split
              · exact trivial
              · exact ih (h.same (by rfl)) _
            · split
              · have h0 : NoRunBegins r (if (s.chan ch).xfer.newDone then s
                    else (s.freeChChain ch).updChan ch fun c => { c with xfer := { c.xfer with newDone := true } }) :=
                  .ite h ((State.freeChChain_noRun h ch).same (by rfl))
                split
                · exact trivial
                · split
                  · exact h0
                  · rename_i ha
                    exact ih ((State.chainAppend_noRun h0 ha).same (by rfl)) _
              · split
                · exact trivial
                · split
                  · exact trivial
                  · rename_i hw
                    exact ih ((State.chainWrite_noRun h hw).same (by rfl)) _

/-- The READs of a port are kept going (R351). -/
theorem State.pace_noRun (p : Nat) : NoRunBegins r (s.pace p) := by
  unfold State.pace
  split
  · exact h
  · extract_lets s1
    have h1 : NoRunBegins r s1 := State.startUnit_noRun (h.same (by rfl)) _
    clear_value s1
    exact .ite (h1.same (by rfl)) h

theorem State.joinReaders_noRun (ch : Nat) : NoRunBegins r (s.joinReaders ch) := by
  have h1 : NoRunBegins r ((s.updPort (s.chan ch).port fun q =>
      if q.readers.contains ch then q else { q with readers := q.readers ++ [ch] }).updXfer ch fun x => { x with phase := .input }) := h.same (by rfl)
  exact State.pace_noRun h1 _

theorem State.startInput_noRun (ch : Nat) : NoRunBegins r (s.startInput ch) := .ite (State.joinReaders_noRun h ch) (State.startUnit_noRun (h.same (by rfl)) ch)

theorem State.deliver_noRun (ch : Nat) (l : List Byte) : NoRunBegins r (s.deliver ch l) := by
  unfold State.deliver
  extract_lets c buf now rest
  have hs := State.storeIn_noRun h ch now (now.length + c.xfer.pieces.length + 1)
  split
  next => exact State.failAt_noRun h ch _ _
  next s1 l1 e =>
    have h1 : NoRunBegins r s1 := by
      rw [e] at hs
      exact hs
    extract_lets s2
    have h2 : NoRunBegins r s2 := h1.same (by rfl)
    exact .ite (h2.same (by rfl)) (State.waitGrant_noRun h2 ch _)
  next s1 e =>
    have h1 : NoRunBegins r s1 := by
      rw [e] at hs
      exact hs
    extract_lets s2 x
    have h2 : NoRunBegins r s2 := h1.same (by rfl)
    exact .ite (State.endData_noRun h2 ch _) (State.startInput_noRun h2 ch)

theorem State.beginInput_noRun {s0 : State} (h0 : NoRunBegins r s0) (ch : Nat) : NoRunBegins r (s.beginInput s0 ch) := by
  have start : ∀ k {go : State → State}, (∀ t, NoRunBegins r t → NoRunBegins r (go t)) → NoRunBegins r (s.startCcw s0 ch k go) := fun k _ hgo =>
    State.startCcw_noRun h h0 ch k hgo
  unfold State.beginInput
  extract_lets c p l
  refine .ite (.ite (State.failNow_noRun h ch _ _) (start _ fun t ht => State.deliver_noRun (ht.same (by rfl)) ch l)) ?_
  refine .ite (start _ fun t ht => State.endData_noRun ht ch 0) (.ite (start _ fun t ht => State.deliver_noRun ht ch []) ?_)
  refine .ite (State.failNow_noRun h ch _ _) (.ite (start _ fun t ht => State.goOn_noRun ht ch) ?_)
  exact .ite (start _ fun t ht => State.startInput_noRun ht ch) (start _ fun t ht => State.startInput_noRun (ht.same (by rfl)) ch)

theorem State.havePieces_noRun {s0 : State} (h0 : NoRunBegins r s0) (ch : Nat) (sk : Bool) (ps : List (Word64 × Nat)) : NoRunBegins r (s.havePieces s0 ch sk ps) := by
  unfold State.havePieces
  extract_lets c input s1
  have h1 : NoRunBegins r s1 := h.same (by rfl)
  exact .ite (State.failNow_noRun h ch _ _) (.ite (State.beginInput_noRun h1 h0 ch) (State.beginOutput_noRun h1 h0 ch))

theorem State.listStep_noRun (ch : Nat) : NoRunBegins r (s.listStep ch) := by
  unfold State.listStep
  extract_lets c
  split
  · exact h
  · refine .ite ?_ (.ite (State.failNow_noRun h ch _ _) (.ite (State.askRead_noRun (State.chargeCh_noRun (h.same (by rfl)) ch _) _ _) (State.park_noRun (h.same (by rfl)) ch _ _)))
    split
    · exact State.failNow_noRun h ch _ _
    · exact State.havePieces_noRun (h.same (by rfl)) (h.same (by rfl)) ch _ _

end Inputs

section Serving

variable {r s : State} (h : NoRunBegins r s)

include h

theorem State.freeUnit_noRun (u : RxUnit) : NoRunBegins r (s.freeUnit u) := State.freeCells_noRun h _

theorem State.deliverPort_noRun (p n : Nat) : NoRunBegins r (s.deliverPort p n) := by
  induction n generalizing s with
  | zero => exact h
  | succ n ih =>
    unfold State.deliverPort
    split
    · exact h
    next ch u rest _ =>
      extract_lets c paid t k lost s1 noBus
      have h1 : NoRunBegins r s1 := State.freeUnit_noRun ((State.chargeCh_noRun h ch k).same (by rfl)) u
      clear_value s1
      refine .ite (State.failAt_noRun h ch _ _) (.ite (ih (.ite (State.failAt_noRun h1 ch _ _) (State.deliver_noRun (h1.same (by rfl)) ch _))) ?_)
      exact .ite (State.park_noRun (s := s.portion ch) (h.same (by rfl)) ch _ _) (State.park_noRun h ch _ _)

theorem State.pumpPort_noRun (p : Nat) : NoRunBegins r (s.pumpPort p) := .ite h (State.pace_noRun (State.deliverPort_noRun h p _) p)

theorem State.resumeCh_noRun (ch : Nat) : NoRunBegins r (s.resumeCh ch) := by
  unfold State.resumeCh
  extract_lets c
  refine .ite h ?_
  split
  · exact .ite h (State.reach_noRun h ch)
  · exact State.listStep_noRun h ch
  · exact .ite (State.sendRemote_noRun h ch) (State.startUnit_noRun h ch)
  · exact State.pumpPort_noRun h _
  · exact h

theorem State.release_noRun (ch : Nat) : NoRunBegins r (s.release ch) := .ite (State.resumeCh_noRun (State.unpark_noRun h ch) ch) h

theorem State.tryGrant_noRun (ch : Nat) : NoRunBegins r (s.tryGrant ch) := by
  unfold State.tryGrant
  extract_lets s1 more
  have h1 : NoRunBegins r s1 := .ite (State.sendLocal_noRun h ch) (State.deliver_noRun h ch [])
  exact .ite h1 (.ite (State.waitGrant_noRun (s := s1.unwaitGrant ch) (h1.same (by rfl)) ch _) (h1.same (by rfl)))

theorem State.serveGrants_noRun (tried : List Nat) (n : Nat) : NoRunBegins r (s.serveGrants tried n) := by
  induction n generalizing s tried with
  | zero => exact h
  | succ n ih =>
    unfold State.serveGrants
    split
    · exact h
    · exact ih (State.tryGrant_noRun h _) _

theorem State.served_noRun : NoRunBegins r s.served := .each _ (fun _ ch ht => State.release_noRun ht ch) (State.serveGrants_noRun h [] _)

theorem State.endWait_noRun (ch : Nat) : NoRunBegins r (s.endWait ch) := by
  unfold State.endWait
  extract_lets c s0 s1 s2
  have h0 : NoRunBegins r s0 := State.goChan_noRun h ch _
  clear_value s0
  have h1 : NoRunBegins r s1 := .ite (State.interim_noRun h0 ch _ _ _ _) h0
  clear_value s1
  have h2 : NoRunBegins r s2 := h1.same (by rfl)
  exact .ite (h0.same (by rfl)) (.ite (State.reach_noRun (State.newAnchor_noRun (State.goChan_noRun h2 ch _) ch) ch)
    (State.endProgram_noRun (State.newAnchor_noRun h2 ch) ch _ _ _))

end Serving

end Sys2Proof.Machine
end

section
/-! PROOFS. The register blocks begin no routine: ports, interrupts, cells, mailboxes, freezes, the admin queue and the resets (R17, R228, R269). -/

namespace Sys2Proof.Machine
open Sys2Proof

section Ports

variable {r s : State} (h : NoRunBegins r s)

include h

theorem State.portEvt_noRun (p i : Nat) : NoRunBegins r (s.portEvt p i) :=
  NoRunBegins.emits (s := s.updPort p fun q => { q with evt := q.evt ||| BitVec.ofNat 8 (2 ^ i) }) (h.same (by rfl)) (State.portLine_emits _ p (Emits.refl _))

theorem State.portUp_noRun (p : Nat) : NoRunBegins r (s.portUp p) := .ite (State.portEvt_noRun (h.same (by rfl)) p 5) (h.same (by rfl))

theorem State.endOnPort_noRun (p : Nat) (code : BitVec 16) (ch : Nat) : NoRunBegins r (s.endOnPort p code ch) :=
  State.failAt_noRun (.ite (h.same (by rfl)) h) ch _ _

theorem State.enterFault_noRun (p cause : Nat) : NoRunBegins r (s.enterFault p cause) :=
  .ite h (.each _ (fun _ ch ht => State.endOnPort_noRun ht p _ ch) (State.portEvt_noRun (h.same (by rfl)) p 0))

theorem State.upOrFault_noRun (p : Nat) : NoRunBegins r (s.upOrFault p) := by
  unfold State.upOrFault
  split
  · exact h.same (by rfl)
  · split
    · exact State.portUp_noRun h p
    · exact State.enterFault_noRun (h.same (by rfl)) p _

theorem State.causesGone_noRun (p : Nat) : NoRunBegins r (s.causesGone p) := .ite (State.portEvt_noRun (h.same (by rfl)) p 6) (h.same (by rfl))

theorem State.clrFaultW_noRun (p : Nat) (absent : Bool) : NoRunBegins r (s.clrFaultW p absent) := by
  have h1 : NoRunBegins r (if absent then s.causesGone p else s) := .ite (State.causesGone_noRun h p) h
  unfold State.clrFaultW
  dsimp only
  split
  · exact .ite (h1.same (by rfl)) (.ite (State.upOrFault_noRun h1 p) h)
  · exact State.upOrFault_noRun h1 p
  · exact h

theorem State.lineDiag_noRun (p : Nat) (readings : List Word32) : NoRunBegins r (s.lineDiag p readings) := by
  unfold State.lineDiag
  split
  all_goals exact h.same (by rfl)

theorem State.portCtl_noRun (p : Nat) (v : Word32) (absent : Bool) (readings : List Word32) : NoRunBegins r (s.portCtl p v absent readings) := by
  have h1 : NoRunBegins r (if bitOf v 0 then s.clrFaultW p absent else s) := .ite (State.clrFaultW_noRun h p absent) h
  unfold State.portCtl
  extract_lets s1 s2 s3
  have h2 : NoRunBegins r s2 := .ite (h1.same (by rfl)) h1
  have h3 : NoRunBegins r s3 := .ite (h2.same (by rfl)) h2
  exact .ite (State.lineDiag_noRun h3 p readings) h3

theorem State.portLine_noRun (p : Nat) : NoRunBegins r (s.portLine p) := h.emits (State.portLine_emits s p (Emits.refl s))

theorem State.commonW_noRun (p o : Nat) (v : Word32) : NoRunBegins r (s.commonW p o v) := by
  unfold State.commonW
  split
  · exact State.portCtl_noRun h p v _ _
  · exact State.portLine_noRun (h.same (by rfl)) p
  · exact State.portLine_noRun (h.same (by rfl)) p
  · exact h.same (by rfl)
  · exact State.retarget_noRun (h.same (by rfl))
  · exact h.same (by rfl)
  · exact h

theorem State.winW_noRun (p i : Nat) (w : Word) : NoRunBegins r ((s.winW p i w).getD s) := by
  unfold State.winW
  split
  · exact h
  · dsimp only
    split
    · exact h.same (by rfl)
    · exact h.same (by rfl)
    · exact h.same (by rfl)
    · split
      · exact h.same (by rfl)
      · exact h

theorem State.portW_noRun (m p o : Nat) (v : Word32) : NoRunBegins r (s.portW m p o v) := by
  unfold State.portW
  refine .ite (State.winW_noRun (State.winW_noRun h p _ _) p _ _) (.ite h (.ite (State.accFault_noRun h m) (.ite ?_ (.ite (.ite ?_ h) ?_))))
  · exact State.cfgMirror_noRun (State.commonW_noRun h p o v) _ _ _
  · exact State.cfgMirror_noRun (h.same (by rfl)) _ _ _
  · split
    · exact h
    · exact .ite h (State.cfgMirror_noRun (h.same (by rfl)) _ _ _)

end Ports

section Contexts

variable {r s : State} (h : NoRunBegins r s)

include h

theorem State.mark_noRun (core k : Nat) : NoRunBegins r (s.mark core k) :=
  h.updCtx core k (f := fun c => { c with markTime := s.frm.time, markCycle := s.now core k }) fun _ hc => hc

theorem State.holdCtx_noRun (core k : Nat) : NoRunBegins r (s.holdCtx core k) := by
  unfold State.holdCtx
  extract_lets c
  have hpass := State.passWait_noRun h core k
  refine .ite (.ite (State.mark_noRun ?_ core k) h) (.ite (State.mark_noRun ?_ core k) h)
  · exact hpass.updCtx core k (f := fun x => { x with st := .held, heldFrom := c.st, block := none }) fun _ hc => hc
  · exact hpass.updCtx core k (f := fun x => { x with st := c.heldFrom }) fun _ hc => hc

theorem State.arrange_noRun (core : Nat) : NoRunBegins r (s.arrange core) :=
  .each _ (fun _ k ht => State.wfeWake_noRun (State.holdCtx_noRun ht core k) core k) h

theorem State.arrangeAll_noRun : NoRunBegins r s.arrangeAll := .each _ (fun _ core ht => State.arrange_noRun ht core) h

theorem State.releaseFor_noRun (p : ParkWhy → Bool) : NoRunBegins r (s.releaseFor p) := .each _ (fun _ ch ht => State.release_noRun ht ch) h

theorem State.refreeze_noRun : NoRunBegins r s.refreeze :=
  State.releaseFor_noRun (((State.arrangeAll_noRun h).emits (State.reofferAll_emits _ (Emits.refl _))).emits (State.routeAll_emits _ (Emits.refl _))) _

theorem State.freezeW_noRun (m : Nat) (v : Word64) : NoRunBegins r (s.freezeW m v) :=
  .ite (State.accFault_noRun h m) (State.served_noRun (State.refreeze_noRun (h.same (by rfl))))

theorem State.freezeCrnW_noRun (m : Nat) (v : Word32) : NoRunBegins r (s.freezeCrnW m v) :=
  .ite (State.accFault_noRun h m) (State.served_noRun (State.refreeze_noRun (h.same (by rfl))))

theorem State.freeHeld_noRun (m ctx : Nat) : NoRunBegins r (s.freeHeld m ctx) := .each _ (fun _ k ht => State.freeOne_noRun ht k) h

theorem State.freeHeldAll_noRun (m : Nat) : NoRunBegins r (s.freeHeldAll m) := .each _ (fun _ k ht => State.freeOne_noRun ht k) h

theorem State.leaveCtx_noRun (core k : Nat) (st : CtxSt) : NoRunBegins r (s.leaveCtx core k st) :=
  (State.freeHeld_noRun h _ k).updCtx core k fun _ _ => rfl

theorem State.failRun_noRun (core k : Nat) (code : BitVec 16) (st : CtxSt) : NoRunBegins r (s.failRun core k code st) := by
  have hleft := State.leaveCtx_noRun h core k st
  unfold State.failRun
  split
  · exact hleft
  · exact State.endProgram_noRun (hleft.same (by rfl)) _ _ _ _

end Contexts

/-- After a reset of the die no context runs a routine (R421). -/
theorem State.enterReset_idle (s : State) (due core k : Nat) : ((s.enterReset due).ctx core k).run = none := by
  have hcores : (s.enterReset due).cores = [] := rfl
  unfold State.ctx State.core
  rw [hcores]
  rfl

section Resets

variable {r s : State} (h : NoRunBegins r s)

include h

theorem State.resetCore_noRun (core : Nat) : NoRunBegins r (s.resetCore core) := by
  have hended : NoRunBegins r (s.each (List.range (ctxCount core)) fun s k => if (s.ctx core k).run.isSome then s.failRun core k stUnitFault .free else s) :=
    .each _ (fun _ k ht => .ite (State.failRun_noRun ht core k _ _) ht) h
  exact State.arrange_noRun ((State.freeHeldAll_noRun hended _).setCore core fun _ _ => rfl) core

theorem State.resetPort_noRun (p : Nat) : NoRunBegins r (s.resetPort p) :=
  (NoRunBegins.each (s.portChans p) (fun _ ch ht => State.endOnPort_noRun ht p _ ch) h).same (by rfl)

theorem State.loadLib_noRun (core : Nat) : NoRunBegins r (s.loadLib core) := by
  unfold State.loadLib
  extract_lets l crn s1
  have h1 : NoRunBegins r s1 := .each _ (fun _ x ht => ht.same (by rfl)) (h.same (by rfl))
  clear_value s1
  split
  · exact h1.same (State.store_cores _ _ _)
  · exact h1.same (by rfl)

theorem State.loadSuper_noRun (core : Nat) : NoRunBegins r (s.loadSuper core) := by
  unfold State.loadSuper
  split
  · exact h
  · split
    · exact h
    · exact h.same (by rfl)

theorem State.wakeDone_noRun (d : Nat) : NoRunBegins r (s.wakeDone d) := by
  unfold State.wakeDone
  extract_lets x s1
  have h1 : NoRunBegins r s1 := .ite ((State.loadSuper_noRun (State.loadLib_noRun h d) d).same (by rfl)) h
  refine .ite (State.served_noRun ?_) h
  exact (NoRunBegins.each x.cells (fun _ k ht => State.freeOne_noRun ht k) h1).same (by rfl)

theorem State.resetGroup_noRun (g : Nat) : NoRunBegins r (s.resetGroup g) := by
  have h1 := State.wakeDone_noRun (State.wakeDomain_noRun h g 6) g
  refine .ite (State.resetCore_noRun h1 g) (.ite (.each _ (fun _ p ht => State.resetPort_noRun ht p) h1) (.ite (h1.same (by rfl)) (.ite (h1.same ?_) h1)))
  exact State.setLink_cores _ _ _

theorem State.groupReset_noRun (m g : Nat) : NoRunBegins r (s.groupReset m g) :=
  .ite (State.accFault_noRun h m) (.ite (State.served_noRun (State.resetGroup_noRun h g)) h)

theorem State.prmCtl_noRun (m : Nat) (retry fallback restart : Bool) : NoRunBegins r (s.prmCtl m retry fallback restart) := by
  have hreset : ∀ t : State, NoRunBegins r (t.flushJournal.enterReset 1) := fun t core k _ => t.flushJournal.enterReset_idle 1 core k
  exact .ite (State.accFault_noRun h m) (.ite (hreset _) (h.same (by rfl)))

theorem State.prmSwap_noRun (v : Word64) : NoRunBegins r (s.prmSwap v) := by
  unfold State.prmSwap
  refine .ite (h.same (by rfl)) (.ite (h.same (by rfl)) (.ite (h.same (by rfl)) (.ite (h.same (by rfl)) ?_)))
  have hwritten : NoRunBegins r { s with prm := { s.prm with swapOld := bitsOf v 0 12, swapNew := bitsOf v 12 12, swapCrn := bitOf v 24,
                                                             swapTiles := BitVec.ofNat 8 (bitsOf v 32 8) } } := h.same (by rfl)
  exact (State.mirror_noRun hwritten _ _ _).same (by rfl)

theorem State.pwrW_noRun (m o : Nat) (v : Word32) : NoRunBegins r (s.pwrW m o v) :=
  .ite (.ite (State.groupReset_noRun h m _) (.ite h (State.accFault_noRun h m)))
    (.ite (State.accFault_noRun h m) (.ite (State.retarget_noRun (h.same (by rfl))) (.ite (h.same (by rfl)) (.ite (State.retarget_noRun (h.same (by rfl))) h))))

end Resets

end Sys2Proof.Machine
end

section
/-! PROOFS. A write of the register blocks begins no routine (R17, R41, R44, R228, R269). -/

namespace Sys2Proof.Machine
open Sys2Proof

section Blocks

variable {r s : State} (h : NoRunBegins r s)

include h

/-! ### Channels -/

theorem State.setEvents_noRun (ch : Nat) (bits : BitVec 16) : NoRunBegins r (s.setEvents ch bits) := by
  have h1 := State.goChan_noRun h ch fun c => { c with pend := c.pend ||| bits }
  exact .ite (State.endWait_noRun (h1.same (by rfl)) ch) h1

theorem State.chEvtPend_noRun (m ch : Nat) (bits : BitVec 16) : NoRunBegins r (s.chEvtPend m ch bits) :=
  .ite (State.served_noRun (State.cfgMirror_noRun (State.setEvents_noRun h ch bits) _ _ _)) (State.accFault_noRun h m)

theorem State.chW_noRun (m ch o : Nat) (v : Word32) : NoRunBegins r (s.chW m ch o v) := by
  unfold State.chW
  split
  · exact .ite (State.cfgMirror_noRun (State.goChan_noRun h ch _) _ _ _) (State.accFault_noRun h m)
  · exact State.chEvtPend_noRun h m ch _
  · exact State.accFault_noRun h m

/-! ### Queues and the admin queue -/

theorem State.qcfgCfgW_noRun (m q : Nat) (v : Word32) : NoRunBegins r (s.qcfgCfgW m q v) := by
  unfold State.qcfgCfgW
  extract_lets x x1 s1
  have h1 : NoRunBegins r s1 := State.cfgMirror_noRun (h.same (by rfl)) _ _ _
  exact .ite (State.cfgMirror_noRun (h.same (by rfl)) _ _ _) (.ite h1 (State.accFault_noRun h1 m))

theorem State.qcfgW_noRun (m q o : Nat) (v : Word32) : NoRunBegins r (s.qcfgW m q o v) := by
  unfold State.qcfgW
  split
  · exact State.qcfgCfgW_noRun h m q v
  · exact State.cfgMirror_noRun (h.same (by rfl)) _ _ _
  · exact .ite (State.cfgMirror_noRun (h.same (by rfl)) _ _ _) (State.accFault_noRun h m)
  · exact h.reports (State.qctlW_reports s m q _ _ _ _ (Reports.refl s))
  · exact h

theorem State.qcfgWide_noRun (m q o : Nat) (v : Word64) : NoRunBegins r (s.qcfgWide m q o v) :=
  .ite (State.accFault_noRun h m) (State.cfgMirror_noRun (h.same (by rfl)) _ _ _)

theorem State.aqJournal_noRun (m : Nat) (v : Word32) : NoRunBegins r (s.aqJournal m v) := h.emits (State.aqJournal_emits s m v (Emits.refl s))

theorem State.aqProd_noRun (m : Nat) (v : Word32) : NoRunBegins r (s.aqProd m v) :=
  .ite (State.accFault_noRun h m) (.ite (State.aqKick_noRun (h.same (by rfl))) (State.aqJournal_noRun (h.same (by rfl)) m v))

theorem State.aqRcons_noRun (m : Nat) (v : Word32) : NoRunBegins r (s.aqRcons m v) :=
  .ite (State.accFault_noRun h m) (.ite (State.aqKick_noRun (h.same (by rfl))) (State.aqJournal_noRun (h.same (by rfl)) m v))

theorem State.aqCtl_noRun (m : Nat) (en dis rst : Bool) : NoRunBegins r (s.aqCtl m en dis rst) := by
  unfold State.aqCtl
  extract_lets a
  refine .ite (State.accFault_noRun h m) (.ite h ?_)
  split
  · exact .ite h (.ite (h.same (by rfl)) (h.same (by rfl)))
  · exact .ite (h.same (by rfl)) h
  · exact .ite (h.same (by rfl)) (.ite (State.aqKick_noRun (h.same (by rfl))) h)
  · exact h

theorem State.aqW_noRun (m o : Nat) (v : Word32) : NoRunBegins r (s.aqW m o v) := by
  unfold State.aqW
  refine .ite (State.accFault_noRun h m) ?_
  split
  · exact .ite (h.same (by rfl)) h
  · exact State.aqCtl_noRun h m _ _ _
  · exact State.aqProd_noRun h m v
  · exact State.aqRcons_noRun h m v
  · exact h

/-! ### Interrupts -/

theorem State.icScfg_noRun (m n : Nat) (v : Word32) : NoRunBegins r (s.icScfg m n v) := by
  have h0 : NoRunBegins r (s.setSrc n ((s.src n).config n v)) := h.same (by rfl)
  have h1 : NoRunBegins r ((s.setSrc n ((s.src n).config n v)).noEdgeService n) := .ite (h0.same (by rfl)) h0
  have h2 := State.cfgMirror_noRun (h1.emits (State.reconfigured_emits _ n (s.src n) (Emits.refl _))) (icBase + n * 16) 4 v.toNat
  exact .ite (State.accFault_noRun h m) (.ite h (.ite (State.retarget_noRun h2) h2))

theorem State.icTake_noRun (m t : Nat) (n : BitVec 11) : NoRunBegins r (s.icTake m t n) := by
  have h1 : NoRunBegins r ((s.takeSrc n.toNat).updSrc n.toNat fun x => { x with loc := 0x7F }) :=
    (h.emits (State.takeSrc_emits s n.toNat (Emits.refl s))).same (by rfl)
  have h2 : NoRunBegins r (((s.takeSrc n.toNat).updSrc n.toNat fun x => { x with loc := 0x7F }).inService n.toNat t) := by
    unfold State.inService
    extract_lets x s1
    have hs : NoRunBegins r s1 := .ite (h1.same (by rfl)) h1
    exact .ite (NoRunBegins.emits (s := s1.setSrc n.toNat { x with loc := BitVec.ofNat 7 t }) (hs.same (by rfl)) (State.reofferMember_emits _ _ (Emits.refl _))) hs
  exact .ite (State.accFault_noRun h m) (.ite (h2.same (by rfl)) (h.same (by rfl)))

theorem State.icDone_noRun (m t : Nat) (n : BitVec 11) : NoRunBegins r (s.icDone m t n) := by
  have h1 : NoRunBegins r (s.endService t n.toNat) :=
    NoRunBegins.emits (s := (s.updTarget t fun g => { g with service := g.service.filter fun e => e.1 ≠ n.toNat }).updSrc n.toNat
      fun x => { x with act := false, loc := 0x7F }) (h.same (by rfl)) (State.levelEval_emits _ _ (Emits.refl _))
  exact .ite (State.accFault_noRun h m) (.ite (h1.emits (State.routeAll_emits _ (Emits.refl _))) (h.same (by rfl)))

theorem State.icW_noRun (m o : Nat) (v : Word32) : NoRunBegins r (s.icW m o v) := by
  unfold State.icW
  refine .ite (.ite (State.icScfg_noRun h m _ v) (.ite h (State.accFault_noRun h m))) (.ite ?_ (.ite ?_ (.ite ?_ (.ite ?_ h))))
  · exact .ite (State.cfgMirror_noRun (h.same (by rfl)) _ _ _) (State.accFault_noRun h m)
  · split
    · exact State.icTake_noRun h m _ _
    · exact State.icDone_noRun h m _ _
    · exact h
  · exact h.emits (State.icSwset_emits s m _ (Emits.refl s))
  · exact h.emits (State.icFlush_emits s m v (Emits.refl s))

/-! ### Hawk, mailboxes, semaphores and Scrim -/

theorem State.hwkFree_noRun (m : Nat) (v : Word32) : NoRunBegins r (s.hwkFree m v) := by
  unfold State.hwkFree
  refine .ite (State.accFault_noRun h m) ?_
  split
  · exact State.served_noRun (.each _ (fun _ k ht => State.freeOne_noRun ht k) h)
  · exact State.accFault_noRun (h.same (by rfl)) m

theorem State.hwkCls_noRun (m a : Nat) (v : Word32) : NoRunBegins r (s.hwkCls m a v) :=
  .ite (State.accFault_noRun h m) (State.served_noRun (State.cfgMirror_noRun (h.same (by rfl)) _ _ _))

theorem State.hwkW_noRun (m o : Nat) (v : Word32) : NoRunBegins r (s.hwkW m o v) :=
  .ite (State.hwkFree_noRun h m v) (.ite (State.hwkCls_noRun h m _ v) (.ite (State.hwkCls_noRun h m _ v) h))

theorem State.sendResult_noRun (m ctx : Nat) (v : BitVec 2) : NoRunBegins r (s.sendResult m ctx v) := by
  unfold State.sendResult
  split
  · exact h.updCtx _ ctx (f := fun c => { c with sres := v }) fun _ hc => hc
  · exact h.same (by rfl)

theorem State.mbxSend_noRun (m ctx mb : Nat) (v : Word32) : NoRunBegins r (s.mbxSend m ctx mb v) :=
  .ite (State.accFault_noRun h m) (.ite (State.sendResult_noRun h m ctx 3)
    (.ite (State.sendResult_noRun (s := s.mbxRefused mb) (h.same (by rfl)) m ctx 2) (State.sendResult_noRun (State.mbxAccept_noRun h mb _ _) m ctx 1)))

theorem State.mbxDrop_noRun (mb : Nat) : NoRunBegins r (s.mbxDrop mb) :=
  State.served_noRun (State.mbxLine_noRun (.each _ (fun _ g ht => State.freeOne_noRun ht g.cell) (h.same (by rfl))) mb)

theorem State.mbxCfg_noRun (m mb : Nat) (v : Word32) : NoRunBegins r (s.mbxCfg m mb v) := by
  unfold State.mbxCfg
  extract_lets x same s1 s2
  have h1 : NoRunBegins r s1 := .ite (.ite h (State.accFault_noRun h m)) (h.same (by rfl))
  have h2 : NoRunBegins r s2 := State.cfgMirror_noRun (h1.same (by rfl)) _ _ _
  exact .ite (State.accFault_noRun h m) (.ite h2 (State.mbxDrop_noRun h2 mb))

theorem State.mbxW_noRun (m ctx mb o : Nat) (v : Word32) : NoRunBegins r (s.mbxW m ctx mb o v) := by
  unfold State.mbxW
  split
  · exact State.mbxCfg_noRun h m mb v
  · exact State.mbxSend_noRun h m ctx mb v
  · exact State.cfgMirror_noRun (h.same (by rfl)) _ _ _
  · exact h

theorem State.semBad_noRun (m n : Nat) : NoRunBegins r (s.semBad m n) := State.accFault_noRun (h.same (by rfl)) m

theorem State.semRelease_noRun (m n : Nat) (v : Word32) : NoRunBegins r (s.semRelease m n v) :=
  .ite (State.accFault_noRun h m) (.ite (h.same (by rfl)) (State.semBad_noRun h m n))

theorem State.semForce_noRun (m n : Nat) : NoRunBegins r (s.semForce m n) := .ite (State.accFault_noRun h m) (.ite (h.same (by rfl)) h)

theorem State.scrCtl_noRun (m arb : Nat) (v : Word32) : NoRunBegins r (s.scrCtl m arb v) := .ite (State.accFault_noRun h m) (h.same (by rfl))

/-! ### Frames, pairs and budgets -/

theorem State.frmW_noRun (m o : Nat) (v : Word32) : NoRunBegins r (s.frmW m o v) := by
  unfold State.frmW
  refine .ite (State.accFault_noRun h m) ?_
  split
  · exact h.same (by rfl)
  · exact NoRunBegins.emits (s := { s with frm := s.frm.config v }) (h.same (by rfl)) (State.lockedGone_emits s _ (Emits.refl _))
  · exact .ite h (h.same (by rfl))
  · exact .ite h (h.same (by rfl))
  · exact h

theorem State.prmW_noRun (m o : Nat) (v : Word32) : NoRunBegins r (s.prmW m o v) :=
  .ite (State.accFault_noRun h m) (.ite (State.prmCtl_noRun h m _ _ _) h)

theorem State.kmdW_noRun (m o : Nat) (v : Word32) : NoRunBegins r (s.kmdW m o v) :=
  .ite (State.accFault_noRun h m) (.ite (State.cfgMirror_noRun (h.same (by rfl)) _ _ _)
    (.ite (State.cfgMirror_noRun (h.same (by rfl)) _ _ _) (.ite (State.cfgMirror_noRun (h.same (by rfl)) _ _ _) h)))

theorem State.fltW_noRun (m c o : Nat) (v : Word32) : NoRunBegins r (s.fltW m c o v) :=
  .ite h (.ite (State.accFault_noRun h m) (State.cfgMirror_noRun (h.same (by rfl)) _ _ _))

/-! ### Every register -/

theorem State.writeReg_noRun (m ctx off : Nat) (v : Word32) : NoRunBegins r (s.writeReg m ctx off v) := by
  unfold State.writeReg
  refine .ite (.ite (State.freezeCrnW_noRun h m v) h) (.ite (State.aqW_noRun h m _ v) (.ite (State.frmW_noRun h m _ v)
    (.ite (State.pwrW_noRun h m _ v) (.ite (State.prmW_noRun h m _ v) (.ite (.ite (State.scrCtl_noRun h m _ v) h) (.ite h
      (.ite (State.kmdW_noRun h m _ v) (.ite ?_ (.ite (State.qcfgW_noRun h m _ _ v) (.ite (State.chW_noRun h m _ _ v)
        (.ite (State.fltW_noRun h m _ _ v) (.ite (State.icW_noRun h m _ v) (.ite (State.mbxW_noRun h m ctx _ _ v)
          (.ite ?_ (.ite (State.hwkW_noRun h m _ v) ?_)))))))))))))))
  · exact .ite (h.reports (State.dbCountW_reports s m _ v (Reports.refl s))) (h.reports (State.dbFetchW_reports s m _ v (Reports.refl s)))
  · exact .ite (State.semRelease_noRun h m _ v) (.ite (State.semForce_noRun h m _) h)
  · split
    · exact State.portW_noRun h m _ _ v
    · exact h

theorem State.writeWide_noRun (m off : Nat) (v : Word64) : NoRunBegins r (s.writeWide m off v) := by
  have hfault := State.accFault_noRun h m
  unfold State.writeWide
  refine .ite (State.freezeW_noRun h m v) (.ite (.ite hfault (.ite h (h.same (by rfl)))) (.ite (.ite h hfault) (.ite (.ite hfault (.ite (State.prmSwap_noRun h v) h))
    (.ite (.ite (State.cfgMirror_noRun (h.same (by rfl)) _ _ _) hfault) (.ite (State.qcfgWide_noRun h m _ _ v) (.ite ?_ (.ite ?_ (.ite (.ite h hfault) h))))))))
  · exact .ite (State.cfgMirror_noRun (State.goChan_noRun h _ _) _ _ _) hfault
  · exact h.emits (State.icStrw_emits s m _ v (Emits.refl s))

theorem State.writeHalf_noRun (m off : Nat) (v : Word32) : NoRunBegins r (s.writeHalf m off v) := by
  unfold State.writeHalf
  refine .ite (State.accFault_noRun h m) (.ite (h.same (by rfl)) ?_)
  extract_lets base
  split
  next low s1 heq =>
    refine State.writeWide_noRun ?_ m base _
    split at heq
    · obtain ⟨-, rfl⟩ := Prod.mk.inj heq
      exact h.same (by rfl)
    · obtain ⟨-, rfl⟩ := Prod.mk.inj heq
      exact h

theorem State.write4_noRun (m ctx off : Nat) (v : Word32) : NoRunBegins r (s.write4 m ctx off v) :=
  .ite (State.writeHalf_noRun h m off v) (State.writeReg_noRun h m ctx off v)

theorem State.write8_noRun (m ctx off : Nat) (v : Word64) : NoRunBegins r (s.write8 m ctx off v) :=
  .ite (State.writeWide_noRun h m off v) (.ite (State.writeReg_noRun (State.semBad_noRun h m _) m ctx _ _)
    (State.writeReg_noRun (State.writeReg_noRun h m ctx _ _) m ctx _ _))

/-- No register write begins a routine: a RUN is dispatched by its own row alone (R269). -/
theorem State.regWrite_noRun (m ctx off size : Nat) (v : Word64) : NoRunBegins r (s.regWrite m ctx off size v) :=
  .ite (State.accFault_noRun h m) (.ite (State.write4_noRun h m ctx off _) (State.write8_noRun h m ctx off v))

end Blocks

end Sys2Proof.Machine
end

section
/-! PROOFS. Words that instructions read and write (R170, R236, R237, R242, R243, R273). -/

namespace Sys2Proof.Machine
open Sys2Proof

section Words

variable {s : State} {e : Ev} {v l : Word} {a ch core k : Nat}

/-! ### Words of memory -/

/-- The parts of a state and its memory that a beat leaves: a context's routine is charged, and that is all (R216). -/
theorem State.ctxBeat_mem (s : State) (core k : Nat) : (s.ctxBeat core k).mem = s.mem := by
  unfold State.ctxBeat
  split
  · rfl
  · split <;> rfl

theorem State.ctxBeat_cores (s : State) (core k : Nat) : (s.ctxBeat core k).cores = s.cores := by
  unfold State.ctxBeat
  split
  · rfl
  · split <;> rfl

/-- A context that runs no routine is charged nothing (R216). -/
theorem State.ctxBeat_idle (h : (s.ctx core k).run = none) : s.ctxBeat core k = s := by
  unfold State.ctxBeat
  rw [h]

theorem State.wakeFor_cores (s : State) (off : Nat) : (s.wakeFor off).cores = s.cores := by
  rw [s.wakeFor_eq off]
  rfl

theorem Ev.putMem_ctx (e : Ev) (a : Nat) (v : Word) : (e.putMem a v).ctx = e.ctx.cover e.now (.word a) (e.s.wordAt a) {} 3 4 :=
  State.ctx_updCtx e.s e.core e.k fun c => c.cover e.now (.word a) (e.s.wordAt a) {} 3 4

/-- A word written to memory: the state is that of the plain write, but for what the access wakes and charges (R237, R243). -/
theorem Ev.put_mem (e : Ev) (a : Nat) (v : Word) : (e.put (.mem a) v).s.mem = (e.s.storeWord a v).mem ∧
    (e.put (.mem a) v).ctx = e.ctx.cover e.now (.word a) (e.s.wordAt a) {} 3 4 ∧ (e.put (.mem a) v).block = e.block := by
  have hown : (e.putMem a v).s.mem = (e.s.storeWord a v).mem := rfl
  by_cases h : isOwn e.core a = true
  · have hput : e.put (.mem a) v = e.putMem a v := if_pos h
    rw [hput]
    exact ⟨hown, e.putMem_ctx a v, rfl⟩
  · have hput : e.put (.mem a) v = ((e.wake a).putMem a v).beat := if_neg h
    have hmem : (e.wake a).s.mem = e.s.mem := e.s.mem_wakeFor a
    have hctx : (e.wake a).ctx = e.ctx := State.ctx_congr (e.s.wakeFor_cores a) e.core e.k
    have hword : (e.wake a).s.wordAt a = e.s.wordAt a := congrArg (fun m => BitVec.ofNat 16 (ofLeBytes (Memory.getMany m a 2))) hmem
    rw [hput]
    refine ⟨(State.ctxBeat_mem _ _ _).trans (congrArg (fun m => Memory.setMany m a (leBytes 2 v.toNat)) hmem), ?_, rfl⟩
    have hbeat : (((e.wake a).putMem a v).beat).ctx = ((e.wake a).putMem a v).ctx := State.ctx_congr (State.ctxBeat_cores _ _ _) _ _
    rw [hbeat, Ev.putMem_ctx, hctx, hword]
    rfl

theorem Ev.put_stands (hm : e.s.memOk) : (e.put (.mem a) v).s.wordAt a = v ∧ MemOnly e.s (e.put (.mem a) v).s a 2 ∧
    (e.put (.mem a) v).ctx.flags = e.ctx.flags ∧ (e.put (.mem a) v).ctx.pc = e.ctx.pc ∧ (e.put (.mem a) v).block = e.block := by
  obtain ⟨hmem, hctx, hblock⟩ := e.put_mem a v
  refine ⟨?_, fun b hb => ?_, by rw [hctx]; rfl, by rw [hctx]; rfl, hblock⟩
  · refine Eq.trans ?_ (State.wordAt_storeWord hm a v)
    exact congrArg (fun m => BitVec.ofNat 16 (ofLeBytes (Memory.getMany m a 2))) hmem
  · rw [hmem]
    exact e.s.get_storeWord_out v hb

theorem Ev.put_own (h : isOwn e.core a = true) :
    (e.put (.mem a) v).s = { e.s with cores := (e.put (.mem a) v).s.cores, mem := (e.put (.mem a) v).s.mem } := by
  have hput : e.put (.mem a) v = e.putMem a v := if_pos h
  rw [hput]
  rfl

theorem Ev.load_own (h : isOwn e.core a = true) (hstale : e.ctx.staleAt e.now (.word a) false = none) : e.load false (.mem a) = (e.s.wordAt a, e) := by
  unfold Ev.load Ev.memWord
  dsimp only
  rw [hstale, h]
  rfl

/-! ### Halves of registers (R237) -/

/-- A context with the kept high half of a read forgotten. -/
def Ctx.unkept (c : Ctx) : Ctx := { c with keptR := none }

/-- A context with no half held. -/
def Ctx.unheld (c : Ctx) : Ctx := { c with heldW := none }

theorem even_base (ha : a % 4 = 0) : a / 4 * 4 = a := by omega

theorem odd_base (ha : a % 4 = 0) : (a + 2) / 4 * 4 = a := by omega

/-- A half that nothing is held for is sent by no one. -/
theorem State.sendHalf_none (h : (s.ctx core k).heldW = none) : s.sendHalf core k = s := by
  unfold State.sendHalf
  rw [h]

/-- The word of an even half is held (R237). -/
theorem Ev.putReg_even (ha : a % 4 = 0) (hheld : e.ctx.heldW = none) : e.putReg a v =
    { e with s := (e.s.updCtx e.core e.k Ctx.unkept).updCtx e.core e.k fun c => { c with heldW := some (a, v) } } := by
  have hsend : (e.s.updCtx e.core e.k Ctx.unkept).sendHalf e.core e.k = e.s.updCtx e.core e.k Ctx.unkept :=
    State.sendHalf_none (by rw [State.ctx_updCtx]; exact hheld)
  unfold Ev.putReg
  dsimp only
  rw [if_pos ha, even_base ha]
  exact congrArg (fun t : State => ({ e with s := t.updCtx e.core e.k fun c => { c with heldW := some (a, v) } } : Ev)) hsend

theorem Ev.putReg_holds (ha : a % 4 = 0) (hheld : e.ctx.heldW = none) : (e.putReg a v).ctx.heldW = some (a, v) ∧ (e.putReg a v).ctx.keptR = none ∧
    (e.putReg a v).s = { e.s with cores := (e.putReg a v).s.cores } := by
  have hctx : (e.putReg a v).ctx = { e.ctx.unkept with heldW := some (a, v) } := by
    rw [Ev.putReg_even ha hheld]
    exact (State.ctx_updCtx _ _ _ _).trans (congrArg (fun c : Ctx => { c with heldW := some (a, v) }) (State.ctx_updCtx _ _ _ _))
  refine ⟨by rw [hctx], by rw [hctx]; rfl, ?_⟩
  rw [Ev.putReg_even ha hheld]
  rfl

theorem Ev.upd_ctx (e : Ev) (f : Ctx → Ctx) : (e.upd f).ctx = f e.ctx := State.ctx_updCtx e.s e.core e.k f

/-- The write of 4 bytes that a register half makes, and its beat (R216, R237). -/
def Ev.sendWord (e : Ev) (a n : Nat) : Ev := ({ e with s := e.s.regWrite (midOfCore e.core) e.k a 4 (BitVec.ofNat 64 n) } : Ev).beat

/-- The word of an odd half is sent with the low half that is held (R237). -/
theorem Ev.putReg_odd_held (ha : a % 4 = 0) (hheld : e.ctx.heldW = some (a, l)) :
    e.putReg (a + 2) v = ((e.upd Ctx.unkept).upd Ctx.unheld).sendWord a (l.toNat + v.toNat * 0x10000) := by
  have hctx : (e.upd Ctx.unkept).ctx.heldW = some (a, l) := by
    rw [Ev.upd_ctx]
    exact hheld
  unfold Ctx.unkept at hctx
  unfold Ev.putReg
  dsimp only
  rw [if_neg (by omega), odd_base ha, hctx]
  dsimp only
  rw [if_pos rfl]
  rfl

/-- With none held it is sent with 0 (R237). -/
theorem Ev.putReg_odd_none (ha : a % 4 = 0) (hheld : e.ctx.heldW = none) :
    e.putReg (a + 2) v = (e.upd Ctx.unkept).sendWord a (0 + v.toNat * 0x10000) := by
  have hctx : (e.upd Ctx.unkept).ctx.heldW = none := by
    rw [Ev.upd_ctx]
    exact hheld
  unfold Ctx.unkept at hctx
  unfold Ev.putReg
  dsimp only
  rw [if_neg (by omega), odd_base ha, hctx]
  rfl

/-- A context that runs no routine is charged nothing for the write (R216, R269). -/
theorem Ev.sendWord_idle (hrun : e.ctx.run = none) (n : Nat) : (e.sendWord a n).s = e.s.regWrite (midOfCore e.core) e.k a 4 (BitVec.ofNat 64 n) :=
  State.ctxBeat_idle (State.regWrite_noRun (.refl e.s) _ _ _ _ _ _ _ hrun)

theorem append_toNat (v l : Word) : (v ++ l : Word32).toNat = l.toNat + v.toNat * 0x10000 := by
  rw [BitVec.toNat_append, Nat.shiftLeft_eq, Nat.mul_comm, ← Nat.two_pow_add_eq_or_of_lt l.isLt, Nat.add_comm, Nat.mul_comm]

/-! ### USER through the context port (R170, R236) -/

theorem State.putLath_user (s : State) (ch : Nat) (v : Word) :
    (s.putLath ch 30 v).chan ch = { s.chan ch with user := BitVec.ofNat 32 ((s.chan ch).user.toNat / 65536 * 65536 + v.toNat) } ∧
    (s.putLath ch 31 v).chan ch = { s.chan ch with user := BitVec.ofNat 32 ((s.chan ch).user.toNat % 65536 + v.toNat * 65536) } :=
  ⟨s.goChan_chan ch _, s.goChan_chan ch _⟩

end Words

/-- Settles O54: a write to memory is the plain store but for what it wakes and charges; a register half is held or sent with the one held. -/
theorem wordAccesses : Obligations.WordAccesses := fun e v l a ch =>
  ⟨fun hm => Ev.put_stands hm, fun hown => Ev.put_own hown, fun ha hheld => Ev.putReg_holds ha hheld,
    fun ha hheld hrun => by
      rw [Ev.putReg_odd_held ha hheld, append_toNat]
      refine Ev.sendWord_idle ?_ _
      rw [Ev.upd_ctx, Ev.upd_ctx]
      exact hrun,
    fun ha hheld hrun => by
      rw [Ev.putReg_odd_none ha hheld, Nat.zero_add]
      refine Ev.sendWord_idle ?_ _
      rw [Ev.upd_ctx]
      exact hrun,
    e.s.putLath_user ch v, fun hown hstale => Ev.load_own hown hstale⟩

end Sys2Proof.Machine
end

section
/-! PROOFS. The bank arbiters (R189, R315 to R320): a command that acts on one arbiter, and O34. -/

namespace Sys2Proof.Machine
open Sys2Proof

section Arbiters

variable {s : State} {arb : Nat} {i : Instr}

/-! ### One arbiter changes -/

/-- A command that changes one arbiter leaves the others, and all else. -/
theorem runs_updScr {f : Scr → Scr} {x : Scr} (hi : exec i s = .next (s.updScr arb f)) (hx : f (s.scr arb) = x) :
    Runs i s fun t => t.scr arb = x ∧ (∀ k, k ≠ arb → t.scr k = s.scr k) ∧ t = { s with scrs := t.scrs } :=
  ⟨_, hi, (State.scr_setScr s arb _).trans hx, fun k hk => State.scr_setScr_ne s arb k _ hk, rfl⟩

theorem Runs.mono {P Q : State → Prop} (h : Runs i s P) (hpq : ∀ t, P t → Q t) : Runs i s Q := by
  obtain ⟨t, ht, hp⟩ := h
  exact ⟨t, ht, hpq t hp⟩

/-! ### Requests (R316, R317, R320) -/

theorem revokes_eq_true_iff {r b : ScrReq} : revokes arb r b = true ↔
    r.rank = 2 ∧ b.rank < 2 ∧ arb ≠ 37 ∧ b.left + 1 < b.beats ∧ (38 ≤ arb → b.left = 0) := by
  simp only [revokes, Bool.and_eq_true, beq_iff_eq, decide_eq_true_eq, Bool.not_eq_true', Bool.and_eq_false_iff, decide_eq_false_iff_not]
  omega

variable {x : Scr} {r : ScrReq}

theorem Scr.frozen_eq_false (hf : x.freeze = false) (hh : x.hold = false) : x.frozen = false := by
  rw [Scr.frozen, hf, hh]; rfl

theorem Scr.progress_free (hb : x.busy = none) (left : Nat) : x.progress left = x := by
  obtain ⟨⟩ := x
  subst hb
  rfl

theorem Scr.request_free (hf : x.frozen = false) (hb : x.busy = none) : x.request arb r = x.give r := by
  rw [Scr.request, hf, hb]; rfl

/-- A request waits at a frozen arbiter, and behind a transfer that it does not revoke (R317, R320). -/
theorem Scr.request_waits (h : x.frozen = true ∨ ∃ b, x.busy = some b ∧ revokes arb r b = false) :
    x.request arb r = { x with reqs := x.reqs ++ [r] } := by
  rw [Scr.request]
  split
  next => rfl
  next hf =>
    obtain ⟨b, hb, hr⟩ := h.resolve_left hf
    rw [hb]
    simp [hr]

/-- A request revokes: the loser goes to the pending queue from its first beat (R317, R318). -/
theorem Scr.request_revokes {b : ScrReq} (hf : x.frozen = false) (hb : x.busy = some b) (hr : revokes arb r b = true) (hp : x.pend.length < 8) :
    x.request arb r = { ({ x with pend := x.pend ++ [{ b with left := 0 }] } : Scr).give r with revoked := satInc x.revoked } := by
  simp [Scr.request, hf, hb, hr, Scr.lose, hp]

/-! ### What is picked next (R316, R320) -/

theorem Scr.pick_frozen (h : x.frozen = true) : x.pick = x := by
  simp [Scr.pick, h]

theorem Scr.nextOf_none (hp : x.pend = []) (hr : x.reqs = []) (rank : Nat) : x.nextOf rank = none := by
  simp [Scr.nextOf, hp, hr, takeFirst, winner]

/-- With nothing waiting nothing is picked (R316). -/
theorem Scr.pick_idle (hp : x.pend = []) (hr : x.reqs = []) : x.pick = x := by
  simp [Scr.pick, Scr.nextOf_none hp hr]

/-! ### The watchdog (R189, R319) -/

/-- A bite leaves a host or the debug port running: its access counts as refused (R189). -/
theorem State.contain_host {m : Nat} (h : isHost m = true ∨ m = 0x1FF) : s.contain (.master m) = s.accFault m := by
  have hm : m = 0 ∨ m = 1 ∨ m = 0x1FF := by
    simp only [isHost, Bool.or_eq_true, beq_iff_eq] at h
    omega
  obtain rfl | rfl | rfl := hm <;> rfl

/-- The arbiter of a bitten transfer, and SCR_WDLAST, before the bite is recorded. -/
def State.bitten (s : State) (arb : Nat) (b : ScrReq) : State :=
  { s.updScr arb fun x => { x with busy := none, bites := satInc x.bites } with gctl := { s.gctl with wdLast := BitVec.ofNat 32 (arb + b.m * 256) } }

/-- What the record and the source of a bite leave (R319). -/
def State.biteTold (s : State) (arb : Nat) (b : ScrReq) : State := ((s.bitten arb b).journalRec stScrimWatchdog false false false b.m arb).pulse 0x404

theorem State.bite_busy {b : ScrReq} (hb : (s.scr arb).busy = some b) : s.bite arb = ((s.biteTold arb b).contain b.who).updScr arb Scr.pick := by
  rw [State.bite, hb]
  rfl

theorem State.biteTold_emits (s : State) (arb : Nat) (b : ScrReq) : Emits (s.bitten arb b) (s.biteTold arb b) :=
  State.pulse_emits _ _ (State.journalRec_emits _ _ _ _ _ _ _ (Emits.refl _))

theorem State.biteTold_gctl (s : State) (arb : Nat) (b : ScrReq) : (s.biteTold arb b).gctl = (s.bitten arb b).gctl := by
  rw [State.biteTold, (State.pulse_signals _ _).gctl, (State.journalRec_recorded _ _ _ _ _ _ _).1]

theorem Emits.scrs {t : State} (h : Emits s t) : t.scrs = s.scrs := by rw [h]

theorem Emits.noneWait {t : State} (h : Emits s t) (hn : s.noneWait) : t.noneWait := h.reports.noneWait hn

theorem State.noneWait_updScr {u : State} (h : u.noneWait) (f : Scr → Scr) : (u.updScr arb f).noneWait := h

theorem State.noneWait_bitten (h : s.noneWait) {b : ScrReq} : (s.bitten arb b).noneWait := h

/-- The state in which the arbiter of a host's bitten transfer picks its next winner. -/
def State.biteEnded (s : State) (arb : Nat) (b : ScrReq) (m : Nat) : State := (s.biteTold arb b).accFault m

theorem State.biteEnded_emits (s : State) (arb : Nat) (b : ScrReq) (m : Nat) : Emits (s.bitten arb b) (s.biteEnded arb b m) :=
  State.accFault_emits _ _ (s.biteTold_emits arb b)

/-- A bite and what its arbiter then picks are reports, but for the arbiters. -/
theorem State.bitten_reports {u : State} {b : ScrReq} (h : Emits (s.bitten arb b) u) (f : Scr → Scr) :
    Reports { s with scrs := (u.updScr arb f).scrs } (u.updScr arb f) := by
  unfold Emits at h
  rw [h]
  rfl

theorem State.biteEnded_wdLast (s : State) (arb : Nat) (b : ScrReq) (m : Nat) :
    (s.biteEnded arb b m).gctl.wdLast = BitVec.ofNat 32 (arb + b.m * 256) := by
  rw [State.biteEnded, State.accFault_gctl, State.biteTold_gctl]
  rfl

theorem State.biteEnded_die (s : State) (arb : Nat) (b : ScrReq) (m : Nat) : (s.biteEnded arb b m).die = s.die := by
  rw [s.biteEnded_emits arb b m]
  rfl

theorem State.biteEnded_scr (s : State) (arb : Nat) (b : ScrReq) (m k : Nat) : (s.biteEnded arb b m).scr k = (s.bitten arb b).scr k := by
  unfold State.scr
  rw [(s.biteEnded_emits arb b m).scrs]

theorem exec_scrimWatchdogBite (lt : arb < 40) : exec (.scrimWatchdogBite arb) s = .next (s.bite arb).served :=
  congrArg Host.Outcome.next (if_pos lt)

theorem runs_scrimWatchdogBite {b : ScrReq} {m : Nat} (ha : arb < 40) (hb : (s.scr arb).busy = some b) (hw : b.who = .master m)
    (hm : isHost m = true ∨ m = 0x1FF) (hp : (s.scr arb).pend = []) (hr : (s.scr arb).reqs = []) (hn : s.noneWait) :
    Runs (.scrimWatchdogBite arb) s fun t => (t.scr arb).busy = none ∧ (t.scr arb).bites = satInc (s.scr arb).bites ∧
      t.gctl.wdLast = BitVec.ofNat 32 (arb + b.m * 256) ∧ t.die = s.die ∧ (∀ k, k ≠ arb → t.scr k = s.scr k) ∧ Reports { s with scrs := t.scrs } t := by
  have htold := s.biteEnded_emits arb b m
  have hbite : s.bite arb = (s.biteEnded arb b m).updScr arb Scr.pick := by rw [State.bite_busy hb, hw, State.contain_host hm]; rfl
  have hscr : (s.biteEnded arb b m).scr arb = { s.scr arb with busy := none, bites := satInc (s.scr arb).bites } :=
    (s.biteEnded_scr arb b m arb).trans (State.scr_setScr s arb _)
  have hpick : (s.bite arb).scr arb = { s.scr arb with busy := none, bites := satInc (s.scr arb).bites } := by
    rw [hbite, State.updScr, State.scr_setScr, hscr]
    exact Scr.pick_idle hp hr
  have hserved : (s.bite arb).served = s.bite arb := by
    rw [hbite]
    exact State.served_of_noneWait (State.noneWait_updScr (htold.noneWait (State.noneWait_bitten hn)) _)
  refine ⟨s.bite arb, ?_, by rw [hpick], by rw [hpick], ?_, ?_, fun k hk => ?_, ?_⟩
  · rw [exec_scrimWatchdogBite ha, hserved]
  · rw [hbite, State.updScr, State.setScr_gctl]
    exact s.biteEnded_wdLast arb b m
  · rw [hbite]
    exact (State.setScr_die _ _ _).trans (State.biteEnded_die s arb b m)
  · rw [hbite, State.updScr, State.scr_setScr_ne _ _ _ _ hk, s.biteEnded_scr arb b m k]
    exact State.scr_setScr_ne s arb k _ hk
  · rw [hbite]
    exact State.bitten_reports htold _

/-! ### The rows -/

theorem exec_scrimRequest {bank : Bank} (ha : arbiterOf bank = arb) (lt : arb < 40) (who : Requester) (beats left : Nat) (cls : Option Nat) :
    exec (.scrimRequest bank who ⟨beats, left⟩ cls) s = .next (s.updScr arb fun x =>
      (x.progress left).request arb { who, m := midOfReq who, rank := s.scrRank who cls, beats }) := by
  subst ha
  exact congrArg Host.Outcome.next (if_pos lt)

theorem exec_scrimTransferComplete (lt : arb < 40) :
    exec (.scrimTransferComplete arb) s = .next (s.updScr arb fun x => { x with busy := none }.pick) :=
  congrArg Host.Outcome.next (if_pos lt)

/-- An admitted write of SCR_CTL by a master with the right sets FREEZE and the watchdog time (R320). -/
theorem exec_scrimFreeze {m : Nat} {v : Word32} (lt : arb < 40) (ha : s.admits m 0x5000 = true) (hm : isConfigMaster m = true)
    (hr : rightsOk m (0x5000 + arb * 16) = true) : exec (.scrimFreeze m arb v) s =
      .next (s.updScr arb fun x => { x with freeze := bitOf v 0, wdog := BitVec.ofNat 8 (bitsOf v 8 8) }.pick) := by
  show Host.Outcome.next (s.access m 0x5000 _) = _
  rw [State.access_of_admits _ ha (by decide) (offDom_eq_none (.inl (by decide)))]
  simp only [if_pos lt, State.scrCtl, hm, hr]
  rfl

end Arbiters

/-- Settles O34: each row is one change of one arbiter, and a bite of a host's transfer tells of it besides. -/
theorem scrimArbiters : Obligations.ScrimArbiters := by
  intro s arb lt
  refine ⟨fun bank who beats left cls r ha hr => ?_, fun hp hreq => ?_, fun b m hb hw hm hp hr hn => runs_scrimWatchdogBite lt hb hw hm hp hr hn,
    fun m v ha hm hr hv => ?_⟩
  · have hi := exec_scrimRequest (s := s) ha lt who beats left cls
    rw [← hr] at hi
    refine ⟨fun hf hh hb => ?_, fun hwait => ?_, fun b hf hh hb h37 hrank hbeats hgone hr2 hpend => ?_⟩
    · refine (runs_updScr hi rfl).mono fun t ⟨hx, hother, hall⟩ => ?_
      rw [Scr.progress_free hb, Scr.request_free (Scr.frozen_eq_false hf hh) hb] at hx
      exact ⟨by rw [hx]; rfl, by rw [hx]; rfl, hother, hall⟩
    · refine runs_updScr hi (Scr.request_waits ?_)
      obtain hfreeze | ⟨b, hb, hno⟩ := hwait
      · exact .inl (by simp [Scr.frozen, Scr.progress, hfreeze])
      · refine .inr ⟨{ b with left := max b.left left }, by simp [Scr.progress, hb], ?_⟩
        rw [← Bool.not_eq_true, revokes_eq_true_iff]
        dsimp only
        omega
    · have hrev : revokes arb r { b with left := max b.left left } = true :=
        revokes_eq_true_iff.mpr ⟨hr2, hrank, h37, hbeats, hgone⟩
      refine (runs_updScr hi (Scr.request_revokes (b := { b with left := max b.left left }) (Scr.frozen_eq_false hf hh)
        (by simp [Scr.progress, hb]) hrev hpend)).mono fun t ⟨hx, hother, hall⟩ => ?_
      exact ⟨by rw [hx]; rfl, by rw [hx]; rfl, by rw [hx]; rfl, hother, hall⟩
  · exact runs_updScr (exec_scrimTransferComplete lt) (Scr.pick_idle hp hreq)
  · refine runs_updScr (exec_scrimFreeze lt ha hm hr) ?_
    rw [hv]
    exact Scr.pick_frozen rfl

end Sys2Proof.Machine
end

section
/-! PROOFS. The frames of the partner (R457, R462), and O58. -/

namespace Sys2Proof.Machine
open Sys2Proof

/-- An ACK frame changes nothing of a link (R457). -/
theorem State.sendAck_link0 (s : State) : s.sendAck.link0 = s.link0 := by
  rw [State.sendAck]
  split <;> rfl

/-- A standby in sync whose channel 9 once waited for a ledger entry: it is not parked, and the reason of its last wait still stands. -/
def wOnceParked : State := { wPair 2 1 with chans := [(9, { why := .ledger })] }

/-- The Lath state of channel 9 as its partner sends it: ACTIVE and parked, its words else 0 (R462). -/
def wLathParked : LathRec := { ch := 9, groups := [(0, 0x12), (1, 0)], recov := none }

theorem wOnceParked_hears : Hears wOnceParked wHdr ∧ wOnceParked.mirrors = true ∧ wOnceParked.link0.reads = [] := by
  unfold Hears
  decide

/-- The channel is parked by the frame and counts as waiting for a ledger entry, which is free: it goes on, and its first CCW is read. -/
theorem lath_wOnceParked_reads : (after (.lath wHdr [wLathParked]) wOnceParked).link0.reads ≠ [] := by decide

/-- Refutes O58: a LATH frame that parks channel 9 where its last wait, long ended, was for a ledger entry lets the channel go on at
once and read its CCW, so a link changes besides what the frame carries. -/
theorem not_pairFramesAndRoles : ¬ Obligations.PairFramesAndRoles := by
  intro h
  obtain ⟨hears, hmirrors, hreads⟩ := wOnceParked_hears
  obtain ⟨-, -, -, -, -, -, -, -, -, hmirror, -⟩ := h wOnceParked wHdr hears
  obtain ⟨-, hlath, -⟩ := hmirror hmirrors
  obtain ⟨t, hrun, -, -, -, -, -, -, hacked⟩ := hlath 9 0x12 0
  have hafter : after (.lath wHdr [wLathParked]) wOnceParked = t := by rw [after, wLathParked, hrun]
  have hsame : t.link0 = wOnceParked.link0 := by
    rw [hacked, State.sendAck_link0]
    rfl
  exact lath_wOnceParked_reads (by rw [hafter, hsame, hreads])

end Sys2Proof.Machine
end

section
/-! PROOFS. The tick: what opens a frame, and what follows it (R202, R203, R209, R212, R415, R495), and O30. -/

namespace Sys2Proof.Machine
open Sys2Proof

/-! ### Time passes (R201) -/

/-- The cycles of a frame change the counts of time and of the slew, and nothing else of the frame timer (R201, R205). -/
theorem Frm.passTo_eq (f : Frm) (t : Nat) : f.passTo t =
    { f with count := (f.passTo t).count, time := (f.passTo t).time, frac := (f.passTo t).frac, slewFrac := (f.passTo t).slewFrac, slew := (f.passTo t).slew } := by
  unfold Frm.passTo
  split <;> rfl

theorem Frm.tick_time {f : Frm} (h : f.stepDue = none) (standby : Bool) : (f.tick standby).time = BitVec.ofNat 64 (max f.time.toNat f.next.toNat) := by
  rw [Frm.tick, h]

/-- With no step due the next tick of a die that is no standby falls on the multiple of the period that R202 names. -/
theorem Frm.tick_next {f : Frm} (h : f.stepDue = none) (hm : f.stepMark = false) :
    (f.tick false).next = BitVec.ofNat 64 (tickAfter (max f.time.toNat f.next.toNat) f.periodAct.toNat) := by
  rw [Frm.tick, h, hm]
  rfl

/-! ### What follows the opening of a frame -/

/-- After a frame has opened only this has changed: reports, the pin of FRAME_SYNC, a read of admin packets, and wakes that start (R203, R207, R371, R405). -/
structure Follows (s t : State) : Prop where
  rest : t = { s with link0 := t.link0, link1 := t.link1, gctl := t.gctl, queues := t.queues, srcs := t.srcs, batches := t.batches,
                      journal := t.journal, jheld := t.jheld, jseq := t.jseq, late := t.late, pwr := t.pwr, ds := t.ds, wakeOut := t.wakeOut,
                      aq := { s.aq with reading := t.aq.reading }, frm := { s.frm with syncPin := t.frm.syncPin } }
  pwr : s.pwr.Woken t.pwr

theorem Follows.of_reports {s t : State} (h : Reports s t) (hp : s.pwr.Woken t.pwr) : Follows s t := by
  refine ⟨?_, hp⟩
  unfold Reports at h
  rw [h]

theorem Follows.of_stirs {s t : State} (h : Stirs s t) : Follows s t := .of_reports h.1.reports h.2

theorem Follows.refl (s : State) : Follows s s := ⟨rfl, Pwr.Woken.refl _⟩

theorem Follows.trans {r s t : State} (h : Follows r s) (g : Follows s t) : Follows r t := by
  refine ⟨?_, h.pwr.trans g.pwr⟩
  have hg := g.rest
  rw [h.rest] at hg
  exact hg

theorem Follows.die {s t : State} (h : Follows s t) : t.die = s.die := by rw [h.rest]
theorem Follows.hold {s t : State} (h : Follows s t) : t.hold = s.hold := by rw [h.rest]
theorem Follows.chans {s t : State} (h : Follows s t) : t.chans = s.chans := by rw [h.rest]
theorem Follows.cmds {s t : State} (h : Follows s t) : t.aq.cmds = s.aq.cmds := by rw [h.rest]
theorem Follows.ports {s t : State} (h : Follows s t) : t.ports = s.ports := by rw [h.rest]
theorem Follows.kmd {s t : State} (h : Follows s t) : t.kmd = s.kmd := by rw [h.rest]
theorem Follows.hawk {s t : State} (h : Follows s t) : t.hawk = s.hawk := by rw [h.rest]

theorem State.ds_follows (s : State) (d : Ds) : Follows s { s with ds := d } := ⟨rfl, Pwr.Woken.refl _⟩

/-! ### Reads are asked for -/

theorem State.askRead_pwr (s : State) (md : Nat) (r : HostRead) : (s.askRead md r).pwr = s.pwr := by
  obtain ⟨w, x, h⟩ := State.pump_eq ((s.updLink md fun l => { l with waiting := addWaiting l.waiting r }).wantLink md) md
  rw [State.askRead, h, State.setLink_pwr, State.wantLink_pwr]
  exact s.setLink_pwr md _

theorem State.askPcnt_pwr (s : State) (q : Nat) : (s.askPcnt q).pwr = s.pwr := State.askRead_pwr _ _ _

theorem State.askDesc_pwr (s : State) (q : Nat) (c : Word32) (n : Nat) (again : Bool) : (s.askDesc q c n again).pwr = s.pwr := by
  unfold State.askDesc State.askSlots
  dsimp only
  split
  · exact State.askRead_pwr _ _ _
  · rfl

/-- A queue that reads on asks for reads, and changes no power register (R105, R110, R115). -/
theorem State.kick_pwr (s : State) (q : Nat) : (s.kick q).pwr = s.pwr := by
  have h1 : (if (s.q q).wantPcnt then s.askPcnt q else s).pwr = s.pwr := by
    split
    · exact s.askPcnt_pwr q
    · rfl
  unfold State.kick
  extract_lets x s1 c
  split
  · rfl
  · split
    · exact h1
    · split
      · split
        · exact (State.askDesc_pwr _ _ _ _ _).trans h1
        · exact h1
      · split
        · exact h1
        · exact (State.askDesc_pwr _ _ _ _ _).trans h1

theorem State.kick_follows (s : State) (q : Nat) : Follows s (s.kick q) :=
  .of_reports (State.kick_reports s q (Reports.refl s)) (by rw [s.kick_pwr q]; exact Pwr.Woken.refl _)

theorem State.askRead_follows (s : State) (md : Nat) (r : HostRead) : Follows s (s.askRead md r) :=
  .of_reports (State.askRead_reports s md r (Reports.refl s)) (by rw [s.askRead_pwr md r]; exact Pwr.Woken.refl _)

theorem State.wakeDomain_follows (s : State) (d cause : Nat) : Follows s (s.wakeDomain d cause) := by
  refine ⟨?_, s.wakeDomain_woken d cause⟩
  rw [s.wakeDomain_pwr d cause]

theorem State.retarget_follows (s : State) : Follows s s.retarget :=
  State.each_induction (P := Follows s) _ (Follows.refl s) fun t d h => by
    split
    · exact h.trans (t.wakeDomain_follows d 6)
    · exact h

theorem State.admStart_none {s : State} (h : s.aq.cmds = []) (n : Nat) : s.admStart (n + 1) = s := by
  have hnone : Machine.startable [] [] = [] := rfl
  unfold State.admStart
  simp [h, hnone, State.each]

theorem State.reading_follows (s : State) (b : Bool) : Follows s { s with aq := { s.aq with reading := b } } := ⟨rfl, Pwr.Woken.refl _⟩

/-- A packet is read with the FWC and the MRAM awake (R371, R405). -/
theorem State.readPacket_follows (s : State) (md : Nat) (r : HostRead) :
    Follows s (((s.wakeDomain 131 5).wakeDomain 133 5).askRead md r) :=
  ((s.wakeDomain_follows 131 5).trans (State.wakeDomain_follows _ 133 5)).trans (State.askRead_follows _ md r)

/-- With no command in progress the admin queue reads its next packet, and does nothing else (R371). -/
theorem State.aqKick_follows {s : State} (h : s.aq.cmds = []) : Follows s s.aqKick := by
  rw [State.aqKick, State.admStart_none h, State.askPacket]
  split
  · exact (s.reading_follows true).trans (State.readPacket_follows _ _ _)
  · exact Follows.refl s

/-! ### The steps of a tick -/

theorem State.tickBlock_follows (s : State) : Follows s s.tickBlock := by
  rw [State.tickBlock]
  split
  · exact s.ds_follows _
  · exact Follows.refl s

/-- The TICK block changes neither role nor takeover (R454). -/
theorem State.tickBlock_roles (s : State) : s.tickBlock.ds.role = s.ds.role ∧ s.tickBlock.ds.taking = s.ds.taking := by
  unfold State.tickBlock
  split
  · exact ⟨rfl, rfl⟩
  · exact ⟨rfl, rfl⟩

theorem State.driveSync_follows (s : State) : Follows s s.driveSync := ⟨rfl, Pwr.Woken.refl _⟩

theorem State.sendHb_follows (s : State) (halting : Bool) : Follows s (s.sendHb halting) := by
  rw [s.sendHb_ds halting]
  exact s.ds_follows _

theorem State.joinTick_alone {s : State} (h : s.ds.role = 0) : s.joinTick = s :=
  if_neg fun ⟨h1, _⟩ => absurd (h.symm.trans h1) (by decide)

theorem State.mirror_alone {s : State} (h : s.ds.role = 0) (ty : TxType) (prio : Bool) (body : TxBody) : s.mirror ty prio body = s := by
  rw [State.mirror, h]
  rfl

theorem State.takeUpAll_hold {s : State} (h : s.hold = true) : s.takeUpAll = s :=
  if_pos (by rw [h]; simp)

/-- Out of a pair the tick of the pair lets queues read on where a takeover waits for it, which Hold leaves to its end (R465). -/
theorem State.roleTick_follows {s : State} (hr : s.ds.role = 0) (ht : s.ds.taking = true → s.hold = true) : Follows s s.roleTick := by
  unfold State.roleTick
  extract_lets s1 d s2
  have hs1 : s1 = s := by simp only [s1, hr]; rfl
  clear_value s1
  subst hs1
  split
  next h =>
    have h2 := s1.ds_follows { s1.ds with taking := false }
    have hs2 : s2 = { s1 with ds := { s1.ds with taking := false } } := State.takeUpAll_hold (ht h)
    rw [← hs2] at h2
    exact State.each_induction (P := Follows s1) _ h2 fun t q ht => ht.trans (t.kick_follows q)
  next => exact Follows.refl s1

theorem State.pairTick_follows {s : State} (hr : s.ds.role = 0) (ht : s.ds.taking = true → s.hold = true) (l : List BoundaryRec) :
    Follows s (s.pairTick l) := by
  rw [State.pairTick, State.mirror_alone hr, State.joinTick_alone hr]
  exact (State.roleTick_follows hr ht).trans (State.sendHb_follows _ false)

/-! ### The frame opens -/

/-- The state as the tick of a die that is READY opens the frame: measured, and with every budget and count of the frame anew (R203, R214). -/
def State.opened (s : State) (mv : BitVec 10) (temp : Int) : State :=
  ((({ s with frm := s.frm.tick (s.ds.role = 2) } : State).measure mv temp).reloadBudgets).reload

theorem State.applyChanges_none {s : State} (h : s.commits = []) : s.applyChanges = s := by
  obtain ⟨⟩ := s
  subst h
  rfl

/-- Hold goes on while a condition is there, and a die out of Hold has none to end (R193, R415). -/
theorem State.endHold_stays {s : State} (h : s.hold = true → s.pwr.warns = true) : s.endHold = s := by
  refine if_neg fun hends => ?_
  rw [Bool.and_eq_true] at hends
  obtain ⟨hh, hw⟩ := hends
  rw [h hh] at hw
  exact absurd hw (by decide)

/-- The sources of the tick (R203, R322). -/
theorem State.tickPulses_stirs (s : State) : Stirs s (if bitOf s.frm.flags 1 then (s.pulse 0x401).pulse 0x402 else s.pulse 0x401) := by
  split
  · exact (s.pulse_stirs _).trans (State.pulse_stirs _ _)
  · exact s.pulse_stirs _

theorem State.markDip_ds (s : State) : s.markDip.ds = s.ds := by
  unfold State.markDip
  split <;> rfl

theorem State.markDip_hold (s : State) : s.markDip.hold = s.hold := by
  unfold State.markDip
  split <;> rfl

theorem State.markDip_aq (s : State) : s.markDip.aq = s.aq := by
  unfold State.markDip
  split <;> rfl

theorem State.markDip_die (s : State) : s.markDip.die = s.die := by
  unfold State.markDip
  split <;> rfl

/-- A tick below the thermal trip with nothing to change and out of a pair: the frame opens, then work goes on (R203). -/
theorem State.tickReady_opens {s : State} {mv : BitVec 10} {temp : Int} (hd : s.die = .ready) (hcool : temp < tempTrip) (hc : s.commits = [])
    (hr : s.ds.role = 0) (ht : s.ds.taking = true → s.hold = true) (hw : s.hold = true → s.pwr.warns = true) :
    ∃ u b, Follows (s.opened mv temp).markDip u ∧ s.tickReady mv temp = (u.workOn b).aqKick := by
  unfold State.tickReady
  extract_lets s1 s2 s4 s5 s6
  have h4 : s4 = (s.opened mv temp).markDip := by
    have hcommits : s2.reloadBudgets.applyChanges = s2.reloadBudgets := State.applyChanges_none hc
    have hopened : s2.reloadBudgets.reload = s.opened mv temp := rfl
    have hhold : (s.opened mv temp).endHold = s.opened mv temp := State.endHold_stays hw
    simp only [s4, hcommits, hopened, hhold]
  have hr4 : s4.ds.role = 0 := by rw [h4, State.markDip_ds]; exact hr
  have ht4 : s4.ds.taking = true → s4.hold = true := by rw [h4, State.markDip_ds, State.markDip_hold]; exact ht
  have hd4 : s4.die = .ready := by rw [h4, State.markDip_die]; exact hd
  clear_value s4
  have h5 : Stirs s4 s5 := s4.tickPulses_stirs
  have hr5 : s5.ds.role = 0 := by rw [h5.1]; exact hr4
  have ht5 : s5.ds.taking = true → s5.hold = true := by rw [h5.1]; exact ht4
  clear_value s5
  have h6 : Follows s4 s6 := by
    have hb : Follows s5 s5.tickBlock := s5.tickBlock_follows
    obtain ⟨hrole, htaking⟩ := s5.tickBlock_roles
    have hpair : Follows s5.tickBlock (s5.tickBlock.pairTick s.boundaryRecs) :=
      State.pairTick_follows (hrole.trans hr5) (by rw [htaking, hb.hold]; exact ht5) _
    exact (Follows.of_stirs h5).trans ((hb.trans hpair).trans (State.driveSync_follows _))
  clear_value s6
  rw [if_neg (not_le.mpr hcool), if_pos (h6.die.trans hd4), ← h4]
  exact ⟨_, _, h6.trans s6.retarget_follows, rfl⟩

/-! ### Work that may go on (R218, R220) -/

theorem State.each_nil {α : Type} (s : State) (f : State → α → State) : s.each [] f = s := rfl

theorem State.parkedList_none {s : State} (hp : ∀ e ∈ s.chans, e.2.parked = false) (p : ParkWhy → Bool) : s.parkedList p = [] := by
  have hnone : (s.chans.filter fun e => e.2.parked && p e.2.why) = [] := List.filter_eq_nil_iff.mpr fun e he => by simp [hp e he]
  rw [State.parkedList, hnone]
  rfl

/-- Nothing received waits for a READ at a port, and no READ for input: the port stands still (R349, R351). -/
theorem State.pumpPort_none {s : State} (h : ∀ e ∈ s.ports, e.2.buf = [] ∧ e.2.readers = []) (p : Nat) : s.pumpPort p = s := by
  obtain ⟨hbuf, hreaders⟩ : (s.port p).buf = [] ∧ (s.port p).readers = [] := by
    obtain hnone | hmem := Table.get_eq_or_mem s.ports {} p
    · rw [State.port, hnone]
      exact ⟨rfl, rfl⟩
    · exact h _ hmem
  have hpace : s.pace p = s := by rw [State.pace, hreaders]
  rw [State.pumpPort, hbuf, List.length_nil, State.deliverPort, hpace]
  exact ite_self s

/-- With nothing parked, nothing ready and nothing received no work goes on at a tick (R218, R220). -/
theorem State.workOn_none {s : State} (hn : s.noneWait) (hr : NoUnitReady s) (hp : ∀ e ∈ s.chans, e.2.parked = false)
    (hports : ∀ e ∈ s.ports, e.2.buf = [] ∧ e.2.readers = []) (b : Bool) : s.workOn b = s := by
  have hready : (s.chans.filter fun e => e.2.xfer.phase == .ready) = [] := List.filter_eq_nil_iff.mpr fun e he => by simp [hr.1 e he]
  have hpump : (s.each (s.ports.map (·.1)) fun s p => (s.kickPort p).pumpPort p) = s :=
    State.each_noop fun p _ => by rw [State.kickPort_none hr.1 hr.2, State.pumpPort_none hports]
  unfold State.workOn
  rw [State.parkedList_none hp, State.each_nil]
  dsimp only
  rw [hready, List.map_nil, State.each_nil, hpump, State.served_of_noneWait hn]
  exact ite_self s

theorem State.workOn_hold {s : State} (h : s.hold = true) (b : Bool) : s.workOn b = s := if_pos (by rw [h]; rfl)

/-! ### The tick of a die -/

/-- The cycles up to the tick have passed (R202). -/
def State.atNext (s : State) : State := { s with frm := s.frm.passTo s.frm.next.toNat }

theorem State.fenceStep_none {s : State} (h : s.ds.pulse = none) : s.fenceStep = s := by rw [State.fenceStep, h]

theorem exec_tick {s : State} {mv : BitVec 10} {temp : Int} (ht : s.timerRuns = true) (hp : s.ds.pulse = none) : exec (.tick mv temp) s =
    .next (if s.die = .ready then s.atNext.tickReady mv temp else { s.atNext with frm := s.atNext.frm.tick (s.ds.role = 2) }) := by
  have hstep : s.atNext.fenceStep = s.atNext := State.fenceStep_none hp
  show Host.Outcome.next (if !s.timerRuns then s else _) = _
  rw [ht]
  show Host.Outcome.next (if s.die = .ready then s.atNext.fenceStep.tickReady mv temp else { s.atNext.fenceStep with frm := s.atNext.fenceStep.frm.tick (s.ds.role = 2) }) = _
  rw [hstep]

/-! ### What the opened frame shows -/

theorem State.opened_frm (s : State) (mv : BitVec 10) (temp : Int) : (s.opened mv temp).frm = s.frm.tick (s.ds.role = 2) := rfl

theorem State.opened_vddMv (s : State) (mv : BitVec 10) (temp : Int) : (s.opened mv temp).pwr.vddMv = mv := rfl

/-- JUMPS of a channel starts anew with the frame (R203, R212). -/
def Chan.newFrame (c : Chan) : Chan := { c with jumps := 0 }

/-- No bound is placed on a core as the frame opens (R212). -/
def Core.newFrame (c : Core) : Core := { c with placed := 0 }

/-- The alerts, the spent budget and the gate schedule of a port start anew with the frame (R203, R214, R358). -/
def Port.newFrame (q : Port) (gateStart : Bool) : Port :=
  { q with bspent := [], alerts := 0, alertMasked := false, gate := if gateStart then 0 else q.gate }

theorem State.opened_chans (s : State) (mv : BitVec 10) (temp : Int) : (s.opened mv temp).chans = s.chans.mapVals fun _ c => c.newFrame := rfl

theorem State.opened_cores (s : State) (mv : BitVec 10) (temp : Int) : (s.opened mv temp).cores = s.cores.mapVals fun _ c => c.newFrame := rfl

theorem State.opened_waits {s : State} (h : s.hawk.waits = []) (mv : BitVec 10) (temp : Int) : (s.opened mv temp).hawk.waits = [] :=
  List.map_eq_nil_iff.mpr h

theorem State.opened_chan (s : State) (mv : BitVec 10) (temp : Int) (ch : Nat) : (s.opened mv temp).chan ch = { s.chan ch with jumps := 0 } := by
  rw [State.chan, State.opened_chans]
  exact Table.get_mapVals Chan.newFrame s.chans {} ch

theorem State.opened_placed (s : State) (mv : BitVec 10) (temp : Int) (k : Nat) : ((s.opened mv temp).core k).placed = 0 := by
  rw [State.core, State.opened_cores]
  exact congrArg Core.placed (Table.get_mapVals Core.newFrame s.cores {} k)

theorem State.opened_hawk {s : State} (h : s.hawk.waits = []) (mv : BitVec 10) (temp : Int) : (s.opened mv temp).hawk = s.hawk := by
  have hall : (s.opened mv temp).hawk = { s.hawk with waits := (s.opened mv temp).hawk.waits } := rfl
  rw [hall, State.opened_waits h, ← h]

theorem State.opened_port {s : State} {mv : BitVec 10} {temp : Int} {e : Nat × Port} (he : e ∈ (s.opened mv temp).ports) :
    ∃ q, (e.1, q) ∈ s.ports ∧ ∃ g, e.2 = q.newFrame g := by
  obtain ⟨⟨k, q1⟩, hq1, rfl⟩ := List.mem_map.mp he
  obtain ⟨⟨j, q⟩, hq, heq⟩ := List.mem_map.mp hq1
  cases heq
  exact ⟨q, hq, _, rfl⟩

theorem State.opened_mem_chans {s : State} {mv : BitVec 10} {temp : Int} {e : Nat × Chan} (he : e ∈ (s.opened mv temp).chans) :
    ∃ c, (e.1, c) ∈ s.chans ∧ e.2 = c.newFrame := by
  obtain ⟨⟨k, c⟩, hc, rfl⟩ := List.mem_map.mp he
  exact ⟨c, hc, rfl⟩

/-- The frame timer as a tick leaves it, but for the pin of FRAME_SYNC. -/
theorem Follows.frm {s t : State} (h : Follows s t) : t.frm = { s.frm with syncPin := t.frm.syncPin } := by
  conv_lhs => rw [h.rest]

theorem Follows.chan {s t : State} (h : Follows s t) (ch : Nat) : t.chan ch = s.chan ch := by
  rw [State.chan, h.chans]
  rfl

theorem Follows.noneWait {s t : State} (h : Follows s t) (hn : s.noneWait) : t.noneWait := by
  rw [State.noneWait, h.hawk, h.chans]
  exact hn

theorem Follows.noUnitReady {s t : State} (h : Follows s t) (hn : NoUnitReady s) : NoUnitReady t := by
  rw [NoUnitReady, h.kmd, h.chans]
  exact hn

/-- With nothing parked, ready or received only reads of admin packets and of queues follow the opening of a frame. -/
structure Idle (s : State) : Prop where
  waits : s.noneWait
  units : NoUnitReady s
  parked : ∀ e ∈ s.chans, e.2.parked = false
  ports : ∀ e ∈ s.ports, e.2.buf = [] ∧ e.2.readers = []

theorem Idle.workOn {s : State} (h : Idle s) (b : Bool) : s.workOn b = s := State.workOn_none h.waits h.units h.parked h.ports b

theorem Idle.follows {s t : State} (h : Idle s) (hf : Follows s t) : Idle t where
  waits := hf.noneWait h.waits
  units := hf.noUnitReady h.units
  parked := by rw [hf.chans]; exact h.parked
  ports := by rw [hf.ports]; exact h.ports

/-- A frame that opens makes nothing wait, ready or received (R203). -/
theorem Idle.opened {s : State} (h : Idle s) (mv : BitVec 10) (temp : Int) : Idle (s.opened mv temp) where
  waits := by
    refine ⟨by rw [State.opened_hawk h.waits.1]; exact h.waits.1, fun e he hp => ?_⟩
    obtain ⟨c, hc, heq⟩ := State.opened_mem_chans he
    rw [heq] at hp ⊢
    exact h.waits.2 _ hc hp
  units := by
    refine ⟨fun e he => ?_, h.units.2⟩
    obtain ⟨c, hc, heq⟩ := State.opened_mem_chans he
    rw [heq]
    exact h.units.1 _ hc
  parked := fun e he => by
    obtain ⟨c, hc, heq⟩ := State.opened_mem_chans he
    rw [heq]
    exact h.parked _ hc
  ports := fun e he => by
    obtain ⟨q, hq, g, heq⟩ := State.opened_port he
    rw [heq]
    exact h.ports _ hq

theorem State.markDip_none {s : State} (h : s.hold = false) : s.markDip = s := if_neg (by rw [h]; decide)

theorem State.timerRuns_ready {s : State} (h : s.die = .ready) : s.timerRuns = true := by rw [State.timerRuns, h]

/-- A tick out of Hold and out of a pair, with no change due and nothing to go on with: the frame opens (R202, R203). -/
theorem exec_tick_idle {s : State} {mv : BitVec 10} {temp : Int} (hp : s.ds.pulse = none) (hd : s.die = .ready) (hcool : temp < tempTrip)
    (hc : s.commits = []) (ha : s.aq.cmds = []) (hr : s.ds.role = 0) (ht : s.ds.taking = false) (hh : s.hold = false) (hi : Idle s) :
    ∃ t, exec (.tick mv temp) s = .next t ∧ Follows (s.atNext.opened mv temp) t := by
  obtain ⟨u, b, hu, htick⟩ := State.tickReady_opens (s := s.atNext) (mv := mv) hd hcool hc hr (fun h => absurd (ht.symm.trans h) (by decide))
    (fun h => absurd (hh.symm.trans h) (by decide))
  have hfree : (s.atNext.opened mv temp).markDip = s.atNext.opened mv temp := State.markDip_none hh
  rw [hfree] at hu
  have hat : Idle s.atNext := ⟨hi.waits, hi.units, hi.parked, hi.ports⟩
  have hidle : Idle u := (hat.opened mv temp).follows hu
  refine ⟨u.aqKick, ?_, hu.trans (State.aqKick_follows (hu.cmds.trans ha))⟩
  rw [exec_tick (State.timerRuns_ready hd) hp, if_pos hd, htick, hidle.workOn]

/-- A tick in Hold whose condition is still there: the frame opens, DIPPED (R209, R415). -/
theorem exec_tick_hold {s : State} {mv : BitVec 10} {temp : Int} (hp : s.ds.pulse = none) (hd : s.die = .ready) (hcool : temp < tempTrip)
    (hc : s.commits = []) (ha : s.aq.cmds = []) (hr : s.ds.role = 0) (hh : s.hold = true) (hw : s.pwr.warns = true) :
    ∃ t, exec (.tick mv temp) s = .next t ∧ Follows (s.atNext.opened mv temp).markDip t := by
  obtain ⟨u, b, hu, htick⟩ := State.tickReady_opens (s := s.atNext) (mv := mv) hd hcool hc hr (fun _ => hh) (fun _ => hw)
  have huh : u.hold = true := hu.hold.trans ((State.markDip_hold _).trans hh)
  have hcmds : u.aq.cmds = [] := hu.cmds.trans (by rw [State.markDip_aq]; exact ha)
  refine ⟨u.aqKick, ?_, hu.trans (State.aqKick_follows hcmds)⟩
  rw [exec_tick (State.timerRuns_ready hd) hp, if_pos hd, htick, State.workOn_hold huh]

/-! ### The thermal trip, and a die that is halted (R194, R495) -/

/-- At the trip temperature the die halts: programs, queues and memory stay where they are (R194, R495). -/
theorem exec_tick_trip {s : State} {mv : BitVec 10} {temp : Int} (hp : s.ds.pulse = none) (hd : s.die = .ready) (htrip : tempTrip ≤ temp) :
    ∃ t, exec (.tick mv temp) s = .next t ∧ t.die = .halted ∧ t.mem = s.mem ∧ t.chans = s.chans ∧ t.queues = s.queues := by
  obtain ⟨u, hu⟩ : ∃ u : State, u = ({ s.atNext with frm := s.atNext.frm.tick (s.ds.role = 2) } : State).measure mv temp := ⟨_, rfl⟩
  have htick : s.atNext.tickReady mv temp = u.trip := by
    rw [hu]
    exact if_pos htrip
  have hu0 : u.die = s.die ∧ u.mem = s.mem ∧ u.chans = s.chans ∧ u.queues = s.queues := by
    rw [hu]
    exact ⟨rfl, rfl, rfl, rfl⟩
  clear hu
  obtain ⟨hdie, hmem, hchans, hqueues⟩ := hu0
  have hrec := State.journalRec_recorded { u with pwr := { u.pwr with goodLost := true } } stUnitFault false false false midFwc 0
  obtain ⟨v, hv⟩ : ∃ v, v = ({ u with pwr := { u.pwr with goodLost := true } } : State).journalRec stUnitFault false false false midFwc 0 := ⟨_, rfl⟩
  have htrips : u.trip = v.haltDie := by rw [hv]; rfl
  rw [← hv] at hrec
  clear hv
  obtain ⟨hrest, -⟩ := hrec
  have hleaves : v.HaltLeaves v.haltDie := State.haltDie_leaves (by rw [hrest]; show u.die ≠ .halted; rw [hdie, hd]; decide)
  refine ⟨v.haltDie, ?_, hleaves.die, ?_, ?_, ?_⟩
  · rw [exec_tick (State.timerRuns_ready hd) hp, if_pos hd, htick, htrips]
  · rw [hleaves.frame, hrest]
    exact hmem
  · rw [hleaves.frame, hrest]
    exact hchans
  · rw [hleaves.frame, hrest]
    exact hqueues

/-- A halted die whose start was complete opens frames with its timer alone (R194, R202). -/
theorem exec_tick_halted {s : State} {mv : BitVec 10} {temp : Int} (hp : s.ds.pulse = none) (hd : s.die = .halted) (hst : s.prm.st = 1) :
    exec (.tick mv temp) s = .next { s with frm := s.atNext.frm.tick (s.ds.role = 2) } := by
  have ht : s.timerRuns = true := by
    rw [State.timerRuns, hd]
    exact decide_eq_true hst
  rw [exec_tick ht hp, if_neg (by rw [hd]; decide)]
  rfl

/-- The cycles up to the tick change neither what is due at it nor the counts that it moves on (R201, R202). -/
theorem State.atNext_frm (s : State) : s.atNext.frm.stepDue = s.frm.stepDue ∧ s.atNext.frm.stepMark = s.frm.stepMark ∧ s.atNext.frm.next = s.frm.next ∧
    s.atNext.frm.frame = s.frm.frame ∧ s.atNext.frm.periodAct = s.frm.periodAct ∧ s.atNext.frm.dippedN = s.frm.dippedN := by
  have h := Frm.passTo_eq s.frm s.frm.next.toNat
  unfold State.atNext
  rw [h]
  exact ⟨rfl, rfl, rfl, rfl, rfl, rfl⟩

theorem State.atNext_time {s : State} (standby : Bool) (h : s.frm.stepDue = none) : (s.atNext.frm.tick standby).time =
    BitVec.ofNat 64 (max (s.frm.passTo s.frm.next.toNat).time.toNat s.frm.next.toNat) := by
  obtain ⟨hdue, -, hnext, -⟩ := s.atNext_frm
  rw [Frm.tick_time (hdue.trans h), hnext]
  rfl

theorem State.atNext_frame (s : State) (standby : Bool) : (s.atNext.frm.tick standby).frame = s.frm.frame + 1 := by
  obtain ⟨-, -, -, hframe, -⟩ := s.atNext_frm
  exact congrArg (· + 1) hframe

theorem State.atNext_next {s : State} (h : s.frm.stepDue = none) (hm : s.frm.stepMark = false) : (s.atNext.frm.tick false).next =
    BitVec.ofNat 64 (tickAfter (max (s.frm.passTo s.frm.next.toNat).time.toNat s.frm.next.toNat) s.frm.periodAct.toNat) := by
  obtain ⟨hdue, hmark, hnext, -, hperiod, -⟩ := s.atNext_frm
  rw [Frm.tick_next (hdue.trans h) (hmark.trans hm), hnext, hperiod]
  rfl

theorem State.atNext_opened_chan (s : State) (mv : BitVec 10) (temp : Int) (ch : Nat) :
    (s.atNext.opened mv temp).chan ch = { s.chan ch with jumps := 0 } := by
  have hsame : s.atNext.chan ch = s.chan ch := rfl
  rw [State.opened_chan, hsame]

/-- The blocks that a tick does not touch. -/
abbrev State.besideTick (s : State) := (s.hold, s.mem, s.ledger, s.mbxs, s.sems, s.kmd, s.prm)

theorem Follows.besideTick {s t : State} (h : Follows s t) : t.besideTick = s.besideTick := by
  rw [h.rest]

theorem State.opened_besideTick (s : State) (mv : BitVec 10) (temp : Int) : (s.opened mv temp).besideTick = s.besideTick := by
  simp only [State.besideTick, State.opened, State.reload, State.reloadBudgets, State.measure]

theorem State.atNext_besideTick (s : State) : s.atNext.besideTick = s.besideTick := by
  simp only [State.besideTick, State.atNext]

/-- A frame in Hold is marked DIPPED and counted (R209). -/
theorem State.markDip_marks {s : State} (h : s.hold = true) :
    s.markDip.frm = { s.frm with flags := s.frm.flags ||| 1, dippedN := satInc s.frm.dippedN } ∧ s.markDip.pwr.dipFrames = s.pwr.dipFrames + 1 ∧
      s.markDip.chans = s.chans ∧ s.markDip.besideTick = s.besideTick := by
  rw [State.markDip, if_pos h]
  exact ⟨rfl, rfl, rfl, rfl⟩

theorem Follows.core {s t : State} (h : Follows s t) (k : Nat) : t.core k = s.core k := by
  rw [State.core, h.rest]
  rfl

theorem Follows.vddMv {s t : State} (h : Follows s t) : t.pwr.vddMv = s.pwr.vddMv := by rw [h.pwr.1]

theorem Follows.dipFrames {s t : State} (h : Follows s t) : t.pwr.dipFrames = s.pwr.dipFrames := by rw [h.pwr.1]

theorem State.opened_frm_alone {s : State} (h : s.ds.role = 0) (mv : BitVec 10) (temp : Int) : (s.opened mv temp).frm = s.frm.tick false := by
  rw [State.opened_frm, h]
  rfl

/-- Settles O30: below the trip and with nothing to change the tick opens the frame, and only what Follows names comes after it. -/
theorem tickOpensTheNextFrame : Obligations.TickOpensTheNextFrame := by
  rintro s mv temp _ rfl hp
  refine ⟨fun hd hcool hc ha hr _ ht hh hstep hmark hn hu hpark hports => ?_, fun hd hcool hc ha hr hh hw => ?_, fun hd htrip => exec_tick_trip hp hd htrip,
    fun hd hst => ⟨_, exec_tick_halted hp hd hst, s.atNext_frame _, fun hstep => State.atNext_time _ hstep, rfl⟩⟩
  · obtain ⟨t, hrun, hf⟩ := exec_tick_idle (mv := mv) hp hd hcool hc ha hr ht hh ⟨hn, hu, hpark, hports⟩
    have hfrm := hf.frm
    rw [State.opened_frm_alone (s := s.atNext) hr] at hfrm
    have hbeside := hf.besideTick.trans ((s.atNext.opened_besideTick mv temp).trans s.atNext_besideTick)
    simp only [State.besideTick, Prod.mk.injEq] at hbeside
    obtain ⟨hhold, hbeside⟩ := hbeside
    exact ⟨t, hrun, by rw [hfrm]; exact s.atNext_frame false, by rw [hfrm]; exact State.atNext_time false hstep,
      by rw [hfrm]; exact State.atNext_next hstep hmark, fun ch => (hf.chan ch).trans (s.atNext_opened_chan mv temp ch),
      fun k => (congrArg Core.placed (hf.core k)).trans (s.atNext.opened_placed mv temp k), hf.vddMv.trans (s.atNext.opened_vddMv mv temp), hhold.trans hh,
      hf.hawk.trans (State.opened_hawk (s := s.atNext) hn.1 mv temp), hbeside⟩
  · obtain ⟨t, hrun, hf⟩ := exec_tick_hold (mv := mv) hp hd hcool hc ha hr hh hw
    obtain ⟨hmarks, hdips, hchans, hbeside⟩ := State.markDip_marks (s := s.atNext.opened mv temp) hh
    have hfrm := hf.frm
    rw [hmarks, State.opened_frm_alone (s := s.atNext) hr] at hfrm
    have hbeside := hf.besideTick.trans (hbeside.trans ((s.atNext.opened_besideTick mv temp).trans s.atNext_besideTick))
    simp only [State.besideTick, Prod.mk.injEq] at hbeside
    obtain ⟨hhold, hmem, -⟩ := hbeside
    obtain ⟨-, -, -, -, -, hdipped⟩ := s.atNext_frm
    exact ⟨t, hrun, by rw [hfrm]; exact s.atNext_frame false, by rw [hfrm]; exact bitOf_or_pow _ (b := 0) (by decide), by rw [hfrm]; exact congrArg satInc hdipped,
      hf.dipFrames.trans hdips, hhold.trans hh, hmem, fun ch => by rw [hf.chan, State.chan, hchans]; exact s.atNext_opened_chan mv temp ch⟩

end Sys2Proof.Machine
end

section
/-! PROOFS. Stalls, interrupts, recovery and migration of contexts (R191, R243, R284, R290, R291, R443), and O55. -/

namespace Sys2Proof.Machine
open Sys2Proof

section Arranged

variable {s : State} {core k : Nat} {c x : Ctx}

/-! ### A context that may be HELD -/

/-- The context stands as c does, whether it may go on now or is HELD until it may (R212, R287). -/
structure Ctx.StandsAs (x c : Ctx) : Prop where
  same : x = { c with st := x.st, heldFrom := x.heldFrom, block := x.block, markTime := x.markTime, markCycle := x.markCycle }
  st : x.st = .ready ∨ (x.st = .held ∧ x.heldFrom = .ready)

theorem Ctx.StandsAs.refl (h : c.st = .ready) : c.StandsAs c := ⟨rfl, .inl h⟩

theorem Ctx.StandsAs.base (h : x.StandsAs c) : x.base = .ready := by
  unfold Ctx.base
  obtain hst | ⟨hst, hfrom⟩ := h.st
  · rw [hst, if_neg (by decide)]
  · rw [if_pos hst, hfrom]

theorem Ctx.StandsAs.not_waiting (h : x.StandsAs c) : x.st ≠ .waiting := by
  obtain hst | ⟨hst, -⟩ := h.st
  · rw [hst]
    decide
  · rw [hst]
    decide

/-- The end of a wait or of a spell in HELD leaves a context that waits for nothing as it is (R258). -/
theorem State.passWait_ctx (h : (s.ctx core k).st ≠ .waiting) : (s.passWait core k).ctx core k = s.ctx core k := by
  unfold State.passWait
  dsimp only
  split
  next hst => exact absurd hst h
  next => exact s.ctx_setNow core k _ k
  next => rfl

theorem State.holdCtx_standsAs (h : (s.ctx core k).StandsAs c) : ((s.holdCtx core k).ctx core k).StandsAs c := by
  have hpass := State.passWait_ctx h.not_waiting
  obtain ⟨hsame, hst | ⟨hst, hfrom⟩⟩ := id h
  · unfold State.holdCtx
    dsimp only
    rw [if_pos (.inl hst)]
    split
    · rw [State.mark, State.ctx_updCtx, State.ctx_updCtx, hpass]
      refine ⟨?_, .inr ⟨rfl, hst⟩⟩
      rw [hsame]
    · exact h
  · unfold State.holdCtx
    dsimp only
    rw [if_neg (by rw [hst]; decide)]
    split
    · rw [State.mark, State.ctx_updCtx, State.ctx_updCtx, hpass]
      refine ⟨?_, .inl hfrom⟩
      rw [hsame]
    · exact h

/-- Arranging its core leaves a context that may go on as it stands, or HELD (R212, R287). -/
theorem State.arrange_standsAs (h : (s.ctx core k).StandsAs c) : ((s.arrange core).ctx core k).StandsAs c :=
  State.arrange_ctx (P := fun x => x.StandsAs c) (fun u hu => by
    have hhold := State.holdCtx_standsAs hu
    rw [State.wfeWake_of_not_waiting hhold.not_waiting]
    exact hhold) h

/-! ### The cycles of a core -/

theorem State.setNow_now_le {n : Nat} (h : s.now core k ≤ n) (j : Nat) : s.now core j ≤ (s.setNow core k n).now core j := by
  unfold State.now at *
  unfold State.setNow
  rw [State.updCore_def, State.core_setCore]
  cases hk : ownSlot core k
  · rw [hk] at h
    cases ownSlot core j
    · exact h
    · exact le_rfl
  · rw [hk] at h
    cases ownSlot core j
    · exact le_rfl
    · exact h

theorem State.now_setCtx (s : State) (core k j : Nat) (c : Ctx) : (s.setCtx core k c).now core j = s.now core j := by
  unfold State.now State.setCtx
  rw [State.updCore_def, State.core_setCore]

theorem State.now_updCtx (s : State) (core k j : Nat) (f : Ctx → Ctx) : (s.updCtx core k f).now core j = s.now core j := s.now_setCtx core k j _

theorem State.now_setNow (s : State) (core k n : Nat) : (s.setNow core k n).now core k = n := by
  unfold State.now State.setNow
  rw [State.updCore_def, State.core_setCore]
  split <;> rfl

theorem State.passWait_now_le (s : State) (core k j : Nat) : s.now core j ≤ (s.passWait core k).now core j := by
  have hwait : s.now core k ≤ s.waitedTo core k := le_max_left _ _
  unfold State.passWait
  dsimp only
  split
  · rw [State.now_updCtx]
    exact State.setNow_now_le hwait j
  · exact State.setNow_now_le hwait j
  · exact le_rfl

/-- Arranging a core never takes its cycles back (R258). -/
theorem State.arrange_now_le (s : State) (core j : Nat) : s.now core j ≤ (s.arrange core).now core j := by
  refine State.each_induction (P := fun u => s.now core j ≤ u.now core j) _ le_rfl fun u i hu => ?_
  have hhold : u.now core j ≤ (u.holdCtx core i).now core j := by
    unfold State.holdCtx
    dsimp only
    split
    · split
      · rw [State.mark, State.now_updCtx, State.now_updCtx]
        exact u.passWait_now_le core i j
      · exact le_rfl
    · split
      · rw [State.mark, State.now_updCtx, State.now_updCtx]
        exact u.passWait_now_le core i j
      · exact le_rfl
  have hwake : (u.holdCtx core i).now core j ≤ ((u.holdCtx core i).wfeWake core i).now core j := by
    unfold State.wfeWake
    dsimp only
    split
    · rw [State.now_updCtx]
      exact State.passWait_now_le _ core i j
    · exact le_rfl
  exact hu.trans (hhold.trans hwake)

/-! ### The end of a stall (R243, R273) -/

theorem Ctx.spend_left (c : Ctx) (n : Nat) : (c.spend n).left = if c.run.isSome && !c.inInt then c.left - n else c.left := by
  unfold Ctx.spend
  split <;> rfl

theorem Ctx.spend_pc (c : Ctx) (n : Nat) : (c.spend n).pc = c.pc := by
  unfold Ctx.spend
  split <;> rfl

theorem runs_coreReadComplete {cycles : Nat} (hst : (s.ctx core k).st = .stalled) (hw : (s.ctx core k).wait = .nothing) (hd : s.die = .ready) :
    Runs (.coreReadComplete core k cycles) s fun t => (t.ctx core k).base = .ready ∧
      (t.ctx core k).left = (if (s.ctx core k).run.isSome && !(s.ctx core k).inInt then (s.ctx core k).left - cycles else (s.ctx core k).left) ∧
      (t.ctx core k).pc = (s.ctx core k).pc ∧ max (s.now core k) ((s.ctx core k).stallEnd + cycles) ≤ t.now core k ∧
      t = { s with cores := t.cores } := by
  obtain ⟨n, hn⟩ : ∃ n, n = max (s.now core k) ((s.ctx core k).stallEnd + cycles) := ⟨_, rfl⟩
  obtain ⟨d, hdef⟩ : ∃ d : Ctx, d = (s.ctx core k).shiftStale (s.ctx core k).stallAt cycles := ⟨_, rfl⟩
  obtain ⟨u, hu⟩ : ∃ u, u = ((s.setCtx core k { d.spend cycles with st := .ready }).setNow core k n).mark core k := ⟨_, rfl⟩
  have hrun : exec (.coreReadComplete core k cycles) s = .next (u.arrange core) := by
    refine congrArg Host.Outcome.next ((if_neg (by rw [hst, hd]; decide)).trans ?_)
    rw [hw, if_pos rfl, hu, hdef, hn]
  have hstands : (u.ctx core k).StandsAs { d.spend cycles with st := .ready } := by
    rw [hu, State.mark, State.ctx_updCtx, State.ctx_setNow, State.ctx_setCtx]
    exact ⟨rfl, .inl rfl⟩
  have hnow : u.now core k = n := by rw [hu, State.mark, State.now_updCtx, State.now_setNow]
  have hcores : CoresOnly s u := by
    rw [hu]
    exact ⟨_, rfl⟩
  have hdc : d.left = (s.ctx core k).left ∧ d.run = (s.ctx core k).run ∧ d.inInt = (s.ctx core k).inInt ∧ d.pc = (s.ctx core k).pc := by
    rw [hdef]
    exact ⟨rfl, rfl, rfl, rfl⟩
  obtain ⟨hleft, hrunsame, hint, hpc⟩ := hdc
  have harr := State.arrange_standsAs hstands
  obtain ⟨cs, hall⟩ := hcores.trans (u.arrange_coresOnly core)
  refine ⟨u.arrange core, hrun, harr.base, ?_, ?_, ?_, by rw [hall]⟩
  · rw [harr.same]
    show (d.spend cycles).left = _
    rw [Ctx.spend_left, hleft, hrunsame, hint]
  · rw [harr.same]
    exact (d.spend_pc cycles).trans hpc
  · rw [← hn, ← hnow]
    exact u.arrange_now_le core k

/-! ### A Cornice core that is not recovered in time (R191) -/

theorem runs_corniceLockTimeout {tile ch f : Nat} {l : List Nat} (ht : tile < 8) (hlock : s.locked (64 + tile) = true) (hd : s.die = .ready)
    (hf : (s.core (64 + tile)).lockFrames = f :: l) (hlate : f + 4 ≤ s.frm.frame.toNat) (hin : (s.chan ch).inRun = false) (hq : EndsQuietly s ch)
    (hall : (s.chans.filter fun e => tileOfCh e.1 == tile && e.2.running).map (·.1) = [ch]) :
    Runs (.corniceLockTimeout tile) s fun t => (t.chan ch).st = .error ∧ (t.chan ch).lastStatus = stUnitFault ∧ ProgramOf s t ch := by
  obtain ⟨hg, hh, hn, hw, hfence, hl, -⟩ := hq
  have hdrop : s.dropRun ch = s := by
    unfold State.dropRun
    dsimp only
    rw [hin]
    rfl
  have hfault : s.tileFault tile = s.failAt ch stUnitFault 0 := by
    unfold State.tileFault
    rw [hall]
    show (s.dropRun ch).failAt ch stUnitFault 0 = _
    rw [hdrop]
  obtain ⟨y, hy, hover⟩ := State.failAt_over (code := stUnitFault) 0 hg hh hl hfence hw
  rw [hn.1, List.filter_nil] at hy
  have hserved : (s.failAt ch stUnitFault 0).served = s.failAt ch stUnitFault 0 :=
    State.served_of_noneWait (hy.noneWait hn fun hp => absurd (hover.parked.symm.trans hp) (by decide))
  refine ⟨s.failAt ch stUnitFault 0, ?_, ?_, ?_, hy.prog⟩
  · have hexec : exec (.corniceLockTimeout tile) s = .next (s.tileFault tile).served := by
      show execCorniceLockTimeout tile s = _
      unfold execCorniceLockTimeout
      rw [hf]
      exact congrArg Host.Outcome.next (if_pos ⟨ht, hlock, hd, hlate⟩)
    rw [hexec, hfault, hserved]
  · rw [hy.chan]
    exact hover.st
  · rw [hy.chan]
    exact hover.lastStatus

/-! ### Bits of a core (R289, R442) -/

theorem bitOf_withBit_false {w : Nat} (x : BitVec w) (i : Nat) : bitOf (withBit x i false) i = false := by
  unfold bitOf withBit
  rw [if_neg Bool.false_ne_true, BitVec.getLsbD_and, BitVec.getLsbD_not, BitVec.getLsbD_ofNat, Nat.testBit_two_pow_self]
  cases decide (i < w) <;> simp

theorem State.frozen_setFreeze (s : State) (core : Nat) : (s.setFreeze core false).frozen core = false := by
  unfold State.frozen State.setFreeze
  split
  · exact bitOf_withBit_false _ _
  · exact bitOf_withBit_false _ _

/-- What the lock bits and the freeze bits are read from. -/
theorem State.coreBits_congr {s t : State} (h : t.gctl = s.gctl) (core : Nat) : t.locked core = s.locked core ∧ t.frozen core = s.frozen core := by
  unfold State.locked State.frozen
  rw [h]
  exact ⟨rfl, rfl⟩

/-- A lock bit that clears leaves the freeze bits (R289). -/
theorem State.setLock_leaves (s : State) (core : Nat) : (s.setLock core false).locked core = false ∧ (s.setLock core false).frozen core = s.frozen core ∧
    (s.setLock core false).jseq = s.jseq ∧ (s.setLock core false).cores = s.cores ∧ (s.setLock core false).chans = s.chans ∧
    (s.setLock core false).hawk = s.hawk := by
  obtain ⟨u, hu⟩ : ∃ u : State, u = { s with gctl := if core < 64 then { s.gctl with coreLock := withBit s.gctl.coreLock core false }
      else { s.gctl with crnLock := withBit s.gctl.crnLock (core - 64) false } } := ⟨_, rfl⟩
  have hset : s.setLock core false = u.lockLine := by rw [hu]; rfl
  have hline : Signals u u.lockLine := (u.setLine_stirs _ _).1
  obtain ⟨hlocked, hfrozen⟩ := State.coreBits_congr hline.gctl core
  rw [hset, hlocked, hfrozen, hline]
  refine ⟨?_, ?_, by rw [hu], by rw [hu], by rw [hu], by rw [hu]⟩
  · rw [hu]
    unfold State.locked
    split
    · exact bitOf_withBit_false _ _
    · exact bitOf_withBit_false _ _
  · rw [hu]
    unfold State.frozen
    split
    · rfl
    · rfl

/-! ### Out of service (R291) -/

theorem State.leaveOut_trowel (lt : core < 64) (hn : s.noneWait) : s.leaveOut core = s.updCore core fun c => { c with out := true } := by
  unfold State.leaveOut
  rw [if_pos lt]
  exact State.served_of_noneWait hn

/-- A core that stays out of service keeps its bits, and the others keep what they have (R291). -/
theorem State.leaveOut_leaves {u : State} (hn : u.noneWait) (lt : core < 64) : (((u.leaveOut core).core core).out = true) ∧ (u.leaveOut core).gctl = u.gctl ∧
    (u.leaveOut core).jseq = u.jseq ∧ ∀ n, n ≠ core → (u.leaveOut core).core n = u.core n := by
  rw [State.leaveOut_trowel lt hn]
  refine ⟨?_, rfl, rfl, fun n hne => State.core_setCore_ne u core n _ hne⟩
  rw [State.updCore_def, State.core_setCore]

theorem exec_coreRecoveryComplete (lt : core < 72) (hlock : s.locked core = true) (hout : (s.core core).out = false) (hd : s.die = .ready) (ok : Bool) :
    exec (.coreRecoveryComplete core ok) s = .next (if s.thirdLock core then s.leaveOut core else if ok then s.recoverCore core
      else (s.journalRec stCoreLockup false false false midFwc (s.lockPayload core true)).leaveOut core) := by
  refine congrArg Host.Outcome.next (if_neg ?_)
  rw [hlock, hout, hd, decide_eq_false (by omega)]
  decide

theorem runs_coreRecoveryFails {ok : Bool} (lt : core < 64) (hlock : s.locked core = true) (hout : (s.core core).out = false) (hd : s.die = .ready)
    (hn : s.noneWait) (hbad : ok = false ∨ 3 ≤ (s.core core).lockFrames.length) :
    Runs (.coreRecoveryComplete core ok) s fun t => (t.core core).out = true ∧ t.locked core = true ∧ t.frozen core = s.frozen core ∧
      t.jseq = (if (s.core core).lockFrames.length < 3 then s.jseq + 1 else s.jseq) ∧ (∀ n, n ≠ core → t.core n = s.core n) := by
  have hexec := exec_coreRecoveryComplete (by omega : core < 72) hlock hout hd ok
  by_cases hthird : 3 ≤ (s.core core).lockFrames.length
  · rw [State.thirdLock, decide_eq_true hthird, if_pos rfl] at hexec
    obtain ⟨hleft, hgctl, hjseq, hothers⟩ := State.leaveOut_leaves hn lt
    obtain ⟨hlocked, hfrozen⟩ := State.coreBits_congr hgctl core
    exact ⟨_, hexec, hleft, hlocked.trans hlock, hfrozen, by rw [if_neg (by omega), hjseq], hothers⟩
  · rw [State.thirdLock, decide_eq_false hthird, if_neg Bool.false_ne_true, hbad.resolve_right hthird, if_neg Bool.false_ne_true] at hexec
    obtain ⟨u, hu⟩ : ∃ u, u = s.journalRec stCoreLockup false false false midFwc (s.lockPayload core true) := ⟨_, rfl⟩
    have hrec : Recorded s u := hu ▸ s.journalRec_recorded _ _ _ _ _ _
    have hseq : u.jseq = s.jseq + 1 := by rw [hu]; rfl
    rw [← hu] at hexec
    obtain ⟨hrest, -⟩ := hrec
    have hun : u.noneWait := by
      rw [hrest]
      exact hn
    obtain ⟨hleft, hgctl, hjseq, hothers⟩ := State.leaveOut_leaves (core := core) hun lt
    obtain ⟨hlocked, hfrozen⟩ := State.coreBits_congr (hgctl.trans (by rw [hrest] : u.gctl = s.gctl)) core
    have hcore : ∀ n, u.core n = s.core n := fun n => by
      rw [State.core, hrest]
      rfl
    exact ⟨_, hbad.resolve_right hthird ▸ hexec, hleft, hlocked.trans hlock, hfrozen, by rw [if_pos (by omega), hjseq, hseq],
      fun n hne => (hothers n hne).trans (hcore n)⟩

/-! ### Recovery (R290) -/

theorem State.sendSlices_ds (s : State) : s.sendSlices = { s with ds := s.sendSlices.ds } := by
  unfold State.sendSlices
  split
  · rfl
  · refine State.each_induction (P := fun t => t = { s with ds := t.ds }) _ rfl fun t tile ht => ?_
    have hsent : (t.each (t.ledger.filter fun e => tileOfCh e.2.ch = tile) fun s e => s.dsSend .ledger false (.bytes e.2.bytes)) =
        { s with ds := (t.each (t.ledger.filter fun e => tileOfCh e.2.ch = tile) fun s e => s.dsSend .ledger false (.bytes e.2.bytes)).ds } :=
      State.each_induction (P := fun v => v = { s with ds := v.ds }) _ ht fun v e hv => by
        unfold State.dsSend
        dsimp only
        split
        · rw [hv]
        · exact hv
    dsimp only
    rw [hsent]

theorem State.routeAll_signals (s : State) : Signals s s.routeAll :=
  State.each_induction (P := Signals s) _ (Signals.refl s) fun t n h => by
    split
    · exact h
    · exact h.trans (t.route_signals n)

theorem State.releaseFor_none {t : State} (hp : ∀ e ∈ t.chans, e.2.parked = false) (p : ParkWhy → Bool) : t.releaseFor p = t := by
  have hlist : t.waitList p = [] := by
    have hnone : (t.chans.filter fun e => e.2.parked && p e.2.why) = [] := List.filter_eq_nil_iff.mpr fun e he => by simp [hp e he]
    rw [State.waitList, hnone]
    rfl
  rw [State.releaseFor, hlist]
  rfl

theorem State.openWords_loads (s : State) (base n : Nat) : ∃ m f, s.openWords base n = { s with mem := m, freeNext := f } := ⟨_, _, rfl⟩

/-- The memory of a core is made anew, with open words where its areas were (R290, R291). -/
theorem State.reload_loads (s : State) (core : Nat) :
    ∃ m f, (((s.openAreas core).loadLib core).zeroTsbs core).loadSuper core = { s with mem := m, freeNext := f } := by
  obtain ⟨m1, f1, h1⟩ := s.openWords_loads (localBase core + 2 * privWord core 0) (0x100 * ctxCount core)
  obtain ⟨m2, f2, h2⟩ := State.openWords_loads (s.openWords (localBase core + 2 * privWord core 0) (0x100 * ctxCount core))
    (localBase core + 2 * wsWord core 0) (0x38 * ctxCount core)
  have hopen : s.openAreas core = { s with mem := m2, freeNext := f2 } := by
    unfold State.openAreas
    dsimp only
    rw [h2, h1]
  rw [hopen]
  obtain ⟨u, hu⟩ : ∃ u : State, u = { s with mem := m2, freeNext := f2 } := ⟨_, rfl⟩
  rw [← hu]
  obtain ⟨m, hm⟩ := ((u.loadLib_loads core).trans (State.store_loads _ _ _)).trans (State.loadSuper_loads ((u.loadLib core).zeroTsbs core) core)
  exact ⟨m, f2, hm.trans (by rw [hu])⟩

/-- Every context of a recovered core is at its reset; the supervisor of a Cornice core starts (R262, R290). -/
theorem State.freshCtxs_ctx (s : State) (core : Nat) :
    (core < 64 → ∀ j, ((s.freshCtxs core).ctx core j).st = .free ∧ ((s.freshCtxs core).ctx core j).run = none) ∧
    (64 ≤ core → ((s.freshCtxs core).ctx core 0).st = .ready ∧ ((s.freshCtxs core).ctx core 0).pl = 1 ∧
      ∀ j, 0 < j → ((s.freshCtxs core).ctx core j).st = .free ∧ ((s.freshCtxs core).ctx core j).run = none) := by
  obtain ⟨u, hu⟩ : ∃ u, u = s.updCore core fun c => { c with ctxs := [] } := ⟨_, rfl⟩
  have hfresh : s.freshCtxs core = u.startSuper core := by rw [hu]; rfl
  have hctx : ∀ j, u.ctx core j = {} := fun j => by
    rw [hu, State.ctx, State.updCore_def, State.core_setCore]
    rfl
  rw [hfresh, State.startSuper]
  refine ⟨fun lt j => ?_, fun le => ?_⟩
  · rw [if_pos lt, hctx]
    exact ⟨rfl, rfl⟩
  · rw [if_neg (by omega), State.ctx_setCtx]
    refine ⟨rfl, rfl, fun j hj => ?_⟩
    rw [State.ctx_setCtx_ne _ _ _ _ _ (by omega), hctx]
    exact ⟨rfl, rfl⟩

theorem State.freshCtxs_core (s : State) (core : Nat) : CoresOnly s (s.freshCtxs core) ∧ ((s.freshCtxs core).core core).out = (s.core core).out ∧
    ∀ n, n ≠ core → (s.freshCtxs core).core n = s.core n := by
  have hne : ∀ (u : State) (f : Core → Core) {n : Nat}, n ≠ core → (u.updCore core f).core n = u.core n := fun u f n h => State.core_setCore_ne u core n _ h
  have heq : ∀ (u : State) (f : Core → Core), (u.updCore core f).core core = f (u.core core) := fun u f => by rw [State.updCore_def, State.core_setCore]
  unfold State.freshCtxs State.startSuper
  split
  · refine ⟨⟨_, rfl⟩, ?_, fun n h => hne _ _ h⟩
    rw [heq]
  · refine ⟨⟨_, rfl⟩, ?_, fun n h => (hne _ _ h).trans (hne _ _ h)⟩
    rw [State.setCtx, heq, heq]

/-- A recovery leaves the core thawed and unlocked, its contexts at their reset, and the other cores as they were (R290). -/
theorem State.recoverCore_leaves (s : State) (core : Nat) (hn : s.noneWait) (hp : ∀ e ∈ s.chans, e.2.parked = false) :
    ∃ v : State, v.cores = s.cores ∧ (s.recoverCore core).cores = (v.freshCtxs core).cores ∧ (s.recoverCore core).locked core = false ∧
      (s.recoverCore core).frozen core = false ∧ (s.recoverCore core).jseq = s.jseq := by
  obtain ⟨u, hu⟩ : ∃ u, u = (((s.openAreas core).loadLib core).zeroTsbs core).loadSuper core := ⟨_, rfl⟩
  obtain ⟨m, n, hload⟩ := s.reload_loads core
  rw [← hu] at hload
  obtain ⟨hlocked, hfrozen, hjseq, hcores, hchans, hhawk⟩ := (u.setFreeze core false).setLock_leaves core
  obtain ⟨v, hv⟩ : ∃ v, v = (u.setFreeze core false).setLock core false := ⟨_, rfl⟩
  rw [← hv] at hlocked hfrozen hjseq hcores hchans hhawk
  obtain ⟨⟨cs, hfresh⟩, -⟩ := v.freshCtxs_core core
  have hroute := (v.freshCtxs core).routeAll_signals
  obtain ⟨w, hw⟩ : ∃ w, w = (v.freshCtxs core).routeAll := ⟨_, rfl⟩
  rw [← hw] at hroute
  have hwchans : w.chans = s.chans := by
    rw [hroute, hfresh]
    exact hchans.trans (by rw [hload]; rfl)
  have hwhawk : w.hawk = s.hawk := by
    rw [hroute, hfresh]
    exact hhawk.trans (by rw [hload]; rfl)
  have hwn : w.noneWait := by
    rw [State.noneWait, hwchans, hwhawk]
    exact hn
  have hrec : s.recoverCore core = w.sendSlices := by
    have hserved : s.recoverCore core = (w.served.releaseFor fun x => x = .context || x = .cornice || x = .ledger).sendSlices := by
      rw [hw, hv, hu]
      rfl
    rw [hserved, State.served_of_noneWait hwn, State.releaseFor_none (by rw [hwchans]; exact hp)]
  have hgctl : w.sendSlices.gctl = v.gctl := by
    rw [w.sendSlices_ds, hroute, hfresh]
  obtain ⟨hl, hf⟩ := State.coreBits_congr hgctl core
  refine ⟨v, hcores.trans (by rw [hload]; rfl), ?_, ?_, ?_, ?_⟩
  · rw [hrec, w.sendSlices_ds, hroute]
  · rw [hrec, hl, hlocked]
  · rw [hrec, hf, hfrozen, State.frozen_setFreeze]
  · rw [hrec, w.sendSlices_ds, hroute, hfresh]
    exact hjseq.trans (by rw [hload]; rfl)

theorem runs_coreRecovers (lt : core < 72) (hlock : s.locked core = true) (hout : (s.core core).out = false) (hd : s.die = .ready) (hn : s.noneWait)
    (hp : ∀ e ∈ s.chans, e.2.parked = false) (hfew : (s.core core).lockFrames.length < 3) :
    Runs (.coreRecoveryComplete core true) s fun t => t.locked core = false ∧ t.frozen core = false ∧ t.jseq = s.jseq ∧
      (t.core core).out = false ∧ (core < 64 → ∀ j, j < 8 → (t.ctx core j).st = .free ∧ (t.ctx core j).run = none) ∧
      (64 ≤ core → (t.ctx core 0).st = .ready ∧ (t.ctx core 0).pl = 1 ∧ ∀ j, 0 < j → j < 4 → (t.ctx core j).st = .free ∧ (t.ctx core j).run = none) ∧
      (∀ n, n ≠ core → t.core n = s.core n) := by
  have hexec := exec_coreRecoveryComplete lt hlock hout hd true
  rw [State.thirdLock, decide_eq_false (by omega), if_neg Bool.false_ne_true, if_pos rfl] at hexec
  obtain ⟨v, hvcores, hcores, hlocked, hfrozen, hjseq⟩ := s.recoverCore_leaves core hn hp
  obtain ⟨-, hfreshout, hothers⟩ := v.freshCtxs_core core
  obtain ⟨htrowel, hcornice⟩ := v.freshCtxs_ctx core
  have hcore : ∀ n, (s.recoverCore core).core n = (v.freshCtxs core).core n := fun n => by rw [State.core, hcores]; rfl
  have hvcore : ∀ n, v.core n = s.core n := fun n => by rw [State.core, hvcores]; rfl
  have hctx : ∀ j, (s.recoverCore core).ctx core j = (v.freshCtxs core).ctx core j := State.ctx_congr hcores core
  refine ⟨s.recoverCore core, hexec, hlocked, hfrozen, hjseq, ?_, fun ht j _ => ?_, fun hc => ?_, fun n hne => ?_⟩
  · rw [hcore, hfreshout, hvcore]
    exact hout
  · rw [hctx]
    exact htrowel ht j
  · obtain ⟨hst, hpl, hfree⟩ := hcornice hc
    rw [hctx]
    exact ⟨hst, hpl, fun j hj _ => by rw [hctx]; exact hfree j hj⟩
  · rw [hcore, hothers n hne, hvcore]

/-! ### An interrupt is accepted (R284, R286, R331) -/

/-- A FREE context that is prepared serves the handlers that it served (R267, R284). -/
theorem State.prepareCtx_corePri (s : State) (core k : Nat) : (s.prepareCtx core k).corePri core = s.corePri core := by
  have hints : ∀ j, ((s.prepareCtx core k).ctx core j).ints = (s.ctx core j).ints := fun j => by
    by_cases hj : j = k
    · rw [hj, State.prepareCtx, State.ctx_updCtx]
      split <;> rfl
    · rw [State.prepareCtx, State.updCtx, State.ctx_setCtx_ne _ _ _ _ _ hj]
  have hint : ∀ j, ((s.prepareCtx core k).ctx core j).inInt = (s.ctx core j).inInt := fun j => by rw [Ctx.inInt, Ctx.inInt, hints]
  have hpri : ∀ j, ((s.prepareCtx core k).ctx core j).curPri = (s.ctx core j).curPri := fun j => by rw [Ctx.curPri, Ctx.curPri, hints]
  unfold State.corePri
  rw [funext hint, funext hpri]

/-- What is offered to a core does not hang on its contexts (R328). -/
theorem State.prepareCtx_offersTo (s : State) (core k : Nat) (above : Option Nat) : (s.prepareCtx core k).offersTo core above = s.offersTo core above := rfl

/-- With nothing offered there is nothing to decline, and no best offer (R284, R329). -/
theorem State.bestOffer_none {s : State} (h : s.offersTo core (s.corePri core) = []) :
    (s.declineAbsent core k).bestOffer core k ((s.declineAbsent core k).corePri core) = none := by
  have hdecline : s.declineAbsent core k = s := by
    unfold State.declineAbsent
    rw [h]
    rfl
  rw [hdecline, State.bestOffer, h]
  rfl

theorem exec_interruptAccept {n p : Nat} {s0 s1 : State} (lt : core < 72) (hl : (s.dom core).level = 0) (hok : (s.arrange core).coreOk core = true)
    (hctx : (s.arrange core).intCtx core = some k) (h0 : s0 = ((s.arrange core).prepareCtx core k).declineAbsent core k)
    (hbest : s0.bestOffer core k (s0.corePri core) = some (n, p)) (hlock : s0.entryLock core k (16 + p) = none)
    (hcommit : s0.commitOffer n (memberOfCore core) = some s1) : exec (.interruptAccept core) s =
      .next (((s1.enter core k { vec := 16 + p, int := some p, pc := (s1.ctx core k).pc, info := n }).putSource core k n).arrange core) := by
  have hoffers : ((s.arrange core).offersTo core ((s.arrange core).corePri core)).isEmpty = false := by
    rw [← Bool.not_eq_true, List.isEmpty_iff]
    intro hnone
    rw [← State.prepareCtx_corePri _ core k, ← State.prepareCtx_offersTo _ core k] at hnone
    rw [h0, State.bestOffer_none hnone] at hbest
    cases hbest
  have haccept : (s.arrange core).acceptInt core = s0.takeInt core k n p := by
    unfold State.acceptInt
    rw [hok, hoffers, hctx]
    dsimp only
    rw [← h0, hbest]
    rfl
  have htake : s0.takeInt core k n p = ((s1.enter core k { vec := 16 + p, int := some p, pc := (s1.ctx core k).pc, info := n }).putSource core k n).arrange core := by
    unfold State.takeInt
    rw [hlock, hcommit]
  rw [← htake, ← haccept]
  exact congrArg Host.Outcome.next (if_pos ⟨lt, hl⟩)

/-- A source that is taken leaves the memory (R331). -/
theorem State.commitOffer_mem {s t : State} {n i : Nat} (h : s.commitOffer n i = some t) : t.mem = s.mem := by
  unfold State.commitOffer at h
  dsimp only at h
  split at h
  · cases h
    rw [(State.reofferMember_stirs _ i).1]
    rfl
  · cases h

/-- A core that looks at its offers leaves the memory (R284, R329). -/
theorem State.offered_mem (s : State) (core k : Nat) : (((s.arrange core).prepareCtx core k).declineAbsent core k).mem = s.mem := by
  obtain ⟨cs, hcs⟩ := s.arrange_coresOnly core
  have hdecl : Emits ((s.arrange core).prepareCtx core k) _ := State.declineAbsent_emits _ core k (Emits.refl _)
  rw [hdecl, hcs]
  rfl

/-- A context as the handler of an interrupt of a priority finds it (R278, R286). -/
structure Ctx.Entered (c x : Ctx) (p : Nat) (start : Word) : Prop where
  st : x.st = .ready
  depth : x.depth = c.depth + 1
  ints : x.ints = some p :: c.ints
  pc : x.pc = start
  pl : x.pl = 1
  run : x.run = c.run
  left : x.left = c.left

/-- A handler that has started is as it was found, whether it may go on now or not (R278, R287). -/
theorem Ctx.Entered.stands {y : Ctx} {p : Nat} {start : Word} (h : c.Entered x p start) (g : y.StandsAs x) : y.depth = c.depth + 1 ∧
    y.ints = some p :: c.ints ∧ y.pc = start ∧ y.pl = 1 ∧ y.run = c.run ∧ y.left = c.left ∧ y.wp = x.wp := by
  rw [g.same]
  exact ⟨h.depth, h.ints, h.pc, h.pl, h.run, h.left, rfl⟩

theorem State.passCycles_coresOnly (s : State) (core n : Nat) : CoresOnly s (s.passCycles core n) := ⟨_, rfl⟩

/-- An entry writes the TSB and starts the handler; cycles of an interrupt are not charged (R272, R278). -/
theorem State.enter_interrupt {s1 s2 : State} {n p : Nat} {pc : Word} (h2 : s2 = s1.passWait core k) (hheld : (s2.ctx core k).heldW = none) :
    ∃ cs a l, s1.enter core k { vec := 16 + p, int := some p, pc, info := n } = { s2 with cores := cs, mem := Memory.setMany s2.mem a l } ∧
      (s2.ctx core k).Entered ((s1.enter core k { vec := 16 + p, int := some p, pc, info := n }).ctx core k) p (s2.vectorWord core k (16 + p)) := by
  have hcycles : ∀ (u : State) (m : Nat), (u.passCycles core m).ctx core k = u.ctx core k := fun u m => by
    rw [State.passCycles, State.ctx, State.updCore_def, State.core_setCore]
    rfl
  unfold State.enter
  rw [← h2, State.sendHalf_none hheld]
  dsimp only
  obtain ⟨a, l, u, hu⟩ : ∃ a l u, u = s2.store a l ∧ u = s2.store (localBase core + 2 * s2.tsbrSeen core k)
      (wordBytes ((s2.ctx core k).tsb { vec := 16 + p, int := some p, pc, info := n })) := ⟨_, _, _, rfl, rfl⟩
  obtain ⟨hstore, hu⟩ := hu
  rw [← hu]
  have huctx : u.ctx core k = s2.ctx core k := by rw [hu]; rfl
  obtain ⟨cs, hcs⟩ := ((u.updCtx_coresOnly core k _).trans (State.updCtx_coresOnly _ core k _)).trans (State.passCycles_coresOnly _ core 12)
  refine ⟨cs, a, l, hcs.trans (by rw [hstore]; rfl), ?_⟩
  rw [hcycles, State.startHandler, State.ctx_updCtx, State.ctx_updCtx, huctx]
  exact ⟨rfl, rfl, rfl, rfl, rfl, rfl, rfl⟩

theorem runs_interruptAccept {n p : Nat} {s0 s1 s2 : State} (lt : core < 72) (hl : (s.dom core).level = 0) (hok : (s.arrange core).coreOk core = true)
    (hctx : (s.arrange core).intCtx core = some k) (h0 : s0 = ((s.arrange core).prepareCtx core k).declineAbsent core k)
    (hbest : s0.bestOffer core k (s0.corePri core) = some (n, p)) (hlock : s0.entryLock core k (16 + p) = none)
    (hcommit : s0.commitOffer n (memberOfCore core) = some s1) (h2 : s2 = s1.passWait core k) (hheld : (s2.ctx core k).heldW = none) (hm : s.memOk) :
    Runs (.interruptAccept core) s fun t => (t.ctx core k).depth = (s2.ctx core k).depth + 1 ∧ (t.ctx core k).ints = some p :: (s2.ctx core k).ints ∧
      (t.ctx core k).pc = s2.vectorWord core k (16 + p) ∧ (t.ctx core k).pl = 1 ∧ (t.ctx core k).run = (s2.ctx core k).run ∧
      (t.ctx core k).left = (s2.ctx core k).left ∧
      t.wordAt (localBase core + 2 * (wsWord core k + (t.ctx core k).wp.toNat)) = BitVec.ofNat 16 n ∧ t = { s1 with cores := t.cores, mem := t.mem } := by
  have hexec := exec_interruptAccept lt hl hok hctx h0 hbest hlock hcommit
  obtain ⟨cs, a, l, hu, hentered⟩ := State.enter_interrupt (n := n) (p := p) (pc := (s1.ctx core k).pc) h2 hheld
  obtain ⟨u, hudef⟩ : ∃ u, u = s1.enter core k { vec := 16 + p, int := some p, pc := (s1.ctx core k).pc, info := n } := ⟨_, rfl⟩
  rw [← hudef] at hexec hu hentered
  obtain ⟨c2, hc2⟩ := s1.passWait_coresOnly core k
  rw [← h2] at hc2
  have hmem2 : s2.mem = s.mem := by
    have hmem1 : s2.mem = s1.mem := by rw [hc2]
    rw [hmem1, State.commitOffer_mem hcommit, h0, State.offered_mem]
  have humem : u.memOk := by
    rw [hu]
    exact Memory.setMany_wf _ _ _ (hmem2 ▸ hm)
  obtain ⟨b, hb⟩ : ∃ b, b = localBase core + 2 * (wsWord core k + (u.ctx core k).wp.toNat) := ⟨_, rfl⟩
  have hput : u.putSource core k n = u.storeWord b (BitVec.ofNat 16 n) := by
    rw [hb]
    rfl
  rw [hput] at hexec
  have hstands := State.arrange_standsAs (s := u.storeWord b (BitVec.ofNat 16 n)) (Ctx.StandsAs.refl hentered.st)
  obtain ⟨ct, ht⟩ := (u.storeWord b (BitVec.ofNat 16 n)).arrange_coresOnly core
  obtain ⟨t, htdef⟩ : ∃ t, t = (u.storeWord b (BitVec.ofNat 16 n)).arrange core := ⟨_, rfl⟩
  rw [← htdef] at hexec hstands ht
  obtain ⟨hdepth, hints, hpc, hpl, hrun, hleft, hwp⟩ := hentered.stands hstands
  refine ⟨t, hexec, hdepth, hints, hpc, hpl, hrun, hleft, ?_, ?_⟩
  · have hword : t.wordAt b = (u.storeWord b (BitVec.ofNat 16 n)).wordAt b := by
      rw [ht]
      rfl
    rw [hwp, ← hb, hword, State.wordAt_storeWord humem]
  · rw [ht, State.storeWord, State.store, hu, hc2]

/-! ### A context moves (R443) -/

theorem bestCore_mem {l : List Nat} {better : Nat → Nat → Bool} {c : Nat} (h : bestCore l better = some c) : c ∈ l := by
  have key : ∀ (l : List Nat) (b : Option Nat), (l.foldl (fun b c => match b with
      | none => some c
      | some x => if better c x then some c else some x) b = some c) → c ∈ l ∨ b = some c := by
    intro l
    induction l with
    | nil => exact fun b h => .inr h
    | cons a l ih =>
      intro b h
      obtain hl | ha := ih _ h
      · exact .inl (List.mem_cons_of_mem _ hl)
      · cases b with
        | none => exact .inl (List.mem_cons.mpr (.inl (Option.some.inj ha).symm))
        | some x =>
          dsimp only at ha
          split at ha
          · exact .inl (List.mem_cons.mpr (.inl (Option.some.inj ha).symm))
          · exact .inr ha
  exact (key l none h).resolve_right (by simp)

/-- A context moves to another core (R443). -/
theorem State.migrateTo_ne {guar : Bool} {core' k' : Nat} (h : s.migrateTo core guar = some (core', k')) : core' ≠ core := by
  have hpick : ∀ res, ((bestCore (((trowels (tileOfCore core)).filter fun c => c ≠ core && (s.dom c).level == 0).filter fun c => !(s.openCtxs c res).isEmpty)
      fun a b => decide ((s.openCtxs b res).length < (s.openCtxs a res).length)).bind
      fun c => (s.openCtxs c res).head?.map fun k => (c, k)) = some (core', k') → core' ≠ core := by
    intro res hsome
    obtain ⟨c, hbest, hhead⟩ := Option.bind_eq_some_iff.mp hsome
    obtain ⟨j, -, hj⟩ := Option.map_eq_some_iff.mp hhead
    cases hj
    have hmem := (List.mem_filter.mp (List.mem_filter.mp (bestCore_mem hbest)).1).2
    simp only [Bool.and_eq_true, decide_eq_true_eq] at hmem
    exact hmem.1
  unfold State.migrateTo at h
  dsimp only at h
  split at h
  next x hx =>
    cases h
    exact hpick false hx
  next =>
    split at h
    · exact hpick true h
    · cases h

/-- What is done to one core leaves the others. -/
theorem State.passWait_core_ne (s : State) {core j : Nat} (k : Nat) (hj : j ≠ core) : (s.passWait core k).core j = s.core j := by
  have hset : ∀ (u : State) (f : Core → Core), (u.updCore core f).core j = u.core j := fun u f => State.core_setCore_ne u core j _ hj
  unfold State.passWait
  dsimp only
  split
  · exact (hset _ _).trans (hset _ _)
  · exact hset _ _
  · rfl

theorem State.holdCtx_core_ne (s : State) {core j : Nat} (k : Nat) (hj : j ≠ core) : (s.holdCtx core k).core j = s.core j := by
  have hset : ∀ (u : State) (f : Core → Core), (u.updCore core f).core j = u.core j := fun u f => State.core_setCore_ne u core j _ hj
  have hmark : ∀ f, (((s.passWait core k).updCtx core k f).mark core k).core j = s.core j := fun f =>
    (hset _ _).trans ((hset _ _).trans (s.passWait_core_ne k hj))
  unfold State.holdCtx
  dsimp only
  split
  · split
    · exact hmark _
    · rfl
  · split
    · exact hmark _
    · rfl

theorem State.wfeWake_core_ne (s : State) {core j : Nat} (k : Nat) (hj : j ≠ core) : (s.wfeWake core k).core j = s.core j := by
  unfold State.wfeWake
  dsimp only
  split
  · exact (State.core_setCore_ne _ core j _ hj).trans (s.passWait_core_ne k hj)
  · rfl

theorem State.arrange_core_ne (s : State) {core j : Nat} (hj : j ≠ core) : (s.arrange core).core j = s.core j :=
  State.each_induction (P := fun u => u.core j = s.core j) _ rfl fun u k hu =>
    ((State.wfeWake_core_ne _ k hj).trans (u.holdCtx_core_ne k hj)).trans hu

/-- The context is that of c but for what being HELD changes (R287). -/
def Ctx.HeldAs (x c : Ctx) : Prop := x = { c with st := x.st, heldFrom := x.heldFrom, block := x.block, markTime := x.markTime, markCycle := x.markCycle }

/-- A HELD context that waits for nothing goes on, or stays HELD, as its core is arranged once (R287). -/
theorem State.arrange_heldAs (hst : (s.ctx core k).st = .held) (hw : (s.ctx core k).wait = .nothing) : ((s.arrange core).ctx core k).HeldAs (s.ctx core k) := by
  have hstep : ∀ u : State, u.ctx core k = s.ctx core k → (((u.holdCtx core k).wfeWake core k).ctx core k).HeldAs (s.ctx core k) := by
    intro u hu
    have hheld : (u.ctx core k).st = .held := hu ▸ hst
    have hpass : (u.passWait core k).ctx core k = s.ctx core k := (State.passWait_ctx (by rw [hheld]; decide)).trans hu
    have hhold : ((u.holdCtx core k).ctx core k).HeldAs (s.ctx core k) ∧ ((u.holdCtx core k).ctx core k).wait = .nothing := by
      unfold State.holdCtx
      dsimp only
      rw [if_neg (by rw [hheld]; decide)]
      split
      · rw [State.mark, State.ctx_updCtx, State.ctx_updCtx, hpass]
        exact ⟨rfl, hw⟩
      · rw [hu]
        exact ⟨rfl, hw⟩
    obtain ⟨has, hwait⟩ := hhold
    have hwake : (u.holdCtx core k).wfeWake core k = u.holdCtx core k := if_neg fun ⟨_, he, _⟩ => by rw [hwait] at he; cases he
    rw [hwake]
    exact has
  have hkept : ∀ (l : List Nat) (u : State), k ∉ l → (u.each l fun s k => (s.holdCtx core k).wfeWake core k).ctx core k = u.ctx core k := by
    intro l
    induction l with
    | nil => exact fun u _ => rfl
    | cons a l ih =>
      intro u hk
      rw [List.mem_cons, not_or] at hk
      exact (ih _ hk.2).trans ((State.wfeWake_ctx_ne _ core a hk.1).trans (u.holdCtx_ctx_ne core a hk.1))
  by_cases hk : k ∈ List.range (ctxCount core)
  · obtain ⟨l1, l2, hl⟩ := List.append_of_mem hk
    have hnd := List.nodup_range (n := ctxCount core)
    rw [hl, List.nodup_append] at hnd
    obtain ⟨-, hnd2, hdisj⟩ := hnd
    have h1 : k ∉ l1 := fun hm => hdisj k hm k List.mem_cons_self rfl
    have h2 : k ∉ l2 := (List.nodup_cons.mp hnd2).1
    have harr : s.arrange core = ((((s.each l1 fun s k => (s.holdCtx core k).wfeWake core k).holdCtx core k).wfeWake core k).each l2
        fun s k => (s.holdCtx core k).wfeWake core k) := by
      unfold State.arrange
      rw [hl, State.each, List.foldl_append]
      rfl
    rw [harr, hkept l2 _ h2]
    exact hstep _ (hkept l1 s h1)
  · rw [State.arrange, hkept _ s hk]
    exact rfl

/-- What a moved context is on its new core: S0, VTB and TSBR are the target's (R443). -/
def State.movedCtx (s : State) (core k core' k' : Nat) : Ctx :=
  { s.ctx core k with
    segs := (s.ctx core k).segs.set 0 { ((s.ctx core k).segReg 0) with base := BitVec.ofNat 32 (aliasAddr (privWord core' k')) },
    vtb := BitVec.ofNat 16 (vtbWord core'), tsbr := BitVec.ofNat 16 (tsbWord core' k'), stale := [], sres := (s.ctx core' k').sres }

theorem State.movedCtx_s0 (s : State) (core k core' k' : Nat) :
    ((s.movedCtx core k core' k').segReg 0).base = BitVec.ofNat 32 (aliasAddr (privWord core' k')) :=
  congrArg Seg.base (Table.get_set_same _ _ _ _)

/-- The contexts of the two cores once one of them has moved, its area not yet. -/
def State.ctxMoved (s : State) (core k core' k' : Nat) : State :=
  ((s.setCtx core' k' (s.movedCtx core k core' k')).mark core' k').setCtx core k { ({} : Ctx) with sres := (s.ctx core k).sres }

theorem State.moveCtx_run {r : RunInfo} (hr : (s.ctx core k).run = some r) (core' k' : Nat) : s.moveCtx core k core' k' =
    ((s.ctxMoved core k core' k').store (localBase core' + 2 * privWord core' k') (s.bytesAt (localBase core + 2 * privWord core k) 512)).goChan r.ch
      fun x => { x with core := core', ctx := k' } := by
  unfold State.moveCtx
  extract_lets c area c1 s1 s2
  have hrun : c.run = some r := hr
  rw [hrun]
  rfl

theorem State.ctx_setCtx_core_ne (s : State) {core core' : Nat} (k k' : Nat) (c : Ctx) (h : core' ≠ core) : (s.setCtx core k c).ctx core' k' = s.ctx core' k' := by
  unfold State.ctx
  rw [State.setCtx, State.updCore_def, State.core_setCore_ne _ _ _ _ h]

theorem State.ctxMoved_ctx {core' : Nat} (h : core' ≠ core) (k' : Nat) : (s.ctxMoved core k core' k').ctx core k = { ({} : Ctx) with sres := (s.ctx core k).sres } ∧
    ((s.ctxMoved core k core' k').ctx core' k').HeldAs (s.movedCtx core k core' k') ∧
    ((s.ctxMoved core k core' k').ctx core' k').st = (s.ctx core k).st ∧ ((s.ctxMoved core k core' k').ctx core' k').wait = (s.ctx core k).wait := by
  unfold State.ctxMoved
  rw [State.ctx_setCtx, State.ctx_setCtx_core_ne _ _ _ _ h, State.mark, State.ctx_updCtx, State.ctx_setCtx]
  exact ⟨rfl, rfl, rfl, rfl⟩

theorem Ctx.HeldAs.trans {x y c : Ctx} (h : x.HeldAs y) (g : y.HeldAs c) : x.HeldAs c := by
  unfold Ctx.HeldAs at *
  rw [g] at h
  exact h

theorem exec_contextMigrate {r : RunInfo} {core' k' : Nat} (hr : (s.ctx core k).run = some r) (lt : core < 64) (hd : s.die = .ready)
    (hf : s.frozen core = true) (hlock : s.locked core = false) (hst : (s.ctx core k).st = .held) (hdepth : (s.ctx core k).depth = 0)
    (hb : (s.ctx core k).atBoundary = true) (hto : s.migrateTo core (decide (s.kindOf r.cls = 2)) = some (core', k')) :
    exec (.contextMigrate core k) s = .next (((s.moveCtx core k core' k').arrange core').arrange core).served := by
  have hguar : (s.kindOf r.cls == 2) = decide (s.kindOf r.cls = 2) := rfl
  show execContextMigrate core k s = _
  unfold execContextMigrate
  dsimp only
  rw [hr]
  dsimp only
  rw [if_neg (by rw [hd, hf, hlock, hst, hdepth, hb]; simp; omega), hguar, hto]

/-- A context that has moved goes on from where it stood, with S0 at its new area (R443). -/
theorem Ctx.HeldAs.moved {core' k' : Nat} (h : x.HeldAs (s.movedCtx core k core' k')) : x.run = (s.ctx core k).run ∧ x.pc = (s.ctx core k).pc ∧
    x.left = (s.ctx core k).left ∧ x.wp = (s.ctx core k).wp ∧ (x.segReg 0).base = BitVec.ofNat 32 (aliasAddr (privWord core' k')) := by
  rw [h]
  exact ⟨rfl, rfl, rfl, rfl, s.movedCtx_s0 core k core' k'⟩

theorem State.bytesAt_length (s : State) (a n : Nat) : (s.bytesAt a n).length = n := by simp [State.bytesAt, Memory.getMany]

/-- The memory once the own area of a context has moved (R443). -/
def State.areaMoved (s : State) (core k core' k' : Nat) : State :=
  s.store (localBase core' + 2 * privWord core' k') (s.bytesAt (localBase core + 2 * privWord core k) 512)

theorem State.areaMoved_bytes {core' k' : Nat} (hm : s.memOk) :
    (s.areaMoved core k core' k').bytesAt (localBase core' + 2 * privWord core' k') 512 = s.bytesAt (localBase core + 2 * privWord core k) 512 := by
  have h := State.bytesAt_store hm (localBase core' + 2 * privWord core' k') (s.bytesAt (localBase core + 2 * privWord core k) 512)
  rwa [State.bytesAt_length] at h

/-- Bytes that are stored change the memory where they stand. -/
theorem State.store_memOnly (s : State) (a : Nat) (l : List Byte) : MemOnly s (s.store a l) a l.length := fun b hb => Memory.get_setMany_out s.mem a b l hb

theorem State.areaMoved_memOnly (s : State) (core k core' k' : Nat) : MemOnly s (s.areaMoved core k core' k') (localBase core' + 2 * privWord core' k') 512 := by
  have h := s.store_memOnly (localBase core' + 2 * privWord core' k') (s.bytesAt (localBase core + 2 * privWord core k) 512)
  rwa [State.bytesAt_length] at h

/-- The channel of a RUN whose context has moved (R443). -/
def Chan.movedTo (c : Chan) (core' k' : Nat) : Chan := { c with core := core', ctx := k' }

/-- What a move leaves: the area at its new place, the channel's RUN there, and the contexts of the two cores (R443). -/
theorem State.moveCtx_leaves {r : RunInfo} (hr : (s.ctx core k).run = some r) (core' k' : Nat) :
    WorkedOn s (s.areaMoved core k core' k').mem (s.moveCtx core k core' k') r.ch ((s.chan r.ch).movedTo core' k') s.hawk.waits ∧
      ∀ c j, (s.moveCtx core k core' k').ctx c j = (s.ctxMoved core k core' k').ctx c j := by
  obtain ⟨l, hl⟩ : ∃ l, l = s.bytesAt (localBase core + 2 * privWord core k) 512 := ⟨_, rfl⟩
  rw [State.moveCtx_run hr, State.areaMoved, ← hl]
  have hcores : CoresOnly s (s.ctxMoved core k core' k') := ⟨_, rfl⟩
  have hwork := ((Worked.refl s r.ch).on.cores hcores).store (localBase core' + 2 * privWord core' k') l
  obtain ⟨hgone, hgocores⟩ := hwork.lift fun _ h => h.goChan (·.movedTo core' k')
  exact ⟨hgone, State.ctx_congr hgocores⟩

theorem runs_contextMigrate {r : RunInfo} {core' k' : Nat} (hr : (s.ctx core k).run = some r) (lt : core < 64) (hd : s.die = .ready)
    (hf : s.frozen core = true) (hlock : s.locked core = false) (hst : (s.ctx core k).st = .held) (hdepth : (s.ctx core k).depth = 0)
    (hb : (s.ctx core k).atBoundary = true) (hw : (s.ctx core k).wait = .nothing)
    (hto : s.migrateTo core (decide (s.kindOf r.cls = 2)) = some (core', k')) (hn : s.noneWait) (hm : s.memOk) :
    Runs (.contextMigrate core k) s fun t => (t.ctx core' k').run = some r ∧ (t.ctx core' k').pc = (s.ctx core k).pc ∧
      (t.ctx core' k').left = (s.ctx core k).left ∧ (t.ctx core' k').wp = (s.ctx core k).wp ∧
      ((t.ctx core' k').segReg 0).base = BitVec.ofNat 32 (aliasAddr (privWord core' k')) ∧ (t.ctx core k).st = .free ∧ (t.ctx core k).run = none ∧
      t.bytesAt (localBase core' + 2 * privWord core' k') 512 = s.bytesAt (localBase core + 2 * privWord core k) 512 ∧
      MemOnly s t (localBase core' + 2 * privWord core' k') 512 ∧ (t.chan r.ch).core = core' ∧ (t.chan r.ch).ctx = k' ∧
      ProgramOf { s with cores := t.cores, mem := t.mem } t r.ch := by
  have hne : core' ≠ core := State.migrateTo_ne hto
  have hexec := exec_contextMigrate hr lt hd hf hlock hst hdepth hb hto
  obtain ⟨hmoved, hvctx⟩ := State.moveCtx_leaves hr core' k'
  obtain ⟨hfree, has, hust, huwait⟩ := State.ctxMoved_ctx (s := s) (core := core) (k := k) hne k'
  obtain ⟨v, hv⟩ : ∃ v, v = s.moveCtx core k core' k' := ⟨_, rfl⟩
  rw [← hv] at hexec hmoved hvctx
  rw [← hvctx] at hfree has hust huwait
  obtain ⟨t, ht⟩ : ∃ t, t = (v.arrange core').arrange core := ⟨_, rfl⟩
  have hdone := (hmoved.cores (v.arrange_coresOnly core')).cores ((v.arrange core').arrange_coresOnly core)
  rw [← ht, hn.1] at hdone
  have hserved : t.served = t := State.served_of_noneWait (hdone.noneWait hn (s.chan_noLedgerWait hn r.ch))
  rw [← ht, hserved] at hexec
  have htarget : (t.ctx core' k').HeldAs (s.movedCtx core k core' k') := by
    have hsame : t.ctx core' k' = (v.arrange core').ctx core' k' := by
      rw [ht, State.ctx, State.arrange_core_ne _ hne]
      rfl
    rw [hsame]
    exact (State.arrange_heldAs (hust.trans hst) (huwait.trans hw)).trans has
  have hsource : t.ctx core k = { ({} : Ctx) with sres := (s.ctx core k).sres } := by
    rw [ht]
    refine State.arrange_free rfl ?_
    rw [State.ctx, State.arrange_core_ne _ hne.symm]
    exact hfree
  obtain ⟨hrun, hpc, hleft, hwp, hbase⟩ := htarget.moved
  have hmem : t.mem = (s.areaMoved core k core' k').mem := hdone.mem
  have hprog := hdone.prog
  rw [← hmem] at hprog
  refine ⟨t, hexec, hrun.trans hr, hpc, hleft, hwp, hbase, by rw [hsource], by rw [hsource], ?_, fun b hb => ?_, by rw [hdone.chan]; rfl,
    by rw [hdone.chan]; rfl, hprog⟩
  · rw [← State.areaMoved_bytes hm]
    exact State.bytesAt_congr fun b _ _ => by rw [hmem]
  · rw [hmem]
    exact s.areaMoved_memOnly core k core' k' b hb

end Arranged

/-- Settles O55, row by row. -/
theorem coreEvents : Obligations.CoreEvents := by
  intro s core k
  exact ⟨fun cycles hst hw hd => runs_coreReadComplete hst hw hd,
    fun n p s0 s1 s2 lt _ hl hok hctx h0 hbest hlock hcommit h2 hheld hm => runs_interruptAccept lt hl hok hctx h0 hbest hlock hcommit h2 hheld hm,
    fun lt hlock hout hd hn hp hfew => runs_coreRecovers lt hlock hout hd hn hp hfew,
    fun ok lt hlock hout hd hn hbad => runs_coreRecoveryFails lt hlock hout hd hn hbad,
    fun tile ch f l ht hlock hd hf hlate _ _ hin hq hall => runs_corniceLockTimeout ht hlock hd hf hlate hin hq hall,
    fun r core' k' hr lt hd hf hlock hst hdepth hb hw hto hn hm => runs_contextMigrate hr lt hd hf hlock hst hdepth hb hw hto hn hm⟩

end Sys2Proof.Machine
end
